-- ==== Sys2Proof/Word.lean ====
section
/-! DEFINITION. The words of the machine: the widths that R2, R6, R47, R226 name, and nothing else. -/

namespace Sys2Proof

/-- One byte of memory (R6). -/
abbrev Byte := BitVec 8

/-- A 32-bit S-word, a Trelix word, a lane element (R47, R362, R2). -/
abbrev Word32 := BitVec 32

/-- A scalar register, an address, a program counter (R2, R29). -/
abbrev Word64 := BitVec 64

/-- A 96-bit L-word, parcel 0 in the high bits (R47, R51). -/
abbrev LWord := BitVec 96

/-- One 128-byte line, byte i in bits [8i+7:8i]. -/
abbrev Line := BitVec 1024

/-- The number of bits 1 in a mask. -/
def popCount {n : Nat} (x : BitVec n) : Nat :=
  (List.finRange n).foldl (fun k i => if x.getLsb i then k + 1 else k) 0

/-- The set bits of a mask, in ascending order (the pseudocode's `lanes(m)`). -/
def bitsOf {n : Nat} (x : BitVec n) : List Nat :=
  (List.range n).filter (fun i => x.getLsbD i)

/-- The mask whose set bits are the listed numbers below `n`. -/
def maskOf (n : Nat) (l : List Nat) : BitVec n :=
  l.foldl (fun m i => m ||| BitVec.ofNat n (2 ^ i)) 0

end Sys2Proof
end

