-- ==== Sys2Proof/Syntax.lean ====
section
/-! DEFINITION. The instruction set: one constructor for each row of the opcode table, in its order. S-words and L-words
carry the fields of their encodings. Trelix words, packets, register writes and machine events are named by their row;
what they name beside it (the fields of the Trelix word, the packet's bytes, the piece of work an event is about) stands
in `TFields` below and in the state's record of the current step (`Cur` of Machine/State.lean). -/

namespace Sys2Proof

/-- The fields of an L-word other than `op` (R51), names as the manual has them. -/
structure LFields where
  vd : BitVec 8
  va : BitVec 8
  vb : BitVec 8
  vc : BitVec 8
  bcls : BitVec 2
  ccls : BitVec 2
  /-- bit 2 governs a, bit 1 governs b, bit 0 governs c (R45) -/
  fe : BitVec 3
  fs : BitVec 3
  rm : BitVec 3
  ty : BitVec 4
  sdst : BitVec 6
  mod : BitVec 1
  /-- parcel 2 -/
  p2 : BitVec 32
  deriving DecidableEq, Repr

/-- The fields of a Trelix word (R365): [25:21], [20:16], [15:11], [10:0]. An immediate format reads [15:0] or [20:0]. -/
structure TFields where
  x : BitVec 5
  a : BitVec 5
  b : BitVec 5
  low : BitVec 11
  deriving DecidableEq, Repr

/-- [15:0] of a Trelix word. -/
def tfImm16 (t : TFields) : BitVec 16 := t.b ++ t.low
/-- [20:0] of a Trelix word. -/
def tfImm21 (t : TFields) : BitVec 21 := t.a ++ t.b ++ t.low

/-- The instructions, one constructor for each row of the opcode table, in its order. -/
inductive Instr where
  -- S-words (R58 to R60)
  /-- Scalar add of two registers modulo 2^64. (R119) -/
  | add (d : BitVec 6) (a : BitVec 6) (b : BitVec 6)
  /-- Scalar subtract modulo 2^64. (R119) -/
  | sub (d : BitVec 6) (a : BitVec 6) (b : BitVec 6)
  /-- Scalar multiply, low 64 bits. (R119) -/
  | mul (d : BitVec 6) (a : BitVec 6) (b : BitVec 6)
  /-- Signed high half of the 128-bit product. (R119) -/
  | mulh (d : BitVec 6) (a : BitVec 6) (b : BitVec 6)
  /-- Natural high half of the 128-bit product. (R119) -/
  | mulhn (d : BitVec 6) (a : BitVec 6) (b : BitVec 6)
  /-- Signed division truncating toward zero, no trap. (R120) -/
  | div (d : BitVec 6) (a : BitVec 6) (b : BitVec 6)
  /-- Natural division, no trap. (R120) -/
  | divn (d : BitVec 6) (a : BitVec 6) (b : BitVec 6)
  /-- Signed remainder carrying the dividend's sign. (R120) -/
  | rem (d : BitVec 6) (a : BitVec 6) (b : BitVec 6)
  /-- Natural remainder. (R120) -/
  | remn (d : BitVec 6) (a : BitVec 6) (b : BitVec 6)
  /-- Bitwise AND. (R119) -/
  | and (d : BitVec 6) (a : BitVec 6) (b : BitVec 6)
  /-- Bitwise OR. (R119) -/
  | or (d : BitVec 6) (a : BitVec 6) (b : BitVec 6)
  /-- Bitwise XOR. (R119) -/
  | xor (d : BitVec 6) (a : BitVec 6) (b : BitVec 6)
  /-- x AND NOT y. (R119) -/
  | andn (d : BitVec 6) (a : BitVec 6) (b : BitVec 6)
  /-- x OR NOT y. (R119) -/
  | orn (d : BitVec 6) (a : BitVec 6) (b : BitVec 6)
  /-- Shift left by y mod 64. (R119) -/
  | sll (d : BitVec 6) (a : BitVec 6) (b : BitVec 6)
  /-- Logical shift right by y mod 64. (R119) -/
  | srl (d : BitVec 6) (a : BitVec 6) (b : BitVec 6)
  /-- Arithmetic shift right by y mod 64. (R119) -/
  | sra (d : BitVec 6) (a : BitVec 6) (b : BitVec 6)
  /-- Rotate left by y mod 64. (R119) -/
  | rotl (d : BitVec 6) (a : BitVec 6) (b : BitVec 6)
  /-- Rotate right by y mod 64. (R119) -/
  | rotr (d : BitVec 6) (a : BitVec 6) (b : BitVec 6)
  /-- Signed minimum. (R119) -/
  | min (d : BitVec 6) (a : BitVec 6) (b : BitVec 6)
  /-- Signed maximum. (R119) -/
  | max (d : BitVec 6) (a : BitVec 6) (b : BitVec 6)
  /-- Natural minimum. (R119) -/
  | minn (d : BitVec 6) (a : BitVec 6) (b : BitVec 6)
  /-- Natural maximum. (R119) -/
  | maxn (d : BitVec 6) (a : BitVec 6) (b : BitVec 6)
  /-- Count leading zeros, 64 for zero. (R119) -/
  | clz (d : BitVec 6) (a : BitVec 6)
  /-- Count trailing zeros, 64 for zero. (R119) -/
  | ctz (d : BitVec 6) (a : BitVec 6)
  /-- Population count. (R119) -/
  | popc (d : BitVec 6) (a : BitVec 6)
  /-- Sign-extend bits 7:0. (R119) -/
  | sextI8 (d : BitVec 6) (a : BitVec 6)
  /-- Sign-extend bits 15:0. (R119) -/
  | sextI16 (d : BitVec 6) (a : BitVec 6)
  /-- Sign-extend bits 31:0. (R119) -/
  | sextI32 (d : BitVec 6) (a : BitVec 6)
  /-- Zero-extend bits 7:0. (R119) -/
  | zextN8 (d : BitVec 6) (a : BitVec 6)
  /-- Zero-extend bits 15:0. (R119) -/
  | zextN16 (d : BitVec 6) (a : BitVec 6)
  /-- Zero-extend bits 31:0. (R119) -/
  | zextN32 (d : BitVec 6) (a : BitVec 6)
  /-- Set 1 if equal, else 0. (R121) -/
  | seq (d : BitVec 6) (a : BitVec 6) (b : BitVec 6)
  /-- Set 1 if not equal. (R121) -/
  | sne (d : BitVec 6) (a : BitVec 6) (b : BitVec 6)
  /-- Set 1 if signed less. (R121) -/
  | slt (d : BitVec 6) (a : BitVec 6) (b : BitVec 6)
  /-- Set 1 if signed greater or equal. (R121) -/
  | sge (d : BitVec 6) (a : BitVec 6) (b : BitVec 6)
  /-- Set 1 if natural less. (R121) -/
  | sltn (d : BitVec 6) (a : BitVec 6) (b : BitVec 6)
  /-- Set 1 if natural greater or equal. (R121) -/
  | sgen (d : BitVec 6) (a : BitVec 6) (b : BitVec 6)
  /-- Add sign-extended 14-bit immediate. (R122) -/
  | addi (d : BitVec 6) (a : BitVec 6) (imm : BitVec 14)
  /-- AND with zero-extended immediate. (R122) -/
  | andi (d : BitVec 6) (a : BitVec 6) (imm : BitVec 14)
  /-- OR with zero-extended immediate. (R122) -/
  | ori (d : BitVec 6) (a : BitVec 6) (imm : BitVec 14)
  /-- XOR with zero-extended immediate. (R122) -/
  | xori (d : BitVec 6) (a : BitVec 6) (imm : BitVec 14)
  /-- Shift left by immediate amount. (R123) -/
  | slli (d : BitVec 6) (a : BitVec 6) (n : BitVec 6)
  /-- Logical shift right by immediate amount. (R123) -/
  | srli (d : BitVec 6) (a : BitVec 6) (n : BitVec 6)
  /-- Arithmetic shift right by immediate amount. (R123) -/
  | srai (d : BitVec 6) (a : BitVec 6) (n : BitVec 6)
  /-- Rotate left by immediate amount. (R123) -/
  | rotli (d : BitVec 6) (a : BitVec 6) (n : BitVec 6)
  /-- Shift left 14 and insert immediate. (R122) -/
  | slin (d : BitVec 6) (a : BitVec 6) (imm : BitVec 14)
  /-- Set 1 if signed less than immediate. (R122) -/
  | slti (d : BitVec 6) (a : BitVec 6) (imm : BitVec 14)
  /-- Set 1 if natural less than immediate. (R122) -/
  | sltni (d : BitVec 6) (a : BitVec 6) (imm : BitVec 14)
  /-- Set 1 if equal to immediate. (R122) -/
  | seqi (d : BitVec 6) (a : BitVec 6) (imm : BitVec 14)
  /-- Scalar 8-byte load at register plus offset; marks sd empty until fill. (R124) -/
  | ldB64 (d : BitVec 6) (a : BitVec 6) (imm : BitVec 14)
  /-- Scalar 4-byte zero-extending load. (R124) -/
  | ldN32 (d : BitVec 6) (a : BitVec 6) (imm : BitVec 14)
  /-- Scalar 8-byte store performed at commit. (R124) -/
  | stB64 (d : BitVec 6) (a : BitVec 6) (imm : BitVec 14)
  /-- Scalar 4-byte store of the low half. (R124) -/
  | stB32 (d : BitVec 6) (a : BitVec 6) (imm : BitVec 14)
  /-- Plain indexed scalar load of chosen width and extension. (R124) -/
  | ldIndexed (d : BitVec 6) (a : BitVec 6) (b : BitVec 6) (w : BitVec 2) (e : BitVec 1)
  /-- Indexed consuming scalar load, one consuming access to its line. (R125) -/
  | ldCons (d : BitVec 6) (a : BitVec 6) (b : BitVec 6) (w : BitVec 2) (e : BitVec 1)
  /-- Indexed uncached scalar load read at the home or expander. (R124) -/
  | ldUnc (d : BitVec 6) (a : BitVec 6) (b : BitVec 6) (w : BitVec 2) (e : BitVec 1)
  /-- Scalar counted-fill load with reader count from S[sb]. (R125) -/
  | ldReaders (d : BitVec 6) (a : BitVec 6) (b : BitVec 6) (w : BitVec 2) (e : BitVec 1)
  /-- Plain indexed scalar store. (R124) -/
  | stIndexed (d : BitVec 6) (a : BitVec 6) (b : BitVec 6) (w : BitVec 2)
  /-- Indexed uncached scalar store performed at the home or expander. (R124) -/
  | stUnc (d : BitVec 6) (a : BitVec 6) (b : BitVec 6) (w : BitVec 2)
  /-- Remove two words from a FIFO bank into a scalar register. (R127) -/
  | pop (d : BitVec 6) (k : BitVec 5)
  /-- Append a scalar register as two words to a FIFO bank. (R127) -/
  | push (a : BitVec 6) (k : BitVec 5)
  /-- End the counted life of every line in a range. (R128) -/
  | dropc (a : BitVec 6) (b : BitVec 6)
  /-- Branch if register is zero. (R129) -/
  | beqz (a : BitVec 6) (imm : BitVec 16)
  /-- Branch if register is non-zero. (R129) -/
  | bnez (a : BitVec 6) (imm : BitVec 16)
  /-- Branch if signed negative. (R129) -/
  | bltz (a : BitVec 6) (imm : BitVec 16)
  /-- Branch if signed non-negative. (R129) -/
  | bgez (a : BitVec 6) (imm : BitVec 16)
  /-- Branch if signed positive. (R129) -/
  | bgtz (a : BitVec 6) (imm : BitVec 16)
  /-- Branch if signed non-positive. (R129) -/
  | blez (a : BitVec 6) (imm : BitVec 16)
  /-- Branch if mask AND am is zero. (R129) -/
  | bmz (a : BitVec 6) (imm : BitVec 16)
  /-- Branch if mask AND am is non-zero. (R129) -/
  | bmnz (a : BitVec 6) (imm : BitVec 16)
  /-- PC-relative jump. (R130) -/
  | jmp (imm : BitVec 26)
  /-- PC-relative call pushing the return PC. (R130) -/
  | call (imm : BitVec 26)
  /-- Jump to register target. (R130) -/
  | jmpRegister (a : BitVec 6)
  /-- Call a register target. (R130) -/
  | callRegister (a : BitVec 6)
  /-- Pop the return stack and continue there. (R131) -/
  | ret
  /-- Arrive-and-drop every live lane, clear live and am, retire the span. (R132) -/
  | sexit
  /-- Enqueue a block of L-words at an immediate offset. (R135) -/
  | lrun (n : BitVec 8) (o : BitVec 18)
  /-- Enqueue a block of L-words at a register offset. (R135) -/
  | lrunRegister (a : BitVec 6) (n : BitVec 8)
  /-- Check and enqueue a planed block. (R136) -/
  | lrunp (a : BitVec 6) (b : BitVec 6) (n : BitVec 8)
  /-- Push am and mask, narrow am. (R133) -/
  | mpush (a : BitVec 6)
  /-- Set am to saved AND NOT mask of the top entry. (R133) -/
  | melse
  /-- Restore am from the top entry and pop. (R133) -/
  | mpop
  /-- Write am, ANDed with live. (R133) -/
  | mset (a : BitVec 6)
  /-- Read am into a scalar register. (R133) -/
  | mget (d : BitVec 6)
  /-- Read live into a scalar register. (R133) -/
  | lget (d : BitVec 6)
  /-- Set every lane's plane to k. (R134) -/
  | plall (k : BitVec 2)
  /-- Mask of live lanes in plane k. (R134) -/
  | plmask (d : BitVec 6) (k : BitVec 2)
  /-- Read the plane numbers. (R134) -/
  | plget (d : BitVec 6)
  /-- Commit a memory-to-memory copy into a copy queue. (R187) -/
  | copy (m : BitVec 2) (a : BitVec 6) (b : BitVec 6) (c : BitVec 6) (q : BitVec 2)
  /-- Commit a copy into a claimed slot part. (R186) -/
  | copySlot (m : BitVec 2) (a : BitVec 6) (b : BitVec 6) (c : BitVec 6) (q : BitVec 2)
  /-- Commit a copy whose destination lines are filled counted. (R188) -/
  | copyReaders (m : BitVec 2) (a : BitVec 6) (b : BitVec 6) (c : BitVec 6) (q : BitVec 2)
  /-- Commit a matrix multiply-accumulate into queue 4, counting its slot reads. (R182) -/
  | mma (n : BitVec 2) (k : BitVec 3) (a : BitVec 6) (z : BitVec 1) (p : BitVec 1) (sa : BitVec 4) (r : BitVec 1) (t : BitVec 4)
  /-- Commit an mma placed in a copy queue. (R182) -/
  | mmaVia (n : BitVec 2) (k : BitVec 3) (a : BitVec 6) (z : BitVec 1) (p : BitVec 1) (sa : BitVec 4) (r : BitVec 1) (t : BitVec 4) (q : BitVec 2)
  /-- Commit an accumulator store through a format slot. (R183) -/
  | acst (n : BitVec 2) (k : BitVec 3) (a : BitVec 6) (b : BitVec 6) (c : BitVec 6)
  /-- Claim a slot with a reader count. (R178) -/
  | tclaim (slot : BitVec 4) (r : BitVec 8)
  /-- Release a claimed slot after its commands are done. (R178) -/
  | trel (slot : BitVec 4)
  /-- Place markers ordering the named queues. (R189) -/
  | qfence (m : BitVec 6)
  /-- Commit a reduce-scatter collective entry. (R349) -/
  | collRs (a : BitVec 6) (slot : BitVec 4) (c : BitVec 6)
  /-- Commit an all-gather collective entry. (R349) -/
  | collAg (a : BitVec 6) (slot : BitVec 4) (c : BitVec 6)
  /-- Commit an all-reduce collective entry. (R349) -/
  | collAr (a : BitVec 6) (slot : BitVec 4) (c : BitVec 6)
  /-- Commit a broadcast collective entry. (R349) -/
  | collBc (a : BitVec 6) (slot : BitVec 4) (c : BitVec 6)
  /-- Check and append a continuation record to a ring, returning a status. (R287) -/
  | cpush (d : BitVec 6) (a : BitVec 6) (p : BitVec 3)
  /-- Initialise a barrier image. (R192) -/
  | barinit (d : BitVec 6) (a : BitVec 6) (b : BitVec 6)
  /-- Register the active lanes at a barrier. (R194) -/
  | barreg (a : BitVec 6)
  /-- Arrive with the active lanes. (R192) -/
  | bararr (a : BitVec 6)
  /-- Raise the expected bytes of the current phase. (R192) -/
  | barexp (a : BitVec 6) (b : BitVec 6)
  /-- Arrive-and-drop the active lanes. (R195) -/
  | bardrop (a : BitVec 6)
  /-- Wait for a barrier phase with an optional cycle limit. (R193) -/
  | barwait (d : BitVec 6) (a : BitVec 6) (b : BitVec 6) (l : BitVec 8)
  /-- Read a sync object's version as an acquire. (R269) -/
  | acq (d : BitVec 6) (a : BitVec 6) (scope : BitVec 3)
  /-- Release a sync object, raising its version via a marker. (R270) -/
  | rel (a : BitVec 6) (scope : BitVec 3)
  /-- Add or remove a dynamic region binding. (R272) -/
  | rbind (d : BitVec 6) (a : BitVec 6) (b : BitVec 6)
  /-- Order the span's accesses at a scope. (R255) -/
  | fence (scope : BitVec 3)
  /-- 32-bit atomic add at the home. (R263) -/
  | atomB32Add (d : BitVec 6) (a : BitVec 6) (b : BitVec 6) (o : BitVec 4)
  /-- 32-bit atomic signed min. (R263) -/
  | atomB32Min (d : BitVec 6) (a : BitVec 6) (b : BitVec 6) (o : BitVec 4)
  /-- 32-bit atomic signed max. (R263) -/
  | atomB32Max (d : BitVec 6) (a : BitVec 6) (b : BitVec 6) (o : BitVec 4)
  /-- 32-bit atomic natural min. (R263) -/
  | atomB32Minn (d : BitVec 6) (a : BitVec 6) (b : BitVec 6) (o : BitVec 4)
  /-- 32-bit atomic natural max. (R263) -/
  | atomB32Maxn (d : BitVec 6) (a : BitVec 6) (b : BitVec 6) (o : BitVec 4)
  /-- 32-bit atomic AND. (R263) -/
  | atomB32And (d : BitVec 6) (a : BitVec 6) (b : BitVec 6) (o : BitVec 4)
  /-- 32-bit atomic OR. (R263) -/
  | atomB32Or (d : BitVec 6) (a : BitVec 6) (b : BitVec 6) (o : BitVec 4)
  /-- 32-bit atomic XOR. (R263) -/
  | atomB32Xor (d : BitVec 6) (a : BitVec 6) (b : BitVec 6) (o : BitVec 4)
  /-- 32-bit atomic exchange. (R263) -/
  | atomB32Xchg (d : BitVec 6) (a : BitVec 6) (b : BitVec 6) (o : BitVec 4)
  /-- 32-bit atomic compare-and-swap. (R263) -/
  | atomB32Cas (d : BitVec 6) (a : BitVec 6) (b : BitVec 6) (o : BitVec 4)
  /-- 32-bit atomic FP32 add rounded RNE. (R263) -/
  | atomB32Fadd (d : BitVec 6) (a : BitVec 6) (b : BitVec 6) (o : BitVec 4)
  /-- 32-bit atomic add of two BF16 halves. (R263) -/
  | atomB32Bf16x2add (d : BitVec 6) (a : BitVec 6) (b : BitVec 6) (o : BitVec 4)
  /-- 64-bit atomic add. (R263) -/
  | atomN64Add (d : BitVec 6) (a : BitVec 6) (b : BitVec 6) (o : BitVec 4)
  /-- 64-bit atomic signed min. (R263) -/
  | atomN64Min (d : BitVec 6) (a : BitVec 6) (b : BitVec 6) (o : BitVec 4)
  /-- 64-bit atomic signed max. (R263) -/
  | atomN64Max (d : BitVec 6) (a : BitVec 6) (b : BitVec 6) (o : BitVec 4)
  /-- 64-bit atomic natural min. (R263) -/
  | atomN64Minn (d : BitVec 6) (a : BitVec 6) (b : BitVec 6) (o : BitVec 4)
  /-- 64-bit atomic natural max. (R263) -/
  | atomN64Maxn (d : BitVec 6) (a : BitVec 6) (b : BitVec 6) (o : BitVec 4)
  /-- 64-bit atomic AND. (R263) -/
  | atomN64And (d : BitVec 6) (a : BitVec 6) (b : BitVec 6) (o : BitVec 4)
  /-- 64-bit atomic OR. (R263) -/
  | atomN64Or (d : BitVec 6) (a : BitVec 6) (b : BitVec 6) (o : BitVec 4)
  /-- 64-bit atomic XOR. (R263) -/
  | atomN64Xor (d : BitVec 6) (a : BitVec 6) (b : BitVec 6) (o : BitVec 4)
  /-- 64-bit atomic exchange. (R263) -/
  | atomN64Xchg (d : BitVec 6) (a : BitVec 6) (b : BitVec 6) (o : BitVec 4)
  /-- 64-bit atomic compare-and-swap. (R263) -/
  | atomN64Cas (d : BitVec 6) (a : BitVec 6) (b : BitVec 6) (o : BitVec 4)
  /-- Send a vector contribution to a mesh reduction. (R274) -/
  | rsend (a : BitVec 6) (v : BitVec 8)
  /-- Read a system register into a scalar register. (R141) -/
  | sysrd (a : BitVec 6) (n : BitVec 14)
  /-- syswr to STEP arms single-step for the next tret. (R202) -/
  | step (a : BitVec 6)
  /-- syswr to UNDOMARK adds a marker entry to the undo log in debug mode. (R201) -/
  | undomark (a : BitVec 6)
  /-- syswr to BKMODE switches an owned bank's mode at its switch point. (R167) -/
  | bkmode (a : BitVec 6)
  /-- Trap BREAK at commit. (R142) -/
  | brk (c : BitVec 14)
  /-- Return from a trap handler according to the frame's action. (R200) -/
  | tret
  /-- No operation. (R142) -/
  | nop
  /-- Read one histogram bin. (R138) -/
  | hrd (d : BitVec 6) (b : BitVec 6) (t : BitVec 3)
  /-- Clear a histogram table and set its bias. (R139) -/
  | hclr (a : BitVec 6) (t : BitVec 3)
  -- L-words (R61, R62)
  /-- Lane integer add. (R73) -/
  | vadd (x : LFields)
  /-- Lane integer subtract. (R73) -/
  | vsub (x : LFields)
  /-- Lane saturating add. (R73) -/
  | vadds (x : LFields)
  /-- Lane saturating subtract. (R73) -/
  | vsubs (x : LFields)
  /-- Lane integer multiply. (R73) -/
  | vmul (x : LFields)
  /-- Lane high half of product. (R73) -/
  | vmulh (x : LFields)
  /-- Lane multiply-add with one wrap. (R73) -/
  | vmad (x : LFields)
  /-- Lane integer division. (R74) -/
  | vdiv (x : LFields)
  /-- Lane integer remainder. (R74) -/
  | vrem (x : LFields)
  /-- Lane integer minimum. (R73) -/
  | vmin (x : LFields)
  /-- Lane integer maximum. (R73) -/
  | vmax (x : LFields)
  /-- Lane absolute value. (R73) -/
  | vabs (x : LFields)
  /-- Lane absolute difference. (R73) -/
  | vabsd (x : LFields)
  /-- Lane AND. (R75) -/
  | vand (x : LFields)
  /-- Lane OR. (R75) -/
  | vor (x : LFields)
  /-- Lane XOR. (R75) -/
  | vxor (x : LFields)
  /-- Lane AND NOT. (R75) -/
  | vandn (x : LFields)
  /-- Lane NOT. (R75) -/
  | vnot (x : LFields)
  /-- Lane bitwise select. (R75) -/
  | vsel (x : LFields)
  /-- Lane shift left. (R76) -/
  | vshl (x : LFields)
  /-- Lane shift right by type. (R76) -/
  | vshr (x : LFields)
  /-- Lane rotate left. (R76) -/
  | vrotl (x : LFields)
  /-- Lane count leading zeros. (R76) -/
  | vclz (x : LFields)
  /-- Lane population count. (R76) -/
  | vpopc (x : LFields)
  /-- Lane bit reverse. (R76) -/
  | vbrev (x : LFields)
  /-- Lane equal compare into a scalar mask. (R78) -/
  | vceq (x : LFields)
  /-- Lane not-equal compare. (R78) -/
  | vcne (x : LFields)
  /-- Lane less-than compare. (R78) -/
  | vclt (x : LFields)
  /-- Lane less-or-equal compare. (R78) -/
  | vcle (x : LFields)
  /-- Lane greater-than compare. (R78) -/
  | vcgt (x : LFields)
  /-- Lane greater-or-equal compare. (R78) -/
  | vcge (x : LFields)
  /-- Lane move keeping all bits. (R77) -/
  | vmov (x : LFields)
  /-- Write each lane's index. (R77) -/
  | vlane (x : LFields)
  /-- Write each lane's launch-global lane number into a pair. (R77) -/
  | vgid (x : LFields)
  /-- Lane FP add rounded once. (R80) -/
  | vfadd (x : LFields)
  /-- Lane FP subtract. (R80) -/
  | vfsub (x : LFields)
  /-- Lane FP multiply. (R80) -/
  | vfmul (x : LFields)
  /-- Lane fused multiply-add. (R80) -/
  | vfma (x : LFields)
  /-- Lane fused multiply-subtract. (R80) -/
  | vfms (x : LFields)
  /-- Lane negated fused multiply-add. (R80) -/
  | vfnma (x : LFields)
  /-- Lane IEEE minimum. (R81) -/
  | vfmin (x : LFields)
  /-- Lane IEEE maximum. (R81) -/
  | vfmax (x : LFields)
  /-- Lane correctly rounded division. (R82) -/
  | vfdiv (x : LFields)
  /-- Lane correctly rounded square root. (R82) -/
  | vfsqrt (x : LFields)
  /-- Lane correctly rounded 2^x. (R83) -/
  | vexp2 (x : LFields)
  /-- Lane correctly rounded log2. (R83) -/
  | vlog2 (x : LFields)
  /-- Lane clear sign bit. (R84) -/
  | vfabs (x : LFields)
  /-- Lane invert sign bit. (R84) -/
  | vfneg (x : LFields)
  /-- Lane copy sign. (R84) -/
  | vfcsgn (x : LFields)
  /-- Lane FP ordered equal compare. (R85) -/
  | vfceq (x : LFields)
  /-- Lane FP unordered-or-not-equal compare. (R85) -/
  | vfcne (x : LFields)
  /-- Lane FP ordered less compare. (R85) -/
  | vfclt (x : LFields)
  /-- Lane FP ordered less-or-equal compare. (R85) -/
  | vfcle (x : LFields)
  /-- Lane FP unordered compare. (R85) -/
  | vfcun (x : LFields)
  /-- Lane element-wise conversion through a format slot. (R95) -/
  | vcvt (x : LFields)
  /-- Lane narrowing packing conversion. (R95) -/
  | vcvtp (x : LFields)
  /-- Lane widening unpacking conversion of one part. (R95) -/
  | vcvtu (x : LFields)
  /-- Pack MXFP8 blocks from four lanes each. (R99) -/
  | vmxpack (x : LFields)
  /-- Unpack MXFP8 codes to FP32 per lane. (R100) -/
  | vmxunpk (x : LFields)
  /-- Pack F4X blocks from four lanes each. (R99) -/
  | vf4pack (x : LFields)
  /-- Unpack F4X codes to FP32 per lane. (R100) -/
  | vf4unpk (x : LFields)
  /-- Write H random bits per lane. (R101) -/
  | vrnd (x : LFields)
  /-- Lane plain load. (R104) -/
  | vld (x : LFields)
  /-- Lane consuming load, one decrement per touched line. (R106) -/
  | vldCons (x : LFields)
  /-- Lane uncached load. (R104) -/
  | vldUnc (x : LFields)
  /-- Lane load that fills touched lines counted. (R105) -/
  | vldReaders (x : LFields)
  /-- Lane plain store checked at each home. (R107) -/
  | vst (x : LFields)
  /-- Lane uncached store. (R104) -/
  | vstUnc (x : LFields)
  /-- Append active lanes' words to a FIFO bank. (R110) -/
  | vpush (x : LFields)
  /-- Remove words from a FIFO bank into active lanes. (R110) -/
  | vpop (x : LFields)
  /-- Per-lane atomic add. (R109) -/
  | vatomAdd (x : LFields)
  /-- Per-lane atomic signed min. (R109) -/
  | vatomMin (x : LFields)
  /-- Per-lane atomic signed max. (R109) -/
  | vatomMax (x : LFields)
  /-- Per-lane atomic natural min. (R109) -/
  | vatomMinn (x : LFields)
  /-- Per-lane atomic natural max. (R109) -/
  | vatomMaxn (x : LFields)
  /-- Per-lane atomic AND. (R109) -/
  | vatomAnd (x : LFields)
  /-- Per-lane atomic OR. (R109) -/
  | vatomOr (x : LFields)
  /-- Per-lane atomic XOR. (R109) -/
  | vatomXor (x : LFields)
  /-- Per-lane atomic exchange. (R109) -/
  | vatomXchg (x : LFields)
  /-- Per-lane atomic compare-and-swap. (R109) -/
  | vatomCas (x : LFields)
  /-- Per-lane atomic FP32 add. (R109) -/
  | vatomFadd (x : LFields)
  /-- Per-lane atomic BF16 pair add. (R109) -/
  | vatomBf16x2add (x : LFields)
  /-- Shuffle from lane k xor m. (R87) -/
  | vshufXor (x : LFields)
  /-- Shuffle from lane (k + m) mod W. (R87) -/
  | vshufRot (x : LFields)
  /-- Shuffle from lane k + m, or keep. (R87) -/
  | vshufDn (x : LFields)
  /-- Shuffle from lane k - m, or keep. (R87) -/
  | vshufUp (x : LFields)
  /-- Permute lanes by per-lane index. (R88) -/
  | vperm (x : LFields)
  /-- Broadcast one lane to the active lanes. (R88) -/
  | vbcast (x : LFields)
  /-- Reduce by sum over a fixed tree into a scalar. (R89) -/
  | vredadd (x : LFields)
  /-- Reduce by minimum. (R89) -/
  | vredmin (x : LFields)
  /-- Reduce by maximum. (R89) -/
  | vredmax (x : LFields)
  /-- Reduce by AND. (R89) -/
  | vredand (x : LFields)
  /-- Reduce by OR. (R89) -/
  | vredor (x : LFields)
  /-- Inclusive prefix sums over active lanes. (R90) -/
  | vscan (x : LFields)
  /-- Read the lowest active lane into a scalar. (R91) -/
  | vrfl (x : LFields)
  /-- Read a uniform value or trap NONUNIFORM. (R91) -/
  | vrul (x : LFields)
  /-- Set lanes' plane numbers. (R112) -/
  | vplset (x : LFields)
  /-- Read lanes' plane numbers. (R112) -/
  | vpl (x : LFields)
  /-- Arrive-and-drop the pass lanes and remove them from live and am. (R111) -/
  | vexit
  /-- Lane no-operation taking one issue per pass. (R113) -/
  | lnop
  -- Trelix words (R366)
  /-- Fabric processor add. (R367) -/
  | trelixAdd
  /-- Fabric processor subtract. (R367) -/
  | trelixSub
  /-- Fabric processor multiply. (R367) -/
  | trelixMul
  /-- Fabric processor AND. (R367) -/
  | trelixAnd
  /-- Fabric processor OR. (R367) -/
  | trelixOr
  /-- Fabric processor XOR. (R367) -/
  | trelixXor
  /-- Fabric processor shift left. (R367) -/
  | trelixSll
  /-- Fabric processor logical shift right. (R367) -/
  | trelixSrl
  /-- Fabric processor arithmetic shift right. (R367) -/
  | trelixSra
  /-- Fabric processor signed less-than. (R367) -/
  | trelixSlt
  /-- Fabric processor natural less-than. (R367) -/
  | trelixSltn
  /-- Fabric processor equality. (R367) -/
  | trelixSeq
  /-- Fabric processor add immediate. (R368) -/
  | trelixAddi
  /-- Fabric processor shift left 16 and insert. (R368) -/
  | trelixSlin
  /-- Fabric processor 8-byte load at the home. (R368) -/
  | trelixLd
  /-- Fabric processor 8-byte store. (R368) -/
  | trelixSt
  /-- Branch if equal. (R369) -/
  | trelixBeq
  /-- Branch if not equal. (R369) -/
  | trelixBne
  /-- Branch if signed less. (R369) -/
  | trelixBlt
  /-- Branch if natural less. (R369) -/
  | trelixBltn
  /-- Jump and link. (R369) -/
  | trelixJal
  /-- Jump to register. (R369) -/
  | trelixJr
  /-- Halt and write the status record. (R364) -/
  | trelixHalt
  /-- Send a raw chunk to a group rank. (R371) -/
  | trelixSend
  /-- Wait for and write a raw chunk. (R371) -/
  | trelixRecv
  /-- Encode tiles with residual feedback. (R371) -/
  | trelixEnc
  /-- Decode coded tiles to FP32. (R371) -/
  | trelixDec
  /-- Add source tiles into a destination. (R371) -/
  | trelixSadd
  /-- Read one residual key's tile. (R371) -/
  | trelixRld
  /-- Write one residual key's tile. (R371) -/
  | trelixRst
  /-- Save a residual object to an image. (R371) -/
  | trelixRsave
  /-- Replace a residual object from an image. (R371) -/
  | trelixRload
  /-- Create a group descriptor from a template. (R372) -/
  | trelixGnew
  /-- Retire a group handle on this die. (R372) -/
  | trelixGret
  /-- Add or clear remote waiters of a sync object. (R372) -/
  | trelixGwatch
  /-- Wait for a barrier phase. (R372) -/
  | trelixBwait
  /-- Arrive at a barrier with xb lanes. (R372) -/
  | trelixBarr
  /-- Land bytes on a barrier. (R372) -/
  | trelixBland
  /-- Open a parameter-home step. (R375) -/
  | trelixHopen
  /-- Apply the optimiser to the oldest inbox tile. (R376) -/
  | trelixUpd
  /-- Close a home step if all blocks received. (R375) -/
  | trelixHclose
  /-- Commit a ready home step. (R375) -/
  | trelixHcommit
  /-- Abort an open or ready home step. (R375) -/
  | trelixHabort
  /-- Request a weight block from a home. (R379) -/
  | trelixWfetch
  -- Host packets, register writes and machine events
  /-- Host FENCE packet placing markers in named queues. (R316) -/
  | fencePacket
  /-- Host RELEASE packet raising an object's version. (R318) -/
  | release
  /-- Host ACQUIRE packet waiting for a target version. (R318) -/
  | acquire
  /-- Host WAIT packet awaiting a barrier phase. (R318) -/
  | wait
  /-- Host RESUME packet placing a context image. (R320) -/
  | resume
  /-- Host LAUNCH packet checking and appending a continuation record. (R283) -/
  | launch
  /-- Host COPY packet moving bytes. (R316) -/
  | copyPacket
  /-- MGMT subop admitting a job key and root. (R321) -/
  | admitKey
  /-- MGMT subop freeing a key once idle. (R321) -/
  | retire
  /-- MGMT subop starting the closing stage of a page shootdown. (R241) -/
  | shootdown
  /-- MGMT subop answering a fault record RETRY or FAIL. (R240) -/
  | answer
  /-- MGMT subop selecting a power state. (R323) -/
  | power
  /-- MGMT subop starting a fabric processor. (R363) -/
  | fpstart
  /-- MGMT subop stopping a fabric processor. (R363) -/
  | fpstop
  /-- Doorbell write publishing packets to a host queue. (R316) -/
  | qtail
  /-- Write starting attestation over the nonce. (R335) -/
  | actrl
  /-- Write to a management register without behaviour of its own. (R312) -/
  | mgmtRegisterWrite
  /-- Attestation report written and ASTAT set to done. (R335) -/
  | attestationDone
  /-- Arrival of a load, pop, atomic or hrd value filling its register. (R44) -/
  | loadFill
  /-- Waiting FIFO pop takes its words once present. (R110) -/
  | fifoPopFill
  /-- Stalled FIFO push appends once room exists. (R110) -/
  | fifoPushResume
  /-- Bank mode switch completes and lands one arrival. (R167) -/
  | bankSwitchComplete
  /-- 32-cycle plain miss window closes. (R219) -/
  | plainWindowExpire
  /-- Dirty bytes written back 4,096 cycles after first dirtied. (R246) -/
  | dirtyLineWriteback
  /-- Miss request arrives at the quad stop and merges or takes an entry. (R221) -/
  | quadMergeRequest
  /-- Plain or uncached read served at the home slice. (R229) -/
  | homeRead
  /-- Consuming access decrements a counted line at its home. (R232) -/
  | homeConsumingAccess
  /-- Counted fill taking effect at the home. (R230) -/
  | homeCountedFill
  /-- Waiting counted fill proceeds once a way or table entry frees. (R231) -/
  | countedFillWaitEnd
  /-- Store check at a line's home. (R107) -/
  | homeStoreCheck
  /-- Store bytes performed at the home. (R107) -/
  | homeStoreData
  /-- Atomic request performed at the home or held for its marker. (R263) -/
  | homeAtomic
  /-- Marker clear arrives and the held release update is performed. (R265) -/
  | releaseMarkerClear
  /-- Per-line dropc request at the home. (R235) -/
  | homeDropc
  /-- Landing of bytes on a barrier at its home, possibly completing the phase. (R191) -/
  | barrierLanding
  /-- Waiting barwait wakes on barrier change and writes its status. (R193) -/
  | barwaitEnd
  /-- barwait or bwait cycle limit runs out. (R193) -/
  | barwaitTimeout
  /-- Copy entry starts and moves bytes. (R187) -/
  | copyRun
  /-- mma entry starts on the array. (R182) -/
  | mmaRun
  /-- mma finishes and lands 65,536 bytes. (R182) -/
  | mmaDone
  /-- acst starts storing the accumulator. (R184) -/
  | acstRun
  /-- Collective entry starts in queue 5 and reads its slot. (R349) -/
  | collEntryStart
  /-- Requested exchange of a core's contexts begins. (R203) -/
  | shadowSwap
  /-- Swap ends at cycle 96 and the incoming context issues. (R203) -/
  | swapComplete
  /-- Spill finishes and the shadow is empty. (R205) -/
  | spillComplete
  /-- Spill store faults; paused or context lost. (R206) -/
  | spillFault
  /-- Paused spill resumes once the fault is resolved. (R206) -/
  | spillResume
  /-- Shadow preload finishes and becomes ready. (R205) -/
  | preloadComplete
  /-- Distributor places the next deck of a record. (R288) -/
  | deckPlace
  /-- Deck's spans start once its banks are prepared. (R157) -/
  | deckStart
  /-- Reserve stage of a gang's placement. (R292) -/
  | gangReserve
  /-- Reserved gang decks made resident together. (R292) -/
  | gangCommit
  /-- Retired deck's join-word decrement after its writes are performed. (R286) -/
  | deckRetire
  /-- Push into a full ring proceeds once it has room. (R286) -/
  | delayedRingPush
  /-- Launch completes, slices sweep and completion is written. (R317) -/
  | launchComplete
  /-- Waiting RESUME image placed once room exists. (R320) -/
  | resumePlacement
  /-- Deck quantum end applying commit buffers. (R298) -/
  | quantumEnd
  /-- Next deterministic phase begins after the previous retires. (R297) -/
  | phaseStart
  /-- Watchdog or all-hold condition ends the launch. (R303) -/
  | noProgress
  /-- Translation walk ends with a leaf or a fault record. (R240) -/
  | walkComplete
  /-- Shootdown bound runs out, ending closing. (R241) -/
  | shootdownBoundExpire
  /-- Removal stage invalidates translations and drops lines. (R241) -/
  | shootdownRemoval
  /-- Contribution arrives at a quad stop. (R275) -/
  | meshContribution
  /-- Partial arrives at a node or the root. (R276) -/
  | meshPartial
  /-- Round start notice arrives at the root. (R305) -/
  | startNotice
  /-- Round timeout runs out and closes poisoned. (R280) -/
  | reductionTimeout
  /-- Host access to HBM4E through CXL.mem. (R311) -/
  | hostCxlMemAccess
  /-- ACQUIRE packet timeout runs out. (R318) -/
  | acquireTimeout
  /-- WAIT packet timeout runs out. (R318) -/
  | waitTimeout
  /-- Flit fails CRC and is replayed. (R308) -/
  | flitCrcFail
  /-- Sixteenth consecutive replay starts a retrain. (R308) -/
  | causewayRetrain
  /-- Retrain ends at full, half width or down. (R308) -/
  | retrainComplete
  /-- New route installed after old flits are delivered. (R308) -/
  | routeInstall
  /-- Fabric packet checked and accepted into staging or dropped. (R344) -/
  | packetReceive
  /-- Unacknowledged packet resent after 2 µs. (R342) -/
  | packetResend
  /-- Parent has accepted every packet of a send. (R350) -/
  | sendAcknowledged
  /-- Adder sweeps a complete chunk and sends or writes the result. (R351) -/
  | chunkSweep
  /-- Group drain ends; descriptor retired and residuals remapped. (R359) -/
  | drainEnd
  /-- Drain bound runs out and open work fails. (R359) -/
  | drainBoundExpire
  /-- Version notice received by a front end. (R361) -/
  | versionNotice
  /-- Home serves a weight fetch request. (R379) -/
  | wfetchServe
  /-- recv timeout runs out. (R371) -/
  | recvTimeout
  /-- upd wait limit runs out. (R375) -/
  | updTimeout
  /-- Firmware declares a quad stop failed. (R225) -/
  | quadStopFail
  /-- Firmware declares a die failed. (R330) -/
  | dieFail
  /-- Periodic scrub of L2, banks or HBM4E. (R325) -/
  | scrub
  /-- Ring copied to a save slot every 10 µs or after a fatal event. (R337) -/
  | blackBoxSave
  /-- Junction at 95 °C drops one power state. (R324) -/
  | thermalThrottle
  /-- Draw above PCAP for 1 ms drops one state. (R324) -/
  | powerOverCap
  /-- After 10 ms below limits, returns one state. (R324) -/
  | throttleRestore
  /-- 115 °C stops issue and enters the safe state. (R324) -/
  | thermalTrip
  /-- Power-good starts the bring-up sequence. (R332) -/
  | powerGood
  /-- Warm reset keeps black-box save slots. (R337) -/
  | warmReset
  /-- An S-word or L-word whose encoding is no instruction (a dash major, unlisted secondary code, non-zero reserved field, class 3, or an unwritable syswr number) reaches commit or issue and traps ILLEGAL. (R55) -/
  | illegalEncoding
  /-- A word whose major is an X major traps EXT_ABSENT and enters the emulation handler. (R57) -/
  | extensionEncoding
  /-- A fabric processor fetches a word with an unlisted major or fn, or a non-zero reserved field, traps ILLEGAL and halts. (R366) -/
  | unlistedTrelixOpcode
  /-- A peer asks for a UEC connection; one that names an unsupported feature is refused and logged as kind 3 code 6. (R341) -/
  | connectionSetUp
  /-- A negative acknowledgement for a trimmed packet reaches the sender, which resends the packet. (R341) -/
  | negativeAcknowledgement
  /-- A fabric link reports loss of signal, and every path through it is removed and its unacknowledged packets are resent. (R342) -/
  | lossOfSignal
  /-- A path to a peer that had none returns, and sends waiting for that peer go on. (R342) -/
  | pathReturn
  /-- A second-tier expander returns its completion, performing a store or copy write at every scope. (R310) -/
  | expanderCompletion
  /-- The host's completion for a flushing read returns, so the posted writes before it are performed at system scope. (R309) -/
  | hostFlushCompletion
  /-- The host grants ownership of a completion-ring line, and the front end's coherent write of the completion record is performed. (R309) -/
  | hostOwnershipGrant
  /-- The host snoops a line the front end owns, and the front end supplies or writes back the completion record. (R309) -/
  | hostSnoop
  /-- A fatal firmware fault puts the package in the safe, talkative state with code 8. (R334) -/
  | firmwareFault
  /-- Cold loss of power loses the black-box save slots and all device state. (R337) -/
  | coldPowerLoss
  /-- Protected storage takes a multi-bit soft error and becomes uncorrectable, to be found later by a reader, a write-back or a scrub. (R325) -/
  | uncorrectableError
  deriving DecidableEq, Repr

end Sys2Proof
end

