-- ==== Sys2Proof/WellFormed.lean ====
section
/-! DEFINITION. Which instructions of the syntax are encodings of R55's first fate: the reserved fields, classes, types
and code values that the word alone decides. What the launch decides (`.vregs`, format slots, parapet mode) is checked
where the instruction executes. -/

namespace Sys2Proof

/-- How a lane instruction uses `rm` (R62). -/
inductive RmUse where
  | zero
  /-- 0b000 to 0b100 only (R79) -/
  | arith
  /-- any code, subject to R17 at issue -/
  | slot
  deriving DecidableEq, Repr

/-- How a lane instruction uses parcel 2 (R62, R72, R94). -/
inductive P2Use where
  /-- an immediate where b or c is class 2, else zero -/
  | imm
  | zero
  /-- any value: a signed byte offset -/
  | offset
  /-- a FIFO bank in [4:0] -/
  | bank
  /-- histogram control in [3:0] with mod = 1, zero above -/
  | conv
  /-- histogram control in [3:0], a part number in [5:4] -/
  | part
  /-- histogram control whose enable bit must be 0 -/
  | unpack
  /-- shuffle pattern of the given kind in [31:30], distance in [4:0] -/
  | shuf (kind : Nat)
  /-- atomic operation in [31:28], ordering and scope in [27:24] -/
  | atomic (op : Nat)
  deriving DecidableEq, Repr

/-- Which registers must be even: never, for 64-bit types only, or always (R6, R54). -/
inductive EvenUse where
  | never
  | wide
  | always
  deriving DecidableEq, Repr

/-- The shape of one lane instruction: the columns of R62, R72, R94 and its own table row. -/
structure LShape where
  vd : Bool := false
  va : Bool := false
  /-- allowed classes of b; none where b is unused -/
  b : List Nat := []
  /-- allowed classes of c; none where c is unused -/
  c : List Nat := []
  /-- b is the stream of R96: class 1, or class 0 with a zero field -/
  stream : Bool := false
  /-- vc holds a reader count, not a register (R62) -/
  count : Bool := false
  fs : Bool := false
  rm : RmUse := .zero
  sdst : Bool := false
  mod : Bool := false
  tys : List Nat := [0]
  p2 : P2Use := .zero
  evenVd : EvenUse := .never
  evenVa : EvenUse := .never
  evenB : EvenUse := .never
  evenC : EvenUse := .never
  deriving DecidableEq, Repr

/-- Is the type code a 64-bit type (R53)? -/
def wideTy (ty : BitVec 4) : Bool := ty == 3#4 || ty == 7#4 || ty == 11#4

def evenOk (u : EvenUse) (ty : BitVec 4) (r : BitVec 8) : Bool :=
  match u with
  | .never => true
  | .wide => !wideTy ty || !r.getLsbD 0
  | .always => !r.getLsbD 0

/-- A source of a class (R52): class 1 names a register in 6 bits, class 2 names none, class 3 is reserved. -/
def classOk (allowed : List Nat) (cls : BitVec 2) (r : BitVec 8) (u : EvenUse) (ty : BitVec 4) : Bool :=
  match allowed with
  | [] => cls == 0#2 && r == 0#8
  | _ =>
    allowed.contains cls.toNat &&
    (if cls == 0#2 then evenOk u ty r
     else if cls == 1#2 then r.extractLsb' 6 2 == 0#2
     else if cls == 2#2 then r == 0#8 else false)

def rmOk (u : RmUse) (rm : BitVec 3) : Bool :=
  match u with
  | .zero => rm == 0#3
  | .arith => decide (rm.toNat ≤ 4)
  | .slot => true

def p2Ok (u : P2Use) (x : LFields) : Bool :=
  match u with
  | .imm => x.bcls == 2#2 || x.ccls == 2#2 || x.p2 == 0#32
  | .zero => x.p2 == 0#32
  | .offset => true
  | .bank => x.p2.extractLsb' 5 27 == 0#27
  | .conv => x.p2.extractLsb' 4 28 == 0#28 && (x.mod == 1#1 || x.p2.extractLsb' 0 4 == 0#4)
  | .part => x.p2.extractLsb' 6 26 == 0#26 && (x.mod == 1#1 || x.p2.extractLsb' 0 4 == 0#4)
  | .unpack => x.p2.extractLsb' 3 29 == 0#29 && (x.mod == 1#1 || x.p2.extractLsb' 0 4 == 0#4)
  | .shuf k => x.p2.extractLsb' 30 2 == BitVec.ofNat 2 k && x.p2.extractLsb' 5 25 == 0#25
  | .atomic k => x.p2.extractLsb' 28 4 == BitVec.ofNat 4 k && x.p2.extractLsb' 0 24 == 0#24

/-- An fe bit is zero where its source is not used (R54); on an immediate it is ignored (R45). -/
def feOk (sh : LShape) (x : LFields) : Bool :=
  (sh.va || !x.fe.getLsbD 2) &&
  ((!sh.b.isEmpty && !(sh.stream && x.bcls == 0#2)) || !x.fe.getLsbD 1) &&
  (!sh.c.isEmpty || !x.fe.getLsbD 0)

/-- The fields of an L-word suit its shape: none of R55's ILLEGAL conditions that the word decides. -/
def lFieldsOk (sh : LShape) (x : LFields) : Bool :=
  (sh.vd || x.vd == 0#8) && (sh.va || x.va == 0#8) &&
  classOk sh.b x.bcls x.vb sh.evenB x.ty &&
  (!sh.stream || x.bcls == 1#2 || x.vb == 0#8) &&
  (if sh.count then x.ccls == 0#2 && x.vc != 0#8 else classOk sh.c x.ccls x.vc sh.evenC x.ty) &&
  feOk sh x && (sh.fs || x.fs == 0#3) && rmOk sh.rm x.rm &&
  sh.tys.contains x.ty.toNat && (sh.sdst || x.sdst == 0#6) && (sh.mod || x.mod == 0#1) &&
  p2Ok sh.p2 x && evenOk sh.evenVd x.ty x.vd && evenOk sh.evenVa x.ty x.va

/-! ### Shapes -/

def tysInt : List Nat := [0, 1, 2, 3, 4, 5, 6, 7]
def tysLogic : List Nat := [15, 7]
def tysFp : List Nat := [8, 9, 10, 11]
def tysRed : List Nat := [2, 6, 3, 7, 10, 11]
def tysMem : List Nat := [0, 1, 2, 3, 4, 5, 6, 7, 8, 9, 10, 11, 12, 13, 15]

/-- Two sources a, b (R73, R75, R76). -/
def shBin (tys : List Nat) : LShape :=
  { vd := true, va := true, b := [0, 1, 2], tys, p2 := .imm, evenVd := .wide, evenVa := .wide, evenB := .wide }
/-- Three sources. -/
def shTri (tys : List Nat) : LShape := { shBin tys with c := [0, 1, 2], evenC := .wide }
/-- One source a. -/
def shUn (tys : List Nat) : LShape := { vd := true, va := true, tys, evenVd := .wide, evenVa := .wide }
/-- Compares (R78, R85). -/
def shCmp (tys : List Nat) : LShape :=
  { va := true, b := [0, 1, 2], sdst := true, tys, p2 := .imm, evenVa := .wide, evenB := .wide }
def shFBin : LShape := { shBin tysFp with rm := .arith }
def shFTri : LShape := { shTri tysFp with rm := .arith }
def shFUn (tys : List Nat) : LShape := { shUn tys with rm := .arith }
def shMov : LShape := { vd := true, b := [0, 1, 2], tys := tysLogic, p2 := .imm, evenVd := .wide, evenB := .wide }
def shLane : LShape := { vd := true }
def shGid : LShape := { vd := true, evenVd := .always }
/-- Conversions (R94, R95). -/
def shConv : LShape :=
  { vd := true, va := true, b := [0, 1], stream := true, fs := true, rm := .slot, mod := true, tys := [15], p2 := .conv }
def shConvPart : LShape := { shConv with p2 := .part }
def shMxPack : LShape := { shConv with evenVd := .always }
def shUnpack : LShape :=
  { vd := true, va := true, b := [0, 1], stream := true, fs := true, rm := .slot, mod := true, tys := [15], p2 := .unpack }
def shMxUnpack : LShape := { shUnpack with evenVa := .always }
def shRnd : LShape := { vd := true, va := true, b := [1], fs := true, tys := [15], evenVa := .always }
/-- Loads and stores (R94, R104). -/
def shLoad : LShape := { vd := true, va := true, b := [1], tys := tysMem, p2 := .offset, evenVd := .wide }
def shLoadReaders : LShape := { shLoad with count := true }
def shStore : LShape := { va := true, b := [1], c := [0], tys := tysMem, p2 := .offset, evenC := .wide }
def shPush : LShape := { va := true, tys := [15], p2 := .bank }
def shPop : LShape := { vd := true, tys := [15], p2 := .bank }
/-- Lane atomics (R109); fadd and bf16x2add require b32. -/
def shAtom (op : Nat) : LShape :=
  { vd := true, va := true, b := [1], c := [0], tys := if op < 10 then tysLogic else [15], p2 := .atomic op,
    evenVd := .wide, evenC := .wide }
/-- Cross-lane (R86 to R91). -/
def shShuf (kind : Nat) : LShape := { shUn tysLogic with p2 := .shuf kind }
def shPerm : LShape := { shUn tysLogic with b := [0, 1] }
def shBcast : LShape := { shUn tysLogic with b := [1] }
def shRed (tys : List Nat) : LShape := { va := true, sdst := true, tys, evenVa := .wide }
def shScan : LShape := shUn tysRed
def shNone : LShape := {}
def shPlset : LShape := { va := true }
def shPl : LShape := { vd := true }

/-! ### Well-formed instructions -/

/-- A scope code that names a scope other than `.lane` (R59). -/
def scopeOk (c : BitVec 3) : Bool := decide (1 ≤ c.toNat ∧ c.toNat ≤ 5)

/-- The first of four registers s(4m) to s(4m+3), m = 0 to 14 (R60). -/
def groupOk (c : BitVec 6) : Bool := c.extractLsb' 0 2 == 0#2 && decide (c.toNat ≤ 56)

/-- Does an instruction of the syntax have an encoding: are its reserved values avoided (R1, R29, R55, R59, R60)? -/
def wellFormed (i : Instr) : Bool :=
  match i with
  | .add _ _ _ => true
  | .sub _ _ _ => true
  | .mul _ _ _ => true
  | .mulh _ _ _ => true
  | .mulhn _ _ _ => true
  | .div _ _ _ => true
  | .divn _ _ _ => true
  | .rem _ _ _ => true
  | .remn _ _ _ => true
  | .and _ _ _ => true
  | .or _ _ _ => true
  | .xor _ _ _ => true
  | .andn _ _ _ => true
  | .orn _ _ _ => true
  | .sll _ _ _ => true
  | .srl _ _ _ => true
  | .sra _ _ _ => true
  | .rotl _ _ _ => true
  | .rotr _ _ _ => true
  | .min _ _ _ => true
  | .max _ _ _ => true
  | .minn _ _ _ => true
  | .maxn _ _ _ => true
  | .clz _ _ => true
  | .ctz _ _ => true
  | .popc _ _ => true
  | .sextI8 _ _ => true
  | .sextI16 _ _ => true
  | .sextI32 _ _ => true
  | .zextN8 _ _ => true
  | .zextN16 _ _ => true
  | .zextN32 _ _ => true
  | .seq _ _ _ => true
  | .sne _ _ _ => true
  | .slt _ _ _ => true
  | .sge _ _ _ => true
  | .sltn _ _ _ => true
  | .sgen _ _ _ => true
  | .addi _ _ _ => true
  | .andi _ _ _ => true
  | .ori _ _ _ => true
  | .xori _ _ _ => true
  | .slli _ _ _ => true
  | .srli _ _ _ => true
  | .srai _ _ _ => true
  | .rotli _ _ _ => true
  | .slin _ _ _ => true
  | .slti _ _ _ => true
  | .sltni _ _ _ => true
  | .seqi _ _ _ => true
  | .ldB64 _ _ _ => true
  | .ldN32 _ _ _ => true
  | .stB64 _ _ _ => true
  | .stB32 _ _ _ => true
  | .ldIndexed _ _ _ w e => !(w == 3#2 && e == 1#1)
  | .ldCons _ _ _ w e => !(w == 3#2 && e == 1#1)
  | .ldUnc _ _ _ w e => !(w == 3#2 && e == 1#1)
  | .ldReaders _ _ _ w e => !(w == 3#2 && e == 1#1)
  | .stIndexed _ _ _ _ => true
  | .stUnc _ _ _ _ => true
  | .pop _ _ => true
  | .push _ _ => true
  | .dropc _ _ => true
  | .beqz _ _ => true
  | .bnez _ _ => true
  | .bltz _ _ => true
  | .bgez _ _ => true
  | .bgtz _ _ => true
  | .blez _ _ => true
  | .bmz _ _ => true
  | .bmnz _ _ => true
  | .jmp _ => true
  | .call _ => true
  | .jmpRegister _ => true
  | .callRegister _ => true
  | .ret => true
  | .sexit => true
  | .lrun _ _ => true
  | .lrunRegister _ _ => true
  | .lrunp _ _ _ => true
  | .mpush _ => true
  | .melse => true
  | .mpop => true
  | .mset _ => true
  | .mget _ => true
  | .lget _ => true
  | .plall _ => true
  | .plmask _ _ => true
  | .plget _ => true
  | .copy m _ _ c _ => m != 3#2 && groupOk c
  | .copySlot m _ _ c _ => m != 3#2 && groupOk c
  | .copyReaders m _ _ c _ => m != 3#2 && groupOk c
  | .mma _ _ _ _ _ _ _ _ => true
  | .mmaVia _ _ _ _ _ _ _ _ _ => true
  | .acst _ _ _ b _ => !b.getLsbD 0
  | .tclaim _ r => r != 0#8
  | .trel _ => true
  | .qfence m => m != 0#6
  | .collRs _ _ _ => true
  | .collAg _ _ _ => true
  | .collAr _ _ _ => true
  | .collBc _ _ _ => true
  | .cpush _ _ _ => true
  | .barinit _ _ _ => true
  | .barreg _ => true
  | .bararr _ => true
  | .barexp _ _ => true
  | .bardrop _ => true
  | .barwait _ _ _ _ => true
  | .acq _ _ scope => scopeOk scope
  | .rel _ scope => scopeOk scope
  | .rbind _ _ _ => true
  | .fence scope => scopeOk scope
  | .atomB32Add _ _ _ _ => true
  | .atomB32Min _ _ _ _ => true
  | .atomB32Max _ _ _ _ => true
  | .atomB32Minn _ _ _ _ => true
  | .atomB32Maxn _ _ _ _ => true
  | .atomB32And _ _ _ _ => true
  | .atomB32Or _ _ _ _ => true
  | .atomB32Xor _ _ _ _ => true
  | .atomB32Xchg _ _ _ _ => true
  | .atomB32Cas _ _ _ _ => true
  | .atomB32Fadd _ _ _ _ => true
  | .atomB32Bf16x2add _ _ _ _ => true
  | .atomN64Add _ _ _ _ => true
  | .atomN64Min _ _ _ _ => true
  | .atomN64Max _ _ _ _ => true
  | .atomN64Minn _ _ _ _ => true
  | .atomN64Maxn _ _ _ _ => true
  | .atomN64And _ _ _ _ => true
  | .atomN64Or _ _ _ _ => true
  | .atomN64Xor _ _ _ _ => true
  | .atomN64Xchg _ _ _ _ => true
  | .atomN64Cas _ _ _ _ => true
  | .rsend _ _ => true
  | .sysrd _ _ => true
  | .step _ => true
  | .undomark _ => true
  | .bkmode _ => true
  | .brk _ => true
  | .tret => true
  | .nop => true
  | .hrd _ _ _ => true
  | .hclr _ _ => true
  | .vadd x => lFieldsOk (shBin tysInt) x
  | .vsub x => lFieldsOk (shBin tysInt) x
  | .vadds x => lFieldsOk (shBin tysInt) x
  | .vsubs x => lFieldsOk (shBin tysInt) x
  | .vmul x => lFieldsOk (shBin tysInt) x
  | .vmulh x => lFieldsOk (shBin tysInt) x
  | .vmad x => lFieldsOk (shTri tysInt) x
  | .vdiv x => lFieldsOk (shBin tysInt) x
  | .vrem x => lFieldsOk (shBin tysInt) x
  | .vmin x => lFieldsOk (shBin tysInt) x
  | .vmax x => lFieldsOk (shBin tysInt) x
  | .vabs x => lFieldsOk (shUn [0, 1, 2, 3]) x
  | .vabsd x => lFieldsOk (shBin tysInt) x
  | .vand x => lFieldsOk (shBin tysLogic) x
  | .vor x => lFieldsOk (shBin tysLogic) x
  | .vxor x => lFieldsOk (shBin tysLogic) x
  | .vandn x => lFieldsOk (shBin tysLogic) x
  | .vnot x => lFieldsOk (shUn tysLogic) x
  | .vsel x => lFieldsOk (shTri tysLogic) x
  | .vshl x => lFieldsOk (shBin (tysInt ++ [15])) x
  | .vshr x => lFieldsOk (shBin (tysInt ++ [15])) x
  | .vrotl x => lFieldsOk (shBin (tysInt ++ [15])) x
  | .vclz x => lFieldsOk (shUn (tysInt ++ [15])) x
  | .vpopc x => lFieldsOk (shUn (tysInt ++ [15])) x
  | .vbrev x => lFieldsOk (shUn (tysInt ++ [15])) x
  | .vceq x => lFieldsOk (shCmp [2, 3, 6, 7, 15]) x
  | .vcne x => lFieldsOk (shCmp [2, 3, 6, 7, 15]) x
  | .vclt x => lFieldsOk (shCmp [2, 3, 6, 7]) x
  | .vcle x => lFieldsOk (shCmp [2, 3, 6, 7]) x
  | .vcgt x => lFieldsOk (shCmp [2, 3, 6, 7]) x
  | .vcge x => lFieldsOk (shCmp [2, 3, 6, 7]) x
  | .vmov x => lFieldsOk (shMov) x
  | .vlane x => lFieldsOk (shLane) x
  | .vgid x => lFieldsOk (shGid) x
  | .vfadd x => lFieldsOk (shFBin) x
  | .vfsub x => lFieldsOk (shFBin) x
  | .vfmul x => lFieldsOk (shFBin) x
  | .vfma x => lFieldsOk (shFTri) x
  | .vfms x => lFieldsOk (shFTri) x
  | .vfnma x => lFieldsOk (shFTri) x
  | .vfmin x => lFieldsOk (shFBin) x
  | .vfmax x => lFieldsOk (shFBin) x
  | .vfdiv x => lFieldsOk (shFBin) x
  | .vfsqrt x => lFieldsOk (shFUn tysFp) x
  | .vexp2 x => lFieldsOk (shFUn [8, 9, 10]) x
  | .vlog2 x => lFieldsOk (shFUn [8, 9, 10]) x
  | .vfabs x => lFieldsOk (shUn tysFp) x
  | .vfneg x => lFieldsOk (shUn tysFp) x
  | .vfcsgn x => lFieldsOk (shBin tysFp) x
  | .vfceq x => lFieldsOk (shCmp [10, 11]) x
  | .vfcne x => lFieldsOk (shCmp [10, 11]) x
  | .vfclt x => lFieldsOk (shCmp [10, 11]) x
  | .vfcle x => lFieldsOk (shCmp [10, 11]) x
  | .vfcun x => lFieldsOk (shCmp [10, 11]) x
  | .vcvt x => lFieldsOk (shConv) x
  | .vcvtp x => lFieldsOk (shConv) x
  | .vcvtu x => lFieldsOk (shConvPart) x
  | .vmxpack x => lFieldsOk (shMxPack) x
  | .vmxunpk x => lFieldsOk (shMxUnpack) x
  | .vf4pack x => lFieldsOk (shConv) x
  | .vf4unpk x => lFieldsOk (shUnpack) x
  | .vrnd x => lFieldsOk (shRnd) x
  | .vld x => lFieldsOk (shLoad) x
  | .vldCons x => lFieldsOk (shLoad) x
  | .vldUnc x => lFieldsOk (shLoad) x
  | .vldReaders x => lFieldsOk (shLoadReaders) x
  | .vst x => lFieldsOk (shStore) x
  | .vstUnc x => lFieldsOk (shStore) x
  | .vpush x => lFieldsOk (shPush) x
  | .vpop x => lFieldsOk (shPop) x
  | .vatomAdd x => lFieldsOk (shAtom 0) x
  | .vatomMin x => lFieldsOk (shAtom 1) x
  | .vatomMax x => lFieldsOk (shAtom 2) x
  | .vatomMinn x => lFieldsOk (shAtom 3) x
  | .vatomMaxn x => lFieldsOk (shAtom 4) x
  | .vatomAnd x => lFieldsOk (shAtom 5) x
  | .vatomOr x => lFieldsOk (shAtom 6) x
  | .vatomXor x => lFieldsOk (shAtom 7) x
  | .vatomXchg x => lFieldsOk (shAtom 8) x
  | .vatomCas x => lFieldsOk (shAtom 9) x
  | .vatomFadd x => lFieldsOk (shAtom 10) x
  | .vatomBf16x2add x => lFieldsOk (shAtom 11) x
  | .vshufXor x => lFieldsOk (shShuf 0) x
  | .vshufRot x => lFieldsOk (shShuf 1) x
  | .vshufDn x => lFieldsOk (shShuf 2) x
  | .vshufUp x => lFieldsOk (shShuf 3) x
  | .vperm x => lFieldsOk (shPerm) x
  | .vbcast x => lFieldsOk (shBcast) x
  | .vredadd x => lFieldsOk (shRed tysRed) x
  | .vredmin x => lFieldsOk (shRed tysRed) x
  | .vredmax x => lFieldsOk (shRed tysRed) x
  | .vredand x => lFieldsOk (shRed tysLogic) x
  | .vredor x => lFieldsOk (shRed tysLogic) x
  | .vscan x => lFieldsOk (shScan) x
  | .vrfl x => lFieldsOk (shRed tysLogic) x
  | .vrul x => lFieldsOk (shRed tysLogic) x
  | .vplset x => lFieldsOk (shPlset) x
  | .vpl x => lFieldsOk (shPl) x
  | .vexit => true
  | .lnop => true
  | .trelixAdd => true
  | .trelixSub => true
  | .trelixMul => true
  | .trelixAnd => true
  | .trelixOr => true
  | .trelixXor => true
  | .trelixSll => true
  | .trelixSrl => true
  | .trelixSra => true
  | .trelixSlt => true
  | .trelixSltn => true
  | .trelixSeq => true
  | .trelixAddi => true
  | .trelixSlin => true
  | .trelixLd => true
  | .trelixSt => true
  | .trelixBeq => true
  | .trelixBne => true
  | .trelixBlt => true
  | .trelixBltn => true
  | .trelixJal => true
  | .trelixJr => true
  | .trelixHalt => true
  | .trelixSend => true
  | .trelixRecv => true
  | .trelixEnc => true
  | .trelixDec => true
  | .trelixSadd => true
  | .trelixRld => true
  | .trelixRst => true
  | .trelixRsave => true
  | .trelixRload => true
  | .trelixGnew => true
  | .trelixGret => true
  | .trelixGwatch => true
  | .trelixBwait => true
  | .trelixBarr => true
  | .trelixBland => true
  | .trelixHopen => true
  | .trelixUpd => true
  | .trelixHclose => true
  | .trelixHcommit => true
  | .trelixHabort => true
  | .trelixWfetch => true
  | .fencePacket => true
  | .release => true
  | .acquire => true
  | .wait => true
  | .resume => true
  | .launch => true
  | .copyPacket => true
  | .admitKey => true
  | .retire => true
  | .shootdown => true
  | .answer => true
  | .power => true
  | .fpstart => true
  | .fpstop => true
  | .qtail => true
  | .actrl => true
  | .mgmtRegisterWrite => true
  | .attestationDone => true
  | .loadFill => true
  | .fifoPopFill => true
  | .fifoPushResume => true
  | .bankSwitchComplete => true
  | .plainWindowExpire => true
  | .dirtyLineWriteback => true
  | .quadMergeRequest => true
  | .homeRead => true
  | .homeConsumingAccess => true
  | .homeCountedFill => true
  | .countedFillWaitEnd => true
  | .homeStoreCheck => true
  | .homeStoreData => true
  | .homeAtomic => true
  | .releaseMarkerClear => true
  | .homeDropc => true
  | .barrierLanding => true
  | .barwaitEnd => true
  | .barwaitTimeout => true
  | .copyRun => true
  | .mmaRun => true
  | .mmaDone => true
  | .acstRun => true
  | .collEntryStart => true
  | .shadowSwap => true
  | .swapComplete => true
  | .spillComplete => true
  | .spillFault => true
  | .spillResume => true
  | .preloadComplete => true
  | .deckPlace => true
  | .deckStart => true
  | .gangReserve => true
  | .gangCommit => true
  | .deckRetire => true
  | .delayedRingPush => true
  | .launchComplete => true
  | .resumePlacement => true
  | .quantumEnd => true
  | .phaseStart => true
  | .noProgress => true
  | .walkComplete => true
  | .shootdownBoundExpire => true
  | .shootdownRemoval => true
  | .meshContribution => true
  | .meshPartial => true
  | .startNotice => true
  | .reductionTimeout => true
  | .hostCxlMemAccess => true
  | .acquireTimeout => true
  | .waitTimeout => true
  | .flitCrcFail => true
  | .causewayRetrain => true
  | .retrainComplete => true
  | .routeInstall => true
  | .packetReceive => true
  | .packetResend => true
  | .sendAcknowledged => true
  | .chunkSweep => true
  | .drainEnd => true
  | .drainBoundExpire => true
  | .versionNotice => true
  | .wfetchServe => true
  | .recvTimeout => true
  | .updTimeout => true
  | .quadStopFail => true
  | .dieFail => true
  | .scrub => true
  | .blackBoxSave => true
  | .thermalThrottle => true
  | .powerOverCap => true
  | .throttleRestore => true
  | .thermalTrip => true
  | .powerGood => true
  | .warmReset => true
  | .illegalEncoding => true
  | .extensionEncoding => true
  | .unlistedTrelixOpcode => true
  | .connectionSetUp => true
  | .negativeAcknowledgement => true
  | .lossOfSignal => true
  | .pathReturn => true
  | .expanderCompletion => true
  | .hostFlushCompletion => true
  | .hostOwnershipGrant => true
  | .hostSnoop => true
  | .firmwareFault => true
  | .coldPowerLoss => true
  | .uncorrectableError => true

end Sys2Proof
end

