-- ==== Sys2Proof/Decode.lean ====
section
/-! DEFINITION. From bits to instructions and back (R47 to R62, R365, R366): the decoders of S-words, L-words and Trelix
words, total on all words, and the encoders written from the same tables. -/

namespace Sys2Proof

/-! ### Fields of an S-word (R49) -/

def fMajor (w : Word32) : BitVec 6 := w.extractLsb' 26 6
def fSd (w : Word32) : BitVec 6 := w.extractLsb' 20 6
def fSa (w : Word32) : BitVec 6 := w.extractLsb' 14 6
def fSb (w : Word32) : BitVec 6 := w.extractLsb' 8 6
def fFn (w : Word32) : BitVec 8 := w.extractLsb' 0 8
def fImm14 (w : Word32) : BitVec 14 := w.extractLsb' 0 14
def fCond (w : Word32) : BitVec 4 := w.extractLsb' 22 4
def fBa (w : Word32) : BitVec 6 := w.extractLsb' 16 6
def fDisp16 (w : Word32) : BitVec 16 := w.extractLsb' 0 16
def fDisp26 (w : Word32) : BitVec 26 := w.extractLsb' 0 26

/-- The word is no instruction: it traps ILLEGAL (R55). -/
def badS : Instr := .illegalEncoding

/-- The decoded instruction, unless its reserved fields or values make the word ILLEGAL (R55, R116). -/
def okS (c : Bool) (i : Instr) : Instr := if c && wellFormed i then i else badS

/-! ### S-words by major (R58 to R60) -/

/-- Major 0x00, the register forms of R119. -/
def decodeAlu (w : Word32) : Instr :=
  match (fFn w).toNat with
  | 0x01 => .add (fSd w) (fSa w) (fSb w)
  | 0x02 => .sub (fSd w) (fSa w) (fSb w)
  | 0x03 => .mul (fSd w) (fSa w) (fSb w)
  | 0x04 => .mulh (fSd w) (fSa w) (fSb w)
  | 0x05 => .mulhn (fSd w) (fSa w) (fSb w)
  | 0x06 => .div (fSd w) (fSa w) (fSb w)
  | 0x07 => .divn (fSd w) (fSa w) (fSb w)
  | 0x08 => .rem (fSd w) (fSa w) (fSb w)
  | 0x09 => .remn (fSd w) (fSa w) (fSb w)
  | 0x10 => .and (fSd w) (fSa w) (fSb w)
  | 0x11 => .or (fSd w) (fSa w) (fSb w)
  | 0x12 => .xor (fSd w) (fSa w) (fSb w)
  | 0x13 => .andn (fSd w) (fSa w) (fSb w)
  | 0x14 => .orn (fSd w) (fSa w) (fSb w)
  | 0x18 => .sll (fSd w) (fSa w) (fSb w)
  | 0x19 => .srl (fSd w) (fSa w) (fSb w)
  | 0x1A => .sra (fSd w) (fSa w) (fSb w)
  | 0x1B => .rotl (fSd w) (fSa w) (fSb w)
  | 0x1C => .rotr (fSd w) (fSa w) (fSb w)
  | 0x20 => .min (fSd w) (fSa w) (fSb w)
  | 0x21 => .max (fSd w) (fSa w) (fSb w)
  | 0x22 => .minn (fSd w) (fSa w) (fSb w)
  | 0x23 => .maxn (fSd w) (fSa w) (fSb w)
  | 0x28 => okS (fSb w == 0#6) (.clz (fSd w) (fSa w))
  | 0x29 => okS (fSb w == 0#6) (.ctz (fSd w) (fSa w))
  | 0x2A => okS (fSb w == 0#6) (.popc (fSd w) (fSa w))
  | 0x30 => okS (fSb w == 0#6) (.sextI8 (fSd w) (fSa w))
  | 0x31 => okS (fSb w == 0#6) (.sextI16 (fSd w) (fSa w))
  | 0x32 => okS (fSb w == 0#6) (.sextI32 (fSd w) (fSa w))
  | 0x34 => okS (fSb w == 0#6) (.zextN8 (fSd w) (fSa w))
  | 0x35 => okS (fSb w == 0#6) (.zextN16 (fSd w) (fSa w))
  | 0x36 => okS (fSb w == 0#6) (.zextN32 (fSd w) (fSa w))
  | _ => badS

/-- Major 0x01, compares (R121). -/
def decodeCmp (w : Word32) : Instr :=
  match (fFn w).toNat with
  | 0 => .seq (fSd w) (fSa w) (fSb w)
  | 1 => .sne (fSd w) (fSa w) (fSb w)
  | 2 => .slt (fSd w) (fSa w) (fSb w)
  | 3 => .sge (fSd w) (fSa w) (fSb w)
  | 4 => .sltn (fSd w) (fSa w) (fSb w)
  | 5 => .sgen (fSd w) (fSa w) (fSb w)
  | _ => badS

/-- Major 0x06, immediate shifts (R123). -/
def decodeShift (w : Word32) : Instr :=
  let z := w.extractLsb' 6 6 == 0#6
  let n := w.extractLsb' 0 6
  match (w.extractLsb' 12 2).toNat with
  | 0 => okS z (.slli (fSd w) (fSa w) n)
  | 1 => okS z (.srli (fSd w) (fSa w) n)
  | 2 => okS z (.srai (fSd w) (fSa w) n)
  | _ => okS z (.rotli (fSd w) (fSa w) n)

/-- Major 0x14, indexed loads; fn = width [7:6], extension [5], policy [4:2], zero [1:0] (R59). -/
def decodeLd (w : Word32) : Instr :=
  let ww := w.extractLsb' 6 2
  let e := w.extractLsb' 5 1
  match (w.extractLsb' 0 5).toNat with
  | 0x0 => okS true (.ldIndexed (fSd w) (fSa w) (fSb w) ww e)
  | 0x4 => okS true (.ldCons (fSd w) (fSa w) (fSb w) ww e)
  | 0x8 => okS true (.ldUnc (fSd w) (fSa w) (fSb w) ww e)
  | 0xC => okS true (.ldReaders (fSd w) (fSa w) (fSb w) ww e)
  | _ => badS

/-- Major 0x15, indexed stores (R59). -/
def decodeSt (w : Word32) : Instr :=
  let ww := w.extractLsb' 6 2
  match (w.extractLsb' 0 6).toNat with
  | 0x0 => .stIndexed (fSd w) (fSa w) (fSb w) ww
  | 0x8 => .stUnc (fSd w) (fSa w) (fSb w) ww
  | _ => badS

/-- Major 0x16, FIFO (R59, R127). -/
def decodeFifo (w : Word32) : Instr :=
  let k := w.extractLsb' 0 5
  match (w.extractLsb' 5 3).toNat with
  | 0 => okS (fSa w == 0#6 && fSb w == 0#6) (.pop (fSd w) k)
  | 4 => okS (fSd w == 0#6 && fSb w == 0#6) (.push (fSa w) k)
  | _ => badS

/-- Major 0x18, branches (R129). -/
def decodeBranch (w : Word32) : Instr :=
  match (fCond w).toNat with
  | 0 => .beqz (fBa w) (fDisp16 w)
  | 1 => .bnez (fBa w) (fDisp16 w)
  | 2 => .bltz (fBa w) (fDisp16 w)
  | 3 => .bgez (fBa w) (fDisp16 w)
  | 4 => .bgtz (fBa w) (fDisp16 w)
  | 5 => .blez (fBa w) (fDisp16 w)
  | 6 => .bmz (fBa w) (fDisp16 w)
  | 7 => .bmnz (fBa w) (fDisp16 w)
  | _ => badS

/-- Major 0x1B, register jump and call (R130). -/
def decodeJr (w : Word32) : Instr :=
  let z := fSd w == 0#6 && fSb w == 0#6
  match (fFn w).toNat with
  | 0 => okS z (.jmpRegister (fSa w))
  | 1 => okS z (.callRegister (fSa w))
  | _ => badS

/-- Major 0x23, mask instructions (R133). -/
def decodeMask (w : Word32) : Instr :=
  let zd := fSd w == 0#6
  let za := fSa w == 0#6
  let zb := fSb w == 0#6
  match (fFn w).toNat with
  | 0 => okS (zd && zb) (.mpush (fSa w))
  | 1 => okS (zd && za && zb) .melse
  | 2 => okS (zd && za && zb) .mpop
  | 3 => okS (zd && zb) (.mset (fSa w))
  | 4 => okS (za && zb) (.mget (fSd w))
  | 5 => okS (za && zb) (.lget (fSd w))
  | _ => badS

/-- Major 0x24, plane instructions (R134). -/
def decodePlane (w : Word32) : Instr :=
  let k := w.extractLsb' 0 2
  let zab := fSa w == 0#6 && fSb w == 0#6
  match (w.extractLsb' 2 6).toNat with
  | 0x0 => okS (fSd w == 0#6 && zab) (.plall k)
  | 0x4 => okS zab (.plmask (fSd w) k)
  | 0x8 => okS (zab && k == 0#2) (.plget (fSd w))
  | _ => badS

/-- Major 0x28, copies; eop = [25:20] (R60). -/
def decodeCopy (w : Word32) : Instr :=
  let m := w.extractLsb' 23 2
  let c := w.extractLsb' 2 6
  let q := w.extractLsb' 0 2
  if w.getLsbD 25 then badS
  else match (w.extractLsb' 20 3).toNat with
    | 0 => okS true (.copy m (fSa w) (fSb w) c q)
    | 4 => okS true (.copySlot m (fSa w) (fSb w) c q)
    | 2 => okS true (.copyReaders m (fSa w) (fSb w) c q)
    | _ => badS

/-- Major 0x29, mma (R60): queue 4, or a copy queue. -/
def decodeMma (w : Word32) : Instr :=
  let n := w.extractLsb' 23 2
  let k := w.extractLsb' 20 3
  let z := w.extractLsb' 13 1
  let p := w.extractLsb' 12 1
  let sa := w.extractLsb' 8 4
  let r := w.extractLsb' 6 1
  let t := w.extractLsb' 2 4
  let q := w.extractLsb' 0 2
  if w.getLsbD 7 then badS
  else if w.getLsbD 25 then okS (q == 0#2) (.mma n k (fSa w) z p sa r t)
  else .mmaVia n k (fSa w) z p sa r t q

/-- Major 0x2A, acst (R60). -/
def decodeAcst (w : Word32) : Instr :=
  okS (w.getLsbD 25 && w.extractLsb' 0 2 == 0#2)
    (.acst (w.extractLsb' 23 2) (w.extractLsb' 20 3) (fSa w) (fSb w) (w.extractLsb' 2 6))

/-- Major 0x2B, slot claims (R60). -/
def decodeClaim (w : Word32) : Instr :=
  let slot := w.extractLsb' 20 4
  let z := fSa w == 0#6 && fSb w == 0#6
  match (w.extractLsb' 24 2).toNat with
  | 0 => okS z (.tclaim slot (fFn w))
  | 1 => okS (z && fFn w == 0#8) (.trel slot)
  | _ => badS

/-- Major 0x2C, qfence (R60). -/
def decodeQfence (w : Word32) : Instr :=
  okS (fSd w == 0#6 && fSa w == 0#6 && fSb w == 0#6 && w.extractLsb' 0 2 == 0#2) (.qfence (w.extractLsb' 2 6))

/-- Major 0x2D, collectives: queue 5 only (R60). -/
def decodeColl (w : Word32) : Instr :=
  let slot := w.extractLsb' 8 4
  let c := w.extractLsb' 2 6
  let z := w.getLsbD 25 && w.extractLsb' 0 2 == 1#2 && w.extractLsb' 12 2 == 0#2
  match (w.extractLsb' 20 5).toNat with
  | 0 => okS z (.collRs (fSa w) slot c)
  | 1 => okS z (.collAg (fSa w) slot c)
  | 2 => okS z (.collAr (fSa w) slot c)
  | 3 => okS z (.collBc (fSa w) slot c)
  | _ => badS

/-- Major 0x30, barriers (R59). -/
def decodeBarrier (w : Word32) : Instr :=
  let zd := fSd w == 0#6
  let zb := fSb w == 0#6
  match (fFn w).toNat with
  | 0x00 => .barinit (fSd w) (fSa w) (fSb w)
  | 0x10 => okS (zd && zb) (.barreg (fSa w))
  | 0x20 => okS (zd && zb) (.bararr (fSa w))
  | 0x30 => okS zd (.barexp (fSa w) (fSb w))
  | 0x40 => okS (zd && zb) (.bardrop (fSa w))
  | _ => badS

/-- Major 0x32, sync objects and bindings (R59). -/
def decodeSync (w : Word32) : Instr :=
  let sc := w.extractLsb' 0 3
  match (w.extractLsb' 3 5).toNat with
  | 0x0 => okS (fSb w == 0#6) (.acq (fSd w) (fSa w) sc)
  | 0x2 => okS (fSd w == 0#6 && fSb w == 0#6) (.rel (fSa w) sc)
  | 0x4 => okS (sc == 0#3) (.rbind (fSd w) (fSa w) (fSb w))
  | _ => badS

/-- Major 0x34, 32-bit atomics; fn = op [7:4], ordering and scope [3:0] (R59). -/
def decodeAtom32 (w : Word32) : Instr :=
  let o := w.extractLsb' 0 4
  match (w.extractLsb' 4 4).toNat with
  | 0 => .atomB32Add (fSd w) (fSa w) (fSb w) o
  | 1 => .atomB32Min (fSd w) (fSa w) (fSb w) o
  | 2 => .atomB32Max (fSd w) (fSa w) (fSb w) o
  | 3 => .atomB32Minn (fSd w) (fSa w) (fSb w) o
  | 4 => .atomB32Maxn (fSd w) (fSa w) (fSb w) o
  | 5 => .atomB32And (fSd w) (fSa w) (fSb w) o
  | 6 => .atomB32Or (fSd w) (fSa w) (fSb w) o
  | 7 => .atomB32Xor (fSd w) (fSa w) (fSb w) o
  | 8 => .atomB32Xchg (fSd w) (fSa w) (fSb w) o
  | 9 => .atomB32Cas (fSd w) (fSa w) (fSb w) o
  | 10 => .atomB32Fadd (fSd w) (fSa w) (fSb w) o
  | 11 => .atomB32Bf16x2add (fSd w) (fSa w) (fSb w) o
  | _ => badS

/-- Major 0x35, 64-bit atomics (R59). -/
def decodeAtom64 (w : Word32) : Instr :=
  let o := w.extractLsb' 0 4
  match (w.extractLsb' 4 4).toNat with
  | 0 => .atomN64Add (fSd w) (fSa w) (fSb w) o
  | 1 => .atomN64Min (fSd w) (fSa w) (fSb w) o
  | 2 => .atomN64Max (fSd w) (fSa w) (fSb w) o
  | 3 => .atomN64Minn (fSd w) (fSa w) (fSb w) o
  | 4 => .atomN64Maxn (fSd w) (fSa w) (fSb w) o
  | 5 => .atomN64And (fSd w) (fSa w) (fSb w) o
  | 6 => .atomN64Or (fSd w) (fSa w) (fSb w) o
  | 7 => .atomN64Xor (fSd w) (fSa w) (fSb w) o
  | 8 => .atomN64Xchg (fSd w) (fSa w) (fSb w) o
  | 9 => .atomN64Cas (fSd w) (fSa w) (fSb w) o
  | _ => badS

/-- Major 0x38, system (R140, R201): a `syswr` number without a row is ILLEGAL. -/
def decodeSystem (w : Word32) : Instr :=
  let n := fImm14 w
  match (fSd w).toNat with
  | 0 => .sysrd (fSa w) n
  | 1 => match n.toNat with
    | 0x100 => .step (fSa w)
    | 0x101 => .undomark (fSa w)
    | 0x180 => .bkmode (fSa w)
    | _ => badS
  | 2 => okS (fSa w == 0#6) (.brk n)
  | 3 => okS (fSa w == 0#6 && n == 0#14) .tret
  | 4 => okS (fSa w == 0#6 && n == 0#14) .nop
  | _ => badS

/-- Major 0x39, histograms (R138, R139). -/
def decodeHist (w : Word32) : Instr :=
  let t := w.extractLsb' 0 3
  match (w.extractLsb' 3 5).toNat with
  | 0 => okS (fSa w == 0#6) (.hrd (fSd w) (fSb w) t)
  | 2 => okS (fSd w == 0#6 && fSb w == 0#6) (.hclr (fSa w) t)
  | _ => badS

/-- Decode an S-word: first an ILLEGAL major, then an X major, then the rest (R55, R56, R58). -/
def decodeS (w : Word32) : Instr :=
  match (fMajor w).toNat with
  | 0x00 => decodeAlu w
  | 0x01 => decodeCmp w
  | 0x02 => .addi (fSd w) (fSa w) (fImm14 w)
  | 0x03 => .andi (fSd w) (fSa w) (fImm14 w)
  | 0x04 => .ori (fSd w) (fSa w) (fImm14 w)
  | 0x05 => .xori (fSd w) (fSa w) (fImm14 w)
  | 0x06 => decodeShift w
  | 0x07 => .slin (fSd w) (fSa w) (fImm14 w)
  | 0x08 => .slti (fSd w) (fSa w) (fImm14 w)
  | 0x09 => .sltni (fSd w) (fSa w) (fImm14 w)
  | 0x0A => .seqi (fSd w) (fSa w) (fImm14 w)
  | 0x10 => .ldB64 (fSd w) (fSa w) (fImm14 w)
  | 0x11 => .ldN32 (fSd w) (fSa w) (fImm14 w)
  | 0x12 => .stB64 (fSd w) (fSa w) (fImm14 w)
  | 0x13 => .stB32 (fSd w) (fSa w) (fImm14 w)
  | 0x14 => decodeLd w
  | 0x15 => decodeSt w
  | 0x16 => decodeFifo w
  | 0x17 => okS (fSd w == 0#6 && fFn w == 0#8) (.dropc (fSa w) (fSb w))
  | 0x18 => decodeBranch w
  | 0x19 => .jmp (fDisp26 w)
  | 0x1A => .call (fDisp26 w)
  | 0x1B => decodeJr w
  | 0x1C => okS (fDisp26 w == 0#26) .ret
  | 0x1D => okS (fDisp26 w == 0#26) .sexit
  | 0x20 => .lrun (w.extractLsb' 18 8) (w.extractLsb' 0 18)
  | 0x21 => okS (fSd w == 0#6 && fSb w == 0#6) (.lrunRegister (fSa w) (fFn w))
  | 0x22 => okS (fSd w == 0#6) (.lrunp (fSa w) (fSb w) (fFn w))
  | 0x23 => decodeMask w
  | 0x24 => decodePlane w
  | 0x28 => decodeCopy w
  | 0x29 => decodeMma w
  | 0x2A => decodeAcst w
  | 0x2B => decodeClaim w
  | 0x2C => decodeQfence w
  | 0x2D => decodeColl w
  | 0x2E => okS (fSb w == 0#6 && w.extractLsb' 3 5 == 0#5) (.cpush (fSd w) (fSa w) (w.extractLsb' 0 3))
  | 0x30 => decodeBarrier w
  | 0x31 => .barwait (fSd w) (fSa w) (fSb w) (fFn w)
  | 0x32 => decodeSync w
  | 0x33 => okS (fSd w == 0#6 && fSa w == 0#6 && fSb w == 0#6 && w.extractLsb' 3 5 == 0#5)
      (.fence (w.extractLsb' 0 3))
  | 0x34 => decodeAtom32 w
  | 0x35 => decodeAtom64 w
  | 0x36 => okS (fSd w == 0#6 && fSb w == 0#6) (.rsend (fSa w) (fFn w))
  | 0x38 => decodeSystem w
  | 0x39 => decodeHist w
  | 0x3C | 0x3D | 0x3E => .extensionEncoding
  | _ => badS

/-! ### L-words (R51, R61) -/

/-- The fields of an L-word. -/
def lFieldsOf (w : LWord) : LFields where
  vd := w.extractLsb' 80 8
  va := w.extractLsb' 72 8
  vb := w.extractLsb' 64 8
  vc := w.extractLsb' 56 8
  bcls := w.extractLsb' 54 2
  ccls := w.extractLsb' 52 2
  fe := w.extractLsb' 49 3
  fs := w.extractLsb' 46 3
  rm := w.extractLsb' 43 3
  ty := w.extractLsb' 39 4
  sdst := w.extractLsb' 33 6
  mod := w.extractLsb' 32 1
  p2 := w.extractLsb' 0 32

/-- The word is no instruction: it traps ILLEGAL when it reaches issue (R55, R56). -/
def badL : Instr := .illegalEncoding

def okL (i : Instr) : Instr := if wellFormed i then i else badL

/-- Op 0xB4 by parcel 2 [31:28] (R109). -/
def decodeVatom (w : LWord) : Instr :=
  let x := lFieldsOf w
  match (w.extractLsb' 28 4).toNat with
  | 0 => okL (.vatomAdd x)
  | 1 => okL (.vatomMin x)
  | 2 => okL (.vatomMax x)
  | 3 => okL (.vatomMinn x)
  | 4 => okL (.vatomMaxn x)
  | 5 => okL (.vatomAnd x)
  | 6 => okL (.vatomOr x)
  | 7 => okL (.vatomXor x)
  | 8 => okL (.vatomXchg x)
  | 9 => okL (.vatomCas x)
  | 10 => okL (.vatomFadd x)
  | 11 => okL (.vatomBf16x2add x)
  | _ => badL

/-- Op 0xC0 by parcel 2 [31:30] (R87). -/
def decodeVshuf (w : LWord) : Instr :=
  let x := lFieldsOf w
  match (w.extractLsb' 30 2).toNat with
  | 0 => okL (.vshufXor x)
  | 1 => okL (.vshufRot x)
  | 2 => okL (.vshufDn x)
  | _ => okL (.vshufUp x)

/-- Decode an L-word (R55, R56, R61). -/
def decodeL (w : LWord) : Instr :=
  let x := lFieldsOf w
  let op := (w.extractLsb' 88 8).toNat
  match op with
  | 0x01 => okL (.vadd x)
  | 0x02 => okL (.vsub x)
  | 0x03 => okL (.vadds x)
  | 0x04 => okL (.vsubs x)
  | 0x05 => okL (.vmul x)
  | 0x06 => okL (.vmulh x)
  | 0x07 => okL (.vmad x)
  | 0x08 => okL (.vdiv x)
  | 0x09 => okL (.vrem x)
  | 0x0A => okL (.vmin x)
  | 0x0B => okL (.vmax x)
  | 0x0C => okL (.vabs x)
  | 0x0D => okL (.vabsd x)
  | 0x10 => okL (.vand x)
  | 0x11 => okL (.vor x)
  | 0x12 => okL (.vxor x)
  | 0x13 => okL (.vandn x)
  | 0x14 => okL (.vnot x)
  | 0x15 => okL (.vsel x)
  | 0x18 => okL (.vshl x)
  | 0x19 => okL (.vshr x)
  | 0x1A => okL (.vrotl x)
  | 0x1B => okL (.vclz x)
  | 0x1C => okL (.vpopc x)
  | 0x1D => okL (.vbrev x)
  | 0x20 => okL (.vceq x)
  | 0x21 => okL (.vcne x)
  | 0x22 => okL (.vclt x)
  | 0x23 => okL (.vcle x)
  | 0x24 => okL (.vcgt x)
  | 0x25 => okL (.vcge x)
  | 0x28 => okL (.vmov x)
  | 0x29 => okL (.vlane x)
  | 0x2A => okL (.vgid x)
  | 0x40 => okL (.vfadd x)
  | 0x41 => okL (.vfsub x)
  | 0x42 => okL (.vfmul x)
  | 0x43 => okL (.vfma x)
  | 0x44 => okL (.vfms x)
  | 0x45 => okL (.vfnma x)
  | 0x46 => okL (.vfmin x)
  | 0x47 => okL (.vfmax x)
  | 0x48 => okL (.vfdiv x)
  | 0x49 => okL (.vfsqrt x)
  | 0x4A => okL (.vexp2 x)
  | 0x4B => okL (.vlog2 x)
  | 0x4C => okL (.vfabs x)
  | 0x4D => okL (.vfneg x)
  | 0x4E => okL (.vfcsgn x)
  | 0x50 => okL (.vfceq x)
  | 0x51 => okL (.vfcne x)
  | 0x52 => okL (.vfclt x)
  | 0x53 => okL (.vfcle x)
  | 0x54 => okL (.vfcun x)
  | 0x80 => okL (.vcvt x)
  | 0x81 => okL (.vcvtp x)
  | 0x82 => okL (.vcvtu x)
  | 0x84 => okL (.vmxpack x)
  | 0x85 => okL (.vmxunpk x)
  | 0x86 => okL (.vf4pack x)
  | 0x87 => okL (.vf4unpk x)
  | 0x88 => okL (.vrnd x)
  | 0xA0 => okL (.vld x)
  | 0xA1 => okL (.vldCons x)
  | 0xA2 => okL (.vldUnc x)
  | 0xA3 => okL (.vldReaders x)
  | 0xA8 => okL (.vst x)
  | 0xA9 => okL (.vstUnc x)
  | 0xB0 => okL (.vpush x)
  | 0xB1 => okL (.vpop x)
  | 0xB4 => decodeVatom w
  | 0xC0 => decodeVshuf w
  | 0xC1 => okL (.vperm x)
  | 0xC2 => okL (.vbcast x)
  | 0xC4 => okL (.vredadd x)
  | 0xC5 => okL (.vredmin x)
  | 0xC6 => okL (.vredmax x)
  | 0xC7 => okL (.vredand x)
  | 0xC8 => okL (.vredor x)
  | 0xC9 => okL (.vscan x)
  | 0xCC => okL (.vrfl x)
  | 0xCD => okL (.vrul x)
  | 0xD0 => if lFieldsOk shNone x then .vexit else badL
  | 0xD1 => okL (.vplset x)
  | 0xD2 => if lFieldsOk shNone x then .lnop else badL
  | 0xD3 => okL (.vpl x)
  | _ => if 0xE0 ≤ op ∧ op ≠ 0xFF then .extensionEncoding else badL

/-! ### Trelix words (R365, R366) -/

/-- The fields of a Trelix word. -/
def tFieldsOf (w : Word32) : TFields where
  x := w.extractLsb' 21 5
  a := w.extractLsb' 16 5
  b := w.extractLsb' 11 5
  low := w.extractLsb' 0 11

/-- The word is no instruction: the processor traps ILLEGAL and halts (R364, R366). -/
def badT : Instr := .unlistedTrelixOpcode

/-- The reserved fields of a Trelix instruction are zero (R366). -/
def trelixFieldsOk (i : Instr) (t : TFields) : Bool :=
  match i with
  | .trelixAdd => t.low == 0x01#11
  | .trelixSub => t.low == 0x02#11
  | .trelixMul => t.low == 0x03#11
  | .trelixAnd => t.low == 0x10#11
  | .trelixOr => t.low == 0x11#11
  | .trelixXor => t.low == 0x12#11
  | .trelixSll => t.low == 0x18#11
  | .trelixSrl => t.low == 0x19#11
  | .trelixSra => t.low == 0x1A#11
  | .trelixSlt => t.low == 0x20#11
  | .trelixSltn => t.low == 0x21#11
  | .trelixSeq => t.low == 0x22#11
  | .trelixAddi => true
  | .trelixSlin => true
  | .trelixLd => true
  | .trelixSt => true
  | .trelixBeq => true
  | .trelixBne => true
  | .trelixBlt => true
  | .trelixBltn => true
  | .trelixJal => true
  | .trelixJr => t.x == 0#5 && t.b == 0#5 && t.low == 0#11
  | .trelixHalt => t.x == 0#5 && t.a == 0#5
  | .trelixSend => t.b == 0#5 && t.low == 0#11
  | .trelixRecv => t.b == 0#5 && t.low == 0#11
  | .trelixEnc => t.b == 0#5 && t.low == 0#11
  | .trelixDec => t.b == 0#5 && t.low == 0#11
  | .trelixSadd => t.b == 0#5 && t.low == 0#11
  | .trelixRld => t.b == 0#5 && t.low == 0#11
  | .trelixRst => t.b == 0#5 && t.low == 0#11
  | .trelixRsave => t.low == 0#11
  | .trelixRload => t.low == 0#11
  | .trelixGnew => t.b == 0#5 && t.low == 0#11
  | .trelixGret => t.b == 0#5 && t.low == 0#11
  | .trelixGwatch => t.low == 0#11
  | .trelixBwait => true
  | .trelixBarr => t.low == 0#11
  | .trelixBland => t.low == 0#11
  | .trelixHopen => t.low == 0#11
  | .trelixUpd => t.low == 0#11
  | .trelixHclose => t.low == 0#11
  | .trelixHcommit => t.low == 0#11
  | .trelixHabort => t.low == 0#11
  | .trelixWfetch => t.b == 0#5 && t.low == 0#11
  | _ => false

/-- Major 0x00 of Trelix by fn [10:0] (R366). -/
def decodeTAlu (t : TFields) : Instr :=
  match t.low.toNat with
  | 0x01 => .trelixAdd
  | 0x02 => .trelixSub
  | 0x03 => .trelixMul
  | 0x10 => .trelixAnd
  | 0x11 => .trelixOr
  | 0x12 => .trelixXor
  | 0x18 => .trelixSll
  | 0x19 => .trelixSrl
  | 0x1A => .trelixSra
  | 0x20 => .trelixSlt
  | 0x21 => .trelixSltn
  | 0x22 => .trelixSeq
  | _ => badT

/-- The row of a Trelix word by its major. -/
def trelixRow (w : Word32) : Instr :=
  match (fMajor w).toNat with
  | 0x00 => decodeTAlu (tFieldsOf w)
  | 0x01 => .trelixAddi
  | 0x02 => .trelixSlin
  | 0x04 => .trelixLd
  | 0x05 => .trelixSt
  | 0x08 => .trelixBeq
  | 0x09 => .trelixBne
  | 0x0A => .trelixBlt
  | 0x0B => .trelixBltn
  | 0x0C => .trelixJal
  | 0x0D => .trelixJr
  | 0x0E => .trelixHalt
  | 0x10 => .trelixSend
  | 0x11 => .trelixRecv
  | 0x12 => .trelixEnc
  | 0x13 => .trelixDec
  | 0x14 => .trelixSadd
  | 0x18 => .trelixRld
  | 0x19 => .trelixRst
  | 0x1A => .trelixRsave
  | 0x1B => .trelixRload
  | 0x1C => .trelixGnew
  | 0x1D => .trelixGret
  | 0x1E => .trelixGwatch
  | 0x20 => .trelixBwait
  | 0x21 => .trelixBarr
  | 0x22 => .trelixBland
  | 0x28 => .trelixHopen
  | 0x29 => .trelixUpd
  | 0x2A => .trelixHclose
  | 0x2B => .trelixHcommit
  | 0x2C => .trelixHabort
  | 0x2D => .trelixWfetch
  | _ => badT

/-- Decode a Trelix word: an unlisted major or fn, or a non-zero reserved field, is no instruction (R366). -/
def decodeT (w : Word32) : Instr :=
  if trelixFieldsOk (trelixRow w) (tFieldsOf w) then trelixRow w else badT

/-! ### The encoders -/

/-- Format S.R (R49). -/
def wR (major d a b : BitVec 6) (fn : BitVec 8) : Word32 := major ++ d ++ a ++ b ++ fn
/-- Formats S.I and S.Z. -/
def wI (major d a : BitVec 6) (imm : BitVec 14) : Word32 := major ++ d ++ a ++ imm
/-- Format S.B. -/
def wB (cond : BitVec 4) (a : BitVec 6) (disp : BitVec 16) : Word32 := 0x18#6 ++ cond ++ a ++ disp
/-- Format S.J. -/
def wJ (major : BitVec 6) (disp : BitVec 26) : Word32 := major ++ disp
/-- An L-word (R51). -/
def wL (op : BitVec 8) (x : LFields) : LWord :=
  op ++ x.vd ++ x.va ++ x.vb ++ x.vc ++ x.bcls ++ x.ccls ++ x.fe ++ x.fs ++ x.rm ++ x.ty ++ x.sdst ++ x.mod ++ x.p2
/-- A Trelix word (R365). -/
def wT (major : BitVec 6) (t : TFields) : Word32 := major ++ t.x ++ t.a ++ t.b ++ t.low

/-- The word of a well-formed S-word instruction; none for every other instruction. -/
def encodeS (i : Instr) : Option Word32 :=
  match i with
  | .add d a b => some (wR 0x00#6 d a b 0x1#8)
  | .sub d a b => some (wR 0x00#6 d a b 0x2#8)
  | .mul d a b => some (wR 0x00#6 d a b 0x3#8)
  | .mulh d a b => some (wR 0x00#6 d a b 0x4#8)
  | .mulhn d a b => some (wR 0x00#6 d a b 0x5#8)
  | .div d a b => some (wR 0x00#6 d a b 0x6#8)
  | .divn d a b => some (wR 0x00#6 d a b 0x7#8)
  | .rem d a b => some (wR 0x00#6 d a b 0x8#8)
  | .remn d a b => some (wR 0x00#6 d a b 0x9#8)
  | .and d a b => some (wR 0x00#6 d a b 0x10#8)
  | .or d a b => some (wR 0x00#6 d a b 0x11#8)
  | .xor d a b => some (wR 0x00#6 d a b 0x12#8)
  | .andn d a b => some (wR 0x00#6 d a b 0x13#8)
  | .orn d a b => some (wR 0x00#6 d a b 0x14#8)
  | .sll d a b => some (wR 0x00#6 d a b 0x18#8)
  | .srl d a b => some (wR 0x00#6 d a b 0x19#8)
  | .sra d a b => some (wR 0x00#6 d a b 0x1A#8)
  | .rotl d a b => some (wR 0x00#6 d a b 0x1B#8)
  | .rotr d a b => some (wR 0x00#6 d a b 0x1C#8)
  | .min d a b => some (wR 0x00#6 d a b 0x20#8)
  | .max d a b => some (wR 0x00#6 d a b 0x21#8)
  | .minn d a b => some (wR 0x00#6 d a b 0x22#8)
  | .maxn d a b => some (wR 0x00#6 d a b 0x23#8)
  | .clz d a => some (wR 0x00#6 d a 0x0#6 0x28#8)
  | .ctz d a => some (wR 0x00#6 d a 0x0#6 0x29#8)
  | .popc d a => some (wR 0x00#6 d a 0x0#6 0x2A#8)
  | .sextI8 d a => some (wR 0x00#6 d a 0x0#6 0x30#8)
  | .sextI16 d a => some (wR 0x00#6 d a 0x0#6 0x31#8)
  | .sextI32 d a => some (wR 0x00#6 d a 0x0#6 0x32#8)
  | .zextN8 d a => some (wR 0x00#6 d a 0x0#6 0x34#8)
  | .zextN16 d a => some (wR 0x00#6 d a 0x0#6 0x35#8)
  | .zextN32 d a => some (wR 0x00#6 d a 0x0#6 0x36#8)
  | .seq d a b => some (wR 0x01#6 d a b 0x0#8)
  | .sne d a b => some (wR 0x01#6 d a b 0x1#8)
  | .slt d a b => some (wR 0x01#6 d a b 0x2#8)
  | .sge d a b => some (wR 0x01#6 d a b 0x3#8)
  | .sltn d a b => some (wR 0x01#6 d a b 0x4#8)
  | .sgen d a b => some (wR 0x01#6 d a b 0x5#8)
  | .addi d a imm => some (wI 0x02#6 d a imm)
  | .andi d a imm => some (wI 0x03#6 d a imm)
  | .ori d a imm => some (wI 0x04#6 d a imm)
  | .xori d a imm => some (wI 0x05#6 d a imm)
  | .slli d a n => some (wR 0x06#6 d a 0x0#6 (0x0#2 ++ n))
  | .srli d a n => some (wR 0x06#6 d a 0x10#6 (0x0#2 ++ n))
  | .srai d a n => some (wR 0x06#6 d a 0x20#6 (0x0#2 ++ n))
  | .rotli d a n => some (wR 0x06#6 d a 0x30#6 (0x0#2 ++ n))
  | .slin d a imm => some (wI 0x07#6 d a imm)
  | .slti d a imm => some (wI 0x08#6 d a imm)
  | .sltni d a imm => some (wI 0x09#6 d a imm)
  | .seqi d a imm => some (wI 0x0A#6 d a imm)
  | .ldB64 d a imm => some (wI 0x10#6 d a imm)
  | .ldN32 d a imm => some (wI 0x11#6 d a imm)
  | .stB64 d a imm => some (wI 0x12#6 d a imm)
  | .stB32 d a imm => some (wI 0x13#6 d a imm)
  | .ldIndexed d a b w e => some (wR 0x14#6 d a b (w ++ e ++ 0x0#5))
  | .ldCons d a b w e => some (wR 0x14#6 d a b (w ++ e ++ 0x4#5))
  | .ldUnc d a b w e => some (wR 0x14#6 d a b (w ++ e ++ 0x8#5))
  | .ldReaders d a b w e => some (wR 0x14#6 d a b (w ++ e ++ 0xC#5))
  | .stIndexed d a b w => some (wR 0x15#6 d a b (w ++ 0x0#6))
  | .stUnc d a b w => some (wR 0x15#6 d a b (w ++ 0x8#6))
  | .pop d k => some (wR 0x16#6 d 0x0#6 0x0#6 (0x0#3 ++ k))
  | .push a k => some (wR 0x16#6 0x0#6 a 0x0#6 (0x4#3 ++ k))
  | .dropc a b => some (wR 0x17#6 0x0#6 a b 0x0#8)
  | .beqz a imm => some (wB 0x0#4 a imm)
  | .bnez a imm => some (wB 0x1#4 a imm)
  | .bltz a imm => some (wB 0x2#4 a imm)
  | .bgez a imm => some (wB 0x3#4 a imm)
  | .bgtz a imm => some (wB 0x4#4 a imm)
  | .blez a imm => some (wB 0x5#4 a imm)
  | .bmz a imm => some (wB 0x6#4 a imm)
  | .bmnz a imm => some (wB 0x7#4 a imm)
  | .jmp imm => some (wJ 0x19#6 imm)
  | .call imm => some (wJ 0x1A#6 imm)
  | .jmpRegister a => some (wR 0x1B#6 0x0#6 a 0x0#6 0x0#8)
  | .callRegister a => some (wR 0x1B#6 0x0#6 a 0x0#6 0x1#8)
  | .ret => some (wR 0x1C#6 0x0#6 0x0#6 0x0#6 0x0#8)
  | .sexit => some (wR 0x1D#6 0x0#6 0x0#6 0x0#6 0x0#8)
  | .lrun n o => some (wJ 0x20#6 (n ++ o))
  | .lrunRegister a n => some (wR 0x21#6 0x0#6 a 0x0#6 n)
  | .lrunp a b n => some (wR 0x22#6 0x0#6 a b n)
  | .mpush a => some (wR 0x23#6 0x0#6 a 0x0#6 0x0#8)
  | .melse => some (wR 0x23#6 0x0#6 0x0#6 0x0#6 0x1#8)
  | .mpop => some (wR 0x23#6 0x0#6 0x0#6 0x0#6 0x2#8)
  | .mset a => some (wR 0x23#6 0x0#6 a 0x0#6 0x3#8)
  | .mget d => some (wR 0x23#6 d 0x0#6 0x0#6 0x4#8)
  | .lget d => some (wR 0x23#6 d 0x0#6 0x0#6 0x5#8)
  | .plall k => some (wR 0x24#6 0x0#6 0x0#6 0x0#6 (0x0#6 ++ k))
  | .plmask d k => some (wR 0x24#6 d 0x0#6 0x0#6 (0x4#6 ++ k))
  | .plget d => some (wR 0x24#6 d 0x0#6 0x0#6 0x20#8)
  | .copy m a b c q => some (wR 0x28#6 (0x0#1 ++ m ++ 0x0#3) a b (c ++ q))
  | .copySlot m a b c q => some (wR 0x28#6 (0x0#1 ++ m ++ 0x4#3) a b (c ++ q))
  | .copyReaders m a b c q => some (wR 0x28#6 (0x0#1 ++ m ++ 0x2#3) a b (c ++ q))
  | .mma n k a z p sa r t => some (wR 0x29#6 (0x1#1 ++ n ++ k) a (z ++ p ++ sa) (0x0#1 ++ r ++ t ++ 0x0#2))
  | .mmaVia n k a z p sa r t q => some (wR 0x29#6 (0x0#1 ++ n ++ k) a (z ++ p ++ sa) (0x0#1 ++ r ++ t ++ q))
  | .acst n k a b c => some (wR 0x2A#6 (0x1#1 ++ n ++ k) a b (c ++ 0x0#2))
  | .tclaim slot r => some (wR 0x2B#6 (0x0#2 ++ slot) 0x0#6 0x0#6 r)
  | .trel slot => some (wR 0x2B#6 (0x1#2 ++ slot) 0x0#6 0x0#6 0x0#8)
  | .qfence m => some (wR 0x2C#6 0x0#6 0x0#6 0x0#6 (m ++ 0x0#2))
  | .collRs a slot c => some (wR 0x2D#6 0x20#6 a (0x0#2 ++ slot) (c ++ 0x1#2))
  | .collAg a slot c => some (wR 0x2D#6 0x21#6 a (0x0#2 ++ slot) (c ++ 0x1#2))
  | .collAr a slot c => some (wR 0x2D#6 0x22#6 a (0x0#2 ++ slot) (c ++ 0x1#2))
  | .collBc a slot c => some (wR 0x2D#6 0x23#6 a (0x0#2 ++ slot) (c ++ 0x1#2))
  | .cpush d a p => some (wR 0x2E#6 d a 0x0#6 (0x0#5 ++ p))
  | .barinit d a b => some (wR 0x30#6 d a b 0x0#8)
  | .barreg a => some (wR 0x30#6 0x0#6 a 0x0#6 0x10#8)
  | .bararr a => some (wR 0x30#6 0x0#6 a 0x0#6 0x20#8)
  | .barexp a b => some (wR 0x30#6 0x0#6 a b 0x30#8)
  | .bardrop a => some (wR 0x30#6 0x0#6 a 0x0#6 0x40#8)
  | .barwait d a b l => some (wR 0x31#6 d a b l)
  | .acq d a scope => some (wR 0x32#6 d a 0x0#6 (0x0#5 ++ scope))
  | .rel a scope => some (wR 0x32#6 0x0#6 a 0x0#6 (0x2#5 ++ scope))
  | .rbind d a b => some (wR 0x32#6 d a b 0x20#8)
  | .fence scope => some (wR 0x33#6 0x0#6 0x0#6 0x0#6 (0x0#5 ++ scope))
  | .atomB32Add d a b o => some (wR 0x34#6 d a b (0x0#4 ++ o))
  | .atomB32Min d a b o => some (wR 0x34#6 d a b (0x1#4 ++ o))
  | .atomB32Max d a b o => some (wR 0x34#6 d a b (0x2#4 ++ o))
  | .atomB32Minn d a b o => some (wR 0x34#6 d a b (0x3#4 ++ o))
  | .atomB32Maxn d a b o => some (wR 0x34#6 d a b (0x4#4 ++ o))
  | .atomB32And d a b o => some (wR 0x34#6 d a b (0x5#4 ++ o))
  | .atomB32Or d a b o => some (wR 0x34#6 d a b (0x6#4 ++ o))
  | .atomB32Xor d a b o => some (wR 0x34#6 d a b (0x7#4 ++ o))
  | .atomB32Xchg d a b o => some (wR 0x34#6 d a b (0x8#4 ++ o))
  | .atomB32Cas d a b o => some (wR 0x34#6 d a b (0x9#4 ++ o))
  | .atomB32Fadd d a b o => some (wR 0x34#6 d a b (0xA#4 ++ o))
  | .atomB32Bf16x2add d a b o => some (wR 0x34#6 d a b (0xB#4 ++ o))
  | .atomN64Add d a b o => some (wR 0x35#6 d a b (0x0#4 ++ o))
  | .atomN64Min d a b o => some (wR 0x35#6 d a b (0x1#4 ++ o))
  | .atomN64Max d a b o => some (wR 0x35#6 d a b (0x2#4 ++ o))
  | .atomN64Minn d a b o => some (wR 0x35#6 d a b (0x3#4 ++ o))
  | .atomN64Maxn d a b o => some (wR 0x35#6 d a b (0x4#4 ++ o))
  | .atomN64And d a b o => some (wR 0x35#6 d a b (0x5#4 ++ o))
  | .atomN64Or d a b o => some (wR 0x35#6 d a b (0x6#4 ++ o))
  | .atomN64Xor d a b o => some (wR 0x35#6 d a b (0x7#4 ++ o))
  | .atomN64Xchg d a b o => some (wR 0x35#6 d a b (0x8#4 ++ o))
  | .atomN64Cas d a b o => some (wR 0x35#6 d a b (0x9#4 ++ o))
  | .rsend a v => some (wR 0x36#6 0x0#6 a 0x0#6 v)
  | .sysrd a n => some (wI 0x38#6 0x0#6 a n)
  | .step a => some (wR 0x38#6 0x1#6 a 0x1#6 0x0#8)
  | .undomark a => some (wR 0x38#6 0x1#6 a 0x1#6 0x1#8)
  | .bkmode a => some (wR 0x38#6 0x1#6 a 0x1#6 0x80#8)
  | .brk c => some (wI 0x38#6 0x2#6 0x0#6 c)
  | .tret => some (wR 0x38#6 0x3#6 0x0#6 0x0#6 0x0#8)
  | .nop => some (wR 0x38#6 0x4#6 0x0#6 0x0#6 0x0#8)
  | .hrd d b t => some (wR 0x39#6 d 0x0#6 b (0x0#5 ++ t))
  | .hclr a t => some (wR 0x39#6 0x0#6 a 0x0#6 (0x2#5 ++ t))
  | _ => none

/-- The word of a well-formed L-word instruction. -/
def encodeL (i : Instr) : Option LWord :=
  match i with
  | .vadd x => some (wL 0x01#8 x)
  | .vsub x => some (wL 0x02#8 x)
  | .vadds x => some (wL 0x03#8 x)
  | .vsubs x => some (wL 0x04#8 x)
  | .vmul x => some (wL 0x05#8 x)
  | .vmulh x => some (wL 0x06#8 x)
  | .vmad x => some (wL 0x07#8 x)
  | .vdiv x => some (wL 0x08#8 x)
  | .vrem x => some (wL 0x09#8 x)
  | .vmin x => some (wL 0x0A#8 x)
  | .vmax x => some (wL 0x0B#8 x)
  | .vabs x => some (wL 0x0C#8 x)
  | .vabsd x => some (wL 0x0D#8 x)
  | .vand x => some (wL 0x10#8 x)
  | .vor x => some (wL 0x11#8 x)
  | .vxor x => some (wL 0x12#8 x)
  | .vandn x => some (wL 0x13#8 x)
  | .vnot x => some (wL 0x14#8 x)
  | .vsel x => some (wL 0x15#8 x)
  | .vshl x => some (wL 0x18#8 x)
  | .vshr x => some (wL 0x19#8 x)
  | .vrotl x => some (wL 0x1A#8 x)
  | .vclz x => some (wL 0x1B#8 x)
  | .vpopc x => some (wL 0x1C#8 x)
  | .vbrev x => some (wL 0x1D#8 x)
  | .vceq x => some (wL 0x20#8 x)
  | .vcne x => some (wL 0x21#8 x)
  | .vclt x => some (wL 0x22#8 x)
  | .vcle x => some (wL 0x23#8 x)
  | .vcgt x => some (wL 0x24#8 x)
  | .vcge x => some (wL 0x25#8 x)
  | .vmov x => some (wL 0x28#8 x)
  | .vlane x => some (wL 0x29#8 x)
  | .vgid x => some (wL 0x2A#8 x)
  | .vfadd x => some (wL 0x40#8 x)
  | .vfsub x => some (wL 0x41#8 x)
  | .vfmul x => some (wL 0x42#8 x)
  | .vfma x => some (wL 0x43#8 x)
  | .vfms x => some (wL 0x44#8 x)
  | .vfnma x => some (wL 0x45#8 x)
  | .vfmin x => some (wL 0x46#8 x)
  | .vfmax x => some (wL 0x47#8 x)
  | .vfdiv x => some (wL 0x48#8 x)
  | .vfsqrt x => some (wL 0x49#8 x)
  | .vexp2 x => some (wL 0x4A#8 x)
  | .vlog2 x => some (wL 0x4B#8 x)
  | .vfabs x => some (wL 0x4C#8 x)
  | .vfneg x => some (wL 0x4D#8 x)
  | .vfcsgn x => some (wL 0x4E#8 x)
  | .vfceq x => some (wL 0x50#8 x)
  | .vfcne x => some (wL 0x51#8 x)
  | .vfclt x => some (wL 0x52#8 x)
  | .vfcle x => some (wL 0x53#8 x)
  | .vfcun x => some (wL 0x54#8 x)
  | .vcvt x => some (wL 0x80#8 x)
  | .vcvtp x => some (wL 0x81#8 x)
  | .vcvtu x => some (wL 0x82#8 x)
  | .vmxpack x => some (wL 0x84#8 x)
  | .vmxunpk x => some (wL 0x85#8 x)
  | .vf4pack x => some (wL 0x86#8 x)
  | .vf4unpk x => some (wL 0x87#8 x)
  | .vrnd x => some (wL 0x88#8 x)
  | .vld x => some (wL 0xA0#8 x)
  | .vldCons x => some (wL 0xA1#8 x)
  | .vldUnc x => some (wL 0xA2#8 x)
  | .vldReaders x => some (wL 0xA3#8 x)
  | .vst x => some (wL 0xA8#8 x)
  | .vstUnc x => some (wL 0xA9#8 x)
  | .vpush x => some (wL 0xB0#8 x)
  | .vpop x => some (wL 0xB1#8 x)
  | .vatomAdd x => some (wL 0xB4#8 x)
  | .vatomMin x => some (wL 0xB4#8 x)
  | .vatomMax x => some (wL 0xB4#8 x)
  | .vatomMinn x => some (wL 0xB4#8 x)
  | .vatomMaxn x => some (wL 0xB4#8 x)
  | .vatomAnd x => some (wL 0xB4#8 x)
  | .vatomOr x => some (wL 0xB4#8 x)
  | .vatomXor x => some (wL 0xB4#8 x)
  | .vatomXchg x => some (wL 0xB4#8 x)
  | .vatomCas x => some (wL 0xB4#8 x)
  | .vatomFadd x => some (wL 0xB4#8 x)
  | .vatomBf16x2add x => some (wL 0xB4#8 x)
  | .vshufXor x => some (wL 0xC0#8 x)
  | .vshufRot x => some (wL 0xC0#8 x)
  | .vshufDn x => some (wL 0xC0#8 x)
  | .vshufUp x => some (wL 0xC0#8 x)
  | .vperm x => some (wL 0xC1#8 x)
  | .vbcast x => some (wL 0xC2#8 x)
  | .vredadd x => some (wL 0xC4#8 x)
  | .vredmin x => some (wL 0xC5#8 x)
  | .vredmax x => some (wL 0xC6#8 x)
  | .vredand x => some (wL 0xC7#8 x)
  | .vredor x => some (wL 0xC8#8 x)
  | .vscan x => some (wL 0xC9#8 x)
  | .vrfl x => some (wL 0xCC#8 x)
  | .vrul x => some (wL 0xCD#8 x)
  | .vplset x => some (wL 0xD1#8 x)
  | .vpl x => some (wL 0xD3#8 x)
  | .vexit => some (wL 0xD0#8 ⟨0, 0, 0, 0, 0, 0, 0, 0, 0, 0, 0, 0, 0⟩)
  | .lnop => some (wL 0xD2#8 ⟨0, 0, 0, 0, 0, 0, 0, 0, 0, 0, 0, 0, 0⟩)
  | _ => none

/-- The word of a Trelix instruction with its fields. -/
def encodeT (i : Instr) (t : TFields) : Option Word32 :=
  match i with
  | .trelixAdd => some (wT 0x00#6 t)
  | .trelixSub => some (wT 0x00#6 t)
  | .trelixMul => some (wT 0x00#6 t)
  | .trelixAnd => some (wT 0x00#6 t)
  | .trelixOr => some (wT 0x00#6 t)
  | .trelixXor => some (wT 0x00#6 t)
  | .trelixSll => some (wT 0x00#6 t)
  | .trelixSrl => some (wT 0x00#6 t)
  | .trelixSra => some (wT 0x00#6 t)
  | .trelixSlt => some (wT 0x00#6 t)
  | .trelixSltn => some (wT 0x00#6 t)
  | .trelixSeq => some (wT 0x00#6 t)
  | .trelixAddi => some (wT 0x01#6 t)
  | .trelixSlin => some (wT 0x02#6 t)
  | .trelixLd => some (wT 0x04#6 t)
  | .trelixSt => some (wT 0x05#6 t)
  | .trelixBeq => some (wT 0x08#6 t)
  | .trelixBne => some (wT 0x09#6 t)
  | .trelixBlt => some (wT 0x0A#6 t)
  | .trelixBltn => some (wT 0x0B#6 t)
  | .trelixJal => some (wT 0x0C#6 t)
  | .trelixJr => some (wT 0x0D#6 t)
  | .trelixHalt => some (wT 0x0E#6 t)
  | .trelixSend => some (wT 0x10#6 t)
  | .trelixRecv => some (wT 0x11#6 t)
  | .trelixEnc => some (wT 0x12#6 t)
  | .trelixDec => some (wT 0x13#6 t)
  | .trelixSadd => some (wT 0x14#6 t)
  | .trelixRld => some (wT 0x18#6 t)
  | .trelixRst => some (wT 0x19#6 t)
  | .trelixRsave => some (wT 0x1A#6 t)
  | .trelixRload => some (wT 0x1B#6 t)
  | .trelixGnew => some (wT 0x1C#6 t)
  | .trelixGret => some (wT 0x1D#6 t)
  | .trelixGwatch => some (wT 0x1E#6 t)
  | .trelixBwait => some (wT 0x20#6 t)
  | .trelixBarr => some (wT 0x21#6 t)
  | .trelixBland => some (wT 0x22#6 t)
  | .trelixHopen => some (wT 0x28#6 t)
  | .trelixUpd => some (wT 0x29#6 t)
  | .trelixHclose => some (wT 0x2A#6 t)
  | .trelixHcommit => some (wT 0x2B#6 t)
  | .trelixHabort => some (wT 0x2C#6 t)
  | .trelixWfetch => some (wT 0x2D#6 t)
  | _ => none

/-- The words of an instruction: of an S-word or Trelix word 32 bits, of an L-word 96 bits. -/
inductive Encoded where
  | w32 (w : Word32)
  | w96 (w : LWord)
  deriving DecidableEq, Repr

/-- The encoder: the words of a well-formed S-word or L-word instruction; a Trelix word takes its fields (`encodeT`). -/
def encode (i : Instr) : Option Encoded :=
  if !wellFormed i then none
  else match encodeS i with
    | some w => some (.w32 w)
    | none => (encodeL i).map .w96

/-- Is this the instruction a word decodes to when no instruction is there (R55, R366)? -/
def isNoInstr (i : Instr) : Bool :=
  match i with
  | .illegalEncoding => true
  | .extensionEncoding => true
  | .unlistedTrelixOpcode => true
  | _ => false

/-- What the bits of one opcode-table row decode to: 96 bits are an L-word, one little-endian value whose parcel 2 lies
lowest (R47); 32 bits are an S-word, or a Trelix word where they are no S-word (the two code spaces overlap and are told
apart by the agent that fetches; log 9). -/
def decodeTableWord (nbits w : Nat) : Option Instr :=
  if nbits = 96 then some (decodeL (BitVec.ofNat 96 w))
  else if nbits ≤ 32 then
    let i := decodeS (BitVec.ofNat 32 w)
    if isNoInstr i && !isNoInstr (decodeT (BitVec.ofNat 32 w)) then some (decodeT (BitVec.ofNat 32 w)) else some i
  else none

end Sys2Proof
end

