-- ==== Sys2Proof/Config.lean ====
section
/-! DEFINITION. What one part fixes, and the free values: constants without a body, about which nothing can be proved
but what holds for every value of them. -/

namespace Sys2Proof.Config

/-- Stepping of this part (R57 prints the value of stepping 1). -/
def stepping : Nat := 1

/-- The DID register of R57 on stepping 1. -/
def did : Word64 := 0x0000000109165B0C#64

/-- The number of this package in its pod (R343; DESIGN CHOICE, log 18). -/
def package : Nat := 0

/-- FREE VALUE: which of `n` ready agents moves next at the `k`-th choice, where the agenda names none (log 2). -/
opaque pick : Nat → Nat → Nat

/-- FREE VALUE: at the `k`-th choice, does the old value of a code parcel run (R384; log 12)? -/
opaque oldParcel : Nat → Bool

/-- FREE VALUE: has the next S-word of a span, by its number, been fetched by a cycle (R161; log 81)? -/
opaque codeReady : Nat → Nat → Bool

/-- FREE VALUE: does the `k`-th walk take the upper-level entries that its die's translation unit keeps (R239; log 69)? -/
opaque walkHit : Nat → Bool

/-- FREE VALUE: the `k`-th 32-bit value that the spec leaves open (residuals of R358 after a foreign store; log 17). -/
opaque freeWord : Nat → Word32

/-- FREE VALUE: the pages of a residual object's range, below 2^28, that hold a tile of a key: tensor, tile index, hop position, and
which page of the tile (R358; log 17). -/
opaque residPage : Nat → Nat → Nat → Nat → Nat

/-- FREE VALUE: SHAKE256 to 64 bytes, and the verification of an ML-DSA-65 signature: public key, digest, signature (R333; log 19). -/
opaque shake256 : List Byte → BitVec 512
opaque verifies : List Byte → BitVec 512 → List Byte → Bool

/-- FREE VALUE: the device key pair that the fused secret and a manifest's digest give: its public key, and its signature over a digest
(R335; log 19). -/
opaque deviceKey : BitVec 512 → Nat → Byte
opaque signature : BitVec 512 → BitVec 512 → Nat → Byte

/-- FREE VALUE: the HDM base of CXL decoder 0, a host address that the host's firmware fixes (R311). -/
opaque hdmBase : Nat

/-- FREE VALUE: the TEMP registers' readings before the first measurement (R312 gives no reset value; log 8). -/
opaque temperature : Nat → Nat

end Sys2Proof.Config
end

