-- ==== Sys2Proof/Machine/Maps.lean ====
section
/-! DEFINITION. Sparse tables: sorted lists of a key and a value, with one value for every key that is not listed.
Registers, memories and the tables of in-flight work are kept in this one form. -/

namespace Sys2Proof.Machine

/-- A sparse table: keys and values, keys strictly rising. -/
abbrev SMap (α : Type) := List (Nat × α)

/-- What the table holds at a key, if the key is listed. -/
def mapFind {α : Type} : SMap α → Nat → Option α
  | [], _ => none
  | (k, v) :: r, j => if k = j then some v else mapFind r j

/-- What the table holds at a key, `d` where the key is not listed. -/
def mapGet {α : Type} (d : α) (m : SMap α) (j : Nat) : α :=
  (mapFind m j).getD d

/-- The table with `j` listed at `v`, keys kept in rising order. -/
def mapPut {α : Type} : SMap α → Nat → α → SMap α
  | [], j, v => [(j, v)]
  | (k, w) :: r, j, v =>
    if j = k then (j, v) :: r
    else if j < k then (j, v) :: (k, w) :: r
    else (k, w) :: mapPut r j v

/-- The table with `j` not listed. -/
def mapDel {α : Type} (m : SMap α) (j : Nat) : SMap α :=
  m.filter (fun p => p.1 != j)

/-- The table with `v` at `j`, in the canonical form in which no key is listed at the value `d` an unlisted key has. -/
def mapSet {α : Type} [DecidableEq α] (d : α) (m : SMap α) (j : Nat) (v : α) : SMap α :=
  if v = d then mapDel m j else mapPut m j v

/-- `x` before the first entry whose number is not less. -/
def insertBy {α : Type} (num : α → Nat) (x : α) : List α → List α
  | [] => [x]
  | y :: r => if num x ≤ num y then x :: y :: r else y :: insertBy num x r

/-- The list in rising order of its numbers; equals stay in their order. -/
def sortBy {α : Type} (num : α → Nat) (l : List α) : List α := l.foldr (insertBy num) []

/-- The keys of the list rise strictly. -/
def keysRise {α : Type} : SMap α → Bool
  | [] => true
  | [_] => true
  | (k, _) :: (l, w) :: r => decide (k < l) && keysRise ((l, w) :: r)

/-- Canonical form: keys rise strictly and no entry holds the value of an unlisted key. -/
def mapWf {α : Type} [DecidableEq α] (d : α) (m : SMap α) : Bool :=
  keysRise m && m.all (fun p => decide (p.2 ≠ d))

/-- The table whose keys `0 … n-1` hold `f 0 … f (n-1)`, unlisted where that is `d`. -/
def mapOfFn {α : Type} [DecidableEq α] (d : α) (n : Nat) (f : Nat → α) : SMap α :=
  (List.range n).filterMap (fun i => if f i = d then none else some (i, f i))

end Sys2Proof.Machine
end

