-- ==== Sys2Proof/Machine/Num.lean ====
section
/-! DEFINITION. The numbers of R6 to R28: formats, decoding to exact values, one rounding, the random-bit function,
exponent histogram bins, block formats. -/

namespace Sys2Proof.Machine
open Sys2Proof

/-- The number of bits of a natural, 0 for 0. -/
def bitLen (n : Nat) : Nat := if n = 0 then 0 else Nat.log2 n + 1

/-- Integer square root by bits from the top: the largest r with r·r ≤ n, for n below 4^fuel. -/
def isqrtAux (n : Nat) : Nat → Nat → Nat
  | 0, r => r
  | k + 1, r =>
    let t := r + 2 ^ k
    if t * t ≤ n then isqrtAux n k t else isqrtAux n k r

def isqrt (n : Nat) : Nat := isqrtAux n (bitLen n / 2 + 1) 0

/-- The type codes of R53. -/
inductive Ty where
  | i8 | i16 | i32 | i64 | n8 | n16 | n32 | n64 | f16 | bf16 | f32 | f64 | f8a | f8b | f4x | b32
  deriving DecidableEq, Repr

def tyOfCode (c : Nat) : Ty :=
  match c with
  | 0 => .i8 | 1 => .i16 | 2 => .i32 | 3 => .i64 | 4 => .n8 | 5 => .n16 | 6 => .n32 | 7 => .n64
  | 8 => .f16 | 9 => .bf16 | 10 => .f32 | 11 => .f64 | 12 => .f8a | 13 => .f8b | 14 => .f4x | _ => .b32

/-- Element width in bits (the table before R71, R102, R179). -/
def tyWidth : Ty → Nat
  | .i8 | .n8 | .f8a | .f8b => 8
  | .i16 | .n16 | .f16 | .bf16 => 16
  | .i32 | .n32 | .f32 | .b32 => 32
  | .i64 | .n64 | .f64 => 64
  | .f4x => 4

def tySigned : Ty → Bool
  | .i8 | .i16 | .i32 | .i64 => true
  | _ => false

def tyIsInt : Ty → Bool
  | .i8 | .i16 | .i32 | .i64 | .n8 | .n16 | .n32 | .n64 => true
  | _ => false

/-- Floating formats of R7, R9, R13. -/
structure Fmt where
  ebits : Nat
  mbits : Nat
  bias : Nat
  /-- the largest finite magnitude, as a code without sign -/
  maxCode : Nat
  /-- the code of +Inf, if there is one -/
  infCode : Option Nat
  /-- the canonical NaN of R8 -/
  nanCode : Nat
  deriving DecidableEq, Repr

def fmtF64 : Fmt := ⟨11, 52, 1023, 0x7FEFFFFFFFFFFFFF, some 0x7FF0000000000000, 0x7FF8000000000000⟩
def fmtF32 : Fmt := ⟨8, 23, 127, 0x7F7FFFFF, some 0x7F800000, 0x7FC00000⟩
def fmtBF16 : Fmt := ⟨8, 7, 127, 0x7F7F, some 0x7F80, 0x7FC0⟩
def fmtF16 : Fmt := ⟨5, 10, 15, 0x7BFF, some 0x7C00, 0x7E00⟩
def fmtF8A : Fmt := ⟨4, 3, 7, 0x7E, none, 0x7F⟩
def fmtF8B : Fmt := ⟨5, 2, 15, 0x7B, some 0x7C, 0x7F⟩
/-- The E2M1 grid of R13; its codes without sign are the magnitudes of the table. -/
def fmtE2M1 : Fmt := ⟨2, 1, 1, 7, none, 0⟩

def fmtOf : Ty → Fmt
  | .f64 => fmtF64 | .f16 => fmtF16 | .bf16 => fmtBF16 | .f8a => fmtF8A | .f8b => fmtF8B | .f4x => fmtE2M1
  | _ => fmtF32

/-- An exact value: NaN, an infinity, or ± m · 2^e (m = 0 is the signed zero). -/
inductive FVal where
  | nan
  | inf (neg : Bool)
  | fin (neg : Bool) (m : Nat) (e : Int)
  deriving DecidableEq, Repr

/-- The sign bit's place. -/
def fmtSignPos (f : Fmt) : Nat := f.ebits + f.mbits

/-- The value of a finite magnitude code (R7, R9): mantissa and exponent. -/
def magOfCode (f : Fmt) (c : Nat) : Nat × Int :=
  let ex := (c >>> f.mbits) % 2 ^ f.ebits
  let mn := c % 2 ^ f.mbits
  if ex = 0 then (mn, (1 : Int) - f.bias - f.mbits)
  else (2 ^ f.mbits + mn, (ex : Int) - f.bias - f.mbits)

/-- Decode a code (R7, R9). -/
def decodeF (f : Fmt) (code : Nat) : FVal :=
  let neg := (code >>> fmtSignPos f) % 2 == 1
  let mag := code % 2 ^ fmtSignPos f
  if mag ≤ f.maxCode then
    let p := magOfCode f mag
    .fin neg p.1 p.2
  else if f.infCode = some mag then .inf neg
  else .nan

/-- Rounding modes of R16, without `slot`; the stochastic ones carry the random bits they compare with. -/
inductive Rm where
  | rne | rtz | rdn | rup | rna
  | sx (n : Nat) (rnd : Nat)
  deriving DecidableEq, Repr

/-- How an overflow is answered (R21): by the IEEE rules, or saturated. -/
inductive Ovf where
  | ieee | saturate
  deriving DecidableEq, Repr

/-- Does the magnitude `k + rem/2^sh (+ sticky)` round up to `k + 1` (R16, R18)? -/
def roundsUp (rm : Rm) (neg : Bool) (k rem sh : Nat) (sticky : Bool) : Bool :=
  let half := 2 ^ (sh - 1)
  let inexact := rem != 0 || sticky
  match rm with
  | .rne => if sh = 0 then false else decide (half < rem) || (rem == half && (sticky || k % 2 == 1))
  | .rna => if sh = 0 then false else decide (half ≤ rem)
  | .rtz => false
  | .rdn => neg && inexact
  | .rup => !neg && inexact
  | .sx n rnd => decide (rnd < (rem * 2 ^ n) / 2 ^ sh)

/-- The grid of a format rounds `m · 2^e` (plus something below one unit of m when sticky) to `k · 2^q`. -/
def roundGrid (rm : Rm) (p : Nat) (qmin : Int) (neg : Bool) (m : Nat) (e : Int) (sticky : Bool) : Nat × Int :=
  let q := max (e + bitLen m - p) qmin
  if q ≤ e then (m * 2 ^ (e - q).toNat, q)
  else
    let sh := (q - e).toNat
    let k := m / 2 ^ sh
    let rem := m % 2 ^ sh
    (if roundsUp rm neg k rem sh sticky then k + 1 else k, q)

/-- Compare `k · 2^q` with `l · 2^r`: is the first greater? -/
def magGt (k : Nat) (q : Int) (l : Nat) (r : Int) : Bool :=
  if q ≤ r then decide (l * 2 ^ (r - q).toNat < k) else decide (l < k * 2 ^ (q - r).toNat)

/-- The overflow result of R21 for a finite source. -/
def overflowCode (f : Fmt) (rm : Rm) (ov : Ovf) (neg : Bool) : Nat :=
  match ov, f.infCode with
  | .ieee, some i =>
    match rm with
    | .rtz => f.maxCode
    | .rup => if neg then f.maxCode else i
    | .rdn => if neg then i else f.maxCode
    | _ => i
  | _, _ => f.maxCode

/-- Code of a grid value that does not exceed the largest finite one. -/
def codeOfGrid (f : Fmt) (k : Nat) (q : Int) : Nat :=
  let p := f.mbits + 1
  let qmin := (1 : Int) - f.bias - f.mbits
  let (k, q) := if k = 2 ^ p then (k / 2, q + 1) else (k, q)
  if k < 2 ^ f.mbits then k
  else ((q - qmin).toNat + 1) * 2 ^ f.mbits + (k - 2 ^ f.mbits)

/-- Round a finite magnitude to the format's code, sign included. -/
def roundMag (f : Fmt) (rm : Rm) (ov : Ovf) (neg : Bool) (m : Nat) (e : Int) (sticky : Bool) : Nat :=
  let s := if neg then 2 ^ fmtSignPos f else 0
  if m = 0 then s
  else
    let qmin := (1 : Int) - f.bias - f.mbits
    let (k, q) := roundGrid rm (f.mbits + 1) qmin neg m e sticky
    let mx := magOfCode f f.maxCode
    if magGt k q mx.1 mx.2 then s + overflowCode f rm ov neg else s + codeOfGrid f k q

/-- `round(x, fmt, rm, idx)` for a float destination, special values by R21 (f8a takes NaN for an infinity). -/
def roundF (f : Fmt) (rm : Rm) (ov : Ovf) : FVal → Nat
  | .nan => f.nanCode
  | .inf neg =>
    match f.infCode with
    | some i => (if neg then 2 ^ fmtSignPos f else 0) + i
    | none => f.nanCode
  | .fin neg m e => roundMag f rm ov neg m e false

/-- Round to an integer (R16: spacing 1). -/
def roundToInt (rm : Rm) (neg : Bool) (m : Nat) (e : Int) : Int :=
  let k : Nat :=
    if 0 ≤ e then m * 2 ^ e.toNat
    else
      let sh := (-e).toNat
      let k := m / 2 ^ sh
      if roundsUp rm neg k (m % 2 ^ sh) sh false then k + 1 else k
  if neg then -(k : Int) else k

def intLo (w : Nat) (signed : Bool) : Int := if signed then -(2 ^ (w - 1) : Nat) else 0
def intHi (w : Nat) (signed : Bool) : Int := if signed then ((2 ^ (w - 1) : Nat) : Int) - 1 else ((2 ^ w : Nat) : Int) - 1

def clampI (x lo hi : Int) : Int := if x < lo then lo else if hi < x then hi else x

/-- A value modulo 2^w, as a natural. -/
def wrapI (w : Nat) (x : Int) : Nat := (x % ((2 ^ w : Nat) : Int)).toNat

/-- The integer destination rows of R21. -/
def toIntCode (w : Nat) (signed : Bool) (rm : Rm) : FVal → Nat
  | .nan => 0
  | .inf neg => wrapI w (if neg then intLo w signed else intHi w signed)
  | .fin neg m e => wrapI w (clampI (roundToInt rm neg m e) (intLo w signed) (intHi w signed))

/-- The number a code of `w` bits stands for, by signedness. -/
def codeInt (w : Nat) (signed : Bool) (c : Nat) : Int :=
  if signed && decide (2 ^ (w - 1) ≤ c) then (c : Int) - (2 ^ w : Nat) else c

/-- The exact value of an element of any type of R53 but f4x and b32. -/
def decodeTy (t : Ty) (code : Nat) : FVal :=
  if tyIsInt t then
    let x := codeInt (tyWidth t) (tySigned t) code
    .fin (decide (x < 0)) x.natAbs 0
  else decodeF (fmtOf t) code

/-- `round(x, fmt, rm, idx)` for any destination of R53 but f4x and b32 (R21); `e5` is the E5M2 policy. -/
def encodeTy (t : Ty) (rm : Rm) (e5 : Bool) (x : FVal) : Nat :=
  if tyIsInt t then toIntCode (tyWidth t) (tySigned t) rm x
  else roundF (fmtOf t) rm (if t = .f8b && !e5 then .saturate else .ieee) x

/-! ### Exact arithmetic -/

/-- Exact sum of two finite values as a signed integer over a power of two. -/
def finSum (a : Int) (ea : Int) (b : Int) (eb : Int) : Int × Int :=
  let e := min ea eb
  (a * ((2 ^ (ea - e).toNat : Nat) : Int) + b * ((2 ^ (eb - e).toNat : Nat) : Int), e)

def signed (neg : Bool) (m : Nat) : Int := if neg then -(m : Int) else m

/-- Exact x + y with the zero signs of R80; `rdn` says that the mode is rdn. -/
def addV (rdn : Bool) : FVal → FVal → FVal
  | .nan, _ => .nan
  | _, .nan => .nan
  | .inf a, .inf b => if a = b then .inf a else .nan
  | .inf a, .fin _ _ _ => .inf a
  | .fin _ _ _, .inf b => .inf b
  | .fin a m ea, .fin b n eb =>
    let s := finSum (signed a m) ea (signed b n) eb
    if s.1 = 0 then .fin (if m = 0 && n = 0 && a = b then a else rdn) 0 0
    else .fin (decide (s.1 < 0)) s.1.natAbs s.2

/-- Exact x · y; 0 · Inf is invalid. -/
def mulV : FVal → FVal → FVal
  | .nan, _ => .nan
  | _, .nan => .nan
  | .inf a, .inf b => .inf (a != b)
  | .inf a, .fin b m _ => if m = 0 then .nan else .inf (a != b)
  | .fin a m _, .inf b => if m = 0 then .nan else .inf (a != b)
  | .fin a m ea, .fin b n eb => .fin (a != b) (m * n) (ea + eb)

def negV : FVal → FVal
  | .nan => .nan
  | .inf a => .inf (!a)
  | .fin a m e => .fin (!a) m e

def rmIsRdn (rm : Rm) : Bool := rm == .rdn

def fAdd (f : Fmt) (rm : Rm) (x y : Nat) : Nat :=
  roundF f rm .ieee (addV (rmIsRdn rm) (decodeF f x) (decodeF f y))
def fSub (f : Fmt) (rm : Rm) (x y : Nat) : Nat :=
  roundF f rm .ieee (addV (rmIsRdn rm) (decodeF f x) (negV (decodeF f y)))
def fMul (f : Fmt) (rm : Rm) (x y : Nat) : Nat :=
  roundF f rm .ieee (mulV (decodeF f x) (decodeF f y))
/-- `vfma` x·y + z, `vfms` x·y − z, `vfnma` z − x·y (R80), each rounded once. -/
def fFma (f : Fmt) (rm : Rm) (x y z : Nat) : Nat :=
  roundF f rm .ieee (addV (rmIsRdn rm) (mulV (decodeF f x) (decodeF f y)) (decodeF f z))
def fFms (f : Fmt) (rm : Rm) (x y z : Nat) : Nat :=
  roundF f rm .ieee (addV (rmIsRdn rm) (mulV (decodeF f x) (decodeF f y)) (negV (decodeF f z)))
def fFnma (f : Fmt) (rm : Rm) (x y z : Nat) : Nat :=
  roundF f rm .ieee (addV (rmIsRdn rm) (negV (mulV (decodeF f x) (decodeF f y))) (decodeF f z))

/-- Correctly rounded quotient (R82). -/
def fDiv (f : Fmt) (rm : Rm) (x y : Nat) : Nat :=
  match decodeF f x, decodeF f y with
  | .nan, _ => f.nanCode
  | _, .nan => f.nanCode
  | .inf _, .inf _ => f.nanCode
  | .inf a, .fin b _ _ => roundF f rm .ieee (.inf (a != b))
  | .fin a _ _, .inf b => roundF f rm .ieee (.fin (a != b) 0 0)
  | .fin a m ea, .fin b n eb =>
    if n = 0 then if m = 0 then f.nanCode else roundF f rm .ieee (.inf (a != b))
    else if m = 0 then roundF f rm .ieee (.fin (a != b) 0 0)
    else
      let s := f.mbits + 6 + bitLen n
      roundMag f rm .ieee (a != b) (m * 2 ^ s / n) (ea - eb - s) (m * 2 ^ s % n != 0)

/-- Correctly rounded square root (R82). -/
def fSqrt (f : Fmt) (rm : Rm) (x : Nat) : Nat :=
  match decodeF f x with
  | .nan => f.nanCode
  | .inf a => if a then f.nanCode else roundF f rm .ieee (.inf false)
  | .fin a m e =>
    if m = 0 then roundF f rm .ieee (.fin a 0 0)
    else if a then f.nanCode
    else
      let s := f.mbits + 6
      let odd := (e % 2).toNat
      let n := m * 2 ^ (2 * s + odd)
      let r := isqrt n
      roundMag f rm .ieee false r ((e - odd) / 2 - s) (r * r != n)

/-- Is x below y? Both finite or infinite, ±0 equal. -/
def valLt : FVal → FVal → Bool
  | .inf a, .inf b => a && !b
  | .inf a, .fin _ _ _ => a
  | .fin _ _ _, .inf b => !b
  | .fin a m ea, .fin b n eb => decide ((finSum (signed a m) ea (-(signed b n)) eb).1 < 0)
  | _, _ => false

def valEq : FVal → FVal → Bool
  | .inf a, .inf b => a == b
  | .fin a m ea, .fin b n eb => decide ((finSum (signed a m) ea (-(signed b n)) eb).1 = 0)
  | _, _ => false

def isNaNV : FVal → Bool
  | .nan => true
  | _ => false

def negOf : FVal → Bool
  | .nan => false
  | .inf a => a
  | .fin a _ _ => a

/-- IEEE 754-2019 minimum and maximum (R81). -/
def fMinMax (mx : Bool) (f : Fmt) (x y : Nat) : Nat :=
  let a := decodeF f x
  let b := decodeF f y
  if isNaNV a || isNaNV b then f.nanCode
  else
    let below := valLt a b || (valEq a b && negOf a && !negOf b)
    if below != mx then x else y

/-! ### exp2 and log2, correctly rounded (R83) -/

/-- Try precisions in turn until both ends of the interval round to one code; the last one's lower end otherwise. -/
def settle (try_ : Nat → Nat × Nat) : List Nat → Nat
  | [] => 0
  | [p] => (try_ p).1
  | p :: r => let t := try_ p; if t.1 = t.2 then t.1 else settle try_ r

def precisions : List Nat := [96, 192, 384, 768]

/-- Bounds of 2^(j/2^b) scaled by 2^P, for j below 2^b: the product of the square roots of 2 that the bits of j select. -/
def exp2FracAux (P : Nat) : List Bool → Nat → Nat → Nat → Nat → Nat × Nat
  | [], _, _, lo, hi => (lo, hi)
  | bit :: r, cl, ch, lo, hi =>
    let cl' := isqrt (cl * 2 ^ P)
    let ch' := isqrt (ch * 2 ^ P) + 1
    if bit then exp2FracAux P r cl' ch' (lo * cl' / 2 ^ P) (hi * ch' / 2 ^ P + 1)
    else exp2FracAux P r cl' ch' lo hi

/-- The bits of `j` from place `b-1` down. -/
def bitsDown (j : Nat) : Nat → List Bool
  | 0 => []
  | b + 1 => ((j >>> b) % 2 == 1) :: bitsDown j b

def fExp2 (f : Fmt) (rm : Rm) (x : Nat) : Nat :=
  match decodeF f x with
  | .nan => f.nanCode
  | .inf a => roundF f rm .ieee (if a then .fin false 0 0 else .inf false)
  | .fin a m e =>
    if m = 0 then roundF f rm .ieee (.fin false 1 0)
    else if 0 < e + bitLen m - 12 then
      -- |x| ≥ 2^11: far outside every format's range
      if a then roundMag f rm .ieee false 1 (-100000) true else roundMag f rm .ieee false 1 100000 false
    else
      let b := (-e).toNat
      let n := signed a m * ((2 ^ e.toNat : Nat) : Int)     -- x = n / 2^b
      let ip := n / ((2 ^ b : Nat) : Int)                   -- floor
      let fr := (n % ((2 ^ b : Nat) : Int)).toNat
      if fr = 0 then roundMag f rm .ieee false 1 ip false
      else
        settle (fun P =>
          let r := exp2FracAux P (bitsDown fr b) (2 * 2 ^ P) (2 * 2 ^ P) (2 ^ P) (2 ^ P)
          (roundMag f rm .ieee false r.1 (ip - P) true, roundMag f rm .ieee false r.2 (ip - P) true)) precisions

/-- Bits of log2 of a number in [1, 2) known to lie in [lo, hi]/2^P, by repeated squaring; stops where a bit is not
determined. Answers the bits read and how many. -/
def log2Aux (P : Nat) : Nat → Nat → Nat → Nat → Nat → Nat × Nat
  | 0, _, _, acc, n => (acc, n)
  | k + 1, lo, hi, acc, n =>
    let lo2 := lo * lo / 2 ^ P
    let hi2 := hi * hi / 2 ^ P + 1
    if 2 ^ (P + 1) ≤ lo2 then log2Aux P k (lo2 / 2) (hi2 / 2 + 1) (2 * acc + 1) (n + 1)
    else if hi2 < 2 ^ (P + 1) then log2Aux P k lo2 hi2 (2 * acc) (n + 1)
    else (acc, n)

/-- Round the signed value `n / 2^b`, a value strictly between it and `(n+1)/2^b`. -/
def roundBetween (f : Fmt) (rm : Rm) (n : Int) (b : Nat) : Nat :=
  if 0 ≤ n then roundMag f rm .ieee false n.toNat (-(b : Int)) true
  else roundMag f rm .ieee true (-(n + 1)).toNat (-(b : Int)) true

def fLog2 (f : Fmt) (rm : Rm) (x : Nat) : Nat :=
  match decodeF f x with
  | .nan => f.nanCode
  | .inf a => if a then f.nanCode else roundF f rm .ieee (.inf false)
  | .fin a m e =>
    if m = 0 then roundF f rm .ieee (.inf true)
    else if a then f.nanCode
    else
      let l := bitLen m - 1
      let ip := e + l                                        -- x = (m / 2^l) · 2^ip
      if m = 2 ^ l then roundF f rm .ieee (.fin (decide (ip < 0)) ip.natAbs 0)
      else
        settle (fun P =>
          let y := m * 2 ^ P / 2 ^ l
          let r := log2Aux P (P / 2) y (y + 1) 0 0
          let lo := ip * ((2 ^ r.2 : Nat) : Int) + r.1
          (roundBetween f rm (4 * lo) (r.2 + 2), roundBetween f rm (4 * lo + 3) (r.2 + 2))) precisions

/-! ### The random-bit function (R19) -/

def rotl32 (x : Nat) (n : Nat) : Nat := ((x * 2 ^ n) % 2 ^ 32) ||| (x / 2 ^ (32 - n))

def hRound (p : Nat × Nat) : Nat × Nat :=
  let a := ((p.1 ^^^ p.2) * 0x01000193) % 2 ^ 32
  (a, (rotl32 p.2 11) ^^^ a)

def hash (seed stream index : Nat) : Nat :=
  let a := (seed % 2 ^ 32) ^^^ (index % 2 ^ 32)
  let b := ((seed / 2 ^ 32) % 2 ^ 32) ^^^ ((index / 2 ^ 32) % 2 ^ 32) ^^^ (stream % 2 ^ 32)
  let p := hRound (hRound (hRound (a, b)))
  p.1 ^^^ rotl32 p.2 16

/-- The rounding mode a 3-bit code names, its random bits taken from H (R16, R18). -/
def rmOf (code : Nat) (seed stream index : Nat) : Rm :=
  match code with
  | 0 => .rne | 1 => .rtz | 2 => .rdn | 3 => .rup | 4 => .rna
  | 5 => .sx 16 (hash seed stream index % 2 ^ 16)
  | 6 => .sx 8 (hash seed stream index % 2 ^ 8)
  | _ => .rne

/-! ### Exponent histograms (R24) -/

/-- floor(log2 of m·2^e), for m above 0. -/
def floorLog2 (m : Nat) (e : Int) : Int := e + bitLen m - 1

def histBin (bias : Int) : FVal → Nat
  | .nan => 63
  | .inf _ => 63
  | .fin _ m e => if m = 0 then 0 else (clampI (floorLog2 m e - bias + 1) 1 62).toNat

/-! ### Block formats (R10 to R15) -/

/-- Decode an element of a scaled block into f32, RNE, overflow to ±Inf (R11, R14). -/
def scaleDecode (scale : Nat) (x : FVal) : Nat :=
  if scale = 0xFF then fmtF32.nanCode
  else match x with
    | .fin neg m e => roundMag fmtF32 .rne .ieee neg m (e + scale - 127) false
    | v => roundF fmtF32 .rne .ieee v

def mxDecode (b8 : Ty) (scale code : Nat) : Nat := scaleDecode scale (decodeF (fmtOf b8) code)

/-- The value of an F4X element code with special byte `sp`, in element units (R13, R14). -/
def f4xElem (sp code : Nat) : FVal :=
  if code = 8 then decodeF fmtF8A sp
  else
    let p := magOfCode fmtE2M1 (code % 8)
    .fin (decide (8 ≤ code)) p.1 p.2

def f4xDecode (scale sp code : Nat) : Nat := scaleDecode scale (f4xElem sp code)

def isSpecial : FVal → Bool
  | .fin _ _ _ => false
  | _ => true

def isZeroV : FVal → Bool
  | .fin _ m _ => m == 0
  | _ => false

/-- floor(log2 amax) of the finite, not all zero, source values. -/
def amaxLog (xs : List FVal) : Int :=
  xs.foldl (fun k x => match x with
    | .fin _ m e => if m = 0 then k else max k (floorLog2 m e)
    | _ => k) (-100000)

/-- The scale exponent X of R12 step 3. -/
def blockX (emax : Int) (xs : List FVal) : Int := clampI (amaxLog xs - emax) (-127) 127

/-- x / 2^X. -/
def scaleV (X : Int) : FVal → FVal
  | .fin neg m e => .fin neg m (e - X)
  | v => v

/-- Encode an MXFP8 block (R12): element codes and the scale byte. `rms` gives the mode of element i. -/
def mxEncode (b8 : Ty) (e5 : Bool) (rms : Nat → Rm) (xs : List FVal) : List Nat × Nat :=
  if xs.any isSpecial then (xs.map (fun _ => 0), 0xFF)
  else if xs.all isZeroV then (xs.map (fun _ => 0), 0x00)
  else
    let X := blockX (if b8 = .f8a then 8 else 15) xs
    (xs.zipIdx.map (fun p => encodeTy b8 (rms p.2) e5 (scaleV X p.1)), (X + 127).toNat)

/-- |q − v| for finite values, as a magnitude over a power of two. -/
def distV : FVal → FVal → Nat × Int
  | .fin a m ea, .fin b n eb =>
    let s := finSum (signed a m) ea (-(signed b n)) eb
    (s.1.natAbs, s.2)
  | _, _ => (0, 0)

/-- Round to the E2M1 grid as if it continued to 8, then clamp to 6 (R15 step 3): the magnitude code 0–7. -/
def e2m1Code (rm : Rm) : FVal → Nat
  | .fin neg m e => roundMag fmtE2M1 rm .saturate neg m e false % 8
  | _ => 0

def e2m1Val (neg : Bool) (c : Nat) : FVal :=
  let p := magOfCode fmtE2M1 c
  .fin neg p.1 p.2

/-- The lowest index of the largest distance, with that distance. -/
def maxDist (ds : List (Nat × Int)) : Nat × (Nat × Int) :=
  ds.zipIdx.foldl (fun best p => if magGt p.1.1 p.1.2 best.2.1 best.2.2 then (p.2, p.1) else best) (0, (0, 0))

/-- Encode an F4X block (R15): 4-bit codes, scale, special byte. -/
def f4xEncode (off : Bool) (rms : Nat → Rm) (xs : List FVal) : List Nat × Nat × Nat :=
  if xs.any isSpecial then (xs.map (fun _ => 0), 0xFF, 0)
  else if xs.all isZeroV then (xs.map (fun _ => 0), 0x00, 0)
  else
    let X := blockX 2 xs
    let qs := xs.map (scaleV X)
    let cs := qs.zipIdx.map (fun p => e2m1Code (rms p.2) p.1)
    let ds := (qs.zip cs).map (fun p => distV p.1 (e2m1Val (negOf p.1) p.2))
    let best := maxDist ds
    let sp := if off || best.2.1 == 0 then 0 else roundF fmtF8A .rne .saturate (qs.getD best.1 .nan)
    let sp := if sp % 128 = 0 then 0 else sp
    let sv := decodeF fmtF8A sp
    let codes := (qs.zip (cs.zip ds)).map (fun p =>
      let q := p.1
      let c := p.2.1
      let d := p.2.2
      let ds' := distV q sv
      if sp ≠ 0 && negOf q == negOf sv && magGt d.1 d.2 ds'.1 ds'.2 then 8
      else if c = 0 then 0 else (if negOf q then 8 else 0) + c)
    (codes, (X + 127).toNat, sp)

/-! ### Accumulation of one element of mma (R26 to R28) -/

/-- The exact sum of the values, each truncated toward zero to a multiple of 2^(E−40) (R26). -/
def truncSum (ps : List FVal) : Int × Int :=
  let E := ps.foldl (fun k x => match x with
    | .fin _ m e => if m = 0 then k else max k (floorLog2 m e)
    | _ => k) (-1000000)
  let q := E - 40
  (ps.foldl (fun s x => match x with
    | .fin neg m e => s + signed neg (if q ≤ e then m * 2 ^ (e - q).toNat else m / 2 ^ (q - e).toNat)
    | _ => s) 0, q)

/-- Block sum s of R26 with the special values of R28. -/
def blockSum (ps : List FVal) : FVal :=
  if ps.any isNaNV then .nan
  else
    let infs := ps.filter isSpecial
    if infs.any negOf && infs.any (fun v => !negOf v) then .nan
    else if infs.any negOf then .inf true
    else if !infs.isEmpty then .inf false
    else if ps.all isZeroV then .fin false 0 0
    else
      let s := truncSum ps
      decodeF fmtF32 (roundMag fmtF32 .rne .ieee (decide (s.1 < 0)) s.1.natAbs s.2 false)

/-- `scaled(s, X)` of R27. -/
def scaledV (X : Int) : FVal → FVal
  | .fin neg m e => decodeF fmtF32 (roundMag fmtF32 .rne .ieee neg m (e + X) false)
  | v => v

/-- One block added to the accumulator code (R26). `xab` is XA + XB, absent where a scale is 0xFF. -/
def mmaBlock (acc : Nat) (ps : List FVal) (xab : Option Int) : Nat :=
  let t := match xab with
    | none => .nan
    | some x => scaledV x (blockSum ps)
  roundF fmtF32 .rne .ieee (addV false (decodeF fmtF32 acc) t)

/-! ### Sign and ternary codes (R352 to R355) -/

/-- The fixed tree of R89 over positions; absent positions are none. One level pairs neighbours. -/
def treeLevel (f : Nat → Nat → Nat) : List (Option Nat) → List (Option Nat)
  | [] => []
  | [a] => [a]
  | a :: b :: r => (match a, b with
      | some x, some y => some (f x y)
      | some x, none => some x
      | none, y => y) :: treeLevel f r

def treeReduce (f : Nat → Nat → Nat) : Nat → List (Option Nat) → Option Nat
  | 0, l => l.headD none
  | k + 1, l => treeReduce f k (treeLevel f l)

/-- The sum of present FP elements over the tree (R89); an absent root is +0. -/
def fTreeSum (f : Fmt) (l : List (Option Nat)) : Nat :=
  (treeReduce (fAdd f .rne) 5 l).getD 0

def f32Abs (x : Nat) : Nat := x % 2 ^ 31
def f32IsZero (x : Nat) : Bool := f32Abs x == 0
/-- An FP32 natural number. -/
def f32OfNat (n : Nat) : Nat := roundMag fmtF32 .rne .ieee false n 0 false

inductive GCode where
  | none | sign | ternary
  deriving DecidableEq, Repr

/-- One coded block: the code word, the scale, the residuals, and whether it is a NaN block. -/
structure CodedBlock where
  code : Nat
  scale : Nat
  resid : List Nat
  nanBlock : Bool
  deriving DecidableEq, Repr

/-- Decode element i of a block (R352). -/
def codedElem (k : GCode) (code scale i : Nat) : Nat :=
  if scale = 0x7FC00000 then fmtF32.nanCode
  else match k with
    | .sign => f32Abs scale + (if (code >>> i) % 2 = 1 then 2 ^ 31 else 0)
    | _ => match (code >>> (2 * i)) % 4 with
      | 1 => scale
      | 3 => scale ^^^ 2 ^ 31
      | _ => 0

def absTree (es : List Nat) (keep : Nat → Bool) : Nat :=
  fTreeSum fmtF32 (es.map (fun e => if keep e then some (f32Abs e) else none))

def f32Gt (x y : Nat) : Bool := valLt (decodeF fmtF32 y) (decodeF fmtF32 x)

/-- Encode one block of 32 FP32 codes (R353 to R355). -/
def encodeBlock (k : GCode) (es : List Nat) : CodedBlock :=
  let tot := absTree es (fun _ => true)
  if es.all f32IsZero then ⟨0, 0, es, false⟩
  else if es.any (fun e => isSpecial (decodeF fmtF32 e)) || tot = 0x7F800000 then
    ⟨0, 0x7FC00000, es.map (fun _ => 0), true⟩
  else
    let m := fDiv fmtF32 .rne tot (f32OfNat 32)
    let cs : Nat × Nat := match k with
      | .sign => (es.zipIdx.foldl (fun (c : Nat) (p : Nat × Nat) =>
          if 2 ^ 31 ≤ p.1 && !f32IsZero p.1 then c + 2 ^ p.2 else c) 0, m)
      | _ =>
        let tau := fDiv fmtF32 .rne m (f32OfNat 2)
        let coded : Nat → Bool := fun e => f32Gt (f32Abs e) tau
        let c := (es.filter coded).length
        if c = 0 then (0, 0)
        else (es.zipIdx.foldl (fun (w : Nat) (p : Nat × Nat) =>
            if coded p.1 then w + (if 2 ^ 31 ≤ p.1 then 3 else 1) * 2 ^ (2 * p.2) else w) 0,
          fDiv fmtF32 .rne (absTree es coded) (f32OfNat c))
    ⟨cs.1, cs.2, es.zipIdx.map (fun p => fSub fmtF32 .rne p.1 (codedElem k cs.1 cs.2 p.2)), false⟩

end Sys2Proof.Machine
end

