-- ==== Sys2Proof/Machine/State.lean ====
section
/-! DEFINITION. The state of one package, as plain data: spans, cores, quads, dies, the package's front end and fabric,
the memory, and the work in flight between them. -/

namespace Sys2Proof.Machine
open Sys2Proof

/-! ### Outcomes that are no next state -/

/-- Why a step can stop. -/
inductive Fault where
  /-- Raised by `step` and by every meaning whose subject does not exist or is not ready: the agenda named an agent or
  an event that the package is not ready for. Safe: the hardware would not take that step at all. -/
  | notEnabled
  deriving DecidableEq, Repr

/-- Why a step can be refused. -/
inductive Refusal where
  /-- Raised by an arm of `exec` that has no meaning yet. Safe. -/
  | notModelled (mnemonic : String)
  deriving DecidableEq, Repr

/-! ### Who acts -/

/-- What the current step's row names beside its constructor: ids of the work it is about, and inputs from outside. -/
structure Args where
  die : Nat := 0
  core : Nat := 0
  id : Nat := 0
  a : Nat := 0
  b : Nat := 0
  c : Nat := 0
  bytes : List Byte := []
  deriving DecidableEq, Repr

/-- One turn of the agenda: who moves next (the MODEL's own). -/
inductive Turn where
  /-- the scalar stream of a span -/
  | scalar (u : Nat)
  /-- the lane stream of a span: one pass -/
  | lane (u : Nat)
  /-- a fabric processor -/
  | fp (die i : Nat)
  /-- the front end acts for the next lane of its step (R315) -/
  | frontEnd
  /-- a machine event or a register write -/
  | event (i : Instr) (x : Args)
  /-- time passes: arithmetic-clock cycles, and ticks of the 100 MHz reference clock (log 6) -/
  | time (cycles ticks : Nat)
  deriving DecidableEq, Repr

/-- What a test of a pass's sources before it runs finds (R45): asked for, all full, one to wait for, one that traps. -/
inductive Verdict where
  | ask | full | wait | empty
  deriving DecidableEq, Repr

/-- A test of a pass that is not run: what it finds, the vector registers that the pass reads and writes, and whether a
destination has a fill pending (R44, R45, R144). -/
structure Probe where
  verdict : Verdict := .ask
  srcs : List Nat := []
  dsts : List Nat := []
  pending : Bool := false
  deriving DecidableEq, Repr

/-- The step in progress: the acting span, the word being executed, the pass, and the event's arguments. -/
structure Cur where
  uid : Nat := 0
  word : BitVec 96 := 0
  /-- the pass mask m of R71 -/
  mask : BitVec 32 := 0
  plane : Nat := 0
  /-- is the pass of a planed block (R112)? -/
  planed : Bool := false
  /-- an L-word's pass, not an S-word -/
  lane : Bool := false
  /-- the fabric processor that acts, by its key 4·die + i -/
  fp : Option Nat := none
  /-- a packet that the front end has read from the queue in `x.id` -/
  front : Bool := false
  /-- the pass is not run, its sources are tested (R45) -/
  test : Option Probe := none
  x : Args := {}
  deriving DecidableEq, Repr

/-! ### The order of accesses (R248, R249, R252 to R256) -/

/-- What is ordered before an agent's next access: the accesses of an agent up to an epoch, at the listed virtual ranges or
everywhere. -/
structure Known where
  agent : Nat
  upTo : Nat
  ranges : Option (List (Nat × Nat))
  deriving DecidableEq, Repr

/-- What is ordered before an access. -/
abbrev Clock := List Known

/-- A fence of a span as its younger writes carry it (R255). -/
structure FenceMark where
  clock : Clock
  scope : Nat
  core : Nat
  deriving DecidableEq, Repr

/-! ### Engine commands (R172) -/

inductive CmdKind where
  | copy | mma | acst | coll | marker
  deriving DecidableEq, Repr

/-- An entry of an engine queue (R172 to R189, R349), with what its command read at commit. -/
structure Cmd where
  kind : CmdKind
  uid : Nat
  deck : Nat
  launch : Nat
  seq : Nat
  /-- barrier address, where it has one -/
  bar : Option Word64
  started : Bool
  /-- every byte is moved, or the command has failed: it waits for its landings -/
  done : Bool
  /-- bytes performed, or blocks done by an mma -/
  progress : Nat
  /-- landed so far -/
  landed : Nat
  src : Word64
  dst : Word64
  toSlot : Bool
  part : Nat
  offset : Nat
  len0 : Nat
  rows : Nat
  planes : Nat
  srcRow : Int
  srcPlane : Int
  dstRow : Int
  dstPlane : Int
  readers : Nat
  acc : Nat
  fslot : BitVec 128
  zero : Bool
  slotA : Nat
  slotB : Nat
  colA : Bool
  colB : Bool
  row0 : Nat
  col0 : Nat
  stream : Nat
  rm : Nat
  hist : Option Nat
  pitch : Nat
  /-- collective: operation and word -/
  op : Nat
  word : Word64
  /-- a copy of a deterministic launch: its deck's commits and its span's own writes, and the scratch banks, as it found them at
  its commit (R260) -/
  view : Option (SMap Byte × SMap (SMap Byte))
  /-- what must have left first: older stores, by request, and loads of its span (R248, R257); of a marker, the entries before
  it (R189) -/
  fence : List Nat
  /-- a translation was answered FAIL (R240) -/
  xfail : Bool
  /-- collective: which one of its deck it is (R348) -/
  nth : Nat
  /-- a copy: source bytes that it has read and not yet moved, and translations that it holds until it starts: page, write, frame,
  barrier page (R241, R251) -/
  buf : List Byte
  pages : List ((Nat × Bool) × (Nat × Bool))
  deriving DecidableEq, Repr

def Cmd.init : Cmd :=
  ⟨.marker, 0, 0, 0, 0, none, false, false, 0, 0, 0, 0, false, 0, 0, 0, 1, 1, 0, 0, 0, 0, 0, 0, 0, false, 0, 0,
   false, false, 0, 0, 0, 0, none, 0, 0, 0, none, [], false, 0, [], []⟩

/-! ### The span (R29, R194, R198, R271) -/

/-- A block of the lane queue (R29, R135, R136, R148). -/
structure Block where
  /-- address of the enqueuing instruction -/
  point : Word64
  planed : Bool
  /-- L-word offset of an unplaned block -/
  off : Nat
  /-- region descriptor of a planed block -/
  desc : Word64
  j : Nat
  n : Nat
  /-- next position and next plane -/
  pos : Nat
  plane : Nat
  /-- a pass of this position has issued (R144) -/
  began : Bool
  /-- the L-words that the code held when the `lrun` or `lrunp` issued, by position and plane, where mapped (R384) -/
  code : List (Option LWord)
  /-- the L-words of the current position that have been read, by plane (R384) -/
  picked : SMap LWord
  /-- compare results merged at the current position: register and mask lanes (R78) -/
  merged : List Nat
  /-- in a planed block, the scalar registers as every pass of the current position reads them (R41) -/
  reads : Option (SMap Word64)
  deriving DecidableEq, Repr

/-- An S-word that the scalar stream has issued while a block is queued and that has not committed (R39). -/
structure Ahead where
  /-- its address and word, and where the stream went on -/
  point : Word64
  word : Word32
  next : Word64
  /-- of an `lrun` or `lrunp`, the block that it enqueues, with what code held then (R384) -/
  block : Option Block
  /-- the registers that stay empty until it commits -/
  dests : List Nat
  /-- of a plain load that has been performed early, its value -/
  val : Option Word64
  deriving DecidableEq, Repr

/-- What a trap keeps of the unit it stopped, beside the fields that `tret` reads from the frame (R148, R198, R200): kind,
point, position and plane, and the compare results merged at that position. -/
structure Saved where
  lane : Bool
  planed : Bool
  point : Word64
  pos : Nat
  plane : Nat
  merged : List Nat
  deriving DecidableEq, Repr

/-- A mask stack or a return stack: the newest entries in hardware, newest first, and the depth D (R37). -/
structure Stack where
  hw : List Word64
  depth : Nat
  deriving DecidableEq, Repr

/-- An entry of the registration table (R194). -/
structure RegEntry where
  addr : Word64
  lanes : BitVec 32
  arrived : BitVec 32
  phase : BitVec 32
  deriving DecidableEq, Repr

/-- A dynamic or table binding (R271, R272). -/
structure Binding where
  base : Nat
  len : Nat
  obj : Word64
  deriving DecidableEq, Repr

/-- Single-step (R202). -/
inductive StepState where
  | off
  | armed
  /-- one unit may run -/
  | running
  /-- the trap STEP is taken before the next unit -/
  | due
  deriving DecidableEq, Repr

/-- A two-phase access that has begun and not yet committed or retired. -/
inductive Pending where
  | none
  /-- store checks sent, one request for each line (R107) -/
  | store (reqs : List Nat)
  /-- consuming accesses sent (R106) -/
  | consume (load : Nat)
  /-- atomic requests sent for their check (R262) -/
  | atomic (reqs : List Nat)
  /-- `barwait` since a cycle: barrier, where a global barrier lies (R243), phase, destination, limit in cycles (R193);
  off: the cycles it has counted, while its context is not active (R209) -/
  | barwait (t0 : Int) (off : Bool) (addr : Word64) (pa : Option Nat) (phase sd lim : Nat)
  /-- the words of a FIFO push that waits for room in a bank of the core (R110) -/
  | push (bank : Nat) (words : List Word32)
  /-- a `trel` that has found its slot claimed waits for the slot's commands (R178) -/
  | free (slot : Nat)
  /-- release arrivals at global barriers that wait for older writes, with so many markers (R256, R265) -/
  | arrive (n : Nat)
  deriving DecidableEq, Repr

/-- One lane of a buffered atomic (R299). -/
structure AtomLane where
  lane : Nat
  va : Nat
  d : Nat
  e : Nat
  new : Nat
  deriving DecidableEq, Repr

/-- An entry of a commit buffer (R299, R304, R385). -/
inductive Buffered where
  /-- one line's bytes of a store, by virtual address -/
  | store (cells : List (Nat × Byte)) (unc : Bool)
  /-- an atomic: width, operation, ordering and scope, the load it fills, and its lanes: lane, address, operands, and the value that it
  leaves in the span's own view -/
  | atomic (w op ord : Nat) (load : Option Nat) (lanes : List AtomLane)
  /-- a barrier operation: kind as [7:4] of fn (R192), barrier, operands, lanes -/
  | barrier (kind : Nat) (addr x y : Word64) (lanes : BitVec 32)
  /-- arrive-and-drop of lanes at every registered barrier (R304) -/
  | drop (lanes : BitVec 32)
  /-- a mode switch, with the span's own older pops (R167) -/
  | bkmode (value : Word64) (older : List Nat)
  /-- clear of a histogram table, with the loads of the span's older `hrd`s of it that are not delivered (R25, R139) -/
  | hclr (table : Nat) (bias : BitVec 8) (older : List Nat)
  | cpush (record : Word64) (words : List Nat) (prio load : Nat)
  | rsend (handle : Word64) (vals : List Word32)
  /-- a release, with the ranges bound to its object at its commit (R252) -/
  | rel (obj : Word64) (scope : Nat) (ranges : List (Nat × Nat))
  | dropc (base len : Nat)
  | engine (q : Nat) (c : Cmd)
  | coll (c : Cmd) (sa : Word64)
  | claim (slot readers : Nat)
  | trel (slot : Nat)
  | qfence (mask : Nat)
  | fifo (bank : Nat) (words : List Word32)
  /-- a store whose data has become uncorrectable (R328): its line, by virtual address -/
  | lost (va : Nat)
  deriving DecidableEq, Repr

/-- An acquire in progress (R253, R254, R264): its load, its scope, whether it drops clean lines, of which virtual ranges
(none listed: of every line), and the physical address of the object of an `acq`. -/
structure Acquire where
  load : Nat
  scope : Nat
  wide : Bool
  ranges : List (Nat × Nat)
  obj : Option Nat
  deriving DecidableEq, Repr

structure Span where
  spc : Word64
  /-- scalar registers, unlisted 0 -/
  s : SMap Word64
  sEmpty : BitVec 64
  /-- vector registers, key 32·r + lane, unlisted 0 -/
  v : SMap Word32
  vEmpty : BitVec 256
  am : BitVec 32
  live : BitVec 32
  pl : BitVec 64
  masks : Stack
  rets : Stack
  queue : List Block
  /-- S-words in run-ahead, oldest first (R39) -/
  ahead : List Ahead
  /-- one for each trap whose handler has not returned, newest first -/
  traps : List Saved
  step : StepState
  regs : List RegEntry
  binds : List Binding
  /-- identities (R32) and place: deck uid, global core id, context half, bay, age -/
  n : Nat
  d : Nat
  w : Nat
  deck : Nat
  core : Nat
  half : Bool
  bay : Nat
  age : Nat
  pend : Pending
  /-- the translation service answered FAIL for these pages and needs of the span (R149, R240) -/
  xfail : List (Nat × Bool)
  ltime : Nat
  /-- the commit buffer, oldest first: each entry with the point of its instruction (R299, R385) -/
  buffer : List (Word64 × Buffered)
  /-- the span has reached its quantum's end or holds at an operation that waits for it (R298) -/
  held : Bool
  /-- head of the undo log (R208) -/
  undo : Nat
  /-- collectives committed (R348) -/
  colls : Nat
  /-- an acquire in progress holds younger accesses (R264) -/
  acquiring : Option Acquire
  /-- the use count at its last acquire, 0 before one (R218) -/
  acqAt : Nat
  /-- by line: copies that the home has overtaken for this span, those of an earlier stamp (R250) -/
  floors : SMap Nat
  /-- the same by virtual range, from its `acq`s: base, length, stamp (R253) -/
  bounds : List (Nat × Nat × Nat)
  halted : Bool
  /-- line addresses of the span's lost writes (R328) -/
  lost : List Nat
  /-- registers that hold an uncorrectable error (R325) -/
  badS : BitVec 64
  /-- keys 32·r + lane -/
  badV : List Nat
  /-- its record, and its registration table, hold an uncorrectable error (R325) -/
  badRec : Bool
  badTable : Bool
  /-- in parapet mode, the shadow lanes' copy of the vector registers where it differs from the visible lanes' (R331) -/
  shadow : Option (SMap Word32)
  /-- by vector register: the cycle at which the latency of its last write ends (R144, R160) -/
  ready : SMap Nat
  deriving DecidableEq, Repr

/-- The handler depth (R197). -/
def Span.hdepth (sp : Span) : Nat := sp.traps.length

/-! ### The deck and its launch -/

/-- A barrier image (R190) as its four words. -/
structure NetBar where
  w0 : Word64
  w1 : Word64
  w2 : Word64
  w3 : Word64
  owner : Option Nat
  deriving DecidableEq, Repr

def NetBar.init : NetBar := ⟨0, 0, 0, 0, none⟩

/-- What the launch record and the system context give a launch (R197, R282); kept whole when the launch is accepted. -/
structure Launch where
  number : Nat
  key : Nat
  root : Nat
  entry : Word64
  laneBase : Word64
  sysctx : Word64
  trapEntry : Word64
  emuEntry : Word64
  frameBase : Word64
  undoBase : Word64
  dims : Nat × Nat × Nat
  spansPerDeck : Nat
  vregs : Nat
  scratch : Nat
  banksC : Nat
  banksS : Nat
  banksF : Nat
  prio : Nat
  /-- flags: deterministic, parapet, debug, gang -/
  det : Bool
  parapet : Bool
  debug : Bool
  gang : Bool
  quantumLen : Nat
  spill : Word64
  fslots : List (BitVec 128)
  regions : List Binding
  /-- write ranges of a deterministic launch: base, length, accumulate-only (R300, R301) -/
  writes : List (Nat × Nat × Bool)
  /-- their strides per dx, dy, dz -/
  strides : List (Int × Int × Int)
  record : Word64
  /-- memory as it stood when the current phase of a deterministic launch began (R260) -/
  snapshot : List Host.Cell
  /-- the network barriers at that time (R299) -/
  nets : SMap NetBar
  /-- phase in progress, decks in a phase, quantum ends allowed (R297, R303) -/
  phase : Nat
  /-- the first deck of the phase has become resident -/
  begun : Bool
  phaseLen : Nat
  watchdog : Nat
  /-- tile-address placement: base, strides, shifts (R289) -/
  tile : Option (Nat × Int × Int × Nat × Nat)
  deriving DecidableEq, Repr

inductive BankMode where
  | cache | scratch | fifo
  deriving DecidableEq, Repr

/-- A `coll` forming on a deck (R348): which one, the command, and the spans that have committed it. -/
structure CollForm where
  k : Nat
  cmd : Cmd
  sa : Word64
  slot : Nat
  uids : List Nat
  /-- what is ordered before its engine start, and its spans' older work that it waits for (R248, R257) -/
  clock : Clock
  fence : List Nat
  deriving DecidableEq, Repr

structure Deck where
  launch : Nat
  index : Nat
  coords : Nat × Nat × Nat
  core : Nat
  half : Bool
  /-- physical numbers of the owned banks, in local-index order (R157) -/
  banks : List Nat
  started : Bool
  frame : Word64
  join : Word64
  retired : Bool
  /-- bytes of virtual memory committed by this deck in the current phase (R260): address to byte -/
  overlay : SMap Byte
  /-- quantum ends of the deck in its phase (R298, R303) -/
  quanta : Nat
  /-- a quantum end is in progress, and it has applied an entry (R298, R303) -/
  ending : Bool
  applied : Bool
  /-- its last quantum end found no progress (R303) -/
  stuck : Bool
  /-- collectives forming (R348), and how many entries the deck has formed -/
  colls : List CollForm
  /-- local indexes of the banks whose mode a BKMODE entry has changed (R385) -/
  switched : List Nat
  /-- bank-mode request c (R155) -/
  cReq : Nat
  /-- a write of one of its spans was lost (R328) -/
  lost : Bool
  /-- the ids of its spans, kept for the work that outlives them (R286) -/
  uids : List Nat
  /-- its context is lost: only engine entries that had started remain of it (R206) -/
  gone : Bool
  /-- its retirement has decremented the join word, and this successor's record is still to be read (R286) -/
  joined : Option Nat
  deriving DecidableEq, Repr

/-! ### Writers, and the coherence order (R244, R249, R252 to R256) -/

/-- The writer of some bytes on their way to the home: its writer id (R244), agent and epoch, and its order. -/
structure Writer where
  mask : BitVec 128
  /-- virtual address of the line as the writer used it -/
  va : Nat
  id : Int
  agent : Nat
  epoch : Nat
  clock : Clock
  fences : List FenceMark
  deriving DecidableEq, Repr

/-- A performed write of a byte, in the byte's coherence order (R249). -/
structure Written where
  id : Int
  agent : Nat
  epoch : Nat
  stamp : Nat
  atomic : Bool
  fences : List FenceMark
  /-- the virtual address that it was written at -/
  va : Nat
  deriving DecidableEq, Repr

/-- A span or an engine command, by its id: its epoch counts its releases; its fences, and those of writes it has read. -/
structure Agent where
  epoch : Nat
  clock : Clock
  fences : List FenceMark
  seen : List FenceMark
  deriving DecidableEq, Repr

def Agent.init : Agent := ⟨0, [], [], []⟩

/-- A release that has been performed: the version it produced, its scope and core, what it covers (R252, R254). -/
structure Released where
  version : Nat
  scope : Nat
  core : Nat
  clock : Clock
  deriving DecidableEq, Repr

structure Order where
  /-- counts the performed writes -/
  stamp : Nat
  /-- coherence order of a byte, first to last, by line and place in the line (R249) -/
  bytes : SMap (SMap (List Written))
  agents : SMap Agent
  /-- releases of an object or an atomic's address, by `relKey` -/
  rels : SMap (List Released)
  /-- what the arrivals and landings of a barrier's current phase cover, and those of the phase before, by `barKey` (R256) -/
  bars : SMap (Clock × Clock)
  /-- by launch record: what is ordered before the accesses of its decks (R286, R287) -/
  starts : SMap Clock
  deriving DecidableEq, Repr

/-! ### The core -/

/-- A switch of a bank's mode in progress (R167, R168): its barrier, the span and deck that made it, and the span's older
stores and what else its arrival covers (R256). -/
structure Switch where
  bar : Word64
  uid : Nat
  deck : Nat
  fence : List Nat
  clock : Clock
  deriving DecidableEq, Repr

/-- One of the 32 SRAM banks (R162, R157, R110). -/
structure Bank where
  mode : BankMode
  owner : Option Nat
  bytes : SMap Byte
  ring : List Word32
  /-- offsets of bytes, or indexes of FIFO words, that hold an uncorrectable error (R325) -/
  bad : List Nat
  /-- switches in progress, in the order of their switch points -/
  switch : List Switch
  /-- offsets of words whose last write is an atomic (R254) -/
  atoms : List Nat
  /-- by offset: the agent whose write stands there, and the fences before it (R255) -/
  marks : SMap (Nat × List FenceMark)
  deriving DecidableEq, Repr

def Bank.init : Bank := ⟨.cache, none, [], [], [], [], [], []⟩

/-- One L1 line (R163, R246). -/
structure L1Line where
  line : Nat
  /-- physical bank that holds it -/
  bank : Nat
  valid : BitVec 128
  dirty : BitVec 128
  data : Line
  /-- how many store checks its dirty bytes answer (R107) -/
  checks : Nat
  /-- use count of its last use (R163) -/
  lru : Nat
  /-- spans whose bytes are dirty here (R252, R265) -/
  by_ : List Nat
  since : Nat
  poison : Bool
  /-- virtual addresses of the line for its users (R271) -/
  vas : List Nat
  /-- the writers of its dirty bytes (R248) -/
  writers : List Writer
  /-- the fences before the writes of its other bytes, as the home gave them (R255) -/
  marks : List (BitVec 128 × FenceMark)
  /-- the stamp at which the home gave it -/
  stamp : Nat
  deriving DecidableEq, Repr

inductive ReqKind where
  | plain | unc | cons | cfill
  | storeCheck | storeData | atomic | rel | dropc
  deriving DecidableEq, Repr

inductive ReqStage where
  | core | quad | home | answered
  deriving DecidableEq, Repr

/-- A request of a core for one line: a miss-status entry (R217), a store check, store data, an atomic, a drop. -/
structure Req where
  core : Nat
  uid : Nat
  kind : ReqKind
  line : Nat
  stage : ReqStage
  /-- loads waiting for the line, in joining order (R220); of a store check, the lanes that write it (R107) -/
  loads : List Nat
  /-- may later requests join (R218)? -/
  joinable : Bool
  /-- bytes: mask and data of a store; operands of an atomic in `a b c` -/
  mask : BitVec 128
  data : Line
  op : Nat
  a : Nat
  b : Nat
  c : Nat
  width : Nat
  tag : Nat
  /-- answered: counted line found, or access refused -/
  bad : Bool
  poison : Bool
  /-- marker of R265: not cleared, cleared -/
  marker : Bool
  cleared : Bool
  /-- requests of the core, and loads of the span, that the marker waits for -/
  covered : List Nat
  /-- the virtual address, for reports and overlays -/
  va : Nat
  /-- cycle at which the fill returned, for the window of R219 -/
  filled : Option Nat
  /-- use count at which it left the core, 0 before (R218) -/
  left : Nat
  /-- spans that may not join: their older stores to the line are not performed (R218) -/
  shun : List Nat
  /-- fences before the writes that an answered read has returned, and the stamp of the answer (R255) -/
  marks : List (BitVec 128 × FenceMark)
  stamp : Nat
  /-- a covered write has been lost (R270, R328) -/
  lost : Bool
  /-- the instruction's point, for the undo log (R208) -/
  point : Nat
  /-- spans whose bytes a store-data request carries -/
  by_ : List Nat
  /-- the writers of its bytes (R248) -/
  writers : List Writer
  /-- scope of a release, and what it covers (R252, R254) -/
  scope : Nat
  clock : Clock
  /-- of a release atomic on a scratch word, the deck whose scratch it is in (R264); of a check, the deck whose scratch its pass
  reaches too (R167) -/
  scratch : Option Nat
  deriving DecidableEq, Repr

def Req.init : Req :=
  ⟨0, 0, .plain, 0, .core, [], true, 0, 0, 0, 0, 0, 0, 0, 0, false, false, false, false, [], 0, none, 0, [], [], 0, false, 0,
   [], [], 0, [], none⟩

/-- Where one lane of a load reads: a physical byte address, an offset of the deck's scratch, or a barrier window. -/
structure LaneRead where
  lane : Nat
  pa : Nat
  got : Option Nat
  deriving DecidableEq, Repr

/-- The physical address of a lane that reads none. -/
def noPa : Nat := 2 ^ 63

/-- What a load fills: a scalar register, a vector register (pair), or nothing. -/
inductive Dest where
  | none
  | s (r : Nat)
  | v (r : Nat) (pair : Bool)
  deriving DecidableEq, Repr

/-- A load, pop, atomic or `hrd` that has issued and not yet filled (R44, R46). -/
structure Load where
  uid : Nat
  dest : Dest
  width : Nat
  signed : Bool
  lanes : List LaneRead
  /-- consuming lines served for this pass (R106): line and whether it was refused -/
  served : List (Nat × Bool)
  /-- how many answers are still to come -/
  waits : Nat
  /-- waiting FIFO pop: physical bank; words are taken together (R110) -/
  fifo : Option Nat
  /-- `hrd` in a deterministic launch: table and bin -/
  hist : Option (Nat × Nat)
  poison : Bool
  /-- its value is delivered by a quantum end only (R298) -/
  late : Bool
  /-- the quantum of its deck in which it issued (R298), and its instruction's point (R385) -/
  quantum : Nat
  point : Word64
  deriving DecidableEq, Repr

/-- A translation held in a TLB (R238, R239). -/
structure Tlb where
  root : Nat
  vpn : Nat
  /-- log2 of the number of 4 KiB pages it covers -/
  size : Nat
  ppn : Nat
  bar : Bool
  x : Bool
  w : Bool
  closing : Bool
  deriving DecidableEq, Repr

/-- A histogram table (R24, R25, R139). -/
structure Hist where
  bins : SMap Nat
  bias : Int
  deriving DecidableEq, Repr

/-- Issue in a bay (R144, R160, R161): the cycles from which a pass and an S-word may start, the span whose pass started last, and
the age of the span that last issued an S-word. -/
structure BayIssue where
  lane : Nat
  scalar : Nat
  pass : Option Nat
  last : Option Nat
  deriving DecidableEq, Repr

def BayIssue.init : BayIssue := ⟨0, 0, none, none⟩

structure Core where
  /-- the context half that issues (R203) -/
  active : Bool
  banks : SMap Bank
  l1 : List L1Line
  hist : SMap Hist
  itlb : List Tlb
  dtlb : SMap (List Tlb)
  stlb : List Tlb
  /-- swap in progress since a cycle (R203) -/
  swap : Option Nat
  /-- the deck for which the distributor has asked for its swap, until it is placed: launch record, deck index (R291) -/
  swapFor : Option (Nat × Nat)
  /-- image preloaded or being preloaded into the shadow: image address, complete -/
  preload : Option (Nat × Bool)
  /-- spill of the shadow: save area, once a fault has named it, next line of the image, paused (R205, R206) -/
  spill : Option (Nat × Nat × Bool)
  ageNext : Nat
  failed : Bool
  issue : SMap BayIssue
  deriving DecidableEq, Repr

inductive SlotState where
  | unclaimed | claimed | draining
  deriving DecidableEq, Repr

structure Slot where
  st : SlotState
  count : Nat
  owner : Nat
  data : SMap Byte
  scale : SMap Byte
  special : SMap Byte
  /-- bytes that hold an uncorrectable error, key 16384·part + offset (R325) -/
  bad : List Nat
  /-- launch number of the claimer, and whether its deck has retired: the slot is released once its commands are done (R178) -/
  number : Nat
  release : Bool
  deriving DecidableEq, Repr

def Slot.init : Slot := ⟨.unclaimed, 0, 0, [], [], [], [], 0, false⟩

/-- One context half of a core (R153, R172). -/
structure Ctx where
  slots : SMap Slot
  /-- accumulators, key acc·16384 + 128·m + n, FP32 codes, unlisted +0 -/
  accs : SMap Word32
  /-- queue q of the six, oldest first -/
  queues : SMap (List Cmd)
  /-- job key of the last deck that ran in it (R159) -/
  key : Option Nat
  /-- accumulators that hold an uncorrectable error (R325) -/
  badAccs : List Nat
  deriving DecidableEq, Repr

def Ctx.init : Ctx := ⟨[], [], [], none, []⟩

/-! ### The quad -/

/-- A merge entry of the quad stop (R221). -/
structure Merge where
  quad : Nat
  kind : ReqKind
  line : Nat
  reqs : List Nat
  joinable : Bool
  deriving DecidableEq, Repr

/-! ### The home (R228 to R236) -/

/-- What the home keeps for one line beside its bytes: its count and tag, where the count is held, the data of a pinned
line that memory does not hold, store-pending checks, accesses whose data is being read, and the error mark. -/
structure HomeLine where
  counted : Bool
  count : Nat
  tag : Nat
  pinned : Bool
  data : Option Line
  pend : Nat
  busy : Nat
  poison : Bool
  /-- an uncorrectable error that no scrub has found yet (R325) -/
  latent : Bool
  /-- while the slice holds newer bytes than HBM4E: those of HBM4E (R228) -/
  below : Option Line
  /-- use count of the slice's last use of the line, 0 where the slice does not hold it (R228) -/
  l2 : Nat
  /-- the error mark is that of a lost write (R328) -/
  lost : Bool
  deriving DecidableEq, Repr

def HomeLine.init : HomeLine := ⟨false, 0, 0, false, none, 0, 0, false, false, none, 0, false⟩

/-- Who asks for a translation (R240). -/
inductive Who where
  | span (u : Nat)
  /-- a command of a context, by its sequence number -/
  | engine (core : Nat) (half : Bool) (seq : Nat)
  | fp (die i : Nat)
  /-- an entry of the fabric engine -/
  | fabric (id : Nat)
  /-- a reduction's root, by its round -/
  | mesh (id : Nat)
  /-- a packet of the front end, or a deck that the distributor retires -/
  | front (id : Nat)
  deriving DecidableEq, Repr

/-- What a walk is to give one requester: `kind` is the access-kind code of R240, R313. -/
structure Need where
  who : Who
  key : Nat
  write : Bool
  fetch : Bool
  kind : Nat
  deriving DecidableEq, Repr

/-- A table walk in progress, or waiting for one of the die's 1,024 (R239). -/
structure Walk where
  die : Nat
  root : Nat
  vpn : Nat
  needs : List Need
  deriving DecidableEq, Repr

/-- A table pointer that a die's translation unit keeps: the pages below it, and the entry it read (R239). -/
structure Upper where
  die : Nat
  root : Nat
  level : Nat
  /-- the page number without the bits below the level -/
  place : Nat
  entry : Nat
  deriving DecidableEq, Repr

/-- A fault record waiting for the translation service (R240, R313). -/
structure FaultRec where
  die : Nat
  root : Nat
  key : Nat
  vpn : Nat
  write : Bool
  kind : Nat
  level : Nat
  malformed : Bool
  who : List Who
  /-- held for the end of a shootdown (R241) -/
  waits : Option Nat
  /-- its record number, once it stands in the fault queue (R313) -/
  number : Option Nat
  deriving DecidableEq, Repr

/-- An entry of a die's black box (R4, R236, R336). -/
structure BoxEvent where
  time : Nat
  kind : Nat
  code : Nat
  die : Nat
  core : Nat
  bay : Nat
  /-- made by the front end or the distributor -/
  fe : Bool
  span : Nat
  launch : Nat
  detail : Nat
  key : Nat
  arg : Nat
  /-- count and reason of an UNDERREAD (R236) -/
  count : Nat
  reason : Nat
  /-- the stop that makes it: quad stops, slice stops, then what belongs to the die as a whole (R212, R229) -/
  stop : Nat
  /-- entries that its ring has taken before it: its index, modulo 256 -/
  n : Nat
  deriving DecidableEq, Repr

/-! ### Rings and launches in flight (R284 to R293, R317) -/

/-- A record of a ring (R284), with how far it has been dispatched (R288) and what a gang has reserved (R292). -/
structure RingRec where
  /-- id of its launch record in `launches` -/
  launch : Nat
  frame : Word64
  join : Word64
  next : Nat
  last : Nat
  /-- reserve stage of a gang: deck index and global core -/
  resv : List (Nat × Nat)
  deriving DecidableEq, Repr

/-- A ring, head first, and the pushes that wait for room in it (R285, R286). -/
structure Ring where
  recs : List RingRec
  delayed : List RingRec
  deriving DecidableEq, Repr

/-- A launch number in flight (R317): its job key, the packet it completes, the statuses noted for its completion. -/
structure Run where
  key : Nat
  pkt : Option Nat
  noted : List Nat
  /-- address for the completion's field at 0x10 -/
  addr : Nat
  deriving DecidableEq, Repr

/-- Bytes, or an arrival, on their way to a barrier (R175, R191). -/
structure Land where
  deck : Nat
  core : Nat
  addr : Word64
  n : Nat
  poison : Bool
  arrive : Nat
  /-- the command whose completion it is -/
  seq : Nat
  /-- what has to be performed first: a write, or every write of a command (R309, R310, R349) -/
  after : Nat
  deriving DecidableEq, Repr

/-- A spilled context, for what of it no section of R207 has a place for (log 11). -/
structure Image where
  spans : List (Nat × Span)
  decks : List (Nat × Deck)
  /-- in the order of the image banks, with their physical numbers -/
  banks : List (Nat × Bank)
  ctx : Ctx
  /-- fills that only the resumed context gets: FIFO pops, and values due at a quantum end (R114, R298) -/
  loads : List (Nat × Load)
  /-- its agents in the order of accesses (R248) -/
  agents : List (Nat × Agent)
  /-- where the spill wrote it -/
  at_ : Nat
  /-- the decks that nothing has resumed or preloaded since -/
  out : List Nat
  deriving DecidableEq, Repr

def Image.none : Image := ⟨[], [], [], Ctx.init, [], [], 0, []⟩

/-! ### The front end (R309 to R321) -/

/-- A packet that has started and not completed (R314, R316). -/
structure Pkt where
  q : Nat
  idx : Nat
  op : Nat
  tag : Nat
  intr : Bool
  key : Nat
  a : Nat
  b : Nat
  c : Nat
  /-- bytes moved by a COPY -/
  done : Nat
  /-- source bytes that a COPY has read and not yet moved (R251) -/
  buf : List Byte
  /-- tick at which an ACQUIRE or WAIT began -/
  t0 : Nat
  /-- launch numbers a RESUME waits for -/
  nums : List Nat
  /-- faulting address of the status that a RESUME will complete with -/
  addr : Nat
  /-- words 2 to 7 -/
  body : List Nat
  deriving DecidableEq, Repr

/-- A completion record on its way to host memory (R316). -/
structure Compl where
  q : Nat
  slot : Nat
  words : List Word64
  intr : Bool
  deriving DecidableEq, Repr

/-- A shootdown in progress (R241). -/
structure Shoot where
  key : Nat
  root : Nat
  vpn : Nat
  size : Nat
  /-- tick at which the bound runs out -/
  due : Nat
  expired : Bool
  pkt : Nat
  /-- physical ranges of the page under its old mapping -/
  ranges : List (Nat × Nat)
  deriving DecidableEq, Repr

structure FrontEnd where
  /-- the registers of R312, R335 and R337 that have been written, by offset -/
  regs : SMap Word64
  heads : SMap Nat
  ctails : SMap Nat
  /-- lanes still to act in the current step, and how many steps have begun (R315) -/
  lanes : List Nat
  stepNo : Nat
  pkts : SMap Pkt
  /-- FENCE markers: queues named, packets before the markers -/
  fences : List (List Nat × List Nat)
  compl : List Compl
  /-- lines the front end owns through CXL.cache (R309) -/
  owned : List Nat
  /-- MSI-X vectors raised, newest first -/
  msi : List Nat
  /-- posted host writes not yet at system scope: the command or packet that they belong to, 0 where none, and their writers (R309) -/
  posted : List (Nat × List Writer)
  shoots : SMap Shoot
  /-- next fault record number (R313) -/
  faultNo : Nat
  /-- what the host's last CXL.mem access got: its data, and whether its completion was poisoned (R311) -/
  hostData : List Byte
  hostPoison : Bool
  deriving DecidableEq, Repr

/-! ### Management, reliability, power (R308, R323 to R337) -/

structure Mgmt where
  enabled : Bool
  safe : Bool
  step : Nat
  code : Nat
  /-- power state selected, and the states dropped by throttling (R323, R324) -/
  power : Nat
  throttle : Nat
  bist : Nat
  cwDown : Nat
  cwHalf : Nat
  stackBad : Nat
  expFailed : Nat
  portsFailed : Nat
  svn : Nat
  svnMin : Nat
  /-- populated second tier in bytes, and ports of the interleave set (R310) -/
  tier : Nat
  tierPorts : Nat
  temps : SMap Nat
  failedQuads : List Nat
  failedDies : List Nat
  /-- causeways retraining; consecutive replays of each (R308) -/
  retrain : List Nat
  replays : SMap Nat
  /-- routes that avoid down causeways, once installed -/
  rerouted : List Nat
  astat : Nat
  report : List Byte
  /-- what bring-up has read: the firmware bundle, and the fused digest of its key (R333) -/
  bundle : List Byte
  fused : List Byte
  /-- the device key pair is derived from the digest of the manifest at bring-up (R335) -/
  manifest : BitVec 512
  /-- save slots, key 2·die + slot: sequence, ring and the digest in its header (R337) -/
  saves : SMap (Nat × List BoxEvent × BitVec 512)
  saveSeq : SMap Nat
  deriving DecidableEq, Repr

/-! ### Mesh reductions (R273 to R281, R305) -/

/-- A vector under way in a reduction: floats, or integers with flags (R278), and the cores it holds. -/
structure MeshVec where
  f : List Word32
  n : List Int
  fl : List Nat
  cores : BitVec 512
  deriving DecidableEq, Repr

/-- A node of the tree: a quad stop, the slice of a die, or the root slice. -/
inductive MeshAt where
  | quad (die q : Nat)
  | slice (die : Nat)
  deriving DecidableEq, Repr

/-- A contribution (0), a partial (1) or a start notice (2) on its way. -/
structure MeshMsg where
  kind : Nat
  handle : Nat
  root : Nat
  key : Nat
  round : Nat
  core : Nat
  src : MeshAt
  dst : MeshAt
  v : MeshVec
  deriving DecidableEq, Repr

/-- What a node holds for a round: its cores' contributions and its children's partials. -/
structure MeshNode where
  at_ : MeshAt
  own : List (Nat × MeshVec)
  kids : List (MeshAt × MeshVec)
  sent : Bool
  deriving DecidableEq, Repr

/-- A round of a reduction: the handle as it was read at its first contribution (R273), and its nodes. -/
structure Round where
  handle : Nat
  root : Nat
  key : Nat
  round : Nat
  exact : Bool
  pkg : Bool
  tree : Nat
  window : Int
  timeout : Nat
  barrier : Nat
  result : Nat
  expected : BitVec 512
  /-- cycle of the first start notice or partial at the root -/
  t0 : Option Nat
  nodes : List MeshNode
  /-- the root's last partial, waiting to be written -/
  final : Option MeshVec
  deriving DecidableEq, Repr

/-! ### The fabric (R340 to R361, R382) -/

/-- A residual object (R358): its key and address, and a tile for each (tensor, tile, hop position) written. -/
structure ResObj where
  root : Nat
  va : Nat
  tiles : List ((Nat × Nat × Nat) × Option (List Word32))
  /-- a foreign store has left the residuals open: a tile without a value, and keys that are not listed (log 17) -/
  open_ : Bool
  /-- keys whose tile in the fabric engine's buffers holds an uncorrectable error (R325) -/
  bad : List (Nat × Nat × Nat)
  deriving DecidableEq, Repr

/-- A packet of the fabric (R344): a contribution up (0), a result down (1), a gathered tile (2), a raw chunk (3). -/
structure FPkt where
  send : Nat
  srcPkg : Nat
  srcDie : Nat
  dstPkg : Nat
  dstDie : Nat
  handle : Nat
  key : Nat
  rank : Nat
  t : Nat
  tag : Nat
  code : Nat
  kind : Nat
  off : Nat
  total : Nat
  bytes : List Byte
  accepted : Bool
  /-- dropped or trimmed, or without a path: not on its way until it is sent again -/
  lost : Bool
  /-- trimmed, not dropped: it is negatively acknowledged (R341) -/
  trimmed : Bool
  /-- tick of the last sending, and its entropy value; 256 where the peer has no path -/
  sent : Nat
  path : Nat
  deriving DecidableEq, Repr

/-- A send: its packets, and the collective entry or fabric processor that waits for the acknowledgement. -/
structure Send where
  die : Nat
  dstPkg : Nat
  dstDie : Nat
  handle : Nat
  pkts : List Nat
  entry : Option Nat
  failed : Bool
  deriving DecidableEq, Repr

/-- An entry of queue 5 that the fabric engine carries out (R349). -/
structure Entry where
  die : Nat
  core : Nat
  /-- sequence number of the command in its queue -/
  seq : Nat
  uid : Nat
  deck : Nat
  number : Nat
  root : Nat
  key : Nat
  op : Nat
  handle : Nat
  t : Nat
  tag : Nat
  bar : Option Word64
  /-- the slot's tile, read at the start -/
  tile : List Byte
  rank : Nat
  g : Nat
  k : Nat
  code : Nat
  home : Bool
  dest : Nat
  readers : Nat
  members : List (Nat × Nat)
  resid : Nat
  tensor : Nat
  /-- sends still unacknowledged -/
  sends : List Nat
  /-- of an all-gather, the parts that are written: 4·rank and the 4,096 bytes' place in the tile; else the rank itself, once its
  contribution is on its way to the parent -/
  got : List Nat
  /-- the tile to be written, and the lines of it that are written; of an all-gather, by part -/
  out : Option (List Byte)
  pos : Nat
  parts : SMap Nat
  written : Bool
  swept : Bool
  landed : Bool
  /-- when it started, in the order of starts (R357) -/
  begun : Nat
  /-- which collective of its deck it is (R348) -/
  nth : Nat
  deriving DecidableEq, Repr

/-- A chunk of the staging memory (R351). -/
structure Chunk where
  die : Nat
  handle : Nat
  t : Nat
  tag : Nat
  /-- bytes reserved -/
  size : Nat
  /-- packets accepted: source rank, offset, bytes -/
  ops : List (Nat × Nat × List Byte)
  deriving DecidableEq, Repr

/-- A raw chunk held in staging until its `recv` (R382). -/
structure Raw where
  die : Nat
  handle : Nat
  rank : Nat
  tag : Nat
  /-- the send it belongs to -/
  send : Nat
  parts : List (Nat × List Byte)
  total : Nat
  deriving DecidableEq, Repr

/-- The paths of a die to a peer: suspect marks and removed entropy values (R342). -/
structure Paths where
  suspect : List Nat
  removed : List Nat
  deriving DecidableEq, Repr

/-- A weight fetch on its way to its home (R379). -/
structure WFetch where
  fp : Nat
  srcDie : Nat
  pkg : Nat
  die : Nat
  root : Nat
  key : Nat
  home : Nat
  b : Nat
  mode : Nat
  e : Nat
  dst : Nat
  bar : Nat
  stat : Nat
  answered : Option Nat
  deriving DecidableEq, Repr

/-- A retirement of a handle on a die (R359). -/
structure Drain where
  die : Nat
  handle : Nat
  due : Nat
  fp : Nat
  /-- 0 draining, 1 retired, 2 bound ran out, 3 bound ran out and its policy still waits for a page -/
  st : Nat
  deriving DecidableEq, Repr

/-- What a fabric processor's current engine instruction waits for. -/
inductive FpWait where
  | none
  /-- waiting since a cycle, with its limit in cycles (0: none) and its destination register -/
  | since (t0 lim xd : Nat)
  | send (id : Nat)
  | drain (id : Nat)
  | fetch (id : Nat)
  /-- a save or a load of the residual object at an address, until its compressions in progress have ended (R371) -/
  | save (obj : Nat)
  deriving DecidableEq, Repr

/-- A fabric processor (R362). -/
structure Fp where
  running : Bool
  x : SMap Word64
  pc : Nat
  key : Nat
  status : Nat
  wait : FpWait
  stop : Option Nat
  /-- a halt record still to be written: reason, cause, code -/
  halting : Option (Nat × Nat × Nat)
  /-- an instruction has begun and not completed (R363) -/
  busy : Bool
  deriving DecidableEq, Repr

def Fp.init : Fp := ⟨false, [], 0, 0, 0, .none, none, none, false⟩

structure Fabric where
  /-- processors, key 4·die + i -/
  fps : SMap Fp
  resid : List ResObj
  pkts : SMap FPkt
  sends : SMap Send
  entries : SMap Entry
  chunks : SMap Chunk
  raws : List Raw
  /-- paths, key 16·(16·package + die) + die of the sender -/
  paths : SMap Paths
  /-- links that have lost their signal -/
  dead : List Nat
  fetches : SMap WFetch
  drains : SMap Drain
  /-- inbox of a home, key 16·handle + die: block, step tag, tile (R376) -/
  inbox : SMap (List (Nat × Nat × List Word32))
  /-- parameters copied by `hopen`, by descriptor address (R374) -/
  params : SMap (List Word32)
  /-- remote waiters of an object, by its physical address (R361, R372) -/
  watch : SMap (List Nat)
  /-- highest version noticed, by object address (R361) -/
  notices : SMap Nat
  /-- notices sent: package, object address, version word -/
  out : List (Nat × Nat × Nat)
  /-- physical addresses of group-table entries that another agent has stored into: what their groups do is open (R386) -/
  opens : List Nat
  /-- packets of other packages that have been accepted: package, die, sending number, receiving die and offset (R342) -/
  seen : List (Nat × Nat × Nat × Nat × Nat)
  deriving DecidableEq, Repr


structure State where
  /-- the MODEL's own: who moves next, from outside; empty: a free choice (log 2) -/
  agenda : List Turn
  /-- the MODEL's own: counts the free choices made -/
  fresh : Nat
  /-- the step in progress -/
  cur : Cur
  /-- arithmetic-clock cycles and 100 MHz ticks since power-good (log 6) -/
  cycle : Nat
  ticks : Nat
  /-- the MODEL's own: the next id of work in flight -/
  nextId : Nat
  /-- the MODEL's own: counts uses of lines, requests that leave a core, and acquires, for their order -/
  uses : Nat
  /-- memory by physical address: HBM4E, second tier, host memory (R226), unlisted 0 (log 1) -/
  mem : List Host.Cell
  lines : SMap HomeLine
  spans : SMap Span
  decks : SMap Deck
  launches : SMap Launch
  cores : SMap Core
  /-- context halves, key 2·core + half -/
  ctxs : SMap Ctx
  /-- network barriers, key 128·die + 16·quad + i (R213) -/
  nets : SMap NetBar
  reqs : SMap Req
  loads : SMap Load
  merges : SMap Merge
  walks : SMap Walk
  /-- upper-level entries that the dies' translation units keep (R239) -/
  uppers : List Upper
  faults : SMap FaultRec
  /-- FAIL answers that a requester other than a span or a command has not used up: requester, root, page, write (R240) -/
  fails : List (Who × Nat × Nat × Bool)
  /-- black box of each die, newest first (R336) -/
  box : SMap (List BoxEvent)
  /-- the eight rings (R285) -/
  rings : SMap Ring
  lands : SMap Land
  /-- launch numbers in flight (R317) -/
  runs : SMap Run
  /-- spilled contexts, by the order of their spills (R207, log 11) -/
  images : SMap Image
  fe : FrontEnd
  mg : Mgmt
  meshMsgs : SMap MeshMsg
  rounds : SMap Round
  fab : Fabric
  /-- what is ordered before what, and each byte's coherence order (R248, R249) -/
  ord : Order
  deriving DecidableEq, Repr

def Core.init : Core := ⟨false, [], [], [], [], [], [], none, none, none, none, 0, false, []⟩

/-- Reset (R159, R332): nothing resident, memory with nothing listed. -/
def State.reset : State :=
  { agenda := [], fresh := 0, cur := {}, cycle := 0, ticks := 0, nextId := 1, uses := 1, mem := [], lines := [], spans := [],
    decks := [], launches := [], cores := [], ctxs := [], nets := [], reqs := [], loads := [], merges := [],
    walks := [], uppers := [], faults := [], fails := [], box := [], rings := [], lands := [], runs := [], images := [],
    fe := ⟨[], [], [], [], 0, [], [], [], [], [], [], [], 0, [], false⟩,
    mg := ⟨false, false, 0, 0, 0, 0, 0, 0, 0, 0, 0, 0, 0, 0, 0, 0, [], [], [], [], [], [], 0, [], [], [], 0, [], []⟩,
    meshMsgs := [], rounds := [],
    fab := ⟨[], [], [], [], [], [], [], [], [], [], [], [], [], [], [], [], [], []⟩,
    ord := ⟨0, [], [], [], [], []⟩ }

end Sys2Proof.Machine
end

