-- ==== Sys2Proof/Machine/Order.lean ====
section
/-! DEFINITION. What is ordered before what, and the coherence order of each byte: R244, R245, R248, R249, R252 to R256. -/

namespace Sys2Proof.Machine
open Sys2Proof

def agentOf (s : State) (a : Nat) : Agent := mapGet Agent.init s.ord.agents a
def putAgent (s : State) (a : Nat) (x : Agent) : State :=
  { s with ord := { s.ord with agents := mapPut s.ord.agents a x } }

/-- An agent leaves; what its writes carry stays with them. -/
def delAgent (s : State) (a : Nat) : State := { s with ord := { s.ord with agents := mapDel s.ord.agents a } }

/-! ### What is ordered before an access (R248) -/

/-- One thing more is known; what it makes needless leaves. -/
def addKnown (c : Clock) (k : Known) : Clock :=
  if c.any (fun x => x.agent == k.agent && (x.ranges == none || x.ranges == k.ranges) && decide (k.upTo ≤ x.upTo)) then c
  else k :: c.filter (fun x => !(x.agent == k.agent && (k.ranges == none || x.ranges == k.ranges) && decide (x.upTo ≤ k.upTo)))
def addClock (c d : Clock) : Clock := d.foldl addKnown c

/-- The ranges that lie in both lists. -/
def meetRanges (a b : List (Nat × Nat)) : List (Nat × Nat) :=
  a.flatMap (fun x => b.filterMap (fun y =>
    let lo := max x.1 y.1
    let hi := min (x.1 + x.2) (y.1 + y.2)
    if lo < hi then some (lo, hi - lo) else none))

/-- What of a clock reaches the bytes of some ranges (R252, R253). -/
def bindClock (c : Clock) (rs : List (Nat × Nat)) : Clock :=
  c.filterMap (fun k =>
    let r := match k.ranges with
      | none => rs
      | some x => meetRanges x rs
    if r.isEmpty then none else some { k with ranges := some r })

/-- Does an entry of a clock reach a virtual address? -/
def reaches (k : Known) (va : Nat) : Bool :=
  match k.ranges with
  | none => true
  | some rs => rs.any (fun r => decide (r.1 ≤ va) && decide (va < r.1 + r.2))

/-- Are accesses of agent `b` in an epoch ordered before an access of agent `a` at `va` that knows `c`? Those of one agent
are, by program order on a byte. -/
def knowsEpoch (c : Clock) (a va b epoch : Nat) : Bool :=
  (a != 0 && b == a) || c.any (fun k => k.agent == b && decide (epoch ≤ k.upTo) && reaches k va)

/-- Is a performed write ordered before a write by agent `a` at virtual address `va` that knows `c`? -/
def knows (c : Clock) (a va : Nat) (w : Written) : Bool :=
  knowsEpoch c a va w.agent w.epoch

/-- An agent's release: what it covers; later accesses of the agent are not covered (R248). -/
def publish (s : State) (a : Nat) : State × Clock :=
  let x := agentOf s a
  (putAgent s a { x with epoch := x.epoch + 1 }, addKnown x.clock ⟨a, x.epoch, none⟩)

/-- An agent's acquire: a clock is ordered before its younger accesses. -/
def learn (s : State) (a : Nat) (c : Clock) : State :=
  let x := agentOf s a
  putAgent s a { x with clock := addClock x.clock c }

/-- An agent ends: what it did, and what came before that, is ordered before what another goes on to do. -/
def handOver (s : State) (a b : Nat) : State :=
  let p := publish s a
  learn p.1 b p.2

/-- The host's and the front end's place among the cores: only `.pkg` and `.pod` cover it (R245). -/
def hostPort : Nat := 1024

/-- A scope named by an agent of core `g` covers an agent of core `h`; 512 + die stands for a die's own agents (R245). -/
def scopeCovers (scope g h : Nat) : Bool :=
  let die := fun (k : Nat) => if k < 512 then k / 32 else k - 512
  match scope with
  | 0 => false
  | 1 => g == h
  | 2 => decide (g < 512) && decide (h < 512) && g / 4 == h / 4
  | 3 => die g == die h
  | _ => true

/-- Two scopes, each tested on its own (R248). -/
def scopesMeet (sa ga sb gb : Nat) : Bool := scopeCovers sa ga gb && scopeCovers sb gb ga

/-! ### Coherence order (R249) -/

/-- The agents that are no span and no engine command (R244): the host with its front end, the home slices and the fabric
engine of a die, a fabric processor. -/
def hostAgent : Nat := 2 ^ 64
def dieAgent (die : Nat) : Nat := 2 ^ 64 + 1 + die
def fpAgent (k : Nat) : Nat := 2 ^ 64 + 64 + k
/-- What the retired decks of a launch number have done, for its completion (R286, R317). -/
def runAgent (number : Nat) : Nat := 2 ^ 65 + number
/-- What the retired decks of a launch record have done, for its next phase (R260). -/
def phaseAgent (launch : Nat) : Nat := 2 ^ 66 + launch

/-- Bytes of a line as an agent of core or port `id` writes them now; `va` is the line's virtual address. -/
def writerOf (s : State) (a : Nat) (id : Int) (mask : BitVec 128) (va : Nat) : Writer :=
  let x := agentOf s a
  ⟨mask, va / 128 * 128, id, a, x.epoch, x.clock, x.fences⟩

/-- The host's or the front end's writes, and those of a die's own agents (R244). -/
def hostWriter (s : State) : Writer := writerOf s hostAgent (-1) 0 0
def dieWriter (s : State) (die agent : Nat) : Writer := writerOf s agent (512 + die) 0 0

/-- A write takes its place in a byte's coherence order: after the last write that is ordered before it, and then after
those of no higher writer id (R249). Writes that it makes needless leave. True: it stands last. -/
def placeWrite (l : List Written) (w : Written) (before : Written → Bool) : List Written × Bool :=
  let tail := (l.reverse.takeWhile (fun x => !before x)).length
  let old := (l.take (l.length - tail)).filter (fun x => !(before x && decide (x.id ≤ w.id)))
  let new := l.drop (l.length - tail)
  let low := new.takeWhile (fun x => decide (x.id ≤ w.id))
  let high := new.drop low.length
  (old ++ low ++ w :: high, high.isEmpty)

/-- The coherence order of the byte at `pa`, and a new one for it. -/
def ordersAt (s : State) (pa : Nat) : List Written := mapGet [] (mapGet [] s.ord.bytes (pa / 128)) (pa % 128)
def putOrders (s : State) (pa : Nat) (l : List Written) : State :=
  { s with ord := { s.ord with
    bytes := mapPut s.ord.bytes (pa / 128) (mapPut (mapGet [] s.ord.bytes (pa / 128)) (pa % 128) l) } }

/-- The last writes of the bytes of a line. -/
def lastWriters (s : State) (line : Nat) : List Written := (mapGet [] s.ord.bytes line).filterMap (fun b => b.2.getLast?)

/-- The place of a write of one byte; `atomic`: among atomics of a byte the order is the home's. -/
def orderWrite (s : State) (w : Writer) (atomic : Bool) (va pa : Nat) : State × Bool :=
  let x : Written := ⟨w.id, w.agent, w.epoch, s.ord.stamp, atomic, w.fences, va⟩
  let p := placeWrite (ordersAt s pa) x (fun y => knows w.clock w.agent va y || (atomic && y.atomic))
  (putOrders s pa p.1, p.2)

/-- One write is performed. -/
def nextStamp (s : State) : State := { s with ord := { s.ord with stamp := s.ord.stamp + 1 } }

/-- A writer's bytes stand over those of the writers before it. -/
def addWriter (l : List Writer) (w : Writer) : List Writer :=
  let l := (l.map (fun v => { v with mask := v.mask &&& ~~~ w.mask })).filter (fun v => v.mask != 0)
  match l.find? (fun v => { v with mask := w.mask } == w) with
  | some v => { v with mask := v.mask ||| w.mask } :: l.filter (fun x => x != v)
  | none => w :: l

/-- Does a writer race with bytes of a line that another agent's write has left there? -/
def racesIn (l : List Writer) (w : Writer) : Bool :=
  l.any (fun v => v.mask &&& w.mask != 0 && !knowsEpoch w.clock w.agent w.va v.agent v.epoch)

/-- Bytes of a line hold a write that is ordered before the agent's next access (R248, R252). -/
def isBefore (s : State) (a : Nat) (l : List Writer) : Bool :=
  l.any (fun v => knowsEpoch (agentOf s a).clock a v.va v.agent v.epoch)

/-! ### Fences (R255) -/

/-- A mark for some bytes of a line. -/
def addMark (l : List (BitVec 128 × FenceMark)) (mask : BitVec 128) (m : FenceMark) : List (BitVec 128 × FenceMark) :=
  if l.any (fun x => x.2 == m) then l.map (fun x => if x.2 = m then (x.1 ||| mask, m) else x) else (mask, m) :: l

/-- The fences that stand before the writes whose values the home holds in a line, by byte. -/
def lineMarks (s : State) (line : Nat) : List (BitVec 128 × FenceMark) :=
  (mapGet [] s.ord.bytes line).foldl (fun l p => match p.2.getLast? with
    | some w => w.fences.foldl (fun l m => addMark l (BitVec.ofNat 128 (2 ^ p.1)) m) l
    | none => l) []

/-- The bytes of a line from `pa` on, n of them. -/
def bytesMask (pa n : Nat) : BitVec 128 := BitVec.ofNat 128 ((2 ^ n - 1) * 2 ^ (pa % 128))

/-- Of the marks of a line those that stand before the bytes of a read. -/
def marksAt (l : List (BitVec 128 × FenceMark)) (mask : BitVec 128) : List FenceMark :=
  (l.filter (fun x => x.1 &&& mask != 0)).map Prod.snd

/-- The marks that the writers of a line's dirty bytes give a read of another agent. -/
def writerMarks (a : Nat) (l : List Writer) (mask : BitVec 128) : List FenceMark :=
  (l.filter (fun w => w.agent != a && w.mask &&& mask != 0)).flatMap Writer.fences

/-- An agent has read past fences. -/
def seeMarks (s : State) (a : Nat) (l : List FenceMark) : State :=
  let x := agentOf s a
  let new := l.foldl (fun l m => if l.contains m then l else m :: l) x.seen
  if new = x.seen then s else putAgent s a { x with seen := new }

/-- An agent reads the n bytes at `pa` at their home. -/
def seeFences (s : State) (a pa n : Nat) : State := seeMarks s a (marksAt (lineMarks s (pa / 128)) (bytesMask pa n))

/-- A fence of a span at a scope: it pairs with the fences it has read past, and its younger writes carry it. -/
def orderFence (s : State) (a core scope : Nat) : State :=
  let x := agentOf s a
  let hit := x.seen.filter (fun m => scopesMeet m.scope m.core scope core)
  let s := putAgent s a { x with
    clock := hit.foldl (fun c m => addClock c m.clock) x.clock
    seen := x.seen.filter (fun m => !scopesMeet m.scope m.core scope core) }
  let p := publish s a
  let y := agentOf p.1 a
  putAgent p.1 a { y with fences := ⟨p.2, scope, core⟩ :: y.fences.filter (fun m => decide (scope < m.scope)) }

/-! ### Objects, atomics and barriers (R252 to R254, R256) -/

/-- Is the value that the home holds at `pa` that of an atomic (R254)? -/
def lastAtomic (s : State) (pa : Nat) : Bool :=
  match (ordersAt s pa).getLast? with
  | some w => w.atomic
  | none => false

/-- The key of a released word: a physical address, or an offset of a deck's scratch. -/
def relKey (pa : Nat) : Nat := 2 * pa
def relKeyLocal (deck off : Nat) : Nat := 2 * (deck * 2 ^ 19 + off) + 1

/-- A release is performed. -/
def addRelease (s : State) (key : Nat) (r : Released) : State :=
  { s with ord := { s.ord with rels := mapPut s.ord.rels key (r :: mapGet [] s.ord.rels key) } }

/-- An acquire at version `v` and a scope: the releases that synchronise with it, at the bytes of `rs` where listed. -/
def acquireFrom (s : State) (a core scope key v : Nat) (rs : Option (List (Nat × Nat))) : State :=
  let hit := (mapGet [] s.ord.rels key).filter (fun r => decide (r.version ≤ v) && scopesMeet r.scope r.core scope core)
  learn s a (hit.flatMap (fun r => match rs with
    | none => r.clock
    | some x => bindClock r.clock x))

/-- An arrival or a landing covers a clock in the barrier's current phase. -/
def coverPhase (s : State) (key : Nat) (c : Clock) : State :=
  let b := mapGet ([], []) s.ord.bars key
  { s with ord := { s.ord with bars := mapPut s.ord.bars key (addClock b.1 c, b.2) } }

/-- The barrier's phase has completed. -/
def endPhase (s : State) (key : Nat) : State :=
  match mapFind s.ord.bars key with
  | none => s
  | some b => { s with ord := { s.ord with bars := mapPut s.ord.bars key ([], b.1) } }

end Sys2Proof.Machine
end

