-- ==== Sys2Proof/Machine/Ops.lean ====
section
/-! DEFINITION. The named operations over the state: registers, memory bytes and lines, translation, barriers' images,
commit of an S-word, taking a trap and returning from one. -/

namespace Sys2Proof.Machine
open Sys2Proof

abbrev Res := Host.Outcome State Fault Refusal

/-! ### Records of the state -/

def coreOf (s : State) (g : Nat) : Core := mapGet Core.init s.cores g
def putCore (s : State) (g : Nat) (c : Core) : State := { s with cores := mapPut s.cores g c }
def ctxKey (g : Nat) (half : Bool) : Nat := 2 * g + (if half then 1 else 0)
def ctxOf (s : State) (g : Nat) (half : Bool) : Ctx := mapGet Ctx.init s.ctxs (ctxKey g half)
def putCtx (s : State) (g : Nat) (half : Bool) (c : Ctx) : State := { s with ctxs := mapPut s.ctxs (ctxKey g half) c }
def spanOf (s : State) (u : Nat) : Option Span := mapFind s.spans u
def putSpan (s : State) (u : Nat) (sp : Span) : State := { s with spans := mapPut s.spans u sp }
def deckOf (s : State) (k : Nat) : Option Deck := mapFind s.decks k
def putDeck (s : State) (k : Nat) (d : Deck) : State := { s with decks := mapPut s.decks k d }
def reqOf (s : State) (i : Nat) : Req := mapGet Req.init s.reqs i
def putReq (s : State) (i : Nat) (r : Req) : State := { s with reqs := mapPut s.reqs i r }
def delReq (s : State) (i : Nat) : State := { s with reqs := mapDel s.reqs i }
def newReq (s : State) (r : Req) : State × Nat :=
  ({ s with reqs := mapPut s.reqs s.nextId r, nextId := s.nextId + 1 }, s.nextId)
def putLoad (s : State) (i : Nat) (l : Load) : State := { s with loads := mapPut s.loads i l }
def newLoad (s : State) (l : Load) : State × Nat :=
  ({ s with loads := mapPut s.loads s.nextId l, nextId := s.nextId + 1 }, s.nextId)
def homeOf (s : State) (line : Nat) : HomeLine := mapGet HomeLine.init s.lines line
def putHome (s : State) (line : Nat) (h : HomeLine) : State := { s with lines := mapSet HomeLine.init s.lines line h }
/-- The die of a core; 512 + die stands for the die's own requesters: fabric, front end, mesh (R239). -/
def dieOfCore (g : Nat) : Nat := if g < 512 then g / 32 else g - 512

/-- The launch of a deck (every resident deck has one). -/
def launchOf (s : State) (sp : Span) : Option Launch :=
  match deckOf s sp.deck with
  | none => none
  | some d => mapFind s.launches d.launch

/-- Run `k` on the span the current step is about. -/
def withSpan (s : State) (k : Span → Res) : Res :=
  match spanOf s s.cur.uid with
  | none => .fault .notEnabled
  | some sp => k sp

/-- Run `k` on the acting span and its launch. -/
def withLaunch (s : State) (k : Span → Launch → Res) : Res :=
  withSpan s fun sp => match launchOf s sp with
    | none => .fault .notEnabled
    | some l => k sp l

/-! ### Registers (R2, R115, R71) -/

def sRead (sp : Span) (r : Nat) : Word64 := if r = 63 then 0 else mapGet 0 sp.s r
def sFull (sp : Span) (r : Nat) : Bool := r == 63 || !sp.sEmpty.getLsbD r
def sWrite (sp : Span) (r : Nat) (x : Word64) : Span :=
  if r = 63 then sp else { sp with s := mapSet 0 sp.s r x, badS := sp.badS &&& ~~~ BitVec.ofNat 64 (2 ^ r) }
def sMarkEmpty (sp : Span) (r : Nat) : Span :=
  if r = 63 then sp else { sp with sEmpty := sp.sEmpty ||| BitVec.ofNat 64 (2 ^ r) }
def sMarkFull (sp : Span) (r : Nat) : Span :=
  if r = 63 then sp else { sp with sEmpty := sp.sEmpty &&& ~~~ BitVec.ofNat 64 (2 ^ r) }
def sFill (sp : Span) (r : Nat) (x : Word64) : Span := sMarkFull (sWrite sp r x) r

def vRead (sp : Span) (r l : Nat) : Word32 := mapGet 0 sp.v (32 * r + l)
def vFull (sp : Span) (r : Nat) : Bool := !sp.vEmpty.getLsbD r
/-- What is written to a lane reaches its shadow's copy too (R331). -/
def vWrite (sp : Span) (r l : Nat) (x : Word32) : Span :=
  { sp with v := mapSet 0 sp.v (32 * r + l) x, badV := sp.badV.filter (fun k => k != 32 * r + l)
            shadow := sp.shadow.map (fun m => mapSet 0 m (32 * r + l) x) }
def vMarkEmpty (sp : Span) (r : Nat) : Span := { sp with vEmpty := sp.vEmpty ||| BitVec.ofNat 256 (2 ^ r) }
def vMarkFull (sp : Span) (r : Nat) : Span := { sp with vEmpty := sp.vEmpty &&& ~~~ BitVec.ofNat 256 (2 ^ r) }

/-- Every write to `am` is ANDed with `live` (R30). -/
def setAm (sp : Span) (m : BitVec 32) : Span := { sp with am := m &&& sp.live }
def planeOf (sp : Span) (l : Nat) : Nat := (sp.pl.extractLsb' (2 * l) 2).toNat
def setPlane (sp : Span) (l k : Nat) : Span :=
  { sp with pl := (sp.pl &&& ~~~ (3#64 <<< (2 * l))) ||| ((BitVec.ofNat 64 (k % 4)) <<< (2 * l)) }
/-- The lanes whose plane is k. -/
def planeMask (sp : Span) (k : Nat) : BitVec 32 :=
  maskOf 32 ((List.range 32).filter (fun l => planeOf sp l == k))

/-- Lanes of a span: 16 visible ones in parapet mode (R33, R86). -/
def lanesOf (l : Launch) : Nat := if l.parapet then 16 else 32
def liveInit (l : Launch) : BitVec 32 := if l.parapet then 0x0000FFFF else 0xFFFFFFFF

/-! ### Commit of an S-word (R39, R141, R202) -/

/-- Single-step: the unit that ran was the one allowed (R202). -/
def stepNext : StepState → StepState
  | .running => .due
  | x => x

/-- One S-word or position more (R141), one unit of single-step less. -/
def countUnit (sp : Span) : Span :=
  { sp with ltime := sp.ltime + 1, step := stepNext sp.step, pend := .none, ahead := sp.ahead.tail }

/-- The span after an S-word that commits and falls through. -/
def advance (sp : Span) : Span := { countUnit sp with spc := sp.spc + 4 }

/-- Commit with the span's new state, continuing at the next S-word. -/
def commitS (s : State) (sp : Span) : Res := .next (putSpan s s.cur.uid (advance sp))

/-- Commit, continuing at `pc`. -/
def commitJump (s : State) (sp : Span) (pc : Word64) : Res :=
  .next (putSpan s s.cur.uid { countUnit sp with spc := pc })

/-- The S-word or pass waits and is tried again at the span's next turn. -/
def stall (s : State) : Res := .next s

/-- Does a load that only a quantum end delivers fill one of these registers (R298)? -/
def lateDest (s : State) (u : Nat) (ss vs : List Nat) : Bool :=
  s.loads.any (fun p => p.2.uid == u && p.2.late && match p.2.dest with
    | .none => false
    | .s r => ss.contains r
    | .v r pair => vs.contains r || (pair && vs.contains (r + 1)))

/-- The span holds until its deck's quantum end (R298). -/
def hold (s : State) (sp : Span) : Res := .next (putSpan s s.cur.uid { sp with held := true })

/-- The span waits for registers to fill: it holds where only a quantum end delivers the value. So does an instruction that only writes
the register, which R44 makes wait and R298 does not name (DESIGN CHOICE, log 89). -/
def stallFor (s : State) (sp : Span) (ss vs : List Nat) : Res :=
  if lateDest s s.cur.uid ss vs then hold s sp else stall s

/-! ### Memory bytes (R6, R226) -/

def hbmTop : Nat := 0x00C000000000
def tierLo : Nat := 0x8000000000000
def tierHi : Nat := 0x8080000000000
def hostLo : Nat := 0xF000000000000
/-- Above it stands the management block, which nothing maps (R309). -/
def hostTop : Nat := 0xF800000000000

/-- HBM4E: the addresses that have a home (R226). -/
def isHbm (pa : Nat) : Bool := decide (pa < hbmTop)
def isTier (pa : Nat) : Bool := decide (tierLo ≤ pa) && decide (pa < tierHi)
def isHost (pa : Nat) : Bool := decide (hostLo ≤ pa) && decide (pa < hostTop)
/-- A physical address that something answers: HBM4E, the populated second tier, host memory (R226, R309, R310). -/
def paExists (s : State) (pa : Nat) : Bool :=
  isHbm pa || (isTier pa && decide (pa - tierLo < s.mg.tier)) || isHost pa

/-- Die, home slice and set of an HBM4E address (R227). -/
def dieOfPa (pa : Nat) : Nat := (pa >>> 12) % 16
def sliceOfPa (pa : Nat) : Nat :=
  ((pa >>> 7) % 16) ^^^ ((pa >>> 11) % 16) ^^^ ((pa >>> 15) % 16) ^^^ ((pa >>> 19) % 2)
def setOfPa (pa : Nat) : Nat := ((pa >>> 16) % 2048) ^^^ ((pa >>> 7) % 32)
/-- Its address within the stack of its die (R227). -/
def stackAddr (pa : Nat) : Nat := (pa >>> 16) % 2 ^ 36 * 4096 + pa % 4096

def memByte (s : State) (pa : Nat) : Byte := mapGet 0 s.mem pa
def memPut (s : State) (pa : Nat) (b : Byte) : State := { s with mem := mapSet 0 s.mem pa b }

def memWrite (s : State) (pa : Nat) (l : List Byte) : State := (l.zipIdx).foldl (fun t p => memPut t (pa + p.2) p.1) s

def lineByte (d : Line) (i : Nat) : Byte := d.extractLsb' (8 * i) 8
def lineSet (d : Line) (i : Nat) (b : Byte) : Line :=
  (d &&& ~~~ (0xFF#1024 <<< (8 * i))) ||| ((b.zeroExtend 1024) <<< (8 * i))

def bytesToNat : List Byte → Nat
  | [] => 0
  | b :: r => b.toNat + 256 * bytesToNat r
def natToBytes : Nat → Nat → List Byte
  | 0, _ => []
  | k + 1, n => BitVec.ofNat 8 n :: natToBytes k (n / 256)

/-- A byte as its home holds it: a pinned line's data before memory's (R231, R233). -/
def homeByte (s : State) (pa : Nat) : Byte :=
  match (homeOf s (pa / 128)).data with
  | some d => lineByte d (pa % 128)
  | none => memByte s pa

/-- A use, by its number. -/
def nextUse (s : State) : State := { s with uses := s.uses + 1 }

/-- Bytes of a line in memory. -/
def memLine (s : State) (line : Nat) : Line :=
  BitVec.ofNat 1024 (bytesToNat ((List.range 128).map (fun i => memByte s (128 * line + i))))

/-- Two lines share a set of a slice (R227, R228). -/
def sameSet (x y : Nat) : Bool :=
  dieOfPa (128 * x) == dieOfPa (128 * y) && sliceOfPa (128 * x) == sliceOfPa (128 * y) && setOfPa (128 * x) == setOfPa (128 * y)

/-- The least recently used of some lines of a slice. -/
def lruHome (l : List (Nat × HomeLine)) : Option (Nat × HomeLine) :=
  l.foldl (fun best x => match best with
    | none => some x
    | some y => if x.2.l2 < y.2.l2 then some x else best) none

/-- The slice's way for a line: where its set is full, its least recently used line that is not pinned is written back and
leaves (R228, R231). -/
def makeWay (s : State) (line : Nat) : State :=
  let held := s.lines.filter (fun p => (p.2.l2 != 0 || p.2.pinned) && sameSet p.1 line)
  if held.length < 16 then s
  else match lruHome (held.filter (fun p => !p.2.pinned)) with
    | none => s
    | some (x, _) => putHome s x { homeOf s x with below := none, l2 := 0 }

/-- The slice uses a line: it is held, as the most recently used of its set (R228). -/
def homeTouch (s : State) (line : Nat) : State :=
  if !isHbm (128 * line) then s
  else
    let s := if (homeOf s line).l2 = 0 ∧ !(homeOf s line).pinned then makeWay s line else s
    nextUse (putHome s line { homeOf s line with l2 := s.uses })

/-- A byte is written at its home: to a pinned line's data, to the slice, which remembers what HBM4E holds, or beyond (R228). -/
def homePut (s : State) (pa : Nat) (b : Byte) : State :=
  let h := homeOf s (pa / 128)
  match h.data with
  | some d => putHome s (pa / 128) { h with data := some (lineSet d (pa % 128) b) }
  | none =>
    let s := if isHbm pa ∧ h.l2 = 0 then homeTouch s (pa / 128) else s
    let s := if isHbm pa ∧ h.below.isNone then
        putHome s (pa / 128) { homeOf s (pa / 128) with below := some (memLine s (pa / 128)) } else s
    memPut s pa b

/-- n bytes at the home, little-endian. -/
def homeRead (s : State) (pa n : Nat) : Nat := bytesToNat ((List.range n).map (fun i => homeByte s (pa + i)))
def homeWrite (s : State) (pa : Nat) (l : List Byte) : State :=
  (l.zipIdx).foldl (fun t p => homePut t (pa + p.2) p.1) s
def homeWriteNat (s : State) (pa n x : Nat) : State := homeWrite s pa (natToBytes n x)

/-- The home's die is failed, or its line carries the error mark: a read of it returns poisoned data (R326, R330). -/
def badLine (s : State) (line : Nat) : Bool :=
  (homeOf s line).poison || (homeOf s line).latent || (isHbm (128 * line) && s.mg.failedDies.contains (dieOfPa (128 * line)))

/-- One line as the home holds it. -/
def homeLine (s : State) (line : Nat) : Line :=
  match (homeOf s line).data with
  | some d => d
  | none => memLine s line

/-! ### The black box (R336) -/

/-- The index that a ring of black-box entries, newest first, gives its next entry, counted without end (R337). -/
def boxNext (l : List BoxEvent) : Nat :=
  match l with
  | [] => 0
  | e :: _ => e.n + 1

/-- A ring of black-box entries, newest first, with one entry more; it holds 256. Entries with equal timestamps stand in the order of
their stops (R336). -/
def boxPut (l : List BoxEvent) (e : BoxEvent) : List BoxEvent :=
  let later := l.takeWhile (fun x => x.time == e.time && decide (e.stop < x.stop))
  let rest := l.dropWhile (fun x => x.time == e.time && decide (e.stop < x.stop))
  let moved : List BoxEvent := later.map (fun x => { x with n := x.n + 1 })
  let new : BoxEvent := { e with n := boxNext rest }
  (moved ++ new :: rest).take 256

/-- An entry of the die's black box (R336). -/
def record (s : State) (e : BoxEvent) : State := { s with box := mapPut s.box e.die (boxPut (mapGet [] s.box e.die) e) }

/-- An entry with no field set but its time. -/
def boxEvent (s : State) : BoxEvent := ⟨s.ticks, 0, 0, 0, 0, 0, false, 0, 0, 0, 0, 0, 0, 0, 24, 0⟩

/-- UNDERREAD of a counted line or of a slot (R4, R236). -/
def recUnderread (s : State) (die core arg count reason launch : Nat) : State :=
  let key := ((mapFind s.runs launch).map Run.key).getD 0
  record s { boxEvent s with
    kind := 1, code := 0x81, die, core, arg, count, reason, launch, key, stop := if reason = 4 then core / 4 else 8 + core }

/-- An UNCORRECTABLE event with its detail (R4, R336). -/
def recUncorrectable (s : State) (die core launch detail arg : Nat) : State :=
  let key := ((mapFind s.runs launch).map Run.key).getD 0
  record s { boxEvent s with
    kind := 1, code := 0x82, die, core, detail, launch, key, arg, stop := if detail = 5 then 24 else if isHbm arg then 8 + sliceOfPa arg else core / 4 }

/-- An event of a span (R4, R336). -/
def spanEvent (s : State) (sp : Span) (code detail arg : Nat) : BoxEvent :=
  let l := launchOf s sp
  { boxEvent s with
    kind := 1, code, die := sp.core / 32, core := sp.core % 32, bay := sp.bay, span := sp.n, detail, stop := sp.core % 32 / 4
    launch := (l.map Launch.number).getD 0, key := (l.map Launch.key).getD 0, arg }

/-! ### The local window and the quad barrier window (R103, R164, R213) -/

def localLo : Nat := 0x01FFFFFFFFF80000
def quadLo : Nat := 0x01FFFFFFFFF7FE00
def vaTop : Nat := 2 ^ 57
def inLocal (a : Nat) : Bool := decide (localLo ≤ a) && decide (a < vaTop)
def inQuad (a : Nat) : Bool := decide (quadLo ≤ a) && decide (a < localLo)

def bankOf (c : Core) (p : Nat) : Bank := mapGet Bank.init c.banks p
def putBank (s : State) (g p : Nat) (b : Bank) : State :=
  let c := coreOf s g
  putCore s g { c with banks := mapPut c.banks p b }

/-- The physical bank of a deck's local index (R157). -/
def physBank (d : Deck) (i : Nat) : Option Nat := d.banks[i]?

/-- Where a local offset lies: none at or beyond the scratch size; else the physical bank (R103, R164). -/
def localBank (d : Deck) (off : Nat) : Option Nat := physBank d (off / 32768)

def localByte (s : State) (d : Deck) (off : Nat) : Byte :=
  match localBank d off with
  | some p => mapGet 0 (bankOf (coreOf s d.core) p).bytes (off % 32768)
  | none => 0
def localPut (s : State) (d : Deck) (off : Nat) (b : Byte) : State :=
  match localBank d off with
  | some p =>
    let k := bankOf (coreOf s d.core) p
    putBank s d.core p { k with
      bytes := mapSet 0 k.bytes (off % 32768) b, bad := k.bad.filter (fun o => o != off % 32768)
      atoms := k.atoms.filter (fun o => o / 4 != off % 32768 / 4), marks := mapDel k.marks (off % 32768) }
  | none => s
/-- Do n bytes of scratch hold an uncorrectable error (R325)? -/
def localBad (s : State) (d : Deck) (off n : Nat) : Bool :=
  (List.range n).any (fun i => match localBank d (off + i) with
    | some p => (bankOf (coreOf s d.core) p).bad.contains ((off + i) % 32768)
    | none => false)
def localRead (s : State) (d : Deck) (off n : Nat) : Nat :=
  bytesToNat ((List.range n).map (fun i => localByte s d (off + i)))
def localWrite (s : State) (d : Deck) (off : Nat) (l : List Byte) : State :=
  (l.zipIdx).foldl (fun t p => localPut t d (off + p.2) p.1) s

/-- The `n` bytes of scratch at `off` have been written by an agent: they carry the fences before the write (R255). -/
def localMark (s : State) (d : Deck) (off n a : Nat) : State :=
  let fs := (agentOf s a).fences
  if fs.isEmpty then s
  else (List.range n).foldl (fun t i => match localBank d (off + i) with
    | some p =>
      let k := bankOf (coreOf t d.core) p
      putBank t d.core p { k with marks := mapPut k.marks ((off + i) % 32768) (a, fs) }
    | none => t) s
/-- An agent has read n bytes of scratch: the fences before the writes of other agents (R255). -/
def seeLocal (s : State) (d : Deck) (off n a : Nat) : State :=
  seeMarks s a ((List.range n).flatMap (fun i => match localBank d (off + i) with
    | some p => match mapFind (bankOf (coreOf s d.core) p).marks ((off + i) % 32768) with
      | some m => if m.1 = a then [] else m.2
      | none => []
    | none => []))

/-- The words of scratch that an atomic has written, or whether the one at `off` is such a word (R254). -/
def localAtom (s : State) (d : Deck) (off n : Nat) : State :=
  match localBank d off with
  | some p =>
    let k := bankOf (coreOf s d.core) p
    putBank s d.core p { k with atoms := (List.range (n / 4)).map (fun i => off % 32768 + 4 * i) ++ k.atoms }
  | none => s
def isLocalAtom (s : State) (d : Deck) (off : Nat) : Bool :=
  match localBank d off with
  | some p => (bankOf (coreOf s d.core) p).atoms.contains (off % 32768)
  | none => false

/-- The bank of a local offset is in scratch mode, or switching to it (R103, R167). -/
def localMode (s : State) (d : Deck) (off : Nat) : Option Bank :=
  (localBank d off).map (bankOf (coreOf s d.core))

/-! ### Translation (R237 to R241) -/

/-- The answer to a translation request. -/
inductive Xl where
  | ok (pa : Nat) (bar : Bool)
  /-- a walk or a fault record is pending; the state has it -/
  | wait (s : State)
  | fail
  deriving DecidableEq, Repr

def tlbCovers (t : Tlb) (root vpn : Nat) : Bool := t.root == root && t.vpn / 2 ^ t.size == vpn / 2 ^ t.size
def tlbPa (t : Tlb) (va : Nat) : Nat :=
  (t.ppn + ((va / 4096) % 2 ^ t.size)) * 4096 + va % 4096
def tlbFind (l : List Tlb) (root vpn : Nat) : Option Tlb := l.find? (fun t => tlbCovers t root vpn)

/-- The lists of TLBs a lookup searches: instruction fetch, or the bay's data TLB, then the shared one (R239). -/
def tlbLookup (c : Core) (fetch : Bool) (bay root vpn : Nat) : Option Tlb :=
  let first := if fetch then c.itlb else mapGet [] c.dtlb bay
  match tlbFind first root vpn with
  | some t => some t
  | none => tlbFind c.stlb root vpn

/-- Keep a translation in the requester's own TLB too (64 entries, R239). -/
def tlbTouch (s : State) (g : Nat) (fetch : Bool) (bay : Nat) (t : Tlb) : State :=
  let c := coreOf s g
  if fetch then
    if c.itlb.contains t then s else putCore s g { c with itlb := (t :: c.itlb).take 64 }
  else
    let l := mapGet [] c.dtlb bay
    if l.contains t then s else putCore s g { c with dtlb := mapPut c.dtlb bay ((t :: l).take 64) }

/-- The walk of a page for a requester: it joins one of the die for the same pair, or starts (R239). -/
def startWalk (s : State) (die root vpn : Nat) (n : Need) : State :=
  match s.walks.find? (fun p => p.2.die == die && p.2.root == root && p.2.vpn == vpn) with
  | some (i, w) =>
    if w.needs.contains n then s else { s with walks := mapPut s.walks i { w with needs := w.needs ++ [n] } }
  | none => { s with walks := mapPut s.walks s.nextId ⟨die, root, vpn, [n]⟩, nextId := s.nextId + 1 }

/-- Does a fault record hold this requester's page (R240)? -/
def faultPending (s : State) (die root vpn : Nat) (write : Bool) (who : Who) : Bool :=
  s.faults.any (fun p => p.2.die == die && p.2.root == root && p.2.vpn == vpn && p.2.write == write && p.2.who.contains who)

/-- Translate for a requester on core `g`, bay `bay` (R237 to R241): permissions of the leaf, a closing page for
everything but reads. `kind`: 0 read, 1 write, 2 fetch, 3 consuming, 4 counted fill. -/
def translate (s : State) (g bay root key va kind : Nat) (who : Who) (failed : List (Nat × Bool)) : Xl :=
  let vpn := va / 4096
  let write := kind == 1
  let fetch := kind == 2
  let die := dieOfCore g
  if failed.contains (vpn, write) then .fail
  else if faultPending s die root vpn write who then .wait s
  else
    match tlbLookup (coreOf s g) fetch bay root vpn with
    | some t =>
      if (write && !t.w) || (fetch && !t.x) || (t.closing && (write || fetch || kind == 4)) then
        .wait (startWalk s die root vpn ⟨who, key, write, fetch, kind⟩)
      else if paExists s (tlbPa t va) then .ok (tlbPa t va) t.bar
      else .fail
    | none => .wait (startWalk s die root vpn ⟨who, key, write, fetch, kind⟩)

/-- Translate an access of a span; the FAIL answer it was given stands in its record. -/
def xlate (s : State) (sp : Span) (l : Launch) (va kind : Nat) : Xl :=
  translate s sp.core sp.bay l.root l.key va kind (.span s.cur.uid) sp.xfail

/-- Translate for a die's own requester (R240). -/
def dieXlate (s : State) (die root key va kind : Nat) (who : Who) : Xl :=
  if s.fails.contains (who, root, va / 4096, kind == 1) then .fail
  else if vaTop ≤ va then .fail
  else translate s (512 + die) 4 root key va kind who []

/-- The FAIL answers of a requester are used up. -/
def dropFails (s : State) (who : Who) : State := { s with fails := s.fails.filter (fun f => f.1 != who) }

/-! ### The L1 and requests to the home (R163, R246, R247) -/

def l1Find (c : Core) (line : Nat) : Option L1Line := c.l1.find? (fun x => x.line == line)
def l1Del (c : Core) (line : Nat) : Core := { c with l1 := c.l1.filter (fun x => x.line != line) }
def l1Put (c : Core) (x : L1Line) : Core := { c with l1 := x :: (l1Del c x.line).l1 }

/-- Banks in cache mode, not switching: they serve the L1 (R162, R163). -/
def cacheBanks (c : Core) : List Nat :=
  (List.range 32).filter (fun p => (bankOf c p).mode == .cache && (bankOf c p).switch.isEmpty)

/-- A bank with a free way in the line's set (R163). -/
def freeWay (c : Core) (line : Nat) : Option Nat :=
  (cacheBanks c).find? (fun p => decide ((c.l1.filter (fun x => x.bank == p && x.line % 64 == line % 64)).length < 4))

/-- The least recently used line of a set. -/
def lruLine (l : List L1Line) : Option L1Line :=
  l.foldl (fun best x => match best with
    | none => some x
    | some y => if x.lru < y.lru then some x else best) none

/-- Store data on its way to the home, expander or host (R107, R246). -/
def sendStore (s : State) (g line : Nat) (mask : BitVec 128) (data : Line) (checks : Nat) (who : List Nat)
    (poison : Bool) (va : Nat) (writers : List Writer) : State :=
  (newReq s { Req.init with
    core := g, kind := .storeData, line, mask, data, a := checks, by_ := who, poison, stage := .home, va, writers }).1

/-- Write back a line's dirty bytes; the line stays, clean, but leaves where they are lost (R246, R328). -/
def writeBack (s : State) (g line : Nat) : State :=
  let c := coreOf s g
  match l1Find c line with
  | none => s
  | some x =>
    if x.dirty = 0 then s
    else
      let s := sendStore s g line x.dirty x.data x.checks x.by_ x.poison (x.vas.headD 0) x.writers
      putCore s g (if x.poison then l1Del (coreOf s g) line
        else l1Put (coreOf s g) { x with dirty := 0, checks := 0, by_ := [], writers := [] })

/-- Drop a line's copy after writing back its dirty bytes (R247). -/
def dropCopy (s : State) (g line : Nat) : State :=
  let s := writeBack s g line
  putCore s g (l1Del (coreOf s g) line)

/-- Close the plain windows of a line, or of every line (R219). -/
def closeWindows (s : State) (g : Nat) (p : Nat → Bool) : State :=
  { s with reqs := s.reqs.filter (fun x => !(x.2.core == g && x.2.kind == .plain && x.2.filled.isSome && p x.2.line)) }

/-- One of R247's cases for a line: its copy leaves, and its plain window closes (R219). -/
def invalidate (s : State) (g line : Nat) : State := closeWindows (dropCopy s g line) g (fun x => x == line)

/-- The copies of the core's banks that satisfy `p` leave, their dirty bytes going back, and every plain window closes (R219,
R247, R253 to R256). -/
def dropLines (s : State) (g : Nat) (p : L1Line → Bool) : State :=
  closeWindows (((coreOf s g).l1.filter p).foldl (fun t x => dropCopy t g x.line) s) g (fun _ => true)

/-- Room for a line in the L1: a free way, or the least recently used line of the set leaves. -/
def makeRoom (s : State) (g line : Nat) : State × Option Nat :=
  let c := coreOf s g
  match freeWay c line with
  | some p => (s, some p)
  | none =>
    match lruLine (c.l1.filter (fun x => x.line % 64 == line % 64 && (cacheBanks c).contains x.bank)) with
    | none => (s, none)
    | some x => (dropCopy s g x.line, some x.bank)

/-- Merge masked bytes into a line. -/
def mergeLine (old : Line) (mask : BitVec 128) (new : Line) : Line :=
  (List.range 128).foldl (fun d i => if mask.getLsbD i then lineSet d i (lineByte new i) else d) old

/-- Racing dirty bytes of another span go to the home before bytes that would take their place (R249). -/
def clearRace (s : State) (g line : Nat) (w : Writer) : State :=
  match l1Find (coreOf s g) line with
  | some x => if racesIn x.writers w then writeBack s g line else s
  | none => s

/-- A line of the core's banks is used (R163). -/
def touchL1 (s : State) (g line : Nat) : State :=
  match l1Find (coreOf s g) line with
  | some x => nextUse (putCore s g (l1Put (coreOf s g) { x with lru := s.uses }))
  | none => s

/-- One virtual address more of a line's users (R271). -/
def addVa (l : List Nat) (va : Nat) : List Nat := if l.contains (va / 128 * 128) then l else l ++ [va / 128 * 128]

/-- A plain store's bytes, those of the writers `ws` of one span, enter the core's banks (R163); without a cache bank they go to the
home at once. -/
def l1Store (s : State) (g u line : Nat) (mask : BitVec 128) (data : Line) (checks : Nat) (ws : List Writer) : State :=
  let s := nextUse (ws.foldl (fun t w => clearRace t g line w) (closeWindows s g (fun l => l == line)))
  -- bytes that are lost already go first, and take no good ones with them (R328)
  let s := if (l1Find (coreOf s g) line).any L1Line.poison then writeBack s g line else s
  match l1Find (coreOf s g) line with
  | some x =>
    putCore s g (l1Put (coreOf s g) { x with
      valid := x.valid ||| mask, dirty := x.dirty ||| mask, data := mergeLine x.data mask data,
      checks := x.checks + checks, by_ := if x.by_.contains u then x.by_ else u :: x.by_,
      lru := s.uses, since := if x.dirty = 0 then s.cycle else x.since, vas := ws.foldl (fun l w => addVa l w.va) x.vas
      writers := ws.foldl addWriter x.writers, marks := x.marks.map (fun m => (m.1 &&& ~~~ mask, m.2)) })
  | none =>
    match makeRoom s g line with
    | (s, some p) =>
      putCore s g (l1Put (coreOf s g) ⟨line, p, mask, mask, mergeLine 0 mask data, checks, s.uses, [u], s.cycle, false,
        ws.foldl (fun l w => addVa l w.va) [], ws, [], s.ord.stamp⟩)
    | (s, none) => sendStore s g line mask data checks [u] false ((ws.head?.map Writer.va).getD 0) ws

/-- The home's data fills the line where the core has no dirty byte of its own (R163). -/
def l1Fill (s : State) (g line : Nat) (data : Line) (va : Nat) (marks : List (BitVec 128 × FenceMark)) : State :=
  let s := nextUse s
  match l1Find (coreOf s g) line with
  | some x =>
    putCore s g (l1Put (coreOf s g) { x with
      valid := BitVec.allOnes 128, data := mergeLine data x.dirty x.data, lru := s.uses, vas := addVa x.vas va
      marks := marks.map (fun m => (m.1 &&& ~~~ x.dirty, m.2)), stamp := s.ord.stamp })
  | none =>
    match makeRoom s g line with
    | (s, some p) =>
      putCore s g (l1Put (coreOf s g) ⟨line, p, BitVec.allOnes 128, 0, data, 0, s.uses, [], s.cycle, false,
        addVa [] va, [], marks, s.ord.stamp⟩)
    | (s, none) => s

/-- Bytes of a line as a plain load of a core sees them: the core's own writes before the home's, those on their way and
then its dirty bytes (R163, R250). -/
def readMerged (s : State) (g line : Nat) (data : Line) : Line :=
  let sent := (s.reqs.filter (fun p => p.2.core == g && p.2.kind == .storeData && p.2.line == line)).foldl
    (fun d p => mergeLine d p.2.mask p.2.data) data
  match l1Find (coreOf s g) line with
  | some x => mergeLine sent x.dirty x.data
  | none => sent

/-- Does the core hold n bytes of a line? -/
def l1Has (x : L1Line) (pa n : Nat) : Bool := (List.range n).all (fun i => x.valid.getLsbD (pa % 128 + i))

/-- A read that is no load, of a block's code, a stack or a trap frame, uses its line in the core's banks, which is filled where
it does not hold the bytes (R163, R384). -/
def useLine (s : State) (g pa va n : Nat) : State :=
  let line := pa / 128
  match (l1Find (coreOf s g) line).filter (fun x => l1Has x pa n) with
  | some _ => touchL1 s g line
  | none =>
    if !isHbm pa || (homeOf s line).poison || (homeOf s line).latent then s
    else l1Fill (homeTouch s line) g line (readMerged s g line (homeLine s line)) va (lineMarks s line)

/-- Bytes that have been written at the home enter the core's copy of the line, where it has one (R246, R247). -/
def l1Merge (s : State) (g line : Nat) (mask : BitVec 128) (data : Line) : State :=
  match l1Find (coreOf s g) line with
  | some x => putCore s g (l1Put (coreOf s g) { x with valid := x.valid ||| mask, data := mergeLine x.data mask data })
  | none => s

/-- Is a store of the core to this line still on its way (R218, R265)? -/
def storeInFlight (s : State) (g line : Nat) : Bool :=
  s.reqs.any (fun p => p.2.core == g && p.2.line == line && p.2.kind == .storeData)

/-- The requests that carry bytes of a span's older writes, or of writes ordered before its next access, and are not
performed (R245, R252). -/
def unperformed (s : State) (u : Nat) : List Nat :=
  (s.reqs.filter (fun p => p.2.kind == .storeData && (p.2.by_.contains u || isBefore s u p.2.writers))).map Prod.fst
def atomicsOf (s : State) (u : Nat) : List Nat :=
  (s.reqs.filter (fun p => (p.2.kind == .atomic || p.2.kind == .rel || p.2.kind == .dropc) && p.2.uid == u)).map Prod.fst

/-- Dirty bytes of a line that the span wrote, or that are ordered before its next access (R252). -/
def dirtyFor (s : State) (u : Nat) (x : L1Line) : Bool :=
  x.dirty != 0 && (x.by_.contains u || isBefore s u x.writers)

/-- Write back every line of the core with such bytes that satisfies `p` (R265). -/
def writeBackOf (s : State) (g u : Nat) (p : Nat → Bool) : State :=
  ((coreOf s g).l1.filter (fun x => dirtyFor s u x && p x.line)).foldl (fun t x => writeBack t g x.line) s

/-- Has the core such bytes that satisfy `p`? -/
def dirtyOf (s : State) (g u : Nat) (p : Nat → Bool) : Bool :=
  (coreOf s g).l1.any (fun x => dirtyFor s u x && p x.line)

/-- Loads of the span that still wait for bytes of a line that satisfies `p`: what is younger in program order, or ordered
after them by a release, may not reach them (R38, R248, R250). -/
def unread (s : State) (u : Nat) (p : Nat → Bool) : List Nat :=
  (s.loads.filter (fun x => x.2.uid == u && x.2.fifo.isNone && !x.2.late &&
    x.2.lanes.any (fun r => r.got.isNone && p (r.pa / 128)) &&
    !s.reqs.any (fun q => q.2.kind == .atomic && q.2.loads.contains x.1))).map Prod.fst

/-- A load no longer waits for bytes. -/
def hasRead (s : State) (i : Nat) : Bool :=
  match mapFind s.loads i with
  | some ld => ld.lanes.all (fun r => r.got.isSome)
  | none => true

/-- Atomics and releases of the span on a line are still to be performed (R38, R265). -/
def atomicsOn (s : State) (u line : Nat) : Bool :=
  s.reqs.any (fun p => p.2.uid == u && p.2.line == line && (p.2.kind == .atomic || p.2.kind == .rel))

/-- Release markers of a core that are not cleared: those of requests, and those of arrivals that wait (R265: at most 64). -/
def markers (s : State) (g : Nat) : Nat :=
  (s.reqs.filter (fun p => p.2.core == g && p.2.marker && !p.2.cleared &&
    (p.2.kind == .atomic || p.2.kind == .rel))).length +
  (s.spans.map (fun p => match p.2.pend with
    | .arrive n => if p.2.core = g then n else 0
    | _ => 0)).sum

/-- The writes that a release of the span covers, as requests in flight, and its loads that still wait for bytes;
write-backs have been sent (R250, R265). -/
def coveredBy (s : State) (u scope : Nat) : List Nat :=
  (if scope ≤ 1 then atomicsOf s u else unperformed s u ++ atomicsOf s u) ++ unread s u (fun _ => true)

/-- A covered request is performed, and a covered load has its bytes. -/
def isPerformed (s : State) (i : Nat) : Bool := (mapFind s.reqs i).isNone && hasRead s i

/-- Every older store, atomic and `dropc` of the span is performed at `.quad` and wider, and no older load waits for bytes
(R245, R250, R255, R256). -/
def allPerformed (s : State) (sp : Span) (u : Nat) : Bool :=
  !dirtyOf s sp.core u (fun _ => true) && (unperformed s u).isEmpty && (atomicsOf s u).isEmpty &&
  (unread s u (fun _ => true)).isEmpty

/-- Wait until every older store, atomic and `dropc` of the span is performed at the scope (1 is `.core`) and its older
loads have their bytes, sending the write-backs that this needs; then `k` (R255, R256, R257). -/
def afterStores (s : State) (sp : Span) (scope : Nat) (k : State → Res) : Res :=
  if scope = 1 then
    if (atomicsOf s s.cur.uid).isEmpty && (unread s s.cur.uid (fun _ => true)).isEmpty then k s else stall s
  else if allPerformed s sp s.cur.uid then k s
  else .next (writeBackOf s sp.core s.cur.uid (fun _ => true))

/-- An arrival of the acting span waits so for its older writes, and holds markers of its core meanwhile, one for each global barrier
that it goes to (R256, R265). -/
def afterArrive (s : State) (sp : Span) (scope n : Nat) (k : State → Res) : Res :=
  match sp.pend with
  | .arrive _ => afterStores s sp scope k
  | _ =>
    if n = 0 then afterStores s sp scope k
    else if 64 < markers s sp.core + n then stall s
    else if allPerformed s sp s.cur.uid then k s
    else .next (putSpan (writeBackOf s sp.core s.cur.uid (fun _ => true)) s.cur.uid { sp with pend := .arrive n })

/-! ### Traps (R147, R198, R199) -/

def frameAddr (l : Launch) (sp : Span) (k : Nat) : Nat := l.frameBase.toNat + sp.n * 0x100 + k * 0x80

/-- The report of a trap (R147). -/
structure Report where
  cause : Nat
  lane : Bool
  fmask : BitVec 32
  faddr : Nat
  deriving DecidableEq, Repr

def causeIllegal : Nat := 0x01
def causeExt : Nat := 0x02
def causeEmpty : Nat := 0x03
def causePartial : Nat := 0x04
def causeNonuniform : Nat := 0x05
def causeRetEmpty : Nat := 0x06
def causeMaskEmpty : Nat := 0x07
def causeOverread : Nat := 0x08
def causeSlot : Nat := 0x09
def causeMisaligned : Nat := 0x0A
def causePageFault : Nat := 0x0B
def causePlane : Nat := 0x0E
def causeBankMode : Nat := 0x0F
def causeBarrier : Nat := 0x10
def causeCounted : Nat := 0x11
def causeBreak : Nat := 0x12
def causeStep : Nat := 0x13

/-- The reported point (R147): the address of the `lrun` that enqueued the head block for an L-word, else of the S-word. -/
def reportPoint (sp : Span) (lane : Bool) : Word64 :=
  match lane, sp.queue.head? with
  | true, some b => b.point
  | _, _ => sp.spc

/-- The eight words of a frame (R198), built from the report, the span and its block. -/
def frameWords (sp : Span) (cur : Cur) (r : Report) : List Word64 :=
  let b := sp.queue.head?
  let info : Nat :=
    match r.lane, b with
    | true, some b =>
      (b.n - 1) * 2 ^ 20 + b.pos * 2 ^ 12 + cur.plane * 2 ^ 10 + (if b.planed then 2 ^ 9 else 0) + 2 ^ 8 + r.cause
    | _, _ => r.cause
  let point := reportPoint sp r.lane
  let place : Nat := match r.lane, b with
    | true, some b => if b.planed then b.j * 2 ^ 18 else b.off
    | _, _ => 0
  let desc : Word64 := match r.lane, b with
    | true, some b => if b.planed then b.desc else 0
    | _, _ => 0
  [BitVec.ofNat 64 info, point, sp.am ++ r.fmask, BitVec.ofNat 64 r.faddr,
   cur.word.extractLsb' 0 64, (cur.word.extractLsb' 64 32).zeroExtend 64, BitVec.ofNat 64 place, desc,
   0, sRead sp 60, sRead sp 61, sRead sp 62]

/-- Store bytes to HBM4E as the span's own writes, line by line (R37, R199); `checks` says how many answered store checks of
each line they use up (R107). -/
def storeBytes (s : State) (g u pa va checks : Nat) (l : List Byte) : State :=
  let n := l.length
  let lines := ((List.range n).map (fun i => (pa + i) / 128)).dedup
  lines.foldl (fun t line =>
    let idx := (List.range n).filter (fun i => (pa + i) / 128 == line)
    let mask := maskOf 128 (idx.map (fun i => (pa + i) % 128))
    let data := idx.foldl (fun d i => lineSet d ((pa + i) % 128) (l.getD i 0)) (0 : Line)
    l1Store t g u line mask data checks [writerOf t u g mask (128 * line + va - pa)]) s

/-- A byte as the span's core sees it: its L1's, then its store data on the way, then the home's (R246). -/
def coreByte (s : State) (g pa : Nat) : Byte :=
  match (l1Find (coreOf s g) (pa / 128)).filter (fun x => x.valid.getLsbD (pa % 128)) with
  | some x => lineByte x.data (pa % 128)
  | none =>
    match (s.reqs.filter (fun p => p.2.core == g && p.2.kind == .storeData && p.2.line == pa / 128 &&
        p.2.mask.getLsbD (pa % 128))).getLast? with
    | some p => lineByte p.2.data (pa % 128)
    | none => homeByte s pa
def coreRead (s : State) (g pa n : Nat) : Nat := bytesToNat ((List.range n).map (fun i => coreByte s g (pa + i)))

/-- The span has read or written a line at its home: older copies of the line are not for it any more (R250). -/
def raiseFloor (s : State) (sp : Span) (line : Nat) : Span :=
  { sp with floors := mapPut sp.floors line s.ord.stamp }
def raiseFloorOf (s : State) (u line : Nat) : State :=
  match spanOf s u with
  | some sp => putSpan s u (raiseFloor s sp line)
  | none => s

/-- The base of a deck's i-th write range (R300). -/
def deckRange (l : Launch) (d : Deck) (i : Nat) : Int :=
  let b := l.writes.getD i (0, 0, false)
  let st := l.strides.getD i (0, 0, 0)
  (b.1 : Int) + d.coords.1 * st.1 + d.coords.2.1 * st.2.1 + d.coords.2.2 * st.2.2

/-! ### What a span reads (R38, R246, R260) -/

/-- The byte that one entry of a commit buffer leaves at a virtual address. -/
def bufferedByte (x : Buffered) (va : Nat) : Option Byte :=
  match x with
  | .store cells _ => cells.foldl (fun r c => if c.1 = va then some c.2 else r) none
  | .atomic w _ _ _ lanes => lanes.foldl (fun r a =>
      if a.va ≤ va ∧ va < a.va + w / 8 then some (BitVec.ofNat 8 (a.new / 2 ^ (8 * (va - a.va)))) else r) none
  | _ => none

/-- The span's own newest buffered write of a byte. -/
def ownByte (l : List (Word64 × Buffered)) (va : Nat) : Option Byte :=
  l.foldl (fun r x => match bufferedByte x.2 va with
    | some b => some b
    | none => r) none

/-- A byte as the span reads it: in a deterministic launch its own older write, then its deck's commits of the phase,
then the phase's beginning (R260); else its core's copy before the home's (R246). -/
def viewByte (s : State) (sp : Span) (l : Launch) (va pa : Nat) : Byte :=
  if l.det then
    match ownByte sp.buffer va with
    | some b => b
    | none => match (deckOf s sp.deck).bind (fun d => mapFind d.overlay va) with
      | some b => b
      | none => mapGet 0 l.snapshot pa
  else coreByte s sp.core pa
def viewRead (s : State) (sp : Span) (l : Launch) (va pa n : Nat) : Nat :=
  bytesToNat ((List.range n).map (fun i => viewByte s sp l (va + i) (pa + i)))

/-! ### Barrier images (R190) -/

/-- Where a barrier's image is. -/
inductive BarLoc where
  | scratch (deck : Nat) (off : Nat)
  | net (key : Nat)
  | mem (pa : Nat)
  deriving DecidableEq, Repr

/-- A barrier image by its fields (R190). -/
structure Bar where
  valid : Bool
  abandoned : Bool
  plast : Bool
  olast : Bool
  pcur : Bool
  exparr : Nat
  phase : Nat
  drops : Nat
  arrivals : Nat
  base : Nat
  expbytes : Nat
  registered : Nat
  landed : Nat
  /-- reserved bits [58:56] of word 0 and [63:48] of word 1, kept as they stand -/
  res0 : Nat
  res1 : Nat
  deriving DecidableEq, Repr

def bitAt (w : Nat) (i : Nat) : Bool := (w >>> i) % 2 == 1
def bitN (b : Bool) (i : Nat) : Nat := if b then 2 ^ i else 0

def barOfWords (w0 w1 w2 w3 : Nat) : Bar where
  valid := bitAt w0 63
  abandoned := bitAt w0 62
  plast := bitAt w0 61
  olast := bitAt w0 60
  pcur := bitAt w0 59
  res0 := (w0 >>> 56) % 8
  exparr := (w0 >>> 32) % 2 ^ 24
  phase := w0 % 2 ^ 32
  res1 := (w1 >>> 48) % 2 ^ 16
  drops := (w1 >>> 24) % 2 ^ 24
  arrivals := w1 % 2 ^ 24
  base := (w2 >>> 40) % 2 ^ 24
  expbytes := w2 % 2 ^ 40
  registered := (w3 >>> 40) % 2 ^ 24
  landed := w3 % 2 ^ 40

def barWords (b : Bar) : List Nat :=
  [bitN b.valid 63 + bitN b.abandoned 62 + bitN b.plast 61 + bitN b.olast 60 + bitN b.pcur 59 + b.res0 * 2 ^ 56 +
     (b.exparr % 2 ^ 24) * 2 ^ 32 + b.phase % 2 ^ 32,
   b.res1 * 2 ^ 48 + (b.drops % 2 ^ 24) * 2 ^ 24 + b.arrivals % 2 ^ 24,
   (b.base % 2 ^ 24) * 2 ^ 40 + b.expbytes % 2 ^ 40,
   (b.registered % 2 ^ 24) * 2 ^ 40 + b.landed % 2 ^ 40]

def readBar (s : State) (l : BarLoc) : Bar :=
  match l with
  | .scratch d off => match deckOf s d with
    | some dk =>
      let b := barOfWords (localRead s dk off 8) (localRead s dk (off + 8) 8) (localRead s dk (off + 16) 8) (localRead s dk (off + 24) 8)
      -- an uncorrectable image is abandoned (R325)
      if localBad s dk off 32 then { b with abandoned := true } else b
    | none => barOfWords 0 0 0 0
  | .net k => let n := mapGet NetBar.init s.nets k
    barOfWords n.w0.toNat n.w1.toNat n.w2.toNat n.w3.toNat
  | .mem pa =>
    let b := barOfWords (homeRead s pa 8) (homeRead s (pa + 8) 8) (homeRead s (pa + 16) 8) (homeRead s (pa + 24) 8)
    -- every barrier whose home lies on a failed die is marked abandoned (R330)
    if s.mg.failedDies.contains (dieOfPa pa) then { b with abandoned := true } else b

/-- The key of a barrier in the order's table. -/
def barKey : BarLoc → Nat
  | .scratch d off => 4 * (d * 2 ^ 19 + off) + 1
  | .net k => 4 * k + 2
  | .mem pa => 4 * pa + 3

/-- The image is written; where its phase has changed, what the phase's arrivals and landings cover is kept for its
waiters (R256). -/
def writeBar (s : State) (l : BarLoc) (b : Bar) : State :=
  let ws := barWords b
  let s := if (readBar s l).phase = b.phase then s else endPhase s (barKey l)
  match l with
  | .scratch d off => match deckOf s d with
    | some dk =>
      let s := if b.abandoned && localBad s dk off 32 then recUncorrectable s (dk.core / 32) (dk.core % 32) 0 3 (localLo + off) else s
      localWrite s dk off (ws.flatMap (natToBytes 8))
    | none => s
  | .net k => let n := mapGet NetBar.init s.nets k
    { s with nets := mapPut s.nets k { n with
      w0 := BitVec.ofNat 64 (ws.getD 0 0), w1 := BitVec.ofNat 64 (ws.getD 1 0),
      w2 := BitVec.ofNat 64 (ws.getD 2 0), w3 := BitVec.ofNat 64 (ws.getD 3 0) } }
  | .mem pa => nextStamp (homeWrite (homeTouch s (pa / 128)) pa (ws.flatMap (natToBytes 8)))

/-- `complete` of R191. -/
def barComplete (b : Bar) (ov : Bool) : Bar :=
  { b with plast := b.pcur, olast := ov, pcur := false, exparr := b.exparr - b.drops, drops := 0,
           phase := (b.phase + 1) % 2 ^ 32, arrivals := 0, landed := 0, expbytes := b.base }
/-- `check` of R191. -/
def barCheck (b : Bar) : Bar :=
  if decide (b.exparr < b.arrivals) || decide (b.expbytes < b.landed) then barComplete b true
  else if b.arrivals = b.exparr ∧ b.landed = b.expbytes ∧ (0 < b.exparr ∨ 0 < b.expbytes) then barComplete b false
  else b
/-- `arrive(B, k)` and `land(B, n, poison)` of R191. -/
def barArrive (b : Bar) (k : Nat) : Bar := barCheck { b with arrivals := b.arrivals + k }
def barLand (b : Bar) (n : Nat) (poison : Bool) : Bar :=
  barCheck { b with landed := b.landed + n, pcur := b.pcur || poison }
/-- The abandoned flag (R196). -/
def barAbandon (s : State) (l : BarLoc) : State :=
  writeBar s l { readBar s l with abandoned := true }

/-! ### The walk of the tables (R237, R238) -/

inductive WalkRes where
  | leaf (size ppn : Nat) (bar x w : Bool)
  | fault (level : Nat) (malformed : Bool)
  deriving DecidableEq, Repr

/-- An entry of R238 is malformed at its level. -/
def entryBad (e level : Nat) : Bool :=
  let leaf := bitAt e 1
  let ppn := (e >>> 12) % 2 ^ 40
  decide (e / 2 ^ 52 ≠ 0) || decide ((e >>> 6) % 64 ≠ 0) || (leaf && decide (3 ≤ level)) || (!leaf && level == 0) ||
  (bitAt e 5 && level != 0) || (leaf && decide (ppn % 2 ^ (9 * level) ≠ 0))

/-- Walk from a table at `table` down from `level`; entries are read at their homes. -/
def walkFrom (s : State) (vpn : Nat) : Nat → Nat → WalkRes
  | level, table =>
    let e := homeRead s (table + 8 * ((vpn >>> (9 * level)) % 512)) 8
    if !bitAt e 0 then .fault level false
    else if entryBad e level then .fault level true
    else if bitAt e 1 then
      -- with g64 the core holds the four-kilobyte entry it read (R238 allows one of the sixteen)
      .leaf (9 * level) ((e >>> 12) % 2 ^ 40) (bitAt e 4) (bitAt e 3) (bitAt e 2)
    else match level with
      | 0 => .fault 0 true
      | k + 1 => walkFrom s vpn k (((e >>> 12) % 2 ^ 40) * 4096)

def walkTable (s : State) (root vpn : Nat) : WalkRes := walkFrom s vpn 4 root

/-- Where an address lies under a root, whatever its permissions, and whether its page is a barrier page. -/
def lookupVa (s : State) (root va : Nat) : Option (Nat × Bool) :=
  match walkTable s root (va / 4096) with
  | .leaf size ppn bar _ _ =>
    let pa := (ppn + ((va / 4096) % 2 ^ size)) * 4096 + va % 4096
    if paExists s pa then some (pa, bar) else none
  | .fault _ _ => none

/-! ### Causeways and routes (R306 to R308) -/

/-- The dies that a causeway joins (R306). -/
def causewayEnds (c : Nat) : Nat × Nat :=
  if c < 14 then (8 * (c / 7) + c % 7, 8 * (c / 7) + c % 7 + 1) else (c - 14, c - 6)

/-- The die at the other end of a causeway of die `d`. -/
def acrossOf (c d : Nat) : Option Nat :=
  if (causewayEnds c).1 = d then some (causewayEnds c).2 else if (causewayEnds c).2 = d then some (causewayEnds c).1 else none

/-- Dies that can be reached from those listed in `k` crossings, over causeways that are not down. -/
def reachable (down : Nat) : Nat → List Nat → List Nat
  | 0, l => l
  | k + 1, l => reachable down k ((List.range 16).filter (fun d => l.contains d || (List.range 22).any (fun c =>
      !bitAt down c && ((acrossOf c d).map l.contains).getD false)))

/-- The route of a message between two dies: along its row, then down its column (R307). -/
def rowRoute (a b : Nat) : List Nat :=
  let row := a / 8
  let lo := min (a % 8) (b % 8)
  ((List.range (max (a % 8) (b % 8) - lo)).map (fun i => 7 * row + lo + i)) ++ (if row = b / 8 then [] else [14 + b % 8])

/-- The shortest route that avoids the causeways of `down`, at each die over the lowest-numbered causeway that lies on one
(R308). -/
def shortRoute (down b : Nat) : Nat → Nat → List Nat
  | 0, _ => []
  | k + 1, a =>
    if a = b then []
    else
      let dist := fun (d : Nat) => (List.range 16).find? (fun n => (reachable down n [b]).contains d)
      match (List.range 22).findSome? (fun c => (acrossOf c a).bind (fun d =>
        if !bitAt down c && (dist d).isSome && decide ((dist d).getD 0 < (dist a).getD 0) then some (c, d) else none)) with
      | some (c, d) => c :: shortRoute down b k d
      | none => []

/-- The route in use between two dies (R307, R308). -/
def routeOf (s : State) (a b : Nat) : List Nat :=
  let r := rowRoute a b
  if r.any s.mg.rerouted.contains then shortRoute (s.mg.rerouted.foldl (fun m c => m ||| 2 ^ c) 0) b 16 a else r

/-- Traffic between two dies waits: a causeway of its route retrains, or is down and no route that avoids it is installed yet
(R308). -/
def routeWaits (s : State) (a b : Nat) : Bool :=
  (!s.mg.retrain.isEmpty || s.mg.cwDown != 0) && !s.mg.failedDies.contains b &&
  (routeOf s a b).any (fun c => s.mg.retrain.contains c || (bitAt s.mg.cwDown c && !s.mg.rerouted.contains c))

/-! ### Finding a barrier (R103, R192, R213, R243) -/

inductive BarXl where
  | loc (b : BarLoc)
  | wait (s : State)
  | trap (cause : Nat)
  deriving DecidableEq, Repr

def netKey (g a : Nat) : Nat := 128 * (g / 32) + 16 * ((g % 32) / 4) + (a - quadLo) / 32

/-- The mode of a deck's local bank at the deck's start (R157). -/
def firstMode (l : Launch) (k : Nat) : BankMode := if k < l.banksS then .scratch else .fifo

/-- In a deterministic launch, a BKMODE entry has changed a bank's mode, or one that the span has buffered is about to: what
mode it is in is looked at when a quantum end applies an entry (R385). -/
def modeDeferred (sp : Span) (l : Launch) (d : Deck) (k : Nat) : Bool :=
  l.det && (d.switched.contains k || sp.buffer.any (fun x => match x.2 with
    | .bkmode v _ => (v.extractLsb' 0 5).toNat == k
    | _ => false))

/-- The barrier at an address, with the checks of R192 in the order MISALIGNED, PAGE_FAULT, BANK_MODE, BARRIER_ERROR.
`kind` is 1 for an operation that writes the image and 0 for `barwait`; `commit`: the check is that of a commit, not of a quantum
end (R385). -/
def findBar (s : State) (sp : Span) (l : Launch) (addr : Word64) (kind : Nat) (commit : Bool) : BarXl :=
  let a := addr.toNat
  if a % 32 ≠ 0 then .trap causeMisaligned
  else if vaTop ≤ a then .trap causePageFault
  else if inLocal a then
    match deckOf s sp.deck with
    | none => .trap causePageFault
    | some d => match localMode s d (a - localLo) with
      | none => .trap causePageFault
      | some b =>
        if commit && modeDeferred sp l d ((a - localLo) / 32768) then .loc (.scratch sp.deck (a - localLo))
        else if b.mode ≠ .scratch then .trap causeBankMode
        else if b.switch.isEmpty then .loc (.scratch sp.deck (a - localLo)) else .wait s
  else if inQuad a then
    let n := mapGet NetBar.init s.nets (netKey sp.core a)
    -- R215: only the owner's launches operate on it; `barinit` binds it
    if n.owner = some l.key ∨ (kind = 2 ∧ !(barOfWords n.w0.toNat 0 0 0).valid) then .loc (.net (netKey sp.core a))
    else .trap causeBarrier
  else match xlate s sp l a (if kind = 0 then 0 else 1) with
    | .ok pa bar =>
      if bar && isHbm pa then
        if routeWaits s (dieOfCore sp.core) (dieOfPa pa) then .wait s else .loc (.mem pa)
      else .trap causeBarrier
    | .wait s => .wait s
    | .fail => .trap causePageFault

/-- The scope of a barrier (R214, R245): scratch `.core`, network `.quad`, global `.pkg`. -/
def barScope : BarLoc → Nat
  | .scratch _ _ => 1
  | .net _ => 2
  | .mem _ => 4

/-- After an operation of the span on a barrier in memory. -/
def raiseBar (s : State) (sp : Span) (loc : BarLoc) : Span :=
  match loc with
  | .mem pa => raiseFloor s sp (pa / 128)
  | _ => sp

/-- The way from a core to a barrier in memory waits (R308). -/
def wayShut (s : State) (core : Nat) (loc : Option BarLoc) : Bool :=
  match loc with
  | some (.mem pa) => routeWaits s (dieOfCore core) (dieOfPa pa)
  | _ => false

/-- The barrier at an address, for a deck on a core, found without checks. -/
def barLocOf (s : State) (deck core : Nat) (addr : Word64) : Option BarLoc :=
  let a := addr.toNat
  if inLocal a then some (.scratch deck (a - localLo))
  else if inQuad a then some (.net (netKey core a))
  else match (deckOf s deck).bind (fun d => mapFind s.launches d.launch) with
    | none => none
    | some l => (lookupVa s l.root a).map (fun p => .mem p.1)

/-- The barrier a registration entry of a span names. -/
def entryBar (s : State) (sp : Span) (addr : Word64) : Option BarLoc := barLocOf s sp.deck sp.core addr

/-- An arrival of a span that has a lost write lands with the poison mark (R328). -/
def lostMark (sp : Span) (b : Bar) : Bar := if sp.lost.isEmpty then b else { b with pcur := true }

/-- Arrive-and-drop of lanes D at one barrier of the span's table (R195). -/
def dropAt (s : State) (u : Nat) (D : BitVec 32) (e : RegEntry) : State :=
  match spanOf s u with
  | none => s
  | some sp =>
    let dr := D &&& e.lanes
    if dr = 0 then s
    else
      let left := e.lanes &&& ~~~ D
      let regs := if left = 0 then sp.regs.filter (fun x => x.addr != e.addr)
        else sp.regs.map (fun x => if x.addr = e.addr then { x with lanes := left } else x)
      let s' := putSpan s u { sp with regs := regs }
      match entryBar s sp e.addr with
      | none => s'
      | some loc =>
        let b := readBar s loc
        if !b.valid then s'
        else
          let pre := if e.phase.toNat = b.phase then dr &&& e.arrived else 0
          let k := popCount (dr &&& ~~~ pre)
          let m := popCount dr
          let p := publish s' u
          writeBar (coverPhase p.1 (barKey loc) p.2) loc (barCheck { lostMark sp b with
            arrivals := b.arrivals + k, drops := b.drops + m, registered := b.registered - m })

/-- Every barrier at which the span is registered, for the lanes of m in ascending order (R35, R111, R132). -/
def dropLanes (s : State) (u : Nat) (m : BitVec 32) : State :=
  (bitsOf m).foldl (fun t lane =>
    match spanOf t u with
    | none => t
    | some sp => sp.regs.foldl (fun t' e =>
        match spanOf t' u with
        | none => t'
        | some sp' => match sp'.regs.find? (fun x => x.addr == e.addr) with
          | some e' => dropAt t' u (BitVec.ofNat 32 (2 ^ lane)) e'
          | none => t') t) s

/-- The widest scope among the barriers the span is registered at, 1 where there is none (R256). -/
def tableScope (s : State) (sp : Span) : Nat :=
  sp.regs.foldl (fun k e => match entryBar s sp e.addr with
    | some b => max k (barScope b)
    | none => k) 1

/-! ### Retirement and halting (R35, R158, R178, R196, R327) -/

/-- A committed copy that writes the slot, or `mma` that reads it, is not done (R178). -/
def slotInUse (c : Ctx) (n : Nat) : Bool :=
  c.queues.any (fun q => q.2.any (fun e => !e.done &&
    ((e.kind == .mma && (e.slotA == n || e.slotB == n)) || (e.kind == .copy && e.toSlot && e.slotA == n))))

/-- A command that has counted a read of the slot has still to read it (R177, R349). -/
def slotReading (c : Ctx) (n : Nat) : Bool :=
  c.queues.any (fun q => q.2.any (fun e => !e.done &&
    ((e.kind == .mma && (e.slotA == n || e.slotB == n)) || (e.kind == .coll && e.slotA == n && !e.started))))

def slotOf (c : Ctx) (n : Nat) : Slot := mapGet Slot.init c.slots n
def putSlot (c : Ctx) (n : Nat) (x : Slot) : Ctx := { c with slots := mapPut c.slots n x }

/-- The launch number of a launch record in flight (R317). -/
def numberOf (s : State) (launch : Nat) : Nat :=
  match mapFind s.launches launch with
  | some l => l.number
  | none => 0

/-- A slot that no command uses any more is released: counted reads that are left are an UNDERREAD (R178). -/
def releaseSlot (s : State) (g : Nat) (half : Bool) (n : Nat) : State :=
  let x := slotOf (ctxOf s g half) n
  let s := if x.count = 0 then s else recUnderread s (g / 32) (g % 32) n x.count 4 x.number
  putCtx s g half (putSlot (ctxOf s g half) n { x with st := .unclaimed, count := 0, release := false })

/-- A draining slot becomes unclaimed once every counted read has been made (R177), and a slot whose claimer has retired is released
once its commands are done (R178). -/
def drainSlots (s : State) (g : Nat) (half : Bool) : State :=
  let c := ctxOf s g half
  let s := putCtx s g half { c with slots := c.slots.map (fun p =>
    if p.2.st = .draining ∧ !slotReading c p.1 then (p.1, { p.2 with st := .unclaimed, release := false }) else p) }
  (c.slots.filter (fun p => p.2.st == .claimed && p.2.release && !slotInUse c p.1)).foldl (fun t p => releaseSlot t g half p.1) s

/-! ### Engine queues (R172, R257) -/

def queueOf (c : Ctx) (q : Nat) : List Cmd := mapGet [] c.queues q
/-- A queue holds 16 entries (R172). -/
def queueFull (s : State) (g : Nat) (half : Bool) (q : Nat) : Bool :=
  decide (16 ≤ (queueOf (ctxOf s g half) q).length)

def appendCmd (c : Ctx) (q : Nat) (e : Cmd) : Ctx := { c with queues := mapPut c.queues q (queueOf c q ++ [e]) }

/-- A command enters its queue (R172); the older stores of its span are written back, and it starts after them and after
the older loads (R248, R257). -/
def putCmd (s : State) (u g : Nat) (half : Bool) (q : Nat) (e : Cmd) : State :=
  let s := writeBackOf s g u (fun _ => true)
  let e := { e with seq := s.nextId, fence := unperformed s u ++ atomicsOf s u ++ unread s u (fun _ => true) ++ e.fence }
  let p := publish s u
  let s := putAgent p.1 e.seq { Agent.init with clock := p.2 }
  { putCtx s g half (appendCmd (ctxOf s g half) q e) with nextId := s.nextId + 1 }

/-- Every span of the deck that has not retired has committed its part of a forming entry (R348). -/
def collFull (s : State) (k : Nat) (f : CollForm) : Bool :=
  s.spans.all (fun p => p.2.deck != k || p.2.live == 0 || f.uids.contains p.1)

/-- A complete entry of a deck enters queue 5: its start comes after what its spans did before they committed it, and waits for their
older work (R248, R257, R348). -/
def putColl (s : State) (g : Nat) (half : Bool) (f : CollForm) : State :=
  let e := { f.cmd with seq := s.nextId, fence := f.fence, nth := f.k }
  let s := putAgent s e.seq { Agent.init with clock := f.clock }
  { putCtx s g half (appendCmd (ctxOf s g half) 5 e) with nextId := s.nextId + 1 }

/-- Complete entries of a deck enter queue 5, oldest first, while it has room (R348). -/
def collEnter : Nat → State → Nat → State
  | 0, s, _ => s
  | n + 1, s, k =>
    match deckOf s k with
    | none => s
    | some d => match d.colls with
      | [] => s
      | f :: r =>
        if collFull s k f && !queueFull s d.core d.half 5 then
          collEnter n (putColl (putDeck s k { d with colls := r }) d.core d.half f) k
        else s

/-- The deck's last span has retired: banks and slots return (R158, R178); a bank that is still switching is free once its
switches are complete and their arrivals have landed (R167, R168). -/
def retireDeck (s : State) (k : Nat) : State :=
  match deckOf s k with
  | none => s
  | some d =>
    if s.spans.any (fun p => p.2.deck == k) then s
    else
      let s := d.banks.foldl (fun t p =>
        let b := bankOf (coreOf t d.core) p
        putBank t d.core p (if b.mode = .cache then { b with owner := none } else { Bank.init with switch := b.switch })) s
      let c := ctxOf s d.core d.half
      let s := drainSlots (putCtx s d.core d.half { c with slots := c.slots.map (fun p =>
        if p.2.st = .claimed ∧ p.2.owner = k then (p.1, { p.2 with release := true }) else p) }) d.core d.half
      putDeck s k { d with retired := true, banks := [] }

/-- A span without live lanes leaves once no load into it is outstanding and its buffer is empty (R35); its requests go on. -/
def finishSpan (s : State) (u : Nat) : State :=
  match spanOf s u with
  | none => s
  | some sp =>
    if sp.live != 0 || s.loads.any (fun p => p.2.uid == u) || !sp.buffer.isEmpty then s
    else retireDeck (collEnter 16 { delAgent (handOver s u sp.deck) u with spans := mapDel s.spans u } sp.deck) sp.deck

/-- The home forgets one access in progress: the line is dropped where nothing counts on it any more (R106, R233). -/
def settleLine (s : State) (line : Nat) (undo : Bool) : State :=
  let h := homeOf s line
  let h := { h with busy := h.busy - 1, count := if undo then h.count + 1 else h.count }
  if h.counted && h.count == 0 && h.busy == 0 then
    putHome s line { h with counted := false, tag := 0, pinned := false, data := none }
  else putHome s line h

/-- One access less for which counted fills of the line wait at its home (R107, R230, R262). -/
def unhold (s : State) (line : Nat) : State :=
  let h := homeOf s line
  putHome s line { h with pend := h.pend - 1 }

/-- An access that has begun and not retired is taken back: its checks, its consuming accesses, its requests (R106, R107). -/
def cancelPend (s : State) (sp : Span) : State :=
  match sp.pend with
  | .store ids => ids.foldl (fun t i =>
      let r := reqOf t i
      delReq (if r.stage = .answered ∧ !r.bad ∧ r.b = 0 then unhold t r.line else t) i) s
  | .consume i => match mapFind s.loads i with
    | none => s
    | some ld =>
      let s := ld.served.foldl (fun t x => if x.2 then t else settleLine t x.1 true) s
      { s with loads := mapDel s.loads i }
  | .atomic ids => ids.foldl (fun t i =>
      let r := reqOf t i
      delReq (if r.stage = .answered ∧ !r.bad then unhold t r.line else t) i) s
  | _ => s

/-- `live` has become zero: what is queued is discarded, the stacks are discarded (R35). -/
def retireSpan (s : State) (u : Nat) : State :=
  match spanOf s u with
  | none => s
  | some sp =>
    finishSpan (putSpan (cancelPend s sp) u { sp with
      live := 0, am := 0, queue := [], ahead := [], masks := ⟨[], 0⟩, rets := ⟨[], 0⟩, pend := .none }) u

/-- A status noted for the completion of the launch that a launch record belongs to (R317, R327). -/
def noteStatus (s : State) (launch k : Nat) : State :=
  match mapFind s.runs (numberOf s launch) with
  | none => s
  | some r => { s with runs := mapPut s.runs (numberOf s launch) { r with noted := r.noted ++ [k] } }

/-- Completion statuses of R316 that a run's events note (R206, R286, R303, R327, R328). -/
def noteAbandoned : Nat := 4
def notePoisoned : Nat := 3
def noteLost : Nat := 7
def noteNoProgress : Nat := 8
def noteFault : Nat := 9

/-- Halt a span: its barriers are marked abandoned, its lanes are not dropped (R196, R327). -/
def haltSpan (s : State) (u status : Nat) : State :=
  match spanOf s u with
  | none => s
  | some sp =>
    let s := sp.regs.foldl (fun t e => match entryBar t sp e.addr with
      | some b => if (readBar t b).valid then barAbandon t b else t
      | none => t) s
    let s := match deckOf s sp.deck with
      | some d => noteStatus s d.launch status
      | none => s
    -- a FIFO pop of a halted span takes nothing, and its buffered entries are discarded (R329, R385)
    let s := { s with loads := s.loads.filter (fun p => !(p.2.uid == u && (p.2.fifo.isSome || p.2.late))) }
    retireSpan (putSpan s u { sp with halted := true, regs := [], buffer := [] }) u

/-- A span consumes an uncorrectable error, or is killed by another check: the event, then the halt (R326, R327). -/
def haltWith (s : State) (u detail status arg : Nat) : State :=
  match spanOf s u with
  | none => s
  | some sp => haltSpan (record s (spanEvent s sp 0x82 detail arg)) u status

/-- The span is halted with LOCKSTEP and the mask of the lanes that do not agree (R4, R331). -/
def lockstepHalt (s : State) (u : Nat) (mask : BitVec 32) : State :=
  match spanOf s u with
  | none => s
  | some sp => haltSpan (record s (spanEvent s sp 0x83 0 mask.toNat)) u noteAbandoned

/-- The acting span reads an uncorrectable error: it is halted at issue, and the point is recorded (R326, R336). -/
def consumed (s : State) : Res :=
  .next (haltWith s s.cur.uid 0 noteAbandoned (match spanOf s s.cur.uid with
    | some sp => (reportPoint sp s.cur.lane).toNat
    | none => 0))

/-- The S-word waits for its registers (R44, R115), and consumes an uncorrectable error in them (R326); then `k`. -/
def needS (s : State) (sp : Span) (rs : List Nat) (k : Res) : Res :=
  if rs.any (fun r => sp.badS.getLsbD r && sFull sp r) then consumed s
  else if rs.all (sFull sp) then k else stallFor s sp (rs.filter (fun r => !sFull sp r)) []

/-! ### Places, and the span's view of its scratch -/

/-- Where an access reaches. -/
inductive Place where
  | loc (off : Nat)
  | quad (addr : Nat)
  | phys (pa : Nat)
  deriving DecidableEq, Repr

/-- Bytes of the deck's scratch as the span reads them: its own buffered writes first (R38, R260). -/
def localView (s : State) (sp : Span) (off n : Nat) : Nat :=
  match deckOf s sp.deck with
  | none => 0
  | some d => bytesToNat ((List.range n).map (fun i =>
      match ownByte sp.buffer (localLo + off + i) with
      | some b => b
      | none => localByte s d (off + i)))

/-! ### The undo log (R208) -/

/-- Bytes that a span writes to a line outside HBM4E: on their way to the port (R104, R309, R310). -/
def sendBytes (s : State) (g u pa va : Nat) (bytes : List Byte) : State :=
  let mask := maskOf 128 ((List.range bytes.length).map (fun i => pa % 128 + i))
  let data := bytes.zipIdx.foldl (fun d b => lineSet d (pa % 128 + b.2) b.1) (0 : Line)
  sendStore s g (pa / 128) mask data 0 [u] false va [writerOf s u g mask va]

/-- Bytes of the log, line by line through the tables; none are written where nothing is mapped (log 66). -/
def logBytes (s : State) (sp : Span) (u : Nat) (l : Launch) (a : Nat) (bytes : List Byte) : State :=
  let n := bytes.length
  (((List.range n).map (fun i => (a + i) / 128)).dedup).foldl (fun t x =>
    let lo := max a (128 * x)
    let part := (bytes.drop (lo - a)).take (128 * x + 128 - lo)
    match lookupVa t l.root lo with
    | some (pa, _) =>
      if isHbm pa then storeBytes t sp.core u pa lo 0 part
      else if paExists t pa then sendBytes t sp.core u pa lo part else t
    | none => t) s

/-- The point field of an entry: the reported point, and the position of a block (R208). -/
def undoPoint (cur : Cur) (sp : Span) : Nat :=
  match cur.lane, sp.queue.head? with
  | true, some b => b.point.toNat % 2 ^ 56 + b.pos * 2 ^ 56
  | _, _ => sp.spc.toNat % 2 ^ 56

/-- One entry of 160 bytes, written at the span's head index, which moves on (R208). -/
def undoEntry (s : State) (u : Nat) (sp : Span) (l : Launch) (kind reg mask point addr ltime : Nat) (old : List Byte) :
    State × Span :=
  let a := l.undoBase.toNat + sp.n * 0xA0000 + 160 * (sp.undo % 4096)
  let bytes := natToBytes 8 (kind + reg * 2 ^ 8 + mask % 2 ^ 48 * 2 ^ 16) ++ natToBytes 8 point ++ natToBytes 8 addr ++
    (old ++ List.replicate 128 0).take 128 ++ natToBytes 8 ltime
  (logBytes s sp u l a bytes, { sp with undo := (sp.undo + 1) % 4096 })

/-- An entry of the acting unit; `src` is the span as the unit found it. -/
def undoPutAt (s : State) (src sp : Span) (u : Nat) (l : Launch) (kind reg mask addr : Nat) (old : List Byte) : State × Span :=
  undoEntry s u sp l kind reg mask (undoPoint s.cur src) addr src.ltime old

def undoPut (s : State) (sp : Span) (l : Launch) (kind reg mask addr : Nat) (old : List Byte) : State × Span :=
  undoPutAt s sp sp s.cur.uid l kind reg mask addr old

/-- The bytes of the line at a virtual address, as the span sees them, before a write changes them (R208). -/
def oldLine (s : State) (sp : Span) (l : Launch) (va : Nat) (p : Place) : List Byte :=
  match p with
  | .loc off => natToBytes 128 (localView s sp (off / 128 * 128) 128)
  | .phys pa => (List.range 128).map (fun i => viewByte s sp l (va / 128 * 128 + i) (pa / 128 * 128 + i))
  | .quad _ => []

/-- In debug mode, the entries of the distinct lines that a store is about to change; their address is the line's virtual
address (R208, log 66). -/
def undoLines (s : State) (sp : Span) (l : Launch) (ps : List (Nat × Place)) : State × Span :=
  if !l.debug then (s, sp)
  else (ps.foldl (fun (r : List (Nat × Place)) x => if r.any (fun y => y.1 / 128 == x.1 / 128) then r else r ++ [x]) []).foldl
    (fun (t : State × Span) x => undoPut t.1 t.2 l 3 0 0 (x.1 / 128 * 128) (oldLine t.1 t.2 l x.1 x.2)) (s, sp)

/-- The entry of an engine command, which is not undone (R208). -/
def undoCmd (s : State) (sp : Span) (l : Launch) : State × Span :=
  if l.debug then undoPut s sp l 6 0 0 0 [] else (s, sp)

/-! ### The span's own stacks and trap frames (R37, R199, R200) -/

/-- What the span's own access outside the load and store instructions comes to: a stack's spill or refill, a trap frame
(R37, R199, R200). -/
inductive Own (α : Type) where
  | ok (x : α)
  /-- the span is parked: a walk or a fault record is pending (R149) -/
  | park (s : State)
  /-- an older access of the span goes first (R38), or a bank's switch ends first -/
  | later
  /-- the commit buffer is full (R299) -/
  | full
  | bad (cause : Nat)
  /-- the bytes hold an uncorrectable error (R326) -/
  | poison

/-- A counted fill of the line that has arrived waits at the home: what arrives after it comes after it (R229, R231). -/
def fillWaits (s : State) (line i : Nat) : Bool :=
  isHbm (128 * line) && s.reqs.any (fun p => p.1 != i && p.2.kind == .cfill && p.2.stage == .home && p.2.line == line)

/-- Where such an access of `n` aligned bytes reaches, with the checks that R103, R104 and R108 make of a plain access:
a scratch offset, or a physical address. -/
def ownPlace (s : State) (sp : Span) (l : Launch) (va kind : Nat) : Own (Nat ⊕ Nat) :=
  if vaTop ≤ va then .bad causePageFault
  else if inQuad va then .bad causeBarrier
  else if inLocal va then
    match (deckOf s sp.deck).bind (fun d => localMode s d (va - localLo)) with
    | none => .bad causePageFault
    | some b => if b.mode ≠ .scratch then .bad causeBankMode
      else if b.switch.isEmpty then .ok (.inl (va - localLo)) else .later
  else match xlate s sp l va kind with
    | .wait s => .park s
    | .fail => .bad causePageFault
    | .ok pa _ =>
      if !isHbm pa then .bad causePageFault
      else if routeWaits s (dieOfCore sp.core) (dieOfPa pa) then .later else .ok (.inr pa)

/-- The bytes enter the commit buffer of a deterministic launch (R299). -/
def bufferBytes (sp : Span) (pt : Word64) (va : Nat) (bytes : List Byte) : Span :=
  { sp with buffer := sp.buffer ++ [(pt, .store ((bytes.zipIdx).map (fun p => (va + p.2, p.1))) false)] }

/-- The span's own write of bytes of one line, at a place that its checks have found, with its undo entry (R208); `src` is the span
as the unit found it. -/
def ownWrite (s : State) (src sp : Span) (l : Launch) (va : Nat) (p : Nat ⊕ Nat) (bytes : List Byte) : State × Span :=
  let place : Place := match p with
    | .inl off => .loc off
    | .inr pa => .phys pa
  let un := if l.debug then undoPutAt s src sp s.cur.uid l 3 0 0 (va / 128 * 128) (oldLine s sp l va place) else (s, sp)
  let s := un.1
  let sp := un.2
  if l.det then (s, bufferBytes sp (reportPoint src s.cur.lane) va bytes)
  else match p, deckOf s sp.deck with
    | .inl off, some d => (localWrite s d off bytes, sp)
    | .inl _, none => (s, sp)
    | .inr pa, _ =>
      let h := homeOf s (pa / 128)
      (storeBytes (putHome s (pa / 128) { h with pend := h.pend + 1 }) sp.core s.cur.uid pa va 1 bytes, sp)

/-- The span's own write: where it goes, once the checks of a plain store are made, that of its home among them (R107); the
span's own older loads of the line read first (R38). -/
def ownCheck (s : State) (sp : Span) (l : Launch) (va : Nat) : Own (Nat ⊕ Nat) :=
  match ownPlace s sp l va 1 with
  | .ok (.inr pa) =>
    if !(unread s s.cur.uid (fun x => x == pa / 128)).isEmpty || fillWaits s (pa / 128) 0 then .later
    else if l.det then (if 512 ≤ sp.buffer.length then .full else .ok (.inr pa))
    else if (homeOf s (pa / 128)).counted then .bad causeCounted
    else .ok (.inr pa)
  | .ok (.inl off) =>
    if atomicsOn s s.cur.uid (va / 128) then .later
    else if l.det && decide (512 ≤ sp.buffer.length) then .full else .ok (.inl off)
  | x => x

/-- A read of a deterministic launch finds an uncorrectable error in its line, at a byte that no buffered write of the span gives
(R260, R326). -/
def viewBad (s : State) (sp : Span) (va pa n : Nat) : Bool :=
  badLine s (pa / 128) && (List.range n).any (fun i => (ownByte sp.buffer (va + i)).isNone)

/-- The n bytes at `pa` hold an uncorrectable error that a read of the core would be given (R326). -/
def bytesBad (s : State) (g pa n : Nat) : Bool :=
  match l1Find (coreOf s g) (pa / 128) with
  | some x => x.poison || (!l1Has x pa n && badLine s (pa / 128))
  | none => badLine s (pa / 128)

/-- The span's own read of aligned bytes of one line, after its older stores and atomics (R38), which uses the line (R163). -/
def ownRead (s : State) (sp : Span) (l : Launch) (va n : Nat) : Own (State × (Nat → Nat → Nat)) :=
  match ownPlace s sp l va 0 with
  | .ok (.inl off) => match deckOf s sp.deck with
    | none => .bad causePageFault
    | some d =>
      if atomicsOn s s.cur.uid (va / 128) then .later
      else if localBad s d off n then .poison
      else .ok (seeLocal s d off n s.cur.uid, fun o n =>
        bytesToNat ((List.range n).map (fun i => match ownByte sp.buffer (va + o + i) with
          | some b => b
          | none => localByte s d (off + o + i))))
  | .ok (.inr pa) =>
    if atomicsOn s s.cur.uid (pa / 128) then .later
    else if (if l.det then viewBad s sp va pa n else bytesBad s sp.core pa n) then .poison
    else .ok (if l.det then s else useLine s sp.core pa va n, fun o n => viewRead s sp l (va + o) (pa + o) n)
  | .park s => .park s
  | .later => .later
  | .full => .full
  | .bad c => .bad c
  | .poison => .poison

/-! ### Taking a trap, and returning from one (R199, R200) -/

/-- A span is killed for want of a handler, its argument the report's point (R147, R199, R336: kind 6, code 1). -/
def recKill (s : State) (sp : Span) (r : Report) : State :=
  record s { spanEvent s sp 1 0 (reportPoint sp r.lane).toNat with kind := 6, reason := r.cause }

/-- What a trap keeps of the unit it stops (R148, R198, R200). -/
def savedOf (sp : Span) (cur : Cur) (lane : Bool) : Saved :=
  match lane, sp.queue.head? with
  | true, some b => ⟨true, b.planed, b.point, b.pos, cur.plane, b.merged⟩
  | _, _ => ⟨false, false, sp.spc, 0, 0, []⟩

/-- Single-step after a trap: what was armed in a handler waits for the next `tret` (R202). -/
def stepTrap : StepState → StepState
  | .armed => .armed
  | _ => .off

/-- The span as its handler finds it (R199): s60 to s62, `am`, depth and pc; what is queued and issued is discarded (R148). -/
def enterHandler (sp : Span) (cur : Cur) (lane : Bool) (e s60 s61 s62 : Word64) : Span :=
  let sp1 := sFill (sFill (sFill sp 60 s60) 61 s61) 62 s62
  { sp1 with am := sp1.live, spc := e, queue := [], ahead := [], pend := .none,
             step := stepTrap sp.step, xfail := [], traps := savedOf sp cur lane :: sp.traps }

/-- The handler's address for a cause: the emulation entry of EXT_ABSENT where there is one, else the trap entry (R199). -/
def handlerOf (l : Launch) (cause : Nat) : Word64 :=
  if cause = causeExt ∧ l.emuEntry ≠ 0 then l.emuEntry else l.trapEntry

/-- The registers that a trap's entry and `tret` write (R199, R200); both wait for fills that are pending in them (R44, log 15). -/
def frameRegs : List Nat := [60, 61, 62]

/-- The acting span takes a trap: frame written, handler entered; halted where there is no handler, or where its frame
cannot be written (R199). -/
def takeTrap (s : State) (sp : Span) (l : Launch) (r : Report) : Res :=
  let u := s.cur.uid
  let e := handlerOf l r.cause
  let kill : Res := .next (haltSpan (recKill s sp r) u noteAbandoned)
  if 2 ≤ sp.hdepth ∨ e = 0 then kill
  else if !frameRegs.all (sFull sp) then stallFor s sp (frameRegs.filter (fun r => !sFull sp r)) []
  else
    let f := frameAddr l sp sp.hdepth
    match ownCheck s sp l f with
    | .park s => .next s
    | .later => stall s
    | .full => hold s sp
    | .bad _ => kill
    | .poison => kill
    | .ok p =>
      let ws := frameWords sp s.cur r
      let bytes := (ws ++ [0, 0, 0, 0]).flatMap (fun (w : Word64) => natToBytes 8 w.toNat)
      let sp' := enterHandler sp s.cur r.lane e (BitVec.ofNat 64 f) (ws.getD 0 0) (BitVec.ofNat 64 r.faddr)
      let r := ownWrite s sp sp' l f p bytes
      .next (putSpan r.1 u r.2)

/-- A trap at the S-word of the current step; fmask as R147 gives it. -/
def trapS (s : State) (sp : Span) (l : Launch) (cause : Nat) (fmask : BitVec 32) (faddr : Nat) : Res :=
  takeTrap s sp l ⟨cause, false, fmask, faddr⟩

/-- A trap of the acting pass of the head block. -/
def trapL (s : State) (sp : Span) (l : Launch) (cause : Nat) (fmask : BitVec 32) (faddr : Nat) : Res :=
  takeTrap s sp l ⟨cause, true, fmask, faddr⟩

/-! ### Blocks (R43, R92, R135, R137, R148, R384) -/

/-- L-word offset of a block's word at a position and plane (R135, R137). -/
def wordOff (b : Block) (pos plane : Nat) : Nat :=
  if b.planed then (b.desc.extractLsb' 0 18).toNat + plane * (b.desc.extractLsb' 20 16).toNat + b.j + pos
  else b.off + pos

/-- The number of planes of a block's region. -/
def planesOf (b : Block) : Nat := if b.planed then (b.desc.extractLsb' 18 2).toNat + 1 else 1

/-- Address of L-word `off` (R47, R135). -/
def wordAddr (l : Launch) (off : Nat) : Nat := l.laneBase.toNat + 12 * off

/-- The L-word that code memory holds now, where all its parcels are mapped. -/
def peekWord (s : State) (sp : Span) (l : Launch) (off : Nat) : Option LWord :=
  let a := wordAddr l off
  match lookupVa s l.root a, lookupVa s l.root (a + 4), lookupVa s l.root (a + 8) with
  | some p2, some p1, some p0 =>
    some (BitVec.ofNat 32 (coreRead s sp.core p0.1 4) ++ BitVec.ofNat 32 (coreRead s sp.core p1.1 4) ++
      BitVec.ofNat 32 (coreRead s sp.core p2.1 4))
  | _, _, _ => none

/-- The scalar register that an L-word names in sdst, if its row has one (R43, R62). -/
def sdstOf (w : LWord) : Option Nat :=
  let op := (w.extractLsb' 88 8).toNat
  if (decide (0x20 ≤ op) && decide (op ≤ 0x25)) || (decide (0x50 ≤ op) && decide (op ≤ 0x54)) ||
     (decide (0xC4 ≤ op) && decide (op ≤ 0xC8)) || op == 0xCC || op == 0xCD
  then some (w.extractLsb' 33 6).toNat else none

/-- The code of a block as it stands, by position and plane. -/
def blockCode (s : State) (sp : Span) (l : Launch) (b : Block) : List (Option LWord) :=
  ((List.range b.n).flatMap (fun i => (List.range (planesOf b)).map (fun p => wordOff b i p))).map (peekWord s sp l)

/-- Two blocks have the same L-words at the same places (R135 to R137). -/
def sameBlock (a b : Block) : Bool := a.planed == b.planed && a.off == b.off && a.desc == b.desc && a.j == b.j && a.n == b.n

/-- Enqueue a block with its code as it stood when its `lrun` or `lrunp` issued: in run-ahead, where that found the same block, or
now (R384). -/
def enqueue (s : State) (sp : Span) (l : Launch) (b : Block) : Span :=
  let code := match (sp.ahead.head?.bind Ahead.block).filter (sameBlock b) with
    | some x => x.code
    | none => blockCode s sp l b
  { sp with queue := sp.queue ++ [{ b with code := code }] }

/-- The span moves to the next plane, or the next position, or the block has retired (R137, R141). -/
def movePass (sp : Span) : Span :=
  match sp.queue with
  | [] => sp
  | b :: r =>
    if b.plane + 1 < planesOf b then { sp with queue := { b with plane := b.plane + 1 } :: r }
    else
      let b' := { b with pos := b.pos + 1, plane := 0, began := false, picked := [], merged := [], reads := none }
      { sp with ltime := sp.ltime + 1, queue := if b.pos + 1 < b.n then b' :: r else r }

/-- A pass of the head block has issued at its position (R144). -/
def beginPass (sp : Span) : Span :=
  match sp.queue with
  | [] => sp
  | b :: r => { sp with queue := { b with began := true } :: r }

/-- The span after a pass has retired. -/
def advancePass (sp : Span) : Span := movePass { beginPass sp with step := stepNext sp.step, pend := .none }

/-- The pass retires with the span's new state. -/
def commitL (s : State) (sp : Span) : Res := .next (putSpan s s.cur.uid (advancePass sp))

/-- A block that a frame describes: descriptor, j, offset and n are the frame's, the rest what the trap kept (R148, R200). -/
def frameBlock (sv : Saved) (n place desc : Nat) (pos plane : Nat) (merged : List Nat) : Block :=
  ⟨sv.point, sv.planed, place % 2 ^ 18, BitVec.ofNat 64 desc, (place >>> 18) % 2 ^ 16, n, pos, plane, false, [], [], merged, none⟩

/-- Return from a handler (R200): restores s60 to s62 and `am`, resumes as the frame's action says. -/
def trapReturn (s : State) (sp : Span) (l : Launch) : Res :=
  match sp.traps with
  | [] => trapS s sp l causeIllegal sp.am 0
  | sv :: older =>
    let f := frameAddr l sp (sp.hdepth - 1)
    match ownRead s sp l f 128 with
    | .park s => .next s
    | .later => stall s
    | .full => stall s
    | .bad c => trapS s sp l c sp.am f
    | .poison => consumed s
    | .ok (s, rd) =>
      let info := rd 0 8
      let action := (info >>> 32) % 8
      let target := rd 0x40 8
      if 3 < action ∨ (action = 3 ∧ target % 4 ≠ 0) then trapS s sp l causeIllegal sp.am 0
      -- the code of a block is read only after an older acquire has completed (R384)
      else if sp.acquiring.isSome then stall s
      else needS s sp frameRegs
        (let sp1 := sWrite (sWrite (sWrite sp 60 (BitVec.ofNat 64 (rd 0x48 8))) 61 (BitVec.ofNat 64 (rd 0x50 8))) 62
          (BitVec.ofNat 64 (rd 0x58 8))
         let sp2 := setAm (countUnit { sp1 with traps := older, queue := [], ahead := [] })
          (BitVec.ofNat 32 (rd 0x14 4))
         let sp2 := { sp2 with step := if sp.step = .armed then .running else sp2.step }
         let n := (info >>> 20) % 256 + 1
         let blk := frameBlock sv n (rd 0x30 8) (rd 0x38 8)
         let at_ := fun (p q : Nat) (m : List Nat) =>
          if p < n then { enqueue s sp2 l (blk p q m) with spc := sv.point + 4 }
          else { sp2 with spc := sv.point + 4 }
         let sp3 :=
          if action = 3 then { sp2 with spc := BitVec.ofNat 64 target }
          else if sv.lane then
            match action with
            | 0 => at_ sv.pos sv.plane sv.merged
            | 1 => if sv.plane + 1 < planesOf (blk 0 0 []) then at_ sv.pos (sv.plane + 1) sv.merged else at_ (sv.pos + 1) 0 []
            | _ => at_ (sv.pos + 1) 0 []
          else { sp2 with spc := if action = 0 then sv.point else sv.point + 4 }
         .next (putSpan s s.cur.uid sp3))

end Sys2Proof.Machine
end

