-- ==== Sys2Proof/Machine/Operands.lean ====
section
/-! DEFINITION. Operands: the elements that an L-word's sources give (R52, R71), the checks made before a pass (R29, R45,
R54), lane and scalar addresses (R103, R125), and the writing of lane results. -/

namespace Sys2Proof.Machine
open Sys2Proof

/-! ### Elements of a lane value (R6, R71) -/

/-- Element `e` of width `w` of a lane value. -/
def elemOf (w x e : Nat) : Nat := (x / 2 ^ (w * e)) % 2 ^ w
/-- The lane value whose elements are listed. -/
def ofElems (w : Nat) (l : List Nat) : Nat := (l.zipIdx).foldl (fun a p => a + (p.1 % 2 ^ w) * 2 ^ (w * p.2)) 0
/-- Elements of a lane: 32 / w, or 1 for a 64-bit type. -/
def elemCount (w : Nat) : Nat := if w = 64 then 1 else 32 / w

/-- A vector register, or the pair that starts at it, in one lane. -/
def vLane (sp : Span) (r l : Nat) (pair : Bool) : Nat :=
  (vRead sp r l).toNat + (if pair then (vRead sp (r + 1) l).toNat * 2 ^ 32 else 0)
def vLaneWrite (sp : Span) (r l : Nat) (pair : Bool) (x : Nat) : Span :=
  let sp := vWrite sp r l (BitVec.ofNat 32 x)
  if pair then vWrite sp (r + 1) l (BitVec.ofNat 32 (x / 2 ^ 32)) else sp

/-- f32 widened exactly to f64 (R52). A NaN becomes the canonical one, whose sign `vfcsgn` then reads: R52 and R84 state no sign or
payload of a widened NaN (DESIGN CHOICE, log 82). -/
def widenF32 (x : Nat) : Nat := roundF fmtF64 .rne .ieee (decodeF fmtF32 x)

/-- The value of an immediate for a type (R52). -/
def immValue (ty : Ty) (p2 : Word32) : Nat :=
  match ty with
  | .i64 | .n64 => (p2.signExtend 64).toNat
  | .f64 => widenF32 p2.toNat
  | _ => p2.toNat

/-- Every pass of a position of a planed block reads a scalar register as the first found it (R41). -/
def heldReads (sp : Span) : Option (SMap Word64) := sp.queue.head?.bind Block.reads

/-- The scalar register that an L-word reads. -/
def lRead (sp : Span) (r : Nat) : Word64 :=
  match heldReads sp with
  | some m => if r = 63 then 0 else mapGet 0 m r
  | none => sRead sp r

/-- The lane value of source b or c by its class (R52). -/
def opndOf (sp : Span) (ty : Ty) (cls : BitVec 2) (r : BitVec 8) (p2 : Word32) (lane : Nat) : Nat :=
  let wide := tyWidth ty == 64
  match cls.toNat with
  | 0 => vLane sp r.toNat lane wide
  | 1 => let x := (lRead sp r.toNat).toNat
    if wide then x else x % 2 ^ 32
  | _ => immValue ty p2

def opndA (sp : Span) (ty : Ty) (x : LFields) (lane : Nat) : Nat := vLane sp x.va.toNat lane (tyWidth ty == 64)
def opndB (sp : Span) (ty : Ty) (x : LFields) (lane : Nat) : Nat := opndOf sp ty x.bcls x.vb x.p2 lane
def opndC (sp : Span) (ty : Ty) (x : LFields) (lane : Nat) : Nat := opndOf sp ty x.ccls x.vc x.p2 lane

/-- Lanes of the pass, ascending (R71). -/
def passLanes (s : State) : List Nat := bitsOf s.cur.mask

/-- An element-wise pass: every lane of m, every element, from the three sources as they stood (R71). -/
def elementwise (s : State) (sp : Span) (x : LFields) (f : Ty → Nat → Nat → Nat → Nat) : Span :=
  let ty := tyOfCode x.ty.toNat
  let w := tyWidth ty
  (passLanes s).foldl (fun acc lane =>
    let a := opndA sp ty x lane
    let b := opndB sp ty x lane
    let c := opndC sp ty x lane
    vLaneWrite acc x.vd.toNat lane (w == 64)
      (ofElems w ((List.range (elemCount w)).map (fun e => f ty (elemOf w a e) (elemOf w b e) (elemOf w c e))))) sp

/-! ### Checks before a pass -/

/-- The registers from `r` that an operand names: two for a pair, `n` for a group. -/
def regSpan (r : BitVec 8) (n : Nat) : List Nat := (List.range n).map (fun i => r.toNat + i)

/-- A source with its fe bit (R45). -/
inductive Source where
  | v (regs : List Nat) (fe : Bool)
  | s (r : Nat) (fe : Bool)
  deriving DecidableEq, Repr

def sourceRegs : Source → List Nat
  | .v l _ => l
  | .s _ _ => []
def sourceScalars : Source → List Nat
  | .v _ _ => []
  | .s r _ => [r]
def sourceFull (sp : Span) : Source → Bool
  | .v l _ => l.all (vFull sp)
  | .s r _ => sFull sp r
def sourceFe : Source → Bool
  | .v _ fe => fe
  | .s _ fe => fe

/-- Source b or c by its class, `n` registers wide in class 0. -/
def classSource (cls : BitVec 2) (r : BitVec 8) (n : Nat) (fe : Bool) : List Source :=
  match cls.toNat with
  | 0 => [.v (regSpan r n) fe]
  | 1 => [.s r.toNat fe]
  | _ => []

def feA (x : LFields) : Bool := x.fe.getLsbD 2
def feB (x : LFields) : Bool := x.fe.getLsbD 1
def feC (x : LFields) : Bool := x.fe.getLsbD 0

/-- Does what a pass with mask m reads of a source hold an uncorrectable error (R326)? -/
def sourceBad (sp : Span) (m : BitVec 32) : Source → Bool
  | .v l _ => l.any (fun r => (bitsOf m).any (fun i => sp.badV.contains (32 * r + i)))
  | .s r _ => sp.badS.getLsbD r

/-- A later pass of a position of a planed block, whose sources were tested before the first (R45). -/
def laterPass (sp : Span) : Bool := sp.queue.head?.any (fun b => b.planed && b.began)

/-- The source can be read: a later pass of a position has the scalar registers that the first found (R41). -/
def sourceReady (sp : Span) (x : Source) : Bool :=
  sourceFull sp x || (laterPass sp && (heldReads sp).isSome && (sourceRegs x).isEmpty)

/-- What a test of the sources finds (R45); what waits for a register that only a quantum's end fills holds (R298). -/
def testSources (s : State) (sp : Span) (srcs : List Source) (dst : List Nat) (sdst : Option Nat) : Res :=
  let found := fun v =>
    let p : Probe := ⟨v, srcs.flatMap sourceRegs, dst, !(dst.all (vFull sp) && sdst.toList.all (sFull sp))⟩
    { s with cur := { s.cur with test := some p } }
  if srcs.any (fun x => !sourceFull sp x && sourceFe x) then .next (found .empty)
  else if srcs.all (sourceFull sp) then .next (found .full)
  else stallFor (found .wait) sp ((srcs.flatMap sourceScalars).filter (fun r => !sFull sp r))
    ((srcs.flatMap sourceRegs).filter (fun r => !vFull sp r))

/-- The checks of every pass, in the order of R56 and R45: registers within `.vregs`, sources full or their policy, which
a later pass of a position does not ask again, destinations free of a pending fill; then `k`. -/
def lanePass (s : State) (srcs : List Source) (dst : List Nat) (sdst : Option Nat) (k : Span → Launch → Res) : Res :=
  withLaunch s fun sp l =>
    if s.cur.test.isSome then testSources s sp srcs dst sdst
    else if (dst ++ srcs.flatMap sourceRegs).any (fun r => decide (l.vregs ≤ r)) then trapL s sp l causeIllegal s.cur.mask 0
    else if srcs.any (fun x => !sourceReady sp x && sourceFe x) && !laterPass sp then trapL s sp l causeEmpty s.cur.mask 0
    else if !(srcs.all (sourceReady sp) && dst.all (vFull sp) && sdst.toList.all (sFull sp)) then
      stallFor s sp ((srcs.flatMap sourceScalars ++ sdst.toList).filter (fun r => !sFull sp r))
        ((srcs.flatMap sourceRegs ++ dst).filter (fun r => !vFull sp r))
    else if srcs.any (sourceBad sp s.cur.mask) then consumed s
    else k sp l

/-- Registers that a vector operand of a type names. -/
def tyRegs (ty : BitVec 4) : Nat := if wideTy ty then 2 else 1

/-- The sources a, b, c of an arithmetic L-word. -/
def srcA (x : LFields) : List Source := [.v (regSpan x.va (tyRegs x.ty)) (feA x)]
def srcB (x : LFields) : List Source := classSource x.bcls x.vb (tyRegs x.ty) (feB x)
def srcC (x : LFields) : List Source := classSource x.ccls x.vc (tyRegs x.ty) (feC x)
def dstV (x : LFields) : List Nat := regSpan x.vd (tyRegs x.ty)

/-- A pass writes a whole scalar destination (R89, R91). -/
def writeSdst (sp : Span) (r : Nat) (x : Word64) : Span := sFill sp r x

/-! ### Addresses -/

/-- The address of a lane (R103). -/
def laneAddr (sp : Span) (x : LFields) (off : Word32) (lane : Nat) : Nat :=
  ((vRead sp x.va.toNat lane).toNat + (lRead sp (x.vb.toNat % 64)).toNat + (off.signExtend 64).toNat) % 2 ^ 64

/-- The address of an S.I access, an indexed access (R125). -/
def addrImm (sp : Span) (a : BitVec 6) (imm : BitVec 14) : Nat :=
  (sRead sp a.toNat + imm.signExtend 64).toNat
def addrIdx (sp : Span) (a b : BitVec 6) : Nat := (sRead sp a.toNat + sRead sp b.toNat).toNat

end Sys2Proof.Machine
end

