-- ==== Sys2Proof/Machine/Fetch.lean ====
section
/-! DEFINITION. What the next step of a span runs: whether the span may issue, the fetch of its S-word or of its block's
L-word through the tables, the pass mask, and the trap STEP before a unit (R29, R43, R137, R202, R384). -/

namespace Sys2Proof.Machine
open Sys2Proof

/-- What a turn comes to: an instruction that runs in a state, or an outcome already. -/
inductive Fetched where
  | run (i : Instr) (s : State)
  | out (r : Res)

/-- Compute clocks run: enabled, not safe, no gated power state (R323, R332, R334). -/
def clocked (s : State) : Bool :=
  s.mg.enabled && !s.mg.safe && decide (s.mg.power < 3)

/-- The span has reached the end of its quantum (R298). -/
def atQuantum (s : State) (sp : Span) (l : Launch) : Bool :=
  l.det && match deckOf s sp.deck with
    | some d => decide ((d.quanta + 1) * l.quantumLen ≤ sp.ltime)
    | none => true

/-- The span may issue: its context is the active one, no swap is in progress, its deck has started, it is not held. -/
def mayIssue (s : State) (sp : Span) (l : Launch) : Bool :=
  let c := coreOf s sp.core
  clocked s && (c.active == sp.half) && c.swap.isNone && !sp.halted && !sp.held && decide (sp.live ≠ 0) &&
  !atQuantum s sp l && match deckOf s sp.deck with
    | some d => d.started
    | none => false

/-- One 4-byte piece of code at a virtual address, through the fetch translation (R237, R384). -/
inductive Parcel where
  | word (w : Word32) (pa : Nat)
  | wait (s : State)
  | fail
  deriving DecidableEq, Repr

def fetchParcel (s : State) (sp : Span) (l : Launch) (a : Nat) : Parcel :=
  if vaTop ≤ a ∨ inLocal a ∨ inQuad a then .fail
  else match xlate s sp l a 2 with
    | .ok pa _ => .word (BitVec.ofNat 32 (coreRead s sp.core pa 4)) pa
    | .wait s => .wait s
    | .fail => .fail

/-- The S-word at `spc`: one that has run ahead is not fetched again (R39). -/
def scalarCode (s : State) (sp : Span) (l : Launch) : Parcel :=
  match sp.ahead with
  | a :: _ => .word a.word noPa
  | [] => fetchParcel s sp l sp.spc.toNat

/-- Has the scalar stream run ahead to where the span does not go on? -/
def aheadStale (sp : Span) : Bool := sp.ahead.head?.any (fun a => a.point != sp.spc)

/-- The span that would issue reads its record, which is uncorrectable (R325, R326). -/
def recordBad (s : State) (u : Nat) (sp : Span) : Res := .next (haltWith s u 0 noteAbandoned sp.spc.toNat)

/-- The S-word at `spc`: the trap STEP where it is due, else the instruction (R29, R202). -/
def fetchScalar (s : State) (u : Nat) : Fetched :=
  match spanOf s u with
  | none => .out (.fault .notEnabled)
  | some sp => match launchOf s sp with
    | none => .out (.fault .notEnabled)
    | some l =>
      if !mayIssue s sp l || !sp.queue.isEmpty then .out (.fault .notEnabled)
      else if sp.badRec then .out (recordBad s u sp)
      else if aheadStale sp then .out (.next (putSpan s u { sp with ahead := [] }))
      else
        let s := { s with cur := { uid := u } }
        match scalarCode s sp l with
        | .wait s => .out (.next s)
        | .fail => .out (trapS s sp l causePageFault sp.am sp.spc.toNat)
        | .word w _ =>
          let s := { s with cur := { uid := u, word := w.zeroExtend 96 } }
          if sp.step = .due then .out (trapS s sp l causeStep sp.am 0) else .run (decodeS w) s

/-- The pass mask of the head block at its position and plane (R71, R137). -/
def passMask (sp : Span) (b : Block) : BitVec 32 :=
  if b.planed then sp.am &&& planeMask sp b.plane else sp.am

/-- A planed block passes over planes and positions without a lane, which take no issue (R137). -/
def skipEmpty : Nat → Span → Span
  | 0, sp => sp
  | k + 1, sp => match sp.queue with
    | [] => sp
    | b :: _ =>
      if b.planed && passMask sp b == 0 then skipEmpty k (movePass sp)
      else sp

/-- A parcel that code held at the enqueue and holds now: one of the two values runs (R384). -/
def pickParcel (s : State) (old : Option Word32) (new : Word32) : State × Word32 :=
  match old with
  | none => (s, new)
  | some o =>
    if o = new then (s, new)
    else ({ s with fresh := s.fresh + 1 }, if Config.oldParcel s.fresh then o else new)

/-- What reading an L-word comes to: its bits, a wait for a translation, or the address of the first parcel that has none. -/
inductive LaneCode where
  | word (s : State) (w : LWord)
  | wait (s : State)
  | fail (a : Nat)
  deriving DecidableEq, Repr

/-- The head block's L-word at its position and plane, parcel 2 lowest in memory (R47): each parcel as the code held it when
the block was enqueued or holds it now (R384). -/
def readLane (s : State) (sp : Span) (l : Launch) (b : Block) : LaneCode :=
  let a := wordAddr l (wordOff b b.pos b.plane)
  let old := (b.code[b.pos * planesOf b + b.plane]?).getD none
  match fetchParcel s sp l a, fetchParcel s sp l (a + 4), fetchParcel s sp l (a + 8) with
  | .word w2 a2, .word w1 a1, .word w0 a0 =>
    let s := useLine (useLine (useLine s sp.core a2 a 4) sp.core a1 (a + 4) 4) sp.core a0 (a + 8) 4
    let p2 := pickParcel s (old.map (fun w => w.extractLsb' 0 32)) w2
    let p1 := pickParcel p2.1 (old.map (fun w => w.extractLsb' 32 32)) w1
    let p0 := pickParcel p1.1 (old.map (fun w => w.extractLsb' 64 32)) w0
    .word p0.1 (p0.2 ++ p1.2 ++ p2.2)
  | .wait s, _, _ => .wait s
  | _, .wait s, _ => .wait s
  | _, _, .wait s => .wait s
  | .fail, _, _ => .fail a
  | _, .fail, _ => .fail (a + 4)
  | _, _, .fail => .fail (a + 8)

/-- The head block's L-word is read once for its position and plane (R384). -/
def laneCode (s : State) (sp : Span) (l : Launch) (b : Block) : LaneCode :=
  match mapFind b.picked b.plane with
  | some w => .word s w
  | none => readLane s sp l b

/-- The head block keeps the L-word that has been read for its plane, and, before the first pass of a position of a planed block,
the scalar registers as its passes read them (R41, R384). -/
def keepWord (sp : Span) (w : LWord) : Span :=
  match sp.queue with
  | [] => sp
  | b :: q => { sp with queue := { b with
      picked := mapPut b.picked b.plane w, reads := if b.planed && !b.began then some sp.s else b.reads } :: q }

/-- One pass of the head block: the trap STEP where it is due, else its L-word (R43, R202, R384). -/
def fetchLane (s : State) (u : Nat) : Fetched :=
  match spanOf s u with
  | none => .out (.fault .notEnabled)
  | some sp0 => match launchOf s sp0 with
    | none => .out (.fault .notEnabled)
    | some l =>
      if !mayIssue s sp0 l || sp0.queue.isEmpty then .out (.fault .notEnabled)
      else if sp0.badRec then .out (recordBad s u sp0)
      else
        let sp := skipEmpty 1024 sp0
        let s := putSpan s u sp
        match sp.queue with
        | [] => .out (.next s)
        | b :: _ =>
          let m := passMask sp b
          let cur : Cur := { uid := u, mask := m, plane := b.plane, planed := b.planed, lane := true }
          let s := { s with cur := cur }
          match laneCode s sp l b with
          | .word s w =>
            let sp := keepWord sp w
            let s := putSpan { s with cur := { cur with word := w } } u sp
            if sp.step = .due then .out (trapL s sp l causeStep m 0) else .run (decodeL w) s
          | .wait s => .out (.next s)
          | .fail a => .out (trapL s sp l causePageFault m a)

/-- An event or a register write: its arguments, and nobody acting. -/
def fetchEvent (s : State) (i : Instr) (x : Args) : Fetched := .run i { s with cur := { x := x } }

/-- A word that is no instruction (R55): ILLEGAL at the S-word's commit or before the L-word's first pass. -/
def execIllegalEncoding (s : State) : Res :=
  withLaunch s fun sp l =>
    if s.cur.lane then trapL s sp l causeIllegal s.cur.mask 0 else trapS s sp l causeIllegal sp.am 0

/-- A word of an extension major (R57): EXT_ABSENT. -/
def execExtensionEncoding (s : State) : Res :=
  withLaunch s fun sp l =>
    if s.cur.lane then trapL s sp l causeExt s.cur.mask 0 else trapS s sp l causeExt sp.am 0

end Sys2Proof.Machine
end

