-- ==== Sys2Proof/Machine/Mem.lean ====
section
/-! DEFINITION. The memory pass that scalar and lane accesses share: the checks of R103, R104, R108, R125 and R214, plain
and uncached and consuming and counted loads, stores with their check at the home, and what a deterministic launch
buffers (R104 to R108, R217 to R220, R246, R260, R299, R301). -/

namespace Sys2Proof.Machine
open Sys2Proof

/-! ### Widths (R102, R124) -/

/-- Bytes and signed extension of a lane access by its type code (R102). -/
def memWidth (ty : BitVec 4) : Nat × Bool :=
  let t := tyOfCode ty.toNat
  (tyWidth t / 8, match t with
    | .i8 | .i16 => true
    | _ => false)

/-- A loaded value extended to its destination (R102, R124): 64 bits, of which a single lane register keeps 32. -/
def extendTo (width : Nat) (signed : Bool) (x : Nat) : Nat :=
  if signed && decide (2 ^ (8 * width - 1) ≤ x) && decide (width < 8) then x + 2 ^ 64 - 2 ^ (8 * width) else x

/-! ### Checks of one access (R103, R104, R108, R213, R214) -/

/-- The kinds of access, as the rows of R104 list them. -/
inductive AccKind where
  | plain | cons | unc | readers | store | storeUnc | atomic
  deriving DecidableEq, Repr

def AccKind.code : AccKind → Nat
  | .plain => 0
  | .unc => 0
  | .cons => 3
  | .readers => 4
  | .store => 1
  | .storeUnc => 1
  | .atomic => 1

inductive LaneChk where
  | ok (p : Place)
  | bad (cause : Nat)
  | wait
  deriving DecidableEq, Repr

/-- The check of one access; a translation that is missing has its walk started in the state. -/
def checkAcc (s : State) (sp : Span) (l : Launch) (k : AccKind) (w a : Nat) : State × LaneChk :=
  if inQuad a then
    (s, if (k = .plain ∨ k = .unc) ∧ a % w = 0 then .ok (.quad a) else .bad causeBarrier)
  else if a % w ≠ 0 then (s, .bad causeMisaligned)
  else if vaTop ≤ a then (s, .bad causePageFault)
  else if inLocal a then
    match deckOf s sp.deck with
    | none => (s, .bad causePageFault)
    | some d => match localMode s d (a - localLo) with
      | none => (s, .bad causePageFault)
      | some b =>
        if k = .cons ∨ k = .readers ∨ (b.mode ≠ .scratch ∧ !(k.code == 1 && modeDeferred sp l d ((a - localLo) / 32768))) then
          (s, .bad causeBankMode)
        else (s, if b.switch.isEmpty then .ok (.loc (a - localLo)) else .wait)
  else match xlate s sp l a k.code with
    | .wait s => (s, .wait)
    | .fail => (s, .bad causePageFault)
    | .ok pa bar =>
      if !isHbm pa && k != .unc && k != .storeUnc then (s, .bad causePageFault)
      else if bar && (k == .cons || k == .readers || k == .atomic) then (s, .bad causeBarrier)
      else (s, .ok (.phys pa))

/-- One access of a pass: lane, virtual address. -/
abbrev Acc := Nat × Nat

/-- The checks of a pass over its accesses, in order. -/
def checkAccs (s : State) (sp : Span) (l : Launch) (k : AccKind) (w : Nat) (accs : List Acc) :
    State × List (Acc × LaneChk) :=
  accs.foldl (fun r a =>
    let c := checkAcc r.1 sp l k w a.2
    (c.1, r.2 ++ [(a, c.2)])) (s, [])

/-- The order in which R108 reports causes. -/
def causeOrder : List Nat :=
  [causeMisaligned, causePageFault, causeBarrier, causeBankMode]

def chkBad (c : LaneChk) (cause : Nat) : Bool :=
  match c with
  | .bad x => x == cause
  | _ => false

/-- The first cause of R108 that an access of the pass has, and the accesses that have it. -/
def firstCause (l : List (Acc × LaneChk)) : Option (Nat × List Acc) :=
  causeOrder.findSome? (fun c =>
    match l.filter (fun p => chkBad p.2 c) with
    | [] => none
    | m => some (c, m.map Prod.fst))

/-- A trap for accesses: of lanes, or of an S-word as lane 0 (R125, R147). -/
def trapAcc (s : State) (sp : Span) (l : Launch) (cause : Nat) (m : List Acc) : Res :=
  let fmask := maskOf 32 (m.map Prod.fst)
  let faddr := (m.head?.map Prod.snd).getD 0
  if s.cur.lane then trapL s sp l cause fmask faddr else trapS s sp l cause fmask faddr

/-- The pass's checks: MISALIGNED traps at once, a repairable fault parks the pass, another cause traps in the order of
R108; else `k` with the place of each access. -/
def memPass (s : State) (sp : Span) (l : Launch) (kind : AccKind) (w : Nat) (accs : List Acc)
    (k : State → List (Acc × Place) → Res) : Res :=
  let r := checkAccs s sp l kind w accs
  match r.2.filter (fun p => chkBad p.2 causeMisaligned) with
  | p :: q => trapAcc r.1 sp l causeMisaligned ((p :: q).map Prod.fst)
  | [] =>
    if r.2.any (fun p => p.2 == .wait) then .next r.1
    else match firstCause r.2 with
      | some (c, m) => trapAcc r.1 sp l c m
      | none => k r.1 (r.2.filterMap (fun p => match p.2 with
          | .ok pl => some (p.1, pl)
          | _ => none))

/-- Commit of what the turn ran: an S-word or a pass. -/
def commit (s : State) (sp : Span) : Res := if s.cur.lane then commitL s sp else commitS s sp

/-- The operation waits: for its turn to be tried again. -/
def pend (s : State) (sp : Span) (p : Pending) : Res := .next (putSpan s s.cur.uid { sp with pend := p })

/-- Younger accesses wait while an acquire of the span is in progress (R253, R264). -/
def afterAcquire (s : State) (sp : Span) (k : Res) : Res := if sp.acquiring.isSome then stall s else k

/-! ### Bytes of the places that are read at issue -/

/-- Bytes of a network barrier's image (R214). -/
def quadRead (s : State) (g a n : Nat) : Nat :=
  let b := mapGet NetBar.init s.nets (netKey g (a / 32 * 32))
  let all := b.w0.toNat + b.w1.toNat * 2 ^ 64 + b.w2.toNat * 2 ^ 128 + b.w3.toNat * 2 ^ 192
  (all >>> (8 * (a % 32))) % 2 ^ (8 * n)

/-- What the places that need no request give now: scratch, a network barrier, or any byte of a deterministic launch. -/
def readNow (s : State) (sp : Span) (l : Launch) (w : Nat) (p : Acc × Place) : Option Nat :=
  match p.2 with
  | .loc off => some (localView s sp off w)
  | .quad a => some (quadRead s sp.core a w)
  | .phys pa => if l.det then some (viewRead s sp l p.1.2 pa w) else none

/-! ### Loads (R104 to R106, R217 to R219) -/

def markDest (sp : Span) : Dest → Span
  | .none => sp
  | .s r => sMarkEmpty sp r
  | .v r pair => let sp := vMarkEmpty sp r
    if pair then vMarkEmpty sp (r + 1) else sp

/-- A load record for the accesses of a pass. -/
def mkLoad (u : Nat) (dest : Dest) (w : Nat) (signed : Bool) (lanes : List LaneRead) (waits : Nat) : Load :=
  ⟨u, dest, w, signed, lanes, [], waits, none, none, false, false, 0, 0⟩

/-- The lines of the accesses that are read at a home or beyond, each once. -/
def physLines (ps : List (Acc × Place)) : List (Nat × Nat) :=
  ((ps.filterMap (fun p => match p.2 with
    | .phys pa => some (pa / 128, p.1.2 / 128 * 128)
    | _ => none)).foldl (fun r x => if r.any (fun y => y.1 == x.1) then r else r ++ [x]) [])

/-- The lines of the pass's words in scratch, by virtual address, where the span's own release atomics on them wait (R264). -/
def localLines (ps : List (Acc × Place)) : List (Nat × Nat) :=
  (ps.filterMap (fun p => match p.2 with
    | .loc _ => some (p.1.2 / 128, p.1.2 / 128 * 128)
    | _ => none)).dedup

/-- May the span read a copy that the home gave at a stamp? Not where it has since read the line at the home, or has acquired
the bytes at `va` (R250, R253). -/
def copyFresh (sp : Span) (line va w stamp : Nat) : Bool :=
  decide (mapGet 0 sp.floors line ≤ stamp) &&
  sp.bounds.all (fun b => decide (va + w ≤ b.1) || decide (b.1 + b.2.1 ≤ va) || decide (b.2.2 ≤ stamp))

/-- The bytes of a plain read that the core's banks hold (R246). -/
def l1Read (s : State) (sp : Span) (va pa w : Nat) : Option Nat :=
  match l1Find (coreOf s sp.core) (pa / 128) with
  | none => none
  | some x =>
    let o := pa % 128
    if (List.range w).all (fun i => x.valid.getLsbD (o + i)) && !x.poison && copyFresh sp (pa / 128) va w x.stamp then
      some ((x.data.toNat >>> (8 * o)) % 2 ^ (8 * w))
    else none

/-- The plain window of a line: the answered plain entry of the core within 32 cycles of its fill that the home served last
(R219, R250). -/
def windowOf (s : State) (g line : Nat) : Option Req :=
  (s.reqs.filter (fun p => p.2.core == g && p.2.kind == .plain && p.2.line == line && match p.2.filled with
      | some t => decide (s.cycle < t + 32) && !p.2.poison
      | none => false)).foldl (fun best p => match best with
    | some y => if y.stamp < p.2.stamp then some p.2 else best
    | none => some p.2) none

/-- The data of a plain window (R219). -/
def windowRead (s : State) (sp : Span) (va pa w : Nat) : Option Nat :=
  match windowOf s sp.core (pa / 128) with
  | some r => if copyFresh sp (pa / 128) va w r.stamp then some ((r.data.toNat >>> (8 * (pa % 128))) % 2 ^ (8 * w)) else none
  | none => none

/-- What a plain load reads without a request. -/
def cachedRead (s : State) (sp : Span) (va pa w : Nat) : Option Nat :=
  match l1Read s sp va pa w with
  | some x => some x
  | none => windowRead s sp va pa w

def isRead (k : ReqKind) : Bool := k == .plain || k == .unc || k == .cons || k == .cfill

/-- Entries in use of the core's miss-status table, of 256, those of plain windows among them (R217, R219). -/
def missCount (s : State) (g : Nat) : Nat :=
  (s.reqs.filter (fun p => p.2.core == g && isRead p.2.kind)).length

/-- The consuming accesses that a core's entry and those merged with it at the quad stop already carry (R220, R221). -/
def consJoined (s : State) (i : Nat) (r : Req) : Nat :=
  match s.merges.find? (fun p => p.2.reqs.contains i) with
  | some m => (m.2.reqs.map (fun j => (reqOf s j).loads.length)).sum
  | none => r.loads.length

/-- An outstanding entry of the same kind that the request may join: its request has not left the core before the span's last
acquire, and no older store of the span has closed it (R217, R218, R220). -/
def joinEntry (s : State) (sp : Span) (u : Nat) (k : ReqKind) (line : Nat) : Option (Nat × Req) :=
  if k = .cfill then none
  else s.reqs.find? (fun p => p.2.core == sp.core && p.2.kind == k && p.2.line == line && p.2.filled.isNone &&
    p.2.stage != .answered && !p.2.shun.contains u && (p.2.left == 0 || decide (sp.acqAt ≤ p.2.left)) &&
    (k != .cons || decide (consJoined s p.1 p.2 < 255)))

/-- One line of a load asks for its data: it joins an entry or takes a new one, which carries the acquire condition where a span
of it has acquired (R218, R221). A read of an address without a home meets no quad stop's merge table: R221 gives it none
(DESIGN CHOICE, log 83). -/
def askLine (s : State) (sp : Span) (u load : Nat) (k : ReqKind) (n launch : Nat) (line : Nat × Nat) : State :=
  match joinEntry s sp u k line.1 with
  | some (i, r) => putReq s i { r with loads := r.loads ++ [load], marker := r.marker || decide (sp.acqAt ≠ 0) }
  | none => (newReq s { Req.init with
      core := sp.core, uid := u, kind := k, line := line.1, va := line.2, loads := [load],
      marker := decide (sp.acqAt ≠ 0), a := n, b := launch,
      stage := if isHbm (128 * line.1) then .core else .home, left := if isHbm (128 * line.1) then 0 else s.uses }).1

/-- The request kind of an access. -/
def reqKind : AccKind → ReqKind
  | .cons => .cons
  | .unc => .unc
  | .readers => .cfill
  | _ => .plain

/-- A consuming request waits behind an outstanding counted fill of the core for its line (R217). -/
def fillAhead (s : State) (g : Nat) (k : AccKind) (line : Nat) : Bool :=
  k == .cons && s.reqs.any (fun p => p.2.core == g && p.2.kind == .cfill && p.2.line == line)

/-- Store data of the line that a read has to wait for: of its span; of the whole core where it reads at the home (R38, R218,
R246). -/
def storeAhead (s : State) (g u : Nat) (k : AccKind) (line : Nat) : Bool :=
  s.reqs.any (fun p => p.2.core == g && p.2.line == line && p.2.kind == .storeData && (k != .plain || p.2.by_.contains u))

/-- Dirty bytes of the span in the line: its older store is not performed at the home (R218). -/
def ownDirty (s : State) (g u line : Nat) : Bool := (l1Find (coreOf s g) line).any (fun x => x.dirty != 0 && x.by_.contains u)

/-- May a read of these lines be sent: entries are free for those that join none, and the span's older stores and atomics to
them have been performed (R38, R217). -/
def mayAsk (s : State) (sp : Span) (k : AccKind) (lines : List (Nat × Nat)) : Bool :=
  decide (missCount s sp.core + (lines.filter (fun x => (joinEntry s sp s.cur.uid (reqKind k) x.1).isNone)).length ≤ 256) &&
  lines.all (fun x => !storeAhead s sp.core s.cur.uid k x.1 && !atomicsOn s s.cur.uid x.1 && !fillAhead s sp.core k x.1)

/-- Entries of the lines that the span's older stores close to it (R218). -/
def shunLines (s : State) (g u : Nat) (lines : List (Nat × Nat)) : State :=
  let own := lines.filter (fun x => storeAhead s g u .plain x.1 || ownDirty s g u x.1)
  if own.isEmpty then s
  else { s with reqs := s.reqs.map (fun p =>
    if p.2.core == g && isRead p.2.kind && p.2.filled.isNone && !p.2.shun.contains u && own.any (fun x => x.1 == p.2.line) then
      (p.1, { p.2 with shun := u :: p.2.shun }) else p) }

/-- Before a read is sent: the dirty bytes of its lines that it has to follow go back; where R247 says so, the core's copy
leaves (R218, R246). -/
def flushLines (s : State) (g u : Nat) (k : AccKind) (lines : List (Nat × Nat)) : State :=
  let s := shunLines s g u lines
  match k with
  | .plain => lines.foldl (fun t x => if ownDirty t g u x.1 then writeBack t g x.1 else t) s
  | .unc => lines.foldl (fun t x => writeBack t g x.1) s
  | _ => lines.foldl (fun t x => invalidate t g x.1) s

def laneReads (s : State) (sp : Span) (l : Launch) (k : AccKind) (w : Nat) (ps : List (Acc × Place)) : List LaneRead :=
  ps.map (fun p => match p.2 with
    | .phys pa =>
      ⟨p.1.1, pa, if l.det then readNow s sp l w p else if k = .plain then cachedRead s sp p.1.2 pa w else none⟩
    | _ => ⟨p.1.1, noPa, readNow s sp l w p⟩)

/-- The lines that still have to be asked for: those of accesses that nothing has answered. -/
def missLines (ps : List (Acc × Place)) (lr : List LaneRead) : List (Nat × Nat) :=
  physLines ((ps.zip lr).filterMap (fun p => if p.2.got.isNone then some p.1 else none))

/-- A load that finds its bytes at issue uses the line, and has read past the fences before their writers (R163, R255). -/
def seeHits (s : State) (sp : Span) (w : Nat) (lr : List LaneRead) : State :=
  lr.foldl (fun t r =>
    if r.got.isSome && r.pa != noPa then
      let m := bytesMask r.pa w
      match l1Find (coreOf t sp.core) (r.pa / 128), windowOf t sp.core (r.pa / 128) with
      | some x, _ => touchL1 (seeMarks t s.cur.uid (writerMarks s.cur.uid x.writers m ++ marksAt x.marks m)) sp.core x.line
      | none, some q => seeMarks t s.cur.uid (marksAt q.marks m)
      | none, none => t
    else t) s

/-- The same of the pass's words in scratch. -/
def seeScratch (s : State) (sp : Span) (w : Nat) (ps : List (Acc × Place)) : State :=
  ps.foldl (fun t p => match p.2, deckOf t sp.deck with
    | .loc off, some d => seeLocal t d off w t.cur.uid
    | _, _ => t) s

/-- What the copies read were given at: older ones are not for the span any more (R250). -/
def hitFloors (s : State) (sp : Span) (lr : List LaneRead) : Span :=
  lr.foldl (fun t r =>
    let line := r.pa / 128
    let stamp := match l1Find (coreOf s sp.core) line with
      | some x => x.stamp
      | none => ((windowOf s sp.core line).map Req.stamp).getD 0
    if r.got.isSome && r.pa != noPa && decide (mapGet 0 t.floors line < stamp) then
      { t with floors := mapPut t.floors line stamp } else t) sp

/-- An older load of the span still waits for a byte that the pass reads, in an entry that the pass would not join: its value
may not be older than the pass's (R250, R259). -/
def loadAhead (s : State) (sp : Span) (k : AccKind) (w : Nat) (lr : List LaneRead) : Bool :=
  lr.any (fun r => r.pa != noPa && s.loads.any (fun x => x.2.uid == s.cur.uid && x.2.fifo.isNone && !x.2.late &&
    x.2.lanes.any (fun y => y.got.isNone && y.pa != noPa && decide (y.pa < r.pa + w) && decide (r.pa < y.pa + x.2.width)) &&
    !(r.got.isNone && (joinEntry s sp s.cur.uid (reqKind k) (r.pa / 128)).any (fun e => e.2.loads.contains x.1))))

/-- A load that retires at issue: its destination is empty until LOAD_FILL (R44, R46). -/
def issueLoad (s : State) (sp : Span) (l : Launch) (k : AccKind) (n w : Nat) (signed : Bool) (dest : Dest)
    (ps : List (Acc × Place)) : Res :=
  let u := s.cur.uid
  let lr := laneReads s sp l k w ps
  let lines := if k = .readers then physLines ps else missLines ps lr
  if (physLines ps ++ localLines ps).any (fun x => atomicsOn s u x.1) || (!l.det && loadAhead s sp k w lr) then stall s
  else
    let s := flushLines s sp.core u k lines
    if !mayAsk s sp k lines then .next s
    else
      let sp := if l.det then sp else hitFloors s sp lr
      let s := if l.det then s else seeScratch (seeHits s sp w lr) sp w ps
      let bad := l.det && ps.any (fun p => match p.2 with
        | .phys pa => viewBad s sp p.1.2 pa w
        | _ => false)
      let r := newLoad s { mkLoad u dest w signed lr lines.length with poison := bad }
      let s := lines.foldl (fun t x => askLine t sp u r.2 (reqKind k) n l.number x) r.1
      commit s (markDest sp dest)

/-- What a trap has taken back of the access that had begun, once the trap is taken (R106, R107): a parked frame write tries again. -/
def takenBack (s : State) (sp : Span) (r : Res) : Res :=
  match r with
  | .next t => .next (if (spanOf t s.cur.uid).any (fun y => y.pend == sp.pend) then t else cancelPend t sp)
  | r => r

/-- A pass that has begun takes a trap. -/
def trapBegun (s : State) (sp : Span) (l : Launch) (cause : Nat) (m : List Acc) : Res := takenBack s sp (trapAcc s sp l cause m)

/-- A consuming load: first one access to each line, then, when every line has answered, OVERREAD or retirement (R106). -/
def consumeLoad (s : State) (sp : Span) (l : Launch) (w : Nat) (signed : Bool)
    (ps : List (Acc × Place)) : Res :=
  let u := s.cur.uid
  let lines := physLines ps
  let lr := laneReads s sp l .cons w ps
  let s := flushLines s sp.core u .cons lines
  if !mayAsk s sp .cons lines || loadAhead s sp .cons w lr then .next s
  else
    let r := newLoad s (mkLoad u .none w signed lr lines.length)
    let s := lines.foldl (fun t x => askLine t sp u r.2 .cons 0 l.number x) r.1
    .next (putSpan s u { sp with pend := .consume r.2 })

/-- The second half of a consuming load. -/
def consumeDone (s : State) (sp : Span) (l : Launch) (i : Nat) (dest : Dest) (accs : List Acc) : Res :=
  match mapFind s.loads i with
  | none => stall (putSpan s s.cur.uid { sp with pend := .none })
  | some ld =>
    if ld.waits ≠ 0 then stall s
    else
      let bad := ld.served.filterMap (fun x => if x.2 then some x.1 else none)
      if bad.isEmpty then
        let s := ld.served.foldl (fun t x => settleLine t x.1 false) s
        let s := putLoad s i { ld with dest := dest }
        commit s (markDest { sp with pend := .none } dest)
      else
        let m := (ld.lanes.filter (fun x => bad.contains (x.pa / 128))).map LaneRead.lane
        trapBegun s sp l causeOverread (accs.filter (fun a => m.contains a.1))

/-- Does the pass read scratch bytes with an uncorrectable error, or bytes of its own lost commit-buffer entry (R326, R328)? -/
def readsBad (s : State) (sp : Span) (l : Launch) (w : Nat) (ps : List (Acc × Place)) : Bool :=
  ps.any (fun p => (match p.2, deckOf s sp.deck with
    | .loc off, some d => localBad s d off w
    | _, _ => false) || (l.det && sp.buffer.any (fun b => match b.2 with
      | .lost va => va == p.1.2 / 128
      | _ => false)))

/-- A load of any policy over its accesses (R104, R125). -/
def loadPass (s : State) (sp : Span) (l : Launch) (k : AccKind) (n w : Nat) (signed : Bool) (dest : Dest)
    (accs : List Acc) : Res :=
  afterAcquire s sp (match sp.pend with
    | .consume i => consumeDone s sp l i dest accs
    | _ => memPass s sp l k w accs fun s ps =>
        if readsBad s sp l w ps then consumed s
        else if k = .cons ∧ !ps.isEmpty then consumeLoad s sp l w signed ps
        else if ps.isEmpty then commit s sp
        else issueLoad s sp l k n w signed dest ps)

/-! ### Stores (R104, R107, R163, R246) -/

/-- The bytes a pass of a store writes, in ascending lane order: place and byte. -/
def storeCells (w : Nat) (ps : List (Acc × Place)) (data : Nat → Nat) : List (Place × Nat × Byte) :=
  ps.flatMap (fun p => ((natToBytes w (data p.1.1)).zipIdx).map (fun b =>
    (match p.2 with
      | .loc off => .loc (off + b.2)
      | .quad a => .quad a
      | .phys pa => .phys (pa + b.2), p.1.2 + b.2, b.1)))

/-- Local cells are written to the scratch banks. -/
def putLocal (s : State) (sp : Span) (cells : List (Place × Nat × Byte)) : State :=
  cells.foldl (fun t c => match c.1 with
    | .loc off => match deckOf t sp.deck with
      | some d => localMark (localPut t d off c.2.2) d off 1 t.cur.uid
      | none => t
    | _ => t) s

/-- The lanes' bytes of a line by the virtual address at which they write it: one writer each (R249, R271). -/
def lineWriters (s : State) (g u line : Nat) (cells : List (Place × Nat × Byte)) : List Writer :=
  let mine := cells.filter (fun c => match c.1 with
    | .phys pa => pa / 128 == line
    | _ => false)
  ((mine.map (fun c => c.2.1 / 128)).dedup).map (fun va =>
    writerOf s u g (maskOf 128 ((mine.filter (fun c => c.2.1 / 128 == va)).map (fun c => c.2.1 % 128))) (128 * va))

/-- Mask and data of a line's cells; a later cell of the same byte stands (R104). -/
def lineOf (line : Nat) (cells : List (Place × Nat × Byte)) : BitVec 128 × Line :=
  cells.foldl (fun r c => match c.1 with
    | .phys pa => if pa / 128 = line then
        (r.1 ||| BitVec.ofNat 128 (2 ^ (pa % 128)), lineSet r.2 (pa % 128) c.2.2) else r
    | _ => r) (0, 0)

/-- A store that no home has to check, or whose checks are answered, is performed for its own core. -/
def storeLine (s : State) (g u : Nat) (unc : Bool) (line va checks : Nat) (mask : BitVec 128) (data : Line) (ws : List Writer) :
    State :=
  let ws := ws.foldl addWriter []
  if unc then sendStore (invalidate s g line) g line mask data checks [u] false va ws
  else l1Store s g u line mask data checks ws

/-- Do the ranges cover the interval from `a` to `b`? Each range is used at most once. -/
def covers : Nat → List (Int × Int) → Int → Int → Bool
  | 0, _, a, b => decide (b ≤ a)
  | k + 1, rs, a, b =>
    decide (b ≤ a) || match rs.find? (fun r => decide (r.1 ≤ a) && decide (a < r.1 + r.2)) with
      | some r => covers k rs (r.1 + r.2) b
      | none => false

/-- A byte lies in one of the deck's accumulate-only ranges (R300, R301). -/
def meetsAcc (l : Launch) (d : Deck) (a n : Nat) : Bool :=
  l.writes.zipIdx.any (fun w => w.1.2.2 && decide (deckRange l d w.2 < (a + n : Nat)) &&
    decide ((a : Int) < deckRange l d w.2 + w.1.2.1))

/-- Is every byte the deck's own: in its write ranges that are accumulate-only as `p` wants, or in scratch; where `p` wants none
that is, in no such range besides (R300, R301)? -/
def ownsBytes (s : State) (sp : Span) (l : Launch) (p : Bool → Bool) (a n : Nat) : Bool :=
  match deckOf s sp.deck with
  | none => false
  | some d =>
    (p true || !meetsAcc l d a n) &&
    let rs := l.writes.zipIdx.filterMap (fun w => if p w.1.2.2 then some (deckRange l d w.2, (w.1.2.1 : Int)) else none)
    covers 10 (((localLo : Int), (0x80000 : Int)) :: rs) a (a + n)

/-- The cause OWNERSHIP (R3, R301). -/
def causeOwnership : Nat := 0x0C

/-- Entries that a deterministic store makes: one for each line (R299). -/
def storeEntries (cells : List (Place × Nat × Byte)) (unc : Bool) : List Buffered :=
  let lines := (cells.map (fun c => c.2.1 / 128)).dedup
  lines.map (fun x => .store ((cells.filter (fun c => c.2.1 / 128 == x)).map (fun c => (c.2.1, c.2.2))) unc)

/-- Append entries to the commit buffer, which holds 512; the span holds where they do not fit (R298, R299). -/
def bufferAll (s : State) (sp : Span) (xs : List Buffered) (k : Span → Res) : Res :=
  if 512 < sp.buffer.length + xs.length then hold s sp else
    k { sp with buffer := sp.buffer ++ xs.map (fun x => (reportPoint sp s.cur.lane, x)) }

/-- The lanes of a pass that reach a line. -/
def lanesOn (line : Nat) (ps : List (Acc × Place)) : List Nat :=
  (ps.filter (fun p => match p.2 with
    | .phys pa => pa / 128 == line
    | _ => false)).map (fun p => p.1.1)

/-- A store over its accesses: checks at each line's home, then the bytes (R107). -/
def storePass (s : State) (sp : Span) (l : Launch) (unc : Bool) (w : Nat) (accs : List Acc) (data : Nat → Nat) : Res :=
  let u := s.cur.uid
  afterAcquire s sp (match sp.pend with
    | .store ids =>
      let rs := ids.map (reqOf s)
      if rs.any (fun r => r.stage != .answered) then stall s
      else
        if rs.any Req.bad then
          let bad := (rs.filter Req.bad).flatMap Req.loads
          trapBegun s sp l causeCounted (accs.filter (fun a => bad.contains a.1))
        else
          let s := ids.foldl delReq s
          let sp := { sp with pend := .none }
          let un := undoLines s sp l (rs.map (fun r => (r.va, .phys (128 * r.line))) ++
            (accs.filter (fun a => inLocal a.2)).map (fun a => (a.2, .loc (a.2 - localLo))))
          let s := un.1
          let sp := un.2
          let s := rs.foldl (fun t r => storeLine t sp.core u unc r.line r.va (if r.b = 0 then 1 else 0) r.mask r.data
            (r.writers.map (fun w => writerOf t u sp.core w.mask w.va))) s
          let cells := (accs.filter (fun a => inLocal a.2)).flatMap (fun a =>
            ((natToBytes w (data a.1)).zipIdx).map (fun b => (Place.loc (a.2 - localLo + b.2), a.2 + b.2, b.1)))
          commit (putLocal s sp cells) sp
    | _ => memPass s sp l (if unc then .storeUnc else .store) w accs fun s ps =>
        let cells := storeCells w ps data
        if (localLines ps).any (fun x => atomicsOn s u x.1) then stall s
        else if l.det then
          match accs.filter (fun a => !ownsBytes s sp l (fun acc => !acc) a.2 w) with
          | a :: r => trapAcc s sp l causeOwnership (a :: r)
          | [] => bufferAll s sp (storeEntries cells unc) fun sp1 =>
              let un := undoLines s sp l (ps.map (fun p => (p.1.2, p.2)))
              commit un.1 { sp1 with undo := un.2.undo }
        else
          let lines := physLines ps
          if lines.isEmpty then
            let un := undoLines s sp l (ps.map (fun p => (p.1.2, p.2)))
            commit (putLocal un.1 un.2 cells) un.2
          else if lines.any (fun x => storeInFlight s sp.core x.1 && unc) then stall s
          -- an older load of the span reads the line first (R38, R250)
          else if !(unread s u (fun y => lines.any (fun x => x.1 == y))).isEmpty then stall s
          else
            -- second tier and host memory have no home: nothing is checked there (`b` = 1)
            let r := lines.foldl (fun (t : State × List Nat) x =>
              let md := lineOf x.1 cells
              let hbm := isHbm (128 * x.1)
              let n := newReq t.1 { Req.init with
                core := sp.core, uid := u, kind := .storeCheck, line := x.1, va := x.2, mask := md.1, data := md.2,
                stage := if hbm then .home else .answered, b := if hbm then 0 else 1
                loads := lanesOn x.1 ps, writers := lineWriters t.1 sp.core u x.1 cells
                scratch := if (localLines ps).isEmpty then none else some sp.deck }
              (n.1, t.2 ++ [n.2])) (s, [])
            pend r.1 sp (.store r.2))

/-! ### FIFO banks (R110, R127) -/

/-- Words that a FIFO bank holds (log 13). -/
def fifoRoom : Nat := 8192

/-- A FIFO bank by its local index: BANK_MODE where it is not the deck's or not in FIFO mode; a switch is waited for. -/
def withFifo (s : State) (sp : Span) (l : Launch) (k : Nat) (f : Nat → Bank → Res) : Res :=
  let bad := if s.cur.lane then trapL s sp l causeBankMode s.cur.mask 0 else trapS s sp l causeBankMode sp.am 0
  match (deckOf s sp.deck).bind (fun d => (physBank d k).map (fun p => (d, p))) with
  | none => bad
  | some (d, p) =>
    let b := bankOf (coreOf s sp.core) p
    if b.mode ≠ .fifo ∧ !modeDeferred sp l d k then bad else if !b.switch.isEmpty then stall s else f p b

/-- Append words to a FIFO, or wait for room, or for the quantum end (R110, R299). -/
def fifoPush (s : State) (sp : Span) (l : Launch) (k : Nat) (words : List Word32) : Res :=
  afterAcquire s sp <| withFifo s sp l k fun p b =>
    if l.det then bufferAll s sp [.fifo k words] fun sp => commit s sp
    else if sp.pend = .push p words then stall s
    else if b.ring.length + words.length ≤ fifoRoom then
      commit (putBank s sp.core p { b with ring := b.ring ++ words }) sp
    else pend s sp (.push p words)

/-- The oldest pop that waits on a bank. -/
def firstPop (s : State) (g p : Nat) : Option (Nat × Load) :=
  s.loads.find? (fun x => x.2.fifo == some p && !x.2.late && match spanOf s x.2.uid with
    | some sp => sp.core == g
    | none => false)

/-- The words of a pop are taken together, in ring order, to its lanes (R110). -/
def takeWords (s : State) (g p i : Nat) (ld : Load) (words : List Word32) : State :=
  let b := bankOf (coreOf s g) p
  let n := ld.lanes.length
  putLoad (putBank s g p { b with ring := b.ring.drop n, bad := (b.bad.filter (fun i => decide (n ≤ i))).map (fun i => i - n) }) i
    { ld with
    fifo := none, waits := 0, poison := ld.poison || b.bad.any (fun i => decide (i < n)),
    lanes := ld.lanes.zipIdx.map (fun x => { x.1 with got := some ((words.getD x.2 0).toNat) }) }

/-- Remove words from a FIFO into a register: at once, when they are there, or at the quantum end (R110, R298). -/
def fifoPop (s : State) (sp : Span) (l : Launch) (k : Nat) (dest : Dest) (lanes : List Nat) : Res :=
  afterAcquire s sp <| withFifo s sp l k fun p b =>
    let u := s.cur.uid
    let ld := { mkLoad u dest 4 false (lanes.map (fun x => ⟨x, 0, none⟩)) 1 with
      fifo := some p, late := l.det, quantum := ((deckOf s sp.deck).map Deck.quanta).getD 0
      point := reportPoint sp s.cur.lane }
    let r := newLoad s ld
    if l.det then commit r.1 (markDest sp dest)
    else
      let s := if (firstPop s sp.core p).isNone && decide (lanes.length ≤ b.ring.length) then
          takeWords r.1 sp.core p r.2 ld b.ring else r.1
      commit s (markDest sp dest)

end Sys2Proof.Machine
end

