-- ==== Sys2Proof/Machine/Atomics.lean ====
section
/-! DEFINITION. Atomics of both streams: the operations (R109), their checks, their two phases and their orderings
(R254, R261 to R265, R301). -/

namespace Sys2Proof.Machine
open Sys2Proof

/-- Signed value of the low w bits. -/
def toSigned (w x : Nat) : Int := (BitVec.ofNat w x).toInt
/-- FP32 sum rounded RNE (R109). -/
def faddRne (x y : Nat) : Nat :=
  fAdd fmtF32 .rne x y
/-- One BF16 half rounded RNE (R109). -/
def bf16Add (x y : Nat) : Nat := fAdd fmtBF16 .rne x y

/-- The operation of code `op` on w-bit values: old, operand d, expected e (R109, R263). -/
def atomFn (op w old d e : Nat) : Nat :=
  let m := 2 ^ w
  match op with
  | 0 => (old + d) % m
  | 1 => if toSigned w d < toSigned w old then d % m else old % m
  | 2 => if toSigned w old < toSigned w d then d % m else old % m
  | 3 => Nat.min old d
  | 4 => Nat.max old d
  | 5 => Nat.land old d
  | 6 => Nat.lor old d
  | 7 => Nat.xor old d
  | 8 => d
  | 9 => if old = e then d else old
  | 10 => faddRne old d
  | _ => bf16Add (old % 2 ^ 16) (d % 2 ^ 16) + bf16Add (old / 2 ^ 16) (d / 2 ^ 16) * 2 ^ 16

/-- Ordering and scope of fn[3:0] (R261): release, acquire, scope. -/
def ordRel (o : Nat) : Bool := decide (6 ≤ o)
def ordAcq (o : Nat) : Bool := (decide (1 ≤ o) && decide (o ≤ 5)) || decide (11 ≤ o)
def ordScope (o : Nat) : Nat := if o = 0 then 0 else (o - 1) % 5 + 1

/-! ### The tree of a tile (R345) -/

def hopOf (size rank t : Nat) : Nat := (rank + size - t % size) % size
def rankAt (size t u : Nat) : Nat := (u + t % size) % size
def hopParent (k u : Nat) : Nat := (u - 1) / k
def hopChildren (size k u : Nat) : List Nat := ((List.range k).map (fun i => u * k + 1 + i)).filter (fun v => decide (v < size))
/-- Ranks of the children, ascending (R356). -/
def childRanks (size k t u : Nat) : List Nat :=
  let cs := (hopChildren size k u).map (rankAt size t)
  (List.range size).filter cs.contains

def entryHop (e : Entry) : Nat := hopOf e.g e.rank e.t
def entryChildren (e : Entry) : List Nat := childRanks e.g e.k e.t (entryHop e)

/-- A collective's entry has something to send that some hop has not acknowledged, or something still to send: a contribution to its
parent, or a result to its children (R245, R350). -/
def entryOwes (e : Entry) : Bool :=
  !e.sends.isEmpty ||
  (!e.swept && (((e.op == 0 || e.op == 2) && entryHop e != 0 && e.got.isEmpty) ||
    ((e.op == 2 || e.op == 3) && !(entryChildren e).isEmpty)))

/-- Of the first n collectives of a deck, some hop has not acknowledged one, or one has not started (R245, R350). -/
def collsOut (s : State) (deck g : Nat) (half : Bool) (n : Nat) : Bool :=
  s.fab.entries.any (fun p => p.2.deck == deck && decide (p.2.nth < n) && entryOwes p.2) ||
  (deckOf s deck).any (fun d => d.colls.any (fun f => decide (f.k < n))) ||
  (ctxOf s g half).queues.any (fun q => q.2.any (fun e =>
    e.kind == .coll && e.deck == deck && decide (e.nth < n) && !e.started))

/-- Those that a span has committed (R348). -/
def spanColls (s : State) (sp : Span) : Bool := collsOut s sp.deck sp.core sp.half sp.colls

/-- The acquire side: the span's younger accesses wait for load `i`; at `.quad` or wider its end drops clean lines. -/
def beginAcquire (sp : Span) (i scope : Nat) (ranges : List (Nat × Nat)) : Span :=
  { sp with acquiring := some ⟨i, scope, decide (2 ≤ scope), ranges, none⟩ }

/-- One atomic of a pass: lane, address, place, operand, expected value. -/
structure AtomOp where
  acc : Acc
  place : Place
  d : Nat
  e : Nat
  deriving DecidableEq, Repr

/-- Atomics on scratch words, performed at once in lane order (R109). -/
def atomLocal (s : State) (sp : Span) (op w : Nat) (ops : List AtomOp) : State × List (Nat × Nat) :=
  ops.foldl (fun r x => match x.place with
    | .loc off => match deckOf r.1 sp.deck with
      | some dk =>
        let u := r.1.cur.uid
        let old := localRead r.1 dk off (w / 8)
        let t := localWrite (seeLocal r.1 dk off (w / 8) u) dk off (natToBytes (w / 8) (atomFn op w old x.d x.e))
        (localMark (localAtom t dk off (w / 8)) dk off (w / 8) u, r.2 ++ [(x.acc.1, old)])
      | none => r
    | _ => r) (s, [])

/-- Acquires and releases of atomics on scratch words, in lane order; an acquire synchronises where its word's last write is
an atomic (R254). -/
def orderLocal (s : State) (sp : Span) (ord : Nat) (ops : List AtomOp) : State :=
  let u := s.cur.uid
  let sc := ordScope ord
  let offs := ops.filterMap (fun x => match x.place with
    | .loc off => some off
    | _ => none)
  if offs.isEmpty then s
  else
    let hit := offs.filter (fun o => (deckOf s sp.deck).any (fun d => isLocalAtom s d o))
    let s := if ordAcq ord then hit.foldl (fun t o => acquireFrom t u sp.core sc (relKeyLocal sp.deck o) 0 none) s else s
    if ordRel ord then
      let p := publish s u
      offs.foldl (fun t o => addRelease t (relKeyLocal sp.deck o) ⟨0, sc, sp.core, p.2⟩) p.1
    else s

/-- The lanes of an atomic's load: those on scratch that have been performed have their value already. -/
def atomLanes (ops : List AtomOp) (loc : List (Nat × Nat)) : List LaneRead :=
  ops.map (fun x => match x.place with
    | .phys pa => ⟨x.acc.1, pa, none⟩
    | _ => ⟨x.acc.1, noPa, (loc.find? (fun p => p.1 == x.acc.1)).map Prod.snd⟩)

def isScratch (x : AtomOp) : Bool :=
  match x.place with
  | .loc _ => true
  | _ => false

/-- What an atomic into an accumulate-only range may not do (R301). -/
def accBad (op : Nat) (returns : Bool) : Bool := returns || op == 8 || op == 9 || op == 10 || op == 11

/-- OWNERSHIP of one atomic of a deterministic launch: every byte is the deck's own, and one that meets an accumulate-only range may
act there (R301). -/
def atomOwned (s : State) (sp : Span) (l : Launch) (op : Nat) (returns : Bool) (a w : Nat) : Bool :=
  ownsBytes s sp l (fun _ => true) a (w / 8) &&
  !(accBad op returns && (deckOf s sp.deck).any (fun d => meetsAcc l d a (w / 8)))

/-- The use count that stands for an acquire which a quantum end is still to complete (R218, R298). -/
def acqPending : Nat := 2 ^ 64

/-- An acquire of a deterministic launch: it drops no copy of the core (R260), but it closes the plain windows at `.quad` or wider, and
reads of the span join no entry that left before `at_` (R218, R219). -/
def detAcquire (s : State) (sp : Span) (scope at_ : Nat) : State × Span :=
  (nextUse (if 2 ≤ scope then closeWindows s sp.core (fun _ => true) else s), { sp with acqAt := at_ })

/-- The span's own value of an operand in a deterministic launch (R260). -/
def atomView (s : State) (sp : Span) (l : Launch) (w : Nat) (x : AtomOp) : Nat :=
  match x.place with
  | .loc off => localView s sp off (w / 8)
  | .phys pa => viewRead s sp l x.acc.2 pa (w / 8)
  | .quad _ => 0

/-- A deterministic launch buffers its atomics: one entry for a pass (R299, R304); each lane sees those before it. -/
def atomBuffered (s : State) (sp : Span) (l : Launch) (op w ord : Nat) (dest : Dest) (ops : List AtomOp) : Res :=
  let u := s.cur.uid
  match ops.filter (fun x => !atomOwned s sp l op (dest != .none) x.acc.2 w) with
  | x :: r => trapAcc s sp l causeOwnership ((x :: r).map AtomOp.acc)
  | [] =>
    let r := newLoad s { mkLoad u dest (w / 8) false (ops.map (fun x => ⟨x.acc.1, 0, none⟩)) ops.length with late := true }
    let lanes := ops.foldl (fun (t : List AtomLane) x =>
      let seen := atomView s { sp with buffer := sp.buffer ++ [(0, .atomic w op ord none t)] } l w x
      t ++ [⟨x.acc.1, x.acc.2, x.d, x.e, atomFn op w seen x.d x.e⟩]) []
    bufferAll s sp [.atomic w op ord (some r.2) lanes] fun sp1 =>
      let un := undoLines r.1 sp l (ops.map (fun x => (x.acc.2, x.place)))
      let sp1 := { sp1 with undo := un.2.undo }
      let a := if ordAcq ord then detAcquire un.1 sp1 (ordScope ord) acqPending else (un.1, sp1)
      commit a.1 (markDest a.2 dest)

/-- The requests of the pass, one for each lane, in lane order; the lines' dirty bytes go first and the core's copies
leave (R263). -/
def atomSend (s : State) (sp : Span) (op w ord : Nat) (ops : List AtomOp) : Res :=
  let u := s.cur.uid
  let phys := ops.filterMap (fun x => match x.place with
    | .phys pa => some (x, pa)
    | _ => none)
  let s := phys.foldl (fun t x => invalidate t sp.core (x.2 / 128)) s
  let r := phys.foldl (fun (t : State × List Nat) x =>
    let n := newReq t.1 { Req.init with
      core := sp.core, uid := u, kind := .atomic, line := x.2 / 128, va := x.1.acc.2, op := op, a := x.2 % 128,
      b := x.1.d, c := x.1.e, width := w, tag := x.1.acc.1, marker := ordRel ord, stage := .home, point := undoPoint s.cur sp
      scratch := if ops.any isScratch then some sp.deck else none }
    (n.1, t.2 ++ [n.2])) (s, [])
  pend r.1 sp (.atomic r.2)

/-- A release atomic on a scratch word is held for the writes that it covers, with a marker (R264, R265). -/
def holdScratch (s : State) (sp : Span) (op w sc load : Nat) (cov : List Nat) (c : Clock) (x : AtomOp) : State :=
  (newReq s { Req.init with
    core := sp.core, uid := s.cur.uid, kind := .atomic, line := x.acc.2 / 128, va := x.acc.2, op := op, a := x.acc.2 % 128
    b := x.d, c := x.e, width := w, tag := x.acc.1, marker := true, stage := .quad, point := undoPoint s.cur sp, loads := [load]
    covered := cov, lost := !sp.lost.isEmpty, scope := sc, clock := c, scratch := some sp.deck }).1

/-- The homes have accepted: the atomics commit, and a release's markers cover the older writes; scratch words are performed, where
no release has to wait for such writes (R263 to R265). -/
def atomCommit (s : State) (sp : Span) (l : Launch) (op w ord : Nat) (dest : Dest) (ops : List AtomOp) (ids : List Nat) : Res :=
  let u := s.cur.uid
  let sc := ordScope ord
  let s := if ordAcq ord && decide (2 ≤ sc) then closeWindows s sp.core (fun _ => true) else s
  let s := if ordRel ord && decide (2 ≤ sc) then writeBackOf s sp.core u (fun _ => true) else s
  let cov := if ordRel ord then (coveredBy s u sc).filter (fun i => !ids.contains i) else []
  let wait := !cov.all (isPerformed s)
  let now := if wait then [] else ops.filter isScratch
  let held := if wait then ops.filter isScratch else []
  let un := undoLines s sp l (now.map (fun x => (x.acc.2, x.place)))
  let s := un.1
  let sp := un.2
  let lo := atomLocal (orderLocal s sp ord now) sp op w now
  let r := newLoad lo.1 (mkLoad u dest (w / 8) false (atomLanes ops lo.2) (ids.length + held.length))
  let p := if ordRel ord && !(ids.isEmpty && held.isEmpty) then publish r.1 u else (r.1, [])
  let s := ids.foldl (fun t i => putReq t i { reqOf t i with
    stage := .quad, loads := [r.2], covered := cov, lost := ordRel ord && !sp.lost.isEmpty
    writers := [writerOf r.1 u sp.core 0 (reqOf t i).va], scope := sc, clock := p.2, scratch := none }) p.1
  let s := held.foldl (fun t x => holdScratch t sp op w sc r.2 cov p.2 x) s
  let sp := if ordAcq ord then beginAcquire sp r.2 sc [] else sp
  commit s (markDest sp dest)

/-- The accesses of a pass that go to a home. -/
def physPlaces (ps : List (Acc × Place)) : List Nat :=
  ps.filterMap (fun p => match p.2 with
    | .phys pa => some pa
    | _ => none)

/-- An atomic pass of either stream (R109, R262, R263). The expected values are read before the destination is marked. -/
def atomPass (s : State) (sp : Span) (l : Launch) (op w ord : Nat) (dest : Dest) (accs : List Acc)
    (d e : Nat → Nat) : Res :=
  let mk := fun (p : Acc × Place) => AtomOp.mk p.1 p.2 (d p.1.1 % 2 ^ w) (e p.1.1 % 2 ^ w)
  afterAcquire s sp (match sp.pend with
    | .atomic ids =>
      let rs := ids.map (reqOf s)
      if rs.any (fun r => r.stage != .answered) then stall s
      else if rs.any Req.bad then
        let bad := (rs.filter Req.bad).map Req.tag
        trapBegun s sp l causeCounted (accs.filter (fun a => bad.contains a.1))
      else
        let phys := rs.map (fun r => (r.tag, 128 * r.line + r.a))
        let ops := accs.map (fun a => mk (a, match phys.find? (fun p => p.1 == a.1) with
          | some p => .phys p.2
          | none => .loc (a.2 - localLo)))
        atomCommit s { sp with pend := .none } l op w ord dest ops ids
    | _ => memPass s sp l .atomic (w / 8) accs fun s ps =>
        let ops := ps.map mk
        if readsBad s sp l (w / 8) ps then consumed s
        else if ops.isEmpty then commit s sp
        else if l.det then atomBuffered s sp l op w ord dest ops
        -- one after the other on a word (R265)
        else if (localLines ps).any (fun x => atomicsOn s s.cur.uid x.1) then stall s
        else if ordRel ord && decide (64 < markers s sp.core + ops.length) then stall s
        else if ordRel ord && ordScope ord == 5 && spanColls s sp then stall s
        else if !(physPlaces ps).isEmpty then
          -- an older load of the span reads the line first (R38, R250)
          if (unread s s.cur.uid (fun y => (physLines ps).any (fun x => x.1 == y))).isEmpty then atomSend s sp op w ord ops
          else stall s
        else atomCommit s sp l op w ord dest ops [])

/-- A scalar atomic (R261). -/
def scalarAtom (op w : Nat) (d a b : BitVec 6) (o : BitVec 4) (s : State) : Res :=
  withLaunch s fun sp l => needS s sp [a.toNat, b.toNat, d.toNat]
    (atomPass s sp l op w o.toNat (if d = 63 then .none else .s d.toNat) [(0, (sRead sp a.toNat).toNat)]
      (fun _ => (sRead sp b.toNat).toNat) (fun _ => (sRead sp d.toNat).toNat))

/-- A lane atomic: ordering and scope in parcel 2 [27:24] (R109). -/
def laneAtom (op : Nat) (x : LFields) (s : State) : Res :=
  let wide := tyRegs x.ty == 2
  lanePass s [.v [x.va.toNat] (feA x), .s (x.vb.toNat % 64) (feB x), .v (regSpan x.vc (tyRegs x.ty)) (feC x)]
      (regSpan x.vd (tyRegs x.ty)) none fun sp l =>
    let accs := (passLanes s).map (fun k => (k, laneAddr sp x 0 k))
    atomPass s sp l op (if wide then 64 else 32) (x.p2.extractLsb' 24 4).toNat (.v x.vd.toNat wide) accs
      (fun k => vLane sp x.vc.toNat k wide) (fun k => vLane sp x.vd.toNat k wide)

/-- 32-bit atomic add. (R261, R263) -/
def execAtomB32Add (d a b : BitVec 6) (o : BitVec 4) (s : State) : Res := scalarAtom 0 32 d a b o s

/-- 32-bit atomic min. (R261, R263) -/
def execAtomB32Min (d a b : BitVec 6) (o : BitVec 4) (s : State) : Res := scalarAtom 1 32 d a b o s

/-- 32-bit atomic max. (R261, R263) -/
def execAtomB32Max (d a b : BitVec 6) (o : BitVec 4) (s : State) : Res := scalarAtom 2 32 d a b o s

/-- 32-bit atomic minn. (R261, R263) -/
def execAtomB32Minn (d a b : BitVec 6) (o : BitVec 4) (s : State) : Res := scalarAtom 3 32 d a b o s

/-- 32-bit atomic maxn. (R261, R263) -/
def execAtomB32Maxn (d a b : BitVec 6) (o : BitVec 4) (s : State) : Res := scalarAtom 4 32 d a b o s

/-- 32-bit atomic and. (R261, R263) -/
def execAtomB32And (d a b : BitVec 6) (o : BitVec 4) (s : State) : Res := scalarAtom 5 32 d a b o s

/-- 32-bit atomic or. (R261, R263) -/
def execAtomB32Or (d a b : BitVec 6) (o : BitVec 4) (s : State) : Res := scalarAtom 6 32 d a b o s

/-- 32-bit atomic xor. (R261, R263) -/
def execAtomB32Xor (d a b : BitVec 6) (o : BitVec 4) (s : State) : Res := scalarAtom 7 32 d a b o s

/-- 32-bit atomic xchg. (R261, R263) -/
def execAtomB32Xchg (d a b : BitVec 6) (o : BitVec 4) (s : State) : Res := scalarAtom 8 32 d a b o s

/-- 32-bit atomic cas. (R261, R263) -/
def execAtomB32Cas (d a b : BitVec 6) (o : BitVec 4) (s : State) : Res := scalarAtom 9 32 d a b o s

/-- 32-bit atomic fadd. (R261, R263) -/
def execAtomB32Fadd (d a b : BitVec 6) (o : BitVec 4) (s : State) : Res := scalarAtom 10 32 d a b o s

/-- 32-bit atomic bf16x2add. (R261, R263) -/
def execAtomB32Bf16x2add (d a b : BitVec 6) (o : BitVec 4) (s : State) : Res := scalarAtom 11 32 d a b o s

/-- 64-bit atomic add. (R261, R263) -/
def execAtomN64Add (d a b : BitVec 6) (o : BitVec 4) (s : State) : Res := scalarAtom 0 64 d a b o s

/-- 64-bit atomic min. (R261, R263) -/
def execAtomN64Min (d a b : BitVec 6) (o : BitVec 4) (s : State) : Res := scalarAtom 1 64 d a b o s

/-- 64-bit atomic max. (R261, R263) -/
def execAtomN64Max (d a b : BitVec 6) (o : BitVec 4) (s : State) : Res := scalarAtom 2 64 d a b o s

/-- 64-bit atomic minn. (R261, R263) -/
def execAtomN64Minn (d a b : BitVec 6) (o : BitVec 4) (s : State) : Res := scalarAtom 3 64 d a b o s

/-- 64-bit atomic maxn. (R261, R263) -/
def execAtomN64Maxn (d a b : BitVec 6) (o : BitVec 4) (s : State) : Res := scalarAtom 4 64 d a b o s

/-- 64-bit atomic and. (R261, R263) -/
def execAtomN64And (d a b : BitVec 6) (o : BitVec 4) (s : State) : Res := scalarAtom 5 64 d a b o s

/-- 64-bit atomic or. (R261, R263) -/
def execAtomN64Or (d a b : BitVec 6) (o : BitVec 4) (s : State) : Res := scalarAtom 6 64 d a b o s

/-- 64-bit atomic xor. (R261, R263) -/
def execAtomN64Xor (d a b : BitVec 6) (o : BitVec 4) (s : State) : Res := scalarAtom 7 64 d a b o s

/-- 64-bit atomic xchg. (R261, R263) -/
def execAtomN64Xchg (d a b : BitVec 6) (o : BitVec 4) (s : State) : Res := scalarAtom 8 64 d a b o s

/-- 64-bit atomic cas. (R261, R263) -/
def execAtomN64Cas (d a b : BitVec 6) (o : BitVec 4) (s : State) : Res := scalarAtom 9 64 d a b o s

/-- Per-lane atomic add. (R109) -/
def execVatomAdd (x : LFields) (s : State) : Res := laneAtom 0 x s

/-- Per-lane atomic min. (R109) -/
def execVatomMin (x : LFields) (s : State) : Res := laneAtom 1 x s

/-- Per-lane atomic max. (R109) -/
def execVatomMax (x : LFields) (s : State) : Res := laneAtom 2 x s

/-- Per-lane atomic minn. (R109) -/
def execVatomMinn (x : LFields) (s : State) : Res := laneAtom 3 x s

/-- Per-lane atomic maxn. (R109) -/
def execVatomMaxn (x : LFields) (s : State) : Res := laneAtom 4 x s

/-- Per-lane atomic and. (R109) -/
def execVatomAnd (x : LFields) (s : State) : Res := laneAtom 5 x s

/-- Per-lane atomic or. (R109) -/
def execVatomOr (x : LFields) (s : State) : Res := laneAtom 6 x s

/-- Per-lane atomic xor. (R109) -/
def execVatomXor (x : LFields) (s : State) : Res := laneAtom 7 x s

/-- Per-lane atomic xchg. (R109) -/
def execVatomXchg (x : LFields) (s : State) : Res := laneAtom 8 x s

/-- Per-lane atomic cas. (R109) -/
def execVatomCas (x : LFields) (s : State) : Res := laneAtom 9 x s

/-- Per-lane atomic fadd. (R109) -/
def execVatomFadd (x : LFields) (s : State) : Res := laneAtom 10 x s

/-- Per-lane atomic bf16x2add. (R109) -/
def execVatomBf16x2add (x : LFields) (s : State) : Res := laneAtom 11 x s

end Sys2Proof.Machine
end

