-- ==== Sys2Proof/Machine/Barriers.lean ====
section
/-! DEFINITION. Barrier instructions and `barwait`: R190 to R196, R209, R213 to R215, R256. -/

namespace Sys2Proof.Machine
open Sys2Proof

/-- A barrier operation is performed, or meets BARRIER_ERROR (R192). -/
inductive BarRes where
  | ok (s : State)
  | bad
  deriving DecidableEq, Repr

def barOwner (s : State) (loc : BarLoc) (key : Nat) : State :=
  match loc with
  | .net k => { s with nets := mapPut s.nets k { mapGet NetBar.init s.nets k with owner := some key } }
  | _ => s

/-- `barinit` (R192): the image of a barrier that nothing is using. -/
def barInit (s : State) (l : Launch) (loc : BarLoc) (x y : Nat) : BarRes :=
  let b := readBar s loc
  if 2 ^ 24 ≤ x ∨ 2 ^ 24 ≤ y ∨ (x = 0 ∧ y = 0) ∨ (b.valid ∧ (b.arrivals ≠ 0 ∨ b.landed ≠ 0)) ∨
     (b.valid ∧ !b.abandoned ∧ b.registered ≠ 0) then .bad
  else .ok (barOwner (writeBar s loc { barOfWords 0 0 0 0 with valid := true, exparr := x, base := y, expbytes := y }) loc l.key)

/-- `barreg` (R192, R194). -/
def barReg (s : State) (u : Nat) (sp : Span) (loc : BarLoc) (addr : Word64) (lanes : BitVec 32) : BarRes :=
  let b := readBar s loc
  if !b.valid then .bad
  else match sp.regs.find? (fun e => e.addr == addr) with
    | some e =>
      let new := lanes &&& ~~~ e.lanes
      .ok (putSpan (writeBar s loc { b with registered := b.registered + popCount new }) u { sp with
        regs := sp.regs.map (fun y => if y.addr = addr then { y with lanes := y.lanes ||| lanes } else y) })
    | none =>
      if lanes = 0 then .ok s
      else if 8 ≤ sp.regs.length then .bad
      else .ok (putSpan (writeBar s loc { b with registered := b.registered + popCount lanes }) u { sp with
        regs := sp.regs ++ [⟨addr, lanes, 0, 0⟩] })

/-- `bararr` (R192, R194): the arrival, then the reply with the phase it was counted in. -/
def barArr (s : State) (u : Nat) (sp : Span) (loc : BarLoc) (addr : Word64) (lanes : BitVec 32) : BarRes :=
  let b := readBar s loc
  if !b.valid then .bad
  else
    let ph := BitVec.ofNat 32 b.phase
    let p := publish s u
    .ok (putSpan (writeBar (coverPhase p.1 (barKey loc) p.2) loc (barArrive (lostMark sp b) (popCount lanes))) u { sp with
      regs := sp.regs.map (fun e => if e.addr = addr then
        { e with arrived := if e.phase = ph then e.arrived ||| lanes else lanes, phase := ph } else e) })

/-- `barexp` (R192). -/
def barExp (s : State) (loc : BarLoc) (x : Nat) : BarRes :=
  let b := readBar s loc
  if !b.valid ∨ 2 ^ 40 ≤ b.expbytes + x then .bad
  else .ok (writeBar s loc (barCheck { b with expbytes := b.expbytes + x }))

/-- `bardrop` (R192, R195). -/
def barDrop (s : State) (u : Nat) (sp : Span) (loc : BarLoc) (addr : Word64) (lanes : BitVec 32) : BarRes :=
  if !(readBar s loc).valid then .bad
  else match sp.regs.find? (fun e => e.addr == addr) with
    | some e => if lanes &&& ~~~ e.lanes = 0 then .ok (dropAt s u lanes e) else .bad
    | none => if lanes = 0 then .ok s else .bad

/-- The barrier operation of fn[7:4] (R192). -/
def barApply (s : State) (u : Nat) (sp : Span) (l : Launch) (loc : BarLoc) (kind : Nat) (addr x y : Word64)
    (lanes : BitVec 32) : BarRes :=
  match kind with
  | 0 => barInit s l loc x.toNat y.toNat
  | 1 => barReg s u sp loc addr lanes
  | 2 => barArr s u sp loc addr lanes
  | 3 => barExp s loc x.toNat
  | _ => barDrop s u sp loc addr lanes

/-- An operation on a barrier in memory comes after the core's own writes of its line, which go back, and the span's own loads
of it (R38, log 60). -/
def barLine (s : State) (sp : Span) (loc : BarLoc) (k : State → Res) : Res :=
  match loc with
  | .mem pa =>
    let s := writeBack s sp.core (pa / 128)
    if storeInFlight s sp.core (pa / 128) || !(unread s s.cur.uid (fun y => y == pa / 128)).isEmpty ||
       atomicsOn s s.cur.uid (pa / 128) then .next s
    else k s
  | _ => k s

/-- The markers that an arrival at a barrier holds while it waits: one at a global barrier (R265). -/
def arrivalMarks : BarLoc → Nat
  | .mem _ => 1
  | _ => 0

/-- A barrier instruction: its checks, the older stores before an arrival (R256), then the operation at the home; in a
deterministic launch the operation waits in the commit buffer (R299). -/
def barOp (kind : Nat) (regs : List Nat) (addr x y : Span → Word64) (s : State) : Res :=
  withLaunch s fun sp l => needS s sp regs (
    -- the registration table is read by all but `barinit` and `barexp` (R194, R325)
    if kind ≠ 0 ∧ kind ≠ 3 ∧ sp.badTable then consumed s
    else match findBar s sp l (addr sp) (if kind = 0 then 2 else 1) true with
    | .wait s => .next s
    | .trap c =>
      -- a deterministic launch meets BARRIER_ERROR at the quantum end (R385)
      if l.det ∧ c = causeBarrier then
        bufferAll s sp [.barrier kind (addr sp) (x sp) (y sp) sp.am] fun sp => commitS s sp
      else trapS s sp l c sp.am (addr sp).toNat
    | .loc loc =>
      if l.det then
        bufferAll s sp [.barrier kind (addr sp) (x sp) (y sp) sp.am] fun sp => commitS s sp
      else
        let run := fun (s : State) => match barApply s s.cur.uid sp l loc kind (addr sp) (x sp) (y sp) sp.am with
          | .bad => trapS s sp l causeBarrier sp.am (addr sp).toNat
          | .ok s => match spanOf s s.cur.uid with
            | some sp => commitS s (raiseBar s sp loc)
            | none => .fault .notEnabled
        if kind = 2 ∨ kind = 4 then afterArrive s sp (barScope loc) (arrivalMarks loc) fun s => barLine s sp loc run
        else barLine s sp loc run)

/-- Initialise a barrier image. (R192) -/
def execBarinit (d a b : BitVec 6) (s : State) : Res :=
  barOp 0 [a.toNat, b.toNat, d.toNat] (fun sp => sRead sp a.toNat) (fun sp => sRead sp b.toNat)
    (fun sp => sRead sp d.toNat) s

/-- Register the active lanes at a barrier. (R192, R194) -/
def execBarreg (a : BitVec 6) (s : State) : Res :=
  barOp 1 [a.toNat] (fun sp => sRead sp a.toNat) (fun _ => 0) (fun _ => 0) s

/-- Arrive with the active lanes. (R192) -/
def execBararr (a : BitVec 6) (s : State) : Res :=
  barOp 2 [a.toNat] (fun sp => sRead sp a.toNat) (fun _ => 0) (fun _ => 0) s

/-- Raise the expected bytes of the current phase. (R192) -/
def execBarexp (a b : BitVec 6) (s : State) : Res :=
  barOp 3 [a.toNat, b.toNat] (fun sp => sRead sp a.toNat) (fun sp => sRead sp b.toNat) (fun _ => 0) s

/-- Arrive-and-drop the active lanes. (R192, R195) -/
def execBardrop (a : BitVec 6) (s : State) : Res :=
  barOp 4 [a.toNat] (fun sp => sRead sp a.toNat) (fun _ => 0) (fun _ => 0) s

/-! ### What a deck of a deterministic launch sees of a barrier (R299) -/

/-- Word i of the barrier at a place, as it stood when the phase began. -/
def phaseWord (l : Launch) (loc : BarLoc) (i : Nat) : Nat :=
  match loc with
  | .scratch _ _ => 0
  | .net k =>
    let n := mapGet NetBar.init l.nets k
    ([n.w0, n.w1, n.w2, n.w3].getD i 0).toNat
  | .mem pa => bytesToNat ((List.range 8).map (fun j => mapGet 0 l.snapshot (pa + 8 * i + j)))

/-- The barrier as the deck sees it: its own operations of the phase over the phase's beginning; and its abandonment, which is no
barrier operation, as it stands (R196, R224, R327, R330). -/
def deckBar (s : State) (l : Launch) (deck : Nat) (addr : Nat) (loc : BarLoc) : Bar :=
  let now := fun (b : Bar) => { b with abandoned := b.abandoned || (readBar s loc).abandoned }
  match loc with
  | .scratch _ _ => readBar s loc
  | _ => now <| match (deckOf s deck).bind (fun d => mapFind d.overlay addr) with
    | none => barOfWords (phaseWord l loc 0) (phaseWord l loc 1) (phaseWord l loc 2) (phaseWord l loc 3)
    | some _ =>
      let o := ((deckOf s deck).map Deck.overlay).getD []
      let w := fun i => bytesToNat ((List.range 8).map (fun j => mapGet 0 o (addr + 8 * i + j)))
      barOfWords (w 0) (w 1) (w 2) (w 3)

/-- An operation on a barrier outside scratch acts on what the deck sees, and on the shared image (R299). -/
def onDeckBar (s : State) (l : Launch) (deck : Nat) (addr : Nat) (loc : BarLoc) (f : State → BarRes) : BarRes :=
  match loc with
  | .scratch _ _ => f s
  | _ =>
    let real := readBar s loc
    match f (writeBar s loc (deckBar s l deck addr loc)) with
    | .bad => .bad
    | .ok s1 =>
      let seen := readBar s1 loc
      let real' := match f s with
        | .ok s2 => readBar s2 loc
        | .bad => real
      let s1 := writeBar s1 loc real'
      .ok (match deckOf s1 deck with
        | none => s1
        | some d => putDeck s1 deck { d with
            overlay := ((barWords seen).flatMap (natToBytes 8)).zipIdx.foldl (fun o b => mapPut o (addr + b.2) b.1) d.overlay })

/-! ### `barwait` (R193) -/

/-- The status with which a wait for phase p ends now, if it does (R5, R193). -/
def waitStatus (b : Bar) (p : Nat) : Option Nat :=
  let d := (b.phase + 2 ^ 32 - p % 2 ^ 32) % 2 ^ 32
  if d = 1 then some (if b.olast then 5 else if b.plast then 4 else 0)
  else if 2 ≤ d ∧ d < 2 ^ 31 then some 3
  else if b.abandoned then some 1
  else none

/-- The core's part of an acquire at `.quad` or wider: its copies leave, and its windows close (R254 to R256). -/
def acquireDrop (s : State) (g : Nat) (wide : Bool) : State :=
  if wide then dropLines (nextUse s) g (fun _ => true) else nextUse s

/-- The span's part: younger reads join no entry whose request has left (R218). Where every copy of the core has left, none is
too old for the span any more. -/
def acquired (s : State) (sp : Span) (wide : Bool) : Span :=
  { sp with acqAt := s.uses, floors := if wide then [] else sp.floors, bounds := if wide then [] else sp.bounds }

/-- The `barwait` ends with a status: S[sd] is written, and 0, 4 and 5 act as an acquire at the barrier's scope (R256). -/
def barwaitDone (s : State) (sp : Span) (loc : BarLoc) (sd st : Nat) : Res :=
  let sp1 := sWrite { sp with pend := .none } sd (BitVec.ofNat 64 st)
  if st = 0 ∨ st = 4 ∨ st = 5 then
    let wide := decide (2 ≤ barScope loc)
    commitS (learn (acquireDrop s sp.core wide) s.cur.uid (mapGet ([], []) s.ord.bars (barKey loc)).2) (acquired s sp1 wide)
  else commitS s sp1

/-- Where a global barrier lies. -/
def placePa : BarLoc → Option Nat
  | .mem pa => some pa
  | _ => none

/-- The barrier of a `barwait`: one in progress on a global barrier is not translated again, and so outlives a shootdown
of its page (R243). -/
def waitBar (s : State) (sp : Span) (l : Launch) (addr : Word64) : BarXl :=
  match sp.pend with
  | .barwait _ _ _ (some pa) _ _ _ => .loc (.mem pa)
  | _ => findBar s sp l addr 0 false

/-- A `barwait` that finds a barrier's image in scratch uncorrectable has it abandoned (R325). -/
def foundBad (s : State) (loc : BarLoc) : State :=
  match loc with
  | .scratch d off => if (deckOf s d).any (fun k => localBad s k off 32) && (readBar s loc).valid then barAbandon s loc else s
  | _ => s

/-- One evaluation of a `barwait` (R193). `late`: the limit is looked at too. -/
def barwaitEval (s : State) (sp : Span) (l : Launch) (addr : Word64) (p sd lim : Nat) (late : Bool) : Res :=
  match waitBar s sp l addr with
  | .wait s => .next s
  | .trap c => trapS s sp l c sp.am addr.toNat
  | .loc loc =>
    let s := foundBad s loc
    let b := readBar s loc
    if !b.valid then trapS s sp l causeBarrier sp.am addr.toNat
    else match waitStatus b p with
      | some st => barwaitDone s sp loc sd st
      | none =>
        let t0 : Int := match sp.pend with
          | .barwait t _ _ _ _ _ _ => t
          | _ => s.cycle
        if late && lim != 0 && decide (t0 + lim ≤ s.cycle) then barwaitDone s sp loc sd 2
        else pend s sp (.barwait t0 false addr (placePa loc) p sd lim)

/-- Wait for a barrier phase with an optional cycle limit in units of 1,024. (R60, R193) -/
def execBarwait (d a b : BitVec 6) (lim : BitVec 8) (s : State) : Res :=
  withLaunch s fun sp l => needS s sp [a.toNat, b.toNat, d.toNat]
    (let addr := sRead sp a.toNat
     let p := (sRead sp b.toNat).toNat % 2 ^ 32
     if l.det then
       if lim ≠ 0 then trapS s sp l causeIllegal sp.am 0
       -- a deterministic launch evaluates it at quantum ends only (R299); translation is checked at commit (R385)
       else match sp.pend with
         | .barwait _ _ _ _ _ _ _ => hold s sp
         | _ => match findBar s sp l addr 0 true with
           | .wait s => .next s
           | .trap c =>
             if c = causeBarrier then hold s { sp with pend := .barwait s.cycle false addr none p d.toNat 0 }
             else trapS s sp l c sp.am addr.toNat
           | .loc loc => hold s { sp with pend := .barwait s.cycle false addr (placePa loc) p d.toNat 0 }
     else match sp.pend with
       | .barwait _ _ ad _ ph sd lm => barwaitEval s sp l ad ph sd lm false
       | _ => barwaitEval s sp l addr p d.toNat (lim.toNat * 1024) false)

/-- The S-word that a span waits at, as its code has it: a trap's frame holds it (R198). -/
def waitingWord (s : State) (sp : Span) (l : Launch) : BitVec 96 :=
  match lookupVa s l.root sp.spc.toNat with
  | some (pa, _) => BitVec.ofNat 96 (coreRead s sp.core pa 4)
  | none => 0

/-- The waiting span of an event, with its `barwait`. -/
def withBarwait (s : State) (k : State → Span → Launch → Word64 → Nat → Nat → Nat → Res) : Res :=
  let u := s.cur.x.id
  let s := { s with cur := { s.cur with uid := u } }
  withLaunch s fun sp l => match sp.pend with
    | .barwait _ off addr _ p sd lim =>
      if off || l.det || !mayIssue s sp l then .fault .notEnabled
      else k { s with cur := { s.cur with word := waitingWord s sp l } } sp l addr p sd lim
    | _ => .fault .notEnabled

/-- Waiting `barwait` of span `id` wakes on a change of its barrier and writes its status. (R193) -/
def execBarwaitEnd (s : State) : Res :=
  withBarwait s fun s sp l addr p sd lim => barwaitEval s sp l addr p sd lim false

/-- The cycle limit of the `barwait` of span `id` has run out. (R193, R209) -/
def execBarwaitTimeout (s : State) : Res :=
  withBarwait s fun s sp l addr p sd lim =>
    match sp.pend with
    | .barwait t0 _ _ _ _ _ _ =>
      if lim = 0 ∨ s.cycle < t0 + lim then .fault .notEnabled else barwaitEval s sp l addr p sd lim true
    | _ => .fault .notEnabled

end Sys2Proof.Machine
end

