-- ==== Sys2Proof/Machine/Flags.lean ====
section
/-! DEFINITION. The machine has no condition flags: what takes their place are the mask that a lane compare writes into
a scalar register (R78), and the conditions of branches and scalar compares (R121, R129). -/

namespace Sys2Proof.Machine
open Sys2Proof

/-- The result mask of a compare pass: bit l is the outcome for lane l of m, every other bit 0 (R78). -/
def compareMask (s : State) (p : Nat → Bool) : BitVec 64 :=
  (passLanes s).foldl (fun m lane => if p lane then m ||| BitVec.ofNat 64 (2 ^ lane) else m) 0

/-- Write a compare's result: the first pass at a position that names this sdst writes the full register, a later one
only the bits of its own lanes (R78). -/
def writeMask (s : State) (sp : Span) (r : Nat) (res : BitVec 64) : Span :=
  match sp.queue with
  | [] => sFill sp r res
  | b :: q =>
    let own : BitVec 64 := s.cur.mask.zeroExtend 64
    let old := sRead sp r
    let x := if b.merged.contains r then (old &&& ~~~ own) ||| (res &&& own) else res
    sFill { sp with queue := { b with merged := r :: b.merged } :: q } r x

/-- A Bool as 1 or 0 (R121). -/
def flag64 (b : Bool) : Word64 := if b then 1 else 0

end Sys2Proof.Machine
end

