-- ==== Sys2Proof/Machine/ScalarAlu.lean ====
section
/-! DEFINITION. Scalar integer and logic: R119 to R123. Every meaning is one shared form with its own function F(x, y). -/

namespace Sys2Proof.Machine
open Sys2Proof

/-- The two-source form: S[d] := F(S[a], S[b]) (R119, R121). -/
def aluRR (d a b : BitVec 6) (f : Word64 → Word64 → Word64) (s : State) : Res :=
  withSpan s fun sp => needS s sp [a.toNat, b.toNat, d.toNat]
    (commitS s (sWrite sp d.toNat (f (sRead sp a.toNat) (sRead sp b.toNat))))

/-- The one-source and immediate forms: S[d] := F(S[a]) (R119, R122, R123). -/
def aluR (d a : BitVec 6) (f : Word64 → Word64) (s : State) : Res :=
  withSpan s fun sp => needS s sp [a.toNat, d.toNat] (commitS s (sWrite sp d.toNat (f (sRead sp a.toNat))))

/-- High half of the signed product (R119). -/
def mulhFn (x y : Word64) : Word64 := BitVec.ofInt 64 (x.toInt * y.toInt / 2 ^ 64)
/-- High half of the natural product (R119). -/
def mulhnFn (x y : Word64) : Word64 := BitVec.ofNat 64 (x.toNat * y.toNat / 2 ^ 64)
/-- Signed quotient, truncated toward zero; all ones for y = 0 (R120). -/
def divFn (x y : Word64) : Word64 := if y = 0 then BitVec.allOnes 64 else BitVec.ofInt 64 (x.toInt.tdiv y.toInt)
def divnFn (x y : Word64) : Word64 := if y = 0 then BitVec.allOnes 64 else BitVec.ofNat 64 (x.toNat / y.toNat)
/-- Remainder x − y·q with the dividend's sign; x for y = 0 (R120). -/
def remFn (x y : Word64) : Word64 := if y = 0 then x else BitVec.ofInt 64 (x.toInt - y.toInt * x.toInt.tdiv y.toInt)
def remnFn (x y : Word64) : Word64 := if y = 0 then x else BitVec.ofNat 64 (x.toNat % y.toNat)
def sllFn (x y : Word64) : Word64 := x <<< (y.toNat % 64)
def srlFn (x y : Word64) : Word64 := x >>> (y.toNat % 64)
def sraFn (x y : Word64) : Word64 := x.sshiftRight (y.toNat % 64)
def rotlFn (x y : Word64) : Word64 := x.rotateLeft (y.toNat % 64)
def rotrFn (x y : Word64) : Word64 := x.rotateRight (y.toNat % 64)
def minFn (x y : Word64) : Word64 := if y.slt x then y else x
def maxFn (x y : Word64) : Word64 := if x.slt y then y else x
def minnFn (x y : Word64) : Word64 := if y.ult x then y else x
def maxnFn (x y : Word64) : Word64 := if x.ult y then y else x
/-- Leading zeros of the low `n` bits of x (R119, R76). -/
def clzNat : Nat → Nat → Nat
  | 0, _ => 0
  | n + 1, x => if (x >>> n) % 2 = 1 then 0 else 1 + clzNat n x
/-- Trailing zeros of x among `n` bits. -/
def ctzNat : Nat → Nat → Nat
  | 0, _ => 0
  | n + 1, x => if x % 2 = 1 then 0 else 1 + ctzNat n (x / 2)
def clzFn (x : Word64) : Word64 := BitVec.ofNat 64 (clzNat 64 x.toNat)
def ctzFn (x : Word64) : Word64 := BitVec.ofNat 64 (ctzNat 64 x.toNat)
def popcFn (x : Word64) : Word64 := BitVec.ofNat 64 (popCount x)
/-- Sign-extend or zero-extend the low n bits (R119). -/
def sextFn (n : Nat) (x : Word64) : Word64 := (x.setWidth n).signExtend 64
def zextFn (n : Nat) (x : Word64) : Word64 := (x.setWidth n).zeroExtend 64

/-- Scalar add of two registers modulo 2^64. (R119) -/
def execAdd (d a b : BitVec 6) (s : State) : Res := aluRR d a b (fun x y => x + y) s

/-- Scalar subtract modulo 2^64. (R119) -/
def execSub (d a b : BitVec 6) (s : State) : Res := aluRR d a b (fun x y => x - y) s

/-- Scalar multiply, low 64 bits. (R119) -/
def execMul (d a b : BitVec 6) (s : State) : Res := aluRR d a b (fun x y => x * y) s

/-- Signed high half of the 128-bit product. (R119) -/
def execMulh (d a b : BitVec 6) (s : State) : Res := aluRR d a b (mulhFn) s

/-- Natural high half of the 128-bit product. (R119) -/
def execMulhn (d a b : BitVec 6) (s : State) : Res := aluRR d a b (mulhnFn) s

/-- Signed division truncating toward zero, no trap. (R120) -/
def execDiv (d a b : BitVec 6) (s : State) : Res := aluRR d a b (divFn) s

/-- Natural division, no trap. (R120) -/
def execDivn (d a b : BitVec 6) (s : State) : Res := aluRR d a b (divnFn) s

/-- Signed remainder carrying the dividend's sign. (R120) -/
def execRem (d a b : BitVec 6) (s : State) : Res := aluRR d a b (remFn) s

/-- Natural remainder. (R120) -/
def execRemn (d a b : BitVec 6) (s : State) : Res := aluRR d a b (remnFn) s

/-- Bitwise AND. (R119) -/
def execAnd (d a b : BitVec 6) (s : State) : Res := aluRR d a b (fun x y => x &&& y) s

/-- Bitwise OR. (R119) -/
def execOr (d a b : BitVec 6) (s : State) : Res := aluRR d a b (fun x y => x ||| y) s

/-- Bitwise XOR. (R119) -/
def execXor (d a b : BitVec 6) (s : State) : Res := aluRR d a b (fun x y => x ^^^ y) s

/-- x AND NOT y. (R119) -/
def execAndn (d a b : BitVec 6) (s : State) : Res := aluRR d a b (fun x y => x &&& ~~~ y) s

/-- x OR NOT y. (R119) -/
def execOrn (d a b : BitVec 6) (s : State) : Res := aluRR d a b (fun x y => x ||| ~~~ y) s

/-- Shift left by y mod 64. (R119) -/
def execSll (d a b : BitVec 6) (s : State) : Res := aluRR d a b (sllFn) s

/-- Logical shift right by y mod 64. (R119) -/
def execSrl (d a b : BitVec 6) (s : State) : Res := aluRR d a b (srlFn) s

/-- Arithmetic shift right by y mod 64. (R119) -/
def execSra (d a b : BitVec 6) (s : State) : Res := aluRR d a b (sraFn) s

/-- Rotate left by y mod 64. (R119) -/
def execRotl (d a b : BitVec 6) (s : State) : Res := aluRR d a b (rotlFn) s

/-- Rotate right by y mod 64. (R119) -/
def execRotr (d a b : BitVec 6) (s : State) : Res := aluRR d a b (rotrFn) s

/-- Signed minimum. (R119) -/
def execMin (d a b : BitVec 6) (s : State) : Res := aluRR d a b (minFn) s

/-- Signed maximum. (R119) -/
def execMax (d a b : BitVec 6) (s : State) : Res := aluRR d a b (maxFn) s

/-- Natural minimum. (R119) -/
def execMinn (d a b : BitVec 6) (s : State) : Res := aluRR d a b (minnFn) s

/-- Natural maximum. (R119) -/
def execMaxn (d a b : BitVec 6) (s : State) : Res := aluRR d a b (maxnFn) s

/-- Count leading zeros, 64 for zero. (R119) -/
def execClz (d a : BitVec 6) (s : State) : Res := aluR d a (clzFn) s

/-- Count trailing zeros, 64 for zero. (R119) -/
def execCtz (d a : BitVec 6) (s : State) : Res := aluR d a (ctzFn) s

/-- Population count. (R119) -/
def execPopc (d a : BitVec 6) (s : State) : Res := aluR d a (popcFn) s

/-- Sign-extend bits 7:0. (R119) -/
def execSextI8 (d a : BitVec 6) (s : State) : Res := aluR d a (sextFn 8) s

/-- Sign-extend bits 15:0. (R119) -/
def execSextI16 (d a : BitVec 6) (s : State) : Res := aluR d a (sextFn 16) s

/-- Sign-extend bits 31:0. (R119) -/
def execSextI32 (d a : BitVec 6) (s : State) : Res := aluR d a (sextFn 32) s

/-- Zero-extend bits 7:0. (R119) -/
def execZextN8 (d a : BitVec 6) (s : State) : Res := aluR d a (zextFn 8) s

/-- Zero-extend bits 15:0. (R119) -/
def execZextN16 (d a : BitVec 6) (s : State) : Res := aluR d a (zextFn 16) s

/-- Zero-extend bits 31:0. (R119) -/
def execZextN32 (d a : BitVec 6) (s : State) : Res := aluR d a (zextFn 32) s

/-- Set 1 if equal, else 0. (R121) -/
def execSeq (d a b : BitVec 6) (s : State) : Res := aluRR d a b (fun x y => flag64 (x == y)) s

/-- Set 1 if not equal. (R121) -/
def execSne (d a b : BitVec 6) (s : State) : Res := aluRR d a b (fun x y => flag64 (x != y)) s

/-- Set 1 if signed less. (R121) -/
def execSlt (d a b : BitVec 6) (s : State) : Res := aluRR d a b (fun x y => flag64 (x.slt y)) s

/-- Set 1 if signed greater or equal. (R121) -/
def execSge (d a b : BitVec 6) (s : State) : Res := aluRR d a b (fun x y => flag64 (!x.slt y)) s

/-- Set 1 if natural less. (R121) -/
def execSltn (d a b : BitVec 6) (s : State) : Res := aluRR d a b (fun x y => flag64 (x.ult y)) s

/-- Set 1 if natural greater or equal. (R121) -/
def execSgen (d a b : BitVec 6) (s : State) : Res := aluRR d a b (fun x y => flag64 (!x.ult y)) s

/-- Add sign-extended 14-bit immediate. (R122) -/
def execAddi (d a : BitVec 6) (imm : BitVec 14) (s : State) : Res := aluR d a (fun x => x + imm.signExtend 64) s

/-- AND with zero-extended immediate. (R122) -/
def execAndi (d a : BitVec 6) (imm : BitVec 14) (s : State) : Res := aluR d a (fun x => x &&& imm.zeroExtend 64) s

/-- OR with zero-extended immediate. (R122) -/
def execOri (d a : BitVec 6) (imm : BitVec 14) (s : State) : Res := aluR d a (fun x => x ||| imm.zeroExtend 64) s

/-- XOR with zero-extended immediate. (R122) -/
def execXori (d a : BitVec 6) (imm : BitVec 14) (s : State) : Res := aluR d a (fun x => x ^^^ imm.zeroExtend 64) s

/-- Shift left by immediate amount. (R123) -/
def execSlli (d a imm : BitVec 6) (s : State) : Res := aluR d a (fun x => sllFn x (imm.zeroExtend 64)) s

/-- Logical shift right by immediate amount. (R123) -/
def execSrli (d a imm : BitVec 6) (s : State) : Res := aluR d a (fun x => srlFn x (imm.zeroExtend 64)) s

/-- Arithmetic shift right by immediate amount. (R123) -/
def execSrai (d a imm : BitVec 6) (s : State) : Res := aluR d a (fun x => sraFn x (imm.zeroExtend 64)) s

/-- Rotate left by immediate amount. (R123) -/
def execRotli (d a imm : BitVec 6) (s : State) : Res := aluR d a (fun x => rotlFn x (imm.zeroExtend 64)) s

/-- Shift left 14 and insert immediate. (R122) -/
def execSlin (d a : BitVec 6) (imm : BitVec 14) (s : State) : Res := aluR d a (fun x => (x <<< 14) ||| imm.zeroExtend 64) s

/-- Set 1 if signed less than immediate. (R122) -/
def execSlti (d a : BitVec 6) (imm : BitVec 14) (s : State) : Res := aluR d a (fun x => flag64 (x.slt (imm.signExtend 64))) s

/-- Set 1 if natural less than immediate. (R122) -/
def execSltni (d a : BitVec 6) (imm : BitVec 14) (s : State) : Res := aluR d a (fun x => flag64 (x.ult (imm.zeroExtend 64))) s

/-- Set 1 if equal to immediate. (R122) -/
def execSeqi (d a : BitVec 6) (imm : BitVec 14) (s : State) : Res := aluR d a (fun x => flag64 (x == imm.signExtend 64)) s

end Sys2Proof.Machine
end

