-- ==== Sys2Proof/Machine/LaneArith.lean ====
section
/-! DEFINITION. Lane integer, logic, shift, move and floating-point instructions: R71 to R85. -/

namespace Sys2Proof.Machine
open Sys2Proof

/-- An element function of three sources by type. -/
abbrev ElemFn := Ty → Nat → Nat → Nat → Nat

/-- Sources a, b: element-wise (R71). -/
def lane2 (x : LFields) (f : ElemFn) (s : State) : Res :=
  lanePass s (srcA x ++ srcB x) (dstV x) none fun sp _ => commitL s (elementwise s sp x f)
/-- Sources a, b, c. -/
def lane3 (x : LFields) (f : ElemFn) (s : State) : Res :=
  lanePass s (srcA x ++ srcB x ++ srcC x) (dstV x) none fun sp _ => commitL s (elementwise s sp x f)
/-- Source a. -/
def lane1 (x : LFields) (f : ElemFn) (s : State) : Res :=
  lanePass s (srcA x) (dstV x) none fun sp _ => commitL s (elementwise s sp x f)
/-- A compare into the mask register sdst (R78, R85). -/
def laneCmp (x : LFields) (p : Ty → Nat → Nat → Bool) (s : State) : Res :=
  lanePass s (srcA x ++ srcB x) [] (some x.sdst.toNat) fun sp _ =>
    let ty := tyOfCode x.ty.toNat
    commitL s (writeMask s sp x.sdst.toNat (compareMask s (fun l => p ty (opndA sp ty x l) (opndB sp ty x l))))

/-- An element as the integer its type reads (R71). -/
def elemInt (t : Ty) (c : Nat) : Int := codeInt (tyWidth t) (tySigned t) c
/-- An integer result modulo 2^w (R73). -/
def intFn (f : Int → Int → Int → Int) : ElemFn := fun t a b c =>
  wrapI (tyWidth t) (f (elemInt t a) (elemInt t b) (elemInt t c))
/-- A result clamped to the type's range (R73). -/
def satFn (f : Int → Int → Int) : ElemFn := fun t a b _ =>
  wrapI (tyWidth t) (clampI (f (elemInt t a) (elemInt t b)) (intLo (tyWidth t) (tySigned t)) (intHi (tyWidth t) (tySigned t)))
/-- R74: quotient, all ones for y = 0. -/
def vdivFn : ElemFn := fun t a b _ =>
  if b = 0 then 2 ^ tyWidth t - 1 else wrapI (tyWidth t) ((elemInt t a).tdiv (elemInt t b))
/-- R74: remainder, x for y = 0. -/
def vremFn : ElemFn := fun t a b _ =>
  if b = 0 then a else wrapI (tyWidth t) (elemInt t a - elemInt t b * (elemInt t a).tdiv (elemInt t b))
def vmulhFn : ElemFn := fun t a b _ => wrapI (tyWidth t) (elemInt t a * elemInt t b / ((2 ^ tyWidth t : Nat) : Int))
/-- ~x in w bits. -/
def notW (w x : Nat) : Nat := 2 ^ w - 1 - x % 2 ^ w
def vandFn : ElemFn := fun _ a b _ => a &&& b
def vorFn : ElemFn := fun _ a b _ => a ||| b
def vxorFn : ElemFn := fun _ a b _ => a ^^^ b
def vandnFn : ElemFn := fun t a b _ => a &&& notW (tyWidth t) b
def vnotFn : ElemFn := fun t a _ _ => notW (tyWidth t) a
def vselFn : ElemFn := fun t a b c => (a &&& c) ||| (b &&& notW (tyWidth t) c)
def vshlFn : ElemFn := fun t a b _ => (a * 2 ^ (b % tyWidth t)) % 2 ^ tyWidth t
def vshrFn : ElemFn := fun t a b _ => wrapI (tyWidth t) (elemInt t a / ((2 ^ (b % tyWidth t) : Nat) : Int))
def vrotlFn : ElemFn := fun t a b _ =>
  let w := tyWidth t
  let n := b % w
  (a * 2 ^ n) % 2 ^ w ||| a / 2 ^ (w - n)
def vclzFn : ElemFn := fun t a _ _ => clzNat (tyWidth t) a
def vpopcFn : ElemFn := fun _ a _ _ => ((List.range 64).filter (fun i => a.testBit i)).length
def vbrevFn : ElemFn := fun t a _ _ =>
  (List.range (tyWidth t)).foldl (fun r i => if a.testBit i then r + 2 ^ (tyWidth t - 1 - i) else r) 0

/-- The mode that rm 0b000 to 0b100 names (R79). -/
def fpRm (x : LFields) : Rm := rmOf x.rm.toNat 0 0 0
/-- A floating-point function by its type's format and rm (R79). -/
def fpFn (x : LFields) (f : Fmt → Rm → Nat → Nat → Nat → Nat) : ElemFn := fun t a b c => f (fmtOf t) (fpRm x) a b c
def signBit (t : Ty) : Nat := 2 ^ (tyWidth t - 1)
def vfabsFn : ElemFn := fun t a _ _ => a % signBit t
def vfnegFn : ElemFn := fun t a _ _ => a ^^^ signBit t
def vfcsgnFn : ElemFn := fun t a b _ => a % signBit t + (b / signBit t) * signBit t

/-- Unordered: either operand is NaN (R85). -/
def fUnord (t : Ty) (a b : Nat) : Bool := isNaNV (decodeF (fmtOf t) a) || isNaNV (decodeF (fmtOf t) b)
def fEqual (t : Ty) (a b : Nat) : Bool := !fUnord t a b && valEq (decodeF (fmtOf t) a) (decodeF (fmtOf t) b)
def fLess (t : Ty) (a b : Nat) : Bool := !fUnord t a b && valLt (decodeF (fmtOf t) a) (decodeF (fmtOf t) b)

/-- Launch-global lane number G (R32). -/
def gidOf (l : Launch) (sp : Span) (k : Nat) : Nat := sp.n * lanesOf l + k

/-- Lane integer add. (R73) -/
def execVadd (x : LFields) (s : State) : Res := lane2 x (intFn (fun x y _ => x + y)) s

/-- Lane integer subtract. (R73) -/
def execVsub (x : LFields) (s : State) : Res := lane2 x (intFn (fun x y _ => x - y)) s

/-- Lane saturating add. (R73) -/
def execVadds (x : LFields) (s : State) : Res := lane2 x (satFn (fun x y => x + y)) s

/-- Lane saturating subtract. (R73) -/
def execVsubs (x : LFields) (s : State) : Res := lane2 x (satFn (fun x y => x - y)) s

/-- Lane integer multiply. (R73) -/
def execVmul (x : LFields) (s : State) : Res := lane2 x (intFn (fun x y _ => x * y)) s

/-- Lane high half of product. (R73) -/
def execVmulh (x : LFields) (s : State) : Res := lane2 x (vmulhFn) s

/-- Lane multiply-add with one wrap. (R73) -/
def execVmad (x : LFields) (s : State) : Res := lane3 x (intFn (fun x y z => x * y + z)) s

/-- Lane integer division. (R74) -/
def execVdiv (x : LFields) (s : State) : Res := lane2 x (vdivFn) s

/-- Lane integer remainder. (R74) -/
def execVrem (x : LFields) (s : State) : Res := lane2 x (vremFn) s

/-- Lane integer minimum. (R73) -/
def execVmin (x : LFields) (s : State) : Res := lane2 x (intFn (fun x y _ => min x y)) s

/-- Lane integer maximum. (R73) -/
def execVmax (x : LFields) (s : State) : Res := lane2 x (intFn (fun x y _ => max x y)) s

/-- Lane absolute value. (R73) -/
def execVabs (x : LFields) (s : State) : Res := lane1 x (intFn (fun x _ _ => (x.natAbs : Int))) s

/-- Lane absolute difference. (R73) -/
def execVabsd (x : LFields) (s : State) : Res := lane2 x (intFn (fun x y _ => ((x - y).natAbs : Int))) s

/-- Lane AND. (R75) -/
def execVand (x : LFields) (s : State) : Res := lane2 x (vandFn) s

/-- Lane OR. (R75) -/
def execVor (x : LFields) (s : State) : Res := lane2 x (vorFn) s

/-- Lane XOR. (R75) -/
def execVxor (x : LFields) (s : State) : Res := lane2 x (vxorFn) s

/-- Lane AND NOT. (R75) -/
def execVandn (x : LFields) (s : State) : Res := lane2 x (vandnFn) s

/-- Lane NOT. (R75) -/
def execVnot (x : LFields) (s : State) : Res := lane1 x (vnotFn) s

/-- Lane bitwise select. (R75) -/
def execVsel (x : LFields) (s : State) : Res := lane3 x (vselFn) s

/-- Lane shift left. (R76) -/
def execVshl (x : LFields) (s : State) : Res := lane2 x (vshlFn) s

/-- Lane shift right by type. (R76) -/
def execVshr (x : LFields) (s : State) : Res := lane2 x (vshrFn) s

/-- Lane rotate left. (R76) -/
def execVrotl (x : LFields) (s : State) : Res := lane2 x (vrotlFn) s

/-- Lane count leading zeros. (R76) -/
def execVclz (x : LFields) (s : State) : Res := lane1 x (vclzFn) s

/-- Lane population count. (R76) -/
def execVpopc (x : LFields) (s : State) : Res := lane1 x (vpopcFn) s

/-- Lane bit reverse. (R76) -/
def execVbrev (x : LFields) (s : State) : Res := lane1 x (vbrevFn) s

/-- Lane equal compare into a scalar mask. (R78) -/
def execVceq (x : LFields) (s : State) : Res := laneCmp x (fun _ a b => a == b) s

/-- Lane not-equal compare. (R78) -/
def execVcne (x : LFields) (s : State) : Res := laneCmp x (fun _ a b => a != b) s

/-- Lane less-than compare. (R78) -/
def execVclt (x : LFields) (s : State) : Res := laneCmp x (fun t a b => decide (elemInt t a < elemInt t b)) s

/-- Lane less-or-equal compare. (R78) -/
def execVcle (x : LFields) (s : State) : Res := laneCmp x (fun t a b => decide (elemInt t a ≤ elemInt t b)) s

/-- Lane greater-than compare. (R78) -/
def execVcgt (x : LFields) (s : State) : Res := laneCmp x (fun t a b => decide (elemInt t b < elemInt t a)) s

/-- Lane greater-or-equal compare. (R78) -/
def execVcge (x : LFields) (s : State) : Res := laneCmp x (fun t a b => decide (elemInt t b ≤ elemInt t a)) s

/-- Lane move keeping all bits. (R77) -/
def execVmov (x : LFields) (s : State) : Res :=
  lanePass s (srcB x) (dstV x) none fun sp _ =>
    let ty := tyOfCode x.ty.toNat
    commitL s ((passLanes s).foldl (fun acc l => vLaneWrite acc x.vd.toNat l (wideTy x.ty) (opndB sp ty x l)) sp)

/-- Write each lane's index. (R77) -/
def execVlane (x : LFields) (s : State) : Res :=
  lanePass s [] [x.vd.toNat] none fun sp _ =>
    commitL s ((passLanes s).foldl (fun acc l => vWrite acc x.vd.toNat l (BitVec.ofNat 32 l)) sp)

/-- Write each lane's launch-global lane number into a pair. (R77) -/
def execVgid (x : LFields) (s : State) : Res :=
  lanePass s [] (regSpan x.vd 2) none fun sp l =>
    commitL s ((passLanes s).foldl (fun acc k => vLaneWrite acc x.vd.toNat k true (gidOf l sp k)) sp)

/-- Lane FP add rounded once. (R80) -/
def execVfadd (x : LFields) (s : State) : Res := lane2 x (fpFn x (fun f r a b _ => fAdd f r a b)) s

/-- Lane FP subtract. (R80) -/
def execVfsub (x : LFields) (s : State) : Res := lane2 x (fpFn x (fun f r a b _ => fSub f r a b)) s

/-- Lane FP multiply. (R80) -/
def execVfmul (x : LFields) (s : State) : Res := lane2 x (fpFn x (fun f r a b _ => fMul f r a b)) s

/-- Lane fused multiply-add. (R80) -/
def execVfma (x : LFields) (s : State) : Res := lane3 x (fpFn x fFma) s

/-- Lane fused multiply-subtract. (R80) -/
def execVfms (x : LFields) (s : State) : Res := lane3 x (fpFn x fFms) s

/-- Lane negated fused multiply-add. (R80) -/
def execVfnma (x : LFields) (s : State) : Res := lane3 x (fpFn x fFnma) s

/-- Lane IEEE minimum. (R81) -/
def execVfmin (x : LFields) (s : State) : Res := lane2 x (fpFn x (fun f _ a b _ => fMinMax false f a b)) s

/-- Lane IEEE maximum. (R81) -/
def execVfmax (x : LFields) (s : State) : Res := lane2 x (fpFn x (fun f _ a b _ => fMinMax true f a b)) s

/-- Lane correctly rounded division. (R82) -/
def execVfdiv (x : LFields) (s : State) : Res := lane2 x (fpFn x (fun f r a b _ => fDiv f r a b)) s

/-- Lane correctly rounded square root. (R82) -/
def execVfsqrt (x : LFields) (s : State) : Res := lane1 x (fpFn x (fun f r a _ _ => fSqrt f r a)) s

/-- Lane correctly rounded 2^x. (R83) -/
def execVexp2 (x : LFields) (s : State) : Res := lane1 x (fpFn x (fun f r a _ _ => fExp2 f r a)) s

/-- Lane correctly rounded log2. (R83) -/
def execVlog2 (x : LFields) (s : State) : Res := lane1 x (fpFn x (fun f r a _ _ => fLog2 f r a)) s

/-- Lane clear sign bit. (R84) -/
def execVfabs (x : LFields) (s : State) : Res := lane1 x (vfabsFn) s

/-- Lane invert sign bit. (R84) -/
def execVfneg (x : LFields) (s : State) : Res := lane1 x (vfnegFn) s

/-- Lane copy sign. (R84) -/
def execVfcsgn (x : LFields) (s : State) : Res := lane2 x (vfcsgnFn) s

/-- Lane FP ordered equal compare. (R85) -/
def execVfceq (x : LFields) (s : State) : Res := laneCmp x (fun t a b => fEqual t a b) s

/-- Lane FP unordered-or-not-equal compare. (R85) -/
def execVfcne (x : LFields) (s : State) : Res := laneCmp x (fun t a b => !fEqual t a b) s

/-- Lane FP ordered less compare. (R85) -/
def execVfclt (x : LFields) (s : State) : Res := laneCmp x (fun t a b => fLess t a b) s

/-- Lane FP ordered less-or-equal compare. (R85) -/
def execVfcle (x : LFields) (s : State) : Res := laneCmp x (fun t a b => fLess t a b || fEqual t a b) s

/-- Lane FP unordered compare. (R85) -/
def execVfcun (x : LFields) (s : State) : Res := laneCmp x (fun t a b => fUnord t a b) s

end Sys2Proof.Machine
end

