-- ==== Sys2Proof/Machine/LaneConv.lean ====
section
/-! DEFINITION. Conversions, block packs and unpacks, random bits: R94 to R101, with format slots (R22) and exponent
histograms (R24, R25). -/

namespace Sys2Proof.Machine
open Sys2Proof

/-! ### Format slots (R22) -/

def fslotOf (l : Launch) (k : Nat) : BitVec 128 := l.fslots.getD k 0
def fsSeed (f : BitVec 128) : Nat := (f.extractLsb' 64 64).toNat
def fsA (f : BitVec 128) : Nat := (f.extractLsb' 60 4).toNat
def fsB (f : BitVec 128) : Nat := (f.extractLsb' 56 4).toNat
def fsScale (f : BitVec 128) : Nat := (f.extractLsb' 53 3).toNat
def fsBlk (f : BitVec 128) : Nat := (f.extractLsb' 48 5).toNat
def fsRm (f : BitVec 128) : Nat := (f.extractLsb' 45 3).toNat
def fsE5 (f : BitVec 128) : Bool := f.getLsbD 44
def fsF4xOff (f : BitVec 128) : Bool := f.getLsbD 43
def fsHdef (f : BitVec 128) : Nat := (f.extractLsb' 40 3).toNat
def fsHen (f : BitVec 128) : Bool := f.getLsbD 39

/-- The effective rounding code: 0b111 takes the slot's default (R16). -/
def effRm (rm : Nat) (f : BitVec 128) : Nat := if rm = 7 then fsRm f else rm
def stochastic (rm : Nat) : Bool := rm == 5 || rm == 6

/-! ### Exponent histograms (R24, R25) -/

def histOf (s : State) (g t : Nat) : Hist := mapGet ⟨[], 0⟩ (coreOf s g).hist t
def putHist (s : State) (g t : Nat) (h : Hist) : State :=
  let c := coreOf s g
  putCore s g { c with hist := mapPut c.hist t h }
/-- One increment; a bin stops at 0xFFFF_FFFF (R25). -/
def histAdd (h : Hist) (x : FVal) : Hist :=
  let b := histBin h.bias x
  { h with bins := mapSet 0 h.bins b (min (mapGet 0 h.bins b + 1) 0xFFFFFFFF) }
/-- Count source values into the table, if one is chosen (R97). -/
def histCount (s : State) (g : Nat) (t : Option Nat) (xs : List FVal) : State :=
  match t with
  | none => s
  | some t => putHist s g t (xs.foldl histAdd (histOf s g t))
/-- The table that an L-word counts into: its control word, or the slot's default (R62, R94). -/
def histChoice (x : LFields) (f : BitVec 128) : Option Nat :=
  if x.mod = 1 then (if x.p2.getLsbD 3 then some (x.p2.extractLsb' 0 3).toNat else none)
  else if fsHen f then some (fsHdef f) else none

/-! ### Element-wise conversions (R95, R96) -/

/-- The stream source (R96). -/
def srcStream (x : LFields) : List Source := if x.bcls = 1 then [.s x.vb.toNat (feB x)] else []
def streamOf (sp : Span) (x : LFields) : Nat := if x.bcls = 1 then (lRead sp x.vb.toNat).toNat % 2 ^ 32 else 0

/-- One element converted (R95): type codes of source and destination, index G·E + e. -/
def convElem (f : BitVec 128) (rm stream idx : Nat) (code : Nat) : Nat :=
  encodeTy (tyOfCode (fsB f)) (rmOf rm (fsSeed f) stream idx) (fsE5 f) (decodeTy (tyOfCode (fsA f)) code)

/-- The checks of a conversion that its slot decides, before its first pass (R94, R96); then `k`. -/
def convPass (x : LFields) (suits : BitVec 128 → Bool) (nsrc ndst : BitVec 128 → Nat) (evenA evenD : BitVec 128 → Bool)
    (s : State) (k : Span → Launch → BitVec 128 → Res) : Res :=
  withLaunch s fun sp l =>
    let f := fslotOf l x.fs.toNat
    if !suits f || (stochastic (effRm x.rm.toNat f) && x.bcls != 1) || (evenA f && x.va.getLsbD 0) ||
        (evenD f && x.vd.getLsbD 0) then trapL s sp l causeIllegal s.cur.mask 0
    else lanePass s ([.v (regSpan x.va (nsrc f)) (feA x)] ++ srcStream x) (regSpan x.vd (ndst f)) none fun sp l => k sp l f

def wA (f : BitVec 128) : Nat := tyWidth (tyOfCode (fsA f))
def wB (f : BitVec 128) : Nat := tyWidth (tyOfCode (fsB f))
def convTypes (f : BitVec 128) : Bool := decide (fsA f ≤ 13) && decide (fsB f ≤ 13)

/-- One pass of a conversion: `src` lists a lane's source codes in element order (R95, R97). -/
def convert (x : LFields) (f : BitVec 128) (E : Nat) (src : Span → Nat → List Nat) (s : State) (sp : Span) (l : Launch) : Res :=
  let rm := effRm x.rm.toNat f
  let stream := streamOf sp x
  let s' := histCount s sp.core (histChoice x f)
    ((passLanes s).flatMap (fun k => (src sp k).map (decodeTy (tyOfCode (fsA f)))))
  commitL s' ((passLanes s).foldl (fun acc k =>
    let codes := (src sp k).zipIdx.map (fun p => convElem f rm stream ((gidOf l sp k * E + p.2) % 2 ^ 64) p.1)
    vLaneWrite acc x.vd.toNat k (wB f == 64) (ofElems (wB f) codes)) sp)

/-- Elements per lane of `vcvt` (R95). -/
def cvtCount (f : BitVec 128) : Nat := if wA f = 64 ∨ wB f = 64 then 1 else 32 / max (wA f) (wB f)

/-- A pack (R98, R99): blocks of four lanes; a lane outside m gives +0 and keeps its registers; a block with no lane in
m is not formed. `enc` encodes a block and answers how a lane's registers are written. -/
def packBlocks (x : LFields) (f : BitVec 128) (s : State) (sp : Span) (l : Launch)
    (enc : (Nat → Rm) → List FVal → Span → Nat → Nat → Span) : Res :=
  let rm := effRm x.rm.toNat f
  let stream := streamOf sp x
  let formed := (List.range (lanesOf l / 4)).filter (fun b => (List.range 4).any (fun q => s.cur.mask.getLsbD (4 * b + q)))
  let vals := fun b => (List.range 32).map (fun i =>
    if s.cur.mask.getLsbD (4 * b + i / 8) then decodeF fmtF32 (vRead sp (x.va.toNat + i % 8) (4 * b + i / 8)).toNat
    else .fin false 0 0)
  let s' := histCount s sp.core (histChoice x f) (formed.flatMap vals)
  commitL s' (formed.foldl (fun acc b =>
    let rms := fun i => rmOf rm (fsSeed f) stream ((gidOf l sp (4 * b + i / 8) * 8 + i % 8) % 2 ^ 64)
    let w := enc rms (vals b)
    (List.range 4).foldl (fun acc q => if s.cur.mask.getLsbD (4 * b + q) then w acc (4 * b + q) q else acc) acc) sp)

/-- An unpack (R100): eight elements of each lane, sources read before any destination is written. A stream that it names is
not used (R94, R96). -/
def unpack (x : LFields) (suits : BitVec 128 → Bool) (nsrc : Nat) (elem : BitVec 128 → Span → Nat → Nat → Nat) (s : State) : Res :=
  withLaunch s fun sp l =>
    let f := fslotOf l x.fs.toNat
    if !suits f then trapL s sp l causeIllegal s.cur.mask 0
    else lanePass s ([.v (regSpan x.va nsrc) (feA x)] ++ srcStream x) (regSpan x.vd 8) none fun sp _ =>
      commitL s ((passLanes s).foldl (fun acc k =>
        (List.range 8).foldl (fun acc e => vWrite acc (x.vd.toNat + e) k (BitVec.ofNat 32 (elem f sp k e))) acc) sp)

/-- Lane element-wise conversion through a format slot. (R95) -/
def execVcvt (x : LFields) (s : State) : Res :=
  convPass x convTypes (fun f => if wA f = 64 then 2 else 1) (fun f => if wB f = 64 then 2 else 1)
    (fun f => wA f == 64) (fun f => wB f == 64) s fun sp l f =>
    convert x f (cvtCount f) (fun sp k => (List.range (cvtCount f)).map (elemOf (wA f) (vLane sp x.va.toNat k (wA f == 64)))) s sp l

/-- Lane narrowing packing conversion. (R95) -/
def execVcvtp (x : LFields) (s : State) : Res :=
  convPass x (fun f => convTypes f && decide (wB f < wA f) && decide (wA f ≤ 32)) (fun f => wA f / wB f) (fun _ => 1)
    (fun _ => false) (fun _ => false) s fun sp l f =>
    let per := 32 / wA f
    convert x f (32 / wB f) (fun sp k => (List.range (32 / wB f)).map (fun n =>
      elemOf (wA f) (vRead sp (x.va.toNat + n / per) k).toNat (n % per))) s sp l

/-- Lane widening unpacking conversion of one part. (R95) -/
def execVcvtu (x : LFields) (s : State) : Res :=
  let part := (x.p2.extractLsb' 4 2).toNat
  convPass x (fun f => convTypes f && decide (wA f < wB f) && decide (wB f ≤ 32) && decide (part < wB f / wA f))
    (fun _ => 1) (fun _ => 1) (fun _ => false) (fun _ => false) s fun sp l f =>
    let E := 32 / wB f
    convert x f E (fun sp k => (List.range E).map (fun e => elemOf (wA f) (vRead sp x.va.toNat k).toNat (part * E + e))) s sp l

/-- Pack MXFP8 blocks from four lanes each. (R99) -/
def execVmxpack (x : LFields) (s : State) : Res :=
  convPass x (fun f => fsA f == 10 && (fsB f == 12 || fsB f == 13) && fsScale f == 1 && fsBlk f == 5) (fun _ => 8) (fun _ => 3)
    (fun _ => false) (fun _ => false) s fun sp l f =>
    packBlocks x f s sp l (fun rms xs =>
      let r := mxEncode (tyOfCode (fsB f)) (fsE5 f) rms xs
      fun acc k q =>
        let codes := (List.range 8).map (fun e => r.1.getD (8 * q + e) 0)
        vWrite (vLaneWrite acc x.vd.toNat k true (ofElems 8 codes)) (x.vd.toNat + 2) k (BitVec.ofNat 32 r.2))

/-- Unpack MXFP8 codes to FP32 per lane. (R100) -/
def execVmxunpk (x : LFields) (s : State) : Res :=
  unpack x (fun f => (fsA f == 12 || fsA f == 13) && fsB f == 10 && fsScale f == 1 && fsBlk f == 5) 3 (fun f sp k e =>
    mxDecode (tyOfCode (fsA f)) ((vRead sp (x.va.toNat + 2) k).toNat % 256) (elemOf 8 (vLane sp x.va.toNat k true) e)) s

/-- Pack F4X blocks from four lanes each. (R99) -/
def execVf4pack (x : LFields) (s : State) : Res :=
  convPass x (fun f => fsA f == 10 && fsB f == 14 && fsScale f == 1 && fsBlk f == 5) (fun _ => 8) (fun _ => 2)
    (fun _ => false) (fun _ => false) s fun sp l f =>
    packBlocks x f s sp l (fun rms xs =>
      let r := f4xEncode (fsF4xOff f) rms xs
      fun acc k q =>
        let codes := (List.range 8).map (fun e => r.1.getD (8 * q + e) 0)
        vWrite (vWrite acc x.vd.toNat k (BitVec.ofNat 32 (ofElems 4 codes))) (x.vd.toNat + 1) k
          (BitVec.ofNat 32 (r.2.1 + 256 * r.2.2)))

/-- Unpack F4X codes to FP32 per lane. (R100) -/
def execVf4unpk (x : LFields) (s : State) : Res :=
  unpack x (fun f => fsA f == 14 && fsB f == 10 && fsScale f == 1 && fsBlk f == 5) 2 (fun _ sp k e =>
    let t := (vRead sp (x.va.toNat + 1) k).toNat
    f4xDecode (t % 256) (t / 256 % 256) (elemOf 4 (vRead sp x.va.toNat k).toNat e)) s

/-- Write H random bits per lane. (R101) -/
def execVrnd (x : LFields) (s : State) : Res :=
  lanePass s ([.v (regSpan x.va 2) (feA x)] ++ srcStream x) [x.vd.toNat] none fun sp l =>
    let f := fslotOf l x.fs.toNat
    commitL s ((passLanes s).foldl (fun acc k =>
      vWrite acc x.vd.toNat k (BitVec.ofNat 32 (hash (fsSeed f) (streamOf sp x) (vLane sp x.va.toNat k true)))) sp)

end Sys2Proof.Machine
end

