-- ==== Sys2Proof/Machine/Sync.lean ====
section
/-! DEFINITION. `fence`, sync objects and bindings: R252, R253, R255, R267 to R272. -/

namespace Sys2Proof.Machine
open Sys2Proof

/-- Order the span's accesses at a scope. (R255) -/
def execFence (scope : BitVec 3) (s : State) : Res :=
  withLaunch s fun sp l =>
    let u := s.cur.uid
    if scope = 0 ∨ scope = 6 ∨ scope = 7 then trapS s sp l causeIllegal sp.am 0
    -- it adds nothing to what such a launch sees, but closes the core's windows (R219)
    else if l.det then commitS (if 2 ≤ scope.toNat then closeWindows s sp.core (fun _ => true) else s) sp
    else if s.loads.any (fun p => p.2.uid == u) then stall s
    else if scope = 5 ∧ spanColls s sp then stall s
    else afterStores s sp scope.toNat fun s =>
      let wide := decide (2 ≤ scope.toNat)
      commitS (orderFence (acquireDrop s sp.core wide) u sp.core scope.toNat) { acquired s sp wide with acqAt := sp.acqAt }

/-! ### Sync objects -/

/-- The check of an object address, that of R262 but for the windows and the counted line (R268). -/
def checkObj (s : State) (sp : Span) (l : Launch) (a : Nat) : State × LaneChk :=
  if a % 16 ≠ 0 then (s, .bad causeMisaligned)
  else if vaTop ≤ a ∨ inLocal a ∨ inQuad a then (s, .bad causePageFault)
  else match xlate s sp l a 1 with
    | .wait s => (s, .wait)
    | .fail => (s, .bad causePageFault)
    | .ok pa bar => (s, if !isHbm pa then .bad causePageFault else if bar then .bad causeBarrier else .ok (.phys pa))

/-- The regions bound to an object now (R271). -/
def boundTo (sp : Span) (l : Launch) (obj : Word64) : List (Nat × Nat) :=
  ((l.regions ++ sp.binds).filter (fun b => b.obj == obj)).map (fun b => (b.base, b.len))

/-- A line overlaps one of the ranges. -/
def lineIn (rs : List (Nat × Nat)) (va : Nat) : Bool :=
  rs.any (fun r => decide (va < r.1 + r.2) && decide (r.1 < va + 128))

/-- Read a sync object's version as an acquire. (R253, R269) -/
def execAcq (d a : BitVec 6) (scope : BitVec 3) (s : State) : Res :=
  withLaunch s fun sp l => needS s sp [a.toNat, d.toNat]
    (let u := s.cur.uid
     let obj := sRead sp a.toNat
     if scope = 0 ∨ scope = 6 ∨ scope = 7 then trapS s sp l causeIllegal sp.am 0
     else afterAcquire s sp (match checkObj s sp l obj.toNat with
       | (s, .wait) => .next s
       | (s, .bad c) => trapS s sp l c sp.am obj.toNat
       | (s, .ok (.phys pa)) =>
         let dest := if d = 63 then Dest.none else Dest.s d.toNat
         if l.det then
           let r := newLoad s { mkLoad u dest 8 false [⟨0, pa, some (viewRead s sp l obj.toNat pa 8)⟩] 0 with
             poison := viewBad s sp obj.toNat pa 8 }
           let a := detAcquire r.1 sp scope.toNat s.uses
           commitS a.1 (markDest a.2 dest)
         else
           let line := [(pa / 128, obj.toNat / 128 * 128)]
           let s := flushLines s sp.core u .unc line
           let lr : List LaneRead := [⟨0, pa, none⟩]
           if !mayAsk s sp .unc line || loadAhead s sp .unc 8 lr then .next s
           else
             let rs := boundTo sp l obj
             let wide := decide (2 ≤ scope.toNat)
             -- the bound copies leave, and every window closes (R219, R253)
             let s := if wide then dropLines s sp.core (fun x => x.vas.any (lineIn rs)) else s
             let r := newLoad s (mkLoad u dest 8 false lr 1)
             let s := line.foldl (fun t x => askLine t sp u r.2 .unc 0 l.number x) r.1
             commitS s { markDest sp dest with acquiring := some ⟨r.2, scope.toNat, wide, rs, some pa⟩ }
       | (s, _) => stall s))

/-- Release a sync object: the check at its home, then the marker that covers the writes to the bound regions. (R252,
R265, R270) -/
def execRel (a : BitVec 6) (scope : BitVec 3) (s : State) : Res :=
  withLaunch s fun sp l => needS s sp [a.toNat]
    (let u := s.cur.uid
     let obj := sRead sp a.toNat
     if scope = 0 ∨ scope = 6 ∨ scope = 7 then trapS s sp l causeIllegal sp.am 0
     else afterAcquire s sp (match sp.pend with
       | .atomic ids =>
         let rs := ids.map (reqOf s)
         if rs.any (fun r => r.stage != .answered) then stall s
         else if rs.any Req.bad then
           takenBack s sp (trapS s sp l causeCounted sp.am obj.toNat)
         else
           let rg := boundTo sp l obj
           let wide := decide (2 ≤ scope.toNat)
           -- the bound dirty lines are written back first (R252)
           let bound := fun (ws : List Writer) => ws.any (fun w => lineIn rg w.va)
           let s := if wide then
               ((coreOf s sp.core).l1.filter (fun x => x.dirty != 0 && bound x.writers)).foldl
                 (fun t x => writeBack t sp.core x.line) s
             else s
           let mine := (unperformed s u).filter (fun i => wide && bound (reqOf s i).writers)
           let cov := mine ++ unread s u (fun _ => true) ++ (s.reqs.filter (fun p =>
             p.2.kind == .atomic && p.2.uid == u && lineIn rg (p.2.va / 128 * 128))).map Prod.fst
           let p := publish s u
           let s := ids.foldl (fun t i => putReq t i { reqOf t i with
             stage := .quad, covered := cov, writers := [writerOf s u sp.core 0 obj.toNat], scope := scope.toNat,
             lost := sp.lost.any (lineIn rg), clock := bindClock p.2 rg }) p.1
           commitS s { sp with pend := .none }
       | _ => match checkObj s sp l obj.toNat with
         | (s, .wait) => .next s
         | (s, .bad c) => trapS s sp l c sp.am obj.toNat
         | (s, .ok (.phys pa)) =>
           if l.det then bufferAll s sp [.rel obj scope.toNat (boundTo sp l obj)] fun sp => commitS s sp
           else if decide (64 ≤ markers s sp.core) then stall s
           else if scope = 5 ∧ spanColls s sp then stall s
           else
             let s := writeBack s sp.core (pa / 128)
             let r := newReq s { Req.init with
               core := sp.core, uid := u, kind := .rel, line := pa / 128, va := obj.toNat, a := pa % 128,
               b := scope.toNat, marker := true, stage := .home, point := undoPoint s.cur sp
               op := sp.colls, tag := sp.deck, c := ctxKey sp.core sp.half }
             pend r.1 sp (.atomic [r.2])
         | (s, _) => stall s))

/-- Add or remove a dynamic region binding. (R272) -/
def execRbind (d a b : BitVec 6) (s : State) : Res :=
  withLaunch s fun sp l => needS s sp [a.toNat, b.toNat, d.toNat]
    (let obj := sRead sp a.toNat
     let base := (sRead sp b.toNat).toNat
     let len := (sRead sp d.toNat).toNat % 2 ^ 40
     if obj.toNat % 16 ≠ 0 ∨ base % 128 ≠ 0 ∨ len % 128 ≠ 0 then trapS s sp l causeMisaligned sp.am obj.toNat
     else match checkObj s sp l obj.toNat with
       | (s, .wait) => .next s
       | (s, .bad c) => trapS s sp l c sp.am obj.toNat
       | (s, .ok _) =>
         if len = 0 then commitS s { sp with binds := sp.binds.filter (fun x => x.obj != obj) }
         else if 8 ≤ sp.binds.length then trapS s sp l causeIllegal sp.am 0
         else commitS s { sp with binds := sp.binds ++ [⟨base, len, obj⟩] })

end Sys2Proof.Machine
end

