-- ==== Sys2Proof/Machine/Home.lean ====
section
/-! DEFINITION. What happens at the homes and at the quad stops, and how values come back: R44, R106, R107, R110, R128,
R167, R191, R217 to R223, R228 to R236, R246, R263, R265, R270, R309, R310, R319, R326 to R328. -/

namespace Sys2Proof.Machine
open Sys2Proof

/-- Run `k` on the request that the event names. -/
def withReq (s : State) (k : Nat → Req → Res) : Res :=
  match mapFind s.reqs s.cur.x.id with
  | some r => k s.cur.x.id r
  | none => .fault .notEnabled

/-! ### The order of arrival (R307, R308) -/

/-- The stop that a request comes from: the quad of its core, or a die's or the front end's own. -/
def stopOf (g : Nat) : Nat := if g < 512 then g / 4 else g

/-- A message to the home that has not arrived, or not been taken; a held release lets others proceed (R229, R265). -/
def onItsWay (r : Req) : Bool :=
  match r.kind with
  | .storeData => true
  | .atomic => r.stage == .home || (r.stage == .quad && !r.marker)
  | .rel => r.stage == .home
  | .storeCheck => r.stage == .home
  | .plain => r.stage == .home
  | .unc => r.stage == .home
  | _ => false

/-- A range of `dropc` that was sent before message `i` still covers the line at `va`. -/
def dropBefore (s : State) (g va i : Nat) : Bool :=
  s.reqs.any (fun p => decide (p.1 < i) && stopOf p.2.core == stopOf g && p.2.kind == .dropc &&
    decide (p.2.va < va / 128 * 128 + 128) && decide (va / 128 * 128 < p.2.a))

/-- Message `i` for a line has not arrived: its way waits, or something that its stop sent to the line before it is still to be taken,
for what one stop sends arrives in the order sent (R229, R307, R308). -/
def sentBefore (s : State) (g va line i : Nat) : Bool :=
  (isHbm (128 * line) && routeWaits s (dieOfCore g) (dieOfPa (128 * line))) ||
  s.reqs.any (fun p => decide (p.1 < i) && p.2.line == line && stopOf p.2.core == stopOf g && onItsWay p.2) ||
  s.merges.any (fun p => decide (p.1 < i) && p.2.line == line && p.2.quad == stopOf g) ||
  dropBefore s g va i

/-- A counted fill of the line is on its way or waits at the home. -/
def fillAbout (s : State) (line : Nat) : Bool :=
  s.merges.any (fun p => p.2.kind == .cfill && p.2.line == line) || fillWaits s line 0

/-- The same of the bytes of a store or an update: the home takes them before a counted fill, which waits for them, and before what
waits behind that (R107, R229, R230). -/
def dataBefore (s : State) (g va line i : Nat) : Bool :=
  if fillAbout s line then
    (isHbm (128 * line) && routeWaits s (dieOfCore g) (dieOfPa (128 * line))) ||
    s.reqs.any (fun p => decide (p.1 < i) && p.2.line == line && stopOf p.2.core == stopOf g && onItsWay p.2 &&
      (p.2.kind == .storeData || p.2.stage == .quad))
  else sentBefore s g va line i

/-! ### Registers of the front end, and writes at the home in the coherence order (R249, R386) -/

/-- A register of R312 by its offset, 0 where it has not been written. -/
def feReg (s : State) (off : Nat) : Word64 := mapGet 0 s.fe.regs off
def qReg (s : State) (i off : Nat) : Nat := (feReg s (0x1000 + 0x40 * i + off)).toNat

/-- A store of another agent than the fabric engine into a die's group table leaves what the entry's group does open (R386). -/
def touchGroups (s : State) (line : Nat) : State :=
  if (List.range 16).any (fun d => let b := (feReg s (0x5100 + 8 * d)).toNat
      b != 0 && decide (b / 128 ≤ line) && decide (line < b / 128 + 1024)) && !s.fab.opens.contains (128 * line) then
    { s with fab := { s.fab with opens := 128 * line :: s.fab.opens } }
  else s

/-- Does a page of the range [lo, hi) of page numbers lie at the physical page, by the tables below `table` (R237)? -/
def mapsPage (s : State) (lo hi page : Nat) : Nat → Nat → Nat → Bool
  | level, table, base => (List.range 512).any (fun i =>
    let v := base + i * 2 ^ (9 * level)
    if v + 2 ^ (9 * level) ≤ lo ∨ hi ≤ v then false
    else
      let e := homeRead s (table + 8 * i) 8
      let ppn := (e >>> 12) % 2 ^ 40
      if !bitAt e 0 ∨ entryBad e level then false
      else if bitAt e 1 then
        decide (ppn ≤ page) && decide (page < ppn + 2 ^ (9 * level)) && decide (lo ≤ v + (page - ppn)) && decide (v + (page - ppn) < hi)
      else match level with
        | 0 => false
        | k + 1 => mapsPage s lo hi page k (ppn * 4096) v)

/-- A store of any other agent that meets the range of a residual object leaves its keys open (R358). -/
def touchResid (s : State) (line : Nat) : State :=
  if s.fab.resid.isEmpty then s
  else { s with fab := { s.fab with resid := s.fab.resid.map (fun o =>
    if mapsPage s (o.va / 4096) (o.va / 4096 + 2 ^ 28) (line / 32) 4 o.root 0 then
      { o with open_ := true, tiles := o.tiles.map (fun x => (x.1, none)) } else o) } }

/-- A line is written at its home: its slice uses it (R228), and a group's entry and the residual objects there are left open
(R358, R386). -/
def lineWritten (s : State) (line : Nat) : State := homeTouch (touchResid (touchGroups s line) line) line

/-- A byte is written at its home where its write stands last in the byte's coherence order (R249); a write without a
writer's mark is ordered after all that is performed. -/
def orderedPut (s : State) (w : Option Writer) (atomic : Bool) (va pa : Nat) (b : Byte) : State :=
  match w with
  | none => homePut s pa b
  | some w =>
    let r := orderWrite s w atomic va pa
    if r.2 then homePut r.1 pa b else r.1

/-- The bytes of one write at the home, little-endian. -/
def orderedBytes (s : State) (w : Option Writer) (atomic : Bool) (va pa : Nat) (l : List Byte) : State :=
  let s := lineWritten s (pa / 128)
  nextStamp (l.zipIdx.foldl (fun t b => orderedPut t w atomic (va + b.2) (pa + b.2) b.1) s)

/-! ### Completion of packets (R316) -/

/-- A packet completes: its record is made, in its place of the completion ring, and waits for the host's grant. -/
def completePkt (s : State) (i status reason value addr : Nat) : State :=
  match mapFind s.fe.pkts i with
  | none => s
  | some p =>
    let slot := mapGet 0 s.fe.ctails p.q
    let size := 2 ^ qReg s p.q 0x08
    let ws : List Word64 := [BitVec.ofNat 64 (p.tag + status * 2 ^ 32 + reason * 2 ^ 40), BitVec.ofNat 64 value,
      BitVec.ofNat 64 addr, BitVec.ofNat 64 p.idx]
    { s with fe := { s.fe with
        pkts := mapDel s.fe.pkts i, ctails := mapPut s.fe.ctails p.q ((slot + 1) % size),
        compl := s.fe.compl ++ [⟨p.q, slot, ws, p.intr⟩],
        fences := (s.fe.fences.map (fun f => (f.1, f.2.filter (fun x => x != i)))).filter (fun f => !f.2.isEmpty) } }

/-- The waiter bit of an object, bit `k` of word 0x08 (R267), and its setting by the front end or a fabric processor, as an atomic
update of the byte (R244, R249). -/
def waiterBit (s : State) (pa k : Nat) : Bool := bitAt (homeRead s (pa + 8) 8) k
def setWaiter (s : State) (w : Writer) (pa k : Nat) (v : Bool) : State :=
  let x := homeRead s (pa + 8) 1
  if v == bitAt x k then s
  else orderedBytes s (some w) true (pa + 8) (pa + 8) (natToBytes 1 (if v then x + 2 ^ k else x - 2 ^ k))

/-- The host-waiter bit of an object goes once no packet of this package waits on it (R318). -/
def clearHostWaiter (s : State) (pa : Nat) : State :=
  if waiterBit s pa 0 && !s.fe.pkts.any (fun p => p.2.op == 4 && p.2.c == pa) then setWaiter s (hostWriter s) pa 0 false else s

/-- The waiting ACQUIRE packets on an object are checked against its version word; one that completes OK is an acquire of the
host (R248, R318). -/
def checkAcquires (s : State) (pa : Nat) : State :=
  let v := homeRead s pa 8
  clearHostWaiter ((s.fe.pkts.filter (fun p => p.2.op == 4 && p.2.c == pa)).foldl (fun t p =>
    if 2 ^ 63 ≤ v then completePkt t p.1 3 0 v 0
    else if p.2.b ≤ v then acquireFrom (completePkt t p.1 0 0 v 0) hostAgent hostPort 4 (relKey pa) v none else t) s) pa

/-! ### Loads come back -/

/-- The writers of the core's own bytes of a line, dirty or on their way. -/
def nearWriters (s : State) (g line : Nat) : List Writer :=
  ((s.reqs.filter (fun p => p.2.core == g && p.2.kind == .storeData && p.2.line == line)).flatMap (fun p => p.2.writers)) ++
  (match l1Find (coreOf s g) line with
    | some x => x.writers
    | none => [])

/-- The core's own bytes of a line hold an uncorrectable error (R326, R328). -/
def nearBad (s : State) (g line : Nat) : Bool :=
  s.reqs.any (fun p => p.2.core == g && p.2.kind == .storeData && p.2.line == line && p.2.poison) ||
  (l1Find (coreOf s g) line).any (fun x => x.poison && x.dirty != 0)

/-- A line's data reaches a load: the lanes that read it have their values, and their span has read past the fences before
them (R255); `own` are the writers of bytes that are the core's own. A read at the home makes older copies too old (R250). -/
def serveLoad (s : State) (i line : Nat) (data : Line) (poison home : Bool) (own : List Writer) : State :=
  match mapFind s.loads i with
  | none => s
  | some ld =>
    let near := own.foldl (fun m w => m ||| w.mask) 0
    let marks := lineMarks s line
    let s := ld.lanes.foldl (fun t x => if x.pa / 128 = line ∧ x.got.isNone then
        let m := bytesMask x.pa ld.width
        seeMarks t ld.uid (marksAt marks (m &&& ~~~ near) ++ writerMarks ld.uid own m) else t) s
    let s := if home then raiseFloorOf s ld.uid line else s
    putLoad s i { ld with
      waits := ld.waits - 1, poison := ld.poison || poison,
      lanes := ld.lanes.map (fun x => if x.pa / 128 = line ∧ x.got.isNone then
        { x with got := some ((data.toNat >>> (8 * (x.pa % 128))) % 2 ^ (8 * ld.width)) } else x) }

/-- Value of a load for a scalar register: one access extended, or the words of a pop in order (R124, R127). -/
def loadValue (ld : Load) : Nat :=
  match ld.lanes with
  | [x] => extendTo ld.width ld.signed (x.got.getD 0)
  | l => (l.zipIdx).foldl (fun r x => r + (x.1.got.getD 0) * 2 ^ (8 * ld.width * x.2)) 0

/-- The vector registers of a destination. -/
def destRegs : Dest → List Nat
  | .v r pair => if pair then [r, r + 1] else [r]
  | _ => []

/-- A load's value is written to its destination, each register of which fills once no other access to it is outstanding
(R44, R144). -/
def fillDest (s : State) (sp : Span) (i : Nat) (ld : Load) : Span :=
  match ld.dest with
  | .none => sp
  | .s r => sFill sp r (BitVec.ofNat 64 (loadValue ld))
  | .v r pair =>
    let sp := ld.lanes.foldl (fun t x => vLaneWrite t r x.lane pair (extendTo ld.width ld.signed (x.got.getD 0))) sp
    (destRegs ld.dest).foldl (fun t k =>
      if s.loads.any (fun p => p.1 != i && p.2.uid == ld.uid && (destRegs p.2.dest).contains k) then t else vMarkFull t k) sp

/-- An acquire of a span has its value: an atomic's drops the core's copies at `.quad` or wider (R254); after an `acq`, whose
copies left at its commit, older ones of the bound ranges are not for the span any more (R253). -/
def endAcquire (s : State) (sp : Span) (ld : Load) (a : Acquire) : State :=
  let u := ld.uid
  match a.obj with
  | none => let s := acquireDrop s sp.core a.wide
    putSpan s u (acquired s sp a.wide)
  | some pa =>
    let v := (ld.lanes.head?.bind LaneRead.got).getD 0
    -- a version with the poison bit synchronises with no data (R270)
    let s := if 2 ^ 63 ≤ v then s else acquireFrom s u sp.core a.scope (relKey pa) v (some a.ranges)
    let sp1 := acquired (nextUse s) sp false
    let old := sp1.bounds.filter (fun b => !a.ranges.any (fun r => r.1 == b.1 && r.2 == b.2.1))
    putSpan (nextUse s) u { sp1 with
      bounds := if a.wide then a.ranges.map (fun r => (r.1, r.2, s.ord.stamp)) ++ old else sp1.bounds }

/-- Arrival of a load, pop, atomic or `hrd` value filling its register. (R35, R44, R46, R326) -/
def execLoadFill (s : State) : Res :=
  let i := s.cur.x.id
  match mapFind s.loads i with
  | none => .fault .notEnabled
  | some ld => match spanOf s ld.uid with
    | none => .next { s with loads := mapDel s.loads i }
    | some sp =>
      if ld.waits ≠ 0 ∨ ld.lanes.any (fun x => x.got.isNone) ∨ sp.pend = .consume i then .fault .notEnabled
      else
        let s1 := { s with loads := mapDel s.loads i }
        if sp.live = 0 then .next (finishSpan s1 ld.uid)
        -- a load without a destination delivers nothing, and consumes nothing (R326; log 62)
        else if ld.poison ∧ ld.dest ≠ .none then .next (haltWith s1 ld.uid 0 noteAbandoned ((ld.lanes.head?.map LaneRead.pa).getD 0))
        else
          let sp := fillDest s sp i ld
          match sp.acquiring with
          | some a =>
            if a.load = i then .next (endAcquire s1 { sp with acquiring := none } ld a)
            else .next (putSpan s1 ld.uid sp)
          | none => .next (putSpan s1 ld.uid sp)

/-- The span's context is the active one and no swap is in progress (R114, R203). -/
def ctxActive (s : State) (u : Nat) : Bool :=
  match spanOf s u with
  | some sp => (coreOf s sp.core).active == sp.half && (coreOf s sp.core).swap.isNone
  | none => false

/-- Waiting FIFO pop takes its words once they are present: the oldest pop of bank `a` of core `core`. (R110, R114) -/
def execFifoPopFill (s : State) : Res :=
  let g := s.cur.x.core
  let p := s.cur.x.a
  let b := bankOf (coreOf s g) p
  match firstPop s g p with
  | none => .fault .notEnabled
  | some (i, ld) =>
    if b.mode ≠ .fifo ∨ b.ring.length < ld.lanes.length ∨ !ctxActive s ld.uid then .fault .notEnabled
    else .next (takeWords s g p i ld b.ring)

/-- Stalled FIFO push of span `id` appends once there is room. (R110) -/
def execFifoPushResume (s : State) : Res :=
  let u := s.cur.x.id
  match spanOf s u with
  | none => .fault .notEnabled
  | some sp => match sp.pend with
    | .push p words =>
      let b := bankOf (coreOf s sp.core) p
      if b.mode ≠ .fifo ∨ !b.switch.isEmpty ∨ !ctxActive s u ∨ fifoRoom < b.ring.length + words.length then .fault .notEnabled
      else
        let s := { s with cur := { s.cur with uid := u, lane := !sp.queue.isEmpty } }
        commit (putBank s sp.core p { b with ring := b.ring ++ words }) { sp with pend := .none }
    | _ => .fault .notEnabled

/-- Landing of an arrival or of bytes on a barrier's image, with what it covers (R256); one that finds valid = 0 is
discarded (R191). -/
def landOn (s : State) (loc : Option BarLoc) (n arrive : Nat) (poison : Bool) (c : Clock) : State :=
  match loc with
  | none => s
  | some loc =>
    let b := readBar s loc
    if !b.valid then s
    else
      let s := coverPhase s (barKey loc) c
      let b := { b with pcur := b.pcur || poison }
      writeBar s loc (if arrive = 0 then barLand b n poison else barArrive b arrive)

/-- A landing on a barrier of a deck: a deterministic launch's is seen by its deck, and by others from the next phase on
(R299). -/
def landDeck (s : State) (deck core : Nat) (addr : Word64) (n arrive : Nat) (poison : Bool) (c : Clock) : State :=
  let loc := barLocOf s deck core addr
  let land := fun t => landOn t loc n arrive poison c
  match loc, (deckOf s deck).bind (fun d => mapFind s.launches d.launch) with
  | some p, some l =>
    if l.det then
      match onDeckBar s l deck addr.toNat p (fun t => .ok (land t)) with
      | .ok t => t
      | .bad => s
    else land s
  | _, _ => land s

/-- A bank's oldest switch completes and lands one arrival: bank `a` of core `core`. (R167, R168, R256) -/
def execBankSwitchComplete (s : State) : Res :=
  let g := s.cur.x.core
  let p := s.cur.x.a
  let b := bankOf (coreOf s g) p
  match b.switch with
  | [] => .fault .notEnabled
  | w :: r =>
    if !w.fence.all (isPerformed s) ∨ wayShut s g (barLocOf s w.deck g w.bar) then .fault .notEnabled
    else .next (landDeck (putBank s g p { b with switch := r }) w.deck g w.bar 0 1 false w.clock)

/-- The plain window of request `id` closes 32 cycles after its fill. (R219) -/
def execPlainWindowExpire (s : State) : Res :=
  withReq s fun i r => match r.filled with
    | some t => if r.kind = .plain ∧ t + 32 ≤ s.cycle then .next (delReq s i) else .fault .notEnabled
    | none => .fault .notEnabled

/-- Dirty bytes of line `a` of core `core` go back 4,096 cycles after the first became dirty. (R246) -/
def execDirtyLineWriteback (s : State) : Res :=
  let g := s.cur.x.core
  match l1Find (coreOf s g) s.cur.x.a with
  | some x => if x.dirty ≠ 0 ∧ x.since + 4096 ≤ s.cycle then .next (writeBack s g x.line) else .fault .notEnabled
  | none => .fault .notEnabled

/-! ### The quad stop (R221, R222) -/

def quadOf (g : Nat) : Nat := g / 4

/-- A request arrives at its quad stop and joins a merge entry, or takes one of the 512; request `id`. (R221) -/
def execQuadMergeRequest (s : State) : Res :=
  withReq s fun i r =>
    if r.stage ≠ .core then .fault .notEnabled
    else
      let q := quadOf r.core
      let join := if r.kind = .cfill ∨ r.marker then none
        else s.merges.find? (fun p => p.2.quad == q && p.2.kind == r.kind && p.2.line == r.line && p.2.joinable &&
          (r.kind != .cons ||
            decide ((p.2.reqs.map (fun j => (reqOf s j).loads.length)).sum + r.loads.length ≤ 255)))
      match join with
      | some (m, e) =>
        .next { putReq (nextUse s) i { r with stage := .quad, left := s.uses } with
          merges := mapPut s.merges m { e with reqs := e.reqs ++ [i] } }
      | none =>
        if 512 ≤ (s.merges.filter (fun p => p.2.quad == q)).length then .fault .notEnabled
        else
          let s := putReq (nextUse s) i { r with stage := .quad, left := s.uses }
          .next { s with
            merges := mapPut s.merges s.nextId ⟨q, r.kind, r.line, [i], r.kind != .cfill⟩, nextId := s.nextId + 1 }

/-- Run `k` on the merge entry that the event names. -/
def withMerge (s : State) (k : Nat → Merge → Res) : Res :=
  match mapFind s.merges s.cur.x.id with
  | some m => k s.cur.x.id m
  | none => .fault .notEnabled

/-! ### Reads, consuming accesses and counted fills (R229 to R233) -/

/-- A read is answered to one request: its loads have their data; a plain one fills the core's banks and opens its window
(R163, R219, R246). -/
def answerRead (s : State) (i : Nat) (data : Line) (poison : Bool) : State :=
  let r := reqOf s i
  let plain := decide (r.kind = .plain)
  let seen := if plain then readMerged s r.core r.line data else data
  let near := if plain then nearWriters s r.core r.line else []
  let marks := lineMarks s r.line
  let poison := poison || (plain && nearBad s r.core r.line)
  let s := r.loads.foldl (fun t j => serveLoad t j r.line seen poison (!plain) near) s
  if plain then
    let s := if poison then s else l1Fill s r.core r.line seen r.va marks
    putReq s i { reqOf s i with stage := .answered, filled := some s.cycle, data := seen, poison, marks, stamp := s.ord.stamp }
  else delReq s i

/-- Something that the quad stop sent to the line before merge entry `i` is still to be taken (R307). -/
def mergeBefore (s : State) (i : Nat) (m : Merge) : Bool :=
  m.reqs.any (fun j => sentBefore s (reqOf s j).core (reqOf s j).va m.line i)

/-- Plain or uncached read served at the home, the expander or the host: merge entry `id`, or the request `id` of an
address without a home. (R222, R229, R310) -/
def execHomeRead (s : State) : Res :=
  match mapFind s.merges s.cur.x.id with
  | some m =>
    if (m.kind ≠ .plain ∧ m.kind ≠ .unc) ∨ mergeBefore s s.cur.x.id m ∨ fillWaits s m.line 0 then .fault .notEnabled
    else
      let s := homeTouch s m.line
      let data := homeLine s m.line
      let s := { s with merges := mapDel s.merges s.cur.x.id }
      .next (m.reqs.foldl (fun t i => answerRead t i data (badLine s m.line)) s)
  | none => withReq s fun i r =>
      if (r.kind ≠ .plain ∧ r.kind ≠ .unc) ∨ r.stage ≠ .home ∨ sentBefore s r.core r.va r.line i then .fault .notEnabled
      else .next (answerRead s i (homeLine s r.line) (badLine s r.line))

/-- One consuming access of a load: served while the count lasts (R106, R220, R232). -/
def consumeOne (s : State) (line i : Nat) : State :=
  let h := homeOf s line
  let ok := h.counted && decide (0 < h.count)
  let s := if ok then putHome s line { h with count := h.count - 1, busy := h.busy + 1 } else s
  let s := serveLoad s i line (homeLine s line) (badLine s line) true []
  match mapFind s.loads i with
  | none => if ok then settleLine s line false else s
  | some ld => putLoad s i { ld with served := ld.served ++ [(line, !ok)] }

/-- Consuming accesses of merge entry `id` at their home, in joining order. (R220, R221, R232) -/
def execHomeConsumingAccess (s : State) : Res :=
  withMerge s fun i m =>
    if m.kind ≠ .cons ∨ mergeBefore s i m ∨ fillWaits s m.line 0 then .fault .notEnabled
    else
      let s1 := (m.reqs.flatMap (fun j => (reqOf s j).loads)).foldl (fun t j => consumeOne t m.line j) (homeTouch s m.line)
      let s2 := m.reqs.foldl delReq s1
      .next { s2 with merges := mapDel s2.merges i }

/-- Pinned lines of the set of a line, and entries of its slice's count table (R231). -/
def pinnedIn (s : State) (line : Nat) : Nat :=
  let pa := 128 * line
  (s.lines.filter (fun p => p.2.counted && p.2.pinned && dieOfPa (128 * p.1) == dieOfPa pa &&
    sliceOfPa (128 * p.1) == sliceOfPa pa && setOfPa (128 * p.1) == setOfPa pa)).length
def tableIn (s : State) (line : Nat) : Nat :=
  let pa := 128 * line
  (s.lines.filter (fun p => p.2.counted && !p.2.pinned && dieOfPa (128 * p.1) == dieOfPa pa &&
    sliceOfPa (128 * p.1) == sliceOfPa pa)).length

/-- May a counted fill of the line be placed now (R107, R231)? -/
def fillRoom (s : State) (line : Nat) : Bool :=
  (homeOf s line).counted || decide (pinnedIn s line < 8) || decide (tableIn s line < 4096)

/-- A whole line is written: each byte stands where its write is last in the byte's coherence order (R249). -/
def orderLine (s : State) (w : Writer) (va line : Nat) (old new : Line) : State × Line :=
  let r := (List.range 128).foldl (fun (r : State × Line) k =>
    let o := orderWrite r.1 w false (va + k) (128 * line + k)
    (o.1, if o.2 then lineSet r.2 k (lineByte new k) else r.2)) (s, old)
  (nextStamp r.1, r.2)

/-- A counted fill takes effect (R230): with data and its writer, of a copy or collective, into a line that is not counted;
without, of a load. A full line of data clears the line's error mark (R326). -/
def countedFill (s : State) (line n number : Nat) (data : Option (Line × Writer)) : State :=
  let h := homeOf s line
  let pa := 128 * line
  if h.counted then
    let sum := h.count + n
    let s := putHome s line { h with count := min sum 255, tag := number }
    if 255 < sum then recUnderread s (dieOfPa pa) (sliceOfPa pa) line (sum - 255) 3 h.tag else s
  else
    let r := match data with
      | some (d, w) => orderLine s w w.va line (homeLine s line) d
      | none => (s, homeLine s line)
    let s := if data.isSome then lineWritten r.1 line else homeTouch r.1 line
    let h := homeOf s line
    let h := { h with poison := h.poison && data.isNone, latent := h.latent && data.isNone, below := none,
                      counted := true, count := n, tag := number }
    if pinnedIn s line < 8 then putHome s line { h with pinned := true, data := some r.2 }
    else
      let s := if data.isSome then memWrite s pa (natToBytes 128 r.2.toNat) else s
      putHome s line { h with pinned := false }

/-- The filling load's data, after its fill has taken effect. -/
def fillAnswer (s : State) (i : Nat) (r : Req) : State :=
  let s := countedFill s r.line r.a r.b none
  let data := homeLine s r.line
  let s := r.loads.foldl (fun t j => serveLoad t j r.line data (badLine s r.line) true []) s
  delReq s i

/-- Counted fill at the home: merge entry `id`; it waits there where set and table are full, and while stores, atomics or releases that
have been accepted for the line are to be performed (DESIGN CHOICE, log 86). (R105, R107, R230, R231, R265) -/
def execHomeCountedFill (s : State) : Res :=
  withMerge s fun mi m => match m.kind, m.reqs with
    | .cfill, [i] =>
      let r := reqOf s i
      if 0 < (homeOf s m.line).pend ∨ mergeBefore s mi m ∨ fillWaits s m.line i then .fault .notEnabled
      else
        let s := { s with merges := mapDel s.merges mi }
        if fillRoom s m.line then .next (fillAnswer s i r)
        else .next (putReq s i { r with stage := .home })
    | _, _ => .fault .notEnabled

/-- A waiting counted fill, request `id`, proceeds once a way or a table entry is free. (R231) -/
def execCountedFillWaitEnd (s : State) : Res :=
  withReq s fun i r =>
    if r.kind = .cfill ∧ r.stage = .home ∧ fillRoom s r.line ∧ (homeOf s r.line).pend = 0 ∧
       !s.reqs.any (fun p => decide (p.1 < i) && p.2.kind == .cfill && p.2.stage == .home && p.2.line == r.line) then .next (fillAnswer s i r)
    else .fault .notEnabled

/-! ### The second tier (R310) -/

/-- The port of the interleave set, and the address on its expander, of a second-tier address; and the address that has
them (R310). -/
def tierPort (s : State) (pa : Nat) : Nat := (pa - tierLo) / 4096 % s.mg.tierPorts
def expanderAddr (s : State) (pa : Nat) : Nat := (pa - tierLo) / (4096 * s.mg.tierPorts) * 4096 + (pa - tierLo) % 4096
def expanderPa (s : State) (port a : Nat) : Nat :=
  tierLo + a / 4096 * (4096 * s.mg.tierPorts) + port * 4096 + a % 4096

/-! ### Stores (R107, R246, R309, R310, R328) -/

/-- Store check of request `id` at its line's home. (R107) -/
def execHomeStoreCheck (s : State) : Res :=
  withReq s fun i r =>
    if r.kind ≠ .storeCheck ∨ r.stage ≠ .home ∨ fillWaits s r.line i ∨ sentBefore s r.core r.va r.line i then .fault .notEnabled
    else
      let h := homeOf s r.line
      if h.counted then .next (putReq s i { r with stage := .answered, bad := true })
      else .next (putReq (putHome s r.line { h with pend := h.pend + 1 }) i { r with stage := .answered })

/-! ### Engine queues: when an entry is done (R173, R189) -/

def liveSeqs (c : Ctx) : List Nat := c.queues.flatMap (fun q => q.2.map Cmd.seq)

/-- Markers with nothing left before them are passed (R189). -/
def passMarkers : Nat → Ctx → Ctx
  | 0, c => c
  | k + 1, c =>
    passMarkers k { c with queues := c.queues.map (fun q =>
      (q.1, q.2.filter (fun e => e.kind != .marker || e.fence.any (liveSeqs c).contains))) }

/-- A command whose bytes are all moved leaves its queue once they are performed and its landings are made (R173); what it did is
before what comes after its deck's retirement (R286). -/
def finishCmd (s : State) (seq : Nat) : State :=
  match (s.ctxs.flatMap (fun c => c.2.queues.flatMap Prod.snd)).find? (fun e => e.seq == seq && e.done) with
  | none => s
  | some e =>
    if s.lands.any (fun x => x.2.seq == seq) || s.reqs.any (fun p => p.2.kind == .storeData && p.2.tag == seq) then s
    else
      let s := delAgent (handOver s seq e.deck) seq
      { s with ctxs := s.ctxs.map (fun c =>
        if c.2.queues.any (fun q => q.2.any (fun e => e.seq == seq && e.done)) then
          (c.1, passMarkers 96 { c.2 with queues := c.2.queues.map (fun q =>
            (q.1, q.2.filter (fun e => !(e.seq == seq && e.done)))) })
        else c) }

/-- A span remembers a line whose bytes of it were lost, and so does its deck, which may outlive it (R286, R328). -/
def noteLostLine (s : State) (u va : Nat) : State :=
  let s := { s with decks := s.decks.map (fun d => if d.2.uids.contains u then (d.1, { d.2 with lost := true }) else d) }
  match spanOf s u with
  | none => s
  | some sp => putSpan s u { sp with lost := va :: sp.lost }

/-- The spans whose bytes were lost remember the line, each by its own address of it, and the releases that cover the request
(R270, R328). -/
def noteLostWrite (s : State) (i : Nat) (r : Req) : State :=
  let s := { s with reqs := s.reqs.map (fun p => if p.2.covered.contains i then (p.1, { p.2 with lost := true }) else p) }
  let ws := r.writers.map (fun w => (w.agent, w.va))
  (ws ++ (r.by_.filter (fun u => !ws.any (fun w => w.1 == u))).map (fun u => (u, r.va))).foldl (fun t w => noteLostLine t w.1 w.2) s

/-- The dirty bytes that an L2 slice holds of a line are lost: those of the last writer of each, and the releases that still wait and
cover one of them are over a lost write (R252, R270, R328). -/
def loseLine (s : State) (line : Nat) : State :=
  let last := lastWriters s line
  let s := { s with reqs := s.reqs.map (fun p =>
    if p.2.marker && last.any (fun w => knowsEpoch p.2.clock 0 w.va w.agent w.epoch) then (p.1, { p.2 with lost := true }) else p) }
  let s := ((last.map (fun w => (w.agent, w.va / 128 * 128))).dedup).foldl (fun t w => noteLostLine t w.1 w.2) s
  putHome s line { homeOf s line with poison := true, lost := true }

/-- The bytes of a store are performed. -/
def performStore (s : State) (i : Nat) (r : Req) : State :=
  let s := lineWritten (closeWindows (delReq s i) r.core (fun x => x == r.line)) r.line
  let h := homeOf s r.line
  let s := putHome s r.line { h with
    pend := h.pend - r.a,
    poison := if r.poison then true else if r.mask = BitVec.allOnes 128 then false else h.poison,
    lost := r.poison || h.lost,
    latent := h.latent && r.mask != BitVec.allOnes 128 }
  let s := if r.poison then noteLostWrite (recUncorrectable s (dieOfPa (128 * r.line)) 0 0 1 (128 * r.line)) i r
    else nextStamp ((bitsOf r.mask).foldl (fun t k =>
      let w := r.writers.find? (fun w => w.mask.getLsbD k)
      orderedPut t w false ((w.map Writer.va).getD (r.va / 128 * 128) + k) (128 * r.line + k) (lineByte r.data k)) s)
  if r.tag = 0 then s else finishCmd s r.tag

/-- A request of the same span to the same line, sent before `i`, is still to be performed (R265). -/
def orderBefore (s : State) (u line i : Nat) : Bool :=
  s.reqs.any (fun p => decide (p.1 < i) && p.2.uid == u && p.2.line == line && (p.2.kind == .atomic || p.2.kind == .rel))

/-- A store's bytes come after its spans' older atomics on the line (R38, R265). -/
def atomicsBefore (s : State) (r : Req) (i : Nat) : Bool := r.by_.any (fun u => orderBefore s u r.line i)

/-- Store bytes of request `id` performed at the home, or accepted by the host port as a posted write. (R107, R309) -/
def execHomeStoreData (s : State) : Res :=
  withReq s fun i r =>
    if r.kind ≠ .storeData ∨ isTier (128 * r.line) ∨ dataBefore s r.core r.va r.line i ∨ atomicsBefore s r i then .fault .notEnabled
    else
      let s := performStore s i r
      .next (if isHost (128 * r.line) then { s with fe := { s.fe with posted := (r.tag, r.writers) :: s.fe.posted } } else s)

/-- A second-tier expander returns its completion: the store, request `id`, is performed at every scope. (R310) -/
def execExpanderCompletion (s : State) : Res :=
  withReq s fun i r =>
    if r.kind ≠ .storeData ∨ !isTier (128 * r.line) ∨ dataBefore s r.core r.va r.line i ∨ atomicsBefore s r i then
      .fault .notEnabled
    else .next (performStore s i r)

/-- The host's completion for a flushing read: the posted writes before it are at system scope. (R309) -/
def execHostFlushCompletion (s : State) : Res := .next { s with fe := { s.fe with posted := [] } }

/-! ### Atomics and releases (R263, R265, R270, R319, R328) -/

/-- An atomic of acquire ordering synchronises with the releases performed at its address, where what it reads is an atomic's
value (R254). -/
def atomicAcquire (s : State) (r : Req) (pa : Nat) : State :=
  match (spanOf s r.uid).bind Span.acquiring with
  | none => s
  | some a => if r.loads.contains a.load && lastAtomic s pa then acquireFrom s r.uid r.core a.scope (relKey pa) 0 none else s

/-- The undo entry of an atomic or a release, as its home returns the old line (R208). -/
def undoUpdate (s : State) (r : Req) (old : List Byte) : State :=
  match spanOf s r.uid with
  | none => s
  | some sp => match launchOf s sp with
    | none => s
    | some l =>
      if !l.debug then s
      else
        let t := undoEntry s r.uid sp l 3 0 0 r.point (r.va / 128 * 128) sp.ltime old
        putSpan t.1 r.uid t.2
def undoHome (s : State) (r : Req) : State := undoUpdate s r (natToBytes 128 (homeLine s r.line).toNat)

/-- An atomic's old value reaches its load; one that meets an error consumes it, whether its old value is returned or not (log 62). -/
def giveOld (s : State) (r : Req) (old : Nat) (bad : Bool) : State :=
  r.loads.foldl (fun t j => match mapFind t.loads j with
    | none => t
    | some ld => putLoad t j { ld with
        waits := ld.waits - 1, poison := ld.poison || bad, dest := if bad ∧ ld.dest = .none then .s 63 else ld.dest,
        lanes := ld.lanes.map (fun x => if x.lane = r.tag ∧ x.got.isNone then { x with got := some old } else x) }) s

/-- A held release atomic on a scratch word is performed in its bank (R109, R254, R264). -/
def performScratch (s : State) (i : Nat) (r : Req) : State :=
  match r.scratch.bind (fun k => (deckOf s k).map (fun d => (k, d))) with
  | none => delReq s i
  | some (k, d) =>
    let off := r.va - localLo
    let n := r.width / 8
    let old := localRead s d off n
    let bad := localBad s d off n
    let hit := isLocalAtom s d off
    let s := undoUpdate (delReq s i) r (natToBytes 128 (localRead s d (off / 128 * 128) 128))
    let s := seeLocal s d off n r.uid
    let s := match (spanOf s r.uid).bind Span.acquiring with
      | some a => if r.loads.contains a.load && hit then acquireFrom s r.uid r.core a.scope (relKeyLocal k off) 0 none else s
      | none => s
    let s := localWrite s d off (natToBytes n (atomFn r.op r.width old r.b r.c))
    let s := addRelease (localMark (localAtom s d off n) d off n r.uid) (relKeyLocal k off) ⟨0, r.scope, r.core, r.clock⟩
    giveOld s r old bad

/-- The atomic update of request `i` (R263). -/
def performAtomic (s : State) (i : Nat) (r : Req) : State :=
  let pa := 128 * r.line + r.a
  let n := r.width / 8
  let s := undoHome (homeTouch (unhold (delReq s i) r.line) r.line) r
  let old := homeRead s pa n
  let s := atomicAcquire (seeFences s r.uid pa n) r pa
  let s := orderedBytes s r.writers.head? true r.va pa (natToBytes n (atomFn r.op r.width old r.b r.c))
  let s := raiseFloorOf s r.uid r.line
  let s := if r.clock.isEmpty then s else addRelease s (relKey pa) ⟨0, r.scope, r.core, r.clock⟩
  giveOld s r old (badLine s r.line)

/-- A release raises its object's version by one; a covered lost write sets the poison bit; one on an object with a waiter
bit is promoted to the scope of its waiters (R270, R319, R328). -/
def performRel (s : State) (pa : Nat) (poison : Bool) (r : Req) : State :=
  let v := homeRead s pa 8
  let p := if poison ∨ 2 ^ 63 ≤ v then 2 ^ 63 else 0
  let s := orderedBytes s r.writers.head? true r.va pa (natToBytes 8 (p + (v % 2 ^ 63 + 1) % 2 ^ 63))
  let s := raiseFloorOf s r.uid (pa / 128)
  let scope := if waiterBit s pa 1 then 5 else if waiterBit s pa 0 then max 4 r.scope else r.scope
  if r.clock.isEmpty then s else addRelease s (relKey pa) ⟨(v % 2 ^ 63 + 1) % 2 ^ 63, scope, r.core, r.clock⟩

/-- Packages registered at an object get a notice, and the waiting packets of this one are checked (R319, R361). -/
def afterRelease (s : State) (pa va : Nat) : State :=
  let v := homeRead s pa 8
  let s := if waiterBit s pa 1 then
      { s with fab := { s.fab with out := (mapGet [] s.fab.watch pa).map (fun k => (k, va, v)) ++ s.fab.out } }
    else s
  if waiterBit s pa 0 then checkAcquires s pa else s

/-- Atomic request `id`: its check at the home, then its update in the line's order; an update with a release marker is
held for the marker. (R262, R263, R265, R268) -/
def execHomeAtomic (s : State) : Res :=
  withReq s fun i r =>
    if r.kind ≠ .atomic ∧ r.kind ≠ .rel then .fault .notEnabled
    else if r.stage = .home ∧ (fillWaits s r.line i ∨ sentBefore s r.core r.va r.line i) then .fault .notEnabled
    -- what the home accepts holds counted fills of the line until it is performed (R230, R262)
    else if r.stage = .home then
      let h := homeOf s r.line
      if h.counted then .next (putReq s i { r with stage := .answered, bad := true })
      else .next (putReq (putHome s r.line { h with pend := h.pend + 1 }) i { r with stage := .answered })
    else if r.stage ≠ .quad ∨ r.marker ∨ dataBefore s r.core r.va r.line i ∨ orderBefore s r.uid r.line i then
      .fault .notEnabled
    else .next (performAtomic s i r)

/-- Is the write of some bytes one that the release of request `r` covers (R252)? -/
def coversWriter (r : Req) (w : Writer) : Bool := knowsEpoch r.clock 0 w.va w.agent w.epoch

/-- Of a release with a waiter: a covered write is on its way, and, for a host waiter, one is not at system scope; for a remote
waiter, a collective that the span committed before it is not acknowledged (R245, R309, R319). -/
def promoteWaits (s : State) (r : Req) : Bool :=
  let pa := 128 * r.line + r.a
  ((waiterBit s pa 0 || waiterBit s pa 1) && s.reqs.any (fun p => p.2.kind == .storeData && p.2.writers.any (coversWriter r))) ||
  (waiterBit s pa 0 && s.fe.posted.any (fun x => x.2.any (coversWriter r))) ||
  (waiterBit s pa 1 && collsOut s r.tag (r.c / 2) (r.c % 2 == 1) r.op)

/-- The covered bytes that a promoted release finds dirty in its core, by line (R319). -/
def promoteLines (s : State) (r : Req) : List Nat :=
  let pa := 128 * r.line + r.a
  if waiterBit s pa 0 || waiterBit s pa 1 then
    ((coreOf s r.core).l1.filter (fun x => x.dirty != 0 && x.writers.any (coversWriter r))).map L1Line.line
  else []

/-- May a marker of the request be cleared: every covered write is performed (R265). -/
def mayClear (s : State) (i : Nat) (r : Req) : Bool :=
  (r.kind == .atomic || r.kind == .rel) && r.marker && r.stage == .quad && r.covered.all (isPerformed s) &&
  (r.scratch.isSome || !dataBefore s r.core r.va r.line i) && !orderBefore s r.uid r.line i

/-- A release that would be over a lost write is not performed, and its span is halted (R328). -/
def dropRelease (s : State) (i : Nat) (r : Req) : State :=
  haltWith { (if r.scratch.isSome then delReq s i else unhold (delReq s i) r.line) with
    loads := s.loads.filter (fun p => !r.loads.contains p.1) } r.uid 1 noteAbandoned (128 * r.line)

/-- The marker of request `id` is cleared, and the held update or release is performed; a promoted release first sends the covered bytes
of its core, and waits for them. (R265, R270, R319, R328) -/
def execReleaseMarkerClear (s : State) : Res :=
  withReq s fun i r =>
    if !mayClear s i r then .fault .notEnabled
    else
      let pa := 128 * r.line + r.a
      if r.kind = .rel then
        match promoteLines s r with
        | x :: l => .next ((x :: l).foldl (fun t k => writeBack t r.core k) s)
        | [] =>
          if promoteWaits s r then .fault .notEnabled
          else .next (afterRelease (performRel (undoHome (unhold (delReq s i) r.line) r) pa r.lost r) pa r.va)
      else if r.lost then .next (dropRelease s i r)
      else if r.scratch.isSome then .next (performScratch s i r)
      else .next (performAtomic s i r)

/-! ### Dropping counted lines (R128, R233 to R236) -/

/-- A counted line leaves its home without write-back, and UNDERREAD is recorded with the reason (R233 to R235). -/
def dropLine (s : State) (line reason : Nat) : State :=
  let h := homeOf s line
  if h.counted ∧ 0 < h.count then
    let pa := 128 * line
    let s := recUnderread s (dieOfPa pa) (sliceOfPa pa) line h.count reason h.tag
    putHome s line { h with counted := false, count := 0, tag := 0, pinned := false, data := none }
  else s

/-- One line of the range of `dropc` request `id`, at its home; pages that are not mapped and scratch are skipped. (R128,
R235) -/
def execHomeDropc (s : State) : Res :=
  withReq s fun i r =>
    if r.kind ≠ .dropc then .fault .notEnabled
    else if r.a ≤ r.va then .next (delReq s i)
    else
      let next := fun (s : State) (va : Nat) =>
        if r.a ≤ va then delReq s i else putReq s i { r with va := va }
      if inLocal r.va then .next (delReq s i)
      else match lookupVa s r.c r.va with
        | none => .next (next s ((r.va / 4096 + 1) * 4096))
        | some (pa, _) =>
          if isHbm pa ∧ (fillWaits s (pa / 128) 0 ∨ sentBefore s r.core r.va (pa / 128) i) then .fault .notEnabled
          else .next (next (if isHbm pa then dropLine s (pa / 128) 1 else s) ((r.va / 128 + 1) * 128))

/-! ### Landings (R175, R191, R224) -/

/-- Bytes in flight land on their barrier at its home: landing `id`. (R175, R191) -/
def execBarrierLanding (s : State) : Res :=
  match mapFind s.lands s.cur.x.id with
  | none => .fault .notEnabled
  | some x =>
    if (mapFind s.reqs x.after).isSome || s.reqs.any (fun p => p.2.kind == .storeData && p.2.tag == x.after && p.2.tag != 0) then
      .fault .notEnabled
    else if wayShut s x.core (barLocOf s x.deck x.core x.addr) then .fault .notEnabled
    else
      let s0 := { s with lands := mapDel s.lands s.cur.x.id }
      -- a command's landing covers its accesses and what was ordered before it (R248)
      let c := if (mapFind s.ord.agents x.seq).isSome then addKnown (agentOf s x.seq).clock ⟨x.seq, 0, none⟩ else []
      let s1 := landDeck s0 x.deck x.core x.addr x.n x.arrive x.poison c
      .next (if x.seq = 0 then s1 else finishCmd s1 x.seq)

end Sys2Proof.Machine
end

