-- ==== Sys2Proof/Machine/System.lean ====
section
/-! DEFINITION. System instructions, system registers, histograms and the undo log: R57, R138 to R142, R165 to R167, R200 to
R202, R208. -/

namespace Sys2Proof.Machine
open Sys2Proof

/-- The system registers that `sysrd` reads (R57, R141). -/
def sysReg (s : State) (sp : Span) (l : Launch) (n : Nat) : Option Word64 :=
  let d := (deckOf s sp.deck).map Deck.coords
  let c := d.getD (0, 0, 0)
  let w := fun (x : Nat) => some (BitVec.ofNat 64 x)
  match n with
  | 0x000 => some Config.did
  | 0x001 => some 1
  | 0x002 => some 0
  | 0x003 => some 0x0010201040102020#64
  | 0x010 => w (if l.det then sp.ltime else s.cycle)
  | 0x011 => w sp.ltime
  | 0x012 => w (if l.det then ((deckOf s sp.deck).map Deck.quanta).getD 0 else 0)
  | 0x020 => w sp.n
  | 0x021 => w sp.d
  | 0x022 => w c.1
  | 0x023 => w c.2.1
  | 0x024 => w c.2.2
  | 0x025 => w l.dims.1
  | 0x026 => w l.dims.2.1
  | 0x027 => w l.dims.2.2
  | 0x028 => w l.spansPerDeck
  | 0x030 => w (if l.det then 0 else sp.bay + (sp.core % 32) * 4 + (sp.core / 32) * 128)
  | 0x031 => w ((if l.det then 1 else 0) + (if l.parapet then 2 else 0) + (if l.debug then 4 else 0) +
      (if l.gang then 8 else 0) + l.prio * 256)
  | n =>
    if 0x040 ≤ n ∧ n ≤ 0x04F then
      let f := l.fslots.getD ((n - 0x040) / 2) 0
      some (if n % 2 = 0 then f.extractLsb' 0 64 else f.extractLsb' 64 64)
    else none

/-- Read a system register; a number without one traps ILLEGAL. (R141) -/
def execSysrd (a : BitVec 6) (n : BitVec 14) (s : State) : Res :=
  withLaunch s fun sp l => match sysReg s sp l n.toNat with
    | none => trapS s sp l causeIllegal sp.am 0
    | some x => needS s sp [a.toNat] (commitS s (sWrite sp a.toNat x))

/-- What a write to STEP leaves: the trap that is due after a stepped unit is taken all the same, and disarms (R201, R202). -/
def stepWrite (st : StepState) (x : Word64) : StepState :=
  match st with
  | .running => .due
  | _ => if x = 1 then .armed else .off

/-- Arm single-step for the next `tret`. (R201, R202) -/
def execStep (a : BitVec 6) (s : State) : Res :=
  withLaunch s fun sp l => needS s sp [a.toNat]
    (let x := sRead sp a.toNat
     if 2 ≤ x.toNat then trapS s sp l causeIllegal sp.am 0
     else
       let sp1 := countUnit sp
       .next (putSpan s s.cur.uid { sp1 with spc := sp.spc + 4, step := stepWrite sp.step x }))

/-! ### The undo log (R208) -/

/-- The vector registers that a unit changed, or marked empty for a fill, and that were full before. -/
def undoVectors (old new : Span) : List Nat :=
  ((((old.v ++ new.v).map (fun (p : Nat × Word32) => p.1 / 32)) ++ bitsOf (new.vEmpty &&& ~~~ old.vEmpty)).dedup).filter (fun k =>
    vFull old k && (!vFull new k || (List.range 32).any (fun i => vRead old k i != vRead new k i)))

/-- Entries for what a unit of span `u` changed in it, or marked empty for a fill: scalar and vector registers, masks and planes,
stacks (R208, log 66). -/
def undoDiff (s : State) (u : Nat) (l : Launch) (old new : Span) : State × Span :=
  let put := fun (t : State × Span) => undoPutAt t.1 old t.2 u l
  let r := (List.range 63).filter (fun k => sFull old k && (sRead old k != sRead new k || !sFull new k))
  let a := r.foldl (fun (t : State × Span) k => put t 1 k 0 0 (natToBytes 8 (sRead old k).toNat)) (s, new)
  let a := (undoVectors old new).foldl (fun (t : State × Span) k =>
    put t 2 k (if vFull new k then
        (maskOf 32 ((List.range 32).filter (fun i => vRead old k i != vRead new k i))).toNat else s.cur.mask.toNat) 0
      ((List.range 32).flatMap (fun i => natToBytes 4 (vRead old k i).toNat))) a
  let a := if old.am = new.am ∧ old.live = new.live ∧ old.pl = new.pl then a
    else put a 4 0 0 old.am.toNat (natToBytes 4 old.live.toNat ++ natToBytes 8 old.pl.toNat)
  if old.masks = new.masks ∧ old.rets = new.rets then a
  else put a 5 0 0 (old.masks.depth + old.rets.depth * 2 ^ 32)
    (natToBytes 8 (old.masks.hw.headD 0).toNat ++ natToBytes 8 (old.rets.hw.headD 0).toNat)

/-- After a unit of a span of a debug launch: its undo entries (R208). -/
def logUndo (old s : State) (u : Nat) : State :=
  match spanOf old u, spanOf s u with
  | some a, some b => match launchOf old a with
    | some l => if l.debug then
        let r := undoDiff s u l a b
        putSpan r.1 u r.2
      else s
    | none => s
  | _, _ => s

/-- Add a marker entry to the undo log in debug mode. (R201, R208) -/
def execUndomark (a : BitVec 6) (s : State) : Res :=
  withLaunch s fun sp l => needS s sp [a.toNat]
    (if l.debug then
       let r := undoPut s sp l 7 0 0 (sRead sp a.toNat).toNat []
       commitS r.1 r.2
     else commitS s sp)

/-! ### Switching a bank's mode (R165 to R168) -/

def bankModeOf (n : Nat) : BankMode := if n = 0 then .cache else if n = 1 then .scratch else .fifo

/-- An access to the deck's scratch has issued and is not performed: of a pass that waits for its homes' answers, or a release that is
held; a switch point comes after it (R167). -/
def scratchBusy (s : State) (deck : Nat) : Bool := s.reqs.any (fun p => p.2.scratch == some deck)

/-- Does a FIFO pop wait on a bank of a core? -/
def popsOn (s : State) (g p : Nat) (x : Load) : Bool :=
  x.fifo == some p && match spanOf s x.uid with
    | some y => y.core == g
    | none => false

/-- The switch point: accesses that issued before are completed in the old mode, then the mode changes (R167); the switch's
arrival will cover what its span has done (R256). `pops` are those that wait on the bank, in their order. -/
def switchBank (s : State) (sp : Span) (p : Nat) (m : BankMode) (bar : Word64) (pops : List (Nat × Load)) : State :=
  let g := sp.core
  let u := s.cur.uid
  let b := bankOf (coreOf s g) p
  -- cache: dirty lines go back, lines leave; FIFO: waiting pops take what there is, and zeros (R167)
  let s := if b.mode = .cache ∧ m ≠ .cache then
      ((coreOf s g).l1.filter (fun x => x.bank == p)).foldl (fun t x => invalidate t g x.line) s
    else s
  let s := if b.mode = .fifo then
      pops.foldl (fun t x => takeWords t g p x.1 { x.2 with late := false } (bankOf (coreOf t g) p).ring) s
    else s
  let scope := ((barLocOf s sp.deck g bar).map barScope).getD 1
  let sent := (s.reqs.filter (fun q => q.2.core == g && q.2.kind == .storeData)).map Prod.fst
  let s := if scope = 1 then s else writeBackOf s g u (fun _ => true)
  let cov := sent ++ coveredBy s u scope
  let c := publish s u
  let s := c.1
  let b := bankOf (coreOf s g) p
  let same := b.mode = m ∧ m ≠ .fifo
  putBank s g p { b with
    mode := m, switch := b.switch ++ [⟨bar, u, sp.deck, cov, c.2⟩], atoms := if same then b.atoms else []
    bytes := if same then b.bytes else [], ring := if same then b.ring else [], bad := if same then b.bad else [] }

/-- Switch an owned bank's mode at its switch point. (R165, R166, R167) -/
def execBkmode (a : BitVec 6) (s : State) : Res :=
  withLaunch s fun sp l => needS s sp [a.toNat]
    (let v := sRead sp a.toNat
     let mode := (v.extractLsb' 5 2).toNat
     let bar : Word64 := (v.extractLsb' 12 52).zeroExtend 64 <<< 5
     let k := (v.extractLsb' 0 5).toNat
     let older := (s.loads.filter (fun x => x.2.uid == s.cur.uid && x.2.late && x.2.fifo.isSome)).map Prod.fst
     if v.extractLsb' 7 5 ≠ 0 ∨ mode = 3 then trapS s sp l causeIllegal sp.am 0
     else match (deckOf s sp.deck).bind (fun d => physBank d k) with
       | none => trapS s sp l causeBankMode sp.am 0
       | some p => match findBar s sp l bar 1 true with
         | .wait s => .next s
         | .trap c =>
           if l.det ∧ c = causeBarrier then bufferAll s sp [.bkmode v older] fun sp => commitS s sp
           else trapS s sp l c sp.am bar.toNat
         | .loc loc =>
           if l.det then bufferAll s sp [.bkmode v older] fun sp => commitS s sp
           else if !(readBar s loc).valid then trapS s sp l causeBarrier sp.am bar.toNat
           else if scratchBusy s sp.deck then stall s
           else commitS (switchBank s sp p (bankModeOf mode) bar (s.loads.filter (fun x => popsOn s sp.core p x.2))) sp)

/-- Trap BREAK at commit. (R142) -/
def execBrk (_c : BitVec 14) (s : State) : Res := withLaunch s fun sp l => trapS s sp l causeBreak sp.am 0

/-- Return from a trap handler according to the frame's action. (R200) -/
def execTret (s : State) : Res := withLaunch s fun sp l => trapReturn s sp l

/-- No operation. (R142) -/
def execNop (s : State) : Res := withSpan s fun sp => commitS s sp

/-! ### Histogram instructions (R138, R139) -/

/-- An accumulator store with counting on that the span has committed and that is not done (R139). -/
def countingAcst (s : State) (u : Nat) : Bool :=
  s.ctxs.any (fun c => c.2.queues.any (fun q => q.2.any (fun e =>
    e.kind == .acst && e.uid == u && !e.done && e.hist.isSome)))

/-- Read one histogram bin. (R25, R138) -/
def execHrd (d b : BitVec 6) (t : BitVec 3) (s : State) : Res :=
  withLaunch s fun sp l => needS s sp [b.toNat, d.toNat]
    (let bin := (sRead sp b.toNat).toNat % 64
     let h := mapGet ⟨[], 0⟩ (coreOf s sp.core).hist t.toNat
     let dest := Dest.s d.toNat
     if l.det then
       let r := newLoad s { mkLoad s.cur.uid dest 8 false [⟨0, 0, none⟩] 1 with late := true, hist := some (t.toNat, bin) }
       commitS r.1 (markDest sp dest)
     else
       let r := newLoad s (mkLoad s.cur.uid dest 8 false [⟨0, 0, some (mapGet 0 h.bins bin)⟩] 0)
       commitS r.1 (markDest sp dest))

/-- Clear a histogram table of a core and set its bias. -/
def clearHist (s : State) (g t : Nat) (bias : BitVec 8) : State :=
  let c := coreOf s g
  putCore s g { c with hist := mapPut c.hist t ⟨[], bias.toInt⟩ }

/-- Clear a histogram table and set its bias, after the increments of the span's older instructions. (R139) -/
def execHclr (a : BitVec 6) (t : BitVec 3) (s : State) : Res :=
  withLaunch s fun sp l => needS s sp [a.toNat]
    (let bias := (sRead sp a.toNat).extractLsb' 0 8
     if l.det then
       let older := (s.loads.filter (fun x => x.2.uid == s.cur.uid && x.2.late && x.2.hist.any (fun h => h.1 == t.toNat))).map Prod.fst
       bufferAll s sp [.hclr t.toNat bias older] fun sp => commitS s sp
     else if countingAcst s s.cur.uid then stall s
     else commitS (clearHist s sp.core t.toNat bias) sp)

end Sys2Proof.Machine
end

