-- ==== Sys2Proof/Machine/Engines.lean ====
section
/-! DEFINITION. The engine queues, operand slots, `copy`, `mma`, `acst`, `qfence`: R171 to R189, R257, R301. -/

namespace Sys2Proof.Machine
open Sys2Proof

/-- The cause SLOT_STATE or OVERREAD of a command, decided by the slots it names (R182, R186, R348). -/
def cmdBad (c : Ctx) (e : Cmd) : Option Nat :=
  match e.kind with
  | .copy => if e.toSlot && (slotOf c e.slotA).st != .claimed then some causeSlot else none
  | .mma =>
    let k := if e.slotA = e.slotB then 2 else 1
    let bad := fun n => (slotOf c n).st != .claimed || decide ((slotOf c n).count < k)
    if bad e.slotA || bad e.slotB then some causeOverread else none
  | .coll =>
    if (slotOf c e.slotA).st ≠ .claimed then some causeSlot
    else if (slotOf c e.slotA).count = 0 then some causeOverread else none
  | _ => none

/-- One counted read of a slot; the last one leaves it draining (R177, R182). -/
def countRead (c : Ctx) (n : Nat) : Ctx :=
  let x := slotOf c n
  putSlot c n { x with count := x.count - 1, st := if x.count ≤ 1 then .draining else x.st }

/-- The counted reads of a command at its commit. -/
def cmdReads (c : Ctx) (e : Cmd) : Ctx :=
  match e.kind with
  | .mma => countRead (countRead c e.slotA) e.slotB
  | .coll => countRead c e.slotA
  | _ => c

/-- A command enters its queue, with its counted reads (R172, R177). -/
def cmdEnter (s : State) (u g : Nat) (half : Bool) (q : Nat) (e : Cmd) : State :=
  putCmd (putCtx s g half (cmdReads (ctxOf s g half) e)) u g half q e

/-! ### Checks at commit (R171) -/

/-- One finding of the checks: its cause and the address it is about. -/
abbrev Find := Nat × Nat

/-- The local banks, by index, that an extent reaches. -/
def localBanks (a n : Nat) : List Nat :=
  if localLo < a + n ∧ a + n ≤ vaTop then
    let lo := (max a localLo - localLo) / 32768
    (List.range ((a + n - 1 - localLo) / 32768 - lo + 1)).map (fun i => lo + i)
  else []

/-- The findings of a memory extent of a command: the quad barrier window (R214), else alignment, the top of the address
space, the deck's scratch size and the modes of its banks (R103, R164, R171). -/
def extentFinds (s : State) (sp : Span) (l : Launch) (mis : Bool) (a n : Nat) : List Find :=
  if decide (a < localLo) && decide (quadLo < a + n) then [(causeBarrier, a)]
  else (if mis then [(causeMisaligned, a)] else []) ++
    (if vaTop < a + n then [(causePageFault, a)] else []) ++
    (if localLo < a + n ∧ a + n ≤ vaTop then
      match deckOf s sp.deck with
      | none => [(causePageFault, a)]
      | some d => (localBanks a n).filterMap (fun i =>
          match localMode s d (32768 * i) with
          | none => some (causePageFault, a)
          | some b => if b.mode = .scratch ∨ modeDeferred sp l d i then none else some (causeBankMode, a))
    else [])

/-- The first finding in the order of R171. -/
def firstFind (l : List Find) : Option Find :=
  [causeMisaligned, causePageFault, causeBankMode, causeBarrier].findSome? (fun c => l.find? (fun f => f.1 == c))

inductive BarFind where
  | ok (f : List Find)
  | wait (s : State)
  deriving DecidableEq, Repr

/-- The findings of a barrier operand; an `mma`'s lies in the local window (R181). -/
def barFinds (s : State) (sp : Span) (l : Launch) (own : Bool) (bar : Option Word64) : BarFind :=
  match bar with
  | none => .ok []
  | some addr =>
    if own && decide (addr.toNat % 32 = 0) && decide (addr.toNat < localLo) then .ok [(causeBarrier, addr.toNat)]
    else match findBar s sp l addr 1 true with
      | .loc _ => .ok []
      | .trap c => .ok [(c, addr.toNat)]
      | .wait s => .wait s

/-- The bytes that a span of a deterministic launch has buffered, oldest first. -/
def ownCells (sp : Span) : List (Nat × Byte) :=
  sp.buffer.flatMap (fun x => match x.2 with
    | .store cells _ => cells
    | .atomic w _ _ _ lanes => lanes.flatMap (fun a => (natToBytes (w / 8) a.new).zipIdx.map (fun b => (a.va + b.2, b.1)))
    | _ => [])

/-- What a copy of a deterministic launch reads: its deck's commits of earlier quantum ends, and its span's own older writes, of
memory and of the scratch banks (R260). -/
def copyView (s : State) (sp : Span) : SMap Byte × SMap (SMap Byte) :=
  match deckOf s sp.deck with
  | none => ([], [])
  | some d =>
    let own := ownCells sp
    let banks := d.banks.foldl (fun m p => mapPut m p (bankOf (coreOf s sp.core) p).bytes) []
    (own.foldl (fun m c => if inLocal c.1 then m else mapPut m c.1 c.2) d.overlay,
     own.foldl (fun m c => match localBank d (c.1 - localLo) with
       | some p => if inLocal c.1 then mapPut m p (mapSet 0 (mapGet [] m p) ((c.1 - localLo) % 32768) c.2) else m
       | none => m) banks)

/-- The commit of an engine command (R171): PARTIAL_MASK, ILLEGAL, the findings in order, OWNERSHIP (R301), the slots'
state, and then the queue. -/
def engineCommit (s : State) (sp : Span) (l : Launch) (q : Nat) (illegal own : Bool) (bar : Option Word64)
    (finds : List Find) (rows : List (Nat × Nat)) (e : Cmd) : Res :=
  let u := s.cur.uid
  if sp.am ≠ sp.live then trapS s sp l causePartial sp.am 0
  else if illegal then trapS s sp l causeIllegal sp.am 0
  else match finds.find? (fun f => f.1 == causeMisaligned) with
    | some f => trapS s sp l f.1 sp.am f.2
    | none => match barFinds s sp l own bar with
      | .wait s => .next s
      | .ok bf => match firstFind (finds ++ bf) with
        | some f => trapS s sp l f.1 sp.am f.2
        | none =>
          let e := { e with uid := u, deck := sp.deck, bar := bar,
                            launch := ((deckOf s sp.deck).map Deck.launch).getD 0 }
          if l.det then
            match rows.find? (fun r => !ownsBytes s sp l (fun acc => !acc) r.1 r.2) with
            | some r => trapS s sp l causeOwnership sp.am r.1
            | none =>
              let view := if e.kind = .copy then some (copyView s sp) else none
              bufferAll s sp [.engine q { e with view }] fun sp1 =>
                let r := undoCmd s sp l
                commitS r.1 { sp1 with undo := r.2.undo }
          else match cmdBad (ctxOf s sp.core sp.half) e with
            | some c => trapS s sp l c sp.am 0
            | none =>
              if queueFull s sp.core sp.half q then stall s
              else
                let r := undoCmd s sp l
                commitS (cmdEnter r.1 u sp.core sp.half q e) r.2

/-! ### copy (R185 to R188) -/

/-- Bytes that a command lands in all (R175). -/
def cmdTotal (e : Cmd) : Nat :=
  match e.kind with
  | .copy => e.len0 * e.rows * e.planes
  | .mma => 65536
  | .acst => 16384 * (tyWidth (tyOfCode (fsB e.fslot)) / 8)
  | _ => 0

/-- Address of byte k of a copy at its source or destination (R187). -/
def copyAddr (base : Word64) (row plane : Int) (e : Cmd) (k : Nat) : Nat :=
  (((base.toNat : Int) + (k / (e.rows * e.len0) : Nat) * plane + ((k / e.len0 % e.rows : Nat) : Int) * row +
    (k % e.len0 : Nat)) % 2 ^ 64).toNat
def srcAddr (e : Cmd) (k : Nat) : Nat := copyAddr e.src e.srcRow e.srcPlane e k
def dstAddr (e : Cmd) (k : Nat) : Nat := copyAddr e.dst e.dstRow e.dstPlane e k
/-- The rows of a copy, as address and length. -/
def copyRows (addr : Nat → Nat) (e : Cmd) : List (Nat × Nat) :=
  (List.range (e.rows * e.planes)).map (fun r => (addr (r * e.len0), e.len0))

/-- The memory that a command reads and writes, as address and length. -/
def cmdExtents (e : Cmd) : List (Nat × Nat) :=
  match e.kind with
  | .copy => copyRows (srcAddr e) e ++ (if e.toSlot then [] else copyRows (dstAddr e) e)
  | .acst => [(e.dst.toNat, e.pitch * 127 + 128 * (tyWidth (tyOfCode (fsB e.fslot)) / 8))]
  | _ => []

/-- Size of a slot part (R186). -/
def partSize (p : Nat) : Nat := if p = 0 then 16384 else 1024

def fieldOf (x : Word64) (lo n : Nat) : Nat := (x.extractLsb' lo n).toNat
def signedField (x : Word64) (lo n : Nat) : Int := (x.extractLsb' lo n).toInt

/-- The command of a copy, from its registers (R186). -/
def copyCmd (dims : Nat) (slot : Bool) (sa sb g1 g2 g3 : Word64) : Cmd :=
  { Cmd.init with
    kind := .copy, src := sa, dst := sb, toSlot := slot,
    slotA := if slot then fieldOf sb 0 4 else 0, part := if slot then fieldOf sb 4 2 else 0,
    offset := if slot then fieldOf sb 8 14 else 0,
    len0 := fieldOf g1 0 24, rows := if 1 ≤ dims then fieldOf g1 24 16 else 1,
    planes := if 2 ≤ dims then fieldOf g1 40 16 else 1, readers := fieldOf g1 56 8,
    srcRow := signedField g2 0 32, srcPlane := signedField g2 32 32,
    dstRow := signedField g3 0 32, dstPlane := signedField g3 32 32 }

/-- A field outside its limit, or an unused field that is not zero (R186). -/
def copyIllegal (dims : Nat) (slot counted : Bool) (sb g0 g1 g2 g3 : Word64) (e : Cmd) : Bool :=
  decide (3 ≤ dims) || fieldOf g0 57 7 != 0 || e.len0 == 0 ||
  (if 1 ≤ dims then e.rows == 0 else fieldOf g1 24 16 != 0) ||
  (if 2 ≤ dims then e.planes == 0 else fieldOf g1 40 16 != 0) ||
  (if counted then e.readers == 0 else e.readers != 0) ||
  (decide (dims < 1) && fieldOf g2 0 32 != 0) || (decide (dims < 2) && fieldOf g2 32 32 != 0) ||
  ((slot || decide (dims < 1)) && fieldOf g3 0 32 != 0) || ((slot || decide (dims < 2)) && fieldOf g3 32 32 != 0) ||
  (slot && (e.part == 3 || fieldOf sb 6 2 != 0 || fieldOf sb 22 42 != 0 ||
    decide (partSize e.part < e.offset + e.len0 * e.rows * e.planes)))

/-- A copy commits (R171, R185 to R188). -/
def copyOp (slot counted : Bool) (m : BitVec 2) (a b c : BitVec 6) (q : BitVec 2) (s : State) : Res :=
  let g := c.toNat
  withLaunch s fun sp l => needS s sp [a.toNat, b.toNat, g, g + 1, g + 2, g + 3]
    (let r := fun i => sRead sp (g + i)
     let sb := sRead sp b.toNat
     let dims := m.toNat
     let e := copyCmd dims slot (sRead sp a.toNat) sb (r 1) (r 2) (r 3)
     let illegal := copyIllegal dims slot counted sb (r 0) (r 1) (r 2) (r 3) e
     let bar := if r 0 = 0 then none else some (r 0)
     let src := copyRows (srcAddr e) e
     let dst := if slot then [] else copyRows (dstAddr e) e
     let mis := counted && (decide (sb.toNat % 128 ≠ 0) || decide (e.len0 % 128 ≠ 0) || decide (e.dstRow % 128 ≠ 0) ||
       decide (e.dstPlane % 128 ≠ 0))
     let finds := if illegal then [] else
       src.flatMap (fun x => extentFinds s sp l false x.1 x.2) ++
       dst.flatMap (fun x => extentFinds s sp l mis x.1 x.2 ++
         (if counted && inLocal x.1 then [(causeBankMode, x.1)] else []))
     engineCommit s sp l q.toNat illegal false bar finds (dst.filter (fun x => !inLocal x.1)) e)

/-- Commit a memory-to-memory copy into a copy queue. (R185, R187) -/
def execCopy (m : BitVec 2) (a b c : BitVec 6) (q : BitVec 2) (s : State) : Res := copyOp false false m a b c q s

/-- Commit a copy into a claimed slot part. (R186) -/
def execCopySlot (m : BitVec 2) (a b c : BitVec 6) (q : BitVec 2) (s : State) : Res := copyOp true false m a b c q s

/-- Commit a copy whose destination lines are filled counted. (R188) -/
def execCopyReaders (m : BitVec 2) (a b c : BitVec 6) (q : BitVec 2) (s : State) : Res := copyOp false true m a b c q s

/-! ### mma and acst at commit (R180 to R183) -/

/-- K of an operand format, 0 for a format that `mma` does not take (R179). -/
def mmaK (fmt : Nat) : Nat :=
  match tyOfCode fmt with
  | .f16 | .bf16 => 64
  | .f8a | .f8b => 128
  | .f4x => 256
  | _ => 0

/-- The slot suits an `mma` (R181). -/
def mmaFormats (f : BitVec 128) : Bool :=
  let ka := mmaK (fsA f)
  ka != 0 && ka == mmaK (fsB f) && ((fsA f == 14) == (fsB f == 14)) &&
  (if ka = 64 then fsScale f == 0 && fsBlk f == 3 else fsScale f == 1 && fsBlk f == 5)

/-- An `mma` commits into a queue (R182). -/
def mmaOp (q : Nat) (n : BitVec 2) (k : BitVec 3) (a : BitVec 6) (z p : BitVec 1) (ta : BitVec 4) (r : BitVec 1)
    (tb : BitVec 4) (s : State) : Res :=
  withLaunch s fun sp l => needS s sp [a.toNat]
    (let f := fslotOf l k.toNat
     let bar := if a = 63 then none else some (sRead sp a.toNat)
     let e := { Cmd.init with
       kind := .mma, acc := n.toNat, fslot := f, zero := z == 1, slotA := ta.toNat, slotB := tb.toNat,
       colA := p == 1, colB := r == 1 }
     engineCommit s sp l q (!mmaFormats f) true bar [] [] e)

/-- Commit an mma on the matrix queue. (R182) -/
def execMma (n : BitVec 2) (k : BitVec 3) (a : BitVec 6) (z p : BitVec 1) (ta : BitVec 4) (r : BitVec 1) (t : BitVec 4)
    (s : State) : Res := mmaOp 4 n k a z p ta r t s

/-- Commit an mma placed in a copy queue. (R182) -/
def execMmaVia (n : BitVec 2) (k : BitVec 3) (a : BitVec 6) (z p : BitVec 1) (ta : BitVec 4) (r : BitVec 1) (t : BitVec 4)
    (q : BitVec 2) (s : State) : Res := mmaOp q.toNat n k a z p ta r t s

/-- Commit a store of an accumulator. (R183) -/
def execAcst (n : BitVec 2) (k : BitVec 3) (a b c : BitVec 6) (s : State) : Res :=
  withLaunch s fun sp l => needS s sp [a.toNat, b.toNat, b.toNat + 1, c.toNat]
    (let f := fslotOf l k.toNat
     let o := sRead sp b.toNat
     let x := sRead sp (b.toNat + 1)
     let wb := tyWidth (tyOfCode (fsB f)) / 8
     let hsel := x.getLsbD 35
     let pitch := fieldOf x 40 24
     let e := { Cmd.init with
       kind := .acst, acc := n.toNat, fslot := f, dst := sRead sp a.toNat, row0 := fieldOf o 0 32, col0 := fieldOf o 32 32,
       stream := fieldOf x 0 32, rm := effRm (fieldOf x 32 3) f, pitch := pitch,
       hist := if hsel then (if x.getLsbD 36 then some (fieldOf x 37 3) else none)
         else if fsHen f then some (fsHdef f) else none }
     let fmtOk := fsA f == 10 && [8, 9, 10, 12, 13].contains (fsB f) && fsScale f == 0
     let illegal := b.getLsbD 0 || !fmtOk || (!hsel && fieldOf x 36 4 != 0) ||
       decide (pitch % wb ≠ 0) || decide (pitch < 128 * wb)
     let d := (sRead sp a.toNat).toNat
     let finds := if illegal then [] else extentFinds s sp l (decide (d % wb ≠ 0)) d (pitch * 127 + 128 * wb)
     let rows := if inLocal d then [] else (List.range 128).map (fun i => (d + i * pitch, 128 * wb))
     engineCommit s sp l 4 illegal false (if c = 63 then none else some (sRead sp c.toNat)) finds rows e)

/-! ### Slots (R177, R178) -/

inductive SlotRes where
  | ok (s : State)
  | bad
  | wait
  deriving DecidableEq, Repr

/-- `tclaim` at its commit. -/
def claimSlot (s : State) (sp : Span) (n readers : Nat) : SlotRes :=
  let c := ctxOf s sp.core sp.half
  let x := slotOf c n
  match x.st with
  | .draining => .wait
  | .claimed => .bad
  | .unclaimed => .ok (putCtx s sp.core sp.half (putSlot c n { x with
      st := .claimed, count := readers, owner := sp.deck, release := false
      number := ((deckOf s sp.deck).map (fun d => numberOf s d.launch)).getD 0 }))

/-- `trel` at its commit; one that waits has found its slot claimed. -/
def freeSlot (s : State) (sp : Span) (n : Nat) : SlotRes :=
  let c := ctxOf s sp.core sp.half
  if (slotOf c n).st ≠ .claimed ∧ sp.pend ≠ .free n then .bad
  else if slotInUse c n then .wait
  else .ok (releaseSlot s sp.core sp.half n)

/-- A slot command commits: PARTIAL_MASK, then its state (R171, R178). -/
def slotOp (x : Buffered) (wait : Pending) (f : State → Span → SlotRes) (s : State) : Res :=
  withLaunch s fun sp l =>
    if sp.am ≠ sp.live then trapS s sp l causePartial sp.am 0
    else if l.det then bufferAll s sp [x] fun sp => commitS s sp
    else match f s sp with
      | .bad => trapS s sp l causeSlot sp.am 0
      | .wait => pend s sp wait
      | .ok s =>
        let r := undoCmd s sp l
        commitS r.1 r.2

/-- Claim an operand slot with a reader count. (R178) -/
def execTclaim (slot : BitVec 4) (r : BitVec 8) (s : State) : Res :=
  slotOp (.claim slot.toNat r.toNat) .none (fun s sp => claimSlot s sp slot.toNat r.toNat) s

/-- Release a claimed slot after its commands are done. (R178) -/
def execTrel (slot : BitVec 4) (s : State) : Res :=
  slotOp (.trel slot.toNat) (.free slot.toNat) (fun s sp => freeSlot s sp slot.toNat) s

/-! ### qfence (R189) -/

/-- Room for a marker in every named queue. -/
def fenceFits (s : State) (g : Nat) (half : Bool) (mask : Nat) : Bool :=
  (List.range 6).all (fun q => !bitAt mask q || !queueFull s g half q)

/-- One marker in each named queue; a queue that nothing stands in needs none. -/
def placeMarkers (s : State) (sp : Span) (mask : Nat) : State :=
  let c := ctxOf s sp.core sp.half
  let qs := (List.range 6).filter (bitAt mask)
  let before := qs.flatMap (fun q => (queueOf c q).map Cmd.seq)
  let e := { Cmd.init with uid := s.cur.uid, deck := sp.deck, seq := s.nextId, fence := before }
  let c := passMarkers 1 (qs.foldl (fun c q => appendCmd c q e) c)
  { putCtx s sp.core sp.half c with nextId := s.nextId + 1 }

/-- Place a marker in each named queue. (R189) -/
def execQfence (m : BitVec 6) (s : State) : Res :=
  withLaunch s fun sp l =>
    if sp.am ≠ sp.live then trapS s sp l causePartial sp.am 0
    else if l.det then bufferAll s sp [.qfence m.toNat] fun sp => commitS s sp
    else if !fenceFits s sp.core sp.half m.toNat then stall s
    else
      let r := undoCmd s sp l
      commitS (placeMarkers r.1 sp m.toNat) r.2

/-! ### Entries in their queues (R173, R174) -/

/-- Where a command stands: context key, queue, the entries before it, the command. -/
structure CmdAt where
  key : Nat
  q : Nat
  pre : List Cmd
  cmd : Cmd
  deriving DecidableEq, Repr

/-- The command with a sequence number; markers have none of their own. -/
def findCmd (s : State) (seq : Nat) : Option CmdAt :=
  s.ctxs.findSome? (fun c => c.2.queues.findSome? (fun q =>
    match q.2.find? (fun e => e.seq == seq && e.kind != .marker) with
    | some e => some ⟨c.1, q.1, q.2.takeWhile (fun x => x.seq != seq), e⟩
    | none => none))

def CmdAt.core (k : CmdAt) : Nat := k.key / 2
def CmdAt.half (k : CmdAt) : Bool := k.key % 2 == 1

/-- A repairable fault pauses its command's queue (R176). -/
def queuePaused (s : State) (k : CmdAt) : Bool :=
  s.faults.any (fun f => f.2.who.any (fun w => match w with
    | .engine g h seq => g == k.core && h == k.half &&
        (queueOf (ctxOf s k.core k.half) k.q).any (fun e => e.seq == seq)
    | _ => false))

/-- The queue's rule for starting (R173, R349). -/
def queueAllows (k : CmdAt) : Bool :=
  k.pre.all (fun e => e.kind != .marker) &&
  match k.cmd.kind with
  | .copy => match k.pre.getLast? with
    | none => true
    | some e => e.kind == .copy && e.started
  | .coll => k.pre.all Cmd.started
  | _ => k.pre.isEmpty

/-- An earlier-committed command on the same accumulator is not done (R174). -/
def accBusy (s : State) (k : CmdAt) : Bool :=
  (k.cmd.kind == .mma || k.cmd.kind == .acst) &&
  (ctxOf s k.core k.half).queues.any (fun q => q.2.any (fun e =>
    (e.kind == .mma || e.kind == .acst) && e.acc == k.cmd.acc && decide (e.seq < k.cmd.seq)))

/-- An entry may start: its context issues, its queue's rule, its accumulator's order, its span's older stores (R173, R174,
R203, R257). -/
def mayStart (s : State) (k : CmdAt) : Bool :=
  clocked s && ((coreOf s k.core).active == k.half) && (coreOf s k.core).swap.isNone && queueAllows k && !accBusy s k &&
  k.cmd.fence.all (isPerformed s)

/-- The command with its fields changed. -/
def updCmd (s : State) (k : CmdAt) (e : Cmd) : State :=
  let c := ctxOf s k.core k.half
  putCtx s k.core k.half { c with queues := mapPut c.queues k.q ((queueOf c k.q).map (fun x =>
    if x.seq = e.seq ∧ x.kind ≠ .marker then e else x)) }

/-- Bytes go to the command's barrier, after a write that has still to be accepted (R175). -/
def landCmd (s : State) (g : Nat) (e : Cmd) (n : Nat) (poison : Bool) (after : Nat) : State :=
  match e.bar with
  | none => s
  | some bar =>
    if n = 0 then s
    else { s with lands := mapPut s.lands s.nextId ⟨e.deck, g, bar, n, poison, 0, e.seq, after⟩, nextId := s.nextId + 1 }

/-- The command has moved its last byte. -/
def cmdDone (s : State) (k : CmdAt) (e : Cmd) : State :=
  finishCmd (drainSlots (updCmd s k { e with started := true, done := true }) k.core k.half) e.seq

/-- A command fails: what it had still to land lands with the poison mark (R176). -/
def failCmd (s : State) (k : CmdAt) (e : Cmd) : State :=
  cmdDone (landCmd s k.core e (cmdTotal e - e.landed) true 0) k e

/-! ### Bytes that engines move (R176, R187, R246, R247, R260) -/

inductive EngAt where
  | loc (off : Nat)
  | phys (pa : Nat) (bar : Bool)
  | wait (s : State)
  | fail
  deriving DecidableEq, Repr

/-- A copy that has started (R241). -/
def startedCopy (e : Cmd) : Bool := e.kind == .copy && e.started

/-- The translation of an engine: a started copy goes on through a closing page, a new command or an `acst` waits (R239, R241). -/
def engXlate (s : State) (k : CmdAt) (l : Launch) (va kind : Nat) : Xl :=
  let who := Who.engine k.core k.half k.cmd.seq
  match k.cmd.pages.find? (fun x => x.1 == (va / 4096, kind == 1)) with
  | some x => .ok (x.2.1 * 4096 + va % 4096) x.2.2
  | none =>
  match tlbLookup (coreOf s k.core) false 4 l.root (va / 4096) with
  | some t =>
    if t.closing && startedCopy k.cmd && (kind != 1 || t.w) && paExists s (tlbPa t va) then .ok (tlbPa t va) t.bar
    else if t.closing && !faultPending s (dieOfCore k.core) l.root (va / 4096) (kind == 1) who then
      .wait (startWalk s (dieOfCore k.core) l.root (va / 4096) ⟨who, l.key, kind == 1, false, kind⟩)
    else translate s k.core 4 l.root l.key va kind who []
  | none => translate s k.core 4 l.root l.key va kind who []

def engAt (s : State) (k : CmdAt) (l : Launch) (a kind : Nat) : EngAt :=
  if vaTop ≤ a ∨ inQuad a then .fail
  else if inLocal a then
    match (deckOf s k.cmd.deck).bind (fun d => localMode s d (a - localLo)) with
    | none => .fail
    | some b => if b.mode ≠ .scratch then .fail else if b.switch.isEmpty then .loc (a - localLo) else .wait s
  else match engXlate s k l a kind with
    | .ok pa bar =>
      -- its message comes after what the stop has sent to the line before (R307), and its way may have to wait (R308)
      if isHbm pa && (routeWaits s (dieOfCore k.core) (dieOfPa pa) ||
          (kind == 0 && (fillWaits s (pa / 128) 0 || sentBefore s k.core a (pa / 128) s.nextId))) then .wait s
      else .phys pa bar
    | .wait s => .wait s
    | .fail => .fail

/-- A byte as the core's engines read it: the core's own writes that are not performed yet, then the home's (R245). -/
def engineByte (s : State) (g pa : Nat) : Byte :=
  let sent := match (s.reqs.filter (fun p => p.2.core == g && p.2.kind == .storeData && p.2.line == pa / 128 &&
      p.2.mask.getLsbD (pa % 128))).getLast? with
    | some p => lineByte p.2.data (pa % 128)
    | none => homeByte s pa
  match l1Find (coreOf s g) (pa / 128) with
  | some x => if x.dirty.getLsbD (pa % 128) then lineByte x.data (pa % 128) else sent
  | none => sent

/-- A byte that a command of a deterministic launch reads: its deck's commits up to its own entry, then the phase's beginning
(R260). -/
def phaseByte (s : State) (deck : Nat) (l : Launch) (va pa : Nat) : Byte :=
  match (deckOf s deck).bind (fun d => mapFind d.overlay va) with
  | some b => b
  | none => mapGet 0 l.snapshot pa

/-- What a copy reads of memory and of scratch: in a deterministic launch, as its entry found them (R260). -/
def copyByte (s : State) (k : CmdAt) (l : Launch) (va pa : Nat) : Byte :=
  match k.cmd.view with
  | some v => match mapFind v.1 va with
    | some b => b
    | none => mapGet 0 l.snapshot pa
  | none => if l.det then phaseByte s k.cmd.deck l va pa else engineByte s k.core pa
def copyLocal (s : State) (k : CmdAt) (d : Deck) (off : Nat) : Byte :=
  match k.cmd.view, localBank d off with
  | some v, some p => mapGet 0 (mapGet [] v.2 p) (off % 32768)
  | _, _ => localByte s d off

inductive EngRead where
  /-- the bytes, last first, and the lines that were read at their homes -/
  | ok (l : List Byte) (poison : Bool) (lines : List Nat)
  | wait (s : State)
  | fail

/-- n source bytes from an address, last first. -/
def engRead (s : State) (k : CmdAt) (l : Launch) (addr : Nat → Nat) (n : Nat) : EngRead :=
  (List.range n).foldl (fun r i => match r with
    | .ok bs p ls =>
      let va := addr i
      match engAt s k l va 0 with
      | .loc off => match deckOf s k.cmd.deck with
        | some d => .ok (copyLocal s k d off :: bs) (p || localBad s d off 1) ls
        | none => .fail
      | .phys pa _ => .ok (copyByte s k l va pa :: bs) (p || badLine s (pa / 128))
          (if ls.contains (pa / 128) then ls else pa / 128 :: ls)
      | .wait s => .wait s
      | .fail => .fail
    | r => r) (.ok [] false [])

/-- The deck's own committed bytes of the phase (R260). -/
def putOverlay (s : State) (deck va : Nat) (bytes : List Byte) : State :=
  match deckOf s deck with
  | none => s
  | some d => putDeck s deck { d with overlay := bytes.zipIdx.foldl (fun o b => mapPut o (va + b.2) b.1) d.overlay }

inductive EngWrite where
  /-- written, and the request that has still to be performed, or 0 -/
  | ok (s : State) (after : Nat)
  | wait (s : State)
  | fail
  deriving DecidableEq, Repr

/-- The line that a command is about to write: the core's own bytes go first and its copy leaves (R247); a counted line fails
(R107, R176, R188, R230), a line of no home takes no count. -/
def engLine (s : State) (k : CmdAt) (bar : Bool) (va line : Nat) : EngWrite :=
  let g := k.core
  let n := k.cmd.readers
  let dirty := (l1Find (coreOf s g) line).any (fun x => x.dirty != 0)
  let s := invalidate s g line
  if dirty || (if n = 0 then dataBefore s g va line s.nextId else sentBefore s g va line s.nextId) then .wait s
  else if !isHbm (128 * line) then (if n ≠ 0 then .fail else .ok s 0)
  else
    let h := homeOf s line
    if h.counted || (n != 0 && bar) then .fail
    else if fillWaits s line 0 || (n != 0 && (decide (0 < h.pend) || !fillRoom s line)) then .wait s
    else .ok s 0

/-- Bytes of a command, within one line that is ready for them, to a physical address; what one step sends to a line of no home goes in
one request, those from `first` on (R188, R230, R246, R251, R310). -/
def engPut (s : State) (k : CmdAt) (l : Launch) (first va pa : Nat) (bytes : List Byte) : State × Nat :=
  let g := k.core
  let line := pa / 128
  let n := k.cmd.readers
  if !isHbm pa then
    let mask := maskOf 128 ((List.range bytes.length).map (fun i => pa % 128 + i))
    let data := bytes.zipIdx.foldl (fun d b => lineSet d (pa % 128 + b.2) b.1) (0 : Line)
    let w := writerOf s k.cmd.seq g mask va
    match s.reqs.find? (fun p => decide (first ≤ p.1) && p.2.kind == .storeData && p.2.line == line && p.2.tag == k.cmd.seq) with
    | some (i, r) =>
      (putReq s i { r with mask := r.mask ||| mask, data := mergeLine r.data mask data, writers := addWriter r.writers w }, i)
    | none =>
      let r := newReq s { Req.init with
        core := g, kind := .storeData, line, mask, data, stage := .home, tag := k.cmd.seq, va := va / 128 * 128, writers := [w] }
      (r.1, r.2)
  else
    let w := writerOf s k.cmd.seq g 0 va
    let s := if n ≠ 0 then countedFill s line n l.number (some (BitVec.ofNat 1024 (bytesToNat bytes), w))
      else
        let s := orderedBytes s (some w) false va pa bytes
        let h := homeOf s line
        putHome s line { h with poison := h.poison && bytes.length != 128, latent := h.latent && bytes.length != 128 }
    (if l.det then putOverlay s k.cmd.deck va bytes else s, 0)

/-- A destination line of a command is ready for its bytes. -/
def engReady (s : State) (k : CmdAt) (l : Launch) (va : Nat) : EngWrite :=
  match engAt s k l va 1 with
  | .loc _ => .ok s 0
  | .phys pa bar => engLine s k bar va (pa / 128)
  | .wait s => .wait s
  | .fail => .fail

/-- Bytes of a command to a virtual address, within one line that is ready; `first` is the first request of the step. -/
def engDo (s : State) (k : CmdAt) (l : Launch) (first va : Nat) (bytes : List Byte) : EngWrite :=
  match engAt s k l va 1 with
  | .loc off => match deckOf s k.cmd.deck with
    | some d => .ok (localWrite s d off bytes) 0
    | none => .fail
  | .phys pa _ => let r := engPut s k l first va pa bytes
    .ok r.1 r.2
  | .wait s => .wait s
  | .fail => .fail

/-- Bytes of a command to a virtual address, within one line, once it is ready. -/
def engWrite (s : State) (k : CmdAt) (l : Launch) (va : Nat) (bytes : List Byte) : EngWrite :=
  match engReady s k l va with
  | .ok s _ => engDo s k l s.nextId va bytes
  | r => r

/-! ### Running a copy (R187) -/

/-- Consecutive bytes go to the slot part (R186). -/
def slotWrite (c : Ctx) (e : Cmd) (at_ : Nat) (bytes : List Byte) : Ctx :=
  let x := slotOf c e.slotA
  let put := fun (m : SMap Byte) => bytes.zipIdx.foldl (fun m b => mapSet 0 m (at_ + b.2) b.1) m
  let x := { x with bad := x.bad.filter (fun i =>
    !(decide (16384 * e.part + at_ ≤ i) && decide (i < 16384 * e.part + at_ + bytes.length))) }
  putSlot c e.slotA (if e.part = 0 then { x with data := put x.data }
    else if e.part = 1 then { x with scale := put x.scale } else { x with special := put x.special })

/-- May a copy be cut at the ends of its rows and of its destination's lines without cutting an 8-byte block of its destination in two,
where it keeps what it has read ahead of a block of its source (R251)? -/
def copyCuts (e : Cmd) : Bool :=
  e.rows * e.planes == 1 ||
    (e.src.toNat % 8 == 0 && (e.toSlot || e.dst.toNat % 8 == 0) && e.len0 % 8 == 0 &&
      [e.srcRow, e.srcPlane, e.dstRow, e.dstPlane].all (fun x => decide (x % 8 = 0)))

/-- To the end of the row and of the destination's line. -/
def copyPiece (e : Cmd) (progress : Nat) : Nat :=
  let rest := e.len0 - progress % e.len0
  min rest (if e.toSlot then 128 else 128 - dstAddr e progress % 128)

/-- How many bytes one step of a copy moves: a piece, or all of it where the copy may not be cut (log 29). -/
def copyChunk (e : Cmd) : Nat := if copyCuts e then copyPiece e e.progress else cmdTotal e - e.progress

/-- How far the source of a piece that ends at place `p` is read: to the end of the 8-byte block, within the row (R251). -/
def copyAhead (e : Cmd) (p : Nat) : Nat :=
  let last := srcAddr e (p - 1)
  min (p + (7 - last % 8)) (((p - 1) / e.len0 + 1) * e.len0)

/-- The pieces of a step, by their places in the copy. -/
def copyPieces : Nat → Cmd → Nat → Nat → List (Nat × Nat)
  | 0, _, _, _ => []
  | f + 1, e, p, n =>
    if n = 0 then []
    else
      let m := min n (copyPiece e p)
      (p, m) :: copyPieces f e (p + m) (n - m)

/-- n bytes of a copy are moved and landed. -/
def copyMoved (s : State) (k : CmdAt) (n after : Nat) : State :=
  let e := { k.cmd with started := true, progress := k.cmd.progress + n, landed := k.cmd.landed + n }
  let s := landCmd s k.core e n false after
  if e.progress = cmdTotal e then cmdDone s k e else updCmd s k e

/-- A poisoned source or operand is consumed: the command fails and its span is halted (R326). -/
def consumeBad (s : State) (k : CmdAt) (e : Cmd) : State :=
  haltWith (failCmd s k e) e.uid 2 noteAbandoned (match e.kind with
    | .copy => (srcAddr e e.progress)
    | .acst => e.dst.toNat
    | _ => 0)

/-- Run `k` on the command of a kind that the event names, and its launch. -/
def withCmd (s : State) (kind : CmdKind) (f : CmdAt → Launch → Res) : Res :=
  match findCmd s s.cur.x.id with
  | none => .fault .notEnabled
  | some k => match mapFind s.launches k.cmd.launch with
    | none => .fault .notEnabled
    | some l =>
      if k.cmd.kind ≠ kind ∨ k.cmd.done ∨ !clocked s ∨ queuePaused s k ∨ (!k.cmd.started && !mayStart s k) then
        .fault .notEnabled
      else f k l

/-- Every destination line of a step is ready. -/
def copyReady (s : State) (k : CmdAt) (l : Launch) (ps : List (Nat × Nat)) : EngWrite :=
  ps.foldl (fun r p => match r with
    | .ok s _ => engReady s k l (dstAddr k.cmd p.1)
    | r => r) (.ok s 0)

/-- A step of a copy on its way: the state, the command with its progress, the bytes left, and whether it has failed. -/
structure Step where
  s : State
  cmd : Cmd
  bytes : List Byte
  failed : Bool

/-- One piece is written and lands its bytes. -/
def copyOne (k : CmdAt) (l : Launch) (first : Nat) (r : Step) (p : Nat × Nat) : Step :=
  if r.failed then r
  else match engDo r.s { k with cmd := r.cmd } l first (dstAddr r.cmd p.1) (r.bytes.take p.2) with
    | .ok s after =>
      let e := { r.cmd with started := true, progress := p.1 + p.2, landed := p.1 + p.2 }
      ⟨landCmd s k.core e p.2 false after, e, r.bytes.drop p.2, false⟩
    | .wait _ => { r with failed := true }
    | .fail => { r with failed := true }

/-- The pieces of a step are written; the bytes left have been read ahead. -/
def copyWrite (s : State) (k : CmdAt) (l : Launch) (ps : List (Nat × Nat)) (bytes : List Byte) : State :=
  let r := ps.foldl (copyOne k l s.nextId) ⟨s, k.cmd, bytes, false⟩
  if r.failed then failCmd r.s k r.cmd
  else if r.cmd.progress = cmdTotal r.cmd then cmdDone r.s k r.cmd
  else updCmd r.s k { r.cmd with buf := r.bytes }

/-- The pages of a copy that may not be cut: page, and whether it is written. -/
def copyPages (e : Cmd) : List (Nat × Bool) :=
  let of := fun (w : Bool) (rows : List (Nat × Nat)) => (rows.filter (fun r => !inLocal r.1)).flatMap (fun r =>
    (List.range ((r.1 + r.2 - 1) / 4096 - r.1 / 4096 + 1)).map (fun i => (r.1 / 4096 + i, w)))
  (of false (copyRows (srcAddr e) e) ++ if e.toSlot then [] else of true (copyRows (dstAddr e) e)).dedup

/-- A copy that may not be cut holds its translations until it has them all; false: it waits for some (R241, R251; log 29). -/
def holdPages (s : State) (k : CmdAt) (l : Launch) : State × Cmd × Bool :=
  (copyPages k.cmd).foldl (fun r p =>
    if r.2.1.pages.any (fun x => x.1 == p) then r
    else match engXlate r.1 { k with cmd := r.2.1 } l (4096 * p.1) (if p.2 then 1 else 0) with
      | .ok pa bar => (r.1, { r.2.1 with pages := (p, (pa / 4096, bar)) :: r.2.1.pages }, r.2.2)
      | .wait s => (s, r.2.1, false)
      | .fail => r) (s, k.cmd, true)

/-- A step of a copy: a piece, or all of it, with the source read by whole 8-byte blocks (R187, R251). -/
def copyStep (s : State) (k : CmdAt) (l : Launch) : State :=
  let e := k.cmd
  let n := copyChunk e
  let from_ := e.progress + e.buf.length
  match engRead s k l (fun i => srcAddr e (from_ + i)) (copyAhead e (e.progress + n) - from_) with
  | .wait s => s
  | .fail => failCmd s k e
  | .ok rev bad lines =>
    let s := lines.foldl homeTouch s
    let bytes := e.buf ++ rev.reverse
    if bad then consumeBad s k e
    else if e.toSlot then
      let c := ctxOf s k.core k.half
      copyMoved (putCtx s k.core k.half (slotWrite c e (e.offset + e.progress) (bytes.take n)))
        { k with cmd := { e with buf := bytes.drop n } } n 0
    else
      let ps := copyPieces n e e.progress n
      match copyReady s k l ps with
      | .wait s => s
      | .fail => failCmd s k e
      | .ok s _ => copyWrite s k l ps bytes

/-- Copy `id` starts and moves bytes: those that go to one line of its destination, or all where they may not be cut. (R173,
R187, R188, R251) -/
def execCopyRun (s : State) : Res :=
  withCmd s .copy fun k l =>
    if k.cmd.xfail then .next (failCmd s k k.cmd)
    else if copyCuts k.cmd then .next (copyStep s k l)
    else
      let r := holdPages s k l
      if r.2.2 then .next (copyStep r.1 { k with cmd := r.2.1 } l) else .next (updCmd r.1 k r.2.1)

/-! ### Running an mma (R26, R179, R182) -/

/-- The byte and the scale index of element X[i][k] of a tile through a port (R179). -/
def slotPlace (w K : Nat) (col : Bool) (i k : Nat) : Nat :=
  if col then w * 128 / 8 * k + w * i / 8 else w * K / 8 * i + w * k / 8

/-- Element X[i][k] in element units (R7, R9, R13, R14). -/
def slotElem (x : Slot) (fmt : Nat) (col : Bool) (i k : Nat) : FVal :=
  let t := tyOfCode fmt
  let w := tyWidth t
  let K := mmaK fmt
  let p := slotPlace w K col i k
  let b := (mapGet 0 x.data p).toNat
  match t with
  | .f4x =>
    let nib := if col then i % 2 else k % 2
    let sp := (mapGet 0 x.special (if col then 128 * (k / 32) + i else i * (K / 32) + k / 32)).toNat
    f4xElem sp ((b >>> (4 * nib)) % 16)
  | .f8a | .f8b => decodeF (fmtOf t) b
  | _ => decodeF (fmtOf t) (b + 256 * (mapGet 0 x.data (p + 1)).toNat)

/-- The scale byte of block b of row or column i (R179). -/
def slotScale (x : Slot) (fmt : Nat) (col : Bool) (i b : Nat) : Nat :=
  (mapGet 0 x.scale (if col then 128 * b + i else i * (mmaK fmt / 32) + b)).toNat

/-- Blocks b0 to b1 - 1 added to element (m, n) of an accumulator (R26, R182). -/
def mmaElem (xa xb : Slot) (e : Cmd) (b0 b1 acc m n : Nat) : Nat :=
  let f := e.fslot
  let B := if mmaK (fsA f) = 64 then 8 else 32
  (List.range (b1 - b0)).foldl (fun acc j =>
    let b := b0 + j
    let ps := (List.range B).map (fun i =>
      mulV (slotElem xa (fsA f) e.colA m (b * B + i)) (slotElem xb (fsB f) e.colB n (b * B + i)))
    let xab : Option Int :=
      if B = 8 then some 0
      else
        let sa := slotScale xa (fsA f) e.colA m b
        let sb := slotScale xb (fsB f) e.colB n b
        if sa = 255 ∨ sb = 255 then none else some ((sa : Int) - 127 + ((sb : Int) - 127))
    mmaBlock acc ps xab) (if b0 = 0 ∧ e.zero then 0 else acc)

/-- The number of blocks of an `mma` (R26). -/
def mmaBlocks (e : Cmd) : Nat := if mmaK (fsA e.fslot) = 64 then 8 else mmaK (fsA e.fslot) / 32

/-- Blocks b0 to b1 - 1 of an `mma` added to its accumulator. -/
def mmaApply (c : Ctx) (e : Cmd) (b0 b1 : Nat) : Ctx :=
  let xa := slotOf c e.slotA
  let xb := slotOf c e.slotB
  let new := (List.range 16384).filterMap (fun i =>
    let v := mmaElem xa xb e b0 b1 (mapGet 0 c.accs (16384 * e.acc + i)).toNat (i / 128) (i % 128)
    if v = 0 then none else some (16384 * e.acc + i, BitVec.ofNat 32 v))
  { c with accs := c.accs.filter (fun p => decide (p.1 < 16384 * e.acc)) ++ new ++
      c.accs.filter (fun p => decide (16384 * (e.acc + 1) ≤ p.1)),
           badAccs := if e.zero ∧ b0 = 0 then c.badAccs.filter (fun a => a != e.acc) else c.badAccs }

/-- Some `mma` of the context is on the array. -/
def arrayBusy (s : State) (k : CmdAt) : Bool :=
  (ctxOf s k.core k.half).queues.any (fun q => q.2.any (fun e => e.kind == .mma && e.started && !e.done))

/-- An `mma` or `acst` reads a slot or an accumulator with an uncorrectable error (R326). -/
def readsBadSlot (c : Ctx) (e : Cmd) : Bool :=
  match e.kind with
  | .mma => !(slotOf c e.slotA).bad.isEmpty || !(slotOf c e.slotB).bad.isEmpty || (!e.zero && c.badAccs.contains e.acc)
  | .acst => c.badAccs.contains e.acc
  | _ => false

/-- `mma` entry `id` starts on the array. (R173, R174, R182) -/
def execMmaRun (s : State) : Res :=
  withCmd s .mma fun k _ =>
    if k.cmd.started ∨ arrayBusy s k then .fault .notEnabled else .next (updCmd s k { k.cmd with started := true })

/-- `mma` entry `id` finishes: its remaining blocks are added, and 65,536 bytes land. (R26, R182, R204) -/
def execMmaDone (s : State) : Res :=
  withCmd s .mma fun k _ =>
    let e := k.cmd
    if !e.started ∨ (coreOf s k.core).active ≠ k.half ∨ (coreOf s k.core).swap.isSome then .fault .notEnabled
    else if readsBadSlot (ctxOf s k.core k.half) e then .next (consumeBad s k e)
    else
      let s := putCtx s k.core k.half (mmaApply (ctxOf s k.core k.half) e e.progress (mmaBlocks e))
      .next (cmdDone (landCmd s k.core e 65536 false 0) k { e with landed := 65536 })

/-! ### Running an acst (R184) -/

/-- Element k of the accumulator as it is stored (R184). -/
def acstCode (e : Cmd) (x k : Nat) : Nat :=
  let f := e.fslot
  let idx := (e.row0 + k / 128) % 2 ^ 32 * 2 ^ 32 + (e.col0 + k % 128) % 2 ^ 32
  encodeTy (tyOfCode (fsB f)) (rmOf e.rm (fsSeed f) e.stream idx) (fsE5 f) (decodeF fmtF32 x)

/-- `acst` entry `id` starts and stores the accumulator: the elements that go to one line of its destination. (R24, R184) -/
def execAcstRun (s : State) : Res :=
  withCmd s .acst fun k l =>
    let e := k.cmd
    if e.xfail then .next (failCmd s k e)
    else
      let c := ctxOf s k.core k.half
      if readsBadSlot c e then .next (consumeBad s k e) else
      let wb := tyWidth (tyOfCode (fsB e.fslot)) / 8
      let p := e.progress
      let va := (e.dst.toNat + p / 128 * e.pitch + p % 128 * wb) % 2 ^ 64
      let n := min (128 - p % 128) ((128 - va % 128) / wb)
      let xs := (List.range n).map (fun i => (mapGet 0 c.accs (16384 * e.acc + p + i)).toNat)
      let bytes := xs.zipIdx.flatMap (fun x => natToBytes wb (acstCode e x.1 (p + x.2)))
      match engWrite s k l va bytes with
      | .wait s => .next s
      | .fail => .next (failCmd s k e)
      | .ok s after =>
        let s := histCount s k.core e.hist (xs.map (decodeF fmtF32))
        let e := { e with started := true, progress := p + n, landed := e.landed + n * wb }
        let s := landCmd s k.core e (n * wb) false after
        .next (if e.progress = 16384 then cmdDone s k e else updCmd s k e)

end Sys2Proof.Machine
end

