-- ==== Sys2Proof/Machine/Context.lean ====
section
/-! DEFINITION. Walks, fault records and shootdowns; killing a launch; the shadow swap: R203, R204, R206, R209, R237 to R242,
R313. -/

namespace Sys2Proof.Machine
open Sys2Proof

/-! ### Walks and fault records (R239, R240, R313) -/

/-- Byte range of a TLB entry's page. -/
def tlbRange (t : Tlb) : Nat × Nat := (t.vpn / 2 ^ t.size * 2 ^ t.size * 4096, 4096 * 2 ^ t.size)

/-- The closing stages that cover a page (R241). -/
def closingShoot (s : State) (root va : Nat) : Option Nat :=
  (s.fe.shoots.find? (fun p => p.2.root == root && decide (p.2.vpn * 4096 ≤ va) &&
    decide (va < p.2.vpn * 4096 + 2 ^ p.2.size))).map Prod.fst

/-- Install a translation in the shared TLB of a core, and in the requester's own (R239). -/
def installTlb (s : State) (g : Nat) (fetch : Bool) (bay : Nat) (t : Tlb) : State :=
  let c := coreOf s g
  let s := putCore s g { c with stlb := (t :: c.stlb.filter (fun x => x.root != t.root || x.vpn != t.vpn)).take 2048 }
  tlbTouch s g fetch bay t

/-- Where a requester's translations are held: core and bay. -/
def whoTlb (s : State) (die : Nat) (w : Who) : Option (Nat × Nat) :=
  match w with
  | .span u => (spanOf s u).map (fun sp => (sp.core, sp.bay))
  | .engine g _ _ => some (g, 4)
  | _ => some (512 + die, 4)

/-- The registers of the fault queue: base, size, head, tail (R312). -/
def fqBase (s : State) : Nat := (feReg s 0x5000).toNat
def fqSize (s : State) : Nat := (feReg s 0x5008).toNat
def fqHead (s : State) : Nat := (feReg s 0x5010).toNat
def fqTail (s : State) : Nat := (feReg s 0x5018).toNat

/-- The queue of a command, for its fault record. -/
def seqQueue (s : State) (seq : Nat) : Nat := match findCmd s seq with
  | some k => k.q
  | none => 0

/-- The 32 bytes of a fault record (R313); the requester is the first that asked. -/
def faultWords (s : State) (f : FaultRec) (n : Nat) : List Nat :=
  let who := match f.who.head? with
    | some (.span u) => match spanOf s u with
      | some sp => sp.core / 32 + sp.core % 32 * 2 ^ 4 + sp.bay * 2 ^ 10
      | none => f.die
    | some (.engine g _ seq) => g / 32 + g % 32 * 2 ^ 4 + seqQueue s seq * 2 ^ 12
    | _ => f.die + 31 * 2 ^ 4 + 2 ^ 9
  [f.vpn * 4096 + f.kind, f.key + f.level * 2 ^ 32 + (if f.malformed then 2 ^ 35 else 0), who, n]

/-- Fault records enter the queue in the order in which they are made, while it has room (R313). -/
def postFaults (s : State) : State :=
  s.faults.foldl (fun s p =>
    if p.2.number.isSome || p.2.waits.isSome || fqSize s == 0 || (fqTail s + 1) % fqSize s == fqHead s then s
    else
      let n := s.fe.faultNo
      let a := fqBase s + 32 * fqTail s
      let s := orderedBytes s (some (hostWriter s)) false a a ((faultWords s p.2 n).flatMap (natToBytes 8))
      { s with
        faults := mapPut s.faults p.1 { p.2 with number := some n }
        fe := { s.fe with
          faultNo := (n + 1) % 2 ^ 16
          regs := mapPut s.fe.regs 0x5018 (BitVec.ofNat 64 ((fqTail s + 1) % fqSize s)) } }) s

/-- A fault record for one requester of a walk; one with the same root, page and need to write takes it in (R240). -/
def makeFault (s : State) (w : Walk) (n : Need) (level : Nat) (malformed : Bool) (waits : Option Nat) : State :=
  let same := fun (p : Nat × FaultRec) =>
    p.2.die == w.die && p.2.root == w.root && p.2.vpn == w.vpn && p.2.write == n.write && p.2.waits == waits
  match s.faults.find? same with
  | some (i, f) =>
    if f.who.contains n.who then s else { s with faults := mapPut s.faults i { f with who := f.who ++ [n.who] } }
  | none =>
    postFaults { s with
      faults := mapPut s.faults s.nextId ⟨w.die, w.root, n.key, w.vpn, n.write, n.kind, level, malformed, [n.who], waits, none⟩
      nextId := s.nextId + 1 }

/-- An access that a closing page does not let go on: all but reads, and what a started copy does (R241). -/
def closingBars (s : State) (n : Need) : Bool :=
  match n.who with
  | .engine _ _ seq => match findCmd s seq with
    | some k => !startedCopy k.cmd
    | none => true
  | _ => n.write || n.fetch || n.kind == 4

/-! ### The upper levels of a walk (R239) -/

/-- The entry of a level on the way to a page: as its die's translation unit keeps it, where the walk takes that (log 69), or
as its home holds it. -/
def upperEntry (s : State) (w : Walk) (level e : Nat) : Nat :=
  let same := fun (x : Upper) => x.die == w.die && x.root == w.root && x.level == level && x.place == w.vpn >>> (9 * level)
  match s.uppers.find? same with
  | some x => if Config.walkHit s.fresh then x.entry else e
  | none => e

/-- A leaf of level 0 at an entry address: with `g64`, one translation of 64 KiB where the 16 entries agree; where they do not, that of
the page's own entry (R238). -/
def leafAt (s : State) (vpn a e : Nat) : WalkRes :=
  let j := vpn % 16
  let base := e - j * 4096
  let all := bitAt e 5 && decide (j ≤ (e >>> 12) % 2 ^ 40) &&
    (List.range 16).all (fun i => homeRead s (a - 8 * j + 8 * i) 8 == base + i * 4096)
  if all then .leaf 4 ((e >>> 12) % 2 ^ 40 - j) (bitAt e 4) (bitAt e 3) (bitAt e 2)
  else .leaf 0 ((e >>> 12) % 2 ^ 40) (bitAt e 4) (bitAt e 3) (bitAt e 2)

/-- The walk of a translation unit: `walkFrom`, with the upper levels that it keeps. Also the table pointers it has read, and the
lines of the table. -/
def unitWalk (s : State) (w : Walk) : Nat → Nat → WalkRes × List Upper × List Nat
  | level, table =>
    let a := table + 8 * ((w.vpn >>> (9 * level)) % 512)
    let e := upperEntry s w level (homeRead s a 8)
    if !bitAt e 0 then (.fault level false, [], [a / 128])
    else if entryBad e level then (.fault level true, [], [a / 128])
    else if bitAt e 1 then
      (if level = 0 then leafAt s w.vpn a e
        else .leaf (9 * level) ((e >>> 12) % 2 ^ 40) (bitAt e 4) (bitAt e 3) (bitAt e 2), [], [a / 128])
    else match level with
      | 0 => (.fault 0 true, [], [a / 128])
      | k + 1 =>
        let r := unitWalk s w k (((e >>> 12) % 2 ^ 40) * 4096)
        (r.1, ⟨w.die, w.root, k + 1, w.vpn >>> (9 * (k + 1)), e⟩ :: r.2.1, a / 128 :: r.2.2)

/-- The table pointers of a walk are kept. -/
def keepUppers (s : State) (l : List Upper) : State :=
  { s with uppers := l.foldl (fun m x =>
      x :: m.filter (fun y => !(y.die == x.die && y.root == x.root && y.level == x.level && y.place == x.place))) s.uppers }

/-- What the end of a walk gives one requester: the leaf's translation, or a place in a fault record; a barred access to a
closing page waits in one for the end of the shootdown (R238, R240, R241). -/
def completeNeed (s : State) (w : Walk) (r : WalkRes) (n : Need) : State :=
  let closing := closingShoot s w.root (w.vpn * 4096)
  let waits := if closingBars s n then closing else none
  match r with
  | .fault level bad => makeFault s w n level bad waits
  | .leaf size ppn bar x wr =>
    if (n.write && !wr) || (n.fetch && !x) || waits.isSome then makeFault s w n (size / 9) false waits
    else match whoTlb s w.die n.who with
      | some (g, bay) => installTlb s g n.fetch bay ⟨w.root, w.vpn, size, ppn, bar, x, wr, closing.isSome⟩
      | none => s

/-- The walk `i` is one of the 1,024 of its die that run; those after them wait in arrival order (R239). -/
def walkRuns (s : State) (i : Nat) (w : Walk) : Bool :=
  decide ((s.walks.filter (fun p => p.2.die == w.die && decide (p.1 < i))).length < 1024)

/-- Every pending walk of the die that the leaf covers, the walk itself among them: from 64 KiB on, all of its pages (R239). -/
def walksWith (s : State) (i : Nat) (w : Walk) (r : WalkRes) : List (Nat × Walk) :=
  match r with
  | .leaf size _ _ _ _ =>
    s.walks.filter (fun p => p.1 == i || (decide (4 ≤ size) && p.2.die == w.die && p.2.root == w.root &&
      p.2.vpn / 2 ^ size == w.vpn / 2 ^ size))
  | .fault _ _ => [(i, w)]

/-- Walk `id` ends with a leaf, which the requesters' TLBs take, or with a fault record. (R238, R239, R240) -/
def execWalkComplete (s : State) : Res :=
  let i := s.cur.x.id
  match mapFind s.walks i with
  | none => .fault .notEnabled
  | some w =>
    if !walkRuns s i w then .fault .notEnabled
    else
      let r := unitWalk s w 4 w.root
      let all := walksWith s i w r.1
      -- the reads of the table wait where their ways do (R308), and use the slices' lines (R228)
      if r.2.2.any (fun x => isHbm (128 * x) && routeWaits s w.die (dieOfPa (128 * x))) then .fault .notEnabled else
      let s1 := keepUppers { s with walks := s.walks.filter (fun p => !all.any (fun q => q.1 == p.1)), fresh := s.fresh + 1 } r.2.1
      let s1 := r.2.2.foldl homeTouch s1
      .next (all.foldl (fun s p => p.2.needs.foldl (fun s n => completeNeed s p.2 r.1 n) s) s1)

/-- FAIL reaches one requester (R240). -/
def markFail (s : State) (f : FaultRec) (w : Who) : State :=
  match w with
  | .span u => match spanOf s u with
    | some sp => putSpan s u { sp with xfail := (f.vpn, f.write) :: sp.xfail.filter (fun x => x != (f.vpn, f.write)) }
    | none => s
  | .engine _ _ seq => match findCmd s seq with
    | some k => updCmd s k { k.cmd with xfail := true }
    | none => s
  | w => { s with fails := (w, f.root, f.vpn, f.write) :: s.fails }

/-- A fault record is answered: every requester goes on, or has its failure (R240). -/
def answerFault (s : State) (i : Nat) (f : FaultRec) (fail : Bool) : State :=
  let s := { s with faults := mapDel s.faults i }
  if fail then f.who.foldl (fun s w => markFail s f w) s else s

/-! ### Shootdown (R241, R242) -/

def rangesMeet (a n b m : Nat) : Bool := decide (a < b + m) && decide (b < a + n)

/-- A started copy still holds a translation of the page: bytes that it has yet to move lie there (R241). -/
def copyHolds (e : Cmd) (va n : Nat) : Bool :=
  e.kind == .copy && e.started && !e.done &&
  (List.range (e.rows * e.planes)).any (fun r =>
    let k0 := max (r * e.len0) e.progress
    let len := (r + 1) * e.len0 - k0
    decide (0 < len) && (rangesMeet (srcAddr e k0) len va n || (!e.toSlot && rangesMeet (dstAddr e k0) len va n)))

/-- The commands that hold the page of a shootdown, under its root. -/
def shootCmds (s : State) (x : Shoot) : List CmdAt :=
  s.ctxs.flatMap (fun c => c.2.queues.flatMap (fun q => (q.2.filterMap (fun e =>
    if copyHolds e (x.vpn * 4096) (2 ^ x.size) && ((mapFind s.launches e.launch).map Launch.root) == some x.root then
      findCmd s e.seq else none))))

def inRanges (rs : List (Nat × Nat)) (pa : Nat) : Bool := rs.any (fun r => decide (r.1 ≤ pa) && decide (pa < r.1 + r.2))

/-- Counted lines of the page with a count above 0. -/
def shootLines (s : State) (x : Shoot) : List Nat :=
  (s.lines.filter (fun p => p.2.counted && decide (0 < p.2.count) && inRanges x.ranges (128 * p.1))).map Prod.fst

/-- Every TLB's entries changed. -/
def mapTlbs (s : State) (f : List Tlb → List Tlb) : State :=
  { s with cores := s.cores.map (fun c =>
      (c.1, { c.2 with itlb := f c.2.itlb, stlb := f c.2.stlb, dtlb := c.2.dtlb.map (fun d => (d.1, f d.2)) })) }

def tlbIn (x : Shoot) (t : Tlb) : Bool :=
  t.root == x.root && rangesMeet (tlbRange t).1 (tlbRange t).2 (x.vpn * 4096) (2 ^ x.size)

/-- The physical range of the page that a TLB entry gives. -/
def tlbPhys (x : Shoot) (t : Tlb) : Nat × Nat :=
  let r := tlbRange t
  let lo := max r.1 (x.vpn * 4096)
  let hi := min (r.1 + r.2) (x.vpn * 4096 + 2 ^ x.size)
  (t.ppn * 4096 + (lo - r.1), hi - lo)

/-- Copies that have not started hold no translation of the page any more (R241). -/
def dropPages (s : State) (x : Shoot) : State :=
  { s with ctxs := s.ctxs.map (fun c => (c.1, { c.2 with queues := c.2.queues.map (fun q => (q.1, q.2.map (fun e =>
      if ((mapFind s.launches e.launch).map Launch.root) == some x.root then
        { e with pages := e.pages.filter (fun p => !rangesMeet (4096 * p.1.1) 4096 (x.vpn * 4096) (2 ^ x.size)) } else e))) })) }

/-- The closing stage: translations are marked, and the old mapping is noted (R241). -/
def beginShoot (s : State) (x : Shoot) : State :=
  let held := (s.cores.flatMap (fun c => c.2.itlb ++ c.2.stlb ++ c.2.dtlb.flatMap Prod.snd)).filter (tlbIn x)
  -- a page of 64 KiB has 16 entries (R238)
  let walked := (List.range (if x.size ≤ 16 then 2 ^ (x.size - 12) else 1)).filterMap (fun i => match walkTable s x.root (x.vpn + i) with
    | .leaf size ppn bar xx w => some ⟨x.root, x.vpn + i, size, ppn, bar, xx, w, true⟩
    | .fault _ _ => none)
  let x := { x with ranges := ((walked ++ held).map (tlbPhys x)).dedup }
  let s := mapTlbs s (fun l => l.map (fun t => if tlbIn x t then { t with closing := true } else t))
  dropPages { s with fe := { s.fe with shoots := mapPut s.fe.shoots x.pkt x } } x

/-- The bound of shootdown `id` runs out, which ends its closing stage. (R241) -/
def execShootdownBoundExpire (s : State) : Res :=
  match mapFind s.fe.shoots s.cur.x.id with
  | none => .fault .notEnabled
  | some x =>
    if s.ticks < x.due ∨ x.expired then .fault .notEnabled
    else .next { s with fe := { s.fe with shoots := mapPut s.fe.shoots s.cur.x.id { x with expired := true } } }

/-- The copies of lines of the page leave every core's banks, after their dirty bytes, and their plain windows close (R219,
R247). -/
def shootL1 (s : State) (x : Shoot) : State :=
  s.cores.foldl (fun s c =>
    closeWindows ((c.2.l1.filter (fun y => inRanges x.ranges (128 * y.line))).foldl (fun t y => dropCopy t c.1 y.line) s)
      c.1 (fun ln => inRanges x.ranges (128 * ln))) s

/-- A kept table pointer lies on the way to the page. -/
def upperIn (x : Shoot) (u : Upper) : Bool :=
  u.root == x.root && rangesMeet (u.place * 2 ^ (9 * u.level) * 4096) (4096 * 2 ^ (9 * u.level)) (x.vpn * 4096) (2 ^ x.size)

/-- The removal stage of shootdown `id`: translations invalidated, counted lines dropped, holding copies failed; then the
packet completes and its waiting fault records enter the queue. (R241, R242) -/
def execShootdownRemoval (s : State) : Res :=
  let i := s.cur.x.id
  match mapFind s.fe.shoots i with
  | none => .fault .notEnabled
  | some x =>
    if !x.expired && (!(shootLines s x).isEmpty || !(shootCmds s x).isEmpty) then .fault .notEnabled
    -- the drops are requests at the homes, behind a counted fill that waits there (R229)
    else if (shootLines s x).any (fun ln => fillWaits s ln 0) then .fault .notEnabled
    else
      let s1 := mapTlbs { s with uppers := s.uppers.filter (fun u => !upperIn x u) } (fun l => l.filter (fun t => !tlbIn x t))
      let s2 := (shootLines s1 x).foldl (fun t ln => dropLine t ln 2) (shootL1 s1 x)
      let s3 := (shootCmds s2 x).foldl (fun t k => failCmd t k k.cmd) s2
      let s4 := { s3 with fe := { s3.fe with shoots := mapDel s3.fe.shoots i } }
      let s5 := { s4 with faults := s4.faults.map (fun f =>
        if f.2.waits = some i then (f.1, { f.2 with waits := none }) else f) }
      .next (completePkt (postFaults s5) x.pkt 0 0 0 0)

/-! ### Killing launches (R206, R303, R324) -/

/-- The decks of an image that nothing has resumed or preloaded since its spill. -/
def Image.waiting (im : Image) : List (Nat × Deck) := im.decks.filter (fun d => im.out.contains d.1)

/-- The barriers at which spans of a swapped-out context stand registered, those of the named launches, are marked abandoned; its
scratch is not there (R196, R206, R303). -/
def abandonImage (s : State) (im : Image) (mine : Nat → Bool) : State :=
  im.spans.foldl (fun t p => match im.waiting.find? (fun d => d.1 == p.2.deck) with
    | none => t
    | some d =>
      if !mine d.2.launch then t
      else p.2.regs.foldl (fun t e =>
        let a := e.addr.toNat
        if inLocal a then t
        else if inQuad a then barAbandon t (.net (netKey p.2.core a))
        else match (mapFind t.launches d.2.launch).bind (fun l => lookupVa t l.root a) with
          | some pa => barAbandon t (.mem pa.1)
          | none => t) t) s

/-- Every span of a launch number is halted, its waiting records and its swapped-out decks leave, and its completion has the
status. -/
def killLaunch (s : State) (number status : Nat) : State :=
  let mine := fun (s : State) (l : Nat) => numberOf s l == number
  let s : State := match mapFind s.runs number with
    | some r => { s with runs := mapPut s.runs number { r with noted := r.noted ++ [status] } }
    | none => s
  let s := s.images.foldl (fun t im => abandonImage t im.2 (mine s)) s
  let s : State := { s with
    rings := s.rings.map (fun r => (r.1, { r.2 with
      recs := r.2.recs.filter (fun x => !mine s x.launch), delayed := r.2.delayed.filter (fun x => !mine s x.launch) }))
    images := s.images.map (fun im => (im.1, { im.2 with
      out := im.2.out.filter (fun k => !im.2.decks.any (fun d => d.1 == k && mine s d.2.launch)) }))
    cores := s.cores.map (fun c => (c.1, { c.2 with swapFor := c.2.swapFor.filter (fun d => !mine s d.1) })) }
  (s.spans.filter (fun p => match deckOf s p.2.deck with
    | some d => mine s d.launch
    | none => false)).foldl (fun t p => haltSpan t p.1 status) s

/-! ### The shadow swap (R203, R204, R209) -/

def deckIn (d : Deck) (g : Nat) (half : Bool) : Bool := d.core == g && d.half == half

/-- The decks that a context holds: the resident ones, and retired ones with commands in its queues (R172, R286). -/
def ctxDecks (s : State) (g : Nat) (half : Bool) : List (Nat × Deck) :=
  s.decks.filter (fun d => deckIn d.2 g half && (!d.2.retired ||
    (ctxOf s g half).queues.any (fun q => q.2.any (fun e => e.deck == d.1 && e.kind != .marker))))

/-- The context holds no deck. -/
def ctxEmpty (s : State) (g : Nat) (half : Bool) : Bool :=
  (ctxDecks s g half).isEmpty && !s.spans.any (fun p => p.2.core == g && p.2.half == half)

/-- The spans of a context. -/
def ctxSpans (s : State) (g : Nat) (half : Bool) : List (Nat × Span) :=
  s.spans.filter (fun p => p.2.core == g && p.2.half == half)

/-- A waiting `barwait` counts cycles only while its context is active (R209). -/
def pauseWait (s : State) (sp : Span) : Span :=
  match sp.pend with
  | .barwait t0 false a pa p d lim => { sp with pend := .barwait (s.cycle - t0) true a pa p d lim }
  | _ => sp
def resumeWait (s : State) (sp : Span) : Span :=
  match sp.pend with
  | .barwait n true a pa p d lim => { sp with pend := .barwait (s.cycle - n) false a pa p d lim }
  | _ => sp

/-- The `mma` on the array stops after block `b` (R204). -/
def stopMma (s : State) (g : Nat) (half : Bool) (b : Nat) : State :=
  let c := ctxOf s g half
  match (c.queues.flatMap Prod.snd).find? (fun e => e.kind == .mma && e.started && !e.done) with
  | none => s
  | some e =>
    let b1 := max e.progress (min b (mmaBlocks e))
    let c := mmaApply c e e.progress b1
    putCtx s g half { c with queues := c.queues.map (fun q => (q.1, q.2.map (fun x =>
      if x.seq = e.seq ∧ x.kind = .mma then { x with progress := b1 } else x))) }

/-- A black-box entry of a swap (R336). -/
def recSwap (s : State) (g code : Nat) : State :=
  record s { boxEvent s with kind := 2, code := code, die := g / 32, core := g % 32, stop := g % 32 / 4 }

/-- The shadow is ready: empty, holding a complete preloaded image, or holding the context whose spill the swap cancels (R203,
R205). -/
def shadowReady (s : State) (g : Nat) : Bool :=
  let c := coreOf s g
  ctxEmpty s g (!c.active) || c.spill.isSome || (match c.preload with
    | some p => p.2
    | none => false)

/-- A swap of core `g` begins, for a deck of the distributor or none; the `mma` on its array stops after block `b`, and what has run ahead is discarded (R143, R203, R204,
R205, R209, R291). -/
def beginSwap (s : State) (g b : Nat) (deck : Option (Nat × Nat)) : State :=
  let c := coreOf s g
  let s := stopMma s g c.active b
  let s := (ctxSpans s g c.active).foldl (fun t p =>
    writeBackOf (putSpan t p.1 { pauseWait s p.2 with ahead := [] }) g p.1 (fun _ => true)) s
  recSwap (putCore s g { coreOf s g with swap := some s.cycle, spill := none, swapFor := deck }) g 1

/-- Every span of an incoming context is made younger than those that ran before it, in the order that they have (R156). -/
def ageIn (s : State) (g : Nat) (half : Bool) : State :=
  let n := (coreOf s g).ageNext
  let l := ctxSpans s g half
  let s := l.foldl (fun t p => putSpan t p.1 { p.2 with age := p.2.age + n }) s
  putCore s g { coreOf s g with ageNext := n + ((l.map (fun p => p.2.age)).foldl max 0) + 1 }

/-- A context that holds nothing begins anew when it is next used (R159). -/
def freshCtx (s : State) (g : Nat) (half : Bool) : State :=
  if ctxEmpty s g half then { s with ctxs := mapDel s.ctxs (ctxKey g half) } else s

/-- The swap of core `core` ends after 96 cycles: the incoming context issues, and the outgoing one begins to be spilled.
(R156, R203, R205, R209) -/
def execSwapComplete (s : State) : Res :=
  let g := s.cur.x.core
  let c := coreOf s g
  match c.swap with
  | none => .fault .notEnabled
  | some t0 =>
    if s.cycle < t0 + 96 then .fault .notEnabled
    else
      let s := putCore s g { c with
        swap := none, active := !c.active, preload := none,
        spill := if ctxEmpty s g c.active then none else some (0, 0, false) }
      let s := (ctxSpans s g (!c.active)).foldl (fun t p => putSpan t p.1 (resumeWait s p.2)) s
      .next (recSwap (freshCtx (freshCtx (ageIn s g (!c.active)) g c.active) g (!c.active)) g 2)

end Sys2Proof.Machine
end

