-- ==== Sys2Proof/Machine/Image.lean ====
section
/-! DEFINITION. The context image: what a spill writes and when it ends, and what a preload or a RESUME reads back: R157, R159,
R204 to R209, R216. -/

namespace Sys2Proof.Machine
open Sys2Proof

/-! ### The context image (R207) -/

/-- Spans of one bay of a context, older first. -/
def baySpans (l : List (Nat × Span)) (bay : Nat) : List (Nat × Span) :=
  sortBy (fun p => p.2.age) (l.filter (fun p => p.2.bay == bay))

/-- The spans of an image, each with its scalar set and its first vector register of the bay. -/
def imageSpans (vregs : Span → Nat) (l : List (Nat × Span)) : List (Nat × Nat × (Nat × Span)) :=
  (List.range 4).flatMap (fun bay =>
    ((baySpans l bay).foldl (fun (r : List (Nat × Nat × (Nat × Span)) × Nat × Nat) p =>
      (r.1 ++ [(16 * bay + r.2.1, 1024 * bay + r.2.2, p)], r.2.1 + 1, r.2.2 + vregs p.2)) ([], 0, 0)).1)

def vregsOf (s : State) (sp : Span) : Nat :=
  match launchOf s sp with
  | some l => l.vregs
  | none => 0

/-- Does the image name a network barrier (R216)? -/
def namesNet (spans : List (Nat × Span)) (c : Ctx) : Bool :=
  spans.any (fun p => p.2.regs.any (fun e => inQuad e.addr.toNat)) ||
  c.queues.any (fun q => q.2.any (fun e => e.bar.any (fun b => inQuad b.toNat)))

def modeCode : BankMode → Nat
  | .cache => 0
  | .scratch => 1
  | .fifo => 2

/-- The owned banks of a context's decks in ascending physical order: bank, deck, local index (R207). -/
def ownedBanks (decks : List (Nat × Deck)) : List (Nat × Nat × Nat) :=
  sortBy Prod.fst (decks.flatMap (fun d => d.2.banks.zipIdx.map (fun b => (b.1, d.1, b.2))))

/-- The header's words that the spec gives (R207, R216). -/
def imageHeader (s : State) (g : Nat) (l : List (Nat × Span)) (decks : List (Nat × Deck)) (c : Ctx)
    (sets : List Nat) : List Byte :=
  let flags := match decks.head?.bind (fun d => mapFind s.launches d.2.launch) with
    | some l => (if l.det then 1 else 0) + (if l.parapet then 2 else 0) + (if l.debug then 4 else 0) +
        (if l.gang then 8 else 0) + l.prio * 256
    | none => 0
  let own := ownedBanks decks
  let map := (List.range 16).flatMap (fun i => natToBytes 1 (match own[i]? with
    | some (p, _, ix) => modeCode (bankOf (coreOf s g) p).mode * 64 + 32 + ix
    | none => 0))
  let mma := match (c.queues.flatMap Prod.snd).find? (fun e => e.kind == .mma && e.started && !e.done) with
    | some e => e.acc + e.progress * 4 + 2 ^ 10
    | none => 0
  let net := if namesNet l c then 2 ^ 63 + g / 32 * 2 ^ 7 + g % 32 / 4 else 0
  natToBytes 4 0x4A394358 ++ natToBytes 4 1 ++ natToBytes 8 (c.key.getD 0) ++ natToBytes 8 flags ++
    natToBytes 8 ((sets.map (fun i => 2 ^ i)).sum) ++ natToBytes 8 (2 ^ decks.length - 1) ++ map ++ natToBytes 8 0 ++
    natToBytes 8 mma ++ natToBytes 8 net

/-- One deck record of the image (R207). -/
def deckRecord (s : State) (own : List (Nat × Nat × Nat)) (k : Nat) (d : Deck) : List Byte :=
  let bits := (own.zipIdx.filterMap (fun o => if o.1.2.1 = k then some (2 ^ o.2) else none)).sum
  let l := mapFind s.launches d.launch
  let sb := (l.map Launch.banksS).getD 0
  let fb := (l.map Launch.banksF).getD 0
  natToBytes 8 ((l.map (fun x => x.record.toNat)).getD 0) ++ natToBytes 8 d.frame.toNat ++ natToBytes 8 d.join.toNat ++
    natToBytes 8 (numberOf s d.launch + 2 ^ 63) ++ natToBytes 8 bits ++ natToBytes 8 (d.cReq + sb * 2 ^ 8 + fb * 2 ^ 16) ++
    List.replicate 208 0

def stateCode : SlotState → Nat
  | .unclaimed => 0
  | .claimed => 1
  | .draining => 2

def stepCode : StepState → Nat
  | .off => 0
  | .armed => 1
  | .running => 2
  | .due => 3

/-- The two words of a lane-queue entry of a span record (log 11). -/
def blockWords (b : Block) : List Nat :=
  [b.off + (b.n - 1) * 2 ^ 18 + b.j * 2 ^ 26 + b.pos * 2 ^ 42 + b.plane * 2 ^ 50 + bitN b.planed 52 + 2 ^ 63, b.desc.toNat]

/-- A list of words filled up with zeros. -/
def padTo (n : Nat) (l : List Nat) : List Nat := (l ++ List.replicate n 0).take n

/-- A deck's record in the image, from 1 on, or 0. -/
def deckSlot (decks : List (Nat × Deck)) (k : Nat) : Nat :=
  match decks.zipIdx.find? (fun d => d.1.1 == k) with
  | some d => d.2 + 1
  | none => 0

/-- A `barwait` in progress, in five words: destination and limit, cycles counted, barrier, phase, where a global barrier lies (R209). -/
def waitWords : Pending → List Nat
  | .barwait n _ a pa p d lim => [2 ^ 63 + d + lim * 2 ^ 8, n.toNat, a.toNat, p, match pa with
    | some x => 2 ^ 63 + x
    | none => 0]
  | _ => []

/-- The 64 words of the record of span `u`, whose deck has the record `k` (R207; their order is the model's, log 11). -/
def spanRecord (k u : Nat) (sp : Span) : List Nat :=
  [sp.spc.toNat, sp.am.toNat + sp.live.toNat * 2 ^ 32, sp.pl.toNat, sp.n, sp.d, sp.w + sp.bay * 2 ^ 8 + k * 2 ^ 16, sp.age,
   sp.hdepth + stepCode sp.step * 2 ^ 8 + sp.masks.depth * 2 ^ 16 + sp.rets.depth * 2 ^ 32 + sp.masks.hw.length * 2 ^ 48 +
     sp.rets.hw.length * 2 ^ 52] ++
  padTo 8 (sp.masks.hw.map BitVec.toNat) ++ padTo 8 (sp.rets.hw.map BitVec.toNat) ++ padTo 8 (sp.queue.flatMap blockWords) ++
  [match sp.queue.head? with
    | some b => bitN b.began 63 + b.pos + b.plane * 2 ^ 8
    | none => 0] ++
  padTo 24 (sp.regs.flatMap (fun e => [e.addr.toNat, e.lanes.toNat + e.arrived.toNat * 2 ^ 32, e.phase.toNat + 2 ^ 32])) ++
  padTo 5 (waitWords sp.pend) ++ [sp.undo + sp.colls * 2 ^ 32, u]

def kindCode : CmdKind → Nat
  | .copy => 1
  | .mma => 2
  | .acst => 3
  | .coll => 4
  | .marker => 5

/-- The four words of a queue entry whose deck has the record `k` (R207; their layout is the model's, log 11). -/
def cmdWords (k : Nat) (e : Cmd) : List Nat :=
  [kindCode e.kind + bitN e.started 4 + bitN e.toSlot 5 + e.part * 2 ^ 6 + e.slotA * 2 ^ 8 + e.slotB * 2 ^ 12 + e.acc * 2 ^ 16 +
     k * 2 ^ 24 + bitN e.bar.isSome 32, e.src.toNat, e.dst.toNat, (e.bar.getD 0).toNat]

/-- The word of a slot: its count and state, its owner's record, and whether its deck has left it (R207; log 11). -/
def slotWord (decks : List (Nat × Deck)) (x : Slot) : Nat :=
  x.count + stateCode x.st * 2 ^ 8 + deckSlot decks x.owner * 2 ^ 16 + bitN x.release 24

/-- The bytes of an owned bank: of a FIFO its ring's words, oldest first. -/
def bankImage (b : Bank) : List Byte :=
  match b.mode with
  | .fifo => b.ring.flatMap (fun w => natToBytes 4 w.toNat)
  | .scratch => (List.range 32768).map (fun i => mapGet 0 b.bytes i)
  | .cache => []

/-- The sections of the image, in ascending order of their offsets; what none of them covers is zero (R207). -/
def imageSections (s : State) (g : Nat) (half : Bool) : List (Nat × List Byte) :=
  let l := ctxSpans s g half
  let decks := ctxDecks s g half
  let c := ctxOf s g half
  let own := ownedBanks decks
  let at_ := imageSpans (vregsOf s) l
  let words := fun (ws : List Nat) => ws.flatMap (natToBytes 8)
  let slotBytes := fun (f : Slot → SMap Byte) (n : Nat) => (List.range 16).flatMap (fun i =>
    if (slotOf c i).st = .unclaimed then List.replicate n 0 else (List.range n).map (fun j => mapGet 0 (f (slotOf c i)) j))
  [(0, imageHeader s g l decks c (at_.map (fun x => x.1)))] ++
  at_.map (fun x => (0x1000 + 512 * x.1, words (spanRecord (deckSlot decks x.2.2.2.deck) x.2.2.1 x.2.2.2))) ++
  at_.map (fun x => (0x9000 + 512 * x.1, (List.range 64).flatMap (fun r => natToBytes 8 (sRead x.2.2.2 r).toNat))) ++
  at_.map (fun x => (0x11000 + 8 * x.1, natToBytes 8 (~~~ x.2.2.2.sEmpty).toNat)) ++
  at_.map (fun x => (0x11200 + x.2.1 / 8, natToBytes (vregsOf s x.2.2.2 / 8) (~~~ x.2.2.2.vEmpty).toNat)) ++
  (List.range 6).flatMap (fun q => (queueOf c q).zipIdx.map (fun e => (0x12000 + 512 * q + 32 * e.2, words (cmdWords (deckSlot decks e.1.deck) e.1)))) ++
  decks.zipIdx.map (fun d => (0x13000 + 256 * d.2, deckRecord s own d.1.1 d.1.2)) ++
  at_.map (fun x => (0x20000 + 128 * x.2.1, (List.range (vregsOf s x.2.2.2)).flatMap (fun r =>
    (List.range 32).flatMap (fun i => natToBytes 4 (vRead x.2.2.2 r i).toNat)))) ++
  [(0xA0000, slotBytes Slot.data 16384), (0xE0000, slotBytes Slot.scale 1024), (0xE4000, slotBytes Slot.special 1024),
   (0xE8000, words ((List.range 16).map (fun i => slotWord decks (slotOf c i)) ++
     own.map (fun o => (bankOf (coreOf s g) o.1).ring.length))),
   (0xF0000, (List.range 65536).flatMap (fun i => natToBytes 4 (mapGet 0 c.accs i).toNat))] ++
  own.zipIdx.map (fun o => (0x130000 + 0x8000 * o.2, bankImage (bankOf (coreOf s g) o.1.1)))

/-- Bytes of an image (R207). -/
def imageBytes : Nat := 0x1B0000

/-- The cells from `lo` to `hi` - 1 that are not zero, in rising order. -/
def risingCells (lo hi : Nat) : List Host.Cell → List Host.Cell
  | [] => []
  | c :: r => if c.1 < lo ∨ hi ≤ c.1 ∨ c.2 = 0 then risingCells lo hi r else c :: risingCells (c.1 + 1) hi r

/-- Memory with the lines `lo` to `hi` - 1 of an image at `a` written; its sections stand in rising order. -/
def spliceMem (m : List Host.Cell) (a lo hi : Nat) (secs : List (Nat × List Byte)) : List Host.Cell :=
  let cells := secs.flatMap (fun x => x.2.zipIdx.filterMap (fun b => if b.1 = 0 then none else some (a + x.1 + b.2, b.1)))
  m.filter (fun c => decide (c.1 < a + 128 * lo)) ++ risingCells (a + 128 * lo) (max (a + 128 * lo) (a + 128 * hi)) cells ++
    m.filter (fun c => decide (max (a + 128 * lo) (a + 128 * hi) ≤ c.1))

/-- The context engine writes the lines `lo` to `hi` - 1 of the image of a context at `a`, past the slices' ways (R205; log 11). -/
def writeImage (s : State) (g : Nat) (half : Bool) (a lo hi : Nat) : State :=
  let s := { s with mem := spliceMem s.mem a lo hi (imageSections s g half) }
  { s with lines := s.lines.map (fun p =>
      if a / 128 + lo ≤ p.1 ∧ p.1 < a / 128 + hi then
        (p.1, { p.2 with data := p.2.data.map (fun _ => memLine s p.1), below := none, poison := false, latent := false })
      else p) }

/-- A fill that only the resumed context gets: a FIFO pop, or a value due at a quantum end (R114, R204, R298). -/
def staysWaiting (ld : Load) : Bool := ld.fifo.isSome || ld.late

/-- What a spill still waits for: fills and requests of its spans, started copies and `acst`s, bank switches, landings
(R168, R204, R205). -/
def spillBusy (s : State) (g : Nat) (half : Bool) : Bool :=
  let us := (ctxSpans s g half).map Prod.fst
  s.loads.any (fun p => us.contains p.2.uid && !staysWaiting p.2) ||
  s.reqs.any (fun p => (us.contains p.2.uid && (p.2.kind == .atomic || p.2.kind == .rel || p.2.kind == .dropc)) ||
    p.2.by_.any us.contains || p.2.scratch.any (fun k => s.decks.any (fun d => d.1 == k && deckIn d.2 g half))) ||
  (coreOf s g).l1.any (fun x => x.dirty != 0 && x.by_.any us.contains) ||
  (ctxOf s g half).queues.any (fun q => q.2.any (fun e => e.kind != .mma && e.kind != .marker && (e.started || e.done))) ||
  s.decks.any (fun d => deckIn d.2 g half && (d.2.banks.any (fun p => !(bankOf (coreOf s g) p).switch.isEmpty) ||
    s.lands.any (fun x => x.2.deck == d.1)))

/-- A bank that its deck gives back (R158). -/
def freeBank (s : State) (g p : Nat) : State :=
  let b := bankOf (coreOf s g) p
  putBank s g p (if b.mode = .cache then { b with owner := none } else Bank.init)

/-- An engine entry that has started and still works for its deck (R206). -/
def atWork (e : Cmd) : Bool := (e.kind == .copy || e.kind == .acst || e.kind == .coll) && e.started

/-- A deck of a lost context has engine entries that started: it stays, with its banks, until they are done (R206). -/
def deckWorks (c : Ctx) (k : Nat) : Bool := c.queues.any (fun q => q.2.any (fun e => e.deck == k && atWork e))

/-- The shadow's spans leave with their decks, and the banks return; what is not spilled is discarded, but for engine entries
that have started (R158, R205, R206). -/
def clearCtx (s : State) (g : Nat) (half : Bool) : State :=
  let c := ctxOf s g half
  let decks := ctxDecks s g half
  let stay := decks.filter (fun d => deckWorks c d.1)
  let leave := decks.filter (fun d => !deckWorks c d.1)
  let us := (ctxSpans s g half).map Prod.fst
  let s := us.foldl delAgent s
  let s := leave.foldl (fun s d => d.2.banks.foldl (fun t p => freeBank t g p) s) s
  let s := stay.foldl (fun t d => putDeck t d.1 { d.2 with retired := true, gone := true, colls := [] }) s
  { s with
    spans := s.spans.filter (fun p => !(p.2.core == g && p.2.half == half))
    decks := s.decks.filter (fun d => !(leave.map Prod.fst).contains d.1)
    loads := s.loads.filter (fun p => !us.contains p.2.uid)
    ctxs := if stay.isEmpty then mapDel s.ctxs (ctxKey g half)
      else mapPut s.ctxs (ctxKey g half) { Ctx.init with
        key := c.key, accs := c.accs, badAccs := c.badAccs, queues := c.queues.map (fun q => (q.1, q.2.filter atWork)) } }

/-- What is begun in a context that is spilled is taken back, to be tried again when it resumes (R204). -/
def replayPend (s : State) (g : Nat) (half : Bool) : State :=
  (ctxSpans s g half).foldl (fun t p =>
    putSpan (cancelPend t p.2) p.1 (match p.2.pend with
      | .store _ | .consume _ | .atomic _ | .push _ _ => { p.2 with pend := .none }
      | _ => p.2)) s

/-- The save area of a spill: the one that its first fault has named, or one named now (R205, R206). -/
def saveArea (at_ ln a : Nat) : Bool := a % 4096 == 0 && (ln == 0 || at_ == a)

/-- The spill of core `core` finishes: the image stands at the save area `a`, and the shadow is empty. (R168, R205, R207,
R209) -/
def execSpillComplete (s : State) : Res :=
  let g := s.cur.x.core
  let a := s.cur.x.a
  let c := coreOf s g
  let half := !c.active
  match c.spill with
  | some (at_, ln, false) =>
    if c.swap.isSome ∨ !saveArea at_ ln a ∨ !paExists s a then .fault .notEnabled
    else
      let s := replayPend s g half
      if spillBusy s g half then .fault .notEnabled
      else
        let decks := ctxDecks s g half
        let us := (ctxSpans s g half).map Prod.fst
        let banks := (ownedBanks decks).map (fun o => (o.1, bankOf c o.1))
        let seqs := (ctxOf s g half).queues.flatMap (fun q => q.2.map Cmd.seq)
        let img : Image := ⟨ctxSpans s g half, decks, banks, ctxOf s g half,
          s.loads.filter (fun p => us.contains p.2.uid),
          s.ord.agents.filter (fun p => us.contains p.1 || seqs.contains p.1), a, decks.map Prod.fst⟩
        let s1 := writeImage s g half a ln (imageBytes / 128)
        let s2 := clearCtx { s1 with images := mapPut s1.images s1.nextId img, nextId := s1.nextId + 1 } g half
        .next (putCore s2 g { coreOf s2 g with spill := none })
  | _ => .fault .notEnabled

/-- A spill store of core `core` to the address `a` of the save area `c` faults: the lines before it are written; the spill
is paused there (`b` = 0), or the context is lost (`b` = 1). Lines beyond the header wait as the spill does. (R205, R206, R336) -/
def execSpillFault (s : State) : Res :=
  let x := s.cur.x
  let g := x.core
  let c := coreOf s g
  let half := !c.active
  match c.spill with
  | none => .fault .notEnabled
  | some (at_, ln, paused) =>
    let n := (x.a - x.c) / 128
    if paused ∨ !saveArea at_ ln x.c ∨ x.a < x.c ∨ imageBytes ≤ x.a - x.c ∨ n < ln then .fault .notEnabled
    else
      let s := replayPend s g half
      if 32 < n ∧ spillBusy s g half then .fault .notEnabled
      else
        let s := writeImage s g half x.c ln n
        if x.b = 0 then .next (putCore s g { coreOf s g with spill := some (x.c, n, true) })
        else
          let nums := ((ctxDecks s g half).map (fun d => numberOf s d.2.launch)).dedup
          let s := nums.foldl (fun t n => record t { boxEvent t with
            kind := 1, code := 0x84, die := g / 32, core := g % 32, launch := n, key := (ctxOf s g half).key.getD 0,
            arg := x.a, stop := g % 32 / 4 }) s
          let s := (ctxSpans s g half).foldl (fun t p => p.2.regs.foldl (fun t e => match entryBar t p.2 e.addr with
            | some b => barAbandon t b
            | none => t) t) s
          let s := clearCtx s g half
          let s := nums.foldl (fun t n => killLaunch t n noteLost) s
          .next (putCore s g { coreOf s g with spill := none })

/-- The paused spill of core `core` resumes once its fault is resolved. (R206) -/
def execSpillResume (s : State) : Res :=
  let g := s.cur.x.core
  let c := coreOf s g
  match c.spill with
  | some (a, ln, true) => .next (putCore s g { c with spill := some (a, ln, false) })
  | _ => .fault .notEnabled

/-! ### Restoring an image (R205, R207, R210) -/

/-- Banks in cache mode that belong to no context (R155). -/
def freeBanks (s : State) (g : Nat) : List Nat :=
  (List.range 32).filter (fun p =>
    let b := bankOf (coreOf s g) p
    b.mode == .cache && b.owner.isNone && b.switch.isEmpty)

/-- Take a bank from the cache for a deck: its lines leave (R157). -/
def takeBank (s : State) (g p deck : Nat) (m : BankMode) : State :=
  let s := ((coreOf s g).l1.filter (fun x => x.bank == p)).foldl (fun t x => invalidate t g x.line) s
  putBank s g p { Bank.init with mode := m, owner := some deck }

/-- A context whose job key changes begins as at power-on, and the core's cache banks are emptied (R159). -/
def keyChange (s : State) (g : Nat) (half : Bool) (key : Nat) : State :=
  let c := ctxOf s g half
  if c.key = some key then s
  else putCtx (dropLines s g (fun _ => true)) g half { Ctx.init with key := some key, queues := c.queues }

/-! ### What an image in memory says (R207; log 11) -/

/-- Bits lo to lo + n - 1 of a number. -/
def bitsAt (x lo n : Nat) : Nat := (x >>> lo) % 2 ^ n

/-- A number of an image in memory. -/
def imgRead (s : State) (a n : Nat) : Nat := homeRead s a n

/-- Word `i` of the span record of a scalar set, and of the record of a deck. -/
def recWord (s : State) (a set i : Nat) : Nat := imgRead s (a + 0x1000 + 512 * set + 8 * i) 8
def deckWord (s : State) (a k i : Nat) : Nat := imgRead s (a + 0x13000 + 256 * k + 8 * i) 8

/-- The scalar sets and the deck records that an image has, and its key. -/
def imageSets (s : State) (a : Nat) : List Nat := (List.range 64).filter (bitAt (imgRead s (a + 0x18) 8))
def imageSlots (s : State) (a : Nat) : List Nat :=
  (List.range 16).filter (fun k => bitAt (imgRead s (a + 0x20) 8) k && bitAt (deckWord s a k 3) 63)
def imageKey (s : State) (a : Nat) : Nat := imgRead s (a + 8) 4

/-- Mode and local index of an image bank; none where it is not used. -/
def bankEntry (s : State) (a i : Nat) : Option (BankMode × Nat) :=
  let e := imgRead s (a + 0x28 + i) 1
  if bitAt e 5 then some (if e / 64 = 1 then .scratch else if e / 64 = 2 then .fifo else .cache, e % 32) else none

/-- The image banks of a deck's record, in the order of their local indexes. -/
def slotBanks (s : State) (a k : Nat) : List Nat :=
  sortBy (fun i => ((bankEntry s a i).map Prod.snd).getD 0)
    ((List.range 16).filter (fun i => (bankEntry s a i).isSome && bitAt (deckWord s a k 4) i))

/-- What the spill kept of the image at `a`: found by its first span, whose record names it; where it has none, by its place. -/
def imageKept (s : State) (a : Nat) : Image :=
  let im : Option (Nat × Image) := match imageSets s a with
    | set :: _ => s.images.find? (fun x => x.2.spans.any (fun p => p.1 == recWord s a set 63))
    | [] => s.images.reverse.find? (fun x => x.2.at_ == a && x.2.spans.isEmpty)
  (im.map Prod.snd).getD Image.none

/-- The id of the span of a set: that which its record names, where the spill kept it and no set before it has it; else a new one. -/
def setSpan (s : State) (a : Nat) (h : Image) (set : Nat) : Nat :=
  let u := recWord s a set 63
  if (mapFind h.spans u).isSome && !(imageSets s a).any (fun j => decide (j < set) && recWord s a j 63 == u) then u
  else s.nextId + set

/-- The id of the deck of a record: the one that the spill kept there, else a new one. -/
def slotDeck (s : State) (h : Image) (k : Nat) : Nat :=
  match h.decks[k]? with
  | some d => d.1
  | none => s.nextId + 64 + k

/-- The sets of a deck's spans, and the first vector register of each set of the image in its bay. -/
def slotSets (s : State) (a k : Nat) : List Nat := (imageSets s a).filter (fun set => bitsAt (recWord s a set 5) 16 8 == k + 1)
def setFirst (s : State) (a : Nat) (vregs : Nat → Nat) (set : Nat) : Nat :=
  1024 * (set / 16) + (((imageSets s a).filter (fun j => j / 16 == set / 16 && decide (j < set))).map vregs).sum

/-- A span of which nothing is known yet. -/
def blankSpan : Span :=
  { spc := 0, s := [], sEmpty := 0, v := [], vEmpty := 0, am := 0, live := 0, pl := 0, masks := ⟨[], 0⟩, rets := ⟨[], 0⟩, queue := [],
    ahead := [], traps := [], step := .off, regs := [], binds := [], n := 0, d := 0, w := 0, deck := 0, core := 0, half := false,
    bay := 0, age := 0, pend := .none, xfail := [], shadow := none, ltime := 0, acqAt := 0, floors := [], bounds := [], buffer := [],
    badS := 0, badV := [], badRec := false, badTable := false, held := false, undo := 0, colls := 0, acquiring := none, halted := false, lost := [], ready := [] }

def blankDeck : Deck :=
  ⟨0, 0, (0, 0, 0), 0, false, [], true, 0, 0, false, [], 0, false, false, false, [], [], 0, false, [], false, none⟩

/-- The newest entries of a stack, from its eight words of a span record. -/
def restoreStack (s : State) (a set first n depth : Nat) : Stack :=
  ⟨(List.range (min n 8)).map (fun i => BitVec.ofNat 64 (recWord s a set (first + i))), depth⟩

/-- A lane queue, from its words of a span record: a block that the spill knows keeps its point and its code; the code of another
is what memory holds now. -/
def restoreBlocks (s : State) (l : Option Launch) (a set : Nat) (sp : Span) : List Block :=
  (List.range 4).filterMap (fun i =>
    let w := recWord s a set (24 + 2 * i)
    if !bitAt w 63 then none
    else
      let began := i == 0 && bitAt (recWord s a set 32) 63
      let b : Block := ⟨BitVec.ofNat 64 (recWord s a set 0) - 4, bitAt w 52, w % 2 ^ 18, BitVec.ofNat 64 (recWord s a set (25 + 2 * i)),
        bitsAt w 26 16, bitsAt w 18 8 + 1, bitsAt w 42 8, bitsAt w 50 2, began, [], [], [], none⟩
      some (match sp.queue[i]? with
        | some o =>
          if !sameBlock o b then { b with code := (l.map (fun l => blockCode s sp l b)).getD [] }
          else if o.pos = b.pos ∧ o.plane = b.plane then { o with began := began }
          else { b with point := o.point, code := o.code }
        | none => { b with code := (l.map (fun l => blockCode s sp l b)).getD [] }))

/-- A registration table, from its words of a span record (R194). -/
def restoreRegs (s : State) (a set : Nat) : List RegEntry :=
  (List.range 8).filterMap (fun i =>
    let w := fun k => recWord s a set (33 + 3 * i + k)
    if !bitAt (w 2) 32 then none
    else some ⟨BitVec.ofNat 64 (w 0), BitVec.ofNat 32 (w 1), BitVec.ofNat 32 (w 1 >>> 32), BitVec.ofNat 32 (w 2)⟩)

/-- A `barwait` in progress, from its words of a span record; what else a span has begun is as the spill kept it (R209). -/
def restoreWait (s : State) (a set : Nat) (old : Pending) : Pending :=
  let w := fun k => recWord s a set (57 + k)
  if bitAt (w 0) 63 then
    .barwait (w 1) true (BitVec.ofNat 64 (w 2)) (if bitAt (w 4) 63 then some (w 4 % 2 ^ 63) else none) (w 3 % 2 ^ 32) (w 0 % 256)
      (bitsAt (w 0) 8 32)
  else match old with
    | .barwait _ _ _ _ _ _ _ => .none
    | p => p

def stepOf (n : Nat) : StepState := if n = 0 then .off else if n = 1 then .armed else if n = 2 then .running else .due

/-- What a trap kept of its unit, as its frame in memory has it (R198). -/
def savedOfFrame (s : State) (l : Option Launch) (n i : Nat) : Saved :=
  match l.bind (fun l => lookupVa s l.root (l.frameBase.toNat + 256 * n + 128 * i)) with
  | some (pa, _) =>
    let w := homeRead s pa 8
    ⟨bitAt w 8, bitAt w 9, BitVec.ofNat 64 (homeRead s (pa + 8) 8), bitsAt w 12 8, bitsAt w 10 2, []⟩
  | none => ⟨false, false, 0, 0, 0, []⟩

/-- The span of a set: what the image's sections hold of it, and the rest as the spill kept it (R207, R208). -/
def readSpan (s : State) (l : Option Launch) (a vregs set vfirst deck : Nat) (old : Span) : Span :=
  let w := recWord s a set
  let depth := w 7 % 2 ^ 8
  { old with
    -- what had run ahead runs again from the oldest S-word that has not committed (R143); a pc is a multiple of 4 (R29)
    ahead := []
    ready := []
    spc := BitVec.ofNat 64 (w 0 / 4 * 4)
    am := BitVec.ofNat 32 (w 1)
    live := BitVec.ofNat 32 (w 1 >>> 32)
    pl := BitVec.ofNat 64 (w 2)
    n := w 3, d := w 4, w := w 5 % 256, deck := deck, bay := set / 16, age := w 6
    traps := if old.traps.length = depth then old.traps
      else (List.range depth).reverse.map (fun i => savedOfFrame s l (w 3) i)
    step := stepOf (bitsAt (w 7) 8 8)
    masks := restoreStack s a set 8 (bitsAt (w 7) 48 4) (bitsAt (w 7) 16 16)
    rets := restoreStack s a set 16 (bitsAt (w 7) 52 4) (bitsAt (w 7) 32 16)
    queue := restoreBlocks s l a set old
    regs := restoreRegs s a set
    pend := restoreWait s a set old.pend
    undo := w 62 % 2 ^ 32
    colls := w 62 >>> 32
    s := mapOfFn 0 63 (fun r => BitVec.ofNat 64 (imgRead s (a + 0x9000 + 512 * set + 8 * r) 8))
    sEmpty := ~~~ BitVec.ofNat 64 (imgRead s (a + 0x11000 + 8 * set) 8)
    v := mapOfFn 0 (32 * vregs) (fun i => BitVec.ofNat 32 (imgRead s (a + 0x20000 + 128 * vfirst + 4 * i) 4))
    vEmpty := BitVec.ofNat 256 (2 ^ vregs - 1 - imgRead s (a + 0x11200 + vfirst / 8) (vregs / 8) % 2 ^ vregs) }

/-- The deck of record `k`, of launch record `launch`; its banks are image banks, and one without spans has retired. -/
def readDeck (s : State) (a : Nat) (h : Image) (k launch : Nat) : Deck :=
  let old := ((h.decks[k]?).map Prod.snd).getD blankDeck
  let sets := slotSets s a k
  let index := match sets with
    | set :: _ => recWord s a set 4
    | [] => old.index
  let ids := sets.map (setSpan s a h)
  { old with
    launch := launch, index := index
    coords := match mapFind s.launches launch with
      | some l => (index % l.dims.1, index / l.dims.1 % l.dims.2.1, index / (l.dims.1 * l.dims.2.1))
      | none => old.coords
    banks := slotBanks s a k
    frame := BitVec.ofNat 64 (deckWord s a k 1), join := BitVec.ofNat 64 (deckWord s a k 2), cReq := deckWord s a k 5 % 64
    retired := sets.isEmpty
    uids := old.uids ++ ids.filter (fun u => !old.uids.contains u) }

/-- Image bank `i`: its mode and bytes, or the ring's words, oldest first. -/
def readBank (s : State) (a : Nat) (h : Image) (i : Nat) : Bank :=
  let at_ := a + 0x130000 + 0x8000 * i
  let old := ((h.banks[i]?).map Prod.snd).getD Bank.init
  let mode := ((bankEntry s a i).map Prod.fst).getD .cache
  { old with
    mode := mode
    bytes := if mode = .scratch then mapOfFn 0 32768 (fun k => BitVec.ofNat 8 (imgRead s (at_ + k) 1)) else []
    ring := if mode = .fifo then
        (List.range (min 8192 (imgRead s (a + 0xE8080 + 8 * i) 8))).map (fun k => BitVec.ofNat 32 (imgRead s (at_ + 4 * k) 4))
      else [] }

def slotStateOf (n : Nat) : SlotState := if n = 0 then .unclaimed else if n = 1 then .claimed else .draining

/-- Slot `i` with its side stores, state and count; `deck` gives the deck of a record. -/
def readSlot (s : State) (a : Nat) (h : Image) (deck : Nat → Nat) (i : Nat) : Slot :=
  let part := fun (o n : Nat) => mapOfFn (0 : Byte) n (fun j => BitVec.ofNat 8 (imgRead s (a + o + n * i + j) 1))
  let w := imgRead s (a + 0xE8000 + 8 * i) 8
  let old := slotOf h.ctx i
  let k := bitsAt w 16 8
  { old with
    st := slotStateOf (bitsAt w 8 8), count := w % 256, release := bitAt w 24, owner := if k = 0 then old.owner else deck (k - 1)
    number := if k = 0 then old.number else deckWord s a (k - 1) 3 % 2 ^ 16
    data := part 0xA0000 16384, scale := part 0xE0000 1024, special := part 0xE4000 1024 }

def kindOf (n : Nat) : CmdKind := if n = 1 then .copy else if n = 2 then .mma else if n = 3 then .acst else if n = 4 then .coll else .marker

/-- Entry `i` of queue `q`, where there is one; the block that the matrix array goes on with stands in the header. -/
def readCmd (s : State) (a : Nat) (h : Image) (deck launch : Nat → Nat) (q i : Nat) : Option Cmd :=
  let w := fun k => imgRead s (a + 0x12000 + 512 * q + 32 * i + 8 * k) 8
  if w 0 % 16 = 0 then none
  else
    let old := ((queueOf h.ctx q)[i]?).getD Cmd.init
    let kind := kindOf (w 0 % 16)
    let k := bitsAt (w 0) 24 8
    let m := imgRead s (a + 0x40) 8
    some { old with
      kind := kind, started := bitAt (w 0) 4, toSlot := bitAt (w 0) 5, part := bitsAt (w 0) 6 2, slotA := bitsAt (w 0) 8 4
      slotB := bitsAt (w 0) 12 4, acc := bitsAt (w 0) 16 4
      progress := if kind = .mma ∧ bitAt (w 0) 4 ∧ bitAt m 10 then bitsAt m 2 8 else old.progress
      src := BitVec.ofNat 64 (w 1), dst := BitVec.ofNat 64 (w 2)
      bar := if bitAt (w 0) 32 then some (BitVec.ofNat 64 (w 3)) else none
      deck := if k = 0 then old.deck else deck (k - 1), launch := if k = 0 then old.launch else launch (k - 1) }

/-- The image at `a` as a whole; `launch` gives the launch record of a deck's record. Its decks' banks are image banks. -/
def readImage (s : State) (a : Nat) (launch : Nat → Nat) : Image :=
  let h := imageKept s a
  let slotOfSet := fun set => bitsAt (recWord s a set 5) 16 8 - 1
  let ln := fun set => mapFind s.launches (launch (slotOfSet set))
  let vr := fun set => ((ln set).map Launch.vregs).getD 0
  let spans := (imageSets s a).map (fun set =>
    let u := setSpan s a h set
    (u, readSpan s (ln set) a (vr set) set (setFirst s a vr set) (slotDeck s h (slotOfSet set)) ((mapFind h.spans u).getD blankSpan)))
  let ctx : Ctx := ⟨(List.range 16).map (fun i => (i, readSlot s a h (slotDeck s h) i)),
    mapOfFn 0 65536 (fun i => BitVec.ofNat 32 (imgRead s (a + 0xF0000 + 4 * i) 4)),
    (List.range 6).map (fun q => (q, (List.range 16).filterMap (readCmd s a h (slotDeck s h) launch q))),
    some (imageKey s a), h.ctx.badAccs⟩
  ⟨spans, (imageSlots s a).map (fun k => (slotDeck s h k, readDeck s a h k (launch k))),
   (List.range 16).filterMap (fun i => if (bankEntry s a i).isSome then some (i, readBank s a h i) else none), ctx,
   h.loads.filter (fun p => spans.any (fun x => x.1 == p.2.uid)), h.agents, a, h.out⟩

/-! ### Restoring an image (R205, R207, R210) -/

/-- A command, and an entry of a commit buffer, whose context is restored under new identities. -/
def moveCmd (newId launch : Nat → Nat) (e : Cmd) : Cmd :=
  { e with uid := newId e.uid, deck := newId e.deck, seq := newId e.seq, fence := e.fence.map newId, launch := launch e.launch }
def moveEntry (newId launch : Nat → Nat) : Buffered → Buffered
  | .atomic w op ord load lanes => .atomic w op ord (load.map newId) lanes
  | .hclr t bias older => .hclr t bias (older.map newId)
  | .bkmode v older => .bkmode v (older.map newId)
  | .cpush r ws p i => .cpush r ws p (newId i)
  | .engine q c => .engine q (moveCmd newId launch c)
  | .coll c sa => .coll (moveCmd newId launch c) sa
  | x => x

/-- An agent of a restored context goes on under its new id: what it did is before what it does (R248). -/
def restoreAgent (s : State) (newId : Nat → Nat) (p : Nat × Agent) : State :=
  putAgent s (newId p.1) { p.2 with epoch := 0, clock := addKnown p.2.clock ⟨p.1, p.2.epoch, none⟩ }

/-- A restored context has its decks no more in the image that the spill kept. -/
def takeOut (s : State) (decks : List (Nat × Deck)) : State :=
  { s with images := s.images.map (fun im => (im.1, { im.2 with out := im.2.out.filter (fun k => !decks.any (fun d => d.1 == k)) })) }

/-- An image is restored into a context: any free banks are taken, spans keep bay and order of age, and every unit goes on where it
stood. `launch` gives the launch record of each deck. (R156, R207, R209) -/
def restoreImage (s : State) (img : Image) (g : Nat) (half : Bool) (launch : Nat → Nat) : State :=
  let kept := (imageKept s img.at_).banks
  let s := keyChange s g half (img.ctx.key.getD 0)
  let base := s.nextId + 128
  let newId := fun (i : Nat) => i + base
  let free := freeBanks s g
  let bankTo := fun (i : Nat) => (img.banks.findIdx? (fun (b : Nat × Bank) => b.1 == i)).bind (fun j => free[j]?)
  let owner := fun (i : Nat) => ((img.decks.find? (fun d => d.2.banks.contains i)).map Prod.fst).getD 0
  let s1 := img.banks.foldl (fun t b => match bankTo b.1 with
    | some p =>
      let k := newId (owner b.1)
      putBank (takeBank t g p k b.2.mode) g p { b.2 with owner := some k }
    | none => t) s
  -- a bank by its physical number of the time of the spill
  let moved := fun (p : Nat) => ((kept.findIdx? (fun b => b.1 == p)).bind bankTo).getD p
  let s2 := img.decks.foldl (fun t d => putDeck t (newId d.1) { d.2 with
    core := g, half := half, banks := d.2.banks.filterMap bankTo, launch := launch d.2.launch,
    uids := d.2.uids ++ d.2.uids.map newId
    colls := d.2.colls.map (fun f => { f with
      uids := f.uids.map newId, cmd := moveCmd newId launch f.cmd, fence := f.fence.map newId }) }) s1
  let s3 := img.spans.foldl (fun t p => putSpan t (newId p.1) { p.2 with
      deck := newId p.2.deck, core := g, half := half
      buffer := p.2.buffer.map (fun b => (b.1, moveEntry newId launch b.2))
      acquiring := p.2.acquiring.map (fun q => { q with load := newId q.load }) }) s2
  let s4 := putCtx s3 g half { img.ctx with
    slots := img.ctx.slots.map (fun (x : Nat × Slot) => (x.1, { x.2 with owner := newId x.2.owner }))
    queues := img.ctx.queues.map (fun (q : Nat × List Cmd) => (q.1, q.2.map (moveCmd newId launch))) }
  let s5 := img.agents.foldl (fun t p => restoreAgent t newId p) s4
  let s6 := takeOut { s5 with
    loads := img.loads.foldl (fun m p => mapPut m (newId p.1) { p.2 with
      uid := newId p.2.uid, fifo := p.2.fifo.map moved }) s5.loads
    nextId := 2 * base + 1 } img.decks
  if half = (coreOf s6 g).active then
    let s7 := ageIn s6 g half
    (ctxSpans s7 g half).foldl (fun t p => putSpan t p.1 (resumeWait s7 p.2)) s7
  else s6

end Sys2Proof.Machine
end

