-- ==== Sys2Proof/Machine/Launch.lean ====
section
/-! DEFINITION. Launch and continuation records and their checks, rings, the distributor, gangs, deck retirement, launch
completion and RESUME: R34, R154 to R159, R197, R271, R282 to R293, R297, R300, R317, R320, R322. -/

namespace Sys2Proof.Machine
open Sys2Proof

/-! ### Reading records (R283) -/

inductive Rd where
  | ok (bytes : List Byte)
  | wait (s : State)
  | fail
  deriving DecidableEq, Repr

/-- Bytes of virtual memory at their homes, through a translation that can wait or fail. -/
def rdVa (tr : State → Nat → Xl) (s : State) (va n : Nat) : Rd :=
  let pages := (List.range ((va + n - 1) / 4096 - va / 4096 + 1)).map (fun i => max va ((va / 4096 + i) * 4096))
  pages.foldl (fun r a => match r with
    | .ok bs =>
      if vaTop ≤ a ∨ inLocal a ∨ inQuad a then .fail
      else match tr s a with
        | .wait s => .wait s
        | .fail => .fail
        | .ok pa _ =>
          let m := min (va + n) ((a / 4096 + 1) * 4096) - a
          .ok (bs ++ (List.range m).map (fun i => homeByte s (pa + i)))
    | r => r) (.ok [])

/-- The 64-bit words of a byte list. -/
def words64 (bs : List Byte) : Nat → List Nat
  | 0 => []
  | k + 1 => bytesToNat (bs.take 8) :: words64 (bs.drop 8) k

def signedAt (x lo n : Nat) : Int := (BitVec.ofNat n (x >>> lo)).toInt

/-! ### The checks of R283 -/

/-- Reserved bits of a launch record's words 0 to 15 (R282). -/
def launchReserved (q : List Nat) : Bool :=
  let w := fun i => q.getD i 0
  bitsAt (w 0) 57 7 != 0 || bitsAt (w 1) 57 7 != 0 || bitsAt (w 2) 57 7 != 0 || bitsAt (w 4) 53 11 != 0 ||
  bitsAt (w 5) 6 2 != 0 || bitsAt (w 5) 13 3 != 0 || bitsAt (w 5) 21 3 != 0 || bitsAt (w 5) 27 5 != 0 ||
  bitsAt (w 5) 37 27 != 0 || bitsAt (w 6) 57 7 != 0 || bitsAt (w 8) 6 2 != 0 || bitsAt (w 8) 14 18 != 0 ||
  bitsAt (w 13) 32 32 != 0 || w 14 != 0 || w 15 != 0

/-- A format slot with a reserved value (R22, R23). -/
def slotReserved (f : BitVec 128) : Bool :=
  decide (1 < fsScale f) || !([0, 3, 5].contains (fsBlk f)) || fsRm f == 7 || f.extractLsb' 0 39 != 0

/-- Does the deck with coordinates of index d (R32). -/
def coordsOf (dims : Nat × Nat × Nat) (d : Nat) : Nat × Nat × Nat :=
  (d % dims.1, d / dims.1 % dims.2.1, d / (dims.1 * dims.2.1))

inductive Table where
  | ok (l : List (List Nat))
  | bad
  | wait (s : State)
  deriving DecidableEq, Repr

/-- A table of an 8-byte count and entries of `n` words (R271, R300). -/
def rdTable (tr : State → Nat → Xl) (s : State) (va limit n : Nat) : Table :=
  if va = 0 then .ok []
  else match rdVa tr s va 8 with
    | .wait s => .wait s
    | .fail => .bad
    | .ok b =>
      let k := bytesToNat b
      if limit < k then .bad
      else if k = 0 then .ok []
      else match rdVa tr s (va + 8) (8 * n * k) with
        | .wait s => .wait s
        | .fail => .bad
        | .ok b => .ok ((List.range k).map (fun i => words64 (b.drop (8 * n * i)) n))

def regionBad (e : List Nat) : Bool :=
  let b := e.getD 0 0
  let n := e.getD 1 0
  let o := e.getD 2 0
  bitsAt b 57 7 != 0 || bitsAt n 40 24 != 0 || bitsAt o 57 7 != 0 || b % 128 != 0 || n % 128 != 0 || n == 0 || o % 16 != 0

def rangeBad (e : List Nat) : Bool :=
  let b := e.getD 0 0
  let n := e.getD 1 0
  bitsAt b 57 6 != 0 || bitsAt n 40 24 != 0 || n == 0 || n % 128 != 0 || bitsAt b 0 57 % 128 != 0

/-- The interval of write range w for the deck with coordinates c (R300). -/
def rangeOf (w : Nat × Nat × Bool) (st : Int × Int × Int) (c : Nat × Nat × Nat) : Int × Int :=
  let b : Int := (w.1 : Int) + c.1 * st.1 + c.2.1 * st.2.1 + c.2.2 * st.2.2
  (b, b + w.2.1)

/-- Write ranges of two decks of one phase overlap, and not both only accumulate (R297, R300). -/
def rangesOverlap (dims : Nat × Nat × Nat) (phaseLen : Nat) (ws : List ((Nat × Nat × Bool) × (Int × Int × Int))) : Bool :=
  let phase := fun d => if phaseLen = 0 then 0 else d / phaseLen
  !ws.isEmpty && (List.range (dims.1 * dims.2.1 * dims.2.2)).any (fun d => (List.range d).any (fun e =>
    phase d == phase e && ws.any (fun x => ws.any (fun y =>
      !(x.1.2.2 && y.1.2.2) &&
      (let a := rangeOf x.1 x.2 (coordsOf dims d)
       let b := rangeOf y.1 y.2 (coordsOf dims e)
       decide (a.1 < b.2) && decide (b.1 < a.2))))))

inductive Checked where
  | ok (l : Launch) (first last : Nat) (frame join : Word64)
  | bad (reason : Nat)
  | wait (s : State)
  deriving DecidableEq, Repr

/-- The launch that a launch record's words describe. -/
def launchOfWords (q : List Nat) (number key root record : Nat) (ctx : List Nat) (regions writes : List (List Nat)) : Launch :=
  let w := fun i => q.getD i 0
  let b := fun (x : Nat) => BitVec.ofNat 64 x
  let flag := fun i => bitAt (w 5) i
  { number, key, root, entry := b (w 0), laneBase := b (w 1), sysctx := b (w 2), trapEntry := b (ctx.getD 0 0),
    emuEntry := b (ctx.getD 1 0), frameBase := b (ctx.getD 2 0), undoBase := b (ctx.getD 3 0),
    dims := (bitsAt (w 3) 0 32, bitsAt (w 3) 32 32, bitsAt (w 4) 0 32), spansPerDeck := bitsAt (w 4) 32 8,
    vregs := 8 * bitsAt (w 4) 40 8, scratch := 32768 * bitsAt (w 4) 48 5,
    banksC := bitsAt (w 5) 0 6, banksS := bitsAt (w 5) 8 5, banksF := bitsAt (w 5) 16 5,
    prio := bitsAt (w 5) 24 3, det := flag 32, parapet := flag 33, debug := flag 34, gang := flag 35,
    quantumLen := bitsAt (w 8) 32 32, spill := b (w 12),
    fslots := (List.range 8).map (fun i => BitVec.ofNat 128 (w (16 + 2 * i) + w (17 + 2 * i) * 2 ^ 64)),
    regions := regions.map (fun e => ⟨e.getD 0 0, e.getD 1 0, b (e.getD 2 0)⟩),
    writes := writes.map (fun e => (bitsAt (e.getD 0 0) 0 57, e.getD 1 0, bitAt (e.getD 0 0) 63)),
    strides := writes.map (fun e => (signedAt (e.getD 2 0) 0 64, signedAt (e.getD 3 0) 0 64, signedAt (e.getD 4 0) 0 64)),
    record := b record, snapshot := [], nets := [], phase := 0, begun := false, phaseLen := bitsAt (w 9) 0 32,
    watchdog := if bitsAt (w 9) 32 32 = 0 then 1048576 else bitsAt (w 9) 32 32,
    tile := if flag 36 then some (bitsAt (w 6) 0 57, signedAt (w 7) 0 32, signedAt (w 7) 32 32,
        bitsAt (w 8) 0 6, bitsAt (w 8) 8 6) else none }

/-- The reason of the checks that need no further reading, in ascending order (R283). -/
def sizeReason (l : Launch) : Option Nat :=
  let D := l.dims.1 * l.dims.2.1 * l.dims.2.2
  let own := l.banksS + l.banksF
  if D = 0 ∨ 2 ^ 32 < D * l.spansPerDeck then some 5
  else if l.spansPerDeck = 0 ∨ 32 < l.spansPerDeck ∨ l.vregs = 0 ∨ 256 < l.vregs ∨ 524288 < l.scratch ∨ 16 < own ∨
      32768 * l.banksS < l.scratch ∨ 32 - own < l.banksC ∨ 1024 < l.vregs * ((l.spansPerDeck + 3) / 4) then some 6
  else none

/-- The bay with the most free registers, the lowest of several (R154). -/
def startBay (used : Nat → Nat) : Nat :=
  (List.range 4).foldl (fun b i => if used i < used b then i else b) 0

/-- What reserved or resident decks take of a core: decks, spans and registers by bay, owned banks, the largest c. -/
structure Load5 where
  decks : Nat
  spans : List Nat
  regs : List Nat
  owned : Nat
  cMax : Nat
  deriving DecidableEq, Repr

/-- The load with one deck of the launch more (R154). -/
def addDeck (x : Load5) (l : Launch) : Load5 :=
  let b0 := startBay (fun i => x.regs.getD i 0)
  let onBay := fun i => ((List.range l.spansPerDeck).filter (fun w => (b0 + w) % 4 == i)).length
  ⟨x.decks + 1, (List.range 4).map (fun i => x.spans.getD i 0 + onBay i),
   (List.range 4).map (fun i => x.regs.getD i 0 + onBay i * l.vregs), x.owned + l.banksS + l.banksF, max x.cMax l.banksC⟩

/-- The limits of R155, with `free` banks unowned in cache mode before the additions of `taken` banks. -/
def loadFits (x : Load5) (free taken : Nat) : Bool :=
  decide (x.decks ≤ 16) && x.spans.all (fun n => decide (n ≤ 16)) && x.regs.all (fun n => decide (n ≤ 1024)) &&
  decide (x.owned ≤ 16) && decide (x.cMax + taken ≤ free)

/-- How many decks of a launch an empty core holds (R155). -/
def decksPerCore (l : Launch) : Nat :=
  ((List.range 16).foldl (fun (r : Load5 × Nat) _ =>
    let x := addDeck r.1 l
    if loadFits x 32 x.owned then (x, r.2 + 1) else r) (⟨0, [0, 0, 0, 0], [0, 0, 0, 0], 0, 0⟩, 0)).2

/-- QUANTUM, GANG and KEY (R282, R283, R292). -/
def lateReason (q : List Nat) (l : Launch) (n key : Nat) : Option Nat :=
  let Q := l.quantumLen
  let w9 := q.getD 9 0
  if (l.det && (decide (Q < 1024) || decide (65536 < Q))) || (!l.det && (Q != 0 || w9 != 0)) then some 9
  else if l.gang && (decide (8192 < n) || decide (512 * decksPerCore l < n)) then some 10
  else if key = 0 ∨ bitsAt (q.getD 13 0) 0 32 ≠ key then some 12
  else none

/-- The checks of a continuation record, given as its four words, and of its launch record, for a job key (R283). -/
def checkRecord (tr : State → Nat → Xl) (s : State) (c : List Nat) (key root number : Nat) : Checked :=
  let w := fun i => c.getD i 0
  let code := bitsAt (w 0) 0 57
  let first := bitsAt (w 3) 0 32
  let last := bitsAt (w 3) 32 32
  if code % 64 ≠ 0 ∨ w 2 % 16 ≠ 0 then .bad 1
  else match rdVa tr s code 256 with
    | .wait s => .wait s
    | .fail => .bad 1
    | .ok bytes =>
      let q := words64 bytes 32
      let l := launchOfWords q number key root code [] [] []
      let D := l.dims.1 * l.dims.2.1 * l.dims.2.2
      if D ≠ 0 ∧ (last < first ∨ D ≤ last) then .bad 1
      else if bitsAt (w 0) 57 7 ≠ 0 ∨ bitsAt (w 1) 57 7 ≠ 0 ∨ bitsAt (w 2) 57 7 ≠ 0 ∨ launchReserved q ∨
          l.fslots.any slotReserved then .bad 2
      else if q.getD 0 0 % 4 ≠ 0 ∨ q.getD 1 0 % 16 ≠ 0 then .bad 3
      else if q.getD 2 0 % 64 ≠ 0 ∨ q.getD 12 0 % 4096 ≠ 0 then .bad 4
      else match rdVa tr s (q.getD 2 0) 64 with
        | .wait s => .wait s
        | .fail => .bad 4
        | .ok cb =>
          let ctx := words64 cb 8
          if ctx.getD 0 0 % 4 ≠ 0 ∨ ctx.getD 1 0 % 4 ≠ 0 ∨ ctx.getD 2 0 = 0 ∨ ctx.getD 2 0 % 4096 ≠ 0 then .bad 4
          else match sizeReason l with
            | some r => .bad r
            | none => match rdTable tr s (q.getD 10 0) 64 3 with
              | .wait s => .wait s
              | .bad => .bad 7
              | .ok regions => match rdTable tr s (q.getD 11 0) 8 5 with
                | .wait s => .wait s
                | .bad => .bad 7
                | .ok writes =>
                  let l := launchOfWords q number key root code ctx regions writes
                  if regions.any regionBad ∨ writes.any rangeBad then .bad 7
                  else if rangesOverlap l.dims l.phaseLen (l.writes.zip l.strides) then .bad 8
                  else match lateReason q l (last + 1 - first) key with
                    | some r => .bad r
                    | none => .ok l first last (BitVec.ofNat 64 (w 1)) (BitVec.ofNat 64 (w 2))

/-- The lowest-numbered die that has not failed (R283). -/
def firstDie (s : State) : Nat := ((List.range 16).find? (fun d => !s.mg.failedDies.contains d)).getD 0

/-- The black-box entry of a refusal (R283, R336). -/
def recRejected (s : State) (reason arg key number : Nat) : State :=
  record s { boxEvent s with kind := 1, code := 0x86, die := firstDie s, fe := true, detail := reason, arg, key, launch := number }

/-! ### Rings (R285, R286, R312) -/

def ringOf (s : State) (p : Nat) : Ring := mapGet ⟨[], []⟩ s.rings p
def putRing (s : State) (p : Nat) (r : Ring) : State := { s with rings := mapPut s.rings p r }
def ringCap (s : State) (p : Nat) : Nat := (feReg s (0x2000 + 0x20 * p + 8)).toNat
def ringRoom (s : State) (p : Nat) : Bool := decide ((ringOf s p).recs.length < ringCap s p)

/-- A record arrives in ring p: an incomplete reserve stage of a lower ring releases its reservations (R293). -/
def ringArrive (s : State) (p : Nat) (x : RingRec) : State :=
  let r := ringOf s p
  let s := putRing s p { r with recs := r.recs ++ [x] }
  { s with rings := s.rings.map (fun y =>
      if y.1 < p then (y.1, { y.2 with recs := y.2.recs.map (fun z =>
        if z.resv.length = z.last + 1 - z.next then z else { z with resv := [] }) }) else y) }

/-- An accepted record is pushed to a ring; into a full one it waits. What the clock covers is ordered before the accesses of its
decks (R286, R287). -/
def pushRing (s : State) (p : Nat) (l : Launch) (first last : Nat) (frame join : Word64) (clock : Clock) : State :=
  let id := s.nextId
  let l := { l with phase := if l.phaseLen = 0 then 0 else first / l.phaseLen }
  let x : RingRec := ⟨id, frame, join, first, last, []⟩
  let s := { s with launches := mapPut s.launches id l, nextId := id + 1,
                    ord := { s.ord with starts := mapPut s.ord.starts id clock } }
  if ringRoom s p && (ringOf s p).delayed.isEmpty then ringArrive s p x
  else putRing s p { ringOf s p with delayed := (ringOf s p).delayed ++ [x] }

/-- A push into the full ring `a` proceeds once it has room. (R286) -/
def execDelayedRingPush (s : State) : Res :=
  let p := s.cur.x.a
  match (ringOf s p).delayed with
  | [] => .fault .notEnabled
  | x :: r => if ringRoom s p then .next (ringArrive (putRing s p { ringOf s p with delayed := r }) p x) else .fault .notEnabled

/-! ### Residency (R154 to R159) -/

/-- The decks resident in a context. -/
def residentDecks (s : State) (g : Nat) (half : Bool) : List (Nat × Deck) :=
  s.decks.filter (fun d => deckIn d.2 g half && !d.2.retired)

/-- Vector registers granted on a bay of a context (R154). -/
def bayRegs (s : State) (g : Nat) (half : Bool) (bay : Nat) : Nat :=
  ((ctxSpans s g half).filterMap (fun p => if p.2.bay = bay then some ((vregsOf s p.2 + 7) / 8 * 8) else none)).sum
def baySpanCount (s : State) (g : Nat) (half : Bool) (bay : Nat) : Nat :=
  ((ctxSpans s g half).filter (fun p => p.2.bay == bay)).length

/-- What the resident decks of a context take. -/
def coreLoad (s : State) (g : Nat) (half : Bool) : Load5 :=
  let ds := residentDecks s g half
  ⟨ds.length, (List.range 4).map (baySpanCount s g half), (List.range 4).map (bayRegs s g half),
   (ds.map (fun d => d.2.banks.length)).sum, (ds.map (fun d => d.2.cReq)).foldl max 0⟩

/-- Bit g of RCORES p; every bit is one until it is written (R312, R322). -/
def ringCore (s : State) (p g : Nat) : Bool :=
  match mapFind s.fe.regs (0x3000 + 0x40 * p + 8 * (g / 64)) with
  | some w => w.getLsbD (g % 64)
  | none => true

/-- A core that the distributor may use now. -/
def coreUsable (s : State) (p g : Nat) : Bool :=
  ringCore s p g && !(coreOf s g).failed && (coreOf s g).swap.isNone && (coreOf s g).swapFor.isNone && !s.mg.failedQuads.contains (g / 4) &&
  !s.mg.failedDies.contains (g / 32)

/-- Reservations of gangs on a core, as how many decks of each launch (R292). -/
def reservedOn (s : State) (g : Nat) : List Nat :=
  s.rings.flatMap (fun r => r.2.recs.flatMap (fun x => (x.resv.filter (fun y => y.2 == g)).map (fun _ => x.launch)))

/-- Can a core take one deck more of the launch (R155)? Reservations count as resident. -/
def coreTakes (s : State) (p : Nat) (l : Launch) (g : Nat) : Bool :=
  let half := (coreOf s g).active
  let resv := (reservedOn s g).filterMap (mapFind s.launches)
  let keys := (residentDecks s g half).filterMap (fun d => (mapFind s.launches d.2.launch).map Launch.key) ++ resv.map Launch.key
  let x := addDeck (resv.foldl addDeck (coreLoad s g half)) l
  let taken := (resv.map (fun r => r.banksS + r.banksF)).sum + l.banksS + l.banksF
  coreUsable s p g && keys.all (fun k => k == l.key) && loadFits x (freeBanks s g).length taken

/-- First die and quad for a deck (R289). -/
def placeStart (s : State) (l : Launch) (d : Nat) : Nat × Nat :=
  let off := (d % 16, d / 16 % 8)
  match l.tile with
  | none => off
  | some (base, sx, sy, shx, shy) =>
    let c := coordsOf l.dims d
    let a := (((base : Int) + (c.1 >>> shx : Nat) * sx + (c.2.1 >>> shy : Nat) * sy) % 2 ^ 64).toNat
    if vaTop ≤ a then off
    else match lookupVa s l.root a with
      | some (pa, _) => if isHbm pa then (dieOfPa pa, sliceOfPa pa / 2) else off
      | none => off

/-- The probe order of R290: die and quad. -/
def probeOrder (e q0 : Nat) : List (Nat × Nat) :=
  (List.range 16).flatMap (fun j => (List.range 8).map (fun k => ((e + j) % 16, q0 ^^^ k)))

/-- The core of a quad that takes the deck: the one with the fewest spans, those of reserved decks among them, the lowest of several
(R290, R292). -/
def quadCore (s : State) (p : Nat) (l : Launch) (e q : Nat) : Option Nat :=
  let cs := ((List.range 4).map (fun i => 32 * e + 4 * q + i)).filter (coreTakes s p l)
  let n := fun g => (ctxSpans s g (coreOf s g).active).length +
    ((reservedOn s g).map (fun id => ((mapFind s.launches id).map Launch.spansPerDeck).getD 0)).sum
  cs.foldl (fun best g => match best with
    | none => some g
    | some b => if n g < n b then some g else some b) none

/-- `place` (R288 to R290). -/
def placeDeck (s : State) (p : Nat) (l : Launch) (d : Nat) : Option Nat :=
  let st := placeStart s l d
  (probeOrder st.1 st.2).findSome? (fun x => quadCore s p l x.1 x.2)

/-- `swap_for` (R291) for a record of ring p: a core on which a swap makes room for the launch; decks compare by the priorities of their
launch records (R285). -/
def swapFor (s : State) (p : Nat) (l : Launch) : Option Nat :=
  let prios := fun g => (residentDecks s g (coreOf s g).active).filterMap (fun d => mapFind s.launches d.2.launch)
  let ok := fun g =>
    let c := coreOf s g
    coreUsable s p g && !(prios g).isEmpty && (prios g).all (fun x => decide (x.prio < l.prio) && !x.gang) &&
    c.spill.isNone && c.preload.isNone && ctxEmpty s g (!c.active) &&
    loadFits (addDeck ⟨0, [0, 0, 0, 0], [0, 0, 0, 0], 0, 0⟩ l) (freeBanks s g).length (l.banksS + l.banksF)
  let top := fun g => ((prios g).map Launch.prio).foldl max 0
  ((List.range 512).filter ok).foldl (fun best g => match best with
    | none => some g
    | some b => if top g < top b then some g else some b) none

/-- A span at its start (R34). -/
def newSpan (l : Launch) (frame : Word64) (d w deck g : Nat) (half : Bool) (bay age : Nat) : Span :=
  let n := d * l.spansPerDeck + w
  let s : SMap Word64 := [(0, frame), (1, BitVec.ofNat 64 d), (2, BitVec.ofNat 64 w), (3, BitVec.ofNat 64 n)]
  { blankSpan with
    spc := l.entry, s := s.filter (fun p => p.2 != 0), am := liveInit l, live := liveInit l, n, d, w, deck, core := g, half, bay, age }

/-- Memory as it stands, pinned lines included (R260). -/
def memNow (s : State) : List Host.Cell :=
  s.lines.foldl (fun m p => match p.2.data with
    | none => m
    | some d => (List.range 128).foldl (fun m i => mapSet 0 m (128 * p.1 + i) (lineByte d i)) m) s.mem

/-- The first deck of a deterministic phase begins it (R260, R297). -/
def beginPhase (s : State) (id : Nat) (l : Launch) : State :=
  if l.det && !l.begun then { s with launches := mapPut s.launches id { l with begun := true, snapshot := memNow s, nets := s.nets } } else s

/-- Deck d of a record becomes resident on core g (R154, R156, R157, R159). -/
def makeResident (s : State) (id : Nat) (l : Launch) (frame join : Word64) (d g : Nat) : State :=
  let half := (coreOf s g).active
  let s := beginPhase (keyChange s g half l.key) id l
  let k := s.nextId
  let b0 := startBay (bayRegs s g half)
  let banks := (freeBanks s g).take (l.banksS + l.banksF)
  let s := banks.zipIdx.foldl (fun t b => takeBank t g b.1 k (if b.2 < l.banksS then .scratch else .fifo)) s
  let c := coreOf s g
  let W := l.spansPerDeck
  let spans := (List.range W).map (fun w => (k + 1 + w, newSpan l frame d w k g half ((b0 + w) % 4) (c.ageNext + w)))
  let dk : Deck := { blankDeck with
    launch := id, index := d, coords := coordsOf l.dims d, core := g, half := half, banks := banks, started := false, frame := frame
    join := join, cReq := l.banksC, uids := spans.map Prod.fst }
  let s := putCore s g { c with ageNext := c.ageNext + W }
  let s := spans.foldl (fun t p =>
    putAgent (putSpan t p.1 p.2) p.1 { Agent.init with clock := mapGet [] t.ord.starts id }) s
  { putDeck s k dk with nextId := k + 1 + W }

/-! ### The distributor (R288 to R293) -/

/-- The core whose swap makes room for the next deck of a record (R291). -/
def swapCore (s : State) (x : RingRec) : Option Nat :=
  (List.range 512).find? (fun g => (coreOf s g).swapFor == some (x.launch, x.next) && !(coreOf s g).failed)

/-- The ring that is served: a gang in its commit stage, or a record between the swap for its deck and the deck's place, first; else
the highest ring with a waiting record (R288, R291, R293). -/
def servedRing (s : State) : Option (Nat × RingRec) :=
  let heads := ((List.range 8).map (fun i => 7 - i)).filterMap (fun p => ((ringOf s p).recs.head?).map (fun x => (p, x)))
  match heads.find? (fun h => (!h.2.resv.isEmpty && decide (h.2.resv.length = h.2.last + 1 - h.2.next)) || (swapCore s h.2).isSome) with
  | some h => some h
  | none => heads.head?

/-- Phase of a deck of a launch (R297). -/
def phaseOf (l : Launch) (d : Nat) : Nat := if l.phaseLen = 0 then 0 else d / l.phaseLen

/-- The head of ring p has placed its decks up to `next`. -/
def headNext (s : State) (p : Nat) (x : RingRec) (next : Nat) : State :=
  let r := ringOf s p
  putRing s p { r with recs := if x.last < next then r.recs.tail else { x with next := next, resv := [] } :: r.recs.tail }

/-- Run `k` on the served record and its launch. -/
def withServed (s : State) (k : Nat → RingRec → Launch → Res) : Res :=
  if !clocked s then .fault .notEnabled
  else match servedRing s with
    | none => .fault .notEnabled
    | some (p, x) => match mapFind s.launches x.launch with
      | none => .fault .notEnabled
      | some l => k p x l

/-- The core that the next deck of a record goes to: after a swap for it, the one that has swapped, else that of `place` (R288, R291). -/
def deckCore (s : State) (p : Nat) (l : Launch) (x : RingRec) : Option Nat :=
  match swapCore s x with
  | some g => if (coreOf s g).swap.isSome then none else some g
  | none => placeDeck s p l x.next

/-- The distributor places the next deck of the served record. (R288 to R291, R297) -/
def execDeckPlace (s : State) : Res :=
  withServed s fun p x l =>
    if l.gang ∨ (l.det ∧ phaseOf l x.next ≠ l.phase) then .fault .notEnabled
    else match deckCore s p l x with
      | none => .fault .notEnabled
      | some g =>
        let s := putCore s g { coreOf s g with swapFor := none }
        .next (headNext (makeResident s x.launch l x.frame x.join x.next g) p x (x.next + 1))

/-- A deck is ready to start: its banks are prepared, and its context issues (R157). -/
def deckReady (s : State) (d : Deck) : Bool := !d.started && !d.retired && (coreOf s d.core).active == d.half

/-- A deck starts, with an implicit `fence.pkg` of each of its spans (R255, R286). -/
def startDeck (s : State) (k : Nat) (d : Deck) : State :=
  putDeck (d.uids.foldl (fun t u => orderFence t u d.core 4) (dropLines s d.core (fun _ => true))) k { d with started := true }

/-- Deck `id` starts; the decks of a gang start together. (R157, R286, R292) -/
def execDeckStart (s : State) : Res :=
  match deckOf s s.cur.x.id with
  | none => .fault .notEnabled
  | some d =>
    let gang := ((mapFind s.launches d.launch).map Launch.gang).getD false
    let all := if gang then s.decks.filter (fun x => x.2.launch == d.launch && !x.2.started && !x.2.retired)
      else [(s.cur.x.id, d)]
    if !clocked s ∨ !deckReady s d ∨ !all.all (fun x => deckReady s x.2) then .fault .notEnabled
    else .next (all.foldl (fun t x => startDeck t x.1 x.2) s)

/-- The reserve stage of a gang takes a core for its next deck, or releases every reservation. (R292, R293) -/
def execGangReserve (s : State) : Res :=
  withServed s fun p x l =>
    let n := x.next + x.resv.length
    if !l.gang ∨ x.last < n ∨ (l.det ∧ phaseOf l n ≠ l.phase) then .fault .notEnabled
    else
      let set := fun (v : List (Nat × Nat)) =>
        let r := ringOf s p
        Host.Outcome.next (putRing s p { r with recs := { x with resv := v } :: r.recs.tail })
      match placeDeck s p l n with
      | none => if x.resv.isEmpty then .fault .notEnabled else set []
      | some g => set (x.resv ++ [(n, g)])

/-- The reserved decks of a gang become resident together. (R292, R293) -/
def execGangCommit (s : State) : Res :=
  withServed s fun p x l =>
    if !l.gang ∨ x.resv.length ≠ x.last + 1 - x.next then .fault .notEnabled
    else
      let resv := x.resv
      let s := headNext s p x (x.last + 1)
      .next (resv.foldl (fun t r => match mapFind t.launches x.launch with
        | some l => makeResident t x.launch l x.frame x.join r.1 r.2
        | none => t) s)

/-! ### Retirement and completion (R286, R317) -/

/-- Work that the spans of a deck have committed and that is not performed or done (R286). -/
def deckBusy (s : State) (k : Nat) (d : Deck) : Bool :=
  s.reqs.any (fun p => p.2.by_.any d.uids.contains ||
    ((p.2.kind == .atomic || p.2.kind == .rel || p.2.kind == .dropc) && d.uids.contains p.2.uid)) ||
  (ctxOf s d.core d.half).queues.any (fun q => q.2.any (fun e => e.deck == k && e.kind != .marker)) ||
  (List.range 32).any (fun p => (bankOf (coreOf s d.core) p).switch.any (fun x => x.deck == k)) ||
  !d.colls.isEmpty || s.lands.any (fun x => x.2.deck == k && x.2.seq != 0) || s.fab.entries.any (fun e => e.2.deck == k)

/-- A launch's status with the faulting address of its join word (R286). -/
def noteJoinFault (s : State) (launch va : Nat) : State :=
  let s := noteStatus s launch noteFault
  match mapFind s.runs (numberOf s launch) with
  | none => s
  | some r => { s with runs := mapPut s.runs (numberOf s launch) { r with addr := va } }

/-- The retired deck leaves, and what it held of a lost context's banks; a lost write of its spans is noted (R206, R286, R328). -/
def dropDeck (s : State) (k : Nat) (d : Deck) : State :=
  let s := if d.lost then noteStatus s d.launch notePoisoned else s
  let s := if d.gone then d.banks.foldl (fun t p => freeBank t d.core p) s else s
  let s := if ((mapFind s.launches d.launch).map Launch.det).getD false then handOver s k (phaseAgent d.launch) else s
  let s := delAgent (handOver s k (runAgent (numberOf s d.launch))) k
  dropFails { s with decks := mapDel s.decks k } (.front k)

/-- The join word of a retiring deck is decremented: acquire-release at `.pkg`. The old count and the successor (R254, R286). -/
def joinDecrement (s : State) (k : Nat) (d : Deck) (va pa : Nat) : State × Nat × Nat :=
  let old := homeRead s pa 8
  let succ := bitsAt (homeRead s (pa + 8) 8) 0 57
  let s := acquireFrom s k d.core 4 (relKey pa) 0 none
  let p := publish s k
  let s := addRelease p.1 (relKey pa) ⟨0, 4, d.core, p.2⟩
  let w := writerOf s k d.core 0 va
  (orderedBytes s (some w) true va pa (natToBytes 8 ((old + 2 ^ 64 - 1) % 2 ^ 64)), old, succ)

/-- The successor of a retired deck, at the address `succ`, is checked and pushed (R283, R286). -/
def pushSuccessor (s : State) (k : Nat) (d : Deck) (l : Launch) (succ : Nat) : State :=
  let j := d.join.toNat
  let tr := fun (s : State) va => dieXlate s (d.core / 32) l.root l.key va 0 (.front k)
  let wait := fun (s : State) => putDeck s k { d with joined := some succ }
  match (if succ % 32 = 0 then rdVa tr s succ 32 else Rd.fail) with
  | .wait s => wait s
  | .fail => recRejected (dropDeck s k d) 1 j l.key l.number
  | .ok bs => match checkRecord tr s (words64 bs 4) l.key l.root l.number with
    | .wait s => wait s
    | .bad r => recRejected (dropDeck s k d) r j l.key l.number
    | .ok l2 first last frame join => dropDeck (pushRing s l2.prio l2 first last frame join (publish s k).2) k d

/-- Retired deck `id`: its writes are performed, its join word is decremented, and the successor is pushed. (R286, R328) -/
def execDeckRetire (s : State) : Res :=
  let k := s.cur.x.id
  match deckOf s k with
  | none => .fault .notEnabled
  | some d => match mapFind s.launches d.launch with
    | none => .fault .notEnabled
    | some l =>
      let dirty := (coreOf s d.core).l1.filter (fun x => x.dirty != 0 && x.by_.any d.uids.contains)
      if !d.retired then .fault .notEnabled
      else if !dirty.isEmpty then .next (dirty.foldl (fun t x => writeBack t d.core x.line) s)
      else if deckBusy s k d then .fault .notEnabled
      else match d.joined with
        | some succ => .next (pushSuccessor s k d l succ)
        | none =>
          let j := d.join.toNat
          if j = 0 ∨ d.gone then .next (dropDeck s k d)
          else if inLocal j ∨ inQuad j then .next (noteJoinFault (dropDeck s k d) d.launch j)
          else match dieXlate s (d.core / 32) l.root l.key j 1 (.front k) with
            | .wait s => .next s
            | .fail => .next (noteJoinFault (dropDeck s k d) d.launch j)
            | .ok pa bar =>
              if bar ∨ !isHbm pa ∨ (homeOf s (pa / 128)).counted then .next (noteJoinFault (dropDeck s k d) d.launch j)
              else
                let r := joinDecrement s k d j pa
                if r.2.1 ≠ 1 ∨ r.2.2 = 0 ∨ d.lost then .next (dropDeck r.1 k d) else .next (pushSuccessor r.1 k d l r.2.2)

/-- Something of a launch number is resident, swapped out or waiting (R317). -/
def launchAlive (s : State) (n : Nat) : Bool :=
  s.decks.any (fun d => numberOf s d.2.launch == n) ||
  s.images.any (fun im => im.2.waiting.any (fun d => numberOf s d.2.launch == n)) ||
  s.rings.any (fun r => (r.2.recs ++ r.2.delayed).any (fun x => numberOf s x.launch == n)) ||
  s.spans.any (fun p => match launchOf s p.2 with
    | some l => l.number == n
    | none => false)

/-- The completion status of the noted ones: CONTEXT_LOST, NO_PROGRESS and POISONED before others (R286, R327). -/
def runStatus (noted : List Nat) : Nat :=
  ([noteLost, noteNoProgress, notePoisoned, noteFault, noteAbandoned].find? (fun k => noted.contains k)).getD 0

/-- The network barriers of a job key with no launch in flight are cleared (R215, R317). -/
def clearNets (s : State) (key : Nat) : State :=
  if s.runs.any (fun r => r.2.key == key) then s
  else { s with nets := s.nets.map (fun n => if n.2.owner = some key then
      (n.1, { n.2 with w0 := n.2.w0 &&& 0x7FFFFFFFFFFFFFFF#64, owner := none }) else n) }

/-- A launch number of a RESUME has completed; with the last of them the packet completes (R320). -/
def resumeDone (s : State) (i number status addr : Nat) : State :=
  match mapFind s.fe.pkts i with
  | none => s
  | some p =>
    let first := if p.b = 0 then status else p.b
    let at_ := if p.b = 0 then addr else p.addr
    let left := p.nums.filter (fun n => n != number)
    let s := { s with fe := { s.fe with pkts := mapPut s.fe.pkts i { p with nums := left, b := first, addr := at_ } } }
    if left.isEmpty then completePkt s i first 0 p.c at_ else s

/-- Launch number `a` completes: the slices sweep its counted lines, then its completion is made. (R234, R286, R317) -/
def execLaunchComplete (s : State) : Res :=
  let n := s.cur.x.a
  match mapFind s.runs n with
  | none => .fault .notEnabled
  | some r =>
    if launchAlive s n then .fault .notEnabled
    else
      let lines := (s.lines.filter (fun p => p.2.counted && decide (0 < p.2.count) && p.2.tag == n)).map Prod.fst
      let s := lines.foldl (fun t x => dropLine t x 0) s
      let st := runStatus r.noted
      let s := delAgent (handOver s (runAgent n) hostAgent) (runAgent n)
      let s := clearNets { s with runs := mapDel s.runs n } r.key
      .next (match r.pkt with
        | none => s
        | some i => match mapFind s.fe.pkts i with
          | none => s
          | some p =>
            let addr := if st = noteFault then r.addr else 0
            if p.op = 2 then resumeDone s i n st addr else completePkt s i st 0 n addr)

/-- The lowest launch number not in flight (R317). -/
def freeNumber (s : State) (used : List Nat) : Option Nat :=
  (List.range 65535).findSome? (fun i =>
    if (mapFind s.runs (i + 1)).isNone && !used.contains (i + 1) then some (i + 1) else none)

/-! ### RESUME (R207, R216, R320) -/

/-- The root of a job key's page table (R312). -/
def keyRoot (s : State) (key : Nat) : Option Nat :=
  if key = 0 then none
  else ((List.range 64).find? (fun j => (feReg s (0x4000 + 0x10 * j)).toNat == key)).map
    (fun j => (feReg s (0x4000 + 0x10 * j + 8)).toNat)

/-- The launch of a deck's record, as a front end accepted it: with the number, the key and the address that the image gives, and
the one that the spill kept before others. -/
def slotLaunch (s : State) (a : Nat) (k : Nat) : Option Nat :=
  let same := fun (l : Launch) =>
    l.number == deckWord s a k 3 % 2 ^ 16 && l.key == imageKey s a && l.record.toNat == deckWord s a k 0
  match (((imageKept s a).decks[k]?).map (fun d => d.2.launch)).filter (fun i => (mapFind s.launches i).any same) with
  | some i => some i
  | none => (s.launches.reverse.find? (fun p => same p.2)).map Prod.fst

/-- The launch of a deck's record that this package has not accepted, read from memory as `checkRecord` reads it (log 11). -/
def readLaunch (s : State) (a k : Nat) : Option Launch :=
  let d := match slotSets s a k with
    | set :: _ => recWord s a set 4 % 2 ^ 32
    | [] => 0
  (keyRoot s (imageKey s a)).bind fun root =>
    let tr := fun (s : State) va => match lookupVa s root va with
      | some (pa, bar) => Xl.ok pa bar
      | none => .fail
    match checkRecord tr s [deckWord s a k 0, 0, 0, d + d * 2 ^ 32] (imageKey s a) root (deckWord s a k 3 % 2 ^ 16) with
    | .ok l _ _ _ _ => some { l with
        phase := if l.phaseLen = 0 then 0 else d / l.phaseLen, begun := l.det, snapshot := if l.det then memNow s else [], nets := s.nets }
    | _ => none

/-- Every deck's record of the image at `a` has its launch record in the state; none where one cannot be read. -/
def loadLaunches (s : State) (a : Nat) : Option State :=
  (imageSlots s a).foldl (fun r k => r.bind fun s =>
    if (slotLaunch s a k).isSome then some s
    else (readLaunch s a k).map (fun l => { s with launches := mapPut s.launches s.nextId l, nextId := s.nextId + 1 })) (some s)

/-- The image at `a`, with the launch records of `loadLaunches`. -/
def imageAt (s : State) (a : Nat) : Image := readImage s a (fun k => (slotLaunch s a k).getD 0)

/-- What an image takes of a context (R155). -/
def imageLoad (s : State) (img : Image) : Load5 :=
  let vr := fun (sp : Span) => match img.decks.find? (fun d => d.1 == sp.deck) with
    | some d => ((mapFind s.launches d.2.launch).map Launch.vregs).getD 0
    | none => 0
  let bay := fun i => img.spans.filter (fun p => p.2.bay == i)
  ⟨img.decks.length, (List.range 4).map (fun i => (bay i).length), (List.range 4).map (fun i => ((bay i).map (fun p => vr p.2)).sum),
   img.banks.length, (img.decks.map (fun d => d.2.cReq)).foldl max 0⟩

/-- The quad that an image is bound to, from its header (R216). -/
def imageQuad (s : State) (a : Nat) : Option Nat :=
  let w := imgRead s (a + 0x48) 8
  if bitAt w 63 then some (8 * bitsAt w 7 4 + bitsAt w 0 3) else none

/-- The image is bound to a quad whose stop has failed: its RESUME is refused (R225). -/
def boundFailed (s : State) (a : Nat) : Bool :=
  match imageQuad s a with
  | some q => s.mg.failedQuads.contains q
  | none => false

/-- The first core whose empty context can hold an image, and that its decks' rings may use (R207, R216, R322). -/
def resumeCore (s : State) (a : Nat) (img : Image) : Option Nat :=
  let x := imageLoad s img
  let prios := (img.decks.filterMap (fun d => (mapFind s.launches d.2.launch).map Launch.prio)).dedup
  (List.range 512).find? (fun g => coreUsable s 8 g && prios.all (fun p => ringCore s p g) && ctxEmpty s g (coreOf s g).active && (reservedOn s g).isEmpty &&
    (match imageQuad s a with
      | some q => g / 4 == q
      | none => true) && loadFits x (freeBanks s g).length x.owned)

/-- The launch numbers in an image's deck records that are not in flight with its key (R320). -/
def resumeOlds (s : State) (a : Nat) : List Nat :=
  (((imageSlots s a).map (fun k => deckWord s a k 3 % 2 ^ 16)).dedup).filter (fun n =>
    match mapFind s.runs n with
    | some r => r.key != imageKey s a
    | none => true)

/-- New launch numbers for them, while there are any: old number, new number (R317, R320). -/
def resumeNumbers (s : State) (a : Nat) : List (Nat × Nat) :=
  (resumeOlds s a).foldl (fun m n => match freeNumber s (m.map Prod.snd) with
    | some x => m ++ [(n, x)]
    | none => m) []

/-- Could an empty core hold the image (R155, R207)? -/
def imageFits (s : State) (img : Image) : Bool :=
  let x := imageLoad s img
  loadFits x 32 x.owned

/-- The image is refused with IMAGE: its magic, version or key is another, a launch record of it cannot be read, its quad stop has
failed, or no core can ever hold it (R207, R225, R320). -/
def imageRefused (s : State) (a key : Nat) : Bool :=
  a % 4096 != 0 || imgRead s a 4 != 0x4A394358 || imgRead s (a + 4) 4 != 1 || imageKey s a != key || boundFailed s a ||
  match loadLaunches s a with
  | none => true
  | some s => !imageFits s (imageAt s a)

/-- The launch records of an image's decks go with them: those whose numbers are in flight stay, and of each other one a copy is made,
with its new number. The state, and the record of each deck of before. -/
def resumeLaunches (s : State) (i a : Nat) (img : Image) : State × (Nat → Nat) :=
  let nums := resumeNumbers s a
  let olds := ((img.decks.map (fun d => d.2.launch)).dedup).filter (fun l => nums.any (fun x => x.1 == numberOf s l))
  let base := s.nextId
  let copies := olds.zipIdx.filterMap (fun x => (mapFind s.launches x.1).map (fun l =>
    (base + x.2, { l with number := ((nums.find? (fun y => y.1 == l.number)).map Prod.snd).getD l.number })))
  ({ s with
    launches := copies.foldl (fun m r => mapPut m r.1 r.2) s.launches
    runs := nums.foldl (fun m x => mapPut m x.2 ⟨imageKey s a, some i, [], 0⟩) s.runs
    nextId := base + olds.length },
   fun o => match olds.zipIdx.find? (fun x => x.1 == o) with
    | some x => base + x.2
    | none => o)

/-- Waiting RESUME packet `id` places its image once a core has room; one that is refused by now is. (R207, R216, R225, R320) -/
def execResumePlacement (s : State) : Res :=
  let i := s.cur.x.id
  match mapFind s.fe.pkts i with
  | none => .fault .notEnabled
  | some p =>
    if p.op ≠ 2 ∨ !p.nums.isEmpty ∨ p.done ≠ 0 ∨ !clocked s then .fault .notEnabled
    else match (if imageRefused s p.a p.key then none else loadLaunches s p.a) with
      | none => .next (completePkt (recRejected s 11 p.a p.key 0) i 1 11 0 0)
      | some s =>
        let img := imageAt s p.a
        match resumeCore s p.a img with
        | none => .fault .notEnabled
        | some g =>
          let nums := resumeNumbers s p.a
          if nums.length < (resumeOlds s p.a).length then .fault .notEnabled
          else
            let r := resumeLaunches s i p.a img
            let s := restoreImage r.1 img g (coreOf s g).active r.2
            let low := (nums.map Prod.snd).foldl (fun m n => if m = 0 ∨ n < m then n else m) 0
            let s := { s with fe := { s.fe with pkts := mapPut s.fe.pkts i { p with
              nums := nums.map Prod.snd, c := low, done := 1, b := 0 } } }
            .next (if nums.isEmpty then completePkt s i 0 0 0 0 else s)

/-! ### Swaps and preloads that are asked for (R203, R205, R291) -/

/-- The highest priority of some decks' launch records (R285). -/
def topPrio (s : State) (l : List (Nat × Deck)) : Nat :=
  ((l.filterMap (fun d => mapFind s.launches d.2.launch)).map Launch.prio).foldl max 0

/-- A record of a higher priority waits (R291). -/
def waitsAbove (s : State) (n : Nat) : Bool :=
  s.rings.any (fun r => (r.2.recs ++ r.2.delayed).any (fun x => match mapFind s.launches x.launch with
    | some l => decide (n < l.prio)
    | none => false))

/-- The distributor asks for a swap of core `g` to bring the outgoing context back (R291). -/
def backAsked (s : State) (g : Nat) : Bool :=
  let c := coreOf s g
  ctxEmpty s g c.active && !ctxEmpty s g (!c.active) && !waitsAbove s (topPrio s (ctxDecks s g (!c.active)))

/-- The deck for which the distributor asks for a swap of core `g`: the next one of the record that it serves (R288, R291). -/
def swapAsked (s : State) (g : Nat) : Option (Nat × Nat) :=
  match servedRing s with
  | none => none
  | some (p, x) => match mapFind s.launches x.launch with
    | none => none
    | some l =>
      if !l.gang && !(l.det && phaseOf l x.next != l.phase) && (swapCore s x).isNone && (placeDeck s p l x.next).isNone &&
        swapFor s p l == some g then some (x.launch, x.next) else none

/-- The exchange of the contexts of core `core` begins, as the distributor asks, or the front end (`c` = 1, from outside); the `mma`
on its array stops after block `b`. (R203, R204, R205, R207, R209, R291) -/
def execShadowSwap (s : State) : Res :=
  let g := s.cur.x.core
  let c := coreOf s g
  let deck := swapAsked s g
  if 512 ≤ g ∨ !clocked s ∨ c.failed ∨ c.swap.isSome ∨ !shadowReady s g ∨
     !(s.cur.x.c == 1 || deck.isSome || backAsked s g) then .fault .notEnabled
  else .next (beginSwap s g s.cur.x.b deck)

/-- The preload of the image at `a` into the shadow of core `core` finishes: the shadow is ready. It is asked for by the distributor,
for the core that the image left, or by the front end (`c` = 1, from outside); its decks are those that wait for it, and it may be
bound to another quad, since R216 speaks of RESUME alone (log 11). (R205, R291) -/
def execPreloadComplete (s : State) : Res :=
  let g := s.cur.x.core
  let a := s.cur.x.a
  let c := coreOf s g
  let img := imageAt s a
  let left := (imageKept s a).decks
  let asked := ctxEmpty s g c.active && !left.isEmpty && left.all (fun d => d.2.core == g) && !waitsAbove s (topPrio s img.decks)
  if 512 ≤ g ∨ !clocked s ∨ c.failed ∨ c.spill.isSome ∨ c.swap.isSome ∨ c.preload.isSome ∨ imgRead s a 4 ≠ 0x4A394358 ∨
     !img.decks.all (fun d => img.out.contains d.1) ∨ !(resumeOlds s a).isEmpty ∨
     !ctxEmpty s g (!c.active) ∨ (freeBanks s g).length < img.banks.length ∨ !(s.cur.x.c == 1 || asked) then .fault .notEnabled
  else .next (putCore (restoreImage s img g (!c.active) id) g { coreOf (restoreImage s img g (!c.active) id) g with
    preload := some (a, true) })

end Sys2Proof.Machine
end

