-- ==== Sys2Proof/Machine/Fabric.lean ====
section
/-! DEFINITION. What the fabric engines share: groups, reads and writes through a job key's translation, coded tiles,
residual objects, staging, packets and sends (R340 to R345, R351 to R360, R386). -/

namespace Sys2Proof.Machine
open Sys2Proof

/-! ### Reads and writes of a die's own requesters (R362, R368, R370) -/

inductive FabRd where
  | ok (s : State) (bytes : List Byte) (poison : Bool)
  | wait (s : State)
  | fail
  deriving DecidableEq, Repr

/-- A die's own access to a line waits: a counted fill waits there, its way waits, or something that the die sent to the line before has
not arrived (R229, R307, R308). -/
def dieWaits (s : State) (die va line : Nat) : Bool := fillWaits s line 0 || sentBefore s (512 + die) va line s.nextId

/-- n bytes at their homes; `poison`: some of them are uncorrectable (R326). -/
def fabRead (s : State) (die root key : Nat) (who : Who) (va n : Nat) : FabRd :=
  if n = 0 then .ok s [] false
  else
    let pages := (List.range ((va + n - 1) / 4096 - va / 4096 + 1)).map (fun i => max va ((va / 4096 + i) * 4096))
    pages.foldl (fun r a => match r with
      | .ok t bs bad =>
        if inLocal a ∨ inQuad a then .fail
        else match dieXlate t die root key a 0 who with
          | .wait t => .wait t
          | .fail => .fail
          | .ok pa _ =>
            let m := min (va + n) ((a / 4096 + 1) * 4096) - a
            let lines := (List.range ((pa + m - 1) / 128 - pa / 128 + 1)).map (fun i => pa / 128 + i)
            if lines.any (fun x => dieWaits t die (a + (128 * x - pa)) x) then .wait s
            else .ok (lines.foldl homeTouch t) (bs ++ (List.range m).map (fun i => homeByte t (pa + i))) (bad || lines.any (badLine t))
      | r => r) (.ok s [] false)

inductive FabWr where
  | ok (s : State)
  | wait (s : State)
  | fail (s : State)
  deriving DecidableEq, Repr

/-- The pieces of a byte list by line. -/
def lineChunks : Nat → Nat → List Byte → List (Nat × List Byte)
  | 0, _, _ => []
  | k + 1, va, bs =>
    if bs.isEmpty then [] else (va, bs.take (128 - va % 128)) :: lineChunks k (va / 128 * 128 + 128) (bs.drop (128 - va % 128))

/-- The writer of a requester that is no span, at a virtual address: an entry or a fetch is an agent of its own (R244). -/
def whoWriter (s : State) (die : Nat) (who : Who) (va : Nat) : Writer :=
  match who with
  | .fp d i => { dieWriter s d (fpAgent (4 * d + i)) with va := va }
  | .front _ => { hostWriter s with va := va }
  | .fabric id => { dieWriter s die id with va := va }
  | _ => { dieWriter s die (dieAgent die) with va := va }

/-- Bytes of such a writer, in their place of the coherence order (R249); host memory takes them as posted writes (R309). -/
def diePut (s : State) (w : Writer) (pa : Nat) (bytes : List Byte) : State :=
  let s := orderedBytes s (some w) false w.va pa bytes
  if isHost pa then { s with fe := { s.fe with posted := (w.agent, [w]) :: s.fe.posted } } else s

/-- A number that a slice of a die writes at its home. -/
def dieWriteNat (s : State) (die pa n x : Nat) : State :=
  orderedBytes s (some { dieWriter s die (dieAgent die) with va := pa }) false pa pa (natToBytes n x)

/-- One line's bytes from a die, plain (readers 0) or counted: a counted line, a counted write outside HBM4E or on a barrier page
fail (R107, R188, R349). -/
def fabPut (s : State) (die : Nat) (w : Writer) (readers number pa : Nat) (bar : Bool) (bytes : List Byte) : FabWr :=
  let line := pa / 128
  if dieWaits s die w.va line then .wait s
  else if isHbm pa then
    let h := homeOf s line
    if h.counted then .fail s
    else if readers = 0 then
      let s := diePut s w pa bytes
      let h := homeOf s line
      .ok (putHome s line { h with poison := h.poison && bytes.length != 128, latent := h.latent && bytes.length != 128 })
    else if bar then .fail s
    else if 0 < h.pend ∨ !fillRoom s line then .wait s
    else .ok (countedFill s line readers number (some (BitVec.ofNat 1024 (bytesToNat bytes), w)))
  else if readers ≠ 0 then .fail s
  else .ok (diePut s w pa bytes)

/-- Bytes of an instruction of a fabric processor: every translation first, then the lines in order, once none of them waits; what
is written before a failure stays (R370). -/
def fabWrite (s : State) (die root key : Nat) (who : Who) (va : Nat) (bytes : List Byte) : FabWr :=
  let cs := lineChunks (bytes.length + 1) va bytes
  let tr := fun (a : Nat) => if inLocal a ∨ inQuad a then Xl.fail else dieXlate s die root key a 1 who
  match cs.findSome? (fun c => match tr c.1 with
    | .wait t => some t
    | .ok pa _ => if dieWaits s die c.1 (pa / 128) then some s else none
    | .fail => none) with
  | some t => .wait t
  | none => cs.foldl (fun r c => match r with
    | .ok t => match tr c.1 with
      | .ok pa bar => fabPut t die (whoWriter t die who c.1) 0 0 pa bar c.2
      | _ => .fail t
    | r => r) (.ok s)

/-- The first of the ranges (address, length, kind) whose translation, or one of whose lines, has to wait. -/
def fabWaits (s : State) (die root key : Nat) (who : Who) (rs : List (Nat × Nat × Nat)) : Option State :=
  rs.findSome? (fun r => (List.range (if r.2.1 = 0 then 0 else (r.1 + r.2.1 - 1) / 4096 - r.1 / 4096 + 1)).findSome? (fun i =>
    let a := max r.1 ((r.1 / 4096 + i) * 4096)
    if inLocal a ∨ inQuad a then none
    else match dieXlate s die root key a r.2.2 who with
      | .wait t => some t
      | .ok pa _ =>
        if (List.range 32).any (fun j => decide (pa / 128 + j ≤ (pa + min (r.1 + r.2.1 - a) (4096 - a % 4096) - 1) / 128) &&
          dieWaits s die (a / 128 * 128 + 128 * j) (pa / 128 + j)) then some s else none
      | .fail => none))

/-! ### Keys and groups (R312, R343, R386) -/

/-- A group descriptor, and where it stands (R343). -/
structure Group where
  pa : Nat
  state : Nat
  code : Nat
  k : Nat
  home : Bool
  discard : Bool
  handle : Nat
  key : Nat
  size : Nat
  rank : Nat
  tensor : Nat
  dest : Nat
  readers : Nat
  bound : Nat
  resid : Nat
  members : Nat
  pred : Nat
  deriving DecidableEq, Repr

def groupOfWords (pa : Nat) (w : Nat → Nat) : Group where
  pa := pa
  state := bitsAt (w 0) 61 2
  code := bitsAt (w 0) 58 3
  k := bitsAt (w 0) 54 4
  home := bitAt (w 0) 53
  discard := bitAt (w 0) 52
  handle := bitsAt (w 0) 0 32
  key := bitsAt (w 1) 0 32
  size := bitsAt (w 1) 32 16
  rank := bitsAt (w 2) 0 32
  tensor := bitsAt (w 2) 32 32
  dest := bitsAt (w 3) 0 57
  readers := bitsAt (w 4) 0 8
  bound := bitsAt (w 4) 32 32
  resid := bitsAt (w 5) 0 57
  members := bitsAt (w 6) 0 57
  pred := bitsAt (w 7) 0 32

/-- Base of a die's group table; 0: none (R312, R386). -/
def groupTable (s : State) (die : Nat) : Nat := (feReg s (0x5100 + 8 * die)).toNat

/-- The valid descriptors of a die, in table order. -/
def groupsOf (s : State) (die : Nat) : List Group :=
  if groupTable s die = 0 then []
  else (List.range 1024).filterMap (fun i =>
    let pa := groupTable s die + 128 * i
    if bitAt (homeRead s pa 8) 63 then some (groupOfWords pa (fun j => homeRead s (pa + 8 * j) 8)) else none)

/-- The descriptor of a handle that is not retired; and any valid one, retired ones last (R343, R344). -/
def findGroup (s : State) (die handle : Nat) : Option Group :=
  (groupsOf s die).find? (fun g => g.handle == handle && g.state != 2)
def anyGroup (s : State) (die handle : Nat) : Option Group :=
  match findGroup s die handle with
  | some g => some g
  | none => (groupsOf s die).find? (fun g => g.handle == handle)

/-- The search for a handle in the die's table meets an uncorrectable entry (R326, R370). -/
def tableBad (s : State) (die handle : Nat) : Bool :=
  groupTable s die != 0 &&
  match (List.range 1024).find? (fun i =>
      let pa := groupTable s die + 128 * i
      badLine s (pa / 128) || (bitAt (homeRead s pa 8) 63 && bitsAt (homeRead s pa 8) 0 32 == handle && bitsAt (homeRead s pa 8) 61 2 != 2)) with
  | some i => badLine s (groupTable s die / 128 + i)
  | none => false

/-- Does an operation of the group fail that its entry's state leaves open: a free value, where another agent has stored into the
entry (R386; log 17). -/
def groupOpen (s : State) (g : Group) : State × Bool :=
  if s.fab.opens.contains g.pa then ({ s with fresh := s.fresh + 1 }, (Config.freeWord s.fresh).getLsbD 0) else (s, false)

/-- A fabric processor saves or loads the residual object, or waits to (R371; log 79). -/
def savesOn (s : State) (root obj : Nat) : Bool :=
  s.fab.fps.any (fun f => f.2.running && f.2.wait == .save obj && keyRoot s f.2.key == some root)

/-- A descriptor's counter is raised; it saturates (R343). -/
def raiseCount (s : State) (g : Group) (off n : Nat) : State :=
  homeWriteNat s (g.pa + off) 8 (min (homeRead s (g.pa + off) 8 + n) (2 ^ 64 - 1))
def raiseDrops (s : State) (g : Group) (n : Nat) : State := raiseCount s g 0x40 n

def setGroupState (s : State) (g : Group) (st : Nat) : State :=
  let w := homeRead s g.pa 8
  homeWriteNat s g.pa 8 (w - bitsAt w 61 2 * 2 ^ 61 + st * 2 ^ 61)

/-- Members of a group as package and die, by rank (R343). -/
def memberOf (b : List Byte) (r : Nat) : Nat × Nat :=
  let x := bytesToNat ((b.drop (4 * r)).take 4)
  (bitsAt x 4 11, bitsAt x 0 4)

/-! ### Coded tiles (R352 to R355) -/

def codeOfField (c : Nat) : GCode := if c = 1 then .sign else if c = 2 then .ternary else .none
/-- Bytes of a coded block and of a coded tile (R352). -/
def blockBytes : GCode → Nat
  | .none => 128
  | .sign => 8
  | .ternary => 12
def tileBytes (c : GCode) : Nat := 128 * blockBytes c

/-- n FP32 elements of a byte list. -/
def f32sOf (bytes : List Byte) (n : Nat) : List Nat := (List.range n).map (fun i => bytesToNat ((bytes.drop (4 * i)).take 4))
def bytesOfF32s (xs : List Nat) : List Byte := xs.flatMap (natToBytes 4)

/-- Bytes of one coded block. -/
def blockWire (c : GCode) (b : CodedBlock) : List Byte :=
  match c with
  | .sign => natToBytes 4 b.code ++ natToBytes 4 b.scale
  | _ => natToBytes 8 b.code ++ natToBytes 4 b.scale

/-- A tile's wire bytes, its residuals, and its NaN blocks (R352 to R355). -/
def encodeTile (c : GCode) (es : List Nat) : List Byte × List Nat × Nat :=
  match c with
  | .none => (bytesOfF32s es, [], 0)
  | c =>
    let bs := (List.range (es.length / 32)).map (fun i => encodeBlock c ((es.drop (32 * i)).take 32))
    (bs.flatMap (blockWire c), bs.flatMap CodedBlock.resid, (bs.filter CodedBlock.nanBlock).length)

/-- Decode n blocks; the second component counts ternary codes 0b10 (R352). -/
def decodeTile (c : GCode) (bytes : List Byte) (n : Nat) : List Nat × Nat :=
  match c with
  | .none => (f32sOf bytes (32 * n), 0)
  | c =>
    let w := blockBytes c
    let bs := (List.range n).map (fun i =>
      let b := (bytes.drop (w * i)).take w
      (bytesToNat (b.take (w - 4)), bytesToNat (b.drop (w - 4))))
    (bs.flatMap (fun b => (List.range 32).map (codedElem c b.1 b.2)),
     if c = .ternary then (bs.map (fun b => ((List.range 32).filter (fun i => (b.1 >>> (2 * i)) % 4 == 2)).length)).sum else 0)

/-- Element by element FP32 sum, RNE (R356, R371). -/
def addTiles (a b : List Nat) : List Nat := (a.zip b).map (fun p => fAdd fmtF32 .rne p.1 p.2)

/-! ### Residual objects (R357, R358) -/

/-- The hop position of a leaf's key (R371). -/
def leafHop : Nat := 0xFFFF

inductive ResAt where
  | ok (s : State) (o : ResObj)
  /-- its index is uncorrectable (R326) -/
  | bad
  | wait (s : State)
  | fail
  deriving DecidableEq, Repr

/-- The addresses in an object's range that an access to the tiles of some keys reaches, beside its first page: the arrangement inside
the range is open (R358; log 17). -/
def residPages (va : Nat) (ks : List (Nat × Nat × Nat)) : List Nat :=
  ks.flatMap (fun k => (List.range 4).map (fun i => va + 4096 * (Config.residPage k.1 k.2.1 k.2.2 i % 2 ^ 28)))

/-- The object at an address, for an access to the tiles of some keys, which `rd` reads: the pages that this reaches are mapped; at
its first use it is empty where its first 4 KiB read as zero (R325, R326, R358). -/
def residAt (s : State) (die root key : Nat) (who : Who) (va : Nat) (ks : List (Nat × Nat × Nat)) (rd : Bool) : ResAt :=
  let at_ := (va :: residPages va ks).map (fun a => dieXlate s die root key a 1 who)
  match at_.findSome? (fun x => match x with
    | .wait t => some t
    | _ => none) with
  | some t => .wait t
  | none =>
    let pas := at_.filterMap (fun x => match x with
      | .ok pa _ => some pa
      | _ => none)
    if pas.length ≠ at_.length ∨ !pas.all isHbm then .fail
    else if (if rd then pas else pas.take 1).any (fun pa => (List.range 32).any (fun i => badLine s (pa / 128 + i))) then .bad
    else match s.fab.resid.find? (fun o => o.root == root && o.va == va) with
      | some o => if rd && ks.any o.bad.contains then .bad else .ok s o
      | none =>
        let o : ResObj := ⟨root, va, [], (List.range 4096).any (fun i => homeByte s (pas.headD 0 + i) != 0), []⟩
        .ok { s with fab := { s.fab with resid := s.fab.resid ++ [o] } } o

/-- The keys that an object holds. -/
def residKeys (s : State) (root va : Nat) : List (Nat × Nat × Nat) :=
  ((s.fab.resid.find? (fun o => o.root == root && o.va == va)).map (fun o => o.tiles.map Prod.fst)).getD []

def putResid (s : State) (o : ResObj) : State :=
  { s with fab := { s.fab with resid := s.fab.resid.map (fun x => if x.root = o.root ∧ x.va = o.va then o else x) } }

/-- Values that nothing fixes (log 17). -/
def freeTile (s : State) : State × List Nat :=
  ({ s with fresh := s.fresh + 4096 }, (List.range 4096).map (fun i => (Config.freeWord (s.fresh + i)).toNat))

/-- The tile of a key: +0 where it has never been written (R358). -/
def residTile (s : State) (o : ResObj) (k : Nat × Nat × Nat) : State × List Nat :=
  match o.tiles.find? (fun x => x.1 == k) with
  | some (_, some t) => (s, t.map (fun x => x.toNat))
  | some (_, none) => freeTile s
  | none => if o.open_ then freeTile s else (s, List.replicate 4096 0)

def residPut (o : ResObj) (k : Nat × Nat × Nat) (t : List Nat) : ResObj :=
  { o with tiles := o.tiles.filter (fun x => x.1 != k) ++ [(k, some (t.map (fun x => BitVec.ofNat 32 x)))], bad := o.bad.filter (· != k) }

/-! ### Paths, packets and sends (R341, R342, R344) -/

def peerKey (die pkg peer : Nat) : Nat := 16 * (16 * pkg + peer) + die
def pathsOf (s : State) (die pkg peer : Nat) : Paths := mapGet ⟨[], []⟩ s.fab.paths (peerKey die pkg peer)
/-- The port of an entropy value (log 18). -/
def portOf (die e : Nat) : Nat := 4 * die + e % 4
def pathOk (s : State) (die pkg peer e : Nat) : Bool :=
  !(pathsOf s die pkg peer).removed.contains e && !bitAt s.mg.portsFailed (portOf die e) && !s.fab.dead.contains (portOf die e)
/-- The entropy values of a peer's paths that are left. -/
def livePaths (s : State) (die pkg peer : Nat) : List Nat := (List.range 256).filter (pathOk s die pkg peer)
/-- Packets are sprayed over the paths to the peer that are left, others than `avoid` where there are such: which one is a free value
(R340, R342; log 18); 256: none is left. -/
def pickPath (s : State) (die pkg peer avoid : Nat) : Nat :=
  let l := livePaths s die pkg peer
  let ok := if (l.filter (fun e => e != avoid)).isEmpty then l else l.filter (fun e => e != avoid)
  ok.getD ((Config.freeWord s.fresh).toNat % max 1 ok.length) 256

def packetsOf (bytes : List Byte) : List (Nat × List Byte) :=
  (List.range ((bytes.length + 4095) / 4096)).map (fun i => (4096 * i, (bytes.drop (4096 * i)).take 4096))

/-- A packet leaves, or waits for a path; its die's route table has an entry for the peer (R342). -/
def launchPacket (s : State) (i : Nat) (p : FPkt) (avoid : Nat) : State :=
  let e := pickPath s p.srcDie p.dstPkg p.dstDie avoid
  let k := peerKey p.srcDie p.dstPkg p.dstDie
  { s with
    fresh := s.fresh + 1
    fab := { s.fab with
      paths := mapPut s.fab.paths k (pathsOf s p.srcDie p.dstPkg p.dstDie)
      pkts := mapPut s.fab.pkts i { p with
        path := e, sent := s.ticks, lost := (livePaths s p.srcDie p.dstPkg p.dstDie).isEmpty, trimmed := false } } }

/-- A send: its packets leave (R344, R350). -/
def newSend (s : State) (p : FPkt) (bytes : List Byte) (entry : Option Nat) : State × Nat :=
  let id := s.nextId
  let ps := packetsOf bytes
  let snd : Send := ⟨p.srcDie, p.dstPkg, p.dstDie, p.handle, (List.range ps.length).map (fun i => id + 1 + i), entry, false⟩
  let s := { s with nextId := id + 1 + ps.length, fab := { s.fab with sends := mapPut s.fab.sends id snd } }
  (ps.zipIdx.foldl (fun t x => launchPacket t (id + 1 + x.2)
    { p with send := id, off := x.1.1, total := bytes.length, bytes := x.1.2 } 256) s, id)

/-- The link event of a peer without a path (R336, R342). -/
def recNoPath (s : State) (die pkg peer : Nat) : State :=
  record s { boxEvent s with kind := 3, code := 4, die, arg := pkg * 16 + peer }

/-- A path of a die to a peer is removed; the packets on it are sent again (R342). -/
def removePath (s : State) (die pkg peer e : Nat) : State :=
  let p := pathsOf s die pkg peer
  let q : Paths := { p with removed := if p.removed.contains e then p.removed else e :: p.removed }
  let s := { s with fab := { s.fab with paths := mapPut s.fab.paths (peerKey die pkg peer) q } }
  let s := if (livePaths s die pkg peer).isEmpty then recNoPath s die pkg peer else s
  (s.fab.pkts.filter (fun x => x.2.srcDie == die && x.2.dstPkg == pkg && x.2.dstDie == peer && x.2.path == e &&
    !x.2.accepted)).foldl (fun t x => launchPacket t x.1 x.2 e) s

/-! ### Staging (R351, R382) -/

def stagingSize : Nat := 0x1000000
def chunkUse (c : Chunk) : Nat := max c.size (16384 + (c.ops.map (fun o => o.2.2.length)).sum)
def stagingUsed (s : State) (die : Nat) : Nat :=
  ((s.fab.chunks.filter (fun c => c.2.die == die)).map (fun c => chunkUse c.2)).sum +
  ((s.fab.raws.filter (fun r => r.die == die)).map (fun r => (r.parts.map (fun p => p.2.length)).sum)).sum

def findChunk (s : State) (die handle t tag : Nat) : Option (Nat × Chunk) :=
  s.fab.chunks.find? (fun c => c.2.die == die && c.2.handle == handle && c.2.t == t && c.2.tag == tag)
def delChunk (s : State) (die handle t tag : Nat) : State :=
  { s with fab := { s.fab with chunks := s.fab.chunks.filter (fun c =>
      !(c.2.die == die && c.2.handle == handle && c.2.t == t && c.2.tag == tag)) } }

/-- Bytes that a chunk of a group takes on a die: its own tile and one space for each child (R351). -/
def chunkSize (g : Group) (t : Nat) : Nat :=
  if g.size = 0 then 16384
  else 16384 + (hopChildren g.size g.k (hopOf g.size g.rank t)).length * tileBytes (codeOfField g.code)

/-- The chunk of a collective on a die, allocated where there is none; none: no room. -/
def openChunk (s : State) (die : Nat) (g : Group) (t tag : Nat) : Option (State × Nat × Chunk) :=
  match findChunk s die g.handle t tag with
  | some c => some (s, c)
  | none =>
    let c : Chunk := ⟨die, g.handle, t, tag, chunkSize g t, []⟩
    if stagingSize < stagingUsed s die + chunkUse c then none
    else some ({ s with nextId := s.nextId + 1, fab := { s.fab with chunks := mapPut s.fab.chunks s.nextId c } }, s.nextId, c)

/-- Bytes that source `rank` has sent into a chunk, once they are all there. -/
def chunkFrom (c : Chunk) (rank total : Nat) : Option (List Byte) :=
  let ps := c.ops.filter (fun o => o.1 == rank)
  if (ps.map (fun o => o.2.2.length)).sum = total then
    some ((packetsOf (List.replicate total 0)).flatMap (fun q => ((ps.find? (fun o => o.2.1 == q.1)).map (fun o => o.2.2)).getD []))
  else none

end Sys2Proof.Machine
end

