-- ==== Sys2Proof/Machine/Collective.lean ====
section
/-! DEFINITION. `coll` at its commit, collective entries, chunks and the adder, packets, paths and connections, version
notices: R341, R342, R344, R346 to R361, R382. -/

namespace Sys2Proof.Machine
open Sys2Proof

/-! ### coll (R346 to R348) -/

def causeColl : Nat := 0x0D

/-- A span's k-th `coll` forms an entry, or joins the one that its deck has formed (R348). -/
inductive CollRes where
  | ok (s : State)
  | bad (cause : Nat)
  | wait
  deriving DecidableEq, Repr

/-- The forming entry has one member more: its start comes after what that span did, and waits for its older stores and loads too
(R248, R257). -/
def joinForm (s : State) (u : Nat) (f : CollForm) : State × CollForm :=
  let p := publish s u
  (p.1, { f with
    uids := f.uids ++ [u], clock := addClock f.clock p.2
    fence := f.fence ++ unperformed s u ++ atomicsOf s u ++ unread s u (fun _ => true) })

/-- A span commits its k-th `coll`: SLOT_STATE and OVERREAD for the first, COLL_MISMATCH for a later one (R348). -/
def collJoin (s : State) (u : Nat) (sp : Span) (e : Cmd) : CollRes :=
  match deckOf s sp.deck with
  | none => .bad causeColl
  | some d =>
    let s := writeBackOf s sp.core u (fun _ => true)
    let done := fun (s : State) (d : Deck) => CollRes.ok
      (collEnter 16 (putSpan (putDeck s sp.deck d) u { sp with colls := sp.colls + 1 }) sp.deck)
    match d.colls.find? (fun f => f.k == sp.colls) with
    | some f =>
      if f.cmd.op ≠ e.op ∨ f.sa ≠ e.word ∨ f.slot ≠ e.slotA ∨ f.cmd.bar ≠ e.bar then .bad causeColl
      else
        let j := joinForm s u f
        if collFull s sp.deck j.2 && queueFull s d.core d.half 5 then .wait
        else done j.1 { d with colls := d.colls.map (fun x => if x.k = f.k then j.2 else x) }
    | none =>
      let c := ctxOf s sp.core sp.half
      match cmdBad c e with
      | some x => .bad x
      | none =>
        let j := joinForm s u ⟨sp.colls, e, e.word, e.slotA, [], [], []⟩
        if collFull s sp.deck j.2 && queueFull s d.core d.half 5 then .wait
        else done (putCtx j.1 sp.core sp.half (cmdReads c e)) { d with colls := d.colls ++ [j.2] }

/-- A `coll` commits: checks 1 to 6 of R171, then the deck's entry (R346 to R348). -/
def collOp (op : Nat) (a : BitVec 6) (slot : BitVec 4) (c : BitVec 6) (s : State) : Res :=
  withLaunch s fun sp l => needS s sp [a.toNat, c.toNat]
    (let u := s.cur.uid
     let bar := if c = 63 then none else some (sRead sp c.toNat)
     if sp.am ≠ sp.live then trapS s sp l causePartial sp.am 0
     else match barFinds s sp l false bar with
       | .wait s => .next s
       | .ok bf => match firstFind bf with
         | some f => trapS s sp l f.1 sp.am f.2
         | none =>
           let e := { Cmd.init with
             kind := .coll, uid := u, deck := sp.deck, bar := bar, slotA := slot.toNat, op := op,
             word := sRead sp a.toNat, launch := ((deckOf s sp.deck).map Deck.launch).getD 0 }
           if l.det then bufferAll s sp [.coll e e.word] fun sp1 =>
             let r := undoCmd s sp l
             commitS r.1 { sp1 with undo := r.2.undo }
           else match collJoin s u sp e with
             | .bad x => trapS s sp l x sp.am 0
             | .wait => stall s
             | .ok s => match spanOf s u with
               | none => .fault .notEnabled
               | some sp =>
                 let r := undoCmd s sp l
                 commitS r.1 r.2)

/-- Commit a reduce-scatter collective entry. (R346, R348, R349) -/
def execCollRs (a : BitVec 6) (slot : BitVec 4) (c : BitVec 6) (s : State) : Res := collOp 0 a slot c s

/-- Commit an all-gather collective entry. (R346, R348, R349) -/
def execCollAg (a : BitVec 6) (slot : BitVec 4) (c : BitVec 6) (s : State) : Res := collOp 1 a slot c s

/-- Commit an all-reduce collective entry. (R346, R348, R349) -/
def execCollAr (a : BitVec 6) (slot : BitVec 4) (c : BitVec 6) (s : State) : Res := collOp 2 a slot c s

/-- Commit a broadcast collective entry. (R346, R348, R349) -/
def execCollBc (a : BitVec 6) (slot : BitVec 4) (c : BitVec 6) (s : State) : Res := collOp 3 a slot c s

/-! ### Entries of the fabric engine (R349, R350) -/

def putEntry (s : State) (e : Entry) : State := { s with fab := { s.fab with entries := mapPut s.fab.entries e.seq e } }

/-- Bytes that an entry lands (R349). -/
def entryBytes (e : Entry) : Nat := if e.op = 1 then 16384 * max 1 e.g else 16384

/-- The entry's command leaves its queue. -/
def endCmd (s : State) (seq : Nat) : State :=
  match findCmd s seq with
  | some k => cmdDone s k k.cmd
  | none => s

def landEntry (s : State) (e : Entry) (poison : Bool) : State :=
  match e.bar with
  | none => s
  | some bar =>
    let x : Land := ⟨e.deck, e.core, bar, entryBytes e, poison, 0, e.seq, e.seq⟩
    { s with lands := mapPut s.lands s.nextId x, nextId := s.nextId + 1 }

/-- Sends leave the fabric engine with their packets. -/
def dropSends (s : State) (ids : List Nat) : State :=
  { s with fab := { s.fab with
      sends := s.fab.sends.filter (fun x => !ids.contains x.1)
      pkts := s.fab.pkts.filter (fun x => !ids.contains x.2.send) } }

/-- An entry fails: its bytes land with the poison mark (R176, R349). -/
def failEntry (s : State) (e : Entry) : State :=
  let s := if e.landed then s else landEntry s e true
  let s := delChunk (dropSends s e.sends) e.die e.handle e.t e.tag
  let s := dropFails { s with fab := { s.fab with entries := mapDel s.fab.entries e.seq } } (.fabric e.seq)
  endCmd s e.seq

/-- The entry has landed and its sends are acknowledged: it is done (R349, R350). -/
def settleEntry (s : State) (e : Entry) : State :=
  -- a send of a reduce-scatter lands its own rank's bytes when it is acknowledged (R349)
  let now := e.op == 0 && e.swept && e.out.isNone && !e.landed && e.sends.isEmpty
  let s1 := if now then landEntry s e false else s
  let e1 := { e with landed := e.landed || now }
  let s2 := putEntry s1 e1
  if e1.landed && e1.sends.isEmpty && e1.swept then
    endCmd { s2 with fab := { s2.fab with entries := mapDel s2.fab.entries e.seq } } e.seq
  else s2

/-- A send of the entry to a rank. -/
def sendTo (s : State) (e : Entry) (rank kind code : Nat) (bytes : List Byte) : State × Entry :=
  let m := e.members.getD rank (0, 0)
  let r := newSend s ⟨0, Config.package, e.die, m.1, m.2, e.handle, e.key, e.rank, e.t, e.tag, code, kind, 0, 0, [], false,
    false, false, 0, 0⟩ bytes (some e.seq)
  (r.1, { e with sends := e.sends ++ [r.2] })
def sendAll (s : State) (e : Entry) (ranks : List Nat) (kind code : Nat) (bytes : List Byte) : State × Entry :=
  ranks.foldl (fun x r => sendTo x.1 x.2 r kind code bytes) (s, e)

/-- The 16,384 bytes of a slot. -/
def slotTile (x : Slot) : List Byte := (List.range 16384).map (fun i => mapGet 0 x.data i)

/-- Entry `id` of queue 5 starts, and reads its slot; complete entries that found their queue full enter it first. (R348 to
R351, R359) -/
def execCollEntryStart (s : State) : Res :=
  if s.cur.x.id = 0 then
    -- deck `a`: an entry became complete while queue 5 was full
    match deckOf s s.cur.x.a with
    | none => .fault .notEnabled
    | some d =>
      let s' := collEnter 16 s s.cur.x.a
      if ((deckOf s' s.cur.x.a).map Deck.colls) = some d.colls then .fault .notEnabled else .next s'
  else withCmd s .coll fun k l =>
    let e := k.cmd
    if e.started then .fault .notEnabled
    else
      let die := dieOfCore k.core
      let handle := fieldOf e.word 0 32
      let t := fieldOf e.word 32 16
      let tag := fieldOf e.word 48 16
      let c := ctxOf s k.core k.half
      let start := fun (s : State) => drainSlots (updCmd (nextUse s) k { e with started := true }) k.core k.half
      let any := anyGroup s die handle
      let bad := fun (s : State) (e : Entry) at_ => Host.Outcome.next (haltWith (failEntry (start s) e) e.uid 2 noteAbandoned at_)
      let e0 : Entry := ⟨die, k.core, e.seq, e.uid, e.deck, l.number, l.root, l.key, e.op, handle, t, tag, e.bar, [], 0,
        (any.map Group.size).getD 1, 2, 0, false, 0, 0, [], 0, 0, [], [], none, 0, [], false, false, false, s.uses, e.nth⟩
      if !(slotOf c e.slotA).bad.isEmpty then bad s e0 0
      else if tableBad s die handle then bad s e0 (groupTable s die)
      else match (findGroup s die handle).filter (fun g => g.state == 0) with
      | none => .next (failEntry (start s) e0)
      | some g =>
        -- what a group does whose entry another agent has stored into is open (R386)
        let o := groupOpen s g
        let s := o.1
        if o.2 then .next (failEntry (start s) e0)
        else if savesOn s l.root g.resid then .fault .notEnabled
        else match fabRead s die l.root l.key (.fabric e.seq) g.members (4 * g.size) with
        | .wait s => .next s
        | .fail => .next (failEntry (start s) e0)
        | .ok s mb poison => if poison then bad s e0 g.members else match openChunk s die g t tag with
          | none => .fault .notEnabled
          | some (s, _, _) =>
            let e1 := { e0 with
              tile := slotTile (slotOf c e.slotA), rank := g.rank, g := g.size, k := g.k, code := g.code, home := g.home,
              dest := g.dest, readers := g.readers, tensor := g.tensor, resid := g.resid,
              members := (List.range g.size).map (memberOf mb) }
            let s := start s
            if e.op = 1 then
              let r := sendAll s e1 ((List.range g.size).filter (fun r => r != g.rank)) 2 g.code e1.tile
              .next (putEntry r.1 r.2)
            else if e.op = 3 ∧ entryHop e1 = 0 then
              -- the root has nothing to gather: its chunk is freed again (R351)
              let r := sendAll (delChunk s die handle t tag) { e1 with out := some e1.tile, swept := true } (entryChildren e1) 1 g.code e1.tile
              .next (putEntry r.1 r.2)
            else .next (putEntry s e1)

/-! ### Writing a tile (R349, R350) -/

/-- One line of a destination: the issuing core's copies are dropped, after its own bytes have gone (R247, R350). -/
def entryPut (s : State) (e : Entry) (readers va : Nat) (bytes : List Byte) : FabWr :=
  if inLocal va ∨ inQuad va then .fail s
  else match dieXlate s e.die e.root e.key va 1 (.fabric e.seq) with
    | .wait s => .wait s
    | .fail => .fail s
    | .ok pa bar =>
      let line := pa / 128
      let dirty := match l1Find (coreOf s e.core) line with
        | some x => x.dirty != 0
        | none => false
      let s := invalidate s e.core line
      let w := { dieWriter s e.die e.seq with va := va }
      if dirty || storeInFlight s e.core line then .wait s
      else if isHbm pa then fabPut s e.die w readers e.number pa bar bytes
      else if readers ≠ 0 then .fail s
      else .ok (newReq s { Req.init with
        core := 512 + e.die, kind := .storeData, line, mask := BitVec.allOnes 128, data := BitVec.ofNat 1024 (bytesToNat bytes),
        stage := .home, tag := e.seq, va := va, writers := [{ w with mask := BitVec.allOnes 128 }] }).1

/-- The lines of some bytes from the first that is not written: how far it came, and how it ended. -/
def entryWrite (s : State) (e : Entry) (readers va pos : Nat) (bytes : List Byte) : FabWr × Nat :=
  ((List.range (bytes.length / 128)).drop pos).foldl (fun r i => match r.1 with
    | .ok t => match entryPut t e readers (va + 128 * i) ((bytes.drop (128 * i)).take 128) with
      | .ok t => (.ok t, i + 1)
      | x => (x, i)
    | _ => r) (.ok s, pos)

/-- Where the entry's tile goes: rs and ar and bc (R349). -/
def entryDest (e : Entry) : Nat := e.dest + (if e.op = 0 then e.t / max 1 e.g else e.t) * 16384

/-- The tile that the entry holds is written, and the entry lands. -/
def writeEntry (s : State) (e : Entry) (tile : List Byte) : State :=
  match entryWrite s e 0 (entryDest e) e.pos tile with
  | (.ok s, _) => settleEntry (landEntry s e false) { e with written := true, landed := true, pos := 128 }
  | (.wait s, n) => putEntry s { e with pos := n }
  | (.fail s, _) => failEntry s e

/-! ### The adder (R351, R355 to R357, R376) -/

/-- Tiles in a home's inbox (R376). -/
def inboxKey (handle die : Nat) : Nat := 16 * handle + die
def inboxRoom (s : State) (handle die : Nat) : Bool := decide ((mapGet [] s.fab.inbox (inboxKey handle die)).length < 64)

/-- The contributions of every child are there. -/
def chunkReady (c : Chunk) (e : Entry) : Bool :=
  (entryChildren e).all (fun r => (chunkFrom c r (tileBytes (codeOfField e.code))).isSome)

/-- e of R356: own tile, the residual where there is one, the children in ascending rank; and the codes 0b10 met. -/
def reduceTile (e : Entry) (c : Chunk) (resid : Option (List Nat)) : List Nat × Nat :=
  let own := f32sOf e.tile 4096
  let e0 := match resid with
    | some r => addTiles own r
    | none => own
  (entryChildren e).foldl (fun x r =>
    let d := decodeTile (codeOfField e.code) ((chunkFrom c r (tileBytes (codeOfField e.code))).getD []) 128
    (addTiles x.1 d.1, x.2 + d.2)) (e0, 0)

/-- The predecessor of the group is not retired on the die (R360). -/
def predAlive (s : State) (die : Nat) (g : Group) : Bool := g.pred != 0 && (findGroup s die g.pred).isSome

/-- The residual's key of a compression (R357). -/
def residKey (e : Entry) : Nat × Nat × Nat :=
  let u := entryHop e
  (e.tensor, e.t, if (hopChildren e.g e.k u).isEmpty then leafHop else u)

/-- The entry has a compression still to make (R356). -/
def compressing (e : Entry) : Bool :=
  (e.op == 0 || e.op == 2) && codeOfField e.code != .none && (entryHop e != 0 || e.g == 1) && !e.swept && e.got.isEmpty &&
  e.out.isNone

/-- An entry that started before `e` has to compress the same key of its die first (R357). -/
def compressBefore (s : State) (e : Entry) : Bool :=
  s.fab.entries.any (fun x => decide (x.2.begun < e.begun) && x.2.die == e.die && x.2.root == e.root && x.2.resid == e.resid &&
    residKey x.2 == residKey e && compressing x.2)

/-- A complete chunk is swept (R351, R356): the root has the reduced tile, another sends its code to its parent. -/
def sweepEntry (s : State) (e : Entry) (g : Group) (c : Chunk) : Res :=
  let u := entryHop e
  let code := codeOfField e.code
  let useR := code != .none && (u != 0 || e.g == 1)
  let toHome := e.op == 0 && e.home && u == 0
  if (useR && (predAlive s e.die g || compressBefore s e)) || (toHome && !inboxRoom s e.handle e.die) then .fault .notEnabled
  else
    let fin := fun (s : State) (x : List Nat × Nat) (o : Option ResObj) =>
      let s := if x.2 = 0 then s else raiseDrops s g x.2
      let s := delChunk s e.die e.handle e.t e.tag
      if u = 0 then
        -- with one member, what its residual held is in the result (R349)
        let s := match o with
          | some o => putResid s (residPut o (residKey e) (List.replicate 4096 0))
          | none => s
        let tile := bytesOfF32s x.1
        if toHome then
          let k := inboxKey e.handle e.die
          let s := { s with fab := { s.fab with inbox := mapPut s.fab.inbox k (mapGet [] s.fab.inbox k ++
            [(e.t / max 1 e.g, e.tag, x.1.map (BitVec.ofNat 32))]) } }
          Host.Outcome.next (settleEntry (landEntry s e false) { e with swept := true, written := true, landed := true })
        else
          let r := if e.op = 2 then sendAll s e (entryChildren e) 1 e.code tile else (s, e)
          .next (writeEntry r.1 { r.2 with swept := true, out := some tile } tile)
      else
        let w := encodeTile code x.1
        let s := match o with
          | some o => putResid s (residPut o (residKey e) w.2.1)
          | none => s
        let s := if w.2.2 = 0 then s else raiseCount s g 0x50 w.2.2
        let r := sendTo s e (rankAt e.g e.t (hopParent e.k u)) 0 e.code w.1
        -- an all-reduce waits for the result in a chunk of its own
        .next (putEntry r.1 { r.2 with swept := e.op == 0, written := false, pos := 0, got := [e.rank] })
    if !useR then fin s (reduceTile e c none) none
    else match residAt s e.die e.root e.key (.fabric e.seq) e.resid [residKey e] true with
      | .wait s => .next s
      | .fail => .next (failEntry s e)
      | .bad => .next (haltWith (failEntry s e) e.uid 2 noteAbandoned e.resid)
      | .ok s o =>
        let r := residTile s o (residKey e)
        fin r.1 (reduceTile e c (some r.2)) (some o)

/-- The parts of an all-gather that are there and not written: by code 4·rank and place, with their bytes (R349, R351). -/
def gatherParts (e : Entry) (ops : List (Nat × Nat × List Byte)) : List (Nat × List Byte) :=
  (((List.range 4).map (fun i => (4 * e.rank + i, (e.tile.drop (4096 * i)).take 4096))) ++
    (ops.filter (fun (o : Nat × Nat × List Byte) => o.2.2.length == 4096 && decide (o.1 < e.g) && decide (o.2.1 < 16384))).map (fun (o : Nat × Nat × List Byte) => (4 * o.1 + o.2.1 / 4096, o.2.2))).filter
      (fun p => !e.got.contains p.1)

/-- A part that is written needs its place in the staging no more (R351). -/
def dropPart (s : State) (e : Entry) (part : Nat) : State :=
  { s with fab := { s.fab with chunks := s.fab.chunks.map (fun c =>
    if c.2.die = e.die ∧ c.2.handle = e.handle ∧ c.2.t = e.t ∧ c.2.tag = e.tag then
      (c.1, { c.2 with ops := c.2.ops.map (fun o => if 4 * o.1 + o.2.1 / 4096 = part then (o.1, o.2.1, []) else o) }) else c) } }

/-- A part of a gathered tile is written at its place, from its own next line; with the last part the entry lands (R349). -/
def gatherTile (s : State) (e : Entry) (part : Nat) (bytes : List Byte) : State :=
  match entryWrite s e e.readers (e.dest + (e.t * e.g + part / 4) * 16384 + part % 4 * 4096) (mapGet 0 e.parts part) bytes with
  | (.ok s, _) =>
    let s := dropPart s e part
    let e := { e with got := e.got ++ [part], parts := mapDel e.parts part }
    if e.got.length = 4 * e.g then
      settleEntry (landEntry (delChunk s e.die e.handle e.t e.tag) e false) { e with written := true, landed := true, swept := true }
    else putEntry s e
  | (.wait s, n) => putEntry s { e with parts := mapPut e.parts part n }
  | (.fail s, _) => failEntry s e

/-- The fabric engine goes on with entry `id`: the adder sweeps its complete chunk, or a tile that is there is written and
passed on. (R349 to R358, R376) -/
def execChunkSweep (s : State) : Res :=
  match mapFind s.fab.entries s.cur.x.id with
  | none => .fault .notEnabled
  | some e =>
    if !clocked s then .fault .notEnabled
    else match e.out with
    | some tile => if e.written then .fault .notEnabled else .next (writeEntry s e tile)
    | none => match findChunk s e.die e.handle e.t e.tag with
      | none => .fault .notEnabled
      | some (_, c) =>
        if e.op = 1 then
          -- any part that is there: event argument `a` says which
          match (gatherParts e c.ops)[s.cur.x.a]? with
          | none => .fault .notEnabled
          | some p => .next (gatherTile s e p.1 p.2)
        else if e.op = 3 ∨ (e.op = 2 ∧ !e.got.isEmpty) then
          -- the result, or the root's tile, from the parent goes on down the tree
          match chunkFrom c (rankAt e.g e.t (hopParent e.k (entryHop e))) 16384 with
          | none => .fault .notEnabled
          | some tile =>
            let r := sendAll (delChunk s e.die e.handle e.t e.tag) e (entryChildren e) 1 e.code tile
            .next (writeEntry r.1 { r.2 with out := some tile, swept := true } tile)
        else if e.swept ∨ !chunkReady c e then .fault .notEnabled
        else match anyGroup s e.die e.handle with
          | none => .fault .notEnabled
          | some g => sweepEntry s e g c

/-! ### Packets (R341, R342, R344, R382) -/

/-- A packet from another package (log 18): a header of sixteen 4-byte fields, then its bytes. -/
def foreignPacket (die : Nat) (b : List Byte) : FPkt :=
  let w := fun i => bytesToNat ((b.drop (4 * i)).take 4)
  ⟨w 11, w 0, w 1, Config.package, die, w 2, w 3, w 4, w 5, w 6 + w 7 * 2 ^ 32, w 8, w 9, w 10, w 12, b.drop 64, false, false, false, 0, 0⟩

inductive Accept where
  | ok (s : State)
  | drop (s : State)
  /-- no room in staging: trimmed (R351) -/
  | trim
  | wait (s : State)
  deriving DecidableEq, Repr

/-- A packet of a chunk is accepted into staging (R344, R351). -/
def acceptChunk (s : State) (p : FPkt) (g : Group) : Accept :=
  match openChunk s p.dstDie g p.t p.tag with
  | none => .trim
  | some (t, i, c) =>
    if c.ops.any (fun o => o.1 == p.rank && o.2.1 == p.off) then .drop (raiseDrops s g 1)
    else
      let c := { c with ops := c.ops ++ [(p.rank, p.off, p.bytes)] }
      let t := { t with fab := { t.fab with chunks := mapPut t.fab.chunks i c } }
      if stagingSize < stagingUsed t p.dstDie then .trim else .ok t

/-- A packet of a raw chunk is held until a `recv` frees the chunk (R382). -/
def acceptRaw (s : State) (p : FPkt) (g : Group) : Accept :=
  let same := fun (r : Raw) => r.die == p.dstDie && r.handle == p.handle && r.rank == p.rank && r.tag == p.tag
  match s.fab.raws.find? same with
  | some r =>
    if r.send ≠ p.send ∨ r.parts.any (fun x => x.1 == p.off) then .drop (raiseDrops s g 1)
    else if stagingSize < stagingUsed s p.dstDie + p.bytes.length then .trim
    else .ok { s with fab := { s.fab with raws := s.fab.raws.map (fun x =>
      if same x then { x with parts := x.parts ++ [(p.off, p.bytes)] } else x) } }
  | none =>
    if stagingSize < stagingUsed s p.dstDie + p.bytes.length then .trim
    else .ok { s with fab := { s.fab with raws := s.fab.raws ++
      [⟨p.dstDie, p.handle, p.rank, p.tag, p.send, [(p.off, p.bytes)], p.total⟩] } }

/-- The checks of R344, and acceptance; packet `id` asks for the member table. -/
def acceptPacket (s : State) (id : Nat) (p : FPkt) : Accept :=
  match anyGroup s p.dstDie p.handle with
  | none => .drop (record s { boxEvent s with
      kind := 3, code := 5, die := p.dstDie, arg := p.handle + p.srcPkg * 2 ^ 32 + p.srcDie * 2 ^ 44 })
  | some g =>
    let o := groupOpen s g
    let s := o.1
    if tableBad s p.dstDie p.handle then .drop s
    else if o.2 ∨ g.state = 2 ∨ p.key ≠ g.key ∨ g.size ≤ p.rank ∨ (p.kind ≠ 3 ∧ p.code ≠ g.code) then .drop (raiseDrops s g 1)
    else match keyRoot s g.key with
      | none => .drop (raiseDrops s g 1)
      | some root => match fabRead s p.dstDie root g.key (.fabric id) (g.members + 4 * p.rank) 4 with
        | .wait s => .wait s
        | .fail => .drop (raiseDrops s g 1)
        | .ok s b bad =>
          if bad ∨ memberOf b 0 ≠ (p.srcPkg, p.srcDie) then .drop (raiseDrops s g 1)
          else if p.kind = 3 then acceptRaw s p g else acceptChunk s p g

def putPkt (s : State) (i : Nat) (p : FPkt) : State := { s with fab := { s.fab with pkts := mapPut s.fab.pkts i p } }

/-- Packet `id` arrives, or (`id` 0) one of another package at die `die`: it is accepted into staging, trimmed or dropped; a
duplicate is discarded; one for another package is accepted there. (R342, R344, R351, R382) -/
def execPacketReceive (s : State) : Res :=
  let i := s.cur.x.id
  if i = 0 then
    let p := foreignPacket s.cur.x.die s.cur.x.bytes
    let n := (p.srcPkg, p.srcDie, p.send, p.dstDie, p.off)
    if 16 ≤ s.cur.x.die ∨ s.mg.failedDies.contains s.cur.x.die then .fault .notEnabled
    -- a resent packet that had arrived (R342)
    else if s.fab.seen.contains n then .next s
    else match acceptPacket s 0 p with
      | .ok s => .next { s with fab := { s.fab with seen := n :: s.fab.seen } }
      | .drop s => .next s
      | .trim => .next s
      | .wait s => .next s
  else match mapFind s.fab.pkts i with
    | none => .fault .notEnabled
    | some p =>
      if p.accepted then .next s
      else if p.lost then .fault .notEnabled
      else if p.dstPkg ≠ Config.package then .next (putPkt s i { p with accepted := true })
      else if s.mg.failedDies.contains p.dstDie then .fault .notEnabled
      else match acceptPacket s i p with
        | .ok s => .next (putPkt s i { p with accepted := true })
        | .drop s => .next (putPkt s i { p with lost := true })
        | .trim => .next (putPkt s i { p with lost := true, trimmed := true })
        | .wait s => .next s

/-- Two microseconds of the 100 MHz reference clock. -/
def resendTicks : Nat := 200

/-- Packet `id` has not been acknowledged within 2 µs: its path is suspect, at the second mark removed, and the packet goes
out on another entropy value. (R342) -/
def execPacketResend (s : State) : Res :=
  match mapFind s.fab.pkts s.cur.x.id with
  | none => .fault .notEnabled
  | some p =>
    if p.accepted ∨ p.path = 256 ∨ s.ticks < p.sent + resendTicks then .fault .notEnabled
    else
      let ps := pathsOf s p.srcDie p.dstPkg p.dstDie
      if ps.suspect.contains p.path then
        -- the removal sends the packets of the path again
        .next (removePath s p.srcDie p.dstPkg p.dstDie p.path)
      else
        let q : Paths := { ps with suspect := p.path :: ps.suspect }
        let s := { s with fab := { s.fab with paths := mapPut s.fab.paths (peerKey p.srcDie p.dstPkg p.dstDie) q } }
        .next (launchPacket s s.cur.x.id p p.path)

/-- A negative acknowledgement for packet `id`, trimmed here or in another package, reaches its sender, which sends it again.
(R341) -/
def execNegativeAcknowledgement (s : State) : Res :=
  match mapFind s.fab.pkts s.cur.x.id with
  | none => .fault .notEnabled
  | some p => if p.accepted ∨ (!p.trimmed ∧ p.dstPkg = Config.package) ∨ p.path = 256 then .fault .notEnabled else .next (launchPacket s s.cur.x.id p 256)

/-- Every packet of send `id` has been accepted: its entry goes on, and a waiting fabric processor finds it gone. (R349, R350) -/
def execSendAcknowledged (s : State) : Res :=
  let i := s.cur.x.id
  match mapFind s.fab.sends i with
  | none => .fault .notEnabled
  | some x =>
    if !x.pkts.all (fun j => match mapFind s.fab.pkts j with
        | some p => p.accepted
        | none => false) then .fault .notEnabled
    else
      let s := dropSends s [i]
      match x.entry.bind (mapFind s.fab.entries) with
      | none => .next s
      | some e => .next (settleEntry s { e with sends := e.sends.filter (fun j => j != i) })

/-- Fabric port `a` reports loss of signal: every path through it leaves its die's route table. (R340, R342) -/
def execLossOfSignal (s : State) : Res :=
  let port := s.cur.x.a
  if 64 ≤ port ∨ s.fab.dead.contains port then .fault .notEnabled
  else
    let die := port / 4
    let peers := (s.fab.paths.filter (fun x => x.1 % 16 == die)).map (fun x => (x.1 / 256, x.1 / 16 % 16))
    let had := peers.filter (fun d => !(livePaths s die d.1 d.2).isEmpty)
    let s := { s with fab := { s.fab with dead := port :: s.fab.dead } }
    let hit := s.fab.pkts.filter (fun x => x.2.srcDie == die && decide (x.2.path < 256) && portOf die x.2.path == port && !x.2.accepted)
    let s := hit.foldl (fun t x => launchPacket t x.1 x.2 256) s
    .next ((had.filter (fun d => (livePaths s die d.1 d.2).isEmpty)).foldl (fun t d => recNoPath t die d.1 d.2) s)

/-- The path of entropy value `c` from die `die` to die `b` of package `a` returns, and the sends that wait for the peer go
on. (R342) -/
def execPathReturn (s : State) : Res :=
  let x := s.cur.x
  if 16 ≤ x.die ∨ 256 ≤ x.c then .fault .notEnabled
  else
    let p := pathsOf s x.die x.a x.b
    let q : Paths := ⟨p.suspect.filter (fun e => e != x.c), p.removed.filter (fun e => e != x.c)⟩
    let s := { s with fab := { s.fab with
      dead := s.fab.dead.filter (fun d => d != portOf x.die x.c), paths := mapPut s.fab.paths (peerKey x.die x.a x.b) q } }
    .next ((s.fab.pkts.filter (fun y => y.2.srcDie == x.die && y.2.dstPkg == x.a && y.2.dstDie == x.b && y.2.path == 256 &&
      !y.2.accepted)).foldl (fun t y => launchPacket t y.1 y.2 256) s)

/-- A peer asks die `die` for the feature in row `a` of R341's table; one marked "no" is refused and recorded. (R341) -/
def execConnectionSetUp (s : State) : Res :=
  if 16 ≤ s.cur.x.die then .fault .notEnabled
  else if [2, 4, 8].contains s.cur.x.a then .next (record s { boxEvent s with kind := 3, code := 6, die := s.cur.x.die })
  else .next s

/-! ### Version notices (R361) -/

/-- ACQUIRE packets on an object are checked against a version (R318, R361). -/
def noticeAcquires (s : State) (obj v : Nat) : State :=
  let pkts := s.fe.pkts.filter (fun p => p.2.op == 4 && p.2.a == obj)
  let s := pkts.foldl (fun t p =>
    if 2 ^ 63 ≤ v then completePkt t p.1 3 0 v 0
    else if p.2.b ≤ v then completePkt t p.1 0 0 v 0 else t) s
  -- an object of this package whose last packet that was has no host waiter any more (R318)
  ((pkts.map (fun p => p.2.c)).filter (fun a => paExists s a)).dedup.foldl clearHostWaiter s

/-- A front end receives a notice: of version `b` for the object at address `a`; a version lower than one received is
discarded. (R361) -/
def execVersionNotice (s : State) : Res :=
  let a := s.cur.x.a
  let v := s.cur.x.b
  let s := { s with fab := { s.fab with out := s.fab.out.filter (fun o => o != (Config.package, a, v)) } }
  if v % 2 ^ 63 < mapGet 0 s.fab.notices a then .next s
  else .next (noticeAcquires { s with fab := { s.fab with notices := mapSet 0 s.fab.notices a (v % 2 ^ 63) } } a v)

end Sys2Proof.Machine
end

