-- ==== Sys2Proof/Machine/Flow.lean ====
section
/-! DEFINITION. Scalar control flow, stacks, masks, planes and lane issue: R36, R37, R129 to R137, R146. -/

namespace Sys2Proof.Machine
open Sys2Proof

/-! ### The two stacks and their spill area (R36, R37) -/

def stackOf (sp : Span) (ret : Bool) : Stack := if ret then sp.rets else sp.masks
def setStack (sp : Span) (ret : Bool) (x : Stack) : Span := if ret then { sp with rets := x } else { sp with masks := x }
/-- Address of entry j of a stack in the span's spill part (R36). -/
def spillAddr (l : Launch) (sp : Span) (ret : Bool) (j : Nat) : Nat :=
  l.spill.toNat + sp.n * 0x1000 + (if ret then 0x800 else 0) + 8 * j

/-- Push an entry; at depth 8 or more entry D − 8 is spilled first, at depth 264 the push traps ILLEGAL (R37). -/
def pushStack (s : State) (sp : Span) (l : Launch) (ret : Bool) (e : Word64) (k : State → Span → Res) : Res :=
  let st := stackOf sp ret
  if 264 ≤ st.depth then trapS s sp l causeIllegal sp.am 0
  else if st.depth < 8 then k s (setStack sp ret ⟨e :: st.hw, st.depth + 1⟩)
  else
    let a := spillAddr l sp ret (st.depth - 8)
    match ownCheck s sp l a with
    | .park s => .next s
    | .later => stall s
    | .full => hold s sp
    | .bad c => trapS s sp l c sp.am a
    | .poison => consumed s
    | .ok p =>
      let r := ownWrite s sp sp l a p (natToBytes 8 (st.hw.getLastD 0).toNat)
      k r.1 (setStack r.2 ret ⟨e :: st.hw.take 7, st.depth + 1⟩)

/-- Pop the top entry of a stack that is not empty; above depth 8 entry D − 9 is refilled (R37). -/
def popStack (s : State) (sp : Span) (l : Launch) (ret : Bool) (k : State → Span → Res) : Res :=
  let st := stackOf sp ret
  if st.depth ≤ 8 then k s (setStack sp ret ⟨st.hw.tail, st.depth - 1⟩)
  else
    let a := spillAddr l sp ret (st.depth - 9)
    match ownRead s sp l a 8 with
    | .park s => .next s
    | .later => stall s
    | .full => stall s
    | .bad c => trapS s sp l c sp.am a
    | .poison => consumed s
    | .ok (s, rd) => k s (setStack sp ret ⟨st.hw.tail ++ [BitVec.ofNat 64 (rd 0 8)], st.depth - 1⟩)

/-! ### Branches and jumps (R50, R129, R130) -/

def branchTarget (sp : Span) (disp : BitVec 16) : Word64 := sp.spc + (disp.signExtend 64 <<< 2)
def jumpTarget (sp : Span) (disp : BitVec 26) : Word64 := sp.spc + (disp.signExtend 64 <<< 2)

/-- A conditional branch on S[a] (R129). -/
def branch (a : BitVec 6) (disp : BitVec 16) (c : Span → Word64 → Bool) (s : State) : Res :=
  withSpan s fun sp => needS s sp [a.toNat]
    (if c sp (sRead sp a.toNat) then commitJump s sp (branchTarget sp disp) else commitS s sp)

/-- The target of a jump or a return: MISALIGNED, then PAGE_FAULT, at the jump (R48, R130, R146). -/
def checkTarget (s : State) (sp : Span) (l : Launch) (t : Word64) (k : Res) : Res :=
  if t.toNat % 4 ≠ 0 then trapS s sp l causeMisaligned sp.am t.toNat
  else if vaTop ≤ t.toNat then trapS s sp l causePageFault sp.am t.toNat
  else k

/-! ### Exit (R132) -/

/-- The lines of the global barriers at which the span is registered, one for each entry. -/
def exitLines (s : State) (sp : Span) : List Nat :=
  sp.regs.filterMap (fun e => match entryBar s sp e.addr with
    | some (.mem pa) => some (pa / 128)
    | _ => none)

/-- The lanes of `live` leave: arrive-and-drop at every registered barrier once older stores are performed (R256), in a
deterministic launch as an entry of the commit buffer (R35); the core's own writes to barriers in memory go back first (log 60). -/
def exitLanes (s : State) (sp : Span) (l : Launch) (m : BitVec 32) (k : State → Span → Res) : Res :=
  if sp.badTable then consumed s
  else if l.det && decide (512 ≤ sp.buffer.length) then hold s sp
  else if l.det then k s { sp with buffer := sp.buffer ++ [(reportPoint sp s.cur.lane, .drop m)] }
  else if sp.regs.isEmpty then k s sp
  else afterArrive s sp (tableScope s sp) (exitLines s sp).length fun s =>
    let ls := exitLines s sp
    let s := ls.foldl (fun t x => writeBack t sp.core x) s
    if ls.any (fun x => storeInFlight s sp.core x || !(unread s s.cur.uid (fun y => y == x)).isEmpty ||
        atomicsOn s s.cur.uid x) then .next s else
    let s := dropLanes s s.cur.uid m
    match spanOf s s.cur.uid with
    | none => .fault .notEnabled
    | some sp => k s (ls.foldl (raiseFloor s) sp)

/-! ### Lane issue (R135, R136) -/

/-- Check of `lrunp` in its order (R136): the cause and the faulting lanes. -/
def planeCheck (sp : Span) (d : Word64) (j n : Nat) : Option (Nat × BitVec 32) :=
  let o := (d.extractLsb' 0 18).toNat
  let P := (d.extractLsb' 18 2).toNat + 1
  let L := (d.extractLsb' 20 16).toNat
  let bad := maskOf 32 ((bitsOf sp.am).filter (fun k => decide (P ≤ planeOf sp k)))
  if d.extractLsb' 36 28 ≠ 0 then some (causeIllegal, sp.am)
  else if o % 4 ≠ 0 ∨ L = 0 ∨ L % 4 ≠ 0 ∨ 2 ^ 18 < o + P * L then some (causePlane, sp.am)
  else if L < j + n then some (causePlane, sp.am)
  else if bad ≠ 0 then some (causePlane, bad)
  else none

/-- An unplaned block at an L-word offset (R135); its code is read only after an older acquire has completed (R384). -/
def issueBlock (s : State) (sp : Span) (l : Launch) (off n : Nat) : Res :=
  if !sp.queue.isEmpty || sp.acquiring.isSome then stall s
  else commitS s (enqueue s sp l ⟨sp.spc, false, off, 0, 0, n, 0, 0, false, [], [], [], none⟩)

/-- Branch if register is zero. (R129) -/
def execBeqz (a : BitVec 6) (imm : BitVec 16) (s : State) : Res := branch a imm (fun _ x => x == 0) s

/-- Branch if register is non-zero. (R129) -/
def execBnez (a : BitVec 6) (imm : BitVec 16) (s : State) : Res := branch a imm (fun _ x => x != 0) s

/-- Branch if signed negative. (R129) -/
def execBltz (a : BitVec 6) (imm : BitVec 16) (s : State) : Res := branch a imm (fun _ x => x.slt 0) s

/-- Branch if signed non-negative. (R129) -/
def execBgez (a : BitVec 6) (imm : BitVec 16) (s : State) : Res := branch a imm (fun _ x => !x.slt 0) s

/-- Branch if signed positive. (R129) -/
def execBgtz (a : BitVec 6) (imm : BitVec 16) (s : State) : Res := branch a imm (fun _ x => (0#64).slt x) s

/-- Branch if signed non-positive. (R129) -/
def execBlez (a : BitVec 6) (imm : BitVec 16) (s : State) : Res := branch a imm (fun _ x => !(0#64).slt x) s

/-- Branch if mask AND am is zero. (R129) -/
def execBmz (a : BitVec 6) (imm : BitVec 16) (s : State) : Res := branch a imm (fun sp x => x.extractLsb' 0 32 &&& sp.am == 0) s

/-- Branch if mask AND am is non-zero. (R129) -/
def execBmnz (a : BitVec 6) (imm : BitVec 16) (s : State) : Res := branch a imm (fun sp x => x.extractLsb' 0 32 &&& sp.am != 0) s

/-- PC-relative jump. (R130) -/
def execJmp (imm : BitVec 26) (s : State) : Res := 
  withLaunch s fun sp l => checkTarget s sp l (jumpTarget sp imm) (commitJump s sp (jumpTarget sp imm))

/-- PC-relative call pushing the return PC. (R130) -/
def execCall (imm : BitVec 26) (s : State) : Res :=
  withLaunch s fun sp l => checkTarget s sp l (jumpTarget sp imm)
    (let t := jumpTarget sp imm
     pushStack s sp l true (sp.spc + 4) fun s sp => commitJump s sp t)

/-- Jump to register target. (R130) -/
def execJmpRegister (a : BitVec 6) (s : State) : Res :=
  withLaunch s fun sp l => needS s sp [a.toNat]
    (checkTarget s sp l (sRead sp a.toNat) (commitJump s sp (sRead sp a.toNat)))

/-- Call a register target. (R130) -/
def execCallRegister (a : BitVec 6) (s : State) : Res :=
  withLaunch s fun sp l => needS s sp [a.toNat]
    (let t := sRead sp a.toNat
     checkTarget s sp l t (pushStack s sp l true (sp.spc + 4) fun s sp => commitJump s sp t))

/-- Pop the return stack and continue there. (R131) -/
def execRet (s : State) : Res :=
  withLaunch s fun sp l =>
    if sp.rets.depth = 0 then trapS s sp l causeRetEmpty sp.am 0
    else
      let t := sp.rets.hw.headD 0
      popStack s sp l true fun s sp' => checkTarget s sp l t (commitJump s sp' t)

/-- Arrive-and-drop every live lane, clear live and am, retire the span. (R132) -/
def execSexit (s : State) : Res :=
  withLaunch s fun sp l => exitLanes s sp l sp.live fun s sp =>
    .next (retireSpan (putSpan s s.cur.uid { countUnit sp with live := 0, am := 0 }) s.cur.uid)

/-- Enqueue a block of L-words at an immediate offset. (R135) -/
def execLrun (n : BitVec 8) (o : BitVec 18) (s : State) : Res :=
  withLaunch s fun sp l => issueBlock s sp l o.toNat (n.toNat + 1)

/-- Enqueue a block of L-words at a register offset. (R135) -/
def execLrunRegister (a : BitVec 6) (n : BitVec 8) (s : State) : Res :=
  withLaunch s fun sp l => needS s sp [a.toNat]
    (if 2 ^ 18 ≤ (sRead sp a.toNat).toNat then trapS s sp l causeIllegal sp.am 0
     else issueBlock s sp l (sRead sp a.toNat).toNat (n.toNat + 1))

/-- Check and enqueue a planed block. (R136) -/
def execLrunp (a b : BitVec 6) (n : BitVec 8) (s : State) : Res :=
  withLaunch s fun sp l => needS s sp [a.toNat, b.toNat]
    (let d := sRead sp a.toNat
     let j := (sRead sp b.toNat).toNat
     if !sp.queue.isEmpty || sp.acquiring.isSome then stall s
     else match planeCheck sp d j (n.toNat + 1) with
       | some (cause, fmask) => trapS s sp l cause fmask 0
       | none => commitS s (enqueue s sp l ⟨sp.spc, true, 0, d, j, n.toNat + 1, 0, 0, false, [], [], [], none⟩))

/-- Push am and mask, narrow am. (R133) -/
def execMpush (a : BitVec 6) (s : State) : Res :=
  withLaunch s fun sp l => needS s sp [a.toNat]
    (let m := (sRead sp a.toNat).extractLsb' 0 32
     pushStack s sp l false (m ++ sp.am) fun s sp => commitS s (setAm sp (sp.am &&& m)))

/-- Set am to saved AND NOT mask of the top entry. (R133) -/
def execMelse (s : State) : Res :=
  withLaunch s fun sp l =>
    if sp.masks.depth = 0 then trapS s sp l causeMaskEmpty sp.am 0
    else
      let t := sp.masks.hw.headD 0
      commitS s (setAm sp (t.extractLsb' 0 32 &&& ~~~ t.extractLsb' 32 32))

/-- Restore am from the top entry and pop. (R133) -/
def execMpop (s : State) : Res :=
  withLaunch s fun sp l =>
    if sp.masks.depth = 0 then trapS s sp l causeMaskEmpty sp.am 0
    else
      let t := sp.masks.hw.headD 0
      popStack s sp l false fun s sp => commitS s (setAm sp (t.extractLsb' 0 32))

/-- Write am, ANDed with live. (R133) -/
def execMset (a : BitVec 6) (s : State) : Res :=
  withSpan s fun sp => needS s sp [a.toNat] (commitS s (setAm sp ((sRead sp a.toNat).extractLsb' 0 32)))

/-- Read am into a scalar register. (R133) -/
def execMget (d : BitVec 6) (s : State) : Res :=
  withSpan s fun sp => needS s sp [d.toNat] (commitS s (sWrite sp d.toNat (sp.am.zeroExtend 64)))

/-- Read live into a scalar register. (R133) -/
def execLget (d : BitVec 6) (s : State) : Res :=
  withSpan s fun sp => needS s sp [d.toNat] (commitS s (sWrite sp d.toNat (sp.live.zeroExtend 64)))

/-- Set every lane's plane to k. (R134) -/
def execPlall (k : BitVec 2) (s : State) : Res :=
  withLaunch s fun sp l => commitS s ((List.range (lanesOf l)).foldl (fun sp i => setPlane sp i k.toNat) sp)

/-- Mask of live lanes in plane k. (R134) -/
def execPlmask (d : BitVec 6) (k : BitVec 2) (s : State) : Res :=
  withSpan s fun sp => needS s sp [d.toNat]
    (commitS s (sWrite sp d.toNat ((sp.live &&& planeMask sp k.toNat).zeroExtend 64)))

/-- Read the plane numbers. (R134) -/
def execPlget (d : BitVec 6) (s : State) : Res :=
  withSpan s fun sp => needS s sp [d.toNat] (commitS s (sWrite sp d.toNat sp.pl))

end Sys2Proof.Machine
end

