-- ==== Sys2Proof/Machine/Mesh.lean ====
section
/-! DEFINITION. Mesh reductions: `rsend`, the trees of nodes, both modes, and the closes of a round: R273 to R281, R305. -/

namespace Sys2Proof.Machine
open Sys2Proof

/-! ### rsend (R274) -/

/-- A contribution leaves for the quad stop of core g. -/
def meshSend (s : State) (g handle root key round : Nat) (vals : List Word32) : State :=
  let q := MeshAt.quad (g / 32) (g % 32 / 4)
  let m : MeshMsg := ⟨0, handle, root, key, round, g, q, q, ⟨vals, [], [], BitVec.ofNat 512 (2 ^ g)⟩⟩
  { s with meshMsgs := mapPut s.meshMsgs s.nextId m, nextId := s.nextId + 1 }

/-- The elements of a contribution: live lanes of the register, +0 elsewhere (R274). -/
def meshVals (sp : Span) (v : Nat) : List Word32 :=
  (List.range 32).map (fun i => if sp.live.getLsbD i then vRead sp v i else 0)

/-- Contribute one vector to a reduction handle. (R274, R281) -/
def execRsend (a : BitVec 6) (v : BitVec 8) (s : State) : Res :=
  withLaunch s fun sp l => needS s sp [a.toNat]
    (let x := sRead sp a.toNat
     let h := fieldOf x 8 49 * 256
     let r := fieldOf x 0 8
     if sp.am ≠ sp.live then trapS s sp l causePartial sp.am 0
     else if fieldOf x 57 7 ≠ 0 ∨ l.vregs ≤ v.toNat then trapS s sp l causeIllegal sp.am 0
     else if inLocal h ∨ inQuad h then trapS s sp l causeBarrier sp.am h
     else match xlate s sp l h 0 with
       | .wait s => .next s
       | .fail => trapS s sp l causePageFault sp.am h
       | .ok pa bar =>
         if !bar ∨ !isHbm pa then trapS s sp l causeBarrier sp.am h
         else if !vFull sp v.toNat then stallFor s sp [] [v.toNat]
         else if (bitsOf sp.live).any (fun i => sp.badV.contains (32 * v.toNat + i)) then consumed s
         else if l.det then bufferAll s sp [.rsend x (meshVals sp v.toNat)] fun sp => commitS s sp
         else afterStores s sp 4 fun s => commitS (meshSend s sp.core pa l.root l.key r (meshVals sp v.toNat)) sp)

/-! ### The trees (R276, R279) -/

def hasLow (d b : Nat) : Bool := (List.range b).any (bitAt d)

/-- Parent and children of quad q with the root's column c; none: the root slice (R276). -/
def quadParent (tree c q : Nat) : Option Nat :=
  if tree = 0 then if q < c then some (q + 1) else if c < q then some (q - 1) else none
  else
    let d := q ^^^ c
    match (List.range 3).find? (bitAt d) with
    | some b => some ((d - 2 ^ b) ^^^ c)
    | none => none
def quadChildren (tree c q : Nat) : List Nat :=
  if tree = 0 then
    (if 1 ≤ q ∧ q ≤ c then [q - 1] else []) ++ (if c ≤ q ∧ q < 7 then [q + 1] else [])
  else
    let d := q ^^^ c
    ((List.range 3).filter (fun b => !bitAt d b && !hasLow d b)).map (fun b => (d + 2 ^ b) ^^^ c)

/-- Parent and children of die e with the root's die h; none: it is h (R279). -/
def dieParent (tree h e : Nat) : Option Nat :=
  if tree = 0 then
    if e % 8 < h % 8 then some (e + 1) else if h % 8 < e % 8 then some (e - 1)
    else if e ≠ h then some h else none
  else
    let d := e ^^^ h
    match (List.range 4).find? (bitAt d) with
    | some b => some ((d - 2 ^ b) ^^^ h)
    | none => none
def dieChildren (tree h e : Nat) : List Nat :=
  if tree = 0 then
    (if 1 ≤ e % 8 ∧ e % 8 ≤ h % 8 then [e - 1] else []) ++ (if h % 8 ≤ e % 8 ∧ e % 8 < 7 then [e + 1] else []) ++
      (if e = h then [(e + 8) % 16] else [])
  else
    let d := e ^^^ h
    ((List.range 4).filter (fun b => !bitAt d b && !hasLow d b)).map (fun b => (d + 2 ^ b) ^^^ h)

/-! ### A round at its nodes (R273, R275, R277, R278) -/

def rootDie (r : Round) : Nat := dieOfPa r.handle
def rootCol (r : Round) : Nat := sliceOfPa r.handle / 2

/-- The handle's round as its words stand now (R273). -/
def readRound (s : State) (handle root key : Nat) : Round :=
  let w := fun o => homeRead s (handle + o) 8
  { handle, root, key, round := bitsAt (w 0x18) 56 8, exact := bitAt (w 0) 62, pkg := bitAt (w 0) 61,
    tree := bitsAt (w 0) 58 3, window := signedAt (w 0) 50 8, timeout := bitsAt (w 0) 0 32, barrier := bitsAt (w 8) 0 57,
    result := bitsAt (w 0x10) 0 57, expected := BitVec.ofNat 512 (homeRead s (handle + 0x40) 64), t0 := none, nodes := [],
    final := none }

/-- The expected cores of a quad (R273: at die scope, of the root's die only). -/
def quadCores (r : Round) (die q : Nat) : List Nat :=
  if !r.pkg && die != rootDie r then []
  else ((List.range 4).map (fun i => 32 * die + 4 * q + i)).filter (fun g => r.expected.getLsbD g)

/-- Some core of the subtree of a quad, of a die, is expected. -/
def quadLive (r : Round) (die : Nat) : Nat → Nat → Bool
  | 0, _ => false
  | k + 1, q => !(quadCores r die q).isEmpty || (quadChildren r.tree (rootCol r) q).any (quadLive r die k)
def dieLive (r : Round) : Nat → Nat → Bool
  | 0, _ => false
  | k + 1, e => (List.range 8).any (fun q => !(quadCores r e q).isEmpty) || (dieChildren r.tree (rootDie r) e).any (dieLive r k)

/-- The children whose partials a node waits for, in combining order. -/
def nodeKids (r : Round) : MeshAt → List MeshAt
  | .quad die q => ((quadChildren r.tree (rootCol r) q).filter (quadLive r die 8)).map (MeshAt.quad die)
  | .slice die =>
    (if quadLive r die 9 (rootCol r) then [MeshAt.quad die (rootCol r)] else []) ++
      (if r.pkg then ((dieChildren r.tree (rootDie r) die).filter (dieLive r 16)).map MeshAt.slice else [])

/-- The node that a node's partial goes to; none: it is the root. -/
def nodeParent (r : Round) : MeshAt → Option MeshAt
  | .quad die q => match quadParent r.tree (rootCol r) q with
    | some p => some (.quad die p)
    | none => some (.slice die)
  | .slice die => if die = rootDie r then none else (dieParent r.tree (rootDie r) die).map MeshAt.slice

def nodeOf (r : Round) (a : MeshAt) : MeshNode := (r.nodes.find? (fun n => n.at_ == a)).getD ⟨a, [], [], false⟩
def putNode (r : Round) (n : MeshNode) : Round := { r with nodes := n :: r.nodes.filter (fun x => x.at_ != n.at_) }

/-- Exact mode: an element as an integer of weight 2^W, with the flags nan 1, pinf 2, ninf 4, ovf 8 (R278). -/
def exactElem (W : Int) (x : Word32) : Int × Nat :=
  match decodeF fmtF32 x.toNat with
  | .nan => (0, 1)
  | .inf neg => (0, if neg then 4 else 2)
  | .fin neg m e =>
    let n := roundToInt .rne neg m (e - W)
    if (2 : Int) ^ 118 ≤ n ∨ n ≤ -(2 : Int) ^ 118 then (0, 8) else (n, 0)
def exactVec (W : Int) (v : MeshVec) : MeshVec :=
  let xs := v.f.map (exactElem W)
  { v with f := [], n := xs.map Prod.fst, fl := xs.map Prod.snd }

/-- What the root delivers of a sum (R278). -/
def exactOut (W : Int) (n : Int) (fl : Nat) : Word32 :=
  if bitAt fl 0 || bitAt fl 3 || (bitAt fl 1 && bitAt fl 2) then 0x7FC00000#32
  else if bitAt fl 1 then 0x7F800000#32
  else if bitAt fl 2 then 0xFF800000#32
  else if n = 0 then 0
  else BitVec.ofNat 32 (roundMag fmtF32 .rne .ieee (decide (n < 0)) n.natAbs W false)

/-- Two inputs of a node (R277, R278). -/
def meshAdd (a b : MeshVec) : MeshVec :=
  ⟨(a.f.zip b.f).map (fun p => BitVec.ofNat 32 (fAdd fmtF32 .rne p.1.toNat p.2.toNat)),
   (a.n.zip b.n).map (fun p => p.1 + p.2), (a.fl.zip b.fl).map (fun p => p.1 ||| p.2), a.cores ||| b.cores⟩

/-- A node's partial, once every input is there, in the order of R276 and R279. -/
def nodePartial (r : Round) (n : MeshNode) : Option MeshVec :=
  let cores := match n.at_ with
    | .quad die q => quadCores r die q
    | .slice _ => []
  let own := cores.map (fun g => (n.own.find? (fun x => x.1 == g)).map Prod.snd)
  let kids := (nodeKids r n.at_).map (fun a => (n.kids.find? (fun x => x.1 == a)).map Prod.snd)
  let ins := own ++ kids
  if ins.any Option.isNone then none
  else match ins.filterMap id with
    | [] => none
    | v :: vs => some (vs.foldl meshAdd v)

def putRound (s : State) (r : Round) : State := { s with rounds := mapPut s.rounds r.handle r }
def sendMesh (s : State) (r : Round) (kind : Nat) (src dst : MeshAt) (v : MeshVec) : State :=
  let m : MeshMsg := ⟨kind, r.handle, r.root, r.key, r.round, 0, src, dst, v⟩
  { s with meshMsgs := mapPut s.meshMsgs s.nextId m, nextId := s.nextId + 1 }

/-! ### Closing a round (R280) -/

/-- All cores whose contributions some node holds, or a partial under way carries. -/
def heldCores (s : State) (r : Round) : BitVec 512 :=
  let a := (r.nodes.flatMap (fun n => n.own.map Prod.snd ++ n.kids.map Prod.snd)).foldl (fun m v => m ||| v.cores) 0#512
  (s.meshMsgs.filter (fun m => m.2.handle == r.handle && m.2.kind == 1)).foldl (fun m x => m ||| x.2.v.cores) a

/-- The close: contributors, last status, round, in that order, then the landing; the round's messages are void. -/
def closeRound (s : State) (r : Round) (status : Nat) (cores : BitVec 512) (bar : Option Nat) : State :=
  let h := r.handle
  let w := homeRead s (h + 0x18) 8
  let die := rootDie r
  let s := dieWriteNat s die (h + 0x80) 64 cores.toNat
  let st := status + (if bar.isNone then 128 else 0)
  let s := dieWriteNat s die (h + 0x18) 8 (bitsAt w 0 48 + st * 2 ^ 48 + (r.round + 1) % 256 * 2 ^ 56)
  let s := { s with rounds := mapDel s.rounds h, meshMsgs := s.meshMsgs.filter (fun m => m.2.handle != h || m.2.kind == 0) }
  let s := dropFails s (.mesh h)
  match bar with
  | some pa =>
    let p := publish s (dieAgent die)
    landOn p.1 (some (.mem pa)) 128 0 (status != 0) p.2
  | none => s

/-- The landing barrier: none where nothing can land (R280). An address that is not 32-byte aligned is such a one, and an unmapped page
is one that the translation service has answered FAIL; until its answer the close waits (DESIGN CHOICE, log 87). -/
def roundBarrier (s : State) (r : Round) : State × Option (Option Nat) :=
  if r.barrier % 32 ≠ 0 ∨ inLocal r.barrier ∨ inQuad r.barrier then (s, some none)
  else match dieXlate s (rootDie r) r.root r.key r.barrier 1 (.mesh r.handle) with
    | .wait s => (s, none)
    | .fail => (s, some none)
    | .ok pa bar =>
      if !(bar && isHbm pa) then (s, some none)
      else if routeWaits s (rootDie r) (dieOfPa pa) then (s, none)
      else (s, some (some pa))

/-- The elements that the root writes. -/
def roundResult (r : Round) (v : MeshVec) : List Byte :=
  if r.exact then ((v.n.zip v.fl).map (fun p => exactOut r.window p.1 p.2)).flatMap (fun w => natToBytes 4 w.toNat)
  else v.f.flatMap (fun w => natToBytes 4 w.toNat)

/-- The root has its last partial: the round closes OK or FAULT (R280). -/
def rootClose (s : State) (r : Round) (v : MeshVec) : State :=
  match roundBarrier s r with
  | (s, none) => s
  | (s, some bar) =>
    if r.result % 128 ≠ 0 ∨ inLocal r.result ∨ inQuad r.result then closeRound s r 1 v.cores bar
    else match dieXlate s (rootDie r) r.root r.key r.result 1 (.mesh r.handle) with
      | .wait s => s
      | .fail => closeRound s r 1 v.cores bar
      | .ok pa _ =>
        if !isHbm pa ∨ (homeOf s (pa / 128)).counted then closeRound s r 1 v.cores bar
        else match fabPut s (rootDie r) (whoWriter s (rootDie r) (.mesh r.handle) r.result) 0 0 pa false (roundResult r v) with
          | .ok s => closeRound s r 0 v.cores bar
          | .wait s => s
          | .fail s => closeRound s r 1 v.cores bar

/-- A node that has every input sends its partial on, or the round closes (R276, R280). -/
def nodeStep (s : State) (r : Round) (a : MeshAt) : State :=
  let n := nodeOf r a
  if n.sent then putRound s r
  else match nodePartial r n with
    | none => putRound s r
    | some v =>
      let r := putNode r { n with sent := true, own := [], kids := [] }
      match nodeParent r a with
      | some p => putRound (sendMesh s r 1 a p v) r
      | none =>
        let r := { r with final := some v }
        rootClose (putRound s r) r v

/-! ### Events of a round -/

/-- The die of a node: a message waits for its way there (R308). -/
def meshDie : MeshAt → Nat
  | .quad die _ => die
  | .slice die => die

/-- A reduction is abandoned: its round is discarded, and its landing barrier marked (R325, R330). -/
def abandonRound (s : State) (r : Round) : State :=
  let s := { s with rounds := mapDel s.rounds r.handle, meshMsgs := s.meshMsgs.filter (fun m => m.2.handle != r.handle) }
  match lookupVa s r.root r.barrier with
  | some (pa, true) => barAbandon s (.mem pa)
  | _ => s

/-- The contribution is dropped: the handle's dropped count is raised (R275). -/
def dropContribution (s : State) (handle : Nat) : State :=
  let w := homeRead s (handle + 0x18) 8
  dieWriteNat s (dieOfPa handle) (handle + 0x18) 8 (w - bitsAt w 32 16 * 2 ^ 32 + min (bitsAt w 32 16 + 1) 0xFFFF * 2 ^ 32)

/-- The first contribution of a round, of its own or in a partial, reaches a node: it sends the root slice a start notice (R305). -/
def startNotice (s : State) (r : Round) (n : MeshNode) : State :=
  if n.own.isEmpty && n.kids.isEmpty && !n.sent && n.at_ != .slice (rootDie r) then
    sendMesh s r 2 n.at_ (.slice (rootDie r)) ⟨[], [], [], 0⟩
  else s

/-- Contribution `id` arrives at its quad stop. (R275, R278, R305) -/
def execMeshContribution (s : State) : Res :=
  match mapFind s.meshMsgs s.cur.x.id with
  | none => .fault .notEnabled
  | some m =>
    if m.kind ≠ 0 then .fault .notEnabled
    else
      let s := { s with meshMsgs := mapDel s.meshMsgs s.cur.x.id }
      let old := mapFind s.rounds m.handle
      let r := old.getD (readRound s m.handle m.root m.key)
      let n := nodeOf r m.src
      -- a handle whose home lies on a failed die is abandoned (R330)
      if s.mg.failedDies.contains (rootDie r) then .next (abandonRound s r) else
      let valid := old.isSome || bitAt (homeRead s m.handle 8) 63
      if !valid ∨ 2 ≤ r.tree ∨ !r.expected.getLsbD m.core ∨ (!r.pkg ∧ m.core / 32 ≠ rootDie r) ∨ m.round ≠ r.round ∨ n.sent ∨
         n.own.any (fun x => x.1 == m.core) then .next (dropContribution s m.handle)
      else
        let v := if r.exact then exactVec r.window m.v else m.v
        .next (nodeStep (startNotice s r n) (putNode r { n with own := n.own ++ [(m.core, v)] }) m.src)

/-- The timeout runs from the first notice or partial at the root (R280, R305). -/
def startClock (s : State) (r : Round) (a : MeshAt) : Round :=
  if a = .slice (rootDie r) ∧ r.t0.isNone then { r with t0 := some s.cycle } else r

/-- Partial `id` arrives at its node or at the root; or (`id` 0) the root of handle `a` tries its close again, after a
translation. (R276 to R280) -/
def execMeshPartial (s : State) : Res :=
  let i := s.cur.x.id
  if i = 0 then
    match mapFind s.rounds s.cur.x.a with
    | none => .fault .notEnabled
    | some r => match r.final with
      | none => .fault .notEnabled
      | some v => .next (rootClose s r v)
  else match mapFind s.meshMsgs i with
    | none => .fault .notEnabled
    | some m =>
      if m.kind ≠ 1 ∨ routeWaits s (meshDie m.src) (meshDie m.dst) then .fault .notEnabled
      else
        let s := { s with meshMsgs := mapDel s.meshMsgs i }
        match mapFind s.rounds m.handle with
        | none => .next s
        | some r =>
          let r := startClock s r m.dst
          let n := nodeOf r m.dst
          .next (nodeStep (startNotice s r n) (putNode r { n with kids := n.kids ++ [(m.src, m.v)] }) m.dst)

/-- Start notice `id` arrives at the root. (R305) -/
def execStartNotice (s : State) : Res :=
  match mapFind s.meshMsgs s.cur.x.id with
  | none => .fault .notEnabled
  | some m =>
    if m.kind ≠ 2 ∨ routeWaits s (meshDie m.src) (meshDie m.dst) then .fault .notEnabled
    else
      let s := { s with meshMsgs := mapDel s.meshMsgs s.cur.x.id }
      .next (match mapFind s.rounds m.handle with
        | none => s
        | some r => putRound s (startClock s r m.dst))

/-- The timeout of the round at handle `a` runs out: it closes with the cores that the nodes report. (R280) -/
def execReductionTimeout (s : State) : Res :=
  match mapFind s.rounds s.cur.x.a with
  | none => .fault .notEnabled
  | some r => match r.t0 with
    | none => .fault .notEnabled
    | some t =>
      if r.timeout = 0 ∨ s.cycle < t + r.timeout ∨ r.final.isSome then .fault .notEnabled
      else match roundBarrier s r with
        | (s, none) => .next s
        | (s, some bar) => .next (closeRound s r 2 (heldCores s r) bar)

end Sys2Proof.Machine
end

