-- ==== Sys2Proof/Machine/Quantum.lean ====
section
/-! DEFINITION. `cpush`, and the quantum ends, phases and watchdog of deterministic launches: R260, R287, R297 to R304,
R385. -/

namespace Sys2Proof.Machine
open Sys2Proof

/-! ### cpush (R287) -/

/-- What a `cpush` answers: OK, FULL or REJECTED with its reason. -/
inductive Pushed where
  | done (s : State) (answer : Nat)
  | wait (s : State)
  deriving DecidableEq, Repr

/-- The record's words are checked, and it is appended to ring `prio` where that has room; what is ordered before the push of span
`u` is ordered before its decks. Pushes that wait for the ring come first: while there are any it has no room for another (DESIGN
CHOICE, log 88). (R283, R285 to R287) -/
def pushRecord (tr : State → Nat → Xl) (s : State) (l : Launch) (ws : List Nat) (record prio u : Nat) : Pushed :=
  match checkRecord tr s ws l.key l.root l.number with
  | .wait s => .wait s
  | .bad r => .done (recRejected s r record l.key l.number) (2 + r * 256)
  | .ok l2 first last frame join =>
    if ringRoom s prio && (ringOf s prio).delayed.isEmpty then
      let p := publish s u
      .done (pushRing p.1 prio l2 first last frame join p.2) 0
    else .done s 1

/-- Push a continuation record to a ring. (R287) -/
def execCpush (d a : BitVec 6) (p : BitVec 3) (s : State) : Res :=
  withLaunch s fun sp l => needS s sp [a.toNat, d.toNat]
    (let u := s.cur.uid
     let r := (sRead sp a.toNat).toNat
     let tr := fun (s : State) va => xlate s sp l va 0
     if sp.am ≠ sp.live then trapS s sp l causePartial sp.am 0
     else if r % 32 ≠ 0 then trapS s sp l causeMisaligned sp.am r
     else if vaTop ≤ r ∨ inLocal r ∨ inQuad r then trapS s sp l causePageFault sp.am r
     else match tr s r with
       | .wait s => .next s
       | .fail => trapS s sp l causePageFault sp.am r
       | .ok pa _ =>
         if l.det then
           let ws := (List.range 4).map (fun i => viewRead s sp l (r + 8 * i) (pa + 8 * i) 8)
           let dest := if d = 63 then Dest.none else Dest.s d.toNat
           let n := newLoad s { mkLoad u dest 8 false [⟨0, 0, none⟩] 1 with late := true }
           bufferAll n.1 sp [.cpush (sRead sp a.toNat) ws p.toNat n.2] fun sp => commitS n.1 (markDest sp dest)
         else afterStores s sp 4 fun s =>
           -- a push that releases a lost write is not performed (R328)
           if !sp.lost.isEmpty then .next (haltWith s u 1 noteAbandoned (sp.lost.headD 0))
           else match pushRecord tr s l ((List.range 4).map (fun i => homeRead s (pa + 8 * i) 8)) r p.toNat u with
             | .wait s => .next s
             | .done s x => commitS s (sWrite { sp with xfail := [] } d.toNat (BitVec.ofNat 64 x)))

/-! ### Applying a commit buffer (R298, R385) -/

inductive Applied where
  | ok (s : State)
  | bad (cause : Nat)
  | wait (s : State)
  deriving DecidableEq, Repr

def ofBar : BarRes → Applied
  | .ok s => .ok s
  | .bad => .bad causeBarrier
def ofSlot (s : State) : SlotRes → Applied
  | .ok s => .ok s
  | .bad => .bad causeSlot
  | .wait => .wait s

/-- The load of a returned value has it; no quantum end delivers it any more. One that meets an error consumes it, whether its old value
is returned or not (R326; log 62). -/
def deliver (s : State) (load lane value : Nat) (bad : Bool) : State :=
  match mapFind s.loads load with
  | none => s
  | some ld => putLoad s load { ld with
      waits := ld.waits - 1, late := ld.late && decide (1 < ld.waits),
      poison := ld.poison || bad, dest := if bad ∧ ld.dest = .none then .s 63 else ld.dest,
      lanes := ld.lanes.map (fun x => if x.lane = lane ∧ x.got.isNone then { x with got := some value } else x) }

/-- What a release, an arrival or a push of a span covers is not all performed: its entry waits (R252, R256, R329). -/
def coverBusy (s : State) (u : Nat) : Bool := !(unperformed s u).isEmpty || !(atomicsOf s u).isEmpty

/-- The own bytes of a core to a line that stand before an entry's: they are sent, and waited for (R38). -/
def lineBusy (s : State) (g line : Nat) : State × Bool :=
  ((writeBack s g line), (l1Find (coreOf s g) line).any (fun x => x.dirty != 0) || storeInFlight s g line)

/-- One line's bytes of a store (R299, R385). -/
def applyStore (s : State) (u : Nat) (sp : Span) (l : Launch) (cells : List (Nat × Byte)) (unc : Bool) : Applied :=
  match cells with
  | [] => .ok s
  | c :: _ =>
    let va := c.1
    if inLocal va then
      match deckOf s sp.deck with
      | none => .ok s
      | some d => match localMode s d (va - localLo) with
        | some b =>
          if b.mode ≠ .scratch then .bad causeBankMode
          else if !b.switch.isEmpty then .wait s
          else .ok (cells.foldl (fun t x => match deckOf t sp.deck with
            | some d => localPut t d (x.1 - localLo) x.2
            | none => t) s)
        | none => .bad causeBankMode
    else match lookupVa s l.root va with
      | none => .ok s
      | some (pa0, _) =>
        let base := pa0 - va % 4096
        let line := pa0 / 128
        let g := sp.core
        let busy := lineBusy s g line
        if busy.2 then .wait busy.1
        else
          let s := closeWindows (if unc then invalidate s g line else s) g (fun x => x == line)
          let md := lineOf line (cells.map (fun x => (Place.phys (base + x.1 % 4096), x.1, x.2)))
          let s := cells.foldl (fun t x => putOverlay t sp.deck x.1 [x.2]) (raiseFloorOf s u line)
          let w := writerOf s u g md.1 va
          if isHbm pa0 then
            if (homeOf s line).counted then .bad causeCounted
            else
              let s := nextStamp (cells.foldl (fun t x => orderedPut t (some w) false x.1 (base + x.1 % 4096) x.2)
                (lineWritten s line))
              let h := homeOf s line
              let full := cells.length == 128
              .ok (l1Merge (putHome s line { h with poison := h.poison && !full, latent := h.latent && !full }) g line md.1 md.2)
          else .ok (l1Merge (sendStore s g line md.1 md.2 0 [u] false (va / 128 * 128) [w]) g line md.1 md.2)

/-- Where a lane of a buffered atomic acts. -/
inductive AtomAt where
  | scratch (d : Deck) (off : Nat)
  | home (pa : Nat)
  | wait (s : State)
  | bad (cause : Nat)
  | gone

/-- The place of one lane, with the checks that the quantum end makes (R385). -/
def atomAt (s : State) (sp : Span) (l : Launch) (va : Nat) : AtomAt :=
  if inLocal va then
    match deckOf s sp.deck with
    | none => .gone
    | some d => match localMode s d (va - localLo) with
      | some b => if b.mode ≠ .scratch then .bad causeBankMode else if !b.switch.isEmpty then .wait s else .scratch d (va - localLo)
      | none => .bad causeBankMode
  else match lookupVa s l.root va with
    | none => .gone
    | some (pa, _) =>
      let busy := lineBusy s sp.core (pa / 128)
      if busy.2 then .wait busy.1 else if (homeOf s (pa / 128)).counted then .bad causeCounted else .home pa

/-- The acquire and the release of one lane of an atomic, at its place (R254). -/
def laneOrder (s : State) (u : Nat) (sp : Span) (ord key : Nat) (hit : Bool) : State :=
  let s := if ordAcq ord && hit then acquireFrom s u sp.core (ordScope ord) key 0 none else s
  if ordRel ord then
    let p := publish s u
    addRelease p.1 key ⟨0, ordScope ord, sp.core, p.2⟩
  else s

/-- One lane of an atomic at its place: the shared word changes, and the deck's own view of it (R260, R301). -/
def applyLane (s : State) (u : Nat) (sp : Span) (l : Launch) (w op ord : Nat) (load : Option Nat) (a : AtomLane) : State :=
  let n := w / 8
  let give := fun (t : State) (old : Nat) (bad : Bool) => match load with
    | some i => deliver t i a.lane old bad
    | none => t
  match atomAt s sp l a.va with
  | .scratch d off =>
    let old := localRead s d off n
    let bad := localBad s d off n
    let t := laneOrder (seeLocal s d off n u) u sp ord (relKeyLocal sp.deck off) (isLocalAtom s d off)
    let t := localWrite t d off (natToBytes n (atomFn op w old a.d a.e))
    give (match deckOf t sp.deck with
      | some d => localMark (localAtom t d off n) d off n u
      | none => t) old bad
  | .home pa =>
    let seen := bytesToNat ((List.range n).map (fun i => phaseByte s sp.deck l (a.va + i) (pa + i)))
    let bad := badLine s (pa / 128)
    let s := raiseFloorOf (invalidate s sp.core (pa / 128)) u (pa / 128)
    let s := laneOrder (seeFences s u pa n) u sp ord (relKey pa) (lastAtomic s pa)
    let s := orderedBytes s (some (writerOf s u sp.core 0 a.va)) true a.va pa (natToBytes n (atomFn op w (homeRead s pa n) a.d a.e))
    give (putOverlay s sp.deck a.va (natToBytes n (atomFn op w seen a.d a.e))) seen bad
  | _ => s

/-- An atomic: every lane passes its check, or none takes effect; then lane by lane (R109, R304, R385). A release comes after the writes
that it covers (R329), and one over a lost write is not performed, its span is halted (R328). -/
def applyAtomic (s : State) (u : Nat) (sp : Span) (l : Launch) (w op ord : Nat) (load : Option Nat) (lanes : List AtomLane) : Applied :=
  let at_ := lanes.map (fun a => atomAt s sp l a.va)
  match at_.findSome? (fun x => match x with
    | .bad c => some c
    | _ => none) with
  | some c => .bad c
  | none => match at_.findSome? (fun x => match x with
    | .wait t => some t
    | _ => none) with
    | some t => .wait t
    | none =>
      if ordRel ord && coverBusy s u then .wait s
      else if ordRel ord && !sp.lost.isEmpty then .ok (haltWith s u 1 noteAbandoned (sp.lost.headD 0))
      else .ok (lanes.foldl (fun t a => applyLane t u sp l w op ord load a) s)

/-- A barrier operation, by the operands it committed with (R192, R385). -/
def applyBarrier (s : State) (u : Nat) (sp : Span) (l : Launch) (kind : Nat) (addr x y : Word64) (lanes : BitVec 32) : Applied :=
  match findBar s sp l addr (if kind = 0 then 2 else 1) false with
  | .wait s => .wait s
  | .trap c => .bad c
  | .loc loc =>
    if (kind == 2 || kind == 4) && decide (2 ≤ barScope loc) && coverBusy s u then .wait s
    else ofBar (onDeckBar s l sp.deck addr.toNat loc (fun t =>
      match spanOf t u with
      | none => .ok t
      | some sp => barApply t u sp l loc kind addr x y lanes))

/-- Arrive-and-drop at every barrier of the table (R304). -/
def applyDrop (s : State) (u : Nat) (sp : Span) (l : Launch) (lanes : BitVec 32) : Applied :=
  if decide (2 ≤ tableScope s sp) && coverBusy s u then .wait s
  else .ok <| sp.regs.foldl (fun t e => match entryBar t sp e.addr with
    | none => t
    | some loc => match onDeckBar t l sp.deck e.addr.toNat loc (fun t =>
        match (spanOf t u).bind (fun sp => sp.regs.find? (fun x => x.addr == e.addr)) with
        | some e' => .ok ((bitsOf lanes).foldl (fun t i => dropAt t u (BitVec.ofNat 32 (2 ^ i))
            ((((spanOf t u).map Span.regs).getD []).find? (fun x => x.addr == e.addr) |>.getD ⟨e'.addr, 0, 0, 0⟩)) t)
        | none => .ok t) with
      | .ok t => t
      | .bad => t) s

/-- A release raises its object once what it covers is performed, and, where it is promoted, what its waiters wait for (R252, R270, R319,
R329); the deck sees its own raise. -/
def applyRel (s : State) (u : Nat) (sp : Span) (l : Launch) (obj : Word64) (scope : Nat) (ranges : List (Nat × Nat)) : Applied :=
  match lookupVa s l.root obj.toNat with
  | none => .ok s
  | some (pa, _) =>
    let p := publish s u
    let r := { Req.init with
      core := sp.core, uid := u, line := pa / 128, a := pa % 128, va := obj.toNat, scope, clock := bindClock p.2 ranges,
      op := sp.colls, tag := sp.deck, c := ctxKey sp.core sp.half, writers := [writerOf p.1 u sp.core 0 obj.toNat] }
    if (homeOf s (pa / 128)).counted then .bad causeCounted
    else if (2 ≤ scope ∧ coverBusy s u) ∨ promoteWaits s r then .wait s
    else
      let seen := bytesToNat ((List.range 8).map (fun i => phaseByte s sp.deck l (obj.toNat + i) (pa + i)))
      let lost := sp.lost.any (lineIn ranges)
      let s := performRel p.1 pa lost r
      let mark := if lost then 2 ^ 63 else seen / 2 ^ 63 * 2 ^ 63
      let s := putOverlay s sp.deck obj.toNat (natToBytes 8 (mark + (seen % 2 ^ 63 + 1) % 2 ^ 63))
      .ok (afterRelease s pa obj.toNat)

/-- The bin of a `hrd` is delivered (R25, R138). -/
def takeBin (s : State) (i : Nat) : State :=
  match mapFind s.loads i with
  | none => s
  | some ld => match spanOf s ld.uid, ld.hist with
    | some sp, some (t, bin) =>
      if ld.late then deliver s i 0 (mapGet 0 (mapGet ⟨[], 0⟩ (coreOf s sp.core).hist t).bins bin) false else s
    | _, _ => s

/-- The pops of a deck that wait on a bank, in the order in which they are served: by quantum, then by span, then as they issued
(R110, R298; log 70). -/
def latePops (s : State) (k p : Nat) : List (Nat × Load) :=
  let mine := s.loads.filter (fun x => x.2.late && x.2.fifo == some p && (spanOf s x.2.uid).any (fun sp => sp.deck == k))
  sortBy (fun x => x.2.quantum) (sortBy (fun x => ((spanOf s x.2.uid).map Span.w).getD 0) mine)

/-- The pops of a bank take their words, as far as its words go. -/
def servePops : List (Nat × Load) → State → Nat → Nat → State
  | [], s, _, _ => s
  | (i, ld) :: r, s, g, p =>
    let b := bankOf (coreOf s g) p
    if b.mode ≠ .fifo ∨ b.ring.length < ld.lanes.length then s
    else servePops r (takeWords s g p i { ld with late := false } b.ring) g p

/-- The pops that a switch point finds waiting: those of an earlier quantum, of a lower span in this one, and the span's own older
ones (R167, R298). -/
def popsBefore (s : State) (sp : Span) (p : Nat) (older : List Nat) : List (Nat × Load) :=
  (latePops s sp.deck p).filter (fun x => older.contains x.1 ||
    decide (x.2.quantum < ((deckOf s sp.deck).map Deck.quanta).getD 0) || decide (((spanOf s x.2.uid).map Span.w).getD 0 < sp.w))

/-- A mode switch at its switch point (R167, R385). -/
def applyBkmode (s : State) (sp : Span) (l : Launch) (v : Word64) (older : List Nat) : Applied :=
  let bar : Word64 := (v.extractLsb' 12 52).zeroExtend 64 <<< 5
  let k := (v.extractLsb' 0 5).toNat
  match (deckOf s sp.deck).bind (fun d => (physBank d k).map (fun p => (d, p))) with
  | none => .bad causeBankMode
  | some (d, p) => match findBar s sp l bar 1 false with
    | .wait s => .wait s
    | .trap c => .bad c
    | .loc loc =>
      if !(deckBar s l sp.deck bar.toNat loc).valid then .bad causeBarrier
      else
        let s := putDeck s sp.deck { d with switched := if d.switched.contains k then d.switched else k :: d.switched }
        .ok (switchBank s sp p (bankModeOf (v.extractLsb' 5 2).toNat) bar (popsBefore s sp p older))

/-- The words of a push enter their FIFO; where they have no room, the deck's pops go before them (R110, R385). -/
def applyFifo (s : State) (sp : Span) (k : Nat) (words : List Word32) : Applied :=
  match (deckOf s sp.deck).bind (fun d => physBank d k) with
  | none => .bad causeBankMode
  | some p =>
    let room := fun (s : State) => decide ((bankOf (coreOf s sp.core) p).ring.length + words.length ≤ fifoRoom)
    let s1 := if room s then s else servePops (latePops s sp.deck p) s sp.core p
    let b := bankOf (coreOf s1 sp.core) p
    if b.mode ≠ .fifo then .bad causeBankMode
    else if !b.switch.isEmpty ∨ !room s1 then .wait s1
    else .ok (putBank s1 sp.core p { b with ring := b.ring ++ words })

/-- A pushed record (R287): its answer is delivered. -/
def applyCpush (s : State) (u : Nat) (sp : Span) (l : Launch) (record : Word64) (ws : List Nat) (prio load : Nat) : Applied :=
  if coverBusy s u then .wait s
  else
    let tr := fun (s : State) va => translate s sp.core sp.bay l.root l.key va 0 (.span u) sp.xfail
    match pushRecord tr s l ws record.toNat prio u with
    | .wait s => .wait s
    | .done s x => .ok (deliver s load 0 x false)

/-- A command whose scratch banks, or whose barrier's bank, a BKMODE entry has switched meanwhile fails its check (R385). -/
def cmdModes (s : State) (sp : Span) (l : Launch) (e : Cmd) : Option Applied :=
  let bankBad := (deckOf s sp.deck).any (fun d => (cmdExtents e).any (fun x => decide (localLo < x.1 + x.2) &&
    (localBanks x.1 x.2).any (fun i => (localMode s d (32768 * i)).any (fun b => b.mode != .scratch))))
  if bankBad then some (.bad causeBankMode)
  else match e.bar with
    | none => none
    | some a => if !inLocal a.toNat then none else match findBar s sp l a 1 false with
      | .trap c => some (.bad c)
      | .wait s => some (.wait s)
      | .loc _ => none

/-- One entry of the buffer of span u. -/
def applyEntry (s : State) (u : Nat) (sp : Span) (l : Launch) (x : Buffered) : Applied :=
  match x with
  | .store cells unc => applyStore s u sp l cells unc
  | .lost va => match lookupVa s l.root (128 * va) with
    | none => .ok s
    | some (pa, _) =>
      let s := putHome s (pa / 128) { homeOf s (pa / 128) with poison := true }
      .ok (noteLostWrite (recUncorrectable s (dieOfPa pa) 0 l.number 1 pa) 0 { Req.init with by_ := [u], va := 128 * va })
  | .atomic w op ord load lanes => applyAtomic s u sp l w op ord load lanes
  | .barrier kind addr x y lanes => applyBarrier s u sp l kind addr x y lanes
  | .drop lanes => applyDrop s u sp l lanes
  | .bkmode v older => applyBkmode s sp l v older
  | .hclr t bias older => if countingAcst s u then .wait s else .ok (clearHist (older.foldl takeBin s) sp.core t bias)
  | .cpush r ws p i =>
    -- a push that releases a lost write is not performed, and its span is halted (R328)
    if sp.lost.isEmpty then applyCpush s u sp l r ws p i else .ok (haltWith s u 1 noteAbandoned (sp.lost.headD 0))
  | .rsend h vals =>
    let va := fieldOf h 8 49 * 256
    match lookupVa s l.root va with
    | none => .ok s
    | some (pa, _) =>
      if coverBusy s u then .wait s
      else .ok (meshSend s sp.core pa l.root l.key (fieldOf h 0 8) vals)
  | .rel obj scope ranges => applyRel s u sp l obj scope ranges
  | .dropc base len => .ok (newReq s { Req.init with
      core := sp.core, uid := u, kind := .dropc, va := base, a := base + len, b := l.number, c := l.root, stage := .home }).1
  | .engine q c =>
    match cmdModes s sp l c with
    | some r => r
    | none => match cmdBad (ctxOf s sp.core sp.half) c with
    | some x => .bad x
    | none => if queueFull s sp.core sp.half q then .wait s else .ok (cmdEnter s u sp.core sp.half q c)
  | .coll c _ => match cmdModes s sp l c with
    | some r => r
    | none => match collJoin s u sp c with
    | .ok s => .ok s
    | .bad x => .bad x
    | .wait => .wait s
  | .claim n readers => ofSlot s (claimSlot s sp n readers)
  | .trel n => ofSlot s (freeSlot s sp n)
  | .qfence m => if fenceFits s sp.core sp.half m then .ok (placeMarkers s sp m) else .wait s
  | .fifo k words => applyFifo s sp k words

/-- A check that fails when its entry is applied: kind 0 with the cause, and the span is halted (R385). -/
def quantumFail (s : State) (u : Nat) (sp : Span) (pt : Word64) (cause : Nat) : State :=
  haltSpan (record s { spanEvent s sp cause 0 pt.toNat with kind := 0 }) u noteAbandoned

/-- The oldest entry of a span leaves its buffer. -/
def popEntry (s : State) (u : Nat) : State :=
  match spanOf s u with
  | none => s
  | some sp => putSpan s u { sp with buffer := sp.buffer.tail }

/-- The spans of a deck in ascending global id (R298). -/
def deckSpans (s : State) (k : Nat) : List (Nat × Span) :=
  let l := s.spans.filter (fun p => p.2.deck == k)
  ((List.range 32).flatMap (fun w => l.filter (fun p => p.2.w == w)))

def setApplied (s : State) (k : Nat) : State :=
  match deckOf s k with
  | none => s
  | some d => putDeck s k { d with ending := true, applied := true }

/-- Entries are applied, spans in ascending id, until one has to wait or none is left; true: none is left. -/
def applyAll : Nat → State → Nat → Launch → State × Bool
  | 0, s, _, _ => (s, false)
  | n + 1, s, k, l =>
    match (deckSpans s k).find? (fun p => !p.2.buffer.isEmpty) with
    | none => (s, true)
    | some (u, sp) => match sp.buffer with
      | [] => (s, true)
      | x :: _ =>
        let c := s.cur
        match applyEntry { s with cur := { c with uid := u } } u sp l x.2 with
        | .wait s => ({ s with cur := c }, false)
        | .bad cause => applyAll n (setApplied (quantumFail { s with cur := c } u sp x.1 cause) k) k l
        | .ok s => applyAll n (setApplied (finishSpan (popEntry { s with cur := c } u) u) k) k l

/-! ### The quantum end (R298, R303) -/

/-- Something that the deck's quantum end has applied is not performed or done. -/
def quantumBusy (s : State) (k : Nat) (d : Deck) : Bool :=
  s.reqs.any (fun p => p.2.by_.any d.uids.contains ||
    ((p.2.kind == .atomic || p.2.kind == .rel || p.2.kind == .dropc) && d.uids.contains p.2.uid)) ||
  (ctxOf s d.core d.half).queues.any (fun q => q.2.any (fun e => e.deck == k && e.kind != .marker)) ||
  s.lands.any (fun x => x.2.deck == k) || s.fab.entries.any (fun e => e.2.deck == k) ||
  d.banks.any (fun p => !(bankOf (coreOf s d.core) p).switch.isEmpty)

/-- A `barwait` of the deck is evaluated: it ends with its status, or goes on holding (R193, R299). -/
def evalWait (s : State) (u : Nat) (sp : Span) (l : Launch) : State :=
  match sp.pend with
  | .barwait _ _ addr _ p sd _ =>
    match waitBar s sp l addr with
    | .wait _ => s
    | .trap c => quantumFail s u sp sp.spc c
    | .loc loc =>
      let b := deckBar s l sp.deck addr.toNat loc
      if !b.valid then quantumFail s u sp sp.spc causeBarrier
      else match waitStatus b p with
        | none => s
        | some st =>
          let sp1 := sWrite { sp with pend := .none } sd (BitVec.ofNat 64 st)
          -- an acquire at the barrier's scope (R256)
          if st = 0 ∨ st = 4 ∨ st = 5 then
            let r := detAcquire s sp1 (barScope loc) s.uses
            putSpan (learn r.1 u (mapGet ([], []) s.ord.bars (barKey loc)).2) u (advance r.2)
          else putSpan s u (advance sp1)
  | _ => s

/-- The values that a quantum end returns, beside those of its entries: bins of `hrd`s, and words of FIFO pops in their order; a pop
whose bank has left FIFO mode fails its check (R298, R385). -/
def deliverLate (s : State) (k : Nat) (d : Deck) : State :=
  let s := (s.loads.filter (fun p => d.uids.contains p.2.uid)).foldl (fun t p => takeBin t p.1) s
  let s := d.banks.foldl (fun t p => servePops (latePops t k p) t d.core p) s
  (d.banks.flatMap (fun p => if (bankOf (coreOf s d.core) p).mode = .fifo then [] else latePops s k p)).foldl (fun t x =>
    match spanOf t x.2.uid with
    | some sp => quantumFail t x.2.uid sp x.2.point causeBankMode
    | none => t) s

def waiting (sp : Span) : Bool :=
  match sp.pend with
  | .barwait _ _ _ _ _ _ _ => true
  | _ => false

/-- Deck `id` ends a quantum: its spans' commit buffers are applied, what they started is waited for, and the returned
values and statuses are delivered. (R298, R299, R302 to R304, R385) -/
def execQuantumEnd (s : State) : Res :=
  let k := s.cur.x.id
  match deckOf s k with
  | none => .fault .notEnabled
  | some d => match mapFind s.launches d.launch with
    | none => .fault .notEnabled
    | some l =>
      let live := (deckSpans s k).filter (fun p => p.2.live != 0)
      if !l.det ∨ d.retired ∨ !d.started ∨ d.stuck ∨ !clocked s ∨ (coreOf s d.core).active ≠ d.half ∨
         (coreOf s d.core).swap.isSome ∨ (!d.ending && live.any (fun p => !p.2.held && !atQuantum s p.2 l)) then .fault .notEnabled
      else
        let s0 := if d.ending then s else putDeck s k { d with ending := true, applied := false }
        let total := ((deckSpans s k).map (fun p => p.2.buffer.length)).sum
        let r := applyAll (total + 1) s0 k l
        match deckOf r.1 k with
        | none => .next r.1
        | some d =>
          if !r.2 then (if r.1 = s then .fault .notEnabled else .next r.1)
          else if d.retired then .next r.1
          else if quantumBusy r.1 k d then (if total = 0 ∧ r.1 = s then .fault .notEnabled else .next r.1)
          else
            let s := deliverLate r.1 k d
            let s := (deckSpans s k).foldl (fun t p => match spanOf t p.1 with
              | some sp => evalWait t p.1 sp l
              | none => t) s
            let left := (deckSpans s k).filter (fun p => p.2.live != 0)
            let stuck := decide (l.watchdog ≤ d.quanta + 1) || (!d.applied && !left.isEmpty && left.all (fun p => waiting p.2))
            let s := left.foldl (fun t p => match spanOf t p.1 with
              | some sp => putSpan t p.1 { sp with
                  held := waiting sp || stuck, acqAt := if sp.acqAt = acqPending then t.uses else sp.acqAt }
              | none => t) (nextUse s)
            .next (match deckOf s k with
              | none => s
              | some d => putDeck s k { d with quanta := d.quanta + 1, ending := false, applied := false, stuck := stuck && !d.retired })

/-- The watchdog, or spans that all hold at quantum end of deck `id`, end the launch. (R234, R303) -/
def execNoProgress (s : State) : Res :=
  match deckOf s s.cur.x.id with
  | none => .fault .notEnabled
  | some d => match mapFind s.launches d.launch with
    | none => .fault .notEnabled
    | some l =>
      if !d.stuck then .fault .notEnabled
      else
        let s := putDeck s s.cur.x.id { d with stuck := false }
        let s := record s { boxEvent s with
          kind := 1, code := 0x85, die := d.core / 32, core := d.core % 32, launch := l.number, key := l.key, arg := d.index
          stop := d.core % 32 / 4 }
        let s := killLaunch s l.number noteNoProgress
        let lines := (s.lines.filter (fun p => p.2.counted && decide (0 < p.2.count) && p.2.tag == l.number)).map Prod.fst
        .next (lines.foldl (fun t x => dropLine t x 0) s)

/-- The next phase of launch record `id` begins: every deck of the phase before it has retired and left. (R260, R297) -/
def execPhaseStart (s : State) : Res :=
  let id := s.cur.x.id
  match mapFind s.launches id with
  | none => .fault .notEnabled
  | some l =>
    let waits := (s.rings.flatMap (fun r => r.2.recs ++ r.2.delayed)).find? (fun x => x.launch == id)
    match waits with
    | none => .fault .notEnabled
    | some x =>
      if !l.det ∨ !l.begun ∨ phaseOf l x.next = l.phase ∨ s.decks.any (fun d => d.2.launch == id) ∨
         s.images.any (fun im => im.2.waiting.any (fun d => d.2.launch == id)) then .fault .notEnabled
      else
        -- what the decks of the phases before it wrote is ordered before what its decks write (R260)
        let p := publish s (phaseAgent id)
        let ord := { p.1.ord with starts := mapPut p.1.ord.starts id (addClock (mapGet [] p.1.ord.starts id) p.2) }
        .next { p.1 with ord, launches := mapPut s.launches id { l with
          phase := phaseOf l x.next, snapshot := memNow s, nets := s.nets } }

end Sys2Proof.Machine
end

