-- ==== Sys2Proof/Machine/FrontEnd.lean ====
section
/-! DEFINITION. The front end: its steps, host packets, doorbells, the management registers, attestation, and what the
host does to the package: R309, R311 to R322, R335, R363. -/

namespace Sys2Proof.Machine
open Sys2Proof

/-! ### The front end's steps (R314 to R316) -/

/-- What a packet is: its operation, as a row of the table; none where R314 completes it with BAD_PACKET. -/
def packetInstr (op sub : Nat) : Option Instr :=
  match op with
  | 1 => some .launch
  | 2 => some .resume
  | 3 => some .release
  | 4 => some .acquire
  | 5 => some .wait
  | 6 => some .copyPacket
  | 7 => some .fencePacket
  | 8 => match sub with
    | 1 => some .admitKey
    | 2 => some .retire
    | 3 => some .shootdown
    | 4 => some .answer
    | 5 => some .power
    | 6 => some .fpstart
    | 7 => some .fpstop
    | _ => none
  | _ => none

/-- Number of packets in the ring of queue q; 0: the queue is off (R312). -/
def queueSize (s : State) (q : Nat) : Nat :=
  let n := qReg s q 0x08
  if 4 ≤ n ∧ n ≤ 16 then 2 ^ n else 0
def queueHead (s : State) (q : Nat) : Nat := mapGet 0 s.fe.heads q % queueSize s q

/-- The packet that queue q reads next. -/
def packetBytes (s : State) (q : Nat) : List Byte :=
  (List.range 64).map (fun i => homeByte s (qReg s q 0 + 64 * queueHead s q + i))

/-- The checks of R314, in which a LAUNCH with a key that is not admitted passes. -/
def packetBad (s : State) (q : Nat) (ws : List Nat) : Bool :=
  let w0 := ws.getD 0 0
  let op := w0 % 256
  let key := ws.getD 1 0 % 2 ^ 32
  op == 0 || decide (8 < op) || bitsAt w0 9 23 != 0 ||
  (op != 8 && ((qReg s q 0x30 != 0 && key != qReg s q 0x30) || (op != 1 && (keyRoot s key).isNone)))

/-- Rank of a packet (R314, R315). -/
def packetRank (s : State) (q : Nat) (ws : List Nat) : Nat :=
  if packetBad s q ws then 0 else [0, 4, 3, 1, 2, 2, 5, 0, 6].getD (ws.getD 0 0 % 256) 0

/-- A started packet keeps the next one of its queue waiting (R316, R317). -/
def queueBlocked (s : State) (q : Nat) : Bool :=
  s.fe.pkts.any (fun p => p.2.q == q && (p.2.op == 4 || p.2.op == 5 ||
    (p.2.op == 1 && p.2.done == 0 && decide (65535 ≤ s.runs.length)) ||
    (p.2.op == 2 && p.2.done == 0 && decide ((resumeNumbers s p.2.a).length < (resumeOlds s p.2.a).length)))) ||
  s.fe.fences.any (fun f => f.1.contains q)

/-- Lane q has its next packet read and is not blocked. -/
def laneReady (s : State) (q : Nat) : Bool :=
  decide (0 < queueSize s q) && decide (queueHead s q ≠ qReg s q 0x18) && !queueBlocked s q

/-- What a packet in flight keeps of its words. -/
def pktOfWords (s : State) (q op : Nat) (ws : List Nat) : Pkt :=
  let w0 := ws.getD 0 0
  { q, idx := queueHead s q, op, tag := bitsAt w0 32 32, intr := bitAt w0 8, key := ws.getD 1 0 % 2 ^ 32,
    a := ws.getD 2 0, b := ws.getD 3 0, c := ws.getD 4 0, done := 0, buf := [], t0 := s.ticks, nums := [], addr := 0, body := ws.drop 2 }

def putHostPkt (s : State) (i : Nat) (p : Pkt) : State := { s with fe := { s.fe with pkts := mapPut s.fe.pkts i p } }

/-- A packet of queue q starts: it is in flight, and the queue's head moves on. -/
def startPacket (s : State) (q : Nat) (p : Pkt) : State :=
  let s := putHostPkt s s.nextId p
  { s with nextId := s.nextId + 1,
           fe := { s.fe with heads := mapPut s.fe.heads q ((queueHead s q + 1) % queueSize s q) } }

/-- The lowest-numbered lane left in the step acts. -/
def laneActs (s : State) : Fetched :=
  match s.fe.lanes with
  | [] => .out (.fault .notEnabled)
  | q :: rest =>
    let s := { s with fe := { s.fe with lanes := rest } }
    if !laneReady s q then .out (.next s)
    else
      let bytes := packetBytes s q
      let ws := words64 bytes 8
      let op := ws.getD 0 0 % 256
      match (if packetBad s q ws then none else packetInstr op (ws.getD 1 0 % 256)) with
      | none => .out (.next (completePkt (startPacket s q (pktOfWords s q op ws)) s.nextId 6 0 0 0))
      | some i => .run i { s with cur := { front := true, x := { id := q, bytes } } }

/-- A turn of the front end: the next lane of its step, or the first lane of a new step at the highest rank (R315). -/
def fetchFrontEnd (s : State) : Fetched :=
  if !s.mg.enabled || s.mg.safe then .out (.fault .notEnabled)
  else if !s.fe.lanes.isEmpty then laneActs s
  else
    let ready := (List.range 32).filter (laneReady s)
    let rank := fun q => packetRank s q (words64 (packetBytes s q) 8)
    let top := ready.foldl (fun r q => min r (rank q)) 7
    laneActs { s with fe := { s.fe with
      lanes := ready.filter (fun q => rank q == top), stepNo := s.fe.stepNo + 1 } }

/-- Run `k` on the packet of operation `op` that the front end has just read, or that the event names and that is in
flight. -/
def withPacket (s : State) (op : Nat) (k : State → Nat → Pkt → Res) : Res :=
  if s.cur.front then
    let q := s.cur.x.id
    let p := pktOfWords s q op (words64 s.cur.x.bytes 8)
    k (startPacket s q p) s.nextId p
  else match mapFind s.fe.pkts s.cur.x.id with
    | some p => if p.op = op then k s s.cur.x.id p else .fault .notEnabled
    | none => .fault .notEnabled

/-- A packet completes, and the answers it was given are used up. -/
def endPkt (s : State) (i status reason value addr : Nat) : State :=
  completePkt (dropFails s (.front i)) i status reason value addr

/-- The packet completes OK or BAD_PACKET (R321). -/
def endMgmt (s : State) (i : Nat) (ok : Bool) : Res := .next (endPkt s i (if ok then 0 else 6) 0 0 0)

/-- Translate for a packet, under its job key: on the lowest die that has not failed. -/
def frontXlate (s : State) (i key va kind : Nat) : Xl :=
  if inLocal va || inQuad va then .fail
  else match keyRoot s key with
    | none => .fail
    | some root => dieXlate s (firstDie s) root key va kind (.front i)

/-- Operations of the packets in flight that are not an opcode of R314: the management packets. -/
def opMgmt (sub : Nat) : Nat := 16 + sub

/-! ### FENCE, RELEASE, ACQUIRE, WAIT (R316, R318, R319) -/

/-- Host FENCE packet: a marker in each named queue, after the packets that have started there. (R316) -/
def execFencePacket (s : State) : Res :=
  withPacket s 7 fun s i p =>
    let m := p.a % 2 ^ 32
    let qs := if m = 0 then [p.q] else (List.range 32).filter (bitAt m)
    let before := (s.fe.pkts.filter (fun x => qs.contains x.2.q && x.1 != i)).map Prod.fst
    let s := endPkt s i 0 0 0 0
    .next (if before.isEmpty then s else { s with fe := { s.fe with fences := s.fe.fences ++ [(qs, before)] } })

/-- Run `k` on the place of the sync object at the packet's address, which it may write (R266, R268); FAULT elsewhere. -/
def packetObj (s : State) (i : Nat) (p : Pkt) (k : State → Nat → Res) : Res :=
  let bad := fun (s : State) => Host.Outcome.next (endPkt s i 9 0 0 p.a)
  if p.a % 16 ≠ 0 then bad s
  else match frontXlate s i p.key p.a 1 with
    | .wait s => .next s
    | .fail => bad s
    | .ok pa bar =>
      if isHbm pa ∧ dieWaits s (firstDie s) p.a (pa / 128) then .next s
      else if bar ∨ !isHbm pa ∨ (homeOf s (pa / 128)).counted then bad s else k s pa

/-- A write of the host was lost, and no later full-line write has cleared the mark of its line (R328). -/
def hostLost (s : State) : Bool :=
  s.lines.any (fun l => l.2.poison && l.2.lost && (lastWriters s l.1).any (fun w => w.agent == hostAgent))

/-- Host RELEASE packet: the object's version is raised, which covers the host's writes, and its waiters are told. (R270, R318,
R319) -/
def execRelease (s : State) : Res :=
  withPacket s 3 fun s i p => packetObj s i p fun s pa =>
    let w := { hostWriter s with va := p.a / 128 * 128 }
    let h := publish s hostAgent
    let r := { Req.init with core := hostPort, scope := 4, clock := h.2, writers := [w], va := p.a / 128 * 128 }
    .next (endPkt (afterRelease (performRel h.1 pa (hostLost s) r) pa p.a) i 0 0 0 0)

/-- An address that no object has: an ACQUIRE or WAIT that is not placed yet. -/
def noPlace : Nat := 2 ^ 64

/-- An ACQUIRE or WAIT as it starts: its timeout is the word at +0x20, and it has no place yet. -/
def unplaced (s : State) (p : Pkt) : Pkt := if s.cur.front then { p with done := p.c, c := noPlace } else p

/-- Host ACQUIRE packet: the host-waiter bit is set, and the version is checked. (R267, R318) -/
def execAcquire (s : State) : Res :=
  let s0 := s
  withPacket s 4 fun s i p =>
    let p := unplaced s0 p
    if p.c ≠ noPlace then .fault .notEnabled
    else packetObj (putHostPkt s i p) i p fun s pa =>
      let s := putHostPkt (dropFails s (.front i)) i { p with c := pa }
      .next (checkAcquires (setWaiter s (hostWriter s) pa 0 true) pa)

/-- Completion status of a `barwait` status (R318). -/
def waitCompletion (st : Nat) : Nat := [0, 4, 2, 5, 3, 10].getD st 0

/-- A WAIT at its barrier: it completes, as the host's `barwait`, or goes on waiting (R193, R248, R318). -/
def waitCheck (s : State) (i : Nat) (p : Pkt) : Res :=
  let b := readBar s (.mem p.c)
  if routeWaits s (firstDie s) (dieOfPa p.c) then .next (putHostPkt s i p)
  else if !b.valid then .next (endPkt s i 9 0 0 p.a)
  else match waitStatus b (p.b % 2 ^ 32) with
    | some st =>
      let s := endPkt s i (waitCompletion st) 0 0 0
      .next (if st = 0 ∨ st = 4 ∨ st = 5 then learn s hostAgent (mapGet ([], []) s.ord.bars (barKey (.mem p.c))).2 else s)
    | none => .next (putHostPkt s i p)

/-- Host WAIT packet for a phase of a global barrier. (R193, R318) -/
def execWait (s : State) : Res :=
  let s0 := s
  withPacket s 5 fun s i p =>
    let p := unplaced s0 p
    let s := putHostPkt s i p
    if p.c ≠ noPlace then waitCheck s i p
    else if p.a % 32 ≠ 0 then .next (endPkt s i 9 0 0 p.a)
    else match frontXlate s i p.key p.a 0 with
      | .wait s => .next s
      | .fail => .next (endPkt s i 9 0 0 p.a)
      | .ok pa bar => if !bar ∨ !isHbm pa then .next (endPkt s i 9 0 0 p.a) else waitCheck s i { p with c := pa }

/-- The timeout of the waiting packet has run out (R318): 100 ticks of the reference clock to a microsecond. -/
def timedOut (s : State) (p : Pkt) : Bool := p.done != 0 && decide (p.t0 + 100 * p.done ≤ s.ticks)

/-- ACQUIRE packet `id` has waited for its timeout. (R318) -/
def execAcquireTimeout (s : State) : Res :=
  let i := s.cur.x.id
  match mapFind s.fe.pkts i with
  | none => .fault .notEnabled
  | some p =>
    if p.op ≠ 4 ∨ !timedOut s p then .fault .notEnabled
    else
      let s := endPkt s i 2 0 (if p.c = noPlace then 0 else homeRead s p.c 8) 0
      .next (if p.c = noPlace then s else checkAcquires s p.c)

/-- WAIT packet `id` has waited for its timeout. (R318) -/
def execWaitTimeout (s : State) : Res :=
  let i := s.cur.x.id
  match mapFind s.fe.pkts i with
  | none => .fault .notEnabled
  | some p => if p.op ≠ 5 ∨ !timedOut s p then .fault .notEnabled else .next (endPkt s i 2 0 0 0)

/-! ### LAUNCH and RESUME (R283, R317, R320) -/

/-- A host packet is refused with a reason of R283. -/
def refusePkt (s : State) (i : Nat) (p : Pkt) (reason arg : Nat) : State :=
  endPkt (recRejected s reason arg p.key 0) i 1 reason 0 0

/-- A LAUNCH of the same step, of a lower lane, has not been appended yet (R315). -/
def launchBefore (s : State) (i : Nat) (p : Pkt) : Bool :=
  s.fe.pkts.any (fun x => decide (x.1 < i) && x.2.op == 1 && x.2.done == 0 && x.2.t0 == p.t0)

/-- Host LAUNCH packet: its records are checked, it takes a launch number, and its record enters its ring. (R283, R285,
R317) -/
def execLaunch (s : State) : Res :=
  let front := s.cur.front
  withPacket s 1 fun s i p =>
    let p := if front then { p with t0 := s.fe.stepNo } else p
    let s := putHostPkt s i p
    -- in the safe state no launch is accepted (R334)
    if p.done ≠ 0 ∨ s.mg.safe then .fault .notEnabled
    else match keyRoot s p.key with
      | none =>
        let reason := if p.a % 64 ≠ 0 ∨ p.c % 16 ≠ 0 then 1 else if (p.body.take 3).any (fun w => bitsAt w 57 7 != 0) then 2 else 12
        .next (refusePkt s i p reason (bitsAt p.a 0 57))
      | some root =>
        let tr := fun (s : State) va => dieXlate s (firstDie s) root p.key va 0 (.front i)
        match freeNumber s [] with
        | none => .next s
        | some n => match checkRecord tr s p.body p.key root n with
          | .wait s => .next s
          | .bad r => .next (refusePkt s i p r (bitsAt p.a 0 57))
          | .ok l first last frame join =>
            if launchBefore s i p then .next s
            else
              let s := putHostPkt (dropFails s (.front i)) i { p with done := 1 }
              let s := { s with runs := mapPut s.runs n ⟨p.key, some i, [], 0⟩ }
              let h := publish s hostAgent
              .next (pushRing h.1 l.prio l first last frame join h.2)

/-- Host RESUME packet: an image that some core can hold waits to be placed. (R207, R225, R320) -/
def execResume (s : State) : Res :=
  withPacket s 2 fun s i p =>
    if !s.cur.front then .fault .notEnabled
    else .next (if imageRefused s p.a p.key then refusePkt s i p 11 p.a else putHostPkt s i { p with b := 0, c := 0 })

/-! ### COPY (R316) -/

/-- The packet's bytes are all performed, at system scope where they lie in host memory. -/
def copyDone (s : State) (i : Nat) : Bool :=
  !s.reqs.any (fun r => r.2.kind == .storeData && r.2.tag == i) && !s.fe.posted.any (fun x => x.1 == i)

/-- One piece of a COPY to physical memory: in HBM4E at once, elsewhere on its way. -/
def copyPut (s : State) (i va pa : Nat) (bar : Bool) (bytes : List Byte) : FabWr :=
  if isHbm pa then fabPut s (firstDie s) { hostWriter s with va } 0 0 pa bar bytes
  else
    let mask := maskOf 128 ((List.range bytes.length).map (fun k => pa % 128 + k))
    let data := bytes.zipIdx.foldl (fun d b => lineSet d (pa % 128 + b.2) b.1) (0 : Line)
    .ok (newReq s { Req.init with
      core := 512 + firstDie s, kind := .storeData, line := pa / 128, mask, data, by_ := [i], stage := .home, va, tag := i,
      writers := [{ hostWriter s with mask, va := va / 128 * 128 }] }).1

/-- Host COPY packet: a step moves the bytes that go to one line of its destination; its source is read by whole 8-byte blocks, and
what is read beyond that line is kept. (R251, R316, R326) -/
def execCopyPacket (s : State) : Res :=
  withPacket s 6 fun s i p =>
    let n := p.c % 2 ^ 32
    if n = 0 then .next (endPkt s i 6 0 0 0)
    else if n ≤ p.done then if copyDone s i then .next (endPkt s i 0 0 0 0) else .fault .notEnabled
    else
      let src := p.a + p.done + p.buf.length
      let dst := p.b + p.done
      let m := min (n - p.done) (128 - dst % 128)
      -- up to the end of the source block that holds the last byte of the piece
      let r := if m ≤ p.buf.length then 0 else min (n - p.done) ((p.a + p.done + m + 7) / 8 * 8 - (p.a + p.done)) - p.buf.length
      match (match keyRoot s p.key with
        | none => FabRd.fail
        | some root => fabRead s (firstDie s) root p.key (.front i) src r) with
      | .wait s => .next s
      | .fail => .next (endPkt s i 9 0 0 (match frontXlate s i p.key src 0 with
        | .fail => src
        | _ => (src / 4096 + 1) * 4096))
      | .ok s got bad =>
        if bad then .next (endPkt s i 3 0 0 0)
        else match frontXlate s i p.key dst 1 with
        | .wait s => .next s
        | .fail => .next (endPkt s i 9 0 0 dst)
        | .ok dpa bar =>
          match copyPut s i dst dpa bar ((p.buf ++ got).take m) with
            | .wait s => .next s
            | .fail s => .next (endPkt s i 9 0 0 dst)
            | .ok s => .next (putHostPkt s i { p with done := p.done + m, buf := (p.buf ++ got).drop m })

/-! ### MGMT (R321, R323, R363) -/

/-- The entry of the key table that holds a key. -/
def keyEntry (s : State) (key : Nat) : Option Nat :=
  (List.range 64).find? (fun j => (feReg s (0x4000 + 0x10 * j)).toNat == key)

def setReg (s : State) (off x : Nat) : State :=
  { s with fe := { s.fe with regs := mapPut s.fe.regs off (BitVec.ofNat 64 x) } }

/-- MGMT ADMIT: a job key and its root take a free entry of the key table. (R312, R321) -/
def execAdmitKey (s : State) : Res :=
  withPacket s (opMgmt 1) fun s i p =>
    let key := p.a % 2 ^ 32
    if key = 0 ∨ (keyEntry s key).isSome then endMgmt s i false
    else match keyEntry s 0 with
      | none => endMgmt s i false
      | some j => endMgmt (setReg (setReg s (0x4000 + 0x10 * j) key) (0x4008 + 0x10 * j) (bitsAt p.b 12 40 * 4096)) i true

/-- Some launch of the key is in flight. -/
def keyBusy (s : State) (key : Nat) : Bool := s.runs.any (fun r => r.2.key == key)

/-- Something of the key is in flight: a launch, a packet, a page of it that is being shot down, a fabric processor (R312). -/
def keyInFlight (s : State) (key : Nat) : Bool :=
  keyBusy s key || s.fe.pkts.any (fun p => decide (p.2.op < 16) && p.2.key == key) ||
  s.fe.shoots.any (fun x => x.2.key == key) || s.fab.fps.any (fun f => f.2.running && f.2.key == key)

/-- MGMT RETIRE: the key's entry is freed once no launch of it is in flight. (R321) -/
def execRetire (s : State) : Res :=
  withPacket s (opMgmt 2) fun s i p =>
    let key := p.a % 2 ^ 32
    if key = 0 then endMgmt s i false
    else match keyEntry s key with
      | none => endMgmt s i false
      | some j =>
        if keyBusy s key then .next s else endMgmt (setReg (setReg s (0x4000 + 0x10 * j) 0) (0x4008 + 0x10 * j) 0) i true

/-- MGMT SHOOTDOWN: the closing stage of a page begins. (R241, R321) -/
def execShootdown (s : State) : Res :=
  withPacket s (opMgmt 3) fun s i p =>
    let key := p.a % 2 ^ 32
    let size := p.c
    let bound := if p.body.getD 3 0 = 0 then 100 else p.body.getD 3 0
    if (mapFind s.fe.shoots i).isSome then .fault .notEnabled
    else match keyRoot s key with
      | none => endMgmt s i false
      | some root =>
        if !([12, 16, 21, 30].contains size) ∨ 10000 < bound ∨ vaTop ≤ p.b then endMgmt s i false
        else .next (beginShoot s ⟨key, root, p.b / 2 ^ size * 2 ^ size / 4096, size, s.ticks + 100 * bound, false, i, []⟩)

/-- MGMT ANSWER: a fault record is answered RETRY or FAIL. (R240, R321) -/
def execAnswer (s : State) : Res :=
  withPacket s (opMgmt 4) fun s i p =>
    match s.faults.find? (fun f => f.2.number == some p.a) with
    | none => endMgmt s i false
    | some (j, f) => if 1 < p.b then endMgmt s i false else endMgmt (postFaults (answerFault s j f (p.b == 1))) i true

/-- The package runs in a power state; in the last, no context is kept (R323). -/
def setPower (s : State) (st drop : Nat) : State :=
  let s := record { s with mg := { s.mg with power := st, throttle := drop } }
    { boxEvent s with kind := 4, code := st, die := firstDie s, fe := true }
  if st = 4 then { s with ctxs := [], cores := s.cores.map (fun c => (c.1, { Core.init with failed := c.2.failed })) } else s

/-- MGMT POWER: a power state is selected; the last waits until no launch is in flight. (R321, R323, R324) -/
def execPower (s : State) : Res :=
  withPacket s (opMgmt 5) fun s i p =>
    let n := p.a
    if 4 < n then endMgmt s i false
    else if n = 4 ∧ !s.runs.isEmpty then .next s
    else
      -- states dropped by throttling stay dropped, down to state 2
      let st := if n < 2 then min 2 (n + s.mg.throttle) else n
      endMgmt (setPower s st (st - n)) i true

def fpOf (s : State) (k : Nat) : Fp := mapGet Fp.init s.fab.fps k
def putFp (s : State) (k : Nat) (f : Fp) : State := { s with fab := { s.fab with fps := mapPut s.fab.fps k f } }
/-- Key of the processor that a packet names: die [3:0] and fp [5:4]. -/
def fpArg (a : Nat) : Nat := 4 * (a % 16) + bitsAt a 4 2

/-- MGMT FPSTART: a fabric processor starts. (R363) -/
def execFpstart (s : State) : Res :=
  withPacket s (opMgmt 6) fun s i p =>
    let k := fpArg p.a
    let key := p.body.getD 4 0 % 2 ^ 32
    let status := p.body.getD 3 0
    if (fpOf s k).running ∨ (keyRoot s key).isNone ∨ p.b % 4 ≠ 0 ∨ status % 16 ≠ 0 then endMgmt s i false
    else
      let x : SMap Word64 := mapSet 0 [] 1 (BitVec.ofNat 64 p.c)
      let f : Fp := ⟨!s.mg.failedDies.contains (k / 4), x, p.b % vaTop, key, status, .none, none, none, false⟩
      endMgmt (putFp s k f) i true

/-- MGMT FPSTOP: the processor halts once its current instruction has completed. (R363) -/
def execFpstop (s : State) : Res :=
  withPacket s (opMgmt 7) fun s i p =>
    let k := fpArg p.a
    let f := fpOf s k
    if !f.running then endMgmt s i true
    else .next (putFp s k { f with stop := some i })

/-! ### Registers (R312, R334, R335, R337) -/

/-- Doorbell write of queue `id`: one past the last valid packet. (R312, R316, R334) -/
def execQtail (s : State) : Res :=
  let q := s.cur.x.id
  if s.mg.step = 0 ∨ 32 ≤ q then .fault .notEnabled
  else if s.mg.safe ∨ 2 ^ 16 ≤ s.cur.x.a ∨ (queueSize s q ≠ 0 ∧ queueSize s q ≤ s.cur.x.a) then .next s
  else .next (setReg s (0x1018 + 0x40 * q) s.cur.x.a)

/-- A power of two from 64 to 65,536. -/
def pow2Size (x : Nat) : Bool := (List.range 11).any (fun k => x == 64 * 2 ^ k)

/-- Nothing of ring p is in flight. -/
def ringIdle (s : State) (p : Nat) : Bool := (ringOf s p).recs.isEmpty && (ringOf s p).delayed.isEmpty

/-- Is a value within the bits and the range of a register, and may the register be changed now (R312, R335, R337)? -/
def regTakes (s : State) (off x : Nat) : Bool :=
  if 0x1000 ≤ off ∧ off < 0x1800 then
    match (off - 0x1000) % 0x40 with
    | 0x00 => x % 64 == 0
    | 0x08 => x == 0 || (decide (4 ≤ x) && decide (x ≤ 16))
    | 0x20 => true
    | 0x30 => decide (x < 2 ^ 32)
    | 0x38 => decide (x < 2)
    | _ => false
  else if 0x2000 ≤ off ∧ off < 0x2100 then
    let p := (off - 0x2000) / 0x20
    match (off - 0x2000) % 0x20 with
    | 0x00 => x % 32 == 0 && ringIdle s p
    | 0x08 => decide (64 ≤ x) && decide (x ≤ 65536) && ringIdle s p
    | _ => false
  else if 0x3000 ≤ off ∧ off < 0x3200 then off % 8 == 0
  else if 0x4000 ≤ off ∧ off < 0x4400 then
    match (off - 0x4000) % 0x10 with
    | 0x00 => decide (x < 2 ^ 32) && ((feReg s off).toNat == 0 || !keyInFlight s (feReg s off).toNat)
    | 0x08 => x % 4096 == 0 && decide (x < 2 ^ 52)
    | _ => false
  else if 0x5100 ≤ off ∧ off < 0x5180 then
    off % 8 == 0 && x % 2 ^ 17 == 0 && isHbm x && (groupsOf s ((off - 0x5100) / 8)).isEmpty
  else match off with
    | 0x5000 => true
    | 0x5008 => pow2Size x
    | 0x5010 => decide (x < 2 ^ 16)
    | 0x6000 => decide (1000 ≤ x) && decide (x ≤ 4500)
    | 0x7100 => true
    | 0x7108 => true
    | 0x7110 => true
    | 0x7118 => true
    | 0x7200 => x / 512 == 0 && bitsAt x 4 4 == 0
    | _ => false

/-- Write of the register at offset `a` with the value `b`; a reserved or out-of-range value, a read-only register and a
change at the wrong time are ignored. (R312, R335, R337) -/
def execMgmtRegisterWrite (s : State) : Res :=
  let x := s.cur.x.b % 2 ^ 64
  if s.mg.step = 0 then .fault .notEnabled
  else if !regTakes s s.cur.x.a x then .next s
  else
    let s := setReg s s.cur.x.a x
    .next (if 0x5000 ≤ s.cur.x.a ∧ s.cur.x.a ≤ 0x5010 then postFaults s else s)

/-- The self-test word k of R334. -/
def selfTest (s : State) (k : Nat) : Nat :=
  let m := s.mg
  match k with
  | 0 => m.step % 16 + m.code % 256 * 2 ^ 4 + m.bist % 2 ^ 16 * 2 ^ 12
  | 1 => m.cwDown % 2 ^ 22 + m.cwHalf % 2 ^ 22 * 2 ^ 22
  | 2 => m.stackBad % 2 ^ 16 + m.expFailed % 256 * 2 ^ 16
  | 3 => m.portsFailed % 2 ^ 64
  | _ => m.svn % 2 ^ 16 + m.svnMin % 2 ^ 16 * 2 ^ 16

/-- Attestation is available: step 6 has passed, and the package is not safe (R335). -/
def mayAttest (s : State) : Bool := s.mg.step == 7 && !s.mg.safe

/-- ACTRL written with `a`: bit 0 starts an attestation over the nonce. (R335) -/
def execActrl (s : State) : Res :=
  if s.mg.step = 0 then .fault .notEnabled
  else if s.cur.x.a ≠ 1 ∨ s.mg.astat = 1 then .next s
  else .next { s with mg := { s.mg with astat := if mayAttest s then 1 else 3 } }

/-- The bytes of the report that the signature covers (R335). -/
def reportBytes (s : State) : List Byte :=
  natToBytes 4 0x4A394154 ++ natToBytes 4 1 ++ natToBytes 8 0 ++ natToBytes 8 Config.did.toNat ++
  [0x7100, 0x7108, 0x7110, 0x7118].flatMap (fun o => natToBytes 8 (feReg s o).toNat) ++
  natToBytes 8 (selfTest s 4) ++ natToBytes 64 s.mg.manifest.toNat ++
  (List.range 16).flatMap (fun k => natToBytes 8 (if k < 5 then selfTest s k else 0)) ++
  (List.range 1952).map (Config.deviceKey s.mg.manifest)

/-- The attestation report stands in its window, and ASTAT reads 2. (R335) -/
def execAttestationDone (s : State) : Res :=
  if s.mg.astat ≠ 1 then .fault .notEnabled
  else if !mayAttest s then .next { s with mg := { s.mg with astat := 3 } }
  else
    let r := reportBytes s
    .next { s with mg := { s.mg with astat := 2, report := r ++ (List.range 3309).map (Config.signature s.mg.manifest (Config.shake256 r)) } }

/-- A black-box entry as 32 bytes (R336). Where R236 has fields that R336 gives no place, the slice stands in the core field, and count,
reason and line or slot in the argument (DESIGN CHOICE, log 85). -/
def boxBytes (e : BoxEvent) : List Byte :=
  let src := if e.fe then 2 ^ 22 else e.die % 16 * 2 ^ 11 + e.core % 32 * 2 ^ 15 + e.bay % 4 * 2 ^ 20
  natToBytes 8 e.time ++ natToBytes 8 (e.kind + e.code * 2 ^ 3 + src + e.span % 2 ^ 32 * 2 ^ 32) ++
  natToBytes 8 (e.launch + e.detail * 2 ^ 16 + e.key * 2 ^ 32) ++
  natToBytes 8 (if e.kind = 1 ∧ e.code = 0x81 then e.count + e.reason * 2 ^ 8 + e.arg * 2 ^ 16 else e.arg)

/-- The digest of a saved ring: of its 8 KiB, by index (R337). -/
def ringDigest (l : List BoxEvent) : BitVec 512 :=
  Config.shake256 ((List.range 256).flatMap (fun i => ((l.find? (fun e => e.n % 256 == i)).map boxBytes).getD (List.replicate 32 0)))

/-- The ring that BBSEL names: the live one, or the saved one with the higher sequence of those whose digest matches, with its
sequence (R337). -/
def boxRing (s : State) : Nat × List BoxEvent :=
  let sel := (feReg s 0x7200).toNat
  let d := sel % 16
  if bitAt sel 8 then
    let slot : Nat → Nat × List BoxEvent := fun i => match mapFind s.mg.saves (2 * d + i) with
      | some x => if x.2.2 = ringDigest x.2.1 then (x.1, x.2.1) else (0, [])
      | none => (0, [])
    if (slot 0).1 < (slot 1).1 then slot 1 else slot 0
  else (mapGet 0 s.mg.saveSeq d, mapGet [] s.box d)

/-- What an 8-byte read of the register block returns (R312, R334, R335, R337): all ones where it is not aligned. -/
def barRead (s : State) (off : Nat) : Nat :=
  if off % 8 ≠ 0 then 2 ^ 64 - 1
  else if 0x1000 ≤ off ∧ off < 0x1800 then
    let q := (off - 0x1000) / 0x40
    match (off - 0x1000) % 0x40 with
    | 0x10 => mapGet 0 s.fe.heads q
    | 0x28 => mapGet 0 s.fe.ctails q
    | _ => (feReg s off).toNat
  else if 0x2000 ≤ off ∧ off < 0x2100 then
    if (off - 0x2000) % 0x20 = 0x10 then (ringOf s ((off - 0x2000) / 0x20)).recs.length else (feReg s off).toNat
  else if 0x3000 ≤ off ∧ off < 0x3200 then (mapGet (BitVec.allOnes 64) s.fe.regs off).toNat
  else if 0x6008 ≤ off ∧ off < 0x6088 then (mapFind s.mg.temps ((off - 0x6008) / 8)).getD (Config.temperature ((off - 0x6008) / 8))
  else if 0x7000 ≤ off ∧ off ≤ 0x7020 then selfTest s ((off - 0x7000) / 8)
  else if 0x8000 ≤ off ∧ off < 0xA000 then bytesToNat ((List.range 8).map (fun i => s.mg.report.getD (off - 0x8000 + i) 0))
  else if 0xA000 ≤ off ∧ off < 0xC000 then
    let b := (((boxRing s).2.find? (fun e => e.n % 256 == (off - 0xA000) / 32)).map boxBytes).getD []
    bytesToNat ((List.range 8).map (fun i => b.getD (off % 32 + i) 0))
  else match off with
    | 0x0 => Config.did.toNat
    | 0x8 => bitN s.mg.enabled 0 + bitN s.mg.safe 1 + s.mg.power * 2 ^ 4
    | 0x6000 => (mapGet (4500 : Word64) s.fe.regs off).toNat
    | 0x7128 => if s.mg.safe then 3 else s.mg.astat
    | 0x7208 => boxNext (boxRing s).2 % 256 + (boxRing s).1 % 2 ^ 32 * 2 ^ 32
    | _ => (feReg s off).toNat

/-! ### The host (R309, R311, R316) -/

/-- Host access at its address `a` through CXL.mem, which decoder 0 maps onto HBM4E from PA 0: a read of `b` bytes, or a write of
`bytes`, within one line; in power state 4 the stacks are in self-refresh, and it waits. (R244, R311, R323) -/
def execHostCxlMemAccess (s : State) : Res :=
  let pa := s.cur.x.a - Config.hdmBase
  let bytes := s.cur.x.bytes
  let got := fun (s : State) (data : List Byte) poison => { s with fe := { s.fe with hostData := data, hostPoison := poison } }
  if s.cur.x.a < Config.hdmBase ∨ !isHbm pa ∨ s.mg.step = 0 ∨ s.mg.power = 4 ∨ 128 < pa % 128 + max s.cur.x.b bytes.length ∨
      dieWaits s (firstDie s) pa (pa / 128) then .fault .notEnabled
  else if bytes.isEmpty then
    .next (got (homeTouch s (pa / 128)) ((List.range s.cur.x.b).map (fun i => homeByte s (pa + i))) (badLine s (pa / 128)))
  else if (homeOf s (pa / 128)).counted then .next (got s [] true)
  else match fabPut s (firstDie s) { hostWriter s with va := pa } 0 0 pa false bytes with
    | .ok s => .next (got s [] false)
    | _ => .fault .notEnabled

/-- The host grants ownership of a line: the oldest completion record of queue `id` is performed, and its vector raised.
(R309, R312, R316) -/
def execHostOwnershipGrant (s : State) : Res :=
  let q := s.cur.x.id
  match s.fe.compl.find? (fun c => c.q == q) with
  | none => .fault .notEnabled
  | some c =>
    let a := qReg s q 0x20 + 32 * c.slot
    let s := orderedBytes s (some { hostWriter s with va := a }) false a a (c.words.flatMap (fun w => natToBytes 8 w.toNat))
    .next { s with fe := { s.fe with
      compl := s.fe.compl.erase c
      owned := (a / 128) :: s.fe.owned.filter (fun l => l != a / 128)
      msi := if c.intr && qReg s q 0x38 == 1 then q :: s.fe.msi else s.fe.msi } }

/-- The host snoops line `a`, which the front end owns: the line is supplied or written back. (R309) -/
def execHostSnoop (s : State) : Res :=
  let ln := s.cur.x.a
  if s.fe.owned.contains ln then .next { s with fe := { s.fe with owned := s.fe.owned.filter (fun l => l != ln) } }
  else .fault .notEnabled

end Sys2Proof.Machine
end

