-- ==== Sys2Proof/Machine/Reliability.lean ====
section
/-! DEFINITION. Links, failed quad stops and dies, soft errors and scrubs, power and thermal limits, bring-up, resets and
the black box: R223 to R225, R306 to R308, R323 to R337. -/

namespace Sys2Proof.Machine
open Sys2Proof

/-! ### Causeways (R306 to R308) -/

/-- A link event of a causeway (R336). -/
def recLink (s : State) (code c : Nat) : State :=
  record s { boxEvent s with kind := 3, code, die := (causewayEnds c).1, arg := c }

/-- A flit on causeway `a` fails its CRC and is replayed; `b` = 0 begins a new burst of replays. (R308) -/
def execFlitCrcFail (s : State) : Res :=
  let c := s.cur.x.a
  if 22 ≤ c ∨ bitAt s.mg.cwDown c ∨ s.mg.retrain.contains c then .fault .notEnabled
  else
    let n := if s.cur.x.b = 0 then 0 else mapGet 0 s.mg.replays c
    .next (recLink { s with mg := { s.mg with replays := mapPut s.mg.replays c (n + 1) } } 1 c)

/-- Causeway `a` retrains after 16 consecutive replays; its traffic waits. (R308) -/
def execCausewayRetrain (s : State) : Res :=
  let c := s.cur.x.a
  if mapGet 0 s.mg.replays c < 16 ∨ s.mg.retrain.contains c then .fault .notEnabled
  else .next (recLink { s with mg := { s.mg with
    retrain := c :: s.mg.retrain, replays := mapDel s.mg.replays c } } 2 c)

/-- Routes that avoid the down causeway `a` are installed; what waits for them is then sent (`linkWaits`). (R308) -/
def execRouteInstall (s : State) : Res :=
  let c := s.cur.x.a
  if !bitAt s.mg.cwDown c || s.mg.rerouted.contains c then .fault .notEnabled
  else .next { s with mg := { s.mg with rerouted := c :: s.mg.rerouted } }

/-! ### Failed quad stops and dies (R225, R330) -/

/-- Engine commands of the cores that have not landed fail (R176, R225), and so do the entries still forming. -/
def failCommands (s : State) (p : Nat → Bool) : State :=
  let s := (s.fab.entries.filter (fun e => p e.2.core)).foldl (fun t e => failEntry t e.2) s
  let seqs := (s.ctxs.filter (fun c => p (c.1 / 2))).flatMap (fun c => c.2.queues.flatMap (fun q =>
    (q.2.filter (fun e => e.kind != .marker && !e.done)).map Cmd.seq))
  let s := seqs.foldl (fun t i => match findCmd t i with
    | some k => failCmd t k k.cmd
    | none => t) s
  (s.decks.filter (fun d => p d.2.core)).foldl (fun t d =>
    let t := d.2.colls.foldl (fun t f => landCmd t d.2.core f.cmd (cmdTotal f.cmd) true 0) t
    match deckOf t d.1 with
    | some x => putDeck t d.1 { x with colls := [] }
    | none => t) s

/-- Firmware declares a quad stop failed (R225). -/
def failQuad (s : State) (q : Nat) : State :=
  let mine := fun (g : Nat) => g / 4 == q
  let s : State := { s with
    mg := { s.mg with failedQuads := if s.mg.failedQuads.contains q then s.mg.failedQuads else q :: s.mg.failedQuads } }
  let s := (s.spans.filter (fun p => mine p.2.core)).foldl (fun t p => haltWith t p.1 0 noteAbandoned 0) s
  let s := (List.range 16).foldl (fun t i => barAbandon t (.net (128 * (q / 8) + 16 * (q % 8) + i))) s
  failCommands s mine

/-- Firmware declares the stop of quad `a` (8·die + quad) failed. (R225) -/
def execQuadStopFail (s : State) : Res :=
  let q := s.cur.x.a
  if 128 ≤ q ∨ s.mg.failedQuads.contains q then .fault .notEnabled else .next (failQuad s q)

/-- Firmware declares a die failed (R330, R364). -/
def failDie (s : State) (d : Nat) : State :=
  if s.mg.failedDies.contains d then s
  else
    let s := record s { boxEvent s with kind := 6, code := 2, die := d }
    let s := recUncorrectable s d 0 0 5 0
    let s := (List.range 8).foldl (fun t q => failQuad t (8 * d + q)) s
    let s := (s.rounds.filter (fun r => rootDie r.2 == d)).foldl (fun t r => abandonRound t r.2) s
    { s with
      mg := { s.mg with failedDies := d :: s.mg.failedDies }
      fab := { s.fab with fps := s.fab.fps.map (fun f =>
        if f.1 / 4 = d then (f.1, { f.2 with running := false, wait := .none, halting := none }) else f) } }

/-- Firmware declares die `die` failed. (R330) -/
def execDieFail (s : State) : Res :=
  let d := s.cur.x.die
  if 16 ≤ d ∨ s.mg.failedDies.contains d then .fault .notEnabled else .next (failDie s d)

/-- The retrain of causeway `a` ends: `b` = 0 at full width, 1 at half width, 2 failed; a die without a route has failed.
(R308, R330) -/
def execRetrainComplete (s : State) : Res :=
  let c := s.cur.x.a
  if !s.mg.retrain.contains c then .fault .notEnabled
  else
    let m := { s.mg with retrain := s.mg.retrain.filter (fun x => x != c) }
    match s.cur.x.b with
    | 0 => .next { s with mg := m }
    | 1 => .next (recLink { s with mg := { m with cwHalf := m.cwHalf ||| 2 ^ c } } 3 c)
    | _ =>
      let s := recLink { s with mg := { m with cwDown := m.cwDown ||| 2 ^ c } } 4 c
      let ok := reachable s.mg.cwDown 16 [firstDie s]
      .next (((List.range 16).filter (fun d => !ok.contains d)).foldl failDie s)

/-! ### Soft errors, scrubs (R223, R224, R325, R328) -/

/-- An uncorrectable error in the entry of a commit buffer: a store is a lost write, anything else is consumed (R325). -/
def bufferError (s : State) (u j : Nat) : State :=
  match spanOf s u with
  | none => s
  | some sp => match sp.buffer[j]? with
    | none => s
    | some (pt, .store cells _) =>
      let lines := (cells.map (fun c => c.1 / 128)).dedup
      putSpan s u { sp with buffer := sp.buffer.take j ++ lines.map (fun x => (pt, Buffered.lost x)) ++ sp.buffer.drop (j + 1) }
    | some (pt, _) => haltWith s u 0 noteAbandoned pt.toNat

/-- A barrier's image is uncorrectable: it is marked abandoned, and the error recorded (R224, R325). -/
def barrierError (s : State) (l : BarLoc) (die arg : Nat) : State := recUncorrectable (barAbandon s l) die 0 0 3 arg

/-- A store of protected storage takes an uncorrectable error. `a` names the storage of R325: 0 and 1 a scalar or vector
register (`b`; a vector register as 32·r + lane) of span `id`; 2 line `b` in the L1 of `core`; 3 line `b` in its L2 slice;
4 line `b` in HBM4E, or as its expander or the host returns it; 5 offset or FIFO word `b` of bank `c` of `core`; 6 byte `b` of slot `c` and 7 accumulator `c` of half
`id` of `core`; 8 entry `b` of the commit buffer of span `id`; 9 engine-queue entry `id`; 10 network barrier `b`; 11 the
barrier image at `b`; 12 the reduction at `b`; 13 line data `b` that `core` or its quad stop holds for reads: it is
requested again; 14 the staged chunk of entry `id`; 15 the record (`b` = 0) or the registration table (1) of span `id`, which the span
consumes when it reads it; in parapet mode (R331), 16 the two runs of the next S-word of span `id` do not agree, 17 the
shadow lane's and 18 the visible lane's copy of vector register `b` of the span becomes `c`; 19 address `c` of the expander on port `b` of the interleave set; 20 word `b` of the
full/empty bits of span `id` (two scalar words, then vector words), read with each of its registers; 21 the buffer of tile `c` of
residual object `b`. (R223, R310, R224, R325, R328) -/
def execUncorrectableError (s : State) : Res :=
  let x := s.cur.x
  let span := fun (f : Span → State) => match spanOf s x.id with
    | some sp => Host.Outcome.next (f sp)
    | none => .fault .notEnabled
  let lanes := fun (f : Span → Span) => match spanOf s x.id with
    | some sp => if (launchOf s sp).any Launch.parapet then Host.Outcome.next (putSpan s x.id (f sp)) else .fault .notEnabled
    | none => .fault .notEnabled
  match x.a with
  | 0 => span fun sp => putSpan s x.id { sp with badS := if x.b < 63 then sp.badS ||| BitVec.ofNat 64 (2 ^ x.b) else sp.badS }
  | 1 => span fun sp => putSpan s x.id { sp with badV := if sp.badV.contains x.b then sp.badV else x.b :: sp.badV }
  | 2 => match l1Find (coreOf s x.core) x.b with
    | none => .fault .notEnabled
    | some ln =>
      let c := coreOf s x.core
      .next (putCore s x.core (if ln.dirty = 0 then l1Del c x.b else l1Put c { ln with poison := true }))
  | 3 =>
    let h := homeOf s x.b
    if !isHbm (128 * x.b) then .fault .notEnabled
    else if h.below.isNone ∧ h.data.isNone then .next s
    else .next (recUncorrectable (loseLine s x.b) (dieOfPa (128 * x.b)) 0 0 1 (128 * x.b))
  | 4 => if paExists s (128 * x.b) then .next (putHome s x.b { homeOf s x.b with latent := true }) else .fault .notEnabled
  | 5 =>
    let b := bankOf (coreOf s x.core) x.c
    if b.mode = .cache then .fault .notEnabled else .next (putBank s x.core x.c { b with bad := x.b :: b.bad })
  | 6 =>
    let c := ctxOf s x.core (x.id == 1)
    let n := slotOf c x.c
    .next (putCtx s x.core (x.id == 1) (putSlot c x.c { n with bad := x.b :: n.bad }))
  | 7 =>
    let c := ctxOf s x.core (x.id == 1)
    .next (putCtx s x.core (x.id == 1) { c with badAccs := x.c :: c.badAccs })
  | 8 => .next (bufferError s x.id x.b)
  | 9 => match findCmd s x.id with
    | some k => if k.cmd.done then .fault .notEnabled else .next (consumeBad s k k.cmd)
    | none => .fault .notEnabled
  | 10 => .next (barrierError s (.net x.b) (x.b / 128) (quadLo + 32 * (x.b % 16)))
  | 11 => if isHbm x.b ∧ x.b % 32 = 0 then .next (barrierError s (.mem x.b) (dieOfPa x.b) x.b) else .fault .notEnabled
  | 12 => match mapFind s.rounds x.b with
    | some r => .next (recUncorrectable (abandonRound s r) (rootDie r) 0 0 3 x.b)
    | none => .fault .notEnabled
  | 13 => .next (closeWindows s x.core (fun ln => ln == x.b))
  | 14 => match mapFind s.fab.entries x.id with
    | some e => .next (failEntry s e)
    | none => .fault .notEnabled
  | 15 => span fun sp => putSpan s x.id (if x.b = 0 then { sp with badRec := true } else { sp with badTable := true })
  | 16 => match spanOf s x.id with
    | some sp => if (launchOf s sp).any Launch.parapet then .next (lockstepHalt s x.id 0) else .fault .notEnabled
    | none => .fault .notEnabled
  | 17 => lanes fun sp => { sp with shadow := some (mapSet 0 (sp.shadow.getD sp.v) x.b (BitVec.ofNat 32 x.c)) }
  | 18 => lanes fun sp => { sp with shadow := some (sp.shadow.getD sp.v), v := mapSet 0 sp.v x.b (BitVec.ofNat 32 x.c) }
  | 19 =>
    let pa := expanderPa s x.b x.c
    if x.b < s.mg.tierPorts ∧ paExists s pa then .next (putHome s (pa / 128) { homeOf s (pa / 128) with latent := true })
    else .fault .notEnabled
  | 20 => span fun sp =>
    if x.b < 2 then putSpan s x.id { sp with badS := sp.badS ||| BitVec.ofNat 64 ((2 ^ 32 - 1) * 2 ^ (32 * x.b)) }
    else putSpan s x.id { sp with badV := (sp.badV ++ (List.range 32).map (fun i => 32 * (32 * (x.b - 2) + i))).dedup }
  | 21 => .next { s with fab := { s.fab with resid := s.fab.resid.zipIdx.map (fun o =>
      if o.2 = x.b then { o.1 with bad := o.1.bad ++ ((o.1.tiles[x.c]?).map Prod.fst).toList } else o.1) } }
  | _ => .fault .notEnabled

/-- The scrub reaches line `a`: an uncorrectable error found there marks the line poisoned. (R325) -/
def execScrub (s : State) : Res :=
  let h := homeOf s s.cur.x.a
  if h.latent ∧ isHbm (128 * s.cur.x.a) then
    .next (recUncorrectable (putHome s s.cur.x.a { h with latent := false, poison := true, lost := h.lost && h.poison }) (dieOfPa (128 * s.cur.x.a)) 0 0 4
      (128 * s.cur.x.a))
  else .next s

/-! ### Power and thermal limits (R323, R324) -/

/-- Every launch in flight is killed with CONTEXT_LOST, and its commands fail (R324). -/
def loseAll (s : State) : State :=
  failCommands (s.runs.foldl (fun t r => killLaunch t r.1 noteLost) s) (fun _ => true)

/-- The safe, talkative state (R334). -/
def enterSafe (s : State) (code : Nat) : State := { s with mg := { s.mg with safe := true, code } }

def recThermal (s : State) (code die temp : Nat) : State :=
  record s { boxEvent s with kind := 5, code, die, arg := temp }

def setTemp (s : State) (d t : Nat) : State := { s with mg := { s.mg with temps := mapPut s.mg.temps d t } }

/-- The package drops one state, down to state 2 at the lowest (R324). -/
def dropPower (s : State) : State := if s.mg.power < 2 then setPower s (s.mg.power + 1) (s.mg.throttle + 1) else s

/-- The junction of die `die` has reached `a` °C, 95 or more. (R324) -/
def execThermalThrottle (s : State) : Res :=
  let x := s.cur.x
  if x.a < 95 ∨ 16 ≤ x.die then .fault .notEnabled else .next (dropPower (recThermal (setTemp s x.die x.a) 1 x.die x.a))

/-- The package has drawn more than PCAP for 1 ms. (R324) -/
def execPowerOverCap (s : State) : Res := .next (dropPower s)

/-- After 10 ms below 90 °C and below PCAP the package returns one state. (R324) -/
def execThrottleRestore (s : State) : Res :=
  let x := s.cur.x
  if s.mg.throttle = 0 ∨ 90 ≤ x.a then .fault .notEnabled
  else .next (setPower (recThermal (setTemp s (x.die % 16) x.a) 2 (x.die % 16) x.a) (s.mg.power - 1) (s.mg.throttle - 1))

/-- The junction of die `die` has reached `a` °C, 115 or more: issue stops, and every launch completes with CONTEXT_LOST.
(R324, R334) -/
def execThermalTrip (s : State) : Res :=
  let x := s.cur.x
  if x.a < 115 ∨ 16 ≤ x.die then .fault .notEnabled
  else .next (loseAll (enterSafe (recThermal (setTemp s x.die x.a) 3 x.die x.a) 7))

/-- A fatal firmware fault: the safe, talkative state with code 8. (R334) -/
def execFirmwareFault (s : State) : Res := .next (enterSafe s 8)

/-! ### Bring-up and resets (R332, R333, R336, R337) -/

/-- Step k of R332 begins. -/
def bringStep (s : State) (k : Nat) : State :=
  record { s with mg := { s.mg with step := k } } { boxEvent s with kind := 7, code := k, die := firstDie s, fe := true }

/-- A step of bring-up fails (R332). -/
def bringFail (s : State) (code : Nat) : State := enterSafe s code

/-- A firmware bundle as the boot ROM reads it from the boot flash, as bytes; the spec gives what it holds, and the model its order
(R333; log 19). -/
structure Bundle where
  /-- the manifest's bytes, with the key, the SVN, and each component's length and digest -/
  manifest : List Byte
  key : List Byte
  svn : Nat
  parts : List (Nat × BitVec 512)
  sig : List Byte
  components : List (List Byte)
  deriving DecidableEq, Repr

/-- Key, SVN, three components of length, load address and digest; then the signature and the components (R333; log 19). -/
def bundleOf (b : List Byte) : Bundle :=
  let part := fun (i : Nat) => b.drop (1954 + 76 * i)
  let lens := (List.range 3).map (fun i => bytesToNat ((part i).take 4))
  ⟨b.take 2182, b.take 1952, bytesToNat ((b.drop 1952).take 2),
   (List.range 3).map (fun i => (lens.getD i 0, BitVec.ofNat 512 (bytesToNat (((part i).drop 12).take 64)))),
   (b.drop 2182).take 3309,
   (List.range 3).map (fun i => (b.drop (5491 + (lens.take i).sum)).take (lens.getD i 0))⟩

/-- The signature and digest checks of a bundle, against the fused digest of its key (R333). -/
def bundleOk (b : Bundle) (fused : List Byte) : Bool :=
  decide (natToBytes 64 (Config.shake256 b.key).toNat = fused) && Config.verifies b.key (Config.shake256 b.manifest) b.sig &&
  (b.parts.zip b.components).all (fun p => decide (Config.shake256 p.2 = p.1.2))

/-- Power-good: the steps of R332 in order, with what each finds as inputs: `a` dies that BIST cannot repair; `b` causeways
down, with those at half width from bit 22; `c` stacks failed, with the expansion ports failed from bit 16; `id` fabric ports
failed; `core` the fused minimum SVN; `die` log2 of the expansion ports in the interleave set; `bytes` the size of the smallest
expander of the set in 8 bytes, the fused digest in 64, and the firmware bundle. (R310, R332 to R334) -/
def execPowerGood (s : State) : Res :=
  let x := s.cur.x
  if s.mg.step ≠ 0 then .fault .notEnabled
  else
    let s := bringStep (bringStep s 1) 2
    let s : State := { s with mg := { s.mg with bist := x.a % 2 ^ 16 } }
    if x.a % 2 ^ 16 ≠ 0 then .next (bringFail s 1)
    else
      let s := bringStep s 3
      let m : Mgmt := { s.mg with
        cwDown := x.b % 2 ^ 22, cwHalf := bitsAt x.b 22 22, rerouted := (List.range 22).filter (bitAt x.b) }
      let s : State := { s with mg := m }
      if !((List.range 16).all (reachable s.mg.cwDown 16 [0]).contains) then .next (bringFail s 2)
      else
        let s := bringStep s 4
        let s : State := { s with mg := { s.mg with stackBad := x.c % 2 ^ 16 } }
        if x.c % 2 ^ 16 ≠ 0 then .next (bringFail s 3)
        else
          let s := bringStep s 5
          let n := bytesToNat (x.bytes.take 8)
          let m : Mgmt := { s.mg with
            expFailed := bitsAt x.c 16 8, portsFailed := x.id % 2 ^ 64, tier := min (n * 2 ^ (x.die % 4)) (tierHi - tierLo),
            tierPorts := 2 ^ (x.die % 4) }
          let s : State := { s with mg := m }
          let s := bringStep s 6
          let fused := (x.bytes.drop 8).take 64
          let b := bundleOf (x.bytes.drop 72)
          let m : Mgmt := { s.mg with
            svn := b.svn, svnMin := x.core % 2 ^ 16, bundle := x.bytes.drop 72, fused := fused, manifest := Config.shake256 b.manifest }
          let s : State := { s with mg := m }
          if !bundleOk b fused then .next (bringFail s 5)
          else if b.svn < s.mg.svnMin then .next (bringFail s 6)
          else
            let s := bringStep s 7
            .next { s with mg := { s.mg with enabled := true }, cycle := 0 }

/-- What the spills have kept of their images, and the launch records that these name (R207; log 11); none of their launches is in
flight any more. The model's counters of order go on, since the spans of an image hold values of them. -/
def keepImages (r s : State) : State :=
  { r with
    uses := s.uses
    ord := { r.ord with stamp := s.ord.stamp }
    images := s.images.map (fun im => (im.1, { im.2 with out := [] }))
    launches := s.launches.filter (fun l => s.images.any (fun im => im.2.decks.any (fun d => d.2.launch == l.1))) }

/-- The bytes that the stacks hold, without the newer ones of the L2 slices (R228). -/
def stackBytes (s : State) : State :=
  s.lines.foldl (fun t l => match l.2.below with
    | some d => memWrite t (128 * l.1) (natToBytes 128 d.toNat)
    | none => t) s

/-- Warm reset: the stacks, the second tier and host memory keep their bytes, and the save slots survive; what only the caches
hold is gone. (R337) -/
def execWarmReset (s : State) : Res :=
  let r := State.reset
  .next { keepImages r s with
    agenda := s.agenda, fresh := s.fresh, cycle := s.cycle, ticks := s.ticks, nextId := s.nextId, mem := (stackBytes s).mem
    lines := s.lines.filterMap (fun l => if l.2.poison || l.2.latent then
      some (l.1, { HomeLine.init with poison := l.2.poison, latent := l.2.latent }) else none)
    mg := { r.mg with saves := s.mg.saves, saveSeq := s.mg.saveSeq } }

/-- Cold loss of power: only host memory is kept. (R337) -/
def execColdPowerLoss (s : State) : Res :=
  .next { keepImages State.reset s with
    agenda := s.agenda, fresh := s.fresh, nextId := s.nextId, mem := s.mem.filter (fun c => isHost c.1) }

/-- The ring of die `die` is copied into the next of its two save slots, and its digest into the slot's header. (R337) -/
def execBlackBoxSave (s : State) : Res :=
  let d := s.cur.x.die
  if 16 ≤ d then .fault .notEnabled
  else
    let n := mapGet 0 s.mg.saveSeq d + 1
    .next { s with mg := { s.mg with
      saveSeq := mapPut s.mg.saveSeq d n, saves := mapPut s.mg.saves (2 * d + n % 2) (n, mapGet [] s.box d, ringDigest (mapGet [] s.box d)) } }

end Sys2Proof.Machine
end

