-- ==== Sys2Proof/Machine/Trelix.lean ====
section
/-! DEFINITION. The fabric processors: fetch, traps and halts, the Trelix instructions but for the home instructions, the
drain of a handle, and the timeouts: R359, R360, R362 to R372, R382, R386. -/

namespace Sys2Proof.Machine
open Sys2Proof

/-! ### Registers, results, traps (R362, R364) -/

def fpWho (k : Nat) : Who := .fp (k / 4) (k % 4)
def xRead (f : Fp) (r : BitVec 5) : Word64 := if r = 0 then 0 else mapGet 0 f.x r.toNat
def xWrite (f : Fp) (r : BitVec 5) (v : Word64) : Fp := if r = 0 then f else { f with x := mapSet 0 f.x r.toNat v }

/-- Run `k` on the processor whose turn it is, with its key 4·die + i and the fields of its word. -/
def withFp (s : State) (k : Nat → Fp → TFields → Res) : Res :=
  match s.cur.fp with
  | none => .fault .notEnabled
  | some i => k i (fpOf s i) (tFieldsOf (s.cur.word.setWidth 32))

/-- The instruction completes, and the processor goes on at `pc`. -/
def fpJump (s : State) (k : Nat) (f : Fp) (pc : Nat) : Res :=
  .next (dropFails (putFp s k { f with pc := pc % vaTop, wait := .none, busy := false }) (fpWho k))
def fpNext (s : State) (k : Nat) (f : Fp) : Res := fpJump s k f (f.pc + 4)

/-- The processor halts with a reason; its record is written by its next turn (R364). -/
def fpHalt (s : State) (k : Nat) (f : Fp) (reason cause code : Nat) : Res :=
  .next (dropFails (putFp s k { f with halting := some (reason, cause, code), wait := .none, busy := false }) (fpWho k))

/-- A black-box entry with the processor as its source (R336, R364). -/
def fpEvent (s : State) (k : Nat) (f : Fp) (kind code detail arg : Nat) : State :=
  record s { boxEvent s with kind, code, die := k / 4, core := 31, bay := k % 4, detail, key := f.key, arg }

/-- A trap has no handler: it is recorded, and the processor halts. The instruction has no effect. (R364) -/
def fpTrap (s : State) (k : Nat) (f : Fp) (cause arg : Nat) : Res := fpHalt (fpEvent s k f 0 cause 0 arg) k f 1 cause 0

/-- Uncorrectable data reached a `ld` or the fetch (R326). -/
def fpConsumed (s : State) (k : Nat) (f : Fp) (arg : Nat) : Res := fpHalt (fpEvent s k f 1 0x82 0 arg) k f 4 0 0

/-- An engine instruction reports a status and a value in xd (R370). -/
def fpDone (s : State) (k : Nat) (f : Fp) (xd : BitVec 5) (status value : Nat) : Res :=
  fpNext s k (xWrite f xd (BitVec.ofNat 64 (status + value % 2 ^ 32 * 2 ^ 32)))

/-- An engine instruction met uncorrectable data (R326, R370). -/
def fpPoisoned (s : State) (k : Nat) (f : Fp) (xd : BitVec 5) : Res := fpDone (fpEvent s k f 1 0x82 2 f.pc) k f xd 4 0

/-! ### Memory of a processor (R362, R368) -/

def fpXlate (s : State) (k : Nat) (f : Fp) (va kind : Nat) : Xl :=
  if inLocal va || inQuad va then .fail
  else match keyRoot s f.key with
    | none => .fail
    | some root => dieXlate s (k / 4) root f.key va kind (fpWho k)
def fpRead (s : State) (k : Nat) (f : Fp) (va n : Nat) : FabRd :=
  match keyRoot s f.key with
  | none => .fail
  | some root => fabRead s (k / 4) root f.key (fpWho k) va n
def fpWrite (s : State) (k : Nat) (f : Fp) (va : Nat) (bytes : List Byte) : FabWr :=
  match keyRoot s f.key with
  | none => .fail s
  | some root => fabWrite s (k / 4) root f.key (fpWho k) va bytes

/-- Some of the ranges (address, length, kind) has to wait; an instruction begins when none has. -/
def fpWaits (s : State) (k : Nat) (f : Fp) (rs : List (Nat × Nat × Nat)) : Option State :=
  (keyRoot s f.key).bind (fun root => fabWaits s (k / 4) root f.key (fpWho k) rs)

/-! ### Turns (R362, R364) -/

/-- The halt record is written, or given up (R364). -/
def writeHalt (s : State) (k : Nat) (f : Fp) (r : Nat × Nat × Nat) : Res :=
  let idle := fun (s : State) => dropFails (putFp s k { f with running := false, halting := none, stop := none }) (fpWho k)
  let lost := idle (fpEvent s k f 6 3 0 f.status)
  match fpXlate s k f f.status 1 with
  | .wait s => .next s
  | .fail => .next lost
  | .ok pa bar => match fabPut s (k / 4) (whoWriter s (k / 4) (fpWho k) f.status) 0 0 pa bar
        (natToBytes 8 (r.1 + r.2.1 * 2 ^ 8 + r.2.2 % 2 ^ 16 * 2 ^ 16) ++ natToBytes 8 f.pc) with
    | .ok s => .next (idle s)
    | .wait s => .next s
    | .fail _ => .next lost

/-- A turn of processor k: its halt record, or its next instruction (R362 to R364). -/
def fetchFp (s : State) (die i : Nat) : Fetched :=
  let k := 4 * die + i
  let f := fpOf s k
  if 4 ≤ i ∨ 16 ≤ die ∨ !clocked s ∨ s.mg.failedDies.contains die ∨ !f.running then .out (.fault .notEnabled)
  else match f.halting with
    | some r => .out (writeHalt s k f r)
    | none =>
      if f.stop.isSome ∧ !f.busy then .out (fpHalt s k f 2 0 0)
      else match fpXlate s k f f.pc 2 with
        | .wait s => .out (.next s)
        | .fail => .out (fpTrap s k f causePageFault f.pc)
        | .ok pa _ =>
          if dieWaits s die f.pc (pa / 128) then .out (.next s)
          else if badLine s (pa / 128) then .out (fpConsumed s k f f.pc)
          else
            let w : Word32 := BitVec.ofNat 32 (homeRead s pa 4)
            let s := homeTouch (putFp s k { f with busy := true }) (pa / 128)
            .run (decodeT w) { s with cur := { fp := some k, word := w.zeroExtend 96 } }

/-- A word with an unlisted major or fn, or a non-zero reserved field. (R364, R366) -/
def execUnlistedTrelixOpcode (s : State) : Res := withFp s fun k f _ => fpTrap s k f causeIllegal f.pc

/-! ### Integer, memory and control (R367 to R369) -/

def fpAlu (s : State) (op : Word64 → Word64 → Word64) : Res :=
  withFp s fun k f t => fpNext s k (xWrite f t.x (op (xRead f t.a) (xRead f t.b)))


/-- xd := xa + xb. (R367) -/
def execTrelixAdd (s : State) : Res := fpAlu s fun a b => a + b
/-- xd := xa - xb. (R367) -/
def execTrelixSub (s : State) : Res := fpAlu s fun a b => a - b
/-- xd := xa · xb. (R367) -/
def execTrelixMul (s : State) : Res := fpAlu s fun a b => a * b
/-- xd := xa and xb. (R367) -/
def execTrelixAnd (s : State) : Res := fpAlu s fun a b => a &&& b
/-- xd := xa or xb. (R367) -/
def execTrelixOr (s : State) : Res := fpAlu s fun a b => a ||| b
/-- xd := xa xor xb. (R367) -/
def execTrelixXor (s : State) : Res := fpAlu s fun a b => a ^^^ b
/-- Shift left. (R367) -/
def execTrelixSll (s : State) : Res := fpAlu s fun a b => a <<< (b.toNat % 64)
/-- Shift right, natural. (R367) -/
def execTrelixSrl (s : State) : Res := fpAlu s fun a b => a >>> (b.toNat % 64)
/-- Shift right, signed. (R367) -/
def execTrelixSra (s : State) : Res := fpAlu s fun a b => a.sshiftRight (b.toNat % 64)
/-- Signed less. (R367) -/
def execTrelixSlt (s : State) : Res := fpAlu s fun a b => flag64 (a.slt b)
/-- Natural less. (R367) -/
def execTrelixSltn (s : State) : Res := fpAlu s fun a b => flag64 (a.ult b)
/-- Equal. (R367) -/
def execTrelixSeq (s : State) : Res := fpAlu s fun a b => flag64 (a == b)

/-- xd := xa + sext(imm16). (R368) -/
def execTrelixAddi (s : State) : Res :=
  withFp s fun k f t => fpNext s k (xWrite f t.x (xRead f t.a + (tfImm16 t).signExtend 64))

/-- xd := (xa << 16) or zext(imm16). (R368) -/
def execTrelixSlin (s : State) : Res :=
  withFp s fun k f t => fpNext s k (xWrite f t.x ((xRead f t.a <<< 16) ||| (tfImm16 t).zeroExtend 64))

/-- The address of a `ld` or `st`. -/
def fpAddr (f : Fp) (t : TFields) : Nat := (xRead f t.a + (tfImm16 t).signExtend 64).toNat

/-- Load 8 bytes. (R326, R368) -/
def execTrelixLd (s : State) : Res :=
  withFp s fun k f t =>
    let a := fpAddr f t
    if a % 8 ≠ 0 then fpTrap s k f causeMisaligned a
    else match fpXlate s k f a 0 with
      | .wait s => .next s
      | .fail => fpTrap s k f causePageFault a
      | .ok pa _ =>
        if dieWaits s (k / 4) a (pa / 128) then .next s
        else if badLine s (pa / 128) then fpConsumed s k f a
        else fpNext (homeTouch s (pa / 128)) k (xWrite f t.x (BitVec.ofNat 64 (homeRead s pa 8)))

/-- Store 8 bytes. (R368) -/
def execTrelixSt (s : State) : Res :=
  withFp s fun k f t =>
    let a := fpAddr f t
    if a % 8 ≠ 0 then fpTrap s k f causeMisaligned a
    else match fpXlate s k f a 1 with
      | .wait s => .next s
      | .fail => fpTrap s k f causePageFault a
      | .ok pa bar =>
        match fabPut s (k / 4) (whoWriter s (k / 4) (fpWho k) a) 0 0 pa bar (natToBytes 8 (xRead f t.x).toNat) with
        | .ok s => fpNext s k f
        | .wait s => .next s
        | .fail _ => fpTrap s k f causeCounted a

/-- A branch compares [25:21] with [20:16] (R365, R369). -/
def fpBranch (s : State) (c : Word64 → Word64 → Bool) : Res :=
  withFp s fun k f t =>
    if c (xRead f t.x) (xRead f t.a) then
      fpJump s k f ((f.pc : Int) + 4 * (tfImm16 t).toInt + 2 ^ 64).toNat
    else fpNext s k f

/-- Branch if equal. (R369) -/
def execTrelixBeq (s : State) : Res := fpBranch s fun a b => a == b
/-- Branch if not equal. (R369) -/
def execTrelixBne (s : State) : Res := fpBranch s fun a b => a != b
/-- Branch if signed less. (R369) -/
def execTrelixBlt (s : State) : Res := fpBranch s fun a b => a.slt b
/-- Branch if natural less. (R369) -/
def execTrelixBltn (s : State) : Res := fpBranch s fun a b => a.ult b

/-- Jump and link. (R369) -/
def execTrelixJal (s : State) : Res :=
  withFp s fun k f t =>
    fpJump s k (xWrite f t.x (BitVec.ofNat 64 (f.pc + 4))) ((f.pc : Int) + 4 * (tfImm21 t).toInt + 2 ^ 64).toNat

/-- Jump to a register's address. (R369) -/
def execTrelixJr (s : State) : Res :=
  withFp s fun k f t =>
    let a := (xRead f t.a).toNat
    if a % 4 ≠ 0 then fpTrap s k f causeMisaligned a else fpJump s k f a

/-- End the program with a code. (R364, R369) -/
def execTrelixHalt (s : State) : Res := withFp s fun k f t => fpHalt s k f 0 0 (tfImm16 t).toNat

/-! ### Engine instructions: descriptors (R370) -/

/-- Run `run` on the `n` bytes of the descriptor in xa. -/
def withDesc (s : State) (align n : Nat) (run : State → Nat → Fp → TFields → Nat → List Byte → Res) : Res :=
  withFp s fun k f t =>
    let a := (xRead f t.a).toNat
    if a % align ≠ 0 then fpTrap s k f causeMisaligned a
    else match fpRead s k f a n with
      | .wait s => .next s
      | .fail => fpTrap s k f causePageFault a
      | .ok s bytes bad => if bad then fpPoisoned s k f t.x else run s k f t a bytes

/-- Word i of a descriptor. -/
def dWord (bytes : List Byte) (i : Nat) : Nat := bytesToNat ((bytes.drop (8 * i)).take 8)

/-- A length of R371. -/
def lengthOk (n : Nat) : Bool := n != 0 && n % 128 == 0 && decide (n ≤ 2 ^ 24)

/-- The processor waits, as `w` says, and its instruction is tried again at its next turn. -/
def fpWait (s : State) (k : Nat) (f : Fp) (w : FpWait) : Res := .next (putFp s k { f with wait := w })

/-! ### send and recv (R342, R344, R350, R371, R382) -/

/-- Send a raw chunk to a rank of a group. (R371) -/
def execTrelixSend (s : State) : Res :=
  withFp s fun k f t => match f.wait with
    | .send id => match mapFind s.fab.sends id with
      | none => fpDone s k f t.x 0 0
      | some x => if x.failed then fpDone (dropSends s [id]) k f t.x 1 0 else .next s
    | _ => withDesc s 32 32 fun s k f t _ d =>
        let w := dWord d
        let n := w 2
        if tableBad s (k / 4) (w 0 % 2 ^ 32) then fpPoisoned s k f t.x
        else match findGroup s (k / 4) (w 0 % 2 ^ 32) with
        | none => fpDone s k f t.x 8 0
        | some g =>
          let to_ := bitsAt (w 0) 32 32
          if g.state ≠ 0 then fpDone s k f t.x 1 0
          else if !lengthOk n ∨ g.size ≤ to_ then fpDone s k f t.x 8 0
          else match fpRead s k f (g.members + 4 * to_) 4 with
            | .wait s => .next s
            | .fail => fpDone s k f t.x 9 0
            | .ok s mb bad => if bad then fpPoisoned s k f t.x else match fpRead s k f (w 1) n with
              | .wait s => .next s
              | .fail => fpDone s k f t.x 9 0
              | .ok s bytes bad =>
                if bad then fpPoisoned s k f t.x
                else
                  let m := memberOf mb 0
                  let r := newSend s ⟨0, Config.package, k / 4, m.1, m.2, g.handle, f.key, g.rank, 0, w 3, g.code, 3, 0, 0, [],
                    false, false, false, 0, 0⟩ bytes none
                  fpWait r.1 k f (.send r.2)

/-- A raw chunk's bytes in order, once all are there. -/
def rawBytes (r : Raw) : Option (List Byte) :=
  if (r.parts.map (fun p => p.2.length)).sum = r.total then
    some ((packetsOf (List.replicate r.total 0)).flatMap (fun q => ((r.parts.find? (fun p => p.1 == q.1)).map Prod.snd).getD []))
  else none

/-- Receive a raw chunk. (R371, R382) -/
def execTrelixRecv (s : State) : Res :=
  withDesc s 32 40 fun s k f t _ d =>
    let w := dWord d
    let n := w 2
    let mine := fun (r : Raw) => r.die == k / 4 && r.handle == w 0 % 2 ^ 32 && r.rank == bitsAt (w 0) 32 32 && r.tag == w 3
    if tableBad s (k / 4) (w 0 % 2 ^ 32) then fpPoisoned s k f t.x
    else if !lengthOk n ∨ (findGroup s (k / 4) (w 0 % 2 ^ 32)).isNone then fpDone s k f t.x 8 0
    else match (s.fab.raws.find? mine).bind (fun r => rawBytes r) with
      | some bytes =>
        if bytes.length ≠ n then fpDone s k f t.x 8 0
        else match fpWrite s k f (w 1) bytes with
          | .wait s => .next s
          | .fail s => fpDone s k f t.x 9 0
          | .ok s => fpDone { s with fab := { s.fab with raws := s.fab.raws.filter (fun r => !mine r) } } k f t.x 0 0
      | none => match f.wait with
        | .since _ _ _ => .next s
        | _ => fpWait s k f (.since s.cycle (w 4) t.x.toNat)

/-- The row of the instruction at which a processor stands, as its code in memory holds it. -/
def fpRow (s : State) (f : Fp) : Option Instr :=
  ((keyRoot s f.key).bind (fun root => lookupVa s root f.pc)).map (fun p => decodeT (BitVec.ofNat 32 (homeRead s p.1 4)))

/-- The wait limit of an instruction of processor `a` of die `die` has run out: xd reads TIMEOUT. -/
def fpTimeout (s : State) (i : Instr) : Res :=
  let k := 4 * s.cur.x.die + s.cur.x.a
  let f := fpOf s k
  match f.wait with
  | .since t0 lim xd =>
    if lim = 0 ∨ s.cycle < t0 + lim ∨ fpRow s f ≠ some i ∨ !f.running ∨ !clocked s then .fault .notEnabled
    else fpDone s k f (BitVec.ofNat 5 xd) 2 0
  | _ => .fault .notEnabled

/-- The `recv` of processor `a` of die `die` has waited for its timeout. (R371) -/
def execRecvTimeout (s : State) : Res := fpTimeout s .trelixRecv

/-! ### The codec and the adder (R352 to R356, R371) -/

inductive TileStep where
  | ok (s : State) (n : Nat)
  | bad (s : State)
  | fault (s : State)
  deriving DecidableEq, Repr

/-- Run one tile after another, until one fails. -/
def tilesRun (n : Nat) (s : State) (one : State → Nat → TileStep) : TileStep :=
  (List.range n).foldl (fun r j => match r with
    | .ok s c => match one s j with
      | .ok s d => .ok s (c + d)
      | r => r
    | r => r) (.ok s 0)

/-- The end of an instruction that runs over tiles. -/
def tilesDone (k : Nat) (f : Fp) (xd : BitVec 5) (value : Nat → Nat) : TileStep → Res
  | .ok s n => fpDone s k f xd 0 (value n)
  | .bad s => fpPoisoned s k f xd
  | .fault s => fpDone s k f xd 9 0

/-- Read `n` bytes, then go on. -/
def tileRead (s : State) (k : Nat) (f : Fp) (va n : Nat) (go : State → List Byte → TileStep) : TileStep :=
  match fpRead s k f va n with
  | .ok s bytes bad => if bad then .bad s else go s bytes
  | _ => .fault s
def tileWrite (s : State) (k : Nat) (f : Fp) (va : Nat) (bytes : List Byte) (go : State → TileStep) : TileStep :=
  match fpWrite s k f va bytes with
  | .ok s => go s
  | .wait s => .fault s
  | .fail s => .fault s

/-- NaN blocks of an encoding are counted by the die's groups in use whose key, tensor and residual object it names (R343,
R355; log 61). -/
def countNans (s : State) (die key tensor obj n : Nat) : State :=
  if n = 0 then s
  else ((groupsOf s die).filter (fun g => g.state != 2 && g.key == key && g.tensor == tensor && g.resid == obj)).foldl
    (fun t g => raiseCount t g 0x50 n) s

/-- Encode FP32 tiles, with their residuals. (R352 to R355, R371) -/
def execTrelixEnc (s : State) : Res :=
  withDesc s 32 48 fun s k f t _ d =>
    let w := dWord d
    let n := bitsAt (w 4) 48 16
    let c := codeOfField (w 0)
    let obj := w 3
    if obj % 4096 ≠ 0 then fpTrap s k f causeMisaligned obj
    else if (w 0 ≠ 1 ∧ w 0 ≠ 2) ∨ n = 0 ∨ 1024 < n then fpDone s k f t.x 8 0
    else match fpWaits s k f [(w 1, 16384 * n, 0), (w 2, tileBytes c * n, 1), (obj, 1, 1)] with
      | some s => .next s
      | none => match keyRoot s f.key with
        | none => fpTrap s k f causePageFault obj
        | some root => match residAt s (k / 4) root f.key (fpWho k) obj
            ((List.range n).map (fun j => (w 4 % 2 ^ 32, (bitsAt (w 4) 32 16 + j) % 2 ^ 16, bitsAt (w 5) 0 16))) true with
          | .wait s => .next s
          | .fail => fpTrap s k f causePageFault obj
          | .bad => fpPoisoned s k f t.x
          | .ok s _ => tilesDone k f t.x (fun _ => 0) (tilesRun n s fun s j =>
              let key := (w 4 % 2 ^ 32, (bitsAt (w 4) 32 16 + j) % 2 ^ 16, bitsAt (w 5) 0 16)
              tileRead s k f (w 1 + 16384 * j) 16384 fun s src =>
                match s.fab.resid.find? (fun o => o.root == root && o.va == obj) with
                | none => .fault s
                | some o =>
                  let r := residTile s o key
                  let e := encodeTile c (addTiles (f32sOf src 4096) r.2)
                  tileWrite r.1 k f (w 2 + tileBytes c * j) e.1 fun s =>
                    .ok (countNans (putResid s (residPut o key e.2.1)) (k / 4) f.key key.1 obj e.2.2) 0)

/-- Decode coded tiles. (R352, R371) -/
def execTrelixDec (s : State) : Res :=
  withDesc s 32 40 fun s k f t _ d =>
    let w := dWord d
    let n := bitsAt (w 4) 48 16
    let c := codeOfField (w 0)
    if (w 0 ≠ 1 ∧ w 0 ≠ 2) ∨ n = 0 ∨ 1024 < n then fpDone s k f t.x 8 0
    else match fpWaits s k f [(w 1, tileBytes c * n, 0), (w 2, 16384 * n, 1)] with
      | some s => .next s
      | none => tilesDone k f t.x id (tilesRun n s fun s j =>
          tileRead s k f (w 1 + tileBytes c * j) (tileBytes c) fun s src =>
            let r := decodeTile c src 128
            tileWrite s k f (w 2 + 16384 * j) (bytesOfF32s r.1) fun s => .ok s r.2)

/-- Add source tiles into a destination. (R371) -/
def execTrelixSadd (s : State) : Res :=
  withDesc s 32 88 fun s k f t _ d =>
    let w := dWord d
    let n := w 1
    let m := w 10
    if n = 0 ∨ 8 < n ∨ m = 0 ∨ 1024 < m then fpDone s k f t.x 8 0
    else match fpWaits s k f ((w 0, 16384 * m, 1) :: (List.range n).map (fun j => (w (2 + j), 16384 * m, 0))) with
      | some s => .next s
      | none => tilesDone k f t.x (fun _ => 0) (tilesRun m s fun s i =>
          tileRead s k f (w 0 + 16384 * i) 16384 fun s dst =>
            let sum := (List.range n).foldl (fun (r : Option (List Nat) × Bool) j => match r.1 with
              | none => r
              | some acc => match fpRead s k f (w (2 + j) + 16384 * i) 16384 with
                | .ok _ src bad => if bad then (none, true) else (some (addTiles acc (f32sOf src 4096)), false)
                | _ => (none, false)) (some (f32sOf dst 4096), false)
            match sum with
            | (some acc, _) => tileWrite s k f (w 0 + 16384 * i) (bytesOfF32s acc) fun s => .ok s 0
            | (none, true) => .bad s
            | (none, false) => .fault s)

/-! ### Residual objects (R358, R371) -/

/-- Run `run` on the residual object at `obj`, for the tiles of some keys. -/
def withResid (s : State) (k : Nat) (f : Fp) (xd : BitVec 5) (obj : Nat) (ks : List (Nat × Nat × Nat)) (rd : Bool)
    (run : State → ResObj → Res) : Res :=
  match keyRoot s f.key with
  | none => fpTrap s k f causePageFault obj
  | some root => match residAt s (k / 4) root f.key (fpWho k) obj ks rd with
    | .wait s => .next s
    | .fail => fpTrap s k f causePageFault obj
    | .bad => fpPoisoned s k f xd
    | .ok s o => run s o

/-- Entries that have started and have a compression in the object still to make (R371; log 79). -/
def compressesIn (s : State) (root obj : Nat) : Bool :=
  s.fab.entries.any (fun e => e.2.root == root && e.2.resid == obj && compressing e.2)

/-- Run `run` on the object once its compressions in progress have ended; entries that use it do not start meanwhile (R371). -/
def withIdleResid (s : State) (k : Nat) (f : Fp) (xd : BitVec 5) (obj : Nat) (rd : Bool) (run : State → ResObj → Res) : Res :=
  match keyRoot s f.key with
  | none => fpTrap s k f causePageFault obj
  | some root =>
    if compressesIn s root obj then fpWait s k f (.save obj) else withResid s k f xd obj (residKeys s root obj) rd run

/-- The key that `rld` and `rst` name. -/
def residOfWord (w : Nat) : Nat × Nat × Nat := (w % 2 ^ 32, bitsAt w 32 16, bitsAt w 48 16)

/-- Read one residual tile. (R371) -/
def execTrelixRld (s : State) : Res :=
  withDesc s 32 24 fun s k f t _ d =>
    let w := dWord d
    if w 0 % 4096 ≠ 0 then fpTrap s k f causeMisaligned (w 0)
    else withResid s k f t.x (w 0) [residOfWord (w 1)] true fun s o =>
      let r := residTile s o (residOfWord (w 1))
      match fpWrite r.1 k f (w 2) (bytesOfF32s r.2) with
      | .wait s => .next s
      | .fail s => fpDone s k f t.x 9 0
      | .ok s => fpDone s k f t.x 0 0

/-- Write one residual tile. (R371) -/
def execTrelixRst (s : State) : Res :=
  withDesc s 32 24 fun s k f t _ d =>
    let w := dWord d
    if w 0 % 4096 ≠ 0 then fpTrap s k f causeMisaligned (w 0)
    else withResid s k f t.x (w 0) [residOfWord (w 1)] false fun s o => match fpRead s k f (w 2) 16384 with
      | .wait s => .next s
      | .fail => fpDone s k f t.x 9 0
      | .ok s src bad =>
        if bad then fpPoisoned s k f t.x
        else fpDone (putResid s (residPut o (residOfWord (w 1)) (f32sOf src 4096))) k f t.x 0 0

/-- The tiles of an object, the open ones with free values. -/
def residAll (s : State) (o : ResObj) : State × List (List Nat) :=
  o.tiles.foldl (fun r x => let y := residTile r.1 o x.1
    (y.1, r.2 ++ [y.2])) (s, [])

/-- Save an object to an image. (R371) -/
def execTrelixRsave (s : State) : Res :=
  withFp s fun k f t =>
    let obj := (xRead f t.a).toNat
    if obj % 4096 ≠ 0 then fpTrap s k f causeMisaligned obj
    else withIdleResid s k f t.x obj true fun s o =>
      let r := residAll s o
      let bytes := natToBytes 8 o.tiles.length ++
        o.tiles.flatMap (fun x => natToBytes 16 (x.1.1 + x.1.2.1 * 2 ^ 32 + x.1.2.2 * 2 ^ 48)) ++ r.2.flatMap bytesOfF32s
      match fpWrite r.1 k f (xRead f t.b).toNat bytes with
      | .wait s => .next s
      | .fail s => fpDone s k f t.x 9 0
      | .ok s => fpDone s k f t.x 0 0

/-- Replace an object's contents with an image. (R371) -/
def execTrelixRload (s : State) : Res :=
  withFp s fun k f t =>
    let obj := (xRead f t.a).toNat
    let img := (xRead f t.b).toNat
    if obj % 4096 ≠ 0 then fpTrap s k f causeMisaligned obj
    else withIdleResid s k f t.x obj false fun s _ => match fpRead s k f img 8 with
      | .wait s => .next s
      | .fail => fpDone s k f t.x 9 0
      | .ok s nb bad =>
        let n := bytesToNat nb
        if bad then fpPoisoned s k f t.x
        else if 2 ^ 26 < n then fpDone s k f t.x 8 0
        else match fpRead s k f (img + 8) (16400 * n) with
          | .wait s => .next s
          | .fail => fpDone s k f t.x 9 0
          | .ok s b bad =>
            if bad then fpPoisoned s k f t.x
            else
              let keys := (List.range n).map (fun i => residOfWord (bytesToNat ((b.drop (16 * i)).take 8)))
              withResid s k f t.x obj keys false fun s o =>
                let tiles := (List.range n).map (fun i =>
                (residOfWord (bytesToNat ((b.drop (16 * i)).take 8)),
                  some ((f32sOf (b.drop (16 * n + 16384 * i)) 4096).map (BitVec.ofNat 32))))
              fpDone (putResid s { o with tiles := tiles, open_ := false, bad := [] }) k f t.x 0 0

/-! ### Groups (R343, R359, R360, R372, R386) -/

/-- A template with a field that breaks R343; bits that the layout lists in no field are not looked at (log 64). -/
def templateBad (w : Nat → Nat) (g : Group) : Bool :=
  g.state == 3 || decide (2 < g.code) || decide (g.k < 2) || decide (8 < g.k) || g.handle == 0 || g.size == 0 || decide (32768 < g.size) ||
  decide (g.size ≤ g.rank) || g.dest % 128 != 0 || g.bound == 0 || decide (10000000 < g.bound) || g.resid % 4096 != 0 ||
  bitsAt (w 0) 32 20 != 0 || bitsAt (w 1) 48 16 != 0 || (List.range 5).any (fun i => w (11 + i) != 0)

/-- Create a group descriptor in the die's lowest free entry. (R372, R386) -/
def execTrelixGnew (s : State) : Res :=
  withDesc s 32 128 fun s k f t _ d =>
    let die := k / 4
    let w := dWord d
    let g := groupOfWords 0 w
    let base := groupTable s die
    let free := (List.range 1024).find? (fun i =>
      let w0 := homeRead s (base + 128 * i) 8
      !bitAt w0 63 || bitsAt w0 61 2 == 2)
    if tableBad s die g.handle then fpPoisoned s k f t.x else
    match free with
    | none => fpDone s k f t.x 8 0
    | some i =>
      if base = 0 ∨ (findGroup s die g.handle).isSome ∨ templateBad w g then fpDone s k f t.x 8 0
      else match fpRead s k f g.members (4 * g.size) with
      | .wait s => .next s
      | .fail => fpDone s k f t.x 9 0
      | .ok s mb bad =>
        if bad then fpPoisoned s k f t.x
        else if (List.range g.size).any (fun i => bitsAt (bytesToNat ((mb.drop (4 * i)).take 4)) 15 17 != 0) then fpDone s k f t.x 8 0
        else
          let words := (List.range 16).map (fun j =>
            if j = 0 then w 0 % 2 ^ 61 + 2 ^ 63 else if 8 ≤ j ∧ j < 11 then 0 else w j)
          let s : State := { s with fab := { s.fab with opens := s.fab.opens.filter (fun x => x != base + 128 * i) } }
          fpDone (homeWrite s (base + 128 * i) (words.flatMap (natToBytes 8))) k f t.x 0 0

/-- Retire a handle on this die. (R359, R372) -/
def execTrelixGret (s : State) : Res :=
  withFp s fun k f t =>
    let die := k / 4
    let h := (xRead f t.a).toNat
    match f.wait with
    | .drain id => match mapFind s.fab.drains id with
      | none => fpDone s k f t.x 0 0
      | some x =>
        if x.st = 0 ∨ x.st = 3 then .next s
        else fpDone { s with fab := { s.fab with drains := mapDel s.fab.drains id } } k f t.x (if x.st = 1 then 0 else 4) 0
    | _ => if tableBad s die h then fpPoisoned s k f t.x else match findGroup s die h with
      | none => fpDone s k f t.x 8 0
      | some g =>
        let s := setGroupState s g 1
        let x : Drain := ⟨die, h, s.ticks + 100 * g.bound, k, 0⟩
        fpWait { s with nextId := s.nextId + 1, fab := { s.fab with drains := mapPut s.fab.drains s.nextId x } } k f
          (.drain s.nextId)

/-- The residual keys that a handle holds on a die: those of its tensor in its object (R357, R360). -/
def oldKeys (o : ResObj) (g : Group) : List (Nat × Nat × Nat) := (o.tiles.map Prod.fst).filter (fun x => x.1 == g.tensor)

/-- The keys of one tile index, the leaf first, then by hop position. -/
def keysOfTile (l : List (Nat × Nat × Nat)) (t : Nat) : List (Nat × Nat × Nat) :=
  (l.filter (fun x => x.2.1 == t && x.2.2 == leafHop)) ++
    sortBy (fun x => x.2.2) (l.filter (fun x => x.2.1 == t && x.2.2 != leafHop))

/-- The sum of a tile's residuals is added into the successor's leaf key (R360). -/
def remapTile (s : State) (o o2 : ResObj) (l : List (Nat × Nat × Nat)) (g2 : Group) (t : Nat) : State :=
  let sum := (keysOfTile l t).foldl (fun (r : State × Option (List Nat)) x =>
    let y := residTile r.1 o x
    (y.1, some (match r.2 with
      | none => y.2
      | some a => addTiles a y.2))) (s, none)
  match sum.2 with
  | none => sum.1
  | some v =>
    let o2 := (sum.1.fab.resid.find? (fun x => x.root == o2.root && x.va == o2.va)).getD o2
    let key := (g2.tensor, t, leafHop)
    let y := residTile sum.1 o2 key
    putResid y.1 (residPut o2 key (addTiles y.2 v))

/-- What a retirement may need: the pages of both objects are mapped (R358, R360). -/
inductive Policy where
  | ok (s : State)
  | wait (s : State)
  deriving DecidableEq, Repr

/-- The policy of a group that is retired is applied to its residuals (R360); those that can be reached no more are discarded (log 17). -/
def applyPolicy (s : State) (die id : Nat) (g : Group) : Policy :=
  match keyRoot s g.key with
  | none => .ok s
  | some root => match s.fab.resid.find? (fun o => o.root == root && o.va == g.resid) with
    | none => .ok s
    | some o =>
      let l := oldKeys o g
      let freed := fun (s : State) => match s.fab.resid.find? (fun x => x.root == root && x.va == g.resid) with
        | some x => putResid s { x with tiles := x.tiles.filter (fun y => !(l.contains y.1)) }
        | none => s
      let gone := raiseCount (freed s) g 0x48 l.length
      match (if g.discard then none else (groupsOf s die).find? (fun x => x.pred == g.handle && x.state != 2)) with
      | none => .ok gone
      | some g2 =>
        let ts := (l.map (fun x => x.2.1)).dedup
        match residAt s die root g.key (.fabric id) g.resid l true with
        | .wait s => .wait s
        | .ok s _ => match residAt s die root g.key (.fabric id) g2.resid (ts.map (fun t => (g2.tensor, t, leafHop))) true with
          | .wait s => .wait s
          | .ok s o2 => .ok (ts.foldl (fun t i => remapTile t o o2 l g2 i) (freed s))
          | _ => .ok gone
        | _ => .ok gone

/-- The handle is retired on the die (R359), once the pages that its policy needs are mapped. -/
def endDrain (s : State) (id : Nat) (x : Drain) (st : Nat) : State :=
  let r := match findGroup s x.die x.handle with
    | none => Policy.ok s
    | some g => applyPolicy (setGroupState s g 2) x.die id g
  match r with
  | .wait t =>
    -- the descriptor stays draining until the policy is applied
    match findGroup s x.die x.handle with
    | some g => setGroupState { t with fab := { t.fab with drains := mapPut t.fab.drains id { x with st := if st = 2 then 3 else x.st } } } g g.state
    | none => t
  | .ok s => dropFails { s with fab := { s.fab with drains := mapPut s.fab.drains id { x with st } } } (.fabric id)

/-- The die holds an open chunk of the handle, an unacknowledged send, or an entry that started earlier and completes under the
old descriptor (R359). -/
def drainBusy (s : State) (x : Drain) : Bool :=
  s.fab.entries.any (fun e => e.2.die == x.die && e.2.handle == x.handle) ||
  s.fab.chunks.any (fun c => c.2.die == x.die && c.2.handle == x.handle) ||
  s.fab.sends.any (fun y => y.2.die == x.die && y.2.handle == x.handle && !y.2.failed)

/-- Drain `id` ends: nothing of the handle is open on the die. (R359, R360) -/
def execDrainEnd (s : State) : Res :=
  match mapFind s.fab.drains s.cur.x.id with
  | none => .fault .notEnabled
  | some x =>
    if x.st = 3 then .next (endDrain s s.cur.x.id x 2)
    else if x.st ≠ 0 ∨ drainBusy s x then .fault .notEnabled
    else .next (endDrain s s.cur.x.id x 1)

/-- The bound of drain `id` runs out: open chunks and unacknowledged sends of the handle fail. (R359, R360) -/
def execDrainBoundExpire (s : State) : Res :=
  match mapFind s.fab.drains s.cur.x.id with
  | none => .fault .notEnabled
  | some x =>
    if x.st ≠ 0 ∨ s.ticks < x.due then .fault .notEnabled
    else
      let s := (s.fab.entries.filter (fun e => e.2.die == x.die && e.2.handle == x.handle)).foldl (fun t e => failEntry t e.2) s
      let s : State := { s with fab := { s.fab with
        chunks := s.fab.chunks.filter (fun c => !(c.2.die == x.die && c.2.handle == x.handle))
        sends := s.fab.sends.map (fun y => if y.2.die = x.die ∧ y.2.handle = x.handle then (y.1, { y.2 with failed := true }) else y)
        pkts := s.fab.pkts.filter (fun p => !(p.2.srcDie == x.die && p.2.srcPkg == Config.package && p.2.handle == x.handle)) } }
      .next (endDrain s s.cur.x.id x 2)

/-- Add or clear remote waiters of a sync object. (R267, R361, R372) -/
def execTrelixGwatch (s : State) : Res :=
  withFp s fun k f t =>
    let a := (xRead f t.a).toNat
    let b := xRead f t.b
    if a % 16 ≠ 0 then fpTrap s k f causeMisaligned a
    else match fpXlate s k f a 1 with
      | .wait s => .next s
      | .fail => fpTrap s k f causePageFault a
      | .ok pa bar =>
        let l := mapGet [] s.fab.watch pa
        let p := b.toNat % 2 ^ 11
        let w := whoWriter s (k / 4) (fpWho k) a
        let put := fun (l : List Nat) => { s with fab := { s.fab with watch := mapSet [] s.fab.watch pa l } }
        if bar ∨ !isHbm pa ∨ dieOfPa pa ≠ k / 4 then fpDone s k f t.x 8 0
        else if (homeOf s (pa / 128)).counted then fpDone s k f t.x 9 0
        else if dieWaits s (k / 4) a (pa / 128) then .next s
        else if b = BitVec.allOnes 64 then fpDone (setWaiter (put []) w pa 1 false) k f t.x 0 0
        else if l.contains p then fpDone (setWaiter s w pa 1 true) k f t.x 0 0
        else if 64 ≤ l.length then fpDone s k f t.x 8 0
        else fpDone (setWaiter (put (l ++ [p])) w pa 1 true) k f t.x 0 0

/-! ### Barriers (R191, R193, R372) -/

/-- Run `run` on the global barrier in xa; BAD where there is none. -/
def withBarrier (s : State) (kind : Nat) (run : Nat → Fp → TFields → Nat → Res) : Res :=
  withFp s fun k f t =>
    let a := (xRead f t.a).toNat
    if a % 32 ≠ 0 then fpTrap s k f causeMisaligned a
    else if inLocal a ∨ inQuad a then fpDone s k f t.x 8 0
    else match fpXlate s k f a kind with
      | .wait s => .next s
      | .fail => fpTrap s k f causePageFault a
      | .ok pa bar => if isHbm pa ∧ routeWaits s (k / 4) (dieOfPa pa) then .next s else if !bar ∨ !isHbm pa ∨ !(readBar s (.mem pa)).valid then fpDone s k f t.x 8 0 else run k f t pa

/-- Wait for a barrier phase, with a limit in units of 1,024 cycles. (R193, R372) -/
def execTrelixBwait (s : State) : Res :=
  withBarrier s 0 fun k f t pa =>
    let lim := 1024 * t.low.toNat
    match waitStatus (readBar s (.mem pa)) ((xRead f t.b).toNat % 2 ^ 32) with
    | some st =>
      let s := if st = 0 ∨ st = 4 ∨ st = 5 then learn s (fpAgent k) (mapGet ([], []) s.ord.bars (barKey (.mem pa))).2 else s
      fpDone s k f t.x st 0
    | none => match f.wait with
      | .since t0 _ _ => if lim ≠ 0 ∧ t0 + lim ≤ s.cycle then fpDone s k f t.x 2 0 else .next s
      | _ => fpWait s k f (.since s.cycle lim t.x.toNat)

/-- Arrive at a barrier with xb lanes. (R191, R372) -/
def execTrelixBarr (s : State) : Res :=
  withBarrier s 1 fun k f t pa =>
    let n := (xRead f t.b).toNat
    if n = 0 ∨ 2 ^ 24 ≤ n then fpDone s k f t.x 8 0
    else
      let h := publish s (fpAgent k)
      fpDone (writeBar (coverPhase h.1 (barKey (.mem pa)) h.2) (.mem pa) (barArrive (readBar s (.mem pa)) n)) k f t.x 0 0

/-- Land xb bytes on a barrier. (R191, R372) -/
def execTrelixBland (s : State) : Res :=
  withBarrier s 1 fun k f t pa =>
    let n := (xRead f t.b).toNat
    if 2 ^ 40 ≤ n then fpDone s k f t.x 8 0
    else
      let h := publish s (fpAgent k)
      fpDone (writeBar (coverPhase h.1 (barKey (.mem pa)) h.2) (.mem pa) (barLand (readBar s (.mem pa)) n false)) k f t.x 0 0

end Sys2Proof.Machine
end

