-- ==== Sys2Proof/Machine/Homes.lean ====
section
/-! DEFINITION. Parameter homes and weight fetches: R373 to R380. -/

namespace Sys2Proof.Machine
open Sys2Proof

/-! ### The home descriptor (R373) -/

structure HomeDesc where
  valid : Bool
  /-- 0 idle, 1 open, 2 ready -/
  state : Nat
  rule : Nat
  c : Nat
  step : Nat
  nb : Nat
  images : List Nat
  buffers : List Nat
  params : Nat
  slot : BitVec 128
  handle : Nat
  dups : Nat
  late : Nat
  held : Nat
  received : Nat
  deriving DecidableEq, Repr

def homeOfBytes (b : List Byte) : HomeDesc :=
  let w := dWord b
  { valid := bitAt (w 0) 63, state := bitsAt (w 0) 61 2, rule := bitsAt (w 0) 56 4, c := bitsAt (w 0) 0 32,
    step := bitsAt (w 1) 0 32, nb := bitsAt (w 1) 32 16, images := [w 2, w 3], buffers := [w 4, w 5, w 6], params := w 7,
    slot := BitVec.ofNat 128 (w 8 + w 9 * 2 ^ 64), handle := bitsAt (w 10) 0 32, dups := w 11, late := w 12,
    held := bitsAt (w 15) 32 3, received := bytesToNat ((b.drop 0x200).take 512) }

/-- A slot that suits a home (R22, R373): f32 to bf16, f8a or f8b. -/
def homeSlotOk (f : BitVec 128) : Bool :=
  !slotReserved f && tyOfCode (fsA f) == .f32 && [Ty.bf16, Ty.f8a, Ty.f8b].contains (tyOfCode (fsB f))

/-- Bytes of an encoded block (R376, R379). -/
def weightBytes (f : BitVec 128) : Nat := if tyOfCode (fsB f) = .bf16 then 8192 else 4224

/-- A home instruction: its descriptor is read, and may be written. `run` has the bytes. -/
def withHome (s : State) (run : State → Nat → Fp → TFields → Nat → List Byte → HomeDesc → Res) : Res :=
  withDesc s 32 1024 fun s k f t a b =>
    match fpWaits s k f [(a, 1024, 1)] with
    | some s => .next s
    | none => match fpXlate s k f a 1, fpXlate s k f (a + 1023) 1 with
      | .ok pa _, .ok pb _ => if isHbm pa ∧ isHbm pb then run s k f t a b (homeOfBytes b) else fpDone s k f t.x 8 0
      | _, _ => fpTrap s k f causePageFault a

/-- Some words of the descriptor change (offset and value), and perhaps its received bits; then the instruction reports. -/
def homeDone (s : State) (k : Nat) (f : Fp) (xd : BitVec 5) (a : Nat) (ws : List (Nat × Nat)) (received : Option Nat)
    (status value : Nat) : Res :=
  let put := fun (r : State × Bool) (p : Nat × List Byte) => match fpWrite r.1 k f (a + p.1) p.2 with
    | .ok s => (s, r.2)
    | .wait s => (s, false)
    | .fail s => (s, false)
  let r := ((ws.map (fun w => (w.1, natToBytes 8 w.2))) ++ (match received with
    | some x => [(0x200, natToBytes 512 x)]
    | none => [])).foldl put (s, true)
  if r.2 then fpDone r.1 k f xd status value else fpDone r.1 k f xd 9 0

/-- Word 0x00 with another state and committed step. -/
def homeWord0 (w0 state c : Nat) : Nat := w0 - bitsAt w0 61 2 * 2 ^ 61 - bitsAt w0 0 32 + state * 2 ^ 61 + c

/-- The parameters that `hopen` copied for a home (R374), by the home's physical address. -/
def homePa (s : State) (k : Nat) (f : Fp) (a : Nat) : Nat :=
  match fpXlate s k f a 0 with
  | .ok pa _ => pa
  | _ => 0

/-- Open a parameter-home step. (R374, R375) -/
def execTrelixHopen (s : State) : Res :=
  withHome s fun s k f t a b h =>
    let x := (xRead f t.b).toNat % 2 ^ 32
    if h.state ≠ 0 ∨ !h.valid ∨ 1 < h.rule ∨ !homeSlotOk h.slot ∨ h.nb = 0 ∨ 4096 < h.nb ∨ x ≠ (h.c + 1) % 2 ^ 32 then
      fpDone s k f t.x 8 0
    else match fpRead s k f h.params 36 with
      | .wait s => .next s
      | .fail => fpDone s k f t.x 9 0
      | .ok s ps bad =>
        if bad then fpPoisoned s k f t.x
        else
          let pars : List Word32 := (f32sOf ps 9).map (BitVec.ofNat 32)
          let s := { s with fab := { s.fab with params := mapPut s.fab.params (homePa s k f a) pars } }
          let w15 := dWord b 15
          let held := w15 - (if bitAt h.held (x % 3) then 2 ^ (32 + x % 3) else 0)
          homeDone s k f t.x a [(0, homeWord0 (dWord b 0) 1 h.c), (8, dWord b 1 - h.step + x), (0x78, held)] (some 0) 0 0

/-! ### The rules (R377) -/

def rAdd (x y : Nat) : Nat := fAdd fmtF32 .rne x y
def rSub (x y : Nat) : Nat := fSub fmtF32 .rne x y
def rMul (x y : Nat) : Nat := fMul fmtF32 .rne x y

/-- One element: w, m and v from g, by the rule and the nine parameters (R374, R377). -/
def homeRule (rule : Nat) (p : List Nat) (g w m v : Nat) : Nat × Nat × Nat :=
  let at_ := fun i => p.getD i 0
  let eta := at_ 0
  let lam := at_ 1
  if rule = 0 then
    let g1 := rAdd g (rMul lam w)
    let m := rAdd (rMul (at_ 2) m) g1
    (rSub w (rMul eta m), m, v)
  else
    let m := rAdd (rMul (at_ 2) m) (rMul (at_ 7) g)
    let v := rAdd (rMul (at_ 3) v) (rMul (at_ 8) (rMul g g))
    let d := rAdd (fSqrt fmtF32 .rne (rMul (at_ 6) v)) (at_ 4)
    let q := rAdd (fDiv fmtF32 .rne (rMul (at_ 5) m) d) (rMul lam w)
    (rSub w (rMul eta q), m, v)

/-- The encoded weights of block b at step s (R20, R376). -/
def homeWeights (f : BitVec 128) (step b : Nat) (ws : List Nat) : List Byte :=
  let rms := fun i => rmOf (fsRm f) (fsSeed f) step (b * 4096 + i)
  let vals := ws.map (decodeF fmtF32)
  match tyOfCode (fsB f) with
  | .bf16 => vals.zipIdx.flatMap (fun x => natToBytes 2 (encodeTy .bf16 (rms x.2) (fsE5 f) x.1))
  | t => (List.range 128).flatMap (fun j =>
      let e := mxEncode t (fsE5 f) (fun i => rms (32 * j + i)) ((vals.drop (32 * j)).take 32)
      e.1.flatMap (natToBytes 1) ++ natToBytes 1 e.2)

/-- Several writes of one instruction, in order, until one fails. -/
def writesRun (s : State) (k : Nat) (f : Fp) (ws : List (Nat × List Byte)) : State × Bool :=
  ws.foldl (fun r w => if r.2 then match fpWrite r.1 k f w.1 w.2 with
    | .ok s => (s, true)
    | .wait s => (s, false)
    | .fail s => (s, false) else r) (s, true)

/-- The update of a block with a tile (R376). -/
def applyTile (s : State) (k : Nat) (f : Fp) (t : TFields) (a : Nat) (h : HomeDesc) (b : Nat) (tile : List Word32)
    (take : State → State) : Res :=
  let img := fun (n : Nat) => h.images.getD (n % 2) 0 + 49152 * b
  let old := img h.c
  let new := img (h.c + 1)
  let buf := h.buffers.getD (h.step % 3) 0 + 16384 * b
  match fpWaits s k f [(old, 49152, 0), (new, if h.rule = 0 then 32768 else 49152, 1), (buf, weightBytes h.slot, 1)] with
  | some s => .next s
  | none => match fpRead s k f old 49152 with
    | .wait s => .next s
    | .fail => fpDone s k f t.x 9 b
    | .ok s bytes bad =>
      if bad then fpPoisoned s k f t.x
      else
        let p := (mapGet [] s.fab.params (homePa s k f a)).map BitVec.toNat
        let at_ := fun o i => bytesToNat ((bytes.drop (16384 * o + 4 * i)).take 4)
        let rs := tile.zipIdx.map (fun x => homeRule h.rule p x.1.toNat (at_ 0 x.2) (at_ 1 x.2) (at_ 2 x.2))
        let ws := [(new, bytesOfF32s (rs.map (fun r => r.1))), (new + 16384, bytesOfF32s (rs.map (fun r => r.2.1)))] ++
          (if h.rule = 0 then [] else [(new + 32768, bytesOfF32s (rs.map (fun r => r.2.2)))]) ++
          [(buf, homeWeights h.slot h.step b (rs.map (fun r => r.1)))]
        match writesRun s k f ws with
        | (s, false) => fpDone s k f t.x 9 b
        | (s, true) => homeDone (take s) k f t.x a [] (some (h.received ||| 2 ^ b)) 0 b

/-- Apply the optimiser to the oldest inbox tile. (R375 to R377) -/
def execTrelixUpd (s : State) : Res :=
  withHome s fun s k f t a _ h =>
    if h.state ≠ 1 ∧ h.state ≠ 2 then fpDone s k f t.x 8 0
    else
      let key := inboxKey h.handle (k / 4)
      match mapGet [] s.fab.inbox key with
      | [] => match f.wait with
        | .since _ _ _ => .next s
        | _ => fpWait s k f (.since s.cycle (xRead f t.b).toNat t.x.toNat)
      | (blk, tag, tile) :: rest =>
        let take := fun (s : State) => { s with fab := { s.fab with inbox := mapSet [] s.fab.inbox key rest } }
        if tag ≠ h.step % 2 ^ 16 then homeDone (take s) k f t.x a [(0x60, (h.late + 1) % 2 ^ 64)] none 11 blk
        else if 4096 ≤ blk ∨ h.nb ≤ blk then fpDone s k f t.x 8 0
        else if bitAt h.received blk then homeDone (take s) k f t.x a [(0x58, (h.dups + 1) % 2 ^ 64)] none 10 blk
        else applyTile s k f t a h blk tile take

/-- The `upd` of processor `a` of die `die` has waited for its limit. (R375) -/
def execUpdTimeout (s : State) : Res := fpTimeout s .trelixUpd

/-- Close a home step if all blocks are received. (R375) -/
def execTrelixHclose (s : State) : Res :=
  withHome s fun s k f t a b h =>
    let x := (xRead f t.b).toNat % 2 ^ 32
    if (h.state ≠ 1 ∧ h.state ≠ 2) ∨ x ≠ h.step then fpDone s k f t.x 8 0
    else
      let missing := ((List.range h.nb).filter (fun i => !bitAt h.received i)).length
      if missing = 0 then homeDone s k f t.x a [(0, homeWord0 (dWord b 0) 2 h.c), (0x68, 0)] none 0 0
      else homeDone s k f t.x a [(0x68, missing)] none 12 missing

/-- Commit a ready home step. (R375, R378) -/
def execTrelixHcommit (s : State) : Res :=
  withHome s fun s k f t a b h =>
    let x := (xRead f t.b).toNat % 2 ^ 32
    if h.state ≠ 2 ∨ x ≠ h.step then fpDone s k f t.x 8 0
    else
      let i := x % 3
      let w14 := dWord b 14
      let w15 := dWord b 15 + (if bitAt h.held i then 0 else 2 ^ (32 + i))
      let w14' := if i = 0 then w14 / 2 ^ 32 * 2 ^ 32 + x else if i = 1 then w14 % 2 ^ 32 + x * 2 ^ 32 else w14
      let w15' := if i = 2 then w15 / 2 ^ 32 * 2 ^ 32 + x else w15
      homeDone s k f t.x a [(0, homeWord0 (dWord b 0) 0 x), (0x70, w14'), (0x78, w15')] none 0 0

/-- Abort an open or ready home step. (R375) -/
def execTrelixHabort (s : State) : Res :=
  withHome s fun s k f t a b h =>
    let x := (xRead f t.b).toNat % 2 ^ 32
    if h.state = 0 then fpDone s k f t.x 0 0
    else if h.state = 3 ∨ x ≠ h.step then fpDone s k f t.x 8 0
    else homeDone s k f t.x a [(0, homeWord0 (dWord b 0) 0 h.c)] (some 0) 0 0

/-! ### Weight fetches (R378 to R380) -/

/-- The barrier that a fetch names, 0 for none: BAD unless it is a valid one on a global barrier page (R372, R379). -/
inductive FetchBar where
  | ok
  | wait (s : State)
  | bad (status : Nat)

def fetchBar (s : State) (k : Nat) (f : Fp) (bar : Nat) : FetchBar :=
  if bar = 0 then .ok
  else if inLocal bar ∨ inQuad bar then .bad 8
  else match fpXlate s k f bar 1 with
    | .wait s => .wait s
    | .fail => .bad 9
    | .ok pa isBar => if isBar && isHbm pa && (readBar s (.mem pa)).valid then .ok else .bad 8

/-- Request a weight block from a home; the answer's word is xd. (R379) -/
def execTrelixWfetch (s : State) : Res :=
  withFp s fun k f t => match f.wait with
    | .fetch id => match mapFind s.fab.fetches id with
      | none => fpDone s k f t.x 1 0
      | some x => match x.answered with
        | none => .next s
        | some w => fpNext { s with fab := { s.fab with fetches := mapDel s.fab.fetches id } } k (xWrite f t.x (BitVec.ofNat 64 w))
    | _ => withDesc s 32 64 fun s k f t a d =>
        let w := dWord d
        if w 4 % 128 ≠ 0 ∨ w 5 % 32 ≠ 0 ∨ w 1 % 32 ≠ 0 then fpDone s k f t.x 8 0
        else match fetchBar s k f (w 5) with
        | .wait s => .next s
        | .bad status => fpDone s k f t.x status 0
        | .ok =>
          let x : WFetch := ⟨k, k / 4, bitsAt (w 0) 4 11, bitsAt (w 0) 0 4, (keyRoot s f.key).getD 0, f.key, w 1, bitsAt (w 2) 0 12,
            bitsAt (w 2) 32 1, bitsAt (w 3) 0 32, w 4, w 5, a + 0x30, none⟩
          let id := s.nextId
          let p := publish s (fpAgent k)
          let s := learn p.1 id p.2
          fpWait { s with nextId := id + 1, fab := { s.fab with fetches := mapPut s.fab.fetches id x } } k f (.fetch id)

/-- What a home answers: status, committed step, bytes, byte count (R379). -/
structure Served where
  status : Nat
  c : Nat
  bytes : List Byte
  count : Nat
  deriving DecidableEq, Repr

/-- A home of this package serves a fetch (R378, R379); none: a translation has to wait, in the state. -/
def serveHome (s : State) (id : Nat) (x : WFetch) : State × Option Served :=
  let die := x.die
  let failed := s.mg.failedDies.contains die
  let rd := fabRead s die x.root x.key (.fabric id) x.home 1024
  match rd with
  | .wait s' => if failed then (s, some ⟨1, 0, [], 8192⟩) else (s', none)
  | .fail => (s, some ⟨if failed then 1 else 9, 0, [], 8192⟩)
  | .ok s b bad =>
    let h := homeOfBytes b
    let n := weightBytes h.slot
    if failed then (s, some ⟨1, 0, [], n⟩)
    else if bad then (s, some ⟨4, 0, [], n⟩)
    else if !h.valid ∨ h.nb ≤ x.b then (s, some ⟨8, h.c, [], n⟩)
    else if x.e = h.c ∨ (x.mode = 1 ∧ (x.e + 1) % 2 ^ 32 = h.c ∧ bitAt h.held (x.e % 3)) then
      match fabRead s die x.root x.key (.fabric id) (h.buffers.getD (x.e % 3) 0 + 16384 * x.b) n with
      | .wait s => (s, none)
      | .fail => (s, some ⟨9, h.c, [], n⟩)
      | .ok s bytes bad => (s, some (if bad then ⟨4, h.c, [], n⟩ else ⟨0, h.c, bytes, n⟩))
    else (s, some ⟨3, h.c, [], n⟩)

/-- The answer reaches the requester: the block, the status word, then the landing (R379). It is one operation with the home's service:
nothing is written while any part of it has to wait (R378). -/
def fetchAnswer (s : State) (id : Nat) (x : WFetch) (v : Served) : State :=
  let who := Who.fabric id
  let put := fun (s : State) va bytes => match fabWrite s x.srcDie x.root x.key who va bytes with
    | .ok s => (s, true)
    | .fail s => (s, false)
    | .wait s => (s, false)
  match fabWaits s x.srcDie x.root x.key who [(x.dst, v.bytes.length, 1), (x.stat, 8, 1), (x.bar, if x.bar = 0 then 0 else 32, 1)] with
  | some s => s
  | none =>
    let r := put s x.dst v.bytes
    let status := if r.2 then v.status else 9
    let word := status + v.c * 2 ^ 32
    let s := (put r.1 x.stat (natToBytes 8 word)).1
    let h := publish s id
    let s := delAgent h.1 id
    let s := if x.bar = 0 ∨ inLocal x.bar ∨ inQuad x.bar then s
      else match dieXlate s x.srcDie x.root x.key x.bar 1 who with
        | .ok pa bar => if bar && isHbm pa then landOn s (some (.mem pa)) v.count 0 (status != 0) h.2 else s
        | _ => s
    dropFails { s with fab := { s.fab with fetches := mapPut s.fab.fetches id { x with answered := some word } } } who

/-- A home serves fetch `id`: a home of this package, or one of another package with status `b`, committed step `c` and
`bytes`. (R378 to R380) -/
def execWfetchServe (s : State) : Res :=
  let id := s.cur.x.id
  match mapFind s.fab.fetches id with
  | none => .fault .notEnabled
  | some x =>
    if x.answered.isSome ∨ (x.pkg = Config.package ∧ (routeWaits s x.srcDie x.die ∨ routeWaits s x.die x.srcDie)) then .fault .notEnabled
    else if x.pkg = Config.package then
      match serveHome s id x with
      | (s, none) => .next s
      | (s, some v) => .next (fetchAnswer s id x v)
    else
      let v : Served := ⟨s.cur.x.b, s.cur.x.c, s.cur.x.bytes, if s.cur.x.bytes.isEmpty then s.cur.x.a else s.cur.x.bytes.length⟩
      .next (fetchAnswer s id x v)

end Sys2Proof.Machine
end

