-- ==== Sys2Proof/Machine/LaneCross.lean ====
section
/-! DEFINITION. Cross-lane instructions: R86 to R91. A source lane is read whatever its masks. -/

namespace Sys2Proof.Machine
open Sys2Proof

/-- Move lane values: lane k of the pass takes the value of lane `src k` of source a as it stood (R86, R87). -/
def gather (s : State) (sp : Span) (x : LFields) (src : Nat → Nat) : Span :=
  let pair := wideTy x.ty
  (passLanes s).foldl (fun acc k => vLaneWrite acc x.vd.toNat k pair (vLane sp x.va.toNat (src k) pair)) sp

/-- A shuffle: the pattern's distance must be a lane of the launch (R87). Its source is tested first: an empty one waits or traps before
a distance that is too large traps ILLEGAL (DESIGN CHOICE, log 84). -/
def shuffle (x : LFields) (src : Nat → Nat → Nat → Nat) (s : State) : Res :=
  lanePass s (srcA x) (dstV x) none fun sp l =>
    let m := (x.p2.extractLsb' 0 5).toNat
    let w := lanesOf l
    if w ≤ m then trapL s sp l causeIllegal s.cur.mask 0
    else commitL s (gather s sp x (src w m))

/-- Type maximum and minimum as codes (R89). -/
def tyMax (t : Ty) : Nat := if tyIsInt t then wrapI (tyWidth t) (intHi (tyWidth t) (tySigned t)) else (fmtOf t).infCode.getD 0
def tyMin (t : Ty) : Nat :=
  if tyIsInt t then wrapI (tyWidth t) (intLo (tyWidth t) (tySigned t)) else signBit t + (fmtOf t).infCode.getD 0

/-- A reduction of source a over the pass lanes, zero-extended into sdst (R89). -/
def reduce (x : LFields) (f : Ty → List Nat → Nat) (s : State) : Res :=
  lanePass s (srcA x) [] (some x.sdst.toNat) fun sp _ =>
    let t := tyOfCode x.ty.toNat
    commitL s (writeSdst sp x.sdst.toNat (BitVec.ofNat 64 (f t ((passLanes s).map (opndA sp t x)))))

/-- The FP sum takes a fixed tree over the lane positions (R89). -/
def reduceAdd (x : LFields) (s : State) : Res :=
  lanePass s (srcA x) [] (some x.sdst.toNat) fun sp _ =>
    let t := tyOfCode x.ty.toNat
    let v := if tyIsInt t then wrapI (tyWidth t) (((passLanes s).map (fun l => elemInt t (opndA sp t x l))).sum)
      else fTreeSum (fmtOf t) ((List.range 32).map (fun l => if s.cur.mask.getLsbD l then some (opndA sp t x l) else none))
    commitL s (writeSdst sp x.sdst.toNat (BitVec.ofNat 64 v))

def pickMinMax (mx : Bool) (t : Ty) (a b : Nat) : Nat :=
  if tyIsInt t then
    (if mx then (if elemInt t a < elemInt t b then b else a) else (if elemInt t b < elemInt t a then b else a))
  else fMinMax mx (fmtOf t) a b

/-- Shuffle from lane k xor m. (R87) -/
def execVshufXor (x : LFields) (s : State) : Res := shuffle x (fun _ m k => k ^^^ m) s

/-- Shuffle from lane (k + m) mod W. (R87) -/
def execVshufRot (x : LFields) (s : State) : Res := shuffle x (fun w m k => (k + m) % w) s

/-- Shuffle from lane k + m, or keep. (R87) -/
def execVshufDn (x : LFields) (s : State) : Res := shuffle x (fun w m k => if w ≤ k + m then k else k + m) s

/-- Shuffle from lane k - m, or keep. (R87) -/
def execVshufUp (x : LFields) (s : State) : Res := shuffle x (fun _ m k => if k < m then k else k - m) s

/-- Permute lanes by per-lane index. (R88) -/
def execVperm (x : LFields) (s : State) : Res :=
  lanePass s (srcA x ++ classSource x.bcls x.vb 1 (feB x)) (dstV x) none fun sp l =>
    let idx := fun k => if x.bcls = 0 then (vRead sp x.vb.toNat k).toNat else (lRead sp x.vb.toNat).toNat % 2 ^ 32
    commitL s (gather s sp x (fun k => idx k % lanesOf l))

/-- Broadcast one lane to the active lanes. (R88) -/
def execVbcast (x : LFields) (s : State) : Res :=
  lanePass s (srcA x ++ classSource x.bcls x.vb 1 (feB x)) (dstV x) none fun sp l =>
    commitL s (gather s sp x (fun _ => (lRead sp x.vb.toNat).toNat % 2 ^ 32 % lanesOf l))

/-- Reduce by sum over a fixed tree into a scalar. (R89) -/
def execVredadd (x : LFields) (s : State) : Res := reduceAdd x s

/-- Reduce by minimum. (R89) -/
def execVredmin (x : LFields) (s : State) : Res := reduce x (fun t l => l.foldl (pickMinMax false t) (tyMax t)) s

/-- Reduce by maximum. (R89) -/
def execVredmax (x : LFields) (s : State) : Res := reduce x (fun t l => l.foldl (pickMinMax true t) (tyMin t)) s

/-- Reduce by AND. (R89) -/
def execVredand (x : LFields) (s : State) : Res := reduce x (fun t l => l.foldl (fun a b => a &&& b) (2 ^ tyWidth t - 1)) s

/-- Reduce by OR. (R89) -/
def execVredor (x : LFields) (s : State) : Res := reduce x (fun _ l => l.foldl (fun a b => a ||| b) 0) s

/-- Inclusive prefix sums over active lanes. (R90) -/
def execVscan (x : LFields) (s : State) : Res :=
  lanePass s (srcA x) (dstV x) none fun sp _ =>
    let t := tyOfCode x.ty.toNat
    let w := tyWidth t
    let add := fun a b => if tyIsInt t then (a + b) % 2 ^ w else fAdd (fmtOf t) .rne a b
    let r := (passLanes s).foldl (fun (p : Span × Nat) k =>
      let acc := add p.2 (opndA sp t x k)
      (vLaneWrite p.1 x.vd.toNat k (w == 64) acc, acc)) (sp, 0)
    commitL s r.1

/-- Read the lowest active lane into a scalar. (R91) -/
def execVrfl (x : LFields) (s : State) : Res :=
  lanePass s (srcA x) [] (some x.sdst.toNat) fun sp _ =>
    let t := tyOfCode x.ty.toNat
    commitL s (writeSdst sp x.sdst.toNat (BitVec.ofNat 64 (((passLanes s).map (opndA sp t x)).headD 0)))

/-- Read a uniform value or trap NONUNIFORM. (R91) -/
def execVrul (x : LFields) (s : State) : Res :=
  lanePass s (srcA x) [] (some x.sdst.toNat) fun sp l =>
    let t := tyOfCode x.ty.toNat
    let v := ((passLanes s).map (opndA sp t x)).headD 0
    let bad := maskOf 32 ((passLanes s).filter (fun k => opndA sp t x k != v))
    if bad = 0 then commitL s (writeSdst sp x.sdst.toNat (BitVec.ofNat 64 v))
    else trapL s sp l causeNonuniform bad 0

end Sys2Proof.Machine
end

