-- ==== Sys2Proof/Machine/LaneMem.lean ====
section
/-! DEFINITION. Lane memory access, lane FIFO forms, lane state and planes: R94, R102 to R113. -/

namespace Sys2Proof.Machine
open Sys2Proof

/-- Sources of a lane address: the address vector and the scalar base (R94, R103). -/
def addrSources (x : LFields) : List Source := [.v [x.va.toNat] (feA x), .s (x.vb.toNat % 64) (feB x)]

/-- The accesses of the pass: lane and address (R103). -/
def passAccs (s : State) (sp : Span) (x : LFields) : List Acc :=
  (passLanes s).map (fun k => (k, laneAddr sp x x.p2 k))

/-- A lane load of a policy (R104). -/
def laneLoad (k : AccKind) (n : Nat) (x : LFields) (s : State) : Res :=
  let w := memWidth x.ty
  lanePass s (addrSources x) (regSpan x.vd (tyRegs x.ty)) none fun sp l =>
    loadPass s sp l k n w.1 w.2 (.v x.vd.toNat (w.1 == 8)) (passAccs s sp x)

/-- A lane store (R104). -/
def laneStore (unc : Bool) (x : LFields) (s : State) : Res :=
  let w := (memWidth x.ty).1
  lanePass s (addrSources x ++ [.v (regSpan x.vc (tyRegs x.ty)) (feC x)]) [] none fun sp l =>
    storePass s sp l unc w (passAccs s sp x) (fun k => vLane sp x.vc.toNat k (w == 8) % 2 ^ (8 * w))

/-- Lane plain load. (R104) -/
def execVld (x : LFields) (s : State) : Res := laneLoad .plain 0 x s

/-- Lane consuming load, one decrement for each touched line. (R106) -/
def execVldCons (x : LFields) (s : State) : Res := laneLoad .cons 0 x s

/-- Lane uncached load. (R104) -/
def execVldUnc (x : LFields) (s : State) : Res := laneLoad .unc 0 x s

/-- Lane load that fills touched lines counted, with `vc` readers. (R105) -/
def execVldReaders (x : LFields) (s : State) : Res :=
  if x.vc = 0 then execIllegalEncoding s else laneLoad .readers x.vc.toNat x s

/-- Lane plain store checked at each home. (R107) -/
def execVst (x : LFields) (s : State) : Res := laneStore false x s

/-- Lane uncached store. (R104) -/
def execVstUnc (x : LFields) (s : State) : Res := laneStore true x s

/-- Append the words of the pass's lanes to a FIFO bank, in ascending lane order. (R110) -/
def execVpush (x : LFields) (s : State) : Res :=
  lanePass s [.v [x.va.toNat] (feA x)] [] none fun sp l =>
    if s.cur.mask = 0 then commitL s sp
    else fifoPush s sp l (x.p2.extractLsb' 0 5).toNat ((passLanes s).map (vRead sp x.va.toNat))

/-- Remove words from a FIFO bank into the pass's lanes, in ring order. (R110) -/
def execVpop (x : LFields) (s : State) : Res :=
  lanePass s [] [x.vd.toNat] none fun sp l =>
    if s.cur.mask = 0 then commitL s sp
    else fifoPop s sp l (x.p2.extractLsb' 0 5).toNat (.v x.vd.toNat false) (passLanes s)

/-- Set lanes' plane numbers; ILLEGAL in a planed block. (R112) -/
def execVplset (x : LFields) (s : State) : Res :=
  if s.cur.planed then execIllegalEncoding s
  else lanePass s [.v [x.va.toNat] (feA x)] [] none fun sp _ =>
    commitL s ((passLanes s).foldl (fun t k => setPlane t k (vRead sp x.va.toNat k).toNat) sp)

/-- Read lanes' plane numbers; ILLEGAL in a planed block. (R112) -/
def execVpl (x : LFields) (s : State) : Res :=
  if s.cur.planed then execIllegalEncoding s
  else lanePass s [] [x.vd.toNat] none fun sp _ =>
    commitL s ((passLanes s).foldl (fun t k => vWrite t x.vd.toNat k (BitVec.ofNat 32 (planeOf sp k))) sp)

/-- Arrive-and-drop the pass's lanes and remove them from `live` and `am`; the span retires when `live` is zero.
(R35, R111) -/
def execVexit (s : State) : Res :=
  lanePass s [] [] none fun sp l =>
    let m := s.cur.mask
    if m = 0 then commitL s sp
    else exitLanes s sp l m fun s sp =>
      let sp := { advancePass sp with live := sp.live &&& ~~~ m, am := sp.am &&& ~~~ m }
      let s := putSpan s s.cur.uid sp
      .next (if sp.live = 0 then retireSpan s s.cur.uid else s)

/-- Lane no-operation. (R113) -/
def execLnop (s : State) : Res := lanePass s [] [] none fun sp _ => commitL s sp

end Sys2Proof.Machine
end

