-- ==== Sys2Proof/Machine/ScalarMem.lean ====
section
/-! DEFINITION. Scalar memory access, the scalar FIFO forms and `dropc`: R124 to R128. -/

namespace Sys2Proof.Machine
open Sys2Proof

/-- A scalar load of one access (R124, R125). -/
def scalarLoad (d : BitVec 6) (regs : List Nat) (k : AccKind) (w : Nat) (signed : Bool) (addr : Span → Nat)
    (s : State) : Res :=
  withLaunch s fun sp l => needS s sp (regs ++ [d.toNat]) (loadPass s sp l k 0 w signed (.s d.toNat) [(0, addr sp)])

/-- A scalar store of one access (R124, R125). -/
def scalarStore (d : BitVec 6) (regs : List Nat) (unc : Bool) (w : Nat) (addr : Span → Nat) (s : State) : Res :=
  withLaunch s fun sp l => needS s sp (regs ++ [d.toNat])
    (storePass s sp l unc w [(0, addr sp)] (fun _ => (sRead sp d.toNat).toNat % 2 ^ (8 * w)))

/-- Scalar 8-byte load. (R124) -/
def execLdB64 (d a : BitVec 6) (imm : BitVec 14) (s : State) : Res :=
  scalarLoad d [a.toNat] .plain 8 false (fun sp => addrImm sp a imm) s

/-- Scalar 4-byte zero-extending load. (R124) -/
def execLdN32 (d a : BitVec 6) (imm : BitVec 14) (s : State) : Res :=
  scalarLoad d [a.toNat] .plain 4 false (fun sp => addrImm sp a imm) s

/-- Scalar 8-byte store. (R124) -/
def execStB64 (d a : BitVec 6) (imm : BitVec 14) (s : State) : Res :=
  scalarStore d [a.toNat] false 8 (fun sp => addrImm sp a imm) s

/-- Scalar 4-byte store of the low half. (R124) -/
def execStB32 (d a : BitVec 6) (imm : BitVec 14) (s : State) : Res :=
  scalarStore d [a.toNat] false 4 (fun sp => addrImm sp a imm) s

/-- Plain indexed scalar load. (R124) -/
def execLdIndexed (d a b : BitVec 6) (w : BitVec 2) (e : BitVec 1) (s : State) : Res :=
  scalarLoad d [a.toNat, b.toNat] .plain (2 ^ w.toNat) (e == 1#1) (fun sp => addrIdx sp a b) s

/-- Consuming scalar load. (R106, R125) -/
def execLdCons (d a b : BitVec 6) (w : BitVec 2) (e : BitVec 1) (s : State) : Res :=
  scalarLoad d [a.toNat, b.toNat] .cons (2 ^ w.toNat) (e == 1#1) (fun sp => addrIdx sp a b) s

/-- Uncached scalar load. (R124) -/
def execLdUnc (d a b : BitVec 6) (w : BitVec 2) (e : BitVec 1) (s : State) : Res :=
  scalarLoad d [a.toNat, b.toNat] .unc (2 ^ w.toNat) (e == 1#1) (fun sp => addrIdx sp a b) s

/-- Counted-fill scalar load: address S[a], reader count S[b][7:0], 0 traps ILLEGAL. (R105, R124, R125) -/
def execLdReaders (d a b : BitVec 6) (w : BitVec 2) (e : BitVec 1) (s : State) : Res :=
  withLaunch s fun sp l => needS s sp [a.toNat, b.toNat, d.toNat]
    (if (sRead sp b.toNat).toNat % 256 = 0 then trapS s sp l causeIllegal sp.am 0
     else loadPass s sp l .readers ((sRead sp b.toNat).toNat % 256) (2 ^ w.toNat) (e == 1#1) (.s d.toNat)
       [(0, (sRead sp a.toNat).toNat)])

/-- Plain indexed scalar store. (R124) -/
def execStIndexed (d a b : BitVec 6) (w : BitVec 2) (s : State) : Res :=
  scalarStore d [a.toNat, b.toNat] false (2 ^ w.toNat) (fun sp => addrIdx sp a b) s

/-- Uncached scalar store. (R124) -/
def execStUnc (d a b : BitVec 6) (w : BitVec 2) (s : State) : Res :=
  scalarStore d [a.toNat, b.toNat] true (2 ^ w.toNat) (fun sp => addrIdx sp a b) s

/-- Remove two words from a FIFO bank: S[d] := word0 + word1·2^32. (R127) -/
def execPop (d : BitVec 6) (k : BitVec 5) (s : State) : Res :=
  withLaunch s fun sp l => needS s sp [d.toNat] (fifoPop s sp l k.toNat (.s d.toNat) [0, 1])

/-- Append S[a] as two words, low word first. (R127) -/
def execPush (a : BitVec 6) (k : BitVec 5) (s : State) : Res :=
  withLaunch s fun sp l => needS s sp [a.toNat]
    (let x := sRead sp a.toNat
     fifoPush s sp l k.toNat [x.extractLsb' 0 32, x.extractLsb' 32 32])

/-- End the counted life of every line in a range, after the span's older accesses. (R128, R235) -/
def execDropc (a b : BitVec 6) (s : State) : Res :=
  withLaunch s fun sp l => needS s sp [a.toNat, b.toNat]
    (let base := (sRead sp a.toNat).toNat
     let len := (sRead sp b.toNat).toNat % 2 ^ 32
     afterAcquire s sp <|
     if len = 0 then commitS s sp
     else if base < localLo ∧ quadLo < base + len then trapS s sp l causeBarrier sp.am base
     else if vaTop < base + len then trapS s sp l causePageFault sp.am base
     else if l.det then
       if ownsBytes s sp l (fun _ => true) base len then
         bufferAll s sp [.dropc base len] fun sp => commitS s sp
       else trapS s sp l causeOwnership sp.am base
     else if s.loads.any (fun x => x.2.uid == s.cur.uid) then stall s
     else afterStores s sp 4 fun s =>
       let r := newReq s { Req.init with
         core := sp.core, uid := s.cur.uid, kind := .dropc, va := base, a := base + len, b := l.number, c := l.root,
         stage := .home }
       commitS r.1 sp)

end Sys2Proof.Machine
end

