-- ==== Sys2Proof/Machine/Dispatch.lean ====
section
/-! DEFINITION. One arm for each instruction, each a direct call of its meaning. -/

namespace Sys2Proof.Machine
open Sys2Proof

def exec (i : Instr) (s : State) : Host.Outcome State Fault Refusal :=
  match i with
  | .add d a b => Sys2Proof.Machine.execAdd d a b s
  | .sub d a b => Sys2Proof.Machine.execSub d a b s
  | .mul d a b => Sys2Proof.Machine.execMul d a b s
  | .mulh d a b => Sys2Proof.Machine.execMulh d a b s
  | .mulhn d a b => Sys2Proof.Machine.execMulhn d a b s
  | .div d a b => Sys2Proof.Machine.execDiv d a b s
  | .divn d a b => Sys2Proof.Machine.execDivn d a b s
  | .rem d a b => Sys2Proof.Machine.execRem d a b s
  | .remn d a b => Sys2Proof.Machine.execRemn d a b s
  | .and d a b => Sys2Proof.Machine.execAnd d a b s
  | .or d a b => Sys2Proof.Machine.execOr d a b s
  | .xor d a b => Sys2Proof.Machine.execXor d a b s
  | .andn d a b => Sys2Proof.Machine.execAndn d a b s
  | .orn d a b => Sys2Proof.Machine.execOrn d a b s
  | .sll d a b => Sys2Proof.Machine.execSll d a b s
  | .srl d a b => Sys2Proof.Machine.execSrl d a b s
  | .sra d a b => Sys2Proof.Machine.execSra d a b s
  | .rotl d a b => Sys2Proof.Machine.execRotl d a b s
  | .rotr d a b => Sys2Proof.Machine.execRotr d a b s
  | .min d a b => Sys2Proof.Machine.execMin d a b s
  | .max d a b => Sys2Proof.Machine.execMax d a b s
  | .minn d a b => Sys2Proof.Machine.execMinn d a b s
  | .maxn d a b => Sys2Proof.Machine.execMaxn d a b s
  | .clz d a => Sys2Proof.Machine.execClz d a s
  | .ctz d a => Sys2Proof.Machine.execCtz d a s
  | .popc d a => Sys2Proof.Machine.execPopc d a s
  | .sextI8 d a => Sys2Proof.Machine.execSextI8 d a s
  | .sextI16 d a => Sys2Proof.Machine.execSextI16 d a s
  | .sextI32 d a => Sys2Proof.Machine.execSextI32 d a s
  | .zextN8 d a => Sys2Proof.Machine.execZextN8 d a s
  | .zextN16 d a => Sys2Proof.Machine.execZextN16 d a s
  | .zextN32 d a => Sys2Proof.Machine.execZextN32 d a s
  | .seq d a b => Sys2Proof.Machine.execSeq d a b s
  | .sne d a b => Sys2Proof.Machine.execSne d a b s
  | .slt d a b => Sys2Proof.Machine.execSlt d a b s
  | .sge d a b => Sys2Proof.Machine.execSge d a b s
  | .sltn d a b => Sys2Proof.Machine.execSltn d a b s
  | .sgen d a b => Sys2Proof.Machine.execSgen d a b s
  | .addi d a imm => Sys2Proof.Machine.execAddi d a imm s
  | .andi d a imm => Sys2Proof.Machine.execAndi d a imm s
  | .ori d a imm => Sys2Proof.Machine.execOri d a imm s
  | .xori d a imm => Sys2Proof.Machine.execXori d a imm s
  | .slli d a n => Sys2Proof.Machine.execSlli d a n s
  | .srli d a n => Sys2Proof.Machine.execSrli d a n s
  | .srai d a n => Sys2Proof.Machine.execSrai d a n s
  | .rotli d a n => Sys2Proof.Machine.execRotli d a n s
  | .slin d a imm => Sys2Proof.Machine.execSlin d a imm s
  | .slti d a imm => Sys2Proof.Machine.execSlti d a imm s
  | .sltni d a imm => Sys2Proof.Machine.execSltni d a imm s
  | .seqi d a imm => Sys2Proof.Machine.execSeqi d a imm s
  | .ldB64 d a imm => Sys2Proof.Machine.execLdB64 d a imm s
  | .ldN32 d a imm => Sys2Proof.Machine.execLdN32 d a imm s
  | .stB64 d a imm => Sys2Proof.Machine.execStB64 d a imm s
  | .stB32 d a imm => Sys2Proof.Machine.execStB32 d a imm s
  | .ldIndexed d a b w e => Sys2Proof.Machine.execLdIndexed d a b w e s
  | .ldCons d a b w e => Sys2Proof.Machine.execLdCons d a b w e s
  | .ldUnc d a b w e => Sys2Proof.Machine.execLdUnc d a b w e s
  | .ldReaders d a b w e => Sys2Proof.Machine.execLdReaders d a b w e s
  | .stIndexed d a b w => Sys2Proof.Machine.execStIndexed d a b w s
  | .stUnc d a b w => Sys2Proof.Machine.execStUnc d a b w s
  | .pop d k => Sys2Proof.Machine.execPop d k s
  | .push a k => Sys2Proof.Machine.execPush a k s
  | .dropc a b => Sys2Proof.Machine.execDropc a b s
  | .beqz a imm => Sys2Proof.Machine.execBeqz a imm s
  | .bnez a imm => Sys2Proof.Machine.execBnez a imm s
  | .bltz a imm => Sys2Proof.Machine.execBltz a imm s
  | .bgez a imm => Sys2Proof.Machine.execBgez a imm s
  | .bgtz a imm => Sys2Proof.Machine.execBgtz a imm s
  | .blez a imm => Sys2Proof.Machine.execBlez a imm s
  | .bmz a imm => Sys2Proof.Machine.execBmz a imm s
  | .bmnz a imm => Sys2Proof.Machine.execBmnz a imm s
  | .jmp imm => Sys2Proof.Machine.execJmp imm s
  | .call imm => Sys2Proof.Machine.execCall imm s
  | .jmpRegister a => Sys2Proof.Machine.execJmpRegister a s
  | .callRegister a => Sys2Proof.Machine.execCallRegister a s
  | .ret => Sys2Proof.Machine.execRet s
  | .sexit => Sys2Proof.Machine.execSexit s
  | .lrun n o => Sys2Proof.Machine.execLrun n o s
  | .lrunRegister a n => Sys2Proof.Machine.execLrunRegister a n s
  | .lrunp a b n => Sys2Proof.Machine.execLrunp a b n s
  | .mpush a => Sys2Proof.Machine.execMpush a s
  | .melse => Sys2Proof.Machine.execMelse s
  | .mpop => Sys2Proof.Machine.execMpop s
  | .mset a => Sys2Proof.Machine.execMset a s
  | .mget d => Sys2Proof.Machine.execMget d s
  | .lget d => Sys2Proof.Machine.execLget d s
  | .plall k => Sys2Proof.Machine.execPlall k s
  | .plmask d k => Sys2Proof.Machine.execPlmask d k s
  | .plget d => Sys2Proof.Machine.execPlget d s
  | .copy m a b c q => Sys2Proof.Machine.execCopy m a b c q s
  | .copySlot m a b c q => Sys2Proof.Machine.execCopySlot m a b c q s
  | .copyReaders m a b c q => Sys2Proof.Machine.execCopyReaders m a b c q s
  | .mma n k a z p sa r t => Sys2Proof.Machine.execMma n k a z p sa r t s
  | .mmaVia n k a z p sa r t q => Sys2Proof.Machine.execMmaVia n k a z p sa r t q s
  | .acst n k a b c => Sys2Proof.Machine.execAcst n k a b c s
  | .tclaim slot r => Sys2Proof.Machine.execTclaim slot r s
  | .trel slot => Sys2Proof.Machine.execTrel slot s
  | .qfence m => Sys2Proof.Machine.execQfence m s
  | .collRs a slot c => Sys2Proof.Machine.execCollRs a slot c s
  | .collAg a slot c => Sys2Proof.Machine.execCollAg a slot c s
  | .collAr a slot c => Sys2Proof.Machine.execCollAr a slot c s
  | .collBc a slot c => Sys2Proof.Machine.execCollBc a slot c s
  | .cpush d a p => Sys2Proof.Machine.execCpush d a p s
  | .barinit d a b => Sys2Proof.Machine.execBarinit d a b s
  | .barreg a => Sys2Proof.Machine.execBarreg a s
  | .bararr a => Sys2Proof.Machine.execBararr a s
  | .barexp a b => Sys2Proof.Machine.execBarexp a b s
  | .bardrop a => Sys2Proof.Machine.execBardrop a s
  | .barwait d a b l => Sys2Proof.Machine.execBarwait d a b l s
  | .acq d a scope => Sys2Proof.Machine.execAcq d a scope s
  | .rel a scope => Sys2Proof.Machine.execRel a scope s
  | .rbind d a b => Sys2Proof.Machine.execRbind d a b s
  | .fence scope => Sys2Proof.Machine.execFence scope s
  | .atomB32Add d a b o => Sys2Proof.Machine.execAtomB32Add d a b o s
  | .atomB32Min d a b o => Sys2Proof.Machine.execAtomB32Min d a b o s
  | .atomB32Max d a b o => Sys2Proof.Machine.execAtomB32Max d a b o s
  | .atomB32Minn d a b o => Sys2Proof.Machine.execAtomB32Minn d a b o s
  | .atomB32Maxn d a b o => Sys2Proof.Machine.execAtomB32Maxn d a b o s
  | .atomB32And d a b o => Sys2Proof.Machine.execAtomB32And d a b o s
  | .atomB32Or d a b o => Sys2Proof.Machine.execAtomB32Or d a b o s
  | .atomB32Xor d a b o => Sys2Proof.Machine.execAtomB32Xor d a b o s
  | .atomB32Xchg d a b o => Sys2Proof.Machine.execAtomB32Xchg d a b o s
  | .atomB32Cas d a b o => Sys2Proof.Machine.execAtomB32Cas d a b o s
  | .atomB32Fadd d a b o => Sys2Proof.Machine.execAtomB32Fadd d a b o s
  | .atomB32Bf16x2add d a b o => Sys2Proof.Machine.execAtomB32Bf16x2add d a b o s
  | .atomN64Add d a b o => Sys2Proof.Machine.execAtomN64Add d a b o s
  | .atomN64Min d a b o => Sys2Proof.Machine.execAtomN64Min d a b o s
  | .atomN64Max d a b o => Sys2Proof.Machine.execAtomN64Max d a b o s
  | .atomN64Minn d a b o => Sys2Proof.Machine.execAtomN64Minn d a b o s
  | .atomN64Maxn d a b o => Sys2Proof.Machine.execAtomN64Maxn d a b o s
  | .atomN64And d a b o => Sys2Proof.Machine.execAtomN64And d a b o s
  | .atomN64Or d a b o => Sys2Proof.Machine.execAtomN64Or d a b o s
  | .atomN64Xor d a b o => Sys2Proof.Machine.execAtomN64Xor d a b o s
  | .atomN64Xchg d a b o => Sys2Proof.Machine.execAtomN64Xchg d a b o s
  | .atomN64Cas d a b o => Sys2Proof.Machine.execAtomN64Cas d a b o s
  | .rsend a v => Sys2Proof.Machine.execRsend a v s
  | .sysrd a n => Sys2Proof.Machine.execSysrd a n s
  | .step a => Sys2Proof.Machine.execStep a s
  | .undomark a => Sys2Proof.Machine.execUndomark a s
  | .bkmode a => Sys2Proof.Machine.execBkmode a s
  | .brk c => Sys2Proof.Machine.execBrk c s
  | .tret => Sys2Proof.Machine.execTret s
  | .nop => Sys2Proof.Machine.execNop s
  | .hrd d b t => Sys2Proof.Machine.execHrd d b t s
  | .hclr a t => Sys2Proof.Machine.execHclr a t s
  | .vadd x => Sys2Proof.Machine.execVadd x s
  | .vsub x => Sys2Proof.Machine.execVsub x s
  | .vadds x => Sys2Proof.Machine.execVadds x s
  | .vsubs x => Sys2Proof.Machine.execVsubs x s
  | .vmul x => Sys2Proof.Machine.execVmul x s
  | .vmulh x => Sys2Proof.Machine.execVmulh x s
  | .vmad x => Sys2Proof.Machine.execVmad x s
  | .vdiv x => Sys2Proof.Machine.execVdiv x s
  | .vrem x => Sys2Proof.Machine.execVrem x s
  | .vmin x => Sys2Proof.Machine.execVmin x s
  | .vmax x => Sys2Proof.Machine.execVmax x s
  | .vabs x => Sys2Proof.Machine.execVabs x s
  | .vabsd x => Sys2Proof.Machine.execVabsd x s
  | .vand x => Sys2Proof.Machine.execVand x s
  | .vor x => Sys2Proof.Machine.execVor x s
  | .vxor x => Sys2Proof.Machine.execVxor x s
  | .vandn x => Sys2Proof.Machine.execVandn x s
  | .vnot x => Sys2Proof.Machine.execVnot x s
  | .vsel x => Sys2Proof.Machine.execVsel x s
  | .vshl x => Sys2Proof.Machine.execVshl x s
  | .vshr x => Sys2Proof.Machine.execVshr x s
  | .vrotl x => Sys2Proof.Machine.execVrotl x s
  | .vclz x => Sys2Proof.Machine.execVclz x s
  | .vpopc x => Sys2Proof.Machine.execVpopc x s
  | .vbrev x => Sys2Proof.Machine.execVbrev x s
  | .vceq x => Sys2Proof.Machine.execVceq x s
  | .vcne x => Sys2Proof.Machine.execVcne x s
  | .vclt x => Sys2Proof.Machine.execVclt x s
  | .vcle x => Sys2Proof.Machine.execVcle x s
  | .vcgt x => Sys2Proof.Machine.execVcgt x s
  | .vcge x => Sys2Proof.Machine.execVcge x s
  | .vmov x => Sys2Proof.Machine.execVmov x s
  | .vlane x => Sys2Proof.Machine.execVlane x s
  | .vgid x => Sys2Proof.Machine.execVgid x s
  | .vfadd x => Sys2Proof.Machine.execVfadd x s
  | .vfsub x => Sys2Proof.Machine.execVfsub x s
  | .vfmul x => Sys2Proof.Machine.execVfmul x s
  | .vfma x => Sys2Proof.Machine.execVfma x s
  | .vfms x => Sys2Proof.Machine.execVfms x s
  | .vfnma x => Sys2Proof.Machine.execVfnma x s
  | .vfmin x => Sys2Proof.Machine.execVfmin x s
  | .vfmax x => Sys2Proof.Machine.execVfmax x s
  | .vfdiv x => Sys2Proof.Machine.execVfdiv x s
  | .vfsqrt x => Sys2Proof.Machine.execVfsqrt x s
  | .vexp2 x => Sys2Proof.Machine.execVexp2 x s
  | .vlog2 x => Sys2Proof.Machine.execVlog2 x s
  | .vfabs x => Sys2Proof.Machine.execVfabs x s
  | .vfneg x => Sys2Proof.Machine.execVfneg x s
  | .vfcsgn x => Sys2Proof.Machine.execVfcsgn x s
  | .vfceq x => Sys2Proof.Machine.execVfceq x s
  | .vfcne x => Sys2Proof.Machine.execVfcne x s
  | .vfclt x => Sys2Proof.Machine.execVfclt x s
  | .vfcle x => Sys2Proof.Machine.execVfcle x s
  | .vfcun x => Sys2Proof.Machine.execVfcun x s
  | .vcvt x => Sys2Proof.Machine.execVcvt x s
  | .vcvtp x => Sys2Proof.Machine.execVcvtp x s
  | .vcvtu x => Sys2Proof.Machine.execVcvtu x s
  | .vmxpack x => Sys2Proof.Machine.execVmxpack x s
  | .vmxunpk x => Sys2Proof.Machine.execVmxunpk x s
  | .vf4pack x => Sys2Proof.Machine.execVf4pack x s
  | .vf4unpk x => Sys2Proof.Machine.execVf4unpk x s
  | .vrnd x => Sys2Proof.Machine.execVrnd x s
  | .vld x => Sys2Proof.Machine.execVld x s
  | .vldCons x => Sys2Proof.Machine.execVldCons x s
  | .vldUnc x => Sys2Proof.Machine.execVldUnc x s
  | .vldReaders x => Sys2Proof.Machine.execVldReaders x s
  | .vst x => Sys2Proof.Machine.execVst x s
  | .vstUnc x => Sys2Proof.Machine.execVstUnc x s
  | .vpush x => Sys2Proof.Machine.execVpush x s
  | .vpop x => Sys2Proof.Machine.execVpop x s
  | .vatomAdd x => Sys2Proof.Machine.execVatomAdd x s
  | .vatomMin x => Sys2Proof.Machine.execVatomMin x s
  | .vatomMax x => Sys2Proof.Machine.execVatomMax x s
  | .vatomMinn x => Sys2Proof.Machine.execVatomMinn x s
  | .vatomMaxn x => Sys2Proof.Machine.execVatomMaxn x s
  | .vatomAnd x => Sys2Proof.Machine.execVatomAnd x s
  | .vatomOr x => Sys2Proof.Machine.execVatomOr x s
  | .vatomXor x => Sys2Proof.Machine.execVatomXor x s
  | .vatomXchg x => Sys2Proof.Machine.execVatomXchg x s
  | .vatomCas x => Sys2Proof.Machine.execVatomCas x s
  | .vatomFadd x => Sys2Proof.Machine.execVatomFadd x s
  | .vatomBf16x2add x => Sys2Proof.Machine.execVatomBf16x2add x s
  | .vshufXor x => Sys2Proof.Machine.execVshufXor x s
  | .vshufRot x => Sys2Proof.Machine.execVshufRot x s
  | .vshufDn x => Sys2Proof.Machine.execVshufDn x s
  | .vshufUp x => Sys2Proof.Machine.execVshufUp x s
  | .vperm x => Sys2Proof.Machine.execVperm x s
  | .vbcast x => Sys2Proof.Machine.execVbcast x s
  | .vredadd x => Sys2Proof.Machine.execVredadd x s
  | .vredmin x => Sys2Proof.Machine.execVredmin x s
  | .vredmax x => Sys2Proof.Machine.execVredmax x s
  | .vredand x => Sys2Proof.Machine.execVredand x s
  | .vredor x => Sys2Proof.Machine.execVredor x s
  | .vscan x => Sys2Proof.Machine.execVscan x s
  | .vrfl x => Sys2Proof.Machine.execVrfl x s
  | .vrul x => Sys2Proof.Machine.execVrul x s
  | .vplset x => Sys2Proof.Machine.execVplset x s
  | .vpl x => Sys2Proof.Machine.execVpl x s
  | .vexit => Sys2Proof.Machine.execVexit s
  | .lnop => Sys2Proof.Machine.execLnop s
  | .trelixAdd => Sys2Proof.Machine.execTrelixAdd s
  | .trelixSub => Sys2Proof.Machine.execTrelixSub s
  | .trelixMul => Sys2Proof.Machine.execTrelixMul s
  | .trelixAnd => Sys2Proof.Machine.execTrelixAnd s
  | .trelixOr => Sys2Proof.Machine.execTrelixOr s
  | .trelixXor => Sys2Proof.Machine.execTrelixXor s
  | .trelixSll => Sys2Proof.Machine.execTrelixSll s
  | .trelixSrl => Sys2Proof.Machine.execTrelixSrl s
  | .trelixSra => Sys2Proof.Machine.execTrelixSra s
  | .trelixSlt => Sys2Proof.Machine.execTrelixSlt s
  | .trelixSltn => Sys2Proof.Machine.execTrelixSltn s
  | .trelixSeq => Sys2Proof.Machine.execTrelixSeq s
  | .trelixAddi => Sys2Proof.Machine.execTrelixAddi s
  | .trelixSlin => Sys2Proof.Machine.execTrelixSlin s
  | .trelixLd => Sys2Proof.Machine.execTrelixLd s
  | .trelixSt => Sys2Proof.Machine.execTrelixSt s
  | .trelixBeq => Sys2Proof.Machine.execTrelixBeq s
  | .trelixBne => Sys2Proof.Machine.execTrelixBne s
  | .trelixBlt => Sys2Proof.Machine.execTrelixBlt s
  | .trelixBltn => Sys2Proof.Machine.execTrelixBltn s
  | .trelixJal => Sys2Proof.Machine.execTrelixJal s
  | .trelixJr => Sys2Proof.Machine.execTrelixJr s
  | .trelixHalt => Sys2Proof.Machine.execTrelixHalt s
  | .trelixSend => Sys2Proof.Machine.execTrelixSend s
  | .trelixRecv => Sys2Proof.Machine.execTrelixRecv s
  | .trelixEnc => Sys2Proof.Machine.execTrelixEnc s
  | .trelixDec => Sys2Proof.Machine.execTrelixDec s
  | .trelixSadd => Sys2Proof.Machine.execTrelixSadd s
  | .trelixRld => Sys2Proof.Machine.execTrelixRld s
  | .trelixRst => Sys2Proof.Machine.execTrelixRst s
  | .trelixRsave => Sys2Proof.Machine.execTrelixRsave s
  | .trelixRload => Sys2Proof.Machine.execTrelixRload s
  | .trelixGnew => Sys2Proof.Machine.execTrelixGnew s
  | .trelixGret => Sys2Proof.Machine.execTrelixGret s
  | .trelixGwatch => Sys2Proof.Machine.execTrelixGwatch s
  | .trelixBwait => Sys2Proof.Machine.execTrelixBwait s
  | .trelixBarr => Sys2Proof.Machine.execTrelixBarr s
  | .trelixBland => Sys2Proof.Machine.execTrelixBland s
  | .trelixHopen => Sys2Proof.Machine.execTrelixHopen s
  | .trelixUpd => Sys2Proof.Machine.execTrelixUpd s
  | .trelixHclose => Sys2Proof.Machine.execTrelixHclose s
  | .trelixHcommit => Sys2Proof.Machine.execTrelixHcommit s
  | .trelixHabort => Sys2Proof.Machine.execTrelixHabort s
  | .trelixWfetch => Sys2Proof.Machine.execTrelixWfetch s
  | .fencePacket => Sys2Proof.Machine.execFencePacket s
  | .release => Sys2Proof.Machine.execRelease s
  | .acquire => Sys2Proof.Machine.execAcquire s
  | .wait => Sys2Proof.Machine.execWait s
  | .resume => Sys2Proof.Machine.execResume s
  | .launch => Sys2Proof.Machine.execLaunch s
  | .copyPacket => Sys2Proof.Machine.execCopyPacket s
  | .admitKey => Sys2Proof.Machine.execAdmitKey s
  | .retire => Sys2Proof.Machine.execRetire s
  | .shootdown => Sys2Proof.Machine.execShootdown s
  | .answer => Sys2Proof.Machine.execAnswer s
  | .power => Sys2Proof.Machine.execPower s
  | .fpstart => Sys2Proof.Machine.execFpstart s
  | .fpstop => Sys2Proof.Machine.execFpstop s
  | .qtail => Sys2Proof.Machine.execQtail s
  | .actrl => Sys2Proof.Machine.execActrl s
  | .mgmtRegisterWrite => Sys2Proof.Machine.execMgmtRegisterWrite s
  | .attestationDone => Sys2Proof.Machine.execAttestationDone s
  | .loadFill => Sys2Proof.Machine.execLoadFill s
  | .fifoPopFill => Sys2Proof.Machine.execFifoPopFill s
  | .fifoPushResume => Sys2Proof.Machine.execFifoPushResume s
  | .bankSwitchComplete => Sys2Proof.Machine.execBankSwitchComplete s
  | .plainWindowExpire => Sys2Proof.Machine.execPlainWindowExpire s
  | .dirtyLineWriteback => Sys2Proof.Machine.execDirtyLineWriteback s
  | .quadMergeRequest => Sys2Proof.Machine.execQuadMergeRequest s
  | .homeRead => Sys2Proof.Machine.execHomeRead s
  | .homeConsumingAccess => Sys2Proof.Machine.execHomeConsumingAccess s
  | .homeCountedFill => Sys2Proof.Machine.execHomeCountedFill s
  | .countedFillWaitEnd => Sys2Proof.Machine.execCountedFillWaitEnd s
  | .homeStoreCheck => Sys2Proof.Machine.execHomeStoreCheck s
  | .homeStoreData => Sys2Proof.Machine.execHomeStoreData s
  | .homeAtomic => Sys2Proof.Machine.execHomeAtomic s
  | .releaseMarkerClear => Sys2Proof.Machine.execReleaseMarkerClear s
  | .homeDropc => Sys2Proof.Machine.execHomeDropc s
  | .barrierLanding => Sys2Proof.Machine.execBarrierLanding s
  | .barwaitEnd => Sys2Proof.Machine.execBarwaitEnd s
  | .barwaitTimeout => Sys2Proof.Machine.execBarwaitTimeout s
  | .copyRun => Sys2Proof.Machine.execCopyRun s
  | .mmaRun => Sys2Proof.Machine.execMmaRun s
  | .mmaDone => Sys2Proof.Machine.execMmaDone s
  | .acstRun => Sys2Proof.Machine.execAcstRun s
  | .collEntryStart => Sys2Proof.Machine.execCollEntryStart s
  | .shadowSwap => Sys2Proof.Machine.execShadowSwap s
  | .swapComplete => Sys2Proof.Machine.execSwapComplete s
  | .spillComplete => Sys2Proof.Machine.execSpillComplete s
  | .spillFault => Sys2Proof.Machine.execSpillFault s
  | .spillResume => Sys2Proof.Machine.execSpillResume s
  | .preloadComplete => Sys2Proof.Machine.execPreloadComplete s
  | .deckPlace => Sys2Proof.Machine.execDeckPlace s
  | .deckStart => Sys2Proof.Machine.execDeckStart s
  | .gangReserve => Sys2Proof.Machine.execGangReserve s
  | .gangCommit => Sys2Proof.Machine.execGangCommit s
  | .deckRetire => Sys2Proof.Machine.execDeckRetire s
  | .delayedRingPush => Sys2Proof.Machine.execDelayedRingPush s
  | .launchComplete => Sys2Proof.Machine.execLaunchComplete s
  | .resumePlacement => Sys2Proof.Machine.execResumePlacement s
  | .quantumEnd => Sys2Proof.Machine.execQuantumEnd s
  | .phaseStart => Sys2Proof.Machine.execPhaseStart s
  | .noProgress => Sys2Proof.Machine.execNoProgress s
  | .walkComplete => Sys2Proof.Machine.execWalkComplete s
  | .shootdownBoundExpire => Sys2Proof.Machine.execShootdownBoundExpire s
  | .shootdownRemoval => Sys2Proof.Machine.execShootdownRemoval s
  | .meshContribution => Sys2Proof.Machine.execMeshContribution s
  | .meshPartial => Sys2Proof.Machine.execMeshPartial s
  | .startNotice => Sys2Proof.Machine.execStartNotice s
  | .reductionTimeout => Sys2Proof.Machine.execReductionTimeout s
  | .hostCxlMemAccess => Sys2Proof.Machine.execHostCxlMemAccess s
  | .acquireTimeout => Sys2Proof.Machine.execAcquireTimeout s
  | .waitTimeout => Sys2Proof.Machine.execWaitTimeout s
  | .flitCrcFail => Sys2Proof.Machine.execFlitCrcFail s
  | .causewayRetrain => Sys2Proof.Machine.execCausewayRetrain s
  | .retrainComplete => Sys2Proof.Machine.execRetrainComplete s
  | .routeInstall => Sys2Proof.Machine.execRouteInstall s
  | .packetReceive => Sys2Proof.Machine.execPacketReceive s
  | .packetResend => Sys2Proof.Machine.execPacketResend s
  | .sendAcknowledged => Sys2Proof.Machine.execSendAcknowledged s
  | .chunkSweep => Sys2Proof.Machine.execChunkSweep s
  | .drainEnd => Sys2Proof.Machine.execDrainEnd s
  | .drainBoundExpire => Sys2Proof.Machine.execDrainBoundExpire s
  | .versionNotice => Sys2Proof.Machine.execVersionNotice s
  | .wfetchServe => Sys2Proof.Machine.execWfetchServe s
  | .recvTimeout => Sys2Proof.Machine.execRecvTimeout s
  | .updTimeout => Sys2Proof.Machine.execUpdTimeout s
  | .quadStopFail => Sys2Proof.Machine.execQuadStopFail s
  | .dieFail => Sys2Proof.Machine.execDieFail s
  | .scrub => Sys2Proof.Machine.execScrub s
  | .blackBoxSave => Sys2Proof.Machine.execBlackBoxSave s
  | .thermalThrottle => Sys2Proof.Machine.execThermalThrottle s
  | .powerOverCap => Sys2Proof.Machine.execPowerOverCap s
  | .throttleRestore => Sys2Proof.Machine.execThrottleRestore s
  | .thermalTrip => Sys2Proof.Machine.execThermalTrip s
  | .powerGood => Sys2Proof.Machine.execPowerGood s
  | .warmReset => Sys2Proof.Machine.execWarmReset s
  | .illegalEncoding => Sys2Proof.Machine.execIllegalEncoding s
  | .extensionEncoding => Sys2Proof.Machine.execExtensionEncoding s
  | .unlistedTrelixOpcode => Sys2Proof.Machine.execUnlistedTrelixOpcode s
  | .connectionSetUp => Sys2Proof.Machine.execConnectionSetUp s
  | .negativeAcknowledgement => Sys2Proof.Machine.execNegativeAcknowledgement s
  | .lossOfSignal => Sys2Proof.Machine.execLossOfSignal s
  | .pathReturn => Sys2Proof.Machine.execPathReturn s
  | .expanderCompletion => Sys2Proof.Machine.execExpanderCompletion s
  | .hostFlushCompletion => Sys2Proof.Machine.execHostFlushCompletion s
  | .hostOwnershipGrant => Sys2Proof.Machine.execHostOwnershipGrant s
  | .hostSnoop => Sys2Proof.Machine.execHostSnoop s
  | .firmwareFault => Sys2Proof.Machine.execFirmwareFault s
  | .coldPowerLoss => Sys2Proof.Machine.execColdPowerLoss s
  | .uncorrectableError => Sys2Proof.Machine.execUncorrectableError s

end Sys2Proof.Machine
end

