-- ==== Sys2Proof/Machine/Ahead.lean ====
section
/-! DEFINITION. Run-ahead: the scalar stream issues S-words while a block is queued. Nothing they do takes effect until they
commit, when they run on the committed state; what run-ahead itself does is to compute results for younger words of the stream, and
to read code and lines early (R39, R42, R43, R118, R151, R384; log 3). -/

namespace Sys2Proof.Machine
open Sys2Proof

/-- What an S-word does in run-ahead: its results are known at once; it is a plain load, which may be performed early; it enqueues
a block; it waits, with its result, for its commit; or the stream stops before it. -/
inductive AheadKind where
  | compute
  | load
  | block
  | effect
  | stops
  deriving DecidableEq, Repr

/-- By major and secondary field (R58, R59): fetch stops at `sexit`, `syswr`, `brk`, `tret` and a word that is no instruction. -/
def aheadKind (w : Word32) : AheadKind :=
  let m := (fMajor w).toNat
  if isNoInstr (decodeS w) then .stops
  else if m ≤ 0x0A ∨ (0x18 ≤ m ∧ m ≤ 0x1C) ∨ m = 0x23 ∨ m = 0x24 then .compute
  else if m = 0x38 then (if (fSd w).toNat = 0 ∨ (fSd w).toNat = 4 then .compute else .stops)
  else if m = 0x10 ∨ m = 0x11 ∨ (m = 0x14 ∧ (fFn w).toNat / 4 % 8 = 0) then .load
  else if 0x20 ≤ m ∧ m ≤ 0x22 then .block
  else if m = 0x1D then .stops
  else .effect

/-- Younger loads, and the reading of younger blocks' code, come after it: `acq`, `fence`, an acquire atomic, `barwait` (R256, R384). -/
def aheadOrders (w : Word32) : Bool :=
  let m := (fMajor w).toNat
  let fn := (fFn w).toNat
  m == 0x31 || m == 0x33 || (m == 0x32 && fn / 16 == 0) || ((m == 0x34 || m == 0x35) && ordAcq (fn % 16))

/-- It reads `am`, `live` or `pl` (R118). -/
def readsMasks (w : Word32) : Bool :=
  let m := (fMajor w).toNat
  m == 0x22 || m == 0x23 || m == 0x24 || (m == 0x18 && decide (6 ≤ (fCond w).toNat))

/-- An L-word that may change `live` or `pl`, one that stores, or one whose code is not known. -/
def laneOp (w : Option LWord) (ops : List Nat) : Bool :=
  match w with
  | some w => ops.contains (w.extractLsb' 88 8).toNat
  | none => true
def changesPlanes (w : Option LWord) : Bool := laneOp w [0xD0, 0xD1]
def storesLanes (w : Option LWord) : Bool := laneOp w [0xA8, 0xA9, 0xB4]

/-- The span with the scalar registers that these L-words will write marked empty (R43). -/
def markWords (sp : Span) (ws : List (Option LWord)) : Span :=
  ws.foldl (fun t w => match w with
    | some w => match sdstOf w with
      | some r => sMarkEmpty t r
      | none => t
    | none => { t with sEmpty := BitVec.allOnes 64 }) sp

/-- The L-words of a block that have not issued, as its code stood. -/
def wordsLeft (b : Block) : List (Option LWord) := b.code.drop (b.pos * planesOf b)

/-- The scalar registers that an L-word reads in class 1 (R41). -/
def scalarSources (w : Option LWord) : List Nat :=
  match w with
  | none => []
  | some w =>
    let f := lFieldsOf w
    (if f.bcls.toNat = 1 then [f.vb.toNat % 64] else []) ++ (if f.ccls.toNat = 1 then [f.vc.toNat % 64] else [])

/-- The machine in which the next S-word of the stream runs for its results alone. -/
def aheadMachine (s : State) (u : Nat) (sp : Span) (w : Word32) : State :=
  putSpan { s with cur := { uid := u, word := w.zeroExtend 96 } } u sp

/-- The span after the S-word in that machine, where it ends without a trap and has gone on. -/
def aheadRun (s : State) (u : Nat) (sp : Span) (w : Word32) : Option Span :=
  match exec (decodeS w) (aheadMachine s u sp w) with
  | .next t => (spanOf t u).filter (fun y => y.hdepth == sp.hdepth && decide (y.live ≠ 0) && y != sp)
  | _ => none

def markAll (sp : Span) (rs : List Nat) : Span := rs.foldl sMarkEmpty sp

/-- The stream's registers, masks, stacks and pc after one more S-word that has run ahead: later words of the stream read its
results, or find its registers empty (R39, R43). -/
def afterAhead (s : State) (u : Nat) (sp : Span) (a : Ahead) : Span :=
  match aheadKind a.word with
  | .compute => match (aheadRun s u sp a.word).filter (fun y => y.ltime != sp.ltime) with
    | some y => { y with ltime := sp.ltime, ahead := [], pend := .none }
    | none => { sp with spc := a.next, sEmpty := BitVec.allOnes 64 }
  | .block => { markWords sp ((a.block.map Block.code).getD []) with spc := a.next }
  | .load => match a.val with
    | some x => { sFill sp (fSd a.word).toNat x with spc := a.next }
    | none => { markAll sp a.dests with spc := a.next }
  | _ => { markAll sp a.dests with spc := a.next }

/-- The span as the scalar stream finds it at its next S-word. -/
def streamSpan (s : State) (u : Nat) (sp : Span) : Span :=
  sp.ahead.foldl (afterAhead s u) (markWords { sp with queue := [], ahead := [] } (sp.queue.flatMap wordsLeft))

/-- The L-words that are older than the next S-word and have not issued. -/
def olderWords (sp : Span) : List (Option LWord) :=
  sp.queue.flatMap wordsLeft ++ sp.ahead.flatMap (fun a => (a.block.map Block.code).getD [])

/-- Room in the lane queue for `n` more L-words: 4 blocks, 256 L-words (R39). -/
def queueRoom (sp : Span) (n : Nat) : Bool :=
  let sizes := (sp.queue ++ sp.ahead.filterMap Ahead.block).map Block.n
  decide (sizes.length < 4) && decide (sizes.sum + n ≤ 256)

/-- A plain scalar load: its address, its width, and whether it extends the sign (R124). -/
def loadAccess (sp : Span) : Instr → Option (Nat × Nat × Bool)
  | .ldB64 _ a imm => some (addrImm sp a imm, 8, false)
  | .ldN32 _ a imm => some (addrImm sp a imm, 4, false)
  | .ldIndexed _ a b w e => some (addrIdx sp a b, 2 ^ w.toNat, e == 1#1)
  | _ => none

/-- The scalar registers that a plain load's address needs. -/
def loadSources : Instr → List Nat
  | .ldB64 _ a _ => [a.toNat]
  | .ldN32 _ a _ => [a.toNat]
  | .ldIndexed _ a b _ _ => [a.toNat, b.toNat]
  | _ => []

/-- The place of a load in run-ahead that may be performed early: in HBM4E, translated, aligned, with no older word of the span
that orders it or that may store still to come (R39, R103). -/
def earlyPlace (s : State) (sp : Span) (l : Launch) (older : List Ahead) (x : Nat × Nat × Bool) : Option Nat :=
  if l.det || vaTop ≤ x.1 || inLocal x.1 || inQuad x.1 || x.1 % x.2.1 ≠ 0 || sp.acquiring.isSome ||
     older.any (fun a => aheadKind a.word == .effect) || (olderWords sp).any storesLanes then none
  else match tlbLookup (coreOf s sp.core) false sp.bay l.root (x.1 / 4096) with
    | none => none
    | some t => if t.closing || !isHbm (tlbPa t x.1) then none else some (tlbPa t x.1)

/-- The value of such a load, where the core's banks hold its bytes, good ones. -/
def earlyValue (s : State) (sp : Span) (pa : Nat) (x : Nat × Nat × Bool) : Option Word64 :=
  match l1Find (coreOf s sp.core) (pa / 128) with
  | none => none
  | some y =>
    if y.poison || !(List.range x.2.1).all (fun i => y.valid.getLsbD (pa % 128 + i)) then none
    else
      let n := coreRead s sp.core pa x.2.1
      let b := 8 * x.2.1
      some (BitVec.ofNat 64 (if x.2.2 && bitAt n (b - 1) then n + 2 ^ 64 - 2 ^ b else n))

/-- Its line is asked for, where it is neither in the core's banks nor on its way. -/
def readEarly (s : State) (sp : Span) (pa va : Nat) : State :=
  let line := pa / 128
  if (l1Find (coreOf s sp.core) line).isSome || !mayAsk s sp .plain [(line, va)] ||
     s.reqs.any (fun p => p.2.core == sp.core && p.2.line == line && isRead p.2.kind) then s
  else (newReq s { Req.init with
    core := sp.core, uid := s.cur.uid, kind := .plain, line, va, marker := decide (sp.acqAt ≠ 0), stage := .core }).1

/-- The loads of the window that can be performed now have their values; `p` is the window up to each. -/
def fillLoads (s : State) (u : Nat) (sp : Span) (l : Launch) : List Ahead → List Ahead → List Ahead
  | _, [] => []
  | p, a :: r =>
    let x := streamSpan s u { sp with ahead := p }
    let a := match aheadKind a.word, a.val, loadAccess x (decodeS a.word) with
      | .load, none, some y => { a with val := (earlyPlace s sp l p y).bind (fun pa => earlyValue s sp pa y) }
      | _, _, _ => a
    a :: fillLoads s u sp l (p ++ [a]) r

/-- An S-word has run ahead. -/
def goAhead (s : State) (u : Nat) (sp : Span) (a : Ahead) : Fetched :=
  .out (.next (putSpan s u { sp with ahead := sp.ahead ++ [a] }))

/-- The scalar registers whose value or state differs. -/
def changed (x y : Span) : List Nat :=
  (List.range 63).filter (fun r => sRead x r != sRead y r || sFull x r != sFull y r)

/-- An older L-word still reads one of these registers (R42). -/
def readLater (sp : Span) (rs : List Nat) : Bool := (olderWords sp).any (fun y => (scalarSources y).any rs.contains)

/-- The S-word `w` runs ahead; `x` is the span as the stream finds it. -/
def issueAhead (s : State) (u : Nat) (sp x : Span) (l : Launch) (w : Word32) : Fetched :=
  let a : Ahead := ⟨x.spc, w, x.spc + 4, none, [], none⟩
  let stop : Fetched := .out (.fault .notEnabled)
  let orders := sp.acquiring.isSome || sp.ahead.any (fun a => aheadOrders a.word)
  if readsMasks w && (olderWords sp).any changesPlanes then stop
  else match aheadKind w with
  | .stops => stop
  | .load =>
    let d := if fSd w = 63 then [] else [(fSd w).toNat]
    if readLater sp d || !((loadSources (decodeS w) ++ d).all (sFull x)) then stop
    else match (loadAccess x (decodeS w)).bind (fun y => (earlyPlace s sp l sp.ahead y).map (fun pa => (y, pa))) with
      | some (y, pa) =>
        if orders then goAhead s u sp { a with dests := d }
        else goAhead (readEarly s sp pa y.1) u sp { a with dests := d, val := earlyValue s sp pa y }
      | none => goAhead s u sp { a with dests := d }
  | .compute => match (aheadRun s u x w).filter (fun y => y.ltime != x.ltime) with
    | some y => if readLater sp (changed x y) then stop else goAhead s u sp { a with next := y.spc }
    | none => stop
  | .effect => match aheadRun s u x w with
    | some y => if readLater sp (changed x y) then stop else goAhead s u sp { a with dests := changed x y }
    | none => stop
  | .block =>
    if orders then stop
    else match (aheadRun s u x w).bind (fun y => y.queue.head?) with
      | some b => if queueRoom sp b.n then goAhead s u sp { a with block := some b } else stop
      | none => stop

/-- The scalar stream's turn while a block is queued: up to 16 S-words from the oldest block's own (R39). -/
def fetchAhead (s : State) (u : Nat) : Fetched :=
  match spanOf s u with
  | none => .out (.fault .notEnabled)
  | some sp => match launchOf s sp with
    | none => .out (.fault .notEnabled)
    | some l =>
      if !mayIssue s sp l || sp.queue.isEmpty || sp.step != .off || decide (15 ≤ sp.ahead.length) then
        .out (.fault .notEnabled)
      else
        let sp := { sp with ahead := fillLoads s u sp l [] sp.ahead }
        let x := streamSpan s u sp
        let s := { s with cur := { uid := u } }
        match fetchParcel s sp l x.spc.toNat with
        | .wait s => .out (.next s)
        | .fail => .out (.fault .notEnabled)
        | .word w _ => issueAhead s u sp x l w

/-- A block is queued: the scalar stream can only run ahead. -/
def aheadOnly (s : State) (u : Nat) : Bool :=
  match spanOf s u with
  | some sp => !sp.queue.isEmpty
  | none => false

end Sys2Proof.Machine
end

