-- ==== Sys2Proof/Machine/Parapet.lean ====
section
/-! DEFINITION. Parapet mode: the shadow lanes hold their own copy of the vector registers and run every pass beside their
lanes; what a pass gives to memory or to a scalar register is compared (R331). -/

namespace Sys2Proof.Machine
open Sys2Proof

/-- What a store pass or `vatom` takes from a lane: its address operand and its data (R104, R262). -/
def laneOperands (w : LWord) (sp : Span) (k : Nat) : Option (Nat × Nat × Nat) :=
  let x := lFieldsOf w
  let op := (w.extractLsb' 88 8).toNat
  let wide := tyRegs x.ty == 2
  let addr := (vRead sp x.va.toNat k).toNat
  if op = 0xA8 ∨ op = 0xA9 then some (addr, vLane sp x.vc.toNat k wide % 2 ^ (8 * (memWidth x.ty).1), 0)
  else if op = 0xB4 then
    some (addr, vLane sp x.vc.toNat k wide, if (x.p2.extractLsb' 28 4).toNat = 9 then vLane sp x.vd.toNat k wide else 0)
  else none

/-- Does a lane read different values in the two copies? -/
def laneDiffers (w : LWord) (sp sh : Span) (k : Nat) : Bool :=
  let x := lFieldsOf w
  ((srcA x ++ srcB x ++ srcC x).flatMap sourceRegs).any (fun r => vRead sp r k != vRead sh r k)

/-- The lanes at which the pass of the two copies does not agree: in an address or in data, or in a value that it writes to a
scalar register (R331). -/
def passMismatch (s : State) (sp sh a b : Span) : BitVec 32 :=
  let lanes := bitsOf s.cur.mask
  if lanes.any (fun k => laneOperands s.cur.word sp k != laneOperands s.cur.word sh k) then
    maskOf 32 (lanes.filter (fun k => laneOperands s.cur.word sp k != laneOperands s.cur.word sh k))
  else if a.s = b.s then 0
  else
    let m := maskOf 32 (lanes.filter (laneDiffers s.cur.word sp sh))
    if m = 0 then s.cur.mask else m

/-- A pass of a span whose shadow lanes hold the registers `v`: both copies run it; where they agree, it has its effect, and each
copy keeps what its own lanes have written. -/
def runBoth (i : Instr) (s : State) (u : Nat) (sp : Span) (v : SMap Word32) : Res :=
  let sp := { sp with shadow := none }
  let sh := { sp with v := v }
  match exec i (putSpan s u sp), exec i (putSpan s u sh) with
  | .next ta, .next tb => match spanOf ta u, spanOf tb u with
    | some a, some b =>
      let bad := passMismatch s sp sh a b
      if a.traps.length = sp.traps.length ∧ a ≠ sp ∧ bad ≠ 0 then .next (lockstepHalt s u bad)
      else .next (putSpan ta u { a with shadow := if a.v = b.v then none else some b.v })
    | _, _ => .next ta
  | r, _ => r

/-- A pass runs: alone, where the shadow lanes hold what the visible ones do. -/
def runPass (i : Instr) (s : State) (u : Nat) : Res :=
  match spanOf s u with
  | none => exec i s
  | some sp => match sp.shadow with
    | none => exec i s
    | some v => runBoth i s u sp v

end Sys2Proof.Machine
end

