-- ==== Sys2Proof/Machine/Issue.lean ====
section
/-! DEFINITION. Issue in a bay: what the passes of a position find before the first of them, how long a pass occupies the bay's lane
issue and when what it writes may be read, and which span's S-word and pass a cycle takes (R44, R45, R144, R160, R161; log 81). -/

namespace Sys2Proof.Machine
open Sys2Proof

/-! ### How long a pass takes (the timing tables beside R93 and R114) -/

/-- Issue cycles and latency of a class that a 64-bit type makes longer. -/
def byWidth (wide : Bool) (a b : Nat × Nat) : Nat × Nat := if wide then b else a

/-- Issue cycles of a pass, and its latency where dependent L-words wait without full/empty bits, by opcode; `wide`: of a 64-bit
type, or with a 64-bit side (R114, R160). -/
def passTimes (op : Nat) (wide : Bool) : Nat × Nat :=
  if op = 0x05 ∨ op = 0x06 ∨ op = 0x07 then byWidth wide (1, 4) (4, 6)
  else if op = 0x08 ∨ op = 0x09 then byWidth wide (16, 20) (32, 36)
  else if op ≤ 0x2A then byWidth wide (1, 3) (2, 4)
  else if op ≤ 0x47 then byWidth wide (1, 4) (8, 10)
  else if op = 0x48 ∨ op = 0x49 then byWidth wide (8, 14) (32, 38)
  else if op = 0x4A ∨ op = 0x4B then (4, 10)
  else if op ≤ 0x54 then (1, 3)
  else if op ≤ 0x82 then byWidth wide (1, 4) (2, 6)
  else if op = 0x84 ∨ op = 0x86 then (4, 12)
  else if op = 0x85 ∨ op = 0x87 then (2, 8)
  else if op = 0x88 then (1, 6)
  else if op ≤ 0xB4 then (1, 0)
  else if 0xC4 ≤ op ∧ op ≤ 0xC9 then byWidth wide (2, 8) (4, 16)
  else if op ≤ 0xCD then (1, 4)
  else (1, 2)

/-- Those of an L-word of a launch: a conversion takes its types from its format slot (R95). -/
def wordTimes (l : Launch) (w : LWord) : Nat × Nat :=
  let x := lFieldsOf w
  let op := (w.extractLsb' 88 8).toNat
  let f := fslotOf l x.fs.toNat
  passTimes op (if 0x80 ≤ op ∧ op ≤ 0x82 then wA f == 64 || wB f == 64 else tyRegs x.ty == 2)

/-! ### Before the first pass of a position (R45) -/

/-- What a test of an L-word's pass finds, where the pass is the current one. -/
def probeOf (i : Instr) (s : State) : Probe :=
  match exec i { s with cur := { s.cur with test := some {} } } with
  | .next t => t.cur.test.getD {}
  | _ => {}

/-- The planes of the head block's position after its own that have a lane. -/
def laterPlanes (sp : Span) (b : Block) : List Nat :=
  (List.range (planesOf b)).filter (fun p => decide (b.plane < p) && passMask sp { b with plane := p } != 0)

/-- The sources of the position's later passes, with their L-words read and kept: the state, and the outcome where the position
has to wait, or traps EMPTY_READ at its first pass. A word that has no translation is its own pass's fault. -/
def testLater (s : State) (u : Nat) (l : Launch) : List Nat → State × Option Res
  | [] => (s, none)
  | p :: r => match spanOf s u with
    | none => (s, none)
    | some sp => match sp.queue with
      | [] => (s, none)
      | b :: q =>
        let b' := { b with plane := p }
        match laneCode s sp l b' with
        | .wait s => (s, some (.next s))
        | .fail _ => testLater s u l r
        | .word s w =>
          let s := putSpan s u { sp with queue := { b with picked := mapPut b.picked p w } :: q }
          let at_ := { s with cur := { s.cur with word := w, mask := passMask sp b', plane := p } }
          match (probeOf (decodeL w) at_).verdict with
          | .empty => (s, some (withLaunch s fun sp l => trapL s sp l causeEmpty s.cur.mask 0))
          | .wait => (s, some (match exec (decodeL w) { at_ with cur := { at_.cur with test := some {} } } with
              | .next t => .next { t with cur := s.cur }
              | x => x))
          | _ => testLater s u l r

/-! ### A turn of a stream -/

/-- Where a span stands: its units, its traps, its queue, what it waits for and what has run ahead. -/
def spanPlace (s : State) (u : Nat) : Option (Nat × Nat × List Block × Pending × Nat × Bool) :=
  (spanOf s u).map (fun sp => (sp.ltime, sp.traps.length, sp.queue.map (fun b => { b with picked := [], reads := none }), sp.pend,
    sp.ahead.length, decide (sp.live = 0)))

/-- The outcome takes the span on. -/
def goesOn (s : State) (u : Nat) (r : Res) : Bool :=
  match r with
  | .next t => spanPlace t u != spanPlace s u
  | _ => false

/-- It takes the span on without a trap. -/
def goesWell (s : State) (u : Nat) (r : Res) : Bool :=
  goesOn s u r && match r with
    | .next t => (spanOf t u).map (fun sp => sp.traps.length) == (spanOf s u).map (fun sp => sp.traps.length) ||
        (spanOf t u).isNone
    | _ => false

/-- The pass runs, where the later passes of its position can run too (R45). -/
def firstPass (s : State) (u : Nat) (i : Instr) : Res :=
  match spanOf s u with
  | none => runPass i s u
  | some sp => match launchOf s sp, sp.queue with
    | some l, b :: _ =>
      if b.planed && !b.began && sp.pend == .none then
        let r := testLater s u l (laterPlanes sp b)
        let out := runPass i r.1 u
        match r.2 with
        | some o => if goesWell r.1 u out then o else out
        | none => out
      else runPass i s u
    | _, _ => runPass i s u

/-- What issue in the span's bay stands at. -/
def bayIssue (s : State) (sp : Span) : BayIssue := mapGet BayIssue.init (coreOf s sp.core).issue sp.bay
def putIssue (s : State) (sp : Span) (x : BayIssue) : State :=
  let c := coreOf s sp.core
  putCore s sp.core { c with issue := mapPut c.issue sp.bay x }

/-- The pass occupies the bay's lane issue, and what it writes is ready after its latency (R144, R160). -/
def noteLane (s : State) (u : Nat) (l : Launch) (w : LWord) (dsts : List Nat) (r : Res) : Res :=
  match r with
  | .next t => match spanOf s u with
    | none => r
    | some sp =>
      let n := wordTimes l w
      let t := putIssue t sp { bayIssue t sp with lane := s.cycle + n.1, pass := some u }
      .next (match spanOf t u with
        | none => t
        | some y => putSpan t u { y with ready := dsts.foldl (fun m d => mapPut m d (s.cycle + n.2)) y.ready })
  | r => r

/-- A turn of the lane stream: a pass that begins, or the end of one whose accesses are answered. -/
def laneTurn (s : State) (u : Nat) : Res :=
  match fetchLane s u with
  | .out r => r
  | .run i t => match spanOf t u with
    | none => exec i t
    | some sp => match launchOf t sp with
      | none => exec i t
      | some l =>
        let r := firstPass t u i
        if sp.pend == .none && goesWell t u r then noteLane t u l t.cur.word (probeOf i t).dsts r else r

/-- A turn of the scalar stream. -/
def scalarRun (s : State) (u : Nat) : Res :=
  match (if aheadOnly s u then fetchAhead s u else fetchScalar s u) with
  | .out r => r
  | .run i t => exec i t

/-- The next S-word of the stream has issued already, in run-ahead, or has begun: it takes no issue of the bay. -/
def scalarIssued (sp : Span) : Bool := sp.pend != .none || (sp.queue.isEmpty && !sp.ahead.isEmpty)

/-- A turn of the scalar stream in which an S-word issues is the bay's only one of the cycle (R160, R161). -/
def scalarTurn (s : State) (u : Nat) : Res :=
  let r := scalarRun s u
  match r, spanOf s u with
  | .next t, some sp =>
    if scalarIssued sp || !goesOn s u r then r
    else .next (putIssue t sp { bayIssue t sp with scalar := s.cycle + 1, last := some sp.age })
  | r, _ => r

/-! ### Who may issue (R144, R160, R161) -/

/-- The other spans of a span's bay in its context. -/
def bayOthers (s : State) (u : Nat) (sp : Span) : List (Nat × Span) :=
  s.spans.filter (fun p => p.1 != u && p.2.core == sp.core && p.2.half == sp.half && p.2.bay == sp.bay)

/-- The next pass of the span, tested: its L-word's registers, where it can be read. -/
def nextProbe (s : State) (u : Nat) : Option (Span × Probe) :=
  match fetchLane s u with
  | .out _ => none
  | .run i t => (spanOf t u).map (fun sp => (sp, probeOf i t))

/-- A register that the next pass reads has not reached the end of its last writer's latency (R144). -/
def latencyWait (s : State) (x : Span × Probe) : Bool := x.2.srcs.any (fun r => decide (s.cycle < mapGet 0 x.1.ready r))

/-- The next pass waits for a register (R44, R45, R144), or for room in a FIFO (R110). -/
def registerWait (s : State) (u : Nat) : Bool :=
  match nextProbe s u with
  | none => false
  | some x => latencyWait s x || x.2.verdict == .wait || x.2.pending || (match x.1.pend with
      | .push _ _ => true
      | _ => false)

/-- The span's next pass can start now. -/
def laneCan (s : State) (u : Nat) (sp : Span) : Bool :=
  sp.pend == .none && !(nextProbe s u).any (latencyWait s) && goesOn s u (laneTurn s u)

/-- The span stands between two passes of one position: an earlier pass of it has issued, and a later one has not (R144). -/
def betweenPasses (sp : Span) : Bool :=
  match (skipEmpty 1024 sp).queue with
  | b :: _ => b.planed && (b.began || (sp.pend != .none && !(laterPlanes sp b).isEmpty))
  | [] => false

/-- The span's passes are the bay's next: it stands between two of one position, and does not wait (R144). -/
def holdsBay (s : State) (u : Nat) (sp : Span) : Bool :=
  betweenPasses sp && (launchOf s sp).any (mayIssue s sp) && !registerWait s u

/-- Of two spans, `p` and the span `u`, both between passes of their positions: does `p` go first? The one whose pass started last,
else the older. -/
def passesFirst (x : BayIssue) (u : Nat) (sp : Span) (p : Nat × Span) : Bool :=
  x.pass == some p.1 || (x.pass != some u && decide (p.2.age < sp.age))

/-- May the span's lane stream move? A pass starts when the bay's lane issue is free, its sources are ready, no other span's
position is between two passes, and no older span's pass can start (R144, R160, R161). -/
def laneFree (s : State) (u : Nat) : Bool :=
  match spanOf s u with
  | none => true
  | some sp => sp.pend != .none || (decide ((bayIssue s sp).lane ≤ s.cycle) && !(nextProbe s u).any (latencyWait s) &&
      (bayOthers s u sp).all (fun p =>
        if betweenPasses sp then !(holdsBay s p.1 p.2 && passesFirst (bayIssue s sp) u sp p)
        else !holdsBay s p.1 p.2 && !(decide (p.2.age < sp.age) && laneCan s p.1 p.2)))

/-- The place of a span of age `a` in the round that starts after the span that last issued (R161). -/
def roundPlace (last : Option Nat) (a : Nat) : Nat × Nat :=
  match last with
  | some x => if x < a then (0, a) else (1, a)
  | none => (0, a)

def placeBefore (x y : Nat × Nat) : Bool := decide (x.1 < y.1) || (x.1 == y.1 && decide (x.2 < y.2))

/-- Has the span an S-word ready to issue (R161)? -/
def scalarReady (s : State) (u : Nat) (sp : Span) : Bool :=
  !scalarIssued sp && goesOn s u (scalarRun s u) && Config.codeReady u s.cycle

/-- May the span's scalar stream move? An S-word issues when the bay has issued none in this cycle, and no span before it in the
round has one ready (R160, R161). -/
def scalarFree (s : State) (u : Nat) : Bool :=
  match spanOf s u with
  | none => true
  | some sp => scalarIssued sp || (decide ((bayIssue s sp).scalar ≤ s.cycle) &&
      (bayOthers s u sp).all (fun p =>
        !(placeBefore (roundPlace (bayIssue s sp).last p.2.age) (roundPlace (bayIssue s sp).last sp.age) &&
          scalarReady s p.1 p.2)))

end Sys2Proof.Machine
end

