-- ==== Sys2Proof/Machine/Schedule.lean ====
section
/-! DEFINITION. Who moves next: what a turn comes to, the turns that the package's own agents may take (log 2), time, and
the small machine in which one word runs (log 10). -/

namespace Sys2Proof.Machine
open Sys2Proof

/-- Time passes (log 6). -/
def passTime (s : State) (cycles ticks : Nat) : State :=
  { s with cycle := if clocked s then s.cycle + cycles else s.cycle, ticks := s.ticks + ticks }

/-- The outcome of what a turn comes to. -/
def runFetched (f : Fetched) : Res :=
  match f with
  | .out r => r
  | .run i s => exec i s

/-- What a turn does. -/
def turnRes (s : State) (t : Turn) : Res :=
  match t with
  | .scalar u => if scalarFree s u then scalarTurn s u else .fault .notEnabled
  | .lane u => if laneFree s u then laneTurn s u else .fault .notEnabled
  | .fp die i => runFetched (fetchFp s die i)
  | .frontEnd => runFetched (fetchFrontEnd s)
  | .event i x => runFetched (fetchEvent s i x)
  | .time c k => .next (passTime s c k)

/-- The spans whose unit a turn may complete. -/
def turnSpans (s : State) (t : Turn) : List Nat :=
  match t with
  | .scalar u => [u]
  | .lane u => [u]
  | .event .barwaitEnd x => [x.id]
  | .event .barwaitTimeout x => [x.id]
  | .event .fifoPushResume x => [x.id]
  | .event .quantumEnd x => (s.spans.filter (fun p => p.2.deck == x.id)).map Prod.fst
  | _ => []

/-- Span `u` has moved on in its program, or has trapped. -/
def unitDone (s t : State) (u : Nat) : Bool :=
  match spanOf s u, spanOf t u with
  | some a, some b => a.ltime != b.ltime || a.traps.length != b.traps.length || a.queue != b.queue
  | _, _ => false

/-- After a turn: the undo entries of the units that it has completed (R208). -/
def afterTurn (s : State) (t : Turn) (r : Res) : Res :=
  match r with
  | .next s' => .next ((turnSpans s t).foldl (fun x u => if unitDone s s' u then logUndo s x u else x) s')
  | r => r

/-- A turn is taken. -/
def runTurn (s : State) (t : Turn) : Res := afterTurn s t (turnRes s t)

/-! ### The turns that may be free choices (log 2) -/

def evId (i : Instr) (n : Nat) : Turn := .event i { id := n }
def evA (i : Instr) (n : Nat) : Turn := .event i { a := n }
def evCore (i : Instr) (g a : Nat) : Turn := .event i { core := g, a := a }

/-- The row with which a packet in flight goes on. -/
def pktRow (op : Nat) : List Instr :=
  if 16 < op then (packetInstr 8 (op - 16)).toList else (packetInstr op 0).toList

/-- Turns of spans, loads and requests. -/
def spanTurns (s : State) : List Turn :=
  s.spans.flatMap (fun p => [.scalar p.1, .lane p.1, evId .barwaitEnd p.1, evId .barwaitTimeout p.1, evId .fifoPushResume p.1]) ++
  s.loads.map (fun p => evId .loadFill p.1) ++
  s.reqs.flatMap (fun p => [Instr.plainWindowExpire, .quadMergeRequest, .homeRead, .homeStoreCheck, .homeStoreData, .homeAtomic,
    .releaseMarkerClear, .homeDropc, .countedFillWaitEnd, .expanderCompletion].map (fun i => evId i p.1)) ++
  s.merges.flatMap (fun p => [evId .homeRead p.1, evId .homeConsumingAccess p.1, evId .homeCountedFill p.1]) ++
  s.lands.map (fun p => evId .barrierLanding p.1)

/-- Turns of cores and their engines. -/
def coreTurns (s : State) : List Turn :=
  s.cores.flatMap (fun c => [evCore .shadowSwap c.1 0, evCore .swapComplete c.1 0, evCore .spillResume c.1 0] ++
    c.2.banks.flatMap (fun b => [evCore .fifoPopFill c.1 b.1, evCore .bankSwitchComplete c.1 b.1]) ++
    c.2.l1.map (fun x => evCore .dirtyLineWriteback c.1 x.line)) ++
  s.ctxs.flatMap (fun c => c.2.queues.flatMap (fun q => q.2.flatMap (fun e =>
    [evId .copyRun e.seq, evId .mmaRun e.seq, evId .mmaDone e.seq, evId .acstRun e.seq, evId .collEntryStart e.seq]))) ++
  s.decks.flatMap (fun d => [evId .deckStart d.1, evId .deckRetire d.1, evId .quantumEnd d.1, evId .noProgress d.1,
    evA .collEntryStart d.1])

/-- Turns of the distributor, the front end, the translation service and the mesh. -/
def hostTurns (s : State) : List Turn :=
  [.frontEnd, evId .deckPlace 0, evId .gangReserve 0, evId .gangCommit 0, evId .hostFlushCompletion 0, evId .attestationDone 0] ++
  (List.range 8).map (evA .delayedRingPush) ++ s.launches.map (fun p => evId .phaseStart p.1) ++
  s.runs.map (fun p => evA .launchComplete p.1) ++ s.walks.map (fun p => evId .walkComplete p.1) ++
  s.fe.shoots.flatMap (fun p => [evId .shootdownBoundExpire p.1, evId .shootdownRemoval p.1]) ++
  s.fe.pkts.flatMap (fun p => [evId .resumePlacement p.1, evId .acquireTimeout p.1, evId .waitTimeout p.1] ++
    (pktRow p.2.op).map (fun i => evId i p.1)) ++
  s.fe.compl.map (fun c => evId .hostOwnershipGrant c.q) ++
  s.meshMsgs.flatMap (fun p => [evId .meshContribution p.1, evId .meshPartial p.1, evId .startNotice p.1]) ++
  s.rounds.flatMap (fun p => [evA .meshPartial p.1, evA .reductionTimeout p.1]) ++
  (List.range 16).map (fun d => Turn.event .blackBoxSave { die := d }) ++ (List.range 22).map (evA .routeInstall)

/-- Turns of the fabric. -/
def fabricTurns (s : State) : List Turn :=
  s.fab.pkts.flatMap (fun p => [evId .packetReceive p.1, evId .packetResend p.1, evId .negativeAcknowledgement p.1]) ++
  s.fab.sends.map (fun p => evId .sendAcknowledged p.1) ++ s.fab.entries.map (fun p => evId .chunkSweep p.1) ++
  s.fab.drains.flatMap (fun p => [evId .drainEnd p.1, evId .drainBoundExpire p.1]) ++
  s.fab.fetches.map (fun p => evId .wfetchServe p.1) ++
  s.fab.fps.flatMap (fun p => [.fp (p.1 / 4) (p.1 % 4), .event .recvTimeout { die := p.1 / 4, a := p.1 % 4 },
    .event .updTimeout { die := p.1 / 4, a := p.1 % 4 }]) ++
  (s.fab.out.filter (fun o => o.1 == Config.package)).map (fun o => .event .versionNotice { a := o.2.1, b := o.2.2 })

/-- Every turn that a free choice can name; time is one of them. -/
def freeTurns (s : State) : List Turn :=
  spanTurns s ++ coreTurns s ++ hostTurns s ++ fabricTurns s ++ [.time 1 0, .time 0 1]

/-- The turn of the `k`-th free choice (log 2). -/
def pickTurn (s : State) : Turn :=
  let l := freeTurns s
  l.getD (Config.pick s.fresh l.length % l.length) (.time 1 0)

/-- A free choice: where the chosen agent is not ready, a cycle passes. -/
def freeTurn (s : State) : Res :=
  let s' := { s with fresh := s.fresh + 1 }
  match runTurn s' (pickTurn s) with
  | .next t => .next t
  | _ => .next (passTime s' 1 0)

/-! ### A machine that runs one word (log 10) -/

def probeRoot : Nat := 0x100000
def probeCode : Nat := 0x10000
def probeLanes : Nat := 0x20000

/-- One translation for the whole address space, onto equal physical addresses. -/
def probeTlb : Tlb := ⟨probeRoot, 0, 45, 0, false, true, true, false⟩

def probeLaunch : Launch :=
  { number := 1, key := 1, root := probeRoot, entry := BitVec.ofNat 64 probeCode, laneBase := BitVec.ofNat 64 probeLanes,
    sysctx := 0, trapEntry := BitVec.ofNat 64 probeCode, emuEntry := 0, frameBase := 0x40000, undoBase := 0, dims := (1, 1, 1),
    spansPerDeck := 1, vregs := 256, scratch := 0, banksC := 0, banksS := 0, banksF := 0, prio := 0, det := false,
    parapet := false, debug := false, gang := false, quantumLen := 0, spill := 0x80000, fslots := List.replicate 8 0,
    regions := [], writes := [], strides := [], record := 0, snapshot := [], nets := [], phase := 0, begun := false,
    phaseLen := 0, watchdog := 1048576, tile := none }

def probeDeck : Deck :=
  ⟨2, 0, (0, 0, 0), 0, false, [], true, 0, 0, false, [], 0, false, false, false, [], [], 0, false, [1], false, none⟩

/-- A span about to run its first S-word, with the blocks given. -/
def probeSpan (queue : List Block) : Span := { newSpan probeLaunch 0 0 0 3 0 false 0 0 with queue := queue }

/-- A block of one L-word. -/
def probeBlock : Block := ⟨BitVec.ofNat 64 probeCode, false, 0, 0, 0, 1, 0, 0, false, [], [], [], none⟩

/-- The package runs, with a launch of one span on core 0 and an idle fabric processor 0 on die 0 under job key 1. -/
def probeMachine (s : State) (queue : List Block) : State :=
  let core : Core := { Core.init with stlb := [probeTlb] }
  let m : Mgmt := { s.mg with
    enabled := true, safe := false, step := 7, power := 0, failedDies := [], failedQuads := [], retrain := [], cwDown := 0 }
  let fe : FrontEnd := { s.fe with
    regs := mapPut (mapPut s.fe.regs 0x4000 1) 0x4008 (BitVec.ofNat 64 probeRoot) }
  { s with
    mg := m, fe := fe, nextId := max s.nextId 16
    runs := mapPut s.runs 1 ⟨1, none, [], 0⟩, launches := mapPut s.launches 2 probeLaunch
    decks := mapPut s.decks 3 probeDeck, spans := mapPut s.spans 1 (probeSpan queue)
    cores := mapPut (mapPut s.cores 0 core) 512 core
    reqs := s.reqs.filter (fun p => p.2.core != 0 && p.2.core != 512), fails := [], faults := []
    lines := s.lines.filter (fun p => p.1 != probeCode / 128 && p.1 != probeLanes / 128) }

end Sys2Proof.Machine
end

