-- ==== Sys2Proof/Machine/Step.lean ====
section
/-! DEFINITION. One step of the package, and the machine in which a given word is the next to run. -/

namespace Sys2Proof.Machine
open Sys2Proof

/-- One step: the turn at the head of the agenda, or a free choice where the agenda is empty (log 2). -/
def step (s : State) : Host.Outcome State Fault Refusal :=
  match s.agenda with
  | t :: rest => runTurn { s with agenda := rest } t
  | [] => freeTurn s

/-- The machine whose next step fetches and runs the word `w` of the opcode table (log 10): an L-word as the only word of a
block, a word that only Trelix has on a fabric processor, any other as an S-word. -/
def State.withFetchWord (s : State) (nbits w : Nat) : State :=
  if nbits = 96 then
    { memWrite (probeMachine s [probeBlock]) probeLanes (natToBytes 12 w) with agenda := [.lane 1] }
  else
    let t := { memWrite (probeMachine s []) probeCode (natToBytes 4 w) with agenda := [.scalar 1] }
    let word : Word32 := BitVec.ofNat 32 w
    if isNoInstr (decodeS word) && !isNoInstr (decodeT word) then
      let f : Fp := ⟨true, [], probeCode, 1, 0x40000, .none, none, none, false⟩
      { putFp t 0 f with agenda := [.fp 0 0] }
    else t

end Sys2Proof.Machine
end

