-- ==== Sys2Proof/Safety.lean ====
section
/-! DEFINITION. The terms in which statements about runs are made: when a span, a pass, an access is ready, so that the
instruction has its own effect rather than waiting or trapping; the canonical form of memory. -/

namespace Sys2Proof.Machine
open Sys2Proof

/-- Memory in canonical form: addresses strictly rising, no entry equal to what an unlisted address reads as. -/
def Memory.wf (m : List Host.Cell) : Bool := mapWf (0 : Byte) m

/-- The span that acts in this step. -/
def Acting (s : State) (sp : Span) : Prop := spanOf s s.cur.uid = some sp

/-- The span that acts in this step, and its launch. -/
def ActingIn (s : State) (sp : Span) (l : Launch) : Prop := Acting s sp ∧ launchOf s sp = some l

/-- The scalar registers are full and hold no uncorrectable error (R44, R115, R326). -/
def ScalarsReady (sp : Span) (rs : List Nat) : Prop :=
  ∀ r ∈ rs, sFull sp r = true ∧ (sp.badS.getLsbD r && sFull sp r) = false

/-- A pass runs: its registers are within `.vregs`, its sources can be read and hold no error, its destinations have no fill
pending (R44, R45, R54, R56, R326), and the turn issues it and does not only test what its position reads (R45). -/
def PassReady (s : State) (sp : Span) (l : Launch) (srcs : List Source) (dst : List Nat) (sdst : Option Nat) : Prop :=
  ActingIn s sp l ∧
  (∀ r ∈ dst ++ srcs.flatMap sourceRegs, r < l.vregs) ∧
  (∀ x ∈ srcs, sourceReady sp x = true ∧ sourceBad sp s.cur.mask x = false) ∧
  (∀ r ∈ dst, vFull sp r = true) ∧ (∀ r ∈ sdst.toList, sFull sp r = true) ∧ s.cur.test = none

/-- Scratch of the acting span's deck at an address: aligned, in a bank in scratch mode that is not switching (R103). -/
def ScratchAt (s : State) (sp : Span) (a w : Nat) (d : Deck) : Prop :=
  inLocal a = true ∧ a % w = 0 ∧ deckOf s sp.deck = some d ∧
  ∃ b, localMode s d (a - localLo) = some b ∧ b.mode = .scratch ∧ b.switch = []

/-- Every byte of memory reads as before. -/
def SameMemory (s t : State) : Prop := ∀ pa, memByte t pa = memByte s pa ∧ homeByte t pa = homeByte s pa

end Sys2Proof.Machine
end

