-- ==== Sys2Proof/Certificates/Slice0/Obligations.lean ====
section
/-! DEFINITION. The statements for the provers. Each is about the model's own `exec`, `step` and decoders; its docstring
names the rules of spec/ that it formalises. A statement whose conclusion is `exec i s = .next t` gives the whole next
state, so it is that instruction's frame too: what `t` does not change of `s` is unchanged. -/

open Sys2Proof Sys2Proof.Machine

/-! ### Scalar integer and logic (R119 to R123) -/

namespace Sys2Proof.Machine

/-- F(x, y) of the two-source instructions, as R119 writes it. -/
def twoSourceOps (d a b : BitVec 6) : List (Instr × (Word64 → Word64 → Word64)) :=
  [(.add d a b, fun x y => x + y), (.sub d a b, fun x y => x - y), (.mul d a b, fun x y => x * y),
   (.mulh d a b, fun x y => BitVec.ofInt 64 (x.toInt * y.toInt / 2 ^ 64)),
   (.mulhn d a b, fun x y => BitVec.ofNat 64 (x.toNat * y.toNat / 2 ^ 64)),
   (.and d a b, fun x y => x &&& y), (.or d a b, fun x y => x ||| y), (.xor d a b, fun x y => x ^^^ y),
   (.andn d a b, fun x y => x &&& ~~~ y), (.orn d a b, fun x y => x ||| ~~~ y),
   (.sll d a b, fun x y => x <<< (y.toNat % 64)), (.srl d a b, fun x y => x >>> (y.toNat % 64)),
   (.sra d a b, fun x y => x.sshiftRight (y.toNat % 64)), (.rotl d a b, fun x y => x.rotateLeft (y.toNat % 64)),
   (.rotr d a b, fun x y => x.rotateRight (y.toNat % 64))] ++
  [(.min d a b, fun x y => if y.slt x then y else x), (.max d a b, fun x y => if x.slt y then y else x),
   (.minn d a b, fun x y => if y.ult x then y else x), (.maxn d a b, fun x y => if x.ult y then y else x)]

/-- The divisions, with their results for y = 0 (R120). -/
def divisionOps (d a b : BitVec 6) : List (Instr × (Word64 → Word64 → Word64)) :=
  [(.div d a b, fun x y => if y = 0 then BitVec.allOnes 64 else BitVec.ofInt 64 (x.toInt.tdiv y.toInt)),
   (.divn d a b, fun x y => if y = 0 then BitVec.allOnes 64 else BitVec.ofNat 64 (x.toNat / y.toNat)),
   (.rem d a b, fun x y => if y = 0 then x else BitVec.ofInt 64 (x.toInt - y.toInt * x.toInt.tdiv y.toInt)),
   (.remn d a b, fun x y => if y = 0 then x else BitVec.ofNat 64 (x.toNat % y.toNat))]

/-- The compares: 1 where the condition holds, else 0 (R121). -/
def compareOps (d a b : BitVec 6) : List (Instr × (Word64 → Word64 → Word64)) :=
  [(.seq d a b, fun x y => if x == y then 1 else 0), (.sne d a b, fun x y => if x != y then 1 else 0),
   (.slt d a b, fun x y => if x.slt y then 1 else 0), (.sge d a b, fun x y => if !x.slt y then 1 else 0),
   (.sltn d a b, fun x y => if x.ult y then 1 else 0), (.sgen d a b, fun x y => if !x.ult y then 1 else 0)]

/-- F(x) of the one-source instructions (R119). -/
def oneSourceOps (d a : BitVec 6) : List (Instr × (Word64 → Word64)) :=
  [(.clz d a, fun x => BitVec.ofNat 64 (clzNat 64 x.toNat)), (.ctz d a, fun x => BitVec.ofNat 64 (ctzNat 64 x.toNat)),
   (.popc d a, fun x => BitVec.ofNat 64 (popCount x)),
   (.sextI8 d a, fun x => (x.setWidth 8).signExtend 64), (.sextI16 d a, fun x => (x.setWidth 16).signExtend 64),
   (.sextI32 d a, fun x => (x.setWidth 32).signExtend 64), (.zextN8 d a, fun x => (x.setWidth 8).zeroExtend 64),
   (.zextN16 d a, fun x => (x.setWidth 16).zeroExtend 64), (.zextN32 d a, fun x => (x.setWidth 32).zeroExtend 64)]

/-- F(x) of the immediate forms (R122) and of the immediate shifts (R123). -/
def immediateOps (d a : BitVec 6) (imm : BitVec 14) (n : BitVec 6) : List (Instr × (Word64 → Word64)) :=
  [(.addi d a imm, fun x => x + imm.signExtend 64), (.andi d a imm, fun x => x &&& imm.zeroExtend 64),
   (.ori d a imm, fun x => x ||| imm.zeroExtend 64), (.xori d a imm, fun x => x ^^^ imm.zeroExtend 64),
   (.slin d a imm, fun x => (x <<< 14) ||| imm.zeroExtend 64),
   (.slti d a imm, fun x => if x.slt (imm.signExtend 64) then 1 else 0),
   (.sltni d a imm, fun x => if x.ult (imm.zeroExtend 64) then 1 else 0),
   (.seqi d a imm, fun x => if x == imm.signExtend 64 then 1 else 0),
   (.slli d a n, fun x => x <<< ((n.zeroExtend 64 : Word64).toNat % 64)),
   (.srli d a n, fun x => x >>> ((n.zeroExtend 64 : Word64).toNat % 64)),
   (.srai d a n, fun x => x.sshiftRight ((n.zeroExtend 64 : Word64).toNat % 64)),
   (.rotli d a n, fun x => x.rotateLeft ((n.zeroExtend 64 : Word64).toNat % 64))]

/-- The values of fn, in the order of the lists above (R119, R121). -/
def twoSourceCodes : List (BitVec 8) :=
  [0x01, 0x02, 0x03, 0x04, 0x05, 0x10, 0x11, 0x12, 0x13, 0x14, 0x18, 0x19, 0x1A, 0x1B, 0x1C, 0x20, 0x21, 0x22, 0x23]
def divisionCodes : List (BitVec 8) := [0x06, 0x07, 0x08, 0x09]
def compareCodes : List (BitVec 8) := [0x00, 0x01, 0x02, 0x03, 0x04, 0x05]
def oneSourceCodes : List (BitVec 8) := [0x28, 0x29, 0x2A, 0x30, 0x31, 0x32, 0x34, 0x35, 0x36]
/-- The majors of the immediate forms (R122), in the order of the list above. -/
def immediateMajors : List (BitVec 6) := [0x02, 0x03, 0x04, 0x05, 0x07, 0x08, 0x09, 0x0A]

end Sys2Proof.Machine

/-- R119, R120, R121: S[d] := F(S[a], S[b]) for every two-source instruction, on every value of its registers, S63 among
them; nothing else of the package changes but the span's pc, its S-word count and its single-step state.
R119, R122, R123: S[d] := F(S[a]) for every one-source and immediate instruction.
R119, R121 to R123: the words of these instructions: format S.R with major 0x00 or 0x01 and fn, sb zero for one source, an unlisted fn ILLEGAL; format S.I with its major; the shifts of major 0x06 by [13:12], with [11:6] zero; and the
examples that the rules give. -/
def Obligations.ScalarResult : Prop :=
  (∀ (d a b : BitVec 6) (s : State) (sp : Span), Acting s sp → ScalarsReady sp [a.toNat, b.toNat, d.toNat] →
     ∀ p ∈ twoSourceOps d a b ++ divisionOps d a b ++ compareOps d a b,
       exec p.1 s = .next (putSpan s s.cur.uid
         (advance (sWrite sp d.toNat (p.2 (sRead sp a.toNat) (sRead sp b.toNat)))))) ∧
  (∀ (d a n : BitVec 6) (imm : BitVec 14) (s : State) (sp : Span), Acting s sp → ScalarsReady sp [a.toNat, d.toNat] →
     ∀ p ∈ oneSourceOps d a ++ immediateOps d a imm n,
       exec p.1 s = .next (putSpan s s.cur.uid (advance (sWrite sp d.toNat (p.2 (sRead sp a.toNat)))))) ∧
  (∀ (d a b n z : BitVec 6) (imm : BitVec 14) (fn : BitVec 8),
     (∀ p ∈ ((twoSourceOps d a b).map Prod.fst).zip twoSourceCodes ++ ((divisionOps d a b).map Prod.fst).zip divisionCodes,
       decodeS (0x00#6 ++ d ++ a ++ b ++ p.2) = p.1) ∧
     (∀ p ∈ ((compareOps d a b).map Prod.fst).zip compareCodes, decodeS (0x01#6 ++ d ++ a ++ b ++ p.2) = p.1) ∧
     (∀ p ∈ ((oneSourceOps d a).map Prod.fst).zip oneSourceCodes,
       decodeS (0x00#6 ++ d ++ a ++ b ++ p.2) = if b = 0 then p.1 else .illegalEncoding) ∧
     (fn ∉ twoSourceCodes ++ divisionCodes ++ oneSourceCodes → decodeS (0x00#6 ++ d ++ a ++ b ++ fn) = .illegalEncoding) ∧
     (fn ∉ compareCodes → decodeS (0x01#6 ++ d ++ a ++ b ++ fn) = .illegalEncoding) ∧
     (∀ p ∈ ((immediateOps d a imm n).map Prod.fst).zip immediateMajors, decodeS (p.2 ++ d ++ a ++ imm) = p.1) ∧
     (∀ p ∈ [((0 : BitVec 2), Instr.slli d a n), (1, .srli d a n), (2, .srai d a n), (3, .rotli d a n)],
       decodeS (0x06#6 ++ d ++ a ++ (p.1 ++ z ++ n)) = if z = 0 then p.2 else .illegalEncoding) ∧
     decodeS 0x00518702#32 = .sub 5 6 7 ∧ decodeS 0x04518704#32 = .sltn 5 6 7 ∧
     decodeS 0x18308005#32 = .slli 3 2 5 ∧ decodeS 0x1830A03F#32 = .srai 3 2 63)

/-- R2: S63 reads as zero and a write to it is discarded, whatever a span holds; every other scalar register reads back
what was written to it, and a write leaves every other register as it was. -/
def Obligations.ZeroRegisterAndReadBack : Prop :=
  ∀ (sp : Span) (r q : Nat) (x : Word64),
    sRead sp 63 = 0 ∧ sWrite sp 63 x = sp ∧
    (r ≠ 63 → sRead (sWrite sp r x) r = x) ∧ (q ≠ r → sRead (sWrite sp r x) q = sRead sp q)

/-- The frame of every scalar arithmetic instruction, in terms of what can be read: memory at every address, every other
span, and in its own span every scalar register but d, every vector register, `am`, `live`, the planes and the stacks
are as before, and the pc moves on by one S-word. (R119 to R123) -/
def Obligations.ScalarArithmeticFrame : Prop :=
  ∀ (d a b n : BitVec 6) (imm : BitVec 14) (s t : State) (sp : Span), Acting s sp →
    ScalarsReady sp [a.toNat, b.toNat, d.toNat] →
    ∀ i ∈ ((twoSourceOps d a b ++ divisionOps d a b ++ compareOps d a b).map Prod.fst ++
        (oneSourceOps d a ++ immediateOps d a imm n).map Prod.fst),
      exec i s = .next t →
        SameMemory s t ∧ (∀ u, u ≠ s.cur.uid → spanOf t u = spanOf s u) ∧
        ∃ sp', spanOf t s.cur.uid = some sp' ∧ sp'.spc = sp.spc + 4 ∧ (∀ r, r ≠ d.toNat → sRead sp' r = sRead sp r) ∧
          (∀ r lane, vRead sp' r lane = vRead sp r lane) ∧ sp'.sEmpty = sp.sEmpty ∧ sp'.vEmpty = sp.vEmpty ∧
          sp'.am = sp.am ∧ sp'.live = sp.live ∧ sp'.pl = sp.pl ∧ sp'.masks = sp.masks ∧ sp'.rets = sp.rets ∧
          sp'.queue = sp.queue ∧ sp'.hdepth = sp.hdepth

/-! ### Control flow, stacks, masks, planes (R37, R129 to R136) -/

namespace Sys2Proof.Machine

/-- The branches and their conditions on S[a] and `am` (R129). -/
def branchOps (a : BitVec 6) (disp : BitVec 16) (am : BitVec 32) : List (Instr × (Word64 → Bool)) :=
  [(.beqz a disp, fun x => x == 0), (.bnez a disp, fun x => x != 0), (.bltz a disp, fun x => x.slt 0),
   (.bgez a disp, fun x => !x.slt 0), (.bgtz a disp, fun x => (0#64).slt x), (.blez a disp, fun x => !(0#64).slt x),
   (.bmz a disp, fun x => x.extractLsb' 0 32 &&& am == 0), (.bmnz a disp, fun x => x.extractLsb' 0 32 &&& am != 0)]

/-- The span after a unit that continues at `pc`. -/
def jumpTo (sp : Span) (pc : Word64) : Span := { countUnit sp with spc := pc }

/-- An access of the span outside its load and store instructions reaches scratch of its deck or HBM4E (R103, R104, R108, R308). -/
def OwnAt (s : State) (sp : Span) (l : Launch) (va kind : Nat) (p : Nat ⊕ Nat) : Prop :=
  va < vaTop ∧ inQuad va = false ∧ match p with
    | .inl off => inLocal va = true ∧ off = va - localLo ∧
      ∃ d b, deckOf s sp.deck = some d ∧ localMode s d off = some b ∧ b.mode = .scratch ∧ b.switch = []
    | .inr pa => inLocal va = false ∧ (∃ bar, xlate s sp l va kind = .ok pa bar) ∧ isHbm pa = true ∧
      routeWaits s (dieOfCore sp.core) (dieOfPa pa) = false

/-- Such a write runs: no older access of the span on its bytes waits (R38), the line is not counted and no counted fill waits for it
(R107, R229), and a deterministic launch's commit buffer has room (R299). -/
def OwnWritable (s : State) (sp : Span) (l : Launch) (va : Nat) (p : Nat ⊕ Nat) : Prop :=
  OwnAt s sp l va 1 p ∧ (l.det = true → sp.buffer.length < 512) ∧ match p with
    | .inl _ => atomicsOn s s.cur.uid (va / 128) = false
    | .inr pa => unread s s.cur.uid (fun x => x == pa / 128) = [] ∧ fillWaits s (pa / 128) 0 = false ∧
      (l.det = false → (homeOf s (pa / 128)).counted = false)

/-- Such a read of `n` bytes runs: no atomic of the span on them is under way (R38), and they hold no error (R326). -/
def OwnReadable (s : State) (sp : Span) (l : Launch) (va n : Nat) (p : Nat ⊕ Nat) : Prop :=
  OwnAt s sp l va 0 p ∧ match p with
    | .inl off => atomicsOn s s.cur.uid (va / 128) = false ∧ ∀ d, deckOf s sp.deck = some d → localBad s d off n = false
    | .inr pa => atomicsOn s s.cur.uid (pa / 128) = false ∧
      (if l.det = true then viewBad s sp va pa n else bytesBad s sp.core pa n) = false

/-- What it reads, the span's own buffered bytes before its deck's or its core's (R163, R246, R260). -/
def ownValue (s : State) (sp : Span) (l : Launch) (va n : Nat) : Nat ⊕ Nat → Nat
  | .inl off => bytesToNat ((List.range n).map (fun i => match ownByte sp.buffer (va + i) with
      | some b => b
      | none => (deckOf s sp.deck).elim 0 (fun d => localByte s d (off + i))))
  | .inr pa => viewRead s sp l va pa n

/-- The use that it makes of its line, or of the words in scratch (R163, R255). -/
def ownUse (s : State) (sp : Span) (l : Launch) (va n : Nat) : Nat ⊕ Nat → State
  | .inl off => (deckOf s sp.deck).elim s (fun d => seeLocal s d off n s.cur.uid)
  | .inr pa => if l.det = true then s else useLine s sp.core pa va n

/-- The span's older stores, atomics and `dropc`s are performed at a scope, and its older loads have their bytes (R255 to R257). -/
def StoresDone (s : State) (sp : Span) (scope : Nat) : Prop :=
  if scope = 1 then atomicsOf s s.cur.uid = [] ∧ unread s s.cur.uid (fun _ => true) = []
  else allPerformed s sp s.cur.uid = true

/-- They are so for an arrival that holds markers for `n` global barriers, or for which its core's 64 markers have room (R256, R265). -/
def ArriveDone (s : State) (sp : Span) (scope n : Nat) : Prop :=
  match sp.pend with
  | .arrive _ => StoresDone s sp scope
  | _ => if n = 0 then StoresDone s sp scope else markers s sp.core + n ≤ 64 ∧ allPerformed s sp s.cur.uid = true

end Sys2Proof.Machine

/-- R129: a branch goes to its own address plus 4·disp where its condition holds on S[a], else to the next S-word; nothing
else changes.
R130, R131, R37: `jmp` and `call` go to their address plus 4·disp, the register forms to S[a], where the target is a 4-byte aligned
address below 2^57; a call pushes the address of the next S-word, and `ret` pops it and goes there. Depths that need no spill. -/
def Obligations.ControlFlow : Prop :=
  (∀ (a : BitVec 6) (disp : BitVec 16) (s : State) (sp : Span), Acting s sp → ScalarsReady sp [a.toNat] →
     ∀ p ∈ branchOps a disp sp.am,
       exec p.1 s = .next (putSpan s s.cur.uid (jumpTo sp
         (if p.2 (sRead sp a.toNat) then sp.spc + (disp.signExtend 64 <<< 2) else sp.spc + 4)))) ∧
  (∀ (a : BitVec 6) (disp : BitVec 26) (s : State) (sp : Span) (l : Launch), ActingIn s sp l →
     ((jumpTarget sp disp).toNat % 4 = 0 → (jumpTarget sp disp).toNat < vaTop →
       exec (.jmp disp) s = .next (putSpan s s.cur.uid (jumpTo sp (sp.spc + (disp.signExtend 64 <<< 2)))) ∧
       (sp.rets.depth < 8 →
         exec (.call disp) s = .next (putSpan s s.cur.uid (jumpTo
           { sp with rets := ⟨(sp.spc + 4) :: sp.rets.hw, sp.rets.depth + 1⟩ } (sp.spc + (disp.signExtend 64 <<< 2)))))) ∧
     (ScalarsReady sp [a.toNat] → (sRead sp a.toNat).toNat % 4 = 0 → (sRead sp a.toNat).toNat < vaTop →
       exec (.jmpRegister a) s = .next (putSpan s s.cur.uid (jumpTo sp (sRead sp a.toNat))) ∧
       (sp.rets.depth < 8 →
         exec (.callRegister a) s = .next (putSpan s s.cur.uid (jumpTo
           { sp with rets := ⟨(sp.spc + 4) :: sp.rets.hw, sp.rets.depth + 1⟩ } (sRead sp a.toNat))))) ∧
     (∀ t rest, sp.rets.hw = t :: rest → 0 < sp.rets.depth → sp.rets.depth ≤ 8 → t.toNat % 4 = 0 → t.toNat < vaTop →
       exec .ret s = .next (putSpan s s.cur.uid (jumpTo { sp with rets := ⟨rest, sp.rets.depth - 1⟩ } t))))

/-- R133: the mask stack. `mpush` saves `am` and the mask and narrows `am`; `melse` gives the lanes of the saved `am` outside the mask; `mpop`
restores `am`; every write of `am` is ANDed with `live` (R30). Depths that need no spill.
R37, R130, R131, R133: beyond depth 8 `call`, its register form and `mpush` first write their stack's oldest held entry to the span's spill
part, at the address of its entry number, and `ret` and `mpop` read it back from there; the conditions are those of a plain access (R103,
R104, R107, R108, R149) and that the span's own older accesses of the line are done (R38). At depth 264 a push traps ILLEGAL; `ret` on an
empty stack traps RET_EMPTY, `melse` and `mpop` MASKSTACK_EMPTY; a target off a 4-byte boundary traps MISALIGNED (the trap is the conclusion).
R134: plane numbers. `plall` sets them for every lane, `plmask` reads the live lanes in plane k, `plget` the packed planes. -/
def Obligations.MasksAndPlanes : Prop :=
  (∀ (a d : BitVec 6) (s : State) (sp : Span) (l : Launch), ActingIn s sp l →
     (ScalarsReady sp [a.toNat] → sp.masks.depth < 8 →
       exec (.mpush a) s = .next (putSpan s s.cur.uid (advance { sp with
         masks := ⟨((sRead sp a.toNat).extractLsb' 0 32 ++ sp.am) :: sp.masks.hw, sp.masks.depth + 1⟩,
         am := (sp.am &&& (sRead sp a.toNat).extractLsb' 0 32) &&& sp.live }))) ∧
     (∀ (m saved : BitVec 32) (rest : List Word64), sp.masks.hw = (m ++ saved) :: rest → 0 < sp.masks.depth →
       exec .melse s = .next (putSpan s s.cur.uid (advance { sp with am := (saved &&& ~~~ m) &&& sp.live })) ∧
       (sp.masks.depth ≤ 8 →
         exec .mpop s = .next (putSpan s s.cur.uid (advance { sp with
           masks := ⟨rest, sp.masks.depth - 1⟩, am := saved &&& sp.live })))) ∧
     (ScalarsReady sp [a.toNat] →
       exec (.mset a) s = .next (putSpan s s.cur.uid (advance { sp with am := (sRead sp a.toNat).extractLsb' 0 32 &&& sp.live }))) ∧
     (ScalarsReady sp [d.toNat] →
       exec (.mget d) s = .next (putSpan s s.cur.uid (advance (sWrite sp d.toNat (sp.am.zeroExtend 64)))) ∧
       exec (.lget d) s = .next (putSpan s s.cur.uid (advance (sWrite sp d.toNat (sp.live.zeroExtend 64)))))) ∧
  (∀ (a : BitVec 6) (disp : BitVec 26) (s : State) (sp : Span) (l : Launch) (p : Nat ⊕ Nat), ActingIn s sp l →
     (8 ≤ sp.rets.depth → sp.rets.depth < 264 → OwnWritable s sp l (spillAddr l sp true (sp.rets.depth - 8)) p →
       ∀ r, r = ownWrite s sp sp l (spillAddr l sp true (sp.rets.depth - 8)) p (natToBytes 8 (sp.rets.hw.getLastD 0).toNat) →
         ((jumpTarget sp disp).toNat % 4 = 0 → (jumpTarget sp disp).toNat < vaTop →
           exec (.call disp) s = .next (putSpan r.1 r.1.cur.uid (jumpTo
             { r.2 with rets := ⟨(sp.spc + 4) :: sp.rets.hw.take 7, sp.rets.depth + 1⟩ } (sp.spc + (disp.signExtend 64 <<< 2))))) ∧
         (ScalarsReady sp [a.toNat] → (sRead sp a.toNat).toNat % 4 = 0 → (sRead sp a.toNat).toNat < vaTop →
           exec (.callRegister a) s = .next (putSpan r.1 r.1.cur.uid (jumpTo
             { r.2 with rets := ⟨(sp.spc + 4) :: sp.rets.hw.take 7, sp.rets.depth + 1⟩ } (sRead sp a.toNat))))) ∧
     (8 ≤ sp.masks.depth → sp.masks.depth < 264 → ScalarsReady sp [a.toNat] →
       OwnWritable s sp l (spillAddr l sp false (sp.masks.depth - 8)) p →
       ∀ r, r = ownWrite s sp sp l (spillAddr l sp false (sp.masks.depth - 8)) p (natToBytes 8 (sp.masks.hw.getLastD 0).toNat) →
         exec (.mpush a) s = .next (putSpan r.1 r.1.cur.uid (advance { r.2 with
           masks := ⟨((sRead sp a.toNat).extractLsb' 0 32 ++ sp.am) :: sp.masks.hw.take 7, sp.masks.depth + 1⟩,
           am := (r.2.am &&& (sRead sp a.toNat).extractLsb' 0 32) &&& r.2.live }))) ∧
     (8 < sp.rets.depth → OwnReadable s sp l (spillAddr l sp true (sp.rets.depth - 9)) 8 p →
       (sp.rets.hw.headD 0).toNat % 4 = 0 → (sp.rets.hw.headD 0).toNat < vaTop →
       ∀ t, t = ownUse s sp l (spillAddr l sp true (sp.rets.depth - 9)) 8 p →
         exec .ret s = .next (putSpan t t.cur.uid (jumpTo { sp with
           rets := ⟨sp.rets.hw.tail ++ [BitVec.ofNat 64 (ownValue s sp l (spillAddr l sp true (sp.rets.depth - 9)) 8 p)],
             sp.rets.depth - 1⟩ } (sp.rets.hw.headD 0)))) ∧
     (8 < sp.masks.depth → OwnReadable s sp l (spillAddr l sp false (sp.masks.depth - 9)) 8 p →
       ∀ t, t = ownUse s sp l (spillAddr l sp false (sp.masks.depth - 9)) 8 p →
         exec .mpop s = .next (putSpan t t.cur.uid (advance { sp with
           masks := ⟨sp.masks.hw.tail ++ [BitVec.ofNat 64 (ownValue s sp l (spillAddr l sp false (sp.masks.depth - 9)) 8 p)],
             sp.masks.depth - 1⟩,
           am := (sp.masks.hw.headD 0).extractLsb' 0 32 &&& sp.live }))) ∧
     (264 ≤ sp.rets.depth →
       ((jumpTarget sp disp).toNat % 4 = 0 → (jumpTarget sp disp).toNat < vaTop →
         exec (.call disp) s = takeTrap s sp l ⟨causeIllegal, false, sp.am, 0⟩) ∧
       (ScalarsReady sp [a.toNat] → (sRead sp a.toNat).toNat % 4 = 0 → (sRead sp a.toNat).toNat < vaTop →
         exec (.callRegister a) s = takeTrap s sp l ⟨causeIllegal, false, sp.am, 0⟩)) ∧
     (264 ≤ sp.masks.depth → ScalarsReady sp [a.toNat] →
       exec (.mpush a) s = takeTrap s sp l ⟨causeIllegal, false, sp.am, 0⟩) ∧
     (sp.rets.depth = 0 → exec .ret s = takeTrap s sp l ⟨causeRetEmpty, false, sp.am, 0⟩) ∧
     (sp.masks.depth = 0 → ∀ i ∈ [Instr.melse, .mpop], exec i s = takeTrap s sp l ⟨causeMaskEmpty, false, sp.am, 0⟩) ∧
     (ScalarsReady sp [a.toNat] → (sRead sp a.toNat).toNat % 4 ≠ 0 → ∀ i ∈ [Instr.jmpRegister a, .callRegister a],
       exec i s = takeTrap s sp l ⟨causeMisaligned, false, sp.am, (sRead sp a.toNat).toNat⟩)) ∧
  (∀ (d : BitVec 6) (k : BitVec 2) (s : State) (sp : Span) (l : Launch), ActingIn s sp l →
     (∃ sp', exec (.plall k) s = .next (putSpan s s.cur.uid (advance { sp with pl := sp'.pl })) ∧
       ∀ lane, lane < lanesOf l → planeOf sp' lane = k.toNat) ∧
     (ScalarsReady sp [d.toNat] →
       exec (.plmask d k) s = .next (putSpan s s.cur.uid
         (advance (sWrite sp d.toNat ((sp.live &&& planeMask sp k.toNat).zeroExtend 64)))) ∧
       exec (.plget d) s = .next (putSpan s s.cur.uid (advance (sWrite sp d.toNat sp.pl)))))

/-- R135, R136: with an empty lane queue, `lrun` enqueues one unplaned block and `lrunp`, whose checks find nothing, one
planed block; each keeps the code as it stood when its S-word issued (R384);
with an older acquire that has completed. An offset of 2^18 or more traps ILLEGAL, and a check of `lrunp` that finds something traps as it says. -/
def Obligations.LaneIssue : Prop :=
  ∀ (a b : BitVec 6) (n : BitVec 8) (off : BitVec 18) (s : State) (sp : Span) (l : Launch), ActingIn s sp l → sp.queue = [] →
    sp.acquiring = none →
    (exec (.lrun n off) s = .next (putSpan s s.cur.uid (advance (enqueue s sp l
      ⟨sp.spc, false, off.toNat, 0, 0, n.toNat + 1, 0, 0, false, [], [], [], none⟩)))) ∧
    (ScalarsReady sp [a.toNat] → (sRead sp a.toNat).toNat < 2 ^ 18 →
      exec (.lrunRegister a n) s = .next (putSpan s s.cur.uid (advance (enqueue s sp l
        ⟨sp.spc, false, (sRead sp a.toNat).toNat, 0, 0, n.toNat + 1, 0, 0, false, [], [], [], none⟩)))) ∧
    (ScalarsReady sp [a.toNat, b.toNat] → planeCheck sp (sRead sp a.toNat) (sRead sp b.toNat).toNat (n.toNat + 1) = none →
      exec (.lrunp a b n) s = .next (putSpan s s.cur.uid (advance (enqueue s sp l
        ⟨sp.spc, true, 0, sRead sp a.toNat, (sRead sp b.toNat).toNat, n.toNat + 1, 0, 0, false, [], [], [], none⟩)))) ∧
    (ScalarsReady sp [a.toNat] → 2 ^ 18 ≤ (sRead sp a.toNat).toNat →
      exec (.lrunRegister a n) s = takeTrap s sp l ⟨causeIllegal, false, sp.am, 0⟩) ∧
    (∀ c, ScalarsReady sp [a.toNat, b.toNat] →
      planeCheck sp (sRead sp a.toNat) (sRead sp b.toNat).toNat (n.toNat + 1) = some c →
      exec (.lrunp a b n) s = takeTrap s sp l ⟨c.1, false, c.2, 0⟩)

/-! ### Scalar memory access, FIFOs, counted lines (R104 to R107, R124 to R128) -/

namespace Sys2Proof.Machine

/-- One scalar access: its kind, reader count, width in bytes, extension and address. -/
structure ScalarAcc where
  kind : AccKind
  readers : Nat
  width : Nat
  signed : Bool
  addr : Nat

/-- The scalar loads of R124 and R125 that retire at issue. -/
def scalarLoads (sp : Span) (d a b : BitVec 6) (imm : BitVec 14) (w : BitVec 2) (e : BitVec 1) : List (Instr × ScalarAcc) :=
  [(.ldB64 d a imm, ⟨.plain, 0, 8, false, (sRead sp a.toNat + imm.signExtend 64).toNat⟩),
   (.ldN32 d a imm, ⟨.plain, 0, 4, false, (sRead sp a.toNat + imm.signExtend 64).toNat⟩),
   (.ldIndexed d a b w e, ⟨.plain, 0, 2 ^ w.toNat, e == 1#1, (sRead sp a.toNat + sRead sp b.toNat).toNat⟩),
   (.ldUnc d a b w e, ⟨.unc, 0, 2 ^ w.toNat, e == 1#1, (sRead sp a.toNat + sRead sp b.toNat).toNat⟩)]

/-- The span after it: what it read in its core's copies is the oldest that its later loads may read there (R250). -/
def loadSpan (s : State) (sp : Span) (l : Launch) (k : AccKind) (w : Nat) (ps : List (Acc × Place)) : Span :=
  let lr := laneReads s sp l k w ps
  let lines := if k = .readers then physLines ps else missLines ps lr
  if l.det then sp else hitFloors (flushLines s sp.core s.cur.uid k lines) sp lr

/-- The package after a load has issued: requests for the lines that nothing answers yet, and the load that waits for them. -/
def loadIssued (s : State) (sp : Span) (l : Launch) (k : AccKind) (n w : Nat) (signed : Bool) (dest : Dest)
    (ps : List (Acc × Place)) : State :=
  let lr := laneReads s sp l k w ps
  let lines := if k = .readers then physLines ps else missLines ps lr
  let s1 := flushLines s sp.core s.cur.uid k lines
  let bad := l.det && ps.any (fun p => match p.2 with
    | .phys pa => viewBad s1 sp p.1.2 pa w
    | _ => false)
  let sp1 := loadSpan s sp l k w ps
  let r := newLoad (if l.det then s1 else seeScratch (seeHits s1 sp1 w lr) sp1 w ps)
    { mkLoad s.cur.uid dest w signed lr lines.length with poison := bad }
  lines.foldl (fun t x => askLine t sp1 s.cur.uid r.2 (reqKind k) n l.number x) r.1

/-- The load may issue: entries of the miss-status table are free, and no older access of the span that it has to follow is under
way (R38, R217, R250). -/
def loadMayIssue (s : State) (sp : Span) (l : Launch) (k : AccKind) (w : Nat) (ps : List (Acc × Place)) : Prop :=
  let lr := laneReads s sp l k w ps
  let lines := if k = .readers then physLines ps else missLines ps lr
  (∀ x ∈ physLines ps ++ localLines ps, atomicsOn s s.cur.uid x.1 = false) ∧ (l.det = false → loadAhead s sp k w lr = false) ∧
  mayAsk (flushLines s sp.core s.cur.uid k lines) sp k lines = true

/-- The scalar stores of R124: kind of access, width, address. -/
def scalarStores (sp : Span) (d a b : BitVec 6) (imm : BitVec 14) (w : BitVec 2) : List (Instr × ScalarAcc) :=
  [(.stB64 d a imm, ⟨.store, 0, 8, false, (sRead sp a.toNat + imm.signExtend 64).toNat⟩),
   (.stB32 d a imm, ⟨.store, 0, 4, false, (sRead sp a.toNat + imm.signExtend 64).toNat⟩),
   (.stIndexed d a b w, ⟨.store, 0, 2 ^ w.toNat, false, (sRead sp a.toNat + sRead sp b.toNat).toNat⟩),
   (.stUnc d a b w, ⟨.storeUnc, 0, 2 ^ w.toNat, false, (sRead sp a.toNat + sRead sp b.toNat).toNat⟩)]

/-- The package and span after a store whose checks were all answered without a counted line: the requests are gone, in debug mode the
lines are logged (R208), each line's bytes are in the core's banks or on their way (R107), and those of accesses `accs` in scratch. -/
def storePerformed (s : State) (sp : Span) (l : Launch) (unc : Bool) (ids : List Nat) (accs : List Acc) (w : Nat) (data : Nat → Nat) :
    State × Span :=
  let rs := ids.map (reqOf s)
  let locs := accs.map (fun a => (a, Place.loc (a.2 - localLo)))
  let un := undoLines (ids.foldl delReq s) { sp with pend := .none } l
    (rs.map (fun r => (r.va, .phys (128 * r.line))) ++ locs.map (fun p => (p.1.2, p.2)))
  let t := rs.foldl (fun t r => storeLine t sp.core s.cur.uid unc r.line r.va (if r.b = 0 then 1 else 0) r.mask r.data
    (r.writers.map (fun w => writerOf t s.cur.uid sp.core w.mask w.va))) un.1
  (putLocal t un.2 (storeCells w locs data), un.2)

end Sys2Proof.Machine

/-- R124, R125, R104: a scalar load whose access passes its checks issues: its register is empty until the fill, and the line is
asked for where nothing holds it. `ld.readers` needs a reader count that is not zero.
R106, R125: a consuming scalar load retires when every line it asked for has answered as counted; its register is
empty until the fill. -/
def Obligations.ScalarLoads : Prop :=
  (∀ (d a b : BitVec 6) (imm : BitVec 14) (w : BitVec 2) (e : BitVec 1) (s s' : State) (sp : Span) (l : Launch) (pl : Place),
     ActingIn s sp l → s.cur.lane = false → ScalarsReady sp [a.toNat, b.toNat, d.toNat] → sp.acquiring = none → sp.pend = .none →
     ∀ p ∈ scalarLoads sp d a b imm w e ++ (if (sRead sp b.toNat).toNat % 256 = 0 then [] else
         [(.ldReaders d a b w e, ⟨.readers, (sRead sp b.toNat).toNat % 256, 2 ^ w.toNat, e == 1#1, (sRead sp a.toNat).toNat⟩)]),
       checkAcc s sp l p.2.kind p.2.width p.2.addr = (s', .ok pl) →
       readsBad s' sp l p.2.width [((0, p.2.addr), pl)] = false →
       loadMayIssue s' sp l p.2.kind p.2.width [((0, p.2.addr), pl)] →
       ∃ t, t = loadIssued s' sp l p.2.kind p.2.readers p.2.width p.2.signed (.s d.toNat) [((0, p.2.addr), pl)] ∧
         exec p.1 s = .next (putSpan t t.cur.uid (advance (sMarkEmpty
           (loadSpan s' sp l p.2.kind p.2.width [((0, p.2.addr), pl)]) d.toNat)))) ∧
  (∀ (d a b : BitVec 6) (w : BitVec 2) (e : BitVec 1) (s : State) (sp : Span) (l : Launch) (i : Nat) (ld : Load),
     ActingIn s sp l → s.cur.lane = false → ScalarsReady sp [a.toNat, b.toNat, d.toNat] → sp.acquiring = none →
     sp.pend = .consume i → mapFind s.loads i = some ld → ld.waits = 0 → (∀ x ∈ ld.served, x.2 = false) →
     ∃ t, t = putLoad (ld.served.foldl (fun t x => settleLine t x.1 false) s) i { ld with dest := .s d.toNat } ∧
       exec (.ldCons d a b w e) s = .next (putSpan t t.cur.uid (advance (sMarkEmpty { sp with pend := .none } d.toNat))))

/-- R124, R104, R107, R299: a scalar store to scratch writes its bytes, little-endian, at its own offset and nothing else (in debug
mode its line is logged first, R208; after a fence of the span the bytes carry it, R255); one to memory is performed when its checks have been answered; one of a deterministic launch
whose bytes are the deck's own becomes an entry of the commit buffer.
R107: a store to memory first asks each line's home: the span waits with one request, and nothing of its data has moved.
The S-word does not commit in that turn. -/
def Obligations.ScalarStores : Prop :=
  (∀ (d a b : BitVec 6) (imm : BitVec 14) (w : BitVec 2) (s s' : State) (sp : Span) (l : Launch) (pl : Place) (dk : Deck),
     ActingIn s sp l → s.cur.lane = false → ScalarsReady sp [a.toNat, b.toNat, d.toNat] → sp.acquiring = none →
     ∀ p ∈ scalarStores sp d a b imm w,
       ∀ data, data = (fun (_ : Nat) => (sRead sp d.toNat).toNat % 2 ^ (8 * p.2.width)) →
       (sp.pend = .none → l.det = false → l.debug = false → (agentOf s s.cur.uid).fences = [] →
         ScratchAt s sp p.2.addr p.2.width dk → atomicsOn s s.cur.uid (p.2.addr / 128) = false →
         exec p.1 s = .next (putSpan (localWrite s dk (p.2.addr - localLo)
           (natToBytes p.2.width ((sRead sp d.toNat).toNat % 2 ^ (8 * p.2.width)))) s.cur.uid (advance sp))) ∧
       (sp.pend = .none → l.det = false → ScratchAt s sp p.2.addr p.2.width dk → atomicsOn s s.cur.uid (p.2.addr / 128) = false →
         ∀ un, un = undoLines s sp l [(p.2.addr, .loc (p.2.addr - localLo))] →
         ∀ t, t = putLocal un.1 un.2 (storeCells p.2.width [((0, p.2.addr), .loc (p.2.addr - localLo))] data) →
         exec p.1 s = .next (putSpan t t.cur.uid (advance un.2))) ∧
       (∀ ids, sp.pend = .store ids → inLocal p.2.addr = false →
         (∀ i ∈ ids, (reqOf s i).stage = .answered ∧ (reqOf s i).bad = false) →
         ∀ r, r = storePerformed s sp l (p.2.kind == .storeUnc) ids [] p.2.width data →
           exec p.1 s = .next (putSpan r.1 r.1.cur.uid (advance r.2))) ∧
       (sp.pend = .none → l.det = true → checkAcc s sp l p.2.kind p.2.width p.2.addr = (s', .ok pl) →
         (∀ x ∈ localLines [((0, p.2.addr), pl)], atomicsOn s' s.cur.uid x.1 = false) →
         ownsBytes s' sp l (fun acc => !acc) p.2.addr p.2.width = true →
         ∀ xs, xs = storeEntries (storeCells p.2.width [((0, p.2.addr), pl)] data) (p.2.kind == .storeUnc) →
         sp.buffer.length + xs.length ≤ 512 →
         ∀ sp1, sp1 = { sp with buffer := sp.buffer ++ xs.map (fun x => (reportPoint sp s'.cur.lane, x)) } →
         ∀ un, un = undoLines s' sp1 l [(p.2.addr, pl)] →
           exec p.1 s = .next (putSpan un.1 un.1.cur.uid (advance { sp1 with undo := un.2.undo })))) ∧
  (∀ (d a : BitVec 6) (imm : BitVec 14) (s s' : State) (sp : Span) (l : Launch) (pa : Nat),
     ActingIn s sp l → s.cur.lane = false → ScalarsReady sp [a.toNat, d.toNat] → sp.acquiring = none → sp.pend = .none → l.det = false →
     checkAcc s sp l .store 8 (addrImm sp a imm) = (s', .ok (.phys pa)) → isHbm (128 * (pa / 128)) = true →
     unread s' s.cur.uid (fun y => y == pa / 128) = [] →
     ∃ t r, exec (.stB64 d a imm) s = .next t ∧ mapFind t.reqs s'.nextId = some r ∧ r.kind = .storeCheck ∧ r.line = pa / 128 ∧
       r.stage = .home ∧ spanOf t s'.cur.uid = some { sp with pend := .store [s'.nextId] } ∧ t.mem = s'.mem ∧ t.cores = s'.cores)

/-! ### Atomics, barriers, sync objects, bindings (R109, R190 to R196, R252 to R272) -/

namespace Sys2Proof.Machine

/-- Old value, operand, expected value to the value left, for width w (R109, R263). -/
abbrev AtomFn := Nat → Nat → Nat → Nat

/-- The operations of R109, by their code. -/
def atomFns (w : Nat) : List AtomFn :=
  [fun old d _ => (old + d) % 2 ^ w,
   fun old d _ => if (BitVec.ofNat w d).toInt < (BitVec.ofNat w old).toInt then d % 2 ^ w else old % 2 ^ w,
   fun old d _ => if (BitVec.ofNat w old).toInt < (BitVec.ofNat w d).toInt then d % 2 ^ w else old % 2 ^ w,
   fun old d _ => Nat.min old d, fun old d _ => Nat.max old d, fun old d _ => Nat.land old d,
   fun old d _ => Nat.lor old d, fun old d _ => Nat.xor old d, fun _ d _ => d,
   fun old d e => if old = e then d else old, fun old d _ => fAdd fmtF32 .rne old d,
   fun old d _ => fAdd fmtBF16 .rne (old % 2 ^ 16) (d % 2 ^ 16) + fAdd fmtBF16 .rne (old / 2 ^ 16) (d / 2 ^ 16) * 2 ^ 16]

/-- The 32-bit scalar atomics, in the order of their codes. -/
def atoms32 (d a b : BitVec 6) (o : BitVec 4) : List Instr :=
  [.atomB32Add d a b o, .atomB32Min d a b o, .atomB32Max d a b o, .atomB32Minn d a b o, .atomB32Maxn d a b o,
   .atomB32And d a b o, .atomB32Or d a b o, .atomB32Xor d a b o, .atomB32Xchg d a b o, .atomB32Cas d a b o,
   .atomB32Fadd d a b o, .atomB32Bf16x2add d a b o]

/-- The 64-bit scalar atomics, in the order of their codes. -/
def atoms64 (d a b : BitVec 6) (o : BitVec 4) : List Instr :=
  [.atomN64Add d a b o, .atomN64Min d a b o, .atomN64Max d a b o, .atomN64Minn d a b o, .atomN64Maxn d a b o,
   .atomN64And d a b o, .atomN64Or d a b o, .atomN64Xor d a b o, .atomN64Xchg d a b o, .atomN64Cas d a b o]

/-- The package when an atomic has been accepted: an acquire at `.quad` or wider closes the core's windows (R219), a release there sends
the span's dirty lines (R265). -/
def atomBegin (s : State) (sp : Span) (o : Nat) : State :=
  let t := if ordAcq o && decide (2 ≤ ordScope o) then closeWindows s sp.core (fun _ => true) else s
  if ordRel o && decide (2 ≤ ordScope o) then writeBackOf t sp.core s.cur.uid (fun _ => true) else t

/-- What a release atomic covers, and whether all of it is performed (R245, R265). -/
def atomCovered (s : State) (sp : Span) (o : Nat) : List Nat :=
  if ordRel o then coveredBy (atomBegin s sp o) s.cur.uid (ordScope o) else []
def atomReady (s : State) (sp : Span) (o : Nat) : Bool := (atomCovered s sp o).all (isPerformed (atomBegin s sp o))

/-- A release atomic on scratch may be sent: its core has a marker for it, and at `.pod` the span's collectives are acknowledged
(R245, R265). -/
def releaseRoom (s : State) (sp : Span) (o : Nat) : Prop :=
  ordRel o = true → markers s sp.core + 1 ≤ 64 ∧ (ordScope o = 5 → spanColls s sp = false)

/-- The package after a scalar atomic on scratch word `off`: the word updated, the old value on its way to the register. -/
def atomDone (s : State) (dk : Deck) (off w : Nat) (new old : Nat) (dest : Dest) : State :=
  (newLoad (localMark (localAtom (localWrite (seeLocal s dk off (w / 8) s.cur.uid) dk off (natToBytes (w / 8) new)) dk off (w / 8))
    dk off (w / 8) s.cur.uid) (mkLoad s.cur.uid dest (w / 8) false [⟨0, noPa, some old⟩] 0)).1

/-- Where a scalar atomic's old value goes: S63 takes none. -/
def atomDest (d : BitVec 6) : Dest := if d = 63 then .none else .s d.toNat

/-- An operation on a barrier in memory comes after the core's own bytes of its line have been sent (log 60). -/
def barAt (s : State) (sp : Span) (loc : BarLoc) : State :=
  match loc with
  | .mem pa => writeBack s sp.core (pa / 128)
  | _ => s

/-- Nothing of the core or the span is still under way to the line of a barrier in memory. -/
def barFree (s : State) (sp : Span) (loc : BarLoc) : Prop :=
  ∀ pa, loc = .mem pa → storeInFlight s sp.core (pa / 128) = false ∧ unread s s.cur.uid (fun y => y == pa / 128) = [] ∧
    atomicsOn s s.cur.uid (pa / 128) = false

/-- What the span has done so far is covered by the barrier's current phase (R256). -/
def covering (s : State) (loc : BarLoc) : State := coverPhase (publish s s.cur.uid).1 (barKey loc) (publish s s.cur.uid).2

/-- The package after a barrier operation has left image `b` and the span's registrations `regs`. -/
def barCommit (s : State) (sp : Span) (loc : BarLoc) (b : Bar) (regs : List RegEntry) : State :=
  putSpan (writeBar s loc b) s.cur.uid { sp with regs := regs }

/-- A barrier instruction commits in a package: the span goes on, and its own copies of the barrier's line are old for it (R250). -/
def barNext (t : State) (sp : Span) (loc : BarLoc) : Res := .next (putSpan t t.cur.uid (advance (raiseBar t sp loc)))

/-- A span adds one entry to its commit buffer (R299). -/
def buffered (s : State) (sp : Span) (x : Buffered) : Span :=
  { sp with buffer := sp.buffer ++ [(reportPoint sp s.cur.lane, x)] }

/-- The status that ends a wait for phase p of a barrier (R5, R193), by how many phases have completed since. -/
def waitEnds (b : Bar) (p st : Nat) : Prop :=
  let n := (b.phase + 2 ^ 32 - p % 2 ^ 32) % 2 ^ 32
  (n = 1 ∧ st = if b.olast then 5 else if b.plast then 4 else 0) ∨ (2 ≤ n ∧ n < 2 ^ 31 ∧ st = 3) ∨
  ((n = 0 ∨ 2 ^ 31 ≤ n) ∧ b.abandoned = true ∧ st = 1)

end Sys2Proof.Machine

/-- R109, R261, R263, R264: a scalar atomic on a word of scratch leaves F(old, S[b], S[d]) there at once, and the old value fills S[d] (S63:
nothing); with an acquire ordering the span's younger accesses wait for it. In debug mode its line is logged first (R208). A release whose
covered writes are still under way commits, and is held with a marker until they are performed (R265).
R262, R263, R265: a scalar atomic on memory commits when its home has accepted it: the request goes on to be performed, with a
release as a marker that covers the span's older writes, and S[d] is empty until the old value comes back.
R299, R301, R385: in a deterministic launch a scalar atomic on the deck's own bytes becomes one entry of the commit buffer, with the
value that it leaves in the span's own view, and S[d] is empty until a quantum's end; one with an acquire ordering closes the core's windows
at `.quad` and wider, and later reads join nothing that left before that end (R218, R219). -/
def Obligations.ScalarAtomics : Prop :=
  (∀ (d a b : BitVec 6) (o : BitVec 4) (s t : State) (sp sp' : Span) (l : Launch) (dk : Deck),
     ActingIn s sp l → s.cur.lane = false → ScalarsReady sp [a.toNat, b.toNat, d.toNat] → sp.acquiring = none → sp.pend = .none →
     l.det = false → releaseRoom s sp o.toNat → atomicsOn s s.cur.uid ((sRead sp a.toNat).toNat / 128) = false →
     ∀ wi ∈ [(32, atoms32 d a b o), (64, atoms64 d a b o)], ScratchAt s sp (sRead sp a.toNat).toNat (wi.1 / 8) dk →
       localBad s dk ((sRead sp a.toNat).toNat - localLo) (wi.1 / 8) = false →
       ∀ p ∈ (wi.2.zip (atomFns wi.1)).zipIdx,
         let off := (sRead sp a.toNat).toNat - localLo
         let x := (sRead sp b.toNat).toNat % 2 ^ wi.1
         let e := (sRead sp d.toNat).toNat % 2 ^ wi.1
         let op : AtomOp := ⟨(0, (sRead sp a.toNat).toNat), .loc off, x, e⟩
         (atomReady s sp o.toNat = true →
           undoLines (atomBegin s sp o.toNat) sp l [((sRead sp a.toNat).toNat, .loc off)] = (t, sp') → deckOf t sp'.deck = some dk →
           let q := orderLocal t sp' o.toNat [op]
           let old := localRead q dk off (wi.1 / 8)
           exec p.1.1 s = .next (putSpan (atomDone q dk off wi.1 (p.1.2 old x e) old (atomDest d)) s.cur.uid
             (advance (markDest (if ordAcq o.toNat then beginAcquire sp' q.nextId (ordScope o.toNat) [] else sp') (atomDest d))))) ∧
         (atomReady s sp o.toNat = false →
           let r := newLoad (atomBegin s sp o.toNat) (mkLoad s.cur.uid (atomDest d) (wi.1 / 8) false [⟨0, noPa, none⟩] 1)
           let c := publish r.1 s.cur.uid
           exec p.1.1 s = .next (putSpan (holdScratch c.1 sp p.2 wi.1 (ordScope o.toNat) r.2 (atomCovered s sp o.toNat) c.2 op) s.cur.uid
             (advance (markDest (if ordAcq o.toNat then beginAcquire sp r.2 (ordScope o.toNat) [] else sp) (atomDest d)))))) ∧
  (∀ (d a b : BitVec 6) (o : BitVec 4) (s : State) (sp : Span) (l : Launch) (i : Nat),
     ActingIn s sp l → s.cur.lane = false → ScalarsReady sp [a.toNat, b.toNat, d.toNat] → sp.acquiring = none →
     sp.pend = .atomic [i] → (reqOf s i).stage = .answered → (reqOf s i).bad = false → (reqOf s i).tag = 0 →
     ∀ wi ∈ [(32, atoms32 d a b o), (64, atoms64 d a b o)], ∀ x ∈ wi.2,
       let sc := ordScope o.toNat
       let t := atomBegin s sp o.toNat
       let cov := (atomCovered s sp o.toNat).filter (fun j => j != i)
       let r := newLoad t (mkLoad s.cur.uid (atomDest d) (wi.1 / 8) false [⟨0, 128 * (reqOf s i).line + (reqOf s i).a, none⟩] 1)
       let p := if ordRel o.toNat then publish r.1 s.cur.uid else (r.1, [])
       let sp1 := { sp with pend := Pending.none }
       exec x s = .next (putSpan (putReq p.1 i { reqOf p.1 i with
           stage := .quad, loads := [r.2], covered := cov
           lost := ordRel o.toNat && !sp.lost.isEmpty
           writers := [writerOf r.1 s.cur.uid sp.core 0 (reqOf p.1 i).va], scope := sc, clock := p.2, scratch := none }) s.cur.uid
         (advance (markDest (if ordAcq o.toNat then beginAcquire sp1 r.2 sc [] else sp1) (atomDest d))))) ∧
  (∀ (d a b : BitVec 6) (o : BitVec 4) (s t : State) (sp : Span) (l : Launch) (pl : Place),
     ActingIn s sp l → s.cur.lane = false → ScalarsReady sp [a.toNat, b.toNat, d.toNat] → sp.acquiring = none → sp.pend = .none →
     l.det = true → sp.buffer.length < 512 →
     ∀ wi ∈ [(32, atoms32 d a b o), (64, atoms64 d a b o)],
       checkAcc s sp l .atomic (wi.1 / 8) (sRead sp a.toNat).toNat = (t, .ok pl) →
       readsBad t sp l (wi.1 / 8) [((0, (sRead sp a.toNat).toNat), pl)] = false →
       ∀ p ∈ (wi.2.zip (atomFns wi.1)).zipIdx,
         atomOwned t sp l p.2 (atomDest d != .none) (sRead sp a.toNat).toNat wi.1 = true →
         let x := (sRead sp b.toNat).toNat % 2 ^ wi.1
         let e := (sRead sp d.toNat).toNat % 2 ^ wi.1
         let seen := atomView t { sp with buffer := sp.buffer ++ [(0, .atomic wi.1 p.2 o.toNat none [])] } l wi.1
           ⟨(0, (sRead sp a.toNat).toNat), pl, x, e⟩
         let r := newLoad t { mkLoad s.cur.uid (atomDest d) (wi.1 / 8) false [⟨0, 0, none⟩] 1 with late := true }
         let un := undoLines r.1 sp l [((sRead sp a.toNat).toNat, pl)]
         let sp1 := { buffered t sp (.atomic wi.1 p.2 o.toNat (some r.2) [⟨0, (sRead sp a.toNat).toNat, x, e, p.1.2 seen x e⟩]) with
           undo := un.2.undo }
         let q := if ordAcq o.toNat then detAcquire un.1 sp1 (ordScope o.toNat) acqPending else (un.1, sp1)
         exec p.1.1 s = .next (putSpan q.1 q.1.cur.uid (advance (markDest q.2 (atomDest d)))))

/-- R192, R194: the barrier instructions at a barrier that is found, in a launch that is not deterministic. `barinit` writes the image of an
unused barrier (and binds a network barrier to the job); `barreg` adds the active lanes to the span's entry and to the registered count;
`barexp` raises the expected bytes and completes the phase where that is all it waited for.
R192, R194, R195, R256: `bararr` counts one arrival for each active lane, after the span's older stores, and remembers the lanes with
the phase; `bardrop` of registered lanes drops them from the barrier and from the table. At a global barrier the arrival takes one of
the core's markers (R265). At a barrier in memory the core's own bytes of its line have left first (the model's choice, log 60).
R299, R385: in a deterministic launch a barrier instruction whose address is found, or that only BARRIER_ERROR would stop, becomes one
entry of the commit buffer, with its operands and the active lanes.
R193, R5, R256: a `barwait` of a phase that has completed, or of an abandoned barrier, writes the status of R5 and goes on; with 0, 4
and 5 it acts as an acquire at the barrier's scope. -/
def Obligations.BarrierOperations : Prop :=
  (∀ (a b d : BitVec 6) (s : State) (sp : Span) (l : Launch) (loc : BarLoc), ActingIn s sp l → l.det = false →
     ScalarsReady sp [a.toNat, b.toNat, d.toNat] →
     sp.badTable = false →
     (∀ k, findBar s sp l (sRead sp a.toNat) k true = .loc loc) → barFree (barAt s sp loc) sp loc →
     let t := barAt s sp loc
     let bar := readBar t loc
     let x := (sRead sp b.toNat).toNat
     let y := (sRead sp d.toNat).toNat
     ((bar.valid = true → bar.arrivals = 0 ∧ bar.landed = 0 ∧ (bar.abandoned = true ∨ bar.registered = 0)) →
       x < 2 ^ 24 → y < 2 ^ 24 → (x ≠ 0 ∨ y ≠ 0) →
       exec (.barinit d a b) s = barNext (barOwner (writeBar t loc
         { barOfWords 0 0 0 0 with valid := true, exparr := x, base := y, expbytes := y }) loc l.key) sp loc) ∧
     (bar.valid = true → sp.regs.find? (fun e => e.addr == sRead sp a.toNat) = none →
       (sp.am = 0 → exec (.barreg a) s = barNext t sp loc) ∧
       (sp.regs.length < 8 → sp.am ≠ 0 →
         exec (.barreg a) s = barNext (barCommit t sp loc { bar with registered := bar.registered + popCount sp.am }
             (sp.regs ++ [⟨sRead sp a.toNat, sp.am, 0, 0⟩])) { sp with regs := sp.regs ++ [⟨sRead sp a.toNat, sp.am, 0, 0⟩] } loc)) ∧
     (∀ e regs, bar.valid = true → sp.regs.find? (fun e => e.addr == sRead sp a.toNat) = some e →
       regs = sp.regs.map (fun y => if y.addr = sRead sp a.toNat then { y with lanes := y.lanes ||| sp.am } else y) →
       exec (.barreg a) s = barNext (barCommit t sp loc
           { bar with registered := bar.registered + popCount (sp.am &&& ~~~ e.lanes) } regs) { sp with regs := regs } loc) ∧
     (bar.valid = true → bar.expbytes + x < 2 ^ 40 →
       exec (.barexp a b) s = barNext (writeBar t loc (barCheck { bar with expbytes := bar.expbytes + x })) sp loc)) ∧
  (∀ (a : BitVec 6) (s : State) (sp : Span) (l : Launch) (loc : BarLoc), ActingIn s sp l → l.det = false →
     ScalarsReady sp [a.toNat] → sp.badTable = false →
     findBar s sp l (sRead sp a.toNat) 1 true = .loc loc → barFree (barAt s sp loc) sp loc →
     (readBar (barAt s sp loc) loc).valid = true → ArriveDone s sp (barScope loc) (arrivalMarks loc) →
     let t := barAt s sp loc
     let bar := readBar t loc
     let ph := BitVec.ofNat 32 bar.phase
     let regs := sp.regs.map (fun e => if e.addr = sRead sp a.toNat then
         { e with arrived := if e.phase = ph then e.arrived ||| sp.am else sp.am, phase := ph } else e)
     (exec (.bararr a) s = barNext (barCommit (covering t loc) sp loc (barArrive (lostMark sp bar) (popCount sp.am)) regs)
       { sp with regs := regs } loc) ∧
     (∀ e, sp.regs.find? (fun x => x.addr == sRead sp a.toNat) = some e → sp.am &&& ~~~ e.lanes = 0 →
       ∃ sp', spanOf (dropAt t s.cur.uid sp.am e) s.cur.uid = some sp' ∧
         exec (.bardrop a) s = barNext (dropAt t s.cur.uid sp.am e) sp' loc) ∧
     (sp.regs.find? (fun x => x.addr == sRead sp a.toNat) = none → sp.am = 0 →
       exec (.bardrop a) s = barNext t sp loc)) ∧
  (∀ (a b d : BitVec 6) (s : State) (sp : Span) (l : Launch), ActingIn s sp l → l.det = true → sp.buffer.length < 512 →
     ScalarsReady sp [a.toNat, b.toNat, d.toNat] → sp.badTable = false →
     (∀ k, (∃ loc, findBar s sp l (sRead sp a.toNat) k true = .loc loc) ∨
       findBar s sp l (sRead sp a.toNat) k true = .trap causeBarrier) →
     ∀ p ∈ [(Instr.barinit d a b, 0, sRead sp b.toNat, sRead sp d.toNat), (.barreg a, 1, 0, 0), (.bararr a, 2, 0, 0),
         (.barexp a b, 3, sRead sp b.toNat, 0), (.bardrop a, 4, 0, 0)],
       exec p.1 s = .next (putSpan s s.cur.uid
         (advance (buffered s sp (.barrier p.2.1 (sRead sp a.toNat) p.2.2.1 p.2.2.2 sp.am))))) ∧
  (∀ (d a b : BitVec 6) (lim : BitVec 8) (s : State) (sp : Span) (l : Launch) (loc : BarLoc) (st : Nat), ActingIn s sp l → l.det = false →
     ScalarsReady sp [a.toNat, b.toNat, d.toNat] → sp.pend = .none → findBar s sp l (sRead sp a.toNat) 0 false = .loc loc →
     (∀ deck off k, loc = .scratch deck off → deckOf s deck = some k → localBad s k off 32 = false) →
     (readBar s loc).valid = true → waitEnds (readBar s loc) ((sRead sp b.toNat).toNat % 2 ^ 32) st →
     let wide := decide (2 ≤ barScope loc)
     let sp1 := sWrite { sp with pend := .none } d.toNat (BitVec.ofNat 64 st)
     (st = 0 ∨ st = 4 ∨ st = 5 → exec (.barwait d a b lim) s = .next (putSpan
       (learn (acquireDrop s sp.core wide) s.cur.uid (mapGet ([], []) s.ord.bars (barKey loc)).2) s.cur.uid
       (advance (acquired s sp1 wide)))) ∧
     (st = 1 ∨ st = 3 → exec (.barwait d a b lim) s = .next (putSpan s s.cur.uid (advance sp1))))

/-- R191: arrivals and landings act on a barrier's image as the rule's pseudocode says: an arrival or a landing is added, then the phase is checked; more than expected completes it with overflow, equality completes it where anything is expected; completion shifts the marks, raises the phase number, lets the
dropped lanes leave, and starts the counts again. An arrival or a landing is made on the image as it stands then, and one that finds valid = 0 is discarded. -/
def Obligations.BarrierCompletion : Prop :=
  let complete := fun (b : Bar) (ov : Bool) =>
    { b with plast := b.pcur, olast := ov, pcur := false, exparr := b.exparr - b.drops, drops := 0,
             phase := (b.phase + 1) % 2 ^ 32, arrivals := 0, landed := 0, expbytes := b.base }
  let check := fun (b : Bar) =>
    if b.arrivals > b.exparr ∨ b.landed > b.expbytes then complete b true
    else if b.arrivals = b.exparr ∧ b.landed = b.expbytes ∧ (b.exparr > 0 ∨ b.expbytes > 0) then complete b false
    else b
  (∀ (b : Bar) (k : Nat), barArrive b k = check { b with arrivals := b.arrivals + k }) ∧
  (∀ (b : Bar) (n : Nat) (poison : Bool), barLand b n poison = check { b with landed := b.landed + n, pcur := b.pcur || poison }) ∧
  (∀ (s : State) (loc : BarLoc) (n k : Nat) (poison : Bool) (c : Clock),
    ((readBar s loc).valid = false → landOn s (some loc) n k poison c = s) ∧
    ((readBar s loc).valid = true → landOn s (some loc) n 0 poison c =
      writeBar (coverPhase s (barKey loc) c) loc (barLand (readBar s loc) n poison)))

/-- R128, R235: `dropc` of no bytes does nothing; of a range that lies below the windows or in the local window it waits for the
span's older accesses and sends one request for the range; in a deterministic launch, of the deck's own bytes, it becomes an entry of
the commit buffer.
R255, R272: `fence` with nothing outstanding commits: the core's copies leave at `.quad` and wider, and what the span has seen is
ordered before its younger accesses; in a deterministic launch it only closes the core's windows (R219). `rbind` adds a binding of a line-aligned range, and with
length zero removes the object's bindings.
R253, R264, R269: `acq` of an object that may be asked for drops the core's copies of the bound ranges at `.quad` and wider, issues an
uncached read of its version, and makes younger accesses wait for it; in a deterministic launch it is a plain load of the version.
R252, R265, R270: `rel` commits when its home has accepted its request: the bound dirty lines are sent first at `.quad` and wider, and
the request goes on as a marker over the span's writes to the bound ranges; in a deterministic launch it is one entry of the commit
buffer, with the ranges bound at its commit. -/
def Obligations.Synchronisation : Prop :=
  (∀ (a b : BitVec 6) (s : State) (sp : Span) (l : Launch) (base len : Nat), ActingIn s sp l →
     ScalarsReady sp [a.toNat, b.toNat] → sp.acquiring = none →
     base = (sRead sp a.toNat).toNat → len = (sRead sp b.toNat).toNat % 2 ^ 32 →
     (len = 0 → exec (.dropc a b) s = .next (putSpan s s.cur.uid (advance sp))) ∧
     (len ≠ 0 → ¬(base < localLo ∧ quadLo < base + len) → base + len ≤ vaTop →
       (l.det = false → (∀ x ∈ s.loads, x.2.uid ≠ s.cur.uid) → StoresDone s sp 4 →
         exec (.dropc a b) s = .next (putSpan (newReq s { Req.init with
           core := sp.core, uid := s.cur.uid, kind := .dropc, va := base, a := base + len, b := l.number, c := l.root,
           stage := .home }).1 s.cur.uid (advance sp))) ∧
       (l.det = true → ownsBytes s sp l (fun _ => true) base len = true → sp.buffer.length < 512 →
         exec (.dropc a b) s = .next (putSpan s s.cur.uid (advance { sp with
           buffer := sp.buffer ++ [(reportPoint sp s.cur.lane, .dropc base len)] }))))) ∧
  (∀ (d a b : BitVec 6) (scope : BitVec 3) (s s' : State) (sp : Span) (l : Launch), ActingIn s sp l →
     (scope ≠ 0 → scope ≠ 6 → scope ≠ 7 →
       (l.det = true → exec (.fence scope) s = .next (putSpan
         (if 2 ≤ scope.toNat then closeWindows s sp.core (fun _ => true) else s) s.cur.uid (advance sp))) ∧
       (l.det = false → (∀ x ∈ s.loads, x.2.uid ≠ s.cur.uid) → (scope = 5 → spanColls s sp = false) →
         StoresDone s sp scope.toNat →
         exec (.fence scope) s = .next (putSpan (orderFence (acquireDrop s sp.core (decide (2 ≤ scope.toNat))) s.cur.uid sp.core
           scope.toNat) s.cur.uid (advance { acquired s sp (decide (2 ≤ scope.toNat)) with acqAt := sp.acqAt })))) ∧
     (ScalarsReady sp [a.toNat, b.toNat, d.toNat] → ∀ pl,
       (sRead sp a.toNat).toNat % 16 = 0 → (sRead sp b.toNat).toNat % 128 = 0 → (sRead sp d.toNat).toNat % 2 ^ 40 % 128 = 0 →
       checkObj s sp l (sRead sp a.toNat).toNat = (s', .ok pl) →
       ((sRead sp d.toNat).toNat % 2 ^ 40 = 0 →
         exec (.rbind d a b) s = .next (putSpan s' s'.cur.uid (advance { sp with
           binds := sp.binds.filter (fun x => x.obj != sRead sp a.toNat) }))) ∧
       ((sRead sp d.toNat).toNat % 2 ^ 40 ≠ 0 → sp.binds.length < 8 →
         exec (.rbind d a b) s = .next (putSpan s' s'.cur.uid (advance { sp with
           binds := sp.binds ++ [⟨(sRead sp b.toNat).toNat, (sRead sp d.toNat).toNat % 2 ^ 40, sRead sp a.toNat⟩] }))))) ∧
  (∀ (d a : BitVec 6) (scope : BitVec 3) (s s' : State) (sp : Span) (l : Launch) (pa : Nat), ActingIn s sp l →
     scope ≠ 0 → scope ≠ 6 → scope ≠ 7 → sp.acquiring = none → ScalarsReady sp [a.toNat, d.toNat] →
     checkObj s sp l (sRead sp a.toNat).toNat = (s', .ok (.phys pa)) →
     (l.det = true → ∀ r, r = newLoad s' { mkLoad s.cur.uid (atomDest d) 8 false
         [⟨0, pa, some (viewRead s' sp l (sRead sp a.toNat).toNat pa 8)⟩] 0 with
           poison := viewBad s' sp (sRead sp a.toNat).toNat pa 8 } →
       ∀ q, q = detAcquire r.1 sp scope.toNat s'.uses →
       exec (.acq d a scope) s = .next (putSpan q.1 q.1.cur.uid (advance (markDest q.2 (atomDest d))))) ∧
     (l.det = false →
       ∀ line, line = (pa / 128, (sRead sp a.toNat).toNat / 128 * 128) →
       ∀ t, t = flushLines s' sp.core s.cur.uid .unc [line] →
       mayAsk t sp .unc [line] = true → loadAhead t sp .unc 8 [⟨0, pa, none⟩] = false →
       let rs := boundTo sp l (sRead sp a.toNat)
       let wide := decide (2 ≤ scope.toNat)
       let q := if wide then dropLines t sp.core (fun x => x.vas.any (lineIn rs)) else t
       let r := newLoad q (mkLoad s.cur.uid (atomDest d) 8 false [⟨0, pa, none⟩] 1)
       let t2 := askLine r.1 sp s.cur.uid r.2 .unc 0 l.number line
       exec (.acq d a scope) s = .next (putSpan t2 t2.cur.uid (advance { markDest sp (atomDest d) with
         acquiring := some ⟨r.2, scope.toNat, wide, rs, some pa⟩ })))) ∧
  (∀ (a : BitVec 6) (scope : BitVec 3) (s s' : State) (sp : Span) (l : Launch) (pa i : Nat), ActingIn s sp l →
     scope ≠ 0 → scope ≠ 6 → scope ≠ 7 → sp.acquiring = none → ScalarsReady sp [a.toNat] →
     let obj := sRead sp a.toNat
     let rg := boundTo sp l obj
     (l.det = true → sp.pend = .none → checkObj s sp l obj.toNat = (s', .ok (.phys pa)) → sp.buffer.length < 512 →
       exec (.rel a scope) s = .next (putSpan s' s'.cur.uid (advance (buffered s' sp (.rel obj scope.toNat rg))))) ∧
     (sp.pend = .atomic [i] → (reqOf s i).stage = .answered → (reqOf s i).bad = false →
       let wide := decide (2 ≤ scope.toNat)
       let bound := fun (ws : List Writer) => ws.any (fun w => lineIn rg w.va)
       let t := if wide then ((coreOf s sp.core).l1.filter (fun x => x.dirty != 0 && bound x.writers)).foldl
           (fun t x => writeBack t sp.core x.line) s else s
       let mine := (unperformed t s.cur.uid).filter (fun j => wide && bound (reqOf t j).writers)
       let cov := mine ++ unread t s.cur.uid (fun _ => true) ++ (t.reqs.filter (fun p =>
         p.2.kind == .atomic && p.2.uid == s.cur.uid && lineIn rg (p.2.va / 128 * 128))).map Prod.fst
       let p := publish t s.cur.uid
       exec (.rel a scope) s = .next (putSpan (putReq p.1 i { reqOf p.1 i with
           stage := .quad, covered := cov, writers := [writerOf t s.cur.uid sp.core 0 obj.toNat], scope := scope.toNat
           lost := sp.lost.any (lineIn rg), clock := bindClock p.2 rg }) s.cur.uid (advance { sp with pend := .none }))))

/-! ### System registers, traps and the return from one, debugging, histograms (R57, R138 to R142, R147, R165 to R167, R198 to R202) -/

namespace Sys2Proof.Machine

/-- The registers of R57, R141 with their values: discovery, time, place, launch, format slots. -/
def systemRegisters (s : State) (sp : Span) (l : Launch) (d : Deck) : List (BitVec 14 × Word64) :=
  let w := fun (x : Nat) => BitVec.ofNat 64 x
  [(0x000, 0x0000000109165B0C), (0x001, 1), (0x002, 0), (0x003, 0x0010201040102020),
   (0x010, if l.det = true then w sp.ltime else w s.cycle), (0x011, w sp.ltime), (0x012, if l.det = true then w d.quanta else 0),
   (0x020, w sp.n), (0x021, w sp.d), (0x022, w d.coords.1), (0x023, w d.coords.2.1), (0x024, w d.coords.2.2),
   (0x025, w l.dims.1), (0x026, w l.dims.2.1), (0x027, w l.dims.2.2), (0x028, w l.spansPerDeck),
   (0x030, if l.det = true then 0 else w (sp.bay + (sp.core % 32) * 4 + (sp.core / 32) * 128)),
   (0x031, w (bitN l.det 0 + bitN l.parapet 1 + bitN l.debug 2 + bitN l.gang 3 + l.prio * 2 ^ 8))] ++
  (List.range 8).flatMap (fun k => [(BitVec.ofNat 14 (0x040 + 2 * k), (l.fslots.getD k 0).extractLsb' 0 64),
    (BitVec.ofNat 14 (0x041 + 2 * k), (l.fslots.getD k 0).extractLsb' 64 64)])

/-- The span that a taken trap leaves: the handler's registers, all lanes active, nothing queued or issued, what the trap stopped kept
for `tret`, and single-step as an outer handler had armed it (R199, R200, R202). -/
def trapped (sp : Span) (cur : Cur) (r : Report) (entry frame info : Word64) : Span :=
  { sFill (sFill (sFill sp 60 frame) 61 info) 62 (BitVec.ofNat 64 r.faddr) with
    am := sp.live, traps := savedOf sp cur r.lane :: sp.traps, spc := entry, queue := [], ahead := [], pend := .none,
    step := if sp.step = .armed then .armed else .off, xfail := [] }

/-- The handler's entry for a cause: the emulation entry for EXT_ABSENT where the launch has one, else the trap entry (R199). -/
def entryFor (l : Launch) (cause : Nat) : Word64 := if cause = causeExt ∧ l.emuEntry ≠ 0 then l.emuEntry else l.trapEntry

/-- The address of the frame of handler depth k (R198). -/
def frameAt (l : Launch) (sp : Span) (k : Nat) : Nat := l.frameBase.toNat + sp.n * 0x100 + k * 0x80

/-- A trap that can be taken: below depth two, with a handler, s60 to s62 full (R44), and a frame that can be written (R199). -/
def TrapReady (s : State) (sp : Span) (l : Launch) (cause : Nat) (p : Nat ⊕ Nat) : Prop :=
  ActingIn s sp l ∧ sp.hdepth < 2 ∧ entryFor l cause ≠ 0 ∧ (∀ r ∈ [60, 61, 62], sFull sp r = true) ∧
  OwnWritable s sp l (frameAt l sp sp.hdepth) p

/-- The package after a taken trap: the frame of this depth written as the span's own store, the span at its handler. -/
def trapTaken (s : State) (sp : Span) (l : Launch) (r : Report) (p : Nat ⊕ Nat) : State :=
  let w := ownWrite s sp (trapped sp s.cur r (entryFor l r.cause) (BitVec.ofNat 64 (frameAt l sp sp.hdepth))
      ((frameWords sp s.cur r).getD 0 0)) l (frameAt l sp sp.hdepth) p
    ((frameWords sp s.cur r ++ [0, 0, 0, 0]).flatMap (fun (x : Word64) => natToBytes 8 x.toNat))
  putSpan w.1 s.cur.uid w.2

end Sys2Proof.Machine

/-- R57, R141: `sysrd` reads the named system register into S[a], which it does not mark empty: DID of stepping 1
and the other discovery registers, CYCLE, LTIME and QNUM, the span's, its deck's and its launch's numbers, WHERE, LFLAGS, and the words of
the format slots at 0x040 to 0x04F; a deterministic launch reads LTIME as CYCLE and 0 as WHERE, any other 0 as QNUM. Every number outside the
table traps ILLEGAL. -/
def Obligations.SystemRegisterRead : Prop :=
  ∀ (a : BitVec 6) (n : BitVec 14) (s : State) (sp : Span) (l : Launch) (d : Deck), ActingIn s sp l → deckOf s sp.deck = some d →
    (ScalarsReady sp [a.toNat] → ∀ r ∈ systemRegisters s sp l d,
      exec (.sysrd a r.1) s = .next (putSpan s s.cur.uid (advance (sWrite sp a.toNat r.2)))) ∧
    (n ∉ (systemRegisters s sp l d).map Prod.fst →
      exec (.sysrd a n) s = takeTrap s sp l ⟨causeIllegal, false, sp.am, 0⟩)

/-- R200: `tret` restores s60 to s62 and `am` from the frame, and the depth falls. After a trap of the scalar stream the pc is the trapped
S-word for action 0, the next one for actions 1 and 2, and the frame's target for action 3; after a trap of a pass actions 0 to 2 form
the block again from the trapped pass, from the next plane, or from the next position, with the frame's descriptor, offset and length,
and the pc is the word after the block's `lrun`. Outside a handler `tret` traps ILLEGAL. -/
def Obligations.TrapReturn : Prop :=
  ∀ (s : State) (sp : Span) (l : Launch) (pl : Nat ⊕ Nat), ActingIn s sp l →
    (sp.traps = [] → exec .tret s = takeTrap s sp l ⟨causeIllegal, false, sp.am, 0⟩) ∧
    (∀ sv older, sp.traps = sv :: older → OwnReadable s sp l (frameAt l sp older.length) 128 pl → sp.acquiring = none →
      ScalarsReady sp [60, 61, 62] →
      let rd := fun (o n : Nat) => ownValue s sp l (frameAt l sp older.length + o) n (pl.map (· + o) (· + o))
      let t := ownUse s sp l (frameAt l sp older.length) 128 pl
      let action := (rd 0 8 >>> 32) % 8
      let n := (rd 0 8 >>> 20) % 256 + 1
      let planes := if sv.planed then (rd 0x38 8 >>> 18) % 4 + 1 else 1
      action ≤ 3 → (action = 3 → rd 0x40 8 % 4 = 0) →
      ∃ sp', exec .tret s = .next (putSpan t t.cur.uid sp') ∧
        sRead sp' 60 = BitVec.ofNat 64 (rd 0x48 8) ∧ sRead sp' 61 = BitVec.ofNat 64 (rd 0x50 8) ∧
        sRead sp' 62 = BitVec.ofNat 64 (rd 0x58 8) ∧ (∀ r, r < 60 → sRead sp' r = sRead sp r) ∧
        (∀ r lane, vRead sp' r lane = vRead sp r lane) ∧
        sp'.am = BitVec.ofNat 32 (rd 0x14 4) &&& sp.live ∧ sp'.traps = older ∧
        (action = 3 → sp'.spc = BitVec.ofNat 64 (rd 0x40 8) ∧ sp'.queue = []) ∧
        (action < 3 → sv.lane = false →
          sp'.spc = (if action = 0 then sv.point else sv.point + 4) ∧ sp'.queue = []) ∧
        (action < 3 → sv.lane = true → ∀ p q, (p, q) = (if action = 0 then (sv.pos, sv.plane)
            else if action = 1 ∧ sv.plane + 1 < planes then (sv.pos, sv.plane + 1) else (sv.pos + 1, 0)) →
          sp'.spc = sv.point + 4 ∧ (n ≤ p → sp'.queue = []) ∧
          (p < n → ∃ b, sp'.queue = [b] ∧ b.pos = p ∧ b.plane = q ∧ b.n = n ∧ b.point = sv.point ∧ b.planed = sv.planed ∧
            b.desc = BitVec.ofNat 64 (rd 0x38 8) ∧ b.off = rd 0x30 8 % 2 ^ 18 ∧ b.j = (rd 0x30 8 >>> 18) % 2 ^ 16 ∧
            b.merged = if p = sv.pos then sv.merged else [])))

/-- R142, R201, R202, R208: `nop` only counts; `step` arms or disarms single-step, but the trap that a stepped unit owes stays due; `undomark`
adds an entry to the undo log in debug mode and only counts outside it.
R25, R138, R139, R298, R299: `hrd` reads a bin of a histogram table, its register empty until the fill, in a deterministic launch until a
quantum's end; `hclr` clears a table and sets its bias, in a deterministic launch as an entry of the commit buffer.
R165, R166, R167, R299: `bkmode` at a valid barrier switches an owned bank: the bank takes the new mode at once, and the switch is listed
last with its barrier until it completes; in a deterministic launch it is one entry of the commit buffer. -/
def Obligations.SystemAndBanks : Prop :=
  (∀ (a : BitVec 6) (s : State) (sp : Span) (l : Launch), ActingIn s sp l →
     (exec .nop s = .next (putSpan s s.cur.uid (advance sp))) ∧
     (ScalarsReady sp [a.toNat] → (sRead sp a.toNat).toNat < 2 →
       exec (.step a) s = .next (putSpan s s.cur.uid { advance sp with
         step := if sp.step = .running then .due else if sRead sp a.toNat = 1 then .armed else .off })) ∧
     (ScalarsReady sp [a.toNat] → l.debug = false → exec (.undomark a) s = .next (putSpan s s.cur.uid (advance sp))) ∧
     (ScalarsReady sp [a.toNat] → l.debug = true →
       ∀ r, r = undoPut s sp l 7 0 0 (sRead sp a.toNat).toNat [] →
         r.2 = { sp with undo := (sp.undo + 1) % 4096 } ∧ exec (.undomark a) s = .next (putSpan r.1 r.1.cur.uid (advance r.2)))) ∧
  (∀ (a b d : BitVec 6) (t : BitVec 3) (s : State) (sp : Span) (l : Launch), ActingIn s sp l →
     let bin := (sRead sp b.toNat).toNat % 64
     let bias := (sRead sp a.toNat).extractLsb' 0 8
     (ScalarsReady sp [b.toNat, d.toNat] → ∀ ld, ld = (if l.det then
         { mkLoad s.cur.uid (.s d.toNat) 8 false [⟨0, 0, none⟩] 1 with late := true, hist := some (t.toNat, bin) }
         else mkLoad s.cur.uid (.s d.toNat) 8 false
           [⟨0, 0, some (mapGet 0 (mapGet ⟨[], 0⟩ (coreOf s sp.core).hist t.toNat).bins bin)⟩] 0) →
       exec (.hrd d b t) s = .next (putSpan (newLoad s ld).1 s.cur.uid (advance (sMarkEmpty sp d.toNat)))) ∧
     (ScalarsReady sp [a.toNat] → l.det = false → countingAcst s s.cur.uid = false →
       exec (.hclr a t) s = .next (putSpan (putCore s sp.core { coreOf s sp.core with
         hist := mapPut (coreOf s sp.core).hist t.toNat ⟨[], bias.toInt⟩ }) s.cur.uid (advance sp))) ∧
     (ScalarsReady sp [a.toNat] → l.det = true → sp.buffer.length < 512 →
       exec (.hclr a t) s = .next (putSpan s s.cur.uid (advance (buffered s sp (.hclr t.toNat bias
         ((s.loads.filter (fun x => x.2.uid == s.cur.uid && x.2.late && x.2.hist.any (fun h => h.1 == t.toNat))).map Prod.fst))))))) ∧
  (∀ (a : BitVec 6) (s : State) (sp : Span) (l : Launch) (loc : BarLoc) (dk : Deck) (p : Nat), ActingIn s sp l →
     ScalarsReady sp [a.toNat] → deckOf s sp.deck = some dk → physBank dk ((sRead sp a.toNat).extractLsb' 0 5).toNat = some p →
     (sRead sp a.toNat).extractLsb' 7 5 = 0 → ((sRead sp a.toNat).extractLsb' 5 2).toNat < 3 →
     ∀ bar, bar = (((sRead sp a.toNat).extractLsb' 12 52).zeroExtend 64 <<< 5 : Word64) → findBar s sp l bar 1 true = .loc loc →
     (l.det = true → sp.buffer.length < 512 →
       exec (.bkmode a) s = .next (putSpan s s.cur.uid (advance (buffered s sp (.bkmode (sRead sp a.toNat)
         ((s.loads.filter (fun x => x.2.uid == s.cur.uid && x.2.late && x.2.fifo.isSome)).map Prod.fst)))))) ∧
     (l.det = false → (readBar s loc).valid = true → scratchBusy s sp.deck = false →
       let m := [BankMode.cache, .scratch, .fifo].getD ((sRead sp a.toNat).extractLsb' 5 2).toNat .cache
       let t := switchBank s sp p m bar (s.loads.filter (fun x => popsOn s sp.core p x.2))
       exec (.bkmode a) s = .next (putSpan t t.cur.uid (advance sp)) ∧ (bankOf (coreOf t sp.core) p).mode = m ∧
       ∃ x, (bankOf (coreOf t sp.core) p).switch = (bankOf (coreOf s sp.core) p).switch ++ [x] ∧ x.bar = bar ∧ x.uid = s.cur.uid))

/-! ### Engine commands, slots, collectives, rings, reductions at their commit (R171 to R189, R274, R287, R346 to R348) -/

namespace Sys2Proof.Machine

/-- Every row of a command passes the checks of its extents. -/
def rowsFree (s : State) (sp : Span) (l : Launch) (rows : List (Nat × Nat)) : Prop :=
  ∀ x ∈ rows, extentFinds s sp l false x.1 x.2 = []

/-- The command as it enters its queue: its span, its deck, its barrier and its launch record. -/
def committedCmd (s : State) (sp : Span) (bar : Option Word64) (e : Cmd) : Cmd :=
  { e with uid := s.cur.uid, deck := sp.deck, bar := bar, launch := ((deckOf s sp.deck).map Deck.launch).getD 0 }

/-- A command with a barrier operand that is found. In a launch that is not deterministic its slots allow it, and its queue has
room (R171, R172, R182, R186); in a deterministic one the bytes that it writes are the deck's own, and the commit buffer has room
(R299, R301). -/
def engineReady (s : State) (sp : Span) (l : Launch) (q : Nat) (own : Bool) (bar : Option Word64) (rows : List (Nat × Nat))
    (e : Cmd) : Prop :=
  sp.am = sp.live ∧ barFinds s sp l own bar = .ok [] ∧
  (l.det = false → cmdBad (ctxOf s sp.core sp.half) (committedCmd s sp bar e) = none ∧ queueFull s sp.core sp.half q = false) ∧
  (l.det = true → (∀ r ∈ rows, ownsBytes s sp l (fun acc => !acc) r.1 r.2 = true) ∧ sp.buffer.length < 512)

/-- The package after the command has committed, in debug mode with an undo entry (R208): in its queue, or in the span's commit
buffer, a copy there with what it reads (R260). -/
def engineCommitted (s : State) (sp : Span) (l : Launch) (q : Nat) (bar : Option Word64) (e : Cmd) : State :=
  let r := undoCmd s sp l
  if l.det then
    putSpan r.1 r.1.cur.uid (advance { buffered s sp (.engine q { committedCmd s sp bar e with
      view := if e.kind = .copy then some (copyView s sp) else none }) with undo := r.2.undo })
  else
    let t := cmdEnter r.1 s.cur.uid sp.core sp.half q (committedCmd s sp bar e)
    putSpan t t.cur.uid (advance r.2)

/-- The package after a slot or marker command: in debug mode with an undo entry. -/
def slotCommitted (s : State) (sp : Span) (l : Launch) : State :=
  putSpan (undoCmd s sp l).1 (undoCmd s sp l).1.cur.uid (advance (undoCmd s sp l).2)

end Sys2Proof.Machine

/-- R171, R172, R185 to R188: a copy whose fields are within their limits, whose rows pass their checks and whose slot is claimed enters its queue, in a deterministic launch its span's commit buffer (R299). A counted copy
has 128-byte aligned lines outside the local window.
R171, R180 to R183: an `mma` whose format slot suits it, whose slots are claimed with reads left, enters the matrix queue, or the copy queue it names; its slots' counted
reads are taken at once. An `acst` whose extent passes its checks enters the matrix queue. In a deterministic launch
each is an entry of the commit buffer (R299).
R178, R189, R299: `tclaim` of an unclaimed slot claims it for the deck with its reader count, of a claimed one traps SLOT_STATE; `trel` of a
claimed slot that no command uses releases it, with an UNDERREAD event where reads are left (R236), of one that is not claimed traps SLOT_STATE; `qfence` with room in the named
queues places its markers. In a deterministic launch each is an entry of the commit buffer. -/
def Obligations.EngineCommands : Prop :=
  (∀ (m : BitVec 2) (a b c : BitVec 6) (q : BitVec 2) (s : State) (sp : Span) (l : Launch), ActingIn s sp l →
     ScalarsReady sp [a.toNat, b.toNat, c.toNat, c.toNat + 1, c.toNat + 2, c.toNat + 3] →
     ∀ p ∈ [(Instr.copy m a b c q, false, false), (Instr.copySlot m a b c q, true, false), (Instr.copyReaders m a b c q, false, true)],
       let r := fun i => sRead sp (c.toNat + i)
       let sb := sRead sp b.toNat
       let rows := if p.2.1 then [] else (copyRows (dstAddr (copyCmd m.toNat p.2.1 (sRead sp a.toNat) sb (r 1) (r 2) (r 3)))
         (copyCmd m.toNat p.2.1 (sRead sp a.toNat) sb (r 1) (r 2) (r 3))).filter (fun x => !inLocal x.1)
       let e := copyCmd m.toNat p.2.1 (sRead sp a.toNat) sb (r 1) (r 2) (r 3)
       let bar := if r 0 = 0 then none else some (r 0)
       copyIllegal m.toNat p.2.1 p.2.2 sb (r 0) (r 1) (r 2) (r 3) e = false →
       rowsFree s sp l (copyRows (srcAddr e) e) → (p.2.1 = false → rowsFree s sp l (copyRows (dstAddr e) e)) →
       (p.2.2 = true → sb.toNat % 128 = 0 ∧ e.len0 % 128 = 0 ∧ e.dstRow % 128 = 0 ∧ e.dstPlane % 128 = 0 ∧
         ∀ x ∈ copyRows (dstAddr e) e, inLocal x.1 = false) →
       engineReady s sp l q.toNat false bar rows e →
       exec p.1 s = .next (engineCommitted s sp l q.toNat bar e)) ∧
  (∀ (n : BitVec 2) (k : BitVec 3) (a b c : BitVec 6) (z p r : BitVec 1) (ta tb : BitVec 4) (q : BitVec 2) (s : State) (sp : Span)
     (l : Launch), ActingIn s sp l →
     (ScalarsReady sp [a.toNat] → mmaFormats (fslotOf l k.toNat) = true →
       let bar := if a = 63 then none else some (sRead sp a.toNat)
       let e : Cmd := { Cmd.init with kind := .mma, acc := n.toNat, fslot := fslotOf l k.toNat, zero := z == 1, slotA := ta.toNat,
                                      slotB := tb.toNat, colA := p == 1, colB := r == 1 }
       (engineReady s sp l 4 true bar [] e → exec (.mma n k a z p ta r tb) s = .next (engineCommitted s sp l 4 bar e)) ∧
       (engineReady s sp l q.toNat true bar [] e →
         exec (.mmaVia n k a z p ta r tb q) s = .next (engineCommitted s sp l q.toNat bar e))) ∧
     (ScalarsReady sp [a.toNat, b.toNat, b.toNat + 1, c.toNat] →
       let f := fslotOf l k.toNat
       let o := sRead sp b.toNat
       let x := sRead sp (b.toNat + 1)
       let wb := tyWidth (tyOfCode (fsB f)) / 8
       let bar := if c = 63 then none else some (sRead sp c.toNat)
       let d := (sRead sp a.toNat).toNat
       let e : Cmd := { Cmd.init with
         kind := .acst, acc := n.toNat, fslot := f, dst := sRead sp a.toNat, row0 := fieldOf o 0 32, col0 := fieldOf o 32 32,
         stream := fieldOf x 0 32, rm := effRm (fieldOf x 32 3) f, pitch := fieldOf x 40 24,
         hist := if x.getLsbD 35 then (if x.getLsbD 36 then some (fieldOf x 37 3) else none)
           else if fsHen f then some (fsHdef f) else none }
       b.getLsbD 0 = false → fsA f = 10 → [8, 9, 10, 12, 13].contains (fsB f) = true → fsScale f = 0 →
       (x.getLsbD 35 = true ∨ fieldOf x 36 4 = 0) → fieldOf x 40 24 % wb = 0 → 128 * wb ≤ fieldOf x 40 24 → d % wb = 0 →
       rowsFree s sp l [(d, fieldOf x 40 24 * 127 + 128 * wb)] →
       engineReady s sp l 4 false bar
         (if inLocal d then [] else (List.range 128).map (fun i => (d + i * fieldOf x 40 24, 128 * wb))) e →
       exec (.acst n k a b c) s = .next (engineCommitted s sp l 4 bar e))) ∧
  (∀ (slot : BitVec 4) (rd : BitVec 8) (m : BitVec 6) (s : State) (sp : Span) (l : Launch), ActingIn s sp l → sp.am = sp.live →
     let c := ctxOf s sp.core sp.half
     let x := slotOf c slot.toNat
     (l.det = false →
       (x.st = .unclaimed → exec (.tclaim slot rd) s = .next (slotCommitted (putCtx s sp.core sp.half
         (putSlot c slot.toNat { x with st := .claimed, count := rd.toNat, owner := sp.deck, release := false
                                        number := ((deckOf s sp.deck).map (fun d => numberOf s d.launch)).getD 0 })) sp l)) ∧
       (x.st = .claimed → exec (.tclaim slot rd) s = takeTrap s sp l ⟨causeSlot, false, sp.am, 0⟩) ∧
       (x.st = .claimed → slotInUse c slot.toNat = false →
         ∀ t, t = (if x.count = 0 then s else recUnderread s (sp.core / 32) (sp.core % 32) slot.toNat x.count 4 x.number) →
         exec (.trel slot) s = .next (slotCommitted (putCtx t sp.core sp.half
           (putSlot c slot.toNat { x with st := .unclaimed, count := 0, release := false })) sp l)) ∧
       (x.st ≠ .claimed → sp.pend ≠ .free slot.toNat →
         exec (.trel slot) s = takeTrap s sp l ⟨causeSlot, false, sp.am, 0⟩) ∧
       (fenceFits s sp.core sp.half m.toNat = true →
         ∀ r, r = undoCmd s sp l →
         exec (.qfence m) s = .next (putSpan (placeMarkers r.1 sp m.toNat) r.1.cur.uid (advance r.2)))) ∧
     (l.det = true → sp.buffer.length < 512 →
       ∀ p ∈ [(Instr.tclaim slot rd, Buffered.claim slot.toNat rd.toNat), (.trel slot, .trel slot.toNat), (.qfence m, .qfence m.toNat)],
         exec p.1 s = .next (putSpan s s.cur.uid (advance (buffered s sp p.2)))))

/-- R346, R348, R299: a span's `coll` that forms its deck's next entry, or joins the one that the deck has formed with the same operation,
word, slot and barrier, commits: the span's count of collectives rises. In a deterministic launch it is an entry of the commit
buffer. The four operations.
R287: `cpush` of an aligned, readable record, after the span's older stores, answers what the check of the record and of its ring's room
gives: 0 with the record appended, or a reason. In a deterministic launch it is an entry of the commit buffer, and its register is
empty until a quantum's end.
R274, R281: `rsend` through a barrier page sends the live lanes' contribution to the handle, after the span's older stores; in a
deterministic launch it is an entry of the commit buffer. -/
def Obligations.CollectivesAndPushes : Prop :=
  (∀ (a c : BitVec 6) (slot : BitVec 4) (s : State) (sp : Span) (l : Launch) (d : Deck), ActingIn s sp l → sp.am = sp.live →
     ScalarsReady sp [a.toNat, c.toNat] → deckOf s sp.deck = some d →
     let bar := if c = 63 then none else some (sRead sp c.toNat)
     barFinds s sp l false bar = .ok [] → queueFull s d.core d.half 5 = false →
     ∀ p ∈ [(Instr.collRs a slot c, 0), (Instr.collAg a slot c, 1), (Instr.collAr a slot c, 2), (Instr.collBc a slot c, 3)],
       let e := { Cmd.init with
         kind := .coll, uid := s.cur.uid, deck := sp.deck, bar := bar, slotA := slot.toNat, op := p.2, word := sRead sp a.toNat,
         launch := d.launch }
       (l.det = true → sp.buffer.length < 512 →
         ∀ r, r = undoCmd s sp l → exec p.1 s = .next (putSpan r.1 r.1.cur.uid
           (advance { buffered s sp (.coll e (sRead sp a.toNat)) with undo := r.2.undo }))) ∧
       (l.det = false →
         (match d.colls.find? (fun f => f.k == sp.colls) with
           | some f => f.cmd.op = p.2 ∧ f.sa = sRead sp a.toNat ∧ f.slot = slot.toNat ∧ f.cmd.bar = bar
           | none => cmdBad (ctxOf s sp.core sp.half) e = none) →
         ∃ t sp', exec p.1 s = .next (putSpan t s.cur.uid (advance sp')) ∧ sp'.colls = sp.colls + 1 ∧ sp'.spc = sp.spc ∧
           (∀ r, sRead sp' r = sRead sp r) ∧ (∀ r lane, vRead sp' r lane = vRead sp r lane) ∧ sp'.am = sp.am)) ∧
  (∀ (d a : BitVec 6) (p : BitVec 3) (s s' : State) (sp : Span) (l : Launch) (pa x : Nat) (bar : Bool), ActingIn s sp l →
     sp.am = sp.live → ScalarsReady sp [a.toNat, d.toNat] → (sRead sp a.toNat).toNat % 32 = 0 → (sRead sp a.toNat).toNat < quadLo →
     xlate s sp l (sRead sp a.toNat).toNat 0 = .ok pa bar →
     (l.det = false → sp.lost = [] → allPerformed s sp s.cur.uid = true →
       pushRecord (fun t va => xlate t sp l va 0) s l ((List.range 4).map (fun i => homeRead s (pa + 8 * i) 8))
         (sRead sp a.toNat).toNat p.toNat s.cur.uid = .done s' x →
       exec (.cpush d a p) s = .next (putSpan s' s'.cur.uid
         (advance (sWrite { sp with xfail := [] } d.toNat (BitVec.ofNat 64 x))))) ∧
     (l.det = true → sp.buffer.length < 512 →
       let ws := (List.range 4).map (fun i => viewRead s sp l ((sRead sp a.toNat).toNat + 8 * i) (pa + 8 * i) 8)
       let n := newLoad s { mkLoad s.cur.uid (atomDest d) 8 false [⟨0, 0, none⟩] 1 with late := true }
       exec (.cpush d a p) s = .next (putSpan n.1 n.1.cur.uid (advance (markDest
         (buffered s sp (.cpush (sRead sp a.toNat) ws p.toNat n.2)) (atomDest d)))))) ∧
  (∀ (a : BitVec 6) (v : BitVec 8) (s : State) (sp : Span) (l : Launch) (pa : Nat), ActingIn s sp l → sp.am = sp.live →
     ScalarsReady sp [a.toNat] → fieldOf (sRead sp a.toNat) 57 7 = 0 → v.toNat < l.vregs → vFull sp v.toNat = true →
     (∀ i ∈ bitsOf sp.live, 32 * v.toNat + i ∉ sp.badV) → fieldOf (sRead sp a.toNat) 8 49 * 256 < quadLo →
     xlate s sp l (fieldOf (sRead sp a.toNat) 8 49 * 256) 0 = .ok pa true → isHbm pa = true →
     (l.det = false → allPerformed s sp s.cur.uid = true →
       exec (.rsend a v) s = .next (putSpan (meshSend s sp.core pa l.root l.key (fieldOf (sRead sp a.toNat) 0 8)
         (meshVals sp v.toNat)) s.cur.uid (advance sp))) ∧
     (l.det = true → sp.buffer.length < 512 →
       exec (.rsend a v) s = .next (putSpan s s.cur.uid (advance (buffered s sp (.rsend (sRead sp a.toNat) (meshVals sp v.toNat)))))))

/-! ### Lane arithmetic (R71 to R91) -/

namespace Sys2Proof.Machine

/-- An element function by type: sources a, b, c. -/
abbrev LaneFn := Ty → Nat → Nat → Nat → Nat

/-- Elements as their type's integers, the result modulo 2^w (R73). -/
def wrapped (f : Int → Int → Int → Int) : LaneFn := fun t a b c =>
  wrapI (tyWidth t) (f (codeInt (tyWidth t) (tySigned t) a) (codeInt (tyWidth t) (tySigned t) b) (codeInt (tyWidth t) (tySigned t) c))

/-- The result clamped to the type's range (R73). -/
def clamped (f : Int → Int → Int) : LaneFn := fun t a b _ =>
  wrapI (tyWidth t) (clampI (f (codeInt (tyWidth t) (tySigned t) a) (codeInt (tyWidth t) (tySigned t) b))
    (intLo (tyWidth t) (tySigned t)) (intHi (tyWidth t) (tySigned t)))

/-- Integer and logic instructions of two sources (R73 to R76). -/
def laneTwoOps (x : LFields) : List (Instr × LaneFn) :=
  [(.vadd x, wrapped (fun x y _ => x + y)), (.vsub x, wrapped (fun x y _ => x - y)), (.vadds x, clamped (fun x y => x + y)),
   (.vsubs x, clamped (fun x y => x - y)), (.vmul x, wrapped (fun x y _ => x * y)),
   (.vmulh x, fun t a b _ => wrapI (tyWidth t)
     (codeInt (tyWidth t) (tySigned t) a * codeInt (tyWidth t) (tySigned t) b / ((2 ^ tyWidth t : Nat) : Int))),
   (.vdiv x, fun t a b _ => if b = 0 then 2 ^ tyWidth t - 1 else wrapI (tyWidth t)
     ((codeInt (tyWidth t) (tySigned t) a).tdiv (codeInt (tyWidth t) (tySigned t) b))),
   (.vrem x, fun t a b _ => if b = 0 then a else wrapI (tyWidth t) (codeInt (tyWidth t) (tySigned t) a -
     codeInt (tyWidth t) (tySigned t) b * (codeInt (tyWidth t) (tySigned t) a).tdiv (codeInt (tyWidth t) (tySigned t) b)))] ++
  [(.vmin x, wrapped (fun x y _ => min x y)), (.vmax x, wrapped (fun x y _ => max x y)),
   (.vabsd x, wrapped (fun x y _ => ((x - y).natAbs : Int))),
   (.vand x, fun _ a b _ => a &&& b), (.vor x, fun _ a b _ => a ||| b), (.vxor x, fun _ a b _ => a ^^^ b),
   (.vandn x, fun t a b _ => a &&& notW (tyWidth t) b),
   (.vshl x, fun t a b _ => (a * 2 ^ (b % tyWidth t)) % 2 ^ tyWidth t),
   (.vshr x, fun t a b _ => wrapI (tyWidth t)
     (codeInt (tyWidth t) (tySigned t) a / ((2 ^ (b % tyWidth t) : Nat) : Int))),
   (.vrotl x, fun t a b _ =>
     (a * 2 ^ (b % tyWidth t)) % 2 ^ tyWidth t ||| a / 2 ^ (tyWidth t - b % tyWidth t))]

/-- Instructions of one source. -/
def laneOneOps (x : LFields) : List (Instr × LaneFn) :=
  [(.vabs x, wrapped (fun x _ _ => (x.natAbs : Int))), (.vnot x, fun t a _ _ => notW (tyWidth t) a),
   (.vclz x, fun t a _ _ => clzNat (tyWidth t) a), (.vpopc x, fun _ a _ _ => ((List.range 64).filter (fun i => a.testBit i)).length),
   (.vbrev x, fun t a _ _ => (List.range (tyWidth t)).foldl (fun r i => if a.testBit i then r + 2 ^ (tyWidth t - 1 - i) else r) 0),
   (.vfabs x, fun t a _ _ => a % 2 ^ (tyWidth t - 1)), (.vfneg x, fun t a _ _ => a ^^^ 2 ^ (tyWidth t - 1)),
   (.vfsqrt x, fun t a _ _ => fSqrt (fmtOf t) (fpRm x) a), (.vexp2 x, fun t a _ _ => fExp2 (fmtOf t) (fpRm x) a),
   (.vlog2 x, fun t a _ _ => fLog2 (fmtOf t) (fpRm x) a)]

/-- Floating-point instructions of two sources, rounded once in the type's format (R80 to R84). -/
def laneFloatOps (x : LFields) : List (Instr × LaneFn) :=
  [(.vfadd x, fun t a b _ => fAdd (fmtOf t) (fpRm x) a b), (.vfsub x, fun t a b _ => fSub (fmtOf t) (fpRm x) a b),
   (.vfmul x, fun t a b _ => fMul (fmtOf t) (fpRm x) a b), (.vfdiv x, fun t a b _ => fDiv (fmtOf t) (fpRm x) a b),
   (.vfmin x, fun t a b _ => fMinMax false (fmtOf t) a b), (.vfmax x, fun t a b _ => fMinMax true (fmtOf t) a b),
   (.vfcsgn x, fun t a b _ => a % 2 ^ (tyWidth t - 1) + (b / 2 ^ (tyWidth t - 1)) * 2 ^ (tyWidth t - 1))]

/-- Instructions of three sources (R73, R75, R80). -/
def laneThreeOps (x : LFields) : List (Instr × LaneFn) :=
  [(.vmad x, wrapped (fun x y z => x * y + z)), (.vsel x, fun t a b c => (a &&& c) ||| (b &&& notW (tyWidth t) c)),
   (.vfma x, fun t a b c => fFma (fmtOf t) (fpRm x) a b c), (.vfms x, fun t a b c => fFms (fmtOf t) (fpRm x) a b c),
   (.vfnma x, fun t a b c => fFnma (fmtOf t) (fpRm x) a b c)]

/-- Compares (R78, R85): the condition on two lane values. -/
def laneCompareOps (x : LFields) : List (Instr × (Ty → Nat → Nat → Bool)) :=
  [(.vceq x, fun _ a b => a == b), (.vcne x, fun _ a b => a != b),
   (.vclt x, fun t a b => decide (codeInt (tyWidth t) (tySigned t) a < codeInt (tyWidth t) (tySigned t) b)),
   (.vcle x, fun t a b => decide (codeInt (tyWidth t) (tySigned t) a ≤ codeInt (tyWidth t) (tySigned t) b)),
   (.vcgt x, fun t a b => decide (codeInt (tyWidth t) (tySigned t) b < codeInt (tyWidth t) (tySigned t) a)),
   (.vcge x, fun t a b => decide (codeInt (tyWidth t) (tySigned t) b ≤ codeInt (tyWidth t) (tySigned t) a)),
   (.vfceq x, fun t a b => fEqual t a b), (.vfcne x, fun t a b => !fEqual t a b), (.vfclt x, fun t a b => fLess t a b),
   (.vfcle x, fun t a b => fLess t a b || fEqual t a b), (.vfcun x, fun t a b => fUnord t a b)]

/-- The shuffles, as the source lane of each lane (R87). -/
def shuffleOps (x : LFields) : List (Instr × (Nat → Nat → Nat → Nat)) :=
  [(.vshufXor x, fun _ m k => k ^^^ m), (.vshufRot x, fun w m k => (k + m) % w),
   (.vshufDn x, fun w m k => if w ≤ k + m then k else k + m), (.vshufUp x, fun _ m k => if k < m then k else k - m)]

/-- A pass retires with the span's registers as `sp`. -/
def passRetired (s : State) (sp : Span) : State := putSpan s s.cur.uid (advancePass sp)

end Sys2Proof.Machine

/-- R71, R73 to R76, R80 to R84: a ready pass of a two-source, floating-point or one-source lane instruction writes F of the elements in every lane of m, from the
sources as they stood, and retires. -/
def Obligations.LaneArithmeticResult : Prop :=
  ∀ (x : LFields) (s : State) (sp : Span) (l : Launch),
    (PassReady s sp l (srcA x ++ srcB x) (dstV x) none → ∀ p ∈ laneTwoOps x ++ laneFloatOps x,
      exec p.1 s = .next (passRetired s (elementwise s sp x p.2))) ∧
    (PassReady s sp l (srcA x) (dstV x) none → ∀ p ∈ laneOneOps x,
      exec p.1 s = .next (passRetired s (elementwise s sp x p.2))) ∧
    (PassReady s sp l (srcA x ++ srcB x ++ srcC x) (dstV x) none → ∀ p ∈ laneThreeOps x,
      exec p.1 s = .next (passRetired s (elementwise s sp x p.2)))

/-- R71: an element-wise pass leaves every lane outside m and every register but the destination as it was, reads its sources as they stood before it,
and gives each lane of m the elements that F gives: for types of 32 bits and less in the register that holds the lane's elements, for the
64-bit types in the pair that starts at the destination. -/
def Obligations.ElementwisePass : Prop :=
  ∀ (x : LFields) (s : State) (sp : Span) (f : LaneFn) (r lane : Nat), lane < 32 →
    let ty := tyOfCode x.ty.toNat
    let w := tyWidth ty
    let v := ofElems w ((List.range (elemCount w)).map (fun e =>
      f ty (elemOf w (opndA sp ty x lane) e) (elemOf w (opndB sp ty x lane) e) (elemOf w (opndC sp ty x lane) e)))
    (w ≠ 64 → vRead (elementwise s sp x f) r lane =
      if r = x.vd.toNat ∧ s.cur.mask.getLsbD lane = true then BitVec.ofNat 32 v else vRead sp r lane) ∧
    (w = 64 → vRead (elementwise s sp x f) r lane =
      if s.cur.mask.getLsbD lane = true then
        (if r = x.vd.toNat then BitVec.ofNat 32 v else if r = x.vd.toNat + 1 then BitVec.ofNat 32 (v / 2 ^ 32) else vRead sp r lane)
      else vRead sp r lane)

/-- R78, R85: a ready pass of a compare writes the mask of the lanes of m whose condition holds into sdst: the whole register on the first pass of a position
that names it, only the bits of its own lanes on a later one.
R78: bit l of a compare's mask is the outcome for lane l of m, and every other bit is 0. -/
def Obligations.LaneCompares : Prop :=
  (∀ (x : LFields) (s : State) (sp : Span) (l : Launch), PassReady s sp l (srcA x ++ srcB x) [] (some x.sdst.toNat) →
     ∀ p ∈ laneCompareOps x,
       exec p.1 s = .next (passRetired s (writeMask s sp x.sdst.toNat (compareMask s (fun k =>
         p.2 (tyOfCode x.ty.toNat) (opndA sp (tyOfCode x.ty.toNat) x k) (opndB sp (tyOfCode x.ty.toNat) x k)))))) ∧
  (∀ (s : State) (p : Nat → Bool) (k : Nat), k < 64 →
     (compareMask s p).getLsbD k = (s.cur.mask.getLsbD k && p k))

/-- R77, R112, R113: `vmov` copies the lane value of b, `vlane` writes each lane's index, `vgid` the launch-global lane number, `vpl` and `vplset` read and
set the lanes' planes outside planed blocks, `lnop` only retires its pass.
R86 to R88: shuffles, permutes and broadcasts give lane k of m the value that source a has in another lane, as it stood, whatever that lane's masks;
a shuffle's distance is a lane of the launch, else it traps ILLEGAL, after its source has been tested (the model's choice, log 84). -/
def Obligations.LaneMovesAndShuffles : Prop :=
  (∀ (x : LFields) (s : State) (sp : Span) (l : Launch),
     (PassReady s sp l (srcB x) (dstV x) none →
       exec (.vmov x) s = .next (passRetired s ((passLanes s).foldl (fun acc k =>
         vLaneWrite acc x.vd.toNat k (wideTy x.ty) (opndB sp (tyOfCode x.ty.toNat) x k)) sp))) ∧
     (PassReady s sp l [] [x.vd.toNat] none →
       exec (.vlane x) s = .next (passRetired s ((passLanes s).foldl (fun acc k =>
         vWrite acc x.vd.toNat k (BitVec.ofNat 32 k)) sp))) ∧
     (PassReady s sp l [] (regSpan x.vd 2) none →
       exec (.vgid x) s = .next (passRetired s ((passLanes s).foldl (fun acc k =>
         vLaneWrite acc x.vd.toNat k true (sp.n * lanesOf l + k)) sp))) ∧
     (s.cur.planed = false → PassReady s sp l [] [x.vd.toNat] none →
       exec (.vpl x) s = .next (passRetired s ((passLanes s).foldl (fun acc k =>
         vWrite acc x.vd.toNat k (BitVec.ofNat 32 (planeOf sp k))) sp))) ∧
     (s.cur.planed = false → PassReady s sp l [.v [x.va.toNat] (feA x)] [] none →
       exec (.vplset x) s = .next (passRetired s ((passLanes s).foldl (fun acc k =>
         setPlane acc k (vRead sp x.va.toNat k).toNat) sp))) ∧
     (PassReady s sp l [] [] none → exec .lnop s = .next (passRetired s sp))) ∧
  (∀ (x : LFields) (s : State) (sp : Span) (l : Launch),
     (PassReady s sp l (srcA x) (dstV x) none → (x.p2.extractLsb' 0 5).toNat < lanesOf l → ∀ p ∈ shuffleOps x,
       exec p.1 s = .next (passRetired s (gather s sp x (p.2 (lanesOf l) (x.p2.extractLsb' 0 5).toNat)))) ∧
     (PassReady s sp l (srcA x) (dstV x) none → lanesOf l ≤ (x.p2.extractLsb' 0 5).toNat → ∀ p ∈ shuffleOps x,
       exec p.1 s = takeTrap s sp l ⟨causeIllegal, true, s.cur.mask, 0⟩) ∧
     (PassReady s sp l (srcA x ++ classSource x.bcls x.vb 1 (feB x)) (dstV x) none →
       exec (.vperm x) s = .next (passRetired s (gather s sp x (fun k =>
         (if x.bcls = 0 then (vRead sp x.vb.toNat k).toNat else (lRead sp x.vb.toNat).toNat % 2 ^ 32) % lanesOf l))) ∧
       exec (.vbcast x) s = .next (passRetired s (gather s sp x (fun _ =>
         (lRead sp x.vb.toNat).toNat % 2 ^ 32 % lanesOf l)))))

/-- R89 to R91: reductions of the lanes of m into a scalar register, the inclusive scan with its frame, for the integer and the FP types of both
widths, the value of the lowest lane and the uniform value, which traps NONUNIFORM with the lanes that differ. -/
def Obligations.LaneReductions : Prop :=
  ∀ (x : LFields) (s : State) (sp : Span) (l : Launch), 
    let t := tyOfCode x.ty.toNat
    let vals := (passLanes s).map (opndA sp t x)
    let fill := fun (v : Nat) => passRetired s (writeSdst sp x.sdst.toNat (BitVec.ofNat 64 v))
    let sum := fun (a b : Nat) => if tyIsInt t then (a + b) % 2 ^ tyWidth t else fAdd (fmtOf t) .rne a b
    let upTo := fun (k : Nat) => ((passLanes s).filter (fun j => decide (j ≤ k))).foldl (fun a j => sum a (opndA sp t x j)) 0
    let differ := (passLanes s).filter (fun k => opndA sp t x k != vals.headD 0)
    (PassReady s sp l (srcA x) [] (some x.sdst.toNat) →
      (tyIsInt t = true → exec (.vredadd x) s = .next (fill (wrapI (tyWidth t)
        ((passLanes s).map (fun k => codeInt (tyWidth t) (tySigned t) (opndA sp t x k))).sum))) ∧
      (tyIsInt t = false → exec (.vredadd x) s = .next (fill (fTreeSum (fmtOf t)
        ((List.range 32).map (fun k => if s.cur.mask.getLsbD k then some (opndA sp t x k) else none))))) ∧
      exec (.vredmin x) s = .next (fill (vals.foldl (pickMinMax false t) (tyMax t))) ∧
      exec (.vredmax x) s = .next (fill (vals.foldl (pickMinMax true t) (tyMin t))) ∧
      exec (.vredand x) s = .next (fill (vals.foldl (fun a b => a &&& b) (2 ^ tyWidth t - 1))) ∧
      exec (.vredor x) s = .next (fill (vals.foldl (fun a b => a ||| b) 0)) ∧
      exec (.vrfl x) s = .next (fill (vals.headD 0)) ∧
      (differ = [] → exec (.vrul x) s = .next (fill (vals.headD 0))) ∧
      (differ ≠ [] → exec (.vrul x) s = takeTrap s sp l ⟨causeNonuniform, true, maskOf 32 differ, 0⟩)) ∧
    (PassReady s sp l (srcA x) (dstV x) none →
      exec (.vscan x) s = .next (passRetired s ((passLanes s).foldl (fun acc k =>
        vLaneWrite acc x.vd.toNat k (tyWidth t == 64) (upTo k)) sp)))

/-! ### Conversions, lane memory, lane exit (R94 to R113) -/

namespace Sys2Proof.Machine

/-- A conversion as its row gives it: whether its slot suits it, the registers of source and destination, the elements of a lane, and
the source codes of a lane in element order. -/
structure Conv where
  suits : Bool
  nsrc : Nat
  ndst : Nat
  count : Nat
  src : Span → Nat → List Nat

/-- The element-wise conversions (R95). -/
def conversionOps (x : LFields) (f : BitVec 128) : List (Instr × Conv) :=
  let a := tyWidth (tyOfCode (fsA f))
  let b := tyWidth (tyOfCode (fsB f))
  let types := decide (fsA f ≤ 13) && decide (fsB f ≤ 13)
  let n := if a = 64 ∨ b = 64 then 1 else 32 / max a b
  let part := (x.p2.extractLsb' 4 2).toNat
  [(.vcvt x, ⟨types && !(a == 64 && x.va.getLsbD 0) && !(b == 64 && x.vd.getLsbD 0), if a = 64 then 2 else 1, if b = 64 then 2 else 1,
      n, fun sp k => (List.range n).map (elemOf a (vLane sp x.va.toNat k (a == 64)))⟩),
   (.vcvtp x, ⟨types && decide (b < a) && decide (a ≤ 32), a / b, 1, 32 / b, fun sp k => (List.range (32 / b)).map (fun i =>
      elemOf a (vRead sp (x.va.toNat + i / (32 / a)) k).toNat (i % (32 / a)))⟩),
   (.vcvtu x, ⟨types && decide (a < b) && decide (b ≤ 32) && decide (part < b / a), 1, 1, 32 / b, fun sp k =>
      (List.range (32 / b)).map (fun e => elemOf a (vRead sp x.va.toNat k).toNat (part * (32 / b) + e))⟩)]

/-- The block packs (R98, R99): whether the slot suits, the registers of the destination, and how lane q of a block of four writes its
registers from the block's values and their rounding modes. -/
def packOps (x : LFields) (f : BitVec 128) : List (Instr × Bool × Nat × ((Nat → Rm) → List FVal → Span → Nat → Nat → Span)) :=
  [(.vmxpack x, fsA f == 10 && (fsB f == 12 || fsB f == 13) && fsScale f == 1 && fsBlk f == 5, 3, fun rms xs acc k q =>
      let r := mxEncode (tyOfCode (fsB f)) (fsE5 f) rms xs
      vWrite (vLaneWrite acc x.vd.toNat k true (ofElems 8 ((List.range 8).map (fun e => r.1.getD (8 * q + e) 0))))
        (x.vd.toNat + 2) k (BitVec.ofNat 32 r.2)),
   (.vf4pack x, fsA f == 10 && fsB f == 14 && fsScale f == 1 && fsBlk f == 5, 2, fun rms xs acc k q =>
      let r := f4xEncode (fsF4xOff f) rms xs
      vWrite (vWrite acc x.vd.toNat k (BitVec.ofNat 32 (ofElems 4 ((List.range 8).map (fun e => r.1.getD (8 * q + e) 0)))))
        (x.vd.toNat + 1) k (BitVec.ofNat 32 (r.2.1 + 256 * r.2.2)))]

/-- The lane atomics, in the order of their codes. -/
def laneAtoms (x : LFields) : List Instr :=
  [.vatomAdd x, .vatomMin x, .vatomMax x, .vatomMinn x, .vatomMaxn x, .vatomAnd x, .vatomOr x, .vatomXor x, .vatomXchg x,
   .vatomCas x, .vatomFadd x, .vatomBf16x2add x]

/-- The lane loads that retire at issue, with kind and reader count (R104, R105). -/
def laneLoads (x : LFields) : List (Instr × AccKind × Nat) :=
  [(.vld x, .plain, 0), (.vldUnc x, .unc, 0)] ++ (if x.vc = 0 then [] else [(.vldReaders x, .readers, x.vc.toNat)])

/-- The checks of a pass's accesses have all answered a place. -/
def accsPlaced (s s' : State) (sp : Span) (l : Launch) (k : AccKind) (w : Nat) (accs : List Acc) (ps : List (Acc × Place)) : Prop :=
  checkAccs s sp l k w accs = (s', ps.map (fun p => (p.1, LaneChk.ok p.2)))

/-- The lane operations with the sources that their passes read and the vector registers that they write; those that count on a plane only
outside planed blocks, those with a format slot where the slot suits them. -/
def passForms (x : LFields) (s : State) (l : Launch) : List (Instr × List Source × List Nat) :=
  let f := fslotOf l x.fs.toNat
  let addr := addrSources x
  let group := fun (r : BitVec 8) => regSpan r (tyRegs x.ty)
  let keeps := fun (b : Bool) (y : List (Instr × List Source × List Nat)) => if b then y else []
  let streamed := !stochastic (effRm x.rm.toNat f) || x.bcls == 1
  let block := fsB f == 10 && fsScale f == 1 && fsBlk f == 5
  (laneTwoOps x ++ laneFloatOps x).map (fun p => (p.1, srcA x ++ srcB x, dstV x)) ++
  (laneOneOps x).map (fun p => (p.1, srcA x, dstV x)) ++
  (laneThreeOps x).map (fun p => (p.1, srcA x ++ srcB x ++ srcC x, dstV x)) ++
  (laneCompareOps x).map (fun p => (p.1, srcA x ++ srcB x, [])) ++
  (shuffleOps x).map (fun p => (p.1, srcA x, dstV x)) ++
  [Instr.vperm x, .vbcast x].map (fun i => (i, srcA x ++ classSource x.bcls x.vb 1 (feB x), dstV x)) ++
  [Instr.vredadd x, .vredmin x, .vredmax x, .vredand x, .vredor x, .vrfl x, .vrul x].map (fun i => (i, srcA x, [])) ++
  [(.vmov x, srcB x, dstV x), (.vscan x, srcA x, dstV x), (.vlane x, [], [x.vd.toNat]), (.vgid x, [], regSpan x.vd 2),
   (.vpush x, [.v [x.va.toNat] (feA x)], []), (.vpop x, [], [x.vd.toNat]),
   (.vrnd x, [.v (regSpan x.va 2) (feA x)] ++ srcStream x, [x.vd.toNat])] ++
  keeps (!s.cur.planed) [(.vplset x, [.v [x.va.toNat] (feA x)], []), (.vpl x, [], [x.vd.toNat])] ++
  [Instr.vld x, .vldCons x, .vldUnc x].map (fun i => (i, addr, group x.vd)) ++
  keeps (x.vc != 0) [(.vldReaders x, addr, group x.vd)] ++
  [Instr.vst x, .vstUnc x].map (fun i => (i, addr ++ [.v (group x.vc) (feC x)], [])) ++
  (laneAtoms x).map (fun i => (i, addr ++ [.v (group x.vc) (feC x)], group x.vd)) ++
  (conversionOps x f).flatMap (fun p => keeps (p.2.suits && streamed)
    [(p.1, [.v (regSpan x.va p.2.nsrc) (feA x)] ++ srcStream x, regSpan x.vd p.2.ndst)]) ++
  (packOps x f).flatMap (fun p => keeps (p.2.1 && streamed)
    [(p.1, [.v (regSpan x.va 8) (feA x)] ++ srcStream x, regSpan x.vd p.2.2.1)]) ++
  keeps ((fsA f == 12 || fsA f == 13) && block) [(.vmxunpk x, [.v (regSpan x.va 3) (feA x)] ++ srcStream x, regSpan x.vd 8)] ++
  keeps (fsA f == 14 && block) [(.vf4unpk x, [.v (regSpan x.va 2) (feA x)] ++ srcStream x, regSpan x.vd 8)]

/-- The lane memory operations with their access kind, their width and the lanes' addresses. -/
def laneAccesses (x : LFields) (s : State) (sp : Span) : List (Instr × AccKind × Nat × List Acc) :=
  let w := (memWidth x.ty).1
  let accs := passAccs s sp x
  [(.vld x, .plain, w, accs), (.vldUnc x, .unc, w, accs), (.vldCons x, .cons, w, accs), (.vst x, .store, w, accs),
   (.vstUnc x, .storeUnc, w, accs)] ++ (if x.vc = 0 then [] else [(.vldReaders x, .readers, w, accs)]) ++
  (laneAtoms x).map (fun i => (i, .atomic, 4 * tyRegs x.ty, (passLanes s).map (fun k => (k, laneAddr sp x 0 k))))

end Sys2Proof.Machine

/-- R95, R96, R97: a ready pass of an element-wise conversion through a format slot that suits it counts its source values into the
chosen histogram table and gives each lane of m its elements, each the source element encoded in the destination type, rounded as the
slot and the word say, at the index of its lane and place. A stochastic rounding needs a stream.
R97, R98, R99: a ready pass of a block pack through a format slot that suits it encodes each block of four lanes that has a lane in m,
a lane outside m giving +0, and writes the registers of its lanes in m; the blocks' values count into the chosen histogram table. -/
def Obligations.Conversions : Prop :=
  (∀ (x : LFields) (s : State) (sp : Span) (l : Launch), ActingIn s sp l →
     let f := fslotOf l x.fs.toNat
     let rm := effRm x.rm.toNat f
     (stochastic rm = true → x.bcls = 1) →
     ∀ p ∈ conversionOps x f, p.2.suits = true →
       PassReady s sp l ([.v (regSpan x.va p.2.nsrc) (feA x)] ++ srcStream x) (regSpan x.vd p.2.ndst) none →
       let elem := fun (k e code : Nat) => encodeTy (tyOfCode (fsB f))
         (rmOf rm (fsSeed f) (streamOf sp x) ((gidOf l sp k * p.2.count + e) % 2 ^ 64)) (fsE5 f) (decodeTy (tyOfCode (fsA f)) code)
       let b := tyWidth (tyOfCode (fsB f))
       exec p.1 s = .next (passRetired
         (histCount s sp.core (histChoice x f) ((passLanes s).flatMap (fun k => (p.2.src sp k).map (decodeTy (tyOfCode (fsA f))))))
         ((passLanes s).foldl (fun acc k => vLaneWrite acc x.vd.toNat k (b == 64)
           (ofElems b ((p.2.src sp k).zipIdx.map (fun c => elem k c.2 c.1)))) sp))) ∧
  (∀ (x : LFields) (s : State) (sp : Span) (l : Launch), ActingIn s sp l →
     let f := fslotOf l x.fs.toNat
     let rm := effRm x.rm.toNat f
     (stochastic rm = true → x.bcls = 1) →
     ∀ p ∈ packOps x f, p.2.1 = true →
       PassReady s sp l ([.v (regSpan x.va 8) (feA x)] ++ srcStream x) (regSpan x.vd p.2.2.1) none →
       let inM := fun (b q : Nat) => s.cur.mask.getLsbD (4 * b + q)
       let formed := (List.range (lanesOf l / 4)).filter (fun b => (List.range 4).any (inM b))
       let vals := fun b => (List.range 32).map (fun i =>
         if inM b (i / 8) then decodeF fmtF32 (vRead sp (x.va.toNat + i % 8) (4 * b + i / 8)).toNat else .fin false 0 0)
       let rms := fun b i => rmOf rm (fsSeed f) (streamOf sp x) ((gidOf l sp (4 * b + i / 8) * 8 + i % 8) % 2 ^ 64)
       exec p.1 s = .next (passRetired (histCount s sp.core (histChoice x f) (formed.flatMap vals))
         (formed.foldl (fun acc b => (List.range 4).foldl (fun acc q =>
           if inM b q then p.2.2.2 (rms b) (vals b) acc (4 * b + q) q else acc) acc) sp)))

/-- R100, R101: the unpacks give eight registers the decoded elements of each lane of m; `vrnd` gives each lane of m the hash of the slot's seed, its
stream and its two source registers. -/
def Obligations.UnpackAndRandom : Prop :=
  ∀ (x : LFields) (s : State) (sp : Span) (l : Launch), ActingIn s sp l →
    let f := fslotOf l x.fs.toNat
    ((fsA f = 12 ∨ fsA f = 13) → fsB f = 10 → fsScale f = 1 → fsBlk f = 5 →
      PassReady s sp l ([.v (regSpan x.va 3) (feA x)] ++ srcStream x) (regSpan x.vd 8) none →
      exec (.vmxunpk x) s = .next (passRetired s ((passLanes s).foldl (fun acc k =>
        (List.range 8).foldl (fun acc e => vWrite acc (x.vd.toNat + e) k (BitVec.ofNat 32
          (mxDecode (tyOfCode (fsA f)) ((vRead sp (x.va.toNat + 2) k).toNat % 256) (elemOf 8 (vLane sp x.va.toNat k true) e)))) acc) sp))) ∧
    (fsA f = 14 → fsB f = 10 → fsScale f = 1 → fsBlk f = 5 →
      PassReady s sp l ([.v (regSpan x.va 2) (feA x)] ++ srcStream x) (regSpan x.vd 8) none →
      exec (.vf4unpk x) s = .next (passRetired s ((passLanes s).foldl (fun acc k =>
        (List.range 8).foldl (fun acc e => vWrite acc (x.vd.toNat + e) k (BitVec.ofNat 32
          (f4xDecode ((vRead sp (x.va.toNat + 1) k).toNat % 256) ((vRead sp (x.va.toNat + 1) k).toNat / 256 % 256)
            (elemOf 4 (vRead sp x.va.toNat k).toNat e)))) acc) sp))) ∧
    (PassReady s sp l ([.v (regSpan x.va 2) (feA x)] ++ srcStream x) [x.vd.toNat] none →
      exec (.vrnd x) s = .next (passRetired s ((passLanes s).foldl (fun acc k =>
        vWrite acc x.vd.toNat k (BitVec.ofNat 32 (hash (fsSeed f) (streamOf sp x) (vLane sp x.va.toNat k true)))) sp)))

/-- R102 to R105: a lane load whose accesses pass their checks issues: its register, or pair, is empty until the fill; a pass without a
lane only retires.
R106: a consuming lane load retires when every line it asked for has answered as counted. -/
def Obligations.LaneLoads : Prop :=
  (∀ (x : LFields) (s s' : State) (sp : Span) (l : Launch) (ps : List (Acc × Place)), s.cur.lane = true →
     PassReady s sp l (addrSources x) (regSpan x.vd (tyRegs x.ty)) none → sp.acquiring = none → sp.pend = .none →
     ∀ p ∈ laneLoads x,
       let w := memWidth x.ty
       let dest := Dest.v x.vd.toNat (w.1 == 8)
       (ps ≠ [] → accsPlaced s s' sp l p.2.1 w.1 (passAccs s sp x) ps → readsBad s' sp l w.1 ps = false →
         loadMayIssue s' sp l p.2.1 w.1 ps →
         ∀ t, t = loadIssued s' sp l p.2.1 p.2.2 w.1 w.2 dest ps →
           exec p.1 s = .next (putSpan t t.cur.uid (advancePass (markDest (loadSpan s' sp l p.2.1 w.1 ps) dest)))) ∧
       (s.cur.mask = 0 → exec p.1 s = .next (passRetired s sp))) ∧
  (∀ (x : LFields) (s : State) (sp : Span) (l : Launch) (i : Nat) (ld : Load), s.cur.lane = true →
     PassReady s sp l (addrSources x) (regSpan x.vd (tyRegs x.ty)) none → sp.acquiring = none →
     sp.pend = .consume i → mapFind s.loads i = some ld → ld.waits = 0 → (∀ y ∈ ld.served, y.2 = false) →
     let dest := Dest.v x.vd.toNat ((memWidth x.ty).1 == 8)
     ∃ t, t = putLoad (ld.served.foldl (fun t y => settleLine t y.1 false) s) i { ld with dest := dest } ∧
       exec (.vldCons x) s = .next (putSpan t t.cur.uid (advancePass (markDest { sp with pend := .none } dest))))

/-- R104, R107, R299: a lane store whose accesses are all scratch writes its bytes there in lane order; one with accesses to memory is
performed when its checks have been answered; one of a deterministic launch whose bytes are the deck's own becomes an entry of the
commit buffer for each line. In debug mode the lines are logged first (R208).
R109, R263, R265, R299: a lane atomic commits when the homes have accepted one request for each lane: the requests go on to be
performed, and its register is empty until the old values are back. One whose lanes are all scratch is performed at once, in lane
order, or, a release whose covered writes are still under way, held lane by lane with markers (R264, R265). One of a deterministic launch on the deck's own bytes becomes one entry of the commit buffer. A pass without a lane only
retires. -/
def Obligations.LaneStoresAndAtomics : Prop :=
  (∀ (x : LFields) (s s' : State) (sp : Span) (l : Launch) (ps : List (Acc × Place)) (ids : List Nat), s.cur.lane = true →
     PassReady s sp l (addrSources x ++ [.v (regSpan x.vc (tyRegs x.ty)) (feC x)]) [] none → sp.acquiring = none →
     ∀ p ∈ [(Instr.vst x, AccKind.store), (Instr.vstUnc x, AccKind.storeUnc)],
       let w := (memWidth x.ty).1
       let data := fun k => vLane sp x.vc.toNat k (w == 8) % 2 ^ (8 * w)
       (l.det = false → sp.pend = .none → accsPlaced s s' sp l p.2 w (passAccs s sp x) ps → (∀ q ∈ ps, ∃ off, q.2 = .loc off) →
         (∀ y ∈ localLines ps, atomicsOn s' s.cur.uid y.1 = false) →
         ∀ un, un = undoLines s' sp l (ps.map (fun q => (q.1.2, q.2))) → ∀ t, t = putLocal un.1 un.2 (storeCells w ps data) →
         exec p.1 s = .next (putSpan t t.cur.uid (advancePass un.2))) ∧
       (sp.pend = .store ids → (∀ i ∈ ids, (reqOf s i).stage = .answered ∧ (reqOf s i).bad = false) →
         ∀ r, r = storePerformed s sp l (p.2 == .storeUnc) ids ((passAccs s sp x).filter (fun a => inLocal a.2)) w data →
           exec p.1 s = .next (putSpan r.1 r.1.cur.uid (advancePass r.2))) ∧
       (l.det = true → sp.pend = .none → accsPlaced s s' sp l p.2 w (passAccs s sp x) ps →
         (∀ y ∈ localLines ps, atomicsOn s' s.cur.uid y.1 = false) →
         (∀ a ∈ passAccs s sp x, ownsBytes s' sp l (fun acc => !acc) a.2 w = true) →
         ∀ xs, xs = storeEntries (storeCells w ps data) (p.2 == .storeUnc) → sp.buffer.length + xs.length ≤ 512 →
         ∀ sp1, sp1 = { sp with buffer := sp.buffer ++ xs.map (fun y => (reportPoint sp s'.cur.lane, y)) } →
         ∀ un, un = undoLines s' sp1 l (ps.map (fun q => (q.1.2, q.2))) →
           exec p.1 s = .next (putSpan un.1 un.1.cur.uid (advancePass { sp1 with undo := un.2.undo })))) ∧
  (∀ (x : LFields) (s s' : State) (sp : Span) (l : Launch) (ids : List Nat) (ps : List (Acc × Place)), s.cur.lane = true →
     PassReady s sp l [.v [x.va.toNat] (feA x), .s (x.vb.toNat % 64) (feB x), .v (regSpan x.vc (tyRegs x.ty)) (feC x)]
       (regSpan x.vd (tyRegs x.ty)) none → sp.acquiring = none →
     let pair := tyRegs x.ty == 2
     let w := if pair then 64 else 32
     let ord := (x.p2.extractLsb' 24 4).toNat
     let dest := Dest.v x.vd.toNat pair
     let accs := (passLanes s).map (fun k => (k, laneAddr sp x 0 k))
     let ops := ps.map (fun q => AtomOp.mk q.1 q.2 (vLane sp x.vc.toNat q.1.1 pair % 2 ^ w) (vLane sp x.vd.toNat q.1.1 pair % 2 ^ w))
     ∀ i ∈ (laneAtoms x).zipIdx,
       (ids ≠ [] → ids.Nodup → sp.pend = .atomic ids → (∀ j ∈ ids, (reqOf s j).stage = .answered ∧ (reqOf s j).bad = false) →
         (∀ k ∈ passLanes s, ∃ j ∈ ids, (reqOf s j).tag = k) →
         ∃ t id ld sp', exec i.1 s = .next t ∧ mapFind t.loads id = some ld ∧ ld.waits = ids.length ∧ ld.dest = dest ∧
           (∀ j ∈ ids, (reqOf t j).stage = .quad ∧ (reqOf t j).loads = [id]) ∧
           spanOf t s.cur.uid = some sp' ∧ vFull sp' x.vd.toNat = false) ∧
       (sp.pend = .none → accsPlaced s s' sp l .atomic (w / 8) accs ps → readsBad s' sp l (w / 8) ps = false → ps ≠ [] →
         (l.det = false → (∀ q ∈ ps, ∃ off, q.2 = .loc off) → (∀ y ∈ localLines ps, atomicsOn s' s.cur.uid y.1 = false) →
           (ordRel ord = true → markers s' sp.core + ops.length ≤ 64 ∧ (ordScope ord = 5 → spanColls s' sp = false)) →
           (atomReady s' sp ord = true →
             let un := undoLines (atomBegin s' sp ord) sp l (ops.map (fun o => (o.acc.2, o.place)))
             let lo := atomLocal (orderLocal un.1 un.2 ord ops) un.2 i.2 w ops
             let r := newLoad lo.1 (mkLoad s'.cur.uid dest (w / 8) false (atomLanes ops lo.2) 0)
             exec i.1 s = .next (putSpan r.1 r.1.cur.uid (advancePass (markDest
               (if ordAcq ord then beginAcquire un.2 r.2 (ordScope ord) [] else un.2) dest)))) ∧
           (atomReady s' sp ord = false →
             let r := newLoad (atomBegin s' sp ord) (mkLoad s'.cur.uid dest (w / 8) false (atomLanes ops []) ops.length)
             let c := publish r.1 s'.cur.uid
             let t := ops.foldl (fun t o => holdScratch t sp i.2 w (ordScope ord) r.2 (atomCovered s' sp ord) c.2 o) c.1
             exec i.1 s = .next (putSpan t t.cur.uid (advancePass (markDest
               (if ordAcq ord then beginAcquire sp r.2 (ordScope ord) [] else sp) dest))))) ∧
         (l.det = true → sp.buffer.length < 512 → (∀ o ∈ ops, atomOwned s' sp l i.2 true o.acc.2 w = true) →
           ∃ t id sp' lanes, exec i.1 s = .next (putSpan t t.cur.uid (advancePass sp')) ∧
             sp'.buffer = sp.buffer ++ [(reportPoint sp s'.cur.lane, .atomic w i.2 ord (some id) lanes)] ∧
             lanes.map AtomLane.lane = passLanes s ∧ lanes.map AtomLane.va = accs.map Prod.snd ∧
             vFull sp' x.vd.toNat = false)) ∧
       (s.cur.mask = 0 → sp.pend = .none → exec i.1 s = .next (passRetired s sp)))

/-- R110, R127, R298, R299: a FIFO push appends its words while there is room; a pop that no older pop is ahead of takes the oldest
words at once, else it waits for them, and its register is empty until the fill. In a deterministic launch the push is an entry of
the commit buffer, and the pop waits for the quantum's end.
R110, R298, R299: `vpush` appends the words of the lanes of m to a FIFO with room, in lane order; `vpop` takes the oldest words when they
are there, else it waits for them, its register empty until then. In a deterministic launch the push is an entry of the commit buffer
and the pop waits for the quantum's end. A pass without a lane only retires. -/
def Obligations.FifoOperations : Prop :=
  (∀ (d a : BitVec 6) (k : BitVec 5) (s : State) (sp : Span) (l : Launch) (dk : Deck) (p : Nat) (ld : Load),
     ActingIn s sp l → s.cur.lane = false → sp.acquiring = none → sp.pend = .none →
     deckOf s sp.deck = some dk → physBank dk k.toNat = some p →
     (bankOf (coreOf s sp.core) p).mode = .fifo → (bankOf (coreOf s sp.core) p).switch = [] →
     ld = { mkLoad s.cur.uid (.s d.toNat) 4 false [⟨0, 0, none⟩, ⟨1, 0, none⟩] 1 with
       fifo := some p, late := l.det, quantum := dk.quanta, point := sp.spc } →
     (l.det = false → ScalarsReady sp [a.toNat] → (bankOf (coreOf s sp.core) p).ring.length + 2 ≤ fifoRoom →
       exec (.push a k) s = .next (putSpan (putBank s sp.core p { bankOf (coreOf s sp.core) p with
         ring := (bankOf (coreOf s sp.core) p).ring ++
           [(sRead sp a.toNat).extractLsb' 0 32, (sRead sp a.toNat).extractLsb' 32 32] }) s.cur.uid (advance sp))) ∧
     (l.det = true → ScalarsReady sp [a.toNat] → sp.buffer.length < 512 →
       exec (.push a k) s = .next (putSpan s s.cur.uid (advance { sp with buffer := sp.buffer ++ [(sp.spc,
         .fifo k.toNat [(sRead sp a.toNat).extractLsb' 0 32, (sRead sp a.toNat).extractLsb' 32 32])] }))) ∧
     (ScalarsReady sp [d.toNat] →
       (l.det = false → firstPop s sp.core p = none → 2 ≤ (bankOf (coreOf s sp.core) p).ring.length →
         exec (.pop d k) s = .next (putSpan (takeWords (newLoad s ld).1 sp.core p s.nextId ld (bankOf (coreOf s sp.core) p).ring)
           s.cur.uid (advance (sMarkEmpty sp d.toNat)))) ∧
       (l.det = true ∨ firstPop s sp.core p ≠ none ∨ (bankOf (coreOf s sp.core) p).ring.length < 2 →
         exec (.pop d k) s = .next (putSpan (newLoad s ld).1 s.cur.uid (advance (sMarkEmpty sp d.toNat)))))) ∧
  (∀ (x : LFields) (s : State) (sp : Span) (l : Launch) (dk : Deck) (p : Nat) (ld : Load),
     s.cur.lane = true → sp.acquiring = none → sp.pend = .none →
     deckOf s sp.deck = some dk → physBank dk (x.p2.extractLsb' 0 5).toNat = some p →
     (bankOf (coreOf s sp.core) p).mode = .fifo → (bankOf (coreOf s sp.core) p).switch = [] →
     ld = { mkLoad s.cur.uid (.v x.vd.toNat false) 4 false ((passLanes s).map (fun k => ⟨k, 0, none⟩)) 1 with
       fifo := some p, late := l.det, quantum := dk.quanta, point := reportPoint sp true } →
     (PassReady s sp l [.v [x.va.toNat] (feA x)] [] none →
       (s.cur.mask = 0 → exec (.vpush x) s = .next (passRetired s sp)) ∧
       (s.cur.mask ≠ 0 → l.det = false → (bankOf (coreOf s sp.core) p).ring.length + (passLanes s).length ≤ fifoRoom →
         exec (.vpush x) s = .next (passRetired (putBank s sp.core p { bankOf (coreOf s sp.core) p with
           ring := (bankOf (coreOf s sp.core) p).ring ++ (passLanes s).map (vRead sp x.va.toNat) }) sp)) ∧
       (s.cur.mask ≠ 0 → l.det = true → sp.buffer.length < 512 →
         exec (.vpush x) s = .next (passRetired s
           (buffered s sp (.fifo (x.p2.extractLsb' 0 5).toNat ((passLanes s).map (vRead sp x.va.toNat))))))) ∧
     (PassReady s sp l [] [x.vd.toNat] none →
       (s.cur.mask = 0 → exec (.vpop x) s = .next (passRetired s sp)) ∧
       (s.cur.mask ≠ 0 → l.det = false → firstPop s sp.core p = none →
         (passLanes s).length ≤ (bankOf (coreOf s sp.core) p).ring.length →
         exec (.vpop x) s = .next (putSpan (takeWords (newLoad s ld).1 sp.core p s.nextId ld (bankOf (coreOf s sp.core) p).ring)
           s.cur.uid (advancePass (vMarkEmpty sp x.vd.toNat)))) ∧
       (s.cur.mask ≠ 0 → l.det = true ∨ firstPop s sp.core p ≠ none ∨
           (bankOf (coreOf s sp.core) p).ring.length < (passLanes s).length →
         exec (.vpop x) s = .next (putSpan (newLoad s ld).1 s.cur.uid (advancePass (vMarkEmpty sp x.vd.toNat))))))

/-- R132, R35, R256: `sexit` drops the lanes at every registered barrier, after older stores are performed, clears `live` and `am` and
retires the span; without registrations it retires at once, and in a deterministic launch the drop is an entry of the commit buffer
(R304). A barrier in memory is dropped at after the core's bytes of its line have left (the model's choice, log 60).
R111, R35, R256: `vexit` drops the pass's lanes at the span's registered barriers, after older stores are performed, and removes them
from `live` and `am`; the span retires when no lane is left. In a deterministic launch the drop is an entry of the commit buffer
(R304). A barrier in memory is dropped at after the core's bytes of its line have left (the model's choice, log 60). -/
def Obligations.SpanAndLaneExit : Prop :=
  (∀ (s : State) (sp : Span) (l : Launch), ActingIn s sp l → sp.badTable = false →
     (l.det = true → sp.buffer.length < 512 →
       exec .sexit s = .next (retireSpan (putSpan s s.cur.uid { countUnit sp with
         buffer := sp.buffer ++ [(reportPoint sp s.cur.lane, .drop sp.live)], live := 0, am := 0 }) s.cur.uid)) ∧
     (l.det = false → sp.regs = [] →
       exec .sexit s = .next (retireSpan (putSpan s s.cur.uid { countUnit sp with live := 0, am := 0 }) s.cur.uid)) ∧
     (l.det = false → sp.regs ≠ [] → ArriveDone s sp (tableScope s sp) (exitLines s sp).length →
       ∀ s1 : State, s1 = (exitLines s sp).foldl (fun t x => writeBack t sp.core x) s →
       (∀ x ∈ exitLines s sp, storeInFlight s1 sp.core x = false ∧ unread s1 s1.cur.uid (fun y => y == x) = [] ∧
         atomicsOn s1 s1.cur.uid x = false) →
       ∃ sp', spanOf (dropLanes s1 s1.cur.uid sp.live) s1.cur.uid = some sp' ∧
         exec .sexit s = .next (retireSpan (putSpan (dropLanes s1 s1.cur.uid sp.live) s1.cur.uid
           { countUnit ((exitLines s sp).foldl (raiseFloor (dropLanes s1 s1.cur.uid sp.live)) sp') with live := 0, am := 0 })
           s1.cur.uid))) ∧
  (∀ (s : State) (sp : Span) (l : Launch), PassReady s sp l [] [] none → sp.badTable = false →
     let left := fun (x : Span) => { advancePass x with live := x.live &&& ~~~ s.cur.mask, am := x.am &&& ~~~ s.cur.mask }
     let done := fun (t : State) (x : Span) =>
       let t := putSpan t s.cur.uid (left x)
       if x.live &&& ~~~ s.cur.mask = 0 then retireSpan t s.cur.uid else t
     (s.cur.mask = 0 → exec .vexit s = .next (passRetired s sp)) ∧
     (s.cur.mask ≠ 0 → l.det = true → sp.buffer.length < 512 →
       exec .vexit s = .next (done s (buffered s sp (.drop s.cur.mask)))) ∧
     (s.cur.mask ≠ 0 → l.det = false → sp.regs = [] → exec .vexit s = .next (done s sp)) ∧
     (s.cur.mask ≠ 0 → l.det = false → sp.regs ≠ [] →
       ArriveDone s sp (tableScope s sp) (exitLines s sp).length →
       ∀ s1 : State, s1 = (exitLines s sp).foldl (fun t x => writeBack t sp.core x) s →
       (∀ x ∈ exitLines s sp, storeInFlight s1 sp.core x = false ∧ unread s1 s1.cur.uid (fun y => y == x) = [] ∧
         atomicsOn s1 s1.cur.uid x = false) →
       ∃ sp', spanOf (dropLanes s1 s1.cur.uid s.cur.mask) s1.cur.uid = some sp' ∧
         exec .vexit s = .next (done (dropLanes s1 s1.cur.uid s.cur.mask)
           ((exitLines s sp).foldl (raiseFloor (dropLanes s1 s1.cur.uid s.cur.mask)) sp'))))

/-- R103, R108, R125: a scalar load or store of any form that is not aligned to its width traps MISALIGNED with its address, before its
page is looked at; the quad barrier window traps BARRIER_ERROR for a store, a consuming load and a counted fill.
R171: an engine, slot, marker or collective command, a `cpush` or an `rsend`, whose active lanes are not all the live ones, traps
PARTIAL_MASK before any other check.
R45, R56, R94, R96, R112: a pass of a lane operation whose register is beyond `.vregs` traps ILLEGAL; the first pass of a position
with an empty source whose fe bit is set traps EMPTY_READ. A conversion, pack or unpack whose format slot does not suit it, a stochastic one
that names no stream, and a plane instruction in a planed block trap ILLEGAL.
R103, R108, R147: a ready pass of a lane load, store or atomic traps by the first cause that R108 lists among its lanes' accesses, with
the mask of the lanes that have it and the lowest one's address: MISALIGNED before any page is looked at, another cause when no translation
is waited for. -/
def Obligations.WhereAccessesTrap : Prop :=
  (∀ (d a b : BitVec 6) (imm : BitVec 14) (w : BitVec 2) (e : BitVec 1) (s : State) (sp : Span) (l : Launch),
     ActingIn s sp l → s.cur.lane = false → ScalarsReady sp [a.toNat, b.toNat, d.toNat] → sp.acquiring = none → sp.pend = .none →
     ∀ p ∈ scalarLoads sp d a b imm w e ++ scalarStores sp d a b imm w ++
         (.ldCons d a b w e, ⟨.cons, 0, 2 ^ w.toNat, e == 1#1, (sRead sp a.toNat + sRead sp b.toNat).toNat⟩) ::
         (if (sRead sp b.toNat).toNat % 256 = 0 then [] else
           [(.ldReaders d a b w e, ⟨.readers, (sRead sp b.toNat).toNat % 256, 2 ^ w.toNat, e == 1#1, (sRead sp a.toNat).toNat⟩)]),
       (inQuad p.2.addr = false → p.2.addr % p.2.width ≠ 0 →
         exec p.1 s = takeTrap s sp l ⟨causeMisaligned, false, 1, p.2.addr⟩) ∧
       (inQuad p.2.addr = true → p.2.kind ≠ .plain → p.2.kind ≠ .unc →
         exec p.1 s = takeTrap s sp l ⟨causeBarrier, false, 1, p.2.addr⟩)) ∧
  (∀ (n q : BitVec 2) (k pr : BitVec 3) (a b c d m : BitVec 6) (z p r : BitVec 1) (ta tb : BitVec 4) (rd : BitVec 8) (s : State) (sp : Span)
     (l : Launch), ActingIn s sp l → sp.am ≠ sp.live →
     (∀ i ∈ [Instr.tclaim ta rd, .trel ta, .qfence m], exec i s = takeTrap s sp l ⟨causePartial, false, sp.am, 0⟩) ∧
     (ScalarsReady sp [a.toNat] → ∀ i ∈ [Instr.mma n k a z p ta r tb, .mmaVia n k a z p ta r tb q, .rsend a rd],
       exec i s = takeTrap s sp l ⟨causePartial, false, sp.am, 0⟩) ∧
     (ScalarsReady sp [a.toNat, d.toNat] → exec (.cpush d a pr) s = takeTrap s sp l ⟨causePartial, false, sp.am, 0⟩) ∧
     (ScalarsReady sp [a.toNat, c.toNat] → ∀ i ∈ [Instr.collRs a ta c, .collAg a ta c, .collAr a ta c, .collBc a ta c],
       exec i s = takeTrap s sp l ⟨causePartial, false, sp.am, 0⟩) ∧
     (ScalarsReady sp [a.toNat, b.toNat, c.toNat, c.toNat + 1, c.toNat + 2, c.toNat + 3] →
       ∀ i ∈ [Instr.copy n a b c q, .copySlot n a b c q, .copyReaders n a b c q],
         exec i s = takeTrap s sp l ⟨causePartial, false, sp.am, 0⟩) ∧
     (ScalarsReady sp [a.toNat, b.toNat, b.toNat + 1, c.toNat] →
       exec (.acst n k a b c) s = takeTrap s sp l ⟨causePartial, false, sp.am, 0⟩)) ∧
  (∀ (x : LFields) (s : State) (sp : Span) (l : Launch), ActingIn s sp l → s.cur.test = none →
     let f := fslotOf l x.fs.toNat
     let illegal := takeTrap s sp l ⟨causeIllegal, true, s.cur.mask, 0⟩
     (∀ p ∈ passForms x s l,
       ((∃ r ∈ p.2.2 ++ p.2.1.flatMap sourceRegs, l.vregs ≤ r) → exec p.1 s = illegal) ∧
       ((∀ r ∈ p.2.2 ++ p.2.1.flatMap sourceRegs, r < l.vregs) → laterPass sp = false →
         (∃ y ∈ p.2.1, sourceReady sp y = false ∧ sourceFe y = true) →
         exec p.1 s = takeTrap s sp l ⟨causeEmpty, true, s.cur.mask, 0⟩)) ∧
     (∀ p ∈ conversionOps x f, p.2.suits = false ∨ (stochastic (effRm x.rm.toNat f) = true ∧ x.bcls ≠ 1) → exec p.1 s = illegal) ∧
     (∀ p ∈ packOps x f, p.2.1 = false ∨ (stochastic (effRm x.rm.toNat f) = true ∧ x.bcls ≠ 1) → exec p.1 s = illegal) ∧
     (fsB f ≠ 10 ∨ fsScale f ≠ 1 ∨ fsBlk f ≠ 5 → exec (.vmxunpk x) s = illegal ∧ exec (.vf4unpk x) s = illegal) ∧
     (fsA f ≠ 12 → fsA f ≠ 13 → exec (.vmxunpk x) s = illegal) ∧ (fsA f ≠ 14 → exec (.vf4unpk x) s = illegal)) ∧
  (∀ (x : LFields) (s : State) (sp : Span) (l : Launch) (srcs : List Source) (dst : List Nat), s.cur.lane = true →
     PassReady s sp l srcs dst none → sp.acquiring = none → sp.pend = .none →
     ∀ p ∈ laneAccesses x s sp, (p.1, srcs, dst) ∈ passForms x s l →
       let r := checkAccs s sp l p.2.1 p.2.2.1 p.2.2.2
       let off := p.2.2.2.filter (fun a => !inQuad a.2 && a.2 % p.2.2.1 != 0)
       (off ≠ [] → exec p.1 s = takeTrap r.1 sp l ⟨causeMisaligned, true, maskOf 32 (off.map Prod.fst), (off.map Prod.snd).headD 0⟩) ∧
       (off = [] → (∀ y ∈ r.2, y.2 ≠ .wait) → ∀ c m, firstCause r.2 = some (c, m) →
         exec p.1 s = takeTrap r.1 sp l ⟨c, true, maskOf 32 (m.map Prod.fst), (m.map Prod.snd).headD 0⟩))

/-! ### Trelix (R362 to R380) -/

namespace Sys2Proof.Machine

/-- Fabric processor k acts, with registers f and the fields t of its word. -/
def TrelixAt (s : State) (k : Nat) (f : Fp) (t : TFields) : Prop :=
  s.cur.fp = some k ∧ fpOf s k = f ∧ tFieldsOf (s.cur.word.setWidth 32) = t

/-- The package after processor k went on at pc. -/
def fpAfter (s : State) (k : Nat) (f : Fp) (pc : Nat) : State :=
  dropFails (putFp s k { f with pc := pc % vaTop, wait := .none, busy := false }) (.fp (k / 4) (k % 4))

/-- The package after an engine instruction reported in xd (R370). -/
def fpReported (s : State) (k : Nat) (f : Fp) (xd : BitVec 5) (status value : Nat) : State :=
  fpAfter s k (xWrite f xd (BitVec.ofNat 64 (status + value % 2 ^ 32 * 2 ^ 32))) (f.pc + 4)

/-- The register instructions of R367. -/
def trelixRegisterOps : List (Instr × (Word64 → Word64 → Word64)) :=
  [(.trelixAdd, fun a b => a + b), (.trelixSub, fun a b => a - b), (.trelixMul, fun a b => a * b), (.trelixAnd, fun a b => a &&& b),
   (.trelixOr, fun a b => a ||| b), (.trelixXor, fun a b => a ^^^ b), (.trelixSll, fun a b => a <<< (b.toNat % 64)),
   (.trelixSrl, fun a b => a >>> (b.toNat % 64)), (.trelixSra, fun a b => a.sshiftRight (b.toNat % 64)),
   (.trelixSlt, fun a b => if a.slt b then 1 else 0), (.trelixSltn, fun a b => if a.ult b then 1 else 0),
   (.trelixSeq, fun a b => if a == b then 1 else 0)]

/-- The values of fn of the register instructions, in that order (R367). -/
def trelixCodes : List (BitVec 11) := [0x001, 0x002, 0x003, 0x010, 0x011, 0x012, 0x018, 0x019, 0x01A, 0x020, 0x021, 0x022]

/-- An engine instruction's descriptor of n bytes, aligned and readable, and the package once it is read (R370). -/
def DescAt (s s1 : State) (k : Nat) (f : Fp) (t : TFields) (n : Nat) (d : List Byte) : Prop :=
  (xRead f t.a).toNat % 32 = 0 ∧ fpRead s k f (xRead f t.a).toNat n = .ok s1 d false

/-- A home descriptor at xa that can be read and written (R373). -/
def HomeAt (s s1 : State) (k : Nat) (f : Fp) (t : TFields) (b : List Byte) : Prop :=
  DescAt s s1 k f t 1024 b ∧ fpWaits s1 k f [((xRead f t.a).toNat, 1024, 1)] = none ∧
  ∃ pa pb x y, fpXlate s1 k f (xRead f t.a).toNat 1 = .ok pa x ∧ fpXlate s1 k f ((xRead f t.a).toNat + 1023) 1 = .ok pb y ∧
    isHbm pa = true ∧ isHbm pb = true

/-- A global barrier that is valid, at xa, with an open way to it (R308, R372). -/
def BarrierAt (s : State) (k : Nat) (f : Fp) (t : TFields) (kind pa : Nat) : Prop :=
  (xRead f t.a).toNat % 32 = 0 ∧ inLocal (xRead f t.a).toNat = false ∧ inQuad (xRead f t.a).toNat = false ∧
  fpXlate s k f (xRead f t.a).toNat kind = .ok pa true ∧ isHbm pa = true ∧ routeWaits s (k / 4) (dieOfPa pa) = false ∧
  (readBar s (.mem pa)).valid = true

/-- A residual object that the processor reaches, for the tiles of some keys, which `rd` reads (R358). -/
def ResidReady (s s' : State) (k : Nat) (f : Fp) (obj root : Nat) (ks : List (Nat × Nat × Nat)) (rd : Bool) (o : ResObj) : Prop :=
  obj % 4096 = 0 ∧ keyRoot s f.key = some root ∧ residAt s (k / 4) root f.key (.fp (k / 4) (k % 4)) obj ks rd = .ok s' o

/-- One tile of `dec` (R352). -/
def decStep (k : Nat) (f : Fp) (c : GCode) (src dst : Nat) (s : State) (j : Nat) : TileStep :=
  tileRead s k f (src + tileBytes c * j) (tileBytes c) fun s b =>
    tileWrite s k f (dst + 16384 * j) (bytesOfF32s (decodeTile c b 128).1) fun s => .ok s (decodeTile c b 128).2

/-- One tile of `enc`: the element plus its residual is encoded, and what the code could not express is the new residual (R352, R357). -/
def encStep (k : Nat) (f : Fp) (c : GCode) (src dst obj root : Nat) (key : Nat → Nat × Nat × Nat) (s : State) (j : Nat) : TileStep :=
  tileRead s k f (src + 16384 * j) 16384 fun s b =>
    match s.fab.resid.find? (fun o => o.root == root && o.va == obj) with
    | none => .fault s
    | some o =>
      let r := residTile s o (key j)
      let e := encodeTile c (addTiles (f32sOf b 4096) r.2)
      tileWrite r.1 k f (dst + tileBytes c * j) e.1 fun s =>
        .ok (countNans (putResid s (residPut o (key j) e.2.1)) (k / 4) f.key (key j).1 obj e.2.2) 0

/-- The sum of the destination tile and of the same tile of each source, in their order (R371). -/
def sumTiles (s : State) (k : Nat) (f : Fp) (srcs : List Nat) (i : Nat) (dst : List Nat) : Option (List Nat) :=
  srcs.foldl (fun r a => match r, fpRead s k f (a + 16384 * i) 16384 with
    | some acc, .ok _ b false => some (addTiles acc (f32sOf b 4096))
    | _, _ => none) (some dst)

/-- The destination tiles of `sadd`, one after another; none where one cannot be read or written. -/
def saddRun (k : Nat) (f : Fp) (dst : Nat) (srcs : List Nat) (m : Nat) (s : State) : Option State :=
  (List.range m).foldl (fun r i => r.bind (fun s => match fpRead s k f (dst + 16384 * i) 16384 with
    | .ok s b false => (sumTiles s k f srcs i (f32sOf b 4096)).bind (fun v => match fpWrite s k f (dst + 16384 * i) (bytesOfF32s v) with
      | .ok s => some s
      | _ => none)
    | _ => none)) (some s)

end Sys2Proof.Machine

/-- R362, R367, R368: xd := xa op xb for every register instruction, and the two immediate forms; x0 reads zero and discards writes; the pc goes
on by 4, and nothing else of the package changes.
R369: the branches compare the registers of [25:21] and [20:16] and go to their own address plus 4·imm where the condition holds; `jal` links and
jumps; `jr` goes to an aligned address in xa; `halt` ends the program with its code: the processor stops fetching and will write its record. -/
def Obligations.TrelixIntegerAndControl : Prop :=
  (∀ (s : State) (k : Nat) (f : Fp) (t : TFields), TrelixAt s k f t →
     (∀ p ∈ trelixRegisterOps,
       exec p.1 s = .next (fpAfter s k (xWrite f t.x (p.2 (xRead f t.a) (xRead f t.b))) (f.pc + 4))) ∧
     exec .trelixAddi s = .next (fpAfter s k (xWrite f t.x (xRead f t.a + (tfImm16 t).signExtend 64)) (f.pc + 4)) ∧
     exec .trelixSlin s = .next (fpAfter s k (xWrite f t.x ((xRead f t.a <<< 16) ||| (tfImm16 t).zeroExtend 64)) (f.pc + 4)) ∧
     xRead f 0 = 0 ∧ (∀ v, xWrite f 0 v = f) ∧
     (∀ (x a b : BitVec 5), ∀ p ∈ (trelixRegisterOps.map Prod.fst).zip trelixCodes, decodeT (0x00#6 ++ x ++ a ++ b ++ p.2) = p.1)) ∧
  (∀ (s : State) (k : Nat) (f : Fp) (t : TFields), TrelixAt s k f t →
     (∀ p ∈ [(Instr.trelixBeq, fun (a b : Word64) => a == b), (.trelixBne, fun a b => a != b), (.trelixBlt, fun a b => a.slt b),
         (.trelixBltn, fun a b => a.ult b)],
       exec p.1 s = .next (fpAfter s k f (if p.2 (xRead f t.x) (xRead f t.a)
         then ((f.pc : Int) + 4 * (tfImm16 t).toInt + 2 ^ 64).toNat else f.pc + 4))) ∧
     exec .trelixJal s = .next (fpAfter s k (xWrite f t.x (BitVec.ofNat 64 (f.pc + 4)))
       ((f.pc : Int) + 4 * (tfImm21 t).toInt + 2 ^ 64).toNat) ∧
     ((xRead f t.a).toNat % 4 = 0 → exec .trelixJr s = .next (fpAfter s k f (xRead f t.a).toNat)) ∧
     (∃ u, exec .trelixHalt s = .next u ∧ fpOf u k = { f with halting := some (0, 0, (tfImm16 t).toNat), wait := .none, busy := false } ∧ u.mem = s.mem))

/-- R364, R368: `ld` and `st` of an aligned, mapped doubleword to whose home nothing is on its way read and write 8 bytes at the home (a read
uses its line, R228); a misaligned address traps MISALIGNED: the processor halts with reason 1 and the instruction has no effect on memory
or registers.
R371, R382: a `send` whose packets are all acknowledged reports OK; a `recv` whose chunk is all there, with the right length, writes it and reports OK, and the
chunk leaves the staging memory. -/
def Obligations.TrelixMemoryAndMessages : Prop :=
  (∀ (s s' : State) (k : Nat) (f : Fp) (t : TFields) (pa : Nat) (bar : Bool), TrelixAt s k f t →
     let a := (xRead f t.a + (tfImm16 t).signExtend 64).toNat
     (a % 8 = 0 → fpXlate s k f a 0 = .ok pa bar → dieWaits s (k / 4) a (pa / 128) = false → badLine s (pa / 128) = false →
       exec .trelixLd s = .next (fpAfter (homeTouch s (pa / 128)) k (xWrite f t.x (BitVec.ofNat 64 (homeRead s pa 8))) (f.pc + 4))) ∧
     (a % 8 = 0 → fpXlate s k f a 1 = .ok pa bar →
       fabPut s (k / 4) (whoWriter s (k / 4) (.fp (k / 4) (k % 4)) a) 0 0 pa bar (natToBytes 8 (xRead f t.x).toNat) = .ok s' →
       exec .trelixSt s = .next (fpAfter s' k f (f.pc + 4))) ∧
     (a % 8 ≠ 0 → ∃ u, exec .trelixLd s = .next u ∧ exec .trelixSt s = .next u ∧ u.mem = s.mem ∧ u.lines = s.lines ∧
       fpOf u k = { f with halting := some (1, causeMisaligned, 0), wait := .none, busy := false })) ∧
  (∀ (s s1 s' : State) (k : Nat) (f : Fp) (t : TFields) (d : List Byte) (id : Nat), TrelixAt s k f t →
     (f.wait = .send id → mapFind s.fab.sends id = none → exec .trelixSend s = .next (fpReported s k f t.x 0 0)) ∧
     (∀ r bytes, DescAt s s1 k f t 40 d → lengthOk (dWord d 2) = true → tableBad s1 (k / 4) (dWord d 0 % 2 ^ 32) = false →
       (findGroup s1 (k / 4) (dWord d 0 % 2 ^ 32)).isSome = true →
       let mine := fun (r : Raw) => r.die == k / 4 && r.handle == dWord d 0 % 2 ^ 32 && r.rank == bitsAt (dWord d 0) 32 32 && r.tag == dWord d 3
       s1.fab.raws.find? mine = some r → rawBytes r = some bytes → bytes.length = dWord d 2 → fpWrite s1 k f (dWord d 1) bytes = .ok s' →
       exec .trelixRecv s = .next (fpReported { s' with fab := { s'.fab with raws := s'.fab.raws.filter (fun r => !mine r) } } k f t.x 0 0)))

/-- R352, R356, R357, R371: `dec` of coded tiles writes each tile's 4,096 decoded elements and reports the count that its codes carry; `sadd` adds to each
destination tile the same tile of each source, element by element and in their order; `enc` writes each tile's code and keeps what it
could not express as the tile's residual. One to 1,024 tiles, whose pages and lines let the instruction begin. Which groups' counters an `enc` of NaN blocks raises (log 61), and that operands are taken modulo their fields (log 52), are the model's choice.
R358, R371: `rld` copies one residual tile out of an object, `rst` into it, `rsave` the object's image out and `rload` an image in,
once the compressions in progress in the object have ended. The object's arrangement is the model's own (log 17). -/
def Obligations.TrelixTilesAndResiduals : Prop :=
  (∀ (s s1 s' : State) (k : Nat) (f : Fp) (t : TFields) (d : List Byte), TrelixAt s k f t →
     (∀ n v, DescAt s s1 k f t 40 d → (dWord d 0 = 1 ∨ dWord d 0 = 2) → bitsAt (dWord d 4) 48 16 = n → 0 < n → n ≤ 1024 →
       fpWaits s1 k f [(dWord d 1, tileBytes (codeOfField (dWord d 0)) * n, 0), (dWord d 2, 16384 * n, 1)] = none →
       tilesRun n s1 (decStep k f (codeOfField (dWord d 0)) (dWord d 1) (dWord d 2)) = .ok s' v →
       exec .trelixDec s = .next (fpReported s' k f t.x 0 v)) ∧
     (∀ n m srcs, DescAt s s1 k f t 88 d → dWord d 1 = n → 0 < n → n ≤ 8 → dWord d 10 = m → 0 < m → m ≤ 1024 →
       srcs = (List.range n).map (fun j => dWord d (2 + j)) →
       fpWaits s1 k f ((dWord d 0, 16384 * m, 1) :: srcs.map (fun a => (a, 16384 * m, 0))) = none →
       saddRun k f (dWord d 0) srcs m s1 = some s' →
       exec .trelixSadd s = .next (fpReported s' k f t.x 0 0)) ∧
     (∀ s2 o root n v, DescAt s s1 k f t 48 d → (dWord d 0 = 1 ∨ dWord d 0 = 2) → bitsAt (dWord d 4) 48 16 = n → 0 < n → n ≤ 1024 →
       let c := codeOfField (dWord d 0)
       let key := fun (j : Nat) => (dWord d 4 % 2 ^ 32, (bitsAt (dWord d 4) 32 16 + j) % 2 ^ 16, bitsAt (dWord d 5) 0 16)
       fpWaits s1 k f [(dWord d 1, 16384 * n, 0), (dWord d 2, tileBytes c * n, 1), (dWord d 3, 1, 1)] = none →
       ResidReady s1 s2 k f (dWord d 3) root ((List.range n).map key) true o →
       tilesRun n s2 (encStep k f c (dWord d 1) (dWord d 2) (dWord d 3) root key) = .ok s' v →
       exec .trelixEnc s = .next (fpReported s' k f t.x 0 0))) ∧
  (∀ (s s1 s2 s3 s4 s' : State) (k : Nat) (f : Fp) (t : TFields) (d src : List Byte) (root : Nat) (o : ResObj), TrelixAt s k f t →
     (∀ key, DescAt s s1 k f t 24 d → residOfWord (dWord d 1) = key →
       (ResidReady s1 s2 k f (dWord d 0) root [key] true o →
         fpWrite (residTile s2 o key).1 k f (dWord d 2) (bytesOfF32s (residTile s2 o key).2) = .ok s' →
         exec .trelixRld s = .next (fpReported s' k f t.x 0 0)) ∧
       (ResidReady s1 s2 k f (dWord d 0) root [key] false o → fpRead s2 k f (dWord d 2) 16384 = .ok s3 src false →
         exec .trelixRst s = .next (fpReported (putResid s3 (residPut o key (f32sOf src 4096))) k f t.x 0 0))) ∧
     (∀ obj img, (xRead f t.a).toNat = obj → (xRead f t.b).toNat = img → compressesIn s root obj = false →
       (ResidReady s s1 k f obj root (residKeys s root obj) true o →
         fpWrite (residAll s1 o).1 k f img (natToBytes 8 o.tiles.length ++
             o.tiles.flatMap (fun x => natToBytes 16 (x.1.1 + x.1.2.1 * 2 ^ 32 + x.1.2.2 * 2 ^ 48)) ++
             (residAll s1 o).2.flatMap bytesOfF32s) = .ok s' →
         exec .trelixRsave s = .next (fpReported s' k f t.x 0 0)) ∧
       (∀ nb b n o', ResidReady s s1 k f obj root (residKeys s root obj) false o → fpRead s1 k f img 8 = .ok s2 nb false →
         bytesToNat nb = n → n ≤ 2 ^ 26 → fpRead s2 k f (img + 8) (16400 * n) = .ok s3 b false →
         let key := fun (i : Nat) => residOfWord (bytesToNat ((b.drop (16 * i)).take 8))
         ResidReady s3 s4 k f obj root ((List.range n).map key) false o' →
         exec .trelixRload s = .next (fpReported (putResid s4 { o' with open_ := false, bad := [], tiles := (List.range n).map (fun i =>
           (key i, some ((f32sOf (b.drop (16 * n + 16384 * i)) 4096).map (BitVec.ofNat 32)))) }) k f t.x 0 0))))

/-- R343, R359, R360, R361, R372, R386: `gnew` writes a valid template into the lowest free entry of its die's table; `gret` of a group whose drain has ended reports how
it ended; `gwatch` adds a package to an object's remote waiters, keeps one that is there, and with all ones clears them.
R191, R193, R372: `bwait` on a phase that has an end reports its status and acts as an acquire, `barr` arrives with xb lanes, `bland` lands xb bytes. -/
def Obligations.TrelixGroupsAndBarriers : Prop :=
  (∀ (s s1 s2 : State) (k : Nat) (f : Fp) (t : TFields) (d : List Byte) (i id pa : Nat) (x : Drain), TrelixAt s k f t →
     (DescAt s s1 k f t 128 d →
       let g := groupOfWords 0 (dWord d)
       let base := groupTable s1 (k / 4)
       (List.range 1024).find? (fun i => !bitAt (homeRead s1 (base + 128 * i) 8) 63 || bitsAt (homeRead s1 (base + 128 * i) 8) 61 2 == 2) =
         some i →
       base ≠ 0 → tableBad s1 (k / 4) g.handle = false → findGroup s1 (k / 4) g.handle = none → templateBad (dWord d) g = false →
       ∀ mb, fpRead s1 k f g.members (4 * g.size) = .ok s2 mb false →
       (∀ j, j < g.size → bitsAt (bytesToNat ((mb.drop (4 * j)).take 4)) 15 17 = 0) →
       exec .trelixGnew s = .next (fpReported (homeWrite { s2 with fab := { s2.fab with
           opens := s2.fab.opens.filter (fun y => y != base + 128 * i) } } (base + 128 * i) (((List.range 16).map (fun j =>
         if j = 0 then dWord d 0 % 2 ^ 61 + 2 ^ 63 else if 8 ≤ j ∧ j < 11 then 0 else dWord d j)).flatMap (natToBytes 8))) k f t.x 0 0)) ∧
     (f.wait = .drain id → mapFind s.fab.drains id = some x → (x.st = 1 ∨ x.st = 2) →
       exec .trelixGret s = .next (fpReported { s with fab := { s.fab with drains := mapDel s.fab.drains id } } k f t.x
         (if x.st = 1 then 0 else 4) 0)) ∧
     (let a := (xRead f t.a).toNat
      let l := mapGet [] s.fab.watch pa
      let p := (xRead f t.b).toNat % 2 ^ 11
      let w := whoWriter s (k / 4) (.fp (k / 4) (k % 4)) a
      let put := fun (l : List Nat) => { s with fab := { s.fab with watch := mapSet [] s.fab.watch pa l } }
      a % 16 = 0 → fpXlate s k f a 1 = .ok pa false → isHbm pa = true → dieOfPa pa = k / 4 → (homeOf s (pa / 128)).counted = false →
       dieWaits s (k / 4) a (pa / 128) = false →
       (xRead f t.b ≠ BitVec.allOnes 64 → l.contains p = false → l.length < 64 →
         exec .trelixGwatch s = .next (fpReported (setWaiter (put (l ++ [p])) w pa 1 true) k f t.x 0 0)) ∧
       (xRead f t.b ≠ BitVec.allOnes 64 → l.contains p = true →
         exec .trelixGwatch s = .next (fpReported (setWaiter s w pa 1 true) k f t.x 0 0)) ∧
       (xRead f t.b = BitVec.allOnes 64 →
         exec .trelixGwatch s = .next (fpReported (setWaiter (put []) w pa 1 false) k f t.x 0 0)))) ∧
  (∀ (s : State) (k : Nat) (f : Fp) (t : TFields) (pa st : Nat), TrelixAt s k f t →
     (BarrierAt s k f t 0 pa → waitEnds (readBar s (.mem pa)) ((xRead f t.b).toNat % 2 ^ 32) st →
       exec .trelixBwait s = .next (fpReported (if st = 0 ∨ st = 4 ∨ st = 5 then
         learn s (fpAgent k) (mapGet ([], []) s.ord.bars (barKey (.mem pa))).2 else s) k f t.x st 0)) ∧
     (BarrierAt s k f t 1 pa → (xRead f t.b).toNat ≠ 0 → (xRead f t.b).toNat < 2 ^ 24 →
       exec .trelixBarr s = .next (fpReported (writeBar (coverPhase (publish s (fpAgent k)).1 (barKey (.mem pa)) (publish s (fpAgent k)).2) (.mem pa) (barArrive (readBar s (.mem pa)) (xRead f t.b).toNat)) k f t.x 0 0)) ∧
     (BarrierAt s k f t 1 pa → (xRead f t.b).toNat < 2 ^ 40 →
       exec .trelixBland s = .next (fpReported (writeBar (coverPhase (publish s (fpAgent k)).1 (barKey (.mem pa)) (publish s (fpAgent k)).2) (.mem pa) (barLand (readBar s (.mem pa)) (xRead f t.b).toNat false)) k f t.x 0 0)))

/-- R373 to R380: the home instructions on a home in the state that each needs. `hopen` of the next step copies the parameters and opens it, `hclose` with every block received makes it ready
and its count of missing blocks 0,
`hcommit` of the ready step commits it, `habort` of the open one leaves it idle, each by the named words of the descriptor; `wfetch` reports what the home answered.
R375 to R377: `upd` of the oldest inbox tile of the open step, for a block not yet received: the new image and the encoded block are written with the rule's result for each element,
the tile leaves the inbox, and the block's received bit is set; the status is OK and the value is the block. -/
def Obligations.TrelixHomeSteps : Prop :=
  (∀ (s s1 s2 : State) (k : Nat) (f : Fp) (t : TFields) (b ps : List Byte) (id w : Nat) (y : WFetch), TrelixAt s k f t →
     (HomeAt s s1 k f t b →
       let h := homeOfBytes b
       let a := (xRead f t.a).toNat
       let x := (xRead f t.b).toNat % 2 ^ 32
       (h.state = 0 → h.valid = true → h.rule ≤ 1 → homeSlotOk h.slot = true → h.nb ≠ 0 → h.nb ≤ 4096 → x = (h.c + 1) % 2 ^ 32 →
         fpRead s1 k f h.params 36 = .ok s2 ps false →
         ∃ u, exec .trelixHopen s = .next u ∧ Host.Outcome.next u = homeDone { s2 with fab := { s2.fab with
             params := mapPut s2.fab.params (homePa s2 k f a) ((f32sOf ps 9).map (BitVec.ofNat 32)) } } k f t.x a
           [(0, homeWord0 (dWord b 0) 1 h.c), (8, dWord b 1 - h.step + x),
            (0x78, dWord b 15 - (if bitAt h.held (x % 3) then 2 ^ (32 + x % 3) else 0))] (some 0) 0 0) ∧
       ((h.state = 1 ∨ h.state = 2) → x = h.step → (∀ i, i < h.nb → bitAt h.received i = true) →
         ∃ u, exec .trelixHclose s = .next u ∧
           Host.Outcome.next u = homeDone s1 k f t.x a [(0, homeWord0 (dWord b 0) 2 h.c), (0x68, 0)] none 0 0) ∧
       (h.state = 2 → x = h.step →
         let i := x % 3
         let w14 := dWord b 14
         let w15 := dWord b 15 + (if bitAt h.held i then 0 else 2 ^ (32 + i))
         ∃ u, exec .trelixHcommit s = .next u ∧ Host.Outcome.next u = homeDone s1 k f t.x a
           [(0, homeWord0 (dWord b 0) 0 x),
            (0x70, if i = 0 then w14 / 2 ^ 32 * 2 ^ 32 + x else if i = 1 then w14 % 2 ^ 32 + x * 2 ^ 32 else w14),
            (0x78, if i = 2 then w15 / 2 ^ 32 * 2 ^ 32 + x else w15)] none 0 0) ∧
       ((h.state = 1 ∨ h.state = 2) → x = h.step →
         ∃ u, exec .trelixHabort s = .next u ∧
           Host.Outcome.next u = homeDone s1 k f t.x a [(0, homeWord0 (dWord b 0) 0 h.c)] (some 0) 0 0) ∧
       (h.state = 0 → exec .trelixHabort s = .next (fpReported s1 k f t.x 0 0))) ∧
     (f.wait = .fetch id → mapFind s.fab.fetches id = some y → y.answered = some w →
       exec .trelixWfetch s = .next (fpAfter { s with fab := { s.fab with fetches := mapDel s.fab.fetches id } } k
         (xWrite f t.x (BitVec.ofNat 64 w)) (f.pc + 4)))) ∧
  (∀ (s s1 s2 s' : State) (k : Nat) (f : Fp) (t : TFields) (b bytes : List Byte) (blk tag : Nat) (tile : List Word32)
     (rest : List (Nat × Nat × List Word32)), TrelixAt s k f t → HomeAt s s1 k f t b →
     let h := homeOfBytes b
     let old := h.images.getD (h.c % 2) 0 + 49152 * blk
     let new := h.images.getD ((h.c + 1) % 2) 0 + 49152 * blk
     let buf := h.buffers.getD (h.step % 3) 0 + 16384 * blk
     let pars := (mapGet [] s2.fab.params (homePa s2 k f (xRead f t.a).toNat)).map BitVec.toNat
     let word := fun (o i : Nat) => bytesToNat ((bytes.drop (16384 * o + 4 * i)).take 4)
     let rs := tile.zipIdx.map (fun x => homeRule h.rule pars x.1.toNat (word 0 x.2) (word 1 x.2) (word 2 x.2))
     (h.state = 1 ∨ h.state = 2) → mapGet [] s1.fab.inbox (inboxKey h.handle (k / 4)) = (blk, tag, tile) :: rest →
     tag = h.step % 2 ^ 16 → blk < 4096 → blk < h.nb → bitAt h.received blk = false →
     fpWaits s1 k f [(old, 49152, 0), (new, if h.rule = 0 then 32768 else 49152, 1), (buf, weightBytes h.slot, 1)] = none →
     fpRead s1 k f old 49152 = .ok s2 bytes false →
     writesRun s2 k f ([(new, bytesOfF32s (rs.map (fun r => r.1))), (new + 16384, bytesOfF32s (rs.map (fun r => r.2.1)))] ++
       (if h.rule = 0 then [] else [(new + 32768, bytesOfF32s (rs.map (fun r => r.2.2)))]) ++
       [(buf, homeWeights h.slot h.step blk (rs.map (fun r => r.1)))]) = (s', true) →
     ∃ u, exec .trelixUpd s = .next u ∧ Host.Outcome.next u = homeDone { s' with fab := { s'.fab with
       inbox := mapSet [] s'.fab.inbox (inboxKey h.handle (k / 4)) rest } } k f t.x (xRead f t.a).toNat [] (some (h.received ||| 2 ^ blk)) 0 blk)

/-- R377: the two rules on one element, each operation rounded RNE in FP32. SGD with momentum (rule 0): g1 := g + λ·w, m := μ·m + g1, w := w − η·m. AdamW (rule 1):
m := β1·m + (1 − β1)·g, v := β2·v + (1 − β2)·g·g, and w := w − η·(m·c1 / (√(v·c2) + ε) + λ·w), with the parameters as `hopen` copied them. -/
def Obligations.OptimiserRules : Prop :=
  ∀ (p : List Nat) (g w m v : Nat),
    let add := fAdd fmtF32 .rne
    let sub := fSub fmtF32 .rne
    let mul := fMul fmtF32 .rne
    let par := fun i => p.getD i 0
    (let m1 := add (mul (par 2) m) (add g (mul (par 1) w))
     homeRule 0 p g w m v = (sub w (mul (par 0) m1), m1, v)) ∧
    (let m1 := add (mul (par 2) m) (mul (par 7) g)
     let v1 := add (mul (par 3) v) (mul (par 8) (mul g g))
     homeRule 1 p g w m v =
       (sub w (mul (par 0) (add (fDiv fmtF32 .rne (mul (par 5) m1) (add (fSqrt fmtF32 .rne (mul (par 6) v1)) (par 4)))
         (mul (par 1) w))), m1, v1))

/-! ### The homes, the quad stops and what comes back (R44, R106, R107, R110, R128, R167, R191, R193, R217 to R236, R246, R263 to R270) -/

namespace Sys2Proof.Machine

/-- The request that the event names. -/
def EventReq (s : State) (i : Nat) (r : Req) : Prop := s.cur.x.id = i ∧ mapFind s.reqs i = some r

/-- The merge entry that the event names. -/
def EventMerge (s : State) (i : Nat) (m : Merge) : Prop := s.cur.x.id = i ∧ mapFind s.merges i = some m

/-- The state in which the waiting span u acts, its word read from its code. -/
def waking (s : State) (u : Nat) (sp : Span) (l : Launch) : State :=
  let t := { s with cur := { s.cur with uid := u } }
  { t with cur := { t.cur with word := waitingWord t sp l } }

/-- The byte at `pa` after a write of `b` by `w` at virtual address `va` has been performed: the new one where the write stands last in the byte's
coherence order, else the old one (R249). -/
def leaves (s : State) (w : Option Writer) (atomic : Bool) (va pa : Nat) (b : Byte) : Byte :=
  match w with
  | none => b
  | some w => if (orderWrite s w atomic va pa).2 then b else homeByte s pa

/-- Memory after n bytes of the value x have been written at pa by w: each takes its place in its order, every other byte is as before. -/
def wroteValue (s t : State) (w : Option Writer) (atomic : Bool) (va pa n x : Nat) : Prop :=
  ∀ q, homeByte t q = if pa ≤ q ∧ q < pa + n then leaves s w atomic (va + (q - pa)) q ((natToBytes n x).getD (q - pa) 0) else homeByte s q

end Sys2Proof.Machine

/-- R44, R46, R110: a load whose data are all there fills its register, extended as the instruction says; a waiting pop takes the oldest words of its FIFO once they are
there; a stalled push appends its words once there is room, and its S-word or pass retires.
R167, R168, R219, R246: a bank's oldest switch completes once what its span had outstanding at the switch point is performed, and lands one arrival; a plain window closes 32
cycles after its fill; dirty bytes go back 4,096 cycles after the first became dirty, and their line stays in the core, clean. -/
def Obligations.FillsAndCores : Prop :=
  (∀ (s : State) (i g p : Nat) (ld : Load) (sp : Span),
     (s.cur.x.id = i → mapFind s.loads i = some ld → spanOf s ld.uid = some sp → ld.waits = 0 → (∀ x ∈ ld.lanes, x.got.isSome = true) →
       sp.pend ≠ .consume i → sp.live ≠ 0 → ld.poison = false → sp.acquiring = none →
       (∀ r v pa, ld.dest = .s r → ld.lanes = [⟨0, pa, some v⟩] →
         exec .loadFill s = .next (putSpan { s with loads := mapDel s.loads i } ld.uid
           (sFill sp r (BitVec.ofNat 64 (extendTo ld.width ld.signed v))))) ∧
       (∀ r, ld.dest = .v r false → (ld.lanes.map LaneRead.lane).Nodup → (∀ x ∈ ld.lanes, x.lane < 32) →
         (s.loads.any (fun q => q.1 != i && q.2.uid == ld.uid && (destRegs q.2.dest).contains r)) = false → r < 256 →
         ∃ sp', exec .loadFill s = .next (putSpan { s with loads := mapDel s.loads i } ld.uid sp') ∧ vFull sp' r = true ∧
           ∀ x ∈ ld.lanes, vRead sp' r x.lane = BitVec.ofNat 32 (extendTo ld.width ld.signed (x.got.getD 0)))) ∧
     (s.cur.x.core = g → s.cur.x.a = p → firstPop s g p = some (i, ld) → (bankOf (coreOf s g) p).mode = .fifo → ctxActive s ld.uid = true →
       ld.lanes.length ≤ (bankOf (coreOf s g) p).ring.length →
       ∃ t, exec .fifoPopFill s = .next t ∧
         (bankOf (coreOf t g) p).ring = (bankOf (coreOf s g) p).ring.drop ld.lanes.length ∧
         ∃ ld', mapFind t.loads i = some ld' ∧
           ld'.lanes.map LaneRead.got = ((bankOf (coreOf s g) p).ring.take ld.lanes.length).map (fun w => some w.toNat)) ∧
     (∀ u words, s.cur.x.id = u → spanOf s u = some sp → sp.pend = .push p words → (bankOf (coreOf s sp.core) p).mode = .fifo → ctxActive s u = true →
       (bankOf (coreOf s sp.core) p).switch = [] → (bankOf (coreOf s sp.core) p).ring.length + words.length ≤ fifoRoom →
       ∃ s1, s1 = { s with cur := { s.cur with uid := u, lane := !sp.queue.isEmpty } } ∧
         exec .fifoPushResume s = .next (putSpan (putBank s1 sp.core p { bankOf (coreOf s sp.core) p with
             ring := (bankOf (coreOf s sp.core) p).ring ++ words }) u
           (if sp.queue.isEmpty then advance { sp with pend := .none } else advancePass { sp with pend := .none })))) ∧
  (∀ (s : State) (g i p t0 : Nat) (r : Req) (x : L1Line) (w : Switch) (rest : List Switch),
     (s.cur.x.core = g → s.cur.x.a = p → (bankOf (coreOf s g) p).switch = w :: rest → (∀ j ∈ w.fence, isPerformed s j = true) →
       exec .bankSwitchComplete s = .next
         (landDeck (putBank s g p { bankOf (coreOf s g) p with switch := rest }) w.deck g w.bar 0 1 false w.clock)) ∧
     (EventReq s i r → r.kind = .plain → r.filled = some t0 → t0 + 32 ≤ s.cycle → exec .plainWindowExpire s = .next (delReq s i)) ∧
     (s.cur.x.core = g → l1Find (coreOf s g) s.cur.x.a = some x → x.dirty ≠ 0 → x.since + 4096 ≤ s.cycle →
       ∃ t q, exec .dirtyLineWriteback s = .next t ∧ mapFind t.reqs s.nextId = some q ∧ q.kind = .storeData ∧ q.line = x.line ∧
         q.mask = x.dirty ∧ q.data = x.data ∧ l1Find (coreOf t g) x.line = some { x with dirty := 0, checks := 0, by_ := [], writers := [] } ∧ t.mem = s.mem))

/-- R221, R222, R229: a request at its quad stop takes a merge entry where one of the 512 is free, or joins the entry of its kind and line; a read's merge entry is
answered with the line as its home holds it.
R106, R220, R230 to R232: a consuming access of a counted line with a count takes one of it; a counted fill of a line with room makes it counted with its reader count,
pinned with its data where its set has a free way, and a fill of a counted line adds to its count, up to 255. -/
def Obligations.HomeReadsAndCounts : Prop :=
  (∀ (s : State) (i k : Nat) (r : Req) (m e : Merge),
     (EventReq s i r → r.stage = .core →
       (r.kind = .cfill ∨ r.marker = true → (s.merges.filter (fun p => p.2.quad == r.core / 4)).length < 512 →
         exec .quadMergeRequest s = .next { putReq (nextUse s) i { r with stage := .quad, left := s.uses } with
           merges := mapPut s.merges s.nextId ⟨r.core / 4, r.kind, r.line, [i], r.kind != .cfill⟩, nextId := s.nextId + 1 }) ∧
       (r.kind = .plain ∨ r.kind = .unc → r.marker = false →
         s.merges.find? (fun p => p.2.quad == r.core / 4 && p.2.kind == r.kind && p.2.line == r.line && p.2.joinable) = some (k, e) →
         exec .quadMergeRequest s = .next { putReq (nextUse s) i { r with stage := .quad, left := s.uses } with
           merges := mapPut s.merges k { e with reqs := e.reqs ++ [i] } })) ∧
     (EventMerge s i m → m.kind = .plain ∨ m.kind = .unc → mergeBefore s i m = false →
       fillWaits s m.line 0 = false →
       ∃ t, t = { homeTouch s m.line with merges := mapDel s.merges i } ∧
         exec .homeRead s = .next (m.reqs.foldl (fun x j => answerRead x j (homeLine t m.line) (badLine t m.line)) t)) ∧
     (mapFind s.merges i = none → EventReq s i r → r.kind = .plain ∨ r.kind = .unc → r.stage = .home → sentBefore s r.core r.va r.line i = false →
       exec .homeRead s = .next (answerRead s i (homeLine s r.line) (badLine s r.line)))) ∧
  (∀ (s : State) (i j k n number : Nat) (r : Req) (m : Merge),
     let h := homeOf s m.line
     (EventMerge s i m → m.kind = .cons → m.reqs = [j] → (reqOf s j).loads = [k] → mergeBefore s i m = false →
       fillWaits s m.line 0 = false → (mapFind s.loads k).isSome = true → h.counted = true → 0 < h.count →
       ∃ t ld, exec .homeConsumingAccess s = .next t ∧
         homeOf t m.line = { homeOf (homeTouch s m.line) m.line with count := h.count - 1, busy := h.busy + 1 } ∧
         mapFind t.loads k = some ld ∧ (m.line, false) ∈ ld.served ∧ t.merges = mapDel s.merges i ∧ SameMemory s t) ∧
     (EventMerge s i m → m.kind = .cfill → m.reqs = [j] → h.pend = 0 → mergeBefore s i m = false →
       fillWaits s m.line j = false → fillRoom s m.line = true →
       exec .homeCountedFill s = .next (fillAnswer { s with merges := mapDel s.merges i } j (reqOf s j))) ∧
     (EventReq s i r → r.kind = .cfill → r.stage = .home → fillRoom s r.line = true → (homeOf s r.line).pend = 0 →
       (∀ q ∈ s.reqs, q.1 < i → q.2.kind = .cfill → q.2.stage = .home → q.2.line ≠ r.line) → exec .countedFillWaitEnd s = .next (fillAnswer s i r)) ∧
     (h.counted = true → homeOf (countedFill s m.line n number none) m.line = { h with count := min (h.count + n) 255, tag := number }) ∧
     (h.counted = false → pinnedIn (homeTouch s m.line) m.line < 8 → homeOf (countedFill s m.line n number none) m.line =
       { homeOf (homeTouch s m.line) m.line with
         below := none, counted := true, count := n, tag := number, pinned := true, data := some (homeLine s m.line) }))

/-- R107, R249, R309, R310: a store check at the home of a line that is not counted is answered and the line notes it, of a counted line it is refused; a store's bytes are performed at the home:
each byte of the mask has the store's value where the store stands last in that byte's coherence order, and every other byte reads as before. A write stands last when every other write of the byte is ordered
before it or has no higher writer id, and does not when the last one is neither ordered before it nor of a lower id. A second-tier store is performed when its expander completes; a flushing read of the
host leaves no posted write. -/
def Obligations.StorePerformed : Prop :=
  ∀ (s : State) (i : Nat) (r : Req),
    (EventReq s i r → r.kind = .storeCheck → r.stage = .home → fillWaits s r.line i = false → sentBefore s r.core r.va r.line i = false →
      exec .homeStoreCheck s = .next (if (homeOf s r.line).counted = true then putReq s i { r with stage := .answered, bad := true }
        else putReq (putHome s r.line { homeOf s r.line with pend := (homeOf s r.line).pend + 1 }) i { r with stage := .answered })) ∧
    (EventReq s i r → r.kind = .storeData → isHbm (128 * r.line) = true → dataBefore s r.core r.va r.line i = false → atomicsBefore s r i = false →
      r.poison = false → r.tag = 0 → s.fab.resid = [] →
      ∃ t, exec .homeStoreData s = .next t ∧ mapFind t.reqs i = none ∧
        ∀ pa, homeByte t pa = if pa / 128 = r.line ∧ r.mask.getLsbD (pa % 128) = true
          then let w := r.writers.find? (fun w => w.mask.getLsbD (pa % 128))
            leaves s w false ((w.map Writer.va).getD (r.va / 128 * 128) + pa % 128) pa (lineByte r.data (pa % 128))
          else homeByte s pa) ∧
    (∀ (w : Writer) (va pa : Nat),
      ((∀ x ∈ ordersAt s pa, knows w.clock w.agent va x = true ∨ x.id ≤ w.id) → (orderWrite s w false va pa).2 = true) ∧
      (∀ x, (ordersAt s pa).getLast? = some x → knows w.clock w.agent va x = false → w.id < x.id → (orderWrite s w false va pa).2 = false)) ∧
    (EventReq s i r → r.kind = .storeData → isTier (128 * r.line) = true → dataBefore s r.core r.va r.line i = false → atomicsBefore s r i = false →
      exec .expanderCompletion s = .next (performStore s i r)) ∧
    exec .hostFlushCompletion s = .next { s with fe := { s.fe with posted := [] } }

/-- R262, R263, R265, R268, R270: an atomic is first checked at its home, then performed in its line's order: its word holds F(old, operand, expected) where its bytes stand last in their coherence order, every other byte of memory reads as before; a marker
whose covered writes are all performed is cleared, and the held update or release follows: a release raises its object's version by one. A release of an object with a waiter first sends the covered bytes that its core still holds; one that would be over a lost write is not
performed if it is an atomic, and sets the poison bit if it releases an object. -/
def Obligations.AtomicsAndReleases : Prop :=
  ∀ (s : State) (i : Nat) (r : Req),
    (EventReq s i r → r.kind = .atomic ∨ r.kind = .rel → r.stage = .home → fillWaits s r.line i = false →
      sentBefore s r.core r.va r.line i = false →
      exec .homeAtomic s = .next (if (homeOf s r.line).counted = true then putReq s i { r with stage := .answered, bad := true }
        else putReq (putHome s r.line { homeOf s r.line with pend := (homeOf s r.line).pend + 1 }) i { r with stage := .answered })) ∧
    (EventReq s i r → r.kind = .atomic → r.stage = .quad → r.marker = false → dataBefore s r.core r.va r.line i = false →
      orderBefore s r.uid r.line i = false →
      (∀ sp l, spanOf s r.uid = some sp → launchOf s sp = some l → l.debug = false) →
      let pa := 128 * r.line + r.a
      let n := r.width / 8
      ∃ t, exec .homeAtomic s = .next t ∧
        wroteValue s t r.writers.head? true r.va pa n (atomFn r.op r.width (homeRead s pa n) r.b r.c)) ∧
    (EventReq s i r → mayClear s i r = true → r.kind = .rel → promoteLines s r = [] → promoteWaits s r = false →
      exec .releaseMarkerClear s = .next
        (afterRelease (performRel (undoHome (unhold (delReq s i) r.line) r) (128 * r.line + r.a) r.lost r) (128 * r.line + r.a) r.va)) ∧
    (EventReq s i r → mayClear s i r = true → r.kind = .rel → ∀ k ls, promoteLines s r = k :: ls →
      exec .releaseMarkerClear s = .next (ls.foldl (fun t j => writeBack t r.core j) (writeBack s r.core k))) ∧
    (EventReq s i r → mayClear s i r = true → r.kind = .atomic →
      exec .releaseMarkerClear s = .next
        (if r.lost = true then dropRelease s i r else if r.scratch.isSome = true then performScratch s i r else performAtomic s i r)) ∧
    (∀ pa p, wroteValue s (performRel s pa p r) r.writers.head? true r.va pa 8
      ((if p = true ∨ 2 ^ 63 ≤ homeRead s pa 8 then 2 ^ 63 else 0) + (homeRead s pa 8 % 2 ^ 63 + 1) % 2 ^ 63))

/-- R128, R191, R233, R235: a `dropc` request drops the counted line of its place without write-back and goes on to the next line, or ends; bytes in flight land on their barrier. The landing of a command covers what the command did and what was ordered before it (R248), and a command whose bytes
are all moved leaves its queue once its stores are performed and its landings made (R173). That one event drops one line of the range, in rising order, is the model's reading (log 25).
R193, R209, R243: a waiting `barwait` whose barrier has come to an end writes its status, as one that finds it at once; one whose limit of cycles has run out without an end writes 2. -/
def Obligations.LandingsAndWaits : Prop :=
  (∀ (s : State) (i pa : Nat) (b : Bool) (r : Req) (x : Land),
     (EventReq s i r → r.kind = .dropc → r.va < r.a → inLocal r.va = false → lookupVa s r.c r.va = some (pa, b) → isHbm pa = true →
       fillWaits s (pa / 128) 0 = false → sentBefore s r.core r.va (pa / 128) i = false →
       ∃ t, t = dropLine s (pa / 128) 1 ∧
         exec .homeDropc s = .next (if r.a ≤ (r.va / 128 + 1) * 128 then delReq t i else putReq t i { r with va := (r.va / 128 + 1) * 128 })) ∧
     (s.cur.x.id = i → mapFind s.lands i = some x → mapFind s.reqs x.after = none →
       (∀ p ∈ s.reqs, p.2.kind = .storeData → p.2.tag = x.after → x.after = 0) → wayShut s x.core (barLocOf s x.deck x.core x.addr) = false →
       let t := landDeck { s with lands := mapDel s.lands i } x.deck x.core x.addr x.n x.arrive x.poison
         (if (mapFind s.ord.agents x.seq).isSome = true then addKnown (agentOf s x.seq).clock ⟨x.seq, 0, none⟩ else [])
       exec .barrierLanding s = .next (if x.seq = 0 then t else finishCmd t x.seq)) ∧
     (∀ seq, (∀ y ∈ s.lands, y.2.seq ≠ seq) → (∀ p ∈ s.reqs, p.2.kind = .storeData → p.2.tag ≠ seq) →
       ∀ c ∈ (finishCmd s seq).ctxs, ∀ q ∈ c.2.queues, ∀ e ∈ q.2, e.seq = seq → e.done = false) ∧
     (∀ deck g addr n arrive poison c loc, barLocOf s deck g addr = some loc →
       (∀ d l, deckOf s deck = some d → mapFind s.launches d.launch = some l → l.det = false) →
       landDeck s deck g addr n arrive poison c = landOn s (some loc) n arrive poison c) ∧
     (∀ line reason, (homeOf s line).counted = true → 0 < (homeOf s line).count →
       homeOf (dropLine s line reason) line = { homeOf s line with counted := false, count := 0, tag := 0, pinned := false, data := none } ∧
       (dropLine s line reason).mem = s.mem)) ∧
  (∀ (s : State) (u p sd lim st : Nat) (t0 : Int) (addr : Word64) (sp : Span) (l : Launch) (loc : BarLoc) (pa : Option Nat), s.cur.x.id = u → spanOf s u = some sp →
     launchOf s sp = some l → l.det = false → sp.pend = .barwait t0 false addr pa p sd lim →
     mayIssue { s with cur := { s.cur with uid := u } } sp l = true →
     let s1 := foundBad (waking s u sp l) loc
     let sp1 := fun (st : Nat) => sWrite { sp with pend := .none } sd (BitVec.ofNat 64 st)
     waitBar (waking s u sp l) sp l addr = .loc loc → (readBar s1 loc).valid = true →
     (waitEnds (readBar s1 loc) p st →
       (st = 0 ∨ st = 4 ∨ st = 5 → ∀ wide, wide = decide (2 ≤ barScope loc) →
         exec .barwaitEnd s = .next (putSpan (learn (acquireDrop s1 sp.core wide) u (mapGet ([], []) s1.ord.bars (barKey loc)).2) u
           (advance (acquired s1 (sp1 st) wide)))) ∧
       (st = 1 ∨ st = 3 → exec .barwaitEnd s = .next (putSpan s1 u (advance (sp1 st))))) ∧
     ((∀ st, ¬ waitEnds (readBar s1 loc) p st) → lim ≠ 0 → t0 + lim ≤ s.cycle →
       exec .barwaitTimeout s = .next (putSpan s1 u (advance (sp1 2)))))

/-! ### Host packets, doorbells, the register block, the host (R309, R311 to R322, R335, R363) -/

namespace Sys2Proof.Machine

/-- A packet of operation `op` acts, as number i with its words in p, on s1: the front end has just read and started it, or it is in flight and the event names it. -/
def PacketActs (s s1 : State) (op i : Nat) (p : Pkt) : Prop :=
  (s.cur.front = true ∧ i = s.nextId ∧ p = pktOfWords s s.cur.x.id op (words64 s.cur.x.bytes 8) ∧ s1 = startPacket s s.cur.x.id p) ∨
  (s.cur.front = false ∧ i = s.cur.x.id ∧ mapFind s.fe.pkts i = some p ∧ p.op = op ∧ s1 = s)

/-- The package after a packet completed OK. -/
def packetOk (s : State) (i : Nat) : State := endPkt s i 0 0 0 0

/-- Memory after the bytes of `bs` have been written at pa by w: each takes its place in its order, every other byte is as before. -/
def wroteBytes (s t : State) (w : Writer) (pa : Nat) (bs : List Byte) : Prop :=
  ∀ q, homeByte t q = if pa ≤ q ∧ q < pa + bs.length then leaves s (some w) false (w.va + (q - pa)) q (bs.getD (q - pa) 0) else homeByte s q

end Sys2Proof.Machine

/-- R316, R318, R319, R270: FENCE completes and leaves its marker in the queues it names behind the packets started there; RELEASE of a sync object that its key may write raises the version and completes;
ACQUIRE sets the host-waiter bit and checks the version; WAIT on a phase that has an end completes with its status. Which packets the marker of a FENCE waits for is the model's choice (log 22).
R283, R285, R317, R320, R316: LAUNCH of a record that passes its checks takes a launch number and enters its ring; RESUME of an image that some core can hold waits to be placed; COPY reads its source and writes the bytes that go to one line of its
destination at a time, and completes when they are all performed: a read is of the bytes at their homes, and a write in HBM4E changes its own bytes and no other. That a COPY whose source is uncorrectable or untranslated ends with the status of
a faulted access (log 44), and how its bytes are cut within R251 (log 29), are the model's choice. -/
def Obligations.HostPackets : Prop :=
  (∀ (s s1 : State) (i pa : Nat) (p : Pkt),
     (PacketActs s s1 7 i p →
       let qs := if p.a % 2 ^ 32 = 0 then [p.q] else (List.range 32).filter (bitAt (p.a % 2 ^ 32))
       let before := (s1.fe.pkts.filter (fun x => qs.contains x.2.q && x.1 != i)).map Prod.fst
       exec .fencePacket s = .next (if before = [] then packetOk s1 i
         else { packetOk s1 i with fe := { (packetOk s1 i).fe with fences := (packetOk s1 i).fe.fences ++ [(qs, before)] } })) ∧
     (PacketActs s s1 3 i p → p.a % 16 = 0 → frontXlate s1 i p.key p.a 1 = .ok pa false → isHbm pa = true → (homeOf s1 (pa / 128)).counted = false →
       dieWaits s1 (firstDie s1) p.a (pa / 128) = false →
       let h := publish s1 hostAgent
       let va := p.a / 128 * 128
       exec .release s = .next (packetOk (afterRelease (performRel h.1 pa (hostLost s1) { Req.init with
         core := hostPort, scope := 4, clock := h.2, writers := [{ hostWriter s1 with va := va }], va := va }) pa p.a) i)) ∧
     (PacketActs s s1 4 i p → s.cur.front = true → p.a % 16 = 0 →
       let p1 := { p with done := p.c, c := noPlace }
       frontXlate (putHostPkt s1 i p1) i p.key p.a 1 = .ok pa false → isHbm pa = true → (homeOf s1 (pa / 128)).counted = false →
       dieWaits (putHostPkt s1 i p1) (firstDie s1) p.a (pa / 128) = false →
       let t := putHostPkt (dropFails (putHostPkt s1 i p1) (.front i)) i { p1 with c := pa }
       exec .acquire s = .next (checkAcquires (setWaiter t (hostWriter t) pa 0 true) pa)) ∧
     (∀ st, PacketActs s s1 5 i p → s.cur.front = true → p.a % 32 = 0 →
       let p1 := { p with done := p.c, c := noPlace }
       frontXlate (putHostPkt s1 i p1) i p.key p.a 0 = .ok pa true → isHbm pa = true → routeWaits s1 (firstDie s1) (dieOfPa pa) = false →
       (readBar (putHostPkt s1 i p1) (.mem pa)).valid = true →
       waitEnds (readBar (putHostPkt s1 i p1) (.mem pa)) (p.b % 2 ^ 32) st →
       let e := endPkt (putHostPkt s1 i p1) i ([0, 4, 2, 5, 3, 10].getD st 0) 0 0 0
       exec .wait s = .next (if st = 0 ∨ st = 4 ∨ st = 5
         then learn e hostAgent (mapGet ([], []) e.ord.bars (barKey (.mem pa))).2 else e))) ∧
  (∀ (s s1 s2 : State) (i n pa root : Nat) (p : Pkt) (l : Launch) (first last : Nat) (frame join : Word64),
     (PacketActs s s1 1 i p → s.cur.front = true → s.mg.safe = false → p.done = 0 → keyRoot s1 p.key = some root →
       let p1 := { p with t0 := s1.fe.stepNo }
       let s0 := putHostPkt s1 i p1
       freeNumber s0 [] = some n →
       checkRecord (fun s va => dieXlate s (firstDie s) root p.key va 0 (.front i)) s0 p.body p.key root n = .ok l first last frame join →
       launchBefore s0 i p1 = false →
       ∃ t, t = putHostPkt (dropFails s0 (.front i)) i { p1 with done := 1 } ∧
         let h := publish { t with runs := mapPut t.runs n ⟨p.key, some i, [], 0⟩ } hostAgent
         exec .launch s = .next (pushRing h.1 l.prio l first last frame join h.2)) ∧
     (PacketActs s s1 2 i p → s.cur.front = true → imageRefused s1 p.a p.key = false →
       exec .resume s = .next (putHostPkt s1 i { p with b := 0, c := 0 })) ∧
     (PacketActs s s1 6 i p → p.c % 2 ^ 32 ≠ 0 →
       (p.c % 2 ^ 32 ≤ p.done → copyDone s1 i = true → exec .copyPacket s = .next (packetOk s1 i)) ∧
       (p.done < p.c % 2 ^ 32 → ∀ got dpa bar s3,
         let src := p.a + p.done + p.buf.length
         let dst := p.b + p.done
         let m := min (p.c % 2 ^ 32 - p.done) (128 - dst % 128)
         let r := if m ≤ p.buf.length then 0
           else min (p.c % 2 ^ 32 - p.done) ((p.a + p.done + m + 7) / 8 * 8 - (p.a + p.done)) - p.buf.length
         keyRoot s1 p.key = some root → fabRead s1 (firstDie s1) root p.key (.front i) src r = .ok s3 got false →
         frontXlate s3 i p.key dst 1 = .ok dpa bar → copyPut s3 i dst dpa bar ((p.buf ++ got).take m) = .ok s2 →
         exec .copyPacket s = .next (putHostPkt s2 i { p with done := p.done + m, buf := (p.buf ++ got).drop m }))) ∧
     (∀ die va k w x, va % 128 + k ≤ 128 → 0 < k → pa % 128 = va % 128 → inLocal va = false → inQuad va = false →
       dieXlate s die root p.key va 0 w = .ok pa x → dieWaits s die va (pa / 128) = false →
       fabRead s die root p.key w va k = .ok (homeTouch s (pa / 128)) ((List.range k).map (fun j => homeByte s (pa + j))) (badLine s (pa / 128))) ∧
     (∀ va bar bs, isHbm pa = true → (homeOf s (pa / 128)).counted = false → dieWaits s (firstDie s) va (pa / 128) = false →
       ∃ t, copyPut s i va pa bar bs = .ok t ∧ wroteBytes s t { hostWriter s with va := va } pa bs))

/-- R240, R241, R312, R321, R323, R363: the MGMT packets. ADMIT of a new key takes the first free entry; RETIRE of an idle key frees its entry; SHOOTDOWN of a page begins its closing stage; ANSWER releases a fault record's requesters;
POWER selects a state; FPSTART starts an idle processor at its pc with x1; FPSTOP of an idle processor completes, of a running one waits for its current instruction. Which operands of these packets are BAD_PACKET (log 38)
and how throttled states combine with selected ones (log 39) are the model's choice.
R312, R316, R334, R335, R337: a doorbell moves its queue's tail to a value below the queue's size, or to any 16-bit value while the queue is off; a register takes a value it may hold, and reads it back; ACTRL starts an attestation, and the report then stands in its window with ASTAT 2. -/
def Obligations.ManagementAndRegisters : Prop :=
  (∀ (s s1 : State) (i j root : Nat) (p : Pkt) (f : FaultRec),
     let key := p.a % 2 ^ 32
     (PacketActs s s1 17 i p → key ≠ 0 → keyEntry s1 key = none → keyEntry s1 0 = some j →
       exec .admitKey s = .next (packetOk (setReg (setReg s1 (0x4000 + 0x10 * j) key) (0x4008 + 0x10 * j) (bitsAt p.b 12 40 * 4096)) i)) ∧
     (PacketActs s s1 18 i p → key ≠ 0 → keyEntry s1 key = some j → keyBusy s1 key = false →
       exec .retire s = .next (packetOk (setReg (setReg s1 (0x4000 + 0x10 * j) 0) (0x4008 + 0x10 * j) 0) i)) ∧
     (PacketActs s s1 19 i p → mapFind s1.fe.shoots i = none → keyRoot s1 key = some root → (p.c = 12 ∨ p.c = 16 ∨ p.c = 21 ∨ p.c = 30) →
       p.body.getD 3 0 ≤ 10000 → p.b < vaTop →
       exec .shootdown s = .next (beginShoot s1 ⟨key, root, p.b / 2 ^ p.c * 2 ^ p.c / 4096, p.c,
         s1.ticks + 100 * (if p.body.getD 3 0 = 0 then 100 else p.body.getD 3 0), false, i, []⟩)) ∧
     (PacketActs s s1 20 i p → s1.faults.find? (fun f => f.2.number == some p.a) = some (j, f) → p.b ≤ 1 →
       exec .answer s = .next (packetOk (postFaults (answerFault s1 j f (p.b == 1))) i)) ∧
     (PacketActs s s1 21 i p → p.a ≤ 4 → (p.a = 4 → s1.runs = []) →
       let st := if p.a < 2 then min 2 (p.a + s1.mg.throttle) else p.a
       exec .power s = .next (packetOk (setPower s1 st (st - p.a)) i)) ∧
     (PacketActs s s1 22 i p →
       let k := fpArg p.a
       (fpOf s1 k).running = false → (keyRoot s1 (p.body.getD 4 0 % 2 ^ 32)).isSome = true → p.b % 4 = 0 → p.body.getD 3 0 % 16 = 0 →
       ∃ u, exec .fpstart s = .next (packetOk u i) ∧ u = putFp s1 k (fpOf u k) ∧ (fpOf u k).pc = p.b % vaTop ∧
         xRead (fpOf u k) 1 = BitVec.ofNat 64 p.c ∧ (∀ r : BitVec 5, r ≠ 1 → xRead (fpOf u k) r = 0) ∧
         (fpOf u k).running = !s1.mg.failedDies.contains (k / 4)) ∧
     (PacketActs s s1 23 i p →
       exec .fpstop s = .next (if (fpOf s1 (fpArg p.a)).running = true then putFp s1 (fpArg p.a) { fpOf s1 (fpArg p.a) with stop := some i }
         else packetOk s1 i))) ∧
  (∀ (s : State), s.mg.step ≠ 0 →
     (s.cur.x.id < 32 → s.mg.safe = false → s.cur.x.a < 2 ^ 16 → queueSize s s.cur.x.id = 0 ∨ s.cur.x.a < queueSize s s.cur.x.id →
       exec .qtail s = .next (setReg s (0x1018 + 0x40 * s.cur.x.id) s.cur.x.a)) ∧
     (let x := s.cur.x.b % 2 ^ 64
      (regTakes s s.cur.x.a x = true → (s.cur.x.a < 0x5000 ∨ 0x5010 < s.cur.x.a) →
        exec .mgmtRegisterWrite s = .next (setReg s s.cur.x.a x) ∧ feReg (setReg s s.cur.x.a x) s.cur.x.a = BitVec.ofNat 64 x) ∧
      (regTakes s s.cur.x.a x = true → 0x5000 ≤ s.cur.x.a → s.cur.x.a ≤ 0x5010 →
        exec .mgmtRegisterWrite s = .next (postFaults (setReg s s.cur.x.a x))) ∧
      (regTakes s s.cur.x.a x = false → exec .mgmtRegisterWrite s = .next s)) ∧
     (s.cur.x.a = 1 → s.mg.astat ≠ 1 →
       exec .actrl s = .next { s with mg := { s.mg with astat := if s.mg.step = 7 ∧ s.mg.safe = false then 1 else 3 } }) ∧
     (s.mg.astat = 1 → s.mg.step = 7 → s.mg.safe = false →
       exec .attestationDone s = .next { s with mg := { s.mg with
         astat := 2, report := reportBytes s ++ (List.range 3309).map (Config.signature s.mg.manifest (Config.shake256 (reportBytes s))) } }))

/-- R309, R311, R316, R318: a host read through CXL.mem returns the bytes of HBM4E, marked where their line carries the error mark; a write reaches a line that is not counted, and on a counted one completes with poison and no effect; the oldest completion record of a queue is performed when the host grants its line; a snoop takes an owned line back;
an ACQUIRE or WAIT whose timeout has run out completes with status 2. -/
def Obligations.HostEvents : Prop :=
  ∀ (s : State) (i : Nat) (p : Pkt) (c : Compl),
    (let pa := s.cur.x.a - Config.hdmBase
     let answered := fun (s : State) data poison => { s with fe := { s.fe with hostData := data, hostPoison := poison } }
     Config.hdmBase ≤ s.cur.x.a → isHbm pa = true → s.mg.step ≠ 0 → s.mg.power ≠ 4 →
     pa % 128 + s.cur.x.bytes.length ≤ 128 → pa % 128 + s.cur.x.b ≤ 128 → dieWaits s (firstDie s) pa (pa / 128) = false →
      (s.cur.x.bytes = [] → exec .hostCxlMemAccess s =
        .next (answered (homeTouch s (pa / 128)) ((List.range s.cur.x.b).map (fun k => homeByte s (pa + k))) (badLine s (pa / 128)))) ∧
      (s.cur.x.bytes ≠ [] → (homeOf s (pa / 128)).counted = true → exec .hostCxlMemAccess s = .next (answered s [] true)) ∧
      (s.cur.x.bytes ≠ [] → (homeOf s (pa / 128)).counted = false →
        ∃ t, exec .hostCxlMemAccess s = .next (answered t [] false) ∧ wroteBytes s t { hostWriter s with va := pa } pa s.cur.x.bytes)) ∧
    (s.fe.compl.find? (fun c => c.q == s.cur.x.id) = some c →
      let a := qReg s s.cur.x.id 0x20 + 32 * c.slot
      ∃ t, exec .hostOwnershipGrant s = .next t ∧
        wroteBytes s t { hostWriter s with va := a } a (c.words.flatMap (fun w => natToBytes 8 w.toNat)) ∧
        t.fe.compl = s.fe.compl.erase c ∧ t.fe.owned.head? = some (a / 128) ∧
        t.fe.msi = if c.intr && qReg s s.cur.x.id 0x38 == 1 then s.cur.x.id :: s.fe.msi else s.fe.msi) ∧
    (s.fe.owned.contains s.cur.x.a = true →
      exec .hostSnoop s = .next { s with fe := { s.fe with owned := s.fe.owned.filter (fun l => l != s.cur.x.a) } }) ∧
    (s.cur.x.id = i → mapFind s.fe.pkts i = some p → p.done ≠ 0 → p.t0 + 100 * p.done ≤ s.ticks →
      (p.op = 4 → p.c ≠ noPlace → exec .acquireTimeout s = .next (checkAcquires (endPkt s i 2 0 (homeRead s p.c 8) 0) p.c)) ∧
      (p.op = 5 → exec .waitTimeout s = .next (endPkt s i 2 0 0 0)))

/-! ### Engines, placement, contexts, quanta (R26, R154 to R160, R173 to R188, R203 to R209, R237 to R242, R286 to R293, R297 to R304, R317, R320) -/

namespace Sys2Proof.Machine

/-- The command of a kind that the event names may run: its queue is not paused, and it has started or may start. -/
def CmdRuns (s : State) (kind : CmdKind) (k : CmdAt) (l : Launch) : Prop :=
  findCmd s s.cur.x.id = some k ∧ mapFind s.launches k.cmd.launch = some l ∧ k.cmd.kind = kind ∧ k.cmd.done = false ∧
  clocked s = true ∧ queuePaused s k = false ∧ (k.cmd.started = true ∨ mayStart s k = true)

/-- The record that the distributor serves. -/
def Serving (s : State) (p : Nat) (x : RingRec) (l : Launch) : Prop :=
  clocked s = true ∧ servedRing s = some (p, x) ∧ mapFind s.launches x.launch = some l

/-- The decks and spans of an image stand in a context, under new numbers, each as the image has it. -/
def Restored (t : State) (img : Image) (base g : Nat) (half : Bool) : Prop :=
  (∀ d ∈ img.decks, ∃ d', deckOf t (d.1 + base) = some d' ∧ d'.core = g ∧ d'.half = half ∧ d'.index = d.2.index ∧ d'.coords = d.2.coords ∧
    d'.frame = d.2.frame ∧ d'.join = d.2.join ∧ d'.retired = d.2.retired) ∧
  ∀ p ∈ img.spans, ∃ sp, spanOf t (p.1 + base) = some sp ∧ sp.core = g ∧ sp.half = half ∧ sp.bay = p.2.bay ∧ sp.spc = p.2.spc ∧ sp.s = p.2.s ∧
    sp.sEmpty = p.2.sEmpty ∧ sp.v = p.2.v ∧ sp.vEmpty = p.2.vEmpty ∧ sp.am = p.2.am ∧ sp.live = p.2.live ∧ sp.pl = p.2.pl ∧
    sp.masks = p.2.masks ∧ sp.rets = p.2.rets ∧ sp.queue = p.2.queue ∧ sp.regs = p.2.regs ∧ sp.deck = p.2.deck + base ∧ sp.ahead = p.2.ahead

/-- The byte of an image at an offset, by its sections; what none of them covers is zero (R207). -/
def imageByte (secs : List (Nat × List Byte)) (off : Nat) : Byte :=
  match secs.find? (fun x => decide (x.1 ≤ off) && decide (off < x.1 + x.2.length)) with
  | some x => x.2.getD (off - x.1) 0
  | none => 0

/-- A finite value as a whole number of units 2^q, truncated toward zero (R26). -/
def unitsOf (q : Int) : FVal → Int
  | .fin neg m e => signed neg (if q ≤ e then m * 2 ^ (e - q).toNat else m / 2 ^ (q - e).toNat)
  | _ => 0

/-- A deck's quantum may end: its launch is deterministic and runs, and every live span holds or has reached the end (R298). -/
def QuantumEnds (s : State) (k : Nat) (d : Deck) (l : Launch) : Prop :=
  s.cur.x.id = k ∧ deckOf s k = some d ∧ mapFind s.launches d.launch = some l ∧ l.det = true ∧ d.retired = false ∧ d.started = true ∧
  d.stuck = false ∧ clocked s = true ∧ (coreOf s d.core).active = d.half ∧ (coreOf s d.core).swap = none ∧
  (d.ending = false → ∀ p ∈ deckSpans s k, p.2.live = 0 ∨ p.2.held = true ∨ atQuantum s p.2 l = true)

end Sys2Proof.Machine

/-- R173, R174, R182, R184, R187, R251, R350: engine commands run. A copy reads its source by whole 8-byte blocks, writes the bytes that go to one line (or one piece of its slot) and lands them; one that may not be cut waits until it holds its
translations; an `mma` that the array takes starts, and at its end has added every block of its product to its
accumulator and lands 65,536 bytes; an `acst` stores the elements of one line in its destination's type; a collective whose group is there starts. How a copy is cut within R251 is the model's choice (log 29).
R26 to R28, R179, R182: an `mma` writes the 128 by 128 elements of its accumulator, and no other word of any: element (m, n) starts at +0 for its first block where the instruction says so, else at its old value, and takes the blocks in ascending order, each
added once and rounded. A block adds its sum scaled by the two block scales; the sum is of the products truncated toward zero to 40 bits below the largest, rounded once; a product of zeros is +0, a NaN or opposite infinities give NaN, and a scale of 0xFF makes the
block NaN. The two examples of R28's words hold. -/
def Obligations.EngineRuns : Prop :=
  (∀ (s s0 s1 s3 : State) (k : CmdAt) (l : Launch) (rev : List Byte) (lines : List Nat) (n a after : Nat),
     let e := k.cmd
     let c := ctxOf s k.core k.half
     (CmdRuns s .copy k l → e.xfail = false → copyCuts e = true → n = copyChunk e →
       let from_ := e.progress + e.buf.length
       engRead s k l (fun i => srcAddr e (from_ + i)) (copyAhead e (e.progress + n) - from_) = .ok rev false lines →
       let t := lines.foldl homeTouch s
       let bytes := e.buf ++ rev.reverse
       (e.toSlot = true → exec .copyRun s = .next (copyMoved (putCtx t k.core k.half
         (slotWrite (ctxOf t k.core k.half) e (e.offset + e.progress) (bytes.take n))) { k with cmd := { e with buf := bytes.drop n } } n 0)) ∧
       (e.toSlot = false → copyReady t k l (copyPieces n e e.progress n) = .ok s0 a →
         exec .copyRun s = .next (copyWrite s0 k l (copyPieces n e e.progress n) bytes) ∧
         (0 < n → engDo s0 k l s0.nextId (dstAddr e e.progress) (bytes.take n) = .ok s1 after →
           exec .copyRun s = .next (
             let e' := { e with started := true, progress := e.progress + n, landed := e.progress + n }
             let u := landCmd s1 k.core e' n false after
             if e'.progress = cmdTotal e' then cmdDone u k e' else updCmd u k { e' with buf := bytes.drop n })))) ∧
     (CmdRuns s .copy k l → e.xfail = false → copyCuts e = false → ∀ t e' ready, holdPages s k l = (t, e', ready) →
       exec .copyRun s = .next (if ready = true then copyStep t { k with cmd := e' } l else updCmd t k e')) ∧
     (CmdRuns s .copy k l → e.xfail = true → exec .copyRun s = .next (failCmd s k e)) ∧
     (∀ addr bad, engRead s k l addr n = .ok rev bad lines → rev.length = n ∧ ∀ i, i < n →
       (∀ pa bar, engAt s k l (addr i) 0 = .phys pa bar → rev.reverse.getD i 0 = copyByte s k l (addr i) pa) ∧
       (∀ off d, engAt s k l (addr i) 0 = .loc off → deckOf s e.deck = some d → rev.reverse.getD i 0 = copyLocal s k d off)) ∧
     (∀ first va pa bar bs, engAt s k l va 1 = .phys pa bar → isHbm pa = true → e.readers = 0 → l.det = false →
       ∃ t, engDo s k l first va bs = .ok t 0 ∧ ∀ q, homeByte t q = if pa ≤ q ∧ q < pa + bs.length
         then leaves s (some (writerOf s e.seq k.core 0 va)) false (va + (q - pa)) q (bs.getD (q - pa) 0) else homeByte s q) ∧
     (∀ first va off d bs, engAt s k l va 1 = .loc off → deckOf s e.deck = some d → engDo s k l first va bs = .ok (localWrite s d off bs) 0) ∧
     (CmdRuns s .mma k l → e.started = false → arrayBusy s k = false → exec .mmaRun s = .next (updCmd s k { e with started := true })) ∧
     (CmdRuns s .mma k l → e.started = true → (coreOf s k.core).active = k.half → (coreOf s k.core).swap = none → readsBadSlot c e = false →
       exec .mmaDone s = .next (cmdDone (landCmd (putCtx s k.core k.half (mmaApply c e e.progress (mmaBlocks e))) k.core e 65536 false 0) k
         { e with landed := 65536 })) ∧
     (CmdRuns s .acst k l → e.xfail = false → readsBadSlot c e = false →
       let wb := tyWidth (tyOfCode (fsB e.fslot)) / 8
       let va := (e.dst.toNat + e.progress / 128 * e.pitch + e.progress % 128 * wb) % 2 ^ 64
       let m := min (128 - e.progress % 128) ((128 - va % 128) / wb)
       let xs := (List.range m).map (fun i => (mapGet 0 c.accs (16384 * e.acc + e.progress + i)).toNat)
       engWrite s k l va (xs.zipIdx.flatMap (fun x => natToBytes wb (acstCode e x.1 (e.progress + x.2)))) = .ok s1 after →
       ∃ e', e' = { e with started := true, progress := e.progress + m, landed := e.landed + m * wb } ∧
         exec .acstRun s = .next (
           let t := landCmd (histCount s1 k.core e.hist (xs.map (decodeF fmtF32))) k.core e' (m * wb) false after
           if e'.progress = 16384 then cmdDone t k e' else updCmd t k e')) ∧
     (∀ g mb, s.cur.x.id ≠ 0 → CmdRuns s .coll k l → e.started = false → (slotOf c e.slotA).bad = [] → e.op = 0 ∨ e.op = 2 →
       tableBad s (dieOfCore k.core) (fieldOf e.word 0 32) = false →
       findGroup s (dieOfCore k.core) (fieldOf e.word 0 32) = some g → g.state = 0 →
       s.fab.opens.contains g.pa = false → savesOn s l.root g.resid = false →
       fabRead s (dieOfCore k.core) l.root l.key (.fabric e.seq) g.members (4 * g.size) = .ok s3 mb false →
       (openChunk s3 (dieOfCore k.core) g (fieldOf e.word 32 16) (fieldOf e.word 48 16)).isSome = true →
       ∃ t x, exec .collEntryStart s = .next t ∧ mapFind t.fab.entries e.seq = some x ∧ x.tile = slotTile (slotOf c e.slotA) ∧
         x.g = g.size ∧ x.rank = g.rank ∧ x.dest = g.dest ∧ x.code = g.code ∧
         x.members = (List.range g.size).map (memberOf mb))) ∧
  ((∀ (c : Ctx) (e : Cmd) (b0 b1 m n i : Nat),
     let t := mmaApply c e b0 b1
     (m < 128 → n < 128 → mapGet 0 t.accs (16384 * e.acc + 128 * m + n) = BitVec.ofNat 32
       (mmaElem (slotOf c e.slotA) (slotOf c e.slotB) e b0 b1 (mapGet 0 c.accs (16384 * e.acc + 128 * m + n)).toNat m n)) ∧
     (i < 16384 * e.acc ∨ 16384 * (e.acc + 1) ≤ i → mapGet 0 t.accs i = mapGet 0 c.accs i) ∧ t.slots = c.slots ∧ t.queues = c.queues) ∧
   (∀ (xa xb : Slot) (e : Cmd) (b0 b1 acc m n : Nat),
     mmaElem xa xb e b0 b0 acc m n = (if b0 = 0 ∧ e.zero = true then 0 else acc) ∧
     (b0 ≤ b1 →
       let B := if mmaK (fsA e.fslot) = 64 then 8 else 32
       let sa := slotScale xa (fsA e.fslot) e.colA m b1
       let sb := slotScale xb (fsB e.fslot) e.colB n b1
       mmaElem xa xb e b0 (b1 + 1) acc m n = mmaBlock (mmaElem xa xb e b0 b1 acc m n)
         ((List.range B).map (fun i => mulV (slotElem xa (fsA e.fslot) e.colA m (b1 * B + i)) (slotElem xb (fsB e.fslot) e.colB n (b1 * B + i))))
         (if B = 8 then some 0 else if sa = 255 ∨ sb = 255 then none else some ((sa : Int) + sb - 254)))) ∧
   (∀ (acc : Nat) (ps : List FVal) (x E : Int),
     mmaBlock acc ps none = 0x7FC00000 ∧
     mmaBlock acc ps (some x) = roundF fmtF32 .rne .ieee (addV false (decodeF fmtF32 acc) (scaledV x (blockSum ps))) ∧
     (.nan ∈ ps ∨ (.inf true ∈ ps ∧ .inf false ∈ ps) → blockSum ps = .nan) ∧
     (.nan ∉ ps → ∀ b, .inf b ∈ ps → .inf (!b) ∉ ps → blockSum ps = .inf b) ∧
     ((∀ p ∈ ps, ∃ b y, p = .fin b 0 y) → blockSum ps = .fin false 0 0) ∧
     ((∀ p ∈ ps, ∃ b m y, p = .fin b m y ∧ (m = 0 ∨ floorLog2 m y ≤ E)) → (∃ b m y, .fin b m y ∈ ps ∧ m ≠ 0 ∧ floorLog2 m y = E) → -1000000 ≤ E →
       let sum := (ps.map (unitsOf (E - 40))).sum
       blockSum ps = decodeF fmtF32 (roundMag fmtF32 .rne .ieee (decide (sum < 0)) sum.natAbs (E - 40) false))) ∧
   mmaBlock (mmaBlock 0x4B800000 [.fin false 1 0] (some 0)) [.fin false 1 0] (some 0) = 0x4B800000 ∧
   mmaBlock 0 [.fin false 1 0, .fin false 3 (-42)] (some 0) = 0x3F800000)

/-- R154 to R159, R286, R288 to R293, R297: the distributor places the next deck of the served record on the core that `place` gives, or that has been swapped for it; a gang takes cores one by one and becomes resident together; a deck starts with an implicit `fence.pkg` of each of its spans, and the decks of a gang start together;
a full ring's waiting push enters when there is room.
R286, R317, R320: a retired deck whose writes are performed decrements its join word by one, writes nothing else of memory, and leaves; a launch of which nothing is left completes with its noted status; a waiting RESUME whose image a core holds is placed there: every
deck and span of the image stands in the core's active context as the image has it, and no image holds its decks any more; one that is refused by now completes REJECTED with reason IMAGE. -/
def Obligations.PlacementAndRetirement : Prop :=
  (∀ (s : State) (p g k : Nat) (x : RingRec) (l : Launch) (d : Deck),
     (Serving s p x l → l.gang = false → (l.det = true → phaseOf l x.next = l.phase) → deckCore s p l x = some g →
       exec .deckPlace s = .next (headNext (makeResident (putCore s g { coreOf s g with swapFor := none }) x.launch l x.frame x.join x.next g)
         p x (x.next + 1))) ∧
     (swapCore s x = none → deckCore s p l x = placeDeck s p l x.next) ∧
     (swapCore s x = some g → (coreOf s g).swap = none → deckCore s p l x = some g) ∧
     (Serving s p x l → l.gang = true → x.next + x.resv.length ≤ x.last → (l.det = true → phaseOf l (x.next + x.resv.length) = l.phase) →
       placeDeck s p l (x.next + x.resv.length) = some g →
       exec .gangReserve s = .next (putRing s p { ringOf s p with
         recs := { x with resv := x.resv ++ [(x.next + x.resv.length, g)] } :: (ringOf s p).recs.tail })) ∧
     (Serving s p x l → l.gang = true → x.resv.length = x.last + 1 - x.next →
       exec .gangCommit s = .next (x.resv.foldl (fun t r => match mapFind t.launches x.launch with
         | some l => makeResident t x.launch l x.frame x.join r.1 r.2
         | none => t) (headNext s p x (x.last + 1)))) ∧
     (s.cur.x.id = k → deckOf s k = some d → mapFind s.launches d.launch = some l → deckReady s d = true → clocked s = true →
       (l.gang = false → exec .deckStart s = .next (putDeck
         (d.uids.foldl (fun t u => orderFence t u d.core 4) (dropLines s d.core (fun _ => true))) k { d with started := true })) ∧
       (l.gang = true → (s.decks.map Prod.fst).Nodup →
         (∀ x ∈ s.decks, x.2.launch = d.launch → x.2.started = false → x.2.retired = false → deckReady s x.2 = true) →
         ∃ t, exec .deckStart s = .next t ∧ ∀ x ∈ s.decks, x.2.launch = d.launch → x.2.started = false → x.2.retired = false →
           deckOf t x.1 = some { x.2 with started := true })) ∧
     (∀ r rest, s.cur.x.a = p → (ringOf s p).delayed = r :: rest → ringRoom s p = true →
       exec .delayedRingPush s = .next (ringArrive (putRing s p { ringOf s p with delayed := rest }) p r))) ∧
  (∀ (s : State) (k pa n i g : Nat) (d : Deck) (l : Launch) (r : Run) (p : Pkt) (img : Image),
     (s.cur.x.id = k → deckOf s k = some d → mapFind s.launches d.launch = some l → d.retired = true →
       (∀ x ∈ (coreOf s d.core).l1, x.dirty = 0 ∨ ∀ u ∈ x.by_, u ∉ d.uids) → deckBusy s k d = false → d.joined = none →
       (d.join = 0 ∨ d.gone = true → exec .deckRetire s = .next (dropDeck s k d)) ∧
       (d.join ≠ 0 → d.gone = false → inLocal d.join.toNat = false → inQuad d.join.toNat = false →
         dieXlate s (d.core / 32) l.root l.key d.join.toNat 1 (.front k) = .ok pa false → isHbm pa = true → (homeOf s (pa / 128)).counted = false →
         homeRead s pa 8 ≠ 1 →
         let w := writerOf (publish (acquireFrom s k d.core 4 (relKey pa) 0 none) k).1 k d.core 0 d.join.toNat
         ∃ t, exec .deckRetire s = .next t ∧ deckOf t k = none ∧
           wroteValue s t (some w) true d.join.toNat pa 8 ((homeRead s pa 8 + 2 ^ 64 - 1) % 2 ^ 64))) ∧
     (s.cur.x.a = n → mapFind s.runs n = some r → launchAlive s n = false →
       let lines := (s.lines.filter (fun p => p.2.counted && decide (0 < p.2.count) && p.2.tag == n)).map Prod.fst
       let t := lines.foldl (fun t x => dropLine t x 0) s
       let u := delAgent (handOver t (runAgent n) hostAgent) (runAgent n)
       let v := clearNets { u with runs := mapDel u.runs n } r.key
       (r.pkt = none → exec .launchComplete s = .next v) ∧
       (r.pkt = some i → mapFind v.fe.pkts i = some p → p.op ≠ 2 → exec .launchComplete s = .next
         (completePkt v i (runStatus r.noted) 0 n (if runStatus r.noted = noteFault then r.addr else 0)))) ∧
     (s.cur.x.id = i → mapFind s.fe.pkts i = some p → p.op = 2 → p.nums = [] → p.done = 0 → clocked s = true →
       imageRefused s p.a p.key = false → ∀ s1, loadLaunches s p.a = some s1 → img = imageAt s1 p.a → resumeCore s1 p.a img = some g →
       (resumeOlds s1 p.a).length ≤ (resumeNumbers s1 p.a).length → keysRise s1.spans = true → keysRise s1.decks = true →
       (img.decks.map Prod.fst).Nodup → (img.spans.map Prod.fst).Nodup →
       ∃ t base, exec .resumePlacement s = .next t ∧ Restored t img base g (coreOf s g).active ∧
         ∀ m ∈ t.images, ∀ d ∈ img.decks, d.1 ∉ m.2.out) ∧
     (s.cur.x.id = i → mapFind s.fe.pkts i = some p → p.op = 2 → p.nums = [] → p.done = 0 → clocked s = true →
       imageRefused s p.a p.key = true → exec .resumePlacement s = .next (completePkt (recRejected s 11 p.a p.key 0) i 1 11 0 0)))

/-- R143, R156, R159, R203 to R207, R209: a shadow swap begins with the `mma` on the array stopped after a block and what has run ahead discarded, and ends 96 cycles later with the other context active, its spans younger than those before them and its waits
counting again, and the outgoing one to be spilled; the spill's end leaves in the save area the image of the context as it stood, and the shadow empty; a spill fault
pauses it until it is resumed, or loses the context, whose launches are killed; a preload fills an empty shadow with the decks and spans of its image. The layout inside the sections of R207 and who asks for a swap or a preload are the model's choice (assumption logs 11 and 30).
R238 to R242: a walk ends with its leaf in the requesters' TLBs, or with a fault record; a shootdown's bound runs out once, and its removal stage, when nothing holds the page, takes every translation of the page out and completes the packet. -/
def Obligations.ContextsAndTranslations : Prop :=
  (∀ (s : State) (g : Nat) (t0 : Nat),
     s.cur.x.core = g → keysRise s.spans = true → keysRise s.decks = true →
     let c := coreOf s g
     (g < 512 → clocked s = true → c.failed = false → c.swap = none → shadowReady s g = true →
       s.cur.x.c = 1 ∨ (swapAsked s g).isSome = true ∨ backAsked s g = true →
       let x := ctxOf s g c.active
       ∃ t, exec .shadowSwap s = .next t ∧ (coreOf t g).swap = some s.cycle ∧ (coreOf t g).spill = none ∧ (coreOf t g).active = c.active ∧
         (coreOf t g).swapFor = swapAsked s g ∧
         (∀ p ∈ ctxSpans s g c.active, spanOf t p.1 = some { pauseWait s p.2 with ahead := [] }) ∧
         (∀ e, (x.queues.flatMap Prod.snd).find? (fun e => e.kind == .mma && e.started && !e.done) = some e →
           let b := max e.progress (min s.cur.x.b (mmaBlocks e))
           (ctxOf t g c.active).accs = (mmaApply x e e.progress b).accs ∧
           (ctxOf t g c.active).queues = x.queues.map (fun q => (q.1, q.2.map (fun y => if y.seq = e.seq ∧ y.kind = .mma then { y with progress := b } else y)))) ∧
         ((x.queues.flatMap Prod.snd).find? (fun e => e.kind == .mma && e.started && !e.done) = none → ctxOf t g c.active = x)) ∧
     (c.swap = some t0 → t0 + 96 ≤ s.cycle →
       ∃ t, exec .swapComplete s = .next t ∧ (coreOf t g).swap = none ∧ (coreOf t g).active = !c.active ∧ (coreOf t g).preload = none ∧
         (coreOf t g).spill = (if ctxEmpty s g c.active then none else some (0, 0, false)) ∧
         (∀ p ∈ ctxSpans s g (!c.active), spanOf t p.1 = some { resumeWait s p.2 with age := p.2.age + c.ageNext }) ∧
         (∀ h, ctxEmpty s g h = true → ctxOf t g h = Ctx.init)) ∧
     (∀ a b, c.spill = some (a, b, false) → c.swap = none → saveArea a b s.cur.x.a = true → paExists s s.cur.x.a = true →
       let u := replayPend s g (!c.active)
       let secs := imageSections u g (!c.active)
       spillBusy u g (!c.active) = false → secs.Pairwise (fun x y => x.1 + x.2.length ≤ y.1) →
       ∃ t i img, exec .spillComplete s = .next t ∧ (coreOf t g).spill = none ∧ mapFind t.images i = some img ∧ ctxEmpty t g (!c.active) = true ∧
         img.at_ = s.cur.x.a ∧ img.spans = ctxSpans u g (!c.active) ∧ img.decks = ctxDecks u g (!c.active) ∧ img.ctx = ctxOf u g (!c.active) ∧
         img.out = img.decks.map Prod.fst ∧
         ∀ q, homeByte t q = if s.cur.x.a + 128 * b ≤ q ∧ q < s.cur.x.a + imageBytes then imageByte secs (q - s.cur.x.a) else homeByte u q) ∧
     (∀ a b, c.spill = some (a, b, false) → saveArea a b s.cur.x.c = true → s.cur.x.c ≤ s.cur.x.a →
       s.cur.x.a - s.cur.x.c < imageBytes → b ≤ (s.cur.x.a - s.cur.x.c) / 128 →
       (s.cur.x.a - s.cur.x.c) / 128 ≤ 32 ∨ spillBusy (replayPend s g (!c.active)) g (!c.active) = false →
       ∃ t, exec .spillFault s = .next t ∧
         (s.cur.x.b = 0 → (coreOf t g).spill = some (s.cur.x.c, (s.cur.x.a - s.cur.x.c) / 128, true)) ∧
         (s.cur.x.b ≠ 0 → (coreOf t g).spill = none ∧ ctxSpans t g (!c.active) = [] ∧
           ∀ d ∈ ctxDecks s g (!c.active), ∀ r, mapFind s.runs (numberOf s d.2.launch) = some r →
             ∃ r', mapFind t.runs (numberOf s d.2.launch) = some r' ∧ noteLost ∈ r'.noted)) ∧
     (∀ a b, c.spill = some (a, b, true) → exec .spillResume s = .next (putCore s g { c with spill := some (a, b, false) })) ∧
     (let a := s.cur.x.a
      let img := imageAt s a
      g < 512 → clocked s = true → c.failed = false → c.spill = none → c.swap = none → c.preload = none → imgRead s a 4 = 0x4A394358 →
       (∀ d ∈ img.decks, d.1 ∈ img.out) → resumeOlds s a = [] → ctxEmpty s g (!c.active) = true → img.banks.length ≤ (freeBanks s g).length →
       s.cur.x.c = 1 ∨ (ctxEmpty s g c.active = true ∧ (imageKept s a).decks ≠ [] ∧ (∀ d ∈ (imageKept s a).decks, d.2.core = g) ∧
         waitsAbove s (topPrio s img.decks) = false) →
       (img.decks.map Prod.fst).Nodup → (img.spans.map Prod.fst).Nodup →
       ∃ t base, exec .preloadComplete s = .next t ∧ (coreOf t g).preload = some (a, true) ∧ Restored t img base g (!c.active))) ∧
  (∀ (s : State) (i : Nat) (w : Walk) (x : Shoot), s.cur.x.id = i →
     (mapFind s.walks i = some w → walkRuns s i w = true → ∀ r, r = unitWalk s w 4 w.root →
       walksWith s i w r.1 = [(i, w)] → ∀ n, w.needs = [n] →
       (∀ x ∈ r.2.2, isHbm (128 * x) = true → routeWaits s w.die (dieOfPa (128 * x)) = false) →
       let s1 := r.2.2.foldl homeTouch (keepUppers { s with walks := mapDel s.walks i, fresh := s.fresh + 1 } r.2.1)
       let closing := closingShoot s w.root (w.vpn * 4096)
       let waits := if closingBars s1 n = true then closing else none
       (∀ level bad, r.1 = .fault level bad → exec .walkComplete s = .next (makeFault s1 w n level bad waits)) ∧
       (∀ size ppn bar x wr, r.1 = .leaf size ppn bar x wr →
         ((n.write = true ∧ wr = false) ∨ (n.fetch = true ∧ x = false) ∨ waits ≠ none →
           exec .walkComplete s = .next (makeFault s1 w n (size / 9) false waits)) ∧
         ((n.write = true → wr = true) → (n.fetch = true → x = true) → waits = none →
           exec .walkComplete s = .next (match whoTlb s1 w.die n.who with
             | some (g, bay) => installTlb s1 g n.fetch bay ⟨w.root, w.vpn, size, ppn, bar, x, wr, closing.isSome⟩
             | none => s1)))) ∧
     (mapFind s.fe.shoots i = some x → x.due ≤ s.ticks → x.expired = false →
       exec .shootdownBoundExpire s = .next { s with fe := { s.fe with shoots := mapPut s.fe.shoots i { x with expired := true } } }) ∧
     (mapFind s.fe.shoots i = some x → x.expired = true ∨ (shootLines s x = [] ∧ shootCmds s x = []) →
       (∀ ln ∈ shootLines s x, fillWaits s ln 0 = false) →
       ∃ t, exec .shootdownRemoval s = .next (completePkt (postFaults t) x.pkt 0 0 0 0) ∧ mapFind t.fe.shoots i = none ∧
         (∀ c ∈ t.cores, ∀ y ∈ c.2.stlb ++ c.2.itlb ++ c.2.dtlb.flatMap Prod.snd, tlbIn x y = false)))

/-- R298, R299, R385: a quantum end applies the entries of the deck's commit buffers, its spans in ascending global id and each in program order: an entry that takes effect leaves its buffer, one whose check fails halts its span, whose later entries are
discarded, and one that has to wait stops there. A store's bytes reach their homes, each in its place of its byte's coherence order, or their scratch bank; a barrier status and a bin are delivered as the quantum ends.
R260, R297 to R303: a deck's quantum end whose entries are all applied, with what they started performed and done, raises the quantum count by one, whatever spans the deck has and whatever their buffers held; with empty buffers and nothing outstanding it does so at once; until then it is a
quantum end still ending. Spans that make no progress end their launch; the next phase of a deterministic launch begins when the decks of the last have left, and what they wrote is ordered before what the next ones write. -/
def Obligations.Quanta : Prop :=
  (∀ (s s' : State) (k u n : Nat) (sp : Span) (l : Launch) (x : Word64 × Buffered) (rest : List (Word64 × Buffered)) (d : Deck),
     ((deckSpans s k).map (fun p => p.2.w)).Pairwise (· ≤ ·) ∧
     ((∀ p ∈ deckSpans s k, p.2.buffer = []) → applyAll (n + 1) s k l = (s, true)) ∧
     ((deckSpans s k).find? (fun p => !p.2.buffer.isEmpty) = some (u, sp) → sp.buffer = x :: rest →
       let a := applyEntry { s with cur := { s.cur with uid := u } } u sp l x.2
       (a = .ok s' → applyAll (n + 1) s k l = applyAll n (setApplied (finishSpan (popEntry { s' with cur := s.cur } u) u) k) k l) ∧
       (∀ cause, a = .bad cause → applyAll (n + 1) s k l =
         applyAll n (setApplied (quantumFail s u sp x.1 cause) k) k l) ∧
       (a = .wait s' → applyAll (n + 1) s k l = ({ s' with cur := s.cur }, false))) ∧
     (∀ (cells : List (Nat × Byte)) (va pa : Nat) (bar unc : Bool), cells.head?.map Prod.fst = some va → inLocal va = false →
       lookupVa s l.root va = some (pa, bar) → isHbm pa = true → (homeOf s (pa / 128)).counted = false → (lineBusy s sp.core (pa / 128)).2 = false →
       (∀ y ∈ cells, y.1 / 128 = va / 128) → (cells.map Prod.fst).Nodup → pa % 4096 = va % 4096 →
       ∃ t m, applyEntry s u sp l (.store cells unc) = .ok t ∧ ∀ q, homeByte t q =
         match cells.find? (fun y => pa / 4096 * 4096 + y.1 % 4096 == q) with
         | some y => leaves s (some (writerOf s u sp.core m va)) false y.1 q y.2
         | none => homeByte s q) ∧
     (∀ (cells : List (Nat × Byte)) (va : Nat) (b : Bank) (unc : Bool), cells.head?.map Prod.fst = some va → inLocal va = true →
       deckOf s sp.deck = some d → localMode s d (va - localLo) = some b →
       applyEntry s u sp l (.store cells unc) = if b.mode ≠ .scratch then .bad causeBankMode else if b.switch ≠ [] then .wait s
         else .ok (cells.foldl (fun t y => match deckOf t sp.deck with
           | some d => localPut t d (y.1 - localLo) y.2
           | none => t) s)) ∧
     (∀ (i b : Nat) (ld : Load), mapFind s.loads i = some ld → (spanOf s ld.uid).isSome = true → ld.late = true →
       ∀ h, ld.hist = some (h, b) → ∀ sp1, spanOf s ld.uid = some sp1 →
       ∃ ld', mapFind (takeBin s i).loads i = some ld' ∧ ld'.lanes = ld.lanes.map (fun y => if y.lane = 0 ∧ y.got.isNone = true
         then { y with got := some (mapGet 0 (mapGet ⟨[], 0⟩ (coreOf s sp1.core).hist h).bins b) } else y)) ∧
     (∀ (addr : Word64) (pa : Option Nat) (p sd lim st : Nat) (t0 : Int) (off : Bool) (loc : BarLoc), sp.pend = .barwait t0 off addr pa p sd lim →
       waitBar s sp l addr = .loc loc → (deckBar s l sp.deck addr.toNat loc).valid = true →
       (waitEnds (deckBar s l sp.deck addr.toNat loc) p st → st = 1 ∨ st = 3 →
         evalWait s u sp l = putSpan s u (advance (sWrite { sp with pend := .none } sd (BitVec.ofNat 64 st)))) ∧
       ((∀ st, ¬ waitEnds (deckBar s l sp.deck addr.toNat loc) p st) → evalWait s u sp l = s))) ∧
  (∀ (s : State) (k : Nat) (d : Deck) (l : Launch) (x : RingRec),
     (∀ s1 d1, QuantumEnds s k d l →
       applyAll (((deckSpans s k).map (fun p => p.2.buffer.length)).sum + 1)
         (if d.ending = true then s else putDeck s k { d with ending := true, applied := false }) k l = (s1, true) →
       deckOf s1 k = some d1 → d1.retired = false →
       (quantumBusy s1 k d1 = false →
         ∃ t d2, exec .quantumEnd s = .next t ∧ deckOf t k = some d2 ∧ d2.quanta = d1.quanta + 1 ∧ d2.ending = false ∧ d2.applied = false ∧
           (d2.retired = false → d1.quanta + 1 < l.watchdog → d1.applied = true → d2.stuck = false)) ∧
       (quantumBusy s1 k d1 = true → s1 ≠ s → exec .quantumEnd s = .next s1)) ∧
     (∀ s1, QuantumEnds s k d l →
       applyAll (((deckSpans s k).map (fun p => p.2.buffer.length)).sum + 1)
         (if d.ending = true then s else putDeck s k { d with ending := true, applied := false }) k l = (s1, false) →
       (deckOf s1 k).isSome = true → s1 ≠ s → exec .quantumEnd s = .next s1) ∧
     (QuantumEnds s k d l → deckSpans s k = [] →
       d.quanta + 1 < l.watchdog → quantumBusy s k d = false → (∀ p ∈ s.loads, p.2.late = false) → d.ending = false →
       ∃ t, exec .quantumEnd s = .next t ∧ deckOf t k = some { d with quanta := d.quanta + 1, ending := false, applied := false } ∧ t.mem = s.mem) ∧
     (s.cur.x.id = k → deckOf s k = some d → mapFind s.launches d.launch = some l → d.stuck = true →
       ∃ s1 s2, s1 = record (putDeck s k { d with stuck := false }) { boxEvent s with
           kind := 1, code := 0x85, die := d.core / 32, core := d.core % 32, launch := l.number, key := l.key, arg := d.index, stop := d.core % 32 / 4 } ∧
         s2 = killLaunch s1 l.number noteNoProgress ∧
         exec .noProgress s = .next ((s2.lines.filter (fun p => p.2.counted && decide (0 < p.2.count) && p.2.tag == l.number)).foldl
           (fun t x => dropLine t x.1 0) s2)) ∧
     (s.cur.x.id = k → mapFind s.launches k = some l → l.det = true → l.begun = true →
       (s.rings.flatMap (fun r => r.2.recs ++ r.2.delayed)).find? (fun x => x.launch == k) = some x → phaseOf l x.next ≠ l.phase →
       (∀ d ∈ s.decks, d.2.launch ≠ k) → (∀ m ∈ s.images, ∀ d ∈ m.2.decks, d.1 ∈ m.2.out → d.2.launch ≠ k) →
       let p := publish s (phaseAgent k)
       exec .phaseStart s = .next { p.1 with
         ord := { p.1.ord with starts := mapPut p.1.ord.starts k (addClock (mapGet [] p.1.ord.starts k) p.2) }
         launches := mapPut s.launches k { l with phase := phaseOf l x.next, snapshot := memNow s, nets := s.nets } }))

/-! ### The mesh and the fabric (R273 to R281, R305, R340 to R351, R356, R359 to R361, R371, R375, R378 to R380) -/

/-- R273 to R280, R305: a contribution that the round may take joins its quad's node, the first of a node sends a start notice, one that it may not take raises the handle's dropped count and nothing else of the round; a partial whose way is free joins its node, which goes on; a start notice starts the clock;
a round whose time is out closes with status 2 and the contributors that the nodes report.
R275, R280: a dropped contribution raises the dropped count in the handle's word 0x18 by one, up to 65,535; the close of a round writes its contributors, its status and the next round number at the handle, and nothing else of memory; each byte takes its place in its coherence order (R249). -/
def Obligations.MeshReductions : Prop :=
  (∀ (s : State) (i : Nat) (m : MeshMsg) (r : Round) (t0 : Nat) (b : Option Nat), s.cur.x.id = i →
     let s1 := { s with meshMsgs := mapDel s.meshMsgs i }
     (mapFind s.meshMsgs i = some m →
       (m.kind = 0 → mapFind s.rounds m.handle = some r → r.tree < 2 → r.exact = false →
         s.mg.failedDies.contains (rootDie r) = false →
         r.expected.getLsbD m.core = true → (r.pkg = false → m.core / 32 = rootDie r) → m.round = r.round → (nodeOf r m.src).sent = false →
         (∀ x ∈ (nodeOf r m.src).own, x.1 ≠ m.core) →
         exec .meshContribution s = .next (nodeStep (startNotice s1 r (nodeOf r m.src)) (putNode r { nodeOf r m.src with own := (nodeOf r m.src).own ++ [(m.core, m.v)] }) m.src)) ∧
       (m.kind = 0 → mapFind s.rounds m.handle = some r → m.round ≠ r.round → s.mg.failedDies.contains (rootDie r) = false → exec .meshContribution s = .next (dropContribution s1 m.handle)) ∧
       (m.kind = 1 → i ≠ 0 → routeWaits s (meshDie m.src) (meshDie m.dst) = false → mapFind s.rounds m.handle = some r →
         ∃ r', r' = startClock s1 r m.dst ∧ exec .meshPartial s = .next (nodeStep (startNotice s1 r' (nodeOf r' m.dst))
           (putNode r' { nodeOf r' m.dst with kids := (nodeOf r' m.dst).kids ++ [(m.src, m.v)] }) m.dst)) ∧
       (m.kind = 2 → routeWaits s (meshDie m.src) (meshDie m.dst) = false → mapFind s.rounds m.handle = some r → exec .startNotice s = .next (putRound s1 (startClock s1 r m.dst)))) ∧
     (mapFind s.rounds s.cur.x.a = some r → r.t0 = some t0 → r.timeout ≠ 0 → t0 + r.timeout ≤ s.cycle → r.final = none →
       roundBarrier s r = (s, some b) →
       exec .reductionTimeout s = .next (closeRound s r 2 (heldCores s r) b))) ∧
  (∀ (s : State) (r : Round) (st h : Nat) (cores : BitVec 512), st < 128 →
     let by_ := fun (die a : Nat) => some { dieWriter s die (dieAgent die) with va := a }
     let w := homeRead s (h + 0x18) 8
     let v := homeRead s (r.handle + 0x18) 8
     let put := fun (a n x q : Nat) (old : Byte) => if a ≤ q ∧ q < a + n
       then leaves s (by_ (rootDie r) a) false q q ((natToBytes n x).getD (q - a) 0) else old
     wroteValue s (dropContribution s h) (by_ (dieOfPa h) (h + 0x18)) false (h + 0x18) (h + 0x18) 8
       (w - bitsAt w 32 16 * 2 ^ 32 + min (bitsAt w 32 16 + 1) 0xFFFF * 2 ^ 32) ∧
     (∀ q, homeByte (closeRound s r st cores none) q = put (r.handle + 0x80) 64 cores.toNat q
       (put (r.handle + 0x18) 8 (bitsAt v 0 48 + (st + 128) * 2 ^ 48 + (r.round + 1) % 256 * 2 ^ 56) q (homeByte s q))) ∧
     mapFind (closeRound s r st cores none).rounds r.handle = none)

/-- R341, R342, R344, R351: a packet that its die accepts stands accepted, one that its die drops or trims is lost until it is sent again; a packet without an acknowledgement for 2 µs goes out again and marks its path; a negative acknowledgement of a trimmed packet sends it again at once;
a send whose packets are all accepted is gone; a lost signal takes its port out of use, a returned path back into it. Which path a packet takes, the ports' numbering and the wire's form are the model's choice (assumption log 18), and so is that a packet whose acknowledgement fails is marked lost and sent again by an event
(assumption log 42).
R340 to R342, R349, R350: a send that nothing but its acknowledgements holds is gone once every packet is accepted; a lost signal takes a port
out of use and a returned path brings it back; a refused connection set-up is recorded. -/
def Obligations.FabricPackets : Prop :=
  (∀ (s s1 : State) (i : Nat) (p : FPkt), s.cur.x.id = i → i ≠ 0 → mapFind s.fab.pkts i = some p → p.accepted = false →
     (p.lost = false → p.dstPkg = Config.package → s.mg.failedDies.contains p.dstDie = false →
       (acceptPacket s i p = .ok s1 → exec .packetReceive s = .next (putPkt s1 i { p with accepted := true })) ∧
       (acceptPacket s i p = .drop s1 → exec .packetReceive s = .next (putPkt s1 i { p with lost := true })) ∧
       (acceptPacket s i p = .trim → exec .packetReceive s = .next (putPkt s i { p with lost := true, trimmed := true }))) ∧
     (p.path ≠ 256 → p.sent + 200 ≤ s.ticks →
       let ps := pathsOf s p.srcDie p.dstPkg p.dstDie
       (ps.suspect.contains p.path = true → exec .packetResend s = .next (removePath s p.srcDie p.dstPkg p.dstDie p.path)) ∧
       (ps.suspect.contains p.path = false → ∃ t q, exec .packetResend s = .next t ∧ mapFind t.fab.pkts i = some q ∧ q.sent = s.ticks ∧
         (pathsOf t p.srcDie p.dstPkg p.dstDie).suspect.contains p.path = true)) ∧
     (p.path ≠ 256 → p.trimmed = true → exec .negativeAcknowledgement s = .next (launchPacket s i p 256))) ∧
  (∀ (s : State) (i : Nat) (x : Send),
     (s.cur.x.id = i → mapFind s.fab.sends i = some x → x.entry = none → (∀ j ∈ x.pkts, ∃ p, mapFind s.fab.pkts j = some p ∧ p.accepted = true) →
       exec .sendAcknowledged s = .next (dropSends s [i])) ∧
     (s.cur.x.a < 64 → s.fab.dead.contains s.cur.x.a = false →
       ∃ t, exec .lossOfSignal s = .next t ∧ t.fab.dead.contains s.cur.x.a = true ∧ t.mem = s.mem) ∧
     (s.cur.x.die < 16 → s.cur.x.c < 256 →
       ∃ t, exec .pathReturn s = .next t ∧ t.fab.dead.contains (portOf s.cur.x.die s.cur.x.c) = false ∧
         (pathsOf t s.cur.x.die s.cur.x.a s.cur.x.b).removed.contains s.cur.x.c = false ∧ t.mem = s.mem) ∧
     (s.cur.x.die < 16 →
       exec .connectionSetUp s = .next (if s.cur.x.a = 2 ∨ s.cur.x.a = 4 ∨ s.cur.x.a = 8
         then record s { boxEvent s with kind := 3, code := 6, die := s.cur.x.die } else s)))

/-- R352, R356: the reduced tile, element by element: the member's own, the residual of its compression where there is one, and then what every child sent, in ascending rank, each
sum rounded to FP32 with RNE; an element of a child's coded block is the sign or ternary code's value of the block's scale; a tile sent uncoded carries its elements' own bytes.
R349 to R351, R355 to R357: the sweep of a complete chunk. It frees the chunk; the root without a residual writes the reduced tile where a reduce-scatter or an all-reduce puts it, an all-reduce's first sent to every child; another member
sends the encoded tile to its parent, and a coded group's compression takes up the key's residual and leaves the encoding's, with the NaN blocks counted at the descriptor's 0x50.
R318, R359 to R361: a drain with nothing open ends with status 1, one whose bound is out with 2, and one that waited to apply its policy then, with that same 2; a notice of a version that is not
lower is kept and checked against the waiting packets.
R371, R375, R378, R379: a waiting `recv` or `upd` whose limit is out reports TIMEOUT in its xd; a home of this package serves a fetch, and its answer reaches the requester. -/
def Obligations.FabricEngines : Prop :=
  (∀ (e : Entry) (c : Chunk) (resid : Option (List Nat)), (∀ r, resid = some r → r.length = 4096) →
     let code := codeOfField e.code
     let sent := fun (r : Nat) => (chunkFrom c r (tileBytes code)).getD []
     let at_ := fun (b : List Byte) (i : Nat) => bytesToNat ((b.drop i).take 4)
     let elem := fun (b : List Byte) (i : Nat) => match code with
       | .none => at_ b (4 * i)
       | .sign => codedElem .sign (at_ b (8 * (i / 32))) (at_ b (8 * (i / 32) + 4)) (i % 32)
       | .ternary => codedElem .ternary (bytesToNat ((b.drop (12 * (i / 32))).take 8)) (at_ b (12 * (i / 32) + 8)) (i % 32)
     (entryChildren e).Pairwise (· < ·) ∧ (reduceTile e c resid).1.length = 4096 ∧
     (∀ i, i < 4096 →
       (reduceTile e c resid).1.getD i 0 = (entryChildren e).foldl (fun a r => fAdd fmtF32 .rne a (elem (sent r) i))
         ((resid.map (fun r => fAdd fmtF32 .rne (at_ e.tile (4 * i)) (r.getD i 0))).getD (at_ e.tile (4 * i)))) ∧
     (code = .none → (reduceTile e c resid).2 = 0)) ∧
  (∀ (s s1 : State) (i j : Nat) (e : Entry) (g : Group) (c : Chunk) (o : ResObj), s.cur.x.id = i →
     mapFind s.fab.entries i = some e → clocked s = true → e.out = none → (e.op = 0 ∨ e.op = 2) → e.swept = false → e.got = [] →
     findChunk s e.die e.handle e.t e.tag = some (j, c) → chunkReady c e = true → anyGroup s e.die e.handle = some g →
     let free := fun (s : State) (x : List Nat × Nat) => delChunk (if x.2 = 0 then s else raiseDrops s g x.2) e.die e.handle e.t e.tag
     let code := codeOfField e.code
     let up := fun (s : State) (es : List Nat) =>
       let r := sendTo (if (encodeTile code es).2.2 = 0 then s else raiseCount s g 0x50 (encodeTile code es).2.2) e
         (rankAt e.g e.t ((entryHop e - 1) / e.k)) 0 e.code (encodeTile code es).1
       putEntry r.1 { r.2 with swept := e.op == 0, written := false, pos := 0, got := [e.rank] }
     (entryHop e = 0 → (code = .none ∨ e.g ≠ 1) → (e.op = 0 → e.home = false) →
       let x := reduceTile e c none
       let t := bytesOfF32s x.1
       (e.op = 0 → exec .chunkSweep s = .next (writeEntry (free s x) { e with swept := true, out := some t } t)) ∧
       (e.op = 2 → exec .chunkSweep s = .next
         (let r := (entryChildren e).foldl (fun y k => sendTo y.1 y.2 k 1 e.code t) (free s x, e)
          writeEntry r.1 { r.2 with swept := true, out := some t } t))) ∧
     (entryHop e ≠ 0 → code = .none → exec .chunkSweep s = .next (up (free s (reduceTile e c none)) (reduceTile e c none).1)) ∧
     (entryHop e ≠ 0 → code ≠ .none → predAlive s e.die g = false → compressBefore s e = false →
       residAt s e.die e.root e.key (.fabric i) e.resid [residKey e] true = .ok s1 o → e.seq = i →
       let y := residTile s1 o (residKey e)
       let x := reduceTile e c (some y.2)
       exec .chunkSweep s = .next (up (putResid (free y.1 x) (residPut o (residKey e) (encodeTile code x.1).2.1)) x.1))) ∧
  (∀ (s : State) (i : Nat) (x : Drain), s.cur.x.id = i →
     (mapFind s.fab.drains i = some x → x.st = 0 → drainBusy s x = false → exec .drainEnd s = .next (endDrain s i x 1)) ∧
     (mapFind s.fab.drains i = some x → x.st = 3 → exec .drainEnd s = .next (endDrain s i x 2)) ∧
     (mapFind s.fab.drains i = some x → x.st = 0 → x.due ≤ s.ticks →
       (∀ y ∈ s.fab.entries, ¬ (y.2.die = x.die ∧ y.2.handle = x.handle)) →
       ∃ t, exec .drainBoundExpire s = .next (endDrain t i x 2) ∧ t.mem = s.mem ∧ drainBusy t x = false) ∧
     (let a := s.cur.x.a
      let v := s.cur.x.b
      let s1 := { s with fab := { s.fab with out := s.fab.out.filter (fun o => o != (Config.package, a, v)) } }
      exec .versionNotice s = .next (if v % 2 ^ 63 < mapGet 0 s.fab.notices a then s1
        else noticeAcquires { s1 with fab := { s1.fab with notices := mapSet 0 s1.fab.notices a (v % 2 ^ 63) } } a v))) ∧
  (∀ (s s1 : State) (id : Nat) (x : WFetch) (v : Served),
     (∀ t0 lim xd, 
       let k := 4 * s.cur.x.die + s.cur.x.a
       let f := fpOf s k
       f.wait = .since t0 lim xd → lim ≠ 0 → t0 + lim ≤ s.cycle → f.running = true → clocked s = true →
       ∀ i ∈ [(Instr.recvTimeout, Instr.trelixRecv), (.updTimeout, .trelixUpd)], fpRow s f = some i.2 →
         exec i.1 s = .next (fpReported s k f (BitVec.ofNat 5 xd) 2 0)) ∧
     (s.cur.x.id = id → mapFind s.fab.fetches id = some x → x.answered = none → x.pkg = Config.package →
       routeWaits s x.srcDie x.die = false → routeWaits s x.die x.srcDie = false → serveHome s id x = (s1, some v) →
       exec .wfetchServe s = .next (fetchAnswer s1 id x v)))

/-! ### Links, failures, errors, power, resets (R223 to R225, R306 to R308, R323 to R337) -/

/-- R306 to R308: a flit that fails its CRC is counted and recorded; after 16 replays the causeway retrains; a retrain ends at full width, at half width, or with the causeway down, and routes that avoid a down causeway are installed.
R225, R325, R326, R330: firmware declares a quad stop or a die failed: it stays failed, none of its cores is usable any more, and every span on them has no live lane; a failed die's processors stop; an uncorrectable error of protected storage marks the storage that it names; a scrub that finds one poisons its line and records it. In parapet mode (R331) two runs of an S-word that do not agree halt its span with LOCKSTEP, and so does a pass whose copies do not agree, before it has an effect. -/
def Obligations.LinksAndFailures : Prop :=
  (∀ (s : State), 
     let c := s.cur.x.a
     (c < 22 → bitAt s.mg.cwDown c = false → s.mg.retrain.contains c = false →
       exec .flitCrcFail s = .next (recLink { s with mg := { s.mg with
         replays := mapPut s.mg.replays c ((if s.cur.x.b = 0 then 0 else mapGet 0 s.mg.replays c) + 1) } } 1 c)) ∧
     (16 ≤ mapGet 0 s.mg.replays c → s.mg.retrain.contains c = false →
       exec .causewayRetrain s = .next (recLink { s with mg := { s.mg with
         retrain := c :: s.mg.retrain, replays := mapDel s.mg.replays c } } 2 c)) ∧
     (s.mg.retrain.contains c = true →
       let m := { s.mg with retrain := s.mg.retrain.filter (fun x => x != c) }
       (s.cur.x.b = 0 → exec .retrainComplete s = .next { s with mg := m }) ∧
       (s.cur.x.b = 1 → exec .retrainComplete s = .next (recLink { s with mg := { m with cwHalf := m.cwHalf ||| 2 ^ c } } 3 c)) ∧
       (2 ≤ s.cur.x.b → ∃ t, exec .retrainComplete s = .next t ∧ t.mg.cwDown = m.cwDown ||| 2 ^ c)) ∧
     (bitAt s.mg.cwDown c = true → s.mg.rerouted.contains c = false →
       exec .routeInstall s = .next { s with mg := { s.mg with rerouted := c :: s.mg.rerouted } })) ∧
  (∀ (s : State),
     (s.cur.x.a < 128 → s.mg.failedQuads.contains s.cur.x.a = false →
       ∃ t, exec .quadStopFail s = .next t ∧ t.mg.failedQuads = s.cur.x.a :: s.mg.failedQuads ∧
         ∀ g, g / 4 = s.cur.x.a → (∀ p, coreUsable t p g = false) ∧ ∀ u sp, spanOf t u = some sp → sp.core = g → sp.live = 0) ∧
     (s.cur.x.die < 16 → s.mg.failedDies.contains s.cur.x.die = false →
       ∃ t, exec .dieFail s = .next t ∧ t.mg.failedDies = s.cur.x.die :: s.mg.failedDies ∧
         (∀ g, g / 32 = s.cur.x.die → (∀ p, coreUsable t p g = false) ∧ ∀ u sp, spanOf t u = some sp → sp.core = g → sp.live = 0) ∧
         ∀ f ∈ t.fab.fps, f.1 / 4 = s.cur.x.die → f.2.running = false) ∧
     (∀ sp, spanOf s s.cur.x.id = some sp → s.cur.x.a = 0 → s.cur.x.b < 63 →
       ∃ t sp', exec .uncorrectableError s = .next t ∧ spanOf t s.cur.x.id = some sp' ∧ sp'.badS.getLsbD s.cur.x.b = true) ∧
     (s.cur.x.a = 4 → isHbm (128 * s.cur.x.b) = true →
       ∃ t, exec .uncorrectableError s = .next t ∧ (homeOf t s.cur.x.b).latent = true ∧ badLine t s.cur.x.b = true ∧ t.mem = s.mem) ∧
     ((homeOf s s.cur.x.a).latent = true ∧ isHbm (128 * s.cur.x.a) = true → exec .scrub s = .next
       (recUncorrectable (putHome s s.cur.x.a { homeOf s s.cur.x.a with
           latent := false, poison := true, lost := (homeOf s s.cur.x.a).lost && (homeOf s s.cur.x.a).poison })
         (dieOfPa (128 * s.cur.x.a)) 0 0 4 (128 * s.cur.x.a))) ∧
     ((homeOf s s.cur.x.a).latent = false → exec .scrub s = .next s) ∧
     (∀ sp, spanOf s s.cur.x.id = some sp → s.cur.x.a = 16 → (launchOf s sp).any Launch.parapet = true → exec .uncorrectableError s = .next (lockstepHalt s s.cur.x.id 0)) ∧
     (∀ i u sp v ta tb a b, spanOf s u = some sp → sp.shadow = some v →
       exec i (putSpan s u { sp with shadow := none }) = .next ta → exec i (putSpan s u { sp with shadow := none, v := v }) = .next tb →
       spanOf ta u = some a → spanOf tb u = some b → a.traps.length = sp.traps.length → a ≠ { sp with shadow := none } →
       ∀ bad, bad = passMismatch s { sp with shadow := none } { sp with shadow := none, v := v } a b → bad ≠ 0 →
       runPass i s u = .next (lockstepHalt s u bad)) ∧
     (∀ u mask sp, spanOf s u = some sp → ∃ e : BoxEvent, e.kind = 1 ∧ e.code = 0x83 ∧ e.arg = mask.toNat ∧ e.die = sp.core / 32 ∧
       e.core = sp.core % 32 ∧ e.bay = sp.bay ∧ e.span = sp.n ∧ (∀ l, launchOf s sp = some l → e.launch = l.number ∧ e.key = l.key) ∧ lockstepHalt s u mask = haltSpan (record s e) u noteAbandoned))

/-- R323, R324, R334: at 95 °C, or beyond PCAP, the package drops one power state, down to state 2; cooled it returns one; at 115 °C every launch is lost (its completion notes CONTEXT_LOST, and no span of it keeps a live lane) and the package is safe; a fatal firmware fault makes it safe with code 8.
R332 to R337: power-good with nothing failed, a bundle whose key, signature and components check against the fused digest, and an SVN that is allowed comes up enabled at step 7; a bundle that does not check stops it safe with code 5, a lower SVN with code 6; a failed BIST stops it safe with code 1; warm reset keeps the bytes of the stacks, without those that only an L2 slice has, and the black box's save slots, and resets the rest; cold loss keeps host memory only;
the black box is saved, with the digest of its ring, to the older of its two slots. The order of the bundle's fields is the model's choice (assumption log 19). -/
def Obligations.PowerAndResets : Prop :=
  (∀ (s : State),
     (95 ≤ s.cur.x.a → s.cur.x.die < 16 → ∃ t, exec .thermalThrottle s = .next t ∧ t.mg.power = (if s.mg.power < 2 then s.mg.power + 1 else s.mg.power)) ∧
     (∃ t, exec .powerOverCap s = .next t ∧ t.mg.power = (if s.mg.power < 2 then s.mg.power + 1 else s.mg.power) ∧ t.mem = s.mem) ∧
     (s.mg.throttle ≠ 0 → s.cur.x.a < 90 → ∃ t, exec .throttleRestore s = .next t ∧ t.mg.power = s.mg.power - 1 ∧ t.mg.throttle = s.mg.throttle - 1) ∧
     (115 ≤ s.cur.x.a → s.cur.x.die < 16 → ∃ t, exec .thermalTrip s = .next t ∧ t.mg.safe = true ∧ t.mg.code = 7 ∧
       ∀ n r, mapFind s.runs n = some r → (∃ r', mapFind t.runs n = some r' ∧ noteLost ∈ r'.noted) ∧
         ∀ u sp d, spanOf t u = some sp → deckOf s sp.deck = some d → numberOf s d.launch = n → sp.live = 0) ∧
     (exec .firmwareFault s = .next { s with mg := { s.mg with safe := true, code := 8 } })) ∧
  (∀ (s : State),
     (let fused := (s.cur.x.bytes.drop 8).take 64
      let b := bundleOf (s.cur.x.bytes.drop 72)
      s.mg.step = 0 → s.cur.x.a % 2 ^ 16 = 0 → s.cur.x.b % 2 ^ 22 = 0 → s.cur.x.c % 2 ^ 16 = 0 →
       ∃ t, exec .powerGood s = .next t ∧ t.mem = s.mem ∧ t.mg.svn = b.svn ∧ t.mg.fused = fused ∧
         (bundleOk b fused = false → t.mg.safe = true ∧ t.mg.code = 5 ∧ t.mg.step = 6) ∧
         (bundleOk b fused = true → b.svn < s.cur.x.core % 2 ^ 16 → t.mg.safe = true ∧ t.mg.code = 6 ∧ t.mg.step = 6) ∧
         (bundleOk b fused = true → s.cur.x.core % 2 ^ 16 ≤ b.svn → t.mg.enabled = true ∧ t.mg.step = 7 ∧ t.cycle = 0)) ∧
     (s.mg.step = 0 → s.cur.x.a % 2 ^ 16 ≠ 0 → ∃ t, exec .powerGood s = .next t ∧ t.mg.safe = true ∧ t.mg.code = 1) ∧
     ((∀ x ∈ s.lines, x.2.below = none) → (stackBytes s).mem = s.mem) ∧
     (∃ t, exec .warmReset s = .next t ∧ t.mem = (stackBytes s).mem ∧ t.spans = [] ∧ t.decks = [] ∧ t.mg.enabled = State.reset.mg.enabled ∧
       t.mg.saves = s.mg.saves ∧ t.fe = State.reset.fe) ∧
     (∃ t, exec .coldPowerLoss s = .next t ∧ (∀ pa, isHost pa = true → memByte t pa = memByte s pa) ∧ (∀ pa, isHost pa = false → memByte t pa = 0) ∧
       t.spans = [] ∧ t.mg = State.reset.mg) ∧
     (s.cur.x.die < 16 →
       ∃ t n, n = mapGet 0 s.mg.saveSeq s.cur.x.die + 1 ∧ exec .blackBoxSave s = .next t ∧
         mapFind t.mg.saves (2 * s.cur.x.die + n % 2) = some (n, mapGet [] s.box s.cur.x.die, ringDigest (mapGet [] s.box s.cur.x.die)) ∧ mapGet 0 t.mg.saveSeq s.cur.x.die = n))

/-- R198, R199, R142, R55, R57: a trap below depth two with a handler. The frame of this depth is written through the span's own store path,
s60 holds its address, s61 its first word, s62 the fault address; every live lane is active, the depth rises, the lane queue is empty,
and the pc is the handler's entry. `brk` takes this trap with cause BREAK, a word that is no instruction with ILLEGAL, and an extension
word with EXT_ABSENT.
R199, R196, R327: with no handler, or at depth two, a trap halts the span: the black box has the kill, and the span's registered barriers are
abandoned.
R55, R57, R369: a word that is no instruction traps ILLEGAL, as an S-word at its commit and as an L-word before its first pass; an opcode that Trelix does not list traps ILLEGAL: the processor halts with reason 1. -/
def Obligations.Traps : Prop :=
  (∀ (s : State) (sp : Span) (l : Launch) (r : Report) (p : Nat ⊕ Nat) (code : BitVec 14), TrapReady s sp l r.cause p →
     takeTrap s sp l r = .next (trapTaken s sp l r p) ∧
     (r = ⟨causeBreak, false, sp.am, 0⟩ → exec (.brk code) s = .next (trapTaken s sp l r p)) ∧
     (r = (if s.cur.lane then ⟨causeIllegal, true, s.cur.mask, 0⟩ else ⟨causeIllegal, false, sp.am, 0⟩) →
       exec .illegalEncoding s = .next (trapTaken s sp l r p)) ∧
     (r = (if s.cur.lane then ⟨causeExt, true, s.cur.mask, 0⟩ else ⟨causeExt, false, sp.am, 0⟩) →
       exec .extensionEncoding s = .next (trapTaken s sp l r p))) ∧
  (∀ (s : State) (sp : Span) (l : Launch) (r : Report), ActingIn s sp l → (2 ≤ sp.hdepth ∨ entryFor l r.cause = 0) →
     takeTrap s sp l r = .next (haltSpan (recKill s sp r) s.cur.uid noteAbandoned)) ∧
  (∀ (s : State),
     (∀ sp l, ActingIn s sp l → exec .illegalEncoding s = takeTrap s sp l
       ⟨causeIllegal, s.cur.lane, if s.cur.lane then s.cur.mask else sp.am, 0⟩) ∧
     (∀ sp l p, TrapReady s sp l causeIllegal p → s.cur.lane = false →
       exec .illegalEncoding s = .next (trapTaken s sp l ⟨causeIllegal, false, sp.am, 0⟩ p)) ∧
     (∀ k f t, TrelixAt s k f t → ∃ u, exec .unlistedTrelixOpcode s = .next u ∧ u.mem = s.mem ∧
       fpOf u k = { f with halting := some (1, causeIllegal, 0), wait := .none }))

/-! ### Reset, the step, the encodings -/

namespace Sys2Proof.Machine

/-- A turn of the scalar stream that came to `r`: an S-word that issues in it takes the bay's scalar issue of the cycle (R160, R161). -/
def scalarIssues (s : State) (u : Nat) (sp : Span) (r : Res) : Res :=
  match r with
  | .next t => if scalarIssued sp = true ∨ goesOn s u r = false then r
    else .next (putIssue t sp { bayIssue t sp with scalar := s.cycle + 1, last := some sp.age })
  | r => r

/-- The outcome of a pass: where it begins and goes on, it occupies the bay's lane issue and its results ripen (R144, R160). -/
def laneIssues (s : State) (u : Nat) (sp : Span) (l : Launch) (w : LWord) (r : Res) : Res :=
  if sp.pend = .none ∧ goesWell s u r = true then noteLane s u l w (probeOf (decodeL w) s).dsts r else r

/-- The first pass of a position, once the sources of its later passes have been tested: their wait or their EMPTY_READ stands for a pass that would go on (R45). -/
def firstOutcome (u : Nat) (w : LWord) (r : State × Option Res) : Res :=
  let out := runPass (decodeL w) r.1 u
  match r.2 with
  | some o => if goesWell r.1 u out = true then o else out
  | none => out

/-- The maps whose order of keys every step keeps, and memory in canonical form. -/
def CanonicalState (s : State) : Prop :=
  Memory.wf s.mem = true ∧ keysRise s.lines = true ∧ keysRise s.spans = true ∧ keysRise s.decks = true

end Sys2Proof.Machine

/-- R159, R285, R312, R317, R332: after reset nothing is resident, launched or in flight; every slot is unclaimed, every accumulator zero, every bank in cache mode; RCORES reads all ones, PCAP 4,500, and the other registers named read 0; the package is not enabled and at step 0;
memory is in canonical form with nothing listed, and the invariant that every step keeps holds. What the spec gives no value of (the registers' zeros, the contents of memory that nothing has written) is the
model's choice (assumption logs 1 and 8). -/
def Obligations.ResetState : Prop :=
  let s := State.reset
  s.spans = [] ∧ s.decks = [] ∧ s.launches = [] ∧ s.runs = [] ∧ s.reqs = [] ∧ s.loads = [] ∧ s.rings = [] ∧ s.mem = [] ∧ CanonicalState s ∧
  (∀ g half i, (slotOf (ctxOf s g half) i).st = .unclaimed ∧ (slotOf (ctxOf s g half) i).count = 0) ∧
  (∀ g half i, mapGet 0 (ctxOf s g half).accs i = (0 : Word32)) ∧
  (∀ g p, (bankOf (coreOf s g) p).mode = .cache ∧ (bankOf (coreOf s g) p).owner = none) ∧
  (∀ line, (homeOf s line).counted = false ∧ (homeOf s line).poison = false) ∧
  (∀ k, k < 64 → barRead s (0x3000 + 8 * k) = 2 ^ 64 - 1) ∧ barRead s 0x6000 = 4500 ∧
  (∀ q, q < 32 → barRead s (0x1018 + 0x40 * q) = 0 ∧ queueSize s q = 0) ∧
  (∀ j, j < 64 → barRead s (0x4000 + 0x10 * j) = 0) ∧ (∀ key, keyRoot s key = none) ∧
  s.mg.enabled = false ∧ s.mg.safe = false ∧ s.mg.step = 0

/-- A step runs the decoded instruction (R29, R39, R41, R45, R47, R137, R144, R160 to R162, R202, R208, R362, R364, R384). Where a span's S-word may issue in its bay and it has no block queued, the step is `exec` of the S-word at its pc, or of the one that ran ahead there; with a block queued its scalar turn changes
nothing of it but what has run ahead. With a block queued whose pass has a lane (or that is unplaned), and whose turn in the bay it is,
the step is `exec` of the L-word that has been read for the pass, else of the one at the pass's place, parcel 2 lowest in memory (R47), where code still holds what it held at the enqueue, under the
mask `am`, in a planed block the lanes of `am` in the pass's plane; the first pass of a position stands back where a source of a later one is empty. A stream whose turn it is not, does not move. Where a fabric processor runs, the step is `exec` of the
Trelix word at its pc; where the agenda names an event, of that event with its arguments; time moves the counters alone. After a unit of a span its undo entries are made (none outside debug mode). The agenda, the order in which a cycle's ready streams take it and the end of a latency are the model's form of what the spec leaves to an
implementation, and issue in a bay its form of R144 and R161 (assumption logs 2, 3 and 81). -/
def Obligations.StepRunsDecoded : Prop :=
  ∀ (s : State) (t : Turn) (rest : List Turn), s.agenda = t :: rest →
    let s0 := { s with agenda := rest }
    (∀ u sp l, t = .scalar u → spanOf s0 u = some sp → launchOf s0 sp = some l → mayIssue s0 sp l = true → scalarFree s0 u = true → sp.queue = [] →
      (sp.badRec = true → step s = afterTurn s0 t (scalarIssues s0 u sp (recordBad s0 u sp))) ∧
      (sp.badRec = false → sp.step ≠ .due →
        (∀ pa b, sp.ahead = [] → sp.spc.toNat < quadLo → xlate { s0 with cur := { uid := u } } sp l sp.spc.toNat 2 = .ok pa b →
          let w : Word32 := BitVec.ofNat 32 (coreRead s0 sp.core pa 4)
          step s = afterTurn s0 t (scalarIssues s0 u sp (exec (decodeS w) { s0 with cur := { uid := u, word := w.zeroExtend 96 } }))) ∧
        (∀ a more, sp.ahead = a :: more → a.point = sp.spc →
          step s = afterTurn s0 t (exec (decodeS a.word) { s0 with cur := { uid := u, word := a.word.zeroExtend 96 } })))) ∧
    (∀ u sp s', t = .scalar u → spanOf s0 u = some sp → sp.queue ≠ [] → step s = .next s' →
      ∃ a, spanOf s' u = some { sp with ahead := a }) ∧
    (∀ u sp l blk more, t = .lane u → spanOf s0 u = some sp → launchOf s0 sp = some l → mayIssue s0 sp l = true → sp.queue = blk :: more →
      laneFree s0 u = true → sp.badRec = false → sp.step ≠ .due → sp.shadow = none →
      let m := if blk.planed then sp.am &&& planeMask sp blk.plane else sp.am
      (blk.planed = true → m ≠ 0) →
      let cur : Cur := { uid := u, mask := m, plane := blk.plane, planed := blk.planed, lane := true }
      let s1 := { putSpan s0 u sp with cur := cur }
      let runs := fun (s2 : State) (w : LWord) =>
        let sp2 := { sp with queue := { blk with
          picked := mapPut blk.picked blk.plane w, reads := if blk.planed && !blk.began then some sp.s else blk.reads } :: more }
        let s3 := putSpan { s2 with cur := { cur with word := w } } u sp2
        (blk.planed = false ∨ blk.began = true ∨ sp.pend ≠ .none ∨ laterPlanes sp blk = [] →
          step s = afterTurn s0 t (laneIssues s3 u sp l w (exec (decodeL w) s3))) ∧
        (blk.planed = true → blk.began = false → sp.pend = .none →
          step s = afterTurn s0 t (laneIssues s3 u sp l w (firstOutcome u w (testLater s3 u l (laterPlanes sp blk)))))
      (∀ w, mapFind blk.picked blk.plane = some w → runs s1 w) ∧
      (∀ pa pb pc ba bb bc, mapFind blk.picked blk.plane = none →
        let a := wordAddr l (wordOff blk blk.pos blk.plane)
        a + 8 < quadLo → xlate s1 sp l a 2 = .ok pa ba → xlate s1 sp l (a + 4) 2 = .ok pb bb → xlate s1 sp l (a + 8) 2 = .ok pc bc →
        let w : LWord := BitVec.ofNat 32 (coreRead s1 sp.core pc 4) ++ BitVec.ofNat 32 (coreRead s1 sp.core pb 4) ++
          BitVec.ofNat 32 (coreRead s1 sp.core pa 4)
        let old := (blk.code[blk.pos * planesOf blk + blk.plane]?).getD none
        old = none ∨ old = some w → runs (useLine (useLine (useLine s1 sp.core pa a 4) sp.core pb (a + 4) 4) sp.core pc (a + 8) 4) w)) ∧
    (∀ i u s2 sp, spanOf s2 u = some sp → sp.shadow = none → runPass i s2 u = exec i s2) ∧
    (∀ u sp l, t = .lane u → spanOf s0 u = some sp → launchOf s0 sp = some l → mayIssue s0 sp l = true → sp.queue ≠ [] → sp.badRec = true →
      laneFree s0 u = true → step s = afterTurn s0 t (recordBad s0 u sp)) ∧
    (∀ u, (t = .lane u ∧ laneFree s0 u = false) ∨ (t = .scalar u ∧ scalarFree s0 u = false) → step s = .fault .notEnabled) ∧
    (∀ die i pa b, t = .fp die i → i < 4 → die < 16 → clocked s0 = true → s0.mg.failedDies.contains die = false →
      let k := 4 * die + i
      let f := fpOf s0 k
      f.running = true → f.halting = none → (f.stop = none ∨ f.busy = true) → fpXlate s0 k f f.pc 2 = .ok pa b → dieWaits s0 die f.pc (pa / 128) = false →
      badLine s0 (pa / 128) = false →
      let w : Word32 := BitVec.ofNat 32 (homeRead s0 pa 4)
      step s = afterTurn s0 t (exec (decodeT w) { homeTouch (putFp s0 k { f with busy := true }) (pa / 128) with cur := { fp := some k, word := w.zeroExtend 96 } })) ∧
    (∀ i x, t = .event i x → step s = afterTurn s0 t (exec i { s0 with cur := { x := x } })) ∧
    (∀ c k, t = .time c k → step s = .next { s0 with cycle := if clocked s0 then s0.cycle + c else s0.cycle, ticks := s0.ticks + k }) ∧
    (∀ r, (∀ u ∈ turnSpans s0 t, ∀ sp l, spanOf s0 u = some sp → launchOf s0 sp = some l → l.debug = false) → afterTurn s0 t r = r)

/-- R164, R228, R237: from every state whose memory is in canonical form and whose home lines, spans and decks are listed once each in the order of their numbers, a step of any agent whatever, with any event and any free choice,
gives such a state again: no store, write-back, fill, spill, reset or placement leaves memory or the home slices in another form. -/
def Obligations.StepKeepsCanonicalForm : Prop :=
  ∀ s t : State, CanonicalState s → step s = .next t → CanonicalState t

/-- R47 to R51, R58 to R61, R365: words written out from the encodings decode to the instructions they stand for. -/
def Obligations.DecodeWords : Prop :=
  -- add s3, s1, s2: major 0x00, d, a, b, fn 0x01 (R49, R119)
  decodeS 0b000000_000011_000001_000010_00000001#32 = .add 3 1 2 ∧
  -- addi s5, s4, -1: major 0x02, d, a, imm14 (R49, R122)
  decodeS 0b000010_000101_000100_11111111111111#32 = .addi 5 4 0x3FFF ∧
  -- bnez s7, +2: major 0x18, cond 1, a, disp16 (R49, R129)
  decodeS 0b011000_0001_000111_0000000000000010#32 = .bnez 7 2 ∧
  -- jmp -1: major 0x19, disp26 (R49, R130)
  decodeS 0b011001_11111111111111111111111111#32 = .jmp 0x3FFFFFF ∧
  -- barwait s1, s2, s3, 4: major 0x31, d, a, b, limit (R60)
  decodeS 0b110001_000001_000010_000011_00000100#32 = .barwait 1 2 3 4 ∧
  -- a word of an unassigned major, and one of an extension major (R55, R57)
  decodeS 0b111100_00000000000000000000000000#32 = .extensionEncoding ∧
  decodeS 0b111111_00000000000000000000000000#32 = .illegalEncoding ∧
  -- vadd v1, v2, v3 on unsigned 8-bit elements: op 0x01, vd, va, vb, vc, bcls, ccls, fe, fs, rm, ty 4, sdst, mod; parcel 2 (R51, R73)
  decodeL (0b00000001_00000001_00000010_00000011#32 ++ 0b00000000_00_00_000_000_000_0100_000000_0#32 ++ 0#32) =
    .vadd { vd := 1, va := 2, vb := 3, vc := 0, bcls := 0, ccls := 0, fe := 0, fs := 0, rm := 0, ty := 4, sdst := 0, mod := 0, p2 := 0 } ∧
  -- Trelix add x1, x2, x3: major 0x00, xd, xa, xb, fn 0x01 (R365, R367)
  decodeT 0b000000_00001_00010_00011_00000000001#32 = .trelixAdd ∧
  tFieldsOf 0b000000_00001_00010_00011_00000000001#32 = { x := 1, a := 2, b := 3, low := 1 }

/-- R47 to R62: every well-formed S-word instruction decodes, from the word that its encoding gives it, to itself, with every operand at every value. -/
def Obligations.ScalarRoundTrip : Prop :=
  ∀ (i : Instr) (w : Word32), wellFormed i = true → encodeS i = some w → decodeS w = i

/-- R51 to R55, R61, R62, R72, R94: every well-formed L-word instruction decodes, from the word that its encoding gives it, to itself, with every operand and every field at every value. -/
def Obligations.LaneRoundTrip : Prop :=
  ∀ (i : Instr) (w : LWord), wellFormed i = true → encodeL i = some w → decodeL w = i

/-- R362, R365, R366: every Trelix instruction, with fields that it admits, decodes from its word to itself, and the word's fields are those. -/
def Obligations.TrelixRoundTrip : Prop :=
  ∀ (i : Instr) (t : TFields) (w : Word32), trelixFieldsOk i t = true → encodeT i t = some w → decodeT w = i ∧ tFieldsOf w = t
end

