-- ==== Sys2Proof/Laws/Encoding.lean ====
section
/-! SUPPORT. The fields of a word that a format has put together are the fields it was put together from, and a word is the
word of its fields: what the round trips of the encodings rest on. -/

namespace Sys2Proof

/-- A field of a concatenation that lies in its low part. -/
theorem extract_append_low {m n : Nat} (x : BitVec m) (y : BitVec n) (o k : Nat) (h : o + k ≤ n) :
    (x ++ y).extractLsb' o k = y.extractLsb' o k := by
  ext i hi
  simp only [BitVec.getElem_extractLsb', BitVec.getLsbD_append]
  rw [if_pos (by omega)]

/-- A field of a concatenation that lies in its high part. -/
theorem extract_append_high {m n : Nat} (x : BitVec m) (y : BitVec n) (o k : Nat) (h : n ≤ o) :
    (x ++ y).extractLsb' o k = x.extractLsb' (o - n) k := by
  ext i hi
  simp only [BitVec.getElem_extractLsb', BitVec.getLsbD_append]
  rw [if_neg (by omega)]
  congr 1
  omega

/-- All of a word is that word. -/
theorem extract_all {n : Nat} (x : BitVec n) : x.extractLsb' 0 n = x := by
  ext i hi
  simp

/-- A whole part of a concatenation. -/
theorem extract_low {m n : Nat} (x : BitVec m) (y : BitVec n) : (x ++ y).extractLsb' 0 n = y := by
  rw [extract_append_low x y 0 n (by omega), extract_all]

/-- One field of a concatenation, its place counted from the parts above it. -/
theorem extract_skip {m n : Nat} (x : BitVec m) (y : BitVec n) (o k : Nat) (z : BitVec k) (h : x.extractLsb' o k = z) :
    (x ++ y).extractLsb' (n + o) k = z := by
  rw [extract_append_high x y (n + o) k (by omega), Nat.add_sub_cancel_left, h]

/-- A word of format S.R has its fields. -/
theorem wR_fields (major d a b : BitVec 6) (fn : BitVec 8) :
    fMajor (wR major d a b fn) = major ∧ fSd (wR major d a b fn) = d ∧ fSa (wR major d a b fn) = a ∧ fSb (wR major d a b fn) = b ∧ fFn (wR major d a b fn) = fn :=
  ⟨extract_skip _ _ _ _ _ (extract_skip _ _ _ _ _ (extract_skip _ _ _ _ _ (extract_skip _ _ _ _ _ (extract_all _)))), extract_skip _ _ _ _ _ (extract_skip _ _ _ _ _ (extract_skip _ _ _ _ _ (extract_low _ _))), extract_skip _ _ _ _ _ (extract_skip _ _ _ _ _ (extract_low _ _)), extract_skip _ _ _ _ _ (extract_low _ _), extract_low _ _⟩

/-- A word of format S.I has its fields. -/
theorem wI_fields (major d a : BitVec 6) (imm : BitVec 14) :
    fMajor (wI major d a imm) = major ∧ fSd (wI major d a imm) = d ∧ fSa (wI major d a imm) = a ∧ fImm14 (wI major d a imm) = imm :=
  ⟨extract_skip _ _ _ _ _ (extract_skip _ _ _ _ _ (extract_skip _ _ _ _ _ (extract_all _))), extract_skip _ _ _ _ _ (extract_skip _ _ _ _ _ (extract_low _ _)), extract_skip _ _ _ _ _ (extract_low _ _), extract_low _ _⟩

/-- A word of format S.B has its fields. -/
theorem wB_fields (cond : BitVec 4) (a : BitVec 6) (disp : BitVec 16) :
    fMajor (wB cond a disp) = 0x18#6 ∧ fCond (wB cond a disp) = cond ∧ fBa (wB cond a disp) = a ∧ fDisp16 (wB cond a disp) = disp :=
  ⟨extract_skip _ _ _ _ _ (extract_skip _ _ _ _ _ (extract_skip _ _ _ _ _ (extract_all _))), extract_skip _ _ _ _ _ (extract_skip _ _ _ _ _ (extract_low _ _)), extract_skip _ _ _ _ _ (extract_low _ _), extract_low _ _⟩

/-- A word of format S.J has its fields. -/
theorem wJ_fields (major : BitVec 6) (disp : BitVec 26) :
    fMajor (wJ major disp) = major ∧ fDisp26 (wJ major disp) = disp :=
  ⟨extract_skip _ _ _ _ _ (extract_all _), extract_low _ _⟩

/-- An L-word has its op. -/
theorem wL_op (op : BitVec 8) (x : LFields) : (wL op x).extractLsb' 88 8 = op :=
  extract_skip _ _ _ _ _ (extract_skip _ _ _ _ _ (extract_skip _ _ _ _ _ (extract_skip _ _ _ _ _ (extract_skip _ _ _ _ _ (extract_skip _ _ _ _ _ (extract_skip _ _ _ _ _ (extract_skip _ _ _ _ _ (extract_skip _ _ _ _ _ (extract_skip _ _ _ _ _ (extract_skip _ _ _ _ _ (extract_skip _ _ _ _ _ (extract_skip _ _ _ _ _ (extract_all _)))))))))))))

/-- An L-word has its fields. -/
theorem wL_fields (op : BitVec 8) (x : LFields) : lFieldsOf (wL op x) = x := by
  cases x with
  | mk vd va vb vc bcls ccls fe fs rm ty sdst mod p2 =>
    exact LFields.mk.injEq .. ▸ ⟨extract_skip _ _ _ _ _ (extract_skip _ _ _ _ _ (extract_skip _ _ _ _ _ (extract_skip _ _ _ _ _ (extract_skip _ _ _ _ _ (extract_skip _ _ _ _ _ (extract_skip _ _ _ _ _ (extract_skip _ _ _ _ _ (extract_skip _ _ _ _ _ (extract_skip _ _ _ _ _ (extract_skip _ _ _ _ _ (extract_skip _ _ _ _ _ (extract_low _ _)))))))))))),
      extract_skip _ _ _ _ _ (extract_skip _ _ _ _ _ (extract_skip _ _ _ _ _ (extract_skip _ _ _ _ _ (extract_skip _ _ _ _ _ (extract_skip _ _ _ _ _ (extract_skip _ _ _ _ _ (extract_skip _ _ _ _ _ (extract_skip _ _ _ _ _ (extract_skip _ _ _ _ _ (extract_skip _ _ _ _ _ (extract_low _ _))))))))))),
      extract_skip _ _ _ _ _ (extract_skip _ _ _ _ _ (extract_skip _ _ _ _ _ (extract_skip _ _ _ _ _ (extract_skip _ _ _ _ _ (extract_skip _ _ _ _ _ (extract_skip _ _ _ _ _ (extract_skip _ _ _ _ _ (extract_skip _ _ _ _ _ (extract_skip _ _ _ _ _ (extract_low _ _)))))))))),
      extract_skip _ _ _ _ _ (extract_skip _ _ _ _ _ (extract_skip _ _ _ _ _ (extract_skip _ _ _ _ _ (extract_skip _ _ _ _ _ (extract_skip _ _ _ _ _ (extract_skip _ _ _ _ _ (extract_skip _ _ _ _ _ (extract_skip _ _ _ _ _ (extract_low _ _))))))))),
      extract_skip _ _ _ _ _ (extract_skip _ _ _ _ _ (extract_skip _ _ _ _ _ (extract_skip _ _ _ _ _ (extract_skip _ _ _ _ _ (extract_skip _ _ _ _ _ (extract_skip _ _ _ _ _ (extract_skip _ _ _ _ _ (extract_low _ _)))))))),
      extract_skip _ _ _ _ _ (extract_skip _ _ _ _ _ (extract_skip _ _ _ _ _ (extract_skip _ _ _ _ _ (extract_skip _ _ _ _ _ (extract_skip _ _ _ _ _ (extract_skip _ _ _ _ _ (extract_low _ _))))))),
      extract_skip _ _ _ _ _ (extract_skip _ _ _ _ _ (extract_skip _ _ _ _ _ (extract_skip _ _ _ _ _ (extract_skip _ _ _ _ _ (extract_skip _ _ _ _ _ (extract_low _ _)))))),
      extract_skip _ _ _ _ _ (extract_skip _ _ _ _ _ (extract_skip _ _ _ _ _ (extract_skip _ _ _ _ _ (extract_skip _ _ _ _ _ (extract_low _ _))))),
      extract_skip _ _ _ _ _ (extract_skip _ _ _ _ _ (extract_skip _ _ _ _ _ (extract_skip _ _ _ _ _ (extract_low _ _)))),
      extract_skip _ _ _ _ _ (extract_skip _ _ _ _ _ (extract_skip _ _ _ _ _ (extract_low _ _))),
      extract_skip _ _ _ _ _ (extract_skip _ _ _ _ _ (extract_low _ _)),
      extract_skip _ _ _ _ _ (extract_low _ _),
      extract_low _ _⟩

/-- A Trelix word has its major. -/
theorem wT_major (major : BitVec 6) (t : TFields) : fMajor (wT major t) = major :=
  extract_skip _ _ _ _ _ (extract_skip _ _ _ _ _ (extract_skip _ _ _ _ _ (extract_skip _ _ _ _ _ (extract_all _))))

/-- A Trelix word has its fields. -/
theorem wT_fields (major : BitVec 6) (t : TFields) : tFieldsOf (wT major t) = t := by
  cases t with
  | mk x a b low => exact TFields.mk.injEq .. ▸ ⟨extract_skip _ _ _ _ _ (extract_skip _ _ _ _ _ (extract_skip _ _ _ _ _ (extract_low _ _))),
      extract_skip _ _ _ _ _ (extract_skip _ _ _ _ _ (extract_low _ _)),
      extract_skip _ _ _ _ _ (extract_low _ _),
      extract_low _ _⟩

end Sys2Proof
end

