-- ==== Sys2Proof/Laws/Exec.lean ====
section
/-! SUPPORT. What `exec` calls for each instruction: one equation for each arm, so that no proof unfolds the dispatch. -/

namespace Sys2Proof.Machine
open Sys2Proof

@[simp] theorem exec_add (d : BitVec 6) (a : BitVec 6) (b : BitVec 6) (s : State) :
    exec (.add d a b) s = execAdd d a b s := rfl
@[simp] theorem exec_sub (d : BitVec 6) (a : BitVec 6) (b : BitVec 6) (s : State) :
    exec (.sub d a b) s = execSub d a b s := rfl
@[simp] theorem exec_mul (d : BitVec 6) (a : BitVec 6) (b : BitVec 6) (s : State) :
    exec (.mul d a b) s = execMul d a b s := rfl
@[simp] theorem exec_mulh (d : BitVec 6) (a : BitVec 6) (b : BitVec 6) (s : State) :
    exec (.mulh d a b) s = execMulh d a b s := rfl
@[simp] theorem exec_mulhn (d : BitVec 6) (a : BitVec 6) (b : BitVec 6) (s : State) :
    exec (.mulhn d a b) s = execMulhn d a b s := rfl
@[simp] theorem exec_div (d : BitVec 6) (a : BitVec 6) (b : BitVec 6) (s : State) :
    exec (.div d a b) s = execDiv d a b s := rfl
@[simp] theorem exec_divn (d : BitVec 6) (a : BitVec 6) (b : BitVec 6) (s : State) :
    exec (.divn d a b) s = execDivn d a b s := rfl
@[simp] theorem exec_rem (d : BitVec 6) (a : BitVec 6) (b : BitVec 6) (s : State) :
    exec (.rem d a b) s = execRem d a b s := rfl
@[simp] theorem exec_remn (d : BitVec 6) (a : BitVec 6) (b : BitVec 6) (s : State) :
    exec (.remn d a b) s = execRemn d a b s := rfl
@[simp] theorem exec_and (d : BitVec 6) (a : BitVec 6) (b : BitVec 6) (s : State) :
    exec (.and d a b) s = execAnd d a b s := rfl
@[simp] theorem exec_or (d : BitVec 6) (a : BitVec 6) (b : BitVec 6) (s : State) :
    exec (.or d a b) s = execOr d a b s := rfl
@[simp] theorem exec_xor (d : BitVec 6) (a : BitVec 6) (b : BitVec 6) (s : State) :
    exec (.xor d a b) s = execXor d a b s := rfl
@[simp] theorem exec_andn (d : BitVec 6) (a : BitVec 6) (b : BitVec 6) (s : State) :
    exec (.andn d a b) s = execAndn d a b s := rfl
@[simp] theorem exec_orn (d : BitVec 6) (a : BitVec 6) (b : BitVec 6) (s : State) :
    exec (.orn d a b) s = execOrn d a b s := rfl
@[simp] theorem exec_sll (d : BitVec 6) (a : BitVec 6) (b : BitVec 6) (s : State) :
    exec (.sll d a b) s = execSll d a b s := rfl
@[simp] theorem exec_srl (d : BitVec 6) (a : BitVec 6) (b : BitVec 6) (s : State) :
    exec (.srl d a b) s = execSrl d a b s := rfl
@[simp] theorem exec_sra (d : BitVec 6) (a : BitVec 6) (b : BitVec 6) (s : State) :
    exec (.sra d a b) s = execSra d a b s := rfl
@[simp] theorem exec_rotl (d : BitVec 6) (a : BitVec 6) (b : BitVec 6) (s : State) :
    exec (.rotl d a b) s = execRotl d a b s := rfl
@[simp] theorem exec_rotr (d : BitVec 6) (a : BitVec 6) (b : BitVec 6) (s : State) :
    exec (.rotr d a b) s = execRotr d a b s := rfl
@[simp] theorem exec_min (d : BitVec 6) (a : BitVec 6) (b : BitVec 6) (s : State) :
    exec (.min d a b) s = execMin d a b s := rfl
@[simp] theorem exec_max (d : BitVec 6) (a : BitVec 6) (b : BitVec 6) (s : State) :
    exec (.max d a b) s = execMax d a b s := rfl
@[simp] theorem exec_minn (d : BitVec 6) (a : BitVec 6) (b : BitVec 6) (s : State) :
    exec (.minn d a b) s = execMinn d a b s := rfl
@[simp] theorem exec_maxn (d : BitVec 6) (a : BitVec 6) (b : BitVec 6) (s : State) :
    exec (.maxn d a b) s = execMaxn d a b s := rfl
@[simp] theorem exec_clz (d : BitVec 6) (a : BitVec 6) (s : State) :
    exec (.clz d a) s = execClz d a s := rfl
@[simp] theorem exec_ctz (d : BitVec 6) (a : BitVec 6) (s : State) :
    exec (.ctz d a) s = execCtz d a s := rfl
@[simp] theorem exec_popc (d : BitVec 6) (a : BitVec 6) (s : State) :
    exec (.popc d a) s = execPopc d a s := rfl
@[simp] theorem exec_sextI8 (d : BitVec 6) (a : BitVec 6) (s : State) :
    exec (.sextI8 d a) s = execSextI8 d a s := rfl
@[simp] theorem exec_sextI16 (d : BitVec 6) (a : BitVec 6) (s : State) :
    exec (.sextI16 d a) s = execSextI16 d a s := rfl
@[simp] theorem exec_sextI32 (d : BitVec 6) (a : BitVec 6) (s : State) :
    exec (.sextI32 d a) s = execSextI32 d a s := rfl
@[simp] theorem exec_zextN8 (d : BitVec 6) (a : BitVec 6) (s : State) :
    exec (.zextN8 d a) s = execZextN8 d a s := rfl
@[simp] theorem exec_zextN16 (d : BitVec 6) (a : BitVec 6) (s : State) :
    exec (.zextN16 d a) s = execZextN16 d a s := rfl
@[simp] theorem exec_zextN32 (d : BitVec 6) (a : BitVec 6) (s : State) :
    exec (.zextN32 d a) s = execZextN32 d a s := rfl
@[simp] theorem exec_seq (d : BitVec 6) (a : BitVec 6) (b : BitVec 6) (s : State) :
    exec (.seq d a b) s = execSeq d a b s := rfl
@[simp] theorem exec_sne (d : BitVec 6) (a : BitVec 6) (b : BitVec 6) (s : State) :
    exec (.sne d a b) s = execSne d a b s := rfl
@[simp] theorem exec_slt (d : BitVec 6) (a : BitVec 6) (b : BitVec 6) (s : State) :
    exec (.slt d a b) s = execSlt d a b s := rfl
@[simp] theorem exec_sge (d : BitVec 6) (a : BitVec 6) (b : BitVec 6) (s : State) :
    exec (.sge d a b) s = execSge d a b s := rfl
@[simp] theorem exec_sltn (d : BitVec 6) (a : BitVec 6) (b : BitVec 6) (s : State) :
    exec (.sltn d a b) s = execSltn d a b s := rfl
@[simp] theorem exec_sgen (d : BitVec 6) (a : BitVec 6) (b : BitVec 6) (s : State) :
    exec (.sgen d a b) s = execSgen d a b s := rfl
@[simp] theorem exec_addi (d : BitVec 6) (a : BitVec 6) (imm : BitVec 14) (s : State) :
    exec (.addi d a imm) s = execAddi d a imm s := rfl
@[simp] theorem exec_andi (d : BitVec 6) (a : BitVec 6) (imm : BitVec 14) (s : State) :
    exec (.andi d a imm) s = execAndi d a imm s := rfl
@[simp] theorem exec_ori (d : BitVec 6) (a : BitVec 6) (imm : BitVec 14) (s : State) :
    exec (.ori d a imm) s = execOri d a imm s := rfl
@[simp] theorem exec_xori (d : BitVec 6) (a : BitVec 6) (imm : BitVec 14) (s : State) :
    exec (.xori d a imm) s = execXori d a imm s := rfl
@[simp] theorem exec_slli (d : BitVec 6) (a : BitVec 6) (n : BitVec 6) (s : State) :
    exec (.slli d a n) s = execSlli d a n s := rfl
@[simp] theorem exec_srli (d : BitVec 6) (a : BitVec 6) (n : BitVec 6) (s : State) :
    exec (.srli d a n) s = execSrli d a n s := rfl
@[simp] theorem exec_srai (d : BitVec 6) (a : BitVec 6) (n : BitVec 6) (s : State) :
    exec (.srai d a n) s = execSrai d a n s := rfl
@[simp] theorem exec_rotli (d : BitVec 6) (a : BitVec 6) (n : BitVec 6) (s : State) :
    exec (.rotli d a n) s = execRotli d a n s := rfl
@[simp] theorem exec_slin (d : BitVec 6) (a : BitVec 6) (imm : BitVec 14) (s : State) :
    exec (.slin d a imm) s = execSlin d a imm s := rfl
@[simp] theorem exec_slti (d : BitVec 6) (a : BitVec 6) (imm : BitVec 14) (s : State) :
    exec (.slti d a imm) s = execSlti d a imm s := rfl
@[simp] theorem exec_sltni (d : BitVec 6) (a : BitVec 6) (imm : BitVec 14) (s : State) :
    exec (.sltni d a imm) s = execSltni d a imm s := rfl
@[simp] theorem exec_seqi (d : BitVec 6) (a : BitVec 6) (imm : BitVec 14) (s : State) :
    exec (.seqi d a imm) s = execSeqi d a imm s := rfl
@[simp] theorem exec_ldB64 (d : BitVec 6) (a : BitVec 6) (imm : BitVec 14) (s : State) :
    exec (.ldB64 d a imm) s = execLdB64 d a imm s := rfl
@[simp] theorem exec_ldN32 (d : BitVec 6) (a : BitVec 6) (imm : BitVec 14) (s : State) :
    exec (.ldN32 d a imm) s = execLdN32 d a imm s := rfl
@[simp] theorem exec_stB64 (d : BitVec 6) (a : BitVec 6) (imm : BitVec 14) (s : State) :
    exec (.stB64 d a imm) s = execStB64 d a imm s := rfl
@[simp] theorem exec_stB32 (d : BitVec 6) (a : BitVec 6) (imm : BitVec 14) (s : State) :
    exec (.stB32 d a imm) s = execStB32 d a imm s := rfl
@[simp] theorem exec_ldIndexed (d : BitVec 6) (a : BitVec 6) (b : BitVec 6) (w : BitVec 2) (e : BitVec 1) (s : State) :
    exec (.ldIndexed d a b w e) s = execLdIndexed d a b w e s := rfl
@[simp] theorem exec_ldCons (d : BitVec 6) (a : BitVec 6) (b : BitVec 6) (w : BitVec 2) (e : BitVec 1) (s : State) :
    exec (.ldCons d a b w e) s = execLdCons d a b w e s := rfl
@[simp] theorem exec_ldUnc (d : BitVec 6) (a : BitVec 6) (b : BitVec 6) (w : BitVec 2) (e : BitVec 1) (s : State) :
    exec (.ldUnc d a b w e) s = execLdUnc d a b w e s := rfl
@[simp] theorem exec_ldReaders (d : BitVec 6) (a : BitVec 6) (b : BitVec 6) (w : BitVec 2) (e : BitVec 1) (s : State) :
    exec (.ldReaders d a b w e) s = execLdReaders d a b w e s := rfl
@[simp] theorem exec_stIndexed (d : BitVec 6) (a : BitVec 6) (b : BitVec 6) (w : BitVec 2) (s : State) :
    exec (.stIndexed d a b w) s = execStIndexed d a b w s := rfl
@[simp] theorem exec_stUnc (d : BitVec 6) (a : BitVec 6) (b : BitVec 6) (w : BitVec 2) (s : State) :
    exec (.stUnc d a b w) s = execStUnc d a b w s := rfl
@[simp] theorem exec_pop (d : BitVec 6) (k : BitVec 5) (s : State) :
    exec (.pop d k) s = execPop d k s := rfl
@[simp] theorem exec_push (a : BitVec 6) (k : BitVec 5) (s : State) :
    exec (.push a k) s = execPush a k s := rfl
@[simp] theorem exec_dropc (a : BitVec 6) (b : BitVec 6) (s : State) :
    exec (.dropc a b) s = execDropc a b s := rfl
@[simp] theorem exec_beqz (a : BitVec 6) (imm : BitVec 16) (s : State) :
    exec (.beqz a imm) s = execBeqz a imm s := rfl
@[simp] theorem exec_bnez (a : BitVec 6) (imm : BitVec 16) (s : State) :
    exec (.bnez a imm) s = execBnez a imm s := rfl
@[simp] theorem exec_bltz (a : BitVec 6) (imm : BitVec 16) (s : State) :
    exec (.bltz a imm) s = execBltz a imm s := rfl
@[simp] theorem exec_bgez (a : BitVec 6) (imm : BitVec 16) (s : State) :
    exec (.bgez a imm) s = execBgez a imm s := rfl
@[simp] theorem exec_bgtz (a : BitVec 6) (imm : BitVec 16) (s : State) :
    exec (.bgtz a imm) s = execBgtz a imm s := rfl
@[simp] theorem exec_blez (a : BitVec 6) (imm : BitVec 16) (s : State) :
    exec (.blez a imm) s = execBlez a imm s := rfl
@[simp] theorem exec_bmz (a : BitVec 6) (imm : BitVec 16) (s : State) :
    exec (.bmz a imm) s = execBmz a imm s := rfl
@[simp] theorem exec_bmnz (a : BitVec 6) (imm : BitVec 16) (s : State) :
    exec (.bmnz a imm) s = execBmnz a imm s := rfl
@[simp] theorem exec_jmp (imm : BitVec 26) (s : State) :
    exec (.jmp imm) s = execJmp imm s := rfl
@[simp] theorem exec_call (imm : BitVec 26) (s : State) :
    exec (.call imm) s = execCall imm s := rfl
@[simp] theorem exec_jmpRegister (a : BitVec 6) (s : State) :
    exec (.jmpRegister a) s = execJmpRegister a s := rfl
@[simp] theorem exec_callRegister (a : BitVec 6) (s : State) :
    exec (.callRegister a) s = execCallRegister a s := rfl
@[simp] theorem exec_ret (s : State) :
    exec (.ret) s = execRet s := rfl
@[simp] theorem exec_sexit (s : State) :
    exec (.sexit) s = execSexit s := rfl
@[simp] theorem exec_lrun (n : BitVec 8) (o : BitVec 18) (s : State) :
    exec (.lrun n o) s = execLrun n o s := rfl
@[simp] theorem exec_lrunRegister (a : BitVec 6) (n : BitVec 8) (s : State) :
    exec (.lrunRegister a n) s = execLrunRegister a n s := rfl
@[simp] theorem exec_lrunp (a : BitVec 6) (b : BitVec 6) (n : BitVec 8) (s : State) :
    exec (.lrunp a b n) s = execLrunp a b n s := rfl
@[simp] theorem exec_mpush (a : BitVec 6) (s : State) :
    exec (.mpush a) s = execMpush a s := rfl
@[simp] theorem exec_melse (s : State) :
    exec (.melse) s = execMelse s := rfl
@[simp] theorem exec_mpop (s : State) :
    exec (.mpop) s = execMpop s := rfl
@[simp] theorem exec_mset (a : BitVec 6) (s : State) :
    exec (.mset a) s = execMset a s := rfl
@[simp] theorem exec_mget (d : BitVec 6) (s : State) :
    exec (.mget d) s = execMget d s := rfl
@[simp] theorem exec_lget (d : BitVec 6) (s : State) :
    exec (.lget d) s = execLget d s := rfl
@[simp] theorem exec_plall (k : BitVec 2) (s : State) :
    exec (.plall k) s = execPlall k s := rfl
@[simp] theorem exec_plmask (d : BitVec 6) (k : BitVec 2) (s : State) :
    exec (.plmask d k) s = execPlmask d k s := rfl
@[simp] theorem exec_plget (d : BitVec 6) (s : State) :
    exec (.plget d) s = execPlget d s := rfl
@[simp] theorem exec_copy (m : BitVec 2) (a : BitVec 6) (b : BitVec 6) (c : BitVec 6) (q : BitVec 2) (s : State) :
    exec (.copy m a b c q) s = execCopy m a b c q s := rfl
@[simp] theorem exec_copySlot (m : BitVec 2) (a : BitVec 6) (b : BitVec 6) (c : BitVec 6) (q : BitVec 2) (s : State) :
    exec (.copySlot m a b c q) s = execCopySlot m a b c q s := rfl
@[simp] theorem exec_copyReaders (m : BitVec 2) (a : BitVec 6) (b : BitVec 6) (c : BitVec 6) (q : BitVec 2) (s : State) :
    exec (.copyReaders m a b c q) s = execCopyReaders m a b c q s := rfl
@[simp] theorem exec_mma (n : BitVec 2) (k : BitVec 3) (a : BitVec 6) (z : BitVec 1) (p : BitVec 1) (sa : BitVec 4) (r : BitVec 1) (t : BitVec 4) (s : State) :
    exec (.mma n k a z p sa r t) s = execMma n k a z p sa r t s := rfl
@[simp] theorem exec_mmaVia (n : BitVec 2) (k : BitVec 3) (a : BitVec 6) (z : BitVec 1) (p : BitVec 1) (sa : BitVec 4) (r : BitVec 1) (t : BitVec 4) (q : BitVec 2) (s : State) :
    exec (.mmaVia n k a z p sa r t q) s = execMmaVia n k a z p sa r t q s := rfl
@[simp] theorem exec_acst (n : BitVec 2) (k : BitVec 3) (a : BitVec 6) (b : BitVec 6) (c : BitVec 6) (s : State) :
    exec (.acst n k a b c) s = execAcst n k a b c s := rfl
@[simp] theorem exec_tclaim (slot : BitVec 4) (r : BitVec 8) (s : State) :
    exec (.tclaim slot r) s = execTclaim slot r s := rfl
@[simp] theorem exec_trel (slot : BitVec 4) (s : State) :
    exec (.trel slot) s = execTrel slot s := rfl
@[simp] theorem exec_qfence (m : BitVec 6) (s : State) :
    exec (.qfence m) s = execQfence m s := rfl
@[simp] theorem exec_collRs (a : BitVec 6) (slot : BitVec 4) (c : BitVec 6) (s : State) :
    exec (.collRs a slot c) s = execCollRs a slot c s := rfl
@[simp] theorem exec_collAg (a : BitVec 6) (slot : BitVec 4) (c : BitVec 6) (s : State) :
    exec (.collAg a slot c) s = execCollAg a slot c s := rfl
@[simp] theorem exec_collAr (a : BitVec 6) (slot : BitVec 4) (c : BitVec 6) (s : State) :
    exec (.collAr a slot c) s = execCollAr a slot c s := rfl
@[simp] theorem exec_collBc (a : BitVec 6) (slot : BitVec 4) (c : BitVec 6) (s : State) :
    exec (.collBc a slot c) s = execCollBc a slot c s := rfl
@[simp] theorem exec_cpush (d : BitVec 6) (a : BitVec 6) (p : BitVec 3) (s : State) :
    exec (.cpush d a p) s = execCpush d a p s := rfl
@[simp] theorem exec_barinit (d : BitVec 6) (a : BitVec 6) (b : BitVec 6) (s : State) :
    exec (.barinit d a b) s = execBarinit d a b s := rfl
@[simp] theorem exec_barreg (a : BitVec 6) (s : State) :
    exec (.barreg a) s = execBarreg a s := rfl
@[simp] theorem exec_bararr (a : BitVec 6) (s : State) :
    exec (.bararr a) s = execBararr a s := rfl
@[simp] theorem exec_barexp (a : BitVec 6) (b : BitVec 6) (s : State) :
    exec (.barexp a b) s = execBarexp a b s := rfl
@[simp] theorem exec_bardrop (a : BitVec 6) (s : State) :
    exec (.bardrop a) s = execBardrop a s := rfl
@[simp] theorem exec_barwait (d : BitVec 6) (a : BitVec 6) (b : BitVec 6) (l : BitVec 8) (s : State) :
    exec (.barwait d a b l) s = execBarwait d a b l s := rfl
@[simp] theorem exec_acq (d : BitVec 6) (a : BitVec 6) (scope : BitVec 3) (s : State) :
    exec (.acq d a scope) s = execAcq d a scope s := rfl
@[simp] theorem exec_rel (a : BitVec 6) (scope : BitVec 3) (s : State) :
    exec (.rel a scope) s = execRel a scope s := rfl
@[simp] theorem exec_rbind (d : BitVec 6) (a : BitVec 6) (b : BitVec 6) (s : State) :
    exec (.rbind d a b) s = execRbind d a b s := rfl
@[simp] theorem exec_fence (scope : BitVec 3) (s : State) :
    exec (.fence scope) s = execFence scope s := rfl
@[simp] theorem exec_atomB32Add (d : BitVec 6) (a : BitVec 6) (b : BitVec 6) (o : BitVec 4) (s : State) :
    exec (.atomB32Add d a b o) s = execAtomB32Add d a b o s := rfl
@[simp] theorem exec_atomB32Min (d : BitVec 6) (a : BitVec 6) (b : BitVec 6) (o : BitVec 4) (s : State) :
    exec (.atomB32Min d a b o) s = execAtomB32Min d a b o s := rfl
@[simp] theorem exec_atomB32Max (d : BitVec 6) (a : BitVec 6) (b : BitVec 6) (o : BitVec 4) (s : State) :
    exec (.atomB32Max d a b o) s = execAtomB32Max d a b o s := rfl
@[simp] theorem exec_atomB32Minn (d : BitVec 6) (a : BitVec 6) (b : BitVec 6) (o : BitVec 4) (s : State) :
    exec (.atomB32Minn d a b o) s = execAtomB32Minn d a b o s := rfl
@[simp] theorem exec_atomB32Maxn (d : BitVec 6) (a : BitVec 6) (b : BitVec 6) (o : BitVec 4) (s : State) :
    exec (.atomB32Maxn d a b o) s = execAtomB32Maxn d a b o s := rfl
@[simp] theorem exec_atomB32And (d : BitVec 6) (a : BitVec 6) (b : BitVec 6) (o : BitVec 4) (s : State) :
    exec (.atomB32And d a b o) s = execAtomB32And d a b o s := rfl
@[simp] theorem exec_atomB32Or (d : BitVec 6) (a : BitVec 6) (b : BitVec 6) (o : BitVec 4) (s : State) :
    exec (.atomB32Or d a b o) s = execAtomB32Or d a b o s := rfl
@[simp] theorem exec_atomB32Xor (d : BitVec 6) (a : BitVec 6) (b : BitVec 6) (o : BitVec 4) (s : State) :
    exec (.atomB32Xor d a b o) s = execAtomB32Xor d a b o s := rfl
@[simp] theorem exec_atomB32Xchg (d : BitVec 6) (a : BitVec 6) (b : BitVec 6) (o : BitVec 4) (s : State) :
    exec (.atomB32Xchg d a b o) s = execAtomB32Xchg d a b o s := rfl
@[simp] theorem exec_atomB32Cas (d : BitVec 6) (a : BitVec 6) (b : BitVec 6) (o : BitVec 4) (s : State) :
    exec (.atomB32Cas d a b o) s = execAtomB32Cas d a b o s := rfl
@[simp] theorem exec_atomB32Fadd (d : BitVec 6) (a : BitVec 6) (b : BitVec 6) (o : BitVec 4) (s : State) :
    exec (.atomB32Fadd d a b o) s = execAtomB32Fadd d a b o s := rfl
@[simp] theorem exec_atomB32Bf16x2add (d : BitVec 6) (a : BitVec 6) (b : BitVec 6) (o : BitVec 4) (s : State) :
    exec (.atomB32Bf16x2add d a b o) s = execAtomB32Bf16x2add d a b o s := rfl
@[simp] theorem exec_atomN64Add (d : BitVec 6) (a : BitVec 6) (b : BitVec 6) (o : BitVec 4) (s : State) :
    exec (.atomN64Add d a b o) s = execAtomN64Add d a b o s := rfl
@[simp] theorem exec_atomN64Min (d : BitVec 6) (a : BitVec 6) (b : BitVec 6) (o : BitVec 4) (s : State) :
    exec (.atomN64Min d a b o) s = execAtomN64Min d a b o s := rfl
@[simp] theorem exec_atomN64Max (d : BitVec 6) (a : BitVec 6) (b : BitVec 6) (o : BitVec 4) (s : State) :
    exec (.atomN64Max d a b o) s = execAtomN64Max d a b o s := rfl
@[simp] theorem exec_atomN64Minn (d : BitVec 6) (a : BitVec 6) (b : BitVec 6) (o : BitVec 4) (s : State) :
    exec (.atomN64Minn d a b o) s = execAtomN64Minn d a b o s := rfl
@[simp] theorem exec_atomN64Maxn (d : BitVec 6) (a : BitVec 6) (b : BitVec 6) (o : BitVec 4) (s : State) :
    exec (.atomN64Maxn d a b o) s = execAtomN64Maxn d a b o s := rfl
@[simp] theorem exec_atomN64And (d : BitVec 6) (a : BitVec 6) (b : BitVec 6) (o : BitVec 4) (s : State) :
    exec (.atomN64And d a b o) s = execAtomN64And d a b o s := rfl
@[simp] theorem exec_atomN64Or (d : BitVec 6) (a : BitVec 6) (b : BitVec 6) (o : BitVec 4) (s : State) :
    exec (.atomN64Or d a b o) s = execAtomN64Or d a b o s := rfl
@[simp] theorem exec_atomN64Xor (d : BitVec 6) (a : BitVec 6) (b : BitVec 6) (o : BitVec 4) (s : State) :
    exec (.atomN64Xor d a b o) s = execAtomN64Xor d a b o s := rfl
@[simp] theorem exec_atomN64Xchg (d : BitVec 6) (a : BitVec 6) (b : BitVec 6) (o : BitVec 4) (s : State) :
    exec (.atomN64Xchg d a b o) s = execAtomN64Xchg d a b o s := rfl
@[simp] theorem exec_atomN64Cas (d : BitVec 6) (a : BitVec 6) (b : BitVec 6) (o : BitVec 4) (s : State) :
    exec (.atomN64Cas d a b o) s = execAtomN64Cas d a b o s := rfl
@[simp] theorem exec_rsend (a : BitVec 6) (v : BitVec 8) (s : State) :
    exec (.rsend a v) s = execRsend a v s := rfl
@[simp] theorem exec_sysrd (a : BitVec 6) (n : BitVec 14) (s : State) :
    exec (.sysrd a n) s = execSysrd a n s := rfl
@[simp] theorem exec_step (a : BitVec 6) (s : State) :
    exec (.step a) s = execStep a s := rfl
@[simp] theorem exec_undomark (a : BitVec 6) (s : State) :
    exec (.undomark a) s = execUndomark a s := rfl
@[simp] theorem exec_bkmode (a : BitVec 6) (s : State) :
    exec (.bkmode a) s = execBkmode a s := rfl
@[simp] theorem exec_brk (c : BitVec 14) (s : State) :
    exec (.brk c) s = execBrk c s := rfl
@[simp] theorem exec_tret (s : State) :
    exec (.tret) s = execTret s := rfl
@[simp] theorem exec_nop (s : State) :
    exec (.nop) s = execNop s := rfl
@[simp] theorem exec_hrd (d : BitVec 6) (b : BitVec 6) (t : BitVec 3) (s : State) :
    exec (.hrd d b t) s = execHrd d b t s := rfl
@[simp] theorem exec_hclr (a : BitVec 6) (t : BitVec 3) (s : State) :
    exec (.hclr a t) s = execHclr a t s := rfl
@[simp] theorem exec_vadd (x : LFields) (s : State) :
    exec (.vadd x) s = execVadd x s := rfl
@[simp] theorem exec_vsub (x : LFields) (s : State) :
    exec (.vsub x) s = execVsub x s := rfl
@[simp] theorem exec_vadds (x : LFields) (s : State) :
    exec (.vadds x) s = execVadds x s := rfl
@[simp] theorem exec_vsubs (x : LFields) (s : State) :
    exec (.vsubs x) s = execVsubs x s := rfl
@[simp] theorem exec_vmul (x : LFields) (s : State) :
    exec (.vmul x) s = execVmul x s := rfl
@[simp] theorem exec_vmulh (x : LFields) (s : State) :
    exec (.vmulh x) s = execVmulh x s := rfl
@[simp] theorem exec_vmad (x : LFields) (s : State) :
    exec (.vmad x) s = execVmad x s := rfl
@[simp] theorem exec_vdiv (x : LFields) (s : State) :
    exec (.vdiv x) s = execVdiv x s := rfl
@[simp] theorem exec_vrem (x : LFields) (s : State) :
    exec (.vrem x) s = execVrem x s := rfl
@[simp] theorem exec_vmin (x : LFields) (s : State) :
    exec (.vmin x) s = execVmin x s := rfl
@[simp] theorem exec_vmax (x : LFields) (s : State) :
    exec (.vmax x) s = execVmax x s := rfl
@[simp] theorem exec_vabs (x : LFields) (s : State) :
    exec (.vabs x) s = execVabs x s := rfl
@[simp] theorem exec_vabsd (x : LFields) (s : State) :
    exec (.vabsd x) s = execVabsd x s := rfl
@[simp] theorem exec_vand (x : LFields) (s : State) :
    exec (.vand x) s = execVand x s := rfl
@[simp] theorem exec_vor (x : LFields) (s : State) :
    exec (.vor x) s = execVor x s := rfl
@[simp] theorem exec_vxor (x : LFields) (s : State) :
    exec (.vxor x) s = execVxor x s := rfl
@[simp] theorem exec_vandn (x : LFields) (s : State) :
    exec (.vandn x) s = execVandn x s := rfl
@[simp] theorem exec_vnot (x : LFields) (s : State) :
    exec (.vnot x) s = execVnot x s := rfl
@[simp] theorem exec_vsel (x : LFields) (s : State) :
    exec (.vsel x) s = execVsel x s := rfl
@[simp] theorem exec_vshl (x : LFields) (s : State) :
    exec (.vshl x) s = execVshl x s := rfl
@[simp] theorem exec_vshr (x : LFields) (s : State) :
    exec (.vshr x) s = execVshr x s := rfl
@[simp] theorem exec_vrotl (x : LFields) (s : State) :
    exec (.vrotl x) s = execVrotl x s := rfl
@[simp] theorem exec_vclz (x : LFields) (s : State) :
    exec (.vclz x) s = execVclz x s := rfl
@[simp] theorem exec_vpopc (x : LFields) (s : State) :
    exec (.vpopc x) s = execVpopc x s := rfl
@[simp] theorem exec_vbrev (x : LFields) (s : State) :
    exec (.vbrev x) s = execVbrev x s := rfl
@[simp] theorem exec_vceq (x : LFields) (s : State) :
    exec (.vceq x) s = execVceq x s := rfl
@[simp] theorem exec_vcne (x : LFields) (s : State) :
    exec (.vcne x) s = execVcne x s := rfl
@[simp] theorem exec_vclt (x : LFields) (s : State) :
    exec (.vclt x) s = execVclt x s := rfl
@[simp] theorem exec_vcle (x : LFields) (s : State) :
    exec (.vcle x) s = execVcle x s := rfl
@[simp] theorem exec_vcgt (x : LFields) (s : State) :
    exec (.vcgt x) s = execVcgt x s := rfl
@[simp] theorem exec_vcge (x : LFields) (s : State) :
    exec (.vcge x) s = execVcge x s := rfl
@[simp] theorem exec_vmov (x : LFields) (s : State) :
    exec (.vmov x) s = execVmov x s := rfl
@[simp] theorem exec_vlane (x : LFields) (s : State) :
    exec (.vlane x) s = execVlane x s := rfl
@[simp] theorem exec_vgid (x : LFields) (s : State) :
    exec (.vgid x) s = execVgid x s := rfl
@[simp] theorem exec_vfadd (x : LFields) (s : State) :
    exec (.vfadd x) s = execVfadd x s := rfl
@[simp] theorem exec_vfsub (x : LFields) (s : State) :
    exec (.vfsub x) s = execVfsub x s := rfl
@[simp] theorem exec_vfmul (x : LFields) (s : State) :
    exec (.vfmul x) s = execVfmul x s := rfl
@[simp] theorem exec_vfma (x : LFields) (s : State) :
    exec (.vfma x) s = execVfma x s := rfl
@[simp] theorem exec_vfms (x : LFields) (s : State) :
    exec (.vfms x) s = execVfms x s := rfl
@[simp] theorem exec_vfnma (x : LFields) (s : State) :
    exec (.vfnma x) s = execVfnma x s := rfl
@[simp] theorem exec_vfmin (x : LFields) (s : State) :
    exec (.vfmin x) s = execVfmin x s := rfl
@[simp] theorem exec_vfmax (x : LFields) (s : State) :
    exec (.vfmax x) s = execVfmax x s := rfl
@[simp] theorem exec_vfdiv (x : LFields) (s : State) :
    exec (.vfdiv x) s = execVfdiv x s := rfl
@[simp] theorem exec_vfsqrt (x : LFields) (s : State) :
    exec (.vfsqrt x) s = execVfsqrt x s := rfl
@[simp] theorem exec_vexp2 (x : LFields) (s : State) :
    exec (.vexp2 x) s = execVexp2 x s := rfl
@[simp] theorem exec_vlog2 (x : LFields) (s : State) :
    exec (.vlog2 x) s = execVlog2 x s := rfl
@[simp] theorem exec_vfabs (x : LFields) (s : State) :
    exec (.vfabs x) s = execVfabs x s := rfl
@[simp] theorem exec_vfneg (x : LFields) (s : State) :
    exec (.vfneg x) s = execVfneg x s := rfl
@[simp] theorem exec_vfcsgn (x : LFields) (s : State) :
    exec (.vfcsgn x) s = execVfcsgn x s := rfl
@[simp] theorem exec_vfceq (x : LFields) (s : State) :
    exec (.vfceq x) s = execVfceq x s := rfl
@[simp] theorem exec_vfcne (x : LFields) (s : State) :
    exec (.vfcne x) s = execVfcne x s := rfl
@[simp] theorem exec_vfclt (x : LFields) (s : State) :
    exec (.vfclt x) s = execVfclt x s := rfl
@[simp] theorem exec_vfcle (x : LFields) (s : State) :
    exec (.vfcle x) s = execVfcle x s := rfl
@[simp] theorem exec_vfcun (x : LFields) (s : State) :
    exec (.vfcun x) s = execVfcun x s := rfl
@[simp] theorem exec_vcvt (x : LFields) (s : State) :
    exec (.vcvt x) s = execVcvt x s := rfl
@[simp] theorem exec_vcvtp (x : LFields) (s : State) :
    exec (.vcvtp x) s = execVcvtp x s := rfl
@[simp] theorem exec_vcvtu (x : LFields) (s : State) :
    exec (.vcvtu x) s = execVcvtu x s := rfl
@[simp] theorem exec_vmxpack (x : LFields) (s : State) :
    exec (.vmxpack x) s = execVmxpack x s := rfl
@[simp] theorem exec_vmxunpk (x : LFields) (s : State) :
    exec (.vmxunpk x) s = execVmxunpk x s := rfl
@[simp] theorem exec_vf4pack (x : LFields) (s : State) :
    exec (.vf4pack x) s = execVf4pack x s := rfl
@[simp] theorem exec_vf4unpk (x : LFields) (s : State) :
    exec (.vf4unpk x) s = execVf4unpk x s := rfl
@[simp] theorem exec_vrnd (x : LFields) (s : State) :
    exec (.vrnd x) s = execVrnd x s := rfl
@[simp] theorem exec_vld (x : LFields) (s : State) :
    exec (.vld x) s = execVld x s := rfl
@[simp] theorem exec_vldCons (x : LFields) (s : State) :
    exec (.vldCons x) s = execVldCons x s := rfl
@[simp] theorem exec_vldUnc (x : LFields) (s : State) :
    exec (.vldUnc x) s = execVldUnc x s := rfl
@[simp] theorem exec_vldReaders (x : LFields) (s : State) :
    exec (.vldReaders x) s = execVldReaders x s := rfl
@[simp] theorem exec_vst (x : LFields) (s : State) :
    exec (.vst x) s = execVst x s := rfl
@[simp] theorem exec_vstUnc (x : LFields) (s : State) :
    exec (.vstUnc x) s = execVstUnc x s := rfl
@[simp] theorem exec_vpush (x : LFields) (s : State) :
    exec (.vpush x) s = execVpush x s := rfl
@[simp] theorem exec_vpop (x : LFields) (s : State) :
    exec (.vpop x) s = execVpop x s := rfl
@[simp] theorem exec_vatomAdd (x : LFields) (s : State) :
    exec (.vatomAdd x) s = execVatomAdd x s := rfl
@[simp] theorem exec_vatomMin (x : LFields) (s : State) :
    exec (.vatomMin x) s = execVatomMin x s := rfl
@[simp] theorem exec_vatomMax (x : LFields) (s : State) :
    exec (.vatomMax x) s = execVatomMax x s := rfl
@[simp] theorem exec_vatomMinn (x : LFields) (s : State) :
    exec (.vatomMinn x) s = execVatomMinn x s := rfl
@[simp] theorem exec_vatomMaxn (x : LFields) (s : State) :
    exec (.vatomMaxn x) s = execVatomMaxn x s := rfl
@[simp] theorem exec_vatomAnd (x : LFields) (s : State) :
    exec (.vatomAnd x) s = execVatomAnd x s := rfl
@[simp] theorem exec_vatomOr (x : LFields) (s : State) :
    exec (.vatomOr x) s = execVatomOr x s := rfl
@[simp] theorem exec_vatomXor (x : LFields) (s : State) :
    exec (.vatomXor x) s = execVatomXor x s := rfl
@[simp] theorem exec_vatomXchg (x : LFields) (s : State) :
    exec (.vatomXchg x) s = execVatomXchg x s := rfl
@[simp] theorem exec_vatomCas (x : LFields) (s : State) :
    exec (.vatomCas x) s = execVatomCas x s := rfl
@[simp] theorem exec_vatomFadd (x : LFields) (s : State) :
    exec (.vatomFadd x) s = execVatomFadd x s := rfl
@[simp] theorem exec_vatomBf16x2add (x : LFields) (s : State) :
    exec (.vatomBf16x2add x) s = execVatomBf16x2add x s := rfl
@[simp] theorem exec_vshufXor (x : LFields) (s : State) :
    exec (.vshufXor x) s = execVshufXor x s := rfl
@[simp] theorem exec_vshufRot (x : LFields) (s : State) :
    exec (.vshufRot x) s = execVshufRot x s := rfl
@[simp] theorem exec_vshufDn (x : LFields) (s : State) :
    exec (.vshufDn x) s = execVshufDn x s := rfl
@[simp] theorem exec_vshufUp (x : LFields) (s : State) :
    exec (.vshufUp x) s = execVshufUp x s := rfl
@[simp] theorem exec_vperm (x : LFields) (s : State) :
    exec (.vperm x) s = execVperm x s := rfl
@[simp] theorem exec_vbcast (x : LFields) (s : State) :
    exec (.vbcast x) s = execVbcast x s := rfl
@[simp] theorem exec_vredadd (x : LFields) (s : State) :
    exec (.vredadd x) s = execVredadd x s := rfl
@[simp] theorem exec_vredmin (x : LFields) (s : State) :
    exec (.vredmin x) s = execVredmin x s := rfl
@[simp] theorem exec_vredmax (x : LFields) (s : State) :
    exec (.vredmax x) s = execVredmax x s := rfl
@[simp] theorem exec_vredand (x : LFields) (s : State) :
    exec (.vredand x) s = execVredand x s := rfl
@[simp] theorem exec_vredor (x : LFields) (s : State) :
    exec (.vredor x) s = execVredor x s := rfl
@[simp] theorem exec_vscan (x : LFields) (s : State) :
    exec (.vscan x) s = execVscan x s := rfl
@[simp] theorem exec_vrfl (x : LFields) (s : State) :
    exec (.vrfl x) s = execVrfl x s := rfl
@[simp] theorem exec_vrul (x : LFields) (s : State) :
    exec (.vrul x) s = execVrul x s := rfl
@[simp] theorem exec_vplset (x : LFields) (s : State) :
    exec (.vplset x) s = execVplset x s := rfl
@[simp] theorem exec_vpl (x : LFields) (s : State) :
    exec (.vpl x) s = execVpl x s := rfl
@[simp] theorem exec_vexit (s : State) :
    exec (.vexit) s = execVexit s := rfl
@[simp] theorem exec_lnop (s : State) :
    exec (.lnop) s = execLnop s := rfl
@[simp] theorem exec_trelixAdd (s : State) :
    exec (.trelixAdd) s = execTrelixAdd s := rfl
@[simp] theorem exec_trelixSub (s : State) :
    exec (.trelixSub) s = execTrelixSub s := rfl
@[simp] theorem exec_trelixMul (s : State) :
    exec (.trelixMul) s = execTrelixMul s := rfl
@[simp] theorem exec_trelixAnd (s : State) :
    exec (.trelixAnd) s = execTrelixAnd s := rfl
@[simp] theorem exec_trelixOr (s : State) :
    exec (.trelixOr) s = execTrelixOr s := rfl
@[simp] theorem exec_trelixXor (s : State) :
    exec (.trelixXor) s = execTrelixXor s := rfl
@[simp] theorem exec_trelixSll (s : State) :
    exec (.trelixSll) s = execTrelixSll s := rfl
@[simp] theorem exec_trelixSrl (s : State) :
    exec (.trelixSrl) s = execTrelixSrl s := rfl
@[simp] theorem exec_trelixSra (s : State) :
    exec (.trelixSra) s = execTrelixSra s := rfl
@[simp] theorem exec_trelixSlt (s : State) :
    exec (.trelixSlt) s = execTrelixSlt s := rfl
@[simp] theorem exec_trelixSltn (s : State) :
    exec (.trelixSltn) s = execTrelixSltn s := rfl
@[simp] theorem exec_trelixSeq (s : State) :
    exec (.trelixSeq) s = execTrelixSeq s := rfl
@[simp] theorem exec_trelixAddi (s : State) :
    exec (.trelixAddi) s = execTrelixAddi s := rfl
@[simp] theorem exec_trelixSlin (s : State) :
    exec (.trelixSlin) s = execTrelixSlin s := rfl
@[simp] theorem exec_trelixLd (s : State) :
    exec (.trelixLd) s = execTrelixLd s := rfl
@[simp] theorem exec_trelixSt (s : State) :
    exec (.trelixSt) s = execTrelixSt s := rfl
@[simp] theorem exec_trelixBeq (s : State) :
    exec (.trelixBeq) s = execTrelixBeq s := rfl
@[simp] theorem exec_trelixBne (s : State) :
    exec (.trelixBne) s = execTrelixBne s := rfl
@[simp] theorem exec_trelixBlt (s : State) :
    exec (.trelixBlt) s = execTrelixBlt s := rfl
@[simp] theorem exec_trelixBltn (s : State) :
    exec (.trelixBltn) s = execTrelixBltn s := rfl
@[simp] theorem exec_trelixJal (s : State) :
    exec (.trelixJal) s = execTrelixJal s := rfl
@[simp] theorem exec_trelixJr (s : State) :
    exec (.trelixJr) s = execTrelixJr s := rfl
@[simp] theorem exec_trelixHalt (s : State) :
    exec (.trelixHalt) s = execTrelixHalt s := rfl
@[simp] theorem exec_trelixSend (s : State) :
    exec (.trelixSend) s = execTrelixSend s := rfl
@[simp] theorem exec_trelixRecv (s : State) :
    exec (.trelixRecv) s = execTrelixRecv s := rfl
@[simp] theorem exec_trelixEnc (s : State) :
    exec (.trelixEnc) s = execTrelixEnc s := rfl
@[simp] theorem exec_trelixDec (s : State) :
    exec (.trelixDec) s = execTrelixDec s := rfl
@[simp] theorem exec_trelixSadd (s : State) :
    exec (.trelixSadd) s = execTrelixSadd s := rfl
@[simp] theorem exec_trelixRld (s : State) :
    exec (.trelixRld) s = execTrelixRld s := rfl
@[simp] theorem exec_trelixRst (s : State) :
    exec (.trelixRst) s = execTrelixRst s := rfl
@[simp] theorem exec_trelixRsave (s : State) :
    exec (.trelixRsave) s = execTrelixRsave s := rfl
@[simp] theorem exec_trelixRload (s : State) :
    exec (.trelixRload) s = execTrelixRload s := rfl
@[simp] theorem exec_trelixGnew (s : State) :
    exec (.trelixGnew) s = execTrelixGnew s := rfl
@[simp] theorem exec_trelixGret (s : State) :
    exec (.trelixGret) s = execTrelixGret s := rfl
@[simp] theorem exec_trelixGwatch (s : State) :
    exec (.trelixGwatch) s = execTrelixGwatch s := rfl
@[simp] theorem exec_trelixBwait (s : State) :
    exec (.trelixBwait) s = execTrelixBwait s := rfl
@[simp] theorem exec_trelixBarr (s : State) :
    exec (.trelixBarr) s = execTrelixBarr s := rfl
@[simp] theorem exec_trelixBland (s : State) :
    exec (.trelixBland) s = execTrelixBland s := rfl
@[simp] theorem exec_trelixHopen (s : State) :
    exec (.trelixHopen) s = execTrelixHopen s := rfl
@[simp] theorem exec_trelixUpd (s : State) :
    exec (.trelixUpd) s = execTrelixUpd s := rfl
@[simp] theorem exec_trelixHclose (s : State) :
    exec (.trelixHclose) s = execTrelixHclose s := rfl
@[simp] theorem exec_trelixHcommit (s : State) :
    exec (.trelixHcommit) s = execTrelixHcommit s := rfl
@[simp] theorem exec_trelixHabort (s : State) :
    exec (.trelixHabort) s = execTrelixHabort s := rfl
@[simp] theorem exec_trelixWfetch (s : State) :
    exec (.trelixWfetch) s = execTrelixWfetch s := rfl
@[simp] theorem exec_fencePacket (s : State) :
    exec (.fencePacket) s = execFencePacket s := rfl
@[simp] theorem exec_release (s : State) :
    exec (.release) s = execRelease s := rfl
@[simp] theorem exec_acquire (s : State) :
    exec (.acquire) s = execAcquire s := rfl
@[simp] theorem exec_wait (s : State) :
    exec (.wait) s = execWait s := rfl
@[simp] theorem exec_resume (s : State) :
    exec (.resume) s = execResume s := rfl
@[simp] theorem exec_launch (s : State) :
    exec (.launch) s = execLaunch s := rfl
@[simp] theorem exec_copyPacket (s : State) :
    exec (.copyPacket) s = execCopyPacket s := rfl
@[simp] theorem exec_admitKey (s : State) :
    exec (.admitKey) s = execAdmitKey s := rfl
@[simp] theorem exec_retire (s : State) :
    exec (.retire) s = execRetire s := rfl
@[simp] theorem exec_shootdown (s : State) :
    exec (.shootdown) s = execShootdown s := rfl
@[simp] theorem exec_answer (s : State) :
    exec (.answer) s = execAnswer s := rfl
@[simp] theorem exec_power (s : State) :
    exec (.power) s = execPower s := rfl
@[simp] theorem exec_fpstart (s : State) :
    exec (.fpstart) s = execFpstart s := rfl
@[simp] theorem exec_fpstop (s : State) :
    exec (.fpstop) s = execFpstop s := rfl
@[simp] theorem exec_qtail (s : State) :
    exec (.qtail) s = execQtail s := rfl
@[simp] theorem exec_actrl (s : State) :
    exec (.actrl) s = execActrl s := rfl
@[simp] theorem exec_mgmtRegisterWrite (s : State) :
    exec (.mgmtRegisterWrite) s = execMgmtRegisterWrite s := rfl
@[simp] theorem exec_attestationDone (s : State) :
    exec (.attestationDone) s = execAttestationDone s := rfl
@[simp] theorem exec_loadFill (s : State) :
    exec (.loadFill) s = execLoadFill s := rfl
@[simp] theorem exec_fifoPopFill (s : State) :
    exec (.fifoPopFill) s = execFifoPopFill s := rfl
@[simp] theorem exec_fifoPushResume (s : State) :
    exec (.fifoPushResume) s = execFifoPushResume s := rfl
@[simp] theorem exec_bankSwitchComplete (s : State) :
    exec (.bankSwitchComplete) s = execBankSwitchComplete s := rfl
@[simp] theorem exec_plainWindowExpire (s : State) :
    exec (.plainWindowExpire) s = execPlainWindowExpire s := rfl
@[simp] theorem exec_dirtyLineWriteback (s : State) :
    exec (.dirtyLineWriteback) s = execDirtyLineWriteback s := rfl
@[simp] theorem exec_quadMergeRequest (s : State) :
    exec (.quadMergeRequest) s = execQuadMergeRequest s := rfl
@[simp] theorem exec_homeRead (s : State) :
    exec (.homeRead) s = execHomeRead s := rfl
@[simp] theorem exec_homeConsumingAccess (s : State) :
    exec (.homeConsumingAccess) s = execHomeConsumingAccess s := rfl
@[simp] theorem exec_homeCountedFill (s : State) :
    exec (.homeCountedFill) s = execHomeCountedFill s := rfl
@[simp] theorem exec_countedFillWaitEnd (s : State) :
    exec (.countedFillWaitEnd) s = execCountedFillWaitEnd s := rfl
@[simp] theorem exec_homeStoreCheck (s : State) :
    exec (.homeStoreCheck) s = execHomeStoreCheck s := rfl
@[simp] theorem exec_homeStoreData (s : State) :
    exec (.homeStoreData) s = execHomeStoreData s := rfl
@[simp] theorem exec_homeAtomic (s : State) :
    exec (.homeAtomic) s = execHomeAtomic s := rfl
@[simp] theorem exec_releaseMarkerClear (s : State) :
    exec (.releaseMarkerClear) s = execReleaseMarkerClear s := rfl
@[simp] theorem exec_homeDropc (s : State) :
    exec (.homeDropc) s = execHomeDropc s := rfl
@[simp] theorem exec_barrierLanding (s : State) :
    exec (.barrierLanding) s = execBarrierLanding s := rfl
@[simp] theorem exec_barwaitEnd (s : State) :
    exec (.barwaitEnd) s = execBarwaitEnd s := rfl
@[simp] theorem exec_barwaitTimeout (s : State) :
    exec (.barwaitTimeout) s = execBarwaitTimeout s := rfl
@[simp] theorem exec_copyRun (s : State) :
    exec (.copyRun) s = execCopyRun s := rfl
@[simp] theorem exec_mmaRun (s : State) :
    exec (.mmaRun) s = execMmaRun s := rfl
@[simp] theorem exec_mmaDone (s : State) :
    exec (.mmaDone) s = execMmaDone s := rfl
@[simp] theorem exec_acstRun (s : State) :
    exec (.acstRun) s = execAcstRun s := rfl
@[simp] theorem exec_collEntryStart (s : State) :
    exec (.collEntryStart) s = execCollEntryStart s := rfl
@[simp] theorem exec_shadowSwap (s : State) :
    exec (.shadowSwap) s = execShadowSwap s := rfl
@[simp] theorem exec_swapComplete (s : State) :
    exec (.swapComplete) s = execSwapComplete s := rfl
@[simp] theorem exec_spillComplete (s : State) :
    exec (.spillComplete) s = execSpillComplete s := rfl
@[simp] theorem exec_spillFault (s : State) :
    exec (.spillFault) s = execSpillFault s := rfl
@[simp] theorem exec_spillResume (s : State) :
    exec (.spillResume) s = execSpillResume s := rfl
@[simp] theorem exec_preloadComplete (s : State) :
    exec (.preloadComplete) s = execPreloadComplete s := rfl
@[simp] theorem exec_deckPlace (s : State) :
    exec (.deckPlace) s = execDeckPlace s := rfl
@[simp] theorem exec_deckStart (s : State) :
    exec (.deckStart) s = execDeckStart s := rfl
@[simp] theorem exec_gangReserve (s : State) :
    exec (.gangReserve) s = execGangReserve s := rfl
@[simp] theorem exec_gangCommit (s : State) :
    exec (.gangCommit) s = execGangCommit s := rfl
@[simp] theorem exec_deckRetire (s : State) :
    exec (.deckRetire) s = execDeckRetire s := rfl
@[simp] theorem exec_delayedRingPush (s : State) :
    exec (.delayedRingPush) s = execDelayedRingPush s := rfl
@[simp] theorem exec_launchComplete (s : State) :
    exec (.launchComplete) s = execLaunchComplete s := rfl
@[simp] theorem exec_resumePlacement (s : State) :
    exec (.resumePlacement) s = execResumePlacement s := rfl
@[simp] theorem exec_quantumEnd (s : State) :
    exec (.quantumEnd) s = execQuantumEnd s := rfl
@[simp] theorem exec_phaseStart (s : State) :
    exec (.phaseStart) s = execPhaseStart s := rfl
@[simp] theorem exec_noProgress (s : State) :
    exec (.noProgress) s = execNoProgress s := rfl
@[simp] theorem exec_walkComplete (s : State) :
    exec (.walkComplete) s = execWalkComplete s := rfl
@[simp] theorem exec_shootdownBoundExpire (s : State) :
    exec (.shootdownBoundExpire) s = execShootdownBoundExpire s := rfl
@[simp] theorem exec_shootdownRemoval (s : State) :
    exec (.shootdownRemoval) s = execShootdownRemoval s := rfl
@[simp] theorem exec_meshContribution (s : State) :
    exec (.meshContribution) s = execMeshContribution s := rfl
@[simp] theorem exec_meshPartial (s : State) :
    exec (.meshPartial) s = execMeshPartial s := rfl
@[simp] theorem exec_startNotice (s : State) :
    exec (.startNotice) s = execStartNotice s := rfl
@[simp] theorem exec_reductionTimeout (s : State) :
    exec (.reductionTimeout) s = execReductionTimeout s := rfl
@[simp] theorem exec_hostCxlMemAccess (s : State) :
    exec (.hostCxlMemAccess) s = execHostCxlMemAccess s := rfl
@[simp] theorem exec_acquireTimeout (s : State) :
    exec (.acquireTimeout) s = execAcquireTimeout s := rfl
@[simp] theorem exec_waitTimeout (s : State) :
    exec (.waitTimeout) s = execWaitTimeout s := rfl
@[simp] theorem exec_flitCrcFail (s : State) :
    exec (.flitCrcFail) s = execFlitCrcFail s := rfl
@[simp] theorem exec_causewayRetrain (s : State) :
    exec (.causewayRetrain) s = execCausewayRetrain s := rfl
@[simp] theorem exec_retrainComplete (s : State) :
    exec (.retrainComplete) s = execRetrainComplete s := rfl
@[simp] theorem exec_routeInstall (s : State) :
    exec (.routeInstall) s = execRouteInstall s := rfl
@[simp] theorem exec_packetReceive (s : State) :
    exec (.packetReceive) s = execPacketReceive s := rfl
@[simp] theorem exec_packetResend (s : State) :
    exec (.packetResend) s = execPacketResend s := rfl
@[simp] theorem exec_sendAcknowledged (s : State) :
    exec (.sendAcknowledged) s = execSendAcknowledged s := rfl
@[simp] theorem exec_chunkSweep (s : State) :
    exec (.chunkSweep) s = execChunkSweep s := rfl
@[simp] theorem exec_drainEnd (s : State) :
    exec (.drainEnd) s = execDrainEnd s := rfl
@[simp] theorem exec_drainBoundExpire (s : State) :
    exec (.drainBoundExpire) s = execDrainBoundExpire s := rfl
@[simp] theorem exec_versionNotice (s : State) :
    exec (.versionNotice) s = execVersionNotice s := rfl
@[simp] theorem exec_wfetchServe (s : State) :
    exec (.wfetchServe) s = execWfetchServe s := rfl
@[simp] theorem exec_recvTimeout (s : State) :
    exec (.recvTimeout) s = execRecvTimeout s := rfl
@[simp] theorem exec_updTimeout (s : State) :
    exec (.updTimeout) s = execUpdTimeout s := rfl
@[simp] theorem exec_quadStopFail (s : State) :
    exec (.quadStopFail) s = execQuadStopFail s := rfl
@[simp] theorem exec_dieFail (s : State) :
    exec (.dieFail) s = execDieFail s := rfl
@[simp] theorem exec_scrub (s : State) :
    exec (.scrub) s = execScrub s := rfl
@[simp] theorem exec_blackBoxSave (s : State) :
    exec (.blackBoxSave) s = execBlackBoxSave s := rfl
@[simp] theorem exec_thermalThrottle (s : State) :
    exec (.thermalThrottle) s = execThermalThrottle s := rfl
@[simp] theorem exec_powerOverCap (s : State) :
    exec (.powerOverCap) s = execPowerOverCap s := rfl
@[simp] theorem exec_throttleRestore (s : State) :
    exec (.throttleRestore) s = execThrottleRestore s := rfl
@[simp] theorem exec_thermalTrip (s : State) :
    exec (.thermalTrip) s = execThermalTrip s := rfl
@[simp] theorem exec_powerGood (s : State) :
    exec (.powerGood) s = execPowerGood s := rfl
@[simp] theorem exec_warmReset (s : State) :
    exec (.warmReset) s = execWarmReset s := rfl
@[simp] theorem exec_illegalEncoding (s : State) :
    exec (.illegalEncoding) s = execIllegalEncoding s := rfl
@[simp] theorem exec_extensionEncoding (s : State) :
    exec (.extensionEncoding) s = execExtensionEncoding s := rfl
@[simp] theorem exec_unlistedTrelixOpcode (s : State) :
    exec (.unlistedTrelixOpcode) s = execUnlistedTrelixOpcode s := rfl
@[simp] theorem exec_connectionSetUp (s : State) :
    exec (.connectionSetUp) s = execConnectionSetUp s := rfl
@[simp] theorem exec_negativeAcknowledgement (s : State) :
    exec (.negativeAcknowledgement) s = execNegativeAcknowledgement s := rfl
@[simp] theorem exec_lossOfSignal (s : State) :
    exec (.lossOfSignal) s = execLossOfSignal s := rfl
@[simp] theorem exec_pathReturn (s : State) :
    exec (.pathReturn) s = execPathReturn s := rfl
@[simp] theorem exec_expanderCompletion (s : State) :
    exec (.expanderCompletion) s = execExpanderCompletion s := rfl
@[simp] theorem exec_hostFlushCompletion (s : State) :
    exec (.hostFlushCompletion) s = execHostFlushCompletion s := rfl
@[simp] theorem exec_hostOwnershipGrant (s : State) :
    exec (.hostOwnershipGrant) s = execHostOwnershipGrant s := rfl
@[simp] theorem exec_hostSnoop (s : State) :
    exec (.hostSnoop) s = execHostSnoop s := rfl
@[simp] theorem exec_firmwareFault (s : State) :
    exec (.firmwareFault) s = execFirmwareFault s := rfl
@[simp] theorem exec_coldPowerLoss (s : State) :
    exec (.coldPowerLoss) s = execColdPowerLoss s := rfl
@[simp] theorem exec_uncorrectableError (s : State) :
    exec (.uncorrectableError) s = execUncorrectableError s := rfl

end Sys2Proof.Machine
end

