-- ==== Sys2Proof/Laws/Maps.lean ====
section
/-! SUPPORT. The laws of sparse tables: read after write, a write leaves every other key alone, and the canonical form is
kept. -/

namespace Sys2Proof.Machine
open Sys2Proof

section
variable {α : Type}

@[simp] theorem mapFind_mapPut_same (m : SMap α) (j : Nat) (v : α) : mapFind (mapPut m j v) j = some v := by
  induction m with
  | nil => simp [mapPut, mapFind]
  | cons p r ih =>
    simp only [mapPut]
    split
    · simp [mapFind]
    · split
      · simp [mapFind]
      · rename_i h1 h2
        simp [mapFind, Ne.symm h1, ih]

theorem mapFind_mapPut_other (m : SMap α) {i j : Nat} (v : α) (h : i ≠ j) : mapFind (mapPut m j v) i = mapFind m i := by
  induction m with
  | nil => simp [mapPut, mapFind, Ne.symm h]
  | cons p r ih =>
    simp only [mapPut]
    split
    · rename_i h1
      subst h1
      simp [mapFind, Ne.symm h]
    · split
      · simp [mapFind, Ne.symm h]
      · simp [mapFind, ih]

@[simp] theorem mapFind_mapDel_same (m : SMap α) (j : Nat) : mapFind (mapDel m j) j = none := by
  induction m with
  | nil => rfl
  | cons p r ih =>
    by_cases h : p.1 = j
    · simpa [mapDel, h] using ih
    · have : mapDel (p :: r) j = p :: mapDel r j := by simp [mapDel, h]
      simp [this, mapFind, h, ih]

theorem mapFind_mapDel_other (m : SMap α) {i j : Nat} (h : i ≠ j) : mapFind (mapDel m j) i = mapFind m i := by
  induction m with
  | nil => rfl
  | cons p r ih =>
    by_cases hp : p.1 = j
    · have : mapDel (p :: r) j = mapDel r j := by simp [mapDel, hp]
      have hn : ¬p.1 = i := fun e => h (e ▸ hp)
      simp [this, mapFind, hn, ih]
    · have : mapDel (p :: r) j = p :: mapDel r j := by simp [mapDel, hp]
      simp [this, mapFind, ih]

@[simp] theorem mapGet_mapPut_same (d : α) (m : SMap α) (j : Nat) (v : α) : mapGet d (mapPut m j v) j = v := by
  simp [mapGet]

theorem mapGet_mapPut_other (d : α) (m : SMap α) {i j : Nat} (v : α) (h : i ≠ j) :
    mapGet d (mapPut m j v) i = mapGet d m i := by
  simp [mapGet, mapFind_mapPut_other m v h]

variable [DecidableEq α]

/-- Read after write: the key written gives the value, every other key what it gave. -/
theorem mapGet_mapSet (d : α) (m : SMap α) (j : Nat) (v : α) (i : Nat) :
    mapGet d (mapSet d m j v) i = if i = j then v else mapGet d m i := by
  unfold mapSet
  by_cases hi : i = j
  · subst hi
    split
    · rename_i h; simp [mapGet, h]
    · simp
  · split
    · simp [mapGet, mapFind_mapDel_other m hi]
    · simp [mapGet_mapPut_other d m v hi]

@[simp] theorem mapGet_mapSet_same (d : α) (m : SMap α) (j : Nat) (v : α) : mapGet d (mapSet d m j v) j = v := by
  simp [mapGet_mapSet]

theorem mapGet_mapSet_other (d : α) (m : SMap α) {i j : Nat} (v : α) (h : i ≠ j) :
    mapGet d (mapSet d m j v) i = mapGet d m i := by
  simp [mapGet_mapSet, h]

/-! ### The canonical form -/

omit [DecidableEq α] in
/-- Keys rise strictly, said of pairs. -/
theorem keysRise_iff (m : SMap α) : keysRise m = true ↔ m.Pairwise (fun a b => a.1 < b.1) := by
  induction m with
  | nil => simp [keysRise]
  | cons p r ih =>
    cases r with
    | nil => simp [keysRise]
    | cons q t =>
      simp only [keysRise, Bool.and_eq_true, decide_eq_true_eq, ih]
      constructor
      · rintro ⟨h1, h2⟩
        refine List.pairwise_cons.2 ⟨?_, h2⟩
        intro x hx
        rcases List.mem_cons.1 hx with rfl | hx
        · exact h1
        · exact lt_trans h1 ((List.pairwise_cons.1 h2).1 x hx)
      · intro h
        have h' := List.pairwise_cons.1 h
        exact ⟨h'.1 q (by simp), h'.2⟩

omit [DecidableEq α] in
theorem mem_mapPut (m : SMap α) (j : Nat) (v : α) {x : Nat × α} (hx : x ∈ mapPut m j v) : x = (j, v) ∨ x ∈ m := by
  induction m with
  | nil => simpa [mapPut] using hx
  | cons p r ih =>
    simp only [mapPut] at hx
    split at hx
    · rcases List.mem_cons.1 hx with h | h
      · exact .inl h
      · exact .inr (List.mem_cons_of_mem _ h)
    · split at hx
      · rcases List.mem_cons.1 hx with h | h
        · exact .inl h
        · exact .inr h
      · rcases List.mem_cons.1 hx with h | h
        · exact .inr (h ▸ List.mem_cons_self)
        · rcases ih h with h | h
          · exact .inl h
          · exact .inr (List.mem_cons_of_mem _ h)

omit [DecidableEq α] in
theorem pairwise_mapPut (m : SMap α) (j : Nat) (v : α) (h : m.Pairwise (fun a b => a.1 < b.1)) :
    (mapPut m j v).Pairwise (fun a b => a.1 < b.1) := by
  induction m with
  | nil => simp [mapPut]
  | cons p r ih =>
    have hp := List.pairwise_cons.1 h
    simp only [mapPut]
    split
    · rename_i e
      exact List.pairwise_cons.2 ⟨fun x hx => by simpa [e] using hp.1 x hx, hp.2⟩
    · split
      · rename_i lt
        refine List.pairwise_cons.2 ⟨fun x hx => ?_, h⟩
        rcases List.mem_cons.1 hx with rfl | hx
        · exact lt
        · exact lt_trans lt (hp.1 x hx)
      · rename_i ne nlt
        refine List.pairwise_cons.2 ⟨fun x hx => ?_, ih hp.2⟩
        rcases mem_mapPut r j v hx with rfl | hx
        · show p.1 < j
          omega
        · exact hp.1 x hx

theorem mapWf_iff (d : α) (m : SMap α) :
    mapWf d m = true ↔ m.Pairwise (fun a b => a.1 < b.1) ∧ ∀ x ∈ m, x.2 ≠ d := by
  simp [mapWf, keysRise_iff]

/-- A write keeps the canonical form. -/
theorem mapWf_mapSet (d : α) (m : SMap α) (j : Nat) (v : α) (h : mapWf d m = true) : mapWf d (mapSet d m j v) = true := by
  rw [mapWf_iff] at h ⊢
  unfold mapSet
  split
  · refine ⟨h.1.filter _, fun x hx => h.2 x ?_⟩
    exact List.mem_of_mem_filter hx
  · rename_i hv
    refine ⟨pairwise_mapPut m j v h.1, fun x hx => ?_⟩
    rcases mem_mapPut m j v hx with rfl | hx
    · exact hv
    · exact h.2 x hx

/-- The empty table is in canonical form. -/
theorem mapWf_nil (d : α) : mapWf d ([] : SMap α) = true := by simp [mapWf, keysRise]

end

end Sys2Proof.Machine
end

