-- ==== Sys2Proof/Laws/Span.lean ====
section
/-! SUPPORT. What each update of a span does to each of its fields, and the laws of its registers: S63 reads zero and
discards writes, a write is read back, every other register is left alone. -/

namespace Sys2Proof.Machine
open Sys2Proof

/-! ### `countUnit` -/

@[simp] theorem countUnit_spc (sp : Span) : (countUnit sp).spc = sp.spc := rfl
@[simp] theorem countUnit_s (sp : Span) : (countUnit sp).s = sp.s := rfl
@[simp] theorem countUnit_sEmpty (sp : Span) : (countUnit sp).sEmpty = sp.sEmpty := rfl
@[simp] theorem countUnit_v (sp : Span) : (countUnit sp).v = sp.v := rfl
@[simp] theorem countUnit_vEmpty (sp : Span) : (countUnit sp).vEmpty = sp.vEmpty := rfl
@[simp] theorem countUnit_am (sp : Span) : (countUnit sp).am = sp.am := rfl
@[simp] theorem countUnit_live (sp : Span) : (countUnit sp).live = sp.live := rfl
@[simp] theorem countUnit_pl (sp : Span) : (countUnit sp).pl = sp.pl := rfl
@[simp] theorem countUnit_masks (sp : Span) : (countUnit sp).masks = sp.masks := rfl
@[simp] theorem countUnit_rets (sp : Span) : (countUnit sp).rets = sp.rets := rfl
@[simp] theorem countUnit_queue (sp : Span) : (countUnit sp).queue = sp.queue := rfl
@[simp] theorem countUnit_hdepth (sp : Span) : (countUnit sp).hdepth = sp.hdepth := rfl
@[simp] theorem countUnit_step (sp : Span) : (countUnit sp).step = stepNext sp.step := rfl
@[simp] theorem countUnit_regs (sp : Span) : (countUnit sp).regs = sp.regs := rfl
@[simp] theorem countUnit_binds (sp : Span) : (countUnit sp).binds = sp.binds := rfl
@[simp] theorem countUnit_n (sp : Span) : (countUnit sp).n = sp.n := rfl
@[simp] theorem countUnit_d (sp : Span) : (countUnit sp).d = sp.d := rfl
@[simp] theorem countUnit_w (sp : Span) : (countUnit sp).w = sp.w := rfl
@[simp] theorem countUnit_deck (sp : Span) : (countUnit sp).deck = sp.deck := rfl
@[simp] theorem countUnit_core (sp : Span) : (countUnit sp).core = sp.core := rfl
@[simp] theorem countUnit_half (sp : Span) : (countUnit sp).half = sp.half := rfl
@[simp] theorem countUnit_bay (sp : Span) : (countUnit sp).bay = sp.bay := rfl
@[simp] theorem countUnit_age (sp : Span) : (countUnit sp).age = sp.age := rfl
@[simp] theorem countUnit_pend (sp : Span) : (countUnit sp).pend = .none := rfl
@[simp] theorem countUnit_xfail (sp : Span) : (countUnit sp).xfail = sp.xfail := rfl
@[simp] theorem countUnit_ltime (sp : Span) : (countUnit sp).ltime = sp.ltime + 1 := rfl
@[simp] theorem countUnit_buffer (sp : Span) : (countUnit sp).buffer = sp.buffer := rfl
@[simp] theorem countUnit_held (sp : Span) : (countUnit sp).held = sp.held := rfl
@[simp] theorem countUnit_undo (sp : Span) : (countUnit sp).undo = sp.undo := rfl
@[simp] theorem countUnit_colls (sp : Span) : (countUnit sp).colls = sp.colls := rfl
@[simp] theorem countUnit_acquiring (sp : Span) : (countUnit sp).acquiring = sp.acquiring := rfl
@[simp] theorem countUnit_halted (sp : Span) : (countUnit sp).halted = sp.halted := rfl
@[simp] theorem countUnit_lost (sp : Span) : (countUnit sp).lost = sp.lost := rfl
@[simp] theorem countUnit_badS (sp : Span) : (countUnit sp).badS = sp.badS := rfl
@[simp] theorem countUnit_badV (sp : Span) : (countUnit sp).badV = sp.badV := rfl
@[simp] theorem countUnit_traps (sp : Span) : (countUnit sp).traps = sp.traps := rfl
@[simp] theorem countUnit_acqAt (sp : Span) : (countUnit sp).acqAt = sp.acqAt := rfl
@[simp] theorem countUnit_floors (sp : Span) : (countUnit sp).floors = sp.floors := rfl
@[simp] theorem countUnit_bounds (sp : Span) : (countUnit sp).bounds = sp.bounds := rfl
@[simp] theorem countUnit_shadow (sp : Span) : (countUnit sp).shadow = sp.shadow := rfl
@[simp] theorem countUnit_ahead (sp : Span) : (countUnit sp).ahead = sp.ahead.tail := rfl
@[simp] theorem countUnit_ready (sp : Span) : (countUnit sp).ready = sp.ready := rfl
@[simp] theorem countUnit_badRec (sp : Span) : (countUnit sp).badRec = sp.badRec := rfl
@[simp] theorem countUnit_badTable (sp : Span) : (countUnit sp).badTable = sp.badTable := rfl

/-! ### `advance` -/

@[simp] theorem advance_spc (sp : Span) : (advance sp).spc = sp.spc + 4 := rfl
@[simp] theorem advance_s (sp : Span) : (advance sp).s = sp.s := rfl
@[simp] theorem advance_sEmpty (sp : Span) : (advance sp).sEmpty = sp.sEmpty := rfl
@[simp] theorem advance_v (sp : Span) : (advance sp).v = sp.v := rfl
@[simp] theorem advance_vEmpty (sp : Span) : (advance sp).vEmpty = sp.vEmpty := rfl
@[simp] theorem advance_am (sp : Span) : (advance sp).am = sp.am := rfl
@[simp] theorem advance_live (sp : Span) : (advance sp).live = sp.live := rfl
@[simp] theorem advance_pl (sp : Span) : (advance sp).pl = sp.pl := rfl
@[simp] theorem advance_masks (sp : Span) : (advance sp).masks = sp.masks := rfl
@[simp] theorem advance_rets (sp : Span) : (advance sp).rets = sp.rets := rfl
@[simp] theorem advance_queue (sp : Span) : (advance sp).queue = sp.queue := rfl
@[simp] theorem advance_hdepth (sp : Span) : (advance sp).hdepth = sp.hdepth := rfl
@[simp] theorem advance_step (sp : Span) : (advance sp).step = stepNext sp.step := rfl
@[simp] theorem advance_regs (sp : Span) : (advance sp).regs = sp.regs := rfl
@[simp] theorem advance_binds (sp : Span) : (advance sp).binds = sp.binds := rfl
@[simp] theorem advance_n (sp : Span) : (advance sp).n = sp.n := rfl
@[simp] theorem advance_d (sp : Span) : (advance sp).d = sp.d := rfl
@[simp] theorem advance_w (sp : Span) : (advance sp).w = sp.w := rfl
@[simp] theorem advance_deck (sp : Span) : (advance sp).deck = sp.deck := rfl
@[simp] theorem advance_core (sp : Span) : (advance sp).core = sp.core := rfl
@[simp] theorem advance_half (sp : Span) : (advance sp).half = sp.half := rfl
@[simp] theorem advance_bay (sp : Span) : (advance sp).bay = sp.bay := rfl
@[simp] theorem advance_age (sp : Span) : (advance sp).age = sp.age := rfl
@[simp] theorem advance_pend (sp : Span) : (advance sp).pend = .none := rfl
@[simp] theorem advance_xfail (sp : Span) : (advance sp).xfail = sp.xfail := rfl
@[simp] theorem advance_ltime (sp : Span) : (advance sp).ltime = sp.ltime + 1 := rfl
@[simp] theorem advance_buffer (sp : Span) : (advance sp).buffer = sp.buffer := rfl
@[simp] theorem advance_held (sp : Span) : (advance sp).held = sp.held := rfl
@[simp] theorem advance_undo (sp : Span) : (advance sp).undo = sp.undo := rfl
@[simp] theorem advance_colls (sp : Span) : (advance sp).colls = sp.colls := rfl
@[simp] theorem advance_acquiring (sp : Span) : (advance sp).acquiring = sp.acquiring := rfl
@[simp] theorem advance_halted (sp : Span) : (advance sp).halted = sp.halted := rfl
@[simp] theorem advance_lost (sp : Span) : (advance sp).lost = sp.lost := rfl
@[simp] theorem advance_badS (sp : Span) : (advance sp).badS = sp.badS := rfl
@[simp] theorem advance_badV (sp : Span) : (advance sp).badV = sp.badV := rfl
@[simp] theorem advance_traps (sp : Span) : (advance sp).traps = sp.traps := rfl
@[simp] theorem advance_acqAt (sp : Span) : (advance sp).acqAt = sp.acqAt := rfl
@[simp] theorem advance_floors (sp : Span) : (advance sp).floors = sp.floors := rfl
@[simp] theorem advance_bounds (sp : Span) : (advance sp).bounds = sp.bounds := rfl
@[simp] theorem advance_shadow (sp : Span) : (advance sp).shadow = sp.shadow := rfl
@[simp] theorem advance_ahead (sp : Span) : (advance sp).ahead = sp.ahead.tail := rfl
@[simp] theorem advance_ready (sp : Span) : (advance sp).ready = sp.ready := rfl
@[simp] theorem advance_badRec (sp : Span) : (advance sp).badRec = sp.badRec := rfl
@[simp] theorem advance_badTable (sp : Span) : (advance sp).badTable = sp.badTable := rfl

/-! ### `setAm` -/

@[simp] theorem setAm_spc (sp : Span) (m : BitVec 32) : (setAm sp m).spc = sp.spc := rfl
@[simp] theorem setAm_s (sp : Span) (m : BitVec 32) : (setAm sp m).s = sp.s := rfl
@[simp] theorem setAm_sEmpty (sp : Span) (m : BitVec 32) : (setAm sp m).sEmpty = sp.sEmpty := rfl
@[simp] theorem setAm_v (sp : Span) (m : BitVec 32) : (setAm sp m).v = sp.v := rfl
@[simp] theorem setAm_vEmpty (sp : Span) (m : BitVec 32) : (setAm sp m).vEmpty = sp.vEmpty := rfl
@[simp] theorem setAm_am (sp : Span) (m : BitVec 32) : (setAm sp m).am = m &&& sp.live := rfl
@[simp] theorem setAm_live (sp : Span) (m : BitVec 32) : (setAm sp m).live = sp.live := rfl
@[simp] theorem setAm_pl (sp : Span) (m : BitVec 32) : (setAm sp m).pl = sp.pl := rfl
@[simp] theorem setAm_masks (sp : Span) (m : BitVec 32) : (setAm sp m).masks = sp.masks := rfl
@[simp] theorem setAm_rets (sp : Span) (m : BitVec 32) : (setAm sp m).rets = sp.rets := rfl
@[simp] theorem setAm_queue (sp : Span) (m : BitVec 32) : (setAm sp m).queue = sp.queue := rfl
@[simp] theorem setAm_hdepth (sp : Span) (m : BitVec 32) : (setAm sp m).hdepth = sp.hdepth := rfl
@[simp] theorem setAm_step (sp : Span) (m : BitVec 32) : (setAm sp m).step = sp.step := rfl
@[simp] theorem setAm_regs (sp : Span) (m : BitVec 32) : (setAm sp m).regs = sp.regs := rfl
@[simp] theorem setAm_binds (sp : Span) (m : BitVec 32) : (setAm sp m).binds = sp.binds := rfl
@[simp] theorem setAm_n (sp : Span) (m : BitVec 32) : (setAm sp m).n = sp.n := rfl
@[simp] theorem setAm_d (sp : Span) (m : BitVec 32) : (setAm sp m).d = sp.d := rfl
@[simp] theorem setAm_w (sp : Span) (m : BitVec 32) : (setAm sp m).w = sp.w := rfl
@[simp] theorem setAm_deck (sp : Span) (m : BitVec 32) : (setAm sp m).deck = sp.deck := rfl
@[simp] theorem setAm_core (sp : Span) (m : BitVec 32) : (setAm sp m).core = sp.core := rfl
@[simp] theorem setAm_half (sp : Span) (m : BitVec 32) : (setAm sp m).half = sp.half := rfl
@[simp] theorem setAm_bay (sp : Span) (m : BitVec 32) : (setAm sp m).bay = sp.bay := rfl
@[simp] theorem setAm_age (sp : Span) (m : BitVec 32) : (setAm sp m).age = sp.age := rfl
@[simp] theorem setAm_pend (sp : Span) (m : BitVec 32) : (setAm sp m).pend = sp.pend := rfl
@[simp] theorem setAm_xfail (sp : Span) (m : BitVec 32) : (setAm sp m).xfail = sp.xfail := rfl
@[simp] theorem setAm_ltime (sp : Span) (m : BitVec 32) : (setAm sp m).ltime = sp.ltime := rfl
@[simp] theorem setAm_buffer (sp : Span) (m : BitVec 32) : (setAm sp m).buffer = sp.buffer := rfl
@[simp] theorem setAm_held (sp : Span) (m : BitVec 32) : (setAm sp m).held = sp.held := rfl
@[simp] theorem setAm_undo (sp : Span) (m : BitVec 32) : (setAm sp m).undo = sp.undo := rfl
@[simp] theorem setAm_colls (sp : Span) (m : BitVec 32) : (setAm sp m).colls = sp.colls := rfl
@[simp] theorem setAm_acquiring (sp : Span) (m : BitVec 32) : (setAm sp m).acquiring = sp.acquiring := rfl
@[simp] theorem setAm_halted (sp : Span) (m : BitVec 32) : (setAm sp m).halted = sp.halted := rfl
@[simp] theorem setAm_lost (sp : Span) (m : BitVec 32) : (setAm sp m).lost = sp.lost := rfl
@[simp] theorem setAm_badS (sp : Span) (m : BitVec 32) : (setAm sp m).badS = sp.badS := rfl
@[simp] theorem setAm_badV (sp : Span) (m : BitVec 32) : (setAm sp m).badV = sp.badV := rfl
@[simp] theorem setAm_traps (sp : Span) (m : BitVec 32) : (setAm sp m).traps = sp.traps := rfl
@[simp] theorem setAm_acqAt (sp : Span) (m : BitVec 32) : (setAm sp m).acqAt = sp.acqAt := rfl
@[simp] theorem setAm_floors (sp : Span) (m : BitVec 32) : (setAm sp m).floors = sp.floors := rfl
@[simp] theorem setAm_bounds (sp : Span) (m : BitVec 32) : (setAm sp m).bounds = sp.bounds := rfl
@[simp] theorem setAm_shadow (sp : Span) (m : BitVec 32) : (setAm sp m).shadow = sp.shadow := rfl
@[simp] theorem setAm_ahead (sp : Span) (m : BitVec 32) : (setAm sp m).ahead = sp.ahead := rfl
@[simp] theorem setAm_ready (sp : Span) (m : BitVec 32) : (setAm sp m).ready = sp.ready := rfl
@[simp] theorem setAm_badRec (sp : Span) (m : BitVec 32) : (setAm sp m).badRec = sp.badRec := rfl
@[simp] theorem setAm_badTable (sp : Span) (m : BitVec 32) : (setAm sp m).badTable = sp.badTable := rfl

/-! ### `vWrite` -/

@[simp] theorem vWrite_spc (sp : Span) (r l : Nat) (x : Word32) : (vWrite sp r l x).spc = sp.spc := rfl
@[simp] theorem vWrite_s (sp : Span) (r l : Nat) (x : Word32) : (vWrite sp r l x).s = sp.s := rfl
@[simp] theorem vWrite_sEmpty (sp : Span) (r l : Nat) (x : Word32) : (vWrite sp r l x).sEmpty = sp.sEmpty := rfl
@[simp] theorem vWrite_v (sp : Span) (r l : Nat) (x : Word32) : (vWrite sp r l x).v = mapSet 0 sp.v (32 * r + l) x := rfl
@[simp] theorem vWrite_vEmpty (sp : Span) (r l : Nat) (x : Word32) : (vWrite sp r l x).vEmpty = sp.vEmpty := rfl
@[simp] theorem vWrite_am (sp : Span) (r l : Nat) (x : Word32) : (vWrite sp r l x).am = sp.am := rfl
@[simp] theorem vWrite_live (sp : Span) (r l : Nat) (x : Word32) : (vWrite sp r l x).live = sp.live := rfl
@[simp] theorem vWrite_pl (sp : Span) (r l : Nat) (x : Word32) : (vWrite sp r l x).pl = sp.pl := rfl
@[simp] theorem vWrite_masks (sp : Span) (r l : Nat) (x : Word32) : (vWrite sp r l x).masks = sp.masks := rfl
@[simp] theorem vWrite_rets (sp : Span) (r l : Nat) (x : Word32) : (vWrite sp r l x).rets = sp.rets := rfl
@[simp] theorem vWrite_queue (sp : Span) (r l : Nat) (x : Word32) : (vWrite sp r l x).queue = sp.queue := rfl
@[simp] theorem vWrite_hdepth (sp : Span) (r l : Nat) (x : Word32) : (vWrite sp r l x).hdepth = sp.hdepth := rfl
@[simp] theorem vWrite_step (sp : Span) (r l : Nat) (x : Word32) : (vWrite sp r l x).step = sp.step := rfl
@[simp] theorem vWrite_regs (sp : Span) (r l : Nat) (x : Word32) : (vWrite sp r l x).regs = sp.regs := rfl
@[simp] theorem vWrite_binds (sp : Span) (r l : Nat) (x : Word32) : (vWrite sp r l x).binds = sp.binds := rfl
@[simp] theorem vWrite_n (sp : Span) (r l : Nat) (x : Word32) : (vWrite sp r l x).n = sp.n := rfl
@[simp] theorem vWrite_d (sp : Span) (r l : Nat) (x : Word32) : (vWrite sp r l x).d = sp.d := rfl
@[simp] theorem vWrite_w (sp : Span) (r l : Nat) (x : Word32) : (vWrite sp r l x).w = sp.w := rfl
@[simp] theorem vWrite_deck (sp : Span) (r l : Nat) (x : Word32) : (vWrite sp r l x).deck = sp.deck := rfl
@[simp] theorem vWrite_core (sp : Span) (r l : Nat) (x : Word32) : (vWrite sp r l x).core = sp.core := rfl
@[simp] theorem vWrite_half (sp : Span) (r l : Nat) (x : Word32) : (vWrite sp r l x).half = sp.half := rfl
@[simp] theorem vWrite_bay (sp : Span) (r l : Nat) (x : Word32) : (vWrite sp r l x).bay = sp.bay := rfl
@[simp] theorem vWrite_age (sp : Span) (r l : Nat) (x : Word32) : (vWrite sp r l x).age = sp.age := rfl
@[simp] theorem vWrite_pend (sp : Span) (r l : Nat) (x : Word32) : (vWrite sp r l x).pend = sp.pend := rfl
@[simp] theorem vWrite_xfail (sp : Span) (r l : Nat) (x : Word32) : (vWrite sp r l x).xfail = sp.xfail := rfl
@[simp] theorem vWrite_ltime (sp : Span) (r l : Nat) (x : Word32) : (vWrite sp r l x).ltime = sp.ltime := rfl
@[simp] theorem vWrite_buffer (sp : Span) (r l : Nat) (x : Word32) : (vWrite sp r l x).buffer = sp.buffer := rfl
@[simp] theorem vWrite_held (sp : Span) (r l : Nat) (x : Word32) : (vWrite sp r l x).held = sp.held := rfl
@[simp] theorem vWrite_undo (sp : Span) (r l : Nat) (x : Word32) : (vWrite sp r l x).undo = sp.undo := rfl
@[simp] theorem vWrite_colls (sp : Span) (r l : Nat) (x : Word32) : (vWrite sp r l x).colls = sp.colls := rfl
@[simp] theorem vWrite_acquiring (sp : Span) (r l : Nat) (x : Word32) : (vWrite sp r l x).acquiring = sp.acquiring := rfl
@[simp] theorem vWrite_halted (sp : Span) (r l : Nat) (x : Word32) : (vWrite sp r l x).halted = sp.halted := rfl
@[simp] theorem vWrite_lost (sp : Span) (r l : Nat) (x : Word32) : (vWrite sp r l x).lost = sp.lost := rfl
@[simp] theorem vWrite_badS (sp : Span) (r l : Nat) (x : Word32) : (vWrite sp r l x).badS = sp.badS := rfl
@[simp] theorem vWrite_badV (sp : Span) (r l : Nat) (x : Word32) : (vWrite sp r l x).badV = sp.badV.filter (fun k => k != 32 * r + l) := rfl
@[simp] theorem vWrite_traps (sp : Span) (r l : Nat) (x : Word32) : (vWrite sp r l x).traps = sp.traps := rfl
@[simp] theorem vWrite_acqAt (sp : Span) (r l : Nat) (x : Word32) : (vWrite sp r l x).acqAt = sp.acqAt := rfl
@[simp] theorem vWrite_floors (sp : Span) (r l : Nat) (x : Word32) : (vWrite sp r l x).floors = sp.floors := rfl
@[simp] theorem vWrite_bounds (sp : Span) (r l : Nat) (x : Word32) : (vWrite sp r l x).bounds = sp.bounds := rfl
@[simp] theorem vWrite_shadow (sp : Span) (r l : Nat) (x : Word32) :
    (vWrite sp r l x).shadow = sp.shadow.map (fun m => mapSet 0 m (32 * r + l) x) := rfl
@[simp] theorem vWrite_ahead (sp : Span) (r l : Nat) (x : Word32) : (vWrite sp r l x).ahead = sp.ahead := rfl
@[simp] theorem vWrite_ready (sp : Span) (r l : Nat) (x : Word32) : (vWrite sp r l x).ready = sp.ready := rfl
@[simp] theorem vWrite_badRec (sp : Span) (r l : Nat) (x : Word32) : (vWrite sp r l x).badRec = sp.badRec := rfl
@[simp] theorem vWrite_badTable (sp : Span) (r l : Nat) (x : Word32) : (vWrite sp r l x).badTable = sp.badTable := rfl

/-! ### `vMarkEmpty` -/

@[simp] theorem vMarkEmpty_spc (sp : Span) (r : Nat) : (vMarkEmpty sp r).spc = sp.spc := rfl
@[simp] theorem vMarkEmpty_s (sp : Span) (r : Nat) : (vMarkEmpty sp r).s = sp.s := rfl
@[simp] theorem vMarkEmpty_sEmpty (sp : Span) (r : Nat) : (vMarkEmpty sp r).sEmpty = sp.sEmpty := rfl
@[simp] theorem vMarkEmpty_v (sp : Span) (r : Nat) : (vMarkEmpty sp r).v = sp.v := rfl
@[simp] theorem vMarkEmpty_vEmpty (sp : Span) (r : Nat) : (vMarkEmpty sp r).vEmpty = sp.vEmpty ||| BitVec.ofNat 256 (2 ^ r) := rfl
@[simp] theorem vMarkEmpty_am (sp : Span) (r : Nat) : (vMarkEmpty sp r).am = sp.am := rfl
@[simp] theorem vMarkEmpty_live (sp : Span) (r : Nat) : (vMarkEmpty sp r).live = sp.live := rfl
@[simp] theorem vMarkEmpty_pl (sp : Span) (r : Nat) : (vMarkEmpty sp r).pl = sp.pl := rfl
@[simp] theorem vMarkEmpty_masks (sp : Span) (r : Nat) : (vMarkEmpty sp r).masks = sp.masks := rfl
@[simp] theorem vMarkEmpty_rets (sp : Span) (r : Nat) : (vMarkEmpty sp r).rets = sp.rets := rfl
@[simp] theorem vMarkEmpty_queue (sp : Span) (r : Nat) : (vMarkEmpty sp r).queue = sp.queue := rfl
@[simp] theorem vMarkEmpty_hdepth (sp : Span) (r : Nat) : (vMarkEmpty sp r).hdepth = sp.hdepth := rfl
@[simp] theorem vMarkEmpty_step (sp : Span) (r : Nat) : (vMarkEmpty sp r).step = sp.step := rfl
@[simp] theorem vMarkEmpty_regs (sp : Span) (r : Nat) : (vMarkEmpty sp r).regs = sp.regs := rfl
@[simp] theorem vMarkEmpty_binds (sp : Span) (r : Nat) : (vMarkEmpty sp r).binds = sp.binds := rfl
@[simp] theorem vMarkEmpty_n (sp : Span) (r : Nat) : (vMarkEmpty sp r).n = sp.n := rfl
@[simp] theorem vMarkEmpty_d (sp : Span) (r : Nat) : (vMarkEmpty sp r).d = sp.d := rfl
@[simp] theorem vMarkEmpty_w (sp : Span) (r : Nat) : (vMarkEmpty sp r).w = sp.w := rfl
@[simp] theorem vMarkEmpty_deck (sp : Span) (r : Nat) : (vMarkEmpty sp r).deck = sp.deck := rfl
@[simp] theorem vMarkEmpty_core (sp : Span) (r : Nat) : (vMarkEmpty sp r).core = sp.core := rfl
@[simp] theorem vMarkEmpty_half (sp : Span) (r : Nat) : (vMarkEmpty sp r).half = sp.half := rfl
@[simp] theorem vMarkEmpty_bay (sp : Span) (r : Nat) : (vMarkEmpty sp r).bay = sp.bay := rfl
@[simp] theorem vMarkEmpty_age (sp : Span) (r : Nat) : (vMarkEmpty sp r).age = sp.age := rfl
@[simp] theorem vMarkEmpty_pend (sp : Span) (r : Nat) : (vMarkEmpty sp r).pend = sp.pend := rfl
@[simp] theorem vMarkEmpty_xfail (sp : Span) (r : Nat) : (vMarkEmpty sp r).xfail = sp.xfail := rfl
@[simp] theorem vMarkEmpty_ltime (sp : Span) (r : Nat) : (vMarkEmpty sp r).ltime = sp.ltime := rfl
@[simp] theorem vMarkEmpty_buffer (sp : Span) (r : Nat) : (vMarkEmpty sp r).buffer = sp.buffer := rfl
@[simp] theorem vMarkEmpty_held (sp : Span) (r : Nat) : (vMarkEmpty sp r).held = sp.held := rfl
@[simp] theorem vMarkEmpty_undo (sp : Span) (r : Nat) : (vMarkEmpty sp r).undo = sp.undo := rfl
@[simp] theorem vMarkEmpty_colls (sp : Span) (r : Nat) : (vMarkEmpty sp r).colls = sp.colls := rfl
@[simp] theorem vMarkEmpty_acquiring (sp : Span) (r : Nat) : (vMarkEmpty sp r).acquiring = sp.acquiring := rfl
@[simp] theorem vMarkEmpty_halted (sp : Span) (r : Nat) : (vMarkEmpty sp r).halted = sp.halted := rfl
@[simp] theorem vMarkEmpty_lost (sp : Span) (r : Nat) : (vMarkEmpty sp r).lost = sp.lost := rfl
@[simp] theorem vMarkEmpty_badS (sp : Span) (r : Nat) : (vMarkEmpty sp r).badS = sp.badS := rfl
@[simp] theorem vMarkEmpty_badV (sp : Span) (r : Nat) : (vMarkEmpty sp r).badV = sp.badV := rfl
@[simp] theorem vMarkEmpty_traps (sp : Span) (r : Nat) : (vMarkEmpty sp r).traps = sp.traps := rfl
@[simp] theorem vMarkEmpty_acqAt (sp : Span) (r : Nat) : (vMarkEmpty sp r).acqAt = sp.acqAt := rfl
@[simp] theorem vMarkEmpty_floors (sp : Span) (r : Nat) : (vMarkEmpty sp r).floors = sp.floors := rfl
@[simp] theorem vMarkEmpty_bounds (sp : Span) (r : Nat) : (vMarkEmpty sp r).bounds = sp.bounds := rfl
@[simp] theorem vMarkEmpty_shadow (sp : Span) (r : Nat) : (vMarkEmpty sp r).shadow = sp.shadow := rfl
@[simp] theorem vMarkEmpty_ahead (sp : Span) (r : Nat) : (vMarkEmpty sp r).ahead = sp.ahead := rfl
@[simp] theorem vMarkEmpty_ready (sp : Span) (r : Nat) : (vMarkEmpty sp r).ready = sp.ready := rfl
@[simp] theorem vMarkEmpty_badRec (sp : Span) (r : Nat) : (vMarkEmpty sp r).badRec = sp.badRec := rfl
@[simp] theorem vMarkEmpty_badTable (sp : Span) (r : Nat) : (vMarkEmpty sp r).badTable = sp.badTable := rfl

/-! ### `vMarkFull` -/

@[simp] theorem vMarkFull_spc (sp : Span) (r : Nat) : (vMarkFull sp r).spc = sp.spc := rfl
@[simp] theorem vMarkFull_s (sp : Span) (r : Nat) : (vMarkFull sp r).s = sp.s := rfl
@[simp] theorem vMarkFull_sEmpty (sp : Span) (r : Nat) : (vMarkFull sp r).sEmpty = sp.sEmpty := rfl
@[simp] theorem vMarkFull_v (sp : Span) (r : Nat) : (vMarkFull sp r).v = sp.v := rfl
@[simp] theorem vMarkFull_vEmpty (sp : Span) (r : Nat) : (vMarkFull sp r).vEmpty = sp.vEmpty &&& ~~~ BitVec.ofNat 256 (2 ^ r) := rfl
@[simp] theorem vMarkFull_am (sp : Span) (r : Nat) : (vMarkFull sp r).am = sp.am := rfl
@[simp] theorem vMarkFull_live (sp : Span) (r : Nat) : (vMarkFull sp r).live = sp.live := rfl
@[simp] theorem vMarkFull_pl (sp : Span) (r : Nat) : (vMarkFull sp r).pl = sp.pl := rfl
@[simp] theorem vMarkFull_masks (sp : Span) (r : Nat) : (vMarkFull sp r).masks = sp.masks := rfl
@[simp] theorem vMarkFull_rets (sp : Span) (r : Nat) : (vMarkFull sp r).rets = sp.rets := rfl
@[simp] theorem vMarkFull_queue (sp : Span) (r : Nat) : (vMarkFull sp r).queue = sp.queue := rfl
@[simp] theorem vMarkFull_hdepth (sp : Span) (r : Nat) : (vMarkFull sp r).hdepth = sp.hdepth := rfl
@[simp] theorem vMarkFull_step (sp : Span) (r : Nat) : (vMarkFull sp r).step = sp.step := rfl
@[simp] theorem vMarkFull_regs (sp : Span) (r : Nat) : (vMarkFull sp r).regs = sp.regs := rfl
@[simp] theorem vMarkFull_binds (sp : Span) (r : Nat) : (vMarkFull sp r).binds = sp.binds := rfl
@[simp] theorem vMarkFull_n (sp : Span) (r : Nat) : (vMarkFull sp r).n = sp.n := rfl
@[simp] theorem vMarkFull_d (sp : Span) (r : Nat) : (vMarkFull sp r).d = sp.d := rfl
@[simp] theorem vMarkFull_w (sp : Span) (r : Nat) : (vMarkFull sp r).w = sp.w := rfl
@[simp] theorem vMarkFull_deck (sp : Span) (r : Nat) : (vMarkFull sp r).deck = sp.deck := rfl
@[simp] theorem vMarkFull_core (sp : Span) (r : Nat) : (vMarkFull sp r).core = sp.core := rfl
@[simp] theorem vMarkFull_half (sp : Span) (r : Nat) : (vMarkFull sp r).half = sp.half := rfl
@[simp] theorem vMarkFull_bay (sp : Span) (r : Nat) : (vMarkFull sp r).bay = sp.bay := rfl
@[simp] theorem vMarkFull_age (sp : Span) (r : Nat) : (vMarkFull sp r).age = sp.age := rfl
@[simp] theorem vMarkFull_pend (sp : Span) (r : Nat) : (vMarkFull sp r).pend = sp.pend := rfl
@[simp] theorem vMarkFull_xfail (sp : Span) (r : Nat) : (vMarkFull sp r).xfail = sp.xfail := rfl
@[simp] theorem vMarkFull_ltime (sp : Span) (r : Nat) : (vMarkFull sp r).ltime = sp.ltime := rfl
@[simp] theorem vMarkFull_buffer (sp : Span) (r : Nat) : (vMarkFull sp r).buffer = sp.buffer := rfl
@[simp] theorem vMarkFull_held (sp : Span) (r : Nat) : (vMarkFull sp r).held = sp.held := rfl
@[simp] theorem vMarkFull_undo (sp : Span) (r : Nat) : (vMarkFull sp r).undo = sp.undo := rfl
@[simp] theorem vMarkFull_colls (sp : Span) (r : Nat) : (vMarkFull sp r).colls = sp.colls := rfl
@[simp] theorem vMarkFull_acquiring (sp : Span) (r : Nat) : (vMarkFull sp r).acquiring = sp.acquiring := rfl
@[simp] theorem vMarkFull_halted (sp : Span) (r : Nat) : (vMarkFull sp r).halted = sp.halted := rfl
@[simp] theorem vMarkFull_lost (sp : Span) (r : Nat) : (vMarkFull sp r).lost = sp.lost := rfl
@[simp] theorem vMarkFull_badS (sp : Span) (r : Nat) : (vMarkFull sp r).badS = sp.badS := rfl
@[simp] theorem vMarkFull_badV (sp : Span) (r : Nat) : (vMarkFull sp r).badV = sp.badV := rfl
@[simp] theorem vMarkFull_traps (sp : Span) (r : Nat) : (vMarkFull sp r).traps = sp.traps := rfl
@[simp] theorem vMarkFull_acqAt (sp : Span) (r : Nat) : (vMarkFull sp r).acqAt = sp.acqAt := rfl
@[simp] theorem vMarkFull_floors (sp : Span) (r : Nat) : (vMarkFull sp r).floors = sp.floors := rfl
@[simp] theorem vMarkFull_bounds (sp : Span) (r : Nat) : (vMarkFull sp r).bounds = sp.bounds := rfl
@[simp] theorem vMarkFull_shadow (sp : Span) (r : Nat) : (vMarkFull sp r).shadow = sp.shadow := rfl
@[simp] theorem vMarkFull_ahead (sp : Span) (r : Nat) : (vMarkFull sp r).ahead = sp.ahead := rfl
@[simp] theorem vMarkFull_ready (sp : Span) (r : Nat) : (vMarkFull sp r).ready = sp.ready := rfl
@[simp] theorem vMarkFull_badRec (sp : Span) (r : Nat) : (vMarkFull sp r).badRec = sp.badRec := rfl
@[simp] theorem vMarkFull_badTable (sp : Span) (r : Nat) : (vMarkFull sp r).badTable = sp.badTable := rfl

/-! ### `sWrite` -/

@[simp] theorem sWrite_spc (sp : Span) (r : Nat) (x : Word64) : (sWrite sp r x).spc = sp.spc := by
  unfold sWrite; split <;> rfl
@[simp] theorem sWrite_sEmpty (sp : Span) (r : Nat) (x : Word64) : (sWrite sp r x).sEmpty = sp.sEmpty := by
  unfold sWrite; split <;> rfl
@[simp] theorem sWrite_v (sp : Span) (r : Nat) (x : Word64) : (sWrite sp r x).v = sp.v := by
  unfold sWrite; split <;> rfl
@[simp] theorem sWrite_vEmpty (sp : Span) (r : Nat) (x : Word64) : (sWrite sp r x).vEmpty = sp.vEmpty := by
  unfold sWrite; split <;> rfl
@[simp] theorem sWrite_am (sp : Span) (r : Nat) (x : Word64) : (sWrite sp r x).am = sp.am := by
  unfold sWrite; split <;> rfl
@[simp] theorem sWrite_live (sp : Span) (r : Nat) (x : Word64) : (sWrite sp r x).live = sp.live := by
  unfold sWrite; split <;> rfl
@[simp] theorem sWrite_pl (sp : Span) (r : Nat) (x : Word64) : (sWrite sp r x).pl = sp.pl := by
  unfold sWrite; split <;> rfl
@[simp] theorem sWrite_masks (sp : Span) (r : Nat) (x : Word64) : (sWrite sp r x).masks = sp.masks := by
  unfold sWrite; split <;> rfl
@[simp] theorem sWrite_rets (sp : Span) (r : Nat) (x : Word64) : (sWrite sp r x).rets = sp.rets := by
  unfold sWrite; split <;> rfl
@[simp] theorem sWrite_queue (sp : Span) (r : Nat) (x : Word64) : (sWrite sp r x).queue = sp.queue := by
  unfold sWrite; split <;> rfl
@[simp] theorem sWrite_hdepth (sp : Span) (r : Nat) (x : Word64) : (sWrite sp r x).hdepth = sp.hdepth := by
  unfold sWrite; split <;> rfl
@[simp] theorem sWrite_step (sp : Span) (r : Nat) (x : Word64) : (sWrite sp r x).step = sp.step := by
  unfold sWrite; split <;> rfl
@[simp] theorem sWrite_regs (sp : Span) (r : Nat) (x : Word64) : (sWrite sp r x).regs = sp.regs := by
  unfold sWrite; split <;> rfl
@[simp] theorem sWrite_binds (sp : Span) (r : Nat) (x : Word64) : (sWrite sp r x).binds = sp.binds := by
  unfold sWrite; split <;> rfl
@[simp] theorem sWrite_n (sp : Span) (r : Nat) (x : Word64) : (sWrite sp r x).n = sp.n := by
  unfold sWrite; split <;> rfl
@[simp] theorem sWrite_d (sp : Span) (r : Nat) (x : Word64) : (sWrite sp r x).d = sp.d := by
  unfold sWrite; split <;> rfl
@[simp] theorem sWrite_w (sp : Span) (r : Nat) (x : Word64) : (sWrite sp r x).w = sp.w := by
  unfold sWrite; split <;> rfl
@[simp] theorem sWrite_deck (sp : Span) (r : Nat) (x : Word64) : (sWrite sp r x).deck = sp.deck := by
  unfold sWrite; split <;> rfl
@[simp] theorem sWrite_core (sp : Span) (r : Nat) (x : Word64) : (sWrite sp r x).core = sp.core := by
  unfold sWrite; split <;> rfl
@[simp] theorem sWrite_half (sp : Span) (r : Nat) (x : Word64) : (sWrite sp r x).half = sp.half := by
  unfold sWrite; split <;> rfl
@[simp] theorem sWrite_bay (sp : Span) (r : Nat) (x : Word64) : (sWrite sp r x).bay = sp.bay := by
  unfold sWrite; split <;> rfl
@[simp] theorem sWrite_age (sp : Span) (r : Nat) (x : Word64) : (sWrite sp r x).age = sp.age := by
  unfold sWrite; split <;> rfl
@[simp] theorem sWrite_pend (sp : Span) (r : Nat) (x : Word64) : (sWrite sp r x).pend = sp.pend := by
  unfold sWrite; split <;> rfl
@[simp] theorem sWrite_xfail (sp : Span) (r : Nat) (x : Word64) : (sWrite sp r x).xfail = sp.xfail := by
  unfold sWrite; split <;> rfl
@[simp] theorem sWrite_ltime (sp : Span) (r : Nat) (x : Word64) : (sWrite sp r x).ltime = sp.ltime := by
  unfold sWrite; split <;> rfl
@[simp] theorem sWrite_buffer (sp : Span) (r : Nat) (x : Word64) : (sWrite sp r x).buffer = sp.buffer := by
  unfold sWrite; split <;> rfl
@[simp] theorem sWrite_held (sp : Span) (r : Nat) (x : Word64) : (sWrite sp r x).held = sp.held := by
  unfold sWrite; split <;> rfl
@[simp] theorem sWrite_undo (sp : Span) (r : Nat) (x : Word64) : (sWrite sp r x).undo = sp.undo := by
  unfold sWrite; split <;> rfl
@[simp] theorem sWrite_colls (sp : Span) (r : Nat) (x : Word64) : (sWrite sp r x).colls = sp.colls := by
  unfold sWrite; split <;> rfl
@[simp] theorem sWrite_acquiring (sp : Span) (r : Nat) (x : Word64) : (sWrite sp r x).acquiring = sp.acquiring := by
  unfold sWrite; split <;> rfl
@[simp] theorem sWrite_halted (sp : Span) (r : Nat) (x : Word64) : (sWrite sp r x).halted = sp.halted := by
  unfold sWrite; split <;> rfl
@[simp] theorem sWrite_lost (sp : Span) (r : Nat) (x : Word64) : (sWrite sp r x).lost = sp.lost := by
  unfold sWrite; split <;> rfl
@[simp] theorem sWrite_badV (sp : Span) (r : Nat) (x : Word64) : (sWrite sp r x).badV = sp.badV := by
  unfold sWrite; split <;> rfl
@[simp] theorem sWrite_traps (sp : Span) (r : Nat) (x : Word64) : (sWrite sp r x).traps = sp.traps := by
  unfold sWrite; split <;> rfl
@[simp] theorem sWrite_acqAt (sp : Span) (r : Nat) (x : Word64) : (sWrite sp r x).acqAt = sp.acqAt := by
  unfold sWrite; split <;> rfl
@[simp] theorem sWrite_floors (sp : Span) (r : Nat) (x : Word64) : (sWrite sp r x).floors = sp.floors := by
  unfold sWrite; split <;> rfl
@[simp] theorem sWrite_bounds (sp : Span) (r : Nat) (x : Word64) : (sWrite sp r x).bounds = sp.bounds := by
  unfold sWrite; split <;> rfl
@[simp] theorem sWrite_shadow (sp : Span) (r : Nat) (x : Word64) : (sWrite sp r x).shadow = sp.shadow := by
  unfold sWrite; split <;> rfl
@[simp] theorem sWrite_ahead (sp : Span) (r : Nat) (x : Word64) : (sWrite sp r x).ahead = sp.ahead := by
  unfold sWrite; split <;> rfl
@[simp] theorem sWrite_ready (sp : Span) (r : Nat) (x : Word64) : (sWrite sp r x).ready = sp.ready := by
  unfold sWrite; split <;> rfl
@[simp] theorem sWrite_badRec (sp : Span) (r : Nat) (x : Word64) : (sWrite sp r x).badRec = sp.badRec := by
  unfold sWrite; split <;> rfl
@[simp] theorem sWrite_badTable (sp : Span) (r : Nat) (x : Word64) : (sWrite sp r x).badTable = sp.badTable := by
  unfold sWrite; split <;> rfl

/-! ### `sMarkEmpty` -/

@[simp] theorem sMarkEmpty_spc (sp : Span) (r : Nat) : (sMarkEmpty sp r).spc = sp.spc := by
  unfold sMarkEmpty; split <;> rfl
@[simp] theorem sMarkEmpty_s (sp : Span) (r : Nat) : (sMarkEmpty sp r).s = sp.s := by
  unfold sMarkEmpty; split <;> rfl
@[simp] theorem sMarkEmpty_v (sp : Span) (r : Nat) : (sMarkEmpty sp r).v = sp.v := by
  unfold sMarkEmpty; split <;> rfl
@[simp] theorem sMarkEmpty_vEmpty (sp : Span) (r : Nat) : (sMarkEmpty sp r).vEmpty = sp.vEmpty := by
  unfold sMarkEmpty; split <;> rfl
@[simp] theorem sMarkEmpty_am (sp : Span) (r : Nat) : (sMarkEmpty sp r).am = sp.am := by
  unfold sMarkEmpty; split <;> rfl
@[simp] theorem sMarkEmpty_live (sp : Span) (r : Nat) : (sMarkEmpty sp r).live = sp.live := by
  unfold sMarkEmpty; split <;> rfl
@[simp] theorem sMarkEmpty_pl (sp : Span) (r : Nat) : (sMarkEmpty sp r).pl = sp.pl := by
  unfold sMarkEmpty; split <;> rfl
@[simp] theorem sMarkEmpty_masks (sp : Span) (r : Nat) : (sMarkEmpty sp r).masks = sp.masks := by
  unfold sMarkEmpty; split <;> rfl
@[simp] theorem sMarkEmpty_rets (sp : Span) (r : Nat) : (sMarkEmpty sp r).rets = sp.rets := by
  unfold sMarkEmpty; split <;> rfl
@[simp] theorem sMarkEmpty_queue (sp : Span) (r : Nat) : (sMarkEmpty sp r).queue = sp.queue := by
  unfold sMarkEmpty; split <;> rfl
@[simp] theorem sMarkEmpty_hdepth (sp : Span) (r : Nat) : (sMarkEmpty sp r).hdepth = sp.hdepth := by
  unfold sMarkEmpty; split <;> rfl
@[simp] theorem sMarkEmpty_step (sp : Span) (r : Nat) : (sMarkEmpty sp r).step = sp.step := by
  unfold sMarkEmpty; split <;> rfl
@[simp] theorem sMarkEmpty_regs (sp : Span) (r : Nat) : (sMarkEmpty sp r).regs = sp.regs := by
  unfold sMarkEmpty; split <;> rfl
@[simp] theorem sMarkEmpty_binds (sp : Span) (r : Nat) : (sMarkEmpty sp r).binds = sp.binds := by
  unfold sMarkEmpty; split <;> rfl
@[simp] theorem sMarkEmpty_n (sp : Span) (r : Nat) : (sMarkEmpty sp r).n = sp.n := by
  unfold sMarkEmpty; split <;> rfl
@[simp] theorem sMarkEmpty_d (sp : Span) (r : Nat) : (sMarkEmpty sp r).d = sp.d := by
  unfold sMarkEmpty; split <;> rfl
@[simp] theorem sMarkEmpty_w (sp : Span) (r : Nat) : (sMarkEmpty sp r).w = sp.w := by
  unfold sMarkEmpty; split <;> rfl
@[simp] theorem sMarkEmpty_deck (sp : Span) (r : Nat) : (sMarkEmpty sp r).deck = sp.deck := by
  unfold sMarkEmpty; split <;> rfl
@[simp] theorem sMarkEmpty_core (sp : Span) (r : Nat) : (sMarkEmpty sp r).core = sp.core := by
  unfold sMarkEmpty; split <;> rfl
@[simp] theorem sMarkEmpty_half (sp : Span) (r : Nat) : (sMarkEmpty sp r).half = sp.half := by
  unfold sMarkEmpty; split <;> rfl
@[simp] theorem sMarkEmpty_bay (sp : Span) (r : Nat) : (sMarkEmpty sp r).bay = sp.bay := by
  unfold sMarkEmpty; split <;> rfl
@[simp] theorem sMarkEmpty_age (sp : Span) (r : Nat) : (sMarkEmpty sp r).age = sp.age := by
  unfold sMarkEmpty; split <;> rfl
@[simp] theorem sMarkEmpty_pend (sp : Span) (r : Nat) : (sMarkEmpty sp r).pend = sp.pend := by
  unfold sMarkEmpty; split <;> rfl
@[simp] theorem sMarkEmpty_xfail (sp : Span) (r : Nat) : (sMarkEmpty sp r).xfail = sp.xfail := by
  unfold sMarkEmpty; split <;> rfl
@[simp] theorem sMarkEmpty_ltime (sp : Span) (r : Nat) : (sMarkEmpty sp r).ltime = sp.ltime := by
  unfold sMarkEmpty; split <;> rfl
@[simp] theorem sMarkEmpty_buffer (sp : Span) (r : Nat) : (sMarkEmpty sp r).buffer = sp.buffer := by
  unfold sMarkEmpty; split <;> rfl
@[simp] theorem sMarkEmpty_held (sp : Span) (r : Nat) : (sMarkEmpty sp r).held = sp.held := by
  unfold sMarkEmpty; split <;> rfl
@[simp] theorem sMarkEmpty_undo (sp : Span) (r : Nat) : (sMarkEmpty sp r).undo = sp.undo := by
  unfold sMarkEmpty; split <;> rfl
@[simp] theorem sMarkEmpty_colls (sp : Span) (r : Nat) : (sMarkEmpty sp r).colls = sp.colls := by
  unfold sMarkEmpty; split <;> rfl
@[simp] theorem sMarkEmpty_acquiring (sp : Span) (r : Nat) : (sMarkEmpty sp r).acquiring = sp.acquiring := by
  unfold sMarkEmpty; split <;> rfl
@[simp] theorem sMarkEmpty_halted (sp : Span) (r : Nat) : (sMarkEmpty sp r).halted = sp.halted := by
  unfold sMarkEmpty; split <;> rfl
@[simp] theorem sMarkEmpty_lost (sp : Span) (r : Nat) : (sMarkEmpty sp r).lost = sp.lost := by
  unfold sMarkEmpty; split <;> rfl
@[simp] theorem sMarkEmpty_badS (sp : Span) (r : Nat) : (sMarkEmpty sp r).badS = sp.badS := by
  unfold sMarkEmpty; split <;> rfl
@[simp] theorem sMarkEmpty_badV (sp : Span) (r : Nat) : (sMarkEmpty sp r).badV = sp.badV := by
  unfold sMarkEmpty; split <;> rfl
@[simp] theorem sMarkEmpty_traps (sp : Span) (r : Nat) : (sMarkEmpty sp r).traps = sp.traps := by
  unfold sMarkEmpty; split <;> rfl
@[simp] theorem sMarkEmpty_acqAt (sp : Span) (r : Nat) : (sMarkEmpty sp r).acqAt = sp.acqAt := by
  unfold sMarkEmpty; split <;> rfl
@[simp] theorem sMarkEmpty_floors (sp : Span) (r : Nat) : (sMarkEmpty sp r).floors = sp.floors := by
  unfold sMarkEmpty; split <;> rfl
@[simp] theorem sMarkEmpty_bounds (sp : Span) (r : Nat) : (sMarkEmpty sp r).bounds = sp.bounds := by
  unfold sMarkEmpty; split <;> rfl
@[simp] theorem sMarkEmpty_shadow (sp : Span) (r : Nat) : (sMarkEmpty sp r).shadow = sp.shadow := by
  unfold sMarkEmpty; split <;> rfl
@[simp] theorem sMarkEmpty_ahead (sp : Span) (r : Nat) : (sMarkEmpty sp r).ahead = sp.ahead := by
  unfold sMarkEmpty; split <;> rfl
@[simp] theorem sMarkEmpty_ready (sp : Span) (r : Nat) : (sMarkEmpty sp r).ready = sp.ready := by
  unfold sMarkEmpty; split <;> rfl
@[simp] theorem sMarkEmpty_badRec (sp : Span) (r : Nat) : (sMarkEmpty sp r).badRec = sp.badRec := by
  unfold sMarkEmpty; split <;> rfl
@[simp] theorem sMarkEmpty_badTable (sp : Span) (r : Nat) : (sMarkEmpty sp r).badTable = sp.badTable := by
  unfold sMarkEmpty; split <;> rfl

/-! ### `sMarkFull` -/

@[simp] theorem sMarkFull_spc (sp : Span) (r : Nat) : (sMarkFull sp r).spc = sp.spc := by
  unfold sMarkFull; split <;> rfl
@[simp] theorem sMarkFull_s (sp : Span) (r : Nat) : (sMarkFull sp r).s = sp.s := by
  unfold sMarkFull; split <;> rfl
@[simp] theorem sMarkFull_v (sp : Span) (r : Nat) : (sMarkFull sp r).v = sp.v := by
  unfold sMarkFull; split <;> rfl
@[simp] theorem sMarkFull_vEmpty (sp : Span) (r : Nat) : (sMarkFull sp r).vEmpty = sp.vEmpty := by
  unfold sMarkFull; split <;> rfl
@[simp] theorem sMarkFull_am (sp : Span) (r : Nat) : (sMarkFull sp r).am = sp.am := by
  unfold sMarkFull; split <;> rfl
@[simp] theorem sMarkFull_live (sp : Span) (r : Nat) : (sMarkFull sp r).live = sp.live := by
  unfold sMarkFull; split <;> rfl
@[simp] theorem sMarkFull_pl (sp : Span) (r : Nat) : (sMarkFull sp r).pl = sp.pl := by
  unfold sMarkFull; split <;> rfl
@[simp] theorem sMarkFull_masks (sp : Span) (r : Nat) : (sMarkFull sp r).masks = sp.masks := by
  unfold sMarkFull; split <;> rfl
@[simp] theorem sMarkFull_rets (sp : Span) (r : Nat) : (sMarkFull sp r).rets = sp.rets := by
  unfold sMarkFull; split <;> rfl
@[simp] theorem sMarkFull_queue (sp : Span) (r : Nat) : (sMarkFull sp r).queue = sp.queue := by
  unfold sMarkFull; split <;> rfl
@[simp] theorem sMarkFull_hdepth (sp : Span) (r : Nat) : (sMarkFull sp r).hdepth = sp.hdepth := by
  unfold sMarkFull; split <;> rfl
@[simp] theorem sMarkFull_step (sp : Span) (r : Nat) : (sMarkFull sp r).step = sp.step := by
  unfold sMarkFull; split <;> rfl
@[simp] theorem sMarkFull_regs (sp : Span) (r : Nat) : (sMarkFull sp r).regs = sp.regs := by
  unfold sMarkFull; split <;> rfl
@[simp] theorem sMarkFull_binds (sp : Span) (r : Nat) : (sMarkFull sp r).binds = sp.binds := by
  unfold sMarkFull; split <;> rfl
@[simp] theorem sMarkFull_n (sp : Span) (r : Nat) : (sMarkFull sp r).n = sp.n := by
  unfold sMarkFull; split <;> rfl
@[simp] theorem sMarkFull_d (sp : Span) (r : Nat) : (sMarkFull sp r).d = sp.d := by
  unfold sMarkFull; split <;> rfl
@[simp] theorem sMarkFull_w (sp : Span) (r : Nat) : (sMarkFull sp r).w = sp.w := by
  unfold sMarkFull; split <;> rfl
@[simp] theorem sMarkFull_deck (sp : Span) (r : Nat) : (sMarkFull sp r).deck = sp.deck := by
  unfold sMarkFull; split <;> rfl
@[simp] theorem sMarkFull_core (sp : Span) (r : Nat) : (sMarkFull sp r).core = sp.core := by
  unfold sMarkFull; split <;> rfl
@[simp] theorem sMarkFull_half (sp : Span) (r : Nat) : (sMarkFull sp r).half = sp.half := by
  unfold sMarkFull; split <;> rfl
@[simp] theorem sMarkFull_bay (sp : Span) (r : Nat) : (sMarkFull sp r).bay = sp.bay := by
  unfold sMarkFull; split <;> rfl
@[simp] theorem sMarkFull_age (sp : Span) (r : Nat) : (sMarkFull sp r).age = sp.age := by
  unfold sMarkFull; split <;> rfl
@[simp] theorem sMarkFull_pend (sp : Span) (r : Nat) : (sMarkFull sp r).pend = sp.pend := by
  unfold sMarkFull; split <;> rfl
@[simp] theorem sMarkFull_xfail (sp : Span) (r : Nat) : (sMarkFull sp r).xfail = sp.xfail := by
  unfold sMarkFull; split <;> rfl
@[simp] theorem sMarkFull_ltime (sp : Span) (r : Nat) : (sMarkFull sp r).ltime = sp.ltime := by
  unfold sMarkFull; split <;> rfl
@[simp] theorem sMarkFull_buffer (sp : Span) (r : Nat) : (sMarkFull sp r).buffer = sp.buffer := by
  unfold sMarkFull; split <;> rfl
@[simp] theorem sMarkFull_held (sp : Span) (r : Nat) : (sMarkFull sp r).held = sp.held := by
  unfold sMarkFull; split <;> rfl
@[simp] theorem sMarkFull_undo (sp : Span) (r : Nat) : (sMarkFull sp r).undo = sp.undo := by
  unfold sMarkFull; split <;> rfl
@[simp] theorem sMarkFull_colls (sp : Span) (r : Nat) : (sMarkFull sp r).colls = sp.colls := by
  unfold sMarkFull; split <;> rfl
@[simp] theorem sMarkFull_acquiring (sp : Span) (r : Nat) : (sMarkFull sp r).acquiring = sp.acquiring := by
  unfold sMarkFull; split <;> rfl
@[simp] theorem sMarkFull_halted (sp : Span) (r : Nat) : (sMarkFull sp r).halted = sp.halted := by
  unfold sMarkFull; split <;> rfl
@[simp] theorem sMarkFull_lost (sp : Span) (r : Nat) : (sMarkFull sp r).lost = sp.lost := by
  unfold sMarkFull; split <;> rfl
@[simp] theorem sMarkFull_badS (sp : Span) (r : Nat) : (sMarkFull sp r).badS = sp.badS := by
  unfold sMarkFull; split <;> rfl
@[simp] theorem sMarkFull_badV (sp : Span) (r : Nat) : (sMarkFull sp r).badV = sp.badV := by
  unfold sMarkFull; split <;> rfl
@[simp] theorem sMarkFull_traps (sp : Span) (r : Nat) : (sMarkFull sp r).traps = sp.traps := by
  unfold sMarkFull; split <;> rfl
@[simp] theorem sMarkFull_acqAt (sp : Span) (r : Nat) : (sMarkFull sp r).acqAt = sp.acqAt := by
  unfold sMarkFull; split <;> rfl
@[simp] theorem sMarkFull_floors (sp : Span) (r : Nat) : (sMarkFull sp r).floors = sp.floors := by
  unfold sMarkFull; split <;> rfl
@[simp] theorem sMarkFull_bounds (sp : Span) (r : Nat) : (sMarkFull sp r).bounds = sp.bounds := by
  unfold sMarkFull; split <;> rfl
@[simp] theorem sMarkFull_shadow (sp : Span) (r : Nat) : (sMarkFull sp r).shadow = sp.shadow := by
  unfold sMarkFull; split <;> rfl
@[simp] theorem sMarkFull_ahead (sp : Span) (r : Nat) : (sMarkFull sp r).ahead = sp.ahead := by
  unfold sMarkFull; split <;> rfl
@[simp] theorem sMarkFull_ready (sp : Span) (r : Nat) : (sMarkFull sp r).ready = sp.ready := by
  unfold sMarkFull; split <;> rfl
@[simp] theorem sMarkFull_badRec (sp : Span) (r : Nat) : (sMarkFull sp r).badRec = sp.badRec := by
  unfold sMarkFull; split <;> rfl
@[simp] theorem sMarkFull_badTable (sp : Span) (r : Nat) : (sMarkFull sp r).badTable = sp.badTable := by
  unfold sMarkFull; split <;> rfl

/-! ### `sFill` -/

@[simp] theorem sFill_spc (sp : Span) (r : Nat) (x : Word64) : (sFill sp r x).spc = sp.spc := by simp [sFill]
@[simp] theorem sFill_v (sp : Span) (r : Nat) (x : Word64) : (sFill sp r x).v = sp.v := by simp [sFill]
@[simp] theorem sFill_vEmpty (sp : Span) (r : Nat) (x : Word64) : (sFill sp r x).vEmpty = sp.vEmpty := by simp [sFill]
@[simp] theorem sFill_am (sp : Span) (r : Nat) (x : Word64) : (sFill sp r x).am = sp.am := by simp [sFill]
@[simp] theorem sFill_live (sp : Span) (r : Nat) (x : Word64) : (sFill sp r x).live = sp.live := by simp [sFill]
@[simp] theorem sFill_pl (sp : Span) (r : Nat) (x : Word64) : (sFill sp r x).pl = sp.pl := by simp [sFill]
@[simp] theorem sFill_masks (sp : Span) (r : Nat) (x : Word64) : (sFill sp r x).masks = sp.masks := by simp [sFill]
@[simp] theorem sFill_rets (sp : Span) (r : Nat) (x : Word64) : (sFill sp r x).rets = sp.rets := by simp [sFill]
@[simp] theorem sFill_queue (sp : Span) (r : Nat) (x : Word64) : (sFill sp r x).queue = sp.queue := by simp [sFill]
@[simp] theorem sFill_hdepth (sp : Span) (r : Nat) (x : Word64) : (sFill sp r x).hdepth = sp.hdepth := by simp [sFill]
@[simp] theorem sFill_step (sp : Span) (r : Nat) (x : Word64) : (sFill sp r x).step = sp.step := by simp [sFill]
@[simp] theorem sFill_regs (sp : Span) (r : Nat) (x : Word64) : (sFill sp r x).regs = sp.regs := by simp [sFill]
@[simp] theorem sFill_binds (sp : Span) (r : Nat) (x : Word64) : (sFill sp r x).binds = sp.binds := by simp [sFill]
@[simp] theorem sFill_n (sp : Span) (r : Nat) (x : Word64) : (sFill sp r x).n = sp.n := by simp [sFill]
@[simp] theorem sFill_d (sp : Span) (r : Nat) (x : Word64) : (sFill sp r x).d = sp.d := by simp [sFill]
@[simp] theorem sFill_w (sp : Span) (r : Nat) (x : Word64) : (sFill sp r x).w = sp.w := by simp [sFill]
@[simp] theorem sFill_deck (sp : Span) (r : Nat) (x : Word64) : (sFill sp r x).deck = sp.deck := by simp [sFill]
@[simp] theorem sFill_core (sp : Span) (r : Nat) (x : Word64) : (sFill sp r x).core = sp.core := by simp [sFill]
@[simp] theorem sFill_half (sp : Span) (r : Nat) (x : Word64) : (sFill sp r x).half = sp.half := by simp [sFill]
@[simp] theorem sFill_bay (sp : Span) (r : Nat) (x : Word64) : (sFill sp r x).bay = sp.bay := by simp [sFill]
@[simp] theorem sFill_age (sp : Span) (r : Nat) (x : Word64) : (sFill sp r x).age = sp.age := by simp [sFill]
@[simp] theorem sFill_pend (sp : Span) (r : Nat) (x : Word64) : (sFill sp r x).pend = sp.pend := by simp [sFill]
@[simp] theorem sFill_xfail (sp : Span) (r : Nat) (x : Word64) : (sFill sp r x).xfail = sp.xfail := by simp [sFill]
@[simp] theorem sFill_ltime (sp : Span) (r : Nat) (x : Word64) : (sFill sp r x).ltime = sp.ltime := by simp [sFill]
@[simp] theorem sFill_buffer (sp : Span) (r : Nat) (x : Word64) : (sFill sp r x).buffer = sp.buffer := by simp [sFill]
@[simp] theorem sFill_held (sp : Span) (r : Nat) (x : Word64) : (sFill sp r x).held = sp.held := by simp [sFill]
@[simp] theorem sFill_undo (sp : Span) (r : Nat) (x : Word64) : (sFill sp r x).undo = sp.undo := by simp [sFill]
@[simp] theorem sFill_colls (sp : Span) (r : Nat) (x : Word64) : (sFill sp r x).colls = sp.colls := by simp [sFill]
@[simp] theorem sFill_acquiring (sp : Span) (r : Nat) (x : Word64) : (sFill sp r x).acquiring = sp.acquiring := by simp [sFill]
@[simp] theorem sFill_halted (sp : Span) (r : Nat) (x : Word64) : (sFill sp r x).halted = sp.halted := by simp [sFill]
@[simp] theorem sFill_lost (sp : Span) (r : Nat) (x : Word64) : (sFill sp r x).lost = sp.lost := by simp [sFill]
@[simp] theorem sFill_badV (sp : Span) (r : Nat) (x : Word64) : (sFill sp r x).badV = sp.badV := by simp [sFill]
@[simp] theorem sFill_traps (sp : Span) (r : Nat) (x : Word64) : (sFill sp r x).traps = sp.traps := by simp [sFill]
@[simp] theorem sFill_acqAt (sp : Span) (r : Nat) (x : Word64) : (sFill sp r x).acqAt = sp.acqAt := by simp [sFill]
@[simp] theorem sFill_floors (sp : Span) (r : Nat) (x : Word64) : (sFill sp r x).floors = sp.floors := by simp [sFill]
@[simp] theorem sFill_bounds (sp : Span) (r : Nat) (x : Word64) : (sFill sp r x).bounds = sp.bounds := by simp [sFill]
@[simp] theorem sFill_shadow (sp : Span) (r : Nat) (x : Word64) : (sFill sp r x).shadow = sp.shadow := by simp [sFill]
@[simp] theorem sFill_ahead (sp : Span) (r : Nat) (x : Word64) : (sFill sp r x).ahead = sp.ahead := by simp [sFill]
@[simp] theorem sFill_ready (sp : Span) (r : Nat) (x : Word64) : (sFill sp r x).ready = sp.ready := by simp [sFill]
@[simp] theorem sFill_badRec (sp : Span) (r : Nat) (x : Word64) : (sFill sp r x).badRec = sp.badRec := by simp [sFill]
@[simp] theorem sFill_badTable (sp : Span) (r : Nat) (x : Word64) : (sFill sp r x).badTable = sp.badTable := by simp [sFill]

/-! ### Scalar registers (R2, R115) -/

@[simp] theorem sRead_63 (sp : Span) : sRead sp 63 = 0 := rfl
@[simp] theorem sFull_63 (sp : Span) : sFull sp 63 = true := rfl
@[simp] theorem sWrite_63 (sp : Span) (x : Word64) : sWrite sp 63 x = sp := rfl

theorem sRead_sWrite (sp : Span) (r : Nat) (x : Word64) (q : Nat) :
    sRead (sWrite sp r x) q = if q = r ∧ q ≠ 63 then x else sRead sp q := by
  unfold sRead sWrite
  by_cases h : r = 63
  · subst h
    by_cases hq : q = 63 <;> simp [hq]
  · by_cases hq : q = 63
    · simp [hq]
    · simp [h, hq, mapGet_mapSet]

theorem sRead_sWrite_other (sp : Span) {r q : Nat} (x : Word64) (h : q ≠ r) : sRead (sWrite sp r x) q = sRead sp q := by
  simp [sRead_sWrite, h]

@[simp] theorem sRead_sMarkEmpty (sp : Span) (r q : Nat) : sRead (sMarkEmpty sp r) q = sRead sp q := by
  simp [sRead]
@[simp] theorem sRead_sMarkFull (sp : Span) (r q : Nat) : sRead (sMarkFull sp r) q = sRead sp q := by
  simp [sRead]
theorem sRead_sFill (sp : Span) (r : Nat) (x : Word64) (q : Nat) :
    sRead (sFill sp r x) q = if q = r ∧ q ≠ 63 then x else sRead sp q := by
  simp [sFill, sRead_sWrite]
@[simp] theorem sRead_advance (sp : Span) (q : Nat) : sRead (advance sp) q = sRead sp q := rfl
@[simp] theorem sRead_countUnit (sp : Span) (q : Nat) : sRead (countUnit sp) q = sRead sp q := rfl
@[simp] theorem vRead_advance (sp : Span) (r l : Nat) : vRead (advance sp) r l = vRead sp r l := rfl

/-! ### Vector registers (R71) -/

/-- Lanes are below 32, so two places are equal only where register and lane are. -/
theorem vPlace_inj {r l r' l' : Nat} (h : l < 32) (h' : l' < 32) : 32 * r + l = 32 * r' + l' ↔ r = r' ∧ l = l' := by
  omega

theorem vRead_vWrite (sp : Span) (r l : Nat) (x : Word32) (r' l' : Nat) (h : l < 32) (h' : l' < 32) :
    vRead (vWrite sp r l x) r' l' = if r' = r ∧ l' = l then x else vRead sp r' l' := by
  simp [vRead, vWrite, mapGet_mapSet, vPlace_inj h' h]

end Sys2Proof.Machine
end

