-- ==== Sys2Proof/Laws/State.lean ====
section
/-! SUPPORT. What each named update of the state does to each field: true by computation, so that no proof unfolds a
record update. -/

namespace Sys2Proof.Machine

/-! ### `putCore` -/

@[simp] theorem putCore_agenda (s : State) (g : Nat) (c : Core) : (putCore s g c).agenda = s.agenda := rfl
@[simp] theorem putCore_fresh (s : State) (g : Nat) (c : Core) : (putCore s g c).fresh = s.fresh := rfl
@[simp] theorem putCore_cur (s : State) (g : Nat) (c : Core) : (putCore s g c).cur = s.cur := rfl
@[simp] theorem putCore_cycle (s : State) (g : Nat) (c : Core) : (putCore s g c).cycle = s.cycle := rfl
@[simp] theorem putCore_ticks (s : State) (g : Nat) (c : Core) : (putCore s g c).ticks = s.ticks := rfl
@[simp] theorem putCore_nextId (s : State) (g : Nat) (c : Core) : (putCore s g c).nextId = s.nextId := rfl
@[simp] theorem putCore_mem (s : State) (g : Nat) (c : Core) : (putCore s g c).mem = s.mem := rfl
@[simp] theorem putCore_lines (s : State) (g : Nat) (c : Core) : (putCore s g c).lines = s.lines := rfl
@[simp] theorem putCore_spans (s : State) (g : Nat) (c : Core) : (putCore s g c).spans = s.spans := rfl
@[simp] theorem putCore_decks (s : State) (g : Nat) (c : Core) : (putCore s g c).decks = s.decks := rfl
@[simp] theorem putCore_launches (s : State) (g : Nat) (c : Core) : (putCore s g c).launches = s.launches := rfl
@[simp] theorem putCore_cores (s : State) (g : Nat) (c : Core) : (putCore s g c).cores = mapPut s.cores g c := rfl
@[simp] theorem putCore_ctxs (s : State) (g : Nat) (c : Core) : (putCore s g c).ctxs = s.ctxs := rfl
@[simp] theorem putCore_nets (s : State) (g : Nat) (c : Core) : (putCore s g c).nets = s.nets := rfl
@[simp] theorem putCore_reqs (s : State) (g : Nat) (c : Core) : (putCore s g c).reqs = s.reqs := rfl
@[simp] theorem putCore_loads (s : State) (g : Nat) (c : Core) : (putCore s g c).loads = s.loads := rfl
@[simp] theorem putCore_merges (s : State) (g : Nat) (c : Core) : (putCore s g c).merges = s.merges := rfl
@[simp] theorem putCore_walks (s : State) (g : Nat) (c : Core) : (putCore s g c).walks = s.walks := rfl
@[simp] theorem putCore_uppers (s : State) (g : Nat) (c : Core) : (putCore s g c).uppers = s.uppers := rfl
@[simp] theorem putCore_uses (s : State) (g : Nat) (c : Core) : (putCore s g c).uses = s.uses := rfl
@[simp] theorem putCore_faults (s : State) (g : Nat) (c : Core) : (putCore s g c).faults = s.faults := rfl
@[simp] theorem putCore_fails (s : State) (g : Nat) (c : Core) : (putCore s g c).fails = s.fails := rfl
@[simp] theorem putCore_box (s : State) (g : Nat) (c : Core) : (putCore s g c).box = s.box := rfl
@[simp] theorem putCore_rings (s : State) (g : Nat) (c : Core) : (putCore s g c).rings = s.rings := rfl
@[simp] theorem putCore_lands (s : State) (g : Nat) (c : Core) : (putCore s g c).lands = s.lands := rfl
@[simp] theorem putCore_runs (s : State) (g : Nat) (c : Core) : (putCore s g c).runs = s.runs := rfl
@[simp] theorem putCore_images (s : State) (g : Nat) (c : Core) : (putCore s g c).images = s.images := rfl
@[simp] theorem putCore_fe (s : State) (g : Nat) (c : Core) : (putCore s g c).fe = s.fe := rfl
@[simp] theorem putCore_mg (s : State) (g : Nat) (c : Core) : (putCore s g c).mg = s.mg := rfl
@[simp] theorem putCore_meshMsgs (s : State) (g : Nat) (c : Core) : (putCore s g c).meshMsgs = s.meshMsgs := rfl
@[simp] theorem putCore_rounds (s : State) (g : Nat) (c : Core) : (putCore s g c).rounds = s.rounds := rfl
@[simp] theorem putCore_fab (s : State) (g : Nat) (c : Core) : (putCore s g c).fab = s.fab := rfl
@[simp] theorem putCore_ord (s : State) (g : Nat) (c : Core) : (putCore s g c).ord = s.ord := rfl

/-! ### `putCtx` -/

@[simp] theorem putCtx_agenda (s : State) (g : Nat) (h : Bool) (c : Ctx) : (putCtx s g h c).agenda = s.agenda := rfl
@[simp] theorem putCtx_fresh (s : State) (g : Nat) (h : Bool) (c : Ctx) : (putCtx s g h c).fresh = s.fresh := rfl
@[simp] theorem putCtx_cur (s : State) (g : Nat) (h : Bool) (c : Ctx) : (putCtx s g h c).cur = s.cur := rfl
@[simp] theorem putCtx_cycle (s : State) (g : Nat) (h : Bool) (c : Ctx) : (putCtx s g h c).cycle = s.cycle := rfl
@[simp] theorem putCtx_ticks (s : State) (g : Nat) (h : Bool) (c : Ctx) : (putCtx s g h c).ticks = s.ticks := rfl
@[simp] theorem putCtx_nextId (s : State) (g : Nat) (h : Bool) (c : Ctx) : (putCtx s g h c).nextId = s.nextId := rfl
@[simp] theorem putCtx_mem (s : State) (g : Nat) (h : Bool) (c : Ctx) : (putCtx s g h c).mem = s.mem := rfl
@[simp] theorem putCtx_lines (s : State) (g : Nat) (h : Bool) (c : Ctx) : (putCtx s g h c).lines = s.lines := rfl
@[simp] theorem putCtx_spans (s : State) (g : Nat) (h : Bool) (c : Ctx) : (putCtx s g h c).spans = s.spans := rfl
@[simp] theorem putCtx_decks (s : State) (g : Nat) (h : Bool) (c : Ctx) : (putCtx s g h c).decks = s.decks := rfl
@[simp] theorem putCtx_launches (s : State) (g : Nat) (h : Bool) (c : Ctx) : (putCtx s g h c).launches = s.launches := rfl
@[simp] theorem putCtx_cores (s : State) (g : Nat) (h : Bool) (c : Ctx) : (putCtx s g h c).cores = s.cores := rfl
@[simp] theorem putCtx_ctxs (s : State) (g : Nat) (h : Bool) (c : Ctx) : (putCtx s g h c).ctxs = mapPut s.ctxs (ctxKey g h) c := rfl
@[simp] theorem putCtx_nets (s : State) (g : Nat) (h : Bool) (c : Ctx) : (putCtx s g h c).nets = s.nets := rfl
@[simp] theorem putCtx_reqs (s : State) (g : Nat) (h : Bool) (c : Ctx) : (putCtx s g h c).reqs = s.reqs := rfl
@[simp] theorem putCtx_loads (s : State) (g : Nat) (h : Bool) (c : Ctx) : (putCtx s g h c).loads = s.loads := rfl
@[simp] theorem putCtx_merges (s : State) (g : Nat) (h : Bool) (c : Ctx) : (putCtx s g h c).merges = s.merges := rfl
@[simp] theorem putCtx_walks (s : State) (g : Nat) (h : Bool) (c : Ctx) : (putCtx s g h c).walks = s.walks := rfl
@[simp] theorem putCtx_uppers (s : State) (g : Nat) (h : Bool) (c : Ctx) : (putCtx s g h c).uppers = s.uppers := rfl
@[simp] theorem putCtx_uses (s : State) (g : Nat) (h : Bool) (c : Ctx) : (putCtx s g h c).uses = s.uses := rfl
@[simp] theorem putCtx_faults (s : State) (g : Nat) (h : Bool) (c : Ctx) : (putCtx s g h c).faults = s.faults := rfl
@[simp] theorem putCtx_fails (s : State) (g : Nat) (h : Bool) (c : Ctx) : (putCtx s g h c).fails = s.fails := rfl
@[simp] theorem putCtx_box (s : State) (g : Nat) (h : Bool) (c : Ctx) : (putCtx s g h c).box = s.box := rfl
@[simp] theorem putCtx_rings (s : State) (g : Nat) (h : Bool) (c : Ctx) : (putCtx s g h c).rings = s.rings := rfl
@[simp] theorem putCtx_lands (s : State) (g : Nat) (h : Bool) (c : Ctx) : (putCtx s g h c).lands = s.lands := rfl
@[simp] theorem putCtx_runs (s : State) (g : Nat) (h : Bool) (c : Ctx) : (putCtx s g h c).runs = s.runs := rfl
@[simp] theorem putCtx_images (s : State) (g : Nat) (h : Bool) (c : Ctx) : (putCtx s g h c).images = s.images := rfl
@[simp] theorem putCtx_fe (s : State) (g : Nat) (h : Bool) (c : Ctx) : (putCtx s g h c).fe = s.fe := rfl
@[simp] theorem putCtx_mg (s : State) (g : Nat) (h : Bool) (c : Ctx) : (putCtx s g h c).mg = s.mg := rfl
@[simp] theorem putCtx_meshMsgs (s : State) (g : Nat) (h : Bool) (c : Ctx) : (putCtx s g h c).meshMsgs = s.meshMsgs := rfl
@[simp] theorem putCtx_rounds (s : State) (g : Nat) (h : Bool) (c : Ctx) : (putCtx s g h c).rounds = s.rounds := rfl
@[simp] theorem putCtx_fab (s : State) (g : Nat) (h : Bool) (c : Ctx) : (putCtx s g h c).fab = s.fab := rfl
@[simp] theorem putCtx_ord (s : State) (g : Nat) (h : Bool) (c : Ctx) : (putCtx s g h c).ord = s.ord := rfl

/-! ### `putSpan` -/

@[simp] theorem putSpan_agenda (s : State) (u : Nat) (sp : Span) : (putSpan s u sp).agenda = s.agenda := rfl
@[simp] theorem putSpan_fresh (s : State) (u : Nat) (sp : Span) : (putSpan s u sp).fresh = s.fresh := rfl
@[simp] theorem putSpan_cur (s : State) (u : Nat) (sp : Span) : (putSpan s u sp).cur = s.cur := rfl
@[simp] theorem putSpan_cycle (s : State) (u : Nat) (sp : Span) : (putSpan s u sp).cycle = s.cycle := rfl
@[simp] theorem putSpan_ticks (s : State) (u : Nat) (sp : Span) : (putSpan s u sp).ticks = s.ticks := rfl
@[simp] theorem putSpan_nextId (s : State) (u : Nat) (sp : Span) : (putSpan s u sp).nextId = s.nextId := rfl
@[simp] theorem putSpan_mem (s : State) (u : Nat) (sp : Span) : (putSpan s u sp).mem = s.mem := rfl
@[simp] theorem putSpan_lines (s : State) (u : Nat) (sp : Span) : (putSpan s u sp).lines = s.lines := rfl
@[simp] theorem putSpan_spans (s : State) (u : Nat) (sp : Span) : (putSpan s u sp).spans = mapPut s.spans u sp := rfl
@[simp] theorem putSpan_decks (s : State) (u : Nat) (sp : Span) : (putSpan s u sp).decks = s.decks := rfl
@[simp] theorem putSpan_launches (s : State) (u : Nat) (sp : Span) : (putSpan s u sp).launches = s.launches := rfl
@[simp] theorem putSpan_cores (s : State) (u : Nat) (sp : Span) : (putSpan s u sp).cores = s.cores := rfl
@[simp] theorem putSpan_ctxs (s : State) (u : Nat) (sp : Span) : (putSpan s u sp).ctxs = s.ctxs := rfl
@[simp] theorem putSpan_nets (s : State) (u : Nat) (sp : Span) : (putSpan s u sp).nets = s.nets := rfl
@[simp] theorem putSpan_reqs (s : State) (u : Nat) (sp : Span) : (putSpan s u sp).reqs = s.reqs := rfl
@[simp] theorem putSpan_loads (s : State) (u : Nat) (sp : Span) : (putSpan s u sp).loads = s.loads := rfl
@[simp] theorem putSpan_merges (s : State) (u : Nat) (sp : Span) : (putSpan s u sp).merges = s.merges := rfl
@[simp] theorem putSpan_walks (s : State) (u : Nat) (sp : Span) : (putSpan s u sp).walks = s.walks := rfl
@[simp] theorem putSpan_uppers (s : State) (u : Nat) (sp : Span) : (putSpan s u sp).uppers = s.uppers := rfl
@[simp] theorem putSpan_uses (s : State) (u : Nat) (sp : Span) : (putSpan s u sp).uses = s.uses := rfl
@[simp] theorem putSpan_faults (s : State) (u : Nat) (sp : Span) : (putSpan s u sp).faults = s.faults := rfl
@[simp] theorem putSpan_fails (s : State) (u : Nat) (sp : Span) : (putSpan s u sp).fails = s.fails := rfl
@[simp] theorem putSpan_box (s : State) (u : Nat) (sp : Span) : (putSpan s u sp).box = s.box := rfl
@[simp] theorem putSpan_rings (s : State) (u : Nat) (sp : Span) : (putSpan s u sp).rings = s.rings := rfl
@[simp] theorem putSpan_lands (s : State) (u : Nat) (sp : Span) : (putSpan s u sp).lands = s.lands := rfl
@[simp] theorem putSpan_runs (s : State) (u : Nat) (sp : Span) : (putSpan s u sp).runs = s.runs := rfl
@[simp] theorem putSpan_images (s : State) (u : Nat) (sp : Span) : (putSpan s u sp).images = s.images := rfl
@[simp] theorem putSpan_fe (s : State) (u : Nat) (sp : Span) : (putSpan s u sp).fe = s.fe := rfl
@[simp] theorem putSpan_mg (s : State) (u : Nat) (sp : Span) : (putSpan s u sp).mg = s.mg := rfl
@[simp] theorem putSpan_meshMsgs (s : State) (u : Nat) (sp : Span) : (putSpan s u sp).meshMsgs = s.meshMsgs := rfl
@[simp] theorem putSpan_rounds (s : State) (u : Nat) (sp : Span) : (putSpan s u sp).rounds = s.rounds := rfl
@[simp] theorem putSpan_fab (s : State) (u : Nat) (sp : Span) : (putSpan s u sp).fab = s.fab := rfl
@[simp] theorem putSpan_ord (s : State) (u : Nat) (sp : Span) : (putSpan s u sp).ord = s.ord := rfl

/-! ### `putDeck` -/

@[simp] theorem putDeck_agenda (s : State) (k : Nat) (d : Deck) : (putDeck s k d).agenda = s.agenda := rfl
@[simp] theorem putDeck_fresh (s : State) (k : Nat) (d : Deck) : (putDeck s k d).fresh = s.fresh := rfl
@[simp] theorem putDeck_cur (s : State) (k : Nat) (d : Deck) : (putDeck s k d).cur = s.cur := rfl
@[simp] theorem putDeck_cycle (s : State) (k : Nat) (d : Deck) : (putDeck s k d).cycle = s.cycle := rfl
@[simp] theorem putDeck_ticks (s : State) (k : Nat) (d : Deck) : (putDeck s k d).ticks = s.ticks := rfl
@[simp] theorem putDeck_nextId (s : State) (k : Nat) (d : Deck) : (putDeck s k d).nextId = s.nextId := rfl
@[simp] theorem putDeck_mem (s : State) (k : Nat) (d : Deck) : (putDeck s k d).mem = s.mem := rfl
@[simp] theorem putDeck_lines (s : State) (k : Nat) (d : Deck) : (putDeck s k d).lines = s.lines := rfl
@[simp] theorem putDeck_spans (s : State) (k : Nat) (d : Deck) : (putDeck s k d).spans = s.spans := rfl
@[simp] theorem putDeck_decks (s : State) (k : Nat) (d : Deck) : (putDeck s k d).decks = mapPut s.decks k d := rfl
@[simp] theorem putDeck_launches (s : State) (k : Nat) (d : Deck) : (putDeck s k d).launches = s.launches := rfl
@[simp] theorem putDeck_cores (s : State) (k : Nat) (d : Deck) : (putDeck s k d).cores = s.cores := rfl
@[simp] theorem putDeck_ctxs (s : State) (k : Nat) (d : Deck) : (putDeck s k d).ctxs = s.ctxs := rfl
@[simp] theorem putDeck_nets (s : State) (k : Nat) (d : Deck) : (putDeck s k d).nets = s.nets := rfl
@[simp] theorem putDeck_reqs (s : State) (k : Nat) (d : Deck) : (putDeck s k d).reqs = s.reqs := rfl
@[simp] theorem putDeck_loads (s : State) (k : Nat) (d : Deck) : (putDeck s k d).loads = s.loads := rfl
@[simp] theorem putDeck_merges (s : State) (k : Nat) (d : Deck) : (putDeck s k d).merges = s.merges := rfl
@[simp] theorem putDeck_walks (s : State) (k : Nat) (d : Deck) : (putDeck s k d).walks = s.walks := rfl
@[simp] theorem putDeck_uppers (s : State) (k : Nat) (d : Deck) : (putDeck s k d).uppers = s.uppers := rfl
@[simp] theorem putDeck_uses (s : State) (k : Nat) (d : Deck) : (putDeck s k d).uses = s.uses := rfl
@[simp] theorem putDeck_faults (s : State) (k : Nat) (d : Deck) : (putDeck s k d).faults = s.faults := rfl
@[simp] theorem putDeck_fails (s : State) (k : Nat) (d : Deck) : (putDeck s k d).fails = s.fails := rfl
@[simp] theorem putDeck_box (s : State) (k : Nat) (d : Deck) : (putDeck s k d).box = s.box := rfl
@[simp] theorem putDeck_rings (s : State) (k : Nat) (d : Deck) : (putDeck s k d).rings = s.rings := rfl
@[simp] theorem putDeck_lands (s : State) (k : Nat) (d : Deck) : (putDeck s k d).lands = s.lands := rfl
@[simp] theorem putDeck_runs (s : State) (k : Nat) (d : Deck) : (putDeck s k d).runs = s.runs := rfl
@[simp] theorem putDeck_images (s : State) (k : Nat) (d : Deck) : (putDeck s k d).images = s.images := rfl
@[simp] theorem putDeck_fe (s : State) (k : Nat) (d : Deck) : (putDeck s k d).fe = s.fe := rfl
@[simp] theorem putDeck_mg (s : State) (k : Nat) (d : Deck) : (putDeck s k d).mg = s.mg := rfl
@[simp] theorem putDeck_meshMsgs (s : State) (k : Nat) (d : Deck) : (putDeck s k d).meshMsgs = s.meshMsgs := rfl
@[simp] theorem putDeck_rounds (s : State) (k : Nat) (d : Deck) : (putDeck s k d).rounds = s.rounds := rfl
@[simp] theorem putDeck_fab (s : State) (k : Nat) (d : Deck) : (putDeck s k d).fab = s.fab := rfl
@[simp] theorem putDeck_ord (s : State) (k : Nat) (d : Deck) : (putDeck s k d).ord = s.ord := rfl

/-! ### `putReq` -/

@[simp] theorem putReq_agenda (s : State) (i : Nat) (r : Req) : (putReq s i r).agenda = s.agenda := rfl
@[simp] theorem putReq_fresh (s : State) (i : Nat) (r : Req) : (putReq s i r).fresh = s.fresh := rfl
@[simp] theorem putReq_cur (s : State) (i : Nat) (r : Req) : (putReq s i r).cur = s.cur := rfl
@[simp] theorem putReq_cycle (s : State) (i : Nat) (r : Req) : (putReq s i r).cycle = s.cycle := rfl
@[simp] theorem putReq_ticks (s : State) (i : Nat) (r : Req) : (putReq s i r).ticks = s.ticks := rfl
@[simp] theorem putReq_nextId (s : State) (i : Nat) (r : Req) : (putReq s i r).nextId = s.nextId := rfl
@[simp] theorem putReq_mem (s : State) (i : Nat) (r : Req) : (putReq s i r).mem = s.mem := rfl
@[simp] theorem putReq_lines (s : State) (i : Nat) (r : Req) : (putReq s i r).lines = s.lines := rfl
@[simp] theorem putReq_spans (s : State) (i : Nat) (r : Req) : (putReq s i r).spans = s.spans := rfl
@[simp] theorem putReq_decks (s : State) (i : Nat) (r : Req) : (putReq s i r).decks = s.decks := rfl
@[simp] theorem putReq_launches (s : State) (i : Nat) (r : Req) : (putReq s i r).launches = s.launches := rfl
@[simp] theorem putReq_cores (s : State) (i : Nat) (r : Req) : (putReq s i r).cores = s.cores := rfl
@[simp] theorem putReq_ctxs (s : State) (i : Nat) (r : Req) : (putReq s i r).ctxs = s.ctxs := rfl
@[simp] theorem putReq_nets (s : State) (i : Nat) (r : Req) : (putReq s i r).nets = s.nets := rfl
@[simp] theorem putReq_reqs (s : State) (i : Nat) (r : Req) : (putReq s i r).reqs = mapPut s.reqs i r := rfl
@[simp] theorem putReq_loads (s : State) (i : Nat) (r : Req) : (putReq s i r).loads = s.loads := rfl
@[simp] theorem putReq_merges (s : State) (i : Nat) (r : Req) : (putReq s i r).merges = s.merges := rfl
@[simp] theorem putReq_walks (s : State) (i : Nat) (r : Req) : (putReq s i r).walks = s.walks := rfl
@[simp] theorem putReq_uppers (s : State) (i : Nat) (r : Req) : (putReq s i r).uppers = s.uppers := rfl
@[simp] theorem putReq_uses (s : State) (i : Nat) (r : Req) : (putReq s i r).uses = s.uses := rfl
@[simp] theorem putReq_faults (s : State) (i : Nat) (r : Req) : (putReq s i r).faults = s.faults := rfl
@[simp] theorem putReq_fails (s : State) (i : Nat) (r : Req) : (putReq s i r).fails = s.fails := rfl
@[simp] theorem putReq_box (s : State) (i : Nat) (r : Req) : (putReq s i r).box = s.box := rfl
@[simp] theorem putReq_rings (s : State) (i : Nat) (r : Req) : (putReq s i r).rings = s.rings := rfl
@[simp] theorem putReq_lands (s : State) (i : Nat) (r : Req) : (putReq s i r).lands = s.lands := rfl
@[simp] theorem putReq_runs (s : State) (i : Nat) (r : Req) : (putReq s i r).runs = s.runs := rfl
@[simp] theorem putReq_images (s : State) (i : Nat) (r : Req) : (putReq s i r).images = s.images := rfl
@[simp] theorem putReq_fe (s : State) (i : Nat) (r : Req) : (putReq s i r).fe = s.fe := rfl
@[simp] theorem putReq_mg (s : State) (i : Nat) (r : Req) : (putReq s i r).mg = s.mg := rfl
@[simp] theorem putReq_meshMsgs (s : State) (i : Nat) (r : Req) : (putReq s i r).meshMsgs = s.meshMsgs := rfl
@[simp] theorem putReq_rounds (s : State) (i : Nat) (r : Req) : (putReq s i r).rounds = s.rounds := rfl
@[simp] theorem putReq_fab (s : State) (i : Nat) (r : Req) : (putReq s i r).fab = s.fab := rfl
@[simp] theorem putReq_ord (s : State) (i : Nat) (r : Req) : (putReq s i r).ord = s.ord := rfl

/-! ### `delReq` -/

@[simp] theorem delReq_agenda (s : State) (i : Nat) : (delReq s i).agenda = s.agenda := rfl
@[simp] theorem delReq_fresh (s : State) (i : Nat) : (delReq s i).fresh = s.fresh := rfl
@[simp] theorem delReq_cur (s : State) (i : Nat) : (delReq s i).cur = s.cur := rfl
@[simp] theorem delReq_cycle (s : State) (i : Nat) : (delReq s i).cycle = s.cycle := rfl
@[simp] theorem delReq_ticks (s : State) (i : Nat) : (delReq s i).ticks = s.ticks := rfl
@[simp] theorem delReq_nextId (s : State) (i : Nat) : (delReq s i).nextId = s.nextId := rfl
@[simp] theorem delReq_mem (s : State) (i : Nat) : (delReq s i).mem = s.mem := rfl
@[simp] theorem delReq_lines (s : State) (i : Nat) : (delReq s i).lines = s.lines := rfl
@[simp] theorem delReq_spans (s : State) (i : Nat) : (delReq s i).spans = s.spans := rfl
@[simp] theorem delReq_decks (s : State) (i : Nat) : (delReq s i).decks = s.decks := rfl
@[simp] theorem delReq_launches (s : State) (i : Nat) : (delReq s i).launches = s.launches := rfl
@[simp] theorem delReq_cores (s : State) (i : Nat) : (delReq s i).cores = s.cores := rfl
@[simp] theorem delReq_ctxs (s : State) (i : Nat) : (delReq s i).ctxs = s.ctxs := rfl
@[simp] theorem delReq_nets (s : State) (i : Nat) : (delReq s i).nets = s.nets := rfl
@[simp] theorem delReq_reqs (s : State) (i : Nat) : (delReq s i).reqs = mapDel s.reqs i := rfl
@[simp] theorem delReq_loads (s : State) (i : Nat) : (delReq s i).loads = s.loads := rfl
@[simp] theorem delReq_merges (s : State) (i : Nat) : (delReq s i).merges = s.merges := rfl
@[simp] theorem delReq_walks (s : State) (i : Nat) : (delReq s i).walks = s.walks := rfl
@[simp] theorem delReq_uppers (s : State) (i : Nat) : (delReq s i).uppers = s.uppers := rfl
@[simp] theorem delReq_uses (s : State) (i : Nat) : (delReq s i).uses = s.uses := rfl
@[simp] theorem delReq_faults (s : State) (i : Nat) : (delReq s i).faults = s.faults := rfl
@[simp] theorem delReq_fails (s : State) (i : Nat) : (delReq s i).fails = s.fails := rfl
@[simp] theorem delReq_box (s : State) (i : Nat) : (delReq s i).box = s.box := rfl
@[simp] theorem delReq_rings (s : State) (i : Nat) : (delReq s i).rings = s.rings := rfl
@[simp] theorem delReq_lands (s : State) (i : Nat) : (delReq s i).lands = s.lands := rfl
@[simp] theorem delReq_runs (s : State) (i : Nat) : (delReq s i).runs = s.runs := rfl
@[simp] theorem delReq_images (s : State) (i : Nat) : (delReq s i).images = s.images := rfl
@[simp] theorem delReq_fe (s : State) (i : Nat) : (delReq s i).fe = s.fe := rfl
@[simp] theorem delReq_mg (s : State) (i : Nat) : (delReq s i).mg = s.mg := rfl
@[simp] theorem delReq_meshMsgs (s : State) (i : Nat) : (delReq s i).meshMsgs = s.meshMsgs := rfl
@[simp] theorem delReq_rounds (s : State) (i : Nat) : (delReq s i).rounds = s.rounds := rfl
@[simp] theorem delReq_fab (s : State) (i : Nat) : (delReq s i).fab = s.fab := rfl
@[simp] theorem delReq_ord (s : State) (i : Nat) : (delReq s i).ord = s.ord := rfl

/-! ### `putLoad` -/

@[simp] theorem putLoad_agenda (s : State) (i : Nat) (l : Load) : (putLoad s i l).agenda = s.agenda := rfl
@[simp] theorem putLoad_fresh (s : State) (i : Nat) (l : Load) : (putLoad s i l).fresh = s.fresh := rfl
@[simp] theorem putLoad_cur (s : State) (i : Nat) (l : Load) : (putLoad s i l).cur = s.cur := rfl
@[simp] theorem putLoad_cycle (s : State) (i : Nat) (l : Load) : (putLoad s i l).cycle = s.cycle := rfl
@[simp] theorem putLoad_ticks (s : State) (i : Nat) (l : Load) : (putLoad s i l).ticks = s.ticks := rfl
@[simp] theorem putLoad_nextId (s : State) (i : Nat) (l : Load) : (putLoad s i l).nextId = s.nextId := rfl
@[simp] theorem putLoad_mem (s : State) (i : Nat) (l : Load) : (putLoad s i l).mem = s.mem := rfl
@[simp] theorem putLoad_lines (s : State) (i : Nat) (l : Load) : (putLoad s i l).lines = s.lines := rfl
@[simp] theorem putLoad_spans (s : State) (i : Nat) (l : Load) : (putLoad s i l).spans = s.spans := rfl
@[simp] theorem putLoad_decks (s : State) (i : Nat) (l : Load) : (putLoad s i l).decks = s.decks := rfl
@[simp] theorem putLoad_launches (s : State) (i : Nat) (l : Load) : (putLoad s i l).launches = s.launches := rfl
@[simp] theorem putLoad_cores (s : State) (i : Nat) (l : Load) : (putLoad s i l).cores = s.cores := rfl
@[simp] theorem putLoad_ctxs (s : State) (i : Nat) (l : Load) : (putLoad s i l).ctxs = s.ctxs := rfl
@[simp] theorem putLoad_nets (s : State) (i : Nat) (l : Load) : (putLoad s i l).nets = s.nets := rfl
@[simp] theorem putLoad_reqs (s : State) (i : Nat) (l : Load) : (putLoad s i l).reqs = s.reqs := rfl
@[simp] theorem putLoad_loads (s : State) (i : Nat) (l : Load) : (putLoad s i l).loads = mapPut s.loads i l := rfl
@[simp] theorem putLoad_merges (s : State) (i : Nat) (l : Load) : (putLoad s i l).merges = s.merges := rfl
@[simp] theorem putLoad_walks (s : State) (i : Nat) (l : Load) : (putLoad s i l).walks = s.walks := rfl
@[simp] theorem putLoad_uppers (s : State) (i : Nat) (l : Load) : (putLoad s i l).uppers = s.uppers := rfl
@[simp] theorem putLoad_uses (s : State) (i : Nat) (l : Load) : (putLoad s i l).uses = s.uses := rfl
@[simp] theorem putLoad_faults (s : State) (i : Nat) (l : Load) : (putLoad s i l).faults = s.faults := rfl
@[simp] theorem putLoad_fails (s : State) (i : Nat) (l : Load) : (putLoad s i l).fails = s.fails := rfl
@[simp] theorem putLoad_box (s : State) (i : Nat) (l : Load) : (putLoad s i l).box = s.box := rfl
@[simp] theorem putLoad_rings (s : State) (i : Nat) (l : Load) : (putLoad s i l).rings = s.rings := rfl
@[simp] theorem putLoad_lands (s : State) (i : Nat) (l : Load) : (putLoad s i l).lands = s.lands := rfl
@[simp] theorem putLoad_runs (s : State) (i : Nat) (l : Load) : (putLoad s i l).runs = s.runs := rfl
@[simp] theorem putLoad_images (s : State) (i : Nat) (l : Load) : (putLoad s i l).images = s.images := rfl
@[simp] theorem putLoad_fe (s : State) (i : Nat) (l : Load) : (putLoad s i l).fe = s.fe := rfl
@[simp] theorem putLoad_mg (s : State) (i : Nat) (l : Load) : (putLoad s i l).mg = s.mg := rfl
@[simp] theorem putLoad_meshMsgs (s : State) (i : Nat) (l : Load) : (putLoad s i l).meshMsgs = s.meshMsgs := rfl
@[simp] theorem putLoad_rounds (s : State) (i : Nat) (l : Load) : (putLoad s i l).rounds = s.rounds := rfl
@[simp] theorem putLoad_fab (s : State) (i : Nat) (l : Load) : (putLoad s i l).fab = s.fab := rfl
@[simp] theorem putLoad_ord (s : State) (i : Nat) (l : Load) : (putLoad s i l).ord = s.ord := rfl

/-! ### `putHome` -/

@[simp] theorem putHome_agenda (s : State) (i : Nat) (h : HomeLine) : (putHome s i h).agenda = s.agenda := rfl
@[simp] theorem putHome_fresh (s : State) (i : Nat) (h : HomeLine) : (putHome s i h).fresh = s.fresh := rfl
@[simp] theorem putHome_cur (s : State) (i : Nat) (h : HomeLine) : (putHome s i h).cur = s.cur := rfl
@[simp] theorem putHome_cycle (s : State) (i : Nat) (h : HomeLine) : (putHome s i h).cycle = s.cycle := rfl
@[simp] theorem putHome_ticks (s : State) (i : Nat) (h : HomeLine) : (putHome s i h).ticks = s.ticks := rfl
@[simp] theorem putHome_nextId (s : State) (i : Nat) (h : HomeLine) : (putHome s i h).nextId = s.nextId := rfl
@[simp] theorem putHome_mem (s : State) (i : Nat) (h : HomeLine) : (putHome s i h).mem = s.mem := rfl
@[simp] theorem putHome_lines (s : State) (i : Nat) (h : HomeLine) : (putHome s i h).lines = mapSet HomeLine.init s.lines i h := rfl
@[simp] theorem putHome_spans (s : State) (i : Nat) (h : HomeLine) : (putHome s i h).spans = s.spans := rfl
@[simp] theorem putHome_decks (s : State) (i : Nat) (h : HomeLine) : (putHome s i h).decks = s.decks := rfl
@[simp] theorem putHome_launches (s : State) (i : Nat) (h : HomeLine) : (putHome s i h).launches = s.launches := rfl
@[simp] theorem putHome_cores (s : State) (i : Nat) (h : HomeLine) : (putHome s i h).cores = s.cores := rfl
@[simp] theorem putHome_ctxs (s : State) (i : Nat) (h : HomeLine) : (putHome s i h).ctxs = s.ctxs := rfl
@[simp] theorem putHome_nets (s : State) (i : Nat) (h : HomeLine) : (putHome s i h).nets = s.nets := rfl
@[simp] theorem putHome_reqs (s : State) (i : Nat) (h : HomeLine) : (putHome s i h).reqs = s.reqs := rfl
@[simp] theorem putHome_loads (s : State) (i : Nat) (h : HomeLine) : (putHome s i h).loads = s.loads := rfl
@[simp] theorem putHome_merges (s : State) (i : Nat) (h : HomeLine) : (putHome s i h).merges = s.merges := rfl
@[simp] theorem putHome_walks (s : State) (i : Nat) (h : HomeLine) : (putHome s i h).walks = s.walks := rfl
@[simp] theorem putHome_uppers (s : State) (i : Nat) (h : HomeLine) : (putHome s i h).uppers = s.uppers := rfl
@[simp] theorem putHome_uses (s : State) (i : Nat) (h : HomeLine) : (putHome s i h).uses = s.uses := rfl
@[simp] theorem putHome_faults (s : State) (i : Nat) (h : HomeLine) : (putHome s i h).faults = s.faults := rfl
@[simp] theorem putHome_fails (s : State) (i : Nat) (h : HomeLine) : (putHome s i h).fails = s.fails := rfl
@[simp] theorem putHome_box (s : State) (i : Nat) (h : HomeLine) : (putHome s i h).box = s.box := rfl
@[simp] theorem putHome_rings (s : State) (i : Nat) (h : HomeLine) : (putHome s i h).rings = s.rings := rfl
@[simp] theorem putHome_lands (s : State) (i : Nat) (h : HomeLine) : (putHome s i h).lands = s.lands := rfl
@[simp] theorem putHome_runs (s : State) (i : Nat) (h : HomeLine) : (putHome s i h).runs = s.runs := rfl
@[simp] theorem putHome_images (s : State) (i : Nat) (h : HomeLine) : (putHome s i h).images = s.images := rfl
@[simp] theorem putHome_fe (s : State) (i : Nat) (h : HomeLine) : (putHome s i h).fe = s.fe := rfl
@[simp] theorem putHome_mg (s : State) (i : Nat) (h : HomeLine) : (putHome s i h).mg = s.mg := rfl
@[simp] theorem putHome_meshMsgs (s : State) (i : Nat) (h : HomeLine) : (putHome s i h).meshMsgs = s.meshMsgs := rfl
@[simp] theorem putHome_rounds (s : State) (i : Nat) (h : HomeLine) : (putHome s i h).rounds = s.rounds := rfl
@[simp] theorem putHome_fab (s : State) (i : Nat) (h : HomeLine) : (putHome s i h).fab = s.fab := rfl
@[simp] theorem putHome_ord (s : State) (i : Nat) (h : HomeLine) : (putHome s i h).ord = s.ord := rfl

/-! ### `memPut` -/

@[simp] theorem memPut_agenda (s : State) (pa : Nat) (b : Byte) : (memPut s pa b).agenda = s.agenda := rfl
@[simp] theorem memPut_fresh (s : State) (pa : Nat) (b : Byte) : (memPut s pa b).fresh = s.fresh := rfl
@[simp] theorem memPut_cur (s : State) (pa : Nat) (b : Byte) : (memPut s pa b).cur = s.cur := rfl
@[simp] theorem memPut_cycle (s : State) (pa : Nat) (b : Byte) : (memPut s pa b).cycle = s.cycle := rfl
@[simp] theorem memPut_ticks (s : State) (pa : Nat) (b : Byte) : (memPut s pa b).ticks = s.ticks := rfl
@[simp] theorem memPut_nextId (s : State) (pa : Nat) (b : Byte) : (memPut s pa b).nextId = s.nextId := rfl
@[simp] theorem memPut_mem (s : State) (pa : Nat) (b : Byte) : (memPut s pa b).mem = mapSet 0 s.mem pa b := rfl
@[simp] theorem memPut_lines (s : State) (pa : Nat) (b : Byte) : (memPut s pa b).lines = s.lines := rfl
@[simp] theorem memPut_spans (s : State) (pa : Nat) (b : Byte) : (memPut s pa b).spans = s.spans := rfl
@[simp] theorem memPut_decks (s : State) (pa : Nat) (b : Byte) : (memPut s pa b).decks = s.decks := rfl
@[simp] theorem memPut_launches (s : State) (pa : Nat) (b : Byte) : (memPut s pa b).launches = s.launches := rfl
@[simp] theorem memPut_cores (s : State) (pa : Nat) (b : Byte) : (memPut s pa b).cores = s.cores := rfl
@[simp] theorem memPut_ctxs (s : State) (pa : Nat) (b : Byte) : (memPut s pa b).ctxs = s.ctxs := rfl
@[simp] theorem memPut_nets (s : State) (pa : Nat) (b : Byte) : (memPut s pa b).nets = s.nets := rfl
@[simp] theorem memPut_reqs (s : State) (pa : Nat) (b : Byte) : (memPut s pa b).reqs = s.reqs := rfl
@[simp] theorem memPut_loads (s : State) (pa : Nat) (b : Byte) : (memPut s pa b).loads = s.loads := rfl
@[simp] theorem memPut_merges (s : State) (pa : Nat) (b : Byte) : (memPut s pa b).merges = s.merges := rfl
@[simp] theorem memPut_walks (s : State) (pa : Nat) (b : Byte) : (memPut s pa b).walks = s.walks := rfl
@[simp] theorem memPut_uppers (s : State) (pa : Nat) (b : Byte) : (memPut s pa b).uppers = s.uppers := rfl
@[simp] theorem memPut_uses (s : State) (pa : Nat) (b : Byte) : (memPut s pa b).uses = s.uses := rfl
@[simp] theorem memPut_faults (s : State) (pa : Nat) (b : Byte) : (memPut s pa b).faults = s.faults := rfl
@[simp] theorem memPut_fails (s : State) (pa : Nat) (b : Byte) : (memPut s pa b).fails = s.fails := rfl
@[simp] theorem memPut_box (s : State) (pa : Nat) (b : Byte) : (memPut s pa b).box = s.box := rfl
@[simp] theorem memPut_rings (s : State) (pa : Nat) (b : Byte) : (memPut s pa b).rings = s.rings := rfl
@[simp] theorem memPut_lands (s : State) (pa : Nat) (b : Byte) : (memPut s pa b).lands = s.lands := rfl
@[simp] theorem memPut_runs (s : State) (pa : Nat) (b : Byte) : (memPut s pa b).runs = s.runs := rfl
@[simp] theorem memPut_images (s : State) (pa : Nat) (b : Byte) : (memPut s pa b).images = s.images := rfl
@[simp] theorem memPut_fe (s : State) (pa : Nat) (b : Byte) : (memPut s pa b).fe = s.fe := rfl
@[simp] theorem memPut_mg (s : State) (pa : Nat) (b : Byte) : (memPut s pa b).mg = s.mg := rfl
@[simp] theorem memPut_meshMsgs (s : State) (pa : Nat) (b : Byte) : (memPut s pa b).meshMsgs = s.meshMsgs := rfl
@[simp] theorem memPut_rounds (s : State) (pa : Nat) (b : Byte) : (memPut s pa b).rounds = s.rounds := rfl
@[simp] theorem memPut_fab (s : State) (pa : Nat) (b : Byte) : (memPut s pa b).fab = s.fab := rfl
@[simp] theorem memPut_ord (s : State) (pa : Nat) (b : Byte) : (memPut s pa b).ord = s.ord := rfl

/-! ### `record` -/

@[simp] theorem record_agenda (s : State) (e : BoxEvent) : (record s e).agenda = s.agenda := rfl
@[simp] theorem record_fresh (s : State) (e : BoxEvent) : (record s e).fresh = s.fresh := rfl
@[simp] theorem record_cur (s : State) (e : BoxEvent) : (record s e).cur = s.cur := rfl
@[simp] theorem record_cycle (s : State) (e : BoxEvent) : (record s e).cycle = s.cycle := rfl
@[simp] theorem record_ticks (s : State) (e : BoxEvent) : (record s e).ticks = s.ticks := rfl
@[simp] theorem record_nextId (s : State) (e : BoxEvent) : (record s e).nextId = s.nextId := rfl
@[simp] theorem record_mem (s : State) (e : BoxEvent) : (record s e).mem = s.mem := rfl
@[simp] theorem record_lines (s : State) (e : BoxEvent) : (record s e).lines = s.lines := rfl
@[simp] theorem record_spans (s : State) (e : BoxEvent) : (record s e).spans = s.spans := rfl
@[simp] theorem record_decks (s : State) (e : BoxEvent) : (record s e).decks = s.decks := rfl
@[simp] theorem record_launches (s : State) (e : BoxEvent) : (record s e).launches = s.launches := rfl
@[simp] theorem record_cores (s : State) (e : BoxEvent) : (record s e).cores = s.cores := rfl
@[simp] theorem record_ctxs (s : State) (e : BoxEvent) : (record s e).ctxs = s.ctxs := rfl
@[simp] theorem record_nets (s : State) (e : BoxEvent) : (record s e).nets = s.nets := rfl
@[simp] theorem record_reqs (s : State) (e : BoxEvent) : (record s e).reqs = s.reqs := rfl
@[simp] theorem record_loads (s : State) (e : BoxEvent) : (record s e).loads = s.loads := rfl
@[simp] theorem record_merges (s : State) (e : BoxEvent) : (record s e).merges = s.merges := rfl
@[simp] theorem record_walks (s : State) (e : BoxEvent) : (record s e).walks = s.walks := rfl
@[simp] theorem record_uppers (s : State) (e : BoxEvent) : (record s e).uppers = s.uppers := rfl
@[simp] theorem record_uses (s : State) (e : BoxEvent) : (record s e).uses = s.uses := rfl
@[simp] theorem record_faults (s : State) (e : BoxEvent) : (record s e).faults = s.faults := rfl
@[simp] theorem record_fails (s : State) (e : BoxEvent) : (record s e).fails = s.fails := rfl
@[simp] theorem record_box (s : State) (e : BoxEvent) : (record s e).box = mapPut s.box e.die (boxPut (mapGet [] s.box e.die) e) := rfl
@[simp] theorem record_rings (s : State) (e : BoxEvent) : (record s e).rings = s.rings := rfl
@[simp] theorem record_lands (s : State) (e : BoxEvent) : (record s e).lands = s.lands := rfl
@[simp] theorem record_runs (s : State) (e : BoxEvent) : (record s e).runs = s.runs := rfl
@[simp] theorem record_images (s : State) (e : BoxEvent) : (record s e).images = s.images := rfl
@[simp] theorem record_fe (s : State) (e : BoxEvent) : (record s e).fe = s.fe := rfl
@[simp] theorem record_mg (s : State) (e : BoxEvent) : (record s e).mg = s.mg := rfl
@[simp] theorem record_meshMsgs (s : State) (e : BoxEvent) : (record s e).meshMsgs = s.meshMsgs := rfl
@[simp] theorem record_rounds (s : State) (e : BoxEvent) : (record s e).rounds = s.rounds := rfl
@[simp] theorem record_fab (s : State) (e : BoxEvent) : (record s e).fab = s.fab := rfl
@[simp] theorem record_ord (s : State) (e : BoxEvent) : (record s e).ord = s.ord := rfl

end Sys2Proof.Machine
end

