-- ==== Sys2Proof/Laws/Ops.lean ====
section
/-! SUPPORT. What the shared operations come to where the span, the registers or the pass are ready; reading and writing
spans, registers and memory; the canonical form of memory. -/

namespace Sys2Proof.Machine
open Sys2Proof

/-! ### The acting span -/

theorem withSpan_acting {s : State} {sp : Span} (h : Acting s sp) (k : Span → Res) : withSpan s k = k sp := by
  unfold withSpan
  rw [show spanOf s s.cur.uid = some sp from h]

theorem withLaunch_actingIn {s : State} {sp : Span} {l : Launch} (h : ActingIn s sp l) (k : Span → Launch → Res) :
    withLaunch s k = k sp l := by
  unfold withLaunch
  rw [withSpan_acting h.1, h.2]

/-- What `withSpan` answers: `k` of the acting span, or the stop of an agent that is not there. -/
theorem withSpan_cases (s : State) (k : Span → Res) :
    (∃ sp, Acting s sp ∧ withSpan s k = k sp) ∨ withSpan s k = .fault .notEnabled := by
  unfold withSpan Acting
  cases h : spanOf s s.cur.uid <;> simp

@[simp] theorem spanOf_putSpan_same (s : State) (u : Nat) (sp : Span) : spanOf (putSpan s u sp) u = some sp := by
  simp [spanOf]

theorem spanOf_putSpan_other (s : State) {u w : Nat} (sp : Span) (h : w ≠ u) : spanOf (putSpan s u sp) w = spanOf s w := by
  simp [spanOf, mapFind_mapPut_other _ _ h]

@[simp] theorem memByte_putSpan (s : State) (u : Nat) (sp : Span) (pa : Nat) :
    memByte (putSpan s u sp) pa = memByte s pa := rfl
@[simp] theorem homeByte_putSpan (s : State) (u : Nat) (sp : Span) (pa : Nat) :
    homeByte (putSpan s u sp) pa = homeByte s pa := rfl

/-! ### Registers that are ready -/

theorem needS_ready {s : State} {sp : Span} {rs : List Nat} (h : ScalarsReady sp rs) (k : Res) : needS s sp rs k = k := by
  have h1 : rs.any (fun r => sp.badS.getLsbD r && sFull sp r) = false := by
    rw [List.any_eq_false]
    intro r hr
    simp [(h r hr).2]
  have h2 : rs.all (sFull sp) = true := List.all_eq_true.2 (fun r hr => (h r hr).1)
  simp [needS, h1, h2]

/-- What a wait for registers can come to: the continuation, a halted span, or the span's state kept. -/
theorem needS_cases (s : State) (sp : Span) (rs : List Nat) (k : Res) :
    needS s sp rs k = k ∨ needS s sp rs k = consumed s ∨ needS s sp rs k = hold s sp ∨ needS s sp rs k = stall s := by
  unfold needS stallFor
  repeat' split
  all_goals simp

theorem lanePass_ready {s : State} {sp : Span} {l : Launch} {srcs : List Source} {dst : List Nat} {sdst : Option Nat}
    (h : PassReady s sp l srcs dst sdst) (k : Span → Launch → Res) : lanePass s srcs dst sdst k = k sp l := by
  obtain ⟨ha, hr, hs, hd, hw, ht⟩ := h
  unfold lanePass
  rw [withLaunch_actingIn ha]
  have h1 : (dst ++ srcs.flatMap sourceRegs).any (fun r => decide (l.vregs ≤ r)) = false := by
    rw [List.any_eq_false]
    intro r hm
    have := hr r hm
    simp only [decide_eq_true_eq]
    omega
  have h2 : srcs.any (fun x => !sourceReady sp x && sourceFe x) = false := by
    rw [List.any_eq_false]
    intro x hx
    simp [(hs x hx).1]
  have h3 : (srcs.all (sourceReady sp) && dst.all (vFull sp) && sdst.toList.all (sFull sp)) = true := by
    simp only [Bool.and_eq_true, List.all_eq_true]
    exact ⟨⟨fun x hx => (hs x hx).1, hd⟩, hw⟩
  have h4 : srcs.any (sourceBad sp s.cur.mask) = false := by
    rw [List.any_eq_false]
    intro x hx
    simp [(hs x hx).2]
  simp [h1, h2, h3, h4, ht]

/-! ### Memory -/

theorem memByte_memPut (s : State) (pa : Nat) (b : Byte) (q : Nat) :
    memByte (memPut s pa b) q = if q = pa then b else memByte s q := by
  simp [memByte, memPut, mapGet_mapSet]

theorem memory_wf_memPut {s : State} (pa : Nat) (b : Byte) (h : Memory.wf s.mem = true) :
    Memory.wf (memPut s pa b).mem = true := mapWf_mapSet _ _ _ _ h

/-- The slice's use of a line changes no byte of memory (R228). -/
@[simp] theorem makeWay_mem (s : State) (line : Nat) : (makeWay s line).mem = s.mem := by
  unfold makeWay
  dsimp only
  repeat' split
  all_goals simp
@[simp] theorem homeTouch_mem (s : State) (line : Nat) : (homeTouch s line).mem = s.mem := by
  unfold homeTouch
  dsimp only
  repeat' split
  all_goals simp [nextUse]

/-- A byte written at its home goes to a pinned line's data, or to its place in memory. -/
theorem homePut_mem (s : State) (pa : Nat) (b : Byte) :
    (homePut s pa b).mem = if (homeOf s (pa / 128)).data.isSome then s.mem else (memPut s pa b).mem := by
  unfold homePut
  dsimp only
  cases h : (homeOf s (pa / 128)).data with
  | some d => simp
  | none =>
    simp only [Option.isSome_none, Bool.false_eq_true, if_false]
    repeat' split
    all_goals simp [memPut]

theorem memory_wf_homePut {s : State} (pa : Nat) (b : Byte) (h : Memory.wf s.mem = true) :
    Memory.wf (homePut s pa b).mem = true := by
  rw [homePut_mem]
  split
  · exact h
  · exact memory_wf_memPut pa b h

/-- Any list of writes keeps the canonical form. -/
theorem memory_wf_foldl {α : Type} (f : State → α → State)
    (hf : ∀ t x, Memory.wf t.mem = true → Memory.wf (f t x).mem = true) (l : List α) (s : State)
    (h : Memory.wf s.mem = true) : Memory.wf (l.foldl f s).mem = true := by
  induction l generalizing s with
  | nil => exact h
  | cons x r ih => exact ih _ (hf s x h)

theorem memory_wf_homeWrite {s : State} (pa : Nat) (l : List Byte) (h : Memory.wf s.mem = true) :
    Memory.wf (homeWrite s pa l).mem = true :=
  memory_wf_foldl _ (fun _ _ ht => memory_wf_homePut _ _ ht) _ _ h

theorem memory_wf_memWrite {s : State} (pa : Nat) (l : List Byte) (h : Memory.wf s.mem = true) :
    Memory.wf (memWrite s pa l).mem = true :=
  memory_wf_foldl _ (fun _ _ ht => memory_wf_memPut _ _ ht) _ _ h

/-- Fewer cells keep it (R337: what a loss of power leaves). -/
theorem memory_wf_filter (m : List Host.Cell) (p : Host.Cell → Bool) (h : Memory.wf m = true) : Memory.wf (m.filter p) = true := by
  have h' := (mapWf_iff 0 m).1 h
  exact (mapWf_iff 0 _).2 ⟨h'.1.filter _, fun x hx => h'.2 x (List.mem_of_mem_filter hx)⟩

/-- A warm reset's memory (R228, R337). -/
theorem memory_wf_stackBytes {s : State} (h : Memory.wf s.mem = true) : Memory.wf (stackBytes s).mem = true := by
  refine memory_wf_foldl _ (fun t x ht => ?_) _ _ h
  split
  · exact memory_wf_memWrite _ _ ht
  · exact ht

theorem risingCells_spec (hi : Nat) (m : List Host.Cell) (lo : Nat) :
    (risingCells lo hi m).Pairwise (fun a b => a.1 < b.1) ∧ ∀ x ∈ risingCells lo hi m, lo ≤ x.1 ∧ x.1 < hi ∧ x.2 ≠ 0 := by
  induction m generalizing lo with
  | nil => simp [risingCells]
  | cons c r ih =>
    simp only [risingCells]
    split
    · exact ih lo
    · rename_i hc
      have hc' : lo ≤ c.1 ∧ c.1 < hi ∧ c.2 ≠ 0 := by
        refine ⟨?_, ?_, ?_⟩ <;> by_contra hn <;> exact hc (by first | exact .inl (by omega) | exact .inr (.inl (by omega)) | exact .inr (.inr (by simpa using hn)))
      obtain ⟨h1, h2⟩ := ih (c.1 + 1)
      refine ⟨List.pairwise_cons.2 ⟨fun x hx => ?_, h1⟩, fun x hx => ?_⟩
      · have := (h2 x hx).1
        omega
      · rcases List.mem_cons.1 hx with rfl | hx
        · exact hc'
        · exact ⟨by have := (h2 x hx).1; omega, (h2 x hx).2⟩

/-- What a spill writes (R205, R207). -/
theorem memory_wf_spliceMem (m : List Host.Cell) (a lo hi : Nat) (secs : List (Nat × List Byte)) (h : Memory.wf m = true) :
    Memory.wf (spliceMem m a lo hi secs) = true := by
  have h' := (mapWf_iff 0 m).1 h
  unfold spliceMem
  extract_lets cells
  obtain ⟨c1, c2⟩ := risingCells_spec (max (a + 128 * lo) (a + 128 * hi)) cells (a + 128 * lo)
  refine (mapWf_iff 0 _).2 ⟨?_, fun x hx => ?_⟩
  · refine List.pairwise_append.2 ⟨List.pairwise_append.2 ⟨h'.1.filter _, c1, fun x hx y hy => ?_⟩, h'.1.filter _, fun x hx y hy => ?_⟩
    · have := of_decide_eq_true (List.mem_filter.1 hx).2
      have := (c2 y hy).1
      omega
    · have hb := of_decide_eq_true (List.mem_filter.1 hy).2
      rcases List.mem_append.1 hx with hx | hx
      · have := of_decide_eq_true (List.mem_filter.1 hx).2
        omega
      · have := (c2 x hx).2.1
        omega
  · rcases List.mem_append.1 hx with hx | hx
    · rcases List.mem_append.1 hx with hx | hx
      · exact h'.2 x (List.mem_of_mem_filter hx)
      · exact (c2 x hx).2.2
    · exact h'.2 x (List.mem_of_mem_filter hx)

theorem memory_wf_reset : Memory.wf State.reset.mem = true := by decide

/-- A home without a pinned line reads what memory holds, and a write to it is read back. -/
theorem homeByte_unpinned {s : State} {pa : Nat} (h : (homeOf s (pa / 128)).data = none) : homeByte s pa = memByte s pa := by
  simp [homeByte, h]

/-! ### Bytes at their home -/

theorem homeOf_putHome (s : State) (i : Nat) (h : HomeLine) (j : Nat) : homeOf (putHome s i h) j = if j = i then h else homeOf s j := by
  simp [homeOf, putHome, mapGet_mapSet]

theorem getLsbD_255 (k : Nat) : (255#1024).getLsbD k = decide (k < 8) := by
  rw [show (255#1024) = BitVec.ofNat 1024 (2 ^ 8 - 1) from rfl, BitVec.getLsbD_ofNat, Nat.testBit_two_pow_sub_one]
  by_cases h : k < 8
  · simp [h]; omega
  · simp [h]
/-- A byte of a line is read back, and the others stay. -/
theorem lineByte_lineSet (d : Line) {i j : Nat} (b : Byte) (hi : i < 128) (hj : j < 128) :
    lineByte (lineSet d i b) j = if j = i then b else lineByte d j := by
  unfold lineByte lineSet
  apply BitVec.eq_of_getLsbD_eq
  intro k hk
  have h1 : 8 * j + k < 1024 := by omega
  by_cases h : j = i
  · subst h
    simp [hk, h1, getLsbD_255]
  · rcases Nat.lt_or_gt_of_ne h with h2 | h2
    · have h3 : 8 * j + k < 8 * i := by omega
      simp [hk, h1, h, h3]
    · have h3 : ¬ 8 * j + k < 8 * i := by omega
      have h5 : ¬ 8 * j + k - 8 * i < 8 := by omega
      have h4 : b.getLsbD (8 * j + k - 8 * i) = false := BitVec.getLsbD_of_ge _ _ (by omega)
      have h6 := getLsbD_255 (8 * j + k - 8 * i)
      rw [BitVec.getLsbD_eq_getElem (by omega), decide_eq_false h5] at h6
      simp [hk, h1, h, h3, h4, h6]

/-- The slice's use of a line changes no byte that its home gives (R228). -/
theorem homeData_makeWay (s : State) (line x : Nat) : (homeOf (makeWay s line) x).data = (homeOf s x).data := by
  unfold makeWay
  dsimp only
  split
  · rfl
  · split
    · rfl
    · rw [homeOf_putHome]
      split
      · rename_i h; rw [h]
      · rfl
theorem homeData_homeTouch (s : State) (line x : Nat) : (homeOf (homeTouch s line) x).data = (homeOf s x).data := by
  unfold homeTouch
  split
  · rfl
  · dsimp only
    show (homeOf (putHome _ _ _) x).data = _
    rw [homeOf_putHome]
    split
    · rename_i h
      subst h
      split
      · exact homeData_makeWay s x x
      · rfl
    · split
      · exact homeData_makeWay s line x
      · rfl

theorem homeByte_of {s t : State} {q : Nat} (hd : (homeOf t (q / 128)).data = (homeOf s (q / 128)).data) (hm : memByte t q = memByte s q) :
    homeByte t q = homeByte s q := by
  unfold homeByte
  rw [hd, hm]

/-- A byte written at its home is read back there, and no other byte changes (R228, R231). -/
theorem homeByte_homePut (s : State) (pa : Nat) (b : Byte) (q : Nat) :
    homeByte (homePut s pa b) q = if q = pa then b else homeByte s q := by
  have hl : pa % 128 < 128 := Nat.mod_lt _ (by decide)
  have hq : q % 128 < 128 := Nat.mod_lt _ (by decide)
  unfold homePut
  dsimp only
  cases h : (homeOf s (pa / 128)).data with
  | some d =>
    dsimp only
    unfold homeByte
    rw [homeOf_putHome]
    by_cases hx : q / 128 = pa / 128
    · rw [if_pos hx, hx, h]
      dsimp only
      rw [lineByte_lineSet d b hl hq]
      have : q % 128 = pa % 128 ↔ q = pa := by omega
      simp only [this]
    · have : q ≠ pa := fun e => hx (by rw [e])
      rw [if_neg hx, if_neg this]
      rfl
  | none =>
    dsimp only
    have hd : ∀ t u : State, (∀ x, (homeOf t x).data = (homeOf s x).data) → t.mem = s.mem →
        u = (if isHbm pa ∧ (homeOf s (pa / 128)).below.isNone then
          putHome t (pa / 128) { homeOf t (pa / 128) with below := some (memLine t (pa / 128)) } else t) →
        homeByte (memPut u pa b) q = if q = pa then b else homeByte s q := by
      intro t u h1 h2 hu
      have h3 : (homeOf (memPut u pa b) (q / 128)).data = (homeOf s (q / 128)).data := by
        show (homeOf u (q / 128)).data = _
        rw [hu]
        split
        · rw [homeOf_putHome]
          split
          · rename_i e; rw [e]; exact h1 _
          · exact h1 _
        · exact h1 _
      have h4 : memByte (memPut u pa b) q = if q = pa then b else memByte s q := by
        rw [memByte_memPut]
        have : u.mem = s.mem := by rw [hu]; split <;> [exact h2; exact h2]
        simp [memByte, this]
      unfold homeByte
      rw [h3, h4]
      by_cases e : q = pa
      · subst e; simp [h]
      · simp [e]
    refine hd (if isHbm pa ∧ (homeOf s (pa / 128)).l2 = 0 then homeTouch s (pa / 128) else s) _ ?_ ?_ rfl
    · intro x
      split
      · exact homeData_homeTouch s _ x
      · rfl
    · split
      · simp
      · rfl

theorem homeByte_foldPut (l : List Byte) (s : State) (pa k q : Nat) :
    homeByte ((l.zipIdx k).foldl (fun t p => homePut t (pa + p.2) p.1) s) q =
      if pa + k ≤ q ∧ q < pa + k + l.length then l.getD (q - (pa + k)) 0 else homeByte s q := by
  induction l generalizing s k with
  | nil =>
    have : ¬ (pa + k ≤ q ∧ q < pa + k + ([] : List Byte).length) := by simp
    rw [if_neg this]
    rfl
  | cons b r ih =>
    rw [List.zipIdx_cons, List.foldl_cons, ih, homeByte_homePut]
    simp only [List.length_cons]
    by_cases h1 : pa + (k + 1) ≤ q ∧ q < pa + (k + 1) + r.length
    · rw [if_pos h1, if_pos (by omega), show q - (pa + k) = q - (pa + (k + 1)) + 1 by omega, List.getD_cons_succ]
    · rw [if_neg h1]
      by_cases h2 : q = pa + k
      · subst h2
        simp
      · rw [if_neg h2, if_neg (by omega)]

/-- Bytes written at their homes are read back there, and no other byte changes. -/
theorem homeByte_homeWrite (s : State) (pa : Nat) (l : List Byte) (q : Nat) :
    homeByte (homeWrite s pa l) q = if pa ≤ q ∧ q < pa + l.length then l.getD (q - pa) 0 else homeByte s q := by
  simpa [homeWrite] using homeByte_foldPut l s pa 0 q

end Sys2Proof.Machine
end

