-- ==== Sys2Proof/Laws/Fabric.lean ====
section
/-! SUPPORT. What a write of a die's own requester to host memory can do, whatever its bytes: it is done at once, where the way to the
address waits for nothing, and changes memory, its coherence orders, the posted writes and what it leaves open. -/

namespace Sys2Proof.Machine
open Sys2Proof

/-- A package that differs from another in memory's bytes, their orders, the posted writes, the residual objects and the open group
entries only. -/
def BytesApart (s t : State) : Prop :=
  ∃ m o p r g, t = { s with mem := m, ord := o, fe := { s.fe with posted := p }, fab := { s.fab with resid := r, opens := g } }

theorem bytesApart_refl (s : State) : BytesApart s s := ⟨s.mem, s.ord, s.fe.posted, s.fab.resid, s.fab.opens, rfl⟩

theorem bytesApart_trans {s t u : State} (h : BytesApart s t) (k : BytesApart t u) : BytesApart s u := by
  obtain ⟨m, o, p, r, g, rfl⟩ := h
  obtain ⟨m', o', p', r', g', rfl⟩ := k
  exact ⟨m', o', p', r', g', rfl⟩

theorem bytesApart_foldl {α : Type} (f : State → α → State) (l : List α) (s : State) (p : State → Prop)
    (hp : ∀ t a, p t → BytesApart t (f t a) ∧ p (f t a)) (h : p s) : BytesApart s (l.foldl f s) := by
  induction l generalizing s with
  | nil => exact bytesApart_refl s
  | cons a l ih => exact bytesApart_trans (hp s a h).1 (ih _ (hp s a h).2)

theorem homePut_host (t : State) (pa : Nat) (b : Byte) (hl : t.lines = []) (hp : isHbm pa = false) : homePut t pa b = memPut t pa b := by
  have hd : (homeOf t (pa / 128)).data = none := by unfold homeOf; rw [hl]; rfl
  unfold homePut
  simp [hd, hp]

theorem orderedPut_host (t : State) (w : Writer) (at_ : Bool) (va pa : Nat) (b : Byte) (hl : t.lines = []) (hp : isHbm pa = false) :
    BytesApart t (orderedPut t (some w) at_ va pa b) ∧ (orderedPut t (some w) at_ va pa b).lines = [] := by
  have ho : (orderWrite t w at_ va pa).1.lines = [] := hl
  have hb : BytesApart t (orderWrite t w at_ va pa).1 := ⟨_, _, _, _, _, rfl⟩
  unfold orderedPut
  simp only []
  split
  · rw [homePut_host _ _ _ ho hp]
    exact ⟨bytesApart_trans hb ⟨_, _, _, _, _, rfl⟩, ho⟩
  · exact ⟨hb, ho⟩

theorem lineWritten_host (t : State) (line : Nat) (hp : isHbm (128 * line) = false) :
    BytesApart t (lineWritten t line) ∧ (lineWritten t line).lines = t.lines := by
  unfold lineWritten homeTouch touchResid touchGroups
  simp only [hp, Bool.not_false, if_true]
  split <;> split <;> exact ⟨⟨_, _, _, _, _, rfl⟩, rfl⟩

theorem diePut_host (t : State) (w : Writer) (pa : Nat) (bytes : List Byte) (hl : t.lines = []) (hp : isHbm (128 * (pa / 128)) = false) :
    BytesApart t (diePut t w pa bytes) ∧ (diePut t w pa bytes).lines = [] := by
  have hpa : ∀ i, isHbm (pa + i) = false := fun i => by
    simp only [isHbm, decide_eq_false_iff_not, Nat.not_lt] at hp ⊢; omega
  have hw := lineWritten_host t (pa / 128) hp
  have key : ∀ (l : List (Byte × Nat)) (u : State), u.lines = [] →
      BytesApart u (l.foldl (fun t b => orderedPut t (some w) false (w.va + b.2) (pa + b.2) b.1) u) ∧
      (l.foldl (fun t b => orderedPut t (some w) false (w.va + b.2) (pa + b.2) b.1) u).lines = [] := by
    intro l
    induction l with
    | nil => intro u hu; exact ⟨bytesApart_refl u, hu⟩
    | cons a l ih =>
      intro u hu
      have h1 := orderedPut_host u w false (w.va + a.2) (pa + a.2) a.1 hu (hpa _)
      have h2 := ih _ h1.2
      exact ⟨bytesApart_trans h1.1 h2.1, h2.2⟩
  have hk := key bytes.zipIdx _ (hw.2.trans hl)
  have hn : BytesApart t (orderedBytes t (some w) false w.va pa bytes) ∧ (orderedBytes t (some w) false w.va pa bytes).lines = [] := by
    unfold orderedBytes nextStamp
    exact ⟨bytesApart_trans (bytesApart_trans hw.1 hk.1) ⟨_, _, _, _, _, rfl⟩, hk.2⟩
  unfold diePut
  split
  · exact ⟨bytesApart_trans hn.1 ⟨_, _, _, _, _, rfl⟩, hn.2⟩
  · exact hn

/-- The ways of a die's accesses are as before. -/
theorem dieWaits_apart {s t : State} (h : BytesApart s t) (die va line : Nat) : dieWaits t die va line = dieWaits s die va line := by
  obtain ⟨m, o, p, r, g, rfl⟩ := h; rfl

/-- The address that a translation answers. -/
def xlPlace : Xl → Option (Nat × Bool)
  | .ok pa bar => some (pa, bar)
  | _ => none

theorem xlPlace_eq {x : Xl} {pa : Nat} {bar : Bool} : xlPlace x = some (pa, bar) ↔ x = .ok pa bar := by
  cases x <;> simp [xlPlace]

theorem xlPlace_ite (c : Prop) [Decidable c] (x y : Xl) : xlPlace (if c then x else y) = if c then xlPlace x else xlPlace y := by
  split <;> rfl

theorem xlPlace_translate {s t : State} (hc : t.cores = s.cores) (hq : t.faults = s.faults) (hm : t.mg = s.mg)
    (g bay root key va kind : Nat) (who : Who) (l : List (Nat × Bool)) :
    xlPlace (translate t g bay root key va kind who l) = xlPlace (translate s g bay root key va kind who l) := by
  have h1 : coreOf t g = coreOf s g := by unfold coreOf; rw [hc]
  have h2 : ∀ d r v w x, faultPending t d r v w x = faultPending s d r v w x := fun d r v w x => by unfold faultPending; rw [hq]
  have h3 : ∀ pa, paExists t pa = paExists s pa := fun pa => by unfold paExists; rw [hm]
  unfold translate
  simp only [h1, h2, h3, xlPlace_ite]
  cases tlbLookup (coreOf s g) (kind == 2) bay root (va / 4096) with
  | none => simp only [xlPlace]
  | some x => dsimp only; repeat rw [xlPlace_ite]
              rfl

/-- A translation that answers an address answers it as before. -/
theorem dieXlate_apart {s t : State} (h : BytesApart s t) {die root key va kind pa : Nat} {who : Who} {bar : Bool}
    (hx : dieXlate s die root key va kind who = .ok pa bar) : dieXlate t die root key va kind who = .ok pa bar := by
  have he : xlPlace (dieXlate t die root key va kind who) = xlPlace (dieXlate s die root key va kind who) := by
    have hf : t.fails = s.fails := by obtain ⟨m, o, p, r, g, rfl⟩ := h; rfl
    have ht := xlPlace_translate (s := s) (t := t) (by obtain ⟨m, o, p, r, g, rfl⟩ := h; rfl) (by obtain ⟨m, o, p, r, g, rfl⟩ := h; rfl)
      (by obtain ⟨m, o, p, r, g, rfl⟩ := h; rfl) (512 + die) 4 root key va kind who []
    unfold dieXlate
    rw [hf]
    simp only [xlPlace_ite, ht]
  rw [← xlPlace_eq, he, xlPlace_eq]
  exact hx

theorem lineChunks_mem : ∀ (n va : Nat) (bs : List Byte), ∀ c ∈ lineChunks n va bs, va ≤ c.1 ∧ c.1 < va + bs.length
  | 0, _, _ => by simp [lineChunks]
  | n + 1, va, bs => by
    intro c hc
    unfold lineChunks at hc
    split at hc
    · simp at hc
    · rename_i hb
      have hl : 0 < bs.length := by cases bs <;> simp_all
      rcases List.mem_cons.1 hc with rfl | hc
      · simp only; omega
      · have := lineChunks_mem n _ _ c hc
        simp only [List.length_drop] at this
        omega

/-- A write of a die's requester to host memory that is mapped and to which nothing waits is done. -/
theorem fabWrite_host (s : State) (die root key : Nat) (who : Who) (va : Nat) (bytes : List Byte) (hl : s.lines = [])
    (h : ∀ a, va ≤ a → a < va + bytes.length → inLocal a = false ∧ inQuad a = false ∧ ∃ pa bar, dieXlate s die root key a 1 who = .ok pa bar ∧
      isHbm (128 * (pa / 128)) = false ∧ dieWaits s die a (pa / 128) = false) :
    ∃ t, fabWrite s die root key who va bytes = .ok t ∧ BytesApart s t := by
  have hc := lineChunks_mem (bytes.length + 1) va bytes
  unfold fabWrite
  simp only []
  have key : ∀ (l : List (Nat × List Byte)) (t : State), (∀ c ∈ l, va ≤ c.1 ∧ c.1 < va + bytes.length) → BytesApart s t → t.lines = [] →
      ∃ u, l.foldl (fun r c => match r with
        | .ok t => match (if inLocal c.1 = true ∨ inQuad c.1 = true then Xl.fail else dieXlate s die root key c.1 1 who) with
          | .ok pa bar => fabPut t die (whoWriter t die who c.1) 0 0 pa bar c.2
          | _ => .fail t
        | r => r) (FabWr.ok t) = .ok u ∧ BytesApart s u := by
    intro l
    induction l with
    | nil => intro t _ ht _; exact ⟨t, rfl, ht⟩
    | cons c l ih =>
      intro t hm ht hl
      obtain ⟨h1, h2, pa, bar, h3, h5, h4⟩ := h c.1 (hm c (by simp)).1 (hm c (by simp)).2
      have hpa : isHbm pa = false := by
        simp only [isHbm, decide_eq_false_iff_not, Nat.not_lt] at h5 ⊢; omega
      have hva : (whoWriter t die who c.1).va = c.1 := by unfold whoWriter; split <;> rfl
      have hd := diePut_host t (whoWriter t die who c.1) pa c.2 hl h5
      have hput : fabPut t die (whoWriter t die who c.1) 0 0 pa bar c.2 = .ok (diePut t (whoWriter t die who c.1) pa c.2) := by
        unfold fabPut
        simp [hva, dieWaits_apart ht, h4, hpa]
      simp only [List.foldl_cons, h1, h2, h3, Bool.false_eq_true, or_self, if_false]
      rw [hput]
      exact ih _ (fun x hx => hm x (by simp [hx])) (bytesApart_trans ht hd.1) hd.2
  split
  · rename_i u heq
    obtain ⟨c, hm, hu⟩ := List.exists_of_findSome?_eq_some heq
    obtain ⟨h1, h2, pa, bar, h3, -, h4⟩ := h c.1 (hc c hm).1 (hc c hm).2
    simp [h1, h2, h3, h4] at hu
  · exact key _ s hc (bytesApart_refl s) hl

/-- A residual object that is known, whose range is mapped into good lines of HBM4E, is reached. -/
theorem residAt_known {s : State} {die root key va : Nat} {who : Who} {ks : List (Nat × Nat × Nat)} {o : ResObj} (rd : Bool) (f : Nat → Nat)
    (h : ∀ a ∈ va :: residPages va ks, dieXlate s die root key a 1 who = .ok (f a) false ∧ isHbm (f a) = true)
    (hb : ∀ line, badLine s line = false) (hf : s.fab.resid.find? (fun o => o.root == root && o.va == va) = some o) (ho : o.bad = []) :
    residAt s die root key who va ks rd = .ok s o := by
  have hm : (va :: residPages va ks).map (fun a => dieXlate s die root key a 1 who) = (va :: residPages va ks).map (fun a => Xl.ok (f a) false) :=
    List.map_congr_left (fun a ha => (h a ha).1)
  have hh : ∀ a ∈ residPages va ks, isHbm (f a) = true := fun a ha => (h a (by simp [ha])).2
  unfold residAt
  rw [hm]
  simp [List.filterMap_map, List.findSome?_map, Function.comp_def, hb, hf, ho, (h va (by simp)).2]
  rw [List.findSome?_eq_none_iff.2 (fun _ _ => rfl)]
  simp only []
  rw [if_neg]
  rintro ⟨a, ha, hx⟩
  rw [hh a ha] at hx
  exact absurd hx (by decide)

end Sys2Proof.Machine
end

