-- ==== Sys2Proof/Laws/Step.lean ====
section
/-! SUPPORT. What a step comes to: the turn at the head of the agenda, a pass without shadow copies, and what is made after a turn. -/

namespace Sys2Proof.Machine
open Sys2Proof

theorem step_agenda {s : State} {t : Turn} {rest : List Turn} (h : s.agenda = t :: rest) :
    step s = runTurn { s with agenda := rest } t := by
  simp [step, h]

theorem step_free {s : State} (h : s.agenda = []) : step s = freeTurn s := by
  simp [step, h]

/-- A free choice never stops the package (log 2). -/
theorem freeTurn_next (s : State) : ∃ t, freeTurn s = .next t := by
  unfold freeTurn
  dsimp only
  split
  · exact ⟨_, rfl⟩
  · exact ⟨_, rfl⟩

/-- A pass whose shadow lanes hold what the visible ones do runs once (R331). -/
theorem runPass_alone {s : State} {u : Nat} {sp : Span} (i : Instr) (h : spanOf s u = some sp) (hn : sp.shadow = none) :
    runPass i s u = exec i s := by
  simp [runPass, h, hn]

/-- An event is the instruction with its arguments. -/
theorem runTurn_event (s : State) (i : Instr) (x : Args) :
    runTurn s (.event i x) = afterTurn s (.event i x) (exec i { s with cur := { x := x } }) := rfl

/-- Time is a turn of its own. -/
theorem runTurn_time (s : State) (c k : Nat) : runTurn s (.time c k) = .next (passTime s c k) := rfl

/-- Time moves the counters alone (log 6). -/
@[simp] theorem passTime_mem (s : State) (c k : Nat) : (passTime s c k).mem = s.mem := rfl
@[simp] theorem passTime_spans (s : State) (c k : Nat) : (passTime s c k).spans = s.spans := rfl
@[simp] theorem passTime_ticks (s : State) (c k : Nat) : (passTime s c k).ticks = s.ticks + k := rfl

/-- Only a next state has undo entries to make (R208). -/
@[simp] theorem afterTurn_fault (s : State) (t : Turn) (r : Fault) : afterTurn s t (.fault r) = .fault r := rfl
@[simp] theorem afterTurn_refused (s : State) (t : Turn) (r : Refusal) : afterTurn s t (.refused r) = .refused r := rfl

/-- A lane stream whose turn it is not does not move (R144, R160, R161). -/
theorem runTurn_laneTaken {s : State} {u : Nat} (h : laneFree s u = false) : runTurn s (.lane u) = .fault .notEnabled := by
  simp [runTurn, turnRes, h, afterTurn]

/-- Nor does a scalar stream. -/
theorem runTurn_scalarTaken {s : State} {u : Nat} (h : scalarFree s u = false) : runTurn s (.scalar u) = .fault .notEnabled := by
  simp [runTurn, turnRes, h, afterTurn]

/-- Once its turn has come, a stream does what `laneTurn` and `scalarTurn` say. -/
theorem runTurn_lane {s : State} {u : Nat} (h : laneFree s u = true) :
    runTurn s (.lane u) = afterTurn s (.lane u) (laneTurn s u) := by simp [runTurn, turnRes, h]
theorem runTurn_scalar {s : State} {u : Nat} (h : scalarFree s u = true) :
    runTurn s (.scalar u) = afterTurn s (.scalar u) (scalarTurn s u) := by simp [runTurn, turnRes, h]

end Sys2Proof.Machine
end

