-- ==== Sys2Proof/Machine/Assemble.lean ====
section
/-! DEFINITION. What `uliti-as` emits for a kernel that its source text has named: the operand values of R63 to R65, the
pseudo-instructions of R66, the labels, planed regions and paddings of R67 to R69, and the launch-record template with
its tables of R70 and R383. The text itself, its lexing and its spelling of mnemonics, is the tool's (log 65). -/

namespace Sys2Proof.Machine
open Sys2Proof

/-! ### Expressions and immediates (R63, R71) -/

inductive ExprOp where
  | add | sub | mul | div | rem | shl | shr | and | or | xor
  deriving DecidableEq, Repr

/-- An expression of R63; `desc` gives a planed region's descriptor. -/
inductive Expr where
  | num (v : Word64)
  | sym (name : String)
  | desc (name : String)
  | neg (e : Expr)
  | inv (e : Expr)
  | op (o : ExprOp) (a b : Expr)
  deriving DecidableEq, Repr

/-- Symbols and region descriptors by name. -/
structure Symbols where
  vals : List (String × Word64)
  descs : List (String × Word64)
  deriving DecidableEq, Repr

def symFind (l : List (String × Word64)) (n : String) : Option Word64 := (l.find? (fun p => p.1 == n)).map Prod.snd

/-- The value in 64-bit two's complement; a division by 0 and a symbol without a value are assembly errors. (R63; the
sign of `/`, `%` and `>>` is log 65's) -/
def evalExpr (y : Symbols) : Expr → Option Word64
  | .num v => some v
  | .sym n => symFind y.vals n
  | .desc n => symFind y.descs n
  | .neg e => (evalExpr y e).map (fun v => -v)
  | .inv e => (evalExpr y e).map (fun v => ~~~v)
  | .op o a b => match evalExpr y a, evalExpr y b with
    | some u, some v => match o with
      | .add => some (u + v)
      | .sub => some (u - v)
      | .mul => some (u * v)
      | .div => if v = 0 then none else some (u.sdiv v)
      | .rem => if v = 0 then none else some (u.srem v)
      | .shl => some (u <<< v.toNat)
      | .shr => some (u.sshiftRight v.toNat)
      | .and => some (u &&& v)
      | .or => some (u ||| v)
      | .xor => some (u ^^^ v)
    | _, _ => none

/-- An immediate operand: a number ±n·10^e as written in decimal, or an expression. -/
inductive ImmArg where
  | number (neg : Bool) (n : Nat) (e : Int)
  | expr (e : Expr)
  deriving DecidableEq, Repr

/-- A decimal number rounded RNE to a format (R63). -/
def decimalCode (f : Fmt) (neg : Bool) (n : Nat) (e : Int) : Nat :=
  if 0 ≤ e then roundMag f .rne .ieee neg (n * 10 ^ e.toNat) 0 false
  else
    let d := 10 ^ (-e).toNat
    let p := bitLen d + 1100
    roundMag f .rne .ieee neg (n * 2 ^ p / d) (-(p : Int)) (n * 2 ^ p % d != 0)

/-- One element in every element of parcel 2 (R71). -/
def replicateElem (w c : Nat) : Word32 := BitVec.ofNat 32 (ofElems w (List.replicate (elemCount w) c))

/-- Parcel 2 of an immediate for a type; none where it does not fit. (R52, R63, R71) -/
def immParcel (y : Symbols) (t : Ty) : ImmArg → Option Word32
  | .number neg n e =>
    if tyIsInt t then none
    else match t with
      | .b32 => none
      | .f64 => some (BitVec.ofNat 32 (decimalCode fmtF32 neg n e))
      | _ => some (replicateElem (tyWidth t) (decimalCode (fmtOf t) neg n e))
  | .expr e => (evalExpr y e).bind fun v =>
    let w := min 32 (tyWidth t)
    let wide := t == .i64 || t == .n64
    let fits := (decide (-(2 ^ (w - 1) : Int) ≤ v.toInt) && decide (v.toInt < 2 ^ (w - 1))) ||
      (!wide && decide (v.toNat < 2 ^ w))
    if fits then some (replicateElem w (v.toNat % 2 ^ w)) else none

/-! ### Modifiers and memory operands (R64, R65) -/

/-- The rm field for a rounding modifier or none; `vrnd` takes none. (R64) -/
def rmField (op : Nat) (rm : Option (BitVec 3)) : Option (BitVec 3) :=
  if op = 0x88 then (if rm.isSome then none else some 0)
  else some (rm.getD (if [0x80, 0x81, 0x82, 0x84, 0x86].contains op then 7 else 0))

/-- `.hist hN` and `.nohist` (R64). -/
def withHist (x : LFields) (table : Option (BitVec 3)) : LFields :=
  { x with mod := 1, p2 := (x.p2 &&& 0xFFFFFFF0#32) ||| (match table with
    | some n => 8#32 ||| n.setWidth 32
    | none => 0) }

/-- The empty policy `!` of sources a, b and c (R63). -/
def withFe (x : LFields) (a b c : Bool) : LFields :=
  { x with fe := BitVec.ofNat 3 ((if a then 4 else 0) + (if b then 2 else 0) + (if c then 1 else 0)) }

/-- A scalar memory operand. -/
inductive MemArg where
  | offset (a : BitVec 6) (off : Int)
  | index (a b : BitVec 6)
  | plain (a : BitVec 6)
  deriving DecidableEq, Repr

/-- The registers of an indexed S.R form: `[s4]` takes sb = 63. -/
def memIndexed : MemArg → Option (BitVec 6 × BitVec 6)
  | .index a b => some (a, b)
  | .plain a => some (a, 63)
  | .offset _ _ => none

/-- The register and offset of an S.I form. -/
def memOffset : MemArg → Option (BitVec 6 × BitVec 14)
  | .offset a o => if -8192 ≤ o ∧ o < 8192 then some (a, BitVec.ofInt 14 o) else none
  | _ => none

/-- A lane memory operand `[va + sb + off]`; without a scalar base vb = 63. -/
def laneMem (x : LFields) (a : BitVec 8) (b : Option (BitVec 6)) (off : Int) : Option LFields :=
  if -2 ^ 31 ≤ off ∧ off < 2 ^ 31 then
    some { x with va := a, vb := (b.getD 63).setWidth 8, bcls := 1, p2 := BitVec.ofInt 32 off }
  else none

/-! ### Sections (R66 to R69) -/

inductive ScalarItem where
  | insn (i : Instr)
  /-- a branch, jump or call to a label: its displacement is filled in -/
  | goto (i : Instr) (label : String)
  /-- `lrun label, n` -/
  | lrun (label : String) (n : Nat)
  | mov (d a : BitVec 6)
  | li (d : BitVec 6) (v : Expr)
  | label (name : String)
  | align (n : Nat)
  deriving DecidableEq, Repr

inductive PlaneItem where
  | insn (i : Instr)
  | label (name : String)
  deriving DecidableEq, Repr

inductive LaneItem where
  | insn (i : Instr)
  | label (name : String)
  | align (n : Nat)
  | planes (ps : List (List PlaneItem))
  deriving DecidableEq, Repr

inductive DataItem where
  | emit (bytes : Nat) (vs : List Expr)
  | label (name : String)
  | align (n : Nat)
  deriving DecidableEq, Repr

inductive TrelixItem where
  | insn (i : Instr) (t : TFields)
  | goto (i : Instr) (t : TFields) (label : String)
  | label (name : String)
  | align (n : Nat)
  deriving DecidableEq, Repr

def upTo (n m : Nat) : Nat := (n + m - 1) / m * m

def isPow2 (n : Nat) : Bool := n == 2 ^ Nat.log2 n

/-- `li`: one `addi` and k − 1 `slin`, k the least whose result is the value. (R66) -/
def liWords (d : BitVec 6) (v : Word64) : List Instr :=
  let top := fun (k : Nat) => v.sshiftRight (14 * (k - 1))
  let k := ((List.range' 1 4).find? (fun k => (((top k).setWidth 14).signExtend 64) == top k)).getD 5
  .addi d 63 ((top k).setWidth 14) ::
    (List.range (k - 1)).map (fun j => .slin d d ((v >>> (14 * (k - 2 - j))).setWidth 14))

/-- The labels, in order, the descriptors and the length of a lane section. -/
structure LaneLayout where
  words : List LWord
  labels : List (String × Word64)
  descs : List (String × Word64)
  deriving DecidableEq, Repr

/-- The word of `lnop`, which pads (R62, R69). -/
def lnopWord : LWord := 0xD20000000000000000000000#96

def lnops (n : Nat) : List LWord := List.replicate n lnopWord

def laneInsn (i : Instr) : Option LWord := if wellFormed i then encodeL i else none

/-- The words and the labels of one plane: a label takes the position within the plane. (R67) -/
def planeWords : List PlaneItem → List LWord × List (String × Word64) → Option (List LWord × List (String × Word64))
  | [], r => some r
  | .insn i :: l, (ws, ys) => (laneInsn i).bind fun w => planeWords l (ws ++ [w], ys)
  | .label n :: l, (ws, ys) => planeWords l (ws, ys ++ [(n, BitVec.ofNat 64 ws.length)])

/-- The lane section; `pend` are the labels that stand directly before the next item. (R67, R68, R69) -/
def laneSection : List LaneItem → List String → LaneLayout → Option LaneLayout
  | [], pend, r => some { r with labels := r.labels ++ pend.map (fun n => (n, BitVec.ofNat 64 r.words.length)) }
  | .label n :: l, pend, r => laneSection l (pend ++ [n]) r
  | .insn i :: l, pend, r => (laneInsn i).bind fun w =>
    laneSection l [] { r with
      words := r.words ++ [w], labels := r.labels ++ pend.map (fun n => (n, BitVec.ofNat 64 r.words.length)) }
  | .align n :: l, pend, r =>
    if !isPow2 n then none
    else laneSection l [] { r with
      words := r.words ++ lnops (upTo r.words.length n - r.words.length)
      labels := r.labels ++ pend.map (fun n => (n, BitVec.ofNat 64 r.words.length)) }
  | .planes ps :: l, pend, r =>
    match ps.mapM (fun p => planeWords p ([], [])) with
    | none => none
    | some qs =>
      let o := upTo r.words.length 4
      let len := upTo (qs.foldl (fun m q => max m q.1.length) 0) 4
      if ps.length = 0 ∨ 4 < ps.length ∨ 65532 < len ∨ 2 ^ 18 ≤ o then none
      else
        let d := BitVec.ofNat 64 (o + (ps.length - 1) * 2 ^ 18 + len * 2 ^ 20)
        laneSection l [] {
          words := r.words ++ lnops (o - r.words.length) ++ qs.flatMap (fun q => q.1 ++ lnops (len - q.1.length))
          labels := r.labels ++ pend.map (fun n => (n, BitVec.ofNat 64 o)) ++ qs.flatMap (fun q => q.2)
          descs := r.descs ++ pend.map (fun n => (n, d)) }

/-- The displacement in words, where the field holds it. -/
def dispOf (bits : Nat) (src dst : Nat) : Option Int :=
  let d : Int := ((dst : Int) - src) / 4
  if -(2 ^ (bits - 1) : Int) ≤ d ∧ d < 2 ^ (bits - 1) then some d else none

/-- A branch, jump or call at byte `src` to byte `dst` (R129, R130). -/
def aimed (i : Instr) (src dst : Nat) : Option Instr :=
  let b := fun (f : BitVec 16 → Instr) => (dispOf 16 src dst).map (fun d => f (BitVec.ofInt 16 d))
  let j := fun (f : BitVec 26 → Instr) => (dispOf 26 src dst).map (fun d => f (BitVec.ofInt 26 d))
  match i with
  | .beqz a _ => b (.beqz a)
  | .bnez a _ => b (.bnez a)
  | .bltz a _ => b (.bltz a)
  | .bgez a _ => b (.bgez a)
  | .bgtz a _ => b (.bgtz a)
  | .blez a _ => b (.blez a)
  | .bmz a _ => b (.bmz a)
  | .bmnz a _ => b (.bmnz a)
  | .jmp _ => j .jmp
  | .call _ => j .call
  | _ => none

/-- Constants that can be given a value now: those whose symbols have one. -/
def equRound (y : Symbols) (l : List (String × Expr)) : Symbols :=
  l.foldl (fun y p => if (symFind y.vals p.1).isSome then y else match evalExpr y p.2 with
    | some v => { y with vals := y.vals ++ [(p.1, v)] }
    | none => y) y

/-- The symbols with the constants of `.equ` (R68): a constant may name labels, descriptors and other constants. -/
def equSymbols (y : Symbols) (l : List (String × Expr)) : Symbols := l.foldl (fun y _ => equRound y l) y

/-- The instructions of a scalar item at byte `at_`; none is an assembly error. (R66, R67) -/
def scalarItem (y : Symbols) (at_ : Nat) : ScalarItem → Option (List Instr)
  | .insn i => some [i]
  | .goto i n => (symFind y.vals n).bind fun v => (aimed i at_ v.toNat).map (fun i => [i])
  | .lrun n k => (symFind y.vals n).bind fun v =>
    if k = 0 ∨ 256 < k ∨ 2 ^ 18 ≤ v.toNat then none else some [.lrun (BitVec.ofNat 8 (k - 1)) (v.setWidth 18)]
  | .mov d a => some [.add d a 63]
  | .li d e => (evalExpr y e).map (liWords d)
  | .label _ => some []
  | .align n => if isPow2 n then some (List.replicate ((upTo at_ (max 4 n) - at_) / 4) .nop) else none

/-- The scalar section from byte `at_`. -/
def scalarSection (y : Symbols) : List ScalarItem → Nat → Option (List Instr)
  | [], _ => some []
  | x :: l, at_ => (scalarItem y at_ x).bind fun is =>
    (scalarSection y l (at_ + 4 * is.length)).map fun r => is ++ r

/-- The S-words that an item takes; a `li` whose value is not known yet takes 5. -/
def itemWords (y : Symbols) (at_ : Nat) : ScalarItem → Nat
  | .li d e => ((evalExpr y e).map (fun v => (liWords d v).length)).getD 5
  | .label _ => 0
  | .align n => (upTo at_ (max 4 n) - at_) / 4
  | _ => 1

/-- The section's labels from byte `at_`. -/
def scalarLabels (y : Symbols) : List ScalarItem → Nat → List (String × Word64)
  | [], _ => []
  | .label n :: l, at_ => (n, BitVec.ofNat 64 at_) :: scalarLabels y l at_
  | x :: l, at_ => scalarLabels y l (at_ + 4 * itemWords y at_ x)

/-- The symbols once the scalar labels settle: each round lays the section out with the labels of the round before. -/
def settleScalar (y : Symbols) (equ : List (String × Expr)) (l : List ScalarItem) : Nat → List (String × Word64) → Option Symbols
  | 0, _ => none
  | k + 1, known =>
    let z := equSymbols { y with vals := known ++ y.vals } equ
    let r := scalarLabels z l 0
    if r = known then some z else settleScalar y equ l k r

/-- Labels before any layout. -/
def scalarNames (l : List ScalarItem) : List (String × Word64) :=
  l.filterMap (fun x => match x with
    | .label n => some (n, 0)
    | _ => none)

/-- The labels of a data section: each takes its byte offset from the section start (log 65). -/
def dataLabels : List DataItem → Nat → List (String × Word64)
  | [], _ => []
  | .label n :: l, at_ => (n, BitVec.ofNat 64 at_) :: dataLabels l at_
  | .align n :: l, at_ => dataLabels l (upTo at_ (max 1 n))
  | .emit b vs :: l, at_ => dataLabels l (at_ + b * vs.length)

/-- The bytes of a data section (R68). -/
def dataSection (y : Symbols) : List DataItem → Nat → Option (List Byte)
  | [], _ => some []
  | .label _ :: l, at_ => dataSection y l at_
  | .align n :: l, at_ =>
    if !isPow2 n then none
    else (dataSection y l (upTo at_ n)).map fun r => List.replicate (upTo at_ n - at_) 0 ++ r
  | .emit b vs :: l, at_ =>
    if !([1, 2, 4, 8].contains b) then none
    else (vs.mapM (evalExpr y)).bind fun ws =>
      if ws.any (fun w => decide (b < 8) && !(decide (w.toNat < 2 ^ (8 * b)) || decide (-(2 ^ (8 * b - 1) : Int) ≤ w.toInt ∧ w.toInt < 0))) then none
      else (dataSection y l (at_ + b * ws.length)).map fun r => ws.flatMap (fun w => natToBytes b (w.toNat % 2 ^ (8 * b))) ++ r

/-- A Trelix branch or `jal` at byte `src` to byte `dst` (R365). -/
def aimedTrelix (i : Instr) (t : TFields) (src dst : Nat) : Option TFields :=
  match i with
  | .trelixBeq | .trelixBne | .trelixBlt | .trelixBltn => (dispOf 16 src dst).map fun d =>
    let v := BitVec.ofInt 16 d
    { t with b := v.extractLsb' 11 5, low := v.extractLsb' 0 11 }
  | .trelixJal => (dispOf 21 src dst).map fun d =>
    let v := BitVec.ofInt 21 d
    { t with a := v.extractLsb' 16 5, b := v.extractLsb' 11 5, low := v.extractLsb' 0 11 }
  | _ => none

/-- The Trelix labels: each takes the byte offset of its word; padding is `addi x0, x0, 0`. (R68, R365) -/
def trelixLabels : List TrelixItem → Nat → List (String × Word64)
  | [], _ => []
  | .label n :: l, at_ => (n, BitVec.ofNat 64 at_) :: trelixLabels l at_
  | .align n :: l, at_ => trelixLabels l (upTo at_ (max 4 n))
  | _ :: l, at_ => trelixLabels l (at_ + 4)

def trelixSection (labels : List (String × Word64)) : List TrelixItem → Nat → Option (List Word32)
  | [], _ => some []
  | .label _ :: l, at_ => trelixSection labels l at_
  | .align n :: l, at_ =>
    if !isPow2 n then none
    else (trelixSection labels l (upTo at_ (max 4 n))).map fun r =>
      List.replicate ((upTo at_ (max 4 n) - at_) / 4) 0x04000000#32 ++ r
  | .insn i t :: l, at_ => (encodeT i t).bind fun w => (trelixSection labels l (at_ + 4)).map (fun r => w :: r)
  | .goto i t n :: l, at_ => (symFind labels n).bind fun v => (aimedTrelix i t at_ v.toNat).bind fun t =>
    (encodeT i t).bind fun w => (trelixSection labels l (at_ + 4)).map (fun r => w :: r)

/-! ### Kernels (R68, R70, R383) -/

/-- The keys of `.fslot`; an omitted key leaves its field zero. -/
structure Fslot where
  a : Option Nat
  b : Option Nat
  scale : Option Nat
  block : Option Nat
  rm : Option Nat
  e5 : Option Bool
  f4xOff : Option Bool
  /-- `hist=hN`, or `hist=off` -/
  hist : Option (Option Nat)
  seed : Option Word64
  deriving DecidableEq, Repr

/-- The slot's 16 bytes as a number (R22). -/
def fslotBits (f : Fslot) : Nat :=
  (f.seed.getD 0).toNat * 2 ^ 64 + f.a.getD 0 % 16 * 2 ^ 60 + f.b.getD 0 % 16 * 2 ^ 56 + f.scale.getD 0 % 2 * 2 ^ 53 +
  (match f.block with
    | some 8 => 3
    | some 32 => 5
    | _ => 0) * 2 ^ 48 + f.rm.getD 0 % 7 * 2 ^ 45 + (if f.e5.getD false then 2 ^ 44 else 0) +
  (if f.f4xOff.getD false then 2 ^ 43 else 0) +
  (match f.hist with
    | some (some n) => n % 8 * 2 ^ 40 + 2 ^ 39
    | _ => 0)

/-- A key's value is none of those of R68's table. -/
def fslotBad (f : Fslot) : Bool :=
  decide (16 ≤ f.a.getD 0) || decide (16 ≤ f.b.getD 0) || decide (2 ≤ f.scale.getD 0) || !([1, 8, 32].contains (f.block.getD 1)) ||
  decide (7 ≤ f.rm.getD 0) || match f.hist with
    | some (some n) => decide (8 ≤ n)
    | _ => false

/-- A kernel as its source names it. -/
structure Kernel where
  scalar : List ScalarItem
  lanes : List LaneItem
  data : List DataItem
  trelix : List TrelixItem
  vregs : Option Nat
  spans : Option Nat
  scratch : Option Nat
  banks : Option (Nat × Nat × Nat)
  fslots : List (Nat × Fslot)
  /-- base, length, object -/
  regions : List (Nat × Nat × Nat)
  /-- base, length, accumulate-only -/
  writes : List (Nat × Nat × Bool)
  equ : List (String × Expr)
  deriving DecidableEq, Repr

/-- The directives' values, with the defaults of R383. -/
def kernelVregs (k : Kernel) : Nat := k.vregs.getD 8
def kernelSpans (k : Kernel) : Nat := k.spans.getD 1
def kernelScratch (k : Kernel) : Nat := upTo (k.scratch.getD 0) 32768
def kernelBanks (k : Kernel) : Nat × Nat × Nat :=
  let s := kernelScratch k / 32768
  k.banks.getD (32 - s, s, 0)

/-- Does a directive break a limit of R68? -/
def directivesBad (k : Kernel) : Bool :=
  let b := kernelBanks k
  kernelVregs k < 8 || 256 < kernelVregs k || kernelVregs k % 8 != 0 || kernelSpans k = 0 || 32 < kernelSpans k ||
  524288 < k.scratch.getD 0 || 32 < b.1 + b.2.1 + b.2.2 || 16 < b.2.1 || b.2.1 < kernelScratch k / 32768 ||
  k.fslots.any (fun f => decide (8 ≤ f.1) || fslotBad f.2) || decide (8 < k.writes.length)

/-- What the assembler emits: the sections, and the launch-record template as its 32 words with the entry, the lane base
and the table references zero. -/
structure Object where
  scalar : List Word32
  lanes : List LWord
  data : List Byte
  trelix : List Word32
  rtab : List Byte
  wtab : List Byte
  launch : List Nat
  /-- global symbols of the Trelix section -/
  globals : List (String × Word64)
  deriving DecidableEq, Repr

/-- The region table (R271) and the write-range table with strides 0 (R70, R300); nothing where no directive stands. -/
def regionBytes (l : List (Nat × Nat × Nat)) : List Byte :=
  if l = [] then [] else natToBytes 8 l.length ++ l.flatMap (fun r => natToBytes 8 r.1 ++ natToBytes 8 r.2.1 ++ natToBytes 8 r.2.2)
def writeBytes (l : List (Nat × Nat × Bool)) : List Byte :=
  if l = [] then []
  else natToBytes 8 l.length ++ l.flatMap (fun r =>
    natToBytes 8 (r.1 + if r.2.2 then 2 ^ 63 else 0) ++ natToBytes 8 r.2.1 ++ List.replicate 24 0)

/-- The template's 32 words (R70, R282). -/
def templateWords (k : Kernel) : List Nat :=
  let b := kernelBanks k
  let slot := fun i => (((k.fslots.find? (fun f => f.1 == i)).map (fun f => fslotBits f.2)).getD 0)
  [0, 0, 0, 0, kernelSpans k * 2 ^ 32 + kernelVregs k / 8 * 2 ^ 40 + kernelScratch k / 32768 * 2 ^ 48,
    b.1 + b.2.1 * 2 ^ 8 + b.2.2 * 2 ^ 16] ++ List.replicate 10 0 ++
  (List.range 8).flatMap (fun i => [slot i % 2 ^ 64, slot i / 2 ^ 64])

/-- Assemble a kernel; none is an assembly error. (R63 to R70) -/
def assemble (name : String) (k : Kernel) : Option Object :=
  if directivesBad k then none
  else
    (laneSection k.lanes [] ⟨[], [], []⟩).bind fun ls =>
    (settleScalar ⟨ls.labels ++ dataLabels k.data 0, ls.descs⟩ k.equ k.scalar (8 * k.scalar.length + 8) (scalarNames k.scalar)).bind
      fun y =>
    if k.equ.any (fun p => (symFind y.vals p.1).isNone) then none else
    (dataSection y k.data 0).bind fun d =>
    (scalarSection y k.scalar 0).bind fun sc =>
    (sc.mapM (fun i => if wellFormed i then encodeS i else none)).bind fun ws =>
    let tl := trelixLabels k.trelix 0
    (trelixSection tl k.trelix 0).map fun ts =>
      { scalar := ws, lanes := ls.words, data := d, trelix := ts, rtab := regionBytes k.regions, wtab := writeBytes k.writes
        launch := templateWords k, globals := tl.map (fun p => (name ++ ":" ++ p.1, p.2)) }

/-- The loader resolves the template's references (R70). -/
def linkTemplate (o : Object) (scalar lanes rtab wtab : Nat) : List Nat :=
  o.launch.zipIdx.map (fun p =>
    if p.2 = 0 then scalar else if p.2 = 1 then lanes
    else if p.2 = 10 then (if o.rtab = [] then 0 else rtab)
    else if p.2 = 11 then (if o.wtab = [] then 0 else wtab) else p.1)

end Sys2Proof.Machine
end

