-- ==== Sys2Proof/Tests/Slice0.lean ====
section
/-! SUPPORT. Tests: the checks of WellFormed refuse ill-formed terms, words written out from the spec's encodings decode to
their instructions, and for every statement a concrete state and operands that meet its hypotheses, clause by clause, with
the conclusion looked at there. Expected values come from the spec's rules and examples, worked by hand. -/

namespace Sys2Proof.Machine.Tests
set_option Elab.async false
open Sys2Proof Sys2Proof.Machine

/-! ### Small states -/

/-- The probe's span with the registers given. -/
def tSpan (regs : List (Nat × Word64)) : Span := regs.foldl (fun sp r => sWrite sp r.1 r.2) (probeSpan [])

/-- The probe's deck with banks 0 (scratch) and 1 (FIFO). -/
def tDeck : Deck := { probeDeck with banks := [0, 1] }

/-- The probe's machine with its span 1 acting. -/
def tState (sp : Span) : State :=
  let s := { probeMachine State.reset [] with cur := { uid := 1 } }
  let s := putDeck s 3 tDeck
  let s := putBank s 0 0 { Bank.init with mode := .scratch, owner := some 3 }
  let s := putBank s 0 1 { Bank.init with mode := .fifo, owner := some 3 }
  putSpan s 1 sp

def pL : Launch := probeLaunch

/-- A deterministic launch whose decks write the bytes from 0x30000 to 0x3FFFF, and its machine. -/
def detL : Launch := { pL with det := true, quantumLen := 1024, writes := [(0x30000, 0x10000, false)], strides := [(0, 0, 0)] }
def detState (sp : Span) : State := { tState sp with launches := mapPut (tState sp).launches 2 detL }

/-- The outcome is this next state. -/
def nextIs (r : Res) (t : State) : Bool :=
  match r with
  | .next u => decide (u = t)
  | _ => false

/-- The outcome is a next state of which f holds. -/
def nextHas (r : Res) (f : State → Bool) : Bool :=
  match r with
  | .next u => f u
  | _ => false

/-- Two outcomes are the same next state. -/
def sameNext (a b : Res) : Bool :=
  match a, b with
  | .next u, .next t => decide (u = t)
  | _, _ => false

/-! ### Scalar instructions -/

def aSpan : Span := tSpan [(1, 0x8000000000000000), (2, 0xFFFFFFFFFFFFFFFF), (4, 7), (5, 65), (6, 1)]
def aState : State := tState aSpan

theorem wit_scalarResult : Acting aState aSpan ∧ ScalarsReady aSpan [1, 2, 3] ∧ ScalarsReady aSpan [63, 63, 63] := by
  unfold Acting ScalarsReady; decide +kernel
/-- The table under R123: div of −2^63 by −1, remn of 7 by 0, mulh of −1 and 1. -/
theorem test_division_corners :
    nextIs (exec (.div 3 1 2) aState) (putSpan aState 1 (advance (sWrite aSpan 3 0x8000000000000000))) = true ∧
    nextIs (exec (.remn 3 4 0) aState) (putSpan aState 1 (advance (sWrite aSpan 3 7))) = true ∧
    nextIs (exec (.divn 3 4 0) aState) (putSpan aState 1 (advance (sWrite aSpan 3 0xFFFFFFFFFFFFFFFF))) = true ∧
    nextIs (exec (.mulh 3 2 6) aState) (putSpan aState 1 (advance (sWrite aSpan 3 0xFFFFFFFFFFFFFFFF))) = true := by decide +kernel
/-- The table under R123: sll of 1 by 65, clz and ctz of 0, andi, slin, sltni, and addi to sz. -/
theorem test_scalar_table :
    nextIs (exec (.sll 3 6 5) aState) (putSpan aState 1 (advance (sWrite aSpan 3 2))) = true ∧
    nextIs (exec (.clz 3 0) aState) (putSpan aState 1 (advance (sWrite aSpan 3 64))) = true ∧
    nextIs (exec (.ctz 3 0) aState) (putSpan aState 1 (advance (sWrite aSpan 3 64))) = true ∧
    nextIs (exec (.andi 3 2 0x3FFF) aState) (putSpan aState 1 (advance (sWrite aSpan 3 0x3FFF))) = true ∧
    nextIs (exec (.sltni 3 2 1) aState) (putSpan aState 1 (advance aSpan)) = true ∧
    nextIs (exec (.addi 63 4 1) aState) (putSpan aState 1 (advance aSpan)) = true := by decide +kernel
theorem test_two_source_lists : ∀ p ∈ twoSourceOps 3 1 2 ++ divisionOps 3 1 2 ++ compareOps 3 1 2,
    nextIs (exec p.1 aState) (putSpan aState 1 (advance (sWrite aSpan 3 (p.2 0x8000000000000000 0xFFFFFFFFFFFFFFFF)))) = true := by
  decide +kernel
theorem test_one_source_lists : ∀ p ∈ oneSourceOps 3 1 ++ immediateOps 3 1 0x2001 5,
    nextIs (exec p.1 aState) (putSpan aState 1 (advance (sWrite aSpan 3 (p.2 0x8000000000000000)))) = true := by decide +kernel
theorem wit_zeroRegister : (5 : Nat) ≠ 63 ∧ (4 : Nat) ≠ 5 ∧ sRead (sWrite aSpan 63 1) 63 = 0 := by decide +kernel
theorem wit_scalarFrame : nextHas (exec (.add 3 1 2) aState) (fun t => decide ((spanOf t 1).isSome)) = true := by decide +kernel
theorem wit_encodings : (0x0F : BitVec 8) ∉ twoSourceCodes ++ divisionCodes ++ oneSourceCodes ∧ (6 : BitVec 8) ∉ compareCodes := by decide

/-! ### Control flow -/

def fSpan : Span := { tSpan [(1, 0x20001000), (2, 0x5), (7, 3)] with
  rets := ⟨[0x2000], 1⟩, masks := ⟨[0x0000000F_000000FF#64], 1⟩, am := 0x0F }
def fState : State := tState fSpan
theorem wit_branch : Acting fState fSpan ∧ ScalarsReady fSpan [7] := by unfold Acting ScalarsReady; decide +kernel
theorem test_branches : ∀ p ∈ branchOps 7 0xFFFF fSpan.am, nextIs (exec p.1 fState) (putSpan fState 1 (jumpTo fSpan
    (if p.2 3 then 0x10000 - 4 else 0x10000 + 4))) = true := by decide +kernel
theorem wit_jumps : ActingIn fState fSpan pL ∧ (jumpTarget fSpan 1).toNat % 4 = 0 ∧ (jumpTarget fSpan 1).toNat < vaTop ∧ fSpan.rets.depth < 8 ∧ ScalarsReady fSpan [1] ∧ (sRead fSpan 1).toNat % 4 = 0 ∧
    (sRead fSpan 1).toNat < vaTop ∧ fSpan.rets.hw = 0x2000 :: [] ∧ 0 < fSpan.rets.depth := by
  unfold ActingIn Acting ScalarsReady; decide +kernel
theorem test_jumps :
    nextIs (exec (.jmp 0x3FFFFFF) fState) (putSpan fState 1 (jumpTo fSpan 0xFFFC)) = true ∧
    nextIs (exec (.call 1) fState) (putSpan fState 1 (jumpTo { fSpan with rets := ⟨[0x10004, 0x2000], 2⟩ } 0x10004)) = true ∧
    nextIs (exec (.jmpRegister 1) fState) (putSpan fState 1 (jumpTo fSpan 0x20001000)) = true ∧
    nextIs (exec (.callRegister 1) fState) (putSpan fState 1 (jumpTo { fSpan with rets := ⟨[0x10004, 0x2000], 2⟩ } 0x20001000)) = true ∧
    nextIs (exec .ret fState) (putSpan fState 1 (jumpTo { fSpan with rets := ⟨[], 0⟩ } 0x2000)) = true := by decide +kernel
/-- R133: the mask stack's top holds the mask 0x0F above the saved `am` 0xFF. -/
theorem test_masks : 
    nextIs (exec (.mpush 2) fState) (putSpan fState 1 (advance { fSpan with
      masks := ⟨[0x00000005_0000000F#64, 0x0000000F_000000FF#64], 2⟩, am := 5 })) = true ∧
    nextIs (exec .melse fState) (putSpan fState 1 (advance { fSpan with am := 0xF0 })) = true ∧
    nextIs (exec .mpop fState) (putSpan fState 1 (advance { fSpan with masks := ⟨[], 0⟩, am := 0xFF })) = true ∧
    nextIs (exec (.mset 2) fState) (putSpan fState 1 (advance { fSpan with am := 5 })) = true ∧
    nextIs (exec (.mget 3) fState) (putSpan fState 1 (advance (sWrite fSpan 3 0x0F))) = true ∧
    nextIs (exec (.lget 3) fState) (putSpan fState 1 (advance (sWrite fSpan 3 0xFFFFFFFF))) = true := by decide +kernel
theorem wit_masks : ActingIn fState fSpan pL ∧ ScalarsReady fSpan [2, 3] ∧ fSpan.masks.depth < 8 ∧
    fSpan.masks.hw = ((0x0F : BitVec 32) ++ (0xFF : BitVec 32)) :: [] ∧ 0 < fSpan.masks.depth := by
  unfold ActingIn Acting ScalarsReady; decide +kernel

/-- Eight entries in hardware and one spilled, on each stack. -/
def kSpan (r m : Nat) : Span := { tSpan [(2, 5)] with
  rets := ⟨(List.range 8).map (fun i => BitVec.ofNat 64 (0x2000 + 4 * i)), r⟩,
  masks := ⟨(List.range 8).map (fun i => BitVec.ofNat 64 (0x100 + i)), m⟩ }
theorem wit_spillOut : ActingIn (tState (kSpan 8 9)) (kSpan 8 9) pL ∧ 8 ≤ (kSpan 8 9).rets.depth ∧ (kSpan 8 9).rets.depth < 264 ∧
    (jumpTarget (kSpan 8 9) 1).toNat % 4 = 0 ∧ (jumpTarget (kSpan 8 9) 1).toNat < vaTop ∧
    OwnWritable (tState (kSpan 8 9)) (kSpan 8 9) pL (spillAddr pL (kSpan 8 9) true 0) (.inr (spillAddr pL (kSpan 8 9) true 0)) := by
  unfold ActingIn Acting OwnWritable OwnAt; decide +kernel
theorem test_spillOut : (match ownWrite (tState (kSpan 8 9)) (kSpan 8 9) (kSpan 8 9) pL (spillAddr pL (kSpan 8 9) true 0)
      (.inr (spillAddr pL (kSpan 8 9) true 0)) (natToBytes 8 0x201C) with
    | (s', sp') => nextIs (exec (.call 1) (tState (kSpan 8 9))) (putSpan s' 1 (jumpTo
        { sp' with rets := ⟨0x10004 :: (kSpan 8 9).rets.hw.take 7, 9⟩ } 0x10004))) = true := by decide +kernel
theorem wit_spillIn : 8 < (kSpan 8 9).masks.depth ∧
    OwnReadable (tState (kSpan 8 9)) (kSpan 8 9) pL (spillAddr pL (kSpan 8 9) false 0) 8 (.inr (spillAddr pL (kSpan 8 9) false 0)) := by
  unfold OwnReadable OwnAt; decide +kernel
theorem test_spillIn : nextIs (exec .mpop (tState (kSpan 8 9))) (putSpan (ownUse (tState (kSpan 8 9)) (kSpan 8 9) pL
    (spillAddr pL (kSpan 8 9) false 0) 8 (.inr (spillAddr pL (kSpan 8 9) false 0))) 1 (advance { kSpan 8 9 with
    masks := ⟨(kSpan 8 9).masks.hw.tail ++ [0], 8⟩, am := 0x100 })) = true := by decide +kernel
/-- R150, R151: an empty stack traps RET_EMPTY, MASKSTACK_EMPTY; a call to a target off a 4-byte boundary traps MISALIGNED. -/
theorem test_stackEmpty : (tSpan [(2, 5)]).rets.depth = 0 ∧ (tSpan [(2, 5)]).masks.depth = 0 ∧
    sameNext (exec .ret (tState (tSpan [(2, 5)]))) (takeTrap (tState (tSpan [(2, 5)])) (tSpan [(2, 5)]) pL ⟨0x06, false, 0xFFFFFFFF, 0⟩) = true ∧
    sameNext (exec .melse (tState (tSpan [(2, 5)]))) (takeTrap (tState (tSpan [(2, 5)])) (tSpan [(2, 5)]) pL ⟨0x07, false, 0xFFFFFFFF, 0⟩) = true ∧
    sameNext (exec (.callRegister 2) (tState (tSpan [(2, 5)]))) (takeTrap (tState (tSpan [(2, 5)])) (tSpan [(2, 5)]) pL ⟨0x0A, false, 0xFFFFFFFF, 5⟩) = true := by
  decide +kernel
theorem test_stackFull :
    sameNext (exec (.call 1) (tState (kSpan 264 264))) (takeTrap (tState (kSpan 264 264)) (kSpan 264 264) pL ⟨causeIllegal, false, (kSpan 264 264).am, 0⟩) = true ∧
    sameNext (exec (.mpush 2) (tState (kSpan 264 264))) (takeTrap (tState (kSpan 264 264)) (kSpan 264 264) pL ⟨causeIllegal, false, (kSpan 264 264).am, 0⟩) = true := by
  decide +kernel
def plSpan : Span := { tSpan [] with pl := 0x1B, live := 0xFFFF }
theorem wit_planes : ActingIn (tState plSpan) plSpan pL ∧ ScalarsReady plSpan [3] := by unfold ActingIn Acting ScalarsReady; decide +kernel
/-- R134: with pl = 0b…00_01_10_11 lane 0 has plane 3, lane 1 plane 2, lane 2 plane 1, every other plane 0. -/
theorem test_planes :
    nextIs (exec (.plmask 3 2) (tState plSpan)) (putSpan (tState plSpan) 1 (advance (sWrite plSpan 3 2))) = true ∧
    nextIs (exec (.plmask 3 0) (tState plSpan)) (putSpan (tState plSpan) 1 (advance (sWrite plSpan 3 0xFFF8))) = true ∧
    nextIs (exec (.plget 3) (tState plSpan)) (putSpan (tState plSpan) 1 (advance (sWrite plSpan 3 0x1B))) = true ∧
    nextIs (exec (.plall 2) (tState plSpan)) (putSpan (tState plSpan) 1 (advance { plSpan with pl := 0xAAAAAAAAAAAAAAAA })) = true := by
  decide +kernel
def lSpan : Span := tSpan [(1, 9), (2, 0x0000000100000003)]
theorem wit_laneIssue : ActingIn (tState lSpan) lSpan pL ∧ lSpan.queue = [] ∧ ScalarsReady lSpan [1, 2] ∧ (sRead lSpan 1).toNat < 2 ^ 18 ∧
    planeCheck lSpan (0x0000000100000000) 0 1 = none := by unfold ActingIn Acting ScalarsReady; decide +kernel
theorem test_laneIssue : nextIs (exec (.lrun 2 5) (tState lSpan)) (putSpan (tState lSpan) 1 (advance (enqueue (tState lSpan) lSpan pL
    ⟨0x10000, false, 5, 0, 0, 3, 0, 0, false, [], [], [], none⟩))) = true := by decide +kernel
theorem wit_exit : ActingIn (tState lSpan) lSpan pL ∧ pL.det = false ∧ lSpan.regs = [] := by unfold ActingIn Acting; decide +kernel
/-- A span registered at a network barrier. -/
def xSpan : Span := { lSpan with regs := [⟨0x01FFFFFFFFF7FE00, 3, 0, 0⟩] }
theorem wit_exitRegs : ActingIn (tState xSpan) xSpan pL ∧ xSpan.regs ≠ [] ∧ StoresDone (tState xSpan) xSpan (tableScope (tState xSpan) xSpan) ∧
    exitLines (tState xSpan) xSpan = [] ∧ (spanOf (dropLanes (tState xSpan) 1 xSpan.live) 1).isSome = true := by
  unfold ActingIn Acting StoresDone; decide +kernel
theorem wit_exitDet : ActingIn (detState lSpan) lSpan detL ∧ detL.det = true ∧ lSpan.buffer.length < 512 ∧
    nextIs (exec .sexit (detState lSpan)) (retireSpan (putSpan (detState lSpan) 1 { countUnit lSpan with
      buffer := [(0x10000, .drop 0xFFFFFFFF)], live := 0, am := 0 }) 1) = true := by unfold ActingIn Acting; decide +kernel
theorem test_exitRegs : nextHas (exec .sexit (tState xSpan)) (fun t => decide (spanOf t 1 = none)) = true := by decide +kernel
theorem test_exit : nextHas (exec .sexit (tState lSpan)) (fun t => decide (spanOf t 1 = none)) = true := by decide +kernel

/-! ### Scalar memory, FIFOs, counted lines -/

def mSpan : Span := tSpan [(1, 0x30000), (2, 8), (3, 0x1122334455667788), (6, 0x01FFFFFFFFF80010), (7, 0x30004), (8, 0x0000010000000000)]
def mState : State := { tState mSpan with mem := [(0x30000, 0x55), (0x30001, 0x66)] }
def mPlace : List (Acc × Place) := [((0, 0x30000), .phys 0x30000)]

theorem wit_scalarLoad : ActingIn mState mSpan pL ∧ mState.cur.lane = false ∧ ScalarsReady mSpan [1, 0, 3] ∧ mSpan.acquiring = none ∧ mSpan.pend = .none ∧
    checkAcc mState mSpan pL .plain 8 0x30000 = (mState, .ok (.phys 0x30000)) ∧ readsBad mState mSpan pL 8 mPlace = false ∧
    loadMayIssue mState mSpan pL .plain 8 mPlace ∧ loadMayIssue mState mSpan pL .unc 4 mPlace ∧ (sRead mSpan 2).toNat % 256 ≠ 0 ∧
    checkAcc mState mSpan pL .readers 4 0x30000 = (mState, .ok (.phys 0x30000)) ∧ loadMayIssue mState mSpan pL .readers 4 mPlace := by
  unfold ActingIn Acting ScalarsReady loadMayIssue; decide +kernel
theorem test_scalarLoad : ∀ p ∈ scalarLoads mSpan 3 1 0 0 2 1 ++ [(.ldReaders 3 1 2 2 1, ⟨.readers, 8, 4, true, 0x30000⟩)],
    (let t := loadIssued mState mSpan pL p.2.kind p.2.readers p.2.width p.2.signed (.s 3) mPlace
     nextIs (exec p.1 mState) (putSpan t t.cur.uid (advance (sMarkEmpty mSpan 3)))) = true := by decide +kernel
def consLoad : Load := { mkLoad 1 .none 8 false [⟨0, 0x30000, some 0x6655⟩] 0 with served := [(0x600, false)] }
def cSpan : Span := { mSpan with pend := .consume 40 }
def cState : State := { putSpan mState 1 cSpan with loads := [(40, consLoad)] }
theorem wit_scalarConsuming : ActingIn cState cSpan pL ∧ ScalarsReady cSpan [1, 2, 3] ∧ cSpan.acquiring = none ∧ mapFind cState.loads 40 = some consLoad ∧
    consLoad.waits = 0 ∧ (∀ x ∈ consLoad.served, x.2 = false) ∧
    (let t := putLoad (consLoad.served.foldl (fun t x => settleLine t x.1 false) cState) 40 { consLoad with dest := .s 3 }
     nextIs (exec (.ldCons 3 1 2 3 0) cState) (putSpan t t.cur.uid (advance (sMarkEmpty { cSpan with pend := .none } 3)))) = true := by
  unfold ActingIn Acting ScalarsReady; decide +kernel
theorem wit_scratchAt : ScratchAt mState mSpan 0x01FFFFFFFFF80010 8 tDeck ∧ ScratchAt mState mSpan 0x01FFFFFFFFF80010 4 tDeck := by
  refine ⟨⟨by decide +kernel, by decide +kernel, by decide +kernel, _, rfl, ?_⟩, ⟨by decide +kernel, by decide +kernel, by decide +kernel, _, rfl, ?_⟩⟩ <;>
    decide +kernel
theorem test_scratchStores : ∀ p ∈ scalarStores mSpan 3 6 0 0 1 |>.filter (fun p => p.2.addr == 0x01FFFFFFFFF80010),
    nextIs (exec p.1 mState) (putSpan (localWrite mState tDeck 0x10
      (natToBytes p.2.width (0x1122334455667788 % 2 ^ (8 * p.2.width)))) 1 (advance mSpan)) = true := by decide +kernel
theorem test_scratchStoreCount : (scalarStores mSpan 3 6 0 0 1 |>.filter (fun p => p.2.addr == 0x01FFFFFFFFF80010)).length = 4 := by decide +kernel
/-- A store whose one line has been answered. -/
def answered : Req := { Req.init with core := 0, uid := 1, kind := .storeCheck, line := 0x600, stage := .answered, va := 0x30000, mask := 0xFF, data := 0x1122334455667788 }
def stSpan : Span := { mSpan with pend := .store [41] }
def stState : State := { putSpan mState 1 stSpan with reqs := [(41, answered)] }
theorem wit_storePerformed : ActingIn stState stSpan pL ∧ inLocal 0x30000 = false ∧ (∀ i ∈ [41], (reqOf stState i).stage = .answered ∧ (reqOf stState i).bad = false) ∧
    (let r := storePerformed stState stSpan pL false [41] [] 8 (fun _ => 0x1122334455667788)
     nextIs (exec (.stB64 3 1 0) stState) (putSpan r.1 r.1.cur.uid (advance r.2))) = true ∧
    (let r := storePerformed stState stSpan pL true [41] [] 8 (fun _ => 0x1122334455667788)
     nextIs (exec (.stUnc 3 1 0 3) stState) (putSpan r.1 r.1.cur.uid (advance r.2))) = true := by unfold ActingIn Acting; decide +kernel
theorem wit_storeAsks : checkAcc mState mSpan pL .store 8 0x30000 = (mState, .ok (.phys 0x30000)) ∧ isHbm (128 * (0x30000 / 128)) = true ∧
    unread mState 1 (fun y => y == 0x30000 / 128) = [] ∧
    nextHas (exec (.stB64 3 1 0) mState) (fun t => decide (t.mem = mState.mem ∧ t.cores = mState.cores ∧
      (mapFind t.reqs mState.nextId).map (fun r => (r.kind, r.line, r.stage)) = some (.storeCheck, 0x600, .home) ∧
      spanOf t 1 = some { mSpan with pend := .store [mState.nextId] })) = true := by decide +kernel
theorem wit_accessTraps : inQuad (addrImm mSpan 7 0) = false ∧ addrImm mSpan 7 0 % 8 ≠ 0 ∧
    sameNext (exec (.ldB64 3 7 0) mState) (takeTrap mState mSpan pL ⟨causeMisaligned, false, 1, 0x30004⟩) = true ∧
    sameNext (exec (.stB64 3 7 0) mState) (takeTrap mState mSpan pL ⟨causeMisaligned, false, 1, 0x30004⟩) = true := by decide +kernel
def qSpan : Span := tSpan [(1, 0x01FFFFFFFFF7FE00)]
theorem wit_quadTrap : inQuad (addrImm qSpan 1 0) = true ∧
    sameNext (exec (.stB64 3 1 0) (tState qSpan)) (takeTrap (tState qSpan) qSpan pL ⟨causeBarrier, false, 1, 0x01FFFFFFFFF7FE00⟩) = true := by decide +kernel
theorem wit_fifo : deckOf mState mSpan.deck = some tDeck ∧ physBank tDeck 1 = some 1 ∧ (bankOf (coreOf mState 0) 1).mode = .fifo ∧
    (bankOf (coreOf mState 0) 1).switch = [] ∧ (bankOf (coreOf mState 0) 1).ring.length + 2 ≤ fifoRoom ∧ firstPop mState 0 1 = none ∧
    nextIs (exec (.push 3 1) mState) (putSpan (putBank mState 0 1 { bankOf (coreOf mState 0) 1 with ring := [0x55667788, 0x11223344] }) 1 (advance mSpan)) = true := by
  decide +kernel
def fifoState : State := putBank mState 0 1 { bankOf (coreOf mState 0) 1 with ring := [0x55667788, 0x11223344, 7] }
theorem test_pop : nextHas (exec (.pop 4 1) fifoState) (fun t => decide (
    (mapFind t.loads fifoState.nextId).map Load.lanes = some [⟨0, 0, some 0x55667788⟩, ⟨1, 0, some 0x11223344⟩] ∧
    (mapFind t.loads fifoState.nextId).map Load.dest = some (.s 4) ∧ (bankOf (coreOf t 0) 1).ring = [7] ∧
    spanOf t 1 = some (advance (sMarkEmpty mSpan 4)))) = true := by decide +kernel
theorem wit_dropc : (sRead mSpan 0).toNat % 2 ^ 32 = 0 ∧ (sRead mSpan 2).toNat % 2 ^ 32 ≠ 0 ∧
    (sRead mSpan 1).toNat + (sRead mSpan 2).toNat % 2 ^ 32 ≤ quadLo ∧ mState.loads = [] ∧ allPerformed mState mSpan 1 = true ∧
    nextIs (exec (.dropc 1 8) mState) (putSpan mState 1 (advance mSpan)) = true ∧
    nextHas (exec (.dropc 1 2) mState) (fun t => decide ((mapFind t.reqs mState.nextId).map (fun r => (r.kind, r.va, r.a)) =
      some (.dropc, 0x30000, 0x30008) ∧ spanOf t 1 = some (advance mSpan))) = true := by decide +kernel
/-- A store of a deterministic launch into its own range is one entry of the commit buffer (R299); one outside it traps. -/
theorem wit_storeBuffered : ActingIn (detState mSpan) mSpan detL ∧ detL.det = true ∧
    checkAcc (detState mSpan) mSpan detL .store 8 0x30000 = (detState mSpan, .ok (.phys 0x30000)) ∧
    ownsBytes (detState mSpan) mSpan detL (fun acc => !acc) 0x30000 8 = true ∧
    nextIs (exec (.stB64 3 1 0) (detState mSpan)) (putSpan (detState mSpan) 1 (advance { mSpan with
      buffer := [(0x10000, .store ((List.range 8).map (fun i => (0x30000 + i, BitVec.ofNat 8 (0x1122334455667788 >>> (8 * i))))) false)] })) = true := by
  unfold ActingIn Acting; decide +kernel
def oSpan : Span := tSpan [(1, 0x40000)]
theorem test_ownership : sameNext (exec (.stB64 3 1 0) (detState oSpan)) (takeTrap (detState oSpan) oSpan detL ⟨causeOwnership, false, 1, 0x40000⟩) = true := by
  decide +kernel
theorem wit_fifoDet : ActingIn (detState mSpan) mSpan detL ∧ deckOf (detState mSpan) mSpan.deck = some tDeck ∧
    (bankOf (coreOf (detState mSpan) 0) 1).mode = .fifo ∧ (bankOf (coreOf (detState mSpan) 0) 1).switch = [] ∧
    nextIs (exec (.push 3 1) (detState mSpan)) (putSpan (detState mSpan) 1 (advance { mSpan with
      buffer := [(0x10000, .fifo 1 [0x55667788, 0x11223344])] })) = true := by
  unfold ActingIn Acting; decide +kernel
theorem test_popWaits : nextHas (exec (.pop 4 1) mState) (fun t => decide (
    (mapFind t.loads mState.nextId).map Load.lanes = some [⟨0, 0, none⟩, ⟨1, 0, none⟩] ∧
    spanOf t 1 = some (advance (sMarkEmpty mSpan 4)))) = true := by decide +kernel
theorem wit_dropcWaits : (∀ x ∈ mState.loads, x.2.uid ≠ mState.cur.uid) ∧ StoresDone mState mSpan 4 ∧
    ownsBytes (detState mSpan) mSpan detL (fun _ => true) 0x30000 8 = true ∧
    nextIs (exec (.dropc 1 2) (detState mSpan)) (putSpan (detState mSpan) 1 (advance { mSpan with
      buffer := [(0x10000, .dropc 0x30000 8)] })) = true := by
  unfold StoresDone; decide +kernel

/-! ### Atomics, barriers, sync objects, bindings -/

/-- Registers: 1 a scratch word, 2 an operand, 3 the expected value, 5 a barrier, 6 and 7 its counts, 8 a sync object, 9 a base, 10 a
length. -/
def ySpan : Span := tSpan [(1, 0x01FFFFFFFFF80010), (2, 0x000000007FC00001), (3, 0xFFFFFFFF80000000), (5, 0x01FFFFFFFFF80040),
  (6, 4), (7, 256), (8, 0x30010), (9, 0x50080), (10, 0x100)]
def yState : State := localWrite (tState ySpan) tDeck 0x10 (natToBytes 8 0x00000001FFFFFFFE)
theorem wit_atomicScratch : ActingIn yState ySpan pL ∧ ScalarsReady ySpan [1, 2, 3] ∧ ySpan.acquiring = none ∧ ySpan.pend = .none ∧
    pL.det = false ∧ releaseRoom yState ySpan 4 ∧ releaseRoom yState ySpan 10 ∧ atomReady yState ySpan 10 = true ∧
    atomicsOn yState 1 ((sRead ySpan 1).toNat / 128) = false ∧
    localBad yState tDeck ((sRead ySpan 1).toNat - localLo) 4 = false ∧ localBad yState tDeck ((sRead ySpan 1).toNat - localLo) 8 = false ∧
    ScratchAt yState ySpan (sRead ySpan 1).toNat 4 tDeck ∧ ScratchAt yState ySpan (sRead ySpan 1).toNat 8 tDeck := by
  refine ⟨?_, ?_, by decide +kernel, by decide +kernel, by decide +kernel, ?_, ?_, by decide +kernel, by decide +kernel, by decide +kernel, by decide +kernel,
    ⟨by decide +kernel, by decide +kernel, by decide +kernel, _, rfl, ?_⟩, ⟨by decide +kernel, by decide +kernel, by decide +kernel, _, rfl, ?_⟩⟩ <;>
    (try unfold ActingIn Acting) <;> (try unfold ScalarsReady) <;> (try unfold releaseRoom) <;> decide +kernel
def yOp (w : Nat) : AtomOp := ⟨(0, 0x01FFFFFFFFF80010), .loc 0x10, 0x7FC00001, 0xFFFFFFFF80000000 % 2 ^ w⟩
/-- R109 by hand: old 0xFFFFFFFE as a signed word is −2; the new value of add is 0x7FBFFFFF. -/
theorem test_atomicScratch :
    nextIs (exec (.atomB32Add 3 1 2 0) yState) (putSpan (atomDone yState tDeck 0x10 32 0x7FBFFFFF 0xFFFFFFFE (.s 3)) 1
      (advance (sMarkEmpty ySpan 3))) = true ∧
    nextIs (exec (.atomB32Min 63 1 2 0) yState) (putSpan (atomDone yState tDeck 0x10 32 0xFFFFFFFE 0xFFFFFFFE .none) 1 (advance ySpan)) = true ∧
    nextIs (exec (.atomN64Xchg 3 1 2 4) yState) (putSpan (atomDone (orderLocal yState ySpan 4 [yOp 64]) tDeck 0x10 64 0x7FC00001 0x1FFFFFFFE (.s 3)) 1
      (advance (sMarkEmpty (beginAcquire ySpan yState.nextId 4 []) 3))) = true := by decide +kernel
theorem test_atomics32 : ∀ p ∈ (atoms32 3 1 2 10).zip (atomFns 32), nextIs (exec p.1 yState)
    (putSpan (atomDone (orderLocal yState ySpan 10 [yOp 32]) tDeck 0x10 32 (p.2 0xFFFFFFFE 0x7FC00001 0x80000000) 0xFFFFFFFE (.s 3)) 1
      (advance (sMarkEmpty (if ordAcq 10 then beginAcquire ySpan yState.nextId (ordScope 10) [] else ySpan) 3))) = true := by
  decide +kernel
theorem test_atomics64 : ∀ p ∈ (atoms64 3 1 2 0).zip (atomFns 64), nextIs (exec p.1 yState)
    (putSpan (atomDone yState tDeck 0x10 64 (p.2 0x1FFFFFFFE 0x7FC00001 0xFFFFFFFF80000000) 0x1FFFFFFFE (.s 3)) 1
      (advance (sMarkEmpty ySpan 3))) = true := by decide +kernel
/-- A release on a scratch word while a store of the span is on its way: it commits, and its update is held (R265). -/
def heldState : State := { yState with reqs := [(0, { Req.init with kind := .storeData, by_ := [1], stage := .home })] }
theorem wit_atomicHeld : atomReady heldState ySpan 10 = false ∧ releaseRoom heldState ySpan 10 ∧ nextHas (exec (.atomB32Add 3 1 2 10) heldState) (fun t =>
    decide (localRead t tDeck 0x10 4 = 0xFFFFFFFE ∧ (reqOf t (heldState.nextId + 1)).scratch = some 3 ∧ (reqOf t (heldState.nextId + 1)).covered = [0] ∧
      (spanOf t 1).map Span.spc = some 0x10004)) = true := by unfold releaseRoom; decide +kernel
def atReq : Req := { Req.init with core := 0, uid := 1, kind := .atomic, line := 0x600, stage := .answered, va := 0x30000, a := 0, width := 4 }
def atSpan : Span := { ySpan with pend := .atomic [41] }
def atState : State := { putSpan yState 1 atSpan with reqs := [(41, atReq)] }
theorem wit_atomicAtHome : ActingIn atState atSpan pL ∧ ScalarsReady atSpan [1, 2, 3] ∧ atSpan.acquiring = none ∧
    (reqOf atState 41).stage = .answered ∧ (reqOf atState 41).bad = false ∧ ordRel 4 = false ∧ (reqOf atState 41).tag = 0 ∧
    (∀ x ∈ atoms32 3 1 2 4 ++ atoms64 3 1 2 4, nextHas (exec x atState) (fun t => decide (
      (mapFind t.loads atState.nextId).map (fun ld => (ld.waits, ld.dest)) = some (1, .s 3) ∧
      reqOf t 41 = { reqOf atState 41 with stage := .quad, loads := [atState.nextId], covered := [], writers := [writerOf atState 1 0 0 0x30000], scope := 4, clock := [] } ∧
      spanOf t 1 = some (advance (sMarkEmpty (if ordAcq 4 then beginAcquire { atSpan with pend := .none } atState.nextId (ordScope 4) []
        else { atSpan with pend := .none }) 3)))) = true) := by unfold ActingIn Acting ScalarsReady; decide +kernel

def bLoc : BarLoc := .scratch 3 0x40
theorem wit_barinit : ActingIn yState ySpan pL ∧ ScalarsReady ySpan [5, 6, 7] ∧ findBar yState ySpan pL (sRead ySpan 5) 0 true = .loc bLoc ∧
    findBar yState ySpan pL (sRead ySpan 5) 1 true = .loc bLoc ∧ findBar yState ySpan pL (sRead ySpan 5) 2 true = .loc bLoc ∧
    (readBar (barAt yState ySpan bLoc) bLoc).valid = false ∧ barFree (barAt yState ySpan bLoc) ySpan bLoc := by
  refine ⟨?_, ?_, ?_, ?_, ?_, ?_, fun pa h => by cases h⟩ <;> (try unfold ActingIn Acting) <;> (try unfold ScalarsReady) <;> decide +kernel
/-- The state of a barrier that expects 4 arrivals and 256 bytes, with the active lanes given. -/
def barImage : Bar := { barOfWords 0 0 0 0 with valid := true, exparr := 4, base := 256, expbytes := 256 }
def regsOf (lanes : BitVec 32) : List RegEntry := [⟨0x01FFFFFFFFF80040, lanes, 0, 0⟩]
def bSpan (am : BitVec 32) (regs : List RegEntry) : Span := { ySpan with am := am, regs := regs }
def bState (am : BitVec 32) (regs : List RegEntry) (b : Bar) : State := putSpan (writeBar yState bLoc b) 1 (bSpan am regs)
theorem test_barinit : nextIs (exec (.barinit 7 5 6) yState) (putSpan (writeBar yState bLoc barImage) 1 (advance ySpan)) = true := by
  decide +kernel
theorem wit_barriers : ActingIn (bState 3 [] barImage) (bSpan 3 []) pL ∧ ScalarsReady (bSpan 3 []) [5, 6, 7] ∧
    (∀ k ∈ [0, 1, 2], findBar (bState 3 [] barImage) (bSpan 3 []) pL (sRead ySpan 5) k true = .loc bLoc) ∧
    readBar (bState 3 [] barImage) bLoc = barImage ∧ (bSpan 3 []).regs.length < 8 ∧
    (bSpan 3 (regsOf 6)).regs.find? (fun e => e.addr == sRead ySpan 5) = some ⟨0x01FFFFFFFFF80040, 6, 0, 0⟩ := by
  unfold ActingIn Acting ScalarsReady; decide +kernel
/-- R192 by hand: two lanes register; one more lane joins an entry; the expected bytes rise. -/
theorem test_barreg :
    nextIs (exec (.barreg 5) (bState 3 [] barImage)) (bState 3 [] barImage |> fun s =>
      putSpan (writeBar s bLoc { barImage with registered := 2 }) 1 (advance (bSpan 3 (regsOf 3)))) = true ∧
    nextIs (exec (.barreg 5) (bState 0 [] barImage)) (putSpan (bState 0 [] barImage) 1 (advance (bSpan 0 []))) = true ∧
    nextIs (exec (.barreg 5) (bState 3 (regsOf 6) { barImage with registered := 2 })) (bState 3 (regsOf 6) barImage |> fun s =>
      putSpan (writeBar s bLoc { barImage with registered := 3 }) 1 (advance (bSpan 3 (regsOf 7)))) = true ∧
    nextIs (exec (.barexp 5 7) (bState 3 [] barImage)) (bState 3 [] barImage |> fun s =>
      putSpan (writeBar s bLoc { barImage with expbytes := 512 }) 1 (advance (bSpan 3 []))) = true := by decide +kernel
/-- A phase of four arrivals and no bytes: four lanes arrive and complete it; three of four stay. -/
theorem test_bararr :
    nextIs (exec (.bararr 5) (bState 7 (regsOf 7) { barImage with base := 0, expbytes := 0, registered := 3 }))
      (bState 7 (regsOf 7) barImage |> fun s => putSpan (writeBar (covering s bLoc) bLoc { barImage with base := 0, expbytes := 0, registered := 3, arrivals := 3 })
        1 (advance (bSpan 7 [⟨0x01FFFFFFFFF80040, 7, 7, 0⟩]))) = true ∧
    nextIs (exec (.bararr 5) (bState 15 [] { barImage with base := 0, expbytes := 0 }))
      (bState 15 [] barImage |> fun s => putSpan (writeBar (covering s bLoc) bLoc { barImage with base := 0, expbytes := 0, phase := 1 })
        1 (advance (bSpan 15 []))) = true := by decide +kernel
theorem wit_arriveDone : ArriveDone (bState 7 (regsOf 7) barImage) (bSpan 7 (regsOf 7)) (barScope bLoc) (arrivalMarks bLoc) := by
  have h : atomicsOf (bState 7 (regsOf 7) barImage) 1 = [] ∧ unread (bState 7 (regsOf 7) barImage) 1 (fun _ => true) = [] := by decide +kernel
  exact h
theorem wit_bararr : (bSpan 7 (regsOf 7)).badTable = false ∧
    allPerformed (bState 7 (regsOf 7) barImage) (bSpan 7 (regsOf 7)) 1 = true ∧ barScope bLoc = 1 ∧
    barAt (bState 7 (regsOf 7) barImage) (bSpan 7 (regsOf 7)) bLoc = bState 7 (regsOf 7) barImage ∧
    atomicsOf (bState 7 (regsOf 7) barImage) 1 = [] ∧ unread (bState 7 (regsOf 7) barImage) 1 (fun _ => true) = [] ∧
    (bSpan 1 (regsOf 7)).am &&& ~~~ (7 : BitVec 32) = 0 ∧
    (spanOf (dropAt (bState 1 (regsOf 7) barImage) 1 1 ⟨0x01FFFFFFFFF80040, 7, 0, 0⟩) 1).map Span.regs = some (regsOf 6) ∧
    nextHas (exec (.bardrop 5) (bState 1 (regsOf 7) { barImage with registered := 3 })) (fun t => decide (
      readBar t bLoc = barArrive { barImage with registered := 2, drops := 1 } 1 ∧
      (spanOf t 1).map (fun sp => (sp.regs, sp.spc)) = some (regsOf 6, 0x10004))) = true ∧
    nextIs (exec (.bardrop 5) (bState 0 [] barImage)) (putSpan (bState 0 [] barImage) 1 (advance (bSpan 0 []))) = true := by decide +kernel
/-- R193 for phase 4 of a barrier in phase 5: status 0, with the poison mark 4, with overflow 5; phase 3 is not the last one: 3. -/
theorem test_waitStatus : waitStatus { barImage with phase := 5 } 4 = some 0 ∧ waitStatus { barImage with phase := 5, plast := true } 4 = some 4 ∧
    waitStatus { barImage with phase := 5, olast := true } 4 = some 5 ∧ waitStatus { barImage with phase := 5 } 3 = some 3 ∧
    waitStatus { barImage with phase := 5 } 5 = none := by decide +kernel
def wSpan : Span := { ySpan with am := 1 }
def wState : State := putSpan (writeBar yState bLoc { barImage with phase := 5 }) 1 wSpan
theorem wit_barwait : ActingIn wState wSpan pL ∧ ScalarsReady wSpan [5, 6, 7] ∧ wSpan.pend = .none ∧
    findBar wState wSpan pL (sRead wSpan 5) 0 false = .loc bLoc ∧ (readBar wState bLoc).valid = true ∧
    waitEnds (readBar wState bLoc) ((sRead wSpan 6).toNat % 2 ^ 32) 0 ∧
    nextIs (exec (.barwait 7 5 6 0) wState) (putSpan (learn (acquireDrop wState 0 false) 1 []) 1 (advance (acquired wState (sWrite wSpan 7 0) false))) = true := by
  unfold ActingIn Acting ScalarsReady waitEnds; decide +kernel
/-- A wait for a phase that is not the last one ends with 3, one at an abandoned barrier with 1 (R193). -/
theorem test_barwaitEnds :
    (let s := putSpan (writeBar yState bLoc { barImage with phase := 6 }) 1 wSpan
     nextIs (exec (.barwait 7 5 6 0) s) (putSpan s 1 (advance (sWrite wSpan 7 3)))) = true ∧
    (let s := putSpan (writeBar yState bLoc { barImage with phase := 4, abandoned := true }) 1 wSpan
     nextIs (exec (.barwait 7 5 6 0) s) (putSpan s 1 (advance (sWrite wSpan 7 1)))) = true := by decide +kernel
/-- A barrier in memory at 0x30040: an arrival waits for the span's stores and takes a marker (R265). -/
def mbSpan : Span := { ySpan with am := 3, regs := [] } |> fun sp => sWrite sp 5 0x30040
def mbState : State :=
  let s := putSpan (writeBar yState (.mem 0x30040) barImage) 1 mbSpan
  { s with cores := mapPut s.cores 0 { coreOf s 0 with stlb := [{ probeTlb with bar := true }] } }
theorem wit_globalBarrier : ActingIn mbState mbSpan pL ∧ ScalarsReady mbSpan [5] ∧ findBar mbState mbSpan pL (sRead mbSpan 5) 1 true = .loc (.mem 0x30040) ∧
    (storeInFlight (barAt mbState mbSpan (.mem 0x30040)) 0 (0x30040 / 128) = false) ∧ markers mbState 0 < 64 ∧
    unread (barAt mbState mbSpan (.mem 0x30040)) 1 (fun y => y == 0x30040 / 128) = [] ∧
    atomicsOn (barAt mbState mbSpan (.mem 0x30040)) 1 (0x30040 / 128) = false ∧
    (readBar (barAt mbState mbSpan (.mem 0x30040)) (.mem 0x30040)).valid = true ∧
    (markers mbState 0 + 1 ≤ 64 ∧ allPerformed mbState mbSpan 1 = true) ∧
    nextHas (exec (.bararr 5) mbState) (fun t => decide (readBar t (.mem 0x30040) = { barImage with arrivals := 2 } ∧
      (spanOf t 1).map Span.spc = some 0x10004)) = true := by
  unfold ActingIn Acting ScalarsReady; decide +kernel
theorem wit_arriveGlobal : ArriveDone mbState mbSpan (barScope (.mem 0x30040)) (arrivalMarks (.mem 0x30040)) := by
  have hp : mbSpan.pend = .none := by decide +kernel
  have h : markers mbState mbSpan.core + 1 ≤ 64 ∧ allPerformed mbState mbSpan mbState.cur.uid = true := by decide +kernel
  simp only [ArriveDone, hp, arrivalMarks, Nat.one_ne_zero, if_false]
  exact h
def dbState : State := putSpan (writeBar (detState ySpan) bLoc barImage) 1 (bSpan 3 [])
theorem wit_barrierBuffered : ActingIn dbState (bSpan 3 []) detL ∧ ScalarsReady (bSpan 3 []) [5, 6, 7] ∧
    (∀ k ∈ [0, 1, 2], findBar dbState (bSpan 3 []) detL (sRead ySpan 5) k true = .loc bLoc) ∧
    nextIs (exec (.barinit 7 5 6) dbState) (putSpan dbState 1 (advance { bSpan 3 [] with
      buffer := [(0x10000, .barrier 0 0x01FFFFFFFFF80040 4 256 3)] })) = true ∧
    nextIs (exec (.bararr 5) dbState) (putSpan dbState 1 (advance { bSpan 3 [] with
      buffer := [(0x10000, .barrier 2 0x01FFFFFFFFF80040 0 0 3)] })) = true := by
  unfold ActingIn Acting ScalarsReady; decide +kernel
/-- R191 by hand: the last of four arrivals, and one too many. -/
theorem test_completion : barArrive { barImage with base := 0, expbytes := 0, arrivals := 3, drops := 1 } 1 =
      { barImage with base := 0, expbytes := 0, exparr := 3, phase := 1 } ∧
    barArrive { barImage with arrivals := 3 } 2 = { barImage with olast := true, phase := 1 } ∧
    barLand barImage 256 true = { barImage with landed := 256, pcur := true } := by decide +kernel
theorem wit_landing : (readBar yState bLoc).valid = false ∧ (readBar wState bLoc).valid = true ∧
    landOn yState (some bLoc) 5 1 true [] = yState ∧
    readBar (landOn wState (some bLoc) 256 0 true []) bLoc = { barImage with phase := 5, landed := 256, pcur := true } := by decide +kernel
theorem wit_fenceAndBind : ActingIn yState ySpan pL ∧ yState.loads = [] ∧ allPerformed yState ySpan 1 = true ∧ atomicsOf yState 1 = [] ∧
    spanColls yState ySpan = false ∧ StoresDone yState ySpan 1 ∧ StoresDone yState ySpan 5 ∧ ScalarsReady ySpan [8, 9, 10, 0] ∧ checkObj yState ySpan pL 0x30010 = (yState, .ok (.phys 0x30010)) ∧
    ySpan.binds.length < 8 := by unfold ActingIn Acting ScalarsReady StoresDone; decide +kernel
theorem test_fenceAndBind :
    (∀ sc ∈ [1, 2, 3, 4, 5], nextIs (exec (.fence sc) yState) (putSpan (orderFence (acquireDrop yState 0 (decide (2 ≤ sc.toNat))) 1 0 sc.toNat) 1
      (advance { acquired yState ySpan (decide (2 ≤ sc.toNat)) with acqAt := ySpan.acqAt })) = true) ∧
    nextIs (exec (.rbind 10 8 9) yState) (putSpan yState 1 (advance { ySpan with binds := [⟨0x50080, 0x100, 0x30010⟩] })) = true ∧
    (let sp := { ySpan with binds := [⟨0x50080, 0x100, 0x30010⟩, ⟨0, 128, 0x20⟩] }
     nextIs (exec (.rbind 0 8 9) (putSpan yState 1 sp)) (putSpan yState 1 (advance { sp with binds := [⟨0, 128, 0x20⟩] })) = true) := by
  decide +kernel
theorem wit_fenceDet : ActingIn (detState ySpan) ySpan detL ∧
    nextIs (exec (.fence 4) (detState ySpan)) (putSpan (detState ySpan) 1 (advance ySpan)) = true := by
  unfold ActingIn Acting; decide +kernel
theorem wit_acquire : ScalarsReady ySpan [8, 3] ∧
    mayAsk (flushLines yState 0 1 .unc [(0x600, 0x30000)]) ySpan .unc [(0x600, 0x30000)] = true ∧
    loadAhead (flushLines yState 0 1 .unc [(0x600, 0x30000)]) ySpan .unc 8 [⟨0, 0x30010, none⟩] = false ∧
    checkObj (detState ySpan) ySpan detL 0x30010 = (detState ySpan, .ok (.phys 0x30010)) ∧
    nextHas (exec (.acq 3 8 4) yState) (fun t => match spanOf t 1 with
      | some sp => decide (sp.acquiring = some ⟨yState.nextId, 4, true, [], some 0x30010⟩ ∧ sp.spc = ySpan.spc + 4) && !sFull sp 3
      | none => false) = true ∧
    nextHas (exec (.acq 3 8 4) (detState ySpan)) (fun t => match spanOf t 1 with
      | some sp => decide (sp.acquiring = none ∧ sp.spc = ySpan.spc + 4) && !sFull sp 3
      | none => false) = true := by unfold ScalarsReady; decide +kernel
def relState : State := { putSpan yState 1 atSpan with reqs := [(41, { atReq with kind := .rel })] }
theorem wit_release : ActingIn relState atSpan pL ∧ atSpan.pend = .atomic [41] ∧ (reqOf relState 41).stage = .answered ∧ (reqOf relState 41).bad = false ∧
    nextHas (exec (.rel 8 4) relState) (fun t => decide ((reqOf t 41).stage = .quad ∧ (reqOf t 41).scope = 4 ∧
      spanOf t 1 = some (advance ySpan))) = true ∧
    checkObj (detState ySpan) ySpan detL 0x30010 = (detState ySpan, .ok (.phys 0x30010)) ∧
    nextIs (exec (.rel 8 4) (detState ySpan)) (putSpan (detState ySpan) 1 (advance { ySpan with
      buffer := [(0x10000, .rel 0x30010 4 [])] })) = true := by unfold ActingIn Acting; decide +kernel
/-- A release atomic at its home takes what the span published with it (R265). -/
theorem test_releaseAtomic : ordRel 10 = true ∧ nextHas (exec (.atomB32Add 3 1 2 10) atState) (fun t => decide (
    (reqOf t 41).stage = .quad ∧ (reqOf t 41).scope = ordScope 10 ∧ (reqOf t 41).loads = [atState.nextId])) = true := by decide +kernel
/-- Atomics of a deterministic launch on its own bytes: one entry each, the value in the span's own view worked by hand (R299). -/
def dySpan : Span := tSpan [(1, 0x30000), (2, 0x7FC00001), (3, 0x80000000)]
def dyL : Launch := { detL with snapshot := [(0x30000, 0xFE), (0x30001, 0xFF), (0x30002, 0xFF), (0x30003, 0xFF)] }
def dyState : State := { detState dySpan with launches := mapPut (tState dySpan).launches 2 dyL }
theorem wit_atomicBuffered : ActingIn dyState dySpan dyL ∧ ScalarsReady dySpan [1, 2, 3] ∧
    checkAcc dyState dySpan dyL .atomic 4 0x30000 = (dyState, .ok (.phys 0x30000)) ∧
    readsBad dyState dySpan dyL 4 [((0, 0x30000), .phys 0x30000)] = false ∧
    atomOwned dyState dySpan dyL 0 true 0x30000 32 = true ∧
    nextHas (exec (.atomB32Add 3 1 2 4) dyState) (fun t => decide ((spanOf t 1).map Span.buffer =
      some [(0x10000, .atomic 32 0 4 (some dyState.nextId) [⟨0, 0x30000, 0x7FC00001, 0x80000000, 0x7FBFFFFF⟩])])) = true := by
  unfold ActingIn Acting ScalarsReady; decide +kernel

/-! ### System registers, traps, debugging, histograms -/

def zSpan : Span := tSpan [(1, 1), (2, 0x41), (3, 0x85), (60, 7), (61, 8), (62, 9)]
def zState : State := tState zSpan
theorem wit_sysrd : ActingIn zState zSpan pL ∧ deckOf zState zSpan.deck = some tDeck ∧ ScalarsReady zSpan [4, 1, 3, 2] ∧
    sysReg zState zSpan pL 0x041 = some 0 ∧ sysReg zState zSpan pL 0x3FFF = none := by unfold ActingIn Acting ScalarsReady; decide +kernel
theorem test_sysrd : ((systemRegisters zState zSpan pL tDeck).all (fun r =>
      nextIs (exec (.sysrd 4 r.1) zState) (putSpan zState 1 (advance (sWrite zSpan 4 r.2))))) = true := by decide +kernel
theorem test_sysrdNone : sameNext (exec (.sysrd 4 0x3FFF) zState) (takeTrap zState zSpan pL ⟨causeIllegal, false, zSpan.am, 0⟩) = true := by
  decide +kernel
/-- The same in a deterministic launch with format slots: CYCLE reads LTIME, WHERE 0, QNUM the deck's quanta. -/
def zDetL : Launch := { detL with fslots := (List.range 8).map (fun k => BitVec.ofNat 128 ((2 * k + 1) * 2 ^ 64 + 2 * k + 7)) }
def zDetState : State := { detState { zSpan with ltime := 77 } with cycle := 5, launches := mapPut zState.launches 2 zDetL }
theorem wit_sysrdDet : ActingIn zDetState { zSpan with ltime := 77 } zDetL := by unfold ActingIn Acting; decide +kernel
theorem test_sysrdDet : ([((0x010 : BitVec 14), (77 : Word64)), (0x011, 77), (0x012, 0), (0x030, 0), (0x031, 1), (0x040, 7), (0x041, 1), (0x04E, 21),
      (0x04F, 15)].all (fun r => (systemRegisters zDetState { zSpan with ltime := 77 } zDetL tDeck).contains r &&
      nextHas (exec (.sysrd 4 r.1) zDetState) (fun t => (spanOf t 1).any (fun sp => sRead sp 4 == r.2)))) = true := by decide +kernel
/-- R198 by hand: the frame of depth 0 of span 0 is at 0x40000; s60 holds its address, s61 the cause, s62 the fault address. -/
theorem wit_trapEntry : TrapReady zState zSpan pL causeBreak (.inr 0x40000) ∧ TrapReady zState zSpan pL causeIllegal (.inr 0x40000) ∧
    nextHas (takeTrap zState zSpan pL ⟨causeIllegal, false, 1, 0x77⟩) (fun t => match spanOf t 1 with
      | some sp => decide (sRead sp 60 = 0x40000 ∧ sRead sp 61 = 1 ∧ sRead sp 62 = 0x77 ∧ sp.spc = 0x10000 ∧ sp.traps.length = 1 ∧ sp.am = sp.live ∧
          coreRead t 0 0x40008 8 = 0x10000 ∧ coreRead t 0 0x40048 8 = 7 ∧ coreRead t 0 0x40050 8 = 8 ∧ coreRead t 0 0x40058 8 = 9)
      | none => false) = true ∧
    nextIs (exec (.brk 3) zState) (trapTaken zState zSpan pL ⟨causeBreak, false, zSpan.am, 0⟩ (.inr 0x40000)) = true ∧
    nextIs (exec .illegalEncoding zState) (trapTaken zState zSpan pL ⟨causeIllegal, false, zSpan.am, 0⟩ (.inr 0x40000)) = true := by
  unfold TrapReady ActingIn Acting OwnWritable OwnAt; decide +kernel
/-- A trap in a handler: the frame of depth 1 stands 0x80 bytes above (R198). -/
def h1Span : Span := { zSpan with traps := [⟨false, false, 0x5000, 0, 0, []⟩], step := .armed }
theorem test_nestedTrap : TrapReady (tState h1Span) h1Span pL causeBreak (.inr 0x40080) ∧
    nextHas (exec (.brk 0) (tState h1Span)) (fun t => match spanOf t 1 with
      | some sp => decide (sRead sp 60 = 0x40080 ∧ sp.traps.length = 2 ∧ sp.step = .armed)
      | none => false) = true := by
  unfold TrapReady ActingIn Acting OwnWritable OwnAt; decide +kernel
def noHandler : Launch := { pL with trapEntry := 0 }
def noHandlerState : State := { zState with launches := mapPut zState.launches 2 noHandler }
def deepSpan : Span := { zSpan with traps := [⟨false, false, 0x5000, 0, 0, []⟩, ⟨false, false, 0x6000, 0, 0, []⟩] }
theorem wit_noHandler : ActingIn noHandlerState zSpan noHandler ∧ entryFor noHandler causeIllegal = 0 ∧ ActingIn (tState deepSpan) deepSpan pL ∧
    2 ≤ deepSpan.hdepth ∧
    nextHas (takeTrap noHandlerState zSpan noHandler ⟨causeIllegal, false, 1, 0⟩) (fun t => (spanOf t 1).isNone && !t.box.isEmpty) = true ∧
    nextHas (takeTrap (tState deepSpan) deepSpan pL ⟨causeIllegal, false, 1, 0⟩) (fun t => (spanOf t 1).isNone && !t.box.isEmpty) = true := by
  unfold ActingIn Acting; decide +kernel
def emuLaunch : Launch := { pL with emuEntry := 0x90000 }
def emuState : State := { zState with launches := mapPut zState.launches 2 emuLaunch }
theorem wit_emulation : TrapReady emuState zSpan emuLaunch causeExt (.inr 0x40000) ∧
    nextHas (exec .extensionEncoding emuState) (fun t => match spanOf t 1 with
      | some sp => decide (sp.spc = 0x90000 ∧ sp.traps.length = 1 ∧ sp.am = sp.live ∧ sRead sp 61 = 2)
      | none => false) = true := by unfold TrapReady ActingIn Acting OwnWritable OwnAt; decide +kernel
/-- A handler at depth one, whose frame's information word, saved pc and target are given. -/
def hSpan (sv : Saved) : Span := { zSpan with traps := [sv] }
def hState (sv : Saved) (info desc target : Nat) : State :=
  let t := homeWrite (tState (hSpan sv)) 0x40000 (natToBytes 8 info)
  let t := homeWrite t 0x40010 (natToBytes 8 (0x3 * 2 ^ 32 + 0xF))
  let t := homeWrite t 0x40030 (natToBytes 8 5 ++ natToBytes 8 desc)
  homeWrite (homeWrite t 0x40040 (natToBytes 8 target)) 0x40048 (natToBytes 8 0x60 ++ natToBytes 8 0x61 ++ natToBytes 8 0x62)
def svS : Saved := ⟨false, false, 0x5000, 0, 0, []⟩
theorem wit_tret : ActingIn (hState svS 0x12 0 0x7000) (hSpan svS) pL ∧ zSpan.traps = [] ∧
    OwnReadable (hState svS 0x12 0 0x7000) (hSpan svS) pL (frameAt pL (hSpan svS) 0) 128 (.inr 0x40000) ∧ (hSpan svS).acquiring = none ∧ ScalarsReady (hSpan svS) [60, 61, 62] ∧
    viewRead (hState svS 0x12 0 0x7000) (hSpan svS) pL 0x40000 0x40000 8 = 0x12 := by
  unfold ActingIn Acting OwnReadable OwnAt ScalarsReady; decide +kernel
theorem test_tret : sameNext (exec .tret zState) (takeTrap zState zSpan pL ⟨causeIllegal, false, zSpan.am, 0⟩) = true ∧
    (∀ p ∈ [(0, 0x5000), (1, 0x5004), (2, 0x5004), (3, 0x7000)], nextHas (exec .tret (hState svS (0x12 + p.1 * 2 ^ 32) 0 0x7000)) (fun t =>
      match spanOf t 1 with
      | some sp => decide (sRead sp 60 = 0x60 ∧ sRead sp 61 = 0x61 ∧ sRead sp 62 = 0x62 ∧ sRead sp 1 = 1 ∧ sp.traps = [] ∧ sp.queue = [] ∧
          sp.am = (0x3 &&& sp.live) ∧ sp.spc.toNat = p.2)
      | none => false) = true) := by decide +kernel
/-- A trap in a pass: position 2 of a block of four L-words, its second plane of two. By R200 action 0 resumes at that pass, action 1
at the next position, where the plane was the last one, and action 2 at the next position; a frame whose length falls to three ends
the block. -/
def svP : Saved := ⟨true, true, 0x5000, 2, 1, [20]⟩
theorem test_tretPass : ∀ p ∈ [(0, 3, 2, 1, [20]), (1, 3, 3, 0, []), (2, 3, 3, 0, [])],
    nextHas (exec .tret (hState svP (p.1 * 2 ^ 32 + p.2.1 * 2 ^ 20 + 0x10A) (1 <<< 18) 0)) (fun t => match spanOf t 1 with
      | some sp => decide (sp.spc = 0x5004 ∧ sp.queue.map (fun b => (b.pos, b.plane, b.n, b.point, b.off)) = [(p.2.2.1, p.2.2.2.1, 4, 0x5000, 5)] ∧
          sp.queue.map (fun b => b.merged) = [p.2.2.2.2])
      | none => false) = true := by decide +kernel
theorem test_tretEnds : nextHas (exec .tret (hState svP (2 ^ 32 + 2 * 2 ^ 20 + 0x10A) (1 <<< 18) 0)) (fun t => match spanOf t 1 with
      | some sp => decide (sp.spc = 0x5004 ∧ sp.queue = [])
      | none => false) = true := by decide +kernel
def debugLaunch : Launch := { pL with debug := true, undoBase := 0x60000 }
def debugState : State := { zState with launches := mapPut zState.launches 2 debugLaunch }
theorem wit_system : (sRead zSpan 1).toNat < 2 ∧ pL.debug = false ∧ debugLaunch.debug = true ∧ ActingIn debugState zSpan debugLaunch ∧
    countingAcst zState 1 = false := by unfold ActingIn Acting; decide +kernel
def histState : State := putHist zState 0 5 ⟨[(1, 99)], 0⟩
def stepSpan : Span := { zSpan with step := .running }
/-- The trap that a stepped unit owes stays due when the unit is itself a `step` (R202). -/
theorem test_stepOwed : nextIs (exec (.step 1) (tState stepSpan)) (putSpan (tState stepSpan) 1 { advance stepSpan with step := .due }) = true := by
  decide +kernel
/-- In a deterministic launch `hrd` waits for the quantum's end, `hclr` is an entry of the commit buffer (R299). -/
theorem wit_histDet : ActingIn (detState zSpan) zSpan detL ∧
    nextHas (exec (.hrd 4 2 5) (detState zSpan)) (fun t => decide (
      (mapFind t.loads (detState zSpan).nextId).map (fun ld => (ld.dest, ld.lanes, ld.late, ld.hist)) = some (.s 4, [⟨0, 0, none⟩], true, some (5, 1)) ∧
      spanOf t 1 = some (advance (sMarkEmpty zSpan 4)))) = true ∧
    nextIs (exec (.hclr 3 5) (detState zSpan)) (putSpan (detState zSpan) 1 (advance { zSpan with
      buffer := [(0x10000, .hclr 5 0x85 [])] })) = true := by unfold ActingIn Acting; decide +kernel
theorem test_system : nextIs (exec .nop zState) (putSpan zState 1 (advance zSpan)) = true ∧
    nextIs (exec (.step 1) zState) (putSpan zState 1 { advance zSpan with step := .armed }) = true ∧
    nextIs (exec (.undomark 1) zState) (putSpan zState 1 (advance zSpan)) = true ∧
    nextHas (exec (.undomark 1) debugState) (fun t => decide ((spanOf t 1).map (fun sp => (sp.undo, sp.spc)) = some (1, 0x10004))) = true ∧
    nextHas (exec (.hrd 4 2 5) histState) (fun t => decide (
      (mapFind t.loads histState.nextId).map (fun ld => (ld.dest, ld.lanes)) = some (.s 4, [⟨0, 0, some 99⟩]) ∧
      spanOf t 1 = some (advance (sMarkEmpty zSpan 4)))) = true ∧
    nextIs (exec (.hclr 3 5) histState) (putSpan (putHist histState 0 5 ⟨[], -123⟩) 1 (advance zSpan)) = true := by decide +kernel
/-- `bkmode` of bank 1 (FIFO) to scratch at the barrier at 0x01FFFFFFFFF80040. -/
def kmSpan : Span := { ySpan with s := mapPut ySpan.s 11 (0x01FFFFFFFFF80040 * 2 ^ 7 + 1 * 32 + 1) }
def kmState : State := putSpan (writeBar yState bLoc barImage) 1 kmSpan
theorem wit_bkmode : ActingIn kmState kmSpan pL ∧ ScalarsReady kmSpan [11] ∧ deckOf kmState kmSpan.deck = some tDeck ∧
    physBank tDeck ((sRead kmSpan 11).extractLsb' 0 5).toNat = some 1 ∧ (sRead kmSpan 11).extractLsb' 7 5 = 0 ∧
    ((sRead kmSpan 11).extractLsb' 5 2).toNat = 1 ∧
    findBar kmState kmSpan pL (((sRead kmSpan 11).extractLsb' 12 52).zeroExtend 64 <<< 5) 1 true = .loc bLoc ∧
    (readBar kmState bLoc).valid = true ∧
    nextHas (exec (.bkmode 11) kmState) (fun t => decide (spanOf t 1 = some (advance kmSpan) ∧
      (bankOf (coreOf t 0) 1).mode = .scratch)) = true := by unfold ActingIn Acting ScalarsReady; decide +kernel
theorem wit_bkmodeDet : (let s := putSpan (writeBar (detState ySpan) bLoc barImage) 1 kmSpan
    ActingIn s kmSpan detL ∧ findBar s kmSpan detL 0x01FFFFFFFFF80040 1 true = .loc bLoc ∧
    nextIs (exec (.bkmode 11) s) (putSpan s 1 (advance { kmSpan with
      buffer := [(0x10000, .bkmode (0x01FFFFFFFFF80040 * 2 ^ 7 + 1 * 32 + 1) [])] })) = true) := by unfold ActingIn Acting; decide +kernel

/-! ### Engine commands, slots, collectives, rings, reductions -/

/-- Registers: 1 a source, 2 a slot operand (slot 3, part 0), 3 a destination, 4 to 7 a group for 256 bytes, 8 to 11 one with 5 readers,
12 and 13 the operands of `acst`, 14 a handle word, 15 a record. -/
def eSpan : Span := tSpan [(1, 0x30000), (2, 3), (3, 0x50080), (5, 256), (9, 0x0500000000000100), (12, 0), (13, 0x0001000000000000),
  (14, 0x5000100), (15, 0x70000)]
def eLaunch : Launch := { pL with fslots := [0x99030000000000000000000000000000 / 2 ^ 64, 0xA9000000000000000000000000000000 / 2 ^ 64] }
def eBase : State :=
  let t := { tState eSpan with launches := [(2, eLaunch)] }
  let slot : Slot := { Slot.init with st := .claimed, count := 5, owner := 3 }
  putCtx t 0 false (putSlot (putSlot (ctxOf t 0 false) 3 slot) 4 slot)
theorem wit_engineBase : ActingIn eBase eSpan eLaunch ∧ eSpan.am = eSpan.live ∧
    ScalarsReady eSpan [1, 2, 3, 4, 5, 6, 7, 8, 9, 10, 11, 12, 13, 14, 15, 63] ∧ eLaunch.det = false ∧ eLaunch.debug = false := by
  unfold ActingIn Acting ScalarsReady; decide +kernel
def plainCopy : Cmd := copyCmd 0 false 0x30000 0x50080 256 0 0
def slotCopy : Cmd := copyCmd 0 true 0x30000 3 256 0 0
def countedCopy : Cmd := copyCmd 0 false 0x30000 0x50080 0x0500000000000100 0 0
theorem wit_copies :
    (∀ x ∈ [(slotCopy, true, false, (2 : Nat)), (plainCopy, false, false, 3)],
      copyIllegal 0 x.2.1 x.2.2.1 (sRead eSpan x.2.2.2) 0 256 0 0 x.1 = false) ∧
    copyIllegal 0 false true 0x50080 0 0x0500000000000100 0 0 countedCopy = false ∧ plainCopy.len0 = 256 ∧ countedCopy.readers = 5 ∧
    (∀ e ∈ [plainCopy, countedCopy], rowsFree eBase eSpan eLaunch (copyRows (srcAddr e) e) ∧ rowsFree eBase eSpan eLaunch (copyRows (dstAddr e) e) ∧
      engineReady eBase eSpan eLaunch 0 false none [] e) ∧
    rowsFree eBase eSpan eLaunch (copyRows (srcAddr slotCopy) slotCopy) ∧ engineReady eBase eSpan eLaunch 1 false none [] slotCopy ∧
    (0x50080 % 128 = 0 ∧ countedCopy.len0 % 128 = 0 ∧ countedCopy.dstRow % 128 = 0 ∧ countedCopy.dstPlane % 128 = 0 ∧
      ∀ x ∈ copyRows (dstAddr countedCopy) countedCopy, inLocal x.1 = false) := by
  unfold rowsFree engineReady; decide +kernel
theorem test_copies :
    nextIs (exec (.copy 0 1 3 4 0) eBase) (engineCommitted eBase eSpan eLaunch 0 none plainCopy) = true ∧
    nextIs (exec (.copySlot 0 1 2 4 1) eBase) (engineCommitted eBase eSpan eLaunch 1 none slotCopy) = true ∧
    nextIs (exec (.copyReaders 0 1 3 8 3) eBase) (engineCommitted eBase eSpan eLaunch 3 none countedCopy) = true ∧
    nextHas (exec (.copy 0 1 3 4 0) eBase) (fun t => decide ((queueOf (ctxOf t 0 false) 0).map (fun e => (e.src, e.dst, e.len0, e.uid)) =
      [(0x30000, 0x50080, 256, 1)])) = true := by decide +kernel
def mmaTest : Cmd := { Cmd.init with kind := .mma, acc := 2, fslot := fslotOf eLaunch 0, zero := true, slotA := 3, slotB := 4, colA := false, colB := true }
theorem wit_mma : mmaFormats (fslotOf eLaunch 0) = true ∧ engineReady eBase eSpan eLaunch 4 true none [] mmaTest ∧
    engineReady eBase eSpan eLaunch 2 true none [] mmaTest := by unfold engineReady; decide +kernel
/-- R182: each slot has one counted read less. -/
theorem test_mma :
    nextIs (exec (.mma 2 0 63 1 0 3 1 4) eBase) (engineCommitted eBase eSpan eLaunch 4 none mmaTest) = true ∧
    nextIs (exec (.mmaVia 2 0 63 1 0 3 1 4 2) eBase) (engineCommitted eBase eSpan eLaunch 2 none mmaTest) = true ∧
    nextHas (exec (.mma 2 0 63 1 0 3 1 4) eBase) (fun t => decide ((slotOf (ctxOf t 0 false) 3).count = 4 ∧ (slotOf (ctxOf t 0 false) 4).count = 4 ∧
      (queueOf (ctxOf t 0 false) 4).map Cmd.kind = [.mma])) = true := by decide +kernel
def acstTest : Cmd := { Cmd.init with kind := .acst, acc := 1, fslot := fslotOf eLaunch 1, dst := 0x30000, pitch := 256 }
theorem wit_acst : fsA (fslotOf eLaunch 1) = 10 ∧ fsB (fslotOf eLaunch 1) = 9 ∧ fsScale (fslotOf eLaunch 1) = 0 ∧
    fieldOf (sRead eSpan 13) 40 24 = 256 ∧ rowsFree eBase eSpan eLaunch [(0x30000, 256 * 127 + 128 * 2)] ∧
    engineReady eBase eSpan eLaunch 4 false none [] acstTest := by unfold rowsFree engineReady; decide +kernel
theorem test_acst : nextIs (exec (.acst 1 1 1 12 63) eBase) (engineCommitted eBase eSpan eLaunch 4 none acstTest) = true := by decide +kernel
def partSpan : Span := { eSpan with am := 1 }
theorem wit_partialMask : partSpan.am ≠ partSpan.live ∧ ActingIn (tState partSpan) partSpan pL := by unfold ActingIn Acting; decide +kernel
theorem test_partialMask : ∀ i ∈ [Instr.mma 2 0 1 1 0 3 1 4, .tclaim 3 1, .trel 3, .qfence 7, .collAr 1 3 2],
    sameNext (exec i (tState partSpan)) (takeTrap (tState partSpan) partSpan pL ⟨causePartial, false, 1, 0⟩) = true := by decide +kernel
theorem wit_slots : (slotOf (ctxOf eBase 0 false) 7).st = .unclaimed ∧ (slotOf (ctxOf eBase 0 false) 3).st = .claimed ∧
    slotInUse (ctxOf eBase 0 false) 3 = false ∧ fenceFits eBase 0 false 0x3F = true := by decide +kernel
theorem test_slots :
    nextIs (exec (.tclaim 7 200) eBase) (slotCommitted (putCtx eBase 0 false (putSlot (ctxOf eBase 0 false) 7
      { slotOf (ctxOf eBase 0 false) 7 with st := .claimed, count := 200, owner := 3, number := 1 })) eSpan eLaunch) = true ∧
    sameNext (exec (.tclaim 3 1) eBase) (takeTrap eBase eSpan eLaunch ⟨causeSlot, false, eSpan.am, 0⟩) = true ∧
    nextHas (exec (.trel 3) eBase) (fun t => decide (slotOf (ctxOf t 0 false) 3 = { slotOf (ctxOf eBase 0 false) 3 with st := .unclaimed, count := 0 } ∧
      spanOf t 1 = some (advance eSpan) ∧ t.mem = eBase.mem) && !t.box.isEmpty) = true ∧
    nextIs (exec (.qfence 0x3F) eBase) (putSpan (placeMarkers eBase eSpan 0x3F) 1 (advance eSpan)) = true := by decide +kernel
/-- Engine commands of a deterministic launch are entries of its span's commit buffer (R299); the copy's destination must be the
deck's own (R301). -/
def deL : Launch := { detL with fslots := eLaunch.fslots }
def deSpan : Span := { eSpan with s := mapPut eSpan.s 3 0x30080 }
def deBase : State := putSpan { eBase with launches := [(2, deL)] } 1 deSpan
def detCopy : Cmd := copyCmd 0 false 0x30000 0x30080 256 0 0
theorem wit_engineDet : ActingIn deBase deSpan deL ∧
    rowsFree deBase deSpan deL (copyRows (srcAddr detCopy) detCopy) ∧ rowsFree deBase deSpan deL (copyRows (dstAddr detCopy) detCopy) ∧
    engineReady deBase deSpan deL 0 false none ((copyRows (dstAddr detCopy) detCopy).filter (fun x => !inLocal x.1)) detCopy ∧
    engineReady deBase deSpan deL 4 true none [] mmaTest := by
  unfold ActingIn Acting rowsFree engineReady; decide +kernel
theorem test_engineDet :
    nextIs (exec (.copy 0 1 3 4 0) deBase) (engineCommitted deBase deSpan deL 0 none detCopy) = true ∧
    nextHas (exec (.mma 2 0 63 1 0 3 1 4) deBase) (fun t => decide ((spanOf t 1).map (fun sp => sp.buffer.map (fun x =>
      match x.2 with
      | .engine q c => some (q, c.kind, c.view.isSome)
      | _ => none)) = some [some (4, .mma, false)])) = true ∧
    nextIs (exec (.tclaim 7 200) deBase) (putSpan deBase 1 (advance { deSpan with buffer := [(0x10000, .claim 7 200)] })) = true ∧
    nextIs (exec (.qfence 0x3F) deBase) (putSpan deBase 1 (advance { deSpan with buffer := [(0x10000, .qfence 0x3F)] })) = true ∧
    nextIs (exec (.collBc 14 3 63) deBase) (putSpan deBase 1 (advance { deSpan with buffer := [(0x10000, .coll
      { Cmd.init with kind := .coll, uid := 1, deck := 3, slotA := 3, op := 3, word := 0x5000100, launch := 2 } 0x5000100)] })) = true := by
  decide +kernel
def collTest (op : Nat) : Cmd := { Cmd.init with kind := .coll, uid := 1, deck := 3, slotA := 3, op := op, word := 0x5000100, launch := 2 }
theorem wit_coll : barFinds eBase eSpan eLaunch false none = .ok [] ∧ queueFull eBase 0 false 5 = false ∧ tDeck.colls = [] ∧ eSpan.colls = 0 ∧
    (∀ op ∈ [0, 1, 2, 3], cmdBad (ctxOf eBase 0 false) (collTest op) = none) := by decide +kernel
theorem test_coll : ∀ p ∈ [(Instr.collRs 14 3 63, 0), (Instr.collAg 14 3 63, 1), (.collAr 14 3 63, 2), (.collBc 14 3 63, 3)],
    nextHas (exec p.1 eBase) (fun t => decide ((spanOf t 1).map (fun sp => (sp.colls, sp.spc)) = some (1, 0x10004) ∧
      (queueOf (ctxOf t 0 false) 5).map (fun c => (c.op, c.word, c.slotA)) = [(p.2, 0x5000100, 3)])) = true := by decide +kernel
/-- A record whose reserved bits are set: its push answers a reason. -/
def cpState : State := homeWrite eBase 0x70000 (natToBytes 8 (2 ^ 64 - 1) ++ natToBytes 8 (2 ^ 64 - 1))
def pushOf (s : State) : Pushed := pushRecord (fun t va => xlate t eSpan eLaunch va 0) s eLaunch
  ((List.range 4).map (fun i => homeRead s (0x70000 + 8 * i) 8)) 0x70000 3 1
theorem wit_cpush : eSpan.lost = [] ∧ allPerformed cpState eSpan 1 = true ∧ xlate cpState eSpan eLaunch 0x70000 0 = .ok 0x70000 false ∧
    (match pushOf cpState with
     | .done s' x => nextIs (exec (.cpush 6 15 3) cpState) (putSpan s' s'.cur.uid
        (advance (sWrite { eSpan with xfail := [] } 6 (BitVec.ofNat 64 x))))
     | _ => false) = true := by decide +kernel
def rsState : State := { eBase with cores := mapPut eBase.cores 0 { coreOf eBase 0 with stlb := [{ probeTlb with bar := true }] } }
def rsSpan : Span := { eSpan with s := mapPut eSpan.s 14 0x50001 }
def rsActing : State := putSpan rsState 1 rsSpan
theorem wit_rsend : allPerformed rsActing rsSpan 1 = true ∧ fieldOf (sRead rsSpan 14) 57 7 = 0 ∧ vFull rsSpan 9 = true ∧ rsSpan.badV = [] ∧
    fieldOf (sRead rsSpan 14) 8 49 * 256 = 0x50000 ∧ xlate rsActing rsSpan eLaunch 0x50000 0 = .ok 0x50000 true ∧ isHbm 0x50000 = true ∧
    nextIs (exec (.rsend 14 9) rsActing) (putSpan (meshSend rsActing 0 0x50000 eLaunch.root eLaunch.key 1 (meshVals rsSpan 9)) 1
      (advance rsSpan)) = true := by decide +kernel
/-- The pushes of a deterministic launch wait for a quantum's end: `cpush` with its record's words as the span sees them. -/
def ringDetState : State := putSpan { rsState with launches := [(2, deL)] } 1 rsSpan
theorem wit_pushDet : ActingIn ringDetState rsSpan deL ∧
    nextHas (exec (.cpush 6 15 3) ringDetState) (fun t => decide ((spanOf t 1).map (fun sp => (sp.buffer, sp.spc)) =
      some ([(0x10000, .cpush 0x70000 [0, 0, 0, 0] 3 ringDetState.nextId)], 0x10004)) && (spanOf t 1).any (fun sp => !sFull sp 6)) = true ∧
    nextIs (exec (.rsend 14 9) ringDetState) (putSpan ringDetState 1 (advance { rsSpan with
      buffer := [(0x10000, .rsend 0x50001 (meshVals rsSpan 9))] })) = true := by unfold ActingIn Acting; decide +kernel

/-! ### Lane arithmetic -/

/-- A pass of lanes 0 and 2 of an unplaned block of one L-word; v4:v5, v8:v9, v12:v13 hold operands. -/
def gSpan : Span := { tSpan [(1, 0x30000), (9, 3)] with
  queue := [probeBlock]
  v := [(128, 0x80000001#32), (130, 0x3F80FFFE#32), (160, 0x12345678#32), (256, 0xFFFF8002#32), (258, 0x40490FDB#32), (384, 0x0F0F0F0F#32), (386, 0x00000005#32)] }
def gLaunch : Launch := { pL with fslots := [] }
def gBase : State := { tState gSpan with cur := { uid := 1, mask := 5, lane := true } }
def gF (ty : BitVec 4) : LFields := ⟨16, 4, 8, 12, 0, 0, 0, 0, 0, ty, 20, 0, 0⟩
/-- The same with an immediate b, a scalar c and another destination, a source of the pass. -/
def gI (ty : BitVec 4) : LFields := ⟨4, 4, 8, 9, 2, 1, 0, 0, 2, ty, 20, 0, 0x00000021⟩
theorem wit_lanePass : ∀ ty ∈ [(0 : BitVec 4), 1, 2, 3, 4, 5, 6, 7, 8, 9, 10, 11], ∀ x ∈ [gF ty, gI ty],
    ActingIn gBase gSpan pL ∧ (∀ r ∈ dstV x ++ (srcA x ++ srcB x ++ srcC x).flatMap sourceRegs, r < pL.vregs) ∧
    (∀ y ∈ srcA x ++ srcB x ++ srcC x, sourceFull gSpan y = true) ∧ (∀ r ∈ dstV x, vFull gSpan r = true) ∧
    gSpan.badV = [] ∧ gSpan.badS = 0 := by unfold ActingIn Acting; decide +kernel
theorem wit_passReady : PassReady gBase gSpan pL (srcA (gF 2) ++ srcB (gF 2) ++ srcC (gF 2)) (dstV (gF 2)) (some 20) := by
  unfold PassReady ActingIn Acting; decide +kernel
/-- Integer results worked by hand: i32, i16 pairs, i8. -/
def laneIs (i : Instr) (lane : Nat) (x : Word32) : Bool := nextHas (exec i gBase) (fun t => match spanOf t 1 with
  | some sp => decide (vRead sp 16 lane = x)
  | none => false)
theorem test_laneByHand :
    laneIs (.vadd (gF 2)) 0 0x7FFF8003 = true ∧ laneIs (.vadd (gF 1)) 0 0x7FFF8003 = true ∧ laneIs (.vadds (gF 1)) 0 0x80008003 = true ∧
    laneIs (.vmin (gF 1)) 0 0x80008002 = true ∧ laneIs (.vmax (gF 5)) 0 0xFFFF8002 = true ∧
    laneIs (.vsub (gF 2)) 0 0x80007FFF = true ∧ laneIs (.vshl (gF 2)) 0 0x00000004 = true ∧ laneIs (.vsel (gF 2)) 0 0xF0F08001 = true ∧
    laneIs (.vfneg (gF 10)) 0 0x00000001 = true ∧ laneIs (.vclz (gF 6)) 0 0 = true ∧ laneIs (.vadd (gF 2)) 1 0 = true := by decide +kernel
def intTypes : List (BitVec 4) := [0, 1, 2, 3, 4, 5, 6, 7]
theorem test_laneLists : ∀ ty ∈ [(0 : BitVec 4), 1, 2, 3, 5, 7], ∀ x ∈ [gF ty, gI ty], ∀ p ∈ laneTwoOps x ++ (laneOneOps x).take 5 ++ (laneThreeOps x).take 2,
    nextIs (exec p.1 gBase) (passRetired gBase (elementwise gBase gSpan x p.2)) = true := by decide +kernel
theorem test_laneFloatLists : ∀ ty ∈ [(9 : BitVec 4), 10], ∀ x ∈ [gF ty, gI ty], ∀ p ∈ laneFloatOps x ++ (laneOneOps x).drop 5 ++ (laneThreeOps x).drop 2,
    nextIs (exec p.1 gBase) (passRetired gBase (elementwise gBase gSpan x p.2)) = true := by decide +kernel
theorem test_elementwise : vRead (elementwise gBase gSpan (gF 2) (fun _ a b _ => a + b)) 16 0 = 0x7FFF8003 ∧
    vRead (elementwise gBase gSpan (gF 2) (fun _ a b _ => a + b)) 16 1 = 0 ∧ (gBase.cur.mask.getLsbD 2 = true) ∧
    tyWidth (tyOfCode (gF 2).ty.toNat) ≠ 64 := by decide +kernel
theorem wit_compare : PassReady gBase gSpan pL (srcA (gF 2) ++ srcB (gF 2)) [] (some 20) := by
  unfold PassReady ActingIn Acting; decide +kernel
theorem test_compares : (∀ ty ∈ [(2 : BitVec 4), 6, 7], ∀ p ∈ (laneCompareOps (gF ty)).take 6,
      nextIs (exec p.1 gBase) (passRetired gBase (writeMask gBase gSpan 20 (compareMask gBase (fun k =>
        p.2 (tyOfCode ty.toNat) (opndA gSpan (tyOfCode ty.toNat) (gF ty) k) (opndB gSpan (tyOfCode ty.toNat) (gF ty) k))))) = true) ∧
    (∀ p ∈ (laneCompareOps (gF 10)).drop 6, nextIs (exec p.1 gBase) (passRetired gBase (writeMask gBase gSpan 20 (compareMask gBase (fun k =>
        p.2 .f32 (opndA gSpan .f32 (gF 10) k) (opndB gSpan .f32 (gF 10) k))))) = true) ∧
    nextHas (exec (.vclt (gF 2)) gBase) (fun t => decide ((spanOf t 1).map (fun sp => sRead sp 20) = some 5)) = true ∧
    nextHas (exec (.vclt (gF 6)) gBase) (fun t => decide ((spanOf t 1).map (fun sp => sRead sp 20) = some 5)) = true := by decide +kernel
theorem test_maskBits : (compareMask gBase (fun k => k == 2)).getLsbD 2 = true ∧ (compareMask gBase (fun k => k == 1)).getLsbD 1 = false := by
  decide +kernel
theorem wit_moves : PassReady gBase gSpan pL (srcB (gF 3)) (dstV (gF 3)) none ∧ PassReady gBase gSpan pL [] [16] none ∧
    PassReady gBase gSpan pL [] (regSpan 16 2) none ∧ gBase.cur.planed = false ∧ PassReady gBase gSpan pL [.v [4] (feA (gF 2))] [] none ∧
    PassReady gBase gSpan pL [] [] none := by
  refine ⟨?_, ?_, ?_, ?_, ?_, ?_⟩ <;> (try unfold PassReady ActingIn Acting) <;> decide +kernel
theorem test_moves :
    nextIs (exec (.vmov (gF 3)) gBase) (passRetired gBase ((passLanes gBase).foldl (fun acc k =>
        vLaneWrite acc 16 k true (opndB gSpan .i64 (gF 3) k)) gSpan)) = true ∧
    nextIs (exec (.vlane (gF 2)) gBase) (passRetired gBase (vWrite (vWrite gSpan 16 0 0) 16 2 2)) = true ∧
    nextIs (exec (.vgid (gF 2)) gBase) (passRetired gBase (vLaneWrite (vLaneWrite gSpan 16 0 true 0) 16 2 true 2)) = true ∧
    nextIs (exec (.vpl (gF 2)) gBase) (passRetired gBase (vWrite (vWrite gSpan 16 0 0) 16 2 0)) = true ∧
    nextHas (exec (.vplset (gF 2)) gBase) (fun t => decide ((spanOf t 1).map Span.pl = some 0x21)) = true ∧
    nextIs (exec .lnop gBase) (passRetired gBase gSpan) = true := by decide +kernel
def shF (ty : BitVec 4) : LFields := { gF ty with p2 := 2 }
theorem wit_shuffles : PassReady gBase gSpan pL (srcA (shF 2)) (dstV (shF 2)) none ∧ ((shF 2).p2.extractLsb' 0 5).toNat < lanesOf pL ∧
    PassReady gBase gSpan pL (srcA (gF 2) ++ classSource (gF 2).bcls (gF 2).vb 1 (feB (gF 2))) (dstV (gF 2)) none := by
  unfold PassReady ActingIn Acting; decide +kernel
theorem test_shuffles : (∀ ty ∈ [(2 : BitVec 4), 3], ∀ p ∈ shuffleOps (shF ty),
      nextIs (exec p.1 gBase) (passRetired gBase (gather gBase gSpan (shF ty) (p.2 32 2))) = true) ∧
    laneIs (.vshufXor (shF 2)) 0 0x3F80FFFE = true ∧ laneIs (.vshufXor (shF 2)) 2 0x80000001 = true ∧
    laneIs (.vshufUp (shF 2)) 2 0x80000001 = true ∧ laneIs (.vshufDn (shF 2)) 0 0x3F80FFFE = true ∧
    nextIs (exec (.vperm { gF 2 with vb := 12 }) gBase) (passRetired gBase (gather gBase gSpan { gF 2 with vb := 12 } (fun k => if k = 0 then 15 else 5))) = true ∧
    nextIs (exec (.vperm { gF 2 with vb := 9, bcls := 1 }) gBase) (passRetired gBase (gather gBase gSpan (gF 2) (fun _ => 3))) = true ∧
    nextIs (exec (.vbcast { gF 3 with vb := 9, bcls := 1 }) gBase) (passRetired gBase (gather gBase gSpan (gF 3) (fun _ => 3))) = true ∧
    nextIs (exec (.vbcast { gF 2 with vb := 9 }) gBase) (passRetired gBase (gather gBase gSpan (gF 2) (fun _ => 3))) = true := by decide +kernel
theorem wit_reductions : PassReady gBase gSpan pL (srcA (gF 2)) [] (some 20) ∧ PassReady gBase gSpan pL (srcA (gF 2)) (dstV (gF 2)) none := by
  unfold PassReady ActingIn Acting; decide +kernel
def sumOf (i : Instr) (x : Word64) : Bool := nextIs (exec i gBase) (passRetired gBase (writeSdst gSpan 20 x))
theorem test_reductions : sumOf (.vredadd (gF 2)) 0xBF80FFFF = true ∧ sumOf (.vredmin (gF 2)) 0x80000001 = true ∧
    sumOf (.vredmax (gF 2)) 0x3F80FFFE = true ∧ sumOf (.vredand (gF 2)) 0 = true ∧ sumOf (.vredor (gF 2)) 0xBF80FFFF = true ∧
    sumOf (.vrfl (gF 2)) 0x80000001 = true ∧ sumOf (.vrul { gF 2 with va := 20 }) 0 = true ∧
    sumOf (.vredadd (gF 10)) (BitVec.ofNat 64 (fTreeSum fmtF32 ((List.range 32).map (fun k =>
      if k = 0 then some 0x80000001 else if k = 2 then some 0x3F80FFFE else none)))) = true := by decide +kernel
theorem test_reductionLists : ∀ ty ∈ [(2 : BitVec 4), 6, 3, 10], 
    let t := tyOfCode ty.toNat
    let vals := (passLanes gBase).map (opndA gSpan t (gF ty))
    sumOf (.vredmin (gF ty)) (BitVec.ofNat 64 (vals.foldl (pickMinMax false t) (tyMax t))) = true ∧
    sumOf (.vredmax (gF ty)) (BitVec.ofNat 64 (vals.foldl (pickMinMax true t) (tyMin t))) = true := by decide +kernel
theorem test_scan : laneIs (.vscan (gF 2)) 0 0x80000001 = true ∧ laneIs (.vscan (gF 2)) 2 0xBF80FFFF = true ∧
    nextHas (exec (.vscan (gF 3)) gBase) (fun _ => true) = true ∧ nextHas (exec (.vscan (gF 10)) gBase) (fun _ => true) = true := by decide +kernel
theorem wit_vaddTraps : PassReady gBase gSpan pL [] [] none ∧ pL.vregs ≤ 256 ∧
    (let l := { pL with vregs := 16 }
     let s := { gBase with launches := [(2, l)] }
     sameNext (exec (.vadd (gF 2)) s) (takeTrap s gSpan l ⟨causeIllegal, true, 5, 0⟩)) = true ∧
    (let sp := vMarkEmpty gSpan 4
     let s := putSpan gBase 1 sp
     let x := { gF 2 with fe := 4 }
     !sourceFull sp (.v [4] true) && sameNext (exec (.vadd x) s) (takeTrap s sp pL ⟨causeEmpty, true, 5, 0⟩)) = true := by
  unfold PassReady ActingIn Acting; decide +kernel

/-! ### Conversions, lane memory, lane exit -/

/-- Slots: 0 f32 to f32 (codes 10, 10), 1 f32 to E4M3 with E8M0 block scales (R102), 2 the other way, 3 f32 to F4X, 4 F4X to f32, 5 f32 to i16. -/
def slotWord (a b scale blk : Nat) : BitVec 128 := BitVec.ofNat 128 (a * 2 ^ 60 + b * 2 ^ 56 + scale * 2 ^ 53 + blk * 2 ^ 48)
def cvLaunch : Launch := { pL with fslots := [slotWord 10 2 0 0, slotWord 10 12 1 5, slotWord 12 10 1 5, slotWord 10 14 1 5, slotWord 14 10 1 5, slotWord 10 9 0 0, slotWord 9 10 0 0] }
def cvBase : State := { gBase with launches := [(2, cvLaunch)] }
def cvF (fs : BitVec 3) : LFields := { gF 10 with fs := fs, va := 8 }
/-- The pass's registers of a conversion's row, its element function and its result, as the statement has them. -/
def convDone (x : LFields) (f : BitVec 128) (c : Conv) : State :=
  let rm := effRm x.rm.toNat f
  let b := tyWidth (tyOfCode (fsB f))
  let elem := fun (k e code : Nat) => encodeTy (tyOfCode (fsB f))
    (rmOf rm (fsSeed f) (streamOf gSpan x) ((gidOf cvLaunch gSpan k * c.count + e) % 2 ^ 64)) (fsE5 f) (decodeTy (tyOfCode (fsA f)) code)
  passRetired (histCount cvBase 0 (histChoice x f) ((passLanes cvBase).flatMap (fun k => (c.src gSpan k).map (decodeTy (tyOfCode (fsA f))))))
    ((passLanes cvBase).foldl (fun acc k => vLaneWrite acc x.vd.toNat k (b == 64)
      (ofElems b ((c.src gSpan k).zipIdx.map (fun y => elem k y.2 y.1)))) gSpan)
/-- Slot 0 converts f32 to i32 (`vcvt`), slot 5 packs f32 into i16 (`vcvtp`), slot 6 unpacks i16 to f32 (`vcvtu`). -/
theorem wit_conversions : ActingIn cvBase gSpan cvLaunch ∧
    (∀ i ∈ [(0, 0), (1, 5), (2, 6)],
      let x := cvF (BitVec.ofNat 3 i.2)
      let f := fslotOf cvLaunch i.2
      (match (conversionOps x f)[i.1]? with
       | some p => p.2.suits && !stochastic (effRm x.rm.toNat f) && decide (∀ r ∈ regSpan 8 p.2.nsrc ++ regSpan 16 p.2.ndst, r < pL.vregs) &&
           nextIs (exec p.1 cvBase) (convDone x f p.2)
       | none => false) = true) := by unfold ActingIn Acting; decide +kernel
/-- The packs: slot 1 gives E4M3 with E8M0 block scales, slot 3 F4X. Lanes 0 and 2 are in the first block of four; the scale goes to each of
its lanes of m. -/
theorem wit_packs : PassReady cvBase gSpan cvLaunch ([.v (regSpan 8 8) (feA (cvF 1))] ++ srcStream (cvF 1)) (regSpan 16 3) none ∧
    PassReady cvBase gSpan cvLaunch ([.v (regSpan 8 8) (feA (cvF 3))] ++ srcStream (cvF 3)) (regSpan 16 2) none := by
  refine ⟨?_, ?_⟩ <;> unfold PassReady ActingIn Acting <;> decide +kernel
theorem test_packs : (∀ i ∈ [(0, 1), (1, 3)], (match (packOps (cvF (BitVec.ofNat 3 i.2)) (fslotOf cvLaunch i.2))[i.1]? with
      | some p => p.2.1 && nextHas (exec p.1 cvBase) (fun t => match spanOf t 1 with
          | some sp => decide (sp.s = gSpan.s ∧ sp.spc = gSpan.spc ∧ vRead sp 24 0 = 0 ∧ vRead sp 15 0 = 0 ∧ vRead sp 16 1 = 0 ∧ sp.queue = [] ∧
              vRead sp (15 + p.2.2.1) 0 = vRead sp (15 + p.2.2.1) 2)
          | none => false)
      | none => false) = true) := by decide +kernel
theorem wit_conversionReady : PassReady cvBase gSpan cvLaunch ([.v (regSpan 8 8) (feA (cvF 1))] ++ srcStream (cvF 1)) (regSpan 16 3) none ∧
    PassReady cvBase gSpan cvLaunch ([.v (regSpan 8 1) (feA (cvF 0))] ++ srcStream (cvF 0)) (regSpan 16 1) none := by
  refine ⟨?_, ?_⟩ <;> unfold PassReady ActingIn Acting <;> decide +kernel
/-- R95: 0x40490FDB (3.14159…) in v8 of lane 2 becomes the integer 3. -/
theorem test_conversion : tyWidth (tyOfCode (fsA (fslotOf cvLaunch 0))) = 32 ∧ tyWidth (tyOfCode (fsB (fslotOf cvLaunch 0))) = 32 ∧
    nextHas (exec (.vcvt (cvF 0)) cvBase) (fun t => decide ((spanOf t 1).map (fun sp => vRead sp 16 2) = some 3 ∧
      3 = BitVec.ofNat 32 (encodeTy .i32 (rmOf 0 0 0 0) false (decodeTy .f32 0x40490FDB) % 2 ^ 32))) = true := by decide +kernel
theorem wit_unpack : PassReady cvBase gSpan cvLaunch ([.v (regSpan 8 3) (feA (cvF 2))] ++ srcStream (cvF 2)) (regSpan 16 8) none ∧
    PassReady cvBase gSpan cvLaunch [.v (regSpan 8 2) (feA (cvF 4))] (regSpan 16 8) none ∧
    PassReady cvBase gSpan cvLaunch ([.v (regSpan 8 2) (feA (cvF 0))] ++ srcStream (cvF 0)) [16] none ∧
    (fsA (fslotOf cvLaunch 2) = 12 ∧ fsB (fslotOf cvLaunch 2) = 10 ∧ fsScale (fslotOf cvLaunch 2) = 1 ∧ fsBlk (fslotOf cvLaunch 2) = 5) ∧
    (fsA (fslotOf cvLaunch 4) = 14 ∧ fsB (fslotOf cvLaunch 4) = 10 ∧ fsScale (fslotOf cvLaunch 4) = 1 ∧ fsBlk (fslotOf cvLaunch 4) = 5) := by
  refine ⟨?_, ?_, ?_, ?_, ?_⟩ <;> (try unfold PassReady ActingIn Acting) <;> decide +kernel
theorem test_unpack :
    nextIs (exec (.vmxunpk (cvF 2)) cvBase) (passRetired cvBase ((passLanes cvBase).foldl (fun acc k =>
        (List.range 8).foldl (fun acc e => vWrite acc (16 + e) k (BitVec.ofNat 32
          (mxDecode .f8a ((vRead gSpan 10 k).toNat % 256) (elemOf 8 (vLane gSpan 8 k true) e)))) acc) gSpan)) = true ∧
    nextIs (exec (.vf4unpk (cvF 4)) cvBase) (passRetired cvBase ((passLanes cvBase).foldl (fun acc k =>
        (List.range 8).foldl (fun acc e => vWrite acc (16 + e) k (BitVec.ofNat 32
          (f4xDecode ((vRead gSpan 9 k).toNat % 256) ((vRead gSpan 9 k).toNat / 256 % 256)
            (elemOf 4 (vRead gSpan 8 k).toNat e)))) acc) gSpan)) = true ∧
    nextIs (exec (.vrnd (cvF 0)) cvBase) (passRetired cvBase ((passLanes cvBase).foldl (fun acc k =>
        vWrite acc 16 k (BitVec.ofNat 32 (hash 0 (streamOf gSpan (cvF 0)) (vLane gSpan 8 k true)))) gSpan)) = true := by decide +kernel

/-! Addresses: the scalar base s1 (0x30000) plus the lanes' offsets in v4, or s11 in scratch. -/
def lmSpan : Span := { gSpan with
  s := mapPut (mapPut gSpan.s 2 0x01FFFFFFFFF80000) 3 0x30000
  v := [(128, 0x10#32), (130, 0x20#32), (256, 0xAABBCCDD#32), (258, 0x11223344#32), (384, 5#32), (386, 6#32)] }
def lmBase : State := { putSpan gBase 1 lmSpan with mem := [(0x30010, 0x77)] }
def lmF (vb : BitVec 8) : LFields := { gF 2 with vb := vb, vc := 12, bcls := 1 }
def placesOf (base : Nat) : List (Acc × Place) := [((0, base + 0x10), .phys (base + 0x10)), ((2, base + 0x20), .phys (base + 0x20))]
theorem wit_laneLoad : PassReady lmBase lmSpan pL (addrSources (lmF 3)) (regSpan 16 (tyRegs 2)) none ∧ lmSpan.acquiring = none ∧ lmSpan.pend = .none ∧
    passAccs lmBase lmSpan (lmF 3) = [(0, 0x30010), (2, 0x30020)] ∧ memWidth 2 = (4, false) := by
  refine ⟨?_, ?_, ?_, ?_, ?_⟩ <;> (try unfold PassReady ActingIn Acting) <;> decide +kernel
theorem wit_lanePlaced : ∀ p ∈ laneLoads (lmF 3), accsPlaced lmBase lmBase lmSpan pL p.2.1 4 [(0, 0x30010), (2, 0x30020)] (placesOf 0x30000) ∧
    readsBad lmBase lmSpan pL 4 (placesOf 0x30000) = false ∧ loadMayIssue lmBase lmSpan pL p.2.1 4 (placesOf 0x30000) := by
  unfold accsPlaced loadMayIssue; decide +kernel
theorem test_laneLoad : (∀ p ∈ laneLoads (lmF 3),
      (let t := loadIssued lmBase lmSpan pL p.2.1 p.2.2 4 false (.v 16 false) (placesOf 0x30000)
       nextIs (exec p.1 lmBase) (putSpan t t.cur.uid (advancePass (vMarkEmpty lmSpan 16)))) = true) ∧
    (let s := { lmBase with cur := { lmBase.cur with mask := 0 } }
     passAccs s lmSpan (lmF 3) = [] ∧ nextIs (exec (.vld (lmF 3)) s) (passRetired s lmSpan) = true) := by decide +kernel
def lcLoad : Load := { mkLoad 1 .none 4 false [⟨0, 0x30010, some 0x77⟩] 0 with served := [(0x600, false)] }
def lcSpan : Span := { lmSpan with pend := .consume 40 }
def lcState : State := { putSpan lmBase 1 lcSpan with loads := [(40, lcLoad)] }
theorem wit_laneConsuming : PassReady lcState lcSpan pL (addrSources (lmF 3)) (regSpan 16 (tyRegs 2)) none := by
  unfold PassReady ActingIn Acting; decide +kernel
theorem test_laneConsuming : mapFind lcState.loads 40 = some lcLoad ∧ lcLoad.waits = 0 ∧ (∀ y ∈ lcLoad.served, y.2 = false) ∧
    (let t := putLoad (lcLoad.served.foldl (fun t y => settleLine t y.1 false) lcState) 40 { lcLoad with dest := .v 16 false }
     nextIs (exec (.vldCons (lmF 3)) lcState) (putSpan t t.cur.uid (advancePass (vMarkEmpty { lcSpan with pend := .none } 16)))) = true := by decide +kernel
/-- Scratch store of v12 at s2 + v4; a store to memory whose one line has been answered. -/
def vstPlaces : List (Acc × Place) := [((0, 0x01FFFFFFFFF80010), .loc 0x10), ((2, 0x01FFFFFFFFF80020), .loc 0x20)]
theorem wit_laneStore : PassReady lmBase lmSpan pL (addrSources (lmF 2) ++ [.v (regSpan 12 (tyRegs 2)) (feC (lmF 2))]) [] none ∧
    accsPlaced lmBase lmBase lmSpan pL .store 4 (passAccs lmBase lmSpan (lmF 2)) vstPlaces ∧
    accsPlaced lmBase lmBase lmSpan pL .storeUnc 4 (passAccs lmBase lmSpan (lmF 2)) vstPlaces ∧ (∀ q ∈ vstPlaces, ∃ off, q.2 = .loc off) := by
  refine ⟨?_, ?_, ?_, ?_⟩
  · unfold PassReady ActingIn Acting; decide +kernel
  · unfold accsPlaced; decide +kernel
  · unfold accsPlaced; decide +kernel
  · intro q h; simp [vstPlaces] at h; rcases h with rfl | rfl <;> exact ⟨_, rfl⟩
theorem test_laneScratchStore : ∀ i ∈ [Instr.vst (lmF 2), .vstUnc (lmF 2)], nextHas (exec i lmBase) (fun t => decide (
    localRead t tDeck 0x10 4 = 5 ∧ localRead t tDeck 0x20 4 = 6 ∧ localRead t tDeck 0x14 4 = 0 ∧
    t = passRetired (putLocal lmBase lmSpan (storeCells 4 vstPlaces (fun k => vLane lmSpan 12 k false % 2 ^ 32))) lmSpan)) = true := by decide +kernel
def lsSpan : Span := { lmSpan with pend := .store [41] }
def lsReq : Req := { Req.init with core := 0, uid := 1, kind := .storeCheck, line := 0x600, stage := .answered, va := 0x30000, mask := 0xF00F0000, data := 5 }
def lsState : State := { putSpan lmBase 1 lsSpan with reqs := [(41, lsReq)] }
theorem wit_laneStoreAnswered : PassReady lsState lsSpan pL (addrSources (lmF 3) ++ [.v (regSpan 12 (tyRegs 2)) (feC (lmF 3))]) [] none ∧
    (∀ a ∈ passAccs lsState lsSpan (lmF 3), inLocal a.2 = false) ∧ (∀ i ∈ [41], (reqOf lsState i).stage = .answered ∧ (reqOf lsState i).bad = false) := by
  unfold PassReady ActingIn Acting; decide +kernel
theorem test_laneStoreAnswered : ∀ p ∈ [(Instr.vst (lmF 3), false), (.vstUnc (lmF 3), true)],
    (let r := storePerformed lsState lsSpan pL p.2 [41] [] 4 (fun k => vLane lsSpan 12 k false % 2 ^ 32)
     nextIs (exec p.1 lsState) (putSpan r.1 r.1.cur.uid (advancePass r.2))) = true := by decide +kernel
def laReq (k : Nat) : Req := { Req.init with core := 0, uid := 1, kind := .atomic, line := 0x600, stage := .answered, va := 0x30010, a := 0x10, width := 4, tag := k }
def laSpan : Span := { lmSpan with pend := .atomic [41, 42] }
def laState : State := { putSpan lmBase 1 laSpan with reqs := [(41, laReq 0), (42, laReq 2)] }
theorem wit_laneAtomic : [41, 42].Nodup ∧ PassReady laState laSpan pL [.v [4] (feA (lmF 3)), .s 3 (feB (lmF 3)), .v (regSpan 12 (tyRegs 2)) (feC (lmF 3))]
      (regSpan 16 (tyRegs 2)) none ∧ (∀ i ∈ [41, 42], (reqOf laState i).stage = .answered ∧ (reqOf laState i).bad = false) ∧
    ordRel ((lmF 3).p2.extractLsb' 24 4).toNat = false ∧ (∀ k ∈ passLanes laState, ∃ i ∈ [41, 42], (reqOf laState i).tag = k) := by
  refine ⟨?_, ?_, ?_, ?_, ?_⟩ <;> (try unfold PassReady ActingIn Acting) <;> decide +kernel
theorem test_laneAtomic : ∀ i ∈ laneAtoms (lmF 3), nextHas (exec i laState) (fun t => decide (
    (mapFind t.loads laState.nextId).map (fun ld => (ld.waits, ld.dest)) = some (2, .v 16 false) ∧
    [41, 42].all (fun j => (reqOf t j).stage == .quad && (reqOf t j).loads == [laState.nextId]) = true ∧
    (spanOf t 1).map (fun sp => vFull sp 16) = some false)) = true := by decide +kernel
def lfF : LFields := { gF 2 with p2 := 1 }
theorem wit_laneFifo : lmBase.cur.mask ≠ 0 ∧ physBank tDeck (lfF.p2.extractLsb' 0 5).toNat = some 1 ∧
    PassReady lmBase lmSpan pL [.v [4] (feA lfF)] [] none ∧ PassReady lmBase lmSpan pL [] [16] none ∧
    (bankOf (coreOf lmBase 0) 1).ring.length + (passLanes lmBase).length ≤ fifoRoom ∧ firstPop lmBase 0 1 = none := by
  refine ⟨?_, ?_, ?_, ?_, ?_, ?_⟩ <;> (try unfold PassReady ActingIn Acting) <;> decide +kernel
def lpState : State := putBank lmBase 0 1 { bankOf (coreOf lmBase 0) 1 with ring := [9, 8, 7] }
theorem test_laneFifo :
    nextIs (exec (.vpush lfF) lmBase) (passRetired (putBank lmBase 0 1 { bankOf (coreOf lmBase 0) 1 with ring := [0x10, 0x20] }) lmSpan) = true ∧
    nextHas (exec (.vpop lfF) lpState) (fun t => decide (
      (mapFind t.loads lpState.nextId).map (fun ld => (ld.waits, ld.lanes.map LaneRead.lane, ld.lanes.map LaneRead.got)) = some (0, [0, 2], [some 9, some 8]) ∧
      (bankOf (coreOf t 0) 1).ring = [7] ∧ spanOf t 1 = some (advancePass (vMarkEmpty lmSpan 16)))) = true := by decide +kernel
theorem wit_laneExit : PassReady gBase gSpan pL [] [] none ∧ gSpan.regs = [] ∧ gSpan.live &&& ~~~ gBase.cur.mask ≠ 0 := by
  unfold PassReady ActingIn Acting; decide +kernel
theorem test_laneExit :
    nextIs (exec .vexit gBase) (putSpan gBase 1 { advancePass gSpan with live := 0xFFFFFFFA, am := gSpan.am &&& 0xFFFFFFFA }) = true ∧
    nextHas (exec .vexit { gBase with cur := { gBase.cur with mask := 0xFFFFFFFF } }) (fun t => decide (spanOf t 1 = none)) = true ∧
    (let s := { gBase with cur := { gBase.cur with mask := 0 } }
     nextIs (exec .vexit s) (passRetired s gSpan)) = true := by decide +kernel
/-- Deterministic forms: a pass's store is one entry for each line (R299), its atomics one entry (R304), its push one entry. -/
def dlBase : State := { lmBase with launches := mapPut lmBase.launches 2 detL }
theorem wit_laneDet : PassReady dlBase lmSpan detL (addrSources (lmF 3) ++ [.v (regSpan 12 (tyRegs 2)) (feC (lmF 3))]) [] none ∧
    accsPlaced dlBase dlBase lmSpan detL .store 4 (passAccs dlBase lmSpan (lmF 3)) (placesOf 0x30000) ∧
    (∀ a ∈ passAccs dlBase lmSpan (lmF 3), ownsBytes dlBase lmSpan detL (fun acc => !acc) a.2 4 = true) ∧
    (storeEntries (storeCells 4 (placesOf 0x30000) (fun _ => 0)) false).length = 1 ∧
    (∀ i ∈ (laneAtoms (lmF 3)).zipIdx, ∀ a ∈ [0x30010, 0x30020], atomOwned dlBase lmSpan detL i.2 true a 32 = true) := by
  refine ⟨?_, ?_, ?_, ?_, ?_⟩ <;> (try unfold PassReady ActingIn Acting) <;> (try unfold accsPlaced) <;> decide +kernel
theorem test_laneDet :
    nextHas (exec (.vst (lmF 3)) dlBase) (fun t => decide ((spanOf t 1).map Span.buffer = some (
      (storeEntries (storeCells 4 (placesOf 0x30000) (fun k => if k = 0 then 5 else 6)) false).map (fun x => (0x10000, x))))) = true ∧
    nextHas (exec (.vatomAdd (lmF 3)) dlBase) (fun t => match spanOf t 1 with
      | some sp => decide (sp.buffer = [(0x10000, .atomic 32 0 0 (some dlBase.nextId) [⟨0, 0x30010, 5, 0, 5⟩, ⟨2, 0x30020, 6, 0, 6⟩])]) && !vFull sp 16
      | none => false) = true ∧
    nextIs (exec (.vpush lfF) dlBase) (passRetired dlBase { lmSpan with buffer := [(0x10000, .fifo 1 [0x10, 0x20])] }) = true ∧
    nextIs (exec .vexit dlBase) (putSpan dlBase 1 { advancePass { lmSpan with buffer := [(0x10000, .drop 5)] } with
      live := 0xFFFFFFFA, am := lmSpan.am &&& 0xFFFFFFFA }) = true := by decide +kernel
theorem test_lanePopWaits : nextHas (exec (.vpop lfF) lmBase) (fun t => decide (
    (mapFind t.loads lmBase.nextId).map (fun ld => (ld.waits, ld.lanes.map LaneRead.got)) = some (1, [none, none]))) = true := by decide +kernel
/-- A pass's atomic on words of scratch (R261), as a release whose covered accesses are all done, and as one that is held lane by lane. -/
def laF (ord : Nat) : LFields := { lmF 2 with p2 := BitVec.ofNat 32 (ord * 2 ^ 24) }
def lhState : State := { lmBase with reqs := [(41, { Req.init with core := 0, uid := 1, by_ := [1], kind := .storeData, line := 0x600, stage := .home })] }
theorem wit_laneAtomicLocal : (∀ q ∈ vstPlaces, ∃ off, q.2 = .loc off) ∧ ordRel 0 = false ∧ ordRel 6 = true ∧
    markers lmBase lmSpan.core + 2 ≤ 64 ∧ atomReady lmBase lmSpan 0 = true ∧ atomReady lmBase lmSpan 6 = true ∧ atomReady lhState lmSpan 8 = false ∧
    readsBad lmBase lmSpan pL 4 vstPlaces = false := by
  refine ⟨?_, ?_⟩
  · intro q h; simp [vstPlaces] at h; rcases h with rfl | rfl <;> exact ⟨_, rfl⟩
  · decide +kernel
theorem test_laneAtomicLocal : (∀ o ∈ [0, 6], nextHas (exec (.vatomAdd (laF o)) lmBase) (fun t => decide (
      localRead t tDeck 0x10 4 = 5 ∧ localRead t tDeck 0x20 4 = 6 ∧
      (mapFind t.loads lmBase.nextId).map (fun ld => (ld.waits, ld.lanes.map LaneRead.got)) = some (0, [some 0, some 0]))) = true) := by decide +kernel
theorem test_laneAtomicHeld : nextHas (exec (.vatomAdd (laF 8)) lhState) (fun t => decide (
      localRead t tDeck 0x10 4 = 0 ∧ markers t 0 = 2 ∧ (spanOf t 1).map (fun sp => vFull sp 16) = some false ∧
      (mapFind t.loads lhState.nextId).map (fun ld => (ld.waits, ld.lanes.map LaneRead.got)) = some (2, [none, none]))) = true := by decide +kernel
/-- `vexit` of a span that is registered at a barrier in scratch, its older stores performed. -/
def exSpan : Span := { gSpan with regs := [⟨0x01FFFFFFFFF80040, 5, 0, 0⟩] }
def exState : State := { writeBar (putSpan gBase 1 exSpan) bLoc { barImage with registered := 2 } with cur := gBase.cur }
theorem wit_laneExitDrops : PassReady exState exSpan pL [] [] none ∧ exSpan.regs ≠ [] ∧ StoresDone exState exSpan (tableScope exState exSpan) ∧
    exitLines exState exSpan = [] ∧
    nextHas (exec .vexit exState) (fun t => decide ((readBar t bLoc).registered = 0 ∧
      (spanOf t 1).map (fun sp => (sp.live, sp.regs)) = some (0xFFFFFFFA, []))) = true := by
  refine ⟨?_, ?_, ?_, ?_, ?_⟩ <;> (try unfold PassReady ActingIn Acting) <;> (try unfold StoresDone) <;> decide +kernel
/-- Traps: a register beyond `.vregs`, an empty source with its fe bit, a slot that does not suit, a plane instruction in a planed block. -/
def ptF : LFields := { gF 2 with va := 100, vd := 100 }
def ptL : Launch := { pL with vregs := 64 }
def ptState : State := { lmBase with launches := mapPut lmBase.launches 2 ptL }
def peSpan : Span := vMarkEmpty lmSpan 4
def peState : State := putSpan lmBase 1 peSpan
def peF : LFields := { gF 2 with fe := 4 }
theorem wit_passTraps : ActingIn ptState lmSpan ptL ∧ ptState.cur.test = none ∧ ptL.vregs ≤ 100 ∧
    ActingIn peState peSpan pL ∧ laterPass peSpan = false ∧ sourceReady peSpan (.v [4] true) = false ∧
    (passForms peF peState pL).length = 92 ∧ ActingIn cvBase gSpan cvLaunch ∧
    (conversionOps (cvF 1) (fslotOf cvLaunch 1)).map (fun p => p.2.suits) = [true, true, false] ∧
    ((packOps (cvF 0) (fslotOf cvLaunch 0)).all (fun p => !p.2.1)) = true ∧ fsB (fslotOf cvLaunch 5) ≠ 10 := by
  unfold ActingIn Acting; decide +kernel
def trapIs (i : Instr) (s : State) (sp : Span) (l : Launch) (r : Report) : Bool := sameNext (exec i s) (takeTrap s sp l r)
theorem test_passTraps :
    ((passForms ptF ptState ptL).all (fun p => !(p.2.2 ++ p.2.1.flatMap sourceRegs).any (fun r => decide (ptL.vregs ≤ r)) ||
      trapIs p.1 ptState lmSpan ptL ⟨causeIllegal, true, ptState.cur.mask, 0⟩)) = true ∧
    ((passForms peF peState pL).all (fun p => !p.2.1.any (fun y => !sourceReady peSpan y && sourceFe y) ||
      trapIs p.1 peState peSpan pL ⟨causeEmpty, true, peState.cur.mask, 0⟩)) = true ∧
    trapIs (.vcvtu (cvF 1)) cvBase gSpan cvLaunch ⟨causeIllegal, true, 5, 0⟩ = true ∧
    trapIs (.vmxpack (cvF 0)) cvBase gSpan cvLaunch ⟨causeIllegal, true, 5, 0⟩ = true ∧
    trapIs (.vmxunpk (cvF 5)) cvBase gSpan cvLaunch ⟨causeIllegal, true, 5, 0⟩ = true := by decide +kernel
/-- Lane 2 of a pass is misaligned; then no page maps the lanes. -/
def lxState : State := putSpan lmBase 1 { lmSpan with v := mapPut lmSpan.v 130 0x21 }
def lxSpan : Span := { lmSpan with v := mapPut lmSpan.v 130 0x21 }
theorem wit_laneAccessTraps : PassReady lxState lxSpan pL (addrSources (lmF 3)) (regSpan 16 1) none ∧
    ((laneAccesses (lmF 3) lxState lxSpan).all (fun p => decide (((p.2.2.2.filter (fun a => !inQuad a.2 && a.2 % p.2.2.1 != 0))) = [(2, 0x30021)]) &&
      ((passForms (lmF 3) lxState pL).any (fun q => decide (q.1 = p.1))))) = true := by
  refine ⟨?_, ?_⟩
  · unfold PassReady ActingIn Acting; decide +kernel
  · decide +kernel
theorem test_laneAccessTraps : ((laneAccesses (lmF 3) lxState lxSpan).all (fun p =>
    sameNext (exec p.1 lxState) (takeTrap (checkAccs lxState lxSpan pL p.2.1 p.2.2.1 p.2.2.2).1 lxSpan pL
      ⟨causeMisaligned, true, 4, 0x30021⟩))) = true := by decide +kernel
/-- Consuming accesses of scratch: BANK_MODE on both lanes. -/
theorem test_laneAccessCause : firstCause (checkAccs lmBase lmSpan pL .cons 4 (passAccs lmBase lmSpan (lmF 2))).2 =
      some (causeBankMode, [(0, 0x01FFFFFFFFF80010), (2, 0x01FFFFFFFFF80020)]) ∧
    trapIs (.vldCons (lmF 2)) lmBase lmSpan pL ⟨causeBankMode, true, 5, 0x01FFFFFFFFF80010⟩ = true := by decide +kernel

/-! ### Trelix -/

/-- A word's fields as R365 places them; the opcode is the instruction's own. -/
def xWord (x a b : BitVec 5) (low : BitVec 11) : BitVec 96 := ((0#6 ++ x ++ a ++ b ++ low : Word32)).setWidth 96
/-- Processor 0 of die 0 at 0x10000 under job key 1, with x2 to x5 as given. -/
def xFp (x2 x3 x4 x5 : Word64) : Fp := ⟨true, [(2, x2), (3, x3), (4, x4), (5, x5)], 0x10000, 1, 0x40000, .none, none, none, false⟩
def xState (f : Fp) (w : BitVec 96) : State :=
  { tState (tSpan []) with cur := { fp := some 0, word := w }, fab := { State.reset.fab with fps := [(0, f)] } }
def xt (w : BitVec 96) : TFields := tFieldsOf (w.setWidth 32)
def aFp : Fp := xFp 0x8000000000000000 0x41 7 0x20002
def aWord : BitVec 96 := xWord 1 2 3 0
theorem wit_trelixAt : TrelixAt (xState aFp aWord) 0 aFp (xt aWord) ∧ xt aWord = ⟨1, 2, 3, 0⟩ := by unfold TrelixAt; decide +kernel
theorem test_trelixRegister : ∀ p ∈ trelixRegisterOps, ∀ q ∈ [(1 : BitVec 5), 0],
    (let w := xWord q 2 3 0
     nextIs (exec p.1 (xState aFp w)) (fpAfter (xState aFp w) 0 (xWrite aFp q (p.2 0x8000000000000000 0x41)) 0x10004)) = true := by decide +kernel
/-- R367 by hand: 2^63 shifted by 0x41 mod 64 = 1, compares signed and unsigned; immediates −2 and 0xFFFE. -/
theorem test_trelixByHand :
    (let r := fun (i : Instr) (w : BitVec 96) => match exec i (xState aFp w) with
       | .next u => some (xRead (fpOf u 0) 1, (fpOf u 0).pc)
       | _ => none
     r .trelixSrl aWord = some (0x4000000000000000, 0x10004) ∧ r .trelixSra aWord = some (0xC000000000000000, 0x10004) ∧
     r .trelixSlt aWord = some (1, 0x10004) ∧ r .trelixSltn aWord = some (0, 0x10004) ∧
     r .trelixAddi (xWord 1 4 31 0x7FE) = some (5, 0x10004) ∧ r .trelixSlin (xWord 1 4 31 0x7FE) = some (0x7FFFE, 0x10004) ∧
     r .trelixJal (xWord 1 31 31 0x7FE) = some (0x10004, 0xFFF8) ∧ r .trelixJr (xWord 0 2 0 0) = some (0, 0)) := by decide +kernel
theorem test_trelixBranches :
    (∀ p ∈ [(Instr.trelixBeq, 0x10004), (.trelixBne, 0xFFF8), (.trelixBlt, 0xFFF8), (.trelixBltn, 0x10004)],
      nextIs (exec p.1 (xState aFp (xWord 2 3 31 0x7FE))) (fpAfter (xState aFp (xWord 2 3 31 0x7FE)) 0 aFp p.2) = true) ∧
    nextHas (exec .trelixHalt (xState aFp (xWord 0 0 0 5))) (fun u => decide (fpOf u 0 = { aFp with halting := some (0, 0, 5), wait := .none, busy := false } ∧ u.mem = [])) = true := by
  decide +kernel
def mFp : Fp := xFp 0x30000 0x30004 0x1122334455667788 0
def mWord : BitVec 96 := xWord 4 2 0 8
theorem wit_trelixLoad : fpXlate (xState mFp mWord) 0 mFp 0x30008 0 = .ok 0x30008 false ∧ badLine (xState mFp mWord) (0x30008 / 128) = false ∧
    dieWaits (xState mFp mWord) 0 0x30008 (0x30008 / 128) = false ∧
    fpXlate (xState mFp mWord) 0 mFp 0x30008 1 = .ok 0x30008 false := by decide +kernel
theorem test_trelixLoad : (let s := { xState mFp mWord with mem := [(0x30008, 0x21), (0x30009, 0x43)] }
     nextIs (exec .trelixLd s) (fpAfter (homeTouch s (0x30008 / 128)) 0 (xWrite mFp 4 0x4321) 0x10004)) = true ∧
    (match fabPut (xState mFp mWord) 0 (whoWriter (xState mFp mWord) 0 (.fp 0 0) 0x30008) 0 0 0x30008 false (natToBytes 8 0x1122334455667788) with
     | .ok s' => nextIs (exec .trelixSt (xState mFp mWord)) (fpAfter s' 0 mFp 0x10004) && decide (homeRead s' 0x30008 8 = 0x1122334455667788)
     | _ => false) = true ∧
    (∀ i ∈ [Instr.trelixLd, .trelixSt], nextHas (exec i (xState mFp (xWord 4 3 0 8))) (fun u => decide (u.mem = [] ∧ u.lines = [] ∧
      fpOf u 0 = { mFp with halting := some (1, causeMisaligned, 0) })) = true) := by decide +kernel

/-- Memory from 0x50000 with the words of a descriptor. -/
def dState (f : Fp) (w : BitVec 96) (ws : List Nat) : State := homeWrite (xState f w) 0x50000 (ws.flatMap (natToBytes 8))
def dFp : Fp := xFp 0x50000 0x60000 0 0
def dWordOf : BitVec 96 := xWord 1 2 3 0
def dBytes (ws : List Nat) (n : Nat) : List Byte := (ws.flatMap (natToBytes 8) ++ List.replicate n 0).take n
def rdOk : FabRd → Bool
  | .ok _ _ false => true
  | _ => false
def readState : FabRd → State
  | .ok s _ _ => s
  | _ => State.reset
/-- The package once the descriptor at 0x50000 is read. -/
def descRead (s : State) (n : Nat) : State := readState (fpRead s 0 dFp 0x50000 n)
def wrOk : FabWr → Bool
  | .ok _ => true
  | _ => false
/-- The value of x1 and the pc after an instruction. -/
def x1After (r : Res) : Option (Word64 × Nat) :=
  match r with
  | .next u => some (xRead (fpOf u 0) 1, (fpOf u 0).pc)
  | _ => none
def sendFp : Fp := { dFp with wait := .send 9 }
theorem wit_send : TrelixAt (xState sendFp dWordOf) 0 sendFp (xt dWordOf) ∧ mapFind (xState sendFp dWordOf).fab.sends 9 = none ∧
    nextIs (exec .trelixSend (xState sendFp dWordOf)) (fpReported (xState sendFp dWordOf) 0 sendFp 1 0 0) = true := by unfold TrelixAt; decide +kernel
/-- Group 7 of die 0: a table at 0x90000 with one valid descriptor; a raw chunk of 128 bytes of rank 2 with tag 5. -/
def groupRow : List Nat := [2 ^ 63 + 2 * 2 ^ 54 + 7, 1 + 4 * 2 ^ 32, 0, 0xA0000, 1 + 5 * 2 ^ 32, 0xB0000, 0xC0000, 0]
def withTable (s : State) : State :=
  homeWrite { s with fe := { s.fe with regs := mapPut s.fe.regs 0x5100 0x90000 } } 0x90000 (groupRow.flatMap (natToBytes 8))
def rawTest : Raw := ⟨0, 7, 2, 5, 1, [(0, List.replicate 128 9)], 128⟩
def recvDesc : List Nat := [7 + 2 * 2 ^ 32, 0x61000, 128, 5, 0]
def recvState : State := let s := withTable (dState dFp dWordOf recvDesc); { s with fab := { s.fab with raws := [rawTest] } }
theorem wit_recv : DescAt recvState (descRead recvState 40) 0 dFp (xt dWordOf) 40 (dBytes recvDesc 40) ∧ lengthOk 128 = true ∧
    tableBad (descRead recvState 40) 0 7 = false ∧ (findGroup (descRead recvState 40) 0 7).isSome = true ∧
    (descRead recvState 40).fab.raws.find? (fun r => r.die == 0 / 4 && r.handle == 7 && r.rank == 2 && r.tag == 5) = some rawTest ∧
    rawBytes rawTest = some (List.replicate 128 9) ∧
    (match fpWrite (descRead recvState 40) 0 dFp 0x61000 (List.replicate 128 9) with
     | .ok s' => nextIs (exec .trelixRecv recvState) (fpReported { s' with fab := { s'.fab with raws := [] } } 0 dFp 1 0 0)
     | _ => false) = true := by unfold DescAt; decide +kernel
def bytesRead : FabRd → List Byte
  | .ok _ b _ => b
  | _ => []
/-! Tiles, and descriptors, in host memory: what is read there leaves the package as it was, and what is written is done at once. -/
def oFp : Fp := xFp 0xF000000050000 0xF000000060000 0 0
def oState (ws : List Nat) : State := homeWrite (xState oFp dWordOf) 0xF000000050000 (ws.flatMap (natToBytes 8))
/-- A read is answered with good bytes and leaves the package as it was. -/
def readsAs (s : State) (r : FabRd) : Bool :=
  match r with
  | .ok t _ bad => !bad && decide (t = s)
  | _ => false
/-- A translation of 512 GiB of residuals from 2 TiB on. -/
def rTlb (n : Nat) : Tlb := ⟨probeRoot, 2 ^ 29 + n * 2 ^ 27, 27, 0, false, false, true, false⟩
/-- The probe's translation, beside that of the residuals or alone, and nothing on its way. -/
def OpenPackage (s : State) : Prop :=
  s.lines = [] ∧ (coreOf s 512 = { Core.init with stlb := [probeTlb] } ∨ coreOf s 512 = { Core.init with stlb := [rTlb 0, rTlb 1, probeTlb] }) ∧ s.fails = [] ∧ s.faults = [] ∧ s.reqs = [] ∧ s.merges = [] ∧
  keyRoot s 1 = some probeRoot
theorem dieXlate_hit (s : State) (who : Who) (va : Nat) (t : Tlb) (hf : s.fails = []) (hq : s.faults = []) (hx : ¬ vaTop ≤ va)
    (ht : tlbLookup (coreOf s 512) false 4 probeRoot (va / 4096) = some t) (hw : t.w = true) (hc : t.closing = false)
    (he : paExists s (tlbPa t va) = true) : dieXlate s 0 probeRoot 1 va 1 who = .ok (tlbPa t va) t.bar := by
  unfold dieXlate translate
  simp [hf, hx, faultPending, hq, ht, hw, hc, he]
theorem host_open (s : State) (h : OpenPackage s) (a : Nat) (ha : 0xF000000000000 ≤ a) (hb : a < 0xF800000000000) :
    inLocal a = false ∧ inQuad a = false ∧ ∃ pa bar, dieXlate s 0 probeRoot 1 a 1 (.fp 0 0) = .ok pa bar ∧
      isHbm (128 * (pa / 128)) = false ∧ dieWaits s 0 a (pa / 128) = false := by
  obtain ⟨hl, hc, hf, hq, hr, hm, -⟩ := h
  have hv : 0 / 2 ^ 45 = a / 4096 / 2 ^ 45 := by omega
  have hp : tlbPa probeTlb a = a := by simp only [tlbPa, probeTlb]; omega
  have hh : isHbm (128 * (a / 128)) = false := by
    unfold isHbm; exact decide_eq_false (by unfold hbmTop; omega)
  have he : paExists s a = true := by
    have : isHost a = true := by simp [isHost, hostLo, hostTop, ha, hb]
    simp [paExists, this]
  have h1 : ¬ localLo ≤ a := by unfold localLo; omega
  have h2 : ¬ quadLo ≤ a := by unfold quadLo; omega
  refine ⟨by simp [inLocal, h1], by simp [inQuad, h2], a, false, ?_, hh, ?_⟩
  · have hx : ¬ vaTop ≤ a := by unfold vaTop; omega
    have ht : tlbLookup (coreOf s 512) false 4 probeRoot (a / 4096) = some probeTlb := by
      have c0 : tlbCovers (rTlb 0) probeRoot (a / 4096) = false := by
        simp only [tlbCovers, rTlb, beq_self_eq_true, Bool.true_and, beq_eq_false_iff_ne]; omega
      have c1 : tlbCovers (rTlb 1) probeRoot (a / 4096) = false := by
        simp only [tlbCovers, rTlb, beq_self_eq_true, Bool.true_and, beq_eq_false_iff_ne]; omega
      have c2 : tlbCovers probeTlb probeRoot (a / 4096) = true := by simp [tlbCovers, probeTlb]; omega
      rcases hc with hc | hc <;> rw [hc] <;> simp [tlbLookup, tlbFind, Core.init, mapGet, mapFind, c0, c1, c2]
    have := dieXlate_hit s (.fp 0 0) a probeTlb hf hq hx ht rfl rfl (by rw [hp]; exact he)
    rw [hp] at this
    exact this
  · simp [dieWaits, fillWaits, sentBefore, dropBefore, hh, hr, hm]
theorem fpWrite_open (s : State) (h : OpenPackage s) (a : Nat) (bytes : List Byte) (ha : 0xF000000000000 ≤ a)
    (hb : a + bytes.length ≤ 0xF800000000000) : ∃ t, fpWrite s 0 oFp a bytes = .ok t ∧ BytesApart s t := by
  unfold fpWrite
  rw [show keyRoot s oFp.key = some probeRoot from h.2.2.2.2.2.2]
  exact fabWrite_host s 0 probeRoot 1 (.fp 0 0) a bytes h.1 (fun x hx hy => host_open s h x (by omega) (by omega))
theorem readsAs_ok {s : State} {r : FabRd} (h : readsAs s r = true) : ∃ b, r = .ok s b false := by
  unfold readsAs at h
  split at h
  · simp only [Bool.and_eq_true, Bool.not_eq_true', decide_eq_true_eq] at h
    obtain ⟨rfl, rfl⟩ := h
    exact ⟨_, rfl⟩
  · simp at h

theorem natToBytes_length : ∀ k n : Nat, (natToBytes k n).length = k
  | 0, _ => rfl
  | k + 1, n => by simp [natToBytes, natToBytes_length k]
theorem bytesOfF32s_length (xs : List Nat) : (bytesOfF32s xs).length = 4 * xs.length := by
  unfold bytesOfF32s
  induction xs with
  | nil => rfl
  | cons x xs ih => simp [natToBytes_length, ih]; omega
theorem addTiles_length (a b : List Nat) : (addTiles a b).length ≤ a.length := by
  simp [addTiles]
theorem f32sOf_length (b : List Byte) (n : Nat) : (f32sOf b n).length = n := by simp [f32sOf]
theorem blockWire_length (b : CodedBlock) : (blockWire .ternary b).length = 12 := by simp [blockWire, natToBytes_length]
theorem flatMap_length {α β : Type} (f : α → List β) (n : Nat) (l : List α) (h : ∀ x, (f x).length = n) : (l.flatMap f).length = n * l.length := by
  induction l with
  | nil => simp
  | cons x l ih => simp only [List.flatMap_cons, List.length_append, h, ih, List.length_cons, Nat.mul_add]; omega

/-- One tile of 1,024 coded bytes decoded. -/
def decDesc : List Nat := [1, 0xF000000100000, 0xF000000200000, 0, 2 ^ 48]
def decState : State := oState decDesc
theorem wit_dec : TrelixAt decState 0 oFp (xt dWordOf) ∧ DescAt decState decState 0 oFp (xt dWordOf) 40 (dBytes decDesc 40) ∧
    bitsAt (dWord (dBytes decDesc 40) 4) 48 16 = 1 ∧
    fpWaits decState 0 oFp [(0xF000000100000, tileBytes .sign * 1, 0), (0xF000000200000, 16384 * 1, 1)] = none ∧
    readsAs decState (fpRead decState 0 oFp (0xF000000100000 + tileBytes .sign * 0) (tileBytes .sign)) = true := by
  unfold TrelixAt DescAt; decide +kernel
theorem wit_openDec : OpenPackage decState := by unfold OpenPackage; decide +kernel
theorem decStep_ok {s u : State} {k : Nat} {f : Fp} {c : GCode} {src dst : Nat} {b : List Byte}
    (hr : fpRead s k f (src + tileBytes c * 0) (tileBytes c) = .ok s b false)
    (hw : fpWrite s k f (dst + 16384 * 0) (bytesOfF32s (decodeTile c b 128).1) = .ok u) :
    tilesRun 1 s (decStep k f c src dst) = .ok u (0 + (decodeTile c b 128).2) := by
  simp only [Nat.mul_zero, Nat.add_zero] at hr hw
  simp [tilesRun, decStep, tileRead, tileWrite, hr, hw, List.range_one]
theorem decodeSign_length (b : List Byte) : (bytesOfF32s (decodeTile .sign b 128).1).length = 16384 := by
  rw [bytesOfF32s_length]; simp only [decodeTile]; rw [flatMap_length _ 32 _ (by simp)]; simp
theorem wit_decRuns : ∃ s' v, tilesRun 1 decState (decStep 0 oFp .sign 0xF000000100000 0xF000000200000) = .ok s' v := by
  obtain ⟨b, hb⟩ := readsAs_ok wit_dec.2.2.2.2
  obtain ⟨u, hu, -⟩ := fpWrite_open decState wit_openDec (0xF000000200000 + 16384 * 0) (bytesOfF32s (decodeTile .sign b 128).1) (by omega)
    (by rw [decodeSign_length]; omega)
  exact ⟨u, _, decStep_ok hb hu⟩
/-- The same tile of a source added to the destination's. -/
def saddDesc : List Nat := [0xF000000100000, 1, 0xF000000200000, 0, 0, 0, 0, 0, 0, 0, 1]
def saddState : State := oState saddDesc
theorem wit_sadd : TrelixAt saddState 0 oFp (xt dWordOf) ∧ DescAt saddState saddState 0 oFp (xt dWordOf) 88 (dBytes saddDesc 88) ∧
    fpWaits saddState 0 oFp [(0xF000000100000, 16384 * 1, 1), (0xF000000200000, 16384 * 1, 0)] = none := by unfold TrelixAt DescAt; decide +kernel
theorem wit_saddReads : readsAs saddState (fpRead saddState 0 oFp (0xF000000100000 + 16384 * 0) 16384) = true ∧
    readsAs saddState (fpRead saddState 0 oFp (0xF000000200000 + 16384 * 0) 16384) = true := by decide +kernel
theorem wit_openSadd : OpenPackage saddState := by unfold OpenPackage; decide +kernel
theorem saddRun_ok {s u : State} {k : Nat} {f : Fp} {dst a : Nat} {b c : List Byte} (hb : fpRead s k f (dst + 16384 * 0) 16384 = .ok s b false)
    (hc : fpRead s k f (a + 16384 * 0) 16384 = .ok s c false)
    (hw : fpWrite s k f (dst + 16384 * 0) (bytesOfF32s (addTiles (f32sOf b 4096) (f32sOf c 4096))) = .ok u) :
    saddRun k f dst [a] 1 s = some u := by
  simp only [Nat.mul_zero, Nat.add_zero] at hb hc hw
  simp [saddRun, sumTiles, hb, hc, hw, List.range_one]
theorem addedTile_length (b c : List Byte) : (bytesOfF32s (addTiles (f32sOf b 4096) (f32sOf c 4096))).length ≤ 16384 := by
  have := addTiles_length (f32sOf b 4096) (f32sOf c 4096)
  rw [f32sOf_length] at this
  rw [bytesOfF32s_length]
  omega
theorem wit_saddRuns : ∃ s', saddRun 0 oFp 0xF000000100000 [0xF000000200000] 1 saddState = some s' := by
  obtain ⟨b, hb⟩ := readsAs_ok wit_saddReads.1
  obtain ⟨c, hc⟩ := readsAs_ok wit_saddReads.2
  obtain ⟨u, hu, -⟩ := fpWrite_open saddState wit_openSadd (0xF000000100000 + 16384 * 0) (bytesOfF32s (addTiles (f32sOf b 4096) (f32sOf c 4096)))
    (by omega) (by have := addedTile_length b c; omega)
  exact ⟨u, saddRun_ok hb hc hu⟩
/-! A residual object at 2 TiB of a package whose translation maps the object's whole range into HBM4E, wherever its tiles stand there. -/
def encObj : ResObj := ⟨probeRoot, 2 ^ 41, [], false, []⟩
def withObject (s : State) : State :=
  { s with cores := mapPut s.cores 512 { Core.init with stlb := [rTlb 0, rTlb 1, probeTlb] }, fab := { s.fab with resid := [encObj] } }
/-- Such a package: the object stands there, nothing is poisoned. -/
def ObjectOpen (s : State) : Prop :=
  s.lines = [] ∧ coreOf s 512 = { Core.init with stlb := [rTlb 0, rTlb 1, probeTlb] } ∧ s.fails = [] ∧ s.faults = [] ∧
  s.mg.failedDies = [] ∧ s.fab.resid = [encObj] ∧ keyRoot s 1 = some probeRoot
theorem lookupTwo (v k : Nat) (hk : k < 2) (c0 : tlbCovers (rTlb 0) probeRoot v = decide (k = 0))
    (c1 : tlbCovers (rTlb 1) probeRoot v = decide (k = 1)) :
    tlbLookup { Core.init with stlb := [rTlb 0, rTlb 1, probeTlb] } false 4 probeRoot v = some (rTlb k) := by
  have : k = 0 ∨ k = 1 := by omega
  rcases this with rfl | rfl <;> simp [tlbLookup, tlbFind, Core.init, mapGet, mapFind, c0, c1]
theorem objectPage (s : State) (h : ObjectOpen s) (who : Who) (n : Nat) : ∃ pa, dieXlate s 0 probeRoot 1 (2 ^ 41 + 4096 * (n % 2 ^ 28)) 1 who = .ok pa false ∧
    isHbm pa = true := by
  obtain ⟨hl, hc, hf, hq, -⟩ := h
  have hx : ¬ vaTop ≤ 2 ^ 41 + 4096 * (n % 2 ^ 28) := by unfold vaTop; omega
  have hv : (2 ^ 41 + 4096 * (n % 2 ^ 28)) / 4096 = 2 ^ 29 + n % 2 ^ 28 := by omega
  let k : Nat := n % 2 ^ 28 / 2 ^ 27
  have hk : k < 2 := by omega
  have ht : tlbLookup (coreOf s 512) false 4 probeRoot (2 ^ 29 + n % 2 ^ 28) = some (rTlb k) := by
    rw [hc]
    exact lookupTwo _ k hk
      (by simp only [tlbCovers, rTlb, beq_self_eq_true, Bool.true_and, beq_eq_decide]; congr 1; simp only [eq_iff_iff]; omega)
      (by simp only [tlbCovers, rTlb, beq_self_eq_true, Bool.true_and, beq_eq_decide]; congr 1; simp only [eq_iff_iff]; omega)
  have hp : isHbm (tlbPa (rTlb k) (2 ^ 41 + 4096 * (n % 2 ^ 28))) = true := by
    unfold isHbm; exact decide_eq_true (by simp only [hbmTop, tlbPa, rTlb]; omega)
  have he : ∀ pa, isHbm pa = true → paExists s pa = true := fun pa hpa => by simp [paExists, hpa]
  have hk2 : (rTlb k).bar = false := rfl
  have hd := dieXlate_hit s who (2 ^ 41 + 4096 * (n % 2 ^ 28)) (rTlb k) hf hq hx (by rw [hv]; exact ht) rfl rfl (he _ hp)
  rw [hk2] at hd
  exact ⟨_, hd, hp⟩
theorem goodLine (s : State) (h : ObjectOpen s) (line : Nat) : badLine s line = false := by
  obtain ⟨hl, -, -, -, hd, -⟩ := h
  simp [badLine, homeOf, hl, mapGet, mapFind, HomeLine.init, hd]
theorem objectAt (s : State) (h : ObjectOpen s) (who : Who) (ks : List (Nat × Nat × Nat)) (rd : Bool) :
    residAt s 0 probeRoot 1 who (2 ^ 41) ks rd = .ok s encObj := by
  have hall : ∀ a ∈ (2 ^ 41 :: residPages (2 ^ 41) ks), ∃ pa, dieXlate s 0 probeRoot 1 a 1 who = .ok pa false ∧ isHbm pa = true := by
    intro a ha
    rcases List.mem_cons.1 ha with rfl | ha
    · exact objectPage s h who 0
    · simp only [residPages, List.mem_flatMap, List.mem_map] at ha
      obtain ⟨k, -, i, -, rfl⟩ := ha
      exact objectPage s h who _
  choose! g hg using hall
  exact residAt_known rd g hg (goodLine s h) (by rw [h.2.2.2.2.2.1]; decide) rfl
theorem wit_residReady (s : State) (h : ObjectOpen s) (ks : List (Nat × Nat × Nat)) (rd : Bool) :
    ResidReady s s 0 oFp (2 ^ 41) probeRoot ks rd encObj := ⟨by decide, h.2.2.2.2.2.2, objectAt s h _ ks rd⟩
theorem residTile_new (s : State) (key : Nat × Nat × Nat) : residTile s encObj key = (s, List.replicate 4096 0) := rfl
/-- One tile compressed into the object's tile (3, 0, 1). -/
def encDesc : List Nat := [2, 0xF000000100000, 0xF000000200000, 2 ^ 41, 2 ^ 48 + 3, 1]
def encState : State := withObject (oState encDesc)
theorem wit_enc : TrelixAt encState 0 oFp (xt dWordOf) ∧ DescAt encState encState 0 oFp (xt dWordOf) 48 (dBytes encDesc 48) ∧
    fpWaits encState 0 oFp [(0xF000000100000, 16384 * 1, 0), (0xF000000200000, tileBytes .ternary * 1, 1), (2 ^ 41, 1, 1)] = none := by
  unfold TrelixAt DescAt; decide +kernel
theorem wit_encRead : readsAs encState (fpRead encState 0 oFp (0xF000000100000 + 16384 * 0) 16384) = true := by decide +kernel
theorem wit_objectEnc : ObjectOpen encState ∧ OpenPackage encState := by unfold ObjectOpen OpenPackage; decide +kernel
theorem encStep_ok {s u : State} {k : Nat} {f : Fp} {c : GCode} {src dst obj root : Nat} {key : Nat → Nat × Nat × Nat} {b : List Byte} {o : ResObj}
    {z : List Nat} (hr : fpRead s k f (src + 16384 * 0) 16384 = .ok s b false)
    (ho : s.fab.resid.find? (fun o => o.root == root && o.va == obj) = some o) (hz : residTile s o (key 0) = (s, z))
    (hw : fpWrite s k f (dst + tileBytes c * 0) (encodeTile c (addTiles (f32sOf b 4096) z)).1 = .ok u) :
    ∃ s' v, tilesRun 1 s (encStep k f c src dst obj root key) = .ok s' v := by
  simp only [Nat.mul_zero, Nat.add_zero] at hr hw
  simp [tilesRun, encStep, tileRead, tileWrite, hr, ho, hz, hw, List.range_one]
theorem encodedTile_length (b : List Byte) (z : List Nat) : (encodeTile .ternary (addTiles (f32sOf b 4096) z)).1.length ≤ 1536 := by
  have := addTiles_length (f32sOf b 4096) z
  rw [f32sOf_length] at this
  simp only [encodeTile]
  rw [flatMap_length _ 12 _ blockWire_length]
  simp only [List.length_map, List.length_range]
  omega
theorem wit_encRuns : ∃ s' v, tilesRun 1 encState (encStep 0 oFp .ternary 0xF000000100000 0xF000000200000 (2 ^ 41) probeRoot (fun _ => (3, 0, 1))) = .ok s' v := by
  obtain ⟨b, hb⟩ := readsAs_ok wit_encRead
  obtain ⟨u, hu, -⟩ := fpWrite_open encState wit_objectEnc.2 (0xF000000200000 + tileBytes .ternary * 0)
    (encodeTile .ternary (addTiles (f32sOf b 4096) (List.replicate 4096 0))).1 (by omega)
    (by have := encodedTile_length b (List.replicate 4096 0); omega)
  exact encStep_ok (key := fun _ => (3, 0, 1)) hb (by rw [wit_objectEnc.1.2.2.2.2.2.1]; decide) (residTile_new encState (3, 0, 1)) hu
/-- `rld` and `rst` of tile (5, 0, 0); `rsave` and `rload` of an object of no tile, whose image is eight zero bytes. -/
def rldDesc : List Nat := [2 ^ 41, 5, 0xF000000200000]
def rldState : State := withObject (oState rldDesc)
theorem wit_objectRld : ObjectOpen rldState ∧ OpenPackage rldState := by unfold ObjectOpen OpenPackage; decide +kernel
theorem wit_residuals : TrelixAt rldState 0 oFp (xt dWordOf) ∧ DescAt rldState rldState 0 oFp (xt dWordOf) 24 (dBytes rldDesc 24) ∧
    readsAs rldState (fpRead rldState 0 oFp 0xF000000200000 16384) = true := by unfold TrelixAt DescAt; decide +kernel
theorem wit_rld : ResidReady rldState rldState 0 oFp (2 ^ 41) probeRoot [(5, 0, 0)] true encObj ∧
    ResidReady rldState rldState 0 oFp (2 ^ 41) probeRoot [(5, 0, 0)] false encObj ∧
    ∃ s', fpWrite (residTile rldState encObj (5, 0, 0)).1 0 oFp 0xF000000200000 (bytesOfF32s (residTile rldState encObj (5, 0, 0)).2) = .ok s' := by
  refine ⟨wit_residReady _ wit_objectRld.1 _ _, wit_residReady _ wit_objectRld.1 _ _, ?_⟩
  obtain ⟨u, hu, -⟩ := fpWrite_open rldState wit_objectRld.2 0xF000000200000 (bytesOfF32s (List.replicate 4096 0)) (by omega)
    (by rw [bytesOfF32s_length, List.length_replicate]; omega)
  exact ⟨u, hu⟩
def rsFp : Fp := xFp (2 ^ 41) 0xF000000060000 0 0
def rsTest : State := withObject (xState rsFp dWordOf)
theorem wit_objectSave : ObjectOpen rsTest := by unfold ObjectOpen; decide +kernel
theorem wit_residualImage : ResidReady rsTest rsTest 0 oFp (2 ^ 41) probeRoot (residKeys rsTest probeRoot (2 ^ 41)) true encObj ∧
    compressesIn rsTest probeRoot (2 ^ 41) = false ∧ readsAs rsTest (fpRead rsTest 0 rsFp 0xF000000060000 8) = true ∧
    readsAs rsTest (fpRead rsTest 0 rsFp 0xF000000060008 0) = true ∧
    (match fpWrite (residAll rsTest encObj).1 0 rsFp 0xF000000060000 (natToBytes 8 0) with
     | .ok s' => nextIs (exec .trelixRsave rsTest) (fpReported s' 0 rsFp 1 0 0)
     | _ => false) = true ∧
    nextIs (exec .trelixRload rsTest) (fpReported (putResid rsTest encObj) 0 rsFp 1 0 0) = true := by
  refine ⟨wit_residReady _ wit_objectSave _ _, ?_⟩
  decide +kernel
/-- A template for group 8 over an empty table at 0x90000. -/
def newDesc : List Nat := [2 * 2 ^ 54 + 8, 1 + 4 * 2 ^ 32, 0, 0xA0000, 1 + 5 * 2 ^ 32, 0xB0000, 0xC0000, 0]
def gnewState : State := let s := dState dFp dWordOf newDesc; { s with fe := { s.fe with regs := mapPut s.fe.regs 0x5100 0x90000 } }
theorem wit_gnew : DescAt gnewState (descRead gnewState 128) 0 dFp (xt dWordOf) 128 (dBytes newDesc 128) ∧ groupTable (descRead gnewState 128) 0 = 0x90000 ∧
    templateBad (dWord (dBytes newDesc 128)) (groupOfWords 0 (dWord (dBytes newDesc 128))) = false ∧
    (List.range 1024).find? (fun i => !bitAt (homeRead gnewState (groupTable gnewState 0 + 128 * i) 8) 63 ||
        bitsAt (homeRead gnewState (groupTable gnewState 0 + 128 * i) 8) 61 2 == 2) = some 0 ∧ rdOk (fpRead (descRead gnewState 128) 0 dFp 0xC0000 16) = true ∧
    bytesRead (fpRead (descRead gnewState 128) 0 dFp 0xC0000 16) = List.replicate 16 0 := by
  unfold DescAt; decide +kernel
theorem wit_gnewTable : findGroup gnewState 0 8 = none := by decide +kernel
theorem wit_gnewSound : tableBad (descRead gnewState 128) 0 8 = false := by decide +kernel
theorem test_gnew : nextIs (exec .trelixGnew gnewState) (fpReported (homeWrite (readState (fpRead (descRead gnewState 128) 0 dFp 0xC0000 16)) 0x90000
    (([2 ^ 63 + 2 * 2 ^ 54 + 8, 1 + 4 * 2 ^ 32, 0, 0xA0000, 1 + 5 * 2 ^ 32, 0xB0000, 0xC0000, 0, 0, 0, 0, 0, 0, 0, 0, 0]).flatMap (natToBytes 8))) 0 dFp 1 0 0) = true := by
  decide +kernel
def gretFp : Fp := { dFp with wait := .drain 9 }
def gretState (st : Nat) : State := let s := xState gretFp dWordOf; { s with fab := { s.fab with drains := [(9, ⟨0, 7, 100, 0, st⟩)] } }
theorem wit_gret : ∀ p ∈ [(1, 0), (2, 4)], nextIs (exec .trelixGret (gretState p.1))
    (fpReported { gretState p.1 with fab := { (gretState p.1).fab with drains := [] } } 0 gretFp 1 p.2 0) = true := by decide +kernel
def gwFp : Fp := xFp 0x50010 0x123 0 0
def gwState : State := xState gwFp dWordOf
theorem wit_gwatch : fpXlate gwState 0 gwFp 0x50010 1 = .ok 0x50010 false ∧ isHbm 0x50010 = true ∧ dieOfPa 0x50010 = 0 ∧ dieWaits gwState 0 0x50010 (0x50010 / 128) = false ∧
    (homeOf gwState (0x50010 / 128)).counted = false ∧
    nextIs (exec .trelixGwatch gwState) (fpReported (setWaiter { gwState with fab := { gwState.fab with watch := [(0x50010, [0x123])] } } (whoWriter gwState 0 (.fp 0 0) 0x50010) 0x50010 1 true)
      0 gwFp 1 0 0) = true := by decide +kernel
/-- A valid global barrier at 0x50000, in phase 5, that expects 4 arrivals. -/
def gbState (x3 : Word64) : State :=
  let s := xState (xFp 0x50000 x3 0 0) dWordOf
  let s := { s with cores := mapPut s.cores 512 { coreOf s 512 with stlb := [{ probeTlb with bar := true }] } }
  writeBar s (.mem 0x50000) { barImage with phase := 5, base := 0, expbytes := 0 }
theorem wit_trelixBarrier : BarrierAt (gbState 4) 0 (xFp 0x50000 4 0 0) (xt dWordOf) 0 0x50000 ∧
    BarrierAt (gbState 4) 0 (xFp 0x50000 4 0 0) (xt dWordOf) 1 0x50000 ∧
    waitEnds (readBar (gbState 4) (.mem 0x50000)) 4 0 := by unfold BarrierAt waitEnds; decide +kernel
theorem test_trelixBarrier :
    nextIs (exec .trelixBwait (gbState 4)) (fpReported (learn (gbState 4) (fpAgent 0) []) 0 (xFp 0x50000 4 0 0) 1 0 0) = true ∧
    nextIs (exec .trelixBarr (gbState 4)) (fpReported (writeBar (coverPhase (publish (gbState 4) (fpAgent 0)).1 (barKey (.mem 0x50000)) (publish (gbState 4) (fpAgent 0)).2) (.mem 0x50000) { barImage with phase := 6, base := 0, expbytes := 0 })
      0 (xFp 0x50000 4 0 0) 1 0 0) = true ∧
    nextIs (exec .trelixBland (gbState 4)) (fpReported (writeBar (coverPhase (publish (gbState 4) (fpAgent 0)).1 (barKey (.mem 0x50000)) (publish (gbState 4) (fpAgent 0)).2) (.mem 0x50000) { barImage with olast := true, phase := 6, base := 0, expbytes := 0 })
      0 (xFp 0x50000 4 0 0) 1 0 0) = true := by decide +kernel
/-- A home at 0x50000 for 1 block: state, C, step, received bits. -/
def homeDesc (st c step : Nat) : List Nat :=
  [2 ^ 63 + st * 2 ^ 61 + c, step + 2 ^ 32, 0x8000000000000, 0x200000, 0x300000, 0x310000, 0x320000, 0x330000,
   10 * 2 ^ 60 + 9 * 2 ^ 56 + 3 * 2 ^ 48, 0, 7, 0, 0, 0, 0, 0]
def hFp (x3 : Word64) : Fp := xFp 0x50000 x3 0 0
def homeState (st c step : Nat) (x3 : Word64) (received : Nat) : State :=
  homeWrite (dState (hFp x3) dWordOf (homeDesc st c step)) 0x50200 (natToBytes 8 received)
def homeBytes (st c step received : Nat) : List Byte :=
  (homeDesc st c step).flatMap (natToBytes 8) ++ List.replicate 384 0 ++ natToBytes 8 received ++ List.replicate 504 0
theorem wit_homes : HomeAt (homeState 1 4 5 5 1) (readState (fpRead (homeState 1 4 5 5 1) 0 (hFp 5) 0x50000 1024)) 0 (hFp 5) (xt dWordOf) (homeBytes 1 4 5 1) := by
  unfold HomeAt DescAt
  refine ⟨by decide +kernel, by decide +kernel, 0x50000, 0x503FF, false, false, by decide +kernel⟩
theorem wit_homeFields : (let h := homeOfBytes (homeBytes 0 4 4 0)
      h.state = 0 ∧ h.valid = true ∧ h.rule = 0 ∧ homeSlotOk h.slot = true ∧ h.nb = 1 ∧ h.c = 4 ∧ h.params = 0x330000) ∧
    (let h := homeOfBytes (homeBytes 1 4 5 1)
     h.state = 1 ∧ h.step = 5 ∧ ∀ i, i < h.nb → bitAt h.received i = true) ∧ (homeOfBytes (homeBytes 2 4 5 1)).state = 2 ∧
    rdOk (fpRead (homeState 0 4 4 5 0) 0 (hFp 5) 0x330000 36) = true := by decide +kernel
/-- R374 to R375 by hand: `hopen` of step 5 after step 4, `hclose`, `hcommit` of it, `habort`: the state field and C or step. -/
def homeAfter (i : Instr) (s : State) : Option (Word64 × Nat × Nat × Nat × Nat) :=
  match exec i s with
  | .next u => some (xRead (fpOf u 0) 1, bitsAt (homeRead u 0x50000 8) 61 2, homeRead u 0x50000 4, homeRead u 0x50008 4, homeRead u 0x50078 4)
  | _ => none
theorem test_hopen : homeAfter .trelixHopen (homeState 0 4 4 5 0) = some (0, 1, 4, 5, 0) := by decide +kernel
theorem test_hclose : homeAfter .trelixHclose (homeState 1 4 5 5 1) = some (0, 2, 4, 5, 0) := by decide +kernel
theorem test_hcommit : homeAfter .trelixHcommit (homeState 2 4 5 5 1) = some (0, 0, 5, 5, 5) := by decide +kernel
theorem test_habort : homeAfter .trelixHabort (homeState 2 4 5 5 1) = some (0, 0, 4, 5, 0) := by decide +kernel
theorem test_habortIdle : homeAfter .trelixHabort (homeState 0 4 4 5 0) = some (0, 0, 4, 4, 0) := by decide +kernel
def wfFp : Fp := { dFp with wait := .fetch 9 }
def wfState : State := let s := xState wfFp dWordOf
  { s with fab := { s.fab with fetches := [(9, ⟨0, 0, 0, 0, 0, 1, 0x50000, 0, 0, 0, 0, 1, 0, some 0x500000000⟩)] } }
theorem wit_wfetch : nextIs (exec .trelixWfetch wfState) (fpAfter { wfState with fab := { wfState.fab with fetches := [] } } 0
    (xWrite wfFp 1 0x500000000) 0x10004) = true := by decide +kernel
/-- `upd` of block 0 of step 5 with a tile of no element: the fields that the rule asks for. -/
def updState : State := let s := homeState 1 4 5 5 0
  { s with fab := { s.fab with inbox := [(16 * 7, [(0, 5, [])])], params := [(0x50000, [0, 0, 0])] }, mg := { s.mg with tier := 0x10000 } }
theorem wit_upd : HomeAt updState (readState (fpRead updState 0 (hFp 5) 0x50000 1024)) 0 (hFp 5) (xt dWordOf) (homeBytes 1 4 5 0) := by
  unfold HomeAt DescAt
  refine ⟨by decide +kernel, by decide +kernel, 0x50000, 0x503FF, false, false, by decide +kernel⟩
theorem wit_updFields : mapGet [] updState.fab.inbox (inboxKey 7 0) = (0, 5, []) :: [] ∧ 5 = (homeOfBytes (homeBytes 1 4 5 0)).step % 2 ^ 16 ∧
    bitAt (homeOfBytes (homeBytes 1 4 5 0)).received 0 = false ∧
    fpWaits updState 0 (hFp 5) [(0x8000000000000, 49152, 0), (0x200000, 32768, 1), (0x320000, weightBytes (homeOfBytes (homeBytes 1 4 5 0)).slot, 1)] = none ∧
    (writesRun updState 0 (hFp 5) [(0x200000, []), (0x204000, []), (0x320000, [])]).2 = true := by decide +kernel
/-- The old image, in the second tier, is read whole. -/
theorem wit_updImage : rdOk (fpRead updState 0 (hFp 5) 0x8000000000000 49152) = true := by decide +kernel
/-- R377 by hand, SGD: w = 1, g = 1, m = 0, η = 0.5, λ = 0, μ = 0 gives w = 0.5 and m = 1. -/
theorem test_optimiser : homeRule 0 [0x3F000000, 0, 0] 0x3F800000 0x3F800000 0 7 = (0x3F000000, 0x3F800000, 7) := by decide +kernel

/-! ### The homes, the quad stops and what comes back -/

/-- The probe's machine, its event about work `i`. -/
def hEv (i : Nat) (s : State) : State := { s with cur := { s.cur with x := { s.cur.x with id := i } } }
def evCore (g a : Nat) (s : State) : State := { s with cur := { s.cur with x := { s.cur.x with core := g, a := a } } }
def lfLoad : Load := mkLoad 1 (.s 4) 1 true [⟨0, 0x30000, some 0x80⟩] 0
def lvLoad : Load := mkLoad 1 (.v 7 false) 2 false [⟨3, 0x30000, some 0x8001⟩, ⟨5, 0x30002, some 2⟩] 0
def emptied : Span := vMarkEmpty (sMarkEmpty zSpan 4) 7
def lfState (ld : Load) : State := hEv 40 { putSpan zState 1 emptied with loads := [(40, ld)] }
theorem wit_loadFill : (∀ ld ∈ [lfLoad, lvLoad], (lfState ld).cur.x.id = 40 ∧ mapFind (lfState ld).loads 40 = some ld ∧
      spanOf (lfState ld) ld.uid = some emptied ∧ ld.waits = 0 ∧ (∀ x ∈ ld.lanes, x.got.isSome = true) ∧ ld.poison = false) ∧
    emptied.pend ≠ .consume 40 ∧ emptied.live ≠ 0 ∧ emptied.acquiring = none ∧
    (lvLoad.lanes.map LaneRead.lane).Nodup ∧ (∀ x ∈ lvLoad.lanes, x.lane < 32) ∧
    ((lfState lvLoad).loads.any (fun q => q.1 != 40 && q.2.uid == lvLoad.uid && q.2.dest == lvLoad.dest)) = false := by decide +kernel
theorem test_loadFill :
    nextIs (exec .loadFill (lfState lfLoad)) (putSpan { lfState lfLoad with loads := [] } 1 (sFill emptied 4 0xFFFFFFFFFFFFFF80)) = true ∧
    nextHas (exec .loadFill (lfState lvLoad)) (fun t => match spanOf t 1 with
      | some sp => decide (t = putSpan { lfState lvLoad with loads := [] } 1 sp ∧ vFull sp 7 = true ∧ vRead sp 7 3 = 0x8001 ∧ vRead sp 7 5 = 2)
      | none => false) = true := by decide +kernel
def popLoad : Load := { mkLoad 1 (.s 4) 8 false [⟨0, 0, none⟩, ⟨1, 0, none⟩] 1 with fifo := some 1 }
def popState : State := evCore 0 1 { fifoState with loads := [(40, popLoad)] }
theorem wit_popFill : firstPop popState 0 1 = some (40, popLoad) ∧ popLoad.lanes.length ≤ (bankOf (coreOf popState 0) 1).ring.length ∧
    nextHas (exec .fifoPopFill popState) (fun t => decide ((bankOf (coreOf t 0) 1).ring = [7] ∧
      (mapFind t.loads 40).map (fun l => l.lanes.map LaneRead.got) = some [some 0x55667788, some 0x11223344])) = true := by decide +kernel
def prSpan (q : List Block) : Span := { zSpan with pend := .push 1 [8, 9], queue := q }
def prState (q : List Block) : State := hEv 1 (tState (prSpan q))
theorem wit_pushResume : ∀ q ∈ [[], [probeBlock]], spanOf (prState q) 1 = some (prSpan q) ∧ (bankOf (coreOf (prState q) 0) 1).switch = [] ∧
    (let s1 := { prState q with cur := { (prState q).cur with uid := 1, lane := !q.isEmpty } }
     nextIs (exec .fifoPushResume (prState q)) (putSpan (putBank s1 0 1 { bankOf (coreOf s1 0) 1 with ring := [8, 9] }) 1
      (if q.isEmpty then advance { prSpan q with pend := .none } else advancePass { prSpan q with pend := .none }))) = true := by decide +kernel
/-- The oldest switch of bank 1, at the barrier at scratch offset 0x40; R167: it completes with one arrival. -/
def swState : State :=
  let s := evCore 0 1 kmState
  putBank s 0 1 { bankOf (coreOf s 0) 1 with mode := .scratch, switch := [⟨0x01FFFFFFFFF80040, 1, 3, [77], []⟩] }
theorem wit_switchComplete : (∀ j ∈ [77], isPerformed swState j = true) ∧
    (let t := putBank swState 0 1 { bankOf (coreOf swState 0) 1 with switch := [] }
     nextIs (exec .bankSwitchComplete swState) (landDeck t 3 0 0x01FFFFFFFFF80040 0 1 false [])) = true ∧
    nextHas (exec .bankSwitchComplete swState) (fun t => decide (readBar t bLoc = { barImage with arrivals := 1 })) = true := by decide +kernel
def pwReq : Req := { Req.init with core := 0, uid := 1, kind := .plain, line := 0x600, stage := .answered, filled := some 100 }
def pwState : State := hEv 41 { zState with cycle := 132, reqs := [(41, pwReq)] }
theorem wit_windowExpire : EventReq pwState 41 pwReq ∧ nextIs (exec .plainWindowExpire pwState) (delReq pwState 41) = true := by
  unfold EventReq; decide +kernel
def dirtyLine : L1Line := ⟨0x600, 0, 0xFF, 0xF, 0x11223344, 1, 0, [1], 50, false, [0x30000], [], [], 0⟩
def dlState : State := let s := evCore 0 0x600 { zState with cycle := 4146 }; putCore s 0 { coreOf s 0 with l1 := [dirtyLine] }
theorem wit_dirtyWriteback : l1Find (coreOf dlState 0) 0x600 = some dirtyLine ∧ dirtyLine.dirty ≠ 0 ∧
    nextHas (exec .dirtyLineWriteback dlState) (fun t => decide ((mapFind t.reqs dlState.nextId).map (fun q => (q.kind, q.line, q.mask, q.data)) =
      some (.storeData, 0x600, 0xF, 0x11223344) ∧ l1Find (coreOf t 0) 0x600 = some { dirtyLine with dirty := 0, checks := 0, by_ := [], writers := [] } ∧
      t.mem = dlState.mem)) = true := by decide +kernel
/-- Requests at the core's edge: a counted fill, a plain read that joins entry 45. -/
def qrReq (k : ReqKind) : Req := { Req.init with core := 0, uid := 1, kind := k, line := 0x600, stage := .core, loads := [40] }
def qsState (r : Req) : State := hEv 41 { zState with reqs := [(41, r)], merges := [(45, ⟨0, .plain, 0x600, [99], true⟩)] }
theorem wit_quadStop : EventReq (qsState (qrReq .cfill)) 41 (qrReq .cfill) ∧ (qrReq .plain).marker = false ∧
    nextIs (exec .quadMergeRequest (qsState (qrReq .cfill))) { putReq (nextUse (qsState (qrReq .cfill))) 41
      { qrReq .cfill with stage := .quad, left := (qsState (qrReq .cfill)).uses } with
      merges := mapPut (qsState (qrReq .cfill)).merges (qsState (qrReq .cfill)).nextId ⟨0, .cfill, 0x600, [41], false⟩
      nextId := (qsState (qrReq .cfill)).nextId + 1 } = true ∧
    nextIs (exec .quadMergeRequest (qsState (qrReq .plain))) { putReq (nextUse (qsState (qrReq .plain))) 41
      { qrReq .plain with stage := .quad, left := (qsState (qrReq .plain)).uses } with
      merges := [(45, ⟨0, .plain, 0x600, [99, 41], true⟩)] } = true := by unfold EventReq; decide +kernel
def rdReq : Req := { qrReq .plain with stage := .quad }
def rdLoad : Load := mkLoad 1 (.s 4) 8 false [⟨0, 0x30000, none⟩] 1
def rdState : State := hEv 45 { zState with reqs := [(41, rdReq)], merges := [(45, ⟨0, .plain, 0x600, [41], true⟩)], loads := [(40, rdLoad)], mem := [(0x30000, 9)] }
def rhState : State := hEv 41 { rdState with reqs := [(41, { rdReq with stage := .home })], merges := [] }
theorem wit_homeRead : EventMerge rdState 45 ⟨0, .plain, 0x600, [41], true⟩ ∧ mergeBefore rdState 45 ⟨0, .plain, 0x600, [41], true⟩ = false ∧ fillWaits rdState 0x600 0 = false ∧
    sentBefore rhState 0 0x30000 0x600 41 = false ∧
    nextIs (exec .homeRead rdState) (answerRead { homeTouch rdState 0x600 with merges := [] } 41 (homeLine rdState 0x600) (badLine rdState 0x600)) = true ∧
    nextIs (exec .homeRead rhState) (answerRead rhState 41 (homeLine rhState 0x600) (badLine rhState 0x600)) = true ∧
    nextHas (exec .homeRead rdState) (fun t => decide ((mapFind t.loads 40).map (fun l => (l.waits, l.lanes)) = some (0, [⟨0, 0x30000, some 9⟩]))) = true := by
  unfold EventMerge; decide +kernel
def countedHome : HomeLine := { HomeLine.init with counted := true, count := 250, tag := 3 }
def ccReq : Req := { Req.init with core := 0, uid := 1, kind := .cons, line := 0x600, stage := .quad, loads := [40] }
def ccState : State := { hEv 45 rdState with reqs := [(41, ccReq)], merges := [(45, ⟨0, .cons, 0x600, [41], true⟩)], lines := [(0x600, countedHome)] }
theorem wit_consume : EventMerge ccState 45 ⟨0, .cons, 0x600, [41], true⟩ ∧ (homeOf ccState 0x600).counted = true ∧ 0 < (homeOf ccState 0x600).count ∧
    (mapFind ccState.loads 40).isSome = true ∧ mergeBefore ccState 45 ⟨0, .cons, 0x600, [41], true⟩ = false ∧ fillWaits ccState 0x600 0 = false ∧
    nextHas (exec .homeConsumingAccess ccState) (fun t => decide (
      homeOf t 0x600 = { homeOf (homeTouch ccState 0x600) 0x600 with count := 249, busy := 1 } ∧ (homeOf t 0x600).counted = true ∧
      (mapFind t.loads 40).map Load.served = some [(0x600, false)] ∧ t.merges = [] ∧ homeRead t 0x30000 8 = 9)) = true := by
  unfold EventMerge; decide +kernel
def cfReq : Req := { ccReq with kind := .cfill, a := 10, b := 7 }
def cfState : State := { rdState with reqs := [(41, cfReq)], merges := [(45, ⟨0, .cfill, 0x600, [41], false⟩)] }
def cwState : State := hEv 41 { cfState with reqs := [(41, { cfReq with stage := .home })], merges := [] }
theorem wit_countedFill : (homeOf cfState 0x600).pend = 0 ∧ mergeBefore cfState 45 ⟨0, .cfill, 0x600, [41], false⟩ = false ∧ (homeOf cwState 0x600).pend = 0 ∧ fillWaits cfState 0x600 41 = false ∧ fillRoom cfState 0x600 = true ∧
    nextIs (exec .homeCountedFill cfState) (fillAnswer { cfState with merges := [] } 41 cfReq) = true ∧
    nextIs (exec .countedFillWaitEnd cwState) (fillAnswer cwState 41 { cfReq with stage := .home }) = true ∧
    homeOf (countedFill ccState 0x600 10 7 none) 0x600 = { countedHome with count := 255, tag := 7 } ∧ pinnedIn (homeTouch cfState 0x600) 0x600 < 8 ∧
    homeOf (countedFill cfState 0x600 10 7 none) 0x600 = { homeOf (homeTouch cfState 0x600) 0x600 with
      counted := true, count := 10, tag := 7, pinned := true, data := some 9 } := by
  decide +kernel
def scReq : Req := { Req.init with core := 0, uid := 1, kind := .storeCheck, line := 0x600, stage := .home }
def scState : State := hEv 41 { zState with reqs := [(41, scReq)] }
def sdReq : Req := { scReq with kind := .storeData, mask := 0x6, data := 0xCCBBAA }
def sdState : State := hEv 41 { zState with reqs := [(41, sdReq)], mem := [(0x30000, 1), (0x30001, 2)] }
def tierReq : Req := { sdReq with line := 0x8000000000000 / 128 }
def tierState : State := hEv 41 { zState with reqs := [(41, tierReq)], mg := { zState.mg with tier := 4096 } }
theorem wit_stores : EventReq scState 41 scReq ∧ EventReq sdState 41 sdReq ∧ isHbm (128 * 0x600) = true ∧ dataBefore sdState 0 sdReq.va 0x600 41 = false ∧
    isTier (128 * tierReq.line) = true ∧ dataBefore tierState 0 tierReq.va tierReq.line 41 = false ∧ atomicsBefore sdState sdReq 41 = false ∧
    atomicsBefore tierState tierReq 41 = false ∧ sdState.fab.resid = [] := by unfold EventReq; decide +kernel
theorem wit_storesWait : fillWaits sdState 0x600 41 = false ∧ fillWaits scState 0x600 41 = false ∧ sentBefore scState 0 scReq.va 0x600 41 = false ∧
    atomicsBefore sdState sdReq 41 = false := by decide +kernel
theorem test_stores :
    nextIs (exec .homeStoreCheck scState) (putReq (putHome scState 0x600 { HomeLine.init with pend := 1 }) 41 { scReq with stage := .answered }) = true ∧
    (let s := { scState with lines := [(0x600, countedHome)] }
     nextIs (exec .homeStoreCheck s) (putReq s 41 { scReq with stage := .answered, bad := true })) = true ∧
    nextHas (exec .homeStoreData sdState) (fun t => decide (homeRead t 0x30000 8 = 0xCCBB01 ∧ t.reqs = [])) = true ∧
    nextIs (exec .expanderCompletion tierState) (performStore tierState 41 tierReq) = true ∧
    nextIs (exec .hostFlushCompletion { zState with fe := { zState.fe with posted := [(1, [])] } }) zState = true := by decide +kernel
/-- R249 by hand: byte 0x30001 has a write of agent 2 with writer id 9, which the store's span does not know. A store of writer id 4 comes before it,
one of id 10 after it. -/
def cohOther : Written := ⟨9, 2, 0, 5, false, [], 0x30001⟩
def cohState (id : Int) : State :=
  let w : Writer := ⟨0x6, 0x30000, id, 1, 0, [], []⟩
  let s := hEv 41 { sdState with reqs := [(41, { sdReq with writers := [w] })] }
  { s with ord := { s.ord with stamp := 6, bytes := [(0x600, [(1, [cohOther])])] } }
theorem test_coherence :
    nextHas (exec .homeStoreData (cohState 4)) (fun t => decide (homeRead t 0x30000 4 = 0xCC0201)) = true ∧
    nextHas (exec .homeStoreData (cohState 10)) (fun t => decide (homeRead t 0x30000 4 = 0xCCBB01)) = true ∧
    (ordersAt (cohState 4) 0x30001).getLast? = some cohOther ∧
    knows [] 1 0x30001 cohOther = false ∧ knows [⟨2, 0, none⟩] 1 0x30001 cohOther = true := by decide +kernel
def haReq : Req := { Req.init with core := 0, uid := 1, kind := .atomic, line := 0x600, stage := .home, a := 4, width := 32, op := 0, b := 0xFFFFFFFF }
def haState (r : Req) : State := hEv 41 { zState with reqs := [(41, r)], mem := [(0x30004, 5), (0x30008, 6)] }
theorem wit_atomics : EventReq (haState haReq) 41 haReq ∧ EventReq (haState { haReq with stage := .quad }) 41 { haReq with stage := .quad } ∧
    orderBefore (haState haReq) 1 0x600 41 = false ∧ fillWaits (haState haReq) 0x600 41 = false ∧ sentBefore (haState haReq) 0 haReq.va 0x600 41 = false ∧
    dataBefore (haState { haReq with stage := .quad }) 0 haReq.va 0x600 41 = false ∧
    nextIs (exec .homeAtomic (haState haReq)) (putReq (putHome (haState haReq) 0x600 { HomeLine.init with pend := 1 }) 41 { haReq with stage := .answered }) = true ∧
    nextHas (exec .homeAtomic (haState { haReq with stage := .quad })) (fun t => decide (homeRead t 0x30004 4 = 4 ∧ homeRead t 0x30008 4 = 6 ∧
      homeRead t 0x30004 4 = atomFn 0 32 5 0xFFFFFFFF 0 % 2 ^ 32)) = true := by unfold EventReq; decide +kernel
def relReq : Req := { haReq with kind := .rel, stage := .quad, marker := true }
theorem wit_marker : mayClear (haState relReq) 41 relReq = true ∧ mayClear (haState { relReq with kind := .atomic }) 41 { relReq with kind := .atomic } = true ∧
    nextHas (exec .releaseMarkerClear (haState relReq)) (fun t => decide (homeRead t 0x30004 8 = 0x600000006 ∧ t.reqs = [])) = true ∧
    nextIs (exec .releaseMarkerClear (haState relReq)) (afterRelease (performRel (undoHome (unhold (delReq (haState relReq) 41) 0x600) relReq)
      0x30004 false relReq) 0x30004 0) = true ∧
    nextIs (exec .releaseMarkerClear (haState { relReq with kind := .atomic })) (performAtomic (haState { relReq with kind := .atomic }) 41 { relReq with kind := .atomic }) = true := by
  decide +kernel
/-- A release of an object with a waiter, while its core holds dirty bytes that it covers; an atomic release over a lost write; one of a scratch word. -/
def coveredW : Writer := ⟨0xF, 0x30080, 1, 1, 0, [], []⟩
def pmReq : Req := { relReq with clock := [⟨1, 0, none⟩] }
def pmState : State :=
  let s := { haState pmReq with mem := [(0x3000C, 1)] }
  putCore s 0 { coreOf s 0 with l1 := [{ dirtyLine with line := 0x601, writers := [coveredW] }] }
def lostReq : Req := { relReq with kind := .atomic, lost := true }
def slReq : Req := { relReq with kind := .atomic, line := 0, va := 0x01FFFFFFFFF80040, a := 0, scratch := some 3, b := 5 }
theorem wit_markerPaths : promoteLines pmState pmReq = [0x601] ∧ mayClear pmState 41 pmReq = true ∧ promoteLines (haState relReq) relReq = [] ∧
    promoteWaits (haState relReq) relReq = false ∧
    nextIs (exec .releaseMarkerClear pmState) (writeBack pmState 0 0x601) = true ∧
    mayClear (haState lostReq) 41 lostReq = true ∧ nextIs (exec .releaseMarkerClear (haState lostReq)) (dropRelease (haState lostReq) 41 lostReq) = true ∧
    mayClear (haState slReq) 41 slReq = true ∧ nextHas (exec .releaseMarkerClear (haState slReq)) (fun t => decide (
      t = performScratch (haState slReq) 41 slReq ∧ localRead t tDeck 0x40 4 = 5)) = true := by decide +kernel
/-- R270 by hand: the version 2^63 − 1 wraps to 0; a poisoned one keeps its mark. -/
theorem test_release : (let s := homeWriteNat zState 0x30000 8 (2 ^ 63 - 1); homeRead (performRel s 0x30000 false Req.init) 0x30000 8 = 0) ∧
    (let s := homeWriteNat zState 0x30000 8 (2 ^ 63 + 4); homeRead (performRel s 0x30000 false Req.init) 0x30000 8 = 2 ^ 63 + 5) := by decide +kernel
/-- A page table at 0x100000 that maps virtual page 0x30 on itself: a leaf of 4 KiB at level 1. -/
def tableWords : List (Nat × Nat) := [(0x100000, 0x101001), (0x101000, 0x102001), (0x102000, 0x103001), (0x103000, 0x104001), (0x104180, 0x30003)]
def withPages (s : State) : State := tableWords.foldl (fun t w => homeWriteNat t w.1 8 w.2) s
def dcReq (hi : Nat) : Req := { Req.init with core := 0, uid := 1, kind := .dropc, stage := .home, va := 0x30000, a := hi, c := probeRoot }
def dcState (hi : Nat) : State := hEv 41 { withPages zState with reqs := [(41, dcReq hi)], lines := [(0x600, { countedHome with pinned := true, data := some 5 })] }
theorem wit_dropcEvent : lookupVa (dcState 0x30100) probeRoot 0x30000 = some (0x30000, false) ∧
    nextIs (exec .homeDropc (dcState 0x30100)) (putReq (dropLine (dcState 0x30100) 0x600 1) 41 { dcReq 0x30100 with va := 0x30080 }) = true ∧
    nextIs (exec .homeDropc (dcState 0x30080)) (delReq (dropLine (dcState 0x30080) 0x600 1) 41) = true ∧
    homeOf (dropLine (dcState 0x30080) 0x600 1) 0x600 = HomeLine.init ∧ (dropLine (dcState 0x30080) 0x600 1).mem = (dcState 0x30080).mem := by
  decide +kernel
def landState : State := hEv 46 { bState 3 [] barImage with lands := [(46, ⟨3, 0, 0x01FFFFFFFFF80040, 128, false, 0, 0, 0⟩)] }
theorem wit_barrierLanding : mapFind landState.reqs 0 = none ∧ landState.reqs = [] ∧
    (let t := { landState with lands := [] }
     nextIs (exec .barrierLanding landState) (landDeck t 3 0 0x01FFFFFFFFF80040 128 0 false [])) = true ∧
    mapFind landState.ord.agents 0 = none ∧
    nextHas (exec .barrierLanding landState) (fun t => decide (readBar t bLoc = { barImage with landed := 128 })) = true ∧
    barLocOf landState 3 0 0x01FFFFFFFFF80040 = some bLoc ∧ deckOf landState 3 = some tDeck ∧ mapFind landState.launches 2 = some pL ∧ pL.det = false := by
  decide +kernel
/-- The landing of command 50, which has moved its bytes: it leaves its queue. -/
def landCmd : State := { landState with lands := [(46, ⟨3, 0, 0x01FFFFFFFFF80040, 128, false, 0, 50, 0⟩)] }
theorem wit_commandLanding : wayShut landCmd 0 (barLocOf landCmd 3 0 0x01FFFFFFFFF80040) = false ∧
    nextIs (exec .barrierLanding landCmd) (finishCmd (landDeck { landCmd with lands := [] } 3 0 0x01FFFFFFFFF80040 128 0 false []) 50) = true := by decide +kernel
/-- A span whose `barwait` on phase 4 waits since cycle 100, at most 50 cycles; the barrier's phase is p. -/
def bwSpan : Span := { ySpan with pend := .barwait 100 false 0x01FFFFFFFFF80040 none 4 7 50 }
def bwState (p : Nat) : State :=
  let s := putSpan (writeBar yState bLoc { barImage with phase := p }) 1 bwSpan
  hEv 1 { withPages s with cycle := 150 }
theorem wit_waiting : ∀ p ∈ [4, 5], launchOf (bwState p) bwSpan = some pL ∧ mayIssue { bwState p with cur := { (bwState p).cur with uid := 1 } } bwSpan pL = true ∧
    waitBar (waking (bwState p) 1 bwSpan pL) bwSpan pL 0x01FFFFFFFFF80040 = .loc bLoc ∧ (readBar (waking (bwState p) 1 bwSpan pL) bLoc).valid = true := by
  decide +kernel
theorem test_waiting : waitStatus (readBar (waking (bwState 5) 1 bwSpan pL) bLoc) 4 = some 0 ∧
    nextIs (exec .barwaitEnd (bwState 5)) (putSpan (learn (acquireDrop (waking (bwState 5) 1 bwSpan pL) 0 false) 1 []) 1
      (advance (acquired (waking (bwState 5) 1 bwSpan pL) (sWrite { bwSpan with pend := .none } 7 0) false))) = true ∧
    waitStatus (readBar (waking (bwState 4) 1 bwSpan pL) bLoc) 4 = none ∧
    nextIs (exec .barwaitEnd (bwState 6)) (putSpan (waking (bwState 6) 1 bwSpan pL) 1 (advance (sWrite { bwSpan with pend := .none } 7 3))) = true ∧
    nextIs (exec .barwaitTimeout (bwState 4)) (putSpan (waking (bwState 4) 1 bwSpan pL) 1 (advance (sWrite { bwSpan with pend := .none } 7 2))) = true := by
  decide +kernel

/-! ### Host packets, doorbells, the register block, the host -/

/-- Queue 0 (16 packets at 0xF000000000000, completions at 0xF000000001000) reads the packet of these words. -/
def pkState (ws : List Nat) (s : State) : State :=
  let regs := [(0x1000, 0xF000000000000), (0x1008, 4), (0x1020, 0xF000000001000), (0x1038, 1), (0x4000, 1), (0x4008, BitVec.ofNat 64 probeRoot)]
  { s with fe := { s.fe with regs := regs.foldl (fun (m : SMap Word64) r => mapPut m r.1 r.2) s.fe.regs }
           cur := { front := true, x := { id := 0, bytes := ws.flatMap (natToBytes 8) } } }
def pkOf (op : Nat) (s : State) : Pkt := pktOfWords s 0 op (words64 s.cur.x.bytes 8)
def pkBegun (op : Nat) (s : State) : State := startPacket s 0 (pkOf op s)
/-- The packet's two words before its operands: operation, tag 9, job key 1. -/
def pkHead (op : Nat) : List Nat := [op + 9 * 2 ^ 32, 1]
def fcState : State := pkState (pkHead 7 ++ [0, 0, 0, 0, 0, 0]) zState
def fcBusy : State := { fcState with fe := { fcState.fe with pkts := [(3, pkOf 6 fcState)] } }
theorem wit_fence : PacketActs fcState (pkBegun 7 fcState) 7 fcState.nextId (pkOf 7 fcState) ∧
    nextIs (exec .fencePacket fcState) (packetOk (pkBegun 7 fcState) fcState.nextId) = true ∧
    (let t := packetOk (pkBegun 7 fcBusy) fcBusy.nextId
     nextIs (exec .fencePacket fcBusy) { t with fe := { t.fe with fences := [([0], [3])] } }) = true := by unfold PacketActs; decide +kernel
def rlState : State := pkState (pkHead 3 ++ [0x30010, 0, 0, 0, 0, 0]) zState
theorem wit_hostRelease : PacketActs rlState (pkBegun 3 rlState) 3 rlState.nextId (pkOf 3 rlState) ∧
    frontXlate (pkBegun 3 rlState) rlState.nextId 1 0x30010 1 = .ok 0x30010 false ∧ (homeOf (pkBegun 3 rlState) 0x600).counted = false ∧
    dieWaits (pkBegun 3 rlState) (firstDie (pkBegun 3 rlState)) 0x30010 0x600 = false ∧
    (let h := publish (pkBegun 3 rlState) hostAgent
     nextIs (exec .release rlState) (packetOk (afterRelease (performRel h.1 0x30010 (hostLost (pkBegun 3 rlState)) { Req.init with
      core := hostPort, scope := 4, clock := h.2, writers := [{ hostWriter (pkBegun 3 rlState) with va := 0x30000 }], va := 0x30000 }) 0x30010 0x30010)
      rlState.nextId)) = true := by
  unfold PacketActs; decide +kernel
def aqState : State := pkState (pkHead 4 ++ [0x30010, 5, 100, 0, 0, 0]) zState
theorem wit_hostAcquire : PacketActs aqState (pkBegun 4 aqState) 4 aqState.nextId (pkOf 4 aqState) ∧ aqState.cur.front = true ∧
    (let s1 := pkBegun 4 aqState; let i := aqState.nextId; let p := pkOf 4 aqState
     let p1 := { p with done := p.c, c := noPlace }
     let t := putHostPkt (dropFails (putHostPkt s1 i p1) (.front i)) i { p1 with c := 0x30010 }
     decide (frontXlate (putHostPkt s1 i p1) i p.key p.a 1 = .ok 0x30010 false) && !dieWaits (putHostPkt s1 i p1) (firstDie s1) p.a 0x600 &&
     nextIs (exec .acquire aqState) (checkAcquires (setWaiter t (hostWriter t) 0x30010 0 true) 0x30010)) = true := by
  unfold PacketActs; decide +kernel
def wtState : State :=
  let s := pkState (pkHead 5 ++ [0x50000, 4, 0, 0, 0, 0]) zState
  let s := { s with cores := mapPut s.cores 512 { coreOf s 512 with stlb := [{ probeTlb with bar := true }] } }
  writeBar s (.mem 0x50000) { barImage with phase := 5 }
theorem wit_hostWait : PacketActs wtState (pkBegun 5 wtState) 5 wtState.nextId (pkOf 5 wtState) ∧
    (let s1 := pkBegun 5 wtState; let i := wtState.nextId; let p := pkOf 5 wtState
     let p1 := { p with done := p.c, c := noPlace }
     decide (frontXlate (putHostPkt s1 i p1) i p.key p.a 0 = .ok 0x50000 true) && (readBar (putHostPkt s1 i p1) (.mem 0x50000)).valid && !routeWaits s1 (firstDie s1) (dieOfPa 0x50000) &&
     decide (waitStatus (readBar (putHostPkt s1 i p1) (.mem 0x50000)) 4 = some 0) &&
     nextIs (exec .wait wtState) (learn (endPkt (putHostPkt s1 i p1) i 0 0 0 0) hostAgent [])) = true := by unfold PacketActs; decide +kernel
/-- A launch record at 0x60000 with a system context at 0x61000: one deck of one span with 8 registers, a frame array at 0x62000. -/
def lrWords : List Nat := [0x10000, 0x20000, 0x61000, 1 + 2 ^ 32, 1 + 2 ^ 32 + 2 ^ 40, 3 * 2 ^ 24, 0, 0, 0, 0, 0, 0, 0x80000, 1, 0, 0]
def lnState : State :=
  let s := pkState (pkHead 1 ++ [0x60000, 0x77, 0, 0, 0, 0]) zState
  let s := homeWrite s 0x60000 (lrWords.flatMap (natToBytes 8))
  let s := homeWrite s 0x61000 ([0x10000, 0, 0x62000, 0].flatMap (natToBytes 8))
  { s with fe := { s.fe with regs := mapPut s.fe.regs (0x2000 + 0x20 * 3 + 8) 64 } }
def lnChecked : Checked :=
  let s1 := pkBegun 1 lnState; let i := lnState.nextId; let p := pkOf 1 lnState
  let s0 := putHostPkt s1 i { p with t0 := s1.fe.stepNo }
  checkRecord (fun s va => dieXlate s (firstDie s) probeRoot p.key va 0 (.front i)) s0 p.body p.key probeRoot 2
theorem wit_launch : PacketActs lnState (pkBegun 1 lnState) 1 lnState.nextId (pkOf 1 lnState) ∧ (pkOf 1 lnState).done = 0 ∧
    keyRoot (pkBegun 1 lnState) 1 = some probeRoot ∧
    (let s1 := pkBegun 1 lnState; let i := lnState.nextId; let p := pkOf 1 lnState
     let p1 := { p with t0 := s1.fe.stepNo }
     let s0 := putHostPkt s1 i p1
     match lnChecked with
     | .ok l first last frame join =>
       let t := putHostPkt (dropFails s0 (.front i)) i { p1 with done := 1 }
       decide (freeNumber s0 [] = some 2 ∧ launchBefore s0 i p1 = false ∧ (first, last, frame, join, l.prio, l.vregs) = (0, 0, 0x77, 0, 3, 8)) &&
       (let h := publish { t with runs := mapPut t.runs 2 ⟨1, some i, [], 0⟩ } hostAgent
        nextIs (exec .launch lnState) (pushRing h.1 l.prio l first last frame join h.2))
     | _ => false) = true := by unfold PacketActs; decide +kernel
def cpkState : State := { pkState (pkHead 6 ++ [0x30040, 0x50000, 200, 0, 0, 0]) zState with mem := [(0x30040, 7), (0x3007F, 9)] }
/-- The read of the first 128 bytes, which leaves nothing over: the source lies 64 bytes into its line. -/
def cpRead : FabRd := fabRead (pkBegun 6 cpkState) (firstDie cpkState) probeRoot 1 (.front cpkState.nextId) 0x30040 128
theorem wit_copyPacket : PacketActs cpkState (pkBegun 6 cpkState) 6 cpkState.nextId (pkOf 6 cpkState) ∧ (pkOf 6 cpkState).c % 2 ^ 32 = 200 ∧
    keyRoot (pkBegun 6 cpkState) 1 = some probeRoot ∧
    (let s1 := pkBegun 6 cpkState; let i := cpkState.nextId; let p := pkOf 6 cpkState
     decide (min (p.c % 2 ^ 32 - p.done) (128 - p.b % 128) = 128 ∧ (p.a + p.done + 128 + 7) / 8 * 8 - (p.a + p.done) = 128 ∧
       firstDie s1 = firstDie cpkState ∧ p.buf = []) &&
     match cpRead with
     | .ok s3 got false => (match frontXlate s3 i 1 0x50000 1 with
       | .ok dpa bar => (match copyPut s3 i 0x50000 dpa bar got with
         | .ok s2 => decide (got.length = 128 ∧ homeByte s2 0x50000 = 7 ∧ homeByte s2 0x5003F = 9) &&
           nextIs (exec .copyPacket cpkState) (putHostPkt s2 i { p with done := 128, buf := [] })
         | _ => false)
       | _ => false)
     | _ => false) = true := by unfold PacketActs; decide +kernel
theorem wit_dieReadLine : dieXlate zState 0 probeRoot 1 0x30010 0 (.front 1) = .ok 0x30010 false ∧ dieWaits zState 0 0x30010 0x600 = false ∧
    dieWaits zState (firstDie zState) 0x30010 0x600 = false ∧ (homeOf zState 0x600).counted = false ∧
    (match fabRead zState 0 probeRoot 1 (.front 1) 0x30010 8 with
     | .ok t bs bad => decide (t = homeTouch zState 0x600 ∧ bs.length = 8 ∧ bad = false)
     | _ => false) = true := by decide +kernel
def cpDone : State := hEv 60 { zState with fe := { zState.fe with pkts := [(60, { pkOf 6 cpkState with done := 200 })] } }
theorem wit_copyDone : PacketActs cpDone cpDone 6 60 { pkOf 6 cpkState with done := 200 } ∧ copyDone cpDone 60 = true ∧
    nextIs (exec .copyPacket cpDone) (packetOk cpDone 60) = true := by unfold PacketActs; decide +kernel
/-- An image of no span at 0x70000. -/
def rsmState : State :=
  let s := pkState (pkHead 2 ++ [0x70000, 0, 0, 0, 0, 0]) zState
  let s := homeWrite s 0x70000 (natToBytes 8 (0x4A394358 + 2 ^ 32) ++ natToBytes 8 1)
  s
theorem wit_resume : PacketActs rsmState (pkBegun 2 rsmState) 2 rsmState.nextId (pkOf 2 rsmState) ∧ imageRefused (pkBegun 2 rsmState) 0x70000 1 = false ∧
    nextIs (exec .resume rsmState) (putHostPkt (pkBegun 2 rsmState) rsmState.nextId { pkOf 2 rsmState with b := 0, c := 0 }) = true := by
  unfold PacketActs; decide +kernel
/-- MGMT packets on queue 0: subcommand in word 2. -/
def mgState (ws : List Nat) : State := pkState ([8 + 9 * 2 ^ 32, 0] ++ ws) zState
theorem wit_admit : (let s := mgState [5, 0x200FFF, 0, 0, 0, 0]
    PacketActs s (pkBegun 17 s) 17 s.nextId (pkOf 17 s) ∧ keyEntry (pkBegun 17 s) 5 = none ∧ keyEntry (pkBegun 17 s) 0 = some 1 ∧
    nextIs (exec .admitKey s) (packetOk (setReg (setReg (pkBegun 17 s) 0x4010 5) 0x4018 0x200000) s.nextId) = true) := by unfold PacketActs; decide +kernel
theorem wit_retire : (let s := { mgState [1, 0, 0, 0, 0, 0] with runs := [] }
    PacketActs s (pkBegun 18 s) 18 s.nextId (pkOf 18 s) ∧ keyEntry (pkBegun 18 s) 1 = some 0 ∧ keyBusy (pkBegun 18 s) 1 = false ∧
    nextIs (exec .retire s) (packetOk (setReg (setReg (pkBegun 18 s) 0x4000 0) 0x4008 0) s.nextId) = true) := by unfold PacketActs; decide +kernel
theorem wit_shootdown : (let s := mgState [1, 0x30000, 12, 0, 0, 0]
    PacketActs s (pkBegun 19 s) 19 s.nextId (pkOf 19 s) ∧ keyRoot (pkBegun 19 s) 1 = some probeRoot ∧
    nextIs (exec .shootdown s) (beginShoot (pkBegun 19 s) ⟨1, probeRoot, 0x30, 12, 10000, false, s.nextId, []⟩) = true) := by unfold PacketActs; decide +kernel
def frTest : FaultRec := ⟨0, probeRoot, 1, 0x30, false, 0, 0, false, [.span 1], none, some 4⟩
theorem wit_answer : (let s := { mgState [4, 1, 0, 0, 0, 0] with faults := [(70, frTest)] }
    PacketActs s (pkBegun 20 s) 20 s.nextId (pkOf 20 s) ∧ (pkBegun 20 s).faults.find? (fun f => f.2.number == some 4) = some (70, frTest) ∧
    nextIs (exec .answer s) (packetOk (postFaults (answerFault (pkBegun 20 s) 70 frTest true)) s.nextId) = true) := by unfold PacketActs; decide +kernel
theorem wit_power : (let s := { mgState [4, 0, 0, 0, 0, 0] with runs := [] }
    PacketActs s (pkBegun 21 s) 21 s.nextId (pkOf 21 s) ∧ nextIs (exec .power s) (packetOk (setPower (pkBegun 21 s) 4 0) s.nextId) = true) ∧
    (let s := mgState [1, 0, 0, 0, 0, 0]
     nextIs (exec .power { s with mg := { s.mg with throttle := 5 } })
       (packetOk (setPower { pkBegun 21 s with mg := { s.mg with throttle := 5 } } 2 1) s.nextId) = true) := by unfold PacketActs; decide +kernel
theorem wit_fpstart : (let s := mgState [0x12, 0x40000, 99, 0x30000, 1, 0]
    PacketActs s (pkBegun 22 s) 22 s.nextId (pkOf 22 s) ∧ (fpOf (pkBegun 22 s) (fpArg 0x12)).running = false ∧
    (keyRoot (pkBegun 22 s) 1).isSome = true ∧
    nextHas (exec .fpstart s) (fun t => decide (fpOf t 9 = ⟨true, [(1, 99)], 0x40000, 1, 0x30000, .none, none, none, false⟩)) = true) := by
  unfold PacketActs; decide +kernel
theorem wit_fpstop : (let s := mgState [0x12, 0, 0, 0, 0, 0]
    PacketActs s (pkBegun 23 s) 23 s.nextId (pkOf 23 s) ∧ nextIs (exec .fpstop s) (packetOk (pkBegun 23 s) s.nextId) = true ∧
    (let r := { s with fab := { s.fab with fps := [(9, aFp)] } }
     nextIs (exec .fpstop r) (putFp (pkBegun 23 r) 9 { aFp with stop := some s.nextId }) = true)) := by unfold PacketActs; decide +kernel
def rbState (a b : Nat) : State := { pkState [] zState with cur := { x := { id := 0, a, b } } }
theorem wit_registers : (rbState 0 0).mg.step ≠ 0 ∧ (rbState 0 0).mg.safe = false ∧ queueSize (rbState 0 0) 0 = 16 ∧
    nextIs (exec .qtail (rbState 15 0)) (setReg (rbState 15 0) 0x1018 15) = true ∧
    regTakes (rbState 0x1008 16) 0x1008 16 = true ∧ nextIs (exec .mgmtRegisterWrite (rbState 0x1008 16)) (setReg (rbState 0x1008 16) 0x1008 16) = true ∧
    regTakes (rbState 0x5000 0x40) 0x5000 0x40 = true ∧
    nextIs (exec .mgmtRegisterWrite (rbState 0x5000 0x40)) (postFaults (setReg (rbState 0x5000 0x40) 0x5000 0x40)) = true ∧
    regTakes (rbState 0x1008 17) 0x1008 17 = false ∧ nextIs (exec .mgmtRegisterWrite (rbState 0x1008 17)) (rbState 0x1008 17) = true := by decide +kernel
def atState1 (n : Nat) : State := let s := rbState 1 0; { s with mg := { s.mg with astat := n } }
theorem wit_attestation : nextIs (exec .actrl (atState1 0)) (atState1 1) = true ∧ (atState1 1).mg.step = 7 ∧
    nextHas (exec .attestationDone (atState1 1)) (fun t => decide (t.mg.astat = 2 ∧ t.mg.report.length = (reportBytes (atState1 1)).length + 3309)) = true := by
  decide +kernel
/-- Host addresses 0x30005 above decoder 0's base, whatever that base is. -/
def cxState (bs : List Byte) : State := { zState with cur := { x := { a := Config.hdmBase + 0x30005, bytes := bs, b := 3 } } }
theorem wit_hostAddress (bs : List Byte) : Config.hdmBase ≤ (cxState bs).cur.x.a ∧ (cxState bs).cur.x.a - Config.hdmBase = 0x30005 :=
  ⟨Nat.le_add_right _ _, Nat.add_sub_cancel_left _ _⟩
theorem wit_hostAccess : isHbm 0x30005 = true ∧ zState.mg.step ≠ 0 ∧ zState.mg.power ≠ 4 ∧ (homeOf (cxState [1, 2]) 0x600).counted = false ∧
    dieWaits (cxState []) (firstDie (cxState [])) 0x30005 0x600 = false ∧ firstDie (cxState [1, 2]) = 0 ∧
    (match fabPut (cxState [1, 2]) 0 { hostWriter (cxState [1, 2]) with va := 0x30005 } 0 0 0x30005 false [1, 2] with
     | .ok s1 => homeRead s1 0x30004 4 == 0x20100
     | _ => false) = true := by decide +kernel
/-- A read through CXL.mem. -/
theorem test_hostAccess : exec .hostCxlMemAccess (cxState []) = .next { homeTouch (cxState []) 0x600 with fe := { (homeTouch (cxState []) 0x600).fe with
      hostData := (List.range 3).map (fun k => homeByte (cxState []) (0x30005 + k)), hostPoison := badLine (cxState []) 0x600 } } := by
  show execHostCxlMemAccess (cxState []) = _
  unfold execHostCxlMemAccess
  rw [(wit_hostAddress []).2, if_neg (by
    rintro (g | g)
    · exact absurd (wit_hostAddress []).1 (Nat.not_le.mpr g)
    · revert g; decide +kernel), if_pos (by rfl)]
  rfl
def cmTest : Compl := ⟨0, 2, [1, 2, 3, 4], true⟩
def cmState : State := let s := rbState 0 0; { s with fe := { s.fe with compl := [cmTest] } }
theorem wit_grant : nextHas (exec .hostOwnershipGrant cmState) (fun t => decide (
    t.mem = (homeWrite cmState 0xF000000001040 ([1, 2, 3, 4].flatMap (natToBytes 8))).mem ∧ t.fe.compl = [] ∧ t.fe.msi = [0] ∧
    t.fe.owned.head? = some (0xF000000001040 / 128))) = true := by decide +kernel
def snState : State := { zState with cur := { x := { a := 77 } }, fe := { zState.fe with owned := [5, 77] } }
theorem wit_snoop : nextIs (exec .hostSnoop snState) { snState with fe := { snState.fe with owned := [5] } } = true := by decide +kernel
def toPkt (op : Nat) : Pkt := ⟨0, 0, op, 9, false, 1, 0x30010, 5, 0x30010, 3, [], 100, [], 0, []⟩
def toState (op : Nat) : State := hEv 60 { zState with ticks := 400, fe := { zState.fe with pkts := [(60, toPkt op)] } }
theorem wit_timeouts : (toPkt 4).c ≠ noPlace ∧
    nextIs (exec .acquireTimeout (toState 4)) (checkAcquires (endPkt (toState 4) 60 2 0 (homeRead (toState 4) 0x30010 8) 0) 0x30010) = true ∧
    nextIs (exec .waitTimeout (toState 5)) (endPkt (toState 5) 60 2 0 0 0) = true := by decide +kernel

/-! ### Engines, placement, contexts, quanta -/

/-- The engine state with one command in queue q; the event names it. -/
def enq (q : Nat) (e : Cmd) (s : State) : State :=
  let c := ctxOf s 0 false
  hEv e.seq (putCtx { s with mem := [(0x30000, 0x55), (0x30080, 0x66)] } 0 false { c with queues := mapPut c.queues q [e] })
def cmdTest (e : Cmd) : Cmd := { e with uid := 1, deck := 3, launch := 2, seq := 70 }
def kOf (q : Nat) (e : Cmd) : CmdAt := ⟨0, q, [], e⟩
def cp1 : Cmd := { cmdTest plainCopy with len0 := 16 }
def cp2 : Cmd := { cmdTest slotCopy with len0 := 16 }
theorem wit_copyRun : CmdRuns (enq 0 cp1 eBase) .copy (kOf 0 cp1) eLaunch ∧ CmdRuns (enq 1 cp2 eBase) .copy (kOf 1 cp2) eLaunch ∧
    copyChunk cp1 = 16 ∧ copyChunk cp2 = 16 := by unfold CmdRuns; decide +kernel
/-- What the first read of a copy gives: its whole first chunk. -/
def cpReads (q : Nat) (e : Cmd) : EngRead := engRead (enq q e eBase) (kOf q e) eLaunch (fun i => srcAddr e i) (copyAhead e 16)
theorem test_copyRun :
    (match cpReads 1 cp2 with
     | .ok rev false lines =>
       let t := lines.foldl homeTouch (enq 1 cp2 eBase)
       copyCuts cp2 && nextIs (exec .copyRun (enq 1 cp2 eBase)) (copyMoved (putCtx t 0 false (slotWrite (ctxOf t 0 false) cp2 cp2.offset (rev.reverse.take 16)))
         { kOf 1 cp2 with cmd := { cp2 with buf := rev.reverse.drop 16 } } 16 0)
     | _ => false) = true ∧
    (match cpReads 0 cp1 with
     | .ok rev false lines => match copyReady (lines.foldl homeTouch (enq 0 cp1 eBase)) (kOf 0 cp1) eLaunch (copyPieces 16 cp1 0 16) with
       | .ok s0 _ => copyCuts cp1 && nextIs (exec .copyRun (enq 0 cp1 eBase)) (copyWrite s0 (kOf 0 cp1) eLaunch (copyPieces 16 cp1 0 16) rev.reverse) &&
         (match engDo s0 (kOf 0 cp1) eLaunch s0.nextId 0x50080 (rev.reverse.take 16) with
          | .ok s1 after =>
            let e' := { cp1 with started := true, progress := 16, landed := 16 }
            let u := Machine.landCmd s1 0 e' 16 false after
            decide (homeByte s1 0x50080 = 0x55) && nextIs (exec .copyRun (enq 0 cp1 eBase))
              (if 16 = cmdTotal e' then cmdDone u (kOf 0 cp1) e' else updCmd u (kOf 0 cp1) { e' with buf := rev.reverse.drop 16 })
          | _ => false)
       | _ => false
     | _ => false) = true := by decide +kernel
/-- A copy that may not be cut, and one whose destination is gone. -/
def cp3 : Cmd := { cp1 with len0 := 4, rows := 2, srcRow := 4, dstRow := 4 }
def cp4 : Cmd := { cp1 with xfail := true }
theorem wit_copyUncut : CmdRuns (enq 0 cp3 eBase) .copy (kOf 0 cp3) eLaunch ∧ cp3.xfail = false ∧ copyCuts cp3 = false ∧
    (holdPages (enq 0 cp3 eBase) (kOf 0 cp3) eLaunch).2.2 = true ∧
    nextHas (exec .copyRun (enq 0 cp3 eBase)) (fun t => decide (queueOf (ctxOf t 0 false) 0 = []) && decide (homeByte t 0x50080 = 0x55)) = true := by unfold CmdRuns; decide +kernel
theorem wit_copyFails : CmdRuns (enq 0 cp4 eBase) .copy (kOf 0 cp4) eLaunch ∧
    nextIs (exec .copyRun (enq 0 cp4 eBase)) (failCmd (enq 0 cp4 eBase) (kOf 0 cp4) cp4) = true := by unfold CmdRuns; decide +kernel
def mm1 : Cmd := cmdTest mmaTest
def mm2 : Cmd := { mm1 with started := true, progress := 8 }
theorem wit_mmaRun : CmdRuns (enq 4 mm1 eBase) .mma (kOf 4 mm1) eLaunch ∧ arrayBusy (enq 4 mm1 eBase) (kOf 4 mm1) = false ∧
    CmdRuns (enq 4 mm2 eBase) .mma (kOf 4 mm2) eLaunch ∧ (coreOf (enq 4 mm2 eBase) 0).active = false ∧ (coreOf (enq 4 mm2 eBase) 0).swap = none ∧
    readsBadSlot (ctxOf (enq 4 mm2 eBase) 0 false) mm2 = false ∧
    nextIs (exec .mmaRun (enq 4 mm1 eBase)) (updCmd (enq 4 mm1 eBase) (kOf 4 mm1) { mm1 with started := true }) = true ∧
    nextHas (exec .mmaDone (enq 4 mm2 eBase)) (fun t => decide ((queueOf (ctxOf t 0 false) 4) = [])) = true := by unfold CmdRuns; decide +kernel
/-- R26 by hand: one element of a product of two BF16 tiles, 1·2 added to +0 (rows of A and columns of B hold 1 and 2 at k = 0). -/
theorem test_mmaElement :
    let xa : Slot := { Slot.init with data := [(0, 0x80), (1, 0x3F)] }
    let xb : Slot := { Slot.init with data := [(1, 0x40)] }
    mmaElem xa xb { mm1 with colB := false } 0 1 0 0 0 = 0x40000000 := by decide +kernel
def ac1 : Cmd := cmdTest acstTest
theorem wit_acstRun : CmdRuns (enq 4 ac1 eBase) .acst (kOf 4 ac1) eLaunch ∧ readsBadSlot (ctxOf (enq 4 ac1 eBase) 0 false) ac1 = false ∧
    (let s := enq 4 ac1 eBase
     let xs := (List.range 64).map (fun i => (mapGet 0 (ctxOf s 0 false).accs (16384 + i)).toNat)
     match engWrite s (kOf 4 ac1) eLaunch 0x30000 (xs.zipIdx.flatMap (fun x => natToBytes 2 (acstCode ac1 x.1 x.2))) with
     | .ok _ after => after == 0
     | _ => false) = true := by unfold CmdRuns; decide +kernel
theorem test_acstRun : nextHas (exec .acstRun (enq 4 ac1 eBase)) (fun t => decide ((queueOf (ctxOf t 0 false) 4).map (fun e => (e.started, e.progress, e.landed)) =
    [(true, 64, 128)])) = true := by decide +kernel
def co1 : Cmd := { cmdTest (collTest 2) with word := 7 }
def coState : State := withTable (enq 5 co1 eBase)
theorem wit_collStart : CmdRuns coState .coll (kOf 5 co1) eLaunch ∧ co1.started = false ∧ (slotOf (ctxOf coState 0 false) 3).bad = [] ∧
    (findGroup coState 0 7).map (fun g => (g.state, g.size, g.members)) = some (0, 4, 0xC0000) ∧
    tableBad coState 0 7 = false ∧ (match fabRead coState 0 probeRoot 1 (.fabric 70) 0xC0000 16 with
     | .ok s3 mb false => decide (mb.length = 16) && (match findGroup coState 0 7 with
       | some g => (openChunk s3 0 g 0 0).isSome
       | none => false)
     | _ => false) = true ∧
    coState.cur.x.id ≠ 0 ∧ (findGroup coState 0 7).all (fun g => !coState.fab.opens.contains g.pa && !savesOn coState probeRoot g.resid) = true := by unfold CmdRuns; decide +kernel
theorem test_collStart : nextHas (exec .collEntryStart coState) (fun t => match mapFind t.fab.entries 70 with
    | some x => decide (x.g = 4 ∧ x.rank = 0 ∧ x.dest = 0xA0000 ∧ x.code = 0 ∧ x.members = [(0, 0), (0, 0), (0, 0), (0, 0)])
    | none => false) = true := by decide +kernel

/-- The launch of the probe's kind whose ring entry waits: record 80 in ring 3, decks 0 to 1. -/
def plLaunch (gang : Bool) : Launch := { pL with dims := (2, 1, 1), gang }
def plRec (resv : List (Nat × Nat)) : RingRec := ⟨80, 0x77, 0, 0, 1, resv⟩
def plState (gang : Bool) (resv : List (Nat × Nat)) : State :=
  { zState with launches := mapPut zState.launches 80 (plLaunch gang), rings := [(3, ⟨[plRec resv], []⟩)], decks := [], spans := [] }
theorem wit_place : Serving (plState false []) 3 (plRec []) (plLaunch false) ∧ Serving (plState true []) 3 (plRec []) (plLaunch true) ∧
    Serving (plState true [(0, 5), (1, 6)]) 3 (plRec [(0, 5), (1, 6)]) (plLaunch true) := by unfold Serving; decide +kernel
theorem test_place :
    (match placeDeck (plState false []) 3 (plLaunch false) 0 with
     | some g => nextIs (exec .deckPlace (plState false [])) (headNext (makeResident (plState false []) 80 (plLaunch false) 0x77 0 0 g) 3 (plRec []) 1)
     | none => false) = true ∧
    (match placeDeck (plState true []) 3 (plLaunch true) 0 with
     | some g => nextIs (exec .gangReserve (plState true [])) (putRing (plState true []) 3 ⟨[plRec [(0, g)]], []⟩)
     | none => false) = true ∧
    nextHas (exec .gangCommit (plState true [(0, 5), (1, 6)])) (fun t => decide (t.decks.map (fun d => (d.2.index, d.2.core)) = [(0, 5), (1, 6)] ∧
      (ringOf t 3).recs = [])) = true := by decide +kernel
def dsState : State := hEv 3 (putDeck zState 3 { tDeck with started := false })
theorem wit_deckStart : deckOf dsState 3 = some { tDeck with started := false } ∧ deckReady dsState { tDeck with started := false } = true ∧ clocked dsState = true ∧
    nextIs (exec .deckStart dsState) (putDeck ({ tDeck with started := false }.uids.foldl (fun t u => orderFence t u 0 4)
      (dropLines dsState 0 (fun _ => true))) 3 tDeck) = true := by decide +kernel
/-- The two decks of a gang start in one step (R292). -/
def gangDeck (g : Nat) : Deck := { tDeck with started := false, core := g, banks := [], uids := [] }
def gangState : State := hEv 3 { putDeck (putDeck zState 3 (gangDeck 0)) 5 (gangDeck 1) with launches := [(2, { pL with gang := true })], spans := [] }
theorem wit_gangStart : deckReady gangState (gangDeck 0) = true ∧ deckReady gangState (gangDeck 1) = true ∧ (gangState.decks.map Prod.fst).Nodup ∧
    nextHas (exec .deckStart gangState) (fun t => decide (t.decks.map (fun d => (d.1, d.2.started)) = [(3, true), (5, true)])) = true := by decide +kernel
def drState : State := { zState with cur := { x := { a := 3 } }, rings := [(3, ⟨[], [plRec []]⟩)], fe := { zState.fe with regs := mapPut zState.fe.regs 0x2068 64 } }
theorem wit_delayedPush : ringRoom drState 3 = true ∧ nextIs (exec .delayedRingPush drState) (ringArrive (putRing drState 3 ⟨[], []⟩) 3 (plRec [])) = true := by
  decide +kernel
def rtDeck (join : Word64) : Deck := { tDeck with retired := true, banks := [], join }
def rtState (join : Word64) : State := hEv 3 { putDeck zState 3 (rtDeck join) with spans := [], mem := [(0x30000, 3)] }
theorem wit_deckRetire : (coreOf (rtState 0x30000) 0).l1 = [] ∧ deckBusy (rtState 0x30000) 3 (rtDeck 0x30000) = false ∧
    dieXlate (rtState 0x30000) 0 probeRoot 1 0x30000 1 (.front 3) = .ok 0x30000 false ∧ homeRead (rtState 0x30000) 0x30000 8 ≠ 1 ∧
    (homeOf (rtState 0x30000) 0x600).counted = false ∧ (rtDeck 0x30000).gone = false ∧ (rtDeck 0x30000).joined = none ∧
    nextIs (exec .deckRetire (rtState 0)) (dropDeck (rtState 0) 3 (rtDeck 0)) = true ∧
    nextHas (exec .deckRetire (rtState 0x30000)) (fun t => decide (homeRead t 0x30000 8 = 2 ∧ deckOf t 3 = none)) = true := by decide +kernel
def lcRun (pkt : Option Nat) : State :=
  let s := pkState [] { zState with decks := [], spans := [], launches := [] }
  { s with cur := { x := { a := 1 } }, runs := [(1, ⟨1, pkt, [noteFault], 0x99⟩)], fe := { s.fe with pkts := [(60, toPkt 1)] }
           lines := [(0x600, { countedHome with tag := 1 }), (0x601, { countedHome with tag := 2 })] }
def lcDone (pkt : Option Nat) : State :=
  let t := dropLine (lcRun pkt) 0x600 0
  let u := delAgent (handOver t (runAgent 1) hostAgent) (runAgent 1)
  clearNets { u with runs := [] } 1
theorem wit_launchComplete : launchAlive (lcRun none) 1 = false ∧ launchAlive (lcRun (some 60)) 1 = false ∧
    nextIs (exec .launchComplete (lcRun none)) (lcDone none) = true ∧
    nextIs (exec .launchComplete (lcRun (some 60))) (completePkt (lcDone (some 60)) 60
      (runStatus [noteFault]) 0 1 (if runStatus [noteFault] = noteFault then 0x99 else 0)) = true := by decide +kernel
/-- The words of an image of no span at 0x70000. -/
def withImage (s : State) : State := homeWrite s 0x70000 (natToBytes 8 (0x4A394358 + 2 ^ 32) ++ natToBytes 8 1)
def rpState : State := hEv 60 (let s := withImage zState; { s with fe := { s.fe with pkts := [(60, { toPkt 2 with a := 0x70000, done := 0 })] } })
def rpBad : State := { rpState with mem := [] }
theorem wit_resumePlacement : imageRefused rpState 0x70000 1 = false ∧ clocked rpState = true ∧ (mapFind rpState.fe.pkts 60).map (fun p => (p.op, p.nums, p.done, p.key)) = some (2, [], 0, 1) ∧
    (match loadLaunches rpState 0x70000 with
     | some s1 => decide (resumeCore s1 0x70000 (imageAt s1 0x70000) = some 1) && decide (resumeOlds s1 0x70000 = []) && keysRise s1.spans && keysRise s1.decks &&
       (imageAt s1 0x70000).decks.isEmpty && (imageAt s1 0x70000).spans.isEmpty
     | none => false) = true ∧ nextHas (exec .resumePlacement rpState) (fun t => t.images.isEmpty) = true := by decide +kernel
theorem wit_resumeRefused : imageRefused rpBad 0x70000 1 = true ∧
    nextIs (exec .resumePlacement rpBad) (completePkt (recRejected rpBad 11 0x70000 1 0) 60 1 11 0 0) = true := by decide +kernel
/-- Contexts of core 0. -/
def csState (c : Core) (a b : Nat) : State := { putCore zState 0 c with cur := { x := { core := 0, a, b } }, cycle := 500 }
def c0 : Core := coreOf zState 0
def frontEv (s : State) : State := { s with cur := { s.cur with x := { s.cur.x with c := 1 } } }
theorem wit_shadowSwap : clocked (csState c0 0 0) = true ∧ c0.swap = none ∧ c0.failed = false ∧ shadowReady (csState c0 0 0) 0 = true ∧
    nextHas (exec .shadowSwap (frontEv (csState c0 0 0))) (fun t => decide ((coreOf t 0).swap = some 500 ∧ (coreOf t 0).spill = none ∧ (coreOf t 0).active = false ∧ (coreOf t 0).swapFor = none)) = true ∧
    nextHas (exec .swapComplete (csState { c0 with swap := some 404 } 0 0)) (fun t => decide ((coreOf t 0).swap = none ∧ (coreOf t 0).active = true ∧
      (coreOf t 0).preload = none ∧ (coreOf t 0).spill = some (0, 0, false))) = true ∧
    (let s := { csState { c0 with swap := some 404 } 0 0 with spans := [], decks := [] }
     nextHas (exec .swapComplete s) (fun t => decide ((coreOf t 0).spill = none))) = true := by decide +kernel
/-- The context in the shadow comes back where the active one is empty and nothing higher waits (R291). -/
theorem wit_backAsked : (let s := csState { c0 with active := true, spill := some (0, 0, false) } 0 0
    clocked s = true ∧ shadowReady s 0 = true ∧ backAsked s 0 = true ∧ nextHas (exec .shadowSwap s) (fun t => decide ((coreOf t 0).swap = some 500)) = true) := by decide +kernel
/-- An `mma` on the array stops after its third block; the words fetched ahead are discarded, and a `barwait` counts no more. -/
def mmStop : State :=
  let s := enq 4 { mm1 with started := true, progress := 2 } eBase
  let sp := { tSpan [] with pend := .barwait 100 false 0x100030 none 0 1 64, ahead := [⟨0, 0, 0, none, [], none⟩] }
  { putSpan s 1 sp with cur := { x := { core := 0, c := 1, b := 3 } }, cycle := 500 }
theorem wit_swapStops : clocked mmStop = true ∧ (coreOf mmStop 0).swap = none ∧ shadowReady mmStop 0 = true ∧ keysRise mmStop.spans = true ∧
    nextHas (exec .shadowSwap mmStop) (fun t => decide ((ctxOf t 0 false).queues.flatMap (fun q => q.2.map Cmd.progress) = [3]) &&
      (spanOf t 1).all (fun sp => decide (sp.ahead = []) && decide (sp.pend = .barwait 400 true 0x100030 none 0 1 64))) = true := by decide +kernel
def spState (p : Bool) (b : Nat) : State := { csState { c0 with active := true, spill := some (0, 0, p) } 0x70000 b with spans := [], decks := [] }
/-- A fault of the spill at its first line. -/
def sfState (b : Nat) : State := { spState false b with cur := { x := { core := 0, a := 0x70080, b, c := 0x70000 } } }
theorem wit_spill : ctxSpans (spState false 0) 0 false = [] ∧ spillBusy (replayPend (spState false 0) 0 false) 0 false = false ∧
    saveArea 0 0 0x70000 = true ∧ paExists (spState false 0) 0x70000 = true ∧
    nextHas (exec .spillComplete (spState false 0)) (fun t => (coreOf t 0).spill.isNone && decide ((mapFind t.images (spState false 0).nextId).map (fun m => (m.at_, m.out)) = some (0x70000, []))) = true := by decide +kernel
/-- The length of a list whose pieces all have length `k`. -/
theorem flatMap_len {α β : Type} (l : List α) (f : α → List β) (k : Nat) (h : ∀ x, (f x).length = k) : (l.flatMap f).length = k * l.length := by
  induction l with
  | nil => rfl
  | cons a l ih => simp [List.flatMap_cons, h, ih, Nat.mul_add]; omega
def spillOut : State := replayPend (spState false 0) 0 false
theorem spillOut_ctx : ctxSpans spillOut 0 false = [] ∧ ctxDecks spillOut 0 false = [] ∧ (∀ q, q < 6 → queueOf (ctxOf spillOut 0 false) q = []) ∧
    (imageHeader spillOut 0 [] [] (ctxOf spillOut 0 false) []).length ≤ 4096 := by decide +kernel
/-- The sections of the image of a context without spans do not overlap. -/
theorem wit_spillSections : (imageSections spillOut 0 false).Pairwise (fun x y => x.1 + x.2.length ≤ y.1) := by
  obtain ⟨hs, hd, hq, hh⟩ := spillOut_ctx
  have hz : (List.range 6).flatMap (fun q => (queueOf (ctxOf spillOut 0 false) q).zipIdx.map (fun e =>
      (0x12000 + 512 * q + 32 * e.2, (cmdWords (deckSlot [] e.1.deck) e.1).flatMap (natToBytes 8)))) = [] := by
    rw [List.flatMap_eq_nil_iff]; intro q hm; rw [hq q (List.mem_range.mp hm)]; rfl
  have slot : ∀ (f : Slot → SMap Byte) (n : Nat), ((List.range 16).flatMap (fun i =>
      if (slotOf (ctxOf spillOut 0 false) i).st = .unclaimed then List.replicate n 0
      else (List.range n).map (fun j => mapGet 0 (f (slotOf (ctxOf spillOut 0 false) i)) j))).length = n * 16 := by
    intro f n; rw [flatMap_len _ _ n (by intro x; split <;> simp)]; simp
  have accs : ((List.range 65536).flatMap (fun i => natToBytes 4 (mapGet 0 (ctxOf spillOut 0 false).accs i).toNat)).length = 4 * 65536 := by
    rw [flatMap_len _ _ 4 (by intro x; simp [natToBytes])]; simp
  have words : ((((List.range 16).map (fun i => Sys2Proof.Machine.slotWord [] (slotOf (ctxOf spillOut 0 false) i))) ++ []).flatMap (natToBytes 8)).length = 8 * 16 := by
    rw [flatMap_len _ _ 8 (by intro x; simp [natToBytes])]; simp
  have ho : ownedBanks [] = [] := rfl
  have hi : imageSpans (vregsOf spillOut) [] = [] := rfl
  have fin : ∀ (H A B C D E : List Byte), H.length ≤ 4096 → A.length = 16384 * 16 → B.length = 1024 * 16 → C.length = 1024 * 16 →
      D.length = 8 * 16 → E.length = 4 * 65536 →
      [(0, H), (0xA0000, A), (0xE0000, B), (0xE4000, C), (0xE8000, D), (0xF0000, E)].Pairwise (fun x y => x.1 + x.2.length ≤ y.1) := by
    intro H A B C D E h1 h2 h3 h4 h5 h6
    simp [h2, h3, h4, h5]; omega
  unfold imageSections
  simp only [hs, hd, ho, hi, hz, List.map_nil, List.zipIdx_nil, List.append_nil, List.nil_append, List.cons_append]
  exact fin _ _ _ _ _ _ hh (slot _ _) (slot _ _) (slot _ _) (by simpa using words) accs
theorem wit_spillFault :
    nextHas (exec .spillFault (sfState 0)) (fun t => decide ((coreOf t 0).spill = some (0x70000, 1, true))) = true ∧
    nextHas (exec .spillFault (sfState 1)) (fun t => decide ((coreOf t 0).spill = none)) = true ∧
    nextIs (exec .spillResume (spState true 0)) (putCore (spState true 0) 0 { c0 with active := true, spill := some (0, 0, false) }) = true := by decide +kernel
/-- A spill that fails loses the context of deck 3: its launch 1 is noted lost. -/
def slState : State :=
  let s := csState { c0 with active := true, spill := some (0, 0, false) } 0x70080 1
  { s with cur := { x := { s.cur.x with c := 0x70000 } }, runs := [(1, ⟨1, none, [], 0⟩)] }
theorem wit_spillLost : ctxDecks slState 0 false = [(3, tDeck)] ∧ numberOf slState tDeck.launch = 1 ∧
    nextHas (exec .spillFault slState) (fun t => decide ((coreOf t 0).spill = none ∧ ctxSpans t 0 false = [] ∧ (mapFind t.runs 1).map Run.noted = some [noteLost])) = true := by
  decide +kernel
def prlState : State := frontEv (withImage (csState c0 0x70000 0))
theorem wit_preload : clocked prlState = true ∧ c0.failed = false ∧ c0.preload = none ∧ imgRead prlState 0x70000 4 = 0x4A394358 ∧
    (imageAt prlState 0x70000).decks = [] ∧ resumeOlds prlState 0x70000 = [] ∧
    ctxEmpty prlState 0 (!c0.active) = true ∧ (imageAt prlState 0x70000).banks.length ≤ (freeBanks prlState 0).length ∧
    nextHas (exec .preloadComplete prlState) (fun t => decide ((coreOf t 0).preload = some (0x70000, true))) = true := by decide +kernel
def walkNeed : Need := ⟨.span 1, 1, false, false, 0⟩
def walkTest (vpn : Nat) : Walk := ⟨0, probeRoot, vpn, [walkNeed]⟩
def wkState (vpn : Nat) : State := hEv 75 { withPages { zState with cores := [(0, Core.init), (512, Core.init)] } with walks := [(75, walkTest vpn)] }
theorem wit_walk : walkRuns (wkState 0x30) 75 (walkTest 0x30) = true ∧ walkRuns (wkState 0x31) 75 (walkTest 0x31) = true ∧
    (unitWalk (wkState 0x30) (walkTest 0x30) 4 probeRoot).1 = .leaf 0 0x30 false false false ∧
    (unitWalk (wkState 0x31) (walkTest 0x31) 4 probeRoot).1 = .fault 0 false ∧
    walksWith (wkState 0x30) 75 (walkTest 0x30) (.leaf 0 0x30 false false false) = [(75, walkTest 0x30)] ∧
    walksWith (wkState 0x31) 75 (walkTest 0x31) (.fault 0 false) = [(75, walkTest 0x31)] ∧
    closingBars (wkState 0x30) walkNeed = false := by decide +kernel
def walkLeft (vpn : Nat) : State :=
  let r := unitWalk (wkState vpn) (walkTest vpn) 4 probeRoot
  r.2.2.foldl homeTouch (keepUppers { wkState vpn with walks := [], fresh := (wkState vpn).fresh + 1 } r.2.1)
theorem test_walk :
    nextIs (exec .walkComplete (wkState 0x31)) (makeFault (walkLeft 0x31) (walkTest 0x31) walkNeed 0 false none) = true ∧
    nextIs (exec .walkComplete (wkState 0x30)) (installTlb (walkLeft 0x30) 0 false 0 ⟨probeRoot, 0x30, 0, 0x30, false, false, false, false⟩) = true ∧
    (let w := { walkTest 0x30 with needs := [{ walkNeed with write := true }] }
     let s := { wkState 0x30 with walks := [(75, w)] }
     nextIs (exec .walkComplete s) (makeFault (walkLeft 0x30) w { walkNeed with write := true } 0 false none)) = true := by decide +kernel
def shTest (e : Bool) : Shoot := ⟨1, probeRoot, 0x30, 12, 100, e, 60, []⟩
def shState (e : Bool) : State :=
  let s := pkState [] zState
  { s with cur := { x := { id := 60 } }, ticks := 100, fe := { s.fe with shoots := [(60, shTest e)], pkts := [(60, toPkt 19)] } }
theorem wit_shootdownStages :
    nextIs (exec .shootdownBoundExpire (shState false)) { shState true with fe := (shState true).fe } = true ∧
    shootLines (shState false) (shTest false) = [] ∧ shootCmds (shState false) (shTest false) = [] ∧
    (∀ e ∈ [true, false], nextHas (exec .shootdownRemoval (shState e)) (fun t => t.fe.shoots.isEmpty && t.fe.pkts.isEmpty &&
      t.cores.all (fun c => (c.2.stlb ++ c.2.itlb).all (fun y => !tlbIn (shTest e) y))) = true) := by decide +kernel
def qeLaunch : Launch := { pL with det := true, quantumLen := 1024, begun := true }
def qeState (d : Deck) : State := hEv 3 { putDeck zState 3 d with spans := [], launches := [(2, qeLaunch)] }
theorem wit_quantumEnd : deckSpans (qeState tDeck) 3 = [] ∧ tDeck.quanta + 1 < qeLaunch.watchdog ∧ quantumBusy (qeState tDeck) 3 tDeck = false ∧
    (qeState tDeck).loads = [] ∧ nextHas (exec .quantumEnd (qeState tDeck)) (fun t => decide (deckOf t 3 = some { tDeck with quanta := 1 } ∧ t.mem = [])) = true := by
  decide +kernel
theorem wit_noProgress : (let d := { tDeck with stuck := true }
    let s1 := record (putDeck (qeState d) 3 tDeck) { boxEvent (qeState d) with kind := 1, code := 0x85, die := 0, core := 0, launch := 1, key := 1, arg := 0, stop := 0 }
    let s2 := killLaunch s1 1 noteNoProgress
    decide ((s2.lines.filter (fun p => p.2.counted)) = []) && nextIs (exec .noProgress (qeState d)) s2) = true := by decide +kernel
def phLaunch : Launch := { qeLaunch with phaseLen := 1, dims := (2, 1, 1) }
def phRings : SMap Ring := [(3, ⟨[⟨2, 0, 0, 1, 1, []⟩], []⟩)]
def phState : State := hEv 2 { zState with decks := [], spans := [], launches := [(2, phLaunch)], rings := phRings }
theorem wit_phaseStart : phaseOf phLaunch 1 ≠ phLaunch.phase ∧ phState.images = [] ∧
    (let p := publish phState (phaseAgent 2)
     nextIs (exec .phaseStart phState) { p.1 with ord := { p.1.ord with starts := mapPut p.1.ord.starts 2 (addClock (mapGet [] p.1.ord.starts 2) p.2) }, launches := [(2, { phLaunch with phase := 1, snapshot := memNow phState, nets := phState.nets })] }) = true := by
  decide +kernel
/-! Matrix values (R26 to R28): a sum of products truncated at 40 bits below the largest, an empty sum, a NaN scale. -/
theorem wit_matrixValues :
    let ps : List FVal := [.fin false 1 0, .fin false 3 (-42)]
    (∀ p ∈ ps, ∃ b m y, p = .fin b m y ∧ (m = 0 ∨ floorLog2 m y ≤ 0)) ∧ (∃ b m y, FVal.fin b m y ∈ ps ∧ m ≠ 0 ∧ floorLog2 m y = 0) ∧ (-1000000 : Int) ≤ 0 ∧
    (ps.map (unitsOf (0 - 40))).sum = 2 ^ 40 ∧ blockSum ps = decodeF fmtF32 0x3F800000 ∧
    (∀ p ∈ [FVal.fin true 0 3, .fin false 0 0], ∃ b y, p = .fin b 0 y) ∧ blockSum [.fin true 0 3, .fin false 0 0] = .fin false 0 0 ∧
    FVal.nan ∉ [FVal.inf true, .fin false 1 0] ∧ FVal.inf (!true) ∉ [FVal.inf true, .fin false 1 0] ∧ blockSum [.inf true, .fin false 1 0] = .inf true ∧
    blockSum [.inf true, .inf false] = .nan := by
  refine ⟨?_, ⟨false, 1, 0, .head _, by decide, by decide⟩, by decide, by decide, by decide +kernel, ?_, by decide +kernel, by decide, by decide, by decide +kernel, by decide +kernel⟩
  · intro p hp
    rcases List.mem_cons.mp hp with rfl | hp
    · exact ⟨false, 1, 0, rfl, .inr (by decide)⟩
    · rw [List.mem_singleton.mp hp]; exact ⟨false, 3, -42, rfl, .inr (by decide)⟩
  · intro p hp
    rcases List.mem_cons.mp hp with rfl | hp
    · exact ⟨true, 3, rfl⟩
    · rw [List.mem_singleton.mp hp]; exact ⟨false, 0, rfl⟩
theorem wit_matrixFrame : (16384 * mm1.acc ≤ 16384 * mm1.acc + 128 * 127 + 127 ∧ 16384 * mm1.acc + 128 * 127 + 127 < 16384 * (mm1.acc + 1)) ∧
    mmaElem Slot.init Slot.init mm1 0 0 0x3F800000 0 0 = 0 ∧ mmaElem Slot.init Slot.init mm1 1 1 0x3F800000 0 0 = 0x3F800000 := by decide +kernel

/-! Quantum entries and ends (R298, R299, R385): span 1 of deck 3 holds two stores of the quantum. -/
def quCells : List (Nat × Byte) := [(0x30000, 5), (0x30001, 6)]
def quLocal : List (Nat × Byte) := [(localLo, 7)]
def quSpan : Span := { tSpan [] with held := true, buffer := [(0x1000, .store quCells false), (0x1004, .store quLocal false)] }
def quState : State := hEv 3 { withPages (putSpan zState 1 quSpan) with launches := [(2, qeLaunch)] }
theorem wit_quantumEntries :
    (deckSpans quState 3).map (fun p => p.1) = [1] ∧ (deckSpans quState 3).find? (fun p => !p.2.buffer.isEmpty) = some (1, quSpan) ∧
    lookupVa quState qeLaunch.root 0x30000 = some (0x30000, false) ∧ (homeOf quState 0x600).counted = false ∧ (lineBusy quState 0 0x600).2 = false ∧
    (match applyEntry quState 1 quSpan qeLaunch (.store quCells false) with
     | .ok t => decide (homeByte t 0x30000 = 5 ∧ homeByte t 0x30001 = 6 ∧ homeByte t 0x30002 = 0)
     | _ => false) = true ∧
    (∀ d, deckOf quState 3 = some d → (localMode quState d 0).map (fun b => (b.mode, b.switch)) = some (.scratch, [])) ∧
    (match applyEntry quState 1 quSpan qeLaunch (.store quLocal false) with
     | .ok t => (deckOf t 3).all (fun d => decide (localByte t d 0 = 7))
     | _ => false) = true ∧
    (let r := applyAll 3 (putDeck quState 3 { tDeck with ending := true }) 3 qeLaunch
     r.2 && (deckSpans r.1 3).all (fun p => p.2.buffer.isEmpty)) = true := by decide +kernel
/-- A load of the quantum's end takes bin 2 of table 0 of its core; a store to a bank being switched waits. -/
def tbState : State :=
  let s := { quState with loads := [(90, ⟨1, .s 5, 4, false, [⟨0, noPa, none⟩], [], 1, none, some (0, 2), false, true, 0, 0x1000⟩)] }
  putCore s 0 { coreOf s 0 with hist := [(0, { bins := [(2, 9)], bias := 0 })] }
theorem wit_takeBin : (mapFind tbState.loads 90).map (fun ld => (ld.uid, ld.late, ld.hist)) = some (1, true, some (0, 2)) ∧ (spanOf tbState 1).isSome = true ∧
    (mapFind (takeBin tbState 90).loads 90).map (fun ld => ld.lanes.map LaneRead.got) = some [some 9] := by decide +kernel
def busyBank : State := putBank quState 0 0 { Bank.init with mode := .scratch, owner := some 3, switch := [⟨0, 1, 3, [], []⟩] }
theorem wit_entryWaits : (∀ d, deckOf busyBank 3 = some d → (localMode busyBank d 0).map (fun b => (b.mode, b.switch.length)) = some (.scratch, 1)) ∧
    (match applyEntry busyBank 1 quSpan qeLaunch (.store quLocal false) with
     | .wait t => decide (t = busyBank)
     | _ => false) = true := by decide +kernel
def ewSpan : Span := { wSpan with pend := .barwait 0 false (sRead wSpan 5) none 4 7 64 }
def ewState (b : Bar) : State := { putSpan (writeBar yState bLoc b) 1 ewSpan with launches := [(2, qeLaunch)] }
theorem wit_evalWait : (∀ b ∈ [{ barImage with phase := 6 }, { barImage with phase := 4, abandoned := true }, { barImage with phase := 4 }],
      waitBar (ewState b) ewSpan qeLaunch (sRead wSpan 5) = .loc bLoc ∧ deckBar (ewState b) qeLaunch 3 (sRead wSpan 5).toNat bLoc = b ∧ b.valid = true) ∧
    waitEnds { barImage with phase := 6 } 4 3 ∧ waitEnds { barImage with phase := 4, abandoned := true } 4 1 ∧
    waitStatus { barImage with phase := 4 } 4 = none ∧
    (∀ x ∈ [({ barImage with phase := 6 }, (3 : Word64)), ({ barImage with phase := 4, abandoned := true }, 1)],
      evalWait (ewState x.1) 1 ewSpan qeLaunch = putSpan (ewState x.1) 1 (advance (sWrite { ewSpan with pend := .none } 7 x.2))) ∧
    evalWait (ewState { barImage with phase := 4 }) 1 ewSpan qeLaunch = ewState { barImage with phase := 4 } := by
  unfold waitEnds; decide +kernel
def quEnd (s : State) : State × Bool := applyAll 3 (putDeck s 3 { tDeck with ending := true }) 3 qeLaunch
theorem wit_quantumEnds : QuantumEnds quState 3 tDeck qeLaunch ∧ QuantumEnds busyBank 3 tDeck qeLaunch := by
  unfold QuantumEnds; decide +kernel
/-- A quantum end with two stores; one whose store waits for its bank; one that has still a request to wait for. -/
theorem wit_quantumEntriesEnd :
    ((deckSpans quState 3).map (fun p => p.2.buffer.length)).sum = 2 ∧ (quEnd quState).2 = true ∧
    (deckOf (quEnd quState).1 3).map (fun d => (d.retired, d.applied, d.quanta)) = some (false, true, 0) ∧ quantumBusy (quEnd quState).1 3 tDeck = false ∧
    nextHas (exec .quantumEnd quState) (fun t => decide ((deckOf t 3).map (fun d => (d.quanta, d.ending, d.applied, d.stuck)) = some (1, false, false, false))) = true ∧
    (quEnd busyBank).2 = false ∧ decide ((quEnd busyBank).1 = busyBank) = false ∧ nextIs (exec .quantumEnd busyBank) (quEnd busyBank).1 = true ∧
    (let s := { quState with reqs := [(88, { Req.init with by_ := [1] })] }
     (quEnd s).2 = true ∧ quantumBusy (quEnd s).1 3 tDeck = true ∧ nextIs (exec .quantumEnd s) (quEnd s).1 = true) := by decide +kernel
/-! The core of a swap (R288, R291): deck 0 of the served record takes core 4, swapped for it, once the swap is over. -/
theorem wit_swapCore :
    (let s := putCore (plState false []) 4 { Core.init with swapFor := some (80, 0) }
     swapCore s (plRec []) = some 4 ∧ deckCore s 3 (plLaunch false) (plRec []) = some 4 ∧
     deckCore (putCore s 4 { coreOf s 4 with swap := some 0 }) 3 (plLaunch false) (plRec []) = none) ∧
    swapCore (plState false []) (plRec []) = none ∧ deckCore (plState false []) 3 (plLaunch false) (plRec []) = placeDeck (plState false []) 3 (plLaunch false) 0 := by decide +kernel

/-! ### The mesh and the fabric -/

/-- A round of the handle at 0x50000 (die 0) that expects cores 0 and 1 of quad 0. -/
def mrTest : Round := ⟨0x50000, probeRoot, 1, 4, false, false, 0, 0, 100, 1, 0x60000, 3, some 50, [⟨.quad 0 0, [(0, ⟨[], [], [], 1⟩)], [], false⟩], none⟩
def mmTest (kind core round : Nat) : MeshMsg := ⟨kind, 0x50000, probeRoot, 1, round, core, .quad 0 0, .slice 0, ⟨[], [], [], BitVec.ofNat 512 (2 ^ core)⟩⟩
def meshState (kind core round : Nat) : State :=
  hEv 70 { zState with meshMsgs := [(70, mmTest kind core round)], rounds := [(0x50000, mrTest)] }
theorem wit_meshContribution : mrTest.expected.getLsbD 1 = true ∧ 1 / 32 = rootDie mrTest ∧ (nodeOf mrTest (.quad 0 0)).sent = false ∧
    (∀ x ∈ (nodeOf mrTest (.quad 0 0)).own, x.1 ≠ 1) ∧ (nodeOf mrTest (.quad 0 0)).own ≠ [] := by decide +kernel
theorem test_mesh : (let s1 := { meshState 0 1 4 with meshMsgs := [] }
      nextIs (exec .meshContribution (meshState 0 1 4)) (nodeStep s1 (putNode mrTest { nodeOf mrTest (.quad 0 0) with
        own := (nodeOf mrTest (.quad 0 0)).own ++ [(1, (mmTest 0 1 4).v)] }) (.quad 0 0))) = true ∧
    nextIs (exec .meshContribution (meshState 0 1 5)) (dropContribution { meshState 0 1 5 with meshMsgs := [] } 0x50000) = true ∧
    (let s1 := { meshState 1 1 4 with meshMsgs := [] }
     let r' := startClock s1 mrTest (.slice 0)
     nextIs (exec .meshPartial (meshState 1 1 4)) (nodeStep s1 (putNode r' { nodeOf r' (.slice 0) with
        kids := (nodeOf r' (.slice 0)).kids ++ [(.quad 0 0, (mmTest 1 1 4).v)] }) (.slice 0))) = true ∧
    (let s1 := { meshState 2 1 4 with meshMsgs := [] }
     nextIs (exec .startNotice (meshState 2 1 4)) (putRound s1 (startClock s1 mrTest (.slice 0)))) = true := by decide +kernel
def mtState : State := { zState with cur := { x := { a := 0x50000 } }, cycle := 150, rounds := [(0x50000, mrTest)] }
theorem wit_meshTimeout : roundBarrier mtState mrTest = (mtState, some none) ∧
    nextIs (exec .reductionTimeout mtState) (closeRound mtState mrTest 2 (heldCores mtState mrTest) none) = true := by decide +kernel
/-- R275, R280 by hand: round 4 closes with status 2 and no barrier; a dropped count at 65,535 stays. -/
theorem test_meshHandle : homeRead (closeRound mtState mrTest 2 3 none) 0x50018 8 = 0x0582000000000000 ∧
    homeRead (closeRound mtState mrTest 2 3 none) 0x50080 64 = 3 ∧
    (let s := homeWriteNat zState 0x50018 8 0x0102FFFE00000007
     homeRead (dropContribution s 0x50000) 0x50018 8 = 0x0102FFFF00000007 &&
     homeRead (dropContribution (dropContribution s 0x50000) 0x50000) 0x50018 8 == 0x0102FFFF00000007) = true := by decide +kernel

/-- A packet of rank 2 to group 7 of this die: a raw chunk of 128 bytes with tag 6. -/
def fpTest : FPkt := ⟨9, Config.package, 0, Config.package, 0, 7, 1, 2, 0, 6, 0, 3, 0, 128, List.replicate 128 5, false, false, false, 100, 8⟩
def fbState (p : FPkt) : State := let s := hEv 70 (withTable zState); { s with ticks := 300, fab := { s.fab with pkts := [(70, p)], sends := [(9, ⟨0, 0, 0, 7, [70], none, false⟩)] } }
theorem wit_packetReceive : fpTest.dstPkg = Config.package ∧
    (match acceptPacket (fbState fpTest) 70 fpTest with
     | .ok s1 => nextIs (exec .packetReceive (fbState fpTest)) (putPkt s1 70 { fpTest with accepted := true })
     | _ => false) = true ∧
    (let p := { fpTest with key := 2 }
     match acceptPacket (fbState p) 70 p with
     | .drop s1 => nextIs (exec .packetReceive (fbState p)) (putPkt s1 70 { p with lost := true })
     | _ => false) = true := by decide +kernel
/-- A contribution whose chunk the staging memory cannot hold: another chunk has all of it. -/
def trimPkt : FPkt := { fpTest with kind := 0, total := 16384 }
def trimState : State := let s := fbState trimPkt
  { s with fab := { s.fab with chunks := [(80, ⟨0, 3, 0, 0, 0x1000000, []⟩)] } }
theorem wit_packetTrim : acceptPacket trimState 70 trimPkt = .trim ∧
    nextIs (exec .packetReceive trimState) (putPkt trimState 70 { trimPkt with lost := true, trimmed := true }) = true := by decide +kernel
def susState : State := let s := fbState fpTest; { s with fab := { s.fab with paths := [(peerKey 0 Config.package 0, ⟨[8], []⟩)] } }
theorem wit_resend : fpTest.path ≠ 256 ∧ fpTest.sent + 200 ≤ (fbState fpTest).ticks ∧
    (pathsOf susState 0 Config.package 0).suspect.contains 8 = true ∧
    nextHas (exec .packetResend (fbState fpTest)) (fun t => decide ((mapFind t.fab.pkts 70).map FPkt.sent = some 300 ∧
      (pathsOf t 0 Config.package 0).suspect.contains 8 = true)) = true := by decide +kernel
/-- Which path is taken is a free value (log 18), so these two are the meanings' own form. -/
theorem wit_resendPaths : exec .packetResend susState = .next (removePath susState 0 Config.package 0 8) ∧
    (let p := { fpTest with lost := true, trimmed := true }
     exec .negativeAcknowledgement (fbState p) = .next (launchPacket (fbState p) 70 p 256)) := by constructor <;> rfl
def akState : State := hEv 9 (fbState { fpTest with accepted := true })
theorem wit_acknowledged : nextIs (exec .sendAcknowledged akState) (dropSends akState [9]) = true ∧ (dropSends akState [9]).fab.sends = [] := by decide +kernel
def lkState : State := { zState with cur := { x := { die := 3, a := 5, b := 2, c := 9 } }, fab := { zState.fab with dead := [13], paths := [(peerKey 3 5 2, ⟨[], [9]⟩)] } }
theorem wit_links : nextHas (exec .lossOfSignal lkState) (fun t => t.fab.dead.contains 5 && decide (t.mem = lkState.mem)) = true ∧
    nextHas (exec .pathReturn lkState) (fun t => !t.fab.dead.contains (portOf 3 9) && !(pathsOf t 3 5 2).removed.contains 9 && decide (t.mem = lkState.mem)) = true ∧
    nextIs (exec .connectionSetUp lkState) lkState = true ∧
    (let s := { zState with cur := { x := { die := 3, a := 4 } } }
     nextIs (exec .connectionSetUp s) (record s { boxEvent s with kind := 3, code := 6, die := 3 })) = true := by decide +kernel
/-- An entry of a group of one member: the root's own tile is the sum. -/
def swEntry : Entry := ⟨0, 0, 70, 1, 3, 1, probeRoot, 1, 0, 7, 0, 0, none, [], 0, 1, 2, 0, false, 0xA0000, 0, [(0, 0)], 0, 0, [], [], none, 0, [], false, false, false, 0, 0⟩
def swChunk : Chunk := ⟨0, 7, 0, 0, 16384, []⟩
def swpState (e : Entry) : State := let s := hEv 70 (withTable zState); { s with fab := { s.fab with entries := [(70, e)], chunks := [(80, swChunk)] } }
/-- A leaf of a group of two, uncoded and with the sign code. -/
def upEntry : Entry := { swEntry with rank := 1, g := 2, members := [(0, 0), (0, 0)] }
def cdEntry : Entry := { upEntry with code := 1, resid := 2 ^ 41 }
theorem wit_sweep : (∀ e ∈ [swEntry, { swEntry with op := 2 }, upEntry, cdEntry],
      findChunk (swpState e) e.die e.handle e.t e.tag = some (80, swChunk) ∧ chunkReady swChunk e = true ∧ (anyGroup (swpState e) 0 7).isSome = true ∧
      clocked (swpState e) = true ∧ e.out = none ∧ e.swept = false ∧ e.got = []) ∧
    entryHop swEntry = 0 ∧ codeOfField swEntry.code = .none ∧ swEntry.home = false ∧ entryHop upEntry ≠ 0 ∧ codeOfField upEntry.code = .none ∧
    entryHop cdEntry ≠ 0 ∧ codeOfField cdEntry.code = .sign ∧ (anyGroup (swpState cdEntry) 0 7).isSome = true := by decide +kernel
def cdState : State := { withObject (swpState cdEntry) with lines := [] }
theorem wit_objectSweep : ObjectOpen cdState := by unfold ObjectOpen; decide +kernel
theorem wit_sweepCoded : findChunk cdState 0 7 0 0 = some (80, swChunk) ∧ (anyGroup cdState 0 7).all (fun g => !predAlive cdState 0 g) = true ∧ compressBefore cdState cdEntry = false ∧
    mapFind cdState.fab.entries 70 = some cdEntry ∧ clocked cdState = true := by decide +kernel
theorem wit_sweepResidual : residAt cdState 0 probeRoot 1 (.fabric 70) (2 ^ 41) [residKey cdEntry] true = .ok cdState encObj :=
  objectAt cdState wit_objectSweep _ _ _
theorem wit_sweepRuns : nextHas (exec .chunkSweep (swpState swEntry)) (fun _ => true) = true ∧ (reduceTile swEntry swChunk none).2 = 0 := by decide +kernel
/-- The children of the root of three members with k = 2, in ascending rank. -/
theorem wit_reducedTile : entryChildren { swEntry with g := 3, members := [(0, 0), (0, 0), (0, 0)] } = [1, 2] ∧ (List.replicate 4096 0).length = 4096 := by decide +kernel
def dnState (st due : Nat) : State := hEv 9 { zState with ticks := 200, fab := { zState.fab with drains := [(9, ⟨0, 7, due, 0, st⟩)] } }
theorem wit_drain : drainBusy (dnState 0 500) ⟨0, 7, 500, 0, 0⟩ = false ∧
    nextIs (exec .drainEnd (dnState 0 500)) (endDrain (dnState 0 500) 9 ⟨0, 7, 500, 0, 0⟩ 1) = true ∧
    nextIs (exec .drainBoundExpire (dnState 0 100)) (endDrain (dnState 0 100) 9 ⟨0, 7, 100, 0, 0⟩ 2) = true := by decide +kernel
def vnState (n : Nat) : State := { zState with cur := { x := { a := 0x50010, b := 7 } }, fab := { zState.fab with notices := [(0x50010, n)], out := [(Config.package, 0x50010, 7)] } }
theorem wit_versionNotice : nextIs (exec .versionNotice (vnState 9)) { vnState 9 with fab := { (vnState 9).fab with out := [] } } = true ∧
    nextIs (exec .versionNotice (vnState 5)) (noticeAcquires { vnState 5 with fab := { (vnState 5).fab with out := [], notices := [(0x50010, 7)] } } 0x50010 7) = true := by
  decide +kernel
/-- A processor whose `recv` (or `upd`) at 0x30000 waits since cycle 100 at most 50 cycles for x5. -/
def twFp : Fp := { aFp with pc := 0x30000, wait := .since 100 50 5 }
def twState (w : Word32) : State :=
  let s := homeWrite (withPages { zState with cycle := 150 }) 0x30000 (natToBytes 4 w.toNat)
  { s with fab := { s.fab with fps := [(0, twFp)] }, cur := { x := { die := 0, a := 0 } } }
theorem wit_fpTimeouts : (match encodeT .trelixRecv ⟨5, 2, 0, 0⟩, encodeT .trelixUpd ⟨5, 2, 3, 0⟩ with
    | some w, some v => decide (fpRow (twState w) twFp = some .trelixRecv ∧ fpRow (twState v) twFp = some .trelixUpd) &&
        nextIs (exec .recvTimeout (twState w)) (fpReported (twState w) 0 twFp 5 2 0) &&
        nextIs (exec .updTimeout (twState v)) (fpReported (twState v) 0 twFp 5 2 0)
    | _, _ => false) = true := by decide +kernel
def wsFetch : WFetch := ⟨0, 0, Config.package, 0, probeRoot, 1, 0x50000, 5, 0, 4, 0x60000, 0, 0x70000, none⟩
def wsState : State := let s := hEv 9 (homeState 1 4 5 5 1); { s with fab := { s.fab with fetches := [(9, wsFetch)] } }
theorem wit_wfetchServe : (match serveHome wsState 9 wsFetch with
    | (_, some v) => decide ((v.status, v.c) = (8, 4))
    | _ => false) = true := by decide +kernel
theorem wit_wfetchPaths : wsFetch.answered = none ∧ wsFetch.pkg = Config.package ∧ routeWaits wsState wsFetch.srcDie wsFetch.die = false := ⟨rfl, rfl, by decide +kernel⟩
/-- A drain that waited to apply its policy ends with 2 (R359). -/
theorem wit_drainLate : nextIs (exec .drainEnd (dnState 3 500)) (endDrain (dnState 3 500) 9 ⟨0, 7, 500, 0, 3⟩ 2) = true ∧
    (dnState 0 100).fab.entries = [] := by decide +kernel
/-- A start notice goes on with the node that its first contribution opens (R276). -/
theorem wit_startNotice : mrTest.tree < 2 ∧ mrTest.exact = false ∧ (zState.mg.failedDies.contains (rootDie mrTest)) = false ∧
    routeWaits (meshState 1 1 4) (meshDie (.quad 0 0)) (meshDie (.slice 0)) = false := by decide +kernel

/-! ### Links, failures, errors, power, resets -/

def mgAt (x : Args) (m : Mgmt → Mgmt) : State := { zState with cur := { x }, mg := m zState.mg }
theorem wit_causeways :
    (let s := mgAt { a := 3, b := 1 } (fun m => { m with replays := [(3, 4)] })
     nextIs (exec .flitCrcFail s) (recLink { s with mg := { s.mg with replays := [(3, 5)] } } 1 3)) = true ∧
    (let s := mgAt { a := 3 } (fun m => { m with replays := [(3, 16)] })
     nextIs (exec .causewayRetrain s) (recLink { s with mg := { s.mg with retrain := [3], replays := [] } } 2 3)) = true ∧
    (let s := mgAt { a := 3 } (fun m => { m with retrain := [3] })
     nextIs (exec .retrainComplete s) { s with mg := { s.mg with retrain := [] } }) = true ∧
    (let s := mgAt { a := 3, b := 1 } (fun m => { m with retrain := [3] })
     nextIs (exec .retrainComplete s) (recLink { s with mg := { s.mg with retrain := [], cwHalf := 8 } } 3 3)) = true ∧
    (let s := mgAt { a := 3 } (fun m => { m with cwDown := 8 })
     nextIs (exec .routeInstall s) { s with mg := { s.mg with rerouted := [3] } }) = true := by decide +kernel
def flState : State := { mgAt { a := 0, die := 0 } id with fab := { zState.fab with fps := [(2, aFp), (5, aFp)] } }
theorem wit_failures : nextIs (exec .quadStopFail flState) (failQuad flState 0) = true ∧
    nextHas (exec .quadStopFail flState) (fun t => (spanOf t 1).isNone && t.mg.failedQuads.contains 0) = true ∧
    nextHas (exec .dieFail flState) (fun t => t.mg.failedDies == [0] &&
      decide (t.fab.fps.map (fun f => (f.1, f.2.running)) = [(2, false), (5, true)])) = true := by decide +kernel
theorem wit_errors :
    (let s := mgAt { id := 1, a := 0, b := 62 } id
     nextHas (exec .uncorrectableError s) (fun t => (spanOf t 1).any (fun sp => sp.badS.getLsbD 62))) = true ∧
    (let s := mgAt { a := 4, b := 0x600 } id
     nextHas (exec .uncorrectableError s) (fun t => (homeOf t 0x600).latent && badLine t 0x600)) = true ∧
    (let s := { mgAt { a := 0x600 } id with lines := [(0x600, { HomeLine.init with latent := true })] }
     nextIs (exec .scrub s) (recUncorrectable (putHome s 0x600 { HomeLine.init with poison := true }) 0 0 0 4 0x30000)) = true ∧
    nextIs (exec .scrub (mgAt { a := 0x600 } id)) (mgAt { a := 0x600 } id) = true := by decide +kernel
theorem wit_powerEvents :
    nextHas (exec .thermalThrottle (mgAt { a := 95 } (fun m => { m with power := 1 }))) (fun t => t.mg.power == 2) = true ∧
    nextHas (exec .powerOverCap (mgAt {} (fun m => { m with power := 2 }))) (fun t => t.mg.power == 2) = true ∧
    nextHas (exec .throttleRestore (mgAt { a := 89 } (fun m => { m with power := 2, throttle := 2 }))) (fun t => t.mg.power == 1 && t.mg.throttle == 1) = true ∧
    nextHas (exec .thermalTrip (mgAt { a := 115 } id)) (fun t => t.mg.safe && t.mg.code == 7 && (spanOf t 1).isNone) = true ∧
    nextIs (exec .firmwareFault (mgAt {} id)) (mgAt {} (fun m => { m with safe := true, code := 8 })) = true := by decide +kernel
def pgState (a : Nat) (rest : List Byte) : State := { State.reset with cur := { x := { a, core := 5, bytes := natToBytes 8 4096 ++ rest } } }
/-- No bundle at all does not check; dies that BIST cannot repair stop the package first. -/
theorem wit_powerGood : bundleOk (bundleOf []) [] = false ∧
    nextHas (exec .powerGood (pgState 0 [])) (fun t => t.mg.safe && t.mg.code == 5 && t.mg.step == 6 && decide (t.mem = [])) = true ∧
    nextHas (exec .powerGood (pgState 2 [])) (fun t => t.mg.safe && t.mg.code == 1 && !t.mg.enabled) = true := by decide +kernel
/-- Whether a bundle checks rests on free values (log 19); any bundle and fused digest may be what power-good reads. -/
theorem wit_powerGoodReads (fused bundle : List Byte) (h : fused.length = 64) : (pgState 0 (fused ++ bundle)).mg.step = 0 ∧
    ((pgState 0 (fused ++ bundle)).cur.x.bytes.drop 8).take 64 = fused ∧ (pgState 0 (fused ++ bundle)).cur.x.bytes.drop 72 = bundle := by
  refine ⟨rfl, ?_, ?_⟩
  · show (fused ++ bundle).take 64 = fused
    rw [← h, List.take_left]
  · show (fused ++ bundle).drop 64 = bundle
    rw [← h, List.drop_left]
def rsMem : State := { mgAt { die := 2 } (fun m => { m with saves := [(4, (6, [], 0))], saveSeq := [(2, 6)] }) with
  mem := [(5, 1), (0xF000000000000, 2)], box := [(2, [boxEvent zState])] }
theorem wit_resets : nextHas (exec .warmReset rsMem) (fun t => decide (t.mem = rsMem.mem ∧ t.spans = [] ∧ t.mg.saves = rsMem.mg.saves ∧ t.fe = State.reset.fe)) = true ∧
    nextHas (exec .coldPowerLoss rsMem) (fun t => decide (t.mem = [(0xF000000000000, 2)] ∧ t.mg = State.reset.mg)) = true ∧
    nextHas (exec .blackBoxSave rsMem) (fun t => decide ((mapFind t.mg.saves 5).map (fun x => (x.1, x.2.1)) = some (7, [boxEvent zState]) ∧ mapGet 0 t.mg.saveSeq 2 = 7)) = true := by decide +kernel
theorem wit_illegal : sameNext (exec .illegalEncoding zState) (takeTrap zState zSpan pL ⟨causeIllegal, false, zSpan.am, 0⟩) = true ∧
    sameNext (exec .illegalEncoding gBase) (takeTrap gBase gSpan pL ⟨causeIllegal, true, 5, 0⟩) = true ∧
    nextHas (exec .illegalEncoding zState) (fun t => (spanOf t 1).any (fun sp => decide (sp.spc = pL.trapEntry ∧ sp.hdepth = 1 ∧ sRead sp 61 = 1))) = true ∧
    nextHas (exec .unlistedTrelixOpcode (xState aFp aWord)) (fun u => decide (u.mem = [] ∧ fpOf u 0 = { aFp with halting := some (1, causeIllegal, 0) })) = true := by
  decide +kernel
/-- Parapet (R331): the shadow copy of v4 differs in lane 2, and a store takes its address from it: no lane stores, the span halts with
LOCKSTEP and the mask of lane 2. A pass that gives nothing away leaves the copies apart, each with its own result. -/
def ppRegs : SMap Word32 := mapPut lmSpan.v 130 0x24#32
def ppSpan : Span := { lmSpan with shadow := some ppRegs }
def ppState (w : LWord) : State := let s := putSpan lmBase 1 ppSpan; { s with cur := { s.cur with word := w } }
def lkHalt : State := { mgAt { id := 1, a := 16 } id with launches := [(2, { pL with parapet := true })] }
theorem wit_lockstep :
    nextIs (exec .uncorrectableError lkHalt) (lockstepHalt lkHalt 1 0) = true ∧
    nextHas (exec .uncorrectableError lkHalt) (fun t => (spanOf t 1).isNone && !t.box.isEmpty) = true ∧
    (match encodeL (.vst (lmF 2)), encodeL (.vadd (lmF 2)) with
     | some w, some v =>
       decide (w.extractLsb' 88 8 = 0xA8) &&
       (match exec (.vst (lmF 2)) (putSpan (ppState w) 1 lmSpan), exec (.vst (lmF 2)) (putSpan (ppState w) 1 { lmSpan with v := ppRegs }) with
        | .next ta, .next tb => match spanOf ta 1, spanOf tb 1 with
          | some a, some b => decide (a.traps = [] ∧ a ≠ lmSpan ∧ passMismatch (ppState w) lmSpan { lmSpan with v := ppRegs } a b = 4)
          | _, _ => false
        | _, _ => false) &&
       nextIs (runPass (.vst (lmF 2)) (ppState w) 1) (lockstepHalt (ppState w) 1 4) &&
       nextHas (runPass (.vadd (lmF 2)) (ppState v) 1) (fun t => (spanOf t 1).any (fun sp => sp.shadow.any (fun r =>
         decide (vRead sp 16 0 = vRead { sp with v := r } 16 0 ∧ vRead sp 16 2 ≠ vRead { sp with v := r } 16 2))))
     | _, _ => false) = true := by decide +kernel
/-- A byte that only an L2 slice holds is lost at a warm reset (R228, R332). -/
theorem test_resetLosesSlice : (let s := { rsMem with lines := [(0, { HomeLine.init with below := some 0x42, l2 := 1 })] }
    nextHas (exec .warmReset s) (fun t => decide (memByte t 0 = 0x42 ∧ memByte t 5 = 0))) = true ∧
    (stackBytes rsMem).mem = rsMem.mem := by decide +kernel

/-! ### The assembler (R66 to R70, the chapter's worked kernel) -/

def asmX : LFields := ⟨0, 0, 0, 0, 0, 0, 0, 0, 0, 0, 0, 0, 0⟩
def asmUp (i : LFields → Instr) (ty : BitVec 4) : Instr := i { asmX with vd := 8, va := 8, bcls := 2, ty, p2 := 1 }
/-- The kernel `parity` of the assembly chapter's example. -/
def asmParity : Kernel where
  lanes := [.label "body", .planes [[.insn (asmUp .vadd 2)], [.insn (asmUp .vsub 2), .insn (asmUp .vshl 2)]],
    .label "pick", .insn (.vlane { asmX with vd := 9 }), .insn (.vand { asmX with vd := 9, va := 9, bcls := 2, ty := 15, p2 := 1 }),
    .insn (.vplset { asmX with va := 9 })]
  scalar := [.lrun "pick" 3, .li 5 (.desc "body"), .insn (.lrunp 5 63 1), .insn .sexit]
  data := []
  trelix := []
  vregs := some 16
  spans := some 1
  scratch := some 0
  banks := some (32, 0, 0)
  fslots := []
  regions := []
  writes := []
  equ := []

/-- The S-words, the L-words and the template that the example prints; 16 registers are `vregs / 8` = 2. -/
theorem test_assemble_parity :
    (assemble "parity" asmParity).map (fun o => (o.scalar, o.lanes)) = some
      ([0x80080008, 0x085FC110, 0x1C514000, 0x88017F01, 0x74000000],
        [0x010808000080010000000001, lnopWord, lnopWord, lnopWord, 0x020808000080010000000001, 0x180808000080010000000001,
          lnopWord, lnopWord, 0x290900000000000000000000, 0x100909000080078000000001, 0xD10009000000000000000000]) ∧
    (assemble "parity" asmParity).map (fun o => o.launch.take 6) =
      some [0, 0, 0, 0, 0x0000020100000000, 0x20] := by decide +kernel

/-- `li s5, 0x1_2345` (R66); `vfadd … , 1` encodes 0x3F80_0000 (R63); 0.1 rounds to 0x3DCC_CCCD. -/
theorem test_assemble_operands :
    liWords 5 0x12345 = [.addi 5 63 4, .slin 5 5 0x2345] ∧
    immParcel ⟨[], []⟩ .f32 (.number false 1 0) = some 0x3F800000 ∧
    immParcel ⟨[], []⟩ .f32 (.number true 1 (-1)) = some 0xBDCCCCCD ∧
    immParcel ⟨[], []⟩ .i16 (.expr (.num (-2))) = some 0xFFFEFFFE := by decide +kernel

/-! ### Encodings, well-formedness, the step -/

/-- A zero L-word's fields but for a type. -/
def lf (ty : BitVec 4) : LFields := ⟨0, 0, 0, 0, 0, 0, 0, 0, 0, ty, 0, 0, 0⟩
/-- The spec's assembled example of R66 to R70 (`parity`), its S-words and L-words; `lnop` and the two words of R55 that trap. -/
theorem test_decodeExample :
    decodeS 0x80080008#32 = .lrun 2 8 ∧ decodeS 0x085FC110#32 = .addi 5 63 272 ∧ decodeS 0x1C514000#32 = .slin 5 5 0 ∧
    decodeS 0x88017F01#32 = .lrunp 5 63 1 ∧ decodeS 0x74000000#32 = .sexit ∧
    decodeL 0x010808000080010000000001#96 = .vadd { lf 2 with vd := 8, va := 8, bcls := 2, p2 := 1 } ∧
    decodeL 0x020808000080010000000001#96 = .vsub { lf 2 with vd := 8, va := 8, bcls := 2, p2 := 1 } ∧
    decodeL 0x180808000080010000000001#96 = .vshl { lf 2 with vd := 8, va := 8, bcls := 2, p2 := 1 } ∧
    decodeL 0x290900000000000000000000#96 = .vlane { lf 0 with vd := 9 } ∧
    decodeL 0x100909000080078000000001#96 = .vand { lf 15 with vd := 9, va := 9, bcls := 2, p2 := 1 } ∧
    decodeL 0xD10009000000000000000000#96 = .vplset { lf 0 with va := 9 } ∧
    decodeL 0xD20000000000000000000000#96 = .lnop ∧ decodeT 0x04000000#32 = .trelixAddi ∧
    decodeS 0#32 = .illegalEncoding ∧ decodeL 0#96 = .illegalEncoding := by decide +kernel
/-- A word of each scalar family by the formats of R49 and the fields of R59 and R60. -/
theorem test_decodeScalar :
    decodeS 0b000001_000111_000001_000010_00000100#32 = .sltn 7 1 2 ∧ decodeS 0b000110_000111_000001_10_000000_111111#32 = .srai 7 1 63 ∧
    decodeS 0b010000_000111_000001_11111111111000#32 = .ldB64 7 1 0x3FF8 ∧
    decodeS 0b010100_000111_000001_000010_01_1_001_00#32 = .ldCons 7 1 2 1 1 ∧
    decodeS 0b010101_000111_000001_000010_10_0_010_00#32 = .stUnc 7 1 2 2 ∧
    decodeS 0b010110_000111_000000_000000_0_00_11111#32 = .pop 7 31 ∧ decodeS 0b010110_000000_000111_000000_1_00_00001#32 = .push 7 1 ∧
    decodeS 0b011011_000000_000111_000000_00000001#32 = .callRegister 7 ∧
    decodeS 0b100011_000000_000111_000000_00000011#32 = .mset 7 ∧ decodeS 0b100100_000111_000000_000000_0001_00_10#32 = .plmask 7 2 ∧
    decodeS 0b101000_0_01_0_1_0_000001_000010_000100_11#32 = .copyReaders 1 1 2 4 3 ∧
    decodeS 0b101001_1_10_011_000001_1_0_0101_0_1_0110_00#32 = .mma 2 3 1 1 0 5 1 6 ∧
    decodeS 0b101010_1_11_111_000001_000010_000011_00#32 = .acst 3 7 1 2 3 ∧
    decodeS 0b101011_00_1111_000000_000000_11111111#32 = .tclaim 15 255 ∧ decodeS 0b101011_01_0011_000000_000000_00000000#32 = .trel 3 ∧
    decodeS 0b101100_000000_000000_000000_100001_00#32 = .qfence 0x21 ∧
    decodeS 0b101101_1_00010_000001_00_0011_000100_01#32 = .collAr 1 3 4 ∧
    decodeS 0b101110_000111_000001_000000_00000_101#32 = .cpush 7 1 5 ∧
    decodeS 0b110000_000111_000001_000010_0000_0000#32 = .barinit 7 1 2 ∧ decodeS 0b110010_000111_000001_000000_0000_0_101#32 = .acq 7 1 5 ∧
    decodeS 0b110011_000000_000000_000000_00000_011#32 = .fence 3 ∧
    decodeS 0b110100_000111_000001_000010_1010_1111#32 = .atomB32Fadd 7 1 2 15 ∧ decodeS 0b110101_000111_000001_000010_1001_0000#32 = .atomN64Cas 7 1 2 0 ∧
    decodeS 0b110110_000000_000001_000000_11111111#32 = .rsend 1 255 ∧
    decodeS 0b111000_000000_000001_00000000000001#32 = .sysrd 1 1 ∧ decodeS 0b111001_000111_000000_000010_0000_0_101#32 = .hrd 7 2 5 := by
  decide +kernel
/-- A word of each lane and Trelix family by R51, R62 and R365, written parcel by parcel. -/
theorem test_decodeLane :
    decodeL (0b01000011_00000001_00000010_00000011#32 ++ 0b00000000_00_10_101_000_100_1001_000000_0#32 ++ 0x3F8#32) =
      .vfma ⟨1, 2, 3, 0, 0, 2, 5, 0, 4, 9, 0, 0, 0x3F8⟩ ∧
    decodeL (0b00100010_00000000_00000010_00111111#32 ++ 0b00000000_01_00_000_000_000_0110_000101_0#32 ++ 0#32) =
      .vclt ⟨0, 2, 63, 0, 1, 0, 0, 0, 0, 6, 5, 0, 0⟩ ∧
    decodeL (0b10000000_00000001_00000010_00000000#32 ++ 0b00000000_01_00_000_111_110_1111_000000_1#32 ++ 0xF#32) =
      .vcvt ⟨1, 2, 0, 0, 1, 0, 0, 7, 6, 15, 0, 1, 15⟩ ∧
    decodeL (0b10100000_00000001_00000010_00000011#32 ++ 0b00000000_01_00_000_000_000_1000_000000_0#32 ++ 0x80000000#32) =
      .vld ⟨1, 2, 3, 0, 1, 0, 0, 0, 0, 8, 0, 0, 0x80000000⟩ ∧
    decodeL (0b10110100_00000001_00000010_00000011#32 ++ 0b00000101_01_00_000_000_000_1111_000000_0#32 ++ 0xAF000000#32) =
      .vatomFadd ⟨1, 2, 3, 5, 1, 0, 0, 0, 0, 15, 0, 0, 0xAF000000⟩ ∧
    decodeL (0b11000000_00000001_00000010_00000000#32 ++ 0b00000000_00_00_000_000_000_1111_000000_0#32 ++ 0x8000001F#32) =
      .vshufDn ⟨1, 2, 0, 0, 0, 0, 0, 0, 0, 15, 0, 0, 0x8000001F⟩ ∧
    decodeL (0b11000100_00000000_00000010_00000000#32 ++ 0b00000000_00_00_000_000_000_1010_000101_0#32 ++ 0#32) =
      .vredadd ⟨0, 2, 0, 0, 0, 0, 0, 0, 0, 10, 5, 0, 0⟩ ∧
    decodeL (0b10110000_00000000_00000010_00000000#32 ++ 0b00000000_00_00_000_000_000_1111_000000_0#32 ++ 0x1F#32) =
      .vpush ⟨0, 2, 0, 0, 0, 0, 0, 0, 0, 15, 0, 0, 0x1F⟩ ∧
    decodeL (0xF0000000#32 ++ 0#32 ++ 0#32) = .extensionEncoding ∧ decodeL (0xFF000000#32 ++ 0#32 ++ 0#32) = .illegalEncoding ∧
    decodeT 0b000001_00001_00010_1111111111111111#32 = .trelixAddi ∧ decodeT 0b000000_00001_00010_00011_00000011010#32 = .trelixSra ∧
    decodeT 0b000000_00001_00010_00011_00000000100#32 = .unlistedTrelixOpcode := by decide +kernel
/-- The table's numbering: bit 0 is the low bit of the word; a long word is an L-word, and a word that only Trelix has is Trelix's. -/
theorem test_decodeTableWord :
    decodeTableWord 32 0x00304201 = some (.add 3 1 2) ∧ decodeTableWord 96 0xD20000000000000000000000 = some .lnop ∧
    decodeTableWord 32 0x0C000000 = some (.andi 0 0 0) := by decide +kernel

/-- R1, R55, R59, R60: each check of the S-words refuses a term, and a neighbour passes. -/
theorem test_illFormedScalar :
    wellFormed (.ldIndexed 1 2 3 3 1) = false ∧ wellFormed (.ldReaders 1 2 3 3 1) = false ∧ wellFormed (.ldIndexed 1 2 3 3 0) = true ∧
    wellFormed (.acq 1 2 0) = false ∧ wellFormed (.acq 1 2 6) = false ∧ wellFormed (.acq 1 2 5) = true ∧ wellFormed (.fence 7) = false ∧
    wellFormed (.copy 3 1 2 4 0) = false ∧ wellFormed (.copy 0 1 2 5 0) = false ∧ wellFormed (.copy 0 1 2 60 0) = false ∧
    wellFormed (.copy 2 1 2 56 0) = true ∧ wellFormed (.acst 0 0 1 3 2) = false ∧ wellFormed (.acst 0 0 1 2 2) = true ∧
    wellFormed (.tclaim 1 0) = false ∧ wellFormed (.tclaim 1 255) = true ∧ wellFormed (.qfence 0) = false ∧ wellFormed (.qfence 63) = true := by
  decide +kernel
/-- R52 to R55, R62, R72, R94: each check of the L-words refuses a term, and a neighbour passes. -/
theorem test_illFormedLane :
    (∀ i ∈ ([.vplset { lf 0 with va := 9, vd := 1 }, .vmov { lf 15 with va := 1 }, .vadd { lf 2 with bcls := 3 }, .vadd { lf 2 with bcls := 1, vb := 64 },
        .vadd { lf 2 with bcls := 2, vb := 1 }, .vadd { lf 2 with vc := 1 }, .vadd { lf 2 with ccls := 1 }, .vcvt { lf 15 with vb := 1 },
        .vldReaders { lf 2 with bcls := 1 }, .vldReaders { lf 2 with bcls := 1, ccls := 1, vc := 1 }, .vadd { lf 2 with fe := 1 }, .vadd { lf 2 with fs := 1 },
        .vadd { lf 2 with rm := 1 }, .vfadd { lf 10 with rm := 5 }, .vadd (lf 8), .vfadd (lf 2), .vadd { lf 2 with sdst := 1 }, .vadd { lf 2 with mod := 1 },
        .vadd { lf 2 with p2 := 1 }, .vlane { lf 0 with p2 := 1 }, .vpush { lf 15 with p2 := 32 }, .vcvt { lf 15 with p2 := 8 }, .vcvtu { lf 15 with p2 := 64 },
        .vf4unpk { lf 15 with mod := 1, p2 := 8 }, .vf4unpk { lf 15 with vb := 1 }, .vshufXor { lf 15 with p2 := 32 }, .vshufRot { lf 15 with p2 := 1 },
        .vatomAdd { lf 15 with bcls := 1, p2 := 1 }, .vatomFadd { lf 7 with bcls := 1, p2 := 0xA0000000 }, .vadd { lf 3 with vd := 1 },
        .vadd { lf 3 with vb := 1 }, .vgid { lf 0 with vd := 1 }, .vmxpack { lf 15 with vd := 1 }, .vmxunpk { lf 15 with va := 1 }] : List Instr),
      wellFormed i = false) ∧
    (∀ i ∈ ([.vplset { lf 0 with va := 9 }, .vadd { lf 3 with vd := 254, fe := 6 }, .vadd { lf 2 with bcls := 2, p2 := 1 }, .vcvtu { lf 15 with p2 := 0x30 }, .vf4unpk { lf 15 with bcls := 1, vb := 63 },
        .vldReaders { lf 2 with bcls := 1, vc := 255 }, .vatomFadd { lf 15 with bcls := 1, p2 := 0xAF000000 }] : List Instr), wellFormed i = true) := by
  decide +kernel

/-- Witnesses of the round trips, every operand at its bound. -/
theorem wit_roundTrips :
    (∀ p ∈ ([(.add 63 63 63, 0x03FFFF01), (.blez 63 0xFFFF, 0x617FFFFF), (.barwait 63 63 63 255, 0xC7FFFFFF), (.qfence 63, 0xB00000FC)] : List (Instr × Word32)),
      wellFormed p.1 = true ∧ encodeS p.1 = some p.2 ∧ decodeS p.2 = p.1) ∧
    (let i := Instr.vld ⟨254, 255, 63, 0, 1, 0, 6, 0, 0, 7, 0, 0, 0xFFFFFFFF⟩
     let w := 0b10100000_11111110_11111111_00111111#32 ++ 0b00000000_01_00_110_000_000_0111_000000_0#32 ++ 0xFFFFFFFF#32
     wellFormed i = true ∧ encodeL i = some w ∧ decodeL w = i) ∧
    trelixFieldsOk .trelixBeq ⟨31, 31, 31, 2047⟩ = true ∧ encodeT .trelixBeq ⟨31, 31, 31, 2047⟩ = some (0x23FFFFFF#32) := by decide +kernel

/-- The spec's worked encodings (R62, R366). -/
theorem test_workedEncodings :
    decodeS 0x08513FF0#32 = .addi 5 4 0x3FF0 ∧ decodeS 0x61870005#32 = .bmz 7 5 ∧
    decodeL 0x430309040540050000000000#96 = .vfma ⟨3, 9, 4, 5, 1, 0, 0, 0, 0, 10, 0, 0, 0⟩ ∧
    decodeL 0x430309040548050000000000#96 = .vfma ⟨3, 9, 4, 5, 1, 0, 4, 0, 0, 10, 0, 0, 0⟩ ∧
    decodeT 0x04A4FFF0#32 = .trelixAddi ∧ tfImm16 (tFieldsOf 0x04A4FFF0#32) = 0xFFF0 ∧ decodeT 0xA4CA5800#32 = .trelixUpd ∧
    tFieldsOf 0xA4CA5800#32 = ⟨6, 10, 11, 0⟩ ∧ decodeT 0x80E84802#32 = .trelixBwait ∧ tFieldsOf 0x80E84802#32 = ⟨7, 8, 9, 2⟩ := by decide +kernel

/-- The machine in which a word is next: `addi s0, s1, 1`; `vlane v9`; Trelix `addi x5, x4, -16`. -/
def sTurn : State := State.reset.withFetchWord 32 0x08004001
def lTurn : State := State.reset.withFetchWord 96 0x290900000000000000000000
def fTurn : State := State.reset.withFetchWord 32 0x04A4FFF0
/-- The rest of the machine once its turn is taken off the agenda. -/
def taken (s : State) : State := { s with agenda := [] }
/-- f holds of span 1 and its launch. -/
def ofSpan (s : State) (f : Span → Launch → Bool) : Bool :=
  match spanOf s 1 with
  | none => false
  | some sp => match launchOf s sp with
    | none => false
    | some l => f sp l
def headOf (sp : Span) : Block := sp.queue.headD probeBlock
def laneActing (s : State) (sp : Span) : State :=
  { putSpan s 1 sp with cur := { uid := 1, mask := sp.am, plane := (headOf sp).plane, planed := false, lane := true } }
/-- The hypotheses of StepRunsDecoded hold of a span, of a block's first unit, of a processor, of an event; what the step there writes. -/
theorem wit_stepScalar : sTurn.agenda = [.scalar 1] ∧
    ofSpan (taken sTurn) (fun sp l => mayIssue (taken sTurn) sp l && sp.queue.isEmpty && decide (sp.step ≠ .due) && decide (sp.spc.toNat < quadLo) &&
      !l.debug && decide (xlate { taken sTurn with cur := { uid := 1 } } sp l sp.spc.toNat 2 = .ok probeCode false)) = true ∧
    nextHas (step sTurn) (fun t => ofSpan t (fun sp _ => sRead sp 0 == 1#64 && sp.spc == 0x10004#64)) = true := by decide +kernel
theorem wit_stepLane : lTurn.agenda = [.lane 1] ∧
    ofSpan (taken lTurn) (fun sp l => mayIssue (taken lTurn) sp l && decide (sp.queue.length = 1) && decide (sp.step ≠ .due) &&
      !(headOf sp).planed && decide (((headOf sp).code[(headOf sp).pos * planesOf (headOf sp) + (headOf sp).plane]?).getD none = none) &&
      decide (wordAddr l (wordOff (headOf sp) (headOf sp).pos (headOf sp).plane) = probeLanes) &&
      [0, 4, 8].all (fun k => decide (xlate (laneActing (taken lTurn) sp) sp l (probeLanes + k) 2 = .ok (probeLanes + k) false))) = true ∧
    nextHas (step lTurn) (fun t => ofSpan t (fun sp _ => vRead sp 9 31 == 31#32 && sp.queue.isEmpty)) = true := by decide +kernel
theorem wit_stepLaneFree : laneFree (taken lTurn) 1 = true ∧ scalarFree (taken sTurn) 1 = true ∧ ofSpan (taken lTurn) (fun sp _ =>
    sp.shadow.isNone && (mapFind (headOf sp).picked (headOf sp).plane).isNone && !sp.badRec && decide (probeLanes + 8 < quadLo)) = true := by decide +kernel
/-- The same of a planed block whose code has been kept, in its second plane (two lanes are there), and of a word that has been read. -/
def keptBlock (picked : SMap LWord) : Block :=
  { probeBlock with planed := true, desc := 1 <<< 18, plane := 1, code := [none, some 0x290900000000000000000000], picked := picked }
def keptTurn (picked : SMap LWord) : State := putSpan lTurn 1 { probeSpan [keptBlock picked] with pl := 0x5 }
theorem wit_stepPlaned : (keptTurn []).agenda = [.lane 1] ∧ laneFree (taken (keptTurn [])) 1 = true ∧
    ofSpan (taken (keptTurn [])) (fun sp l => mayIssue (taken (keptTurn [])) sp l && decide (sp.am &&& planeMask sp 1 = 3) &&
      decide (wordAddr l (wordOff (headOf sp) (headOf sp).pos (headOf sp).plane) = probeLanes)) = true ∧
    nextHas (step (keptTurn [])) (fun t => ofSpan t (fun sp _ => vRead sp 9 1 == 1#32 && vRead sp 9 31 == 0#32)) = true ∧
    nextHas (step (keptTurn [(1, 0x290A00000000000000000000)])) (fun t => ofSpan t (fun sp _ => vRead sp 10 1 == 1#32)) = true := by decide +kernel
/-- Run-ahead (R39): with a block queued, `addi s0, s1, 1` goes into the window and changes nothing else; once the block is done it commits. -/
def aheadTurn : State := { homeWrite lTurn 0x10000 (natToBytes 4 0x08004001) with agenda := [.scalar 1] }
theorem wit_runAhead : ofSpan (taken aheadTurn) (fun sp _ => !sp.queue.isEmpty) = true ∧
    (match step aheadTurn with
     | .next t => ofSpan t (fun sp _ => decide (spanOf (taken aheadTurn) 1 = some { sp with ahead := [] }) &&
         decide (sp.ahead.map Ahead.point = [0x10000])) &&
         (match step { t with agenda := [.lane 1] } with
          | .next u => ofSpan u (fun sp _ => sp.queue.isEmpty && decide (sp.ahead.map Ahead.point = [sp.spc])) &&
              nextHas (step { u with agenda := [.scalar 1] }) (fun v => ofSpan v (fun sp _ => sRead sp 0 == 1#64 && sp.ahead.isEmpty))
          | _ => false)
     | _ => false) = true := by decide +kernel
/-- Another span of bay 0 between two planes of its position has the bay's lane issue (R144). -/
def planeBlock : Block := { probeBlock with planed := true, desc := 1 <<< 18, plane := 1, began := true }
def bayTurn : State := putSpan { lTurn with decks := mapPut lTurn.decks 3 { probeDeck with uids := [1, 2] } } 2 { probeSpan [planeBlock] with pl := 0x1, n := 1, age := 1 }
theorem wit_bayTaken : laneFree (taken bayTurn) 1 = false ∧ (match step bayTurn with
    | .fault .notEnabled => true
    | _ => false) = true := by decide +kernel
theorem wit_stepTrelix : fTurn.agenda = [.fp 0 0] ∧ clocked (taken fTurn) = true ∧ (taken fTurn).mg.failedDies.contains 0 = false ∧
    (fpOf (taken fTurn) 0).running = true ∧ (fpOf (taken fTurn) 0).halting = none ∧ dieWaits (taken fTurn) 0 (fpOf (taken fTurn) 0).pc (probeCode / 128) = false ∧ (fpOf (taken fTurn) 0).stop = none ∧
    fpXlate (taken fTurn) 0 (fpOf (taken fTurn) 0) (fpOf (taken fTurn) 0).pc 2 = .ok probeCode false ∧ badLine (taken fTurn) (probeCode / 128) = false ∧
    nextHas (step fTurn) (fun t => xRead (fpOf t 0) 5 == 0xFFFFFFFFFFFFFFF0#64 && decide ((fpOf t 0).pc = 0x10004)) = true := by decide +kernel
theorem wit_stepEvent :
    sameNext (step { toState 4 with agenda := [.event .acquireTimeout { id := 60 }] }) (exec .acquireTimeout { toState 4 with cur := { x := { id := 60 } } }) = true := by decide +kernel
/-- Time moves the counters alone; a span whose record is bad; one whose scalar turn is not its own. -/
theorem wit_stepTime : nextIs (step { sTurn with agenda := [.time 3 4] }) { taken sTurn with cycle := (taken sTurn).cycle + 3, ticks := (taken sTurn).ticks + 4 } = true ∧
    clocked (taken sTurn) = true := by decide +kernel
def badTurn (s : State) (q : List Block) : State := putSpan s 1 { probeSpan q with badRec := true }
theorem wit_stepBadRecord : ofSpan (taken (badTurn sTurn [])) (fun sp l => mayIssue (taken (badTurn sTurn [])) sp l && sp.badRec && sp.queue.isEmpty) = true ∧
    scalarFree (taken (badTurn sTurn [])) 1 = true ∧ laneFree (taken (badTurn lTurn [probeBlock])) 1 = true ∧
    nextHas (step (badTurn sTurn [])) (fun t => (spanOf t 1).all (fun sp => sp.live == 0)) = true ∧
    nextHas (step (badTurn lTurn [probeBlock])) (fun t => (spanOf t 1).all (fun sp => sp.live == 0)) = true := by decide +kernel
/-- The first pass of a planed position stands back where the next plane's source is empty (R45): `vmov v9, v4` with v4's lanes 2 and 3 empty. -/
def laterBlock : Block := { probeBlock with planed := true, desc := 1 <<< 18, plane := 0, picked := [(0, 0x290900000000000000000000), (1, 0x290900000000000000000000)] }
def laterTurn : State := putSpan lTurn 1 { probeSpan [laterBlock] with pl := 0x5 }
theorem wit_stepFirstPass : ofSpan (taken laterTurn) (fun sp l => decide (laterPlanes sp laterBlock ≠ []) && mayIssue (taken laterTurn) sp l && decide (sp.pend = .none) &&
      decide (sp.am &&& planeMask sp 0 ≠ 0)) = true ∧ laneFree (taken laterTurn) 1 = true ∧
    nextHas (step laterTurn) (fun _ => true) = true := by decide +kernel
/-- The canonical form (R164, R228, R237): reset has it, and so has the machine after a step. -/
theorem wit_canonical : CanonicalState State.reset ∧ CanonicalState sTurn ∧
    (match step sTurn with
     | .next t => Memory.wf t.mem && keysRise t.lines && keysRise t.spans && keysRise t.decks
     | _ => false) = true := by unfold CanonicalState; decide +kernel

end Sys2Proof.Machine.Tests
end

/-! Settlements of the family `spec/00_scope.md`: the scalar registers (R2). -/

namespace Sys2Proof.Machine

/-- Settles O2: the first two parts are the cases of register 63, the last two the read after a write of the same and
of another register. -/
theorem zeroRegisterAndReadBack : Obligations.ZeroRegisterAndReadBack := by
  intro sp r q x
  refine ⟨sRead_63 sp, sWrite_63 sp x, fun hr => ?readBack, fun hq => sRead_sWrite_other sp x hq⟩
  case readBack => simp [sRead_sWrite, hr]

end Sys2Proof.Machine

/-! Settlements of the family `spec/06_span_scalar.md`: scalar integer and logic (R119 to R123). -/

namespace Sys2Proof.Machine

/-! ### The shared forms on ready registers, and the instructions that use them -/

/-- The two-source form on ready registers commits its function's result. -/
theorem aluRR_ready {d a b : BitVec 6} {s : State} {sp : Span} (h : Acting s sp)
    (hr : ScalarsReady sp [a.toNat, b.toNat, d.toNat]) (f : Word64 → Word64 → Word64) :
    aluRR d a b f s =
      .next (putSpan s s.cur.uid (advance (sWrite sp d.toNat (f (sRead sp a.toNat) (sRead sp b.toNat))))) := by
  rw [aluRR, withSpan_acting h, needS_ready hr, commitS]

/-- The one-source form on ready registers commits its function's result. -/
theorem aluR_ready {d a : BitVec 6} {s : State} {sp : Span} (h : Acting s sp)
    (hr : ScalarsReady sp [a.toNat, d.toNat]) (f : Word64 → Word64) :
    aluR d a f s = .next (putSpan s s.cur.uid (advance (sWrite sp d.toNat (f (sRead sp a.toNat))))) := by
  rw [aluR, withSpan_acting h, needS_ready hr, commitS]

theorem exec_twoSourceOps (d a b : BitVec 6) (s : State) :
    ∀ p ∈ twoSourceOps d a b, exec p.1 s = aluRR d a b p.2 s := by
  simp only [twoSourceOps, List.forall_mem_append, List.forall_mem_cons]
  exact ⟨⟨exec_add d a b s, exec_sub d a b s, exec_mul d a b s, exec_mulh d a b s, exec_mulhn d a b s, exec_and d a b s,
      exec_or d a b s, exec_xor d a b s, exec_andn d a b s, exec_orn d a b s, exec_sll d a b s, exec_srl d a b s,
      exec_sra d a b s, exec_rotl d a b s, exec_rotr d a b s, List.forall_mem_nil _⟩,
    exec_min d a b s, exec_max d a b s, exec_minn d a b s, exec_maxn d a b s, List.forall_mem_nil _⟩

theorem exec_divisionOps (d a b : BitVec 6) (s : State) :
    ∀ p ∈ divisionOps d a b, exec p.1 s = aluRR d a b p.2 s := by
  simp only [divisionOps, List.forall_mem_cons]
  exact ⟨exec_div d a b s, exec_divn d a b s, exec_rem d a b s, exec_remn d a b s, List.forall_mem_nil _⟩

theorem exec_compareOps (d a b : BitVec 6) (s : State) :
    ∀ p ∈ compareOps d a b, exec p.1 s = aluRR d a b p.2 s := by
  simp only [compareOps, List.forall_mem_cons]
  exact ⟨exec_seq d a b s, exec_sne d a b s, exec_slt d a b s, exec_sge d a b s, exec_sltn d a b s, exec_sgen d a b s,
    List.forall_mem_nil _⟩

theorem exec_oneSourceOps (d a : BitVec 6) (s : State) : ∀ p ∈ oneSourceOps d a, exec p.1 s = aluR d a p.2 s := by
  simp only [oneSourceOps, List.forall_mem_cons]
  exact ⟨exec_clz d a s, exec_ctz d a s, exec_popc d a s, exec_sextI8 d a s, exec_sextI16 d a s, exec_sextI32 d a s,
    exec_zextN8 d a s, exec_zextN16 d a s, exec_zextN32 d a s, List.forall_mem_nil _⟩

theorem exec_immediateOps (d a : BitVec 6) (imm : BitVec 14) (n : BitVec 6) (s : State) :
    ∀ p ∈ immediateOps d a imm n, exec p.1 s = aluR d a p.2 s := by
  simp only [immediateOps, List.forall_mem_cons]
  exact ⟨exec_addi d a imm s, exec_andi d a imm s, exec_ori d a imm s, exec_xori d a imm s, exec_slin d a imm s,
    exec_slti d a imm s, exec_sltni d a imm s, exec_seqi d a imm s, exec_slli d a n s, exec_srli d a n s,
    exec_srai d a n s, exec_rotli d a n s, List.forall_mem_nil _⟩

/-! ### The words of majors 0x00 and 0x01 -/

/-- A word whose only check is a field that must be zero (R116). -/
theorem okS_zero {n : Nat} (z : BitVec n) {i : Instr} (hi : wellFormed i = true) :
    okS (z == 0) i = if z = 0 then i else .illegalEncoding := by
  by_cases hz : z = 0 <;> simp [okS, badS, hi, hz]

theorem decodeS_major0 (d a b : BitVec 6) (fn : BitVec 8) :
    decodeS (wR 0x00 d a b fn) = decodeAlu (wR 0x00 d a b fn) := by
  rw [decodeS, (wR_fields _ _ _ _ _).1]; rfl

theorem decodeS_major1 (d a b : BitVec 6) (fn : BitVec 8) :
    decodeS (wR 0x01 d a b fn) = decodeCmp (wR 0x01 d a b fn) := by
  rw [decodeS, (wR_fields _ _ _ _ _).1]; rfl

/-- Each listed fn of major 0x00 with two sources is its instruction (R119). -/
theorem decodeS_twoSource (d a b : BitVec 6) :
    ∀ p ∈ ((twoSourceOps d a b).map Prod.fst).zip twoSourceCodes ++ ((divisionOps d a b).map Prod.fst).zip divisionCodes,
      decodeS (wR 0x00 d a b p.2) = p.1 := by
  intro p hp
  obtain ⟨-, hd, ha, hb, hfn⟩ := wR_fields 0x00 d a b p.2
  rw [decodeS_major0, decodeAlu, hd, ha, hb, hfn]
  clear hd ha hb hfn
  revert p
  simp [twoSourceOps, divisionOps, twoSourceCodes, divisionCodes]

/-- Each listed fn of major 0x01 is its compare (R121). -/
theorem decodeS_compare (d a b : BitVec 6) :
    ∀ p ∈ ((compareOps d a b).map Prod.fst).zip compareCodes, decodeS (wR 0x01 d a b p.2) = p.1 := by
  intro p hp
  obtain ⟨-, hd, ha, hb, hfn⟩ := wR_fields 0x01 d a b p.2
  rw [decodeS_major1, decodeCmp, hd, ha, hb, hfn]
  clear hd ha hb hfn
  revert p
  simp [compareOps, compareCodes]

/-- With one source, sb must be zero (R116, R119). -/
theorem decodeS_oneSource (d a b : BitVec 6) :
    ∀ p ∈ ((oneSourceOps d a).map Prod.fst).zip oneSourceCodes,
      decodeS (wR 0x00 d a b p.2) = if b = 0 then p.1 else .illegalEncoding := by
  intro p hp
  obtain ⟨-, hd, ha, hb, hfn⟩ := wR_fields 0x00 d a b p.2
  rw [decodeS_major0, decodeAlu, hd, ha, hb, hfn]
  clear hd ha hb hfn
  revert p
  simp only [oneSourceOps, oneSourceCodes, List.map, List.zip_cons_cons, List.forall_mem_cons]
  exact ⟨okS_zero b rfl, okS_zero b rfl, okS_zero b rfl, okS_zero b rfl, okS_zero b rfl, okS_zero b rfl,
    okS_zero b rfl, okS_zero b rfl, okS_zero b rfl, List.forall_mem_nil _⟩

/-- A value that is in no list has none of the list's numbers. -/
theorem toNat_ne_of_not_mem {n : Nat} {x : BitVec n} {l : List (BitVec n)} (h : x ∉ l) : ∀ c ∈ l, x.toNat ≠ c.toNat :=
  fun _ hc e => h (BitVec.eq_of_toNat_eq e ▸ hc)

theorem decodeS_unlisted0 (d a b : BitVec 6) {fn : BitVec 8}
    (h : fn ∉ twoSourceCodes ++ divisionCodes ++ oneSourceCodes) : decodeS (wR 0x00 d a b fn) = .illegalEncoding := by
  obtain ⟨-, -, -, -, hfn⟩ := wR_fields 0x00 d a b fn
  have hne := toNat_ne_of_not_mem h
  simp only [twoSourceCodes, divisionCodes, oneSourceCodes, List.forall_mem_append, List.forall_mem_cons,
    BitVec.reduceToNat] at hne
  rw [decodeS_major0, decodeAlu, hfn]
  simp [hne, badS]

theorem decodeS_unlisted1 (d a b : BitVec 6) {fn : BitVec 8} (h : fn ∉ compareCodes) :
    decodeS (wR 0x01 d a b fn) = .illegalEncoding := by
  obtain ⟨-, -, -, -, hfn⟩ := wR_fields 0x01 d a b fn
  have hne := toNat_ne_of_not_mem h
  simp only [compareCodes, List.forall_mem_cons, BitVec.reduceToNat] at hne
  rw [decodeS_major1, decodeCmp, hfn]
  simp [hne, badS]

/-! ### The words of the immediate forms -/

/-- Each major of R122 is its immediate form. -/
theorem decodeS_immediate (d a : BitVec 6) (imm : BitVec 14) (n : BitVec 6) :
    ∀ p ∈ ((immediateOps d a imm n).map Prod.fst).zip immediateMajors, decodeS (wI p.2 d a imm) = p.1 := by
  intro p hp
  obtain ⟨hm, hd, ha, hi⟩ := wI_fields p.2 d a imm
  rw [decodeS, hm, hd, ha, hi]
  clear hm hd ha hi
  revert p
  simp [immediateOps, immediateMajors]

/-- The parts of the immediate of a shift (R123). -/
theorem shift_fields (major d a : BitVec 6) (k : BitVec 2) (z n : BitVec 6) :
    (wI major d a (k ++ z ++ n)).extractLsb' 12 2 = k ∧ (wI major d a (k ++ z ++ n)).extractLsb' 6 6 = z ∧
      (wI major d a (k ++ z ++ n)).extractLsb' 0 6 = n := by
  refine ⟨?kind, ?zero, ?amount⟩ <;> rw [wI, extract_append_low _ _ _ _ (by decide)]
  case kind => exact extract_skip _ _ _ _ _ (extract_skip _ _ _ _ _ (extract_all k))
  case zero => exact extract_skip _ _ _ _ _ (extract_low k z)
  case amount => exact extract_low _ n

/-- Major 0x06: [13:12] selects the shift, [11:6] must be zero (R123). -/
theorem decodeS_shift (d a z n : BitVec 6) :
    ∀ p ∈ [((0 : BitVec 2), Instr.slli d a n), (1, .srli d a n), (2, .srai d a n), (3, .rotli d a n)],
      decodeS (wI 0x06 d a (p.1 ++ z ++ n)) = if z = 0 then p.2 else .illegalEncoding := by
  intro p hp
  obtain ⟨hm, hd, ha, -⟩ := wI_fields 0x06 d a (p.1 ++ z ++ n)
  obtain ⟨hk, hz, hn⟩ := shift_fields 0x06 d a p.1 z n
  have hmajor : decodeS (wI 0x06 d a (p.1 ++ z ++ n)) = decodeShift (wI 0x06 d a (p.1 ++ z ++ n)) := by
    rw [decodeS, hm]; rfl
  rw [hmajor, decodeShift, hd, ha, hk, hz, hn]
  clear hm hd ha hk hz hn hmajor
  revert p
  simp only [List.forall_mem_cons]
  exact ⟨okS_zero z rfl, okS_zero z rfl, okS_zero z rfl, okS_zero z rfl, List.forall_mem_nil _⟩

/-- Settles O1: every instruction of the lists runs the shared form `aluRR` or `aluR` with its own function, which on
ready registers commits the result; the decoder reads back the fields that a word is put together from, and dispatches
on major and fn as R119 and R121 to R123 list them. -/
theorem scalarResult : Obligations.ScalarResult := by
  refine ⟨fun d a b s sp h hr => ?twoSources, fun d a n imm s sp h hr => ?oneSource, fun d a b n z imm fn =>
    ⟨decodeS_twoSource d a b, decodeS_compare d a b, decodeS_oneSource d a b, decodeS_unlisted0 d a b,
      decodeS_unlisted1 d a b, decodeS_immediate d a imm n, decodeS_shift d a z n, ?examples⟩⟩
  case twoSources =>
    simp only [List.forall_mem_append]
    exact ⟨⟨fun p hp => (exec_twoSourceOps d a b s p hp).trans (aluRR_ready h hr p.2),
      fun p hp => (exec_divisionOps d a b s p hp).trans (aluRR_ready h hr p.2)⟩,
      fun p hp => (exec_compareOps d a b s p hp).trans (aluRR_ready h hr p.2)⟩
  case oneSource =>
    simp only [List.forall_mem_append]
    exact ⟨fun p hp => (exec_oneSourceOps d a s p hp).trans (aluR_ready h hr p.2),
      fun p hp => (exec_immediateOps d a imm n s p hp).trans (aluR_ready h hr p.2)⟩
  case examples => decide

end Sys2Proof.Machine

/-! Settlements of the family `spec/09_core_engines.md`: arrivals and landings on a barrier's image (R191). -/

namespace Sys2Proof.Machine

/-- `check` of R191, with the excess as the rule's `or` rather than the model's Boolean test. -/
theorem barCheck_eq (b : Bar) :
    barCheck b =
      if b.arrivals > b.exparr ∨ b.landed > b.expbytes then barComplete b true
      else if b.arrivals = b.exparr ∧ b.landed = b.expbytes ∧ (b.exparr > 0 ∨ b.expbytes > 0) then barComplete b false
      else b := by
  simp only [barCheck, Bool.or_eq_true, decide_eq_true_eq, gt_iff_lt]

/-- `landOn` marks a poisoned landing before `barLand` marks it again. -/
theorem barLand_poisonMarked (b : Bar) (n : Nat) (poison : Bool) :
    barLand { b with pcur := b.pcur || poison } n poison = barLand b n poison := by
  simp only [barLand, Bool.or_assoc, Bool.or_self]

section LandOn
variable {s : State} {loc : BarLoc}

theorem landOn_of_invalid (hinvalid : (readBar s loc).valid = false) (n k : Nat) (poison : Bool) (c : Clock) :
    landOn s (some loc) n k poison c = s := by
  simp [landOn, hinvalid]

theorem landOn_bytes (hvalid : (readBar s loc).valid = true) (n : Nat) (poison : Bool) (c : Clock) :
    landOn s (some loc) n 0 poison c =
      writeBar (coverPhase s (barKey loc) c) loc (barLand (readBar s loc) n poison) := by
  rw [← barLand_poisonMarked]
  simp [landOn, hvalid]

end LandOn

/-- Settles O11: an arrival and a landing are each `barCheck` of the image with the count added, which is the rule's
`check` with its `complete`; a landing on the image as it stands is made or discarded by its valid bit. -/
theorem barrierCompletion : Obligations.BarrierCompletion := by
  unfold Obligations.BarrierCompletion
  refine ⟨fun b k => ?arrival, fun b n poison => ?landing, fun s loc n k poison c => ⟨?discarded, ?made⟩⟩
  case arrival => exact barCheck_eq { b with arrivals := b.arrivals + k }
  case landing => exact barCheck_eq { b with landed := b.landed + n, pcur := b.pcur || poison }
  case discarded => exact fun hinvalid => landOn_of_invalid hinvalid n k poison c
  case made => exact fun hvalid => landOn_bytes hvalid n poison c

end Sys2Proof.Machine

/-! Settlements of the family `spec/22_fabric_processors.md`: the rules of the optimiser on one element (R377). -/

namespace Sys2Proof.Machine

/-- SGD with momentum, in the model's rounded operations: the parameters are η, λ, μ at 0, 1, 2. -/
theorem homeRule_sgd (p : List Nat) (g w m v : Nat) :
    homeRule 0 p g w m v =
      let m1 := rAdd (rMul (p.getD 2 0) m) (rAdd g (rMul (p.getD 1 0) w))
      (rSub w (rMul (p.getD 0 0) m1), m1, v) := by
  simp only [homeRule, if_pos]

/-- AdamW, the model's answer for every rule that is not 0: the parameters are η, λ, β1, β2, ε, c1, c2, 1 − β1, 1 − β2
in this order. -/
theorem homeRule_adamW {rule : Nat} (hrule : rule ≠ 0) (p : List Nat) (g w m v : Nat) :
    homeRule rule p g w m v =
      let m1 := rAdd (rMul (p.getD 2 0) m) (rMul (p.getD 7 0) g)
      let v1 := rAdd (rMul (p.getD 3 0) v) (rMul (p.getD 8 0) (rMul g g))
      let d := rAdd (fSqrt fmtF32 .rne (rMul (p.getD 6 0) v1)) (p.getD 4 0)
      let q := rAdd (fDiv fmtF32 .rne (rMul (p.getD 5 0) m1) d) (rMul (p.getD 1 0) w)
      (rSub w (rMul (p.getD 0 0) q), m1, v1) := by
  simp only [homeRule, if_neg hrule]

/-- Settles O35: `homeRule` has one equation per rule, whose `rAdd`, `rSub` and `rMul` are the FP32 operations rounded RNE. -/
theorem optimiserRules : Obligations.OptimiserRules := by
  unfold Obligations.OptimiserRules
  refine fun p g w m v => ⟨?sgd, ?adamW⟩
  case sgd => exact homeRule_sgd p g w m v
  case adamW => exact homeRule_adamW one_ne_zero p g w m v

end Sys2Proof.Machine

/-! Settlements of the family 'other': the encodings (R47 to R62, R362 to R366). -/

namespace Sys2Proof

/-! ### S-words -/

/-- A word whose checks are its well-formedness alone. -/
theorem okS_true {i : Instr} (hi : wellFormed i = true) : okS true i = i := by
  rw [okS, hi]; rfl

/-! #### Parts of a field -/

section Parts
variable {major d a b : BitVec 6} {fn : BitVec 8}

theorem wR_extract_fn {o k : Nat} (h : o + k ≤ 8) : (wR major d a b fn).extractLsb' o k = fn.extractLsb' o k :=
  extract_append_low _ fn o k h

theorem wR_extract_b {o k : Nat} (h : o + k ≤ 6) : (wR major d a b fn).extractLsb' (o + 8) k = b.extractLsb' o k := by
  rw [Nat.add_comm]
  exact extract_skip _ _ _ _ _ (extract_append_low _ b o k h)

theorem wR_extract_d {o k : Nat} (h : o + k ≤ 6) : (wR major d a b fn).extractLsb' (o + 20) k = d.extractLsb' o k := by
  rw [show o + 20 = 8 + (6 + (6 + o)) by omega]
  exact extract_skip _ _ _ _ _ (extract_skip _ _ _ _ _ (extract_skip _ _ _ _ _ (extract_append_low _ d o k h)))

/-- The last two fields of format S.R are the immediate of format S.I. -/
theorem wR_eq_wI : wR major d a b fn = wI major d a (b ++ fn) := by
  rw [wR, wI, BitVec.append_assoc]
  rfl

end Parts

/-- One bit of a word is a field of one bit. -/
theorem getLsbD_eq_extract {n : Nat} (x : BitVec n) (i : Nat) : x.getLsbD i = (x.extractLsb' i 1).getLsbD 0 := by
  simp

/-! #### Words by major (R58) -/

/-- The majors of format S.R whose words have a decoder of their own. -/
theorem decodeS_minor (d a b : BitVec 6) (fn : BitVec 8) :
    decodeS (wR 0x00#6 d a b fn) = decodeAlu (wR 0x00#6 d a b fn) ∧
    decodeS (wR 0x01#6 d a b fn) = decodeCmp (wR 0x01#6 d a b fn) ∧
    decodeS (wR 0x14#6 d a b fn) = decodeLd (wR 0x14#6 d a b fn) ∧
    decodeS (wR 0x15#6 d a b fn) = decodeSt (wR 0x15#6 d a b fn) ∧
    decodeS (wR 0x16#6 d a b fn) = decodeFifo (wR 0x16#6 d a b fn) ∧
    decodeS (wR 0x1B#6 d a b fn) = decodeJr (wR 0x1B#6 d a b fn) ∧
    decodeS (wR 0x23#6 d a b fn) = decodeMask (wR 0x23#6 d a b fn) ∧
    decodeS (wR 0x24#6 d a b fn) = decodePlane (wR 0x24#6 d a b fn) ∧
    decodeS (wR 0x28#6 d a b fn) = decodeCopy (wR 0x28#6 d a b fn) ∧
    decodeS (wR 0x29#6 d a b fn) = decodeMma (wR 0x29#6 d a b fn) ∧
    decodeS (wR 0x2A#6 d a b fn) = decodeAcst (wR 0x2A#6 d a b fn) ∧
    decodeS (wR 0x2B#6 d a b fn) = decodeClaim (wR 0x2B#6 d a b fn) ∧
    decodeS (wR 0x2C#6 d a b fn) = decodeQfence (wR 0x2C#6 d a b fn) ∧
    decodeS (wR 0x2D#6 d a b fn) = decodeColl (wR 0x2D#6 d a b fn) ∧
    decodeS (wR 0x30#6 d a b fn) = decodeBarrier (wR 0x30#6 d a b fn) ∧
    decodeS (wR 0x32#6 d a b fn) = decodeSync (wR 0x32#6 d a b fn) ∧
    decodeS (wR 0x34#6 d a b fn) = decodeAtom32 (wR 0x34#6 d a b fn) ∧
    decodeS (wR 0x35#6 d a b fn) = decodeAtom64 (wR 0x35#6 d a b fn) ∧
    decodeS (wR 0x39#6 d a b fn) = decodeHist (wR 0x39#6 d a b fn) := by
  refine ⟨?_, ?_, ?_, ?_, ?_, ?_, ?_, ?_, ?_, ?_, ?_, ?_, ?_, ?_, ?_, ?_, ?_, ?_, ?_⟩ <;>
    rw [decodeS, (wR_fields ..).1] <;> rfl

theorem decodeS_branch (cond : BitVec 4) (a : BitVec 6) (disp : BitVec 16) :
    decodeS (wB cond a disp) = decodeBranch (wB cond a disp) := by
  rw [decodeS, (wB_fields ..).1]; rfl

theorem decodeS_system (d a : BitVec 6) (n : BitVec 14) : decodeS (wI 0x38#6 d a n) = decodeSystem (wI 0x38#6 d a n) := by
  rw [decodeS, (wI_fields ..).1]; rfl

theorem decodeS_wI_direct (d a : BitVec 6) (imm : BitVec 14) :
    ∀ p ∈ [(0x10#6, Instr.ldB64 d a imm), (0x11#6, .ldN32 d a imm), (0x12#6, .stB64 d a imm), (0x13#6, .stB32 d a imm)],
      decodeS (wI p.1 d a imm) = p.2 := by
  intro p hp
  obtain ⟨hm, hd, ha, hi⟩ := wI_fields p.1 d a imm
  rw [decodeS, hm, hd, ha, hi]
  clear hm hd ha hi
  revert p
  simp

theorem decodeS_wJ_direct (disp : BitVec 26) :
    decodeS (wJ 0x19#6 disp) = .jmp disp ∧ decodeS (wJ 0x1A#6 disp) = .call disp ∧
      decodeS (wJ 0x20#6 disp) = .lrun (disp.extractLsb' 18 8) (disp.extractLsb' 0 18) := by
  refine ⟨?_, ?_, ?_⟩ <;> rw [decodeS, (wJ_fields ..).1]
  · exact congrArg Instr.jmp (wJ_fields _ disp).2
  · exact congrArg Instr.call (wJ_fields _ disp).2
  · exact congrArg₂ Instr.lrun (extract_append_low _ disp 18 8 (by decide)) (extract_append_low _ disp 0 18 (by decide))

/-- The majors of format S.R that are one instruction. -/
theorem decodeS_single (d a b : BitVec 6) (fn : BitVec 8) :
    decodeS (wR 0x17#6 d a b fn) = okS (d == 0#6 && fn == 0#8) (.dropc a b) ∧
    decodeS (wR 0x21#6 d a b fn) = okS (d == 0#6 && b == 0#6) (.lrunRegister a fn) ∧
    decodeS (wR 0x22#6 d a b fn) = okS (d == 0#6) (.lrunp a b fn) ∧
    decodeS (wR 0x2E#6 d a b fn) = okS (b == 0#6 && fn.extractLsb' 3 5 == 0#5) (.cpush d a (fn.extractLsb' 0 3)) ∧
    decodeS (wR 0x31#6 d a b fn) = .barwait d a b fn ∧
    decodeS (wR 0x33#6 d a b fn) =
      okS (d == 0#6 && a == 0#6 && b == 0#6 && fn.extractLsb' 3 5 == 0#5) (.fence (fn.extractLsb' 0 3)) ∧
    decodeS (wR 0x36#6 d a b fn) = okS (d == 0#6 && b == 0#6) (.rsend a fn) := by
  refine ⟨?_, ?_, ?_, ?_, ?_, ?_, ?_⟩ <;>
    simp (disch := decide) only [decodeS, wR_fields, wR_extract_fn, BitVec.reduceToNat]

/-! #### Immediate forms -/

/-- A shift's word is its kind, six zeros and its amount (R123). -/
theorem decodeS_shiftWord (d a n : BitVec 6) :
    ∀ p ∈ [(0x00#6, Instr.slli d a n), (0x10#6, .srli d a n), (0x20#6, .srai d a n), (0x30#6, .rotli d a n)],
      decodeS (wR 0x06#6 d a p.1 (0x0#2 ++ n)) = p.2 := by
  have hparts : ∀ b ∈ [0x00#6, 0x10#6, 0x20#6, 0x30#6], b ++ (0x0#2 ++ n) = b.extractLsb' 4 2 ++ 0#6 ++ n := by
    decide +revert
  have hshift := Machine.decodeS_shift d a 0 n
  simp only [List.forall_mem_cons, if_true] at hparts hshift ⊢
  obtain ⟨h0, h1, h2, h3, -⟩ := hparts
  obtain ⟨s0, s1, s2, s3, -⟩ := hshift
  rw [wR_eq_wI, wR_eq_wI, wR_eq_wI, wR_eq_wI, h0, h1, h2, h3]
  exact ⟨s0, s1, s2, s3, List.forall_mem_nil _⟩

/-- Settles O58: every major has its decoder, whose fields are those that the word is put together from. -/
theorem scalarRoundTrip : Obligations.ScalarRoundTrip := by
  intro i w hwf h
  cases i <;> cases h
  case ret | sexit | tret | nop => decide
  case addi d a imm | andi d a imm | ori d a imm | xori d a imm | slin d a imm | slti d a imm | sltni d a imm | seqi d a imm =>
    exact Machine.decodeS_immediate d a imm 0 (_, _) (by simp [Machine.immediateOps, Machine.immediateMajors])
  case ldB64 d a imm | ldN32 d a imm | stB64 d a imm | stB32 d a imm => exact decodeS_wI_direct d a imm (_, _) (by simp)
  case slli d a n | srli d a n | srai d a n | rotli d a n => exact decodeS_shiftWord d a n (_, _) (by simp)
  case jmp disp => exact (decodeS_wJ_direct disp).1
  case call disp => exact (decodeS_wJ_direct disp).2.1
  case lrun n o =>
    rw [(decodeS_wJ_direct _).2.2, extract_append_high n o 18 8 le_rfl, extract_append_low n o 0 18 le_rfl, extract_all, extract_all]
  case step a | undomark a | bkmode a =>
    rw [wR_eq_wI]
    simp only [decodeS_system, decodeSystem, wI_fields, BitVec.reduceToNat, BitVec.reduceAppend]
  all_goals simp only [decodeS_minor, decodeS_single, decodeS_branch, decodeS_system, decodeAlu, decodeCmp, decodeLd, decodeSt,
    decodeFifo, decodeBranch, decodeJr, decodeMask, decodePlane, decodeCopy, decodeMma, decodeAcst, decodeClaim, decodeQfence,
    decodeColl, decodeBarrier, decodeSync, decodeAtom32, decodeAtom64, decodeSystem, decodeHist, wR_fields, wI_fields,
    wB_fields, BitVec.reduceToNat, okS_true hwf, BEq.rfl, Bool.and_self]
  all_goals simp (disch := decide) only [getLsbD_eq_extract _ 25, getLsbD_eq_extract _ 7, wR_extract_fn, wR_extract_b,
    wR_extract_d, extract_append_low, extract_append_high, extract_all, Nat.reduceSub, BitVec.reduceExtractLsb',
    BitVec.reduceGetLsb, ↓reduceIte, BitVec.reduceToNat, okS_true hwf, BEq.rfl, Bool.and_self, Bool.false_eq_true]

/-! ### L-words -/

theorem okL_true {i : Instr} (hi : wellFormed i = true) : okL i = i := by
  rw [okL, hi]; rfl

theorem p2Ok_of_fields {sh : LShape} {x : LFields} (h : lFieldsOk sh x = true) : p2Ok sh.p2 x = true := by
  simp only [lFieldsOk, Bool.and_eq_true] at h
  exact h.1.1.2

/-- A field of parcel 2 (R47). -/
theorem wL_extract_p2 {op : BitVec 8} {x : LFields} {o k : Nat} (h : o + k ≤ 32) :
    (wL op x).extractLsb' o k = x.p2.extractLsb' o k :=
  extract_append_low _ x.p2 o k h

/-- Parcel 2 names an atomic's operation (R109). -/
theorem atomic_code {k : Nat} {x : LFields} (h : lFieldsOk (shAtom k) x = true) :
    (wL 0xB4#8 x).extractLsb' 28 4 = BitVec.ofNat 4 k := by
  have hp := p2Ok_of_fields h
  simp only [shAtom, p2Ok, Bool.and_eq_true, beq_iff_eq] at hp
  rw [wL_extract_p2 (by decide), hp.1]

/-- Parcel 2 names a shuffle's pattern (R87). -/
theorem shuffle_code {k : Nat} {x : LFields} (h : lFieldsOk (shShuf k) x = true) :
    (wL 0xC0#8 x).extractLsb' 30 2 = BitVec.ofNat 2 k := by
  have hp := p2Ok_of_fields h
  simp only [shShuf, p2Ok, Bool.and_eq_true, beq_iff_eq] at hp
  rw [wL_extract_p2 (by decide), hp.1]

theorem decodeL_atomic (x : LFields) : decodeL (wL 0xB4#8 x) = decodeVatom (wL 0xB4#8 x) := by
  rw [decodeL, wL_op]; rfl

theorem decodeL_shuffle (x : LFields) : decodeL (wL 0xC0#8 x) = decodeVshuf (wL 0xC0#8 x) := by
  rw [decodeL, wL_op]; rfl

/-- Settles O59: the op selects the row, whose checks are its well-formedness; atomics and shuffles have their number in
parcel 2, where their well-formedness has it too. -/
theorem laneRoundTrip : Obligations.LaneRoundTrip := by
  intro i w hwf h
  cases i <;> cases h
  case vexit | lnop => decide
  case vatomAdd x | vatomMin x | vatomMax x | vatomMinn x | vatomMaxn x | vatomAnd x | vatomOr x | vatomXor x | vatomXchg x |
      vatomCas x | vatomFadd x | vatomBf16x2add x =>
    rw [decodeL_atomic, decodeVatom, atomic_code hwf, wL_fields]
    exact okL_true hwf
  case vshufXor x | vshufRot x | vshufDn x | vshufUp x =>
    rw [decodeL_shuffle, decodeVshuf, shuffle_code hwf, wL_fields]
    exact okL_true hwf
  all_goals
    rw [decodeL, wL_op, wL_fields]
    exact okL_true hwf

/-! ### Trelix words -/

theorem decodeT_of_row {major : BitVec 6} {t : TFields} {i : Instr} (hok : trelixFieldsOk i t = true)
    (hrow : trelixRow (wT major t) = i) : decodeT (wT major t) = i := by
  rw [decodeT, wT_fields, hrow, if_pos hok]

theorem trelixRow_alu (t : TFields) : trelixRow (wT 0x00#6 t) = decodeTAlu t := by
  rw [trelixRow, wT_major, wT_fields]; rfl

/-- The row of a Trelix word: by fn in major 0x00, where `trelixFieldsOk` has fixed it, else by the major alone (R366). -/
theorem trelixRow_encodeT {i : Instr} {t : TFields} {w : Word32} (hok : trelixFieldsOk i t = true)
    (h : encodeT i t = some w) : trelixRow w = i := by
  cases i <;> cases h
  case trelixAdd | trelixSub | trelixMul | trelixAnd | trelixOr | trelixXor | trelixSll | trelixSrl | trelixSra |
      trelixSlt | trelixSltn | trelixSeq =>
    rw [trelixRow_alu, decodeTAlu, eq_of_beq hok]; rfl
  all_goals
    rw [trelixRow, wT_major]; rfl

/-- The word of an instruction is some major before its fields. -/
theorem encodeT_word {i : Instr} {t : TFields} {w : Word32} (h : encodeT i t = some w) : ∃ major, w = wT major t := by
  cases i <;> cases h <;> exact ⟨_, rfl⟩

/-- Settles O60: the word is its major before the fields; the major, or fn, selects the row, whose fields are as it admits. -/
theorem trelixRoundTrip : Obligations.TrelixRoundTrip := by
  intro i t w hok h
  have hrow := trelixRow_encodeT hok h
  obtain ⟨major, rfl⟩ := encodeT_word h
  exact ⟨decodeT_of_row hok hrow, wT_fields major t⟩

/-- Settles O57: each word is decoded. -/
theorem decodeWords : Obligations.DecodeWords := by
  unfold Obligations.DecodeWords
  decide

end Sys2Proof

/-! Settlements of the family 'other': the frame of the scalar arithmetic, control flow, masks and planes, lane issue
(R119 to R136). -/

namespace Sys2Proof.Machine

/-! ### Scalar arithmetic leaves everything else (R119 to R123) -/

theorem sameMemory_refl (s : State) : SameMemory s s := fun _ => ⟨rfl, rfl⟩

/-- The commit of a scalar result changes register d, the pc and the counts of units alone. -/
theorem frame_commit {d : Nat} {x : Word64} {s t : State} {sp : Span}
    (ht : t = putSpan s s.cur.uid (advance (sWrite sp d x))) :
    SameMemory s t ∧ (∀ u, u ≠ s.cur.uid → spanOf t u = spanOf s u) ∧
      ∃ sp', spanOf t s.cur.uid = some sp' ∧ sp'.spc = sp.spc + 4 ∧ (∀ r, r ≠ d → sRead sp' r = sRead sp r) ∧
        (∀ r lane, vRead sp' r lane = vRead sp r lane) ∧ sp'.sEmpty = sp.sEmpty ∧ sp'.vEmpty = sp.vEmpty ∧
        sp'.am = sp.am ∧ sp'.live = sp.live ∧ sp'.pl = sp.pl ∧ sp'.masks = sp.masks ∧ sp'.rets = sp.rets ∧
        sp'.queue = sp.queue ∧ sp'.hdepth = sp.hdepth := by
  subst ht
  refine ⟨sameMemory_refl s, fun u hu => spanOf_putSpan_other s _ hu, _, spanOf_putSpan_same .., by simp,
    fun r hr => sRead_sWrite_other sp x hr, fun r lane => ?vector, ?_⟩
  case vector => simp [vRead]
  simp

/-- Settles O3: each instruction commits its function's result (O1), and such a commit has this frame. -/
theorem scalarArithmeticFrame : Obligations.ScalarArithmeticFrame := by
  intro d a b n imm s t sp h hr i hi ht
  have hr1 : ScalarsReady sp [a.toNat, d.toNat] := fun r hm => hr r (by simp at hm ⊢; tauto)
  rw [List.mem_append, List.mem_map, List.mem_map] at hi
  obtain ⟨p, hp, rfl⟩ | ⟨p, hp, rfl⟩ := hi
  · have he := scalarResult.1 d a b s sp h hr p hp
    exact frame_commit (Host.Outcome.next.inj (ht.symm.trans he))
  · have he := scalarResult.2.1 d a n imm s sp h hr1 p hp
    exact frame_commit (Host.Outcome.next.inj (ht.symm.trans he))

/-! ### Branches, jumps, calls and returns (R129 to R131) -/

theorem branch_ready {a : BitVec 6} {disp : BitVec 16} {s : State} {sp : Span} (h : Acting s sp)
    (hr : ScalarsReady sp [a.toNat]) (c : Span → Word64 → Bool) :
    branch a disp c s = .next (putSpan s s.cur.uid (jumpTo sp
      (if c sp (sRead sp a.toNat) then sp.spc + (disp.signExtend 64 <<< 2) else sp.spc + 4))) := by
  rw [branch, withSpan_acting h, needS_ready hr]
  split <;> rfl

theorem exec_branchOps {a : BitVec 6} {disp : BitVec 16} {s : State} {sp : Span} (h : Acting s sp)
    (hr : ScalarsReady sp [a.toNat]) :
    ∀ p ∈ branchOps a disp sp.am, exec p.1 s = .next (putSpan s s.cur.uid (jumpTo sp
      (if p.2 (sRead sp a.toNat) then sp.spc + (disp.signExtend 64 <<< 2) else sp.spc + 4))) := by
  simp only [branchOps, List.forall_mem_cons]
  exact ⟨branch_ready h hr fun _ x => x == 0, branch_ready h hr fun _ x => x != 0, branch_ready h hr fun _ x => x.slt 0,
    branch_ready h hr fun _ x => !x.slt 0, branch_ready h hr fun _ x => (0#64).slt x,
    branch_ready h hr fun _ x => !(0#64).slt x, branch_ready h hr fun sp x => x.extractLsb' 0 32 &&& sp.am == 0,
    branch_ready h hr fun sp x => x.extractLsb' 0 32 &&& sp.am != 0, List.forall_mem_nil _⟩

theorem checkTarget_ok {s : State} {sp : Span} {l : Launch} {t : Word64} {k : Res} (h4 : t.toNat % 4 = 0)
    (htop : t.toNat < vaTop) : checkTarget s sp l t k = k := by
  simp [checkTarget, h4, htop]

theorem checkTarget_misaligned {s : State} {sp : Span} {l : Launch} {t : Word64} {k : Res} (h4 : t.toNat % 4 ≠ 0) :
    checkTarget s sp l t k = takeTrap s sp l ⟨causeMisaligned, false, sp.am, t.toNat⟩ := by
  simp [checkTarget, h4, trapS]

section Stacks
variable {s : State} {sp : Span} {l : Launch}

theorem pushStack_room {ret : Bool} (e : Word64) (k : State → Span → Res) (h : (stackOf sp ret).depth < 8) :
    pushStack s sp l ret e k = k s (setStack sp ret ⟨e :: (stackOf sp ret).hw, (stackOf sp ret).depth + 1⟩) := by
  simp only [pushStack]
  rw [if_neg (by omega), if_pos h]

theorem pushStack_full {ret : Bool} (e : Word64) (k : State → Span → Res) (h : 264 ≤ (stackOf sp ret).depth) :
    pushStack s sp l ret e k = takeTrap s sp l ⟨causeIllegal, false, sp.am, 0⟩ := by
  simp only [pushStack]
  rw [if_pos h, trapS]

theorem popStack_held {ret : Bool} (k : State → Span → Res) (h : (stackOf sp ret).depth ≤ 8) :
    popStack s sp l ret k = k s (setStack sp ret ⟨(stackOf sp ret).hw.tail, (stackOf sp ret).depth - 1⟩) := by
  simp only [popStack]
  rw [if_pos h]

end Stacks

/-- Settles O4: a jump's target passes its check, and a stack of depth below eight is the span's own. -/
theorem controlFlow : Obligations.ControlFlow := by
  refine ⟨fun a disp s sp h hr => exec_branchOps h hr, fun a disp s sp l h => ⟨fun h4 htop => ⟨?jmp, fun hd => ?call⟩,
    fun hr h4 htop => ⟨?jmpRegister, fun hd => ?callRegister⟩, fun t rest hhw hpos hle h4 htop => ?ret⟩⟩
  case jmp => rw [exec_jmp, execJmp, withLaunch_actingIn h, checkTarget_ok h4 htop]; rfl
  case call =>
    rw [exec_call, execCall, withLaunch_actingIn h, checkTarget_ok h4 htop]
    exact pushStack_room (ret := true) _ _ hd
  case jmpRegister => rw [exec_jmpRegister, execJmpRegister, withLaunch_actingIn h, needS_ready hr, checkTarget_ok h4 htop]; rfl
  case callRegister =>
    rw [exec_callRegister, execCallRegister, withLaunch_actingIn h, needS_ready hr]
    exact (checkTarget_ok h4 htop).trans (pushStack_room (ret := true) _ _ hd)
  case ret =>
    rw [exec_ret, execRet, withLaunch_actingIn h, if_neg (by omega), hhw]
    refine (popStack_held (ret := true) _ hle).trans ((checkTarget_ok h4 htop).trans ?_)
    simp [stackOf, setStack, hhw, commitJump, jumpTo]

/-! ### The span's own accesses outside its loads and stores (R37, R103, R107, R108) -/

section Own
variable {s : State} {sp : Span} {l : Launch} {va kind : Nat} {p : Nat ⊕ Nat}

theorem ownPlace_of_ownAt (h : OwnAt s sp l va kind p) : ownPlace s sp l va kind = .ok p := by
  obtain ⟨htop, hquad, hp⟩ := h
  have hbelow : ¬ vaTop ≤ va := Nat.not_le.2 htop
  simp only [ownPlace, hbelow, hquad, if_false, Bool.false_eq_true]
  cases p with
  | inl off =>
    obtain ⟨hloc, hoff, d, b, hd, hb, hmode, hsw⟩ := hp
    rw [hoff] at hb ⊢
    simp [hloc, hd, hb, hmode, hsw]
  | inr pa =>
    obtain ⟨hloc, ⟨bar, hx⟩, hhbm, hroute⟩ := hp
    simp [hloc, hx, hhbm, hroute]

theorem ownCheck_of_writable (h : OwnWritable s sp l va p) : ownCheck s sp l va = .ok p := by
  obtain ⟨hat, hroom, hp⟩ := h
  rw [ownCheck, ownPlace_of_ownAt hat]
  have hfull : (l.det && decide (512 ≤ sp.buffer.length)) = false := by
    cases hdet : l.det with
    | false => rfl
    | true => simpa using hroom hdet
  cases p with
  | inl off => simp [hp, hfull]
  | inr pa =>
    obtain ⟨hread, hfill, hcounted⟩ := hp
    cases hdet : l.det with
    | false => simp [hread, hfill, hcounted hdet]
    | true => simp [hread, hfill, Nat.not_le.2 (hroom hdet)]

theorem ownRead_of_readable {n : Nat} (h : OwnReadable s sp l va n p) : ownRead s sp l va n =
    .ok (ownUse s sp l va n p, fun o m => ownValue s sp l (va + o) m (p.map (· + o) (· + o))) := by
  obtain ⟨hat, hp⟩ := h
  rw [ownRead, ownPlace_of_ownAt hat]
  cases p with
  | inl off =>
    obtain ⟨hatom, hbad⟩ := hp
    obtain ⟨-, -, -, -, d, b, hd, -⟩ := hat
    simp only [hd, hatom, hbad d hd, ownUse, ownValue]
    rfl
  | inr pa =>
    obtain ⟨hatom, hbad⟩ := hp
    simp only [hatom, ownUse]
    rw [if_neg Bool.false_ne_true, if_neg (by simpa using hbad)]
    rfl

theorem ownValue_at_zero (s : State) (sp : Span) (l : Launch) (va n : Nat) (p : Nat ⊕ Nat) :
    ownValue s sp l (va + 0) n (p.map (· + 0) (· + 0)) = ownValue s sp l va n p := by
  cases p <;> rfl

/-- A push beyond the entries held spills the oldest one (R37). -/
theorem pushStack_spill {ret : Bool} (e : Word64) (k : State → Span → Res) (hlo : 8 ≤ (stackOf sp ret).depth)
    (hhi : (stackOf sp ret).depth < 264) (hw : OwnWritable s sp l (spillAddr l sp ret ((stackOf sp ret).depth - 8)) p)
    {r : State × Span} (hr : r = ownWrite s sp sp l (spillAddr l sp ret ((stackOf sp ret).depth - 8)) p
      (natToBytes 8 ((stackOf sp ret).hw.getLastD 0).toNat)) :
    pushStack s sp l ret e k =
      k r.1 (setStack r.2 ret ⟨e :: (stackOf sp ret).hw.take 7, (stackOf sp ret).depth + 1⟩) := by
  subst hr
  simp only [pushStack]
  rw [if_neg (by omega), if_neg (by omega), ownCheck_of_writable hw]

/-- A pop above the entries held refills one (R37). -/
theorem popStack_refill {ret : Bool} (k : State → Span → Res) (hlo : 8 < (stackOf sp ret).depth)
    (hw : OwnReadable s sp l (spillAddr l sp ret ((stackOf sp ret).depth - 9)) 8 p) {t : State}
    (ht : t = ownUse s sp l (spillAddr l sp ret ((stackOf sp ret).depth - 9)) 8 p) :
    popStack s sp l ret k = k t (setStack sp ret ⟨(stackOf sp ret).hw.tail ++
      [BitVec.ofNat 64 (ownValue s sp l (spillAddr l sp ret ((stackOf sp ret).depth - 9)) 8 p)],
      (stackOf sp ret).depth - 1⟩) := by
  subst ht
  simp only [popStack]
  rw [if_neg (by omega), ownRead_of_readable hw]
  simp only [ownValue_at_zero]

end Own

/-! ### Masks (R133) -/

section Masks
variable {a d : BitVec 6} {s : State} {sp : Span} {l : Launch}

theorem exec_mpush_ready (h : ActingIn s sp l) (hr : ScalarsReady sp [a.toNat]) :
    exec (.mpush a) s = pushStack s sp l false ((sRead sp a.toNat).extractLsb' 0 32 ++ sp.am) fun s sp' =>
      commitS s (setAm sp' (sp'.am &&& (sRead sp a.toNat).extractLsb' 0 32)) := by
  rw [exec_mpush, execMpush, withLaunch_actingIn h, needS_ready hr]

theorem exec_mpop_deep (h : ActingIn s sp l) (hd : sp.masks.depth ≠ 0) :
    exec .mpop s = popStack s sp l false fun s sp' => commitS s (setAm sp' ((sp.masks.hw.headD 0).extractLsb' 0 32)) := by
  rw [exec_mpop, execMpop, withLaunch_actingIn h, if_neg hd]

theorem exec_melse_deep (h : ActingIn s sp l) (hd : sp.masks.depth ≠ 0) :
    exec .melse s = commitS s (setAm sp
      ((sp.masks.hw.headD 0).extractLsb' 0 32 &&& ~~~ (sp.masks.hw.headD 0).extractLsb' 32 32)) := by
  rw [exec_melse, execMelse, withLaunch_actingIn h, if_neg hd]

end Masks

/-! ### Planes (R134) -/

theorem getLsbD_three (n : Nat) : (3#64).getLsbD n = decide (n < 2) := by
  by_cases h : n < 2
  · interval_cases n <;> rfl
  · have hlt : (3#64).toNat < 2 ^ n := calc
      (3#64).toNat < 2 ^ 2 := by decide
      _ ≤ 2 ^ n := Nat.pow_le_pow_right (by decide) (by omega)
    rw [BitVec.getLsbD, Nat.testBit_lt_two_pow hlt, decide_eq_false h]

theorem getLsbD_planeNumber {k : Nat} (hk : k < 4) (n : Nat) :
    (BitVec.ofNat 64 (k % 4)).getLsbD n = (decide (n < 2) && k.testBit n) := by
  rw [BitVec.getLsbD_ofNat, Nat.mod_eq_of_lt hk]
  by_cases h : n < 2
  · simp [h, show n < 64 by omega]
  · have hlt : k < 2 ^ n := hk.trans_le (Nat.pow_le_pow_right (n := 2) (by decide) (by omega : 2 ≤ n))
    simp [h, Nat.testBit_lt_two_pow hlt]

theorem planeOf_setPlane (sp : Span) {i j k : Nat} (hj : j < 32) (hk : k < 4) :
    planeOf (setPlane sp i k) j = if j = i then k else planeOf sp j := by
  have hbits : ((sp.pl &&& ~~~(3#64 <<< (2 * i))) ||| (BitVec.ofNat 64 (k % 4) <<< (2 * i))).extractLsb' (2 * j) 2 =
      if j = i then BitVec.ofNat 2 k else sp.pl.extractLsb' (2 * j) 2 := by
    refine BitVec.eq_of_getLsbD_eq fun b hb => ?_
    have hlt : 2 * j + b < 64 := by omega
    simp only [BitVec.getLsbD_extractLsb', BitVec.getLsbD_or, BitVec.getLsbD_and, BitVec.getLsbD_not,
      BitVec.getLsbD_shiftLeft, getLsbD_three, getLsbD_planeNumber hk, hlt, hb]
    by_cases hji : j = i
    · subst hji
      rw [if_pos rfl, BitVec.getLsbD_ofNat]
      simp [hb]
    · by_cases hlo : 2 * j + b < 2 * i
      · simp [hlo, hji, hb]
      · have hge : ¬ 2 * j + b - 2 * i < 2 := by omega
        simp [hge, hji, hb]
  rw [planeOf, setPlane, hbits]
  split
  · simp [Nat.mod_eq_of_lt hk]
  · rfl

/-- Setting planes changes the plane numbers alone. -/
theorem foldl_setPlane (k : Nat) (hk : k < 4) (is : List Nat) (sp : Span) :
    is.foldl (fun sp i => setPlane sp i k) sp = { sp with pl := (is.foldl (fun sp i => setPlane sp i k) sp).pl } ∧
      ∀ j < 32, planeOf (is.foldl (fun sp i => setPlane sp i k) sp) j = if j ∈ is then k else planeOf sp j := by
  induction is generalizing sp with
  | nil => exact ⟨rfl, fun j _ => by simp⟩
  | cons i is ih =>
    obtain ⟨hpl, hof⟩ := ih (setPlane sp i k)
    refine ⟨hpl, fun j hj => ?_⟩
    rw [List.foldl_cons, hof j hj, planeOf_setPlane sp hj hk]
    by_cases hmem : j ∈ is <;> by_cases hji : j = i <;> simp [hmem, hji]

theorem lanesOf_le (l : Launch) : lanesOf l ≤ 32 := by
  rw [lanesOf]; split <;> decide

theorem exec_plall_acting {s : State} {sp : Span} {l : Launch} (h : ActingIn s sp l) (k : BitVec 2) :
    ∃ sp', exec (.plall k) s = .next (putSpan s s.cur.uid (advance { sp with pl := sp'.pl })) ∧
      ∀ lane, lane < lanesOf l → planeOf sp' lane = k.toNat := by
  obtain ⟨hpl, hof⟩ := foldl_setPlane k.toNat k.isLt (List.range (lanesOf l)) sp
  refine ⟨(List.range (lanesOf l)).foldl (fun sp i => setPlane sp i k.toNat) sp, ?_, fun lane hl => ?_⟩
  · rw [exec_plall, execPlall, withLaunch_actingIn h, hpl, commitS]
  · rw [hof lane (hl.trans_le (lanesOf_le l)), if_pos (List.mem_range.2 hl)]

/-- Settles O5: a stack that is not full and not empty is pushed and popped; beyond depth eight the span's own write and
read of a spilled entry pass their checks; at its ends the stack traps. -/
theorem masksAndPlanes : Obligations.MasksAndPlanes := by
  refine ⟨fun a d s sp l h => ⟨fun hr hd => ?mpush, fun m saved rest hhw hpos => ⟨?melse, fun hle => ?mpop⟩, fun hr => ?mset,
      fun hr => ⟨?mget, ?lget⟩⟩,
    fun a disp s sp l p h => ⟨fun hlo hhi hw r hr => ⟨fun h4 htop => ?callDeep, fun hs h4 htop => ?callRegDeep⟩,
      fun hlo hhi hs hw r hr => ?mpushDeep, fun hlo hrd h4 htop t ht => ?retDeep, fun hlo hrd t ht => ?mpopDeep,
      fun hf => ⟨fun h4 htop => ?callFull, fun hs h4 htop => ?callRegFull⟩, fun hf hs => ?mpushFull,
      fun he => ?retEmpty, fun he => ?masksEmpty, fun hs h4 => ?misaligned⟩,
    fun d k s sp l h => ⟨exec_plall_acting h k, fun hr => ⟨?plmask, ?plget⟩⟩⟩
  case mpush => rw [exec_mpush_ready h hr]; exact pushStack_room (ret := false) _ _ hd
  case melse =>
    have hm : (m ++ saved).extractLsb' 32 32 = m := by rw [extract_append_high m saved 32 32 le_rfl, extract_all]
    rw [exec_melse_deep h (by omega), hhw, List.headD_cons, extract_low, hm]; rfl
  case mpop =>
    rw [exec_mpop_deep h (by omega)]
    refine (popStack_held (ret := false) _ hle).trans ?_
    rw [hhw, List.headD_cons, extract_low]
    simp only [stackOf, setStack, hhw, commitS, setAm, if_false, Bool.false_eq_true, List.tail_cons]
  case mset => rw [exec_mset, execMset, withSpan_acting h.1, needS_ready hr]; rfl
  case mget => rw [exec_mget, execMget, withSpan_acting h.1, needS_ready hr]; rfl
  case lget => rw [exec_lget, execLget, withSpan_acting h.1, needS_ready hr]; rfl
  case callDeep =>
    rw [exec_call, execCall, withLaunch_actingIn h, checkTarget_ok h4 htop]
    exact pushStack_spill (ret := true) _ _ hlo hhi hw hr
  case callRegDeep =>
    rw [exec_callRegister, execCallRegister, withLaunch_actingIn h, needS_ready hs]
    exact (checkTarget_ok h4 htop).trans (pushStack_spill (ret := true) _ _ hlo hhi hw hr)
  case mpushDeep =>
    rw [exec_mpush_ready h hs]
    exact pushStack_spill (ret := false) _ _ hlo hhi hw hr
  case retDeep =>
    rw [exec_ret, execRet, withLaunch_actingIn h, if_neg (by omega)]
    exact (popStack_refill (ret := true) _ hlo hrd ht).trans (checkTarget_ok h4 htop)
  case mpopDeep =>
    rw [exec_mpop_deep h (by omega)]
    exact popStack_refill (ret := false) _ hlo hrd ht
  case callFull =>
    rw [exec_call, execCall, withLaunch_actingIn h, checkTarget_ok h4 htop]
    exact pushStack_full (ret := true) _ _ hf
  case callRegFull =>
    rw [exec_callRegister, execCallRegister, withLaunch_actingIn h, needS_ready hs]
    exact (checkTarget_ok h4 htop).trans (pushStack_full (ret := true) _ _ hf)
  case mpushFull =>
    rw [exec_mpush_ready h hs]
    exact pushStack_full (ret := false) _ _ hf
  case retEmpty => rw [exec_ret, execRet, withLaunch_actingIn h, if_pos he]; rfl
  case masksEmpty =>
    simp only [List.forall_mem_cons, exec_melse, exec_mpop, execMelse, execMpop, withLaunch_actingIn h, if_pos he]
    exact ⟨rfl, rfl, List.forall_mem_nil _⟩
  case misaligned =>
    simp only [List.forall_mem_cons, exec_jmpRegister, exec_callRegister, execJmpRegister, execCallRegister,
      withLaunch_actingIn h, needS_ready hs]
    exact ⟨checkTarget_misaligned h4, checkTarget_misaligned h4, List.forall_mem_nil _⟩
  case plmask => rw [exec_plmask, execPlmask, withSpan_acting h.1, needS_ready hr]; rfl
  case plget => rw [exec_plget, execPlget, withSpan_acting h.1, needS_ready hr]; rfl

/-! ### Lane issue (R135, R136) -/

section Issue
variable {s : State} {sp : Span} {l : Launch}

theorem issueBlock_empty (hq : sp.queue = []) (ha : sp.acquiring = none) (off n : Nat) :
    issueBlock s sp l off n = .next (putSpan s s.cur.uid (advance (enqueue s sp l
      ⟨sp.spc, false, off, 0, 0, n, 0, 0, false, [], [], [], none⟩))) := by
  simp [issueBlock, hq, ha, commitS]

theorem exec_lrunp_checked {a b : BitVec 6} (n : BitVec 8) (h : ActingIn s sp l) (hq : sp.queue = [])
    (ha : sp.acquiring = none) (hr : ScalarsReady sp [a.toNat, b.toNat]) :
    exec (.lrunp a b n) s = match planeCheck sp (sRead sp a.toNat) (sRead sp b.toNat).toNat (n.toNat + 1) with
      | some (cause, fmask) => trapS s sp l cause fmask 0
      | none => commitS s (enqueue s sp l ⟨sp.spc, true, 0, sRead sp a.toNat, (sRead sp b.toNat).toNat, n.toNat + 1, 0, 0,
          false, [], [], [], none⟩) := by
  rw [exec_lrunp, execLrunp, withLaunch_actingIn h, needS_ready hr]
  simp only [hq, ha, List.isEmpty_nil, Option.isSome_none]
  rfl

end Issue

/-- Settles O6: nothing queued and nothing acquired lets a block in, once its offset or its planes pass their check. -/
theorem laneIssue : Obligations.LaneIssue := by
  refine fun a b n off s sp l h hq ha => ⟨?lrun, fun hr hlo => ?lrunRegister, fun hr hc => ?lrunp, fun hr hhi => ?beyond,
    fun c hr hc => ?planes⟩
  case lrun => rw [exec_lrun, execLrun, withLaunch_actingIn h, issueBlock_empty hq ha]
  case lrunRegister =>
    rw [exec_lrunRegister, execLrunRegister, withLaunch_actingIn h, needS_ready hr, if_neg (Nat.not_le.2 hlo),
      issueBlock_empty hq ha]
  case lrunp => rw [exec_lrunp_checked n h hq ha hr, hc, commitS]
  case beyond =>
    rw [exec_lrunRegister, execLrunRegister, withLaunch_actingIn h, needS_ready hr, if_pos hhi, trapS]
  case planes =>
    obtain ⟨cause, fmask⟩ := c
    rw [exec_lrunp_checked n h hq ha hr, hc]
    rfl

end Sys2Proof.Machine

/-! What the package keeps through every operation: the step in progress, and the canonical form of memory and of the lists of
home lines, spans and decks (R164, R228, R237). Each operation of the model has one lemma, that it leaves a package which `Keeps`
what the one before did; O56 and the proofs that need the step in progress (`cur`) use them. -/

namespace Sys2Proof.Machine

/-! ### Lists by rising keys -/

section Rising
variable {α : Type}

theorem keysRise_mapPut {m : SMap α} (j : Nat) (v : α) (h : keysRise m = true) : keysRise (mapPut m j v) = true :=
  (keysRise_iff _).2 (pairwise_mapPut m j v ((keysRise_iff _).1 h))

theorem keysRise_filter {m : SMap α} (p : Nat × α → Bool) (h : keysRise m = true) : keysRise (m.filter p) = true :=
  (keysRise_iff _).2 (((keysRise_iff _).1 h).filter p)

theorem keysRise_mapDel {m : SMap α} (j : Nat) (h : keysRise m = true) : keysRise (mapDel m j) = true := keysRise_filter _ h

theorem keysRise_mapSet [DecidableEq α] {m : SMap α} (d : α) (j : Nat) (v : α) (h : keysRise m = true) :
    keysRise (mapSet d m j v) = true := by
  unfold mapSet
  split
  · exact keysRise_mapDel j h
  · exact keysRise_mapPut j v h

/-- A change of values alone leaves the order of the keys. -/
theorem keysRise_map {β : Type} {m : SMap α} (f : Nat × α → Nat × β) (hf : ∀ p, (f p).1 = p.1) (h : keysRise m = true) :
    keysRise (m.map f) = true := by
  refine (keysRise_iff _).2 (List.pairwise_map.2 (((keysRise_iff _).1 h).imp fun hab => ?_))
  rw [hf, hf]
  exact hab

theorem keysRise_filterMap {β : Type} {m : SMap α} (f : Nat × α → Option (Nat × β)) (hf : ∀ p q, f p = some q → q.1 = p.1)
    (h : keysRise m = true) : keysRise (m.filterMap f) = true := by
  refine (keysRise_iff _).2 (List.Pairwise.filterMap f (fun a b hab x hx y hy => ?_) ((keysRise_iff _).1 h))
  rw [hf a x hx, hf b y hy]
  exact hab

end Rising

/-! ### What a state keeps -/

/-- State `t` is of the same step as `s`, and in canonical form where `s` is. -/
structure Keeps (s t : State) : Prop where
  cur : t.cur = s.cur
  canonical : CanonicalState s → CanonicalState t

/-- A package in which an outcome goes on is in canonical form where `s` is. -/
def Ends (s : State) (r : Res) : Prop := ∀ t, r = .next t → CanonicalState s → CanonicalState t

/-- What the canonical form speaks of, and the step in progress. -/
def keptParts (s : State) : Cur × List Host.Cell × SMap HomeLine × SMap Span × SMap Deck :=
  (s.cur, s.mem, s.lines, s.spans, s.decks)

section Keeps
variable {s t : State}

theorem Keeps.refl (s : State) : Keeps s s := ⟨rfl, id⟩

theorem Keeps.trans {u : State} (h : Keeps s t) (h' : Keeps t u) : Keeps s u :=
  ⟨h'.cur.trans h.cur, fun hs => h'.canonical (h.canonical hs)⟩

/-- An operation on other parts of the package. -/
theorem Keeps.same {t' : State} (h : Keeps s t) (e : keptParts t' = keptParts t) : Keeps s t' := by
  obtain ⟨hcur, hmem, hlines, hspans, hdecks⟩ : t'.cur = t.cur ∧ t'.mem = t.mem ∧ t'.lines = t.lines ∧ t'.spans = t.spans ∧
    t'.decks = t.decks := by simpa [keptParts] using e
  refine ⟨hcur.trans h.cur, fun hs => ?_⟩
  have ht := h.canonical hs
  rwa [CanonicalState, hmem, hlines, hspans, hdecks]

theorem Keeps.ite {c : Prop} [Decidable c] {u : State} (h : Keeps s t) (h' : Keeps s u) : Keeps s (if c then t else u) := by
  split
  · exact h
  · exact h'

theorem Keeps.foldl {α : Type} {f : State → α → State} {l : List α} (h : Keeps s t) (hf : ∀ u x, Keeps s u → Keeps s (f u x)) :
    Keeps s (l.foldl f t) := by
  induction l generalizing t with
  | nil => exact h
  | cons x l ih => exact ih (hf t x h)

theorem Keeps.foldlFst {α β : Type} {f : State × β → α → State × β} {l : List α} {p : State × β} (h : Keeps s p.1)
    (hf : ∀ u x, Keeps s u.1 → Keeps s (f u x).1) : Keeps s (l.foldl f p).1 := by
  induction l generalizing p with
  | nil => exact h
  | cons x l ih => exact ih (hf p x h)

/-- The same from a package and what goes along with it. -/
theorem Keeps.foldlPair {α β : Type} {f : State × β → α → State × β} {l : List α} {y : β} (h : Keeps s t)
    (hf : ∀ u x, Keeps s u.1 → Keeps s (f u x).1) : Keeps s (l.foldl f (t, y)).1 :=
  Keeps.foldlFst h hf

theorem Keeps.ofFst {β : Type} {p : State × β} {y : β} (h : Keeps s p.1) (e : p = (t, y)) : Keeps s t := by
  subst e; exact h

theorem Keeps.putSpan {u : Nat} {sp : Span} (h : Keeps s t) : Keeps s (putSpan t u sp) :=
  ⟨h.cur, fun hs => have ⟨hm, hl, hsp, hd⟩ := h.canonical hs; ⟨hm, hl, keysRise_mapPut _ _ hsp, hd⟩⟩

theorem Keeps.putDeck {k : Nat} {d : Deck} (h : Keeps s t) : Keeps s (putDeck t k d) :=
  ⟨h.cur, fun hs => have ⟨hm, hl, hsp, hd⟩ := h.canonical hs; ⟨hm, hl, hsp, keysRise_mapPut _ _ hd⟩⟩

theorem Keeps.putHome {line : Nat} {x : HomeLine} (h : Keeps s t) : Keeps s (putHome t line x) :=
  ⟨h.cur, fun hs => have ⟨hm, hl, hsp, hd⟩ := h.canonical hs; ⟨hm, keysRise_mapSet _ _ _ hl, hsp, hd⟩⟩

theorem Keeps.memPut {pa : Nat} {b : Byte} (h : Keeps s t) : Keeps s (memPut t pa b) :=
  ⟨h.cur, fun hs => have ⟨hm, hl, hsp, hd⟩ := h.canonical hs; ⟨memory_wf_memPut _ _ hm, hl, hsp, hd⟩⟩

theorem Keeps.delSpan {u : Nat} (h : Keeps s t) : Keeps s { t with spans := mapDel t.spans u } :=
  ⟨h.cur, fun hs => have ⟨hm, hl, hsp, hd⟩ := h.canonical hs; ⟨hm, hl, keysRise_mapDel _ hsp, hd⟩⟩

theorem Keeps.delDeck {k : Nat} (h : Keeps s t) : Keeps s { t with decks := mapDel t.decks k } :=
  ⟨h.cur, fun hs => have ⟨hm, hl, hsp, hd⟩ := h.canonical hs; ⟨hm, hl, hsp, keysRise_mapDel _ hd⟩⟩

/-! ### What an outcome keeps -/

theorem Ends.next (h : Keeps s t) : Ends s (.next t) := by
  rintro _ ⟨rfl⟩ hs
  exact h.canonical hs

theorem Ends.fault {e : Fault} : Ends s (.fault e) := fun _ h => nomatch h

theorem Ends.refused {e : Refusal} : Ends s (.refused e) := fun _ h => nomatch h

theorem Ends.ite {c : Prop} [Decidable c] {q r : Res} (h : Ends s q) (h' : Ends s r) : Ends s (if c then q else r) := by
  split
  · exact h
  · exact h'

/-- The outcome of what runs as a step of its own, in a package that differs in the step in progress. -/
theorem Ends.turn {u : State} {r : Res} (h : Keeps s t) (hr : Ends u r) (e : (keptParts u).2 = (keptParts t).2) : Ends s r := by
  obtain ⟨hmem, hlines, hspans, hdecks⟩ : u.mem = t.mem ∧ u.lines = t.lines ∧ u.spans = t.spans ∧ u.decks = t.decks := by
    simpa [keptParts] using e
  intro x hx hs
  have ht := h.canonical hs
  exact hr x hx (by rwa [CanonicalState, hmem, hlines, hspans, hdecks])

end Keeps

end Sys2Proof.Machine

/-! What the answers of the model's checks and accesses keep: each package that an answer holds. -/

namespace Sys2Proof.Machine

/-- Every package that the answer holds keeps what `s` has. -/
inductive Xl.Keeps (s : State) : Xl → Prop where
  | ok {pa : ℕ} {bar : Bool} : Keeps s (.ok pa bar)
  | wait {t : State} (h : Machine.Keeps s t) : Keeps s (.wait t)
  | fail : Keeps s .fail

/-- Every package that the answer holds keeps what `s` has. -/
inductive BarXl.Keeps (s : State) : BarXl → Prop where
  | loc {b : BarLoc} : Keeps s (.loc b)
  | wait {t : State} (h : Machine.Keeps s t) : Keeps s (.wait t)
  | trap {cause : ℕ} : Keeps s (.trap cause)

/-- Every package that the answer holds keeps what `s` has. -/
inductive Parcel.Keeps (s : State) : Parcel → Prop where
  | word {w : Word32} {pa : ℕ} : Keeps s (.word w pa)
  | wait {t : State} (h : Machine.Keeps s t) : Keeps s (.wait t)
  | fail : Keeps s .fail

/-- Every package that the answer holds keeps what `s` has. -/
inductive LaneCode.Keeps (s : State) : LaneCode → Prop where
  | word {t : State} {w : LWord} (h : Machine.Keeps s t) : Keeps s (.word t w)
  | wait {t : State} (h : Machine.Keeps s t) : Keeps s (.wait t)
  | fail {a : ℕ} : Keeps s (.fail a)

/-- Every package that the answer holds keeps what `s` has. -/
inductive BarRes.Keeps (s : State) : BarRes → Prop where
  | ok {t : State} (h : Machine.Keeps s t) : Keeps s (.ok t)
  | bad : Keeps s .bad

/-- Every package that the answer holds keeps what `s` has. -/
inductive BarFind.Keeps (s : State) : BarFind → Prop where
  | ok {f : List Find} : Keeps s (.ok f)
  | wait {t : State} (h : Machine.Keeps s t) : Keeps s (.wait t)

/-- Every package that the answer holds keeps what `s` has. -/
inductive SlotRes.Keeps (s : State) : SlotRes → Prop where
  | ok {t : State} (h : Machine.Keeps s t) : Keeps s (.ok t)
  | bad : Keeps s .bad
  | wait : Keeps s .wait

/-- Every package that the answer holds keeps what `s` has. -/
inductive EngAt.Keeps (s : State) : EngAt → Prop where
  | loc {off : ℕ} : Keeps s (.loc off)
  | phys {pa : ℕ} {bar : Bool} : Keeps s (.phys pa bar)
  | wait {t : State} (h : Machine.Keeps s t) : Keeps s (.wait t)
  | fail : Keeps s .fail

/-- Every package that the answer holds keeps what `s` has. -/
inductive EngRead.Keeps (s : State) : EngRead → Prop where
  | ok {l : List Byte} {poison : Bool} {lines : List ℕ} : Keeps s (.ok l poison lines)
  | wait {t : State} (h : Machine.Keeps s t) : Keeps s (.wait t)
  | fail : Keeps s .fail

/-- Every package that the answer holds keeps what `s` has. -/
inductive EngWrite.Keeps (s : State) : EngWrite → Prop where
  | ok {t : State} {after : ℕ} (h : Machine.Keeps s t) : Keeps s (.ok t after)
  | wait {t : State} (h : Machine.Keeps s t) : Keeps s (.wait t)
  | fail : Keeps s .fail

/-- Every package that the answer holds keeps what `s` has. -/
inductive Rd.Keeps (s : State) : Rd → Prop where
  | ok {bytes : List Byte} : Keeps s (.ok bytes)
  | wait {t : State} (h : Machine.Keeps s t) : Keeps s (.wait t)
  | fail : Keeps s .fail

/-- Every package that the answer holds keeps what `s` has. -/
inductive Table.Keeps (s : State) : Table → Prop where
  | ok {l : List (List ℕ)} : Keeps s (.ok l)
  | bad : Keeps s .bad
  | wait {t : State} (h : Machine.Keeps s t) : Keeps s (.wait t)

/-- Every package that the answer holds keeps what `s` has. -/
inductive Checked.Keeps (s : State) : Checked → Prop where
  | ok {l : Launch} {first : ℕ} {last : ℕ} {frame : Word64} {join : Word64} : Keeps s (.ok l first last frame join)
  | bad {reason : ℕ} : Keeps s (.bad reason)
  | wait {t : State} (h : Machine.Keeps s t) : Keeps s (.wait t)

/-- Every package that the answer holds keeps what `s` has. -/
inductive FabRd.Keeps (s : State) : FabRd → Prop where
  | ok {t : State} {bytes : List Byte} {poison : Bool} (h : Machine.Keeps s t) : Keeps s (.ok t bytes poison)
  | wait {t : State} (h : Machine.Keeps s t) : Keeps s (.wait t)
  | fail : Keeps s .fail

/-- Every package that the answer holds keeps what `s` has. -/
inductive FabWr.Keeps (s : State) : FabWr → Prop where
  | ok {t : State} (h : Machine.Keeps s t) : Keeps s (.ok t)
  | wait {t : State} (h : Machine.Keeps s t) : Keeps s (.wait t)
  | fail {t : State} (h : Machine.Keeps s t) : Keeps s (.fail t)

/-- Every package that the answer holds keeps what `s` has. -/
inductive ResAt.Keeps (s : State) : ResAt → Prop where
  | ok {t : State} {o : ResObj} (h : Machine.Keeps s t) : Keeps s (.ok t o)
  | bad : Keeps s .bad
  | wait {t : State} (h : Machine.Keeps s t) : Keeps s (.wait t)
  | fail : Keeps s .fail

/-- Every package that the answer holds keeps what `s` has. -/
inductive CollRes.Keeps (s : State) : CollRes → Prop where
  | ok {t : State} (h : Machine.Keeps s t) : Keeps s (.ok t)
  | bad {cause : ℕ} : Keeps s (.bad cause)
  | wait : Keeps s .wait

/-- Every package that the answer holds keeps what `s` has. -/
inductive Accept.Keeps (s : State) : Accept → Prop where
  | ok {t : State} (h : Machine.Keeps s t) : Keeps s (.ok t)
  | drop {t : State} (h : Machine.Keeps s t) : Keeps s (.drop t)
  | trim : Keeps s .trim
  | wait {t : State} (h : Machine.Keeps s t) : Keeps s (.wait t)

/-- Every package that the answer holds keeps what `s` has. -/
inductive Pushed.Keeps (s : State) : Pushed → Prop where
  | done {t : State} {answer : ℕ} (h : Machine.Keeps s t) : Keeps s (.done t answer)
  | wait {t : State} (h : Machine.Keeps s t) : Keeps s (.wait t)

/-- Every package that the answer holds keeps what `s` has. -/
inductive Applied.Keeps (s : State) : Applied → Prop where
  | ok {t : State} (h : Machine.Keeps s t) : Keeps s (.ok t)
  | bad {cause : ℕ} : Keeps s (.bad cause)
  | wait {t : State} (h : Machine.Keeps s t) : Keeps s (.wait t)

/-- Every package that the answer holds keeps what `s` has. -/
inductive AtomAt.Keeps (s : State) : AtomAt → Prop where
  | scratch {d : Deck} {off : ℕ} : Keeps s (.scratch d off)
  | home {pa : ℕ} : Keeps s (.home pa)
  | wait {t : State} (h : Machine.Keeps s t) : Keeps s (.wait t)
  | bad {cause : ℕ} : Keeps s (.bad cause)
  | gone : Keeps s .gone

/-- Every package that the answer holds keeps what `s` has. -/
inductive TileStep.Keeps (s : State) : TileStep → Prop where
  | ok {t : State} {n : ℕ} (h : Machine.Keeps s t) : Keeps s (.ok t n)
  | bad {t : State} (h : Machine.Keeps s t) : Keeps s (.bad t)
  | fault {t : State} (h : Machine.Keeps s t) : Keeps s (.fault t)

/-- Every package that the answer holds keeps what `s` has. -/
inductive Policy.Keeps (s : State) : Policy → Prop where
  | ok {t : State} (h : Machine.Keeps s t) : Keeps s (.ok t)
  | wait {t : State} (h : Machine.Keeps s t) : Keeps s (.wait t)

/-- Every package that the answer holds keeps what `s` has. -/
inductive FetchBar.Keeps (s : State) : FetchBar → Prop where
  | ok : Keeps s .ok
  | wait {t : State} (h : Machine.Keeps s t) : Keeps s (.wait t)
  | bad {status : ℕ} : Keeps s (.bad status)

/-- The same of an access of the span's own: the package in which it is parked. -/
inductive Own.Keeps {α : Type} (s : State) : Own α → Prop where
  | ok {x : α} : Keeps s (.ok x)
  | park {t : State} (h : Machine.Keeps s t) : Keeps s (.park t)
  | later : Keeps s .later
  | full : Keeps s .full
  | bad {cause : ℕ} : Keeps s (.bad cause)
  | poison : Keeps s .poison

/-- The same of a read, which goes on in a package of its own. -/
inductive Own.KeepsVal {α : Type} (s : State) : Own (State × α) → Prop where
  | ok {x : State × α} (h : Machine.Keeps s x.1) : KeepsVal s (.ok x)
  | park {t : State} (h : Machine.Keeps s t) : KeepsVal s (.park t)
  | later : KeepsVal s .later
  | full : KeepsVal s .full
  | bad {cause : ℕ} : KeepsVal s (.bad cause)
  | poison : KeepsVal s .poison

/-- The package that there may be keeps what `s` has. -/
def OptKeeps (s : State) (x : Option State) : Prop := ∀ t, x = some t → Keeps s t

def OptKeepsFst {α : Type} (s : State) (x : Option (State × α)) : Prop := ∀ t, x = some t → Keeps s t.1

section Answers
variable {s t : State}

theorem foldl_of {α β : Type} {P : β → Prop} {f : β → α → β} {l : List α} {b : β} (h : P b) (hf : ∀ u x, P u → P (f u x)) :
    P (l.foldl f b) := by
  induction l generalizing b with
  | nil => exact h
  | cons x l ih => exact ih (hf b x h)

theorem ite_of {α : Type} {P : α → Prop} {c : Prop} [Decidable c] {a b : α} (h : P a) (h' : P b) : P (if c then a else b) := by
  split
  · exact h
  · exact h'

theorem Keeps.iteFst {α : Type} {c : Prop} [Decidable c] {p q : State × α} (h : Keeps s p.1) (h' : Keeps s q.1) :
    Keeps s (if c then p else q).1 := by
  split
  · exact h
  · exact h'

theorem OptKeeps.none : OptKeeps s none := fun _ h => nomatch h
theorem OptKeeps.some (h : Keeps s t) : OptKeeps s (some t) := by
  rintro _ ⟨rfl⟩
  exact h
theorem OptKeepsFst.none {α : Type} : OptKeepsFst s (none : Option (State × α)) := fun _ h => nomatch h
theorem OptKeepsFst.some {α : Type} {p : State × α} (h : Keeps s p.1) : OptKeepsFst s (some p) := by
  rintro _ ⟨rfl⟩
  exact h
theorem OptKeeps.findSome {α : Type} {f : α → Option State} {l : List α} (h : ∀ x, OptKeeps s (f x)) : OptKeeps s (l.findSome? f) := by
  intro t ht
  obtain ⟨x, -, hx⟩ := List.exists_of_findSome?_eq_some ht
  exact h x t hx
theorem OptKeeps.findSomeMap {α β : Type} {f : β → Option State} {g : α → β} {l : List α} (h : ∀ x, OptKeeps s (f (g x))) :
    OptKeeps s ((l.map g).findSome? f) := by
  rw [List.findSome?_map]
  exact .findSome h
theorem OptKeeps.bind {α : Type} {x : Option α} {f : α → Option State} (h : ∀ y, OptKeeps s (f y)) : OptKeeps s (x.bind f) := by
  cases x with
  | none => exact .none
  | some y => exact h y
theorem Keeps.ofSome {x : Option State} (h : OptKeeps s x) (e : x = some t) : Keeps s t := h t e
theorem Keeps.ofSomeFst {α : Type} {x : Option (State × α)} {y : α} (h : OptKeepsFst s x) (e : x = some (t, y)) : Keeps s t := h _ e
theorem Keeps.ofStep {x : Step} {c : Cmd} {l : List Byte} {b : Bool} (h : Keeps s x.s) (e : x = ⟨t, c, l, b⟩) : Keeps s t := by
  subst e; exact h
theorem Keeps.ofOwnPark {α : Type} {x : Own α} (h : Own.Keeps s x) (e : x = .park t) : Keeps s t := by
  subst e; cases h; assumption
theorem Keeps.ofOwnValPark {α : Type} {x : Own (State × α)} (h : Own.KeepsVal s x) (e : x = .park t) : Keeps s t := by
  subst e; cases h; assumption
theorem Keeps.ofOwnValOk {α : Type} {x : Own (State × α)} {y : α} (h : Own.KeepsVal s x) (e : x = .ok (t, y)) : Keeps s t := by
  subst e; cases h; assumption
theorem Keeps.ofXlWait {x : Xl} (h : Xl.Keeps s x) (e : x = .wait t) : Keeps s t := by
  subst e; cases h; assumption
theorem Keeps.ofBarXlWait {x : BarXl} (h : BarXl.Keeps s x) (e : x = .wait t) : Keeps s t := by
  subst e; cases h; assumption
theorem Keeps.ofParcelWait {x : Parcel} (h : Parcel.Keeps s x) (e : x = .wait t) : Keeps s t := by
  subst e; cases h; assumption
theorem Keeps.ofLaneCodeWord {x : LaneCode} {w : LWord} (h : LaneCode.Keeps s x) (e : x = .word t w) : Keeps s t := by
  subst e; cases h; assumption
theorem Keeps.ofLaneCodeWait {x : LaneCode} (h : LaneCode.Keeps s x) (e : x = .wait t) : Keeps s t := by
  subst e; cases h; assumption
theorem Keeps.ofBarResOk {x : BarRes} (h : BarRes.Keeps s x) (e : x = .ok t) : Keeps s t := by
  subst e; cases h; assumption
theorem Keeps.ofBarFindWait {x : BarFind} (h : BarFind.Keeps s x) (e : x = .wait t) : Keeps s t := by
  subst e; cases h; assumption
theorem Keeps.ofSlotResOk {x : SlotRes} (h : SlotRes.Keeps s x) (e : x = .ok t) : Keeps s t := by
  subst e; cases h; assumption
theorem Keeps.ofEngAtWait {x : EngAt} (h : EngAt.Keeps s x) (e : x = .wait t) : Keeps s t := by
  subst e; cases h; assumption
theorem Keeps.ofEngReadWait {x : EngRead} (h : EngRead.Keeps s x) (e : x = .wait t) : Keeps s t := by
  subst e; cases h; assumption
theorem Keeps.ofEngWriteOk {x : EngWrite} {after : ℕ} (h : EngWrite.Keeps s x) (e : x = .ok t after) : Keeps s t := by
  subst e; cases h; assumption
theorem Keeps.ofEngWriteWait {x : EngWrite} (h : EngWrite.Keeps s x) (e : x = .wait t) : Keeps s t := by
  subst e; cases h; assumption
theorem Keeps.ofRdWait {x : Rd} (h : Rd.Keeps s x) (e : x = .wait t) : Keeps s t := by
  subst e; cases h; assumption
theorem Keeps.ofTableWait {x : Table} (h : Table.Keeps s x) (e : x = .wait t) : Keeps s t := by
  subst e; cases h; assumption
theorem Keeps.ofCheckedWait {x : Checked} (h : Checked.Keeps s x) (e : x = .wait t) : Keeps s t := by
  subst e; cases h; assumption
theorem Keeps.ofFabRdOk {x : FabRd} {bytes : List Byte} {poison : Bool} (h : FabRd.Keeps s x) (e : x = .ok t bytes poison) : Keeps s t := by
  subst e; cases h; assumption
theorem Keeps.ofFabRdWait {x : FabRd} (h : FabRd.Keeps s x) (e : x = .wait t) : Keeps s t := by
  subst e; cases h; assumption
theorem Keeps.ofFabWrOk {x : FabWr} (h : FabWr.Keeps s x) (e : x = .ok t) : Keeps s t := by
  subst e; cases h; assumption
theorem Keeps.ofFabWrWait {x : FabWr} (h : FabWr.Keeps s x) (e : x = .wait t) : Keeps s t := by
  subst e; cases h; assumption
theorem Keeps.ofFabWrFail {x : FabWr} (h : FabWr.Keeps s x) (e : x = .fail t) : Keeps s t := by
  subst e; cases h; assumption
theorem Keeps.ofResAtOk {x : ResAt} {o : ResObj} (h : ResAt.Keeps s x) (e : x = .ok t o) : Keeps s t := by
  subst e; cases h; assumption
theorem Keeps.ofResAtWait {x : ResAt} (h : ResAt.Keeps s x) (e : x = .wait t) : Keeps s t := by
  subst e; cases h; assumption
theorem Keeps.ofCollResOk {x : CollRes} (h : CollRes.Keeps s x) (e : x = .ok t) : Keeps s t := by
  subst e; cases h; assumption
theorem Keeps.ofAcceptOk {x : Accept} (h : Accept.Keeps s x) (e : x = .ok t) : Keeps s t := by
  subst e; cases h; assumption
theorem Keeps.ofAcceptDrop {x : Accept} (h : Accept.Keeps s x) (e : x = .drop t) : Keeps s t := by
  subst e; cases h; assumption
theorem Keeps.ofAcceptWait {x : Accept} (h : Accept.Keeps s x) (e : x = .wait t) : Keeps s t := by
  subst e; cases h; assumption
theorem Keeps.ofPushedDone {x : Pushed} {answer : ℕ} (h : Pushed.Keeps s x) (e : x = .done t answer) : Keeps s t := by
  subst e; cases h; assumption
theorem Keeps.ofPushedWait {x : Pushed} (h : Pushed.Keeps s x) (e : x = .wait t) : Keeps s t := by
  subst e; cases h; assumption
theorem Keeps.ofAppliedOk {x : Applied} (h : Applied.Keeps s x) (e : x = .ok t) : Keeps s t := by
  subst e; cases h; assumption
theorem Keeps.ofAppliedWait {x : Applied} (h : Applied.Keeps s x) (e : x = .wait t) : Keeps s t := by
  subst e; cases h; assumption
theorem Keeps.ofAtomAtWait {x : AtomAt} (h : AtomAt.Keeps s x) (e : x = .wait t) : Keeps s t := by
  subst e; cases h; assumption
theorem Keeps.ofTileStepOk {x : TileStep} {n : ℕ} (h : TileStep.Keeps s x) (e : x = .ok t n) : Keeps s t := by
  subst e; cases h; assumption
theorem Keeps.ofTileStepBad {x : TileStep} (h : TileStep.Keeps s x) (e : x = .bad t) : Keeps s t := by
  subst e; cases h; assumption
theorem Keeps.ofTileStepFault {x : TileStep} (h : TileStep.Keeps s x) (e : x = .fault t) : Keeps s t := by
  subst e; cases h; assumption
theorem Keeps.ofPolicyOk {x : Policy} (h : Policy.Keeps s x) (e : x = .ok t) : Keeps s t := by
  subst e; cases h; assumption
theorem Keeps.ofPolicyWait {x : Policy} (h : Policy.Keeps s x) (e : x = .wait t) : Keeps s t := by
  subst e; cases h; assumption
theorem Keeps.ofFetchBarWait {x : FetchBar} (h : FetchBar.Keeps s x) (e : x = .wait t) : Keeps s t := by
  subst e; cases h; assumption

end Answers

end Sys2Proof.Machine

namespace Sys2Proof.Machine

/-! ### Changes of other parts

No operation of the model leaves memory, the home lines, the spans or the decks in another form: one lemma for each, in the order of
the model, each from those of the operations that it is made of. -/

section
variable {s₀ : State}

theorem Keeps.withBox {t : State} {xbox : SMap (List BoxEvent)} (h : Keeps s₀ t) :
    Keeps s₀ { t with box := xbox } := h.same rfl

theorem Keeps.withCores {t : State} {xcores : SMap Core} (h : Keeps s₀ t) :
    Keeps s₀ { t with cores := xcores } := h.same rfl

theorem Keeps.withCoresCtxs {t : State} {xcores : SMap Core} {xctxs : SMap Ctx} (h : Keeps s₀ t) :
    Keeps s₀ { t with cores := xcores, ctxs := xctxs } := h.same rfl

theorem Keeps.withCoresRingsImages {t : State} {xcores : SMap Core} {xrings : SMap Ring} {ximages : SMap Image} (h : Keeps s₀ t) :
    Keeps s₀ { t with cores := xcores, rings := xrings, images := ximages } := h.same rfl

theorem Keeps.withCtxs {t : State} {xctxs : SMap Ctx} (h : Keeps s₀ t) :
    Keeps s₀ { t with ctxs := xctxs } := h.same rfl

theorem Keeps.withCycleMg {t : State} {xcycle : ℕ} {xmg : Mgmt} (h : Keeps s₀ t) :
    Keeps s₀ { t with cycle := xcycle, mg := xmg } := h.same rfl

theorem Keeps.withCycleTicks {t : State} {xcycle : ℕ} {xticks : ℕ} (h : Keeps s₀ t) :
    Keeps s₀ { t with cycle := xcycle, ticks := xticks } := h.same rfl

theorem Keeps.withFab {t : State} {xfab : Fabric} (h : Keeps s₀ t) :
    Keeps s₀ { t with fab := xfab } := h.same rfl

theorem Keeps.withFails {t : State} {xfails : List (Who × ℕ × ℕ × Bool)} (h : Keeps s₀ t) :
    Keeps s₀ { t with fails := xfails } := h.same rfl

theorem Keeps.withFaults {t : State} {xfaults : SMap FaultRec} (h : Keeps s₀ t) :
    Keeps s₀ { t with faults := xfaults } := h.same rfl

theorem Keeps.withFaultsFe {t : State} {xfaults : SMap FaultRec} {xfe : FrontEnd} (h : Keeps s₀ t) :
    Keeps s₀ { t with faults := xfaults, fe := xfe } := h.same rfl

theorem Keeps.withFe {t : State} {xfe : FrontEnd} (h : Keeps s₀ t) :
    Keeps s₀ { t with fe := xfe } := h.same rfl

theorem Keeps.withFresh {t : State} {xfresh : ℕ} (h : Keeps s₀ t) :
    Keeps s₀ { t with fresh := xfresh } := h.same rfl

theorem Keeps.withFreshFab {t : State} {xfresh : ℕ} {xfab : Fabric} (h : Keeps s₀ t) :
    Keeps s₀ { t with fresh := xfresh, fab := xfab } := h.same rfl

theorem Keeps.withFreshWalks {t : State} {xfresh : ℕ} {xwalks : SMap Walk} (h : Keeps s₀ t) :
    Keeps s₀ { t with fresh := xfresh, walks := xwalks } := h.same rfl

theorem Keeps.withImages {t : State} {ximages : SMap Image} (h : Keeps s₀ t) :
    Keeps s₀ { t with images := ximages } := h.same rfl

theorem Keeps.withLands {t : State} {xlands : SMap Land} (h : Keeps s₀ t) :
    Keeps s₀ { t with lands := xlands } := h.same rfl

theorem Keeps.withLaunches {t : State} {xlaunches : SMap Launch} (h : Keeps s₀ t) :
    Keeps s₀ { t with launches := xlaunches } := h.same rfl

theorem Keeps.withLaunchesOrd {t : State} {xlaunches : SMap Launch} {xord : Order} (h : Keeps s₀ t) :
    Keeps s₀ { t with launches := xlaunches, ord := xord } := h.same rfl

theorem Keeps.withLoads {t : State} {xloads : SMap Load} (h : Keeps s₀ t) :
    Keeps s₀ { t with loads := xloads } := h.same rfl

theorem Keeps.withMerges {t : State} {xmerges : SMap Merge} (h : Keeps s₀ t) :
    Keeps s₀ { t with merges := xmerges } := h.same rfl

theorem Keeps.withMeshMsgs {t : State} {xmeshMsgs : SMap MeshMsg} (h : Keeps s₀ t) :
    Keeps s₀ { t with meshMsgs := xmeshMsgs } := h.same rfl

theorem Keeps.withMeshMsgsRounds {t : State} {xmeshMsgs : SMap MeshMsg} {xrounds : SMap Round} (h : Keeps s₀ t) :
    Keeps s₀ { t with meshMsgs := xmeshMsgs, rounds := xrounds } := h.same rfl

theorem Keeps.withMg {t : State} {xmg : Mgmt} (h : Keeps s₀ t) :
    Keeps s₀ { t with mg := xmg } := h.same rfl

theorem Keeps.withMgFab {t : State} {xmg : Mgmt} {xfab : Fabric} (h : Keeps s₀ t) :
    Keeps s₀ { t with mg := xmg, fab := xfab } := h.same rfl

theorem Keeps.withNets {t : State} {xnets : SMap NetBar} (h : Keeps s₀ t) :
    Keeps s₀ { t with nets := xnets } := h.same rfl

theorem Keeps.withNextId {t : State} {xnextId : ℕ} (h : Keeps s₀ t) :
    Keeps s₀ { t with nextId := xnextId } := h.same rfl

theorem Keeps.withNextIdFab {t : State} {xnextId : ℕ} {xfab : Fabric} (h : Keeps s₀ t) :
    Keeps s₀ { t with nextId := xnextId, fab := xfab } := h.same rfl

theorem Keeps.withNextIdFaults {t : State} {xnextId : ℕ} {xfaults : SMap FaultRec} (h : Keeps s₀ t) :
    Keeps s₀ { t with nextId := xnextId, faults := xfaults } := h.same rfl

theorem Keeps.withNextIdFe {t : State} {xnextId : ℕ} {xfe : FrontEnd} (h : Keeps s₀ t) :
    Keeps s₀ { t with nextId := xnextId, fe := xfe } := h.same rfl

theorem Keeps.withNextIdImages {t : State} {xnextId : ℕ} {ximages : SMap Image} (h : Keeps s₀ t) :
    Keeps s₀ { t with nextId := xnextId, images := ximages } := h.same rfl

theorem Keeps.withNextIdLands {t : State} {xnextId : ℕ} {xlands : SMap Land} (h : Keeps s₀ t) :
    Keeps s₀ { t with nextId := xnextId, lands := xlands } := h.same rfl

theorem Keeps.withNextIdLaunchesOrd {t : State} {xnextId : ℕ} {xlaunches : SMap Launch} {xord : Order} (h : Keeps s₀ t) :
    Keeps s₀ { t with nextId := xnextId, launches := xlaunches, ord := xord } := h.same rfl

theorem Keeps.withNextIdLaunchesRuns {t : State} {xnextId : ℕ} {xlaunches : SMap Launch} {xruns : SMap Run} (h : Keeps s₀ t) :
    Keeps s₀ { t with nextId := xnextId, launches := xlaunches, runs := xruns } := h.same rfl

theorem Keeps.withNextIdLoads {t : State} {xnextId : ℕ} {xloads : SMap Load} (h : Keeps s₀ t) :
    Keeps s₀ { t with nextId := xnextId, loads := xloads } := h.same rfl

theorem Keeps.withNextIdMerges {t : State} {xnextId : ℕ} {xmerges : SMap Merge} (h : Keeps s₀ t) :
    Keeps s₀ { t with nextId := xnextId, merges := xmerges } := h.same rfl

theorem Keeps.withNextIdMeshMsgs {t : State} {xnextId : ℕ} {xmeshMsgs : SMap MeshMsg} (h : Keeps s₀ t) :
    Keeps s₀ { t with nextId := xnextId, meshMsgs := xmeshMsgs } := h.same rfl

theorem Keeps.withNextIdReqs {t : State} {xnextId : ℕ} {xreqs : SMap Req} (h : Keeps s₀ t) :
    Keeps s₀ { t with nextId := xnextId, reqs := xreqs } := h.same rfl

theorem Keeps.withNextIdWalks {t : State} {xnextId : ℕ} {xwalks : SMap Walk} (h : Keeps s₀ t) :
    Keeps s₀ { t with nextId := xnextId, walks := xwalks } := h.same rfl

theorem Keeps.withOrd {t : State} {xord : Order} (h : Keeps s₀ t) :
    Keeps s₀ { t with ord := xord } := h.same rfl

theorem Keeps.withReqs {t : State} {xreqs : SMap Req} (h : Keeps s₀ t) :
    Keeps s₀ { t with reqs := xreqs } := h.same rfl

theorem Keeps.withRings {t : State} {xrings : SMap Ring} (h : Keeps s₀ t) :
    Keeps s₀ { t with rings := xrings } := h.same rfl

theorem Keeps.withRounds {t : State} {xrounds : SMap Round} (h : Keeps s₀ t) :
    Keeps s₀ { t with rounds := xrounds } := h.same rfl

theorem Keeps.withRuns {t : State} {xruns : SMap Run} (h : Keeps s₀ t) :
    Keeps s₀ { t with runs := xruns } := h.same rfl

theorem Keeps.withUppers {t : State} {xuppers : List Upper} (h : Keeps s₀ t) :
    Keeps s₀ { t with uppers := xuppers } := h.same rfl

theorem Keeps.withUses {t : State} {xuses : ℕ} (h : Keeps s₀ t) :
    Keeps s₀ { t with uses := xuses } := h.same rfl

theorem Keeps.withUsesLaunchesImagesOrd {t : State} {xuses : ℕ} {xlaunches : SMap Launch} {ximages : SMap Image} {xord : Order} (h : Keeps s₀ t) :
    Keeps s₀ { t with uses := xuses, launches := xlaunches, images := ximages, ord := xord } := h.same rfl

theorem Keeps.withWalks {t : State} {xwalks : SMap Walk} (h : Keeps s₀ t) :
    Keeps s₀ { t with walks := xwalks } := h.same rfl

end

/-! ### The operations of `Machine/Order` -/

section
variable {s₀ : State}

theorem Keeps.putAgent {s : State} {a : ℕ} {x : Agent} (h : Keeps s₀ s) : Keeps s₀ (putAgent s a x) := h.withOrd

theorem Keeps.delAgent {s : State} {a : ℕ} (h : Keeps s₀ s) : Keeps s₀ (delAgent s a) := h.withOrd

theorem Keeps.publish {s : State} {a : ℕ} (h : Keeps s₀ s) : Keeps s₀ (publish s a).1 := h.putAgent

theorem Keeps.learn {s : State} {a : ℕ} {c : Clock} (h : Keeps s₀ s) : Keeps s₀ (learn s a c) := h.putAgent

theorem Keeps.handOver {s : State} {a : ℕ} {b : ℕ} (h : Keeps s₀ s) : Keeps s₀ (handOver s a b) := h.publish.learn

theorem Keeps.putOrders {s : State} {pa : ℕ} {l : List Written} (h : Keeps s₀ s) : Keeps s₀ (putOrders s pa l) := h.withOrd

theorem Keeps.orderWrite {s : State} {w : Writer} {atomic : Bool} {va : ℕ} {pa : ℕ} (h : Keeps s₀ s) :
    Keeps s₀ (orderWrite s w atomic va pa).1 := h.putOrders

theorem Keeps.nextStamp {s : State} (h : Keeps s₀ s) : Keeps s₀ (nextStamp s) := h.withOrd

theorem Keeps.seeMarks {s : State} {a : ℕ} {l : List FenceMark} (h : Keeps s₀ s) : Keeps s₀ (seeMarks s a l) := h.ite h.putAgent

theorem Keeps.seeFences {s : State} {a : ℕ} {pa : ℕ} {n : ℕ} (h : Keeps s₀ s) : Keeps s₀ (seeFences s a pa n) := h.seeMarks

theorem Keeps.orderFence {s : State} {a : ℕ} {core : ℕ} {scope : ℕ} (h : Keeps s₀ s) :
    Keeps s₀ (orderFence s a core scope) :=
  h.putAgent.publish.putAgent

theorem Keeps.addRelease {s : State} {key : ℕ} {r : Released} (h : Keeps s₀ s) : Keeps s₀ (addRelease s key r) := h.withOrd

theorem Keeps.acquireFrom {s : State} {a : ℕ} {core : ℕ} {scope : ℕ} {key : ℕ} {v : ℕ} {rs : Option (List (ℕ × ℕ))} (h : Keeps s₀ s) :
    Keeps s₀ (acquireFrom s a core scope key v rs) := h.learn

theorem Keeps.coverPhase {s : State} {key : ℕ} {c : Clock} (h : Keeps s₀ s) : Keeps s₀ (coverPhase s key c) := h.withOrd

theorem Keeps.endPhase {s : State} {key : ℕ} (h : Keeps s₀ s) : Keeps s₀ (endPhase s key) := by
  unfold Machine.endPhase
  dsimp only
  split
  · exact h
  · exact h.withOrd

end

/-! ### The operations of `Machine/Ops` -/

section
variable {s₀ : State}

theorem Keeps.putCore {s : State} {g : ℕ} {c : Core} (h : Keeps s₀ s) : Keeps s₀ (putCore s g c) := h.withCores

theorem Keeps.putCtx {s : State} {g : ℕ} {half : Bool} {c : Ctx} (h : Keeps s₀ s) : Keeps s₀ (putCtx s g half c) := h.withCtxs

theorem Keeps.putReq {s : State} {i : ℕ} {r : Req} (h : Keeps s₀ s) : Keeps s₀ (putReq s i r) := h.withReqs

theorem Keeps.delReq {s : State} {i : ℕ} (h : Keeps s₀ s) : Keeps s₀ (delReq s i) := h.withReqs

theorem Keeps.newReq {s : State} {r : Req} (h : Keeps s₀ s) : Keeps s₀ (newReq s r).1 := h.withNextIdReqs

theorem Keeps.putLoad {s : State} {i : ℕ} {l : Load} (h : Keeps s₀ s) : Keeps s₀ (putLoad s i l) := h.withLoads

theorem Keeps.newLoad {s : State} {l : Load} (h : Keeps s₀ s) : Keeps s₀ (newLoad s l).1 := h.withNextIdLoads

theorem Ends.withSpan {s : State} {k : Span → Res} (hk : ∀ x0, Ends s₀ (k x0)) :
    Ends s₀ (withSpan s k) := by
  unfold Machine.withSpan
  split
  · exact Ends.fault
  · exact hk _

theorem Ends.withLaunch {s : State} {k : Span → Launch → Res} (hk : ∀ x0 x1, Ends s₀ (k x0 x1)) :
    Ends s₀ (withLaunch s k) :=
  Ends.withSpan (fun _ => (by split; exacts [Ends.fault, hk _ _]))

theorem Ends.commitS {s : State} {sp : Span} (h : Keeps s₀ s) : Ends s₀ (commitS s sp) := Ends.next h.putSpan

theorem Ends.commitJump {s : State} {sp : Span} {pc : Word64} (h : Keeps s₀ s) : Ends s₀ (commitJump s sp pc) := Ends.next h.putSpan

theorem Ends.stall {s : State} (h : Keeps s₀ s) : Ends s₀ (stall s) := Ends.next h

theorem Ends.hold {s : State} {sp : Span} (h : Keeps s₀ s) : Ends s₀ (hold s sp) := Ends.next h.putSpan

theorem Ends.stallFor {s : State} {sp : Span} {ss : List ℕ} {vs : List ℕ} (h : Keeps s₀ s) :
    Ends s₀ (stallFor s sp ss vs) := by
  unfold Machine.stallFor
  exact Ends.ite (Ends.hold h) (Ends.stall h)

theorem Keeps.memWrite {s : State} {pa : ℕ} {l : List Byte} (h : Keeps s₀ s) : Keeps s₀ (memWrite s pa l) := h.foldl (fun _ _ h2 => h2.memPut)

theorem Keeps.nextUse {s : State} (h : Keeps s₀ s) : Keeps s₀ (nextUse s) := h.withUses

theorem Keeps.makeWay {s : State} {line : ℕ} (h : Keeps s₀ s) : Keeps s₀ (makeWay s line) := by
  unfold Machine.makeWay
  dsimp only
  exact h.ite (by split; exacts [h, h.putHome])

theorem Keeps.homeTouch {s : State} {line : ℕ} (h : Keeps s₀ s) : Keeps s₀ (homeTouch s line) :=
  h.ite (h.makeWay.ite h).putHome.nextUse

theorem Keeps.homePut {s : State} {pa : ℕ} {b : Byte} (h : Keeps s₀ s) : Keeps s₀ (homePut s pa b) := by
  unfold Machine.homePut
  dsimp only
  split
  · exact h.putHome
  · exact ((h.homeTouch.ite h).putHome.ite (h.homeTouch.ite h)).memPut

theorem Keeps.homeWrite {s : State} {pa : ℕ} {l : List Byte} (h : Keeps s₀ s) : Keeps s₀ (homeWrite s pa l) :=
  h.foldl (fun _ _ h2 => h2.homePut)

theorem Keeps.homeWriteNat {s : State} {pa : ℕ} {n : ℕ} {x : ℕ} (h : Keeps s₀ s) : Keeps s₀ (homeWriteNat s pa n x) := h.homeWrite

theorem Keeps.record {s : State} {e : BoxEvent} (h : Keeps s₀ s) : Keeps s₀ (record s e) := h.withBox

theorem Keeps.recUnderread {s : State} {die : ℕ} {core : ℕ} {arg : ℕ} {count : ℕ} {reason : ℕ} {launch : ℕ} (h : Keeps s₀ s) :
    Keeps s₀ (recUnderread s die core arg count reason launch) :=
  h.record

theorem Keeps.recUncorrectable {s : State} {die : ℕ} {core : ℕ} {launch : ℕ} {detail : ℕ} {arg : ℕ} (h : Keeps s₀ s) :
    Keeps s₀ (recUncorrectable s die core launch detail arg) :=
  h.record

theorem Keeps.putBank {s : State} {g : ℕ} {p : ℕ} {b : Bank} (h : Keeps s₀ s) : Keeps s₀ (putBank s g p b) := h.putCore

theorem Keeps.localPut {s : State} {d : Deck} {off : ℕ} {b : Byte} (h : Keeps s₀ s) : Keeps s₀ (localPut s d off b) := by
  unfold Machine.localPut
  dsimp only
  split
  · exact h.putBank
  · exact h

theorem Keeps.localWrite {s : State} {d : Deck} {off : ℕ} {l : List Byte} (h : Keeps s₀ s) :
    Keeps s₀ (localWrite s d off l) :=
  h.foldl (fun _ _ h2 => h2.localPut)

theorem Keeps.localMark {s : State} {d : Deck} {off : ℕ} {n : ℕ} {a : ℕ} (h : Keeps s₀ s) :
    Keeps s₀ (localMark s d off n a) := by
  unfold Machine.localMark
  dsimp only
  exact h.ite (h.foldl (fun _ _ h2 => (by split; exacts [h2.putBank, h2])))

theorem Keeps.seeLocal {s : State} {d : Deck} {off : ℕ} {n : ℕ} {a : ℕ} (h : Keeps s₀ s) :
    Keeps s₀ (seeLocal s d off n a) := h.seeMarks

theorem Keeps.localAtom {s : State} {d : Deck} {off : ℕ} {n : ℕ} (h : Keeps s₀ s) : Keeps s₀ (localAtom s d off n) := by
  unfold Machine.localAtom
  dsimp only
  split
  · exact h.putBank
  · exact h

theorem Keeps.tlbTouch {s : State} {g : ℕ} {fetch : Bool} {bay : ℕ} {t : Tlb} (h : Keeps s₀ s) :
    Keeps s₀ (tlbTouch s g fetch bay t) :=
  (h.ite h.putCore).ite (h.ite h.putCore)

theorem Keeps.startWalk {s : State} {die : ℕ} {root : ℕ} {vpn : ℕ} {n : Need} (h : Keeps s₀ s) :
    Keeps s₀ (startWalk s die root vpn n) := by
  unfold Machine.startWalk
  split
  · exact h.ite h.withWalks
  · exact h.withNextIdWalks

theorem Keeps.translate {s : State} {g : ℕ} {bay : ℕ} {root : ℕ} {key : ℕ} {va : ℕ} {kind : ℕ} {who : Who} {failed : List (ℕ × Bool)} (h : Keeps s₀ s) :
    Xl.Keeps s₀ (translate s g bay root key va kind who failed) := by
  unfold Machine.translate
  dsimp only
  refine ite_of ?_ ?_
  · exact Xl.Keeps.fail
  · refine ite_of ?_ ?_
    · exact Xl.Keeps.wait h
    · split
      · exact ite_of (Xl.Keeps.wait h.startWalk) (ite_of Xl.Keeps.ok Xl.Keeps.fail)
      · exact Xl.Keeps.wait h.startWalk

theorem Keeps.xlate {s : State} {sp : Span} {l : Launch} {va : ℕ} {kind : ℕ} (h : Keeps s₀ s) :
    Xl.Keeps s₀ (xlate s sp l va kind) := h.translate

theorem Keeps.dieXlate {s : State} {die : ℕ} {root : ℕ} {key : ℕ} {va : ℕ} {kind : ℕ} {who : Who} (h : Keeps s₀ s) :
    Xl.Keeps s₀ (dieXlate s die root key va kind who) := by
  unfold Machine.dieXlate
  exact ite_of Xl.Keeps.fail (ite_of Xl.Keeps.fail h.translate)

theorem Keeps.dropFails {s : State} {who : Who} (h : Keeps s₀ s) : Keeps s₀ (dropFails s who) := h.withFails

theorem Keeps.sendStore {s : State} {g : ℕ} {line : ℕ} {mask : BitVec 128} {data : Line} {checks : ℕ} {who : List ℕ} {poison : Bool} {va : ℕ} {writers : List Writer} (h : Keeps s₀ s) :
    Keeps s₀ (sendStore s g line mask data checks who poison va writers) :=
  h.newReq

theorem Keeps.writeBack {s : State} {g : ℕ} {line : ℕ} (h : Keeps s₀ s) : Keeps s₀ (writeBack s g line) := by
  unfold Machine.writeBack
  dsimp only
  split
  · exact h
  · exact h.ite h.sendStore.putCore

theorem Keeps.dropCopy {s : State} {g : ℕ} {line : ℕ} (h : Keeps s₀ s) : Keeps s₀ (dropCopy s g line) := h.writeBack.putCore

theorem Keeps.closeWindows {s : State} {g : ℕ} {p : ℕ → Bool} (h : Keeps s₀ s) : Keeps s₀ (closeWindows s g p) := h.withReqs

theorem Keeps.invalidate {s : State} {g : ℕ} {line : ℕ} (h : Keeps s₀ s) : Keeps s₀ (invalidate s g line) := h.dropCopy.closeWindows

theorem Keeps.dropLines {s : State} {g : ℕ} {p : L1Line → Bool} (h : Keeps s₀ s) : Keeps s₀ (dropLines s g p) :=
  (h.foldl (fun _ _ h2 => h2.dropCopy)).closeWindows

theorem Keeps.makeRoom {s : State} {g : ℕ} {line : ℕ} (h : Keeps s₀ s) : Keeps s₀ (makeRoom s g line).1 := by
  unfold Machine.makeRoom
  dsimp only
  split
  · exact h
  · split
    · exact h
    · exact h.dropCopy

theorem Keeps.clearRace {s : State} {g : ℕ} {line : ℕ} {w : Writer} (h : Keeps s₀ s) : Keeps s₀ (clearRace s g line w) := by
  unfold Machine.clearRace
  split
  · exact h.writeBack.ite h
  · exact h

theorem Keeps.touchL1 {s : State} {g : ℕ} {line : ℕ} (h : Keeps s₀ s) : Keeps s₀ (touchL1 s g line) := by
  unfold Machine.touchL1
  split
  · exact h.putCore.nextUse
  · exact h

theorem Keeps.l1Store {s : State} {g : ℕ} {u : ℕ} {line : ℕ} {mask : BitVec 128} {data : Line} {checks : ℕ} {ws : List Writer} (h : Keeps s₀ s) :
    Keeps s₀ (l1Store s g u line mask data checks ws) := by
  unfold Machine.l1Store
  dsimp only
  split
  · exact Keeps.putCore
      (Keeps.ite
        (h.closeWindows.foldl (fun _ _ h2 => h2.clearRace)).nextUse.writeBack
        (h.closeWindows.foldl (fun _ _ h2 => h2.clearRace)).nextUse)
  · split
    · exact Keeps.putCore
        (Keeps.ofFst
          (Keeps.makeRoom
            (Keeps.ite
              (h.closeWindows.foldl (fun _ _ h2 => h2.clearRace)).nextUse.writeBack
              (h.closeWindows.foldl (fun _ _ h2 => h2.clearRace)).nextUse)) ‹_›)
    · exact Keeps.sendStore
        (Keeps.ofFst
          (Keeps.makeRoom
            (Keeps.ite
              (h.closeWindows.foldl (fun _ _ h2 => h2.clearRace)).nextUse.writeBack
              (h.closeWindows.foldl (fun _ _ h2 => h2.clearRace)).nextUse)) ‹_›)

theorem Keeps.l1Fill {s : State} {g : ℕ} {line : ℕ} {data : Line} {va : ℕ} {marks : List (BitVec 128 × FenceMark)} (h : Keeps s₀ s) :
    Keeps s₀ (l1Fill s g line data va marks) := by
  unfold Machine.l1Fill
  dsimp only
  split
  · exact h.nextUse.putCore
  · split
    · exact (h.nextUse.makeRoom.ofFst ‹_›).putCore
    · exact h.nextUse.makeRoom.ofFst ‹_›

theorem Keeps.useLine {s : State} {g : ℕ} {pa : ℕ} {va : ℕ} {n : ℕ} (h : Keeps s₀ s) : Keeps s₀ (useLine s g pa va n) := by
  unfold Machine.useLine
  dsimp only
  split
  · exact h.touchL1
  · exact h.ite h.homeTouch.l1Fill

theorem Keeps.l1Merge {s : State} {g : ℕ} {line : ℕ} {mask : BitVec 128} {data : Line} (h : Keeps s₀ s) :
    Keeps s₀ (l1Merge s g line mask data) := by
  unfold Machine.l1Merge
  split
  · exact h.putCore
  · exact h

theorem Keeps.writeBackOf {s : State} {g : ℕ} {u : ℕ} {p : ℕ → Bool} (h : Keeps s₀ s) : Keeps s₀ (writeBackOf s g u p) :=
  h.foldl (fun _ _ h2 => h2.writeBack)

theorem Ends.afterStores {s : State} {sp : Span} {scope : ℕ} {k : State → Res} (h : Keeps s₀ s) (hk : ∀ x0, Keeps s₀ x0 → Ends s₀ (k x0)) :
    Ends s₀ (afterStores s sp scope k) := by
  unfold Machine.afterStores
  exact Ends.ite (Ends.ite (hk _ h) (Ends.stall h)) (Ends.ite (hk _ h) (Ends.next h.writeBackOf))

theorem Ends.afterArrive {s : State} {sp : Span} {scope : ℕ} {n : ℕ} {k : State → Res} (h : Keeps s₀ s) (hk : ∀ x0, Keeps s₀ x0 → Ends s₀ (k x0)) :
    Ends s₀ (afterArrive s sp scope n k) := by
  unfold Machine.afterArrive
  split
  · exact Ends.afterStores h hk
  · refine Ends.ite ?_ ?_
    · exact Ends.afterStores h hk
    · exact Ends.ite (Ends.stall h) (Ends.ite (hk _ h) (Ends.next h.writeBackOf.putSpan))

theorem Keeps.storeBytes {s : State} {g : ℕ} {u : ℕ} {pa : ℕ} {va : ℕ} {checks : ℕ} {l : List Byte} (h : Keeps s₀ s) :
    Keeps s₀ (storeBytes s g u pa va checks l) :=
  h.foldl (fun _ _ h2 => h2.l1Store)

theorem Keeps.raiseFloorOf {s : State} {u : ℕ} {line : ℕ} (h : Keeps s₀ s) : Keeps s₀ (raiseFloorOf s u line) := by
  unfold Machine.raiseFloorOf
  split
  · exact h.putSpan
  · exact h

theorem Keeps.writeBar {s : State} {l : BarLoc} {b : Bar} (h : Keeps s₀ s) : Keeps s₀ (writeBar s l b) := by
  unfold Machine.writeBar
  dsimp only
  split
  · split
    · exact ((h.ite h.endPhase).recUncorrectable.ite (h.ite h.endPhase)).localWrite
    · exact h.ite h.endPhase
  · exact (h.ite h.endPhase).withNets
  · exact (h.ite h.endPhase).homeTouch.homeWrite.nextStamp

theorem Keeps.barAbandon {s : State} {l : BarLoc} (h : Keeps s₀ s) : Keeps s₀ (barAbandon s l) := h.writeBar

theorem Keeps.findBar {s : State} {sp : Span} {l : Launch} {addr : Word64} {kind : ℕ} {commit : Bool} (h : Keeps s₀ s) :
    BarXl.Keeps s₀ (findBar s sp l addr kind commit) := by
  unfold Machine.findBar
  dsimp only
  refine ite_of ?_ ?_
  · exact BarXl.Keeps.trap
  · refine ite_of ?_ ?_
    · exact BarXl.Keeps.trap
    · refine ite_of ?_ ?_
      · split
        · exact BarXl.Keeps.trap
        · split
          · exact BarXl.Keeps.trap
          · refine ite_of ?_ ?_
            · exact BarXl.Keeps.loc
            · exact ite_of BarXl.Keeps.trap (ite_of BarXl.Keeps.loc (BarXl.Keeps.wait h))
      · refine ite_of ?_ ?_
        · exact ite_of BarXl.Keeps.loc BarXl.Keeps.trap
        · split
          · exact ite_of (ite_of (BarXl.Keeps.wait h) BarXl.Keeps.loc) BarXl.Keeps.trap
          · exact BarXl.Keeps.wait (Keeps.ofXlWait h.xlate ‹_›)
          · exact BarXl.Keeps.trap

theorem Keeps.dropAt {s : State} {u : ℕ} {D : BitVec 32} {e : RegEntry} (h : Keeps s₀ s) : Keeps s₀ (dropAt s u D e) := by
  unfold Machine.dropAt
  dsimp only
  split
  · exact h
  · exact h.ite (by split; exacts [h.putSpan, h.putSpan.ite h.putSpan.publish.coverPhase.writeBar])

theorem Keeps.dropLanes {s : State} {u : ℕ} {m : BitVec 32} (h : Keeps s₀ s) : Keeps s₀ (dropLanes s u m) :=
  Keeps.foldl h
    (fun _ _ h2 =>
      (by split; exacts [h2, h2.foldl (fun _ _ h3 => (by split; exacts [h3, (by split; exacts [h3.dropAt, h3])]))]))

theorem Keeps.releaseSlot {s : State} {g : ℕ} {half : Bool} {n : ℕ} (h : Keeps s₀ s) :
    Keeps s₀ (releaseSlot s g half n) :=
  (h.ite h.recUnderread).putCtx

theorem Keeps.drainSlots {s : State} {g : ℕ} {half : Bool} (h : Keeps s₀ s) : Keeps s₀ (drainSlots s g half) :=
  h.putCtx.foldl (fun _ _ h2 => h2.releaseSlot)

theorem Keeps.putCmd {s : State} {u : ℕ} {g : ℕ} {half : Bool} {q : ℕ} {e : Cmd} (h : Keeps s₀ s) :
    Keeps s₀ (putCmd s u g half q e) :=
  h.writeBackOf.publish.putAgent.putCtx.withNextId

theorem Keeps.putColl {s : State} {g : ℕ} {half : Bool} {f : CollForm} (h : Keeps s₀ s) :
    Keeps s₀ (putColl s g half f) := h.putAgent.putCtx.withNextId

theorem Keeps.collEnter {n : Nat} {s : State} {k : Nat} (h : Keeps s₀ s) : Keeps s₀ (collEnter n s k) := by
  induction n generalizing s with
  | zero => exact h
  | succ n ih =>
    unfold Machine.collEnter
    split
    · exact h
    · split
      · exact h
      · exact (ih h.putDeck.putColl).ite h

theorem Keeps.retireDeck {s : State} {k : ℕ} (h : Keeps s₀ s) : Keeps s₀ (retireDeck s k) := by
  unfold Machine.retireDeck
  dsimp only
  split
  · exact h
  · exact h.ite (h.foldl (fun _ _ h2 => h2.putBank)).putCtx.drainSlots.putDeck

theorem Keeps.finishSpan {s : State} {u : Nat} (h : Keeps s₀ s) : Keeps s₀ (finishSpan s u) := by
  unfold Machine.finishSpan
  split
  · exact h
  · next sp _ =>
    have hd : Keeps s₀ { Machine.delAgent (Machine.handOver s u sp.deck) u with spans := mapDel s.spans u } :=
      Keeps.delSpan (t := Machine.delAgent (Machine.handOver s u sp.deck) u) h.handOver.delAgent
    exact h.ite hd.collEnter.retireDeck

theorem Keeps.settleLine {s : State} {line : ℕ} {undo : Bool} (h : Keeps s₀ s) : Keeps s₀ (settleLine s line undo) := h.putHome.ite h.putHome

theorem Keeps.unhold {s : State} {line : ℕ} (h : Keeps s₀ s) : Keeps s₀ (unhold s line) := h.putHome

theorem Keeps.cancelPend {s : State} {sp : Span} (h : Keeps s₀ s) : Keeps s₀ (cancelPend s sp) := by
  unfold Machine.cancelPend
  dsimp only
  split
  · exact h.foldl (fun _ _ h2 => (h2.unhold.ite h2).delReq)
  · split
    · exact h
    · exact (h.foldl (fun _ _ h2 => h2.ite h2.settleLine)).withLoads
  · exact h.foldl (fun _ _ h2 => (h2.unhold.ite h2).delReq)
  · exact h

theorem Keeps.retireSpan {s : State} {u : ℕ} (h : Keeps s₀ s) : Keeps s₀ (retireSpan s u) := by
  unfold Machine.retireSpan
  split
  · exact h
  · exact h.cancelPend.putSpan.finishSpan

theorem Keeps.noteStatus {s : State} {launch : ℕ} {k : ℕ} (h : Keeps s₀ s) : Keeps s₀ (noteStatus s launch k) := by
  unfold Machine.noteStatus
  split
  · exact h
  · exact h.withRuns

theorem Keeps.haltSpan {s : State} {u : ℕ} {status : ℕ} (h : Keeps s₀ s) : Keeps s₀ (haltSpan s u status) := by
  unfold Machine.haltSpan
  dsimp only
  split
  · exact h
  · exact Keeps.retireSpan
      (Keeps.putSpan
        (Keeps.withLoads
          (by
            split
            · exact (h.foldl (fun _ _ h2 => (by split; exacts [h2.barAbandon.ite h2, h2]))).noteStatus
            · exact h.foldl (fun _ _ h2 => (by split; exacts [h2.barAbandon.ite h2, h2])))))

theorem Keeps.haltWith {s : State} {u : ℕ} {detail : ℕ} {status : ℕ} {arg : ℕ} (h : Keeps s₀ s) :
    Keeps s₀ (haltWith s u detail status arg) := by
  unfold Machine.haltWith
  split
  · exact h
  · exact h.record.haltSpan

theorem Keeps.lockstepHalt {s : State} {u : ℕ} {mask : BitVec 32} (h : Keeps s₀ s) : Keeps s₀ (lockstepHalt s u mask) := by
  unfold Machine.lockstepHalt
  split
  · exact h
  · exact h.record.haltSpan

theorem Ends.consumed {s : State} (h : Keeps s₀ s) : Ends s₀ (consumed s) := Ends.next h.haltWith

theorem Ends.needS {s : State} {sp : Span} {rs : List ℕ} {k : Res} (h : Keeps s₀ s) (h1 : Ends s₀ k) :
    Ends s₀ (needS s sp rs k) := by
  unfold Machine.needS
  exact Ends.ite (Ends.consumed h) (Ends.ite h1 (Ends.stallFor h))

theorem Keeps.sendBytes {s : State} {g : ℕ} {u : ℕ} {pa : ℕ} {va : ℕ} {bytes : List Byte} (h : Keeps s₀ s) :
    Keeps s₀ (sendBytes s g u pa va bytes) := h.sendStore

theorem Keeps.logBytes {s : State} {sp : Span} {u : ℕ} {l : Launch} {a : ℕ} {bytes : List Byte} (h : Keeps s₀ s) :
    Keeps s₀ (logBytes s sp u l a bytes) := by
  unfold Machine.logBytes
  dsimp only
  exact h.foldl (fun _ _ h2 => (by split; exacts [h2.storeBytes.ite (h2.sendBytes.ite h2), h2]))

theorem Keeps.undoEntry {s : State} {u : ℕ} {sp : Span} {l : Launch} {kind : ℕ} {reg : ℕ} {mask : ℕ} {point : ℕ} {addr : ℕ} {ltime : ℕ} {old : List Byte} (h : Keeps s₀ s) :
    Keeps s₀ (undoEntry s u sp l kind reg mask point addr ltime old).1 := by
  unfold Machine.undoEntry
  dsimp only
  exact h.logBytes

theorem Keeps.undoPutAt {s : State} {src : Span} {sp : Span} {u : ℕ} {l : Launch} {kind : ℕ} {reg : ℕ} {mask : ℕ} {addr : ℕ} {old : List Byte} (h : Keeps s₀ s) :
    Keeps s₀ (undoPutAt s src sp u l kind reg mask addr old).1 :=
  h.undoEntry

theorem Keeps.undoPut {s : State} {sp : Span} {l : Launch} {kind : ℕ} {reg : ℕ} {mask : ℕ} {addr : ℕ} {old : List Byte} (h : Keeps s₀ s) :
    Keeps s₀ (undoPut s sp l kind reg mask addr old).1 :=
  h.undoPutAt

theorem Keeps.undoLines {s : State} {sp : Span} {l : Launch} {ps : List (ℕ × Place)} (h : Keeps s₀ s) :
    Keeps s₀ (undoLines s sp l ps).1 := by
  unfold Machine.undoLines
  exact h.iteFst (h.foldlPair (fun _ _ h2 => h2.undoPut))

theorem Keeps.undoCmd {s : State} {sp : Span} {l : Launch} (h : Keeps s₀ s) : Keeps s₀ (undoCmd s sp l).1 := by
  unfold Machine.undoCmd
  exact h.undoPut.iteFst h

theorem Keeps.ownPlace {s : State} {sp : Span} {l : Launch} {va : ℕ} {kind : ℕ} (h : Keeps s₀ s) :
    Own.Keeps s₀ (ownPlace s sp l va kind) := by
  unfold Machine.ownPlace
  refine ite_of ?_ ?_
  · exact Own.Keeps.bad
  · refine ite_of ?_ ?_
    · exact Own.Keeps.bad
    · refine ite_of ?_ ?_
      · split
        · exact Own.Keeps.bad
        · exact ite_of Own.Keeps.bad (ite_of Own.Keeps.ok Own.Keeps.later)
      · split
        · exact Own.Keeps.park (Keeps.ofXlWait h.xlate ‹_›)
        · exact Own.Keeps.bad
        · exact ite_of Own.Keeps.bad (ite_of Own.Keeps.later Own.Keeps.ok)

theorem Keeps.ownWrite {s : State} {src : Span} {sp : Span} {l : Launch} {va : ℕ} {p : ℕ ⊕ ℕ} {bytes : List Byte} (h : Keeps s₀ s) :
    Keeps s₀ (ownWrite s src sp l va p bytes).1 := by
  unfold Machine.ownWrite
  dsimp only
  refine Keeps.iteFst ?_ ?_
  · exact h.undoPutAt.iteFst h
  · split
    · exact (h.undoPutAt.iteFst h).localWrite
    · exact h.undoPutAt.iteFst h
    · exact (h.undoPutAt.iteFst h).putHome.storeBytes

theorem Keeps.ownCheck {s : State} {sp : Span} {l : Launch} {va : ℕ} (h : Keeps s₀ s) :
    Own.Keeps s₀ (ownCheck s sp l va) := by
  unfold Machine.ownCheck
  split
  · refine ite_of ?_ ?_
    · exact Own.Keeps.later
    · exact ite_of (ite_of Own.Keeps.full Own.Keeps.ok) (ite_of Own.Keeps.bad Own.Keeps.ok)
  · exact ite_of Own.Keeps.later (ite_of Own.Keeps.full Own.Keeps.ok)
  · exact h.ownPlace

theorem Keeps.ownRead {s : State} {sp : Span} {l : Launch} {va : ℕ} {n : ℕ} (h : Keeps s₀ s) :
    Own.KeepsVal s₀ (ownRead s sp l va n) := by
  unfold Machine.ownRead
  split
  · split
    · exact Own.KeepsVal.bad
    · exact ite_of Own.KeepsVal.later (ite_of Own.KeepsVal.poison (Own.KeepsVal.ok h.seeLocal))
  · exact ite_of Own.KeepsVal.later (ite_of Own.KeepsVal.poison (Own.KeepsVal.ok (h.ite h.useLine)))
  · exact Own.KeepsVal.park (Keeps.ofOwnPark h.ownPlace ‹_›)
  · exact Own.KeepsVal.later
  · exact Own.KeepsVal.full
  · exact Own.KeepsVal.bad
  · exact Own.KeepsVal.poison

theorem Keeps.recKill {s : State} {sp : Span} {r : Report} (h : Keeps s₀ s) : Keeps s₀ (recKill s sp r) := h.record

theorem Ends.takeTrap {s : State} {sp : Span} {l : Launch} {r : Report} (h : Keeps s₀ s) : Ends s₀ (takeTrap s sp l r) := by
  unfold Machine.takeTrap
  dsimp only
  refine Ends.ite ?_ ?_
  · exact Ends.next h.recKill.haltSpan
  · refine Ends.ite ?_ ?_
    · exact Ends.stallFor h
    · split
      · exact Ends.next (Keeps.ofOwnPark h.ownCheck ‹_›)
      · exact Ends.stall h
      · exact Ends.hold h
      · exact Ends.next h.recKill.haltSpan
      · exact Ends.next h.recKill.haltSpan
      · exact Ends.next h.ownWrite.putSpan

theorem Ends.trapS {s : State} {sp : Span} {l : Launch} {cause : ℕ} {fmask : BitVec 32} {faddr : ℕ} (h : Keeps s₀ s) :
    Ends s₀ (trapS s sp l cause fmask faddr) := Ends.takeTrap h

theorem Ends.trapL {s : State} {sp : Span} {l : Launch} {cause : ℕ} {fmask : BitVec 32} {faddr : ℕ} (h : Keeps s₀ s) :
    Ends s₀ (trapL s sp l cause fmask faddr) := Ends.takeTrap h

theorem Ends.commitL {s : State} {sp : Span} (h : Keeps s₀ s) : Ends s₀ (commitL s sp) := Ends.next h.putSpan

theorem Ends.trapReturn {s : State} {sp : Span} {l : Launch} (h : Keeps s₀ s) : Ends s₀ (trapReturn s sp l) := by
  unfold Machine.trapReturn
  dsimp only
  split
  · exact Ends.trapS h
  · split
    · exact Ends.next (Keeps.ofOwnValPark h.ownRead ‹_›)
    · exact Ends.stall h
    · exact Ends.stall h
    · exact Ends.trapS h
    · exact Ends.consumed h
    · refine Ends.ite ?_ ?_
      · exact Ends.trapS (Keeps.ofOwnValOk h.ownRead ‹_›)
      · refine Ends.ite ?_ ?_
        · exact Ends.stall (Keeps.ofOwnValOk h.ownRead ‹_›)
        · exact Ends.needS (Keeps.ofOwnValOk h.ownRead ‹_›) (Ends.next (Keeps.ofOwnValOk h.ownRead ‹_›).putSpan)

end

/-! ### The operations of `Machine/Operands` -/

section
variable {s₀ : State}

theorem Ends.testSources {s : State} {sp : Span} {srcs : List Source} {dst : List Nat} {sdst : Option Nat} (h : Keeps s₀ s) :
    Ends s₀ (testSources s sp srcs dst sdst) := by
  unfold Machine.testSources
  exact Ends.ite (Ends.turn h (Ends.next (Keeps.refl _)) rfl)
    (Ends.ite (Ends.turn h (Ends.next (Keeps.refl _)) rfl) (Ends.turn h (Ends.stallFor (Keeps.refl _)) rfl))

theorem Ends.lanePass {s : State} {srcs : List Source} {dst : List ℕ} {sdst : Option ℕ} {k : Span → Launch → Res} (h : Keeps s₀ s) (hk : ∀ x0 x1, Ends s₀ (k x0 x1)) :
    Ends s₀ (lanePass s srcs dst sdst k) :=
  Ends.withLaunch
    (fun _ _ =>
      Ends.ite (Ends.testSources h)
        (Ends.ite (Ends.trapL h)
          (Ends.ite (Ends.trapL h) (Ends.ite (Ends.stallFor h) (Ends.ite (Ends.consumed h) (hk _ _))))))

end

/-! ### The operations of `Machine/Fetch` -/

section
variable {s₀ : State}

theorem Keeps.fetchParcel {s : State} {sp : Span} {l : Launch} {a : ℕ} (h : Keeps s₀ s) :
    Parcel.Keeps s₀ (fetchParcel s sp l a) := by
  unfold Machine.fetchParcel
  refine ite_of ?_ ?_
  · exact Parcel.Keeps.fail
  · split
    · exact Parcel.Keeps.word
    · exact Parcel.Keeps.wait (Keeps.ofXlWait h.xlate ‹_›)
    · exact Parcel.Keeps.fail

theorem Keeps.scalarCode {s : State} {sp : Span} {l : Launch} (h : Keeps s₀ s) : Parcel.Keeps s₀ (scalarCode s sp l) := by
  unfold Machine.scalarCode
  split
  · exact Parcel.Keeps.word
  · exact h.fetchParcel

theorem Ends.recordBad {s : State} {u : ℕ} {sp : Span} (h : Keeps s₀ s) : Ends s₀ (recordBad s u sp) := Ends.next h.haltWith

theorem Keeps.pickParcel {s : State} {old : Option Word32} {new : Word32} (h : Keeps s₀ s) :
    Keeps s₀ (pickParcel s old new).1 := by
  unfold Machine.pickParcel
  split
  · exact h
  · exact h.iteFst h.withFresh

theorem Keeps.readLane {s : State} {sp : Span} {l : Launch} {b : Block} (h : Keeps s₀ s) :
    LaneCode.Keeps s₀ (readLane s sp l b) := by
  unfold Machine.readLane
  dsimp only
  split
  · exact LaneCode.Keeps.word h.useLine.useLine.useLine.pickParcel.pickParcel.pickParcel
  · exact LaneCode.Keeps.wait (Keeps.ofParcelWait h.fetchParcel ‹_›)
  · exact LaneCode.Keeps.wait (Keeps.ofParcelWait h.fetchParcel ‹_›)
  · exact LaneCode.Keeps.wait (Keeps.ofParcelWait h.fetchParcel ‹_›)
  · exact LaneCode.Keeps.fail
  · exact LaneCode.Keeps.fail
  · exact LaneCode.Keeps.fail

theorem Keeps.laneCode {s : State} {sp : Span} {l : Launch} {b : Block} (h : Keeps s₀ s) :
    LaneCode.Keeps s₀ (laneCode s sp l b) := by
  unfold Machine.laneCode
  split
  · exact LaneCode.Keeps.word h
  · exact h.readLane

theorem Ends.execIllegalEncoding {s : State} (h : Keeps s₀ s) : Ends s₀ (execIllegalEncoding s) :=
  Ends.withLaunch (fun _ _ => Ends.ite (Ends.trapL h) (Ends.trapS h))

theorem Ends.execExtensionEncoding {s : State} (h : Keeps s₀ s) : Ends s₀ (execExtensionEncoding s) :=
  Ends.withLaunch (fun _ _ => Ends.ite (Ends.trapL h) (Ends.trapS h))

end

/-! ### The operations of `Machine/Mem` -/

section
variable {s₀ : State}

theorem Keeps.checkAcc {s : State} {sp : Span} {l : Launch} {k : AccKind} {w : ℕ} {a : ℕ} (h : Keeps s₀ s) :
    Keeps s₀ (checkAcc s sp l k w a).1 := by
  unfold Machine.checkAcc
  refine Keeps.iteFst ?_ ?_
  · exact h
  · refine Keeps.iteFst ?_ ?_
    · exact h
    · refine Keeps.iteFst ?_ ?_
      · exact h
      · refine Keeps.iteFst ?_ ?_
        · split
          · exact h
          · split
            · exact h
            · exact h.iteFst h
        · split
          · exact Keeps.ofXlWait h.xlate ‹_›
          · exact h
          · exact h.iteFst (h.iteFst h)

theorem Keeps.checkAccs {s : State} {sp : Span} {l : Launch} {k : AccKind} {w : ℕ} {accs : List Acc} (h : Keeps s₀ s) :
    Keeps s₀ (checkAccs s sp l k w accs).1 :=
  h.foldlPair (fun _ _ h2 => h2.checkAcc)

theorem Ends.trapAcc {s : State} {sp : Span} {l : Launch} {cause : ℕ} {m : List Acc} (h : Keeps s₀ s) :
    Ends s₀ (trapAcc s sp l cause m) := by
  unfold Machine.trapAcc
  dsimp only
  exact Ends.ite (Ends.trapL h) (Ends.trapS h)

theorem Ends.memPass {s : State} {sp : Span} {l : Launch} {kind : AccKind} {w : ℕ} {accs : List Acc} {k : State → List (Acc × Place) → Res} (h : Keeps s₀ s) (hk : ∀ x0 x1, Keeps s₀ x0 → Ends s₀ (k x0 x1)) :
    Ends s₀ (memPass s sp l kind w accs k) := by
  unfold Machine.memPass
  dsimp only
  split
  · exact Ends.trapAcc h.checkAccs
  · refine Ends.ite ?_ ?_
    · exact Ends.next h.checkAccs
    · split
      · exact Ends.trapAcc h.checkAccs
      · exact hk _ _ h.checkAccs

theorem Ends.commit {s : State} {sp : Span} (h : Keeps s₀ s) : Ends s₀ (commit s sp) := by
  unfold Machine.commit
  exact Ends.ite (Ends.commitL h) (Ends.commitS h)

theorem Ends.pend {s : State} {sp : Span} {p : Pending} (h : Keeps s₀ s) : Ends s₀ (pend s sp p) := Ends.next h.putSpan

theorem Ends.afterAcquire {s : State} {sp : Span} {k : Res} (h : Keeps s₀ s) (h1 : Ends s₀ k) :
    Ends s₀ (afterAcquire s sp k) := by
  unfold Machine.afterAcquire
  exact Ends.ite (Ends.stall h) h1

theorem Keeps.askLine {s : State} {sp : Span} {u : ℕ} {load : ℕ} {k : ReqKind} {n : ℕ} {launch : ℕ} {line : ℕ × ℕ} (h : Keeps s₀ s) :
    Keeps s₀ (askLine s sp u load k n launch line) := by
  unfold Machine.askLine
  dsimp only
  split
  · exact h.putReq
  · exact h.newReq

theorem Keeps.shunLines {s : State} {g : ℕ} {u : ℕ} {lines : List (ℕ × ℕ)} (h : Keeps s₀ s) :
    Keeps s₀ (shunLines s g u lines) := h.ite h.withReqs

theorem Keeps.flushLines {s : State} {g : ℕ} {u : ℕ} {k : AccKind} {lines : List (ℕ × ℕ)} (h : Keeps s₀ s) :
    Keeps s₀ (flushLines s g u k lines) := by
  unfold Machine.flushLines
  dsimp only
  split
  · exact h.shunLines.foldl (fun _ _ h2 => h2.writeBack.ite h2)
  · exact h.shunLines.foldl (fun _ _ h2 => h2.writeBack)
  · exact h.shunLines.foldl (fun _ _ h2 => h2.invalidate)

theorem Keeps.seeHits {s : State} {sp : Span} {w : ℕ} {lr : List LaneRead} (h : Keeps s₀ s) :
    Keeps s₀ (seeHits s sp w lr) := by
  unfold Machine.seeHits
  dsimp only
  exact h.foldl (fun _ _ h2 => Keeps.ite (by split; exacts [h2.seeMarks.touchL1, h2.seeMarks, h2]) h2)

theorem Keeps.seeScratch {s : State} {sp : Span} {w : ℕ} {ps : List (Acc × Place)} (h : Keeps s₀ s) :
    Keeps s₀ (seeScratch s sp w ps) :=
  h.foldl (fun _ _ h2 => (by split; exacts [h2.seeLocal, h2]))

theorem Ends.issueLoad {s : State} {sp : Span} {l : Launch} {k : AccKind} {n : ℕ} {w : ℕ} {signed : Bool} {dest : Dest} {ps : List (Acc × Place)} (h : Keeps s₀ s) :
    Ends s₀ (issueLoad s sp l k n w signed dest ps) := by
  unfold Machine.issueLoad
  dsimp only
  refine Ends.ite ?_ ?_
  · exact Ends.stall h
  · refine Ends.ite ?_ ?_
    · exact Ends.next h.flushLines
    · exact Ends.commit ((h.flushLines.ite h.flushLines.seeHits.seeScratch).newLoad.foldl (fun _ _ h2 => h2.askLine))

/-- What follows an outcome's package, whatever the step in progress there. -/
theorem Ends.bind {s : State} {r r' : Res} (h : Ends s r) (hr : ∀ u, r' = .next u → ∃ t, r = .next t ∧ (CanonicalState t → CanonicalState u)) :
    Ends s r' := by
  intro u hu hs
  obtain ⟨t, ht, htu⟩ := hr u hu
  exact htu (h t ht hs)

theorem Ends.takenBack {s : State} {sp : Span} {r : Res} (h : Ends s₀ r) : Ends s₀ (takenBack s sp r) := by
  refine h.bind fun u hu => ?_
  unfold Machine.takenBack at hu
  split at hu
  · next t =>
    refine ⟨t, rfl, fun ht => ?_⟩
    obtain rfl := Host.Outcome.next.inj hu
    exact ((Keeps.refl t).ite (Keeps.refl t).cancelPend).canonical ht
  · exact ⟨u, hu, id⟩

theorem Ends.trapBegun {s : State} {sp : Span} {l : Launch} {cause : Nat} {m : List Acc} (h : Keeps s₀ s) :
    Ends s₀ (trapBegun s sp l cause m) :=
  Ends.takenBack (Ends.trapAcc h)

theorem Ends.consumeLoad {s : State} {sp : Span} {l : Launch} {w : ℕ} {signed : Bool} {ps : List (Acc × Place)} (h : Keeps s₀ s) :
    Ends s₀ (consumeLoad s sp l w signed ps) := by
  unfold Machine.consumeLoad
  dsimp only
  refine Ends.ite ?_ ?_
  · exact Ends.next h.flushLines
  · exact Ends.next (h.flushLines.newLoad.foldl (fun _ _ h2 => h2.askLine)).putSpan

theorem Ends.consumeDone {s : State} {sp : Span} {l : Launch} {i : ℕ} {dest : Dest} {accs : List Acc} (h : Keeps s₀ s) :
    Ends s₀ (consumeDone s sp l i dest accs) := by
  unfold Machine.consumeDone
  dsimp only
  split
  · exact Ends.stall h.putSpan
  · refine Ends.ite ?_ ?_
    · exact Ends.stall h
    · exact Ends.ite (Ends.commit (h.foldl (fun _ _ h2 => h2.settleLine)).putLoad) (Ends.trapBegun h)

theorem Ends.loadPass {s : State} {sp : Span} {l : Launch} {k : AccKind} {n : ℕ} {w : ℕ} {signed : Bool} {dest : Dest} {accs : List Acc} (h : Keeps s₀ s) :
    Ends s₀ (loadPass s sp l k n w signed dest accs) :=
  Ends.afterAcquire h
    (by
      split
      · exact Ends.consumeDone h
      · exact Ends.memPass h
          (fun _ _ h2 =>
            Ends.ite (Ends.consumed h2)
              (Ends.ite (Ends.consumeLoad h2) (Ends.ite (Ends.commit h2) (Ends.issueLoad h2)))))

theorem Keeps.putLocal {s : State} {sp : Span} {cells : List (Place × ℕ × Byte)} (h : Keeps s₀ s) :
    Keeps s₀ (putLocal s sp cells) :=
  h.foldl (fun _ _ h2 => (by split; exacts [(by split; exacts [h2.localPut.localMark, h2]), h2]))

theorem Keeps.storeLine {s : State} {g : ℕ} {u : ℕ} {unc : Bool} {line : ℕ} {va : ℕ} {checks : ℕ} {mask : BitVec 128} {data : Line} {ws : List Writer} (h : Keeps s₀ s) :
    Keeps s₀ (storeLine s g u unc line va checks mask data ws) :=
  h.invalidate.sendStore.ite h.l1Store

theorem Ends.bufferAll {s : State} {sp : Span} {xs : List Buffered} {k : Span → Res} (h : Keeps s₀ s) (hk : ∀ x0, Ends s₀ (k x0)) :
    Ends s₀ (bufferAll s sp xs k) := by
  unfold Machine.bufferAll
  exact Ends.ite (Ends.hold h) (hk _)

theorem Ends.storePass {s : State} {sp : Span} {l : Launch} {unc : Bool} {w : ℕ} {accs : List Acc} {data : ℕ → ℕ} (h : Keeps s₀ s) :
    Ends s₀ (storePass s sp l unc w accs data) := by
  unfold Machine.storePass
  dsimp only
  exact Ends.afterAcquire h
    (by
      split
      · refine Ends.ite ?_ ?_
        · exact Ends.stall h
        · refine Ends.ite ?_ ?_
          · exact Ends.trapBegun h
          · exact Ends.commit ((h.foldl (fun _ _ h2 => h2.delReq)).undoLines.foldl (fun _ _ h2 => h2.storeLine)).putLocal
      · exact Ends.memPass h
          (fun _ _ h2 =>
            Ends.ite (Ends.stall h2)
              (Ends.ite
                (by split; exacts [Ends.trapAcc h2, Ends.bufferAll h2 (fun _ => Ends.commit h2.undoLines)])
                (Ends.ite
                  (Ends.commit h2.undoLines.putLocal)
                  (Ends.ite (Ends.stall h2)
                    (Ends.ite (Ends.stall h2) (Ends.pend (h2.foldlPair (fun _ _ h3 => h3.newReq)))))))))

theorem Ends.withFifo {s : State} {sp : Span} {l : Launch} {k : ℕ} {f : ℕ → Bank → Res} (h : Keeps s₀ s) (hk1 : ∀ x0 x1, Ends s₀ (f x0 x1)) :
    Ends s₀ (withFifo s sp l k f) := by
  unfold Machine.withFifo
  dsimp only
  split
  · exact Ends.ite (Ends.trapL h) (Ends.trapS h)
  · exact Ends.ite (Ends.ite (Ends.trapL h) (Ends.trapS h)) (Ends.ite (Ends.stall h) (hk1 _ _))

theorem Ends.fifoPush {s : State} {sp : Span} {l : Launch} {k : ℕ} {words : List Word32} (h : Keeps s₀ s) :
    Ends s₀ (fifoPush s sp l k words) :=
  Ends.afterAcquire h
    (Ends.withFifo h
      (fun _ _ =>
        Ends.ite
          (Ends.bufferAll h (fun _ => Ends.commit h))
          (Ends.ite (Ends.stall h) (Ends.ite (Ends.commit h.putBank) (Ends.pend h)))))

theorem Keeps.takeWords {s : State} {g : ℕ} {p : ℕ} {i : ℕ} {ld : Load} {words : List Word32} (h : Keeps s₀ s) :
    Keeps s₀ (takeWords s g p i ld words) := h.putBank.putLoad

theorem Ends.fifoPop {s : State} {sp : Span} {l : Launch} {k : ℕ} {dest : Dest} {lanes : List ℕ} (h : Keeps s₀ s) :
    Ends s₀ (fifoPop s sp l k dest lanes) :=
  Ends.afterAcquire h
    (Ends.withFifo h (fun _ _ => Ends.ite (Ends.commit h.newLoad) (Ends.commit (h.newLoad.takeWords.ite h.newLoad))))

end

/-! ### The operations of `Machine/Atomics` -/

section
variable {s₀ : State}

theorem Keeps.atomLocal {s : State} {sp : Span} {op : ℕ} {w : ℕ} {ops : List AtomOp} (h : Keeps s₀ s) :
    Keeps s₀ (atomLocal s sp op w ops).1 := by
  unfold Machine.atomLocal
  dsimp only
  exact Keeps.foldlPair h
    (fun _ _ h2 => (by split; exacts [(by split; exacts [h2.seeLocal.localWrite.localAtom.localMark, h2]), h2]))

theorem Keeps.orderLocal {s : State} {sp : Span} {ord : ℕ} {ops : List AtomOp} (h : Keeps s₀ s) :
    Keeps s₀ (orderLocal s sp ord ops) :=
  Keeps.ite h
    (Keeps.ite
      (((h.foldl (fun _ _ h2 => h2.acquireFrom)).ite h).publish.foldl (fun _ _ h2 => h2.addRelease))
      ((h.foldl (fun _ _ h2 => h2.acquireFrom)).ite h))

theorem Keeps.detAcquire {s : State} {sp : Span} {scope : ℕ} {at_ : ℕ} (h : Keeps s₀ s) :
    Keeps s₀ (detAcquire s sp scope at_).1 :=
  (h.closeWindows.ite h).nextUse

theorem Ends.atomBuffered {s : State} {sp : Span} {l : Launch} {op : ℕ} {w : ℕ} {ord : ℕ} {dest : Dest} {ops : List AtomOp} (h : Keeps s₀ s) :
    Ends s₀ (atomBuffered s sp l op w ord dest ops) := by
  unfold Machine.atomBuffered
  dsimp only
  split
  · exact Ends.trapAcc h
  · exact Ends.bufferAll h (fun _ => Ends.commit (h.newLoad.undoLines.detAcquire.iteFst h.newLoad.undoLines))

theorem Ends.atomSend {s : State} {sp : Span} {op : ℕ} {w : ℕ} {ord : ℕ} {ops : List AtomOp} (h : Keeps s₀ s) :
    Ends s₀ (atomSend s sp op w ord ops) :=
  Ends.pend ((h.foldl (fun _ _ h2 => h2.invalidate)).foldlPair (fun _ _ h2 => h2.newReq))

theorem Keeps.holdScratch {s : State} {sp : Span} {op : ℕ} {w : ℕ} {sc : ℕ} {load : ℕ} {cov : List ℕ} {c : Clock} {x : AtomOp} (h : Keeps s₀ s) :
    Keeps s₀ (holdScratch s sp op w sc load cov c x) := h.newReq

theorem Ends.atomCommit {s : State} {sp : Span} {l : Launch} {op : ℕ} {w : ℕ} {ord : ℕ} {dest : Dest} {ops : List AtomOp} {ids : List ℕ} (h : Keeps s₀ s) :
    Ends s₀ (atomCommit s sp l op w ord dest ops ids) :=
  Ends.commit
    (Keeps.foldl
      (Keeps.foldl
        (Keeps.iteFst
          (Keeps.publish
            ((h.closeWindows.ite h).writeBackOf.ite (h.closeWindows.ite h)).undoLines.orderLocal.atomLocal.newLoad)
          ((h.closeWindows.ite h).writeBackOf.ite (h.closeWindows.ite h)).undoLines.orderLocal.atomLocal.newLoad) (fun _ _ h2 => h2.putReq))
      (fun _ _ h2 => h2.holdScratch))

theorem Ends.atomPass {s : State} {sp : Span} {l : Launch} {op : ℕ} {w : ℕ} {ord : ℕ} {dest : Dest} {accs : List Acc} {d : ℕ → ℕ} {e : ℕ → ℕ} (h : Keeps s₀ s) :
    Ends s₀ (atomPass s sp l op w ord dest accs d e) := by
  unfold Machine.atomPass
  dsimp only
  exact Ends.afterAcquire h
    (by
      split
      · exact Ends.ite (Ends.stall h) (Ends.ite (Ends.trapBegun h) (Ends.atomCommit h))
      · exact Ends.memPass h
          (fun _ _ h2 =>
            Ends.ite (Ends.consumed h2)
              (Ends.ite (Ends.commit h2)
                (Ends.ite (Ends.atomBuffered h2)
                  (Ends.ite (Ends.stall h2)
                    (Ends.ite (Ends.stall h2)
                      (Ends.ite (Ends.stall h2)
                        (Ends.ite (Ends.ite (Ends.atomSend h2) (Ends.stall h2)) (Ends.atomCommit h2)))))))))

theorem Ends.scalarAtom {op : ℕ} {w : ℕ} {d : BitVec 6} {a : BitVec 6} {b : BitVec 6} {o : BitVec 4} {s : State} (h : Keeps s₀ s) :
    Ends s₀ (scalarAtom op w d a b o s) :=
  Ends.withLaunch (fun _ _ => Ends.needS h (Ends.atomPass h))

theorem Ends.laneAtom {op : ℕ} {x : LFields} {s : State} (h : Keeps s₀ s) : Ends s₀ (laneAtom op x s) :=
  Ends.lanePass h (fun _ _ => Ends.atomPass h)

theorem Ends.execAtomB32Add {d : BitVec 6} {a : BitVec 6} {b : BitVec 6} {o : BitVec 4} {s : State} (h : Keeps s₀ s) :
    Ends s₀ (execAtomB32Add d a b o s) := Ends.scalarAtom h

theorem Ends.execAtomB32Min {d : BitVec 6} {a : BitVec 6} {b : BitVec 6} {o : BitVec 4} {s : State} (h : Keeps s₀ s) :
    Ends s₀ (execAtomB32Min d a b o s) := Ends.scalarAtom h

theorem Ends.execAtomB32Max {d : BitVec 6} {a : BitVec 6} {b : BitVec 6} {o : BitVec 4} {s : State} (h : Keeps s₀ s) :
    Ends s₀ (execAtomB32Max d a b o s) := Ends.scalarAtom h

theorem Ends.execAtomB32Minn {d : BitVec 6} {a : BitVec 6} {b : BitVec 6} {o : BitVec 4} {s : State} (h : Keeps s₀ s) :
    Ends s₀ (execAtomB32Minn d a b o s) := Ends.scalarAtom h

theorem Ends.execAtomB32Maxn {d : BitVec 6} {a : BitVec 6} {b : BitVec 6} {o : BitVec 4} {s : State} (h : Keeps s₀ s) :
    Ends s₀ (execAtomB32Maxn d a b o s) := Ends.scalarAtom h

theorem Ends.execAtomB32And {d : BitVec 6} {a : BitVec 6} {b : BitVec 6} {o : BitVec 4} {s : State} (h : Keeps s₀ s) :
    Ends s₀ (execAtomB32And d a b o s) := Ends.scalarAtom h

theorem Ends.execAtomB32Or {d : BitVec 6} {a : BitVec 6} {b : BitVec 6} {o : BitVec 4} {s : State} (h : Keeps s₀ s) :
    Ends s₀ (execAtomB32Or d a b o s) := Ends.scalarAtom h

theorem Ends.execAtomB32Xor {d : BitVec 6} {a : BitVec 6} {b : BitVec 6} {o : BitVec 4} {s : State} (h : Keeps s₀ s) :
    Ends s₀ (execAtomB32Xor d a b o s) := Ends.scalarAtom h

theorem Ends.execAtomB32Xchg {d : BitVec 6} {a : BitVec 6} {b : BitVec 6} {o : BitVec 4} {s : State} (h : Keeps s₀ s) :
    Ends s₀ (execAtomB32Xchg d a b o s) := Ends.scalarAtom h

theorem Ends.execAtomB32Cas {d : BitVec 6} {a : BitVec 6} {b : BitVec 6} {o : BitVec 4} {s : State} (h : Keeps s₀ s) :
    Ends s₀ (execAtomB32Cas d a b o s) := Ends.scalarAtom h

theorem Ends.execAtomB32Fadd {d : BitVec 6} {a : BitVec 6} {b : BitVec 6} {o : BitVec 4} {s : State} (h : Keeps s₀ s) :
    Ends s₀ (execAtomB32Fadd d a b o s) := Ends.scalarAtom h

theorem Ends.execAtomB32Bf16x2add {d : BitVec 6} {a : BitVec 6} {b : BitVec 6} {o : BitVec 4} {s : State} (h : Keeps s₀ s) :
    Ends s₀ (execAtomB32Bf16x2add d a b o s) := Ends.scalarAtom h

theorem Ends.execAtomN64Add {d : BitVec 6} {a : BitVec 6} {b : BitVec 6} {o : BitVec 4} {s : State} (h : Keeps s₀ s) :
    Ends s₀ (execAtomN64Add d a b o s) := Ends.scalarAtom h

theorem Ends.execAtomN64Min {d : BitVec 6} {a : BitVec 6} {b : BitVec 6} {o : BitVec 4} {s : State} (h : Keeps s₀ s) :
    Ends s₀ (execAtomN64Min d a b o s) := Ends.scalarAtom h

theorem Ends.execAtomN64Max {d : BitVec 6} {a : BitVec 6} {b : BitVec 6} {o : BitVec 4} {s : State} (h : Keeps s₀ s) :
    Ends s₀ (execAtomN64Max d a b o s) := Ends.scalarAtom h

theorem Ends.execAtomN64Minn {d : BitVec 6} {a : BitVec 6} {b : BitVec 6} {o : BitVec 4} {s : State} (h : Keeps s₀ s) :
    Ends s₀ (execAtomN64Minn d a b o s) := Ends.scalarAtom h

theorem Ends.execAtomN64Maxn {d : BitVec 6} {a : BitVec 6} {b : BitVec 6} {o : BitVec 4} {s : State} (h : Keeps s₀ s) :
    Ends s₀ (execAtomN64Maxn d a b o s) := Ends.scalarAtom h

theorem Ends.execAtomN64And {d : BitVec 6} {a : BitVec 6} {b : BitVec 6} {o : BitVec 4} {s : State} (h : Keeps s₀ s) :
    Ends s₀ (execAtomN64And d a b o s) := Ends.scalarAtom h

theorem Ends.execAtomN64Or {d : BitVec 6} {a : BitVec 6} {b : BitVec 6} {o : BitVec 4} {s : State} (h : Keeps s₀ s) :
    Ends s₀ (execAtomN64Or d a b o s) := Ends.scalarAtom h

theorem Ends.execAtomN64Xor {d : BitVec 6} {a : BitVec 6} {b : BitVec 6} {o : BitVec 4} {s : State} (h : Keeps s₀ s) :
    Ends s₀ (execAtomN64Xor d a b o s) := Ends.scalarAtom h

theorem Ends.execAtomN64Xchg {d : BitVec 6} {a : BitVec 6} {b : BitVec 6} {o : BitVec 4} {s : State} (h : Keeps s₀ s) :
    Ends s₀ (execAtomN64Xchg d a b o s) := Ends.scalarAtom h

theorem Ends.execAtomN64Cas {d : BitVec 6} {a : BitVec 6} {b : BitVec 6} {o : BitVec 4} {s : State} (h : Keeps s₀ s) :
    Ends s₀ (execAtomN64Cas d a b o s) := Ends.scalarAtom h

theorem Ends.execVatomAdd {x : LFields} {s : State} (h : Keeps s₀ s) : Ends s₀ (execVatomAdd x s) := Ends.laneAtom h

theorem Ends.execVatomMin {x : LFields} {s : State} (h : Keeps s₀ s) : Ends s₀ (execVatomMin x s) := Ends.laneAtom h

theorem Ends.execVatomMax {x : LFields} {s : State} (h : Keeps s₀ s) : Ends s₀ (execVatomMax x s) := Ends.laneAtom h

theorem Ends.execVatomMinn {x : LFields} {s : State} (h : Keeps s₀ s) : Ends s₀ (execVatomMinn x s) := Ends.laneAtom h

theorem Ends.execVatomMaxn {x : LFields} {s : State} (h : Keeps s₀ s) : Ends s₀ (execVatomMaxn x s) := Ends.laneAtom h

theorem Ends.execVatomAnd {x : LFields} {s : State} (h : Keeps s₀ s) : Ends s₀ (execVatomAnd x s) := Ends.laneAtom h

theorem Ends.execVatomOr {x : LFields} {s : State} (h : Keeps s₀ s) : Ends s₀ (execVatomOr x s) := Ends.laneAtom h

theorem Ends.execVatomXor {x : LFields} {s : State} (h : Keeps s₀ s) : Ends s₀ (execVatomXor x s) := Ends.laneAtom h

theorem Ends.execVatomXchg {x : LFields} {s : State} (h : Keeps s₀ s) : Ends s₀ (execVatomXchg x s) := Ends.laneAtom h

theorem Ends.execVatomCas {x : LFields} {s : State} (h : Keeps s₀ s) : Ends s₀ (execVatomCas x s) := Ends.laneAtom h

theorem Ends.execVatomFadd {x : LFields} {s : State} (h : Keeps s₀ s) : Ends s₀ (execVatomFadd x s) := Ends.laneAtom h

theorem Ends.execVatomBf16x2add {x : LFields} {s : State} (h : Keeps s₀ s) : Ends s₀ (execVatomBf16x2add x s) := Ends.laneAtom h

end

/-! ### The operations of `Machine/Barriers` -/

section
variable {s₀ : State}

theorem Keeps.barOwner {s : State} {loc : BarLoc} {key : ℕ} (h : Keeps s₀ s) : Keeps s₀ (barOwner s loc key) := by
  unfold Machine.barOwner
  dsimp only
  split
  · exact h.withNets
  · exact h

theorem Keeps.barInit {s : State} {l : Launch} {loc : BarLoc} {x : ℕ} {y : ℕ} (h : Keeps s₀ s) :
    BarRes.Keeps s₀ (barInit s l loc x y) := by
  unfold Machine.barInit
  dsimp only
  exact ite_of BarRes.Keeps.bad (BarRes.Keeps.ok h.writeBar.barOwner)

theorem Keeps.barReg {s : State} {u : ℕ} {sp : Span} {loc : BarLoc} {addr : Word64} {lanes : BitVec 32} (h : Keeps s₀ s) :
    BarRes.Keeps s₀ (barReg s u sp loc addr lanes) := by
  unfold Machine.barReg
  dsimp only
  refine ite_of ?_ ?_
  · exact BarRes.Keeps.bad
  · split
    · exact BarRes.Keeps.ok h.writeBar.putSpan
    · exact ite_of (BarRes.Keeps.ok h) (ite_of BarRes.Keeps.bad (BarRes.Keeps.ok h.writeBar.putSpan))

theorem Keeps.barArr {s : State} {u : ℕ} {sp : Span} {loc : BarLoc} {addr : Word64} {lanes : BitVec 32} (h : Keeps s₀ s) :
    BarRes.Keeps s₀ (barArr s u sp loc addr lanes) := by
  unfold Machine.barArr
  dsimp only
  exact ite_of BarRes.Keeps.bad (BarRes.Keeps.ok h.publish.coverPhase.writeBar.putSpan)

theorem Keeps.barExp {s : State} {loc : BarLoc} {x : ℕ} (h : Keeps s₀ s) : BarRes.Keeps s₀ (barExp s loc x) := by
  unfold Machine.barExp
  dsimp only
  exact ite_of BarRes.Keeps.bad (BarRes.Keeps.ok h.writeBar)

theorem Keeps.barDrop {s : State} {u : ℕ} {sp : Span} {loc : BarLoc} {addr : Word64} {lanes : BitVec 32} (h : Keeps s₀ s) :
    BarRes.Keeps s₀ (barDrop s u sp loc addr lanes) := by
  unfold Machine.barDrop
  refine ite_of ?_ ?_
  · exact BarRes.Keeps.bad
  · split
    · exact ite_of (BarRes.Keeps.ok h.dropAt) BarRes.Keeps.bad
    · exact ite_of (BarRes.Keeps.ok h) BarRes.Keeps.bad

theorem Keeps.barApply {s : State} {u : ℕ} {sp : Span} {l : Launch} {loc : BarLoc} {kind : ℕ} {addr : Word64} {x : Word64} {y : Word64} {lanes : BitVec 32} (h : Keeps s₀ s) :
    BarRes.Keeps s₀ (barApply s u sp l loc kind addr x y lanes) := by
  unfold Machine.barApply
  split
  · exact h.barInit
  · exact h.barReg
  · exact h.barArr
  · exact h.barExp
  · exact h.barDrop

theorem Ends.barLine {s : State} {sp : Span} {loc : BarLoc} {k : State → Res} (h : Keeps s₀ s) (hk : ∀ x0, Keeps s₀ x0 → Ends s₀ (k x0)) :
    Ends s₀ (barLine s sp loc k) := by
  unfold Machine.barLine
  dsimp only
  split
  · exact Ends.ite (Ends.next h.writeBack) (hk _ h.writeBack)
  · exact hk _ h

theorem Ends.barOp {kind : ℕ} {regs : List ℕ} {addr : Span → Word64} {x : Span → Word64} {y : Span → Word64} {s : State} (h : Keeps s₀ s) :
    Ends s₀ (barOp kind regs addr x y s) := by
  unfold Machine.barOp
  dsimp only
  exact Ends.withLaunch
    (fun _ _ =>
      Ends.needS h
        (Ends.ite (Ends.consumed h)
          (by
            split
            · exact Ends.next (Keeps.ofBarXlWait h.findBar ‹_›)
            · exact Ends.ite (Ends.bufferAll h (fun _ => Ends.commitS h)) (Ends.trapS h)
            · refine Ends.ite ?_ ?_
              · exact Ends.bufferAll h (fun _ => Ends.commitS h)
              · refine Ends.ite ?_ ?_
                · exact Ends.afterArrive h
                    (fun _ h2 =>
                      Ends.barLine h2
                        (fun _ h3 =>
                          (by
                            split
                            · exact Ends.trapS h3
                            · split
                              · exact Ends.commitS (Keeps.ofBarResOk h3.barApply ‹_›)
                              · exact Ends.fault)))
                · exact Ends.barLine h
                    (fun _ h2 =>
                      (by
                        split
                        · exact Ends.trapS h2
                        · split
                          · exact Ends.commitS (Keeps.ofBarResOk h2.barApply ‹_›)
                          · exact Ends.fault)))))

theorem Ends.execBarinit {d : BitVec 6} {a : BitVec 6} {b : BitVec 6} {s : State} (h : Keeps s₀ s) :
    Ends s₀ (execBarinit d a b s) := Ends.barOp h

theorem Ends.execBarreg {a : BitVec 6} {s : State} (h : Keeps s₀ s) : Ends s₀ (execBarreg a s) := Ends.barOp h

theorem Ends.execBararr {a : BitVec 6} {s : State} (h : Keeps s₀ s) : Ends s₀ (execBararr a s) := Ends.barOp h

theorem Ends.execBarexp {a : BitVec 6} {b : BitVec 6} {s : State} (h : Keeps s₀ s) : Ends s₀ (execBarexp a b s) := Ends.barOp h

theorem Ends.execBardrop {a : BitVec 6} {s : State} (h : Keeps s₀ s) : Ends s₀ (execBardrop a s) := Ends.barOp h

theorem Keeps.onDeckBar {s : State} {l : Launch} {deck : ℕ} {addr : ℕ} {loc : BarLoc} {f : State → BarRes} (h : Keeps s₀ s) (hk1 : ∀ x0, Keeps s₀ x0 → BarRes.Keeps s₀ (f x0)) :
    BarRes.Keeps s₀ (onDeckBar s l deck addr loc f) := by
  unfold Machine.onDeckBar
  dsimp only
  split
  · exact hk1 _ h
  · split
    · exact BarRes.Keeps.bad
    · exact BarRes.Keeps.ok
        (by
          split
          · exact (Keeps.ofBarResOk (hk1 _ h.writeBar) ‹_›).writeBar
          · exact (Keeps.ofBarResOk (hk1 _ h.writeBar) ‹_›).writeBar.putDeck)

theorem Keeps.acquireDrop {s : State} {g : ℕ} {wide : Bool} (h : Keeps s₀ s) : Keeps s₀ (acquireDrop s g wide) :=
  h.nextUse.dropLines.ite h.nextUse

theorem Ends.barwaitDone {s : State} {sp : Span} {loc : BarLoc} {sd : ℕ} {st : ℕ} (h : Keeps s₀ s) :
    Ends s₀ (barwaitDone s sp loc sd st) := by
  unfold Machine.barwaitDone
  dsimp only
  exact Ends.ite (Ends.commitS h.acquireDrop.learn) (Ends.commitS h)

theorem Keeps.waitBar {s : State} {sp : Span} {l : Launch} {addr : Word64} (h : Keeps s₀ s) :
    BarXl.Keeps s₀ (waitBar s sp l addr) := by
  unfold Machine.waitBar
  split
  · exact BarXl.Keeps.loc
  · exact h.findBar

theorem Keeps.foundBad {s : State} {loc : BarLoc} (h : Keeps s₀ s) : Keeps s₀ (foundBad s loc) := by
  unfold Machine.foundBad
  split
  · exact h.barAbandon.ite h
  · exact h

theorem Ends.barwaitEval {s : State} {sp : Span} {l : Launch} {addr : Word64} {p sd lim : Nat} {late : Bool} (h : Keeps s₀ s) :
    Ends s₀ (barwaitEval s sp l addr p sd lim late) := by
  unfold Machine.barwaitEval
  split
  · exact Ends.next (Keeps.ofBarXlWait h.waitBar ‹_›)
  · exact Ends.trapS h
  · refine Ends.ite (Ends.trapS h.foundBad) ?_
    split
    · exact Ends.barwaitDone h.foundBad
    · exact Ends.ite (Ends.barwaitDone h.foundBad) (Ends.pend h.foundBad)

theorem Ends.execBarwait {d : BitVec 6} {a : BitVec 6} {b : BitVec 6} {lim : BitVec 8} {s : State} (h : Keeps s₀ s) :
    Ends s₀ (execBarwait d a b lim s) := by
  unfold Machine.execBarwait
  dsimp only
  exact Ends.withLaunch
    (fun _ _ =>
      Ends.needS h
        (Ends.ite
          (Ends.ite (Ends.trapS h)
            (by
              split
              · exact Ends.hold h
              · split
                · exact Ends.next (Keeps.ofBarXlWait h.findBar ‹_›)
                · exact Ends.ite (Ends.hold h) (Ends.trapS h)
                · exact Ends.hold h))
          (by split; exacts [Ends.barwaitEval h, Ends.barwaitEval h])))

theorem Ends.withBarwait {s : State} {k : State → Span → Launch → Word64 → Nat → Nat → Nat → Res} (h : Keeps s₀ s)
    (hk : ∀ {s' : State} t sp l a p sd lim, Keeps s' t → Ends s' (k t sp l a p sd lim)) : Ends s₀ (withBarwait s k) := by
  have hin : ∀ {c : Cur} {t : State}, Keeps { s with cur := c } t → ∀ sp l a p sd lim w,
      Ends { s with cur := c } (k { t with cur := { t.cur with word := w } } sp l a p sd lim) :=
    fun ht sp l a p sd lim w => Ends.turn ht (hk _ _ _ _ _ _ _ (Keeps.refl _)) rfl
  unfold Machine.withBarwait
  refine Ends.turn h (Ends.withLaunch fun sp l => ?_) rfl
  split
  · exact Ends.ite Ends.fault (hin (Keeps.refl _) _ _ _ _ _ _ _)
  · exact Ends.fault

theorem Ends.execBarwaitEnd {s : State} (h : Keeps s₀ s) : Ends s₀ (execBarwaitEnd s) :=
  Ends.withBarwait h (fun _ _ _ _ _ _ _ h2 => Ends.barwaitEval h2)

theorem Ends.execBarwaitTimeout {s : State} (h : Keeps s₀ s) : Ends s₀ (execBarwaitTimeout s) :=
  Ends.withBarwait h
    (fun _ _ _ _ _ _ _ h2 => (by split; exacts [Ends.ite Ends.fault (Ends.barwaitEval h2), Ends.fault]))

end

/-! ### The operations of `Machine/ScalarAlu` -/

section
variable {s₀ : State}

theorem Ends.aluRR {d : BitVec 6} {a : BitVec 6} {b : BitVec 6} {f : Word64 → Word64 → Word64} {s : State} (h : Keeps s₀ s) :
    Ends s₀ (aluRR d a b f s) :=
  Ends.withSpan (fun _ => Ends.needS h (Ends.commitS h))

theorem Ends.aluR {d : BitVec 6} {a : BitVec 6} {f : Word64 → Word64} {s : State} (h : Keeps s₀ s) :
    Ends s₀ (aluR d a f s) :=
  Ends.withSpan (fun _ => Ends.needS h (Ends.commitS h))

theorem Ends.execAdd {d : BitVec 6} {a : BitVec 6} {b : BitVec 6} {s : State} (h : Keeps s₀ s) :
    Ends s₀ (execAdd d a b s) := Ends.aluRR h

theorem Ends.execSub {d : BitVec 6} {a : BitVec 6} {b : BitVec 6} {s : State} (h : Keeps s₀ s) :
    Ends s₀ (execSub d a b s) := Ends.aluRR h

theorem Ends.execMul {d : BitVec 6} {a : BitVec 6} {b : BitVec 6} {s : State} (h : Keeps s₀ s) :
    Ends s₀ (execMul d a b s) := Ends.aluRR h

theorem Ends.execMulh {d : BitVec 6} {a : BitVec 6} {b : BitVec 6} {s : State} (h : Keeps s₀ s) :
    Ends s₀ (execMulh d a b s) := Ends.aluRR h

theorem Ends.execMulhn {d : BitVec 6} {a : BitVec 6} {b : BitVec 6} {s : State} (h : Keeps s₀ s) :
    Ends s₀ (execMulhn d a b s) := Ends.aluRR h

theorem Ends.execDiv {d : BitVec 6} {a : BitVec 6} {b : BitVec 6} {s : State} (h : Keeps s₀ s) :
    Ends s₀ (execDiv d a b s) := Ends.aluRR h

theorem Ends.execDivn {d : BitVec 6} {a : BitVec 6} {b : BitVec 6} {s : State} (h : Keeps s₀ s) :
    Ends s₀ (execDivn d a b s) := Ends.aluRR h

theorem Ends.execRem {d : BitVec 6} {a : BitVec 6} {b : BitVec 6} {s : State} (h : Keeps s₀ s) :
    Ends s₀ (execRem d a b s) := Ends.aluRR h

theorem Ends.execRemn {d : BitVec 6} {a : BitVec 6} {b : BitVec 6} {s : State} (h : Keeps s₀ s) :
    Ends s₀ (execRemn d a b s) := Ends.aluRR h

theorem Ends.execAnd {d : BitVec 6} {a : BitVec 6} {b : BitVec 6} {s : State} (h : Keeps s₀ s) :
    Ends s₀ (execAnd d a b s) := Ends.aluRR h

theorem Ends.execOr {d : BitVec 6} {a : BitVec 6} {b : BitVec 6} {s : State} (h : Keeps s₀ s) :
    Ends s₀ (execOr d a b s) := Ends.aluRR h

theorem Ends.execXor {d : BitVec 6} {a : BitVec 6} {b : BitVec 6} {s : State} (h : Keeps s₀ s) :
    Ends s₀ (execXor d a b s) := Ends.aluRR h

theorem Ends.execAndn {d : BitVec 6} {a : BitVec 6} {b : BitVec 6} {s : State} (h : Keeps s₀ s) :
    Ends s₀ (execAndn d a b s) := Ends.aluRR h

theorem Ends.execOrn {d : BitVec 6} {a : BitVec 6} {b : BitVec 6} {s : State} (h : Keeps s₀ s) :
    Ends s₀ (execOrn d a b s) := Ends.aluRR h

theorem Ends.execSll {d : BitVec 6} {a : BitVec 6} {b : BitVec 6} {s : State} (h : Keeps s₀ s) :
    Ends s₀ (execSll d a b s) := Ends.aluRR h

theorem Ends.execSrl {d : BitVec 6} {a : BitVec 6} {b : BitVec 6} {s : State} (h : Keeps s₀ s) :
    Ends s₀ (execSrl d a b s) := Ends.aluRR h

theorem Ends.execSra {d : BitVec 6} {a : BitVec 6} {b : BitVec 6} {s : State} (h : Keeps s₀ s) :
    Ends s₀ (execSra d a b s) := Ends.aluRR h

theorem Ends.execRotl {d : BitVec 6} {a : BitVec 6} {b : BitVec 6} {s : State} (h : Keeps s₀ s) :
    Ends s₀ (execRotl d a b s) := Ends.aluRR h

theorem Ends.execRotr {d : BitVec 6} {a : BitVec 6} {b : BitVec 6} {s : State} (h : Keeps s₀ s) :
    Ends s₀ (execRotr d a b s) := Ends.aluRR h

theorem Ends.execMin {d : BitVec 6} {a : BitVec 6} {b : BitVec 6} {s : State} (h : Keeps s₀ s) :
    Ends s₀ (execMin d a b s) := Ends.aluRR h

theorem Ends.execMax {d : BitVec 6} {a : BitVec 6} {b : BitVec 6} {s : State} (h : Keeps s₀ s) :
    Ends s₀ (execMax d a b s) := Ends.aluRR h

theorem Ends.execMinn {d : BitVec 6} {a : BitVec 6} {b : BitVec 6} {s : State} (h : Keeps s₀ s) :
    Ends s₀ (execMinn d a b s) := Ends.aluRR h

theorem Ends.execMaxn {d : BitVec 6} {a : BitVec 6} {b : BitVec 6} {s : State} (h : Keeps s₀ s) :
    Ends s₀ (execMaxn d a b s) := Ends.aluRR h

theorem Ends.execClz {d : BitVec 6} {a : BitVec 6} {s : State} (h : Keeps s₀ s) : Ends s₀ (execClz d a s) := Ends.aluR h

theorem Ends.execCtz {d : BitVec 6} {a : BitVec 6} {s : State} (h : Keeps s₀ s) : Ends s₀ (execCtz d a s) := Ends.aluR h

theorem Ends.execPopc {d : BitVec 6} {a : BitVec 6} {s : State} (h : Keeps s₀ s) : Ends s₀ (execPopc d a s) := Ends.aluR h

theorem Ends.execSextI8 {d : BitVec 6} {a : BitVec 6} {s : State} (h : Keeps s₀ s) : Ends s₀ (execSextI8 d a s) := Ends.aluR h

theorem Ends.execSextI16 {d : BitVec 6} {a : BitVec 6} {s : State} (h : Keeps s₀ s) : Ends s₀ (execSextI16 d a s) := Ends.aluR h

theorem Ends.execSextI32 {d : BitVec 6} {a : BitVec 6} {s : State} (h : Keeps s₀ s) : Ends s₀ (execSextI32 d a s) := Ends.aluR h

theorem Ends.execZextN8 {d : BitVec 6} {a : BitVec 6} {s : State} (h : Keeps s₀ s) : Ends s₀ (execZextN8 d a s) := Ends.aluR h

theorem Ends.execZextN16 {d : BitVec 6} {a : BitVec 6} {s : State} (h : Keeps s₀ s) : Ends s₀ (execZextN16 d a s) := Ends.aluR h

theorem Ends.execZextN32 {d : BitVec 6} {a : BitVec 6} {s : State} (h : Keeps s₀ s) : Ends s₀ (execZextN32 d a s) := Ends.aluR h

theorem Ends.execSeq {d : BitVec 6} {a : BitVec 6} {b : BitVec 6} {s : State} (h : Keeps s₀ s) :
    Ends s₀ (execSeq d a b s) := Ends.aluRR h

theorem Ends.execSne {d : BitVec 6} {a : BitVec 6} {b : BitVec 6} {s : State} (h : Keeps s₀ s) :
    Ends s₀ (execSne d a b s) := Ends.aluRR h

theorem Ends.execSlt {d : BitVec 6} {a : BitVec 6} {b : BitVec 6} {s : State} (h : Keeps s₀ s) :
    Ends s₀ (execSlt d a b s) := Ends.aluRR h

theorem Ends.execSge {d : BitVec 6} {a : BitVec 6} {b : BitVec 6} {s : State} (h : Keeps s₀ s) :
    Ends s₀ (execSge d a b s) := Ends.aluRR h

theorem Ends.execSltn {d : BitVec 6} {a : BitVec 6} {b : BitVec 6} {s : State} (h : Keeps s₀ s) :
    Ends s₀ (execSltn d a b s) := Ends.aluRR h

theorem Ends.execSgen {d : BitVec 6} {a : BitVec 6} {b : BitVec 6} {s : State} (h : Keeps s₀ s) :
    Ends s₀ (execSgen d a b s) := Ends.aluRR h

theorem Ends.execAddi {d : BitVec 6} {a : BitVec 6} {imm : BitVec 14} {s : State} (h : Keeps s₀ s) :
    Ends s₀ (execAddi d a imm s) := Ends.aluR h

theorem Ends.execAndi {d : BitVec 6} {a : BitVec 6} {imm : BitVec 14} {s : State} (h : Keeps s₀ s) :
    Ends s₀ (execAndi d a imm s) := Ends.aluR h

theorem Ends.execOri {d : BitVec 6} {a : BitVec 6} {imm : BitVec 14} {s : State} (h : Keeps s₀ s) :
    Ends s₀ (execOri d a imm s) := Ends.aluR h

theorem Ends.execXori {d : BitVec 6} {a : BitVec 6} {imm : BitVec 14} {s : State} (h : Keeps s₀ s) :
    Ends s₀ (execXori d a imm s) := Ends.aluR h

theorem Ends.execSlli {d : BitVec 6} {a : BitVec 6} {imm : BitVec 6} {s : State} (h : Keeps s₀ s) :
    Ends s₀ (execSlli d a imm s) := Ends.aluR h

theorem Ends.execSrli {d : BitVec 6} {a : BitVec 6} {imm : BitVec 6} {s : State} (h : Keeps s₀ s) :
    Ends s₀ (execSrli d a imm s) := Ends.aluR h

theorem Ends.execSrai {d : BitVec 6} {a : BitVec 6} {imm : BitVec 6} {s : State} (h : Keeps s₀ s) :
    Ends s₀ (execSrai d a imm s) := Ends.aluR h

theorem Ends.execRotli {d : BitVec 6} {a : BitVec 6} {imm : BitVec 6} {s : State} (h : Keeps s₀ s) :
    Ends s₀ (execRotli d a imm s) := Ends.aluR h

theorem Ends.execSlin {d : BitVec 6} {a : BitVec 6} {imm : BitVec 14} {s : State} (h : Keeps s₀ s) :
    Ends s₀ (execSlin d a imm s) := Ends.aluR h

theorem Ends.execSlti {d : BitVec 6} {a : BitVec 6} {imm : BitVec 14} {s : State} (h : Keeps s₀ s) :
    Ends s₀ (execSlti d a imm s) := Ends.aluR h

theorem Ends.execSltni {d : BitVec 6} {a : BitVec 6} {imm : BitVec 14} {s : State} (h : Keeps s₀ s) :
    Ends s₀ (execSltni d a imm s) := Ends.aluR h

theorem Ends.execSeqi {d : BitVec 6} {a : BitVec 6} {imm : BitVec 14} {s : State} (h : Keeps s₀ s) :
    Ends s₀ (execSeqi d a imm s) := Ends.aluR h

end

/-! ### The operations of `Machine/LaneArith` -/

section
variable {s₀ : State}

theorem Ends.lane2 {x : LFields} {f : ElemFn} {s : State} (h : Keeps s₀ s) : Ends s₀ (lane2 x f s) :=
  Ends.lanePass h (fun _ _ => Ends.commitL h)

theorem Ends.lane3 {x : LFields} {f : ElemFn} {s : State} (h : Keeps s₀ s) : Ends s₀ (lane3 x f s) :=
  Ends.lanePass h (fun _ _ => Ends.commitL h)

theorem Ends.lane1 {x : LFields} {f : ElemFn} {s : State} (h : Keeps s₀ s) : Ends s₀ (lane1 x f s) :=
  Ends.lanePass h (fun _ _ => Ends.commitL h)

theorem Ends.laneCmp {x : LFields} {p : Ty → ℕ → ℕ → Bool} {s : State} (h : Keeps s₀ s) : Ends s₀ (laneCmp x p s) :=
  Ends.lanePass h (fun _ _ => Ends.commitL h)

theorem Ends.execVadd {x : LFields} {s : State} (h : Keeps s₀ s) : Ends s₀ (execVadd x s) := Ends.lane2 h

theorem Ends.execVsub {x : LFields} {s : State} (h : Keeps s₀ s) : Ends s₀ (execVsub x s) := Ends.lane2 h

theorem Ends.execVadds {x : LFields} {s : State} (h : Keeps s₀ s) : Ends s₀ (execVadds x s) := Ends.lane2 h

theorem Ends.execVsubs {x : LFields} {s : State} (h : Keeps s₀ s) : Ends s₀ (execVsubs x s) := Ends.lane2 h

theorem Ends.execVmul {x : LFields} {s : State} (h : Keeps s₀ s) : Ends s₀ (execVmul x s) := Ends.lane2 h

theorem Ends.execVmulh {x : LFields} {s : State} (h : Keeps s₀ s) : Ends s₀ (execVmulh x s) := Ends.lane2 h

theorem Ends.execVmad {x : LFields} {s : State} (h : Keeps s₀ s) : Ends s₀ (execVmad x s) := Ends.lane3 h

theorem Ends.execVdiv {x : LFields} {s : State} (h : Keeps s₀ s) : Ends s₀ (execVdiv x s) := Ends.lane2 h

theorem Ends.execVrem {x : LFields} {s : State} (h : Keeps s₀ s) : Ends s₀ (execVrem x s) := Ends.lane2 h

theorem Ends.execVmin {x : LFields} {s : State} (h : Keeps s₀ s) : Ends s₀ (execVmin x s) := Ends.lane2 h

theorem Ends.execVmax {x : LFields} {s : State} (h : Keeps s₀ s) : Ends s₀ (execVmax x s) := Ends.lane2 h

theorem Ends.execVabs {x : LFields} {s : State} (h : Keeps s₀ s) : Ends s₀ (execVabs x s) := Ends.lane1 h

theorem Ends.execVabsd {x : LFields} {s : State} (h : Keeps s₀ s) : Ends s₀ (execVabsd x s) := Ends.lane2 h

theorem Ends.execVand {x : LFields} {s : State} (h : Keeps s₀ s) : Ends s₀ (execVand x s) := Ends.lane2 h

theorem Ends.execVor {x : LFields} {s : State} (h : Keeps s₀ s) : Ends s₀ (execVor x s) := Ends.lane2 h

theorem Ends.execVxor {x : LFields} {s : State} (h : Keeps s₀ s) : Ends s₀ (execVxor x s) := Ends.lane2 h

theorem Ends.execVandn {x : LFields} {s : State} (h : Keeps s₀ s) : Ends s₀ (execVandn x s) := Ends.lane2 h

theorem Ends.execVnot {x : LFields} {s : State} (h : Keeps s₀ s) : Ends s₀ (execVnot x s) := Ends.lane1 h

theorem Ends.execVsel {x : LFields} {s : State} (h : Keeps s₀ s) : Ends s₀ (execVsel x s) := Ends.lane3 h

theorem Ends.execVshl {x : LFields} {s : State} (h : Keeps s₀ s) : Ends s₀ (execVshl x s) := Ends.lane2 h

theorem Ends.execVshr {x : LFields} {s : State} (h : Keeps s₀ s) : Ends s₀ (execVshr x s) := Ends.lane2 h

theorem Ends.execVrotl {x : LFields} {s : State} (h : Keeps s₀ s) : Ends s₀ (execVrotl x s) := Ends.lane2 h

theorem Ends.execVclz {x : LFields} {s : State} (h : Keeps s₀ s) : Ends s₀ (execVclz x s) := Ends.lane1 h

theorem Ends.execVpopc {x : LFields} {s : State} (h : Keeps s₀ s) : Ends s₀ (execVpopc x s) := Ends.lane1 h

theorem Ends.execVbrev {x : LFields} {s : State} (h : Keeps s₀ s) : Ends s₀ (execVbrev x s) := Ends.lane1 h

theorem Ends.execVceq {x : LFields} {s : State} (h : Keeps s₀ s) : Ends s₀ (execVceq x s) := Ends.laneCmp h

theorem Ends.execVcne {x : LFields} {s : State} (h : Keeps s₀ s) : Ends s₀ (execVcne x s) := Ends.laneCmp h

theorem Ends.execVclt {x : LFields} {s : State} (h : Keeps s₀ s) : Ends s₀ (execVclt x s) := Ends.laneCmp h

theorem Ends.execVcle {x : LFields} {s : State} (h : Keeps s₀ s) : Ends s₀ (execVcle x s) := Ends.laneCmp h

theorem Ends.execVcgt {x : LFields} {s : State} (h : Keeps s₀ s) : Ends s₀ (execVcgt x s) := Ends.laneCmp h

theorem Ends.execVcge {x : LFields} {s : State} (h : Keeps s₀ s) : Ends s₀ (execVcge x s) := Ends.laneCmp h

theorem Ends.execVmov {x : LFields} {s : State} (h : Keeps s₀ s) : Ends s₀ (execVmov x s) :=
  Ends.lanePass h (fun _ _ => Ends.commitL h)

theorem Ends.execVlane {x : LFields} {s : State} (h : Keeps s₀ s) : Ends s₀ (execVlane x s) :=
  Ends.lanePass h (fun _ _ => Ends.commitL h)

theorem Ends.execVgid {x : LFields} {s : State} (h : Keeps s₀ s) : Ends s₀ (execVgid x s) :=
  Ends.lanePass h (fun _ _ => Ends.commitL h)

theorem Ends.execVfadd {x : LFields} {s : State} (h : Keeps s₀ s) : Ends s₀ (execVfadd x s) := Ends.lane2 h

theorem Ends.execVfsub {x : LFields} {s : State} (h : Keeps s₀ s) : Ends s₀ (execVfsub x s) := Ends.lane2 h

theorem Ends.execVfmul {x : LFields} {s : State} (h : Keeps s₀ s) : Ends s₀ (execVfmul x s) := Ends.lane2 h

theorem Ends.execVfma {x : LFields} {s : State} (h : Keeps s₀ s) : Ends s₀ (execVfma x s) := Ends.lane3 h

theorem Ends.execVfms {x : LFields} {s : State} (h : Keeps s₀ s) : Ends s₀ (execVfms x s) := Ends.lane3 h

theorem Ends.execVfnma {x : LFields} {s : State} (h : Keeps s₀ s) : Ends s₀ (execVfnma x s) := Ends.lane3 h

theorem Ends.execVfmin {x : LFields} {s : State} (h : Keeps s₀ s) : Ends s₀ (execVfmin x s) := Ends.lane2 h

theorem Ends.execVfmax {x : LFields} {s : State} (h : Keeps s₀ s) : Ends s₀ (execVfmax x s) := Ends.lane2 h

theorem Ends.execVfdiv {x : LFields} {s : State} (h : Keeps s₀ s) : Ends s₀ (execVfdiv x s) := Ends.lane2 h

theorem Ends.execVfsqrt {x : LFields} {s : State} (h : Keeps s₀ s) : Ends s₀ (execVfsqrt x s) := Ends.lane1 h

theorem Ends.execVexp2 {x : LFields} {s : State} (h : Keeps s₀ s) : Ends s₀ (execVexp2 x s) := Ends.lane1 h

theorem Ends.execVlog2 {x : LFields} {s : State} (h : Keeps s₀ s) : Ends s₀ (execVlog2 x s) := Ends.lane1 h

theorem Ends.execVfabs {x : LFields} {s : State} (h : Keeps s₀ s) : Ends s₀ (execVfabs x s) := Ends.lane1 h

theorem Ends.execVfneg {x : LFields} {s : State} (h : Keeps s₀ s) : Ends s₀ (execVfneg x s) := Ends.lane1 h

theorem Ends.execVfcsgn {x : LFields} {s : State} (h : Keeps s₀ s) : Ends s₀ (execVfcsgn x s) := Ends.lane2 h

theorem Ends.execVfceq {x : LFields} {s : State} (h : Keeps s₀ s) : Ends s₀ (execVfceq x s) := Ends.laneCmp h

theorem Ends.execVfcne {x : LFields} {s : State} (h : Keeps s₀ s) : Ends s₀ (execVfcne x s) := Ends.laneCmp h

theorem Ends.execVfclt {x : LFields} {s : State} (h : Keeps s₀ s) : Ends s₀ (execVfclt x s) := Ends.laneCmp h

theorem Ends.execVfcle {x : LFields} {s : State} (h : Keeps s₀ s) : Ends s₀ (execVfcle x s) := Ends.laneCmp h

theorem Ends.execVfcun {x : LFields} {s : State} (h : Keeps s₀ s) : Ends s₀ (execVfcun x s) := Ends.laneCmp h

end

/-! ### The operations of `Machine/LaneConv` -/

section
variable {s₀ : State}

theorem Keeps.putHist {s : State} {g t : Nat} {x : Hist} (h : Keeps s₀ s) : Keeps s₀ (putHist s g t x) := h.putCore

theorem Keeps.histCount {s : State} {g : ℕ} {t : Option ℕ} {xs : List FVal} (h : Keeps s₀ s) :
    Keeps s₀ (histCount s g t xs) := by
  unfold Machine.histCount
  split
  · exact h
  · exact h.putHist

theorem Ends.convPass {x : LFields} {suits : BitVec 128 → Bool} {nsrc : BitVec 128 → ℕ} {ndst : BitVec 128 → ℕ} {evenA : BitVec 128 → Bool} {evenD : BitVec 128 → Bool} {s : State} {k : Span → Launch → BitVec 128 → Res} (h : Keeps s₀ s) (hk : ∀ x0 x1 x2, Ends s₀ (k x0 x1 x2)) :
    Ends s₀ (convPass x suits nsrc ndst evenA evenD s k) :=
  Ends.withLaunch (fun _ _ => Ends.ite (Ends.trapL h) (Ends.lanePass h (fun _ _ => hk _ _ _)))

theorem Ends.convert {x : LFields} {f : BitVec 128} {E : ℕ} {src : Span → ℕ → List ℕ} {s : State} {sp : Span} {l : Launch} (h : Keeps s₀ s) :
    Ends s₀ (convert x f E src s sp l) := Ends.commitL h.histCount

theorem Ends.packBlocks {x : LFields} {f : BitVec 128} {s : State} {sp : Span} {l : Launch} {enc : (ℕ → Rm) → List FVal → Span → ℕ → ℕ → Span} (h : Keeps s₀ s) :
    Ends s₀ (packBlocks x f s sp l enc) := Ends.commitL h.histCount

theorem Ends.unpack {x : LFields} {suits : BitVec 128 → Bool} {nsrc : ℕ} {elem : BitVec 128 → Span → ℕ → ℕ → ℕ} {s : State} (h : Keeps s₀ s) :
    Ends s₀ (unpack x suits nsrc elem s) :=
  Ends.withLaunch (fun _ _ => Ends.ite (Ends.trapL h) (Ends.lanePass h (fun _ _ => Ends.commitL h)))

theorem Ends.execVcvt {x : LFields} {s : State} (h : Keeps s₀ s) : Ends s₀ (execVcvt x s) :=
  Ends.convPass h (fun _ _ _ => Ends.convert h)

theorem Ends.execVcvtp {x : LFields} {s : State} (h : Keeps s₀ s) : Ends s₀ (execVcvtp x s) :=
  Ends.convPass h (fun _ _ _ => Ends.convert h)

theorem Ends.execVcvtu {x : LFields} {s : State} (h : Keeps s₀ s) : Ends s₀ (execVcvtu x s) := by
  unfold Machine.execVcvtu
  exact Ends.convPass h (fun _ _ _ => Ends.convert h)

theorem Ends.execVmxpack {x : LFields} {s : State} (h : Keeps s₀ s) : Ends s₀ (execVmxpack x s) :=
  Ends.convPass h (fun _ _ _ => Ends.packBlocks h)

theorem Ends.execVmxunpk {x : LFields} {s : State} (h : Keeps s₀ s) : Ends s₀ (execVmxunpk x s) := Ends.unpack h

theorem Ends.execVf4pack {x : LFields} {s : State} (h : Keeps s₀ s) : Ends s₀ (execVf4pack x s) :=
  Ends.convPass h (fun _ _ _ => Ends.packBlocks h)

theorem Ends.execVf4unpk {x : LFields} {s : State} (h : Keeps s₀ s) : Ends s₀ (execVf4unpk x s) := Ends.unpack h

theorem Ends.execVrnd {x : LFields} {s : State} (h : Keeps s₀ s) : Ends s₀ (execVrnd x s) :=
  Ends.lanePass h (fun _ _ => Ends.commitL h)

end

/-! ### The operations of `Machine/Sync` -/

section
variable {s₀ : State}

theorem Ends.execFence {scope : BitVec 3} {s : State} (h : Keeps s₀ s) : Ends s₀ (execFence scope s) :=
  Ends.withLaunch
    (fun _ _ =>
      Ends.ite (Ends.trapS h)
        (Ends.ite
          (Ends.commitS (h.closeWindows.ite h))
          (Ends.ite (Ends.stall h)
            (Ends.ite (Ends.stall h) (Ends.afterStores h (fun _ h2 => Ends.commitS h2.acquireDrop.orderFence))))))

theorem Keeps.checkObj {s : State} {sp : Span} {l : Launch} {a : ℕ} (h : Keeps s₀ s) : Keeps s₀ (checkObj s sp l a).1 := by
  unfold Machine.checkObj
  refine Keeps.iteFst ?_ ?_
  · exact h
  · refine Keeps.iteFst ?_ ?_
    · exact h
    · split
      · exact Keeps.ofXlWait h.xlate ‹_›
      · exact h
      · exact h

theorem Ends.execAcq {d : BitVec 6} {a : BitVec 6} {scope : BitVec 3} {s : State} (h : Keeps s₀ s) :
    Ends s₀ (execAcq d a scope s) := by
  unfold Machine.execAcq
  dsimp only
  exact Ends.withLaunch
    (fun _ _ =>
      Ends.needS h
        (Ends.ite (Ends.trapS h)
          (Ends.afterAcquire h
            (by
              split
              · exact Ends.next (h.checkObj.ofFst ‹_›)
              · exact Ends.trapS (h.checkObj.ofFst ‹_›)
              · refine Ends.ite ?_ ?_
                · exact Ends.commitS (h.checkObj.ofFst ‹_›).newLoad.detAcquire
                · refine Ends.ite ?_ ?_
                  · exact Ends.next (h.checkObj.ofFst ‹_›).flushLines
                  · exact Ends.commitS
                      (Keeps.foldl
                        ((h.checkObj.ofFst ‹_›).flushLines.dropLines.ite (h.checkObj.ofFst ‹_›).flushLines).newLoad
                        (fun _ _ h2 => h2.askLine))
              · exact Ends.stall (h.checkObj.ofFst ‹_›)))))

theorem Ends.execRel {a : BitVec 6} {scope : BitVec 3} {s : State} (h : Keeps s₀ s) : Ends s₀ (execRel a scope s) := by
  unfold Machine.execRel
  refine Ends.withLaunch fun sp l => Ends.needS h (Ends.ite (Ends.trapS h) (Ends.afterAcquire h ?_))
  dsimp only
  split
  · refine Ends.ite (Ends.stall h) (Ends.ite (Ends.takenBack (Ends.trapS h)) (Ends.commitS ?_))
    exact Keeps.foldl ((Keeps.foldl h fun _ _ h1 => h1.writeBack).ite h).publish fun _ _ h1 => h1.putReq
  · split
    · exact Ends.next (h.checkObj.ofFst ‹_›)
    · exact Ends.trapS (h.checkObj.ofFst ‹_›)
    · next t pa ht =>
      have ht' : Keeps s₀ t := h.checkObj.ofFst ht
      exact Ends.ite (Ends.bufferAll ht' fun _ => Ends.commitS ht')
        (Ends.ite (Ends.stall ht') (Ends.ite (Ends.stall ht') (Ends.pend ht'.writeBack.newReq)))
    · exact Ends.stall (h.checkObj.ofFst ‹_›)

theorem Ends.execRbind {d : BitVec 6} {a : BitVec 6} {b : BitVec 6} {s : State} (h : Keeps s₀ s) :
    Ends s₀ (execRbind d a b s) := by
  unfold Machine.execRbind
  dsimp only
  exact Ends.withLaunch
    (fun _ _ =>
      Ends.needS h
        (Ends.ite (Ends.trapS h)
          (by
            split
            · exact Ends.next (h.checkObj.ofFst ‹_›)
            · exact Ends.trapS (h.checkObj.ofFst ‹_›)
            · refine Ends.ite ?_ ?_
              · exact Ends.commitS (h.checkObj.ofFst ‹_›)
              · exact Ends.ite (Ends.trapS (h.checkObj.ofFst ‹_›)) (Ends.commitS (h.checkObj.ofFst ‹_›)))))

end

/-! ### The operations of `Machine/Home` -/

section
variable {s₀ : State}

theorem Ends.withReq {s : State} {k : ℕ → Req → Res} (hk : ∀ x0 x1, Ends s₀ (k x0 x1)) :
    Ends s₀ (withReq s k) := by
  unfold Machine.withReq
  split
  · exact hk _ _
  · exact Ends.fault

theorem Keeps.touchGroups {s : State} {line : ℕ} (h : Keeps s₀ s) : Keeps s₀ (touchGroups s line) := h.withFab.ite h

theorem Keeps.touchResid {s : State} {line : ℕ} (h : Keeps s₀ s) : Keeps s₀ (touchResid s line) := h.ite h.withFab

theorem Keeps.lineWritten {s : State} {line : ℕ} (h : Keeps s₀ s) : Keeps s₀ (lineWritten s line) :=
  h.touchGroups.touchResid.homeTouch

theorem Keeps.orderedPut {s : State} {w : Option Writer} {atomic : Bool} {va : ℕ} {pa : ℕ} {b : Byte} (h : Keeps s₀ s) :
    Keeps s₀ (orderedPut s w atomic va pa b) := by
  unfold Machine.orderedPut
  dsimp only
  split
  · exact h.homePut
  · exact h.orderWrite.homePut.ite h.orderWrite

theorem Keeps.orderedBytes {s : State} {w : Option Writer} {atomic : Bool} {va : ℕ} {pa : ℕ} {l : List Byte} (h : Keeps s₀ s) :
    Keeps s₀ (orderedBytes s w atomic va pa l) :=
  (h.lineWritten.foldl (fun _ _ h2 => h2.orderedPut)).nextStamp

theorem Keeps.completePkt {s : State} {i : ℕ} {status : ℕ} {reason : ℕ} {value : ℕ} {addr : ℕ} (h : Keeps s₀ s) :
    Keeps s₀ (completePkt s i status reason value addr) := by
  unfold Machine.completePkt
  dsimp only
  split
  · exact h
  · exact h.withFe

theorem Keeps.setWaiter {s : State} {w : Writer} {pa : ℕ} {k : ℕ} {v : Bool} (h : Keeps s₀ s) :
    Keeps s₀ (setWaiter s w pa k v) := h.ite h.orderedBytes

theorem Keeps.clearHostWaiter {s : State} {pa : ℕ} (h : Keeps s₀ s) : Keeps s₀ (clearHostWaiter s pa) := h.setWaiter.ite h

theorem Keeps.checkAcquires {s : State} {pa : ℕ} (h : Keeps s₀ s) : Keeps s₀ (checkAcquires s pa) :=
  (h.foldl (fun _ _ h2 => h2.completePkt.ite (h2.completePkt.acquireFrom.ite h2))).clearHostWaiter

theorem Keeps.serveLoad {s : State} {i : ℕ} {line : ℕ} {data : Line} {poison : Bool} {home : Bool} {own : List Writer} (h : Keeps s₀ s) :
    Keeps s₀ (serveLoad s i line data poison home own) := by
  unfold Machine.serveLoad
  dsimp only
  split
  · exact h
  · exact Keeps.putLoad
      ((h.foldl (fun _ _ h2 => h2.seeMarks.ite h2)).raiseFloorOf.ite (h.foldl (fun _ _ h2 => h2.seeMarks.ite h2)))

theorem Keeps.endAcquire {s : State} {sp : Span} {ld : Load} {a : Acquire} (h : Keeps s₀ s) :
    Keeps s₀ (endAcquire s sp ld a) := by
  unfold Machine.endAcquire
  dsimp only
  split
  · exact h.acquireDrop.putSpan
  · exact (h.ite h.acquireFrom).nextUse.putSpan

theorem Ends.execLoadFill {s : State} (h : Keeps s₀ s) : Ends s₀ (execLoadFill s) := by
  unfold Machine.execLoadFill
  dsimp only
  split
  · exact Ends.fault
  · split
    · exact Ends.next h.withLoads
    · refine Ends.ite ?_ ?_
      · exact Ends.fault
      · refine Ends.ite ?_ ?_
        · exact Ends.next h.withLoads.finishSpan
        · refine Ends.ite ?_ ?_
          · exact Ends.next h.withLoads.haltWith
          · split
            · exact Ends.ite (Ends.next h.withLoads.endAcquire) (Ends.next h.withLoads.putSpan)
            · exact Ends.next h.withLoads.putSpan

theorem Ends.execFifoPopFill {s : State} (h : Keeps s₀ s) : Ends s₀ (execFifoPopFill s) := by
  unfold Machine.execFifoPopFill
  dsimp only
  split
  · exact Ends.fault
  · exact Ends.ite Ends.fault (Ends.next h.takeWords)

theorem Ends.execFifoPushResume {s : State} (h : Keeps s₀ s) : Ends s₀ (execFifoPushResume s) := by
  unfold Machine.execFifoPushResume
  dsimp only
  split
  · exact Ends.fault
  · split
    · exact Ends.ite Ends.fault (Ends.turn h (Ends.commit (Keeps.refl _).putBank) rfl)
    · exact Ends.fault

theorem Keeps.landOn {s : State} {loc : Option BarLoc} {n : ℕ} {arrive : ℕ} {poison : Bool} {c : Clock} (h : Keeps s₀ s) :
    Keeps s₀ (landOn s loc n arrive poison c) := by
  unfold Machine.landOn
  dsimp only
  split
  · exact h
  · exact h.ite h.coverPhase.writeBar

theorem Keeps.landDeck {s : State} {deck core : Nat} {addr : Word64} {n arrive : Nat} {poison : Bool} {c : Clock} (h : Keeps s₀ s) :
    Keeps s₀ (landDeck s deck core addr n arrive poison c) := by
  unfold Machine.landDeck
  dsimp only
  split
  · refine Keeps.ite ?_ h.landOn
    split
    · next t ht => exact Keeps.ofBarResOk (Keeps.onDeckBar h fun _ h1 => by exact .ok h1.landOn) ht
    · exact h
  · exact h.landOn

theorem Ends.execBankSwitchComplete {s : State} (h : Keeps s₀ s) : Ends s₀ (execBankSwitchComplete s) := by
  unfold Machine.execBankSwitchComplete
  dsimp only
  split
  · exact Ends.fault
  · exact Ends.ite Ends.fault (Ends.next h.putBank.landDeck)

theorem Ends.execPlainWindowExpire {s : State} (h : Keeps s₀ s) : Ends s₀ (execPlainWindowExpire s) :=
  Ends.withReq (fun _ _ => (by split; exacts [Ends.ite (Ends.next h.delReq) Ends.fault, Ends.fault]))

theorem Ends.execDirtyLineWriteback {s : State} (h : Keeps s₀ s) : Ends s₀ (execDirtyLineWriteback s) := by
  unfold Machine.execDirtyLineWriteback
  dsimp only
  split
  · exact Ends.ite (Ends.next h.writeBack) Ends.fault
  · exact Ends.fault

theorem Ends.execQuadMergeRequest {s : State} (h : Keeps s₀ s) : Ends s₀ (execQuadMergeRequest s) := by
  unfold Machine.execQuadMergeRequest
  dsimp only
  exact Ends.withReq
    (fun _ _ =>
      Ends.ite Ends.fault
        (by
          split
          · exact Ends.next h.nextUse.putReq.withMerges
          · exact Ends.ite Ends.fault (Ends.next h.nextUse.putReq.withNextIdMerges)))

theorem Ends.withMerge {s : State} {k : ℕ → Merge → Res} (hk : ∀ x0 x1, Ends s₀ (k x0 x1)) :
    Ends s₀ (withMerge s k) := by
  unfold Machine.withMerge
  split
  · exact hk _ _
  · exact Ends.fault

theorem Keeps.answerRead {s : State} {i : ℕ} {data : Line} {poison : Bool} (h : Keeps s₀ s) :
    Keeps s₀ (answerRead s i data poison) :=
  Keeps.ite
    ((h.foldl (fun _ _ h2 => h2.serveLoad)).ite (h.foldl (fun _ _ h2 => h2.serveLoad)).l1Fill).putReq
    (h.foldl (fun _ _ h2 => h2.serveLoad)).delReq

theorem Ends.execHomeRead {s : State} (h : Keeps s₀ s) : Ends s₀ (execHomeRead s) := by
  unfold Machine.execHomeRead
  dsimp only
  split
  · exact Ends.ite Ends.fault (Ends.next (h.homeTouch.withMerges.foldl (fun _ _ h2 => h2.answerRead)))
  · exact Ends.withReq (fun _ _ => Ends.ite Ends.fault (Ends.next h.answerRead))

theorem Keeps.consumeOne {s : State} {line : ℕ} {i : ℕ} (h : Keeps s₀ s) : Keeps s₀ (consumeOne s line i) := by
  unfold Machine.consumeOne
  dsimp only
  split
  · exact (h.putHome.ite h).serveLoad.settleLine.ite (h.putHome.ite h).serveLoad
  · exact (h.putHome.ite h).serveLoad.putLoad

theorem Ends.execHomeConsumingAccess {s : State} (h : Keeps s₀ s) : Ends s₀ (execHomeConsumingAccess s) :=
  Ends.withMerge
    (fun _ _ =>
      Ends.ite Ends.fault
        (Ends.next ((h.homeTouch.foldl (fun _ _ h2 => h2.consumeOne)).foldl (fun _ _ h2 => h2.delReq)).withMerges))

theorem Keeps.orderLine {s : State} {w : Writer} {va line : Nat} {old new : Line} (h : Keeps s₀ s) :
    Keeps s₀ (orderLine s w va line old new).1 := by
  unfold Machine.orderLine
  refine Keeps.nextStamp ?_
  generalize List.range 128 = ks
  exact Keeps.foldlPair h fun _ _ h1 => h1.orderWrite

theorem Keeps.countedFill {s : State} {line : ℕ} {n : ℕ} {number : ℕ} {data : Option (Line × Writer)} (h : Keeps s₀ s) :
    Keeps s₀ (countedFill s line n number data) := by
  unfold Machine.countedFill
  dsimp only
  exact Keeps.ite
    (h.putHome.recUnderread.ite h.putHome)
    (Keeps.ite
      (Keeps.putHome
        (Keeps.ite
          (Keeps.lineWritten (by split; exacts [h.orderLine, h]))
          (Keeps.homeTouch (by split; exacts [h.orderLine, h]))))
      (Keeps.putHome
        (Keeps.ite
          (Keeps.memWrite
            (Keeps.ite
              (Keeps.lineWritten (by split; exacts [h.orderLine, h]))
              (Keeps.homeTouch (by split; exacts [h.orderLine, h]))))
          (Keeps.ite
            (Keeps.lineWritten (by split; exacts [h.orderLine, h]))
            (Keeps.homeTouch (by split; exacts [h.orderLine, h]))))))

theorem Keeps.fillAnswer {s : State} {i : ℕ} {r : Req} (h : Keeps s₀ s) : Keeps s₀ (fillAnswer s i r) :=
  (h.countedFill.foldl (fun _ _ h2 => h2.serveLoad)).delReq

theorem Ends.execHomeCountedFill {s : State} (h : Keeps s₀ s) : Ends s₀ (execHomeCountedFill s) := by
  unfold Machine.execHomeCountedFill
  dsimp only
  exact Ends.withMerge
    (fun _ _ =>
      (by
        split
        · refine Ends.ite ?_ ?_
          · exact Ends.fault
          · exact Ends.ite (Ends.next h.withMerges.fillAnswer) (Ends.next h.withMerges.putReq)
        · exact Ends.fault))

theorem Ends.execCountedFillWaitEnd {s : State} (h : Keeps s₀ s) : Ends s₀ (execCountedFillWaitEnd s) :=
  Ends.withReq (fun _ _ => Ends.ite (Ends.next h.fillAnswer) Ends.fault)

theorem Ends.execHomeStoreCheck {s : State} (h : Keeps s₀ s) : Ends s₀ (execHomeStoreCheck s) :=
  Ends.withReq (fun _ _ => Ends.ite Ends.fault (Ends.ite (Ends.next h.putReq) (Ends.next h.putHome.putReq)))

theorem Keeps.finishCmd {s : State} {seq : ℕ} (h : Keeps s₀ s) : Keeps s₀ (finishCmd s seq) := by
  unfold Machine.finishCmd
  dsimp only
  split
  · exact h
  · exact h.ite h.handOver.delAgent.withCtxs

theorem Keeps.noteLostLine {s : State} {u va : Nat} (h : Keeps s₀ s) : Keeps s₀ (noteLostLine s u va) := by
  unfold Machine.noteLostLine
  have hd : Keeps s₀ { s with decks := s.decks.map (fun d =>
      if d.2.uids.contains u then (d.1, { d.2 with lost := true }) else d) } :=
    ⟨h.cur, fun hs => have ⟨hm, hl, hsp, hd⟩ := h.canonical hs
      ⟨hm, hl, hsp, keysRise_map _ (fun p => by dsimp only; split <;> rfl) hd⟩⟩
  dsimp only
  split
  · exact hd
  · exact hd.putSpan

theorem Keeps.noteLostWrite {s : State} {i : ℕ} {r : Req} (h : Keeps s₀ s) : Keeps s₀ (noteLostWrite s i r) :=
  h.withReqs.foldl (fun _ _ h2 => h2.noteLostLine)

theorem Keeps.loseLine {s : State} {line : ℕ} (h : Keeps s₀ s) : Keeps s₀ (loseLine s line) :=
  (h.withReqs.foldl (fun _ _ h2 => h2.noteLostLine)).putHome

theorem Keeps.performStore {s : State} {i : ℕ} {r : Req} (h : Keeps s₀ s) : Keeps s₀ (performStore s i r) :=
  Keeps.ite
    (Keeps.ite
      h.delReq.closeWindows.lineWritten.putHome.recUncorrectable.noteLostWrite
      (h.delReq.closeWindows.lineWritten.putHome.foldl (fun _ _ h2 => h2.orderedPut)).nextStamp)
    (Keeps.finishCmd
      (Keeps.ite
        h.delReq.closeWindows.lineWritten.putHome.recUncorrectable.noteLostWrite
        (h.delReq.closeWindows.lineWritten.putHome.foldl (fun _ _ h2 => h2.orderedPut)).nextStamp))

theorem Ends.execHomeStoreData {s : State} (h : Keeps s₀ s) : Ends s₀ (execHomeStoreData s) :=
  Ends.withReq (fun _ _ => Ends.ite Ends.fault (Ends.next (h.performStore.withFe.ite h.performStore)))

theorem Ends.execExpanderCompletion {s : State} (h : Keeps s₀ s) : Ends s₀ (execExpanderCompletion s) :=
  Ends.withReq (fun _ _ => Ends.ite Ends.fault (Ends.next h.performStore))

theorem Ends.execHostFlushCompletion {s : State} (h : Keeps s₀ s) : Ends s₀ (execHostFlushCompletion s) := Ends.next h.withFe

theorem Keeps.atomicAcquire {s : State} {r : Req} {pa : ℕ} (h : Keeps s₀ s) : Keeps s₀ (atomicAcquire s r pa) := by
  unfold Machine.atomicAcquire
  split
  · exact h
  · exact h.acquireFrom.ite h

theorem Keeps.undoUpdate {s : State} {r : Req} {old : List Byte} (h : Keeps s₀ s) : Keeps s₀ (undoUpdate s r old) := by
  unfold Machine.undoUpdate
  dsimp only
  split
  · exact h
  · split
    · exact h
    · exact h.ite h.undoEntry.putSpan

theorem Keeps.undoHome {s : State} {r : Req} (h : Keeps s₀ s) : Keeps s₀ (undoHome s r) := h.undoUpdate

theorem Keeps.giveOld {s : State} {r : Req} {old : ℕ} {bad : Bool} (h : Keeps s₀ s) : Keeps s₀ (giveOld s r old bad) :=
  h.foldl (fun _ _ h2 => (by split; exacts [h2, h2.putLoad]))

theorem Keeps.performScratch {s : State} {i : ℕ} {r : Req} (h : Keeps s₀ s) : Keeps s₀ (performScratch s i r) := by
  unfold Machine.performScratch
  dsimp only
  split
  · exact h.delReq
  · exact Keeps.giveOld
      (Keeps.addRelease
        (Keeps.localMark
          (Keeps.localAtom
            (Keeps.localWrite
              (by
                split
                · exact h.delReq.undoUpdate.seeLocal.acquireFrom.ite h.delReq.undoUpdate.seeLocal
                · exact h.delReq.undoUpdate.seeLocal)))))

theorem Keeps.performAtomic {s : State} {i : ℕ} {r : Req} (h : Keeps s₀ s) : Keeps s₀ (performAtomic s i r) :=
  Keeps.giveOld
    (Keeps.ite
      h.delReq.unhold.homeTouch.undoHome.seeFences.atomicAcquire.orderedBytes.raiseFloorOf
      h.delReq.unhold.homeTouch.undoHome.seeFences.atomicAcquire.orderedBytes.raiseFloorOf.addRelease)

theorem Keeps.performRel {s : State} {pa : ℕ} {poison : Bool} {r : Req} (h : Keeps s₀ s) :
    Keeps s₀ (performRel s pa poison r) :=
  h.orderedBytes.raiseFloorOf.ite h.orderedBytes.raiseFloorOf.addRelease

theorem Keeps.afterRelease {s : State} {pa : ℕ} {va : ℕ} (h : Keeps s₀ s) : Keeps s₀ (afterRelease s pa va) := by
  unfold Machine.afterRelease
  exact (h.withFab.ite h).checkAcquires.ite (h.withFab.ite h)

theorem Ends.execHomeAtomic {s : State} (h : Keeps s₀ s) : Ends s₀ (execHomeAtomic s) :=
  Ends.withReq
    (fun _ _ =>
      Ends.ite Ends.fault
        (Ends.ite Ends.fault
          (Ends.ite
            (Ends.ite (Ends.next h.putReq) (Ends.next h.putHome.putReq))
            (Ends.ite Ends.fault (Ends.next h.performAtomic)))))

theorem Keeps.dropRelease {s : State} {i : ℕ} {r : Req} (h : Keeps s₀ s) : Keeps s₀ (dropRelease s i r) :=
  (h.delReq.ite h.delReq.unhold).withLoads.haltWith

theorem Ends.execReleaseMarkerClear {s : State} (h : Keeps s₀ s) : Ends s₀ (execReleaseMarkerClear s) := by
  unfold Machine.execReleaseMarkerClear
  dsimp only
  exact Ends.withReq
    (fun _ _ =>
      Ends.ite Ends.fault
        (Ends.ite
          (by
            split
            · exact Ends.next (h.foldl (fun _ _ h2 => h2.writeBack))
            · exact Ends.ite Ends.fault (Ends.next h.delReq.unhold.undoHome.performRel.afterRelease))
          (Ends.ite (Ends.next h.dropRelease) (Ends.ite (Ends.next h.performScratch) (Ends.next h.performAtomic)))))

theorem Keeps.dropLine {s : State} {line : ℕ} {reason : ℕ} (h : Keeps s₀ s) : Keeps s₀ (dropLine s line reason) :=
  h.recUnderread.putHome.ite h

theorem Ends.execHomeDropc {s : State} (h : Keeps s₀ s) : Ends s₀ (execHomeDropc s) := by
  unfold Machine.execHomeDropc
  dsimp only
  exact Ends.withReq
    (fun _ _ =>
      Ends.ite Ends.fault
        (Ends.ite (Ends.next h.delReq)
          (Ends.ite (Ends.next h.delReq)
            (by
              split
              · exact Ends.next (h.delReq.ite h.putReq)
              · refine Ends.ite ?_ ?_
                · exact Ends.fault
                · exact Ends.next ((h.dropLine.ite h).delReq.ite (h.dropLine.ite h).putReq)))))

theorem Ends.execBarrierLanding {s : State} (h : Keeps s₀ s) : Ends s₀ (execBarrierLanding s) := by
  unfold Machine.execBarrierLanding
  dsimp only
  split
  · exact Ends.fault
  · refine Ends.ite ?_ ?_
    · exact Ends.fault
    · exact Ends.ite Ends.fault (Ends.next (h.withLands.landDeck.ite h.withLands.landDeck.finishCmd))

end

/-! ### The operations of `Machine/System` -/

section
variable {s₀ : State}

theorem Ends.execSysrd {a : BitVec 6} {n : BitVec 14} {s : State} (h : Keeps s₀ s) : Ends s₀ (execSysrd a n s) :=
  Ends.withLaunch (fun _ _ => (by split; exacts [Ends.trapS h, Ends.needS h (Ends.commitS h)]))

theorem Ends.execStep {a : BitVec 6} {s : State} (h : Keeps s₀ s) : Ends s₀ (execStep a s) :=
  Ends.withLaunch (fun _ _ => Ends.needS h (Ends.ite (Ends.trapS h) (Ends.next h.putSpan)))

theorem Keeps.undoDiff {s : State} {u : ℕ} {l : Launch} {old : Span} {new : Span} (h : Keeps s₀ s) :
    Keeps s₀ (undoDiff s u l old new).1 := by
  unfold Machine.undoDiff
  dsimp only
  refine Keeps.iteFst ?_ ?_
  · refine Keeps.iteFst ?_ ?_
    · exact (h.foldlPair (fun _ _ h2 => h2.undoPutAt)).foldlFst (fun _ _ h2 => h2.undoPutAt)
    · exact ((h.foldlPair (fun _ _ h2 => h2.undoPutAt)).foldlFst (fun _ _ h2 => h2.undoPutAt)).undoPutAt
  · exact Keeps.undoPutAt
      (Keeps.iteFst
        ((h.foldlPair (fun _ _ h2 => h2.undoPutAt)).foldlFst (fun _ _ h2 => h2.undoPutAt))
        ((h.foldlPair (fun _ _ h2 => h2.undoPutAt)).foldlFst (fun _ _ h2 => h2.undoPutAt)).undoPutAt)

theorem Keeps.logUndo {old s : State} {u : ℕ} (h1 : Keeps s₀ s) : Keeps s₀ (logUndo old s u) := by
  unfold Machine.logUndo
  dsimp only
  split
  · split
    · exact h1.undoDiff.putSpan.ite h1
    · exact h1
  · exact h1

theorem Ends.execUndomark {a : BitVec 6} {s : State} (h : Keeps s₀ s) : Ends s₀ (execUndomark a s) :=
  Ends.withLaunch (fun _ _ => Ends.needS h (Ends.ite (Ends.commitS h.undoPut) (Ends.commitS h)))

theorem Keeps.switchBank {s : State} {sp : Span} {p : ℕ} {m : BankMode} {bar : Word64} {pops : List (ℕ × Load)} (h : Keeps s₀ s) :
    Keeps s₀ (switchBank s sp p m bar pops) :=
  Keeps.putBank
    (Keeps.publish
      (Keeps.ite
        (Keeps.ite
          (((h.foldl (fun _ _ h2 => h2.invalidate)).ite h).foldl (fun _ _ h2 => h2.takeWords))
          ((h.foldl (fun _ _ h2 => h2.invalidate)).ite h))
        (Keeps.writeBackOf
          (Keeps.ite
            (((h.foldl (fun _ _ h2 => h2.invalidate)).ite h).foldl (fun _ _ h2 => h2.takeWords))
            ((h.foldl (fun _ _ h2 => h2.invalidate)).ite h)))))

theorem Ends.execBkmode {a : BitVec 6} {s : State} (h : Keeps s₀ s) : Ends s₀ (execBkmode a s) := by
  unfold Machine.execBkmode
  dsimp only
  exact Ends.withLaunch
    (fun _ _ =>
      Ends.needS h
        (Ends.ite (Ends.trapS h)
          (by
            split
            · exact Ends.trapS h
            · split
              · exact Ends.next (Keeps.ofBarXlWait h.findBar ‹_›)
              · exact Ends.ite (Ends.bufferAll h (fun _ => Ends.commitS h)) (Ends.trapS h)
              · refine Ends.ite ?_ ?_
                · exact Ends.bufferAll h (fun _ => Ends.commitS h)
                · exact Ends.ite (Ends.trapS h) (Ends.ite (Ends.stall h) (Ends.commitS h.switchBank)))))

theorem Ends.execBrk {_c : BitVec 14} {s : State} (h : Keeps s₀ s) : Ends s₀ (execBrk _c s) :=
  Ends.withLaunch (fun _ _ => Ends.trapS h)

theorem Ends.execTret {s : State} (h : Keeps s₀ s) : Ends s₀ (execTret s) :=
  Ends.withLaunch (fun _ _ => Ends.trapReturn h)

theorem Ends.execNop {s : State} (h : Keeps s₀ s) : Ends s₀ (execNop s) :=
  Ends.withSpan (fun _ => Ends.commitS h)

theorem Ends.execHrd {d : BitVec 6} {b : BitVec 6} {t : BitVec 3} {s : State} (h : Keeps s₀ s) :
    Ends s₀ (execHrd d b t s) :=
  Ends.withLaunch (fun _ _ => Ends.needS h (Ends.ite (Ends.commitS h.newLoad) (Ends.commitS h.newLoad)))

theorem Keeps.clearHist {s : State} {g : ℕ} {t : ℕ} {bias : BitVec 8} (h : Keeps s₀ s) :
    Keeps s₀ (clearHist s g t bias) := h.putCore

theorem Ends.execHclr {a : BitVec 6} {t : BitVec 3} {s : State} (h : Keeps s₀ s) : Ends s₀ (execHclr a t s) :=
  Ends.withLaunch
    (fun _ _ =>
      Ends.needS h
        (Ends.ite (Ends.bufferAll h (fun _ => Ends.commitS h)) (Ends.ite (Ends.stall h) (Ends.commitS h.clearHist))))

end

/-! ### The operations of `Machine/Engines` -/

section
variable {s₀ : State}

theorem Keeps.cmdEnter {s : State} {u : ℕ} {g : ℕ} {half : Bool} {q : ℕ} {e : Cmd} (h : Keeps s₀ s) :
    Keeps s₀ (cmdEnter s u g half q e) := h.putCtx.putCmd

theorem Keeps.barFinds {s : State} {sp : Span} {l : Launch} {own : Bool} {bar : Option Word64} (h : Keeps s₀ s) :
    BarFind.Keeps s₀ (barFinds s sp l own bar) := by
  unfold Machine.barFinds
  split
  · exact BarFind.Keeps.ok
  · refine ite_of ?_ ?_
    · exact BarFind.Keeps.ok
    · split
      · exact BarFind.Keeps.ok
      · exact BarFind.Keeps.ok
      · exact BarFind.Keeps.wait (Keeps.ofBarXlWait h.findBar ‹_›)

theorem Ends.engineCommit {s : State} {sp : Span} {l : Launch} {q : ℕ} {illegal : Bool} {own : Bool} {bar : Option Word64} {finds : List Find} {rows : List (ℕ × ℕ)} {e : Cmd} (h : Keeps s₀ s) :
    Ends s₀ (engineCommit s sp l q illegal own bar finds rows e) := by
  unfold Machine.engineCommit
  dsimp only
  refine Ends.ite ?_ ?_
  · exact Ends.trapS h
  · refine Ends.ite ?_ ?_
    · exact Ends.trapS h
    · split
      · exact Ends.trapS h
      · split
        · exact Ends.next (Keeps.ofBarFindWait h.barFinds ‹_›)
        · split
          · exact Ends.trapS h
          · refine Ends.ite ?_ ?_
            · split
              · exact Ends.trapS h
              · exact Ends.bufferAll h (fun _ => Ends.commitS h.undoCmd)
            · split
              · exact Ends.trapS h
              · exact Ends.ite (Ends.stall h) (Ends.commitS h.undoCmd.cmdEnter)

theorem Ends.copyOp {slot : Bool} {counted : Bool} {m : BitVec 2} {a : BitVec 6} {b : BitVec 6} {c : BitVec 6} {q : BitVec 2} {s : State} (h : Keeps s₀ s) :
    Ends s₀ (copyOp slot counted m a b c q s) :=
  Ends.withLaunch (fun _ _ => Ends.needS h (Ends.engineCommit h))

theorem Ends.execCopy {m : BitVec 2} {a : BitVec 6} {b : BitVec 6} {c : BitVec 6} {q : BitVec 2} {s : State} (h : Keeps s₀ s) :
    Ends s₀ (execCopy m a b c q s) := Ends.copyOp h

theorem Ends.execCopySlot {m : BitVec 2} {a : BitVec 6} {b : BitVec 6} {c : BitVec 6} {q : BitVec 2} {s : State} (h : Keeps s₀ s) :
    Ends s₀ (execCopySlot m a b c q s) := Ends.copyOp h

theorem Ends.execCopyReaders {m : BitVec 2} {a : BitVec 6} {b : BitVec 6} {c : BitVec 6} {q : BitVec 2} {s : State} (h : Keeps s₀ s) :
    Ends s₀ (execCopyReaders m a b c q s) := Ends.copyOp h

theorem Ends.mmaOp {q : ℕ} {n : BitVec 2} {k : BitVec 3} {a : BitVec 6} {z : BitVec 1} {p : BitVec 1} {ta : BitVec 4} {r : BitVec 1} {tb : BitVec 4} {s : State} (h : Keeps s₀ s) :
    Ends s₀ (mmaOp q n k a z p ta r tb s) :=
  Ends.withLaunch (fun _ _ => Ends.needS h (Ends.engineCommit h))

theorem Ends.execMma {n : BitVec 2} {k : BitVec 3} {a : BitVec 6} {z : BitVec 1} {p : BitVec 1} {ta : BitVec 4} {r : BitVec 1} {t : BitVec 4} {s : State} (h : Keeps s₀ s) :
    Ends s₀ (execMma n k a z p ta r t s) := Ends.mmaOp h

theorem Ends.execMmaVia {n : BitVec 2} {k : BitVec 3} {a : BitVec 6} {z : BitVec 1} {p : BitVec 1} {ta : BitVec 4} {r : BitVec 1} {t : BitVec 4} {q : BitVec 2} {s : State} (h : Keeps s₀ s) :
    Ends s₀ (execMmaVia n k a z p ta r t q s) := Ends.mmaOp h

theorem Ends.execAcst {n : BitVec 2} {k : BitVec 3} {a : BitVec 6} {b : BitVec 6} {c : BitVec 6} {s : State} (h : Keeps s₀ s) :
    Ends s₀ (execAcst n k a b c s) :=
  Ends.withLaunch (fun _ _ => Ends.needS h (Ends.engineCommit h))

theorem Keeps.claimSlot {s : State} {sp : Span} {n : ℕ} {readers : ℕ} (h : Keeps s₀ s) :
    SlotRes.Keeps s₀ (claimSlot s sp n readers) := by
  unfold Machine.claimSlot
  dsimp only
  split
  · exact SlotRes.Keeps.wait
  · exact SlotRes.Keeps.bad
  · exact SlotRes.Keeps.ok h.putCtx

theorem Keeps.freeSlot {s : State} {sp : Span} {n : ℕ} (h : Keeps s₀ s) : SlotRes.Keeps s₀ (freeSlot s sp n) := by
  unfold Machine.freeSlot
  dsimp only
  exact ite_of SlotRes.Keeps.bad (ite_of SlotRes.Keeps.wait (SlotRes.Keeps.ok h.releaseSlot))

theorem Ends.slotOp {x : Buffered} {wait : Pending} {f : State → Span → SlotRes} {s : State} (hk0 : ∀ x0 x1, Keeps s₀ x0 → SlotRes.Keeps s₀ (f x0 x1)) (h1 : Keeps s₀ s) :
    Ends s₀ (slotOp x wait f s) := by
  unfold Machine.slotOp
  dsimp only
  exact Ends.withLaunch
    (fun _ _ =>
      Ends.ite (Ends.trapS h1)
        (Ends.ite
          (Ends.bufferAll h1 (fun _ => Ends.commitS h1))
          (by split; exacts [Ends.trapS h1, Ends.pend h1, Ends.commitS (Keeps.ofSlotResOk (hk0 _ _ h1) ‹_›).undoCmd])))

theorem Ends.execTclaim {slot : BitVec 4} {r : BitVec 8} {s : State} (h : Keeps s₀ s) : Ends s₀ (execTclaim slot r s) :=
  Ends.slotOp (fun _ _ h2 => h2.claimSlot) h

theorem Ends.execTrel {slot : BitVec 4} {s : State} (h : Keeps s₀ s) : Ends s₀ (execTrel slot s) :=
  Ends.slotOp (fun _ _ h2 => h2.freeSlot) h

theorem Keeps.placeMarkers {s : State} {sp : Span} {mask : ℕ} (h : Keeps s₀ s) : Keeps s₀ (placeMarkers s sp mask) := h.putCtx.withNextId

theorem Ends.execQfence {m : BitVec 6} {s : State} (h : Keeps s₀ s) : Ends s₀ (execQfence m s) :=
  Ends.withLaunch
    (fun _ _ =>
      Ends.ite (Ends.trapS h)
        (Ends.ite
          (Ends.bufferAll h (fun _ => Ends.commitS h))
          (Ends.ite (Ends.stall h) (Ends.commitS h.undoCmd.placeMarkers))))

theorem Keeps.updCmd {s : State} {k : CmdAt} {e : Cmd} (h : Keeps s₀ s) : Keeps s₀ (updCmd s k e) := h.putCtx

theorem Keeps.landCmd {s : State} {g : ℕ} {e : Cmd} {n : ℕ} {poison : Bool} {after : ℕ} (h : Keeps s₀ s) :
    Keeps s₀ (landCmd s g e n poison after) := by
  unfold Machine.landCmd
  split
  · exact h
  · exact h.ite h.withNextIdLands

theorem Keeps.cmdDone {s : State} {k : CmdAt} {e : Cmd} (h : Keeps s₀ s) : Keeps s₀ (cmdDone s k e) := h.updCmd.drainSlots.finishCmd

theorem Keeps.failCmd {s : State} {k : CmdAt} {e : Cmd} (h : Keeps s₀ s) : Keeps s₀ (failCmd s k e) := h.landCmd.cmdDone

theorem Keeps.engXlate {s : State} {k : CmdAt} {l : Launch} {va : ℕ} {kind : ℕ} (h : Keeps s₀ s) :
    Xl.Keeps s₀ (engXlate s k l va kind) := by
  unfold Machine.engXlate
  dsimp only
  split
  · exact Xl.Keeps.ok
  · split
    · exact ite_of Xl.Keeps.ok (ite_of (Xl.Keeps.wait h.startWalk) h.translate)
    · exact h.translate

theorem Keeps.engAt {s : State} {k : CmdAt} {l : Launch} {a : ℕ} {kind : ℕ} (h : Keeps s₀ s) :
    EngAt.Keeps s₀ (engAt s k l a kind) := by
  unfold Machine.engAt
  refine ite_of ?_ ?_
  · exact EngAt.Keeps.fail
  · refine ite_of ?_ ?_
    · split
      · exact EngAt.Keeps.fail
      · exact ite_of EngAt.Keeps.fail (ite_of EngAt.Keeps.loc (EngAt.Keeps.wait h))
    · split
      · exact ite_of (EngAt.Keeps.wait h) EngAt.Keeps.phys
      · exact EngAt.Keeps.wait (Keeps.ofXlWait h.engXlate ‹_›)
      · exact EngAt.Keeps.fail

theorem Keeps.engRead {s : State} {k : CmdAt} {l : Launch} {addr : ℕ → ℕ} {n : ℕ} (h : Keeps s₀ s) :
    EngRead.Keeps s₀ (engRead s k l addr n) := by
  unfold Machine.engRead
  dsimp only
  exact foldl_of EngRead.Keeps.ok
    (fun _ _ h2 =>
      (by
        split
        · split
          · split
            · exact EngRead.Keeps.ok
            · exact EngRead.Keeps.fail
          · exact EngRead.Keeps.ok
          · exact EngRead.Keeps.wait (Keeps.ofEngAtWait h.engAt ‹_›)
          · exact EngRead.Keeps.fail
        · exact h2))

theorem Keeps.putOverlay {s : State} {deck : ℕ} {va : ℕ} {bytes : List Byte} (h : Keeps s₀ s) :
    Keeps s₀ (putOverlay s deck va bytes) := by
  unfold Machine.putOverlay
  split
  · exact h
  · exact h.putDeck

theorem Keeps.engLine {s : State} {k : CmdAt} {bar : Bool} {va : ℕ} {line : ℕ} (h : Keeps s₀ s) :
    EngWrite.Keeps s₀ (engLine s k bar va line) := by
  unfold Machine.engLine
  dsimp only
  refine ite_of ?_ ?_
  · exact EngWrite.Keeps.wait h.invalidate
  · refine ite_of ?_ ?_
    · exact ite_of EngWrite.Keeps.fail (EngWrite.Keeps.ok h.invalidate)
    · refine ite_of ?_ ?_
      · exact EngWrite.Keeps.fail
      · exact ite_of (EngWrite.Keeps.wait h.invalidate) (EngWrite.Keeps.ok h.invalidate)

theorem Keeps.engPut {s : State} {k : CmdAt} {l : Launch} {first : ℕ} {va : ℕ} {pa : ℕ} {bytes : List Byte} (h : Keeps s₀ s) :
    Keeps s₀ (engPut s k l first va pa bytes).1 := by
  unfold Machine.engPut
  dsimp only
  refine Keeps.iteFst ?_ ?_
  · split
    · exact h.putReq
    · exact h.newReq
  · exact (h.countedFill.ite h.orderedBytes.putHome).putOverlay.ite (h.countedFill.ite h.orderedBytes.putHome)

theorem Keeps.engReady {s : State} {k : CmdAt} {l : Launch} {va : ℕ} (h : Keeps s₀ s) :
    EngWrite.Keeps s₀ (engReady s k l va) := by
  unfold Machine.engReady
  split
  · exact EngWrite.Keeps.ok h
  · exact h.engLine
  · exact EngWrite.Keeps.wait (Keeps.ofEngAtWait h.engAt ‹_›)
  · exact EngWrite.Keeps.fail

theorem Keeps.engDo {s : State} {k : CmdAt} {l : Launch} {first : ℕ} {va : ℕ} {bytes : List Byte} (h : Keeps s₀ s) :
    EngWrite.Keeps s₀ (engDo s k l first va bytes) := by
  unfold Machine.engDo
  dsimp only
  split
  · split
    · exact EngWrite.Keeps.ok h.localWrite
    · exact EngWrite.Keeps.fail
  · exact EngWrite.Keeps.ok h.engPut
  · exact EngWrite.Keeps.wait (Keeps.ofEngAtWait h.engAt ‹_›)
  · exact EngWrite.Keeps.fail

theorem Keeps.engWrite {s : State} {k : CmdAt} {l : Launch} {va : ℕ} {bytes : List Byte} (h : Keeps s₀ s) :
    EngWrite.Keeps s₀ (engWrite s k l va bytes) := by
  unfold Machine.engWrite
  split
  · exact (Keeps.ofEngWriteOk h.engReady ‹_›).engDo
  · exact h.engReady

theorem Keeps.copyMoved {s : State} {k : CmdAt} {n : ℕ} {after : ℕ} (h : Keeps s₀ s) :
    Keeps s₀ (copyMoved s k n after) :=
  h.landCmd.cmdDone.ite h.landCmd.updCmd

theorem Keeps.consumeBad {s : State} {k : CmdAt} {e : Cmd} (h : Keeps s₀ s) : Keeps s₀ (consumeBad s k e) := h.failCmd.haltWith

theorem Ends.withCmd {s : State} {kind : CmdKind} {f : CmdAt → Launch → Res} (hk1 : ∀ x0 x1, Ends s₀ (f x0 x1)) :
    Ends s₀ (withCmd s kind f) := by
  unfold Machine.withCmd
  split
  · exact Ends.fault
  · split
    · exact Ends.fault
    · exact Ends.ite Ends.fault (hk1 _ _)

theorem Keeps.copyReady {s : State} {k : CmdAt} {l : Launch} {ps : List (Nat × Nat)} (h : Keeps s₀ s) :
    EngWrite.Keeps s₀ (copyReady s k l ps) := by
  refine foldl_of (EngWrite.Keeps.ok h) fun r p hr => ?_
  split
  · exact Keeps.engReady (Keeps.ofEngWriteOk hr rfl)
  · exact hr

theorem Keeps.Step_s {self : Step} (h : Keeps s₀ self.s) : Keeps s₀ (Step.s self) := h

theorem Keeps.copyOne {k : CmdAt} {l : Launch} {first : ℕ} {r : Step} {p : ℕ × ℕ} (h : Keeps s₀ r.s) :
    Keeps s₀ (copyOne k l first r p).s := by
  unfold Machine.copyOne
  dsimp only
  split
  · exact h
  · split
    · exact (Keeps.ofEngWriteOk h.engDo ‹_›).landCmd
    · exact h
    · exact h

theorem Keeps.copyWrite {s : State} {k : CmdAt} {l : Launch} {ps : List (Nat × Nat)} {bytes : List Byte} (h : Keeps s₀ s) :
    Keeps s₀ (copyWrite s k l ps bytes) := by
  unfold Machine.copyWrite
  have hf : Keeps s₀ (ps.foldl (Machine.copyOne k l s.nextId) ⟨s, k.cmd, bytes, false⟩).s :=
    foldl_of (P := fun r : Step => Keeps s₀ r.s) h fun _ _ h1 => h1.copyOne
  exact hf.failCmd.ite (hf.cmdDone.ite hf.updCmd)

theorem Keeps.holdPages {s : State} {k : CmdAt} {l : Launch} (h : Keeps s₀ s) : Keeps s₀ (holdPages s k l).1 := by
  unfold Machine.holdPages
  dsimp only
  exact h.foldlPair (fun _ _ h2 => h2.iteFst (by split; exacts [h2, Keeps.ofXlWait h2.engXlate ‹_›, h2]))

theorem Keeps.copyStep {s : State} {k : CmdAt} {l : Launch} (h : Keeps s₀ s) : Keeps s₀ (copyStep s k l) := by
  unfold Machine.copyStep
  dsimp only
  split
  · exact Keeps.ofEngReadWait h.engRead ‹_›
  · exact h.failCmd
  · exact Keeps.ite
      (h.foldl (fun _ _ h2 => h2.homeTouch)).consumeBad
      (Keeps.ite
        (h.foldl (fun _ _ h2 => h2.homeTouch)).putCtx.copyMoved
        (by
          split
          · exact Keeps.ofEngWriteWait (h.foldl (fun _ _ h2 => h2.homeTouch)).copyReady ‹_›
          · exact (h.foldl (fun _ _ h2 => h2.homeTouch)).failCmd
          · exact (Keeps.ofEngWriteOk (h.foldl (fun _ _ h2 => h2.homeTouch)).copyReady ‹_›).copyWrite))

theorem Ends.execCopyRun {s : State} (h : Keeps s₀ s) : Ends s₀ (execCopyRun s) :=
  Ends.withCmd
    (fun _ _ =>
      Ends.ite (Ends.next h.failCmd)
        (Ends.ite (Ends.next h.copyStep) (Ends.ite (Ends.next h.holdPages.copyStep) (Ends.next h.holdPages.updCmd))))

theorem Ends.execMmaRun {s : State} (h : Keeps s₀ s) : Ends s₀ (execMmaRun s) :=
  Ends.withCmd (fun _ _ => Ends.ite Ends.fault (Ends.next h.updCmd))

theorem Ends.execMmaDone {s : State} (h : Keeps s₀ s) : Ends s₀ (execMmaDone s) :=
  Ends.withCmd
    (fun _ _ => Ends.ite Ends.fault (Ends.ite (Ends.next h.consumeBad) (Ends.next h.putCtx.landCmd.cmdDone)))

theorem Ends.execAcstRun {s : State} (h : Keeps s₀ s) : Ends s₀ (execAcstRun s) := by
  unfold Machine.execAcstRun
  dsimp only
  exact Ends.withCmd
    (fun _ _ =>
      Ends.ite (Ends.next h.failCmd)
        (Ends.ite (Ends.next h.consumeBad)
          (by
            split
            · exact Ends.next (Keeps.ofEngWriteWait h.engWrite ‹_›)
            · exact Ends.next h.failCmd
            · exact Ends.next
                (Keeps.ite
                  (Keeps.ofEngWriteOk h.engWrite ‹_›).histCount.landCmd.cmdDone
                  (Keeps.ofEngWriteOk h.engWrite ‹_›).histCount.landCmd.updCmd))))

end

/-! ### The operations of `Machine/Context` -/

section
variable {s₀ : State}

theorem Keeps.installTlb {s : State} {g : ℕ} {fetch : Bool} {bay : ℕ} {t : Tlb} (h : Keeps s₀ s) :
    Keeps s₀ (installTlb s g fetch bay t) := h.putCore.tlbTouch

theorem Keeps.postFaults {s : State} (h : Keeps s₀ s) : Keeps s₀ (postFaults s) :=
  h.foldl (fun _ _ h2 => h2.ite h2.orderedBytes.withFaultsFe)

theorem Keeps.makeFault {s : State} {w : Walk} {n : Need} {level : ℕ} {malformed : Bool} {waits : Option ℕ} (h : Keeps s₀ s) :
    Keeps s₀ (makeFault s w n level malformed waits) := by
  unfold Machine.makeFault
  dsimp only
  split
  · exact h.ite h.withFaults
  · exact h.withNextIdFaults.postFaults

theorem Keeps.keepUppers {s : State} {l : List Upper} (h : Keeps s₀ s) : Keeps s₀ (keepUppers s l) := h.withUppers

theorem Keeps.completeNeed {s : State} {w : Walk} {r : WalkRes} {n : Need} (h : Keeps s₀ s) :
    Keeps s₀ (completeNeed s w r n) := by
  unfold Machine.completeNeed
  dsimp only
  split
  · exact h.makeFault
  · exact h.makeFault.ite (by split; exacts [h.installTlb, h])

theorem Ends.execWalkComplete {s : State} (h : Keeps s₀ s) : Ends s₀ (execWalkComplete s) := by
  unfold Machine.execWalkComplete
  dsimp only
  split
  · exact Ends.fault
  · refine Ends.ite ?_ ?_
    · exact Ends.fault
    · refine Ends.ite ?_ ?_
      · exact Ends.fault
      · exact Ends.next
          (Keeps.foldl
            (h.withFreshWalks.keepUppers.foldl (fun _ _ h2 => h2.homeTouch))
            (fun _ _ h2 => h2.foldl (fun _ _ h3 => h3.completeNeed)))

theorem Keeps.markFail {s : State} {f : FaultRec} {w : Who} (h : Keeps s₀ s) : Keeps s₀ (markFail s f w) := by
  unfold Machine.markFail
  dsimp only
  split
  · split
    · exact h.putSpan
    · exact h
  · split
    · exact h.updCmd
    · exact h
  · exact h.withFails

theorem Keeps.answerFault {s : State} {i : ℕ} {f : FaultRec} {fail : Bool} (h : Keeps s₀ s) :
    Keeps s₀ (answerFault s i f fail) :=
  (h.withFaults.foldl (fun _ _ h2 => h2.markFail)).ite h.withFaults

theorem Keeps.mapTlbs {s : State} {f : List Tlb → List Tlb} (h : Keeps s₀ s) : Keeps s₀ (mapTlbs s f) := h.withCores

theorem Keeps.dropPages {s : State} {x : Shoot} (h : Keeps s₀ s) : Keeps s₀ (dropPages s x) := h.withCtxs

theorem Keeps.beginShoot {s : State} {x : Shoot} (h : Keeps s₀ s) : Keeps s₀ (beginShoot s x) := h.mapTlbs.withFe.dropPages

theorem Ends.execShootdownBoundExpire {s : State} (h : Keeps s₀ s) : Ends s₀ (execShootdownBoundExpire s) := by
  unfold Machine.execShootdownBoundExpire
  dsimp only
  split
  · exact Ends.fault
  · exact Ends.ite Ends.fault (Ends.next h.withFe)

theorem Keeps.shootL1 {s : State} {x : Shoot} (h : Keeps s₀ s) : Keeps s₀ (shootL1 s x) :=
  h.foldl (fun _ _ h2 => (h2.foldl (fun _ _ h3 => h3.dropCopy)).closeWindows)

theorem Ends.execShootdownRemoval {s : State} (h : Keeps s₀ s) : Ends s₀ (execShootdownRemoval s) := by
  unfold Machine.execShootdownRemoval
  dsimp only
  split
  · exact Ends.fault
  · refine Ends.ite ?_ ?_
    · exact Ends.fault
    · refine Ends.ite ?_ ?_
      · exact Ends.fault
      · exact Ends.next
          (Keeps.completePkt
            (Keeps.postFaults
              (Keeps.withFaultsFe
                ((h.withUppers.mapTlbs.shootL1.foldl (fun _ _ h2 => h2.dropLine)).foldl (fun _ _ h2 => h2.failCmd)))))

theorem Keeps.abandonImage {s : State} {im : Image} {mine : ℕ → Bool} (h : Keeps s₀ s) :
    Keeps s₀ (abandonImage s im mine) := by
  unfold Machine.abandonImage
  dsimp only
  exact Keeps.foldl h
    (fun _ _ h2 =>
      (by
        split
        · exact h2
        · exact h2.ite (h2.foldl (fun _ _ h3 => h3.ite (h3.barAbandon.ite (by split; exacts [h3.barAbandon, h3]))))))

theorem Keeps.killLaunch {s : State} {number : ℕ} {status : ℕ} (h : Keeps s₀ s) :
    Keeps s₀ (killLaunch s number status) := by
  unfold Machine.killLaunch
  dsimp only
  exact Keeps.foldl
    (Keeps.foldl (by split; exacts [h.withRuns, h]) (fun _ _ h2 => h2.abandonImage)).withCoresRingsImages
    (fun _ _ h2 => h2.haltSpan)

theorem Keeps.stopMma {s : State} {g : ℕ} {half : Bool} {b : ℕ} (h : Keeps s₀ s) : Keeps s₀ (stopMma s g half b) := by
  unfold Machine.stopMma
  dsimp only
  split
  · exact h
  · exact h.putCtx

theorem Keeps.recSwap {s : State} {g : ℕ} {code : ℕ} (h : Keeps s₀ s) : Keeps s₀ (recSwap s g code) := h.record

theorem Keeps.beginSwap {s : State} {g : ℕ} {b : ℕ} {deck : Option (ℕ × ℕ)} (h : Keeps s₀ s) :
    Keeps s₀ (beginSwap s g b deck) :=
  (h.stopMma.foldl (fun _ _ h2 => h2.putSpan.writeBackOf)).putCore.recSwap

theorem Keeps.ageIn {s : State} {g : ℕ} {half : Bool} (h : Keeps s₀ s) : Keeps s₀ (ageIn s g half) :=
  (h.foldl (fun _ _ h2 => h2.putSpan)).putCore

theorem Keeps.freshCtx {s : State} {g : ℕ} {half : Bool} (h : Keeps s₀ s) : Keeps s₀ (freshCtx s g half) := h.withCtxs.ite h

theorem Ends.execSwapComplete {s : State} (h : Keeps s₀ s) : Ends s₀ (execSwapComplete s) := by
  unfold Machine.execSwapComplete
  dsimp only
  split
  · exact Ends.fault
  · refine Ends.ite ?_ ?_
    · exact Ends.fault
    · exact Ends.next (h.putCore.foldl (fun _ _ h2 => h2.putSpan)).ageIn.freshCtx.freshCtx.recSwap

end

/-! ### The operations of `Machine/Image` -/

section
variable {s₀ : State}

theorem Keeps.writeImage {s : State} {g : Nat} {half : Bool} {a lo hi : Nat} (h : Keeps s₀ s) :
    Keeps s₀ (writeImage s g half a lo hi) := by
  refine ⟨h.cur, fun hs => ?_⟩
  obtain ⟨hm, hl, hsp, hd⟩ := h.canonical hs
  exact ⟨memory_wf_spliceMem _ _ _ _ _ hm, keysRise_map _ (fun p => by split <;> rfl) hl, hsp, hd⟩

theorem Keeps.freeBank {s : State} {g : ℕ} {p : ℕ} (h : Keeps s₀ s) : Keeps s₀ (freeBank s g p) := h.putBank

/-- Spans, decks and loads leave. -/
theorem Keeps.filterOut {t : State} {p : Nat × Span → Bool} {q : Nat × Deck → Bool} {l : SMap Load} {c : SMap Ctx} (h : Keeps s₀ t) :
    Keeps s₀ { t with spans := t.spans.filter p, decks := t.decks.filter q, loads := l, ctxs := c } :=
  ⟨h.cur, fun hs => have ⟨hm, hl, hsp, hd⟩ := h.canonical hs; ⟨hm, hl, keysRise_filter _ hsp, keysRise_filter _ hd⟩⟩

theorem Keeps.clearCtx {s : State} {g : Nat} {half : Bool} (h : Keeps s₀ s) : Keeps s₀ (clearCtx s g half) := by
  unfold Machine.clearCtx
  exact Keeps.filterOut (Keeps.foldl (Keeps.foldl (Keeps.foldl h fun _ _ h1 => h1.delAgent)
    fun _ _ h1 => Keeps.foldl h1 fun _ _ h2 => h2.freeBank) fun _ _ h1 => h1.putDeck)

theorem Keeps.replayPend {s : State} {g : ℕ} {half : Bool} (h : Keeps s₀ s) : Keeps s₀ (replayPend s g half) :=
  h.foldl (fun _ _ h2 => h2.cancelPend.putSpan)

theorem Ends.execSpillComplete {s : State} (h : Keeps s₀ s) : Ends s₀ (execSpillComplete s) := by
  unfold Machine.execSpillComplete
  dsimp only
  split
  · refine Ends.ite ?_ ?_
    · exact Ends.fault
    · exact Ends.ite Ends.fault (Ends.next h.replayPend.writeImage.withNextIdImages.clearCtx.putCore)
  · exact Ends.fault

theorem Ends.execSpillFault {s : State} (h : Keeps s₀ s) : Ends s₀ (execSpillFault s) := by
  unfold Machine.execSpillFault
  dsimp only
  split
  · exact Ends.fault
  · refine Ends.ite ?_ ?_
    · exact Ends.fault
    · refine Ends.ite ?_ ?_
      · exact Ends.fault
      · refine Ends.ite ?_ ?_
        · exact Ends.next h.replayPend.writeImage.putCore
        · exact Ends.next
            (Keeps.putCore
              (Keeps.foldl
                (Keeps.clearCtx
                  (Keeps.foldl
                    (h.replayPend.writeImage.foldl (fun _ _ h2 => h2.record))
                    (fun _ _ h2 => h2.foldl (fun _ _ h3 => (by split; exacts [h3.barAbandon, h3])))))
                (fun _ _ h2 => h2.killLaunch)))

theorem Ends.execSpillResume {s : State} (h : Keeps s₀ s) : Ends s₀ (execSpillResume s) := by
  unfold Machine.execSpillResume
  dsimp only
  split
  · exact Ends.next h.putCore
  · exact Ends.fault

theorem Keeps.takeBank {s : State} {g : ℕ} {p : ℕ} {deck : ℕ} {m : BankMode} (h : Keeps s₀ s) :
    Keeps s₀ (takeBank s g p deck m) :=
  (h.foldl (fun _ _ h2 => h2.invalidate)).putBank

theorem Keeps.keyChange {s : State} {g : ℕ} {half : Bool} {key : ℕ} (h : Keeps s₀ s) :
    Keeps s₀ (keyChange s g half key) := h.ite h.dropLines.putCtx

theorem Keeps.restoreAgent {s : State} {newId : ℕ → ℕ} {p : ℕ × Agent} (h : Keeps s₀ s) :
    Keeps s₀ (restoreAgent s newId p) := h.putAgent

theorem Keeps.takeOut {s : State} {decks : List (ℕ × Deck)} (h : Keeps s₀ s) : Keeps s₀ (takeOut s decks) := h.withImages

theorem Keeps.restoreImage {s : State} {img : Image} {g : ℕ} {half : Bool} {launch : ℕ → ℕ} (h : Keeps s₀ s) :
    Keeps s₀ (restoreImage s img g half launch) := by
  unfold Machine.restoreImage
  dsimp only
  exact Keeps.ite
    (Keeps.foldl
      (Keeps.ageIn
        (Keeps.takeOut
          (Keeps.withNextIdLoads
            (Keeps.foldl
              (Keeps.putCtx
                (Keeps.foldl
                  (Keeps.foldl
                    (h.keyChange.foldl (fun _ _ h2 => (by split; exacts [h2.takeBank.putBank, h2])))
                    (fun _ _ h2 => h2.putDeck))
                  (fun _ _ h2 => h2.putSpan)))
              (fun _ _ h2 => h2.restoreAgent)))))
      (fun _ _ h2 => h2.putSpan))
    (Keeps.takeOut
      (Keeps.withNextIdLoads
        (Keeps.foldl
          (Keeps.putCtx
            (Keeps.foldl
              (Keeps.foldl
                (h.keyChange.foldl (fun _ _ h2 => (by split; exacts [h2.takeBank.putBank, h2])))
                (fun _ _ h2 => h2.putDeck))
              (fun _ _ h2 => h2.putSpan)))
          (fun _ _ h2 => h2.restoreAgent))))

end

/-! ### The operations of `Machine/Launch` -/

section
variable {s₀ : State}

theorem Keeps.rdVa {tr : State → ℕ → Xl} {s : State} {va : ℕ} {n : ℕ} (hk0 : ∀ x0 x1, Keeps s₀ x0 → Xl.Keeps s₀ (tr x0 x1)) (h1 : Keeps s₀ s) :
    Rd.Keeps s₀ (rdVa tr s va n) := by
  unfold Machine.rdVa
  dsimp only
  exact foldl_of Rd.Keeps.ok
    (fun _ _ h3 =>
      (by
        split
        · refine ite_of ?_ ?_
          · exact Rd.Keeps.fail
          · split
            · exact Rd.Keeps.wait (Keeps.ofXlWait (hk0 _ _ h1) ‹_›)
            · exact Rd.Keeps.fail
            · exact Rd.Keeps.ok
        · exact h3))

theorem Keeps.rdTable {tr : State → Nat → Xl} {s : State} {va limit n : Nat} (htr : ∀ t a, Keeps s₀ t → Xl.Keeps s₀ (tr t a))
    (h : Keeps s₀ s) : Table.Keeps s₀ (rdTable tr s va limit n) := by
  unfold Machine.rdTable
  refine ite_of .ok ?_
  split
  · exact .wait (Keeps.ofRdWait (Keeps.rdVa htr h) ‹_›)
  · exact .bad
  · refine ite_of .bad (ite_of .ok ?_)
    split
    · exact .wait (Keeps.ofRdWait (Keeps.rdVa htr h) ‹_›)
    · exact .bad
    · exact .ok

theorem Keeps.checkRecord {tr : State → ℕ → Xl} {s : State} {c : List ℕ} {key : ℕ} {root : ℕ} {number : ℕ} (hk0 : ∀ x0 x1, Keeps s₀ x0 → Xl.Keeps s₀ (tr x0 x1)) (h1 : Keeps s₀ s) :
    Checked.Keeps s₀ (checkRecord tr s c key root number) := by
  unfold Machine.checkRecord
  dsimp only
  refine ite_of ?_ ?_
  · exact Checked.Keeps.bad
  · split
    · exact Checked.Keeps.wait (Keeps.ofRdWait (Keeps.rdVa hk0 h1) ‹_›)
    · exact Checked.Keeps.bad
    · refine ite_of ?_ ?_
      · exact Checked.Keeps.bad
      · refine ite_of ?_ ?_
        · exact Checked.Keeps.bad
        · refine ite_of ?_ ?_
          · exact Checked.Keeps.bad
          · refine ite_of ?_ ?_
            · exact Checked.Keeps.bad
            · split
              · exact Checked.Keeps.wait (Keeps.ofRdWait (Keeps.rdVa hk0 h1) ‹_›)
              · exact Checked.Keeps.bad
              · refine ite_of ?_ ?_
                · exact Checked.Keeps.bad
                · split
                  · exact Checked.Keeps.bad
                  · split
                    · exact Checked.Keeps.wait (Keeps.ofTableWait (Keeps.rdTable hk0 h1) ‹_›)
                    · exact Checked.Keeps.bad
                    · split
                      · exact Checked.Keeps.wait (Keeps.ofTableWait (Keeps.rdTable hk0 h1) ‹_›)
                      · exact Checked.Keeps.bad
                      · refine ite_of ?_ ?_
                        · exact Checked.Keeps.bad
                        · refine ite_of ?_ ?_
                          · exact Checked.Keeps.bad
                          · split
                            · exact Checked.Keeps.bad
                            · exact Checked.Keeps.ok

theorem Keeps.recRejected {s : State} {reason : ℕ} {arg : ℕ} {key : ℕ} {number : ℕ} (h : Keeps s₀ s) :
    Keeps s₀ (recRejected s reason arg key number) := h.record

theorem Keeps.putRing {s : State} {p : ℕ} {r : Ring} (h : Keeps s₀ s) : Keeps s₀ (putRing s p r) := h.withRings

theorem Keeps.ringArrive {s : State} {p : ℕ} {x : RingRec} (h : Keeps s₀ s) : Keeps s₀ (ringArrive s p x) := h.putRing.withRings

theorem Keeps.pushRing {s : State} {p : ℕ} {l : Launch} {first : ℕ} {last : ℕ} {frame : Word64} {join : Word64} {clock : Clock} (h : Keeps s₀ s) :
    Keeps s₀ (pushRing s p l first last frame join clock) :=
  h.withNextIdLaunchesOrd.ringArrive.ite h.withNextIdLaunchesOrd.putRing

theorem Ends.execDelayedRingPush {s : State} (h : Keeps s₀ s) : Ends s₀ (execDelayedRingPush s) := by
  unfold Machine.execDelayedRingPush
  dsimp only
  split
  · exact Ends.fault
  · exact Ends.ite (Ends.next h.putRing.ringArrive) Ends.fault

theorem Keeps.beginPhase {s : State} {id : ℕ} {l : Launch} (h : Keeps s₀ s) : Keeps s₀ (beginPhase s id l) := h.withLaunches.ite h

theorem Keeps.makeResident {s : State} {id : ℕ} {l : Launch} {frame : Word64} {join : Word64} {d : ℕ} {g : ℕ} (h : Keeps s₀ s) :
    Keeps s₀ (makeResident s id l frame join d g) :=
  Keeps.withNextId
    (Keeps.putDeck
      ((h.keyChange.beginPhase.foldl (fun _ _ h2 => h2.takeBank)).putCore.foldl (fun _ _ h2 => h2.putSpan.putAgent)))

theorem Keeps.headNext {s : State} {p : ℕ} {x : RingRec} {next : ℕ} (h : Keeps s₀ s) : Keeps s₀ (headNext s p x next) := h.putRing

theorem Ends.withServed {s : State} {k : ℕ → RingRec → Launch → Res} (hk : ∀ x0 x1 x2, Ends s₀ (k x0 x1 x2)) :
    Ends s₀ (withServed s k) := by
  unfold Machine.withServed
  refine Ends.ite ?_ ?_
  · exact Ends.fault
  · split
    · exact Ends.fault
    · split
      · exact Ends.fault
      · exact hk _ _ _

theorem Ends.execDeckPlace {s : State} (h : Keeps s₀ s) : Ends s₀ (execDeckPlace s) := by
  unfold Machine.execDeckPlace
  dsimp only
  exact Ends.withServed
    (fun _ _ _ => Ends.ite Ends.fault (by split; exacts [Ends.fault, Ends.next h.putCore.makeResident.headNext]))

theorem Keeps.startDeck {s : State} {k : ℕ} {d : Deck} (h : Keeps s₀ s) : Keeps s₀ (startDeck s k d) :=
  (h.dropLines.foldl (fun _ _ h2 => h2.orderFence)).putDeck

theorem Ends.execDeckStart {s : State} (h : Keeps s₀ s) : Ends s₀ (execDeckStart s) := by
  unfold Machine.execDeckStart
  dsimp only
  split
  · exact Ends.fault
  · exact Ends.ite Ends.fault (Ends.next (h.foldl (fun _ _ h2 => h2.startDeck)))

theorem Ends.execGangReserve {s : State} (h : Keeps s₀ s) : Ends s₀ (execGangReserve s) := by
  unfold Machine.execGangReserve
  dsimp only
  exact Ends.withServed
    (fun _ _ _ =>
      Ends.ite Ends.fault (by split; exacts [Ends.ite Ends.fault (Ends.next h.putRing), Ends.next h.putRing]))

theorem Ends.execGangCommit {s : State} (h : Keeps s₀ s) : Ends s₀ (execGangCommit s) := by
  unfold Machine.execGangCommit
  dsimp only
  exact Ends.withServed
    (fun _ _ _ =>
      Ends.ite Ends.fault (Ends.next (h.headNext.foldl (fun _ _ h2 => (by split; exacts [h2.makeResident, h2])))))

theorem Keeps.noteJoinFault {s : State} {launch : ℕ} {va : ℕ} (h : Keeps s₀ s) : Keeps s₀ (noteJoinFault s launch va) := by
  unfold Machine.noteJoinFault
  dsimp only
  split
  · exact h.noteStatus
  · exact h.noteStatus.withRuns

theorem Keeps.dropDeck {s : State} {k : ℕ} {d : Deck} (h : Keeps s₀ s) : Keeps s₀ (dropDeck s k d) :=
  Keeps.dropFails
    (Keeps.delDeck
      (Keeps.delAgent
        (Keeps.handOver
          (Keeps.ite
            (((h.noteStatus.ite h).foldl (fun _ _ h2 => h2.freeBank)).ite (h.noteStatus.ite h)).handOver
            (((h.noteStatus.ite h).foldl (fun _ _ h2 => h2.freeBank)).ite (h.noteStatus.ite h))))))

theorem Keeps.joinDecrement {s : State} {k : ℕ} {d : Deck} {va : ℕ} {pa : ℕ} (h : Keeps s₀ s) :
    Keeps s₀ (joinDecrement s k d va pa).1 :=
  h.acquireFrom.publish.addRelease.orderedBytes

theorem Keeps.pushSuccessor {s : State} {k : Nat} {d : Deck} {l : Launch} {succ : Nat} (h : Keeps s₀ s) :
    Keeps s₀ (pushSuccessor s k d l succ) := by
  unfold Machine.pushSuccessor
  dsimp only
  have hr : Rd.Keeps s₀ (if succ % 32 = 0 then
      Machine.rdVa (fun t va => Machine.dieXlate t (d.core / 32) l.root l.key va 0 (.front k)) s succ 32 else Rd.fail) := by
    split
    · exact Keeps.rdVa (fun _ _ h1 => h1.dieXlate) h
    · exact .fail
  split
  · exact (Keeps.ofRdWait hr ‹_›).putDeck
  · exact h.dropDeck.recRejected
  · split
    · next t ht => exact (Keeps.ofCheckedWait (Keeps.checkRecord (fun _ _ h1 => by exact h1.dieXlate) h) ht).putDeck
    · exact h.dropDeck.recRejected
    · exact h.pushRing.dropDeck

theorem Ends.execDeckRetire {s : State} (h : Keeps s₀ s) : Ends s₀ (execDeckRetire s) := by
  unfold Machine.execDeckRetire
  dsimp only
  split
  · exact Ends.fault
  · split
    · exact Ends.fault
    · refine Ends.ite ?_ ?_
      · exact Ends.fault
      · refine Ends.ite ?_ ?_
        · exact Ends.next (h.foldl (fun _ _ h2 => h2.writeBack))
        · refine Ends.ite ?_ ?_
          · exact Ends.fault
          · split
            · exact Ends.next h.pushSuccessor
            · refine Ends.ite ?_ ?_
              · exact Ends.next h.dropDeck
              · refine Ends.ite ?_ ?_
                · exact Ends.next h.dropDeck.noteJoinFault
                · split
                  · exact Ends.next (Keeps.ofXlWait h.dieXlate ‹_›)
                  · exact Ends.next h.dropDeck.noteJoinFault
                  · refine Ends.ite ?_ ?_
                    · exact Ends.next h.dropDeck.noteJoinFault
                    · refine Ends.ite ?_ ?_
                      · exact Ends.next h.joinDecrement.dropDeck
                      · exact Ends.next h.joinDecrement.pushSuccessor

theorem Keeps.clearNets {s : State} {key : ℕ} (h : Keeps s₀ s) : Keeps s₀ (clearNets s key) := h.ite h.withNets

theorem Keeps.resumeDone {s : State} {i : ℕ} {number : ℕ} {status : ℕ} {addr : ℕ} (h : Keeps s₀ s) :
    Keeps s₀ (resumeDone s i number status addr) := by
  unfold Machine.resumeDone
  dsimp only
  split
  · exact h
  · exact h.withFe.completePkt.ite h.withFe

theorem Ends.execLaunchComplete {s : State} (h : Keeps s₀ s) : Ends s₀ (execLaunchComplete s) := by
  unfold Machine.execLaunchComplete
  dsimp only
  split
  · exact Ends.fault
  · refine Ends.ite ?_ ?_
    · exact Ends.fault
    · exact Ends.next
        (by
          split
          · exact (h.foldl (fun _ _ h2 => h2.dropLine)).handOver.delAgent.withRuns.clearNets
          · split
            · exact (h.foldl (fun _ _ h2 => h2.dropLine)).handOver.delAgent.withRuns.clearNets
            · exact Keeps.ite
                (h.foldl (fun _ _ h2 => h2.dropLine)).handOver.delAgent.withRuns.clearNets.resumeDone
                (h.foldl (fun _ _ h2 => h2.dropLine)).handOver.delAgent.withRuns.clearNets.completePkt)

theorem Keeps.loadLaunches {s : State} {a : Nat} (h : Keeps s₀ s) : OptKeeps s₀ (loadLaunches s a) := by
  unfold Machine.loadLaunches
  refine foldl_of (P := OptKeeps s₀) (OptKeeps.some h) fun x k hx u hu => ?_
  obtain ⟨t, rfl, ht⟩ := Option.bind_eq_some_iff.1 hu
  split at ht
  · exact hx u (ht ▸ rfl)
  · obtain ⟨l, -, rfl⟩ := Option.map_eq_some_iff.1 ht
    exact (hx t rfl).same rfl

theorem Keeps.resumeLaunches {s : State} {i : ℕ} {a : ℕ} {img : Image} (h : Keeps s₀ s) :
    Keeps s₀ (resumeLaunches s i a img).1 :=
  h.withNextIdLaunchesRuns

theorem Ends.execResumePlacement {s : State} (h : Keeps s₀ s) : Ends s₀ (execResumePlacement s) := by
  unfold Machine.execResumePlacement
  dsimp only
  split
  · exact Ends.fault
  · refine Ends.ite Ends.fault ?_
    split
    · exact Ends.next h.recRejected.completePkt
    · next t ht =>
      have ht' : Keeps s₀ t := Keeps.ofSome (ite_of (P := OptKeeps s₀) OptKeeps.none h.loadLaunches) ht
      split
      · exact Ends.fault
      · exact Ends.ite Ends.fault (Ends.next (Keeps.ite ht'.resumeLaunches.restoreImage.withFe.completePkt
          ht'.resumeLaunches.restoreImage.withFe))

theorem Ends.execShadowSwap {s : State} (h : Keeps s₀ s) : Ends s₀ (execShadowSwap s) := by
  unfold Machine.execShadowSwap
  dsimp only
  exact Ends.ite Ends.fault (Ends.next h.beginSwap)

theorem Ends.execPreloadComplete {s : State} (h : Keeps s₀ s) : Ends s₀ (execPreloadComplete s) := by
  unfold Machine.execPreloadComplete
  dsimp only
  exact Ends.ite Ends.fault (Ends.next h.restoreImage.putCore)

end

/-! ### The operations of `Machine/Fabric` -/

section
variable {s₀ : State}

theorem Keeps.fabRead {s : State} {die root key : Nat} {who : Who} {va n : Nat} (h : Keeps s₀ s) :
    FabRd.Keeps s₀ (fabRead s die root key who va n) := by
  unfold Machine.fabRead
  refine ite_of (.ok h) (foldl_of (FabRd.Keeps.ok h) fun r a hr => ?_)
  split
  · have ht := Keeps.ofFabRdOk hr rfl
    refine ite_of .fail ?_
    split
    · exact .wait (Keeps.ofXlWait ht.dieXlate ‹_›)
    · exact .fail
    · exact ite_of (.wait h) (.ok (Keeps.foldl ht fun _ _ h1 => h1.homeTouch))
  · exact hr

theorem Keeps.diePut {s : State} {w : Writer} {pa : ℕ} {bytes : List Byte} (h : Keeps s₀ s) :
    Keeps s₀ (diePut s w pa bytes) :=
  h.orderedBytes.withFe.ite h.orderedBytes

theorem Keeps.dieWriteNat {s : State} {die : ℕ} {pa : ℕ} {n : ℕ} {x : ℕ} (h : Keeps s₀ s) :
    Keeps s₀ (dieWriteNat s die pa n x) := h.orderedBytes

theorem Keeps.fabPut {s : State} {die : ℕ} {w : Writer} {readers : ℕ} {number : ℕ} {pa : ℕ} {bar : Bool} {bytes : List Byte} (h : Keeps s₀ s) :
    FabWr.Keeps s₀ (fabPut s die w readers number pa bar bytes) := by
  unfold Machine.fabPut
  dsimp only
  refine ite_of ?_ ?_
  · exact FabWr.Keeps.wait h
  · refine ite_of ?_ ?_
    · refine ite_of ?_ ?_
      · exact FabWr.Keeps.fail h
      · refine ite_of ?_ ?_
        · exact FabWr.Keeps.ok h.diePut.putHome
        · exact ite_of (FabWr.Keeps.fail h) (ite_of (FabWr.Keeps.wait h) (FabWr.Keeps.ok h.countedFill))
    · exact ite_of (FabWr.Keeps.fail h) (FabWr.Keeps.ok h.diePut)

theorem Keeps.fabWrite {s : State} {die root key : Nat} {who : Who} {va : Nat} {bytes : List Byte} (h : Keeps s₀ s) :
    FabWr.Keeps s₀ (fabWrite s die root key who va bytes) := by
  unfold Machine.fabWrite
  dsimp only
  have hx : ∀ a, Xl.Keeps s₀ (if inLocal a ∨ inQuad a then Xl.fail else Machine.dieXlate s die root key a 1 who) :=
    fun a => ite_of .fail h.dieXlate
  split
  · next t ht =>
    refine .wait (OptKeeps.findSome (fun c => ?_) t ht)
    split
    · exact OptKeeps.some (Keeps.ofXlWait (hx _) ‹_›)
    · split
      · exact OptKeeps.some h
      · exact OptKeeps.none
    · exact OptKeeps.none
  · refine foldl_of (FabWr.Keeps.ok h) fun r c hr => ?_
    split
    · split
      · exact Keeps.fabPut (Keeps.ofFabWrOk hr rfl)
      · exact .fail (Keeps.ofFabWrOk hr rfl)
    · exact hr

theorem Keeps.fabWaits {s : State} {die : ℕ} {root : ℕ} {key : ℕ} {who : Who} {rs : List (ℕ × ℕ × ℕ)} (h : Keeps s₀ s) :
    OptKeeps s₀ (fabWaits s die root key who rs) := by
  unfold Machine.fabWaits
  dsimp only
  exact OptKeeps.findSome
    (fun _ =>
      OptKeeps.findSome
        (fun _ =>
          ite_of OptKeeps.none
            (by
              split
              · exact OptKeeps.some (Keeps.ofXlWait h.dieXlate ‹_›)
              · exact ite_of (OptKeeps.some h) OptKeeps.none
              · exact OptKeeps.none)))

theorem Keeps.groupOpen {s : State} {g : Group} (h : Keeps s₀ s) : Keeps s₀ (groupOpen s g).1 := by
  unfold Machine.groupOpen
  exact h.withFresh.iteFst h

theorem Keeps.raiseCount {s : State} {g : Group} {off : ℕ} {n : ℕ} (h : Keeps s₀ s) : Keeps s₀ (raiseCount s g off n) := h.homeWriteNat

theorem Keeps.raiseDrops {s : State} {g : Group} {n : ℕ} (h : Keeps s₀ s) : Keeps s₀ (raiseDrops s g n) := h.raiseCount

theorem Keeps.setGroupState {s : State} {g : Group} {st : ℕ} (h : Keeps s₀ s) : Keeps s₀ (setGroupState s g st) := h.homeWriteNat

theorem Keeps.residAt {s : State} {die root key : Nat} {who : Who} {va : Nat} {ks : List (Nat × Nat × Nat)} {rd : Bool}
    (h : Keeps s₀ s) : ResAt.Keeps s₀ (residAt s die root key who va ks rd) := by
  unfold Machine.residAt
  dsimp only
  split
  · next t ht =>
    refine .wait (OptKeeps.findSomeMap (fun a => ?_) t ht)
    split
    · exact OptKeeps.some (Keeps.ofXlWait h.dieXlate ‹_›)
    · exact OptKeeps.none
  · refine ite_of .fail (ite_of .bad ?_)
    split
    · exact ite_of .bad (.ok h)
    · exact .ok h.withFab

theorem Keeps.putResid {s : State} {o : ResObj} (h : Keeps s₀ s) : Keeps s₀ (putResid s o) := h.withFab

theorem Keeps.freeTile {s : State} (h : Keeps s₀ s) : Keeps s₀ (freeTile s).1 := h.withFresh

theorem Keeps.residTile {s : State} {o : ResObj} {k : ℕ × ℕ × ℕ} (h : Keeps s₀ s) : Keeps s₀ (residTile s o k).1 := by
  unfold Machine.residTile
  split
  · exact h
  · exact h.freeTile
  · exact h.freeTile.iteFst h

theorem Keeps.launchPacket {s : State} {i : ℕ} {p : FPkt} {avoid : ℕ} (h : Keeps s₀ s) :
    Keeps s₀ (launchPacket s i p avoid) := h.withFreshFab

theorem Keeps.newSend {s : State} {p : FPkt} {bytes : List Byte} {entry : Option ℕ} (h : Keeps s₀ s) :
    Keeps s₀ (newSend s p bytes entry).1 :=
  h.withNextIdFab.foldl (fun _ _ h2 => h2.launchPacket)

theorem Keeps.recNoPath {s : State} {die : ℕ} {pkg : ℕ} {peer : ℕ} (h : Keeps s₀ s) :
    Keeps s₀ (recNoPath s die pkg peer) := h.record

theorem Keeps.removePath {s : State} {die : ℕ} {pkg : ℕ} {peer : ℕ} {e : ℕ} (h : Keeps s₀ s) :
    Keeps s₀ (removePath s die pkg peer e) :=
  (h.withFab.recNoPath.ite h.withFab).foldl (fun _ _ h2 => h2.launchPacket)

theorem Keeps.delChunk {s : State} {die : ℕ} {handle : ℕ} {t : ℕ} {tag : ℕ} (h : Keeps s₀ s) :
    Keeps s₀ (delChunk s die handle t tag) := h.withFab

theorem Keeps.openChunk {s : State} {die : ℕ} {g : Group} {t : ℕ} {tag : ℕ} (h : Keeps s₀ s) :
    OptKeepsFst s₀ (openChunk s die g t tag) := by
  unfold Machine.openChunk
  dsimp only
  split
  · exact OptKeepsFst.some h
  · exact ite_of OptKeepsFst.none (OptKeepsFst.some h.withNextIdFab)

end

/-! ### The operations of `Machine/Collective` -/

section
variable {s₀ : State}

theorem Keeps.joinForm {s : State} {u : ℕ} {f : CollForm} (h : Keeps s₀ s) : Keeps s₀ (joinForm s u f).1 := h.publish

theorem Keeps.collJoin {s : State} {u : ℕ} {sp : Span} {e : Cmd} (h : Keeps s₀ s) :
    CollRes.Keeps s₀ (collJoin s u sp e) := by
  unfold Machine.collJoin
  dsimp only
  split
  · exact CollRes.Keeps.bad
  · split
    · refine ite_of ?_ ?_
      · exact CollRes.Keeps.bad
      · refine ite_of ?_ ?_
        · exact CollRes.Keeps.wait
        · exact CollRes.Keeps.ok h.writeBackOf.joinForm.putDeck.putSpan.collEnter
    · split
      · exact CollRes.Keeps.bad
      · refine ite_of ?_ ?_
        · exact CollRes.Keeps.wait
        · exact CollRes.Keeps.ok h.writeBackOf.joinForm.putCtx.putDeck.putSpan.collEnter

theorem Ends.collOp {op : ℕ} {a : BitVec 6} {slot : BitVec 4} {c : BitVec 6} {s : State} (h : Keeps s₀ s) :
    Ends s₀ (collOp op a slot c s) := by
  unfold Machine.collOp
  dsimp only
  exact Ends.withLaunch
    (fun _ _ =>
      Ends.needS h
        (Ends.ite (Ends.trapS h)
          (by
            split
            · exact Ends.next (Keeps.ofBarFindWait h.barFinds ‹_›)
            · split
              · exact Ends.trapS h
              · refine Ends.ite ?_ ?_
                · exact Ends.bufferAll h (fun _ => Ends.commitS h.undoCmd)
                · split
                  · exact Ends.trapS h
                  · exact Ends.stall h
                  · split
                    · exact Ends.fault
                    · exact Ends.commitS (Keeps.ofCollResOk h.collJoin ‹_›).undoCmd)))

theorem Ends.execCollRs {a : BitVec 6} {slot : BitVec 4} {c : BitVec 6} {s : State} (h : Keeps s₀ s) :
    Ends s₀ (execCollRs a slot c s) := Ends.collOp h

theorem Ends.execCollAg {a : BitVec 6} {slot : BitVec 4} {c : BitVec 6} {s : State} (h : Keeps s₀ s) :
    Ends s₀ (execCollAg a slot c s) := Ends.collOp h

theorem Ends.execCollAr {a : BitVec 6} {slot : BitVec 4} {c : BitVec 6} {s : State} (h : Keeps s₀ s) :
    Ends s₀ (execCollAr a slot c s) := Ends.collOp h

theorem Ends.execCollBc {a : BitVec 6} {slot : BitVec 4} {c : BitVec 6} {s : State} (h : Keeps s₀ s) :
    Ends s₀ (execCollBc a slot c s) := Ends.collOp h

theorem Keeps.putEntry {s : State} {e : Entry} (h : Keeps s₀ s) : Keeps s₀ (putEntry s e) := h.withFab

theorem Keeps.endCmd {s : State} {seq : ℕ} (h : Keeps s₀ s) : Keeps s₀ (endCmd s seq) := by
  unfold Machine.endCmd
  split
  · exact h.cmdDone
  · exact h

theorem Keeps.landEntry {s : State} {e : Entry} {poison : Bool} (h : Keeps s₀ s) : Keeps s₀ (landEntry s e poison) := by
  unfold Machine.landEntry
  dsimp only
  split
  · exact h
  · exact h.withNextIdLands

theorem Keeps.dropSends {s : State} {ids : List ℕ} (h : Keeps s₀ s) : Keeps s₀ (dropSends s ids) := h.withFab

theorem Keeps.failEntry {s : State} {e : Entry} (h : Keeps s₀ s) : Keeps s₀ (failEntry s e) :=
  (h.ite h.landEntry).dropSends.delChunk.withFab.dropFails.endCmd

theorem Keeps.settleEntry {s : State} {e : Entry} (h : Keeps s₀ s) : Keeps s₀ (settleEntry s e) :=
  (h.landEntry.ite h).putEntry.withFab.endCmd.ite (h.landEntry.ite h).putEntry

theorem Keeps.sendTo {s : State} {e : Entry} {rank : ℕ} {kind : ℕ} {code : ℕ} {bytes : List Byte} (h : Keeps s₀ s) :
    Keeps s₀ (sendTo s e rank kind code bytes).1 := h.newSend

theorem Keeps.sendAll {s : State} {e : Entry} {ranks : List ℕ} {kind : ℕ} {code : ℕ} {bytes : List Byte} (h : Keeps s₀ s) :
    Keeps s₀ (sendAll s e ranks kind code bytes).1 :=
  h.foldlPair (fun _ _ h2 => h2.sendTo)

theorem Ends.execCollEntryStart {s : State} (h : Keeps s₀ s) : Ends s₀ (execCollEntryStart s) := by
  unfold Machine.execCollEntryStart
  dsimp only
  refine Ends.ite ?_ ?_
  · split
    · exact Ends.fault
    · exact Ends.ite Ends.fault (Ends.next h.collEnter)
  · exact Ends.withCmd
      (fun _ _ =>
        Ends.ite Ends.fault
          (Ends.ite
            (Ends.next h.nextUse.updCmd.drainSlots.failEntry.haltWith)
            (Ends.ite
              (Ends.next h.nextUse.updCmd.drainSlots.failEntry.haltWith)
              (by
                split
                · exact Ends.next h.nextUse.updCmd.drainSlots.failEntry
                · refine Ends.ite ?_ ?_
                  · exact Ends.next h.groupOpen.nextUse.updCmd.drainSlots.failEntry
                  · refine Ends.ite ?_ ?_
                    · exact Ends.fault
                    · split
                      · exact Ends.next (Keeps.ofFabRdWait h.groupOpen.fabRead ‹_›)
                      · exact Ends.next h.groupOpen.nextUse.updCmd.drainSlots.failEntry
                      · refine Ends.ite ?_ ?_
                        · exact Ends.next
                            (Keeps.ofFabRdOk h.groupOpen.fabRead ‹_›).nextUse.updCmd.drainSlots.failEntry.haltWith
                        · split
                          · exact Ends.fault
                          · refine Ends.ite ?_ ?_
                            · exact Ends.next
                                (Keeps.putEntry
                                  (Keeps.sendAll
                                    (Keeps.drainSlots
                                      (Keeps.updCmd
                                        (Keeps.nextUse
                                          (Keeps.ofSomeFst (Keeps.ofFabRdOk h.groupOpen.fabRead ‹_›).openChunk ‹_›))))))
                            · refine Ends.ite ?_ ?_
                              · exact Ends.next
                                  (Keeps.putEntry
                                    (Keeps.sendAll
                                      (Keeps.delChunk
                                        (Keeps.drainSlots
                                          (Keeps.updCmd
                                            (Keeps.nextUse
                                              (Keeps.ofSomeFst
                                                (Keeps.ofFabRdOk h.groupOpen.fabRead ‹_›).openChunk ‹_›)))))))
                              · exact Ends.next
                                  (Keeps.putEntry
                                    (Keeps.drainSlots
                                      (Keeps.updCmd
                                        (Keeps.nextUse
                                          (Keeps.ofSomeFst (Keeps.ofFabRdOk h.groupOpen.fabRead ‹_›).openChunk ‹_›)))))))))

theorem Keeps.entryPut {s : State} {e : Entry} {readers : ℕ} {va : ℕ} {bytes : List Byte} (h : Keeps s₀ s) :
    FabWr.Keeps s₀ (entryPut s e readers va bytes) := by
  unfold Machine.entryPut
  dsimp only
  refine ite_of ?_ ?_
  · exact FabWr.Keeps.fail h
  · split
    · exact FabWr.Keeps.wait (Keeps.ofXlWait h.dieXlate ‹_›)
    · exact FabWr.Keeps.fail h
    · refine ite_of ?_ ?_
      · exact FabWr.Keeps.wait h.invalidate
      · refine ite_of ?_ ?_
        · exact h.invalidate.fabPut
        · exact ite_of (FabWr.Keeps.fail h.invalidate) (FabWr.Keeps.ok h.invalidate.newReq)

theorem Keeps.entryWrite {s : State} {e : Entry} {readers va pos : Nat} {bytes : List Byte} (h : Keeps s₀ s) :
    FabWr.Keeps s₀ (entryWrite s e readers va pos bytes).1 := by
  unfold Machine.entryWrite
  refine foldl_of (P := fun r : FabWr × Nat => FabWr.Keeps s₀ r.1) (.ok h) fun r i hr => ?_
  split
  · next t ht =>
    have hp := Keeps.entryPut (e := e) (readers := readers) (va := va + 128 * i)
      (bytes := (bytes.drop (128 * i)).take 128) (Keeps.ofFabWrOk hr ht)
    split
    · exact .ok (Keeps.ofFabWrOk hp ‹_›)
    · exact hp
  · exact hr

/-- What a write of an entry's tile leaves, with the place that it has reached. -/
theorem Keeps.entryWritten {s : State} {e : Entry} {readers va pos n : Nat} {bytes : List Byte} {x : FabWr} (h : Keeps s₀ s)
    (he : Machine.entryWrite s e readers va pos bytes = (x, n)) : FabWr.Keeps s₀ x := by
  have := h.entryWrite (e := e) (readers := readers) (va := va) (pos := pos) (bytes := bytes)
  rwa [he] at this

theorem Keeps.writeEntry {s : State} {e : Entry} {tile : List Byte} (h : Keeps s₀ s) : Keeps s₀ (writeEntry s e tile) := by
  unfold Machine.writeEntry
  split
  · next t n he => exact Keeps.settleEntry (Keeps.landEntry (Keeps.ofFabWrOk (h.entryWritten he) rfl))
  · next t n he => exact Keeps.putEntry (Keeps.ofFabWrWait (h.entryWritten he) rfl)
  · next t n he => exact Keeps.failEntry (Keeps.ofFabWrFail (h.entryWritten he) rfl)

theorem Ends.sweepEntry {s : State} {e : Entry} {g : Group} {c : Chunk} (h : Keeps s₀ s) :
    Ends s₀ (sweepEntry s e g c) := by
  unfold Machine.sweepEntry
  dsimp only
  refine Ends.ite ?_ ?_
  · exact Ends.fault
  · refine Ends.ite ?_ ?_
    · refine Ends.ite ?_ ?_
      · refine Ends.ite ?_ ?_
        · exact Ends.next (h.ite h.raiseDrops).delChunk.withFab.landEntry.settleEntry
        · exact Ends.next ((h.ite h.raiseDrops).delChunk.sendAll.iteFst (h.ite h.raiseDrops).delChunk).writeEntry
      · exact Ends.next ((h.ite h.raiseDrops).delChunk.ite (h.ite h.raiseDrops).delChunk.raiseCount).sendTo.putEntry
    · split
      · exact Ends.next (Keeps.ofResAtWait h.residAt ‹_›)
      · exact Ends.next h.failEntry
      · exact Ends.next h.failEntry.haltWith
      · refine Ends.ite ?_ ?_
        · refine Ends.ite ?_ ?_
          · exact Ends.next
              (Keeps.settleEntry
                (Keeps.landEntry
                  (Keeps.withFab
                    (Keeps.putResid
                      (Keeps.delChunk
                        (Keeps.ite
                          (Keeps.ofResAtOk h.residAt ‹_›).residTile
                          (Keeps.ofResAtOk h.residAt ‹_›).residTile.raiseDrops))))))
          · exact Ends.next
              (Keeps.writeEntry
                (Keeps.iteFst
                  (Keeps.sendAll
                    (Keeps.putResid
                      (Keeps.delChunk
                        (Keeps.ite
                          (Keeps.ofResAtOk h.residAt ‹_›).residTile
                          (Keeps.ofResAtOk h.residAt ‹_›).residTile.raiseDrops))))
                  (Keeps.putResid
                    (Keeps.delChunk
                      (Keeps.ite
                        (Keeps.ofResAtOk h.residAt ‹_›).residTile
                        (Keeps.ofResAtOk h.residAt ‹_›).residTile.raiseDrops)))))
        · exact Ends.next
            (Keeps.putEntry
              (Keeps.sendTo
                (Keeps.ite
                  (Keeps.putResid
                    (Keeps.delChunk
                      (Keeps.ite
                        (Keeps.ofResAtOk h.residAt ‹_›).residTile
                        (Keeps.ofResAtOk h.residAt ‹_›).residTile.raiseDrops)))
                  (Keeps.raiseCount
                    (Keeps.putResid
                      (Keeps.delChunk
                        (Keeps.ite
                          (Keeps.ofResAtOk h.residAt ‹_›).residTile
                          (Keeps.ofResAtOk h.residAt ‹_›).residTile.raiseDrops)))))))

theorem Keeps.dropPart {s : State} {e : Entry} {part : ℕ} (h : Keeps s₀ s) : Keeps s₀ (dropPart s e part) := h.withFab

theorem Keeps.gatherTile {s : State} {e : Entry} {part : Nat} {bytes : List Byte} (h : Keeps s₀ s) :
    Keeps s₀ (gatherTile s e part bytes) := by
  unfold Machine.gatherTile
  split
  · next t n he =>
    have ht : Keeps s₀ t := Keeps.ofFabWrOk (h.entryWritten he) rfl
    exact ht.dropPart.delChunk.landEntry.settleEntry.ite ht.dropPart.putEntry
  · next t n he => exact Keeps.putEntry (Keeps.ofFabWrWait (h.entryWritten he) rfl)
  · next t n he => exact Keeps.failEntry (Keeps.ofFabWrFail (h.entryWritten he) rfl)

theorem Ends.execChunkSweep {s : State} (h : Keeps s₀ s) : Ends s₀ (execChunkSweep s) := by
  unfold Machine.execChunkSweep
  dsimp only
  split
  · exact Ends.fault
  · refine Ends.ite ?_ ?_
    · exact Ends.fault
    · split
      · exact Ends.ite Ends.fault (Ends.next h.writeEntry)
      · split
        · exact Ends.fault
        · refine Ends.ite ?_ ?_
          · split
            · exact Ends.fault
            · exact Ends.next h.gatherTile
          · refine Ends.ite ?_ ?_
            · split
              · exact Ends.fault
              · exact Ends.next h.delChunk.sendAll.writeEntry
            · refine Ends.ite ?_ ?_
              · exact Ends.fault
              · split
                · exact Ends.fault
                · exact Ends.sweepEntry h

theorem Keeps.acceptChunk {s : State} {p : FPkt} {g : Group} (h : Keeps s₀ s) : Accept.Keeps s₀ (acceptChunk s p g) := by
  unfold Machine.acceptChunk
  dsimp only
  split
  · exact Accept.Keeps.trim
  · refine ite_of ?_ ?_
    · exact Accept.Keeps.drop h.raiseDrops
    · exact ite_of Accept.Keeps.trim (Accept.Keeps.ok (Keeps.ofSomeFst h.openChunk ‹_›).withFab)

theorem Keeps.acceptRaw {s : State} {p : FPkt} {g : Group} (h : Keeps s₀ s) : Accept.Keeps s₀ (acceptRaw s p g) := by
  unfold Machine.acceptRaw
  dsimp only
  split
  · exact ite_of (Accept.Keeps.drop h.raiseDrops) (ite_of Accept.Keeps.trim (Accept.Keeps.ok h.withFab))
  · exact ite_of Accept.Keeps.trim (Accept.Keeps.ok h.withFab)

theorem Keeps.acceptPacket {s : State} {id : ℕ} {p : FPkt} (h : Keeps s₀ s) : Accept.Keeps s₀ (acceptPacket s id p) := by
  unfold Machine.acceptPacket
  dsimp only
  split
  · exact Accept.Keeps.drop h.record
  · refine ite_of ?_ ?_
    · exact Accept.Keeps.drop h.groupOpen
    · refine ite_of ?_ ?_
      · exact Accept.Keeps.drop h.groupOpen.raiseDrops
      · split
        · exact Accept.Keeps.drop h.groupOpen.raiseDrops
        · split
          · exact Accept.Keeps.wait (Keeps.ofFabRdWait h.groupOpen.fabRead ‹_›)
          · exact Accept.Keeps.drop h.groupOpen.raiseDrops
          · refine ite_of ?_ ?_
            · exact Accept.Keeps.drop (Keeps.ofFabRdOk h.groupOpen.fabRead ‹_›).raiseDrops
            · refine ite_of ?_ ?_
              · exact (Keeps.ofFabRdOk h.groupOpen.fabRead ‹_›).acceptRaw
              · exact (Keeps.ofFabRdOk h.groupOpen.fabRead ‹_›).acceptChunk

theorem Keeps.putPkt {s : State} {i : ℕ} {p : FPkt} (h : Keeps s₀ s) : Keeps s₀ (putPkt s i p) := h.withFab

theorem Ends.execPacketReceive {s : State} (h : Keeps s₀ s) : Ends s₀ (execPacketReceive s) := by
  unfold Machine.execPacketReceive
  dsimp only
  refine Ends.ite ?_ ?_
  · refine Ends.ite ?_ ?_
    · exact Ends.fault
    · refine Ends.ite ?_ ?_
      · exact Ends.next h
      · split
        · exact Ends.next (Keeps.ofAcceptOk h.acceptPacket ‹_›).withFab
        · exact Ends.next (Keeps.ofAcceptDrop h.acceptPacket ‹_›)
        · exact Ends.next h
        · exact Ends.next (Keeps.ofAcceptWait h.acceptPacket ‹_›)
  · split
    · exact Ends.fault
    · refine Ends.ite ?_ ?_
      · exact Ends.next h
      · refine Ends.ite ?_ ?_
        · exact Ends.fault
        · refine Ends.ite ?_ ?_
          · exact Ends.next h.putPkt
          · refine Ends.ite ?_ ?_
            · exact Ends.fault
            · split
              · exact Ends.next (Keeps.ofAcceptOk h.acceptPacket ‹_›).putPkt
              · exact Ends.next (Keeps.ofAcceptDrop h.acceptPacket ‹_›).putPkt
              · exact Ends.next h.putPkt
              · exact Ends.next (Keeps.ofAcceptWait h.acceptPacket ‹_›)

theorem Ends.execPacketResend {s : State} (h : Keeps s₀ s) : Ends s₀ (execPacketResend s) := by
  unfold Machine.execPacketResend
  dsimp only
  split
  · exact Ends.fault
  · exact Ends.ite Ends.fault (Ends.ite (Ends.next h.removePath) (Ends.next h.withFab.launchPacket))

theorem Ends.execNegativeAcknowledgement {s : State} (h : Keeps s₀ s) : Ends s₀ (execNegativeAcknowledgement s) := by
  unfold Machine.execNegativeAcknowledgement
  split
  · exact Ends.fault
  · exact Ends.ite Ends.fault (Ends.next h.launchPacket)

theorem Ends.execSendAcknowledged {s : State} (h : Keeps s₀ s) : Ends s₀ (execSendAcknowledged s) := by
  unfold Machine.execSendAcknowledged
  dsimp only
  split
  · exact Ends.fault
  · refine Ends.ite ?_ ?_
    · exact Ends.fault
    · split
      · exact Ends.next h.dropSends
      · exact Ends.next h.dropSends.settleEntry

theorem Ends.execLossOfSignal {s : State} (h : Keeps s₀ s) : Ends s₀ (execLossOfSignal s) := by
  unfold Machine.execLossOfSignal
  dsimp only
  refine Ends.ite ?_ ?_
  · exact Ends.fault
  · exact Ends.next ((h.withFab.foldl (fun _ _ h2 => h2.launchPacket)).foldl (fun _ _ h2 => h2.recNoPath))

theorem Ends.execPathReturn {s : State} (h : Keeps s₀ s) : Ends s₀ (execPathReturn s) := by
  unfold Machine.execPathReturn
  dsimp only
  exact Ends.ite Ends.fault (Ends.next (h.withFab.foldl (fun _ _ h2 => h2.launchPacket)))

theorem Ends.execConnectionSetUp {s : State} (h : Keeps s₀ s) : Ends s₀ (execConnectionSetUp s) := by
  unfold Machine.execConnectionSetUp
  dsimp only
  exact Ends.ite Ends.fault (Ends.ite (Ends.next h.record) (Ends.next h))

theorem Keeps.noticeAcquires {s : State} {obj : ℕ} {v : ℕ} (h : Keeps s₀ s) : Keeps s₀ (noticeAcquires s obj v) :=
  (h.foldl (fun _ _ h2 => h2.completePkt.ite (h2.completePkt.ite h2))).foldl (fun _ _ h2 => h2.clearHostWaiter)

theorem Ends.execVersionNotice {s : State} (h : Keeps s₀ s) : Ends s₀ (execVersionNotice s) := by
  unfold Machine.execVersionNotice
  dsimp only
  exact Ends.ite (Ends.next h.withFab) (Ends.next h.withFab.noticeAcquires)

end

/-! ### The operations of `Machine/Flow` -/

section
variable {s₀ : State}

theorem Ends.pushStack {s : State} {sp : Span} {l : Launch} {ret : Bool} {e : Word64} {k : State → Span → Res} (h : Keeps s₀ s) (hk : ∀ x0 x1, Keeps s₀ x0 → Ends s₀ (k x0 x1)) :
    Ends s₀ (pushStack s sp l ret e k) := by
  unfold Machine.pushStack
  dsimp only
  refine Ends.ite ?_ ?_
  · exact Ends.trapS h
  · refine Ends.ite ?_ ?_
    · exact hk _ _ h
    · split
      · exact Ends.next (Keeps.ofOwnPark h.ownCheck ‹_›)
      · exact Ends.stall h
      · exact Ends.hold h
      · exact Ends.trapS h
      · exact Ends.consumed h
      · exact hk _ _ h.ownWrite

theorem Ends.popStack {s : State} {sp : Span} {l : Launch} {ret : Bool} {k : State → Span → Res} (h : Keeps s₀ s) (hk : ∀ x0 x1, Keeps s₀ x0 → Ends s₀ (k x0 x1)) :
    Ends s₀ (popStack s sp l ret k) := by
  unfold Machine.popStack
  dsimp only
  refine Ends.ite ?_ ?_
  · exact hk _ _ h
  · split
    · exact Ends.next (Keeps.ofOwnValPark h.ownRead ‹_›)
    · exact Ends.stall h
    · exact Ends.stall h
    · exact Ends.trapS h
    · exact Ends.consumed h
    · exact hk _ _ (Keeps.ofOwnValOk h.ownRead ‹_›)

theorem Ends.branch {a : BitVec 6} {disp : BitVec 16} {c : Span → Word64 → Bool} {s : State} (h : Keeps s₀ s) :
    Ends s₀ (branch a disp c s) :=
  Ends.withSpan (fun _ => Ends.needS h (Ends.ite (Ends.commitJump h) (Ends.commitS h)))

theorem Ends.checkTarget {s : State} {sp : Span} {l : Launch} {t : Word64} {k : Res} (h : Keeps s₀ s) (h1 : Ends s₀ k) :
    Ends s₀ (checkTarget s sp l t k) := by
  unfold Machine.checkTarget
  exact Ends.ite (Ends.trapS h) (Ends.ite (Ends.trapS h) h1)

theorem Ends.exitLanes {s : State} {sp : Span} {l : Launch} {m : BitVec 32} {k : State → Span → Res} (h : Keeps s₀ s) (hk : ∀ x0 x1, Keeps s₀ x0 → Ends s₀ (k x0 x1)) :
    Ends s₀ (exitLanes s sp l m k) := by
  unfold Machine.exitLanes
  dsimp only
  refine Ends.ite ?_ ?_
  · exact Ends.consumed h
  · refine Ends.ite ?_ ?_
    · exact Ends.hold h
    · refine Ends.ite ?_ ?_
      · exact hk _ _ h
      · refine Ends.ite ?_ ?_
        · exact hk _ _ h
        · exact Ends.afterArrive h
            (fun _ h3 =>
              Ends.ite
                (Ends.next (h3.foldl (fun _ _ h4 => h4.writeBack)))
                (by split; exacts [Ends.fault, hk _ _ (h3.foldl (fun _ _ h4 => h4.writeBack)).dropLanes]))

theorem Ends.issueBlock {s : State} {sp : Span} {l : Launch} {off : ℕ} {n : ℕ} (h : Keeps s₀ s) :
    Ends s₀ (issueBlock s sp l off n) := by
  unfold Machine.issueBlock
  exact Ends.ite (Ends.stall h) (Ends.commitS h)

theorem Ends.execBeqz {a : BitVec 6} {imm : BitVec 16} {s : State} (h : Keeps s₀ s) : Ends s₀ (execBeqz a imm s) := Ends.branch h

theorem Ends.execBnez {a : BitVec 6} {imm : BitVec 16} {s : State} (h : Keeps s₀ s) : Ends s₀ (execBnez a imm s) := Ends.branch h

theorem Ends.execBltz {a : BitVec 6} {imm : BitVec 16} {s : State} (h : Keeps s₀ s) : Ends s₀ (execBltz a imm s) := Ends.branch h

theorem Ends.execBgez {a : BitVec 6} {imm : BitVec 16} {s : State} (h : Keeps s₀ s) : Ends s₀ (execBgez a imm s) := Ends.branch h

theorem Ends.execBgtz {a : BitVec 6} {imm : BitVec 16} {s : State} (h : Keeps s₀ s) : Ends s₀ (execBgtz a imm s) := Ends.branch h

theorem Ends.execBlez {a : BitVec 6} {imm : BitVec 16} {s : State} (h : Keeps s₀ s) : Ends s₀ (execBlez a imm s) := Ends.branch h

theorem Ends.execBmz {a : BitVec 6} {imm : BitVec 16} {s : State} (h : Keeps s₀ s) : Ends s₀ (execBmz a imm s) := Ends.branch h

theorem Ends.execBmnz {a : BitVec 6} {imm : BitVec 16} {s : State} (h : Keeps s₀ s) : Ends s₀ (execBmnz a imm s) := Ends.branch h

theorem Ends.execJmp {imm : BitVec 26} {s : State} (h : Keeps s₀ s) : Ends s₀ (execJmp imm s) :=
  Ends.withLaunch (fun _ _ => Ends.checkTarget h (Ends.commitJump h))

theorem Ends.execCall {imm : BitVec 26} {s : State} (h : Keeps s₀ s) : Ends s₀ (execCall imm s) :=
  Ends.withLaunch (fun _ _ => Ends.checkTarget h (Ends.pushStack h (fun _ _ h2 => Ends.commitJump h2)))

theorem Ends.execJmpRegister {a : BitVec 6} {s : State} (h : Keeps s₀ s) : Ends s₀ (execJmpRegister a s) :=
  Ends.withLaunch (fun _ _ => Ends.needS h (Ends.checkTarget h (Ends.commitJump h)))

theorem Ends.execCallRegister {a : BitVec 6} {s : State} (h : Keeps s₀ s) : Ends s₀ (execCallRegister a s) :=
  Ends.withLaunch
    (fun _ _ => Ends.needS h (Ends.checkTarget h (Ends.pushStack h (fun _ _ h2 => Ends.commitJump h2))))

theorem Ends.execRet {s : State} (h : Keeps s₀ s) : Ends s₀ (execRet s) :=
  Ends.withLaunch
    (fun _ _ => Ends.ite (Ends.trapS h) (Ends.popStack h (fun _ _ h2 => Ends.checkTarget h2 (Ends.commitJump h2))))

theorem Ends.execSexit {s : State} (h : Keeps s₀ s) : Ends s₀ (execSexit s) :=
  Ends.withLaunch (fun _ _ => Ends.exitLanes h (fun _ _ h2 => Ends.next h2.putSpan.retireSpan))

theorem Ends.execLrun {n : BitVec 8} {o : BitVec 18} {s : State} (h : Keeps s₀ s) : Ends s₀ (execLrun n o s) :=
  Ends.withLaunch (fun _ _ => Ends.issueBlock h)

theorem Ends.execLrunRegister {a : BitVec 6} {n : BitVec 8} {s : State} (h : Keeps s₀ s) :
    Ends s₀ (execLrunRegister a n s) :=
  Ends.withLaunch (fun _ _ => Ends.needS h (Ends.ite (Ends.trapS h) (Ends.issueBlock h)))

theorem Ends.execLrunp {a : BitVec 6} {b : BitVec 6} {n : BitVec 8} {s : State} (h : Keeps s₀ s) :
    Ends s₀ (execLrunp a b n s) := by
  unfold Machine.execLrunp
  dsimp only
  exact Ends.withLaunch
    (fun _ _ => Ends.needS h (Ends.ite (Ends.stall h) (by split; exacts [Ends.trapS h, Ends.commitS h])))

theorem Ends.execMpush {a : BitVec 6} {s : State} (h : Keeps s₀ s) : Ends s₀ (execMpush a s) :=
  Ends.withLaunch (fun _ _ => Ends.needS h (Ends.pushStack h (fun _ _ h2 => Ends.commitS h2)))

theorem Ends.execMelse {s : State} (h : Keeps s₀ s) : Ends s₀ (execMelse s) :=
  Ends.withLaunch (fun _ _ => Ends.ite (Ends.trapS h) (Ends.commitS h))

theorem Ends.execMpop {s : State} (h : Keeps s₀ s) : Ends s₀ (execMpop s) :=
  Ends.withLaunch (fun _ _ => Ends.ite (Ends.trapS h) (Ends.popStack h (fun _ _ h2 => Ends.commitS h2)))

theorem Ends.execMset {a : BitVec 6} {s : State} (h : Keeps s₀ s) : Ends s₀ (execMset a s) :=
  Ends.withSpan (fun _ => Ends.needS h (Ends.commitS h))

theorem Ends.execMget {d : BitVec 6} {s : State} (h : Keeps s₀ s) : Ends s₀ (execMget d s) :=
  Ends.withSpan (fun _ => Ends.needS h (Ends.commitS h))

theorem Ends.execLget {d : BitVec 6} {s : State} (h : Keeps s₀ s) : Ends s₀ (execLget d s) :=
  Ends.withSpan (fun _ => Ends.needS h (Ends.commitS h))

theorem Ends.execPlall {k : BitVec 2} {s : State} (h : Keeps s₀ s) : Ends s₀ (execPlall k s) :=
  Ends.withLaunch (fun _ _ => Ends.commitS h)

theorem Ends.execPlmask {d : BitVec 6} {k : BitVec 2} {s : State} (h : Keeps s₀ s) : Ends s₀ (execPlmask d k s) :=
  Ends.withSpan (fun _ => Ends.needS h (Ends.commitS h))

theorem Ends.execPlget {d : BitVec 6} {s : State} (h : Keeps s₀ s) : Ends s₀ (execPlget d s) :=
  Ends.withSpan (fun _ => Ends.needS h (Ends.commitS h))

end

/-! ### The operations of `Machine/Mesh` -/

section
variable {s₀ : State}

theorem Keeps.meshSend {s : State} {g : ℕ} {handle : ℕ} {root : ℕ} {key : ℕ} {round : ℕ} {vals : List Word32} (h : Keeps s₀ s) :
    Keeps s₀ (meshSend s g handle root key round vals) :=
  h.withNextIdMeshMsgs

theorem Ends.execRsend {a : BitVec 6} {v : BitVec 8} {s : State} (h : Keeps s₀ s) : Ends s₀ (execRsend a v s) := by
  unfold Machine.execRsend
  dsimp only
  exact Ends.withLaunch
    (fun _ _ =>
      Ends.needS h
        (Ends.ite (Ends.trapS h)
          (Ends.ite (Ends.trapS h)
            (Ends.ite (Ends.trapS h)
              (by
                split
                · exact Ends.next (Keeps.ofXlWait h.xlate ‹_›)
                · exact Ends.trapS h
                · refine Ends.ite ?_ ?_
                  · exact Ends.trapS h
                  · refine Ends.ite ?_ ?_
                    · exact Ends.stallFor h
                    · refine Ends.ite ?_ ?_
                      · exact Ends.consumed h
                      · refine Ends.ite ?_ ?_
                        · exact Ends.bufferAll h (fun _ => Ends.commitS h)
                        · exact Ends.afterStores h (fun _ h2 => Ends.commitS h2.meshSend))))))

theorem Keeps.putRound {s : State} {r : Round} (h : Keeps s₀ s) : Keeps s₀ (putRound s r) := h.withRounds

theorem Keeps.sendMesh {s : State} {r : Round} {kind : ℕ} {src : MeshAt} {dst : MeshAt} {v : MeshVec} (h : Keeps s₀ s) :
    Keeps s₀ (sendMesh s r kind src dst v) := h.withNextIdMeshMsgs

theorem Keeps.closeRound {s : State} {r : Round} {status : ℕ} {cores : BitVec 512} {bar : Option ℕ} (h : Keeps s₀ s) :
    Keeps s₀ (closeRound s r status cores bar) := by
  unfold Machine.closeRound
  dsimp only
  split
  · exact h.dieWriteNat.dieWriteNat.withMeshMsgsRounds.dropFails.publish.landOn
  · exact h.dieWriteNat.dieWriteNat.withMeshMsgsRounds.dropFails

theorem Keeps.roundBarrier {s : State} {r : Round} (h : Keeps s₀ s) : Keeps s₀ (roundBarrier s r).1 := by
  unfold Machine.roundBarrier
  refine Keeps.iteFst ?_ ?_
  · exact h
  · split
    · exact Keeps.ofXlWait h.dieXlate ‹_›
    · exact h
    · exact h.iteFst (h.iteFst h)

theorem Keeps.rootClose {s : State} {r : Round} {v : MeshVec} (h : Keeps s₀ s) : Keeps s₀ (rootClose s r v) := by
  unfold Machine.rootClose
  split
  · exact h.roundBarrier.ofFst ‹_›
  · exact Keeps.ite
      (h.roundBarrier.ofFst ‹_›).closeRound
      (by
        split
        · exact Keeps.ofXlWait (h.roundBarrier.ofFst ‹_›).dieXlate ‹_›
        · exact (h.roundBarrier.ofFst ‹_›).closeRound
        · exact Keeps.ite
            (h.roundBarrier.ofFst ‹_›).closeRound
            (by
              split
              · exact (Keeps.ofFabWrOk (h.roundBarrier.ofFst ‹_›).fabPut ‹_›).closeRound
              · exact Keeps.ofFabWrWait (h.roundBarrier.ofFst ‹_›).fabPut ‹_›
              · exact (Keeps.ofFabWrFail (h.roundBarrier.ofFst ‹_›).fabPut ‹_›).closeRound))

theorem Keeps.nodeStep {s : State} {r : Round} {a : MeshAt} (h : Keeps s₀ s) : Keeps s₀ (nodeStep s r a) := by
  unfold Machine.nodeStep
  dsimp only
  exact h.putRound.ite (by split; exacts [h.putRound, (by split; exacts [h.sendMesh.putRound, h.putRound.rootClose])])

theorem Keeps.abandonRound {s : State} {r : Round} (h : Keeps s₀ s) : Keeps s₀ (abandonRound s r) := by
  unfold Machine.abandonRound
  dsimp only
  split
  · exact h.withMeshMsgsRounds.barAbandon
  · exact h.withMeshMsgsRounds

theorem Keeps.dropContribution {s : State} {handle : ℕ} (h : Keeps s₀ s) : Keeps s₀ (dropContribution s handle) := h.dieWriteNat

theorem Keeps.startNotice {s : State} {r : Round} {n : MeshNode} (h : Keeps s₀ s) : Keeps s₀ (startNotice s r n) := h.sendMesh.ite h

theorem Ends.execMeshContribution {s : State} (h : Keeps s₀ s) : Ends s₀ (execMeshContribution s) := by
  unfold Machine.execMeshContribution
  dsimp only
  split
  · exact Ends.fault
  · refine Ends.ite ?_ ?_
    · exact Ends.fault
    · refine Ends.ite ?_ ?_
      · exact Ends.next h.withMeshMsgs.abandonRound
      · refine Ends.ite ?_ ?_
        · exact Ends.next h.withMeshMsgs.dropContribution
        · exact Ends.next h.withMeshMsgs.startNotice.nodeStep

theorem Ends.execMeshPartial {s : State} (h : Keeps s₀ s) : Ends s₀ (execMeshPartial s) := by
  unfold Machine.execMeshPartial
  dsimp only
  refine Ends.ite ?_ ?_
  · split
    · exact Ends.fault
    · split
      · exact Ends.fault
      · exact Ends.next h.rootClose
  · split
    · exact Ends.fault
    · refine Ends.ite ?_ ?_
      · exact Ends.fault
      · split
        · exact Ends.next h.withMeshMsgs
        · exact Ends.next h.withMeshMsgs.startNotice.nodeStep

theorem Ends.execStartNotice {s : State} (h : Keeps s₀ s) : Ends s₀ (execStartNotice s) := by
  unfold Machine.execStartNotice
  dsimp only
  split
  · exact Ends.fault
  · refine Ends.ite ?_ ?_
    · exact Ends.fault
    · exact Ends.next (by split; exacts [h.withMeshMsgs, h.withMeshMsgs.putRound])

theorem Ends.execReductionTimeout {s : State} (h : Keeps s₀ s) : Ends s₀ (execReductionTimeout s) := by
  unfold Machine.execReductionTimeout
  split
  · exact Ends.fault
  · split
    · exact Ends.fault
    · refine Ends.ite ?_ ?_
      · exact Ends.fault
      · split
        · exact Ends.next (h.roundBarrier.ofFst ‹_›)
        · exact Ends.next (h.roundBarrier.ofFst ‹_›).closeRound

end

/-! ### The operations of `Machine/Quantum` -/

section
variable {s₀ : State}

theorem Keeps.pushRecord {tr : State → ℕ → Xl} {s : State} {l : Launch} {ws : List ℕ} {record : ℕ} {prio : ℕ} {u : ℕ} (hk0 : ∀ x0 x1, Keeps s₀ x0 → Xl.Keeps s₀ (tr x0 x1)) (h1 : Keeps s₀ s) :
    Pushed.Keeps s₀ (pushRecord tr s l ws record prio u) := by
  unfold Machine.pushRecord
  dsimp only
  split
  · exact Pushed.Keeps.wait (Keeps.ofCheckedWait (Keeps.checkRecord hk0 h1) ‹_›)
  · exact Pushed.Keeps.done h1.recRejected
  · exact ite_of (Pushed.Keeps.done h1.publish.pushRing) (Pushed.Keeps.done h1)

theorem Ends.execCpush {d : BitVec 6} {a : BitVec 6} {p : BitVec 3} {s : State} (h : Keeps s₀ s) :
    Ends s₀ (execCpush d a p s) := by
  unfold Machine.execCpush
  dsimp only
  exact Ends.withLaunch
    (fun _ _ =>
      Ends.needS h
        (Ends.ite (Ends.trapS h)
          (Ends.ite (Ends.trapS h)
            (Ends.ite (Ends.trapS h)
              (by
                split
                · exact Ends.next (Keeps.ofXlWait h.xlate ‹_›)
                · exact Ends.trapS h
                · refine Ends.ite ?_ ?_
                  · exact Ends.bufferAll h.newLoad (fun _ => Ends.commitS h.newLoad)
                  · exact Ends.afterStores h
                      (fun _ h2 =>
                        Ends.ite (Ends.next h2.haltWith)
                          (by
                            split
                            · exact Ends.next (Keeps.ofPushedWait (Keeps.pushRecord (fun _ _ h3 => h3.xlate) h2) ‹_›)
                            · exact Ends.commitS (Keeps.ofPushedDone (Keeps.pushRecord (fun _ _ h3 => h3.xlate) h2) ‹_›))))))))

theorem Keeps.ofBar {x : BarRes} (h : BarRes.Keeps s₀ x) : Applied.Keeps s₀ (ofBar x) := by
  cases h with
  | ok h => exact .ok h
  | bad => exact .bad

theorem Keeps.ofSlot {s : State} {x : SlotRes} (h : Keeps s₀ s) (hx : SlotRes.Keeps s₀ x) : Applied.Keeps s₀ (ofSlot s x) := by
  cases hx with
  | ok hx => exact .ok hx
  | bad => exact .bad
  | wait => exact .wait h

theorem Keeps.deliver {s : State} {load : ℕ} {lane : ℕ} {value : ℕ} {bad : Bool} (h : Keeps s₀ s) :
    Keeps s₀ (deliver s load lane value bad) := by
  unfold Machine.deliver
  split
  · exact h
  · exact h.putLoad

theorem Keeps.lineBusy {s : State} {g : ℕ} {line : ℕ} (h : Keeps s₀ s) : Keeps s₀ (lineBusy s g line).1 := h.writeBack

theorem Keeps.applyStore {s : State} {u : ℕ} {sp : Span} {l : Launch} {cells : List (ℕ × Byte)} {unc : Bool} (h : Keeps s₀ s) :
    Applied.Keeps s₀ (applyStore s u sp l cells unc) := by
  unfold Machine.applyStore
  dsimp only
  split
  · exact Applied.Keeps.ok h
  · refine ite_of ?_ ?_
    · split
      · exact Applied.Keeps.ok h
      · split
        · refine ite_of ?_ ?_
          · exact Applied.Keeps.bad
          · refine ite_of ?_ ?_
            · exact Applied.Keeps.wait h
            · exact Applied.Keeps.ok (h.foldl (fun _ _ h2 => (by split; exacts [h2.localPut, h2])))
        · exact Applied.Keeps.bad
    · split
      · exact Applied.Keeps.ok h
      · refine ite_of ?_ ?_
        · exact Applied.Keeps.wait h.lineBusy
        · refine ite_of ?_ ?_
          · refine ite_of ?_ ?_
            · exact Applied.Keeps.bad
            · exact Applied.Keeps.ok
                (Keeps.l1Merge
                  (Keeps.putHome
                    (Keeps.nextStamp
                      (Keeps.foldl
                        (Keeps.lineWritten
                          ((h.invalidate.ite h).closeWindows.raiseFloorOf.foldl (fun _ _ h2 => h2.putOverlay)))
                        (fun _ _ h2 => h2.orderedPut)))))
          · exact Applied.Keeps.ok
              ((h.invalidate.ite h).closeWindows.raiseFloorOf.foldl (fun _ _ h2 => h2.putOverlay)).sendStore.l1Merge

theorem Keeps.atomAt {s : State} {sp : Span} {l : Launch} {va : ℕ} (h : Keeps s₀ s) :
    AtomAt.Keeps s₀ (atomAt s sp l va) := by
  unfold Machine.atomAt
  dsimp only
  refine ite_of ?_ ?_
  · split
    · exact AtomAt.Keeps.gone
    · split
      · exact ite_of AtomAt.Keeps.bad (ite_of (AtomAt.Keeps.wait h) AtomAt.Keeps.scratch)
      · exact AtomAt.Keeps.bad
  · split
    · exact AtomAt.Keeps.gone
    · exact ite_of (AtomAt.Keeps.wait h.lineBusy) (ite_of AtomAt.Keeps.bad AtomAt.Keeps.home)

theorem Keeps.laneOrder {s : State} {u : ℕ} {sp : Span} {ord : ℕ} {key : ℕ} {hit : Bool} (h : Keeps s₀ s) :
    Keeps s₀ (laneOrder s u sp ord key hit) :=
  (h.acquireFrom.ite h).publish.addRelease.ite (h.acquireFrom.ite h)

theorem Keeps.applyLane {s : State} {u : ℕ} {sp : Span} {l : Launch} {w : ℕ} {op : ℕ} {ord : ℕ} {load : Option ℕ} {a : AtomLane} (h : Keeps s₀ s) :
    Keeps s₀ (applyLane s u sp l w op ord load a) := by
  unfold Machine.applyLane
  dsimp only
  split
  · split
    · exact Keeps.deliver
        (by split; exacts [h.seeLocal.laneOrder.localWrite.localAtom.localMark, h.seeLocal.laneOrder.localWrite])
    · split
      · exact h.seeLocal.laneOrder.localWrite.localAtom.localMark
      · exact h.seeLocal.laneOrder.localWrite
  · split
    · exact h.invalidate.raiseFloorOf.seeFences.laneOrder.orderedBytes.putOverlay.deliver
    · exact h.invalidate.raiseFloorOf.seeFences.laneOrder.orderedBytes.putOverlay
  · exact h

theorem Keeps.applyAtomic {s : State} {u : Nat} {sp : Span} {l : Launch} {w op ord : Nat} {load : Option Nat} {lanes : List AtomLane}
    (h : Keeps s₀ s) : Applied.Keeps s₀ (applyAtomic s u sp l w op ord load lanes) := by
  unfold Machine.applyAtomic
  dsimp only
  split
  · exact .bad
  · split
    · next t ht =>
      refine .wait (OptKeeps.findSomeMap (fun a => ?_) t ht)
      split
      · exact OptKeeps.some (Keeps.ofAtomAtWait h.atomAt ‹_›)
      · exact OptKeeps.none
    · exact ite_of (.wait h) (ite_of (.ok h.haltWith) (.ok (Keeps.foldl h fun _ _ h1 => h1.applyLane)))

theorem Keeps.applyBarrier {s : State} {u : ℕ} {sp : Span} {l : Launch} {kind : ℕ} {addr : Word64} {x : Word64} {y : Word64} {lanes : BitVec 32} (h : Keeps s₀ s) :
    Applied.Keeps s₀ (applyBarrier s u sp l kind addr x y lanes) := by
  unfold Machine.applyBarrier
  split
  · exact Applied.Keeps.wait (Keeps.ofBarXlWait h.findBar ‹_›)
  · exact Applied.Keeps.bad
  · refine ite_of ?_ ?_
    · exact Applied.Keeps.wait h
    · exact Keeps.ofBar (h.onDeckBar (fun _ h2 => (by split; exacts [BarRes.Keeps.ok h2, h2.barApply])))

theorem Keeps.applyDrop {s : State} {u : Nat} {sp : Span} {l : Launch} {lanes : BitVec 32} (h : Keeps s₀ s) :
    Applied.Keeps s₀ (applyDrop s u sp l lanes) := by
  unfold Machine.applyDrop
  refine ite_of (.wait h) (.ok (Keeps.foldl h fun t e ht => ?_))
  split
  · exact ht
  · split
    · next v hv =>
      refine Keeps.ofBarResOk (Keeps.onDeckBar ht fun x hx => ?_) hv
      split
      · exact .ok (Keeps.foldl hx fun _ _ h1 => h1.dropAt)
      · exact .ok hx
    · exact ht

theorem Keeps.applyRel {s : State} {u : ℕ} {sp : Span} {l : Launch} {obj : Word64} {scope : ℕ} {ranges : List (ℕ × ℕ)} (h : Keeps s₀ s) :
    Applied.Keeps s₀ (applyRel s u sp l obj scope ranges) := by
  unfold Machine.applyRel
  dsimp only
  split
  · exact Applied.Keeps.ok h
  · refine ite_of ?_ ?_
    · exact Applied.Keeps.bad
    · exact ite_of (Applied.Keeps.wait h) (Applied.Keeps.ok h.publish.performRel.putOverlay.afterRelease)

theorem Keeps.takeBin {s : State} {i : ℕ} (h : Keeps s₀ s) : Keeps s₀ (takeBin s i) := by
  unfold Machine.takeBin
  split
  · exact h
  · split
    · exact h.deliver.ite h
    · exact h

theorem Keeps.servePops {l : List (Nat × Load)} {s : State} {g p : Nat} (h : Keeps s₀ s) : Keeps s₀ (servePops l s g p) := by
  induction l generalizing s with
  | nil => exact h
  | cons x l ih => exact h.ite (ih h.takeWords)

theorem Keeps.applyBkmode {s : State} {sp : Span} {l : Launch} {v : Word64} {older : List ℕ} (h : Keeps s₀ s) :
    Applied.Keeps s₀ (applyBkmode s sp l v older) := by
  unfold Machine.applyBkmode
  dsimp only
  split
  · exact Applied.Keeps.bad
  · split
    · exact Applied.Keeps.wait (Keeps.ofBarXlWait h.findBar ‹_›)
    · exact Applied.Keeps.bad
    · exact ite_of Applied.Keeps.bad (Applied.Keeps.ok h.putDeck.switchBank)

theorem Keeps.applyFifo {s : State} {sp : Span} {k : ℕ} {words : List Word32} (h : Keeps s₀ s) :
    Applied.Keeps s₀ (applyFifo s sp k words) := by
  unfold Machine.applyFifo
  dsimp only
  split
  · exact Applied.Keeps.bad
  · refine ite_of ?_ ?_
    · exact Applied.Keeps.bad
    · exact ite_of (Applied.Keeps.wait (h.ite h.servePops)) (Applied.Keeps.ok (h.ite h.servePops).putBank)

theorem Keeps.applyCpush {s : State} {u : ℕ} {sp : Span} {l : Launch} {record : Word64} {ws : List ℕ} {prio : ℕ} {load : ℕ} (h : Keeps s₀ s) :
    Applied.Keeps s₀ (applyCpush s u sp l record ws prio load) := by
  unfold Machine.applyCpush
  dsimp only
  refine ite_of ?_ ?_
  · exact Applied.Keeps.wait h
  · split
    · exact Applied.Keeps.wait (Keeps.ofPushedWait (Keeps.pushRecord (fun _ _ h2 => h2.translate) h) ‹_›)
    · exact Applied.Keeps.ok (Keeps.ofPushedDone (Keeps.pushRecord (fun _ _ h2 => h2.translate) h) ‹_›).deliver

/-- What the modes of a command's banks come to. -/
theorem Keeps.cmdModes {s : State} {sp : Span} {l : Launch} {e : Cmd} {r : Applied} (h : Keeps s₀ s)
    (hr : cmdModes s sp l e = some r) : Applied.Keeps s₀ r := by
  unfold Machine.cmdModes at hr
  dsimp only at hr
  split at hr
  · obtain rfl := Option.some.inj hr; exact .bad
  · split at hr
    · exact nomatch hr
    · split at hr
      · exact nomatch hr
      · split at hr
        · obtain rfl := Option.some.inj hr; exact .bad
        · obtain rfl := Option.some.inj hr
          exact .wait (Keeps.ofBarXlWait h.findBar ‹_›)
        · exact nomatch hr

/-- A package that an update of a copy under another unit's name leaves. -/
theorem Keeps.under {s u : State} {c : Cur} (h : Keeps s₀ s) (hu : Keeps { s with cur := c } u) : Keeps s₀ { u with cur := s.cur } :=
  ⟨h.cur, fun hs => hu.canonical (h.canonical hs)⟩

theorem Keeps.applyEntry {s : State} {u : Nat} {sp : Span} {l : Launch} {x : Buffered} (h : Keeps s₀ s) :
    Applied.Keeps s₀ (applyEntry s u sp l x) := by
  unfold Machine.applyEntry
  split
  · exact h.applyStore
  · split
    · exact .ok h
    · exact .ok h.putHome.recUncorrectable.noteLostWrite
  · exact h.applyAtomic
  · exact h.applyBarrier
  · exact h.applyDrop
  · exact h.applyBkmode
  · exact ite_of (.wait h) (.ok (Keeps.foldl h fun _ _ h1 => h1.takeBin).clearHist)
  · exact ite_of h.applyCpush (.ok h.haltWith)
  · dsimp only
    split
    · exact .ok h
    · exact ite_of (.wait h) (.ok h.meshSend)
  · exact h.applyRel
  · exact .ok h.newReq
  · split
    · exact h.cmdModes ‹_›
    · split
      · exact .bad
      · exact ite_of (.wait h) (.ok h.cmdEnter)
  · split
    · exact h.cmdModes ‹_›
    · split
      · exact .ok (Keeps.ofCollResOk h.collJoin ‹_›)
      · exact .bad
      · exact .wait h
  · exact Keeps.ofSlot h h.claimSlot
  · exact Keeps.ofSlot h h.freeSlot
  · exact ite_of (.ok h.placeMarkers) (.wait h)
  · exact h.applyFifo

theorem Keeps.quantumFail {s : State} {u : ℕ} {sp : Span} {pt : Word64} {cause : ℕ} (h : Keeps s₀ s) :
    Keeps s₀ (quantumFail s u sp pt cause) := h.record.haltSpan

theorem Keeps.popEntry {s : State} {u : ℕ} (h : Keeps s₀ s) : Keeps s₀ (popEntry s u) := by
  unfold Machine.popEntry
  split
  · exact h
  · exact h.putSpan

theorem Keeps.setApplied {s : State} {k : ℕ} (h : Keeps s₀ s) : Keeps s₀ (setApplied s k) := by
  unfold Machine.setApplied
  split
  · exact h
  · exact h.putDeck

theorem Keeps.applyAll {n : Nat} {s : State} {k : Nat} {l : Launch} (h : Keeps s₀ s) : Keeps s₀ (applyAll n s k l).1 := by
  induction n generalizing s with
  | zero => exact h
  | succ n ih =>
    unfold Machine.applyAll
    split
    · exact h
    · split
      · exact h
      · dsimp only
        split
        · exact h.under (Keeps.ofAppliedWait (Keeps.applyEntry (Keeps.refl _)) ‹_›)
        · exact ih h.quantumFail.setApplied
        · exact ih (h.under (Keeps.ofAppliedOk (Keeps.applyEntry (Keeps.refl _)) ‹_›)).popEntry.finishSpan.setApplied

theorem Keeps.evalWait {s : State} {u : Nat} {sp : Span} {l : Launch} (h : Keeps s₀ s) : Keeps s₀ (evalWait s u sp l) := by
  unfold Machine.evalWait
  split
  · split
    · exact h
    · exact h.quantumFail
    · refine Keeps.ite h.quantumFail ?_
      split
      · exact h
      · exact Keeps.ite h.detAcquire.learn.putSpan h.putSpan
  · exact h

theorem Keeps.deliverLate {s : State} {k : ℕ} {d : Deck} (h : Keeps s₀ s) : Keeps s₀ (deliverLate s k d) := by
  unfold Machine.deliverLate
  dsimp only
  exact Keeps.foldl
    ((h.foldl (fun _ _ h2 => h2.takeBin)).foldl (fun _ _ h2 => h2.servePops))
    (fun _ _ h2 => (by split; exacts [h2.quantumFail, h2]))

theorem Ends.execQuantumEnd {s : State} (h : Keeps s₀ s) : Ends s₀ (execQuantumEnd s) := by
  unfold Machine.execQuantumEnd
  dsimp only
  split
  · exact Ends.fault
  · split
    · exact Ends.fault
    · refine Ends.ite ?_ ?_
      · exact Ends.fault
      · split
        · exact Ends.next (h.ite h.putDeck).applyAll
        · refine Ends.ite ?_ ?_
          · exact Ends.ite Ends.fault (Ends.next (h.ite h.putDeck).applyAll)
          · refine Ends.ite ?_ ?_
            · exact Ends.next (h.ite h.putDeck).applyAll
            · refine Ends.ite ?_ ?_
              · exact Ends.ite Ends.fault (Ends.next (h.ite h.putDeck).applyAll)
              · exact Ends.next
                  (by
                    split
                    · exact Keeps.foldl
                        (Keeps.nextUse
                          (Keeps.foldl
                            (h.ite h.putDeck).applyAll.deliverLate
                            (fun _ _ h2 => (by split; exacts [h2.evalWait, h2]))))
                        (fun _ _ h2 => (by split; exacts [h2.putSpan, h2]))
                    · exact Keeps.putDeck
                        (Keeps.foldl
                          (Keeps.nextUse
                            (Keeps.foldl
                              (h.ite h.putDeck).applyAll.deliverLate
                              (fun _ _ h2 => (by split; exacts [h2.evalWait, h2]))))
                          (fun _ _ h2 => (by split; exacts [h2.putSpan, h2]))))

theorem Ends.execNoProgress {s : State} (h : Keeps s₀ s) : Ends s₀ (execNoProgress s) := by
  unfold Machine.execNoProgress
  dsimp only
  split
  · exact Ends.fault
  · split
    · exact Ends.fault
    · refine Ends.ite ?_ ?_
      · exact Ends.fault
      · exact Ends.next (h.putDeck.record.killLaunch.foldl (fun _ _ h2 => h2.dropLine))

theorem Ends.execPhaseStart {s : State} (h : Keeps s₀ s) : Ends s₀ (execPhaseStart s) := by
  unfold Machine.execPhaseStart
  dsimp only
  split
  · exact Ends.fault
  · split
    · exact Ends.fault
    · exact Ends.ite Ends.fault (Ends.next h.publish.withLaunchesOrd)

end

/-! ### The operations of `Machine/FrontEnd` -/

section
variable {s₀ : State}

theorem Keeps.putHostPkt {s : State} {i : ℕ} {p : Pkt} (h : Keeps s₀ s) : Keeps s₀ (putHostPkt s i p) := h.withFe

theorem Keeps.startPacket {s : State} {q : ℕ} {p : Pkt} (h : Keeps s₀ s) : Keeps s₀ (startPacket s q p) := h.putHostPkt.withNextIdFe

theorem Ends.withPacket {s : State} {op : ℕ} {k : State → ℕ → Pkt → Res} (h : Keeps s₀ s) (hk : ∀ x0 x1 x2, Keeps s₀ x0 → Ends s₀ (k x0 x1 x2)) :
    Ends s₀ (withPacket s op k) := by
  unfold Machine.withPacket
  dsimp only
  refine Ends.ite ?_ ?_
  · exact hk _ _ _ h.startPacket
  · split
    · exact Ends.ite (hk _ _ _ h) Ends.fault
    · exact Ends.fault

theorem Keeps.endPkt {s : State} {i : ℕ} {status : ℕ} {reason : ℕ} {value : ℕ} {addr : ℕ} (h : Keeps s₀ s) :
    Keeps s₀ (endPkt s i status reason value addr) :=
  h.dropFails.completePkt

theorem Ends.endMgmt {s : State} {i : ℕ} {ok : Bool} (h : Keeps s₀ s) : Ends s₀ (endMgmt s i ok) := Ends.next h.endPkt

theorem Keeps.frontXlate {s : State} {i : ℕ} {key : ℕ} {va : ℕ} {kind : ℕ} (h : Keeps s₀ s) :
    Xl.Keeps s₀ (frontXlate s i key va kind) := by
  unfold Machine.frontXlate
  refine ite_of ?_ ?_
  · exact Xl.Keeps.fail
  · split
    · exact Xl.Keeps.fail
    · exact h.dieXlate

theorem Ends.execFencePacket {s : State} (h : Keeps s₀ s) : Ends s₀ (execFencePacket s) :=
  Ends.withPacket h (fun _ _ _ h2 => Ends.next (h2.endPkt.ite h2.endPkt.withFe))

theorem Ends.packetObj {s : State} {i : ℕ} {p : Pkt} {k : State → ℕ → Res} (h : Keeps s₀ s) (hk : ∀ x0 x1, Keeps s₀ x0 → Ends s₀ (k x0 x1)) :
    Ends s₀ (packetObj s i p k) := by
  unfold Machine.packetObj
  dsimp only
  refine Ends.ite ?_ ?_
  · exact Ends.next h.endPkt
  · split
    · exact Ends.next (Keeps.ofXlWait h.frontXlate ‹_›)
    · exact Ends.next h.endPkt
    · exact Ends.ite (Ends.next h) (Ends.ite (Ends.next h.endPkt) (hk _ _ h))

theorem Ends.execRelease {s : State} (h : Keeps s₀ s) : Ends s₀ (execRelease s) :=
  Ends.withPacket h
    (fun _ _ _ h2 => Ends.packetObj h2 (fun _ _ h3 => Ends.next h3.publish.performRel.afterRelease.endPkt))

theorem Ends.execAcquire {s : State} (h : Keeps s₀ s) : Ends s₀ (execAcquire s) := by
  unfold Machine.execAcquire
  exact Ends.withPacket h
    (fun _ _ _ h2 =>
      Ends.ite Ends.fault
        (Ends.packetObj h2.putHostPkt (fun _ _ h3 => Ends.next h3.dropFails.putHostPkt.setWaiter.checkAcquires)))

theorem Ends.waitCheck {s : State} {i : Nat} {p : Pkt} (h : Keeps s₀ s) : Ends s₀ (waitCheck s i p) := by
  unfold Machine.waitCheck
  refine Ends.ite (Ends.next h.putHostPkt) (Ends.ite (Ends.next h.endPkt) ?_)
  split
  · exact Ends.next (h.endPkt.learn.ite h.endPkt)
  · exact Ends.next h.putHostPkt

theorem Ends.execWait {s : State} (h : Keeps s₀ s) : Ends s₀ (execWait s) := by
  unfold Machine.execWait
  dsimp only
  exact Ends.withPacket h
    (fun _ _ _ h2 =>
      Ends.ite
        (Ends.waitCheck h2.putHostPkt)
        (Ends.ite
          (Ends.next h2.putHostPkt.endPkt)
          (by
            split
            · exact Ends.next (Keeps.ofXlWait h2.putHostPkt.frontXlate ‹_›)
            · exact Ends.next h2.putHostPkt.endPkt
            · exact Ends.ite (Ends.next h2.putHostPkt.endPkt) (Ends.waitCheck h2.putHostPkt))))

theorem Ends.execAcquireTimeout {s : State} (h : Keeps s₀ s) : Ends s₀ (execAcquireTimeout s) := by
  unfold Machine.execAcquireTimeout
  dsimp only
  split
  · exact Ends.fault
  · exact Ends.ite Ends.fault (Ends.next (h.endPkt.ite h.endPkt.checkAcquires))

theorem Ends.execWaitTimeout {s : State} (h : Keeps s₀ s) : Ends s₀ (execWaitTimeout s) := by
  unfold Machine.execWaitTimeout
  dsimp only
  split
  · exact Ends.fault
  · exact Ends.ite Ends.fault (Ends.next h.endPkt)

theorem Keeps.refusePkt {s : State} {i : ℕ} {p : Pkt} {reason : ℕ} {arg : ℕ} (h : Keeps s₀ s) :
    Keeps s₀ (refusePkt s i p reason arg) := h.recRejected.endPkt

theorem Ends.execLaunch {s : State} (h : Keeps s₀ s) : Ends s₀ (execLaunch s) := by
  unfold Machine.execLaunch
  dsimp only
  exact Ends.withPacket h
    (fun _ _ _ h2 =>
      Ends.ite Ends.fault
        (by
          split
          · exact Ends.next h2.putHostPkt.refusePkt
          · split
            · exact Ends.next h2.putHostPkt
            · split
              · exact Ends.next (Keeps.ofCheckedWait (Keeps.checkRecord (fun _ _ h3 => h3.dieXlate) h2.putHostPkt) ‹_›)
              · exact Ends.next h2.putHostPkt.refusePkt
              · refine Ends.ite ?_ ?_
                · exact Ends.next h2.putHostPkt
                · exact Ends.next h2.putHostPkt.dropFails.putHostPkt.withRuns.publish.pushRing))

theorem Ends.execResume {s : State} (h : Keeps s₀ s) : Ends s₀ (execResume s) :=
  Ends.withPacket h (fun _ _ _ h2 => Ends.ite Ends.fault (Ends.next (h2.refusePkt.ite h2.putHostPkt)))

theorem Keeps.copyPut {s : State} {i : ℕ} {va : ℕ} {pa : ℕ} {bar : Bool} {bytes : List Byte} (h : Keeps s₀ s) :
    FabWr.Keeps s₀ (copyPut s i va pa bar bytes) := by
  unfold Machine.copyPut
  dsimp only
  exact ite_of h.fabPut (FabWr.Keeps.ok h.newReq)

theorem Ends.execCopyPacket {s : State} (h : Keeps s₀ s) : Ends s₀ (execCopyPacket s) := by
  unfold Machine.execCopyPacket
  refine Ends.withPacket h fun t i p ht => ?_
  refine Ends.ite (Ends.next ht.endPkt) (Ends.ite (Ends.ite (Ends.next ht.endPkt) Ends.fault) ?_)
  extract_lets src dst m r
  have hrd : FabRd.Keeps s₀ (match keyRoot t p.key with
      | none => FabRd.fail
      | some root => Machine.fabRead t (firstDie t) root p.key (.front i) src r) := by
    split
    · exact .fail
    · exact ht.fabRead
  split
  · exact Ends.next (Keeps.ofFabRdWait hrd ‹_›)
  · exact Ends.next ht.endPkt
  · next v got bad hv =>
    have hv' : Keeps s₀ v := Keeps.ofFabRdOk hrd hv
    refine Ends.ite (Ends.next hv'.endPkt) ?_
    split
    · exact Ends.next (Keeps.ofXlWait hv'.frontXlate ‹_›)
    · exact Ends.next hv'.endPkt
    · split
      · exact Ends.next (Keeps.ofFabWrWait hv'.copyPut ‹_›)
      · exact Ends.next (Keeps.ofFabWrFail hv'.copyPut ‹_›).endPkt
      · exact Ends.next (Keeps.ofFabWrOk hv'.copyPut ‹_›).putHostPkt

theorem Keeps.setReg {s : State} {off : ℕ} {x : ℕ} (h : Keeps s₀ s) : Keeps s₀ (setReg s off x) := h.withFe

theorem Ends.execAdmitKey {s : State} (h : Keeps s₀ s) : Ends s₀ (execAdmitKey s) := by
  unfold Machine.execAdmitKey
  dsimp only
  exact Ends.withPacket h
    (fun _ _ _ h2 => Ends.ite (Ends.endMgmt h2) (by split; exacts [Ends.endMgmt h2, Ends.endMgmt h2.setReg.setReg]))

theorem Ends.execRetire {s : State} (h : Keeps s₀ s) : Ends s₀ (execRetire s) := by
  unfold Machine.execRetire
  dsimp only
  exact Ends.withPacket h
    (fun _ _ _ h2 =>
      Ends.ite (Ends.endMgmt h2)
        (by split; exacts [Ends.endMgmt h2, Ends.ite (Ends.next h2) (Ends.endMgmt h2.setReg.setReg)]))

theorem Ends.execShootdown {s : State} (h : Keeps s₀ s) : Ends s₀ (execShootdown s) := by
  unfold Machine.execShootdown
  dsimp only
  exact Ends.withPacket h
    (fun _ _ _ h2 =>
      Ends.ite Ends.fault (by split; exacts [Ends.endMgmt h2, Ends.ite (Ends.endMgmt h2) (Ends.next h2.beginShoot)]))

theorem Ends.execAnswer {s : State} (h : Keeps s₀ s) : Ends s₀ (execAnswer s) :=
  Ends.withPacket h
    (fun _ _ _ h2 =>
      (by split; exacts [Ends.endMgmt h2, Ends.ite (Ends.endMgmt h2) (Ends.endMgmt h2.answerFault.postFaults)]))

theorem Keeps.setPower {s : State} {st : ℕ} {drop : ℕ} (h : Keeps s₀ s) : Keeps s₀ (setPower s st drop) :=
  h.withMg.record.withCoresCtxs.ite h.withMg.record

theorem Ends.execPower {s : State} (h : Keeps s₀ s) : Ends s₀ (execPower s) :=
  Ends.withPacket h (fun _ _ _ h2 => Ends.ite (Ends.endMgmt h2) (Ends.ite (Ends.next h2) (Ends.endMgmt h2.setPower)))

theorem Keeps.putFp {s : State} {k : ℕ} {f : Fp} (h : Keeps s₀ s) : Keeps s₀ (putFp s k f) := h.withFab

theorem Ends.execFpstart {s : State} (h : Keeps s₀ s) : Ends s₀ (execFpstart s) :=
  Ends.withPacket h (fun _ _ _ h2 => Ends.ite (Ends.endMgmt h2) (Ends.endMgmt h2.putFp))

theorem Ends.execFpstop {s : State} (h : Keeps s₀ s) : Ends s₀ (execFpstop s) :=
  Ends.withPacket h (fun _ _ _ h2 => Ends.ite (Ends.endMgmt h2) (Ends.next h2.putFp))

theorem Ends.execQtail {s : State} (h : Keeps s₀ s) : Ends s₀ (execQtail s) := by
  unfold Machine.execQtail
  dsimp only
  exact Ends.ite Ends.fault (Ends.ite (Ends.next h) (Ends.next h.setReg))

theorem Ends.execMgmtRegisterWrite {s : State} (h : Keeps s₀ s) : Ends s₀ (execMgmtRegisterWrite s) := by
  unfold Machine.execMgmtRegisterWrite
  dsimp only
  exact Ends.ite Ends.fault (Ends.ite (Ends.next h) (Ends.next (h.setReg.postFaults.ite h.setReg)))

theorem Ends.execActrl {s : State} (h : Keeps s₀ s) : Ends s₀ (execActrl s) := by
  unfold Machine.execActrl
  dsimp only
  exact Ends.ite Ends.fault (Ends.ite (Ends.next h) (Ends.next h.withMg))

theorem Ends.execAttestationDone {s : State} (h : Keeps s₀ s) : Ends s₀ (execAttestationDone s) := by
  unfold Machine.execAttestationDone
  dsimp only
  exact Ends.ite Ends.fault (Ends.ite (Ends.next h.withMg) (Ends.next h.withMg))

theorem Ends.execHostCxlMemAccess {s : State} (h : Keeps s₀ s) : Ends s₀ (execHostCxlMemAccess s) := by
  unfold Machine.execHostCxlMemAccess
  dsimp only
  refine Ends.ite ?_ ?_
  · exact Ends.fault
  · refine Ends.ite ?_ ?_
    · exact Ends.next h.homeTouch.withFe
    · refine Ends.ite ?_ ?_
      · exact Ends.next h.withFe
      · split
        · exact Ends.next (Keeps.ofFabWrOk h.fabPut ‹_›).withFe
        · exact Ends.fault

theorem Ends.execHostOwnershipGrant {s : State} (h : Keeps s₀ s) : Ends s₀ (execHostOwnershipGrant s) := by
  unfold Machine.execHostOwnershipGrant
  dsimp only
  split
  · exact Ends.fault
  · exact Ends.next h.orderedBytes.withFe

theorem Ends.execHostSnoop {s : State} (h : Keeps s₀ s) : Ends s₀ (execHostSnoop s) := by
  unfold Machine.execHostSnoop
  dsimp only
  exact Ends.ite (Ends.next h.withFe) Ends.fault

end

/-! ### The operations of `Machine/Reliability` -/

section
variable {s₀ : State}

theorem Keeps.recLink {s : State} {code : ℕ} {c : ℕ} (h : Keeps s₀ s) : Keeps s₀ (recLink s code c) := h.record

theorem Ends.execFlitCrcFail {s : State} (h : Keeps s₀ s) : Ends s₀ (execFlitCrcFail s) := by
  unfold Machine.execFlitCrcFail
  dsimp only
  exact Ends.ite Ends.fault (Ends.next h.withMg.recLink)

theorem Ends.execCausewayRetrain {s : State} (h : Keeps s₀ s) : Ends s₀ (execCausewayRetrain s) := by
  unfold Machine.execCausewayRetrain
  dsimp only
  exact Ends.ite Ends.fault (Ends.next h.withMg.recLink)

theorem Ends.execRouteInstall {s : State} (h : Keeps s₀ s) : Ends s₀ (execRouteInstall s) := by
  unfold Machine.execRouteInstall
  dsimp only
  exact Ends.ite Ends.fault (Ends.next h.withMg)

theorem Keeps.failCommands {s : State} {p : ℕ → Bool} (h : Keeps s₀ s) : Keeps s₀ (failCommands s p) := by
  unfold Machine.failCommands
  dsimp only
  exact Keeps.foldl
    ((h.foldl (fun _ _ h2 => h2.failEntry)).foldl (fun _ _ h2 => (by split; exacts [h2.failCmd, h2])))
    (fun _ _ h2 =>
      (by split; exacts [(h2.foldl (fun _ _ h3 => h3.landCmd)).putDeck, h2.foldl (fun _ _ h3 => h3.landCmd)]))

theorem Keeps.failQuad {s : State} {q : ℕ} (h : Keeps s₀ s) : Keeps s₀ (failQuad s q) := by
  unfold Machine.failQuad
  exact ((h.withMg.foldl (fun _ _ h2 => h2.haltWith)).foldl (fun _ _ h2 => h2.barAbandon)).failCommands

theorem Ends.execQuadStopFail {s : State} (h : Keeps s₀ s) : Ends s₀ (execQuadStopFail s) := by
  unfold Machine.execQuadStopFail
  dsimp only
  exact Ends.ite Ends.fault (Ends.next h.failQuad)

theorem Keeps.failDie {s : State} {d : ℕ} (h : Keeps s₀ s) : Keeps s₀ (failDie s d) :=
  Keeps.ite h
    ((h.record.recUncorrectable.foldl (fun _ _ h2 => h2.failQuad)).foldl (fun _ _ h2 => h2.abandonRound)).withMgFab

theorem Ends.execDieFail {s : State} (h : Keeps s₀ s) : Ends s₀ (execDieFail s) := by
  unfold Machine.execDieFail
  dsimp only
  exact Ends.ite Ends.fault (Ends.next h.failDie)

theorem Ends.execRetrainComplete {s : State} (h : Keeps s₀ s) : Ends s₀ (execRetrainComplete s) := by
  unfold Machine.execRetrainComplete
  dsimp only
  refine Ends.ite ?_ ?_
  · exact Ends.fault
  · split
    · exact Ends.next h.withMg
    · exact Ends.next h.withMg.recLink
    · exact Ends.next (h.withMg.recLink.foldl (fun _ _ h2 => h2.failDie))

theorem Keeps.bufferError {s : State} {u : ℕ} {j : ℕ} (h : Keeps s₀ s) : Keeps s₀ (bufferError s u j) := by
  unfold Machine.bufferError
  dsimp only
  split
  · exact h
  · split
    · exact h
    · exact h.putSpan
    · exact h.haltWith

theorem Keeps.barrierError {s : State} {l : BarLoc} {die : ℕ} {arg : ℕ} (h : Keeps s₀ s) :
    Keeps s₀ (barrierError s l die arg) :=
  h.barAbandon.recUncorrectable

theorem Ends.execUncorrectableError {s : State} (h : Keeps s₀ s) : Ends s₀ (execUncorrectableError s) := by
  unfold Machine.execUncorrectableError
  dsimp only
  split
  · split
    · exact Ends.next h.putSpan
    · exact Ends.fault
  · split
    · exact Ends.next h.putSpan
    · exact Ends.fault
  · split
    · exact Ends.fault
    · exact Ends.next h.putCore
  · exact Ends.ite Ends.fault (Ends.ite (Ends.next h) (Ends.next h.loseLine.recUncorrectable))
  · exact Ends.ite (Ends.next h.putHome) Ends.fault
  · exact Ends.ite Ends.fault (Ends.next h.putBank)
  · exact Ends.next h.putCtx
  · exact Ends.next h.putCtx
  · exact Ends.next h.bufferError
  · split
    · exact Ends.ite Ends.fault (Ends.next h.consumeBad)
    · exact Ends.fault
  · exact Ends.next h.barrierError
  · exact Ends.ite (Ends.next h.barrierError) Ends.fault
  · split
    · exact Ends.next h.abandonRound.recUncorrectable
    · exact Ends.fault
  · exact Ends.next h.closeWindows
  · split
    · exact Ends.next h.failEntry
    · exact Ends.fault
  · split
    · exact Ends.next h.putSpan
    · exact Ends.fault
  · split
    · exact Ends.ite (Ends.next h.lockstepHalt) Ends.fault
    · exact Ends.fault
  · split
    · exact Ends.ite (Ends.next h.putSpan) Ends.fault
    · exact Ends.fault
  · split
    · exact Ends.ite (Ends.next h.putSpan) Ends.fault
    · exact Ends.fault
  · exact Ends.ite (Ends.next h.putHome) Ends.fault
  · split
    · exact Ends.next (h.putSpan.ite h.putSpan)
    · exact Ends.fault
  · exact Ends.next h.withFab
  · exact Ends.fault

theorem Ends.execScrub {s : State} (h : Keeps s₀ s) : Ends s₀ (execScrub s) := by
  unfold Machine.execScrub
  dsimp only
  exact Ends.ite (Ends.next h.putHome.recUncorrectable) (Ends.next h)

theorem Keeps.loseAll {s : State} (h : Keeps s₀ s) : Keeps s₀ (loseAll s) :=
  (h.foldl (fun _ _ h2 => h2.killLaunch)).failCommands

theorem Keeps.enterSafe {s : State} {code : ℕ} (h : Keeps s₀ s) : Keeps s₀ (enterSafe s code) := h.withMg

theorem Keeps.recThermal {s : State} {code : ℕ} {die : ℕ} {temp : ℕ} (h : Keeps s₀ s) :
    Keeps s₀ (recThermal s code die temp) := h.record

theorem Keeps.setTemp {s : State} {d : ℕ} {t : ℕ} (h : Keeps s₀ s) : Keeps s₀ (setTemp s d t) := h.withMg

theorem Keeps.dropPower {s : State} (h : Keeps s₀ s) : Keeps s₀ (dropPower s) := h.setPower.ite h

theorem Ends.execThermalThrottle {s : State} (h : Keeps s₀ s) : Ends s₀ (execThermalThrottle s) := by
  unfold Machine.execThermalThrottle
  dsimp only
  exact Ends.ite Ends.fault (Ends.next h.setTemp.recThermal.dropPower)

theorem Ends.execPowerOverCap {s : State} (h : Keeps s₀ s) : Ends s₀ (execPowerOverCap s) := Ends.next h.dropPower

theorem Ends.execThrottleRestore {s : State} (h : Keeps s₀ s) : Ends s₀ (execThrottleRestore s) := by
  unfold Machine.execThrottleRestore
  dsimp only
  exact Ends.ite Ends.fault (Ends.next h.setTemp.recThermal.setPower)

theorem Ends.execThermalTrip {s : State} (h : Keeps s₀ s) : Ends s₀ (execThermalTrip s) := by
  unfold Machine.execThermalTrip
  dsimp only
  exact Ends.ite Ends.fault (Ends.next h.setTemp.recThermal.enterSafe.loseAll)

theorem Ends.execFirmwareFault {s : State} (h : Keeps s₀ s) : Ends s₀ (execFirmwareFault s) := Ends.next h.enterSafe

theorem Keeps.bringStep {s : State} {k : ℕ} (h : Keeps s₀ s) : Keeps s₀ (bringStep s k) := h.withMg.record

theorem Keeps.bringFail {s : State} {code : ℕ} (h : Keeps s₀ s) : Keeps s₀ (bringFail s code) := h.enterSafe

theorem Ends.execPowerGood {s : State} (h : Keeps s₀ s) : Ends s₀ (execPowerGood s) := by
  unfold Machine.execPowerGood
  dsimp only
  refine Ends.ite ?_ ?_
  · exact Ends.fault
  · refine Ends.ite ?_ ?_
    · exact Ends.next h.bringStep.bringStep.withMg.bringFail
    · refine Ends.ite ?_ ?_
      · exact Ends.next h.bringStep.bringStep.withMg.bringStep.withMg.bringFail
      · refine Ends.ite ?_ ?_
        · exact Ends.next h.bringStep.bringStep.withMg.bringStep.withMg.bringStep.withMg.bringFail
        · refine Ends.ite ?_ ?_
          · exact Ends.next
              (Keeps.bringFail
                h.bringStep.bringStep.withMg.bringStep.withMg.bringStep.withMg.bringStep.withMg.bringStep.withMg)
          · refine Ends.ite ?_ ?_
            · exact Ends.next
                (Keeps.bringFail
                  h.bringStep.bringStep.withMg.bringStep.withMg.bringStep.withMg.bringStep.withMg.bringStep.withMg)
            · exact Ends.next
                (Keeps.withCycleMg
                  (Keeps.bringStep
                    h.bringStep.bringStep.withMg.bringStep.withMg.bringStep.withMg.bringStep.withMg.bringStep.withMg))

theorem Keeps.keepImages {r s : State} (h : Keeps s₀ r) : Keeps s₀ (keepImages r s) := h.withUsesLaunchesImagesOrd

theorem Keeps.stackBytes {s : State} (h : Keeps s₀ s) : Keeps s₀ (stackBytes s) :=
  h.foldl (fun _ _ h2 => (by split; exacts [h2.memWrite, h2]))

/-- A package in canonical form, whatever came before. -/
theorem Ends.ofCanonical {t : State} (h : CanonicalState s₀ → CanonicalState t) : Ends s₀ (.next t) := by
  rintro _ ⟨rfl⟩ hs
  exact h hs

theorem Ends.execWarmReset {s : State} (h : Keeps s₀ s) : Ends s₀ (execWarmReset s) := by
  unfold Machine.execWarmReset
  refine Ends.ofCanonical fun hs => ?_
  obtain ⟨hm, hl, -, -⟩ := h.canonical hs
  refine ⟨memory_wf_stackBytes hm, keysRise_filterMap _ (fun p q hq => ?_) hl, rfl, rfl⟩
  split at hq
  · obtain rfl := Option.some.inj hq
    rfl
  · exact absurd hq (by simp)

theorem Ends.execColdPowerLoss {s : State} (h : Keeps s₀ s) : Ends s₀ (execColdPowerLoss s) := by
  unfold Machine.execColdPowerLoss
  refine Ends.ofCanonical fun hs => ?_
  obtain ⟨hm, -, -, -⟩ := h.canonical hs
  exact ⟨memory_wf_filter _ _ hm, rfl, rfl, rfl⟩

theorem Ends.execBlackBoxSave {s : State} (h : Keeps s₀ s) : Ends s₀ (execBlackBoxSave s) := by
  unfold Machine.execBlackBoxSave
  dsimp only
  exact Ends.ite Ends.fault (Ends.next h.withMg)

end

/-! ### The operations of `Machine/Trelix` -/

section
variable {s₀ : State}

theorem Ends.withFp {s : State} {k : ℕ → Fp → TFields → Res} (hk : ∀ x0 x1 x2, Ends s₀ (k x0 x1 x2)) :
    Ends s₀ (withFp s k) := by
  unfold Machine.withFp
  split
  · exact Ends.fault
  · exact hk _ _ _

theorem Ends.fpJump {s : State} {k : ℕ} {f : Fp} {pc : ℕ} (h : Keeps s₀ s) : Ends s₀ (fpJump s k f pc) := Ends.next h.putFp.dropFails

theorem Ends.fpNext {s : State} {k : ℕ} {f : Fp} (h : Keeps s₀ s) : Ends s₀ (fpNext s k f) := Ends.fpJump h

theorem Ends.fpHalt {s : State} {k : ℕ} {f : Fp} {reason : ℕ} {cause : ℕ} {code : ℕ} (h : Keeps s₀ s) :
    Ends s₀ (fpHalt s k f reason cause code) :=
  Ends.next h.putFp.dropFails

theorem Keeps.fpEvent {s : State} {k : ℕ} {f : Fp} {kind : ℕ} {code : ℕ} {detail : ℕ} {arg : ℕ} (h : Keeps s₀ s) :
    Keeps s₀ (fpEvent s k f kind code detail arg) := h.record

theorem Ends.fpTrap {s : State} {k : ℕ} {f : Fp} {cause : ℕ} {arg : ℕ} (h : Keeps s₀ s) :
    Ends s₀ (fpTrap s k f cause arg) := Ends.fpHalt h.fpEvent

theorem Ends.fpConsumed {s : State} {k : ℕ} {f : Fp} {arg : ℕ} (h : Keeps s₀ s) : Ends s₀ (fpConsumed s k f arg) := Ends.fpHalt h.fpEvent

theorem Ends.fpDone {s : State} {k : ℕ} {f : Fp} {xd : BitVec 5} {status : ℕ} {value : ℕ} (h : Keeps s₀ s) :
    Ends s₀ (fpDone s k f xd status value) := Ends.fpNext h

theorem Ends.fpPoisoned {s : State} {k : ℕ} {f : Fp} {xd : BitVec 5} (h : Keeps s₀ s) : Ends s₀ (fpPoisoned s k f xd) := Ends.fpDone h.fpEvent

theorem Keeps.fpXlate {s : State} {k : ℕ} {f : Fp} {va : ℕ} {kind : ℕ} (h : Keeps s₀ s) :
    Xl.Keeps s₀ (fpXlate s k f va kind) := by
  unfold Machine.fpXlate
  refine ite_of ?_ ?_
  · exact Xl.Keeps.fail
  · split
    · exact Xl.Keeps.fail
    · exact h.dieXlate

theorem Keeps.fpRead {s : State} {k : ℕ} {f : Fp} {va : ℕ} {n : ℕ} (h : Keeps s₀ s) :
    FabRd.Keeps s₀ (fpRead s k f va n) := by
  unfold Machine.fpRead
  split
  · exact FabRd.Keeps.fail
  · exact h.fabRead

theorem Keeps.fpWrite {s : State} {k : ℕ} {f : Fp} {va : ℕ} {bytes : List Byte} (h : Keeps s₀ s) :
    FabWr.Keeps s₀ (fpWrite s k f va bytes) := by
  unfold Machine.fpWrite
  split
  · exact FabWr.Keeps.fail h
  · exact h.fabWrite

theorem Keeps.fpWaits {s : State} {k : ℕ} {f : Fp} {rs : List (ℕ × ℕ × ℕ)} (h : Keeps s₀ s) :
    OptKeeps s₀ (fpWaits s k f rs) :=
  OptKeeps.bind (fun _ => h.fabWaits)

theorem Ends.writeHalt {s : State} {k : ℕ} {f : Fp} {r : ℕ × ℕ × ℕ} (h : Keeps s₀ s) : Ends s₀ (writeHalt s k f r) := by
  unfold Machine.writeHalt
  dsimp only
  split
  · exact Ends.next (Keeps.ofXlWait h.fpXlate ‹_›)
  · exact Ends.next h.fpEvent.putFp.dropFails
  · split
    · exact Ends.next (Keeps.ofFabWrOk h.fabPut ‹_›).putFp.dropFails
    · exact Ends.next (Keeps.ofFabWrWait h.fabPut ‹_›)
    · exact Ends.next h.fpEvent.putFp.dropFails

theorem Ends.execUnlistedTrelixOpcode {s : State} (h : Keeps s₀ s) : Ends s₀ (execUnlistedTrelixOpcode s) :=
  Ends.withFp (fun _ _ _ => Ends.fpTrap h)

theorem Ends.fpAlu {s : State} {op : Word64 → Word64 → Word64} (h : Keeps s₀ s) : Ends s₀ (fpAlu s op) :=
  Ends.withFp (fun _ _ _ => Ends.fpNext h)

theorem Ends.execTrelixAdd {s : State} (h : Keeps s₀ s) : Ends s₀ (execTrelixAdd s) := Ends.fpAlu h

theorem Ends.execTrelixSub {s : State} (h : Keeps s₀ s) : Ends s₀ (execTrelixSub s) := Ends.fpAlu h

theorem Ends.execTrelixMul {s : State} (h : Keeps s₀ s) : Ends s₀ (execTrelixMul s) := Ends.fpAlu h

theorem Ends.execTrelixAnd {s : State} (h : Keeps s₀ s) : Ends s₀ (execTrelixAnd s) := Ends.fpAlu h

theorem Ends.execTrelixOr {s : State} (h : Keeps s₀ s) : Ends s₀ (execTrelixOr s) := Ends.fpAlu h

theorem Ends.execTrelixXor {s : State} (h : Keeps s₀ s) : Ends s₀ (execTrelixXor s) := Ends.fpAlu h

theorem Ends.execTrelixSll {s : State} (h : Keeps s₀ s) : Ends s₀ (execTrelixSll s) := Ends.fpAlu h

theorem Ends.execTrelixSrl {s : State} (h : Keeps s₀ s) : Ends s₀ (execTrelixSrl s) := Ends.fpAlu h

theorem Ends.execTrelixSra {s : State} (h : Keeps s₀ s) : Ends s₀ (execTrelixSra s) := Ends.fpAlu h

theorem Ends.execTrelixSlt {s : State} (h : Keeps s₀ s) : Ends s₀ (execTrelixSlt s) := Ends.fpAlu h

theorem Ends.execTrelixSltn {s : State} (h : Keeps s₀ s) : Ends s₀ (execTrelixSltn s) := Ends.fpAlu h

theorem Ends.execTrelixSeq {s : State} (h : Keeps s₀ s) : Ends s₀ (execTrelixSeq s) := Ends.fpAlu h

theorem Ends.execTrelixAddi {s : State} (h : Keeps s₀ s) : Ends s₀ (execTrelixAddi s) :=
  Ends.withFp (fun _ _ _ => Ends.fpNext h)

theorem Ends.execTrelixSlin {s : State} (h : Keeps s₀ s) : Ends s₀ (execTrelixSlin s) :=
  Ends.withFp (fun _ _ _ => Ends.fpNext h)

theorem Ends.execTrelixLd {s : State} (h : Keeps s₀ s) : Ends s₀ (execTrelixLd s) := by
  unfold Machine.execTrelixLd
  dsimp only
  exact Ends.withFp
    (fun _ _ _ =>
      Ends.ite (Ends.fpTrap h)
        (by
          split
          · exact Ends.next (Keeps.ofXlWait h.fpXlate ‹_›)
          · exact Ends.fpTrap h
          · exact Ends.ite (Ends.next h) (Ends.ite (Ends.fpConsumed h) (Ends.fpNext h.homeTouch))))

theorem Ends.execTrelixSt {s : State} (h : Keeps s₀ s) : Ends s₀ (execTrelixSt s) := by
  unfold Machine.execTrelixSt
  dsimp only
  exact Ends.withFp
    (fun _ _ _ =>
      Ends.ite (Ends.fpTrap h)
        (by
          split
          · exact Ends.next (Keeps.ofXlWait h.fpXlate ‹_›)
          · exact Ends.fpTrap h
          · split
            · exact Ends.fpNext (Keeps.ofFabWrOk h.fabPut ‹_›)
            · exact Ends.next (Keeps.ofFabWrWait h.fabPut ‹_›)
            · exact Ends.fpTrap h))

theorem Ends.fpBranch {s : State} {c : Word64 → Word64 → Bool} (h : Keeps s₀ s) : Ends s₀ (fpBranch s c) :=
  Ends.withFp (fun _ _ _ => Ends.ite (Ends.fpJump h) (Ends.fpNext h))

theorem Ends.execTrelixBeq {s : State} (h : Keeps s₀ s) : Ends s₀ (execTrelixBeq s) := Ends.fpBranch h

theorem Ends.execTrelixBne {s : State} (h : Keeps s₀ s) : Ends s₀ (execTrelixBne s) := Ends.fpBranch h

theorem Ends.execTrelixBlt {s : State} (h : Keeps s₀ s) : Ends s₀ (execTrelixBlt s) := Ends.fpBranch h

theorem Ends.execTrelixBltn {s : State} (h : Keeps s₀ s) : Ends s₀ (execTrelixBltn s) := Ends.fpBranch h

theorem Ends.execTrelixJal {s : State} (h : Keeps s₀ s) : Ends s₀ (execTrelixJal s) :=
  Ends.withFp (fun _ _ _ => Ends.fpJump h)

theorem Ends.execTrelixJr {s : State} (h : Keeps s₀ s) : Ends s₀ (execTrelixJr s) :=
  Ends.withFp (fun _ _ _ => Ends.ite (Ends.fpTrap h) (Ends.fpJump h))

theorem Ends.execTrelixHalt {s : State} (h : Keeps s₀ s) : Ends s₀ (execTrelixHalt s) :=
  Ends.withFp (fun _ _ _ => Ends.fpHalt h)

theorem Ends.withDesc {s : State} {align : ℕ} {n : ℕ} {run : State → ℕ → Fp → TFields → ℕ → List Byte → Res} (h : Keeps s₀ s) (hk1 : ∀ x0 x1 x2 x3 x4 x5, Keeps s₀ x0 → Ends s₀ (run x0 x1 x2 x3 x4 x5)) :
    Ends s₀ (withDesc s align n run) := by
  unfold Machine.withDesc
  dsimp only
  exact Ends.withFp
    (fun _ _ _ =>
      Ends.ite (Ends.fpTrap h)
        (by
          split
          · exact Ends.next (Keeps.ofFabRdWait h.fpRead ‹_›)
          · exact Ends.fpTrap h
          · refine Ends.ite ?_ ?_
            · exact Ends.fpPoisoned (Keeps.ofFabRdOk h.fpRead ‹_›)
            · exact hk1 _ _ _ _ _ _ (Keeps.ofFabRdOk h.fpRead ‹_›)))

theorem Ends.fpWait {s : State} {k : ℕ} {f : Fp} {w : FpWait} (h : Keeps s₀ s) : Ends s₀ (fpWait s k f w) := Ends.next h.putFp

theorem Ends.execTrelixSend {s : State} (h : Keeps s₀ s) : Ends s₀ (execTrelixSend s) := by
  unfold Machine.execTrelixSend
  dsimp only
  exact Ends.withFp
    (fun _ _ _ =>
      (by
        split
        · split
          · exact Ends.fpDone h
          · exact Ends.ite (Ends.fpDone h.dropSends) (Ends.next h)
        · exact Ends.withDesc h
            (fun _ _ _ _ _ _ h2 =>
              Ends.ite (Ends.fpPoisoned h2)
                (by
                  split
                  · exact Ends.fpDone h2
                  · refine Ends.ite ?_ ?_
                    · exact Ends.fpDone h2
                    · refine Ends.ite ?_ ?_
                      · exact Ends.fpDone h2
                      · split
                        · exact Ends.next (Keeps.ofFabRdWait h2.fpRead ‹_›)
                        · exact Ends.fpDone h2
                        · refine Ends.ite ?_ ?_
                          · exact Ends.fpPoisoned (Keeps.ofFabRdOk h2.fpRead ‹_›)
                          · split
                            · exact Ends.next (Keeps.ofFabRdWait (Keeps.ofFabRdOk h2.fpRead ‹_›).fpRead ‹_›)
                            · exact Ends.fpDone (Keeps.ofFabRdOk h2.fpRead ‹_›)
                            · refine Ends.ite ?_ ?_
                              · exact Ends.fpPoisoned (Keeps.ofFabRdOk (Keeps.ofFabRdOk h2.fpRead ‹_›).fpRead ‹_›)
                              · exact Ends.fpWait (Keeps.ofFabRdOk (Keeps.ofFabRdOk h2.fpRead ‹_›).fpRead ‹_›).newSend))))

theorem Ends.execTrelixRecv {s : State} (h : Keeps s₀ s) : Ends s₀ (execTrelixRecv s) := by
  unfold Machine.execTrelixRecv
  dsimp only
  exact Ends.withDesc h
    (fun _ _ _ _ _ _ h2 =>
      Ends.ite (Ends.fpPoisoned h2)
        (Ends.ite (Ends.fpDone h2)
          (by
            split
            · refine Ends.ite ?_ ?_
              · exact Ends.fpDone h2
              · split
                · exact Ends.next (Keeps.ofFabWrWait h2.fpWrite ‹_›)
                · exact Ends.fpDone (Keeps.ofFabWrFail h2.fpWrite ‹_›)
                · exact Ends.fpDone (Keeps.ofFabWrOk h2.fpWrite ‹_›).withFab
            · split
              · exact Ends.next h2
              · exact Ends.fpWait h2)))

theorem Ends.fpTimeout {s : State} {i : Instr} (h : Keeps s₀ s) : Ends s₀ (fpTimeout s i) := by
  unfold Machine.fpTimeout
  dsimp only
  split
  · exact Ends.ite Ends.fault (Ends.fpDone h)
  · exact Ends.fault

theorem Ends.execRecvTimeout {s : State} (h : Keeps s₀ s) : Ends s₀ (execRecvTimeout s) := Ends.fpTimeout h

theorem Keeps.tilesRun {n : Nat} {s : State} {one : State → Nat → TileStep} (h : Keeps s₀ s)
    (hone : ∀ t j, Keeps s₀ t → TileStep.Keeps s₀ (one t j)) : TileStep.Keeps s₀ (tilesRun n s one) := by
  refine foldl_of (TileStep.Keeps.ok h) fun r j hr => ?_
  split
  · have hj := hone _ j (Keeps.ofTileStepOk hr rfl)
    split
    · exact .ok (Keeps.ofTileStepOk hj ‹_›)
    · exact hj
  · exact hr

theorem Ends.tilesDone {k : Nat} {f : Fp} {xd : BitVec 5} {value : Nat → Nat} {x : TileStep} (h : TileStep.Keeps s₀ x) :
    Ends s₀ (tilesDone k f xd value x) := by
  cases h with
  | ok h => exact Ends.fpDone h
  | bad h => exact Ends.fpPoisoned h
  | fault h => exact Ends.fpDone h

theorem Keeps.tileRead {s : State} {k : ℕ} {f : Fp} {va : ℕ} {n : ℕ} {go : State → List Byte → TileStep} (h : Keeps s₀ s) (hk1 : ∀ x0 x1, Keeps s₀ x0 → TileStep.Keeps s₀ (go x0 x1)) :
    TileStep.Keeps s₀ (tileRead s k f va n go) := by
  unfold Machine.tileRead
  split
  · refine ite_of ?_ ?_
    · exact TileStep.Keeps.bad (Keeps.ofFabRdOk h.fpRead ‹_›)
    · exact hk1 _ _ (Keeps.ofFabRdOk h.fpRead ‹_›)
  · exact TileStep.Keeps.fault h

theorem Keeps.tileWrite {s : State} {k : ℕ} {f : Fp} {va : ℕ} {bytes : List Byte} {go : State → TileStep} (h : Keeps s₀ s) (hk1 : ∀ x0, Keeps s₀ x0 → TileStep.Keeps s₀ (go x0)) :
    TileStep.Keeps s₀ (tileWrite s k f va bytes go) := by
  unfold Machine.tileWrite
  split
  · exact hk1 _ (Keeps.ofFabWrOk h.fpWrite ‹_›)
  · exact TileStep.Keeps.fault (Keeps.ofFabWrWait h.fpWrite ‹_›)
  · exact TileStep.Keeps.fault (Keeps.ofFabWrFail h.fpWrite ‹_›)

theorem Keeps.countNans {s : State} {die : ℕ} {key : ℕ} {tensor : ℕ} {obj : ℕ} {n : ℕ} (h : Keeps s₀ s) :
    Keeps s₀ (countNans s die key tensor obj n) :=
  h.ite (h.foldl (fun _ _ h2 => h2.raiseCount))

theorem Ends.execTrelixEnc {s : State} (h : Keeps s₀ s) : Ends s₀ (execTrelixEnc s) := by
  unfold Machine.execTrelixEnc
  dsimp only
  exact Ends.withDesc h
    (fun _ _ _ _ _ _ h2 =>
      Ends.ite (Ends.fpTrap h2)
        (Ends.ite (Ends.fpDone h2)
          (by
            split
            · exact Ends.next (Keeps.ofSome h2.fpWaits ‹_›)
            · split
              · exact Ends.fpTrap h2
              · split
                · exact Ends.next (Keeps.ofResAtWait h2.residAt ‹_›)
                · exact Ends.fpTrap h2
                · exact Ends.fpPoisoned h2
                · exact Ends.tilesDone
                    (Keeps.tilesRun
                      (Keeps.ofResAtOk h2.residAt ‹_›)
                      (fun _ _ h3 =>
                        Keeps.tileRead h3
                          (fun _ _ h4 =>
                            (by
                              split
                              · exact TileStep.Keeps.fault h4
                              · exact h4.residTile.tileWrite (fun _ h5 => TileStep.Keeps.ok h5.putResid.countNans))))))))

theorem Ends.execTrelixDec {s : State} (h : Keeps s₀ s) : Ends s₀ (execTrelixDec s) := by
  unfold Machine.execTrelixDec
  dsimp only
  exact Ends.withDesc h
    (fun _ _ _ _ _ _ h2 =>
      Ends.ite (Ends.fpDone h2)
        (by
          split
          · exact Ends.next (Keeps.ofSome h2.fpWaits ‹_›)
          · exact Ends.tilesDone
              (Keeps.tilesRun h2
                (fun _ _ h3 => h3.tileRead (fun _ _ h4 => h4.tileWrite (fun _ h5 => TileStep.Keeps.ok h5))))))

theorem Ends.execTrelixSadd {s : State} (h : Keeps s₀ s) : Ends s₀ (execTrelixSadd s) := by
  unfold Machine.execTrelixSadd
  dsimp only
  exact Ends.withDesc h
    (fun _ _ _ _ _ _ h2 =>
      Ends.ite (Ends.fpDone h2)
        (by
          split
          · exact Ends.next (Keeps.ofSome h2.fpWaits ‹_›)
          · exact Ends.tilesDone
              (Keeps.tilesRun h2
                (fun _ _ h3 =>
                  Keeps.tileRead h3
                    (fun _ _ h4 =>
                      (by
                        split
                        · exact h4.tileWrite (fun _ h5 => TileStep.Keeps.ok h5)
                        · exact TileStep.Keeps.bad h4
                        · exact TileStep.Keeps.fault h4))))))

theorem Ends.withResid {s : State} {k : ℕ} {f : Fp} {xd : BitVec 5} {obj : ℕ} {ks : List (ℕ × ℕ × ℕ)} {rd : Bool} {run : State → ResObj → Res} (h : Keeps s₀ s) (hk1 : ∀ x0 x1, Keeps s₀ x0 → Ends s₀ (run x0 x1)) :
    Ends s₀ (withResid s k f xd obj ks rd run) := by
  unfold Machine.withResid
  split
  · exact Ends.fpTrap h
  · split
    · exact Ends.next (Keeps.ofResAtWait h.residAt ‹_›)
    · exact Ends.fpTrap h
    · exact Ends.fpPoisoned h
    · exact hk1 _ _ (Keeps.ofResAtOk h.residAt ‹_›)

theorem Ends.withIdleResid {s : State} {k : ℕ} {f : Fp} {xd : BitVec 5} {obj : ℕ} {rd : Bool} {run : State → ResObj → Res} (h : Keeps s₀ s) (hk1 : ∀ x0 x1, Keeps s₀ x0 → Ends s₀ (run x0 x1)) :
    Ends s₀ (withIdleResid s k f xd obj rd run) := by
  unfold Machine.withIdleResid
  split
  · exact Ends.fpTrap h
  · exact Ends.ite (Ends.fpWait h) (Ends.withResid h hk1)

theorem Ends.execTrelixRld {s : State} (h : Keeps s₀ s) : Ends s₀ (execTrelixRld s) := by
  unfold Machine.execTrelixRld
  dsimp only
  exact Ends.withDesc h
    (fun _ _ _ _ _ _ h2 =>
      Ends.ite (Ends.fpTrap h2)
        (Ends.withResid h2
          (fun _ _ h3 =>
            (by
              split
              · exact Ends.next (Keeps.ofFabWrWait h3.residTile.fpWrite ‹_›)
              · exact Ends.fpDone (Keeps.ofFabWrFail h3.residTile.fpWrite ‹_›)
              · exact Ends.fpDone (Keeps.ofFabWrOk h3.residTile.fpWrite ‹_›)))))

theorem Ends.execTrelixRst {s : State} (h : Keeps s₀ s) : Ends s₀ (execTrelixRst s) := by
  unfold Machine.execTrelixRst
  dsimp only
  exact Ends.withDesc h
    (fun _ _ _ _ _ _ h2 =>
      Ends.ite (Ends.fpTrap h2)
        (Ends.withResid h2
          (fun _ _ h3 =>
            (by
              split
              · exact Ends.next (Keeps.ofFabRdWait h3.fpRead ‹_›)
              · exact Ends.fpDone h3
              · refine Ends.ite ?_ ?_
                · exact Ends.fpPoisoned (Keeps.ofFabRdOk h3.fpRead ‹_›)
                · exact Ends.fpDone (Keeps.ofFabRdOk h3.fpRead ‹_›).putResid))))

theorem Keeps.residAll {s : State} {o : ResObj} (h : Keeps s₀ s) : Keeps s₀ (residAll s o).1 :=
  h.foldlPair (fun _ _ h2 => h2.residTile)

theorem Ends.execTrelixRsave {s : State} (h : Keeps s₀ s) : Ends s₀ (execTrelixRsave s) := by
  unfold Machine.execTrelixRsave
  dsimp only
  exact Ends.withFp
    (fun _ _ _ =>
      Ends.ite (Ends.fpTrap h)
        (Ends.withIdleResid h
          (fun _ _ h2 =>
            (by
              split
              · exact Ends.next (Keeps.ofFabWrWait h2.residAll.fpWrite ‹_›)
              · exact Ends.fpDone (Keeps.ofFabWrFail h2.residAll.fpWrite ‹_›)
              · exact Ends.fpDone (Keeps.ofFabWrOk h2.residAll.fpWrite ‹_›)))))

theorem Ends.execTrelixRload {s : State} (h : Keeps s₀ s) : Ends s₀ (execTrelixRload s) := by
  unfold Machine.execTrelixRload
  dsimp only
  exact Ends.withFp
    (fun _ _ _ =>
      Ends.ite (Ends.fpTrap h)
        (Ends.withIdleResid h
          (fun _ _ h2 =>
            (by
              split
              · exact Ends.next (Keeps.ofFabRdWait h2.fpRead ‹_›)
              · exact Ends.fpDone h2
              · refine Ends.ite ?_ ?_
                · exact Ends.fpPoisoned (Keeps.ofFabRdOk h2.fpRead ‹_›)
                · refine Ends.ite ?_ ?_
                  · exact Ends.fpDone (Keeps.ofFabRdOk h2.fpRead ‹_›)
                  · split
                    · exact Ends.next (Keeps.ofFabRdWait (Keeps.ofFabRdOk h2.fpRead ‹_›).fpRead ‹_›)
                    · exact Ends.fpDone (Keeps.ofFabRdOk h2.fpRead ‹_›)
                    · refine Ends.ite ?_ ?_
                      · exact Ends.fpPoisoned (Keeps.ofFabRdOk (Keeps.ofFabRdOk h2.fpRead ‹_›).fpRead ‹_›)
                      · exact Ends.withResid
                          (Keeps.ofFabRdOk (Keeps.ofFabRdOk h2.fpRead ‹_›).fpRead ‹_›)
                          (fun _ _ h3 => Ends.fpDone h3.putResid)))))

theorem Ends.execTrelixGnew {s : State} (h : Keeps s₀ s) : Ends s₀ (execTrelixGnew s) := by
  unfold Machine.execTrelixGnew
  dsimp only
  exact Ends.withDesc h
    (fun _ _ _ _ _ _ h2 =>
      Ends.ite (Ends.fpPoisoned h2)
        (by
          split
          · exact Ends.fpDone h2
          · refine Ends.ite ?_ ?_
            · exact Ends.fpDone h2
            · split
              · exact Ends.next (Keeps.ofFabRdWait h2.fpRead ‹_›)
              · exact Ends.fpDone h2
              · refine Ends.ite ?_ ?_
                · exact Ends.fpPoisoned (Keeps.ofFabRdOk h2.fpRead ‹_›)
                · refine Ends.ite ?_ ?_
                  · exact Ends.fpDone (Keeps.ofFabRdOk h2.fpRead ‹_›)
                  · exact Ends.fpDone (Keeps.ofFabRdOk h2.fpRead ‹_›).withFab.homeWrite))

theorem Ends.execTrelixGret {s : State} (h : Keeps s₀ s) : Ends s₀ (execTrelixGret s) := by
  unfold Machine.execTrelixGret
  dsimp only
  exact Ends.withFp
    (fun _ _ _ =>
      (by
        split
        · split
          · exact Ends.fpDone h
          · exact Ends.ite (Ends.next h) (Ends.fpDone h.withFab)
        · refine Ends.ite ?_ ?_
          · exact Ends.fpPoisoned h
          · split
            · exact Ends.fpDone h
            · exact Ends.fpWait h.setGroupState.withNextIdFab))

theorem Keeps.remapTile {s : State} {o o2 : ResObj} {l : List (Nat × Nat × Nat)} {g2 : Group} {t : Nat} (h : Keeps s₀ s) :
    Keeps s₀ (remapTile s o o2 l g2 t) := by
  unfold Machine.remapTile
  extract_lets sum
  have hsum : Keeps s₀ sum.1 := Keeps.foldlPair h fun _ _ h1 => h1.residTile
  split
  · exact hsum
  · exact hsum.residTile.putResid

theorem Keeps.applyPolicy {s : State} {die : ℕ} {id : ℕ} {g : Group} (h : Keeps s₀ s) :
    Policy.Keeps s₀ (applyPolicy s die id g) := by
  unfold Machine.applyPolicy
  dsimp only
  split
  · exact Policy.Keeps.ok h
  · split
    · exact Policy.Keeps.ok h
    · split
      · exact Policy.Keeps.ok (Keeps.raiseCount (by split; exacts [h.putResid, h]))
      · split
        · exact Policy.Keeps.wait (Keeps.ofResAtWait h.residAt ‹_›)
        · split
          · exact Policy.Keeps.wait (Keeps.ofResAtWait (Keeps.ofResAtOk h.residAt ‹_›).residAt ‹_›)
          · exact Policy.Keeps.ok
              (Keeps.foldl
                (by
                  split
                  · exact (Keeps.ofResAtOk (Keeps.ofResAtOk h.residAt ‹_›).residAt ‹_›).putResid
                  · exact Keeps.ofResAtOk (Keeps.ofResAtOk h.residAt ‹_›).residAt ‹_›)
                (fun _ _ h2 => h2.remapTile))
          · exact Policy.Keeps.ok (Keeps.raiseCount (by split; exacts [h.putResid, h]))
        · exact Policy.Keeps.ok (Keeps.raiseCount (by split; exacts [h.putResid, h]))

theorem Keeps.endDrain {s : State} {id : Nat} {x : Drain} {st : Nat} (h : Keeps s₀ s) : Keeps s₀ (endDrain s id x st) := by
  have hp : Policy.Keeps s₀ (match Machine.findGroup s x.die x.handle with
      | none => Policy.ok s
      | some g => Machine.applyPolicy (Machine.setGroupState s g 2) x.die id g) := by
    split
    · exact .ok h
    · exact h.setGroupState.applyPolicy
  unfold Machine.endDrain
  dsimp only
  split
  · next t ht =>
    have ht' : Keeps s₀ t := Keeps.ofPolicyWait hp ht
    split
    · exact ht'.withFab.setGroupState
    · exact ht'
  · exact (Keeps.ofPolicyOk hp ‹_›).withFab.dropFails

theorem Ends.execDrainEnd {s : State} (h : Keeps s₀ s) : Ends s₀ (execDrainEnd s) := by
  unfold Machine.execDrainEnd
  split
  · exact Ends.fault
  · exact Ends.ite (Ends.next h.endDrain) (Ends.ite Ends.fault (Ends.next h.endDrain))

theorem Ends.execDrainBoundExpire {s : State} (h : Keeps s₀ s) : Ends s₀ (execDrainBoundExpire s) := by
  unfold Machine.execDrainBoundExpire
  dsimp only
  split
  · exact Ends.fault
  · exact Ends.ite Ends.fault (Ends.next (h.foldl (fun _ _ h2 => h2.failEntry)).withFab.endDrain)

theorem Ends.execTrelixGwatch {s : State} (h : Keeps s₀ s) : Ends s₀ (execTrelixGwatch s) := by
  unfold Machine.execTrelixGwatch
  dsimp only
  exact Ends.withFp
    (fun _ _ _ =>
      Ends.ite (Ends.fpTrap h)
        (by
          split
          · exact Ends.next (Keeps.ofXlWait h.fpXlate ‹_›)
          · exact Ends.fpTrap h
          · refine Ends.ite ?_ ?_
            · exact Ends.fpDone h
            · refine Ends.ite ?_ ?_
              · exact Ends.fpDone h
              · refine Ends.ite ?_ ?_
                · exact Ends.next h
                · refine Ends.ite ?_ ?_
                  · exact Ends.fpDone h.withFab.setWaiter
                  · refine Ends.ite ?_ ?_
                    · exact Ends.fpDone h.setWaiter
                    · exact Ends.ite (Ends.fpDone h) (Ends.fpDone h.withFab.setWaiter)))

theorem Ends.withBarrier {s : State} {kind : ℕ} {run : ℕ → Fp → TFields → ℕ → Res} (h : Keeps s₀ s) (hk1 : ∀ x0 x1 x2 x3, Ends s₀ (run x0 x1 x2 x3)) :
    Ends s₀ (withBarrier s kind run) := by
  unfold Machine.withBarrier
  dsimp only
  exact Ends.withFp
    (fun _ _ _ =>
      Ends.ite (Ends.fpTrap h)
        (Ends.ite (Ends.fpDone h)
          (by
            split
            · exact Ends.next (Keeps.ofXlWait h.fpXlate ‹_›)
            · exact Ends.fpTrap h
            · exact Ends.ite (Ends.next h) (Ends.ite (Ends.fpDone h) (hk1 _ _ _ _)))))

theorem Ends.execTrelixBwait {s : State} (h : Keeps s₀ s) : Ends s₀ (execTrelixBwait s) := by
  unfold Machine.execTrelixBwait
  refine Ends.withBarrier h fun k f t pa => ?_
  split
  · exact Ends.fpDone (h.learn.ite h)
  · split
    · exact Ends.ite (Ends.fpDone h) (Ends.next h)
    · exact Ends.fpWait h

theorem Ends.execTrelixBarr {s : State} (h : Keeps s₀ s) : Ends s₀ (execTrelixBarr s) :=
  Ends.withBarrier h (fun _ _ _ _ => Ends.ite (Ends.fpDone h) (Ends.fpDone h.publish.coverPhase.writeBar))

theorem Ends.execTrelixBland {s : State} (h : Keeps s₀ s) : Ends s₀ (execTrelixBland s) :=
  Ends.withBarrier h (fun _ _ _ _ => Ends.ite (Ends.fpDone h) (Ends.fpDone h.publish.coverPhase.writeBar))

end

/-! ### The operations of `Machine/Homes` -/

section
variable {s₀ : State}

theorem Ends.withHome {s : State} {run : State → ℕ → Fp → TFields → ℕ → List Byte → HomeDesc → Res} (h : Keeps s₀ s) (hk1 : ∀ x0 x1 x2 x3 x4 x5 x6, Keeps s₀ x0 → Ends s₀ (run x0 x1 x2 x3 x4 x5 x6)) :
    Ends s₀ (withHome s run) :=
  Ends.withDesc h
    (fun _ _ _ _ _ _ h3 =>
      (by
        split
        · exact Ends.next (Keeps.ofSome h3.fpWaits ‹_›)
        · split
          · exact Ends.ite (hk1 _ _ _ _ _ _ _ h3) (Ends.fpDone h3)
          · exact Ends.fpTrap h3))

theorem Ends.homeDone {s : State} {k : ℕ} {f : Fp} {xd : BitVec 5} {a : ℕ} {ws : List (ℕ × ℕ)} {received : Option ℕ} {status : ℕ} {value : ℕ} (h : Keeps s₀ s) :
    Ends s₀ (homeDone s k f xd a ws received status value) := by
  unfold Machine.homeDone
  dsimp only
  refine Ends.ite ?_ ?_
  · exact Ends.fpDone
      (Keeps.foldlPair h
        (fun _ _ h2 =>
          (by
            split
            · exact Keeps.ofFabWrOk h2.fpWrite ‹_›
            · exact Keeps.ofFabWrWait h2.fpWrite ‹_›
            · exact Keeps.ofFabWrFail h2.fpWrite ‹_›)))
  · exact Ends.fpDone
      (Keeps.foldlPair h
        (fun _ _ h2 =>
          (by
            split
            · exact Keeps.ofFabWrOk h2.fpWrite ‹_›
            · exact Keeps.ofFabWrWait h2.fpWrite ‹_›
            · exact Keeps.ofFabWrFail h2.fpWrite ‹_›)))

theorem Ends.execTrelixHopen {s : State} (h : Keeps s₀ s) : Ends s₀ (execTrelixHopen s) := by
  unfold Machine.execTrelixHopen
  dsimp only
  exact Ends.withHome h
    (fun _ _ _ _ _ _ _ h2 =>
      Ends.ite (Ends.fpDone h2)
        (by
          split
          · exact Ends.next (Keeps.ofFabRdWait h2.fpRead ‹_›)
          · exact Ends.fpDone h2
          · refine Ends.ite ?_ ?_
            · exact Ends.fpPoisoned (Keeps.ofFabRdOk h2.fpRead ‹_›)
            · exact Ends.homeDone (Keeps.ofFabRdOk h2.fpRead ‹_›).withFab))

theorem Keeps.writesRun {s : State} {k : ℕ} {f : Fp} {ws : List (ℕ × List Byte)} (h : Keeps s₀ s) :
    Keeps s₀ (writesRun s k f ws).1 :=
  Keeps.foldlPair h
    (fun _ _ h2 =>
      Keeps.iteFst
        (by
          split
          · exact Keeps.ofFabWrOk h2.fpWrite ‹_›
          · exact Keeps.ofFabWrWait h2.fpWrite ‹_›
          · exact Keeps.ofFabWrFail h2.fpWrite ‹_›) h2)

theorem Ends.applyTile {s : State} {k : ℕ} {f : Fp} {t : TFields} {a : ℕ} {h : HomeDesc} {b : ℕ} {tile : List Word32} {take : State → State} (hs : Keeps s₀ s) (hk1 : ∀ x0, Keeps s₀ x0 → Keeps s₀ (take x0)) :
    Ends s₀ (applyTile s k f t a h b tile take) := by
  unfold Machine.applyTile
  dsimp only
  split
  · exact Ends.next (Keeps.ofSome hs.fpWaits ‹_›)
  · split
    · exact Ends.next (Keeps.ofFabRdWait hs.fpRead ‹_›)
    · exact Ends.fpDone hs
    · refine Ends.ite ?_ ?_
      · exact Ends.fpPoisoned (Keeps.ofFabRdOk hs.fpRead ‹_›)
      · split
        · exact Ends.fpDone ((Keeps.ofFabRdOk hs.fpRead ‹_›).writesRun.ofFst ‹_›)
        · exact Ends.homeDone (hk1 _ ((Keeps.ofFabRdOk hs.fpRead ‹_›).writesRun.ofFst ‹_›))

theorem Ends.execTrelixUpd {s : State} (h : Keeps s₀ s) : Ends s₀ (execTrelixUpd s) := by
  unfold Machine.execTrelixUpd
  dsimp only
  exact Ends.withHome h
    (fun _ _ _ _ _ _ _ h2 =>
      Ends.ite (Ends.fpDone h2)
        (by
          split
          · split
            · exact Ends.next h2
            · exact Ends.fpWait h2
          · refine Ends.ite ?_ ?_
            · exact Ends.homeDone h2.withFab
            · refine Ends.ite ?_ ?_
              · exact Ends.fpDone h2
              · exact Ends.ite (Ends.homeDone h2.withFab) (Ends.applyTile h2 (fun _ h3 => h3.withFab))))

theorem Ends.execUpdTimeout {s : State} (h : Keeps s₀ s) : Ends s₀ (execUpdTimeout s) := Ends.fpTimeout h

theorem Ends.execTrelixHclose {s : State} (h : Keeps s₀ s) : Ends s₀ (execTrelixHclose s) :=
  Ends.withHome h (fun _ _ _ _ _ _ _ h2 => Ends.ite (Ends.fpDone h2) (Ends.ite (Ends.homeDone h2) (Ends.homeDone h2)))

theorem Ends.execTrelixHcommit {s : State} (h : Keeps s₀ s) : Ends s₀ (execTrelixHcommit s) :=
  Ends.withHome h (fun _ _ _ _ _ _ _ h2 => Ends.ite (Ends.fpDone h2) (Ends.homeDone h2))

theorem Ends.execTrelixHabort {s : State} (h : Keeps s₀ s) : Ends s₀ (execTrelixHabort s) :=
  Ends.withHome h (fun _ _ _ _ _ _ _ h2 => Ends.ite (Ends.fpDone h2) (Ends.ite (Ends.fpDone h2) (Ends.homeDone h2)))

theorem Keeps.fetchBar {s : State} {k : ℕ} {f : Fp} {bar : ℕ} (h : Keeps s₀ s) :
    FetchBar.Keeps s₀ (fetchBar s k f bar) := by
  unfold Machine.fetchBar
  refine ite_of ?_ ?_
  · exact FetchBar.Keeps.ok
  · refine ite_of ?_ ?_
    · exact FetchBar.Keeps.bad
    · split
      · exact FetchBar.Keeps.wait (Keeps.ofXlWait h.fpXlate ‹_›)
      · exact FetchBar.Keeps.bad
      · exact ite_of FetchBar.Keeps.ok FetchBar.Keeps.bad

theorem Ends.execTrelixWfetch {s : State} (h : Keeps s₀ s) : Ends s₀ (execTrelixWfetch s) := by
  unfold Machine.execTrelixWfetch
  dsimp only
  exact Ends.withFp
    (fun _ _ _ =>
      (by
        split
        · split
          · exact Ends.fpDone h
          · split
            · exact Ends.next h
            · exact Ends.fpNext h.withFab
        · exact Ends.withDesc h
            (fun _ _ _ _ _ _ h2 =>
              Ends.ite (Ends.fpDone h2)
                (by
                  split
                  · exact Ends.next (Keeps.ofFetchBarWait h2.fetchBar ‹_›)
                  · exact Ends.fpDone h2
                  · exact Ends.fpWait h2.publish.learn.withNextIdFab))))

theorem Keeps.serveHome {s : State} {id : ℕ} {x : WFetch} (h : Keeps s₀ s) : Keeps s₀ (serveHome s id x).1 := by
  unfold Machine.serveHome
  dsimp only
  split
  · exact h.iteFst (Keeps.ofFabRdWait h.fabRead ‹_›)
  · exact h
  · refine Keeps.iteFst ?_ ?_
    · exact Keeps.ofFabRdOk h.fabRead ‹_›
    · refine Keeps.iteFst ?_ ?_
      · exact Keeps.ofFabRdOk h.fabRead ‹_›
      · refine Keeps.iteFst ?_ ?_
        · exact Keeps.ofFabRdOk h.fabRead ‹_›
        · refine Keeps.iteFst ?_ ?_
          · split
            · exact Keeps.ofFabRdWait (Keeps.ofFabRdOk h.fabRead ‹_›).fabRead ‹_›
            · exact Keeps.ofFabRdOk h.fabRead ‹_›
            · exact Keeps.ofFabRdOk (Keeps.ofFabRdOk h.fabRead ‹_›).fabRead ‹_›
          · exact Keeps.ofFabRdOk h.fabRead ‹_›

theorem Keeps.fetchAnswer {s : State} {id : Nat} {x : WFetch} {v : Served} (h : Keeps s₀ s) : Keeps s₀ (fetchAnswer s id x v) := by
  have hput : ∀ {t : State} {va : Nat} {bytes : List Byte}, Keeps s₀ t →
      Keeps s₀ (match Machine.fabWrite t x.srcDie x.root x.key (.fabric id) va bytes with
        | .ok u => (u, true)
        | .fail u => (u, false)
        | .wait u => (u, false)).1 := by
    intro t va bytes ht
    split
    · exact Keeps.ofFabWrOk ht.fabWrite ‹_›
    · exact Keeps.ofFabWrFail ht.fabWrite ‹_›
    · exact Keeps.ofFabWrWait ht.fabWrite ‹_›
  unfold Machine.fetchAnswer
  extract_lets who put r status word t q u w src
  have hq : Keeps s₀ u := (hput (hput h)).publish.delAgent
  have hw : Keeps s₀ w := by
    refine Keeps.ite hq ?_
    split
    · exact hq.landOn.ite hq
    · exact hq
  split
  · exact h.fabWaits _ ‹_›
  · exact hw.withFab.dropFails

theorem Ends.execWfetchServe {s : State} (h : Keeps s₀ s) : Ends s₀ (execWfetchServe s) := by
  unfold Machine.execWfetchServe
  dsimp only
  split
  · exact Ends.fault
  · refine Ends.ite ?_ ?_
    · exact Ends.fault
    · refine Ends.ite ?_ ?_
      · split
        · exact Ends.next (h.serveHome.ofFst ‹_›)
        · exact Ends.next (h.serveHome.ofFst ‹_›).fetchAnswer
      · exact Ends.next h.fetchAnswer

end

/-! ### The operations of `Machine/LaneCross` -/

section
variable {s₀ : State}

theorem Ends.shuffle {x : LFields} {src : ℕ → ℕ → ℕ → ℕ} {s : State} (h : Keeps s₀ s) : Ends s₀ (shuffle x src s) :=
  Ends.lanePass h (fun _ _ => Ends.ite (Ends.trapL h) (Ends.commitL h))

theorem Ends.reduce {x : LFields} {f : Ty → List ℕ → ℕ} {s : State} (h : Keeps s₀ s) : Ends s₀ (reduce x f s) :=
  Ends.lanePass h (fun _ _ => Ends.commitL h)

theorem Ends.reduceAdd {x : LFields} {s : State} (h : Keeps s₀ s) : Ends s₀ (reduceAdd x s) :=
  Ends.lanePass h (fun _ _ => Ends.commitL h)

theorem Ends.execVshufXor {x : LFields} {s : State} (h : Keeps s₀ s) : Ends s₀ (execVshufXor x s) := Ends.shuffle h

theorem Ends.execVshufRot {x : LFields} {s : State} (h : Keeps s₀ s) : Ends s₀ (execVshufRot x s) := Ends.shuffle h

theorem Ends.execVshufDn {x : LFields} {s : State} (h : Keeps s₀ s) : Ends s₀ (execVshufDn x s) := Ends.shuffle h

theorem Ends.execVshufUp {x : LFields} {s : State} (h : Keeps s₀ s) : Ends s₀ (execVshufUp x s) := Ends.shuffle h

theorem Ends.execVperm {x : LFields} {s : State} (h : Keeps s₀ s) : Ends s₀ (execVperm x s) :=
  Ends.lanePass h (fun _ _ => Ends.commitL h)

theorem Ends.execVbcast {x : LFields} {s : State} (h : Keeps s₀ s) : Ends s₀ (execVbcast x s) :=
  Ends.lanePass h (fun _ _ => Ends.commitL h)

theorem Ends.execVredadd {x : LFields} {s : State} (h : Keeps s₀ s) : Ends s₀ (execVredadd x s) := Ends.reduceAdd h

theorem Ends.execVredmin {x : LFields} {s : State} (h : Keeps s₀ s) : Ends s₀ (execVredmin x s) := Ends.reduce h

theorem Ends.execVredmax {x : LFields} {s : State} (h : Keeps s₀ s) : Ends s₀ (execVredmax x s) := Ends.reduce h

theorem Ends.execVredand {x : LFields} {s : State} (h : Keeps s₀ s) : Ends s₀ (execVredand x s) := Ends.reduce h

theorem Ends.execVredor {x : LFields} {s : State} (h : Keeps s₀ s) : Ends s₀ (execVredor x s) := Ends.reduce h

theorem Ends.execVscan {x : LFields} {s : State} (h : Keeps s₀ s) : Ends s₀ (execVscan x s) :=
  Ends.lanePass h (fun _ _ => Ends.commitL h)

theorem Ends.execVrfl {x : LFields} {s : State} (h : Keeps s₀ s) : Ends s₀ (execVrfl x s) :=
  Ends.lanePass h (fun _ _ => Ends.commitL h)

theorem Ends.execVrul {x : LFields} {s : State} (h : Keeps s₀ s) : Ends s₀ (execVrul x s) :=
  Ends.lanePass h (fun _ _ => Ends.ite (Ends.commitL h) (Ends.trapL h))

end

/-! ### The operations of `Machine/LaneMem` -/

section
variable {s₀ : State}

theorem Ends.laneLoad {k : AccKind} {n : ℕ} {x : LFields} {s : State} (h : Keeps s₀ s) : Ends s₀ (laneLoad k n x s) :=
  Ends.lanePass h (fun _ _ => Ends.loadPass h)

theorem Ends.laneStore {unc : Bool} {x : LFields} {s : State} (h : Keeps s₀ s) : Ends s₀ (laneStore unc x s) :=
  Ends.lanePass h (fun _ _ => Ends.storePass h)

theorem Ends.execVld {x : LFields} {s : State} (h : Keeps s₀ s) : Ends s₀ (execVld x s) := Ends.laneLoad h

theorem Ends.execVldCons {x : LFields} {s : State} (h : Keeps s₀ s) : Ends s₀ (execVldCons x s) := Ends.laneLoad h

theorem Ends.execVldUnc {x : LFields} {s : State} (h : Keeps s₀ s) : Ends s₀ (execVldUnc x s) := Ends.laneLoad h

theorem Ends.execVldReaders {x : LFields} {s : State} (h : Keeps s₀ s) : Ends s₀ (execVldReaders x s) := by
  unfold Machine.execVldReaders
  exact Ends.ite (Ends.execIllegalEncoding h) (Ends.laneLoad h)

theorem Ends.execVst {x : LFields} {s : State} (h : Keeps s₀ s) : Ends s₀ (execVst x s) := Ends.laneStore h

theorem Ends.execVstUnc {x : LFields} {s : State} (h : Keeps s₀ s) : Ends s₀ (execVstUnc x s) := Ends.laneStore h

theorem Ends.execVpush {x : LFields} {s : State} (h : Keeps s₀ s) : Ends s₀ (execVpush x s) :=
  Ends.lanePass h (fun _ _ => Ends.ite (Ends.commitL h) (Ends.fifoPush h))

theorem Ends.execVpop {x : LFields} {s : State} (h : Keeps s₀ s) : Ends s₀ (execVpop x s) :=
  Ends.lanePass h (fun _ _ => Ends.ite (Ends.commitL h) (Ends.fifoPop h))

theorem Ends.execVplset {x : LFields} {s : State} (h : Keeps s₀ s) : Ends s₀ (execVplset x s) := by
  unfold Machine.execVplset
  exact Ends.ite (Ends.execIllegalEncoding h) (Ends.lanePass h (fun _ _ => Ends.commitL h))

theorem Ends.execVpl {x : LFields} {s : State} (h : Keeps s₀ s) : Ends s₀ (execVpl x s) := by
  unfold Machine.execVpl
  exact Ends.ite (Ends.execIllegalEncoding h) (Ends.lanePass h (fun _ _ => Ends.commitL h))

theorem Ends.execVexit {s : State} (h : Keeps s₀ s) : Ends s₀ (execVexit s) :=
  Ends.lanePass h
    (fun _ _ =>
      Ends.ite (Ends.commitL h) (Ends.exitLanes h (fun _ _ h2 => Ends.next (h2.putSpan.retireSpan.ite h2.putSpan))))

theorem Ends.execLnop {s : State} (h : Keeps s₀ s) : Ends s₀ (execLnop s) :=
  Ends.lanePass h (fun _ _ => Ends.commitL h)

end

/-! ### The operations of `Machine/ScalarMem` -/

section
variable {s₀ : State}

theorem Ends.scalarLoad {d : BitVec 6} {regs : List ℕ} {k : AccKind} {w : ℕ} {signed : Bool} {addr : Span → ℕ} {s : State} (h : Keeps s₀ s) :
    Ends s₀ (scalarLoad d regs k w signed addr s) :=
  Ends.withLaunch (fun _ _ => Ends.needS h (Ends.loadPass h))

theorem Ends.scalarStore {d : BitVec 6} {regs : List ℕ} {unc : Bool} {w : ℕ} {addr : Span → ℕ} {s : State} (h : Keeps s₀ s) :
    Ends s₀ (scalarStore d regs unc w addr s) :=
  Ends.withLaunch (fun _ _ => Ends.needS h (Ends.storePass h))

theorem Ends.execLdB64 {d : BitVec 6} {a : BitVec 6} {imm : BitVec 14} {s : State} (h : Keeps s₀ s) :
    Ends s₀ (execLdB64 d a imm s) := Ends.scalarLoad h

theorem Ends.execLdN32 {d : BitVec 6} {a : BitVec 6} {imm : BitVec 14} {s : State} (h : Keeps s₀ s) :
    Ends s₀ (execLdN32 d a imm s) := Ends.scalarLoad h

theorem Ends.execStB64 {d : BitVec 6} {a : BitVec 6} {imm : BitVec 14} {s : State} (h : Keeps s₀ s) :
    Ends s₀ (execStB64 d a imm s) := Ends.scalarStore h

theorem Ends.execStB32 {d : BitVec 6} {a : BitVec 6} {imm : BitVec 14} {s : State} (h : Keeps s₀ s) :
    Ends s₀ (execStB32 d a imm s) := Ends.scalarStore h

theorem Ends.execLdIndexed {d : BitVec 6} {a : BitVec 6} {b : BitVec 6} {w : BitVec 2} {e : BitVec 1} {s : State} (h : Keeps s₀ s) :
    Ends s₀ (execLdIndexed d a b w e s) := Ends.scalarLoad h

theorem Ends.execLdCons {d : BitVec 6} {a : BitVec 6} {b : BitVec 6} {w : BitVec 2} {e : BitVec 1} {s : State} (h : Keeps s₀ s) :
    Ends s₀ (execLdCons d a b w e s) := Ends.scalarLoad h

theorem Ends.execLdUnc {d : BitVec 6} {a : BitVec 6} {b : BitVec 6} {w : BitVec 2} {e : BitVec 1} {s : State} (h : Keeps s₀ s) :
    Ends s₀ (execLdUnc d a b w e s) := Ends.scalarLoad h

theorem Ends.execLdReaders {d : BitVec 6} {a : BitVec 6} {b : BitVec 6} {w : BitVec 2} {e : BitVec 1} {s : State} (h : Keeps s₀ s) :
    Ends s₀ (execLdReaders d a b w e s) :=
  Ends.withLaunch (fun _ _ => Ends.needS h (Ends.ite (Ends.trapS h) (Ends.loadPass h)))

theorem Ends.execStIndexed {d : BitVec 6} {a : BitVec 6} {b : BitVec 6} {w : BitVec 2} {s : State} (h : Keeps s₀ s) :
    Ends s₀ (execStIndexed d a b w s) := Ends.scalarStore h

theorem Ends.execStUnc {d : BitVec 6} {a : BitVec 6} {b : BitVec 6} {w : BitVec 2} {s : State} (h : Keeps s₀ s) :
    Ends s₀ (execStUnc d a b w s) := Ends.scalarStore h

theorem Ends.execPop {d : BitVec 6} {k : BitVec 5} {s : State} (h : Keeps s₀ s) : Ends s₀ (execPop d k s) :=
  Ends.withLaunch (fun _ _ => Ends.needS h (Ends.fifoPop h))

theorem Ends.execPush {a : BitVec 6} {k : BitVec 5} {s : State} (h : Keeps s₀ s) : Ends s₀ (execPush a k s) :=
  Ends.withLaunch (fun _ _ => Ends.needS h (Ends.fifoPush h))

theorem Ends.execDropc {a : BitVec 6} {b : BitVec 6} {s : State} (h : Keeps s₀ s) : Ends s₀ (execDropc a b s) :=
  Ends.withLaunch
    (fun _ _ =>
      Ends.needS h
        (Ends.afterAcquire h
          (Ends.ite (Ends.commitS h)
            (Ends.ite (Ends.trapS h)
              (Ends.ite (Ends.trapS h)
                (Ends.ite
                  (Ends.ite (Ends.bufferAll h (fun _ => Ends.commitS h)) (Ends.trapS h))
                  (Ends.ite (Ends.stall h) (Ends.afterStores h (fun _ h2 => Ends.commitS h2.newReq)))))))))

end

/-! ### The operations of `Machine/Ahead` -/

section
variable {s₀ : State}

theorem Keeps.readEarly {s : State} {sp : Span} {pa : ℕ} {va : ℕ} (h : Keeps s₀ s) : Keeps s₀ (readEarly s sp pa va) := h.ite h.newReq

end

/-! ### The operations of `Machine/Issue` -/

section
variable {s₀ : State}

theorem Keeps.putIssue {s : State} {sp : Span} {x : BayIssue} (h : Keeps s₀ s) : Keeps s₀ (putIssue s sp x) := h.putCore

end

/-! ### The operations of `Machine/Schedule` -/

section
variable {s₀ : State}

theorem Keeps.passTime {s : State} {cycles : ℕ} {ticks : ℕ} (h : Keeps s₀ s) : Keeps s₀ (passTime s cycles ticks) := h.withCycleTicks

end

end Sys2Proof.Machine

namespace Sys2Proof.Machine

section
variable {s₀ : State}

/-- Every instruction and every event ends in a package in canonical form where it began in one (R164, R228, R237). -/
theorem Ends.exec {s : State} (h : Keeps s₀ s) : ∀ i, Ends s₀ (exec i s)
  | .add .. => Ends.execAdd h
  | .sub .. => Ends.execSub h
  | .mul .. => Ends.execMul h
  | .mulh .. => Ends.execMulh h
  | .mulhn .. => Ends.execMulhn h
  | .div .. => Ends.execDiv h
  | .divn .. => Ends.execDivn h
  | .rem .. => Ends.execRem h
  | .remn .. => Ends.execRemn h
  | .and .. => Ends.execAnd h
  | .or .. => Ends.execOr h
  | .xor .. => Ends.execXor h
  | .andn .. => Ends.execAndn h
  | .orn .. => Ends.execOrn h
  | .sll .. => Ends.execSll h
  | .srl .. => Ends.execSrl h
  | .sra .. => Ends.execSra h
  | .rotl .. => Ends.execRotl h
  | .rotr .. => Ends.execRotr h
  | .min .. => Ends.execMin h
  | .max .. => Ends.execMax h
  | .minn .. => Ends.execMinn h
  | .maxn .. => Ends.execMaxn h
  | .clz .. => Ends.execClz h
  | .ctz .. => Ends.execCtz h
  | .popc .. => Ends.execPopc h
  | .sextI8 .. => Ends.execSextI8 h
  | .sextI16 .. => Ends.execSextI16 h
  | .sextI32 .. => Ends.execSextI32 h
  | .zextN8 .. => Ends.execZextN8 h
  | .zextN16 .. => Ends.execZextN16 h
  | .zextN32 .. => Ends.execZextN32 h
  | .seq .. => Ends.execSeq h
  | .sne .. => Ends.execSne h
  | .slt .. => Ends.execSlt h
  | .sge .. => Ends.execSge h
  | .sltn .. => Ends.execSltn h
  | .sgen .. => Ends.execSgen h
  | .addi .. => Ends.execAddi h
  | .andi .. => Ends.execAndi h
  | .ori .. => Ends.execOri h
  | .xori .. => Ends.execXori h
  | .slli .. => Ends.execSlli h
  | .srli .. => Ends.execSrli h
  | .srai .. => Ends.execSrai h
  | .rotli .. => Ends.execRotli h
  | .slin .. => Ends.execSlin h
  | .slti .. => Ends.execSlti h
  | .sltni .. => Ends.execSltni h
  | .seqi .. => Ends.execSeqi h
  | .ldB64 .. => Ends.execLdB64 h
  | .ldN32 .. => Ends.execLdN32 h
  | .stB64 .. => Ends.execStB64 h
  | .stB32 .. => Ends.execStB32 h
  | .ldIndexed .. => Ends.execLdIndexed h
  | .ldCons .. => Ends.execLdCons h
  | .ldUnc .. => Ends.execLdUnc h
  | .ldReaders .. => Ends.execLdReaders h
  | .stIndexed .. => Ends.execStIndexed h
  | .stUnc .. => Ends.execStUnc h
  | .pop .. => Ends.execPop h
  | .push .. => Ends.execPush h
  | .dropc .. => Ends.execDropc h
  | .beqz .. => Ends.execBeqz h
  | .bnez .. => Ends.execBnez h
  | .bltz .. => Ends.execBltz h
  | .bgez .. => Ends.execBgez h
  | .bgtz .. => Ends.execBgtz h
  | .blez .. => Ends.execBlez h
  | .bmz .. => Ends.execBmz h
  | .bmnz .. => Ends.execBmnz h
  | .jmp .. => Ends.execJmp h
  | .call .. => Ends.execCall h
  | .jmpRegister .. => Ends.execJmpRegister h
  | .callRegister .. => Ends.execCallRegister h
  | .ret => Ends.execRet h
  | .sexit => Ends.execSexit h
  | .lrun .. => Ends.execLrun h
  | .lrunRegister .. => Ends.execLrunRegister h
  | .lrunp .. => Ends.execLrunp h
  | .mpush .. => Ends.execMpush h
  | .melse => Ends.execMelse h
  | .mpop => Ends.execMpop h
  | .mset .. => Ends.execMset h
  | .mget .. => Ends.execMget h
  | .lget .. => Ends.execLget h
  | .plall .. => Ends.execPlall h
  | .plmask .. => Ends.execPlmask h
  | .plget .. => Ends.execPlget h
  | .copy .. => Ends.execCopy h
  | .copySlot .. => Ends.execCopySlot h
  | .copyReaders .. => Ends.execCopyReaders h
  | .mma .. => Ends.execMma h
  | .mmaVia .. => Ends.execMmaVia h
  | .acst .. => Ends.execAcst h
  | .tclaim .. => Ends.execTclaim h
  | .trel .. => Ends.execTrel h
  | .qfence .. => Ends.execQfence h
  | .collRs .. => Ends.execCollRs h
  | .collAg .. => Ends.execCollAg h
  | .collAr .. => Ends.execCollAr h
  | .collBc .. => Ends.execCollBc h
  | .cpush .. => Ends.execCpush h
  | .barinit .. => Ends.execBarinit h
  | .barreg .. => Ends.execBarreg h
  | .bararr .. => Ends.execBararr h
  | .barexp .. => Ends.execBarexp h
  | .bardrop .. => Ends.execBardrop h
  | .barwait .. => Ends.execBarwait h
  | .acq .. => Ends.execAcq h
  | .rel .. => Ends.execRel h
  | .rbind .. => Ends.execRbind h
  | .fence .. => Ends.execFence h
  | .atomB32Add .. => Ends.execAtomB32Add h
  | .atomB32Min .. => Ends.execAtomB32Min h
  | .atomB32Max .. => Ends.execAtomB32Max h
  | .atomB32Minn .. => Ends.execAtomB32Minn h
  | .atomB32Maxn .. => Ends.execAtomB32Maxn h
  | .atomB32And .. => Ends.execAtomB32And h
  | .atomB32Or .. => Ends.execAtomB32Or h
  | .atomB32Xor .. => Ends.execAtomB32Xor h
  | .atomB32Xchg .. => Ends.execAtomB32Xchg h
  | .atomB32Cas .. => Ends.execAtomB32Cas h
  | .atomB32Fadd .. => Ends.execAtomB32Fadd h
  | .atomB32Bf16x2add .. => Ends.execAtomB32Bf16x2add h
  | .atomN64Add .. => Ends.execAtomN64Add h
  | .atomN64Min .. => Ends.execAtomN64Min h
  | .atomN64Max .. => Ends.execAtomN64Max h
  | .atomN64Minn .. => Ends.execAtomN64Minn h
  | .atomN64Maxn .. => Ends.execAtomN64Maxn h
  | .atomN64And .. => Ends.execAtomN64And h
  | .atomN64Or .. => Ends.execAtomN64Or h
  | .atomN64Xor .. => Ends.execAtomN64Xor h
  | .atomN64Xchg .. => Ends.execAtomN64Xchg h
  | .atomN64Cas .. => Ends.execAtomN64Cas h
  | .rsend .. => Ends.execRsend h
  | .sysrd .. => Ends.execSysrd h
  | .step .. => Ends.execStep h
  | .undomark .. => Ends.execUndomark h
  | .bkmode .. => Ends.execBkmode h
  | .brk c => Ends.execBrk (_c := c) h
  | .tret => Ends.execTret h
  | .nop => Ends.execNop h
  | .hrd .. => Ends.execHrd h
  | .hclr .. => Ends.execHclr h
  | .vadd .. => Ends.execVadd h
  | .vsub .. => Ends.execVsub h
  | .vadds .. => Ends.execVadds h
  | .vsubs .. => Ends.execVsubs h
  | .vmul .. => Ends.execVmul h
  | .vmulh .. => Ends.execVmulh h
  | .vmad .. => Ends.execVmad h
  | .vdiv .. => Ends.execVdiv h
  | .vrem .. => Ends.execVrem h
  | .vmin .. => Ends.execVmin h
  | .vmax .. => Ends.execVmax h
  | .vabs .. => Ends.execVabs h
  | .vabsd .. => Ends.execVabsd h
  | .vand .. => Ends.execVand h
  | .vor .. => Ends.execVor h
  | .vxor .. => Ends.execVxor h
  | .vandn .. => Ends.execVandn h
  | .vnot .. => Ends.execVnot h
  | .vsel .. => Ends.execVsel h
  | .vshl .. => Ends.execVshl h
  | .vshr .. => Ends.execVshr h
  | .vrotl .. => Ends.execVrotl h
  | .vclz .. => Ends.execVclz h
  | .vpopc .. => Ends.execVpopc h
  | .vbrev .. => Ends.execVbrev h
  | .vceq .. => Ends.execVceq h
  | .vcne .. => Ends.execVcne h
  | .vclt .. => Ends.execVclt h
  | .vcle .. => Ends.execVcle h
  | .vcgt .. => Ends.execVcgt h
  | .vcge .. => Ends.execVcge h
  | .vmov .. => Ends.execVmov h
  | .vlane .. => Ends.execVlane h
  | .vgid .. => Ends.execVgid h
  | .vfadd .. => Ends.execVfadd h
  | .vfsub .. => Ends.execVfsub h
  | .vfmul .. => Ends.execVfmul h
  | .vfma .. => Ends.execVfma h
  | .vfms .. => Ends.execVfms h
  | .vfnma .. => Ends.execVfnma h
  | .vfmin .. => Ends.execVfmin h
  | .vfmax .. => Ends.execVfmax h
  | .vfdiv .. => Ends.execVfdiv h
  | .vfsqrt .. => Ends.execVfsqrt h
  | .vexp2 .. => Ends.execVexp2 h
  | .vlog2 .. => Ends.execVlog2 h
  | .vfabs .. => Ends.execVfabs h
  | .vfneg .. => Ends.execVfneg h
  | .vfcsgn .. => Ends.execVfcsgn h
  | .vfceq .. => Ends.execVfceq h
  | .vfcne .. => Ends.execVfcne h
  | .vfclt .. => Ends.execVfclt h
  | .vfcle .. => Ends.execVfcle h
  | .vfcun .. => Ends.execVfcun h
  | .vcvt .. => Ends.execVcvt h
  | .vcvtp .. => Ends.execVcvtp h
  | .vcvtu .. => Ends.execVcvtu h
  | .vmxpack .. => Ends.execVmxpack h
  | .vmxunpk .. => Ends.execVmxunpk h
  | .vf4pack .. => Ends.execVf4pack h
  | .vf4unpk .. => Ends.execVf4unpk h
  | .vrnd .. => Ends.execVrnd h
  | .vld .. => Ends.execVld h
  | .vldCons .. => Ends.execVldCons h
  | .vldUnc .. => Ends.execVldUnc h
  | .vldReaders .. => Ends.execVldReaders h
  | .vst .. => Ends.execVst h
  | .vstUnc .. => Ends.execVstUnc h
  | .vpush .. => Ends.execVpush h
  | .vpop .. => Ends.execVpop h
  | .vatomAdd .. => Ends.execVatomAdd h
  | .vatomMin .. => Ends.execVatomMin h
  | .vatomMax .. => Ends.execVatomMax h
  | .vatomMinn .. => Ends.execVatomMinn h
  | .vatomMaxn .. => Ends.execVatomMaxn h
  | .vatomAnd .. => Ends.execVatomAnd h
  | .vatomOr .. => Ends.execVatomOr h
  | .vatomXor .. => Ends.execVatomXor h
  | .vatomXchg .. => Ends.execVatomXchg h
  | .vatomCas .. => Ends.execVatomCas h
  | .vatomFadd .. => Ends.execVatomFadd h
  | .vatomBf16x2add .. => Ends.execVatomBf16x2add h
  | .vshufXor .. => Ends.execVshufXor h
  | .vshufRot .. => Ends.execVshufRot h
  | .vshufDn .. => Ends.execVshufDn h
  | .vshufUp .. => Ends.execVshufUp h
  | .vperm .. => Ends.execVperm h
  | .vbcast .. => Ends.execVbcast h
  | .vredadd .. => Ends.execVredadd h
  | .vredmin .. => Ends.execVredmin h
  | .vredmax .. => Ends.execVredmax h
  | .vredand .. => Ends.execVredand h
  | .vredor .. => Ends.execVredor h
  | .vscan .. => Ends.execVscan h
  | .vrfl .. => Ends.execVrfl h
  | .vrul .. => Ends.execVrul h
  | .vplset .. => Ends.execVplset h
  | .vpl .. => Ends.execVpl h
  | .vexit => Ends.execVexit h
  | .lnop => Ends.execLnop h
  | .trelixAdd => Ends.execTrelixAdd h
  | .trelixSub => Ends.execTrelixSub h
  | .trelixMul => Ends.execTrelixMul h
  | .trelixAnd => Ends.execTrelixAnd h
  | .trelixOr => Ends.execTrelixOr h
  | .trelixXor => Ends.execTrelixXor h
  | .trelixSll => Ends.execTrelixSll h
  | .trelixSrl => Ends.execTrelixSrl h
  | .trelixSra => Ends.execTrelixSra h
  | .trelixSlt => Ends.execTrelixSlt h
  | .trelixSltn => Ends.execTrelixSltn h
  | .trelixSeq => Ends.execTrelixSeq h
  | .trelixAddi => Ends.execTrelixAddi h
  | .trelixSlin => Ends.execTrelixSlin h
  | .trelixLd => Ends.execTrelixLd h
  | .trelixSt => Ends.execTrelixSt h
  | .trelixBeq => Ends.execTrelixBeq h
  | .trelixBne => Ends.execTrelixBne h
  | .trelixBlt => Ends.execTrelixBlt h
  | .trelixBltn => Ends.execTrelixBltn h
  | .trelixJal => Ends.execTrelixJal h
  | .trelixJr => Ends.execTrelixJr h
  | .trelixHalt => Ends.execTrelixHalt h
  | .trelixSend => Ends.execTrelixSend h
  | .trelixRecv => Ends.execTrelixRecv h
  | .trelixEnc => Ends.execTrelixEnc h
  | .trelixDec => Ends.execTrelixDec h
  | .trelixSadd => Ends.execTrelixSadd h
  | .trelixRld => Ends.execTrelixRld h
  | .trelixRst => Ends.execTrelixRst h
  | .trelixRsave => Ends.execTrelixRsave h
  | .trelixRload => Ends.execTrelixRload h
  | .trelixGnew => Ends.execTrelixGnew h
  | .trelixGret => Ends.execTrelixGret h
  | .trelixGwatch => Ends.execTrelixGwatch h
  | .trelixBwait => Ends.execTrelixBwait h
  | .trelixBarr => Ends.execTrelixBarr h
  | .trelixBland => Ends.execTrelixBland h
  | .trelixHopen => Ends.execTrelixHopen h
  | .trelixUpd => Ends.execTrelixUpd h
  | .trelixHclose => Ends.execTrelixHclose h
  | .trelixHcommit => Ends.execTrelixHcommit h
  | .trelixHabort => Ends.execTrelixHabort h
  | .trelixWfetch => Ends.execTrelixWfetch h
  | .fencePacket => Ends.execFencePacket h
  | .release => Ends.execRelease h
  | .acquire => Ends.execAcquire h
  | .wait => Ends.execWait h
  | .resume => Ends.execResume h
  | .launch => Ends.execLaunch h
  | .copyPacket => Ends.execCopyPacket h
  | .admitKey => Ends.execAdmitKey h
  | .retire => Ends.execRetire h
  | .shootdown => Ends.execShootdown h
  | .answer => Ends.execAnswer h
  | .power => Ends.execPower h
  | .fpstart => Ends.execFpstart h
  | .fpstop => Ends.execFpstop h
  | .qtail => Ends.execQtail h
  | .actrl => Ends.execActrl h
  | .mgmtRegisterWrite => Ends.execMgmtRegisterWrite h
  | .attestationDone => Ends.execAttestationDone h
  | .loadFill => Ends.execLoadFill h
  | .fifoPopFill => Ends.execFifoPopFill h
  | .fifoPushResume => Ends.execFifoPushResume h
  | .bankSwitchComplete => Ends.execBankSwitchComplete h
  | .plainWindowExpire => Ends.execPlainWindowExpire h
  | .dirtyLineWriteback => Ends.execDirtyLineWriteback h
  | .quadMergeRequest => Ends.execQuadMergeRequest h
  | .homeRead => Ends.execHomeRead h
  | .homeConsumingAccess => Ends.execHomeConsumingAccess h
  | .homeCountedFill => Ends.execHomeCountedFill h
  | .countedFillWaitEnd => Ends.execCountedFillWaitEnd h
  | .homeStoreCheck => Ends.execHomeStoreCheck h
  | .homeStoreData => Ends.execHomeStoreData h
  | .homeAtomic => Ends.execHomeAtomic h
  | .releaseMarkerClear => Ends.execReleaseMarkerClear h
  | .homeDropc => Ends.execHomeDropc h
  | .barrierLanding => Ends.execBarrierLanding h
  | .barwaitEnd => Ends.execBarwaitEnd h
  | .barwaitTimeout => Ends.execBarwaitTimeout h
  | .copyRun => Ends.execCopyRun h
  | .mmaRun => Ends.execMmaRun h
  | .mmaDone => Ends.execMmaDone h
  | .acstRun => Ends.execAcstRun h
  | .collEntryStart => Ends.execCollEntryStart h
  | .shadowSwap => Ends.execShadowSwap h
  | .swapComplete => Ends.execSwapComplete h
  | .spillComplete => Ends.execSpillComplete h
  | .spillFault => Ends.execSpillFault h
  | .spillResume => Ends.execSpillResume h
  | .preloadComplete => Ends.execPreloadComplete h
  | .deckPlace => Ends.execDeckPlace h
  | .deckStart => Ends.execDeckStart h
  | .gangReserve => Ends.execGangReserve h
  | .gangCommit => Ends.execGangCommit h
  | .deckRetire => Ends.execDeckRetire h
  | .delayedRingPush => Ends.execDelayedRingPush h
  | .launchComplete => Ends.execLaunchComplete h
  | .resumePlacement => Ends.execResumePlacement h
  | .quantumEnd => Ends.execQuantumEnd h
  | .phaseStart => Ends.execPhaseStart h
  | .noProgress => Ends.execNoProgress h
  | .walkComplete => Ends.execWalkComplete h
  | .shootdownBoundExpire => Ends.execShootdownBoundExpire h
  | .shootdownRemoval => Ends.execShootdownRemoval h
  | .meshContribution => Ends.execMeshContribution h
  | .meshPartial => Ends.execMeshPartial h
  | .startNotice => Ends.execStartNotice h
  | .reductionTimeout => Ends.execReductionTimeout h
  | .hostCxlMemAccess => Ends.execHostCxlMemAccess h
  | .acquireTimeout => Ends.execAcquireTimeout h
  | .waitTimeout => Ends.execWaitTimeout h
  | .flitCrcFail => Ends.execFlitCrcFail h
  | .causewayRetrain => Ends.execCausewayRetrain h
  | .retrainComplete => Ends.execRetrainComplete h
  | .routeInstall => Ends.execRouteInstall h
  | .packetReceive => Ends.execPacketReceive h
  | .packetResend => Ends.execPacketResend h
  | .sendAcknowledged => Ends.execSendAcknowledged h
  | .chunkSweep => Ends.execChunkSweep h
  | .drainEnd => Ends.execDrainEnd h
  | .drainBoundExpire => Ends.execDrainBoundExpire h
  | .versionNotice => Ends.execVersionNotice h
  | .wfetchServe => Ends.execWfetchServe h
  | .recvTimeout => Ends.execRecvTimeout h
  | .updTimeout => Ends.execUpdTimeout h
  | .quadStopFail => Ends.execQuadStopFail h
  | .dieFail => Ends.execDieFail h
  | .scrub => Ends.execScrub h
  | .blackBoxSave => Ends.execBlackBoxSave h
  | .thermalThrottle => Ends.execThermalThrottle h
  | .powerOverCap => Ends.execPowerOverCap h
  | .throttleRestore => Ends.execThrottleRestore h
  | .thermalTrip => Ends.execThermalTrip h
  | .powerGood => Ends.execPowerGood h
  | .warmReset => Ends.execWarmReset h
  | .illegalEncoding => Ends.execIllegalEncoding h
  | .extensionEncoding => Ends.execExtensionEncoding h
  | .unlistedTrelixOpcode => Ends.execUnlistedTrelixOpcode h
  | .connectionSetUp => Ends.execConnectionSetUp h
  | .negativeAcknowledgement => Ends.execNegativeAcknowledgement h
  | .lossOfSignal => Ends.execLossOfSignal h
  | .pathReturn => Ends.execPathReturn h
  | .expanderCompletion => Ends.execExpanderCompletion h
  | .hostFlushCompletion => Ends.execHostFlushCompletion h
  | .hostOwnershipGrant => Ends.execHostOwnershipGrant h
  | .hostSnoop => Ends.execHostSnoop h
  | .firmwareFault => Ends.execFirmwareFault h
  | .coldPowerLoss => Ends.execColdPowerLoss h
  | .uncorrectableError => Ends.execUncorrectableError h

end

/-! ### What a turn fetches -/

/-- What a turn comes to leads from a package in canonical form to one. -/
inductive Fetched.Leads (s : State) : Fetched → Prop where
  | run {i : Instr} {t : State} (h : CanonicalState s → CanonicalState t) : Leads s (.run i t)
  | out {r : Res} (h : Ends s r) : Leads s (.out r)

theorem Fetched.Leads.ite {s : State} {c : Prop} [Decidable c] {f g : Fetched} (hf : f.Leads s) (hg : g.Leads s) :
    (if c then f else g).Leads s := by
  split
  · exact hf
  · exact hg

/-- The outcome of what runs in a package that is in canonical form where `s` is. -/
theorem Ends.after {s t : State} {r : Res} (h : CanonicalState s → CanonicalState t) (hr : Ends t r) : Ends s r :=
  fun u hu hs => hr u hu (h hs)

theorem Ends.execAfter {s t : State} (h : CanonicalState s → CanonicalState t) (i : Instr) : Ends s (Machine.exec i t) :=
  Ends.after h (Ends.exec (Keeps.refl t) i)

theorem Ends.nextAfter {s t : State} (h : CanonicalState s → CanonicalState t) : Ends s (.next t) :=
  Ends.after h (Ends.next (Keeps.refl t))

theorem Fetched.Leads.idle {s : State} {e : Fault} : Fetched.Leads s (.out (.fault e)) := .out Ends.fault

/-- The step in progress is no part of the canonical form. -/
theorem canonical_withCur {s : State} {c : Cur} : CanonicalState s → CanonicalState { s with cur := c } := id

theorem runFetched_ends {s : State} {f : Fetched} (h : f.Leads s) : Ends s (runFetched f) := by
  cases h with
  | run h => exact Ends.execAfter h _
  | out h => exact h

theorem fetchScalar_leads (s : State) (u : Nat) : (fetchScalar s u).Leads s := by
  unfold fetchScalar
  split
  · exact .idle
  · split
    · exact .idle
    · next sp _ _ l _ =>
      refine .ite .idle (.ite (.out (Ends.recordBad (Keeps.refl s))) (.ite (.out (Ends.next (Keeps.refl s).putSpan)) ?_))
      dsimp only
      have hc : Parcel.Keeps { s with cur := { uid := u } } (scalarCode { s with cur := { uid := u } } sp l) := (Keeps.refl _).scalarCode
      split
      · exact .out (Ends.nextAfter (Keeps.ofParcelWait hc ‹_›).canonical)
      · exact .out (Ends.after canonical_withCur (Ends.trapS (Keeps.refl _)))
      · exact .ite (.out (Ends.after canonical_withCur (Ends.trapS (Keeps.refl _)))) (.run canonical_withCur)

theorem fetchLane_leads (s : State) (u : Nat) : (fetchLane s u).Leads s := by
  unfold fetchLane
  split
  · exact .idle
  · split
    · exact .idle
    · next sp0 _ _ l _ =>
      refine .ite .idle (.ite (.out (Ends.recordBad (Keeps.refl s))) ?_)
      dsimp only
      have hput : ∀ sp c, CanonicalState s → CanonicalState { putSpan s u sp with cur := c } :=
        fun sp c hs => canonical_withCur ((Keeps.refl s).putSpan.canonical hs)
      split
      · exact .out (Ends.next (Keeps.refl s).putSpan)
      · split
        · next t w hw =>
          have ht := Keeps.ofLaneCodeWord (Keeps.refl _).laneCode hw
          have hkeep : ∀ sp c, CanonicalState s → CanonicalState (putSpan { t with cur := c } u sp) :=
            fun sp c hs => (Keeps.refl _).putSpan.canonical (canonical_withCur (ht.canonical (hput _ _ hs)))
          exact .ite (.out (Ends.after (hkeep _ _) (Ends.trapL (Keeps.refl _)))) (.run (hkeep _ _))
        · next t ht => exact .out (Ends.nextAfter fun hs => (Keeps.ofLaneCodeWait (Keeps.refl _).laneCode ht).canonical (hput _ _ hs))
        · exact .out (Ends.after (hput _ _) (Ends.trapL (Keeps.refl _)))

theorem goAhead_leads {s t : State} {u : Nat} {sp : Span} {a : Ahead} (h : CanonicalState s → CanonicalState t) :
    (goAhead t u sp a).Leads s :=
  .out (Ends.after h (Ends.next (Keeps.refl t).putSpan))

theorem issueAhead_leads {s t : State} {u : Nat} {sp x : Span} {l : Launch} {w : Word32}
    (h : CanonicalState s → CanonicalState t) : (issueAhead t u sp x l w).Leads s := by
  unfold issueAhead
  refine .ite .idle ?_
  dsimp only
  split
  · exact .idle
  · refine .ite .idle ?_
    split
    · exact .ite (goAhead_leads h) (goAhead_leads fun hs => (Keeps.refl t).readEarly.canonical (h hs))
    · exact goAhead_leads h
  · split
    · exact .ite .idle (goAhead_leads h)
    · exact .idle
  · split
    · exact .ite .idle (goAhead_leads h)
    · exact .idle
  · refine .ite .idle ?_
    split
    · exact .ite (goAhead_leads h) .idle
    · exact .idle

theorem fetchAhead_leads (s : State) (u : Nat) : (fetchAhead s u).Leads s := by
  unfold fetchAhead
  split
  · exact .idle
  · split
    · exact .idle
    · refine .ite .idle ?_
      dsimp only
      split
      · next t ht => exact .out (Ends.nextAfter (Keeps.ofParcelWait (Keeps.fetchParcel (Keeps.refl _)) ht).canonical)
      · exact .idle
      · exact issueAhead_leads canonical_withCur

theorem fetchFp_leads (s : State) (die i : Nat) : (fetchFp s die i).Leads s := by
  unfold fetchFp
  refine .ite .idle ?_
  split
  · exact .out (Ends.writeHalt (Keeps.refl s))
  · refine .ite (.out (Ends.fpHalt (Keeps.refl s))) ?_
    split
    · next t ht => exact .out (Ends.next (Keeps.ofXlWait (Keeps.refl s).fpXlate ht))
    · exact .out (Ends.fpTrap (Keeps.refl s))
    · exact .ite (.out (Ends.next (Keeps.refl s))) (.ite (.out (Ends.fpConsumed (Keeps.refl s)))
        (.run fun hs => canonical_withCur ((Keeps.refl s).putFp.homeTouch.canonical hs)))

theorem laneActs_leads {s t : State} (h : CanonicalState s → CanonicalState t) : (laneActs t).Leads s := by
  unfold laneActs
  split
  · exact .idle
  · refine .ite (.out (Ends.nextAfter h)) ?_
    dsimp only
    split
    · exact .out (Ends.after h (Ends.next (Keeps.completePkt (Keeps.startPacket ((Keeps.refl t).same rfl)))))
    · exact .run h

theorem fetchFrontEnd_leads (s : State) : (fetchFrontEnd s).Leads s :=
  .ite .idle (.ite (laneActs_leads id) (laneActs_leads id))

theorem fetchEvent_leads (s : State) (i : Instr) (x : Args) : (fetchEvent s i x).Leads s := .run canonical_withCur

/-! ### What a turn keeps -/

theorem runBoth_ends {s : State} {i : Instr} {u : Nat} {sp : Span} {v : SMap Word32} : Ends s (runBoth i s u sp v) := by
  unfold runBoth
  dsimp only
  have ha : ∀ x, Ends s (exec i (putSpan s u x)) := fun x => Ends.execAfter (Keeps.refl s).putSpan.canonical i
  split
  · next ta tb hta htb =>
    have hnext : ∀ t, (CanonicalState ta → CanonicalState t) → Ends s (.next t) :=
      fun t ht => Ends.nextAfter fun hs => ht (ha _ _ hta hs)
    split
    · exact Ends.ite (Ends.next (Keeps.refl s).lockstepHalt) (hnext _ (Keeps.refl ta).putSpan.canonical)
    · exact hnext _ id
  · exact ha _

theorem runPass_ends {s : State} {i : Instr} {u : Nat} : Ends s (runPass i s u) := by
  unfold runPass
  split
  · exact Ends.exec (Keeps.refl s) i
  · split
    · exact Ends.exec (Keeps.refl s) i
    · exact runBoth_ends

/-- What the test of a position's later passes leaves, and what it comes to. -/
theorem testLater_leads {s t : State} {u : Nat} {l : Launch} {ps : List Nat} (h : CanonicalState s → CanonicalState t) :
    (CanonicalState s → CanonicalState (testLater t u l ps).1) ∧ ∀ r ∈ (testLater t u l ps).2, Ends s r := by
  have hnone : ∀ x : State, (CanonicalState s → CanonicalState x) →
      (CanonicalState s → CanonicalState (x, (none : Option Res)).1) ∧ ∀ r ∈ (x, (none : Option Res)).2, Ends s r :=
    fun x hx => ⟨hx, fun r hr => nomatch hr⟩
  have hsome : ∀ (x : State) (r : Res), (CanonicalState s → CanonicalState x) → Ends s r →
      (CanonicalState s → CanonicalState (x, some r).1) ∧ ∀ q ∈ (x, some r).2, Ends s q :=
    fun x r hx hr => ⟨hx, fun q hq => Option.some.inj hq ▸ hr⟩
  induction ps generalizing t with
  | nil => exact hnone t h
  | cons p ps ih =>
    unfold testLater
    split
    · exact hnone t h
    · split
      · exact hnone t h
      · dsimp only
        split
        · next x hx =>
          have hx : CanonicalState s → CanonicalState x := fun hs => (Keeps.ofLaneCodeWait (Keeps.refl t).laneCode hx).canonical (h hs)
          exact hsome x _ hx (Ends.nextAfter hx)
        · exact ih h
        · next x w hx =>
          have hput : ∀ sp, CanonicalState s → CanonicalState (putSpan x u sp) :=
            fun sp hs => (Keeps.ofLaneCodeWord (Keeps.refl t).laneCode hx).putSpan.canonical (h hs)
          split
          · exact hsome _ _ (hput _) (Ends.after (hput _) (Ends.withLaunch fun _ _ => Ends.trapL (Keeps.refl _)))
          · refine hsome _ _ (hput _) ?_
            have hx : ∀ sp c, Ends s (exec (decodeL w) { putSpan x u sp with cur := c }) :=
              fun sp c => Ends.execAfter (fun hs => canonical_withCur (hput sp hs)) _
            split
            · next y hy => exact Ends.nextAfter fun hs => canonical_withCur (hx _ _ y hy hs)
            · exact hx _ _
          · exact ih (hput _)

theorem firstPass_ends {s : State} {u : Nat} {i : Instr} : Ends s (firstPass s u i) := by
  unfold firstPass
  split
  · exact runPass_ends
  · split
    · refine Ends.ite ?_ runPass_ends
      next sp _ _ _ l b _ _ _ =>
      obtain ⟨hs, hr⟩ := testLater_leads (s := s) (t := s) (u := u) (l := l) (ps := laterPlanes sp b) id
      dsimp only
      split
      · next o ho => exact Ends.ite (hr o ho) (Ends.after hs runPass_ends)
      · exact Ends.after hs runPass_ends
    · exact runPass_ends

theorem noteLane_ends {s t : State} {u : Nat} {l : Launch} {w : LWord} {dsts : List Nat} {r : Res} (h : Ends s r) :
    Ends s (noteLane t u l w dsts r) := by
  unfold noteLane
  split
  · next x =>
    split
    · exact h
    · dsimp only
      have hx : ∀ y, Keeps x y → Ends s (.next y) := fun y hy => Ends.nextAfter fun hs => hy.canonical (h x rfl hs)
      split
      · exact hx _ (Keeps.refl x).putIssue
      · exact hx _ (Keeps.refl x).putIssue.putSpan
  · exact h

theorem laneTurn_ends {s : State} {u : Nat} : Ends s (laneTurn s u) := by
  have hf := fetchLane_leads s u
  unfold laneTurn
  split
  · next r hr =>
    rw [hr] at hf
    cases hf with
    | out h => exact h
  · next i t ht =>
    rw [ht] at hf
    cases hf with
    | run h =>
      split
      · exact Ends.execAfter h i
      · split
        · exact Ends.execAfter h i
        · exact Ends.ite (noteLane_ends (Ends.after h firstPass_ends)) (Ends.after h firstPass_ends)

theorem scalarRun_ends {s : State} {u : Nat} : Ends s (scalarRun s u) := by
  have hf : (if aheadOnly s u then fetchAhead s u else fetchScalar s u).Leads s :=
    Fetched.Leads.ite (fetchAhead_leads s u) (fetchScalar_leads s u)
  exact runFetched_ends hf

theorem scalarTurn_ends {s : State} {u : Nat} : Ends s (scalarTurn s u) := by
  unfold scalarTurn
  dsimp only
  split
  · next t sp ht _ =>
    refine Ends.ite scalarRun_ends (Ends.nextAfter fun hs => (Keeps.refl t).putIssue.canonical (scalarRun_ends t ht hs))
  · exact scalarRun_ends

theorem turnRes_ends {s : State} {t : Turn} : Ends s (turnRes s t) := by
  cases t with
  | scalar u => exact Ends.ite scalarTurn_ends Ends.fault
  | lane u => exact Ends.ite laneTurn_ends Ends.fault
  | fp die i => exact runFetched_ends (fetchFp_leads s die i)
  | frontEnd => exact runFetched_ends (fetchFrontEnd_leads s)
  | event i x => exact runFetched_ends (fetchEvent_leads s i x)
  | time c k => exact Ends.next (Keeps.refl s).passTime

theorem runTurn_ends {s : State} {t : Turn} : Ends s (runTurn s t) := by
  have hr : Ends s (turnRes s t) := turnRes_ends
  unfold runTurn afterTurn
  split
  · next x hx =>
    rw [hx] at hr
    exact Ends.nextAfter fun hs => (Keeps.foldl (Keeps.refl x) fun y u hy => hy.logUndo.ite hy).canonical (hr x rfl hs)
  · exact hr

theorem step_ends {s : State} : Ends s (step s) := by
  unfold step
  split
  · exact Ends.after id runTurn_ends
  · unfold freeTurn
    dsimp only
    split
    · next t ht => exact Ends.nextAfter fun hs => runTurn_ends t ht hs
    · exact Ends.next (Keeps.passTime ((Keeps.refl s).same rfl))

/-- Settles O56: whatever acts, what a step does to the package is made of operations that keep the canonical form. -/
theorem stepKeepsCanonicalForm : Obligations.StepKeepsCanonicalForm := by
  unfold Obligations.StepKeepsCanonicalForm
  exact fun s t hs ht => step_ends t ht hs

end Sys2Proof.Machine

/-! Settlements of the family 'other': the memory pass that scalar and lane accesses share (R102 to R109, R124, R125). -/

namespace Sys2Proof.Machine

/-! ### Commit, and the checks of a pass -/

theorem commit_scalar {t : State} (h : t.cur.lane = false) (sp : Span) : commit t sp = .next (putSpan t t.cur.uid (advance sp)) := by
  simp [commit, commitS, h]

theorem commit_lane {t : State} (h : t.cur.lane = true) (sp : Span) : commit t sp = .next (putSpan t t.cur.uid (advancePass sp)) := by
  simp [commit, commitL, h]

theorem Keeps.lane {s t : State} (h : Keeps s t) : t.cur.lane = s.cur.lane := by rw [h.cur]

theorem Keeps.uid {s t : State} (h : Keeps s t) : t.cur.uid = s.cur.uid := by rw [h.cur]

/-- The commit of a turn that has kept the step in progress, of an S-word. -/
theorem Keeps.commit_scalar {s t : State} (h : Keeps s t) (hl : s.cur.lane = false) (sp : Span) :
    commit t sp = .next (Machine.putSpan t s.cur.uid (advance sp)) := by
  rw [Machine.commit_scalar (h.lane.trans hl), h.uid]

/-- The same of a pass. -/
theorem Keeps.commit_lane {s t : State} (h : Keeps s t) (hl : s.cur.lane = true) (sp : Span) :
    commit t sp = .next (Machine.putSpan t s.cur.uid (advancePass sp)) := by
  rw [Machine.commit_lane (h.lane.trans hl), h.uid]

theorem afterAcquire_none {s : State} {sp : Span} (h : sp.acquiring = none) (k : Res) : afterAcquire s sp k = k := by
  simp [afterAcquire, h]

/-- No cause of a trap or of waiting stands among places. -/
theorem filter_chkBad_placed (ps : List (Acc × Place)) (c : Nat) :
    (ps.map (fun p => (p.1, LaneChk.ok p.2))).filter (fun p => chkBad p.2 c) = [] := by
  rw [List.filter_eq_nil_iff]
  intro p hp
  obtain ⟨q, -, rfl⟩ := List.mem_map.1 hp
  simp [chkBad]

theorem firstCause_placed (ps : List (Acc × Place)) : firstCause (ps.map (fun p => (p.1, LaneChk.ok p.2))) = none := by
  unfold firstCause
  rw [List.findSome?_eq_none_iff]
  intro c _
  rw [filter_chkBad_placed]

theorem memPass_placed {s s' : State} {sp : Span} {l : Launch} {k : AccKind} {w : Nat} {accs : List Acc} {ps : List (Acc × Place)}
    (h : accsPlaced s s' sp l k w accs ps) (f : State → List (Acc × Place) → Res) : memPass s sp l k w accs f = f s' ps := by
  have hwait : (ps.map (fun p => (p.1, LaneChk.ok p.2))).any (fun p => p.2 == .wait) = false := by
    rw [List.any_eq_false]
    intro p hp
    obtain ⟨q, -, rfl⟩ := List.mem_map.1 hp
    simp
  have hplaces : (ps.map (fun p => (p.1, LaneChk.ok p.2))).filterMap (fun p => match p.2 with
      | .ok pl => some (p.1, pl)
      | _ => none) = ps := by
    rw [List.filterMap_map]
    exact List.filterMap_some
  unfold memPass
  rw [h]
  simp only [filter_chkBad_placed, hwait, firstCause_placed]
  rw [← hplaces]
  simp

theorem accsPlaced_one {s s' : State} {sp : Span} {l : Launch} {k : AccKind} {w a : Nat} {pl : Place}
    (h : checkAcc s sp l k w a = (s', .ok pl)) : accsPlaced s s' sp l k w [(0, a)] [((0, a), pl)] := by
  simp [accsPlaced, checkAccs, h]

theorem Keeps.ofPlaced {s s' : State} {sp : Span} {l : Launch} {k : AccKind} {w : Nat} {accs : List Acc} {ps : List (Acc × Place)}
    (h : accsPlaced s s' sp l k w accs ps) : Keeps s s' :=
  (Keeps.refl s).checkAccs.ofFst h

/-! ### Loads -/

theorem Keeps.loadIssued {s₀ s : State} {sp : Span} {l : Launch} {k : AccKind} {n w : Nat} {signed : Bool} {dest : Dest}
    {ps : List (Acc × Place)} (h : Keeps s₀ s) : Keeps s₀ (loadIssued s sp l k n w signed dest ps) := by
  unfold Machine.loadIssued
  exact Keeps.foldl (Keeps.newLoad (h.flushLines.ite h.flushLines.seeHits.seeScratch)) fun _ _ h1 => h1.askLine

theorem issueLoad_ready {s : State} {sp : Span} {l : Launch} {k : AccKind} {w : Nat} {ps : List (Acc × Place)}
    (h : loadMayIssue s sp l k w ps) (n : Nat) (signed : Bool) (dest : Dest) :
    issueLoad s sp l k n w signed dest ps =
      commit (loadIssued s sp l k n w signed dest ps) (markDest (loadSpan s sp l k w ps) dest) := by
  obtain ⟨hatom, hahead, hask⟩ := h
  have hfree : ((physLines ps ++ localLines ps).any (fun x => atomicsOn s s.cur.uid x.1) ||
      (!l.det && loadAhead s sp k w (laneReads s sp l k w ps))) = false := by
    rw [Bool.or_eq_false_iff, List.any_eq_false]
    refine ⟨fun x hx => by simp [hatom x hx], ?_⟩
    cases hd : l.det with
    | true => rfl
    | false => simpa using hahead hd
  unfold issueLoad
  rw [if_neg (by rw [hfree]; decide), if_neg (by rw [hask]; decide)]
  unfold loadIssued loadSpan
  -- poisoned bytes of a view count in a deterministic launch alone
  generalize l.det = det
  cases det <;> rfl

/-- A load that is not consuming, and whose accesses have their places, issues. -/
theorem loadPass_issues {s s' : State} {sp : Span} {l : Launch} {k : AccKind} {w : Nat} {accs : List Acc} {ps : List (Acc × Place)}
    (ha : sp.acquiring = none) (hp : sp.pend = .none) (hk : k ≠ .cons) (hne : ps ≠ []) (hps : accsPlaced s s' sp l k w accs ps)
    (hb : readsBad s' sp l w ps = false) (hm : loadMayIssue s' sp l k w ps) (n : Nat) (signed : Bool) (dest : Dest) :
    loadPass s sp l k n w signed dest accs =
      commit (loadIssued s' sp l k n w signed dest ps) (markDest (loadSpan s' sp l k w ps) dest) := by
  unfold loadPass
  rw [afterAcquire_none ha, hp]
  have hempty : ps.isEmpty = false := by simpa using hne
  simp only [memPass_placed hps, hb, hk, hempty]
  exact issueLoad_ready hm n signed dest

/-- A pass of a load without a lane has nothing to check. -/
theorem loadPass_nil {s : State} {sp : Span} (ha : sp.acquiring = none) (hp : sp.pend = .none) (l : Launch) (k : AccKind) (n w : Nat)
    (signed : Bool) (dest : Dest) : loadPass s sp l k n w signed dest [] = commit s sp := by
  unfold loadPass
  have hps : accsPlaced s s sp l k w [] [] := rfl
  rw [afterAcquire_none ha, hp]
  simp [memPass_placed hps, readsBad]

/-- The second half of a consuming load: every line has answered as counted. -/
theorem loadPass_consumed {s : State} {sp : Span} {i : Nat} {ld : Load} (ha : sp.acquiring = none) (hp : sp.pend = .consume i)
    (hf : mapFind s.loads i = some ld) (hw : ld.waits = 0) (hserved : ∀ x ∈ ld.served, x.2 = false) (l : Launch) (k : AccKind)
    (n w : Nat) (signed : Bool) (dest : Dest) (accs : List Acc) :
    loadPass s sp l k n w signed dest accs =
      commit (putLoad (ld.served.foldl (fun t x => settleLine t x.1 false) s) i { ld with dest := dest })
        (markDest { sp with pend := .none } dest) := by
  have hbad : ld.served.filterMap (fun x => if x.2 then some x.1 else none) = [] := by
    rw [List.filterMap_eq_nil_iff]
    intro x hx
    simp [hserved x hx]
  unfold loadPass
  rw [afterAcquire_none ha, hp]
  simp [consumeDone, hf, hw, hbad]

theorem Keeps.settleLines {s : State} {i : Nat} {ld : Load} (served : List (Nat × Bool)) :
    Keeps s (Machine.putLoad (served.foldl (fun t x => Machine.settleLine t x.1 false) s) i ld) :=
  Keeps.putLoad (Keeps.foldl (Keeps.refl s) fun _ _ h => h.settleLine)

theorem scalarLoad_issues {d : BitVec 6} {regs : List Nat} {s s' : State} {sp : Span} {l : Launch} {k : AccKind} {w : Nat} {pl : Place}
    (hl : s.cur.lane = false) (hr : ScalarsReady sp (regs ++ [d.toNat])) (ha : sp.acquiring = none)
    (hp : sp.pend = .none) (addr : Nat) (hc : checkAcc s sp l k w addr = (s', .ok pl))
    (hb : readsBad s' sp l w [((0, addr), pl)] = false) (hm : loadMayIssue s' sp l k w [((0, addr), pl)]) (hk : k ≠ .cons) (n : Nat) (signed : Bool) :
    needS s sp (regs ++ [d.toNat]) (loadPass s sp l k n w signed (.s d.toNat) [(0, addr)]) =
      .next (putSpan (loadIssued s' sp l k n w signed (.s d.toNat) [((0, addr), pl)])
        (loadIssued s' sp l k n w signed (.s d.toNat) [((0, addr), pl)]).cur.uid
        (advance (sMarkEmpty (loadSpan s' sp l k w [((0, addr), pl)]) d.toNat))) := by
  have hkeep : Keeps s (loadIssued s' sp l k n w signed (.s d.toNat) [((0, addr), pl)]) := (Keeps.ofPlaced (accsPlaced_one hc)).loadIssued
  rw [needS_ready hr, loadPass_issues ha hp hk (by simp) (accsPlaced_one hc) hb hm, commit_scalar (hkeep.lane.trans hl)]
  rfl

end Sys2Proof.Machine

namespace Sys2Proof
open Machine

/-- Settles O7: the checks' place of the one access, then the issue of a load; a consuming load's second half. -/
theorem scalarLoads : Obligations.ScalarLoads := by
  unfold Obligations.ScalarLoads
  refine ⟨fun d a b imm w e s s' sp l pl h hl hr ha hp p hmem hc hb hm => ?issue, fun d a b w e s sp l i ld h hl hr ha hp hf hw hs => ?consume⟩
  case issue =>
    refine ⟨_, rfl, ?_⟩
    have hr2 : ScalarsReady sp ([a.toNat] ++ [d.toNat]) := fun r hm => hr r (by simp at hm ⊢; tauto)
    rw [List.mem_append] at hmem
    obtain hmem | hmem := hmem
    · simp only [Machine.scalarLoads, List.mem_cons, List.not_mem_nil, or_false] at hmem
      obtain rfl | rfl | rfl | rfl := hmem
      · rw [exec_ldB64, execLdB64, scalarLoad, withLaunch_actingIn h]
        exact scalarLoad_issues hl hr2 ha hp _ hc hb hm nofun 0 false
      · rw [exec_ldN32, execLdN32, scalarLoad, withLaunch_actingIn h]
        exact scalarLoad_issues hl hr2 ha hp _ hc hb hm nofun 0 false
      · rw [exec_ldIndexed, execLdIndexed, scalarLoad, withLaunch_actingIn h]
        exact scalarLoad_issues hl hr ha hp _ hc hb hm nofun 0 (e == 1#1)
      · rw [exec_ldUnc, execLdUnc, scalarLoad, withLaunch_actingIn h]
        exact scalarLoad_issues hl hr ha hp _ hc hb hm nofun 0 (e == 1#1)
    · split at hmem
      · simp at hmem
      · next hn =>
        obtain rfl := List.mem_singleton.1 hmem
        rw [exec_ldReaders, execLdReaders, withLaunch_actingIn h, if_neg hn]
        exact scalarLoad_issues (regs := [a.toNat, b.toNat]) hl hr ha hp _ hc hb hm nofun _ (e == 1#1)
  case consume =>
    refine ⟨_, rfl, ?_⟩
    rw [exec_ldCons, execLdCons, scalarLoad, withLaunch_actingIn h, needS_ready (rs := [a.toNat, b.toNat] ++ [d.toNat]) hr, loadPass_consumed ha hp hf hw hs,
      commit_scalar ((Keeps.settleLines ld.served).lane.trans hl)]
    rfl

/-- Settles O25: as the scalar loads, with the places of every lane's access. -/
theorem laneLoads : Obligations.LaneLoads := by
  unfold Obligations.LaneLoads
  refine ⟨fun x s s' sp l ps hl hr ha hp p hmem => ?issue, fun x s sp l i ld hl hr ha hp hf hw hs => ?consume⟩
  case issue =>
    have hexec : exec p.1 s = loadPass s sp l p.2.1 p.2.2 (memWidth x.ty).1 (memWidth x.ty).2
        (.v x.vd.toNat ((memWidth x.ty).1 == 8)) (passAccs s sp x) ∧ p.2.1 ≠ .cons := by
      simp only [Machine.laneLoads, List.mem_append, List.mem_cons, List.not_mem_nil, or_false] at hmem
      obtain (rfl | rfl) | hmem := hmem
      · exact ⟨by rw [exec_vld, execVld, laneLoad, lanePass_ready hr], nofun⟩
      · exact ⟨by rw [exec_vldUnc, execVldUnc, laneLoad, lanePass_ready hr], nofun⟩
      · split at hmem
        · simp at hmem
        · next hn =>
          obtain rfl := List.mem_singleton.1 hmem
          exact ⟨by rw [exec_vldReaders, execVldReaders, if_neg hn, laneLoad, lanePass_ready hr], nofun⟩
    obtain ⟨hexec, hk⟩ := hexec
    rw [hexec]
    refine ⟨fun hne hps hb hm t ht => ?_, fun hmask => ?_⟩
    · have hkeep : Keeps s t := ht ▸ (Keeps.ofPlaced hps).loadIssued
      rw [loadPass_issues ha hp hk hne hps hb hm, ← ht, commit_lane (hkeep.lane.trans hl)]
    · have hnil : passAccs s sp x = [] := by simp [passAccs, passLanes, hmask, bitsOf]
      rw [hnil, loadPass_nil ha hp, commit_lane hl]
      rfl
  case consume =>
    refine ⟨_, rfl, ?_⟩
    rw [exec_vldCons, execVldCons, laneLoad, lanePass_ready hr, loadPass_consumed ha hp hf hw hs,
      commit_lane ((Keeps.settleLines ld.served).lane.trans hl)]

end Sys2Proof

/-! Settlements of the family 'other': what a store of a deterministic launch in debug mode logs (R208, R299).

Statements O8 and O26 take the old bytes of the undo entry from the span whose commit buffer has the store in it already; the model
logs them from the span before. The two differ wherever the log is mapped and the store changes a byte. -/

namespace Sys2Proof.Machine

/-- A deterministic launch in debug mode, whose decks write the bytes from 0x30000 to 0x3FFFF and whose undo log begins at 0x60000. -/
def loggedLaunch : Launch :=
  { probeLaunch with
    det := true, debug := true, undoBase := 0x60000, quantumLen := 1024, writes := [(0x30000, 0x10000, false)], strides := [(0, 0, 0)] }

/-- Tables of three levels whose last entry maps the first gigabyte onto itself, and two bytes that differ from zero at 0x30000. -/
def loggedMemory : List Host.Cell :=
  [(0x30000, 0x55), (0x30001, 0x66), (0x100000, 0x01), (0x100001, 0x10), (0x100002, 0x10), (0x101000, 0x01), (0x101001, 0x20),
   (0x101002, 0x10), (0x102000, 0x0F)]

/-- The probe's machine with that launch and memory, its span 1 acting. -/
def loggedState (sp : Span) (cur : Cur) : State :=
  let s := probeMachine State.reset []
  { s with
    cur, launches := mapPut s.launches 2 loggedLaunch, spans := mapPut s.spans 1 sp, mem := loggedMemory }

/-- The first of the old bytes in the first entry of the log, as the span's core sees it after an outcome (R208). -/
def loggedByte (r : Res) : Option Byte :=
  match r with
  | .next t => some (coreByte t 0 0x60018)
  | _ => none

/-- s1 holds the address 0x30000, s3 the value that is stored there. -/
def loggedSpan : Span := sWrite (sWrite (probeSpan []) 1 0x30000) 3 0x1122334455667788

/-- Refutes O8: the model logs the old byte 0x55 of address 0x30000, the statement the byte 0x88 that the store has just put there. -/
theorem not_scalarStores : ¬ Obligations.ScalarStores := by
  unfold Obligations.ScalarStores
  intro h
  let s := loggedState loggedSpan { uid := 1 }
  let pl := Place.phys 0x30000
  obtain ⟨-, -, -, hdet⟩ := h.1 3 1 0 0 0 s s loggedSpan loggedLaunch pl probeDeck (by unfold ActingIn Acting; decide +kernel)
    (by decide +kernel) (by unfold ScalarsReady; decide +kernel) (by decide +kernel) _ List.mem_cons_self _ rfl
  have hexec := hdet (by decide +kernel) (by decide +kernel) (by decide +kernel) (by decide +kernel) (by decide +kernel) _ rfl
    (by decide +kernel) _ rfl _ rfl
  have hbyte := congrArg loggedByte hexec
  exact absurd hbyte (by decide +kernel)

/-- A lane store of the word of v3 to the address in s1 plus the lane's word of v2. -/
def loggedFields : LFields :=
  { vd := 0, va := 2, vb := 1, vc := 3, bcls := 1, ccls := 0, fe := 0, fs := 0, rm := 0, ty := 6, sdst := 0, mod := 0, p2 := 0 }

def loggedPass : Span := vWrite (sWrite (probeSpan [probeBlock]) 1 0x30000) 3 0 0x55667788

/-- Refutes O26: as O8, by a pass of `vst` on lane 0. -/
theorem not_laneStoresAndAtomics : ¬ Obligations.LaneStoresAndAtomics := by
  unfold Obligations.LaneStoresAndAtomics
  intro h
  let s := loggedState loggedPass { uid := 1, lane := true, mask := 1 }
  let ps : List (Acc × Place) := [((0, 0x30000), .phys 0x30000)]
  obtain ⟨-, -, hdet⟩ := h.1 loggedFields s s loggedPass loggedLaunch ps [] (by decide +kernel)
    (by unfold PassReady ActingIn Acting; decide +kernel) (by decide +kernel) _ List.mem_cons_self
  have hexec := hdet (by decide +kernel) (by decide +kernel) (by unfold accsPlaced; decide +kernel) (by decide +kernel) (by decide +kernel)
    _ rfl (by decide +kernel) _ rfl _ rfl
  have hbyte := congrArg loggedByte hexec
  exact absurd hbyte (by decide +kernel)

end Sys2Proof.Machine

/-! Settlements of the family 'other': operations on scratch words (R104, R109, R254, R255). -/

namespace Sys2Proof.Machine

/-! ### What operations on scratch leave unchanged -/

/-- `t` is `s` but for the cores' banks and what the agents know of one another. -/
def ScratchApart (s t : State) : Prop := ∃ cores ord, t = { s with cores := cores, ord := ord }

theorem ScratchApart.refl (s : State) : ScratchApart s s := ⟨s.cores, s.ord, rfl⟩

theorem ScratchApart.trans {s t u : State} (h : ScratchApart s t) (h' : ScratchApart t u) : ScratchApart s u := by
  obtain ⟨c, o, rfl⟩ := h
  obtain ⟨c', o', rfl⟩ := h'
  exact ⟨c', o', rfl⟩

theorem ScratchApart.foldl {α : Type} {f : State → α → State} {l : List α} {s t : State} (h : ScratchApart s t)
    (hf : ∀ u x, ScratchApart u (f u x)) : ScratchApart s (l.foldl f t) := by
  induction l generalizing t with
  | nil => exact h
  | cons x l ih => exact ih (h.trans (hf t x))

theorem ScratchApart.ite {c : Prop} [Decidable c] {s t u : State} (h : ScratchApart s t) (h' : ScratchApart s u) :
    ScratchApart s (if c then t else u) := by
  split
  · exact h
  · exact h'

section
variable {s t : State} (h : ScratchApart s t)
include h

theorem ScratchApart.cur : t.cur = s.cur := by obtain ⟨c, o, rfl⟩ := h; rfl
theorem ScratchApart.nextId : t.nextId = s.nextId := by obtain ⟨c, o, rfl⟩ := h; rfl
theorem ScratchApart.deckOf (k : Nat) : deckOf t k = deckOf s k := by obtain ⟨c, o, rfl⟩ := h; rfl

end

theorem scratchApart_putBank (s : State) (g p : Nat) (b : Bank) : ScratchApart s (putBank s g p b) := ⟨_, _, rfl⟩

theorem scratchApart_putAgent (s : State) (a : Nat) (x : Agent) : ScratchApart s (putAgent s a x) := ⟨_, _, rfl⟩

theorem scratchApart_learn (s : State) (a : Nat) (c : Clock) : ScratchApart s (learn s a c) := ⟨_, _, rfl⟩

theorem scratchApart_localPut (s : State) (d : Deck) (off : Nat) (b : Byte) : ScratchApart s (localPut s d off b) := by
  unfold localPut
  split
  · exact scratchApart_putBank ..
  · exact .refl s

theorem scratchApart_localWrite (s : State) (d : Deck) (off : Nat) (l : List Byte) : ScratchApart s (localWrite s d off l) :=
  (ScratchApart.refl s).foldl fun _ _ => scratchApart_localPut ..

theorem scratchApart_localAtom (s : State) (d : Deck) (off n : Nat) : ScratchApart s (localAtom s d off n) := by
  unfold localAtom
  split
  · exact scratchApart_putBank ..
  · exact .refl s

theorem scratchApart_localMark (s : State) (d : Deck) (off n a : Nat) : ScratchApart s (localMark s d off n a) := by
  refine .ite (.refl s) ((ScratchApart.refl s).foldl fun t i => ?_)
  split
  · exact scratchApart_putBank ..
  · exact .refl t

theorem scratchApart_seeLocal (s : State) (d : Deck) (off n a : Nat) : ScratchApart s (seeLocal s d off n a) :=
  .ite (.refl s) (scratchApart_putAgent ..)

theorem scratchApart_addRelease (s : State) (key : Nat) (r : Released) : ScratchApart s (addRelease s key r) := ⟨_, _, rfl⟩

theorem scratchApart_orderLocal (s : State) (sp : Span) (ord : Nat) (ops : List AtomOp) : ScratchApart s (orderLocal s sp ord ops) := by
  have hacq : ∀ offs : List Nat, ScratchApart s (if ordAcq ord then
      offs.foldl (fun t o => acquireFrom t s.cur.uid sp.core (ordScope ord) (relKeyLocal sp.deck o) 0 none) s else s) :=
    fun offs => .ite ((ScratchApart.refl s).foldl fun t o => scratchApart_learn ..) (.refl s)
  unfold orderLocal
  refine .ite (.refl s) ?_
  exact .ite ((hacq _).trans ((scratchApart_putAgent ..).foldl fun t o => scratchApart_addRelease ..)) (hacq _)

/-! ### Their places -/

/-- A word of scratch that the acting span may write has its place in scratch. -/
theorem checkAcc_scratch {s : State} {sp : Span} {a w : Nat} {d : Deck} (h : ScratchAt s sp a w d) (l : Launch) {k : AccKind}
    (hk : k ≠ .cons ∧ k ≠ .readers) : checkAcc s sp l k w a = (s, .ok (.loc (a - localLo))) := by
  obtain ⟨hloc, halign, hd, b, hmode, hscratch, hswitch⟩ := h
  have hquad : inQuad a = false := by
    simp only [inLocal, Bool.and_eq_true, decide_eq_true_eq] at hloc
    simp only [inQuad, Bool.and_eq_false_iff, decide_eq_false_iff_not]
    exact .inr (Nat.not_lt.2 hloc.1)
  have htop : ¬ vaTop ≤ a := by
    simp only [inLocal, Bool.and_eq_true, decide_eq_true_eq] at hloc
    exact Nat.not_le.2 hloc.2
  unfold checkAcc
  rw [if_neg (by simp [hquad]), if_neg (by simp [halign]), if_neg htop, if_pos hloc]
  simp [hd, hmode, hscratch, hswitch, hk]

/-- The bytes of the deck's scratch hold no uncorrectable error. -/
theorem readsBad_scratch {s : State} {sp : Span} {l : Launch} {w i a off : Nat} {d : Deck} (hdet : l.det = false)
    (hd : deckOf s sp.deck = some d) (hb : localBad s d off w = false) : readsBad s sp l w [((i, a), .loc off)] = false := by
  simp [readsBad, hd, hb, hdet]

end Sys2Proof.Machine

/-! Settlements of the family 'other': scalar atomics (R109, R261 to R265, R299, R301). -/

namespace Sys2Proof.Machine

/-! ### The operations -/

/-- The functions of R109 are those of the codes. -/
theorem atomFns_eq {w i : Nat} {f : AtomFn} (h : (f, i) ∈ (atomFns w).zipIdx) : f = atomFn i w := by
  simp only [atomFns, List.zipIdx_cons, List.zipIdx_nil, List.mem_cons, List.not_mem_nil, or_false, Prod.mk.injEq] at h
  obtain ⟨rfl, rfl⟩ | ⟨rfl, rfl⟩ | ⟨rfl, rfl⟩ | ⟨rfl, rfl⟩ | ⟨rfl, rfl⟩ | ⟨rfl, rfl⟩ | ⟨rfl, rfl⟩ | ⟨rfl, rfl⟩ | ⟨rfl, rfl⟩ |
    ⟨rfl, rfl⟩ | ⟨rfl, rfl⟩ | ⟨rfl, rfl⟩ := h <;> rfl

theorem exec_atoms {d a b : BitVec 6} {o : BitVec 4} {wi : Nat × List Instr}
    (h : wi ∈ [(32, atoms32 d a b o), (64, atoms64 d a b o)]) {i : Instr} {n : Nat} (hi : (i, n) ∈ wi.2.zipIdx) (s : State) :
    exec i s = scalarAtom n wi.1 d a b o s := by
  simp only [List.mem_cons, List.not_mem_nil, or_false] at h
  obtain rfl | rfl := h
  · simp only [atoms32, List.zipIdx_cons, List.zipIdx_nil, List.mem_cons, List.not_mem_nil, or_false, Prod.mk.injEq] at hi
    obtain ⟨rfl, rfl⟩ | ⟨rfl, rfl⟩ | ⟨rfl, rfl⟩ | ⟨rfl, rfl⟩ | ⟨rfl, rfl⟩ | ⟨rfl, rfl⟩ | ⟨rfl, rfl⟩ | ⟨rfl, rfl⟩ | ⟨rfl, rfl⟩ |
      ⟨rfl, rfl⟩ | ⟨rfl, rfl⟩ | ⟨rfl, rfl⟩ := hi <;> rfl
  · simp only [atoms64, List.zipIdx_cons, List.zipIdx_nil, List.mem_cons, List.not_mem_nil, or_false, Prod.mk.injEq] at hi
    obtain ⟨rfl, rfl⟩ | ⟨rfl, rfl⟩ | ⟨rfl, rfl⟩ | ⟨rfl, rfl⟩ | ⟨rfl, rfl⟩ | ⟨rfl, rfl⟩ | ⟨rfl, rfl⟩ | ⟨rfl, rfl⟩ | ⟨rfl, rfl⟩ |
      ⟨rfl, rfl⟩ := hi <;> rfl

/-- An instruction and its function stand at the place of their code. -/
theorem mem_zip_zipIdx {α β : Type} {l : List α} {m : List β} {p : (α × β) × Nat} (h : p ∈ (l.zip m).zipIdx) :
    (p.1.1, p.2) ∈ l.zipIdx ∧ (p.1.2, p.2) ∈ m.zipIdx := by
  obtain ⟨⟨x, y⟩, n⟩ := p
  simp only [List.mk_mem_zipIdx_iff_getElem?, List.getElem?_zip_eq_some] at h ⊢
  exact h

theorem scalarAtom_ready {s : State} {sp : Span} {l : Launch} {d a b : BitVec 6} (h : ActingIn s sp l)
    (hr : ScalarsReady sp [a.toNat, b.toNat, d.toNat]) (op w : Nat) (o : BitVec 4) :
    scalarAtom op w d a b o s = atomPass s sp l op w o.toNat (atomDest d) [(0, (sRead sp a.toNat).toNat)]
      (fun _ => (sRead sp b.toNat).toNat) (fun _ => (sRead sp d.toNat).toNat) := by
  rw [scalarAtom, withLaunch_actingIn h, needS_ready hr]
  rfl

/-! ### Acceptance: what commits -/

theorem Keeps.atomBegin {s₀ s : State} {sp : Span} {o : Nat} (h : Keeps s₀ s) : Keeps s₀ (atomBegin s sp o) := by
  unfold Machine.atomBegin
  have ht : Keeps s₀ (if ordAcq o && decide (2 ≤ ordScope o) then Machine.closeWindows s sp.core (fun _ => true) else s) :=
    h.closeWindows.ite h
  exact Keeps.ite ht.writeBackOf ht

theorem undoLines_nil (s : State) (sp : Span) (l : Launch) : undoLines s sp l [] = (s, sp) := by
  unfold undoLines
  split <;> rfl

theorem orderLocal_nil (s : State) (sp : Span) (ord : Nat) : orderLocal s sp ord [] = s := rfl

/-- An atomic on a scratch word whose covered writes are performed leaves the function's value there. -/
theorem atomCommit_performed {s t : State} {sp sp' : Span} {l : Launch} {op w ord a off d e : Nat} {dest : Dest} {dk : Deck}
    (hready : atomReady s sp ord = true) (hun : undoLines (atomBegin s sp ord) sp l [(a, .loc off)] = (t, sp'))
    (hd : deckOf t sp'.deck = some dk) :
    let x : AtomOp := ⟨(0, a), .loc off, d, e⟩
    let q := orderLocal t sp' ord [x]
    let old := localRead q dk off (w / 8)
    atomCommit s sp l op w ord dest [x] [] = commit (atomDone q dk off w (atomFn op w old d e) old dest)
      (markDest (if ordAcq ord then beginAcquire sp' q.nextId (ordScope ord) [] else sp') dest) := by
  intro x q old
  have hq : ScratchApart t q := scratchApart_orderLocal ..
  have ht : t.cur = s.cur := by
    have := (Keeps.refl s).atomBegin (sp := sp) (o := ord) |>.undoLines (sp := sp) (l := l) (ps := [(a, .loc off)])
    rw [hun] at this
    exact this.cur
  have hcur : q.cur = s.cur := hq.cur.trans ht
  have hdq : deckOf q sp'.deck = some dk := (hq.deckOf _).trans hd
  obtain ⟨z, hz⟩ : ∃ z, z = localMark (localAtom (localWrite (seeLocal q dk off (w / 8) s.cur.uid) dk off
      (natToBytes (w / 8) (atomFn op w old d e))) dk off (w / 8)) dk off (w / 8) s.cur.uid := ⟨_, rfl⟩
  have hlocal : atomLocal q sp' op w [x] = (z, [(0, old)]) := by
    simp [atomLocal, x, hdq, hcur, old, hz]
  have hid : z.nextId = q.nextId := hz ▸ ((((scratchApart_seeLocal q dk off (w / 8) s.cur.uid).trans
    (scratchApart_localWrite ..)).trans (scratchApart_localAtom ..)).trans (scratchApart_localMark ..)).nextId
  have hwait : ((if ordRel ord then (coveredBy (atomBegin s sp ord) s.cur.uid (ordScope ord)).filter (fun i => !([] : List Nat).contains i)
      else []).all (isPerformed (atomBegin s sp ord))) = true := by
    simpa [atomReady, atomCovered] using hready
  unfold atomCommit
  extract_lets u sc s1 s2 cov wait now held un s3 sp3 lo r p s4 s5 sp4
  have h2 : s2 = atomBegin s sp ord := rfl
  have hw : wait = false := by simp only [wait, cov, h2]; rw [hwait]; rfl
  have hnow : now = [x] := by simp [now, hw, x, isScratch]
  have hheld : held = [] := by simp [held, hw]
  have hun' : un = (t, sp') := by simp only [un, hnow, h2]; exact hun
  have hs3 : s3 = t := by simp only [s3, hun']
  have hsp3 : sp3 = sp' := by simp only [sp3, hun']
  have hlo : lo = (z, [(0, old)]) := by simp only [lo, hs3, hsp3, hnow]; exact hlocal
  have hr : r = newLoad z (mkLoad s.cur.uid dest (w / 8) false [⟨0, noPa, some old⟩] 0) := by
    simp [r, hlo, hheld, atomLanes, x, u]
  have hp : p = (r.1, []) := by simp [p, hheld]
  have hs5 : s5 = r.1 := by simp [s5, s4, hheld, hp]
  have hdone : atomDone q dk off w (atomFn op w old d e) old dest = r.1 := by rw [hr, hz, atomDone, hcur]
  have hr2 : r.2 = q.nextId := by rw [hr, ← hid]; rfl
  simp only [hs5, hdone, sp4, hsp3, hr2, sc]

/-- A release atomic on a scratch word whose covered writes are under way is held, with a marker. -/
theorem atomCommit_held {s : State} {sp : Span} {l : Launch} {op w ord a off d e : Nat} {dest : Dest}
    (hready : atomReady s sp ord = false) :
    let x : AtomOp := ⟨(0, a), .loc off, d, e⟩
    let r := newLoad (atomBegin s sp ord) (mkLoad s.cur.uid dest (w / 8) false [⟨0, noPa, none⟩] 1)
    let c := publish r.1 s.cur.uid
    atomCommit s sp l op w ord dest [x] [] =
      commit (holdScratch c.1 sp op w (ordScope ord) r.2 (atomCovered s sp ord) c.2 x)
        (markDest (if ordAcq ord then beginAcquire sp r.2 (ordScope ord) [] else sp) dest) := by
  intro x r' c'
  -- what is not ready has something covered, and is a release
  have hrel : ordRel ord = true := by
    by_contra hrel
    simp [atomReady, atomCovered, hrel] at hready
  unfold atomCommit
  extract_lets u sc s1 s2 cov wait now held un s3 sp3 lo r p s4 s5 sp4
  have h2 : s2 = atomBegin s sp ord := rfl
  have hcov : cov = atomCovered s sp ord := by simp [cov, h2, atomCovered, hrel, u, sc]
  have hw : wait = true := by simp only [wait, hcov, h2]; rw [← atomReady, hready]; rfl
  have hnow : now = [] := by simp [now, hw]
  have hheld : held = [x] := by simp [held, hw, x, isScratch]
  have hun : un = (s2, sp) := by simp only [un, hnow, List.map_nil, undoLines_nil]
  have hsp3 : sp3 = sp := by simp only [sp3, hun]
  have hlo : lo = (s2, []) := by simp [lo, s3, hun, hnow, orderLocal_nil, atomLocal]
  have hr : r = r' := by simp [r, r', hlo, hheld, atomLanes, x, u, h2]
  have hp : p = c' := by simp [p, hrel, hheld, hr, c', u]
  simp only [s5, s4, sp4, hheld, hp, hr, hcov, hsp3, List.foldl_cons, List.foldl_nil, sc]

/-- An atomic that its home has accepted goes on to be performed. -/
theorem atomCommit_accepted {s : State} {sp : Span} {l : Launch} {op w ord i a pa d e : Nat} {dest : Dest} :
    let t := atomBegin s sp ord
    let cov := (atomCovered s sp ord).filter (fun j => j != i)
    let r := newLoad t (mkLoad s.cur.uid dest (w / 8) false [⟨0, pa, none⟩] 1)
    let p := if ordRel ord then publish r.1 s.cur.uid else (r.1, [])
    atomCommit s sp l op w ord dest [⟨(0, a), .phys pa, d, e⟩] [i] =
      commit (putReq p.1 i { reqOf p.1 i with
          stage := .quad, loads := [r.2], covered := cov
          lost := ordRel ord && !sp.lost.isEmpty
          writers := [writerOf r.1 s.cur.uid sp.core 0 (reqOf p.1 i).va], scope := ordScope ord, clock := p.2, scratch := none })
        (markDest (if ordAcq ord then beginAcquire sp r.2 (ordScope ord) [] else sp) dest) := by
  intro t cov' r' p'
  unfold atomCommit
  extract_lets u sc s1 s2 cov wait now held un s3 sp3 lo r p s4 s5 sp4
  have h2 : s2 = t := rfl
  have hcov : cov = cov' := by
    simp only [cov, cov', h2, t, u, sc, atomCovered]
    split
    · refine List.filter_congr fun j _ => ?_
      simp [bne, Bool.beq_eq_decide_eq]
    · rfl
  have hnow : now = [] := by simp [now, isScratch]
  have hheld : held = [] := by simp [held, isScratch]
  have hun : un = (s2, sp) := by simp only [un, hnow, List.map_nil, undoLines_nil]
  have hsp3 : sp3 = sp := by simp only [sp3, hun]
  have hlo : lo = (s2, []) := by simp [lo, s3, hun, hnow, orderLocal_nil, atomLocal]
  have hr : r = r' := by simp [r, r', hlo, hheld, atomLanes, u, h2, t]
  have hp : p = p' := by simp [p, p', hr, u]
  simp only [s5, s4, sp4, hheld, hp, hr, hcov, hsp3, List.foldl_cons, List.foldl_nil, sc, u]
  rfl

/-- A deterministic launch buffers an atomic on the deck's own bytes. -/
theorem atomBuffered_owned {t : State} {sp : Span} {l : Launch} {op w ord a d e : Nat} {dest : Dest} {pl : Place}
    {u : Nat} {f : AtomFn} (hu : t.cur.uid = u) (hf : f = atomFn op w) (hown : atomOwned t sp l op (dest != .none) a w = true) (hb : sp.buffer.length < 512) :
    let seen := atomView t { sp with buffer := sp.buffer ++ [(0, .atomic w op ord none [])] } l w ⟨(0, a), pl, d, e⟩
    let r := newLoad t { mkLoad u dest (w / 8) false [⟨0, 0, none⟩] 1 with late := true }
    let un := undoLines r.1 sp l [(a, pl)]
    let sp1 := { buffered t sp (.atomic w op ord (some r.2) [⟨0, a, d, e, f seen d e⟩]) with undo := un.2.undo }
    let q := if ordAcq ord then detAcquire un.1 sp1 (ordScope ord) acqPending else (un.1, sp1)
    atomBuffered t sp l op w ord dest [⟨(0, a), pl, d, e⟩] = commit q.1 (markDest q.2 dest) := by
  subst hu hf
  intro seen r un sp1 q
  have hfit : ¬ 512 < sp.buffer.length + 1 := by omega
  simp [atomBuffered, hown, bufferAll, hfit, q, sp1, un, r, seen, buffered]

/-! ### The passes -/

section
variable {s s' : State} {sp : Span} {l : Launch} {op w ord a : Nat} {dest : Dest} {d e : Nat → Nat}

theorem atomPass_scratch {dk : Deck} (ha : sp.acquiring = none) (hp : sp.pend = .none) (hdet : l.det = false)
    (hroom : releaseRoom s sp ord) (hon : atomicsOn s s.cur.uid (a / 128) = false) (hat : ScratchAt s sp a (w / 8) dk)
    (hbad : localBad s dk (a - localLo) (w / 8) = false) :
    atomPass s sp l op w ord dest [(0, a)] d e =
      atomCommit s sp l op w ord dest [⟨(0, a), .loc (a - localLo), d 0 % 2 ^ w, e 0 % 2 ^ w⟩] [] := by
  have hplaced := accsPlaced_one (checkAcc_scratch hat l (k := .atomic) (by decide))
  have hrb : readsBad s sp l (w / 8) [((0, a), .loc (a - localLo))] = false := readsBad_scratch hdet hat.2.2.1 hbad
  have hmark : (ordRel ord && decide (64 < markers s sp.core + 1)) = false := by
    cases hr : ordRel ord with
    | false => rfl
    | true => simpa using (hroom hr).1
  have hcolls : (ordRel ord && ordScope ord == 5 && spanColls s sp) = false := by
    cases hr : ordRel ord with
    | false => rfl
    | true =>
      by_cases hsc : ordScope ord = 5
      · simp [(hroom hr).2 hsc]
      · simp [hsc]
  unfold atomPass
  rw [afterAcquire_none ha, hp]
  simp only [memPass_placed hplaced, hrb, hdet, List.map_cons, List.map_nil, List.length_cons, List.length_nil, Nat.zero_add, hmark,
    hcolls]
  simp [localLines, physPlaces, hon]

theorem atomPass_accepted {i : Nat} (ha : sp.acquiring = none) (hp : sp.pend = .atomic [i]) (hans : (reqOf s i).stage = .answered)
    (hbad : (reqOf s i).bad = false) (htag : (reqOf s i).tag = 0) :
    atomPass s sp l op w ord dest [(0, a)] d e = atomCommit s { sp with pend := .none } l op w ord dest
      [⟨(0, a), .phys (128 * (reqOf s i).line + (reqOf s i).a), d 0 % 2 ^ w, e 0 % 2 ^ w⟩] [i] := by
  unfold atomPass
  rw [afterAcquire_none ha, hp]
  simp [hans, hbad, htag]

theorem atomPass_buffered {pl : Place} (ha : sp.acquiring = none) (hp : sp.pend = .none) (hdet : l.det = true)
    (hc : checkAcc s sp l .atomic (w / 8) a = (s', .ok pl)) (hrb : readsBad s' sp l (w / 8) [((0, a), pl)] = false) :
    atomPass s sp l op w ord dest [(0, a)] d e = atomBuffered s' sp l op w ord dest [⟨(0, a), pl, d 0 % 2 ^ w, e 0 % 2 ^ w⟩] := by
  unfold atomPass
  rw [afterAcquire_none ha, hp]
  simp [memPass_placed (accsPlaced_one hc), hrb, hdet]

end

/-! ### The scalar stream -/

theorem Keeps.atomDone {s₀ s : State} {dk : Deck} {off w new old : Nat} {dest : Dest} (h : Keeps s₀ s) :
    Keeps s₀ (atomDone s dk off w new old dest) :=
  Keeps.newLoad (Keeps.localMark (Keeps.localAtom (Keeps.localWrite (Keeps.seeLocal h))))

end Sys2Proof.Machine

namespace Sys2Proof
open Machine

/-- Settles O9: acceptance of a scratch word, performed or held; of a word of memory; of a deck's own word in a deterministic
launch. -/
theorem scalarAtomics : Obligations.ScalarAtomics := by
  unfold Obligations.ScalarAtomics
  refine ⟨fun d a b o s t sp sp' l dk h hl hr ha hp hdet hroom hon wi hwi hat hbad p hpm => ?scratch,
    fun d a b o s sp l i h hl hr ha hp hans hbad htag wi hwi x hx => ?accepted,
    fun d a b o s t sp l pl h hl hr ha hp hdet hb wi hwi hc hrb p hpm hown => ?buffered⟩
  case scratch =>
    obtain ⟨hi, hf⟩ := mem_zip_zipIdx hpm
    rw [exec_atoms hwi hi, scalarAtom_ready h hr, atomPass_scratch ha hp hdet hroom hon hat hbad, atomFns_eq hf]
    refine ⟨fun hready hun hd => ?_, fun hready => ?_⟩
    · have ht : Keeps s t := by
        have := (Keeps.refl s).atomBegin (sp := sp) (o := o.toNat) |>.undoLines (sp := sp) (l := l)
          (ps := [((sRead sp a.toNat).toNat, .loc ((sRead sp a.toNat).toNat - localLo))])
        rwa [hun] at this
      rw [atomCommit_performed hready hun hd]
      exact ht.orderLocal.atomDone.commit_scalar hl _
    · rw [atomCommit_held hready]
      exact Keeps.commit_scalar (Keeps.holdScratch (Keeps.publish (Keeps.newLoad (Keeps.refl s).atomBegin))) hl _
  case accepted =>
    intro sc t cov r q sp1
    obtain ⟨n, hn⟩ := List.mem_iff_getElem?.1 hx
    rw [exec_atoms hwi (List.mk_mem_zipIdx_iff_getElem?.2 hn), scalarAtom_ready h hr, atomPass_accepted ha hp hans hbad htag,
      atomCommit_accepted]
    have hq : Keeps s q.1 := Keeps.iteFst (Keeps.publish (Keeps.newLoad (Keeps.refl s).atomBegin)) (Keeps.newLoad (Keeps.refl s).atomBegin)
    exact hq.putReq.commit_scalar hl _
  case buffered =>
    obtain ⟨hi, hf⟩ := mem_zip_zipIdx hpm
    intro x e seen r un sp1 q
    have hun : un.1.cur.lane = false :=
      (Keeps.ofPlaced (accsPlaced_one hc)).newLoad.undoLines.lane.trans hl
    have hq : q.1.cur.lane = false := by
      simp only [q]
      split
      · exact (Keeps.detAcquire (Keeps.refl un.1)).lane.trans hun
      · exact hun
    rw [exec_atoms hwi hi, scalarAtom_ready h hr, atomPass_buffered ha hp hdet hc hrb]
    exact (atomBuffered_owned (Keeps.ofPlaced (accsPlaced_one hc)).uid (atomFns_eq hf) hown hb).trans (commit_scalar hq _)

end Sys2Proof

/-! Settlements of the family 'other': lane arithmetic, compares, moves, shuffles and reductions (R71 to R91). -/

namespace Sys2Proof.Machine

/-! ### Lanes of a mask -/

theorem mem_bitsOf {n : Nat} {m : BitVec n} {i : Nat} : i ∈ bitsOf m ↔ m.getLsbD i = true := by
  simp only [bitsOf, List.mem_filter, List.mem_range, and_iff_right_iff_imp]
  exact fun h => BitVec.lt_of_getLsbD h

theorem bitsOf_pairwise {n : Nat} (m : BitVec n) : (bitsOf m).Pairwise (· < ·) :=
  List.Pairwise.sublist List.filter_sublist List.pairwise_lt_range

theorem lt_of_mem_passLanes {s : State} {k : Nat} (h : k ∈ passLanes s) : k < 32 := BitVec.lt_of_getLsbD (mem_bitsOf.1 h)

/-- Bits set one by one, of the lanes that `p` has. -/
theorem getLsbD_foldl_setBit {n : Nat} (p : Nat → Bool) (l : List Nat) (m : BitVec n) {k : Nat} (hk : k < n) :
    (l.foldl (fun m i => if p i then m ||| BitVec.ofNat n (2 ^ i) else m) m).getLsbD k =
      (m.getLsbD k || l.any (fun i => p i && i == k)) := by
  induction l generalizing m with
  | nil => simp
  | cons i l ih =>
    rw [List.foldl_cons, ih, List.any_cons]
    cases hp : p i with
    | false => simp
    | true =>
      have hbit : (BitVec.ofNat n (2 ^ i)).getLsbD k = (i == k) := by
        rw [BitVec.getLsbD_ofNat, Nat.testBit_two_pow]
        simp [hk, Bool.beq_eq_decide_eq]
      rw [if_pos rfl, BitVec.getLsbD_or, hbit, Bool.true_and, Bool.or_assoc]

theorem getLsbD_maskOf {n k : Nat} (l : List Nat) (hk : k < n) : (maskOf n l).getLsbD k = decide (k ∈ l) := by
  have h := getLsbD_foldl_setBit (fun _ => true) l (0 : BitVec n) hk
  simp only [if_true, Bool.true_and] at h
  rw [maskOf, h]
  simp [List.any_beq', List.contains_eq_mem]

theorem getLsbD_compareMask (s : State) (p : Nat → Bool) {k : Nat} (hk : k < 64) :
    (compareMask s p).getLsbD k = (s.cur.mask.getLsbD k && p k) := by
  rw [compareMask, getLsbD_foldl_setBit p _ _ hk, Bool.eq_iff_iff]
  simp only [BitVec.ofNat_eq_ofNat, BitVec.getLsbD_zero, Bool.false_or, List.any_eq_true, Bool.and_eq_true, beq_iff_eq]
  constructor
  · rintro ⟨i, hi, hpi, rfl⟩
    exact ⟨mem_bitsOf.1 hi, hpi⟩
  · exact fun ⟨hm, hpk⟩ => ⟨k, mem_bitsOf.2 hm, hpk, rfl⟩

/-! ### Element-wise passes -/

section
variable {x : LFields} {s : State} {sp : Span} {l : Launch} {f : ElemFn}

theorem lane1_ready (h : PassReady s sp l (srcA x) (dstV x) none) : lane1 x f s = .next (passRetired s (elementwise s sp x f)) := by
  rw [lane1, lanePass_ready h]; rfl

theorem lane2_ready (h : PassReady s sp l (srcA x ++ srcB x) (dstV x) none) :
    lane2 x f s = .next (passRetired s (elementwise s sp x f)) := by
  rw [lane2, lanePass_ready h]; rfl

theorem lane3_ready (h : PassReady s sp l (srcA x ++ srcB x ++ srcC x) (dstV x) none) :
    lane3 x f s = .next (passRetired s (elementwise s sp x f)) := by
  rw [lane3, lanePass_ready h]; rfl

end

theorem exec_laneTwoOps (x : LFields) (s : State) : ∀ p ∈ laneTwoOps x ++ laneFloatOps x, exec p.1 s = lane2 x p.2 s := by
  intro p hp
  simp only [laneTwoOps, laneFloatOps, List.cons_append, List.nil_append] at hp
  fin_cases hp <;> rfl

theorem exec_laneOneOps (x : LFields) (s : State) : ∀ p ∈ laneOneOps x, exec p.1 s = lane1 x p.2 s := by
  intro p hp
  simp only [laneOneOps] at hp
  fin_cases hp <;> rfl

theorem exec_laneThreeOps (x : LFields) (s : State) : ∀ p ∈ laneThreeOps x, exec p.1 s = lane3 x p.2 s := by
  intro p hp
  simp only [laneThreeOps] at hp
  fin_cases hp <;> rfl

theorem exec_laneCompareOps (x : LFields) (s : State) : ∀ p ∈ laneCompareOps x, exec p.1 s = laneCmp x p.2 s := by
  intro p hp
  simp only [laneCompareOps] at hp
  fin_cases hp <;> rfl

/-- Settles O18: each row is an element-wise pass of its function. -/
theorem laneArithmeticResult : Obligations.LaneArithmeticResult := by
  intro x s sp l
  exact ⟨fun h p hp => (exec_laneTwoOps x s p hp).trans (lane2_ready h), fun h p hp => (exec_laneOneOps x s p hp).trans (lane1_ready h),
    fun h p hp => (exec_laneThreeOps x s p hp).trans (lane3_ready h)⟩

theorem vRead_vLaneWrite (sp : Span) (d k : Nat) (pair : Bool) (v r lane : Nat) (hk : k < 32) (hl : lane < 32) :
    vRead (vLaneWrite sp d k pair v) r lane =
      if lane = k then
        (if pair = true ∧ r = d + 1 then BitVec.ofNat 32 (v / 2 ^ 32) else if r = d then BitVec.ofNat 32 v else vRead sp r lane)
      else vRead sp r lane := by
  by_cases hlane : lane = k
  · subst hlane
    cases pair with
    | false => simp [vLaneWrite, vRead_vWrite _ _ _ _ _ _ hk hl]
    | true => simp [vLaneWrite, vRead_vWrite _ _ _ _ _ _ hk hl]
  · cases pair with
    | false => simp [vLaneWrite, vRead_vWrite _ _ _ _ _ _ hk hl, hlane]
    | true => simp [vLaneWrite, vRead_vWrite _ _ _ _ _ _ hk hl, hlane]

/-- A pass that writes one value to each of its lanes. -/
theorem vRead_foldl_vLaneWrite (d : Nat) (pair : Bool) (g : Nat → Nat) (r lane : Nat) (hl : lane < 32) :
    ∀ (ks : List Nat) (sp : Span), (∀ k ∈ ks, k < 32) →
      vRead (ks.foldl (fun acc k => vLaneWrite acc d k pair (g k)) sp) r lane =
        if lane ∈ ks then
          (if pair = true ∧ r = d + 1 then BitVec.ofNat 32 (g lane / 2 ^ 32) else if r = d then BitVec.ofNat 32 (g lane)
            else vRead sp r lane)
        else vRead sp r lane := by
  intro ks
  induction ks with
  | nil => intro sp _; simp
  | cons k ks ih =>
    intro sp hks
    rw [List.foldl_cons, ih _ fun j hj => hks j (List.mem_cons_of_mem _ hj),
      vRead_vLaneWrite _ _ _ _ _ _ _ (hks k List.mem_cons_self) hl]
    by_cases hk : lane = k
    · subst hk
      simp only [List.mem_cons_self, if_true]
      split_ifs <;> rfl
    · simp [hk]

/-- Settles O19: what a fold of writes to the lanes of m leaves at a lane. -/
theorem elementwisePass : Obligations.ElementwisePass := by
  intro x s sp f r lane hl ty w v
  have hread : vRead (elementwise s sp x f) r lane = if s.cur.mask.getLsbD lane = true then
      (if (w == 64) = true ∧ r = x.vd.toNat + 1 then BitVec.ofNat 32 (v / 2 ^ 32) else if r = x.vd.toNat then BitVec.ofNat 32 v
        else vRead sp r lane) else vRead sp r lane := by
    unfold elementwise
    rw [vRead_foldl_vLaneWrite x.vd.toNat (w == 64) (fun k => ofElems w ((List.range (elemCount w)).map fun e =>
      f ty (elemOf w (opndA sp ty x k) e) (elemOf w (opndB sp ty x k) e) (elemOf w (opndC sp ty x k) e))) r lane hl _ sp
      fun k => lt_of_mem_passLanes]
    simp only [passLanes, mem_bitsOf]
    rfl
  rw [hread]
  refine ⟨fun hw => ?_, fun hw => ?_⟩
  · simp only [beq_eq_false_iff_ne.2 hw]
    split_ifs <;> simp_all
  · simp only [hw, beq_self_eq_true, true_and]
    split_ifs with hm hhi hlo
    · omega
    · rfl
    · rfl
    · rfl
    · rfl

/-- Settles O20. -/
theorem laneCompares : Obligations.LaneCompares := by
  refine ⟨fun x s sp l h p hp => ?_, fun s p k hk => getLsbD_compareMask s p hk⟩
  rw [exec_laneCompareOps x s p hp, laneCmp, lanePass_ready h]
  rfl

/-! ### Moves, shuffles, reductions -/

theorem exec_shuffleOps (x : LFields) (s : State) : ∀ p ∈ shuffleOps x, exec p.1 s = shuffle x p.2 s := by
  intro p hp
  simp only [shuffleOps] at hp
  fin_cases hp <;> rfl

/-- Settles O21: each is its pass, at the value that it gives a lane. -/
theorem laneMovesAndShuffles : Obligations.LaneMovesAndShuffles := by
  refine ⟨fun x s sp l => ⟨fun h => ?mov, fun h => ?lane, fun h => ?gid, fun hp h => ?pl, fun hp h => ?plset, fun h => ?nop⟩,
    fun x s sp l => ⟨fun h hd p hp => ?shuffle, fun h hd p hp => ?far, fun h => ⟨?perm, ?bcast⟩⟩⟩
  case mov => rw [exec_vmov, execVmov, lanePass_ready h]; rfl
  case lane => rw [exec_vlane, execVlane, lanePass_ready h]; rfl
  case gid => rw [exec_vgid, execVgid, lanePass_ready h]; rfl
  case pl => rw [exec_vpl, execVpl, if_neg (by simp [hp]), lanePass_ready h]; rfl
  case plset => rw [exec_vplset, execVplset, if_neg (by simp [hp]), lanePass_ready h]; rfl
  case nop => rw [exec_lnop, execLnop, lanePass_ready h]; rfl
  case shuffle => rw [exec_shuffleOps x s p hp, shuffle, lanePass_ready h, if_neg (Nat.not_le.2 hd)]; rfl
  case far => rw [exec_shuffleOps x s p hp, shuffle, lanePass_ready h, if_pos hd]; rfl
  case perm => rw [exec_vperm, execVperm, lanePass_ready h]; rfl
  case bcast => rw [exec_vbcast, execVbcast, lanePass_ready h]; rfl

/-- A scan that carries its sum along gives each place the sum of the places up to it. -/
theorem foldl_scan {α : Type} (g : α → Nat → Nat → α) (add : Nat → Nat → Nat) (v : Nat → Nat) (rest : List Nat) :
    ∀ (done : List Nat) (a : α), (done ++ rest).Pairwise (· < ·) →
      (rest.foldl (fun (p : α × Nat) k => (g p.1 k (add p.2 (v k)), add p.2 (v k))) (a, done.foldl (fun b j => add b (v j)) 0)).1 =
        rest.foldl (fun acc k => g acc k (((done ++ rest).filter (fun j => decide (j ≤ k))).foldl (fun b j => add b (v j)) 0)) a := by
  induction rest with
  | nil => intro done a _; rfl
  | cons k rest ih =>
    intro done a hlt
    have hupTo : (done ++ k :: rest).filter (fun j => decide (j ≤ k)) = done ++ [k] := by
      obtain ⟨-, hrest, hdone⟩ := List.pairwise_append.1 hlt
      obtain ⟨hk, -⟩ := List.pairwise_cons.1 hrest
      have h1 : done.filter (fun j => decide (j ≤ k)) = done :=
        List.filter_eq_self.2 fun j hj => by simpa using (hdone j hj k List.mem_cons_self).le
      have h2 : rest.filter (fun j => decide (j ≤ k)) = [] :=
        List.filter_eq_nil_iff.2 fun j hj => by simpa using hk j hj
      simp [List.filter_append, h1, h2]
    have hnext := ih (done ++ [k]) (g a k (add (done.foldl (fun b j => add b (v j)) 0) (v k))) (by simpa using hlt)
    simp only [List.foldl_append, List.foldl_cons, List.foldl_nil, List.append_assoc, List.singleton_append] at hnext
    rw [List.foldl_cons, List.foldl_cons, hupTo, List.foldl_append, List.foldl_cons, List.foldl_nil]
    exact hnext

/-- Settles O22: each reduction is its fold over the lanes; the scan by `foldl_scan`. -/
theorem laneReductions : Obligations.LaneReductions := by
  intro x s sp l t vals fill sum upTo differ
  refine ⟨fun h => ⟨fun hint => ?addInt, fun hfp => ?addFp, ?min, ?max, ?and, ?or, ?first, fun hd => ?uniform, fun hd => ?nonuniform⟩,
    fun h => ?scan⟩
  case addInt => rw [exec_vredadd, execVredadd, reduceAdd, lanePass_ready h]; simp only [t] at hint; simp only [hint]; rfl
  case addFp => rw [exec_vredadd, execVredadd, reduceAdd, lanePass_ready h]; simp only [t] at hfp; simp only [hfp]; rfl
  case min => rw [exec_vredmin, execVredmin, reduce, lanePass_ready h]; rfl
  case max => rw [exec_vredmax, execVredmax, reduce, lanePass_ready h]; rfl
  case and => rw [exec_vredand, execVredand, reduce, lanePass_ready h]; rfl
  case or => rw [exec_vredor, execVredor, reduce, lanePass_ready h]; rfl
  case first => rw [exec_vrfl, execVrfl, lanePass_ready h]; rfl
  case uniform =>
    have hmask : maskOf 32 differ = 0 := by rw [hd]; rfl
    rw [exec_vrul, execVrul, lanePass_ready h]
    exact if_pos hmask
  case nonuniform =>
    have hmask : maskOf 32 differ ≠ 0 := by
      obtain ⟨k, hk⟩ := List.exists_mem_of_ne_nil _ hd
      intro h0
      have hbit := getLsbD_maskOf differ (lt_of_mem_passLanes (List.mem_of_mem_filter hk))
      simp [h0, hk] at hbit
    rw [exec_vrul, execVrul, lanePass_ready h]
    exact if_neg hmask
  case scan =>
    have hscan := foldl_scan (fun acc k v => vLaneWrite acc x.vd.toNat k (tyWidth t == 64) v) sum (opndA sp t x) (passLanes s) [] sp
      (bitsOf_pairwise _)
    rw [exec_vscan, execVscan, lanePass_ready h]
    exact congrArg (fun y => Host.Outcome.next (passRetired s y)) hscan

end Sys2Proof.Machine

/-! Settlements of the family 'other': conversions, packs and unpacks (R94 to R101). -/

namespace Sys2Proof.Machine

section
variable {x : LFields} {s : State} {sp : Span} {l : Launch}

/-- A conversion whose slot suits it, with a stream where it needs one, is its pass. -/
theorem convPass_ready {suits : BitVec 128 → Bool} {nsrc ndst : BitVec 128 → Nat} {evenA evenD : BitVec 128 → Bool}
    (ha : ActingIn s sp l) (hs : suits (fslotOf l x.fs.toNat) = true)
    (hst : stochastic (effRm x.rm.toNat (fslotOf l x.fs.toNat)) = true → x.bcls = 1)
    (hA : (evenA (fslotOf l x.fs.toNat) && x.va.getLsbD 0) = false) (hD : (evenD (fslotOf l x.fs.toNat) && x.vd.getLsbD 0) = false)
    (hp : PassReady s sp l ([.v (regSpan x.va (nsrc (fslotOf l x.fs.toNat))) (feA x)] ++ srcStream x)
      (regSpan x.vd (ndst (fslotOf l x.fs.toNat))) none) (k : Span → Launch → BitVec 128 → Res) :
    convPass x suits nsrc ndst evenA evenD s k = k sp l (fslotOf l x.fs.toNat) := by
  have hstream : (stochastic (effRm x.rm.toNat (fslotOf l x.fs.toNat)) && x.bcls != 1) = false := by
    cases h : stochastic (effRm x.rm.toNat (fslotOf l x.fs.toNat)) with
    | false => rfl
    | true => simp [hst h]
  rw [convPass, withLaunch_actingIn ha]
  simp only [hs, hstream, hA, hD, Bool.not_true, Bool.or_self, Bool.false_eq_true, if_false]
  exact lanePass_ready hp _

theorem unpack_ready {suits : BitVec 128 → Bool} {n : Nat} {elem : BitVec 128 → Span → Nat → Nat → Nat} (ha : ActingIn s sp l)
    (hs : suits (fslotOf l x.fs.toNat) = true)
    (hp : PassReady s sp l ([.v (regSpan x.va n) (feA x)] ++ srcStream x) (regSpan x.vd 8) none) :
    unpack x suits n elem s = .next (passRetired s ((passLanes s).foldl (fun acc k => (List.range 8).foldl (fun acc e =>
      vWrite acc (x.vd.toNat + e) k (BitVec.ofNat 32 (elem (fslotOf l x.fs.toNat) sp k e))) acc) sp)) := by
  rw [unpack, withLaunch_actingIn ha]
  simp only [hs, Bool.not_true, Bool.false_eq_true, if_false]
  rw [lanePass_ready hp]
  rfl

end

/-- Settles O23: the slot's checks pass, and the pass is the conversion's or the pack's. -/
theorem conversions : Obligations.Conversions := by
  unfold Obligations.Conversions
  constructor
  · intro x s sp l ha f rm hst p hp hs hready elem b
    simp only [conversionOps, List.mem_cons, List.not_mem_nil, or_false] at hp
    obtain rfl | rfl | rfl := hp
    · simp only [Bool.and_eq_true, Bool.not_eq_true'] at hs
      obtain ⟨⟨htypes, hA⟩, hD⟩ := hs
      rw [exec_vcvt, execVcvt, convPass_ready ha (by simpa [convTypes] using htypes) hst hA hD hready]
      rfl
    · rw [exec_vcvtp, execVcvtp, convPass_ready ha hs hst rfl rfl hready]
      rfl
    · rw [exec_vcvtu, execVcvtu, convPass_ready ha hs hst rfl rfl hready]
      rfl
  · intro x s sp l ha f rm hst p hp hs hready inM formed vals rms
    simp only [packOps, List.mem_cons, List.not_mem_nil, or_false] at hp
    obtain rfl | rfl := hp
    · rw [exec_vmxpack, execVmxpack, convPass_ready ha hs hst rfl rfl hready]
      rfl
    · rw [exec_vf4pack, execVf4pack, convPass_ready ha hs hst rfl rfl hready]
      rfl

/-- Settles O24. -/
theorem unpackAndRandom : Obligations.UnpackAndRandom := by
  intro x s sp l ha f
  refine ⟨fun hA hB hscale hblk h => ?mx, fun hA hB hscale hblk h => ?f4, fun h => ?rnd⟩
  case mx =>
    have hs : ((fsA f == 12 || fsA f == 13) && fsB f == 10 && fsScale f == 1 && fsBlk f == 5) = true := by simpa [hB, hscale, hblk] using hA
    rw [exec_vmxunpk, execVmxunpk, unpack_ready ha hs h]
  case f4 =>
    have hs : (fsA f == 14 && fsB f == 10 && fsScale f == 1 && fsBlk f == 5) = true := by simp [hA, hB, hscale, hblk]
    rw [exec_vf4unpk, execVf4unpk, unpack_ready ha hs h]
  case rnd => rw [exec_vrnd, execVrnd, lanePass_ready h]; rfl

end Sys2Proof.Machine

/-! Settlements of the family 'other': where accesses, engine commands and passes trap before any effect (R94 to R112, R125, R171). -/

namespace Sys2Proof.Machine

/-! ### One access that may not be made -/

section
variable {s s' : State} {sp : Span} {l : Launch} {k : AccKind} {w a : Nat}

theorem checkAcc_misaligned (hq : inQuad a = false) (hw : a % w ≠ 0) : checkAcc s sp l k w a = (s, .bad causeMisaligned) := by
  simp [checkAcc, hq, hw]

theorem checkAcc_quad (hq : inQuad a = true) (hplain : k ≠ .plain) (hunc : k ≠ .unc) :
    checkAcc s sp l k w a = (s, .bad causeBarrier) := by
  simp [checkAcc, hq, hplain, hunc]

/-- The pass of one access that has a cause traps by it. -/
theorem memPass_bad {i c : Nat} (h : checkAcc s sp l k w a = (s', .bad c)) (hc : c ∈ causeOrder)
    (f : State → List (Acc × Place) → Res) : memPass s sp l k w [(i, a)] f = trapAcc s' sp l c [(i, a)] := by
  have hr : checkAccs s sp l k w [(i, a)] = (s', [((i, a), .bad c)]) := by simp [checkAccs, h]
  simp only [causeOrder, List.mem_cons, List.not_mem_nil, or_false] at hc
  unfold memPass
  rw [hr]
  obtain rfl | rfl | rfl | rfl := hc
  · simp [chkBad]
  · simp [chkBad, firstCause, causeOrder, causeMisaligned, causePageFault]
  · simp [chkBad, firstCause, causeOrder, causeMisaligned, causePageFault, causeBarrier]
  · simp [chkBad, firstCause, causeOrder, causeMisaligned, causePageFault, causeBarrier, causeBankMode]

theorem trapAcc_scalar (hl : s.cur.lane = false) (c : Nat) : trapAcc s sp l c [(0, a)] = takeTrap s sp l ⟨c, false, 1, a⟩ := by
  simp [trapAcc, hl]
  rfl

end

/-- A scalar access of this kind, width and address is the pass of it, whatever follows the check. -/
def ScalarAccess (i : Instr) (s : State) (sp : Span) (l : Launch) (x : ScalarAcc) : Prop :=
  ∃ f, exec i s = memPass s sp l x.kind x.width [(0, x.addr)] f

theorem scalarAccess_load {s : State} {sp : Span} {l : Launch} (ha : sp.acquiring = none) (hp : sp.pend = .none) {i : Instr}
    {x : ScalarAcc} {n : Nat} {signed : Bool} {dest : Dest}
    (h : exec i s = loadPass s sp l x.kind n x.width signed dest [(0, x.addr)]) : ScalarAccess i s sp l x := by
  rw [loadPass, afterAcquire_none ha, hp] at h
  exact ⟨_, h⟩

theorem scalarAccess_store {s : State} {sp : Span} {l : Launch} (ha : sp.acquiring = none) (hp : sp.pend = .none) {i : Instr}
    {x : ScalarAcc} {unc : Bool} {data : Nat → Nat} (hk : x.kind = if unc then .storeUnc else .store)
    (h : exec i s = storePass s sp l unc x.width [(0, x.addr)] data) : ScalarAccess i s sp l x := by
  rw [storePass, afterAcquire_none ha, hp] at h
  exact ⟨_, hk ▸ h⟩

/-- The scalar loads and stores of every form (R124, R125). -/
theorem scalarAccess_of_mem {d a b : BitVec 6} {imm : BitVec 14} {w : BitVec 2} {e : BitVec 1} {s : State} {sp : Span} {l : Launch}
    (h : ActingIn s sp l) (hr : ScalarsReady sp [a.toNat, b.toNat, d.toNat]) (ha : sp.acquiring = none) (hp : sp.pend = .none) :
    ∀ p ∈ scalarLoads sp d a b imm w e ++ scalarStores sp d a b imm w ++
         (.ldCons d a b w e, ⟨.cons, 0, 2 ^ w.toNat, e == 1#1, (sRead sp a.toNat + sRead sp b.toNat).toNat⟩) ::
         (if (sRead sp b.toNat).toNat % 256 = 0 then [] else
           [(.ldReaders d a b w e, ⟨.readers, (sRead sp b.toNat).toNat % 256, 2 ^ w.toNat, e == 1#1, (sRead sp a.toNat).toNat⟩)]),
      ScalarAccess p.1 s sp l p.2 := by
  have hr2 : ScalarsReady sp ([a.toNat] ++ [d.toNat]) := fun r hm => hr r (by simp at hm ⊢; tauto)
  have hr3 : ScalarsReady sp ([a.toNat, b.toNat] ++ [d.toNat]) := hr
  intro p hm
  simp only [scalarLoads, scalarStores, List.cons_append, List.nil_append, List.mem_cons] at hm
  obtain rfl | rfl | rfl | rfl | rfl | rfl | rfl | rfl | rfl | hm := hm
  · exact scalarAccess_load ha hp (by rw [exec_ldB64, execLdB64, scalarLoad, withLaunch_actingIn h, needS_ready hr2]; rfl)
  · exact scalarAccess_load ha hp (by rw [exec_ldN32, execLdN32, scalarLoad, withLaunch_actingIn h, needS_ready hr2]; rfl)
  · exact scalarAccess_load ha hp (by rw [exec_ldIndexed, execLdIndexed, scalarLoad, withLaunch_actingIn h, needS_ready hr3]; rfl)
  · exact scalarAccess_load ha hp (by rw [exec_ldUnc, execLdUnc, scalarLoad, withLaunch_actingIn h, needS_ready hr3]; rfl)
  · exact scalarAccess_store ha hp (unc := false) rfl (by rw [exec_stB64, execStB64, scalarStore, withLaunch_actingIn h, needS_ready hr2]; rfl)
  · exact scalarAccess_store ha hp (unc := false) rfl (by rw [exec_stB32, execStB32, scalarStore, withLaunch_actingIn h, needS_ready hr2]; rfl)
  · exact scalarAccess_store ha hp (unc := false) rfl
      (by rw [exec_stIndexed, execStIndexed, scalarStore, withLaunch_actingIn h, needS_ready hr3]; rfl)
  · exact scalarAccess_store ha hp (unc := true) rfl (by rw [exec_stUnc, execStUnc, scalarStore, withLaunch_actingIn h, needS_ready hr3]; rfl)
  · exact scalarAccess_load ha hp (by rw [exec_ldCons, execLdCons, scalarLoad, withLaunch_actingIn h, needS_ready hr3]; rfl)
  · split at hm
    · simp at hm
    · next hn =>
      obtain rfl := List.mem_singleton.1 hm
      exact scalarAccess_load ha hp (by rw [exec_ldReaders, execLdReaders, withLaunch_actingIn h, needS_ready hr, if_neg hn])

/-! ### Lane passes -/

section
variable {s : State} {sp : Span} {l : Launch} {srcs : List Source} {dst : List Nat} {sdst : Option Nat}

theorem lanePass_beyond (ha : ActingIn s sp l) (ht : s.cur.test = none) (h : ∃ r ∈ dst ++ srcs.flatMap sourceRegs, l.vregs ≤ r)
    (k : Span → Launch → Res) : lanePass s srcs dst sdst k = takeTrap s sp l ⟨causeIllegal, true, s.cur.mask, 0⟩ := by
  have hany : (dst ++ srcs.flatMap sourceRegs).any (fun r => decide (l.vregs ≤ r)) = true := by
    rw [List.any_eq_true]
    simpa using h
  rw [lanePass, withLaunch_actingIn ha, if_neg (by simp [ht]), if_pos hany]
  rfl

theorem lanePass_emptyRead (ha : ActingIn s sp l) (ht : s.cur.test = none) (hr : ∀ r ∈ dst ++ srcs.flatMap sourceRegs, r < l.vregs)
    (hlater : laterPass sp = false) (h : ∃ y ∈ srcs, sourceReady sp y = false ∧ sourceFe y = true) (k : Span → Launch → Res) :
    lanePass s srcs dst sdst k = takeTrap s sp l ⟨causeEmpty, true, s.cur.mask, 0⟩ := by
  have hany : (dst ++ srcs.flatMap sourceRegs).any (fun r => decide (l.vregs ≤ r)) = false := by
    rw [List.any_eq_false]
    intro r hm
    simpa using hr r hm
  have hempty : (srcs.any (fun x => !sourceReady sp x && sourceFe x) && !laterPass sp) = true := by
    rw [hlater, Bool.not_false, Bool.and_true, List.any_eq_true]
    obtain ⟨y, hy, hready, hfe⟩ := h
    exact ⟨y, hy, by simp [hready, hfe]⟩
  rw [lanePass, withLaunch_actingIn ha, if_neg (by simp [ht]), if_neg (by simp [hany]), if_pos hempty]
  rfl

end

/-! ### Conversions, packs and unpacks whose slot does not suit them -/

section
variable {x : LFields} {s : State} {sp : Span} {l : Launch}

theorem convPass_illegal {suits : BitVec 128 → Bool} {nsrc ndst : BitVec 128 → Nat} {evenA evenD : BitVec 128 → Bool}
    (ha : ActingIn s sp l)
    (h : (!suits (fslotOf l x.fs.toNat) || (stochastic (effRm x.rm.toNat (fslotOf l x.fs.toNat)) && x.bcls != 1) ||
      (evenA (fslotOf l x.fs.toNat) && x.va.getLsbD 0) || (evenD (fslotOf l x.fs.toNat) && x.vd.getLsbD 0)) = true)
    (k : Span → Launch → BitVec 128 → Res) :
    convPass x suits nsrc ndst evenA evenD s k = takeTrap s sp l ⟨causeIllegal, true, s.cur.mask, 0⟩ := by
  rw [convPass, withLaunch_actingIn ha]
  exact if_pos h

theorem unpack_illegal {suits : BitVec 128 → Bool} {n : Nat} {elem : BitVec 128 → Span → Nat → Nat → Nat} (ha : ActingIn s sp l)
    (h : suits (fslotOf l x.fs.toNat) = false) : unpack x suits n elem s = takeTrap s sp l ⟨causeIllegal, true, s.cur.mask, 0⟩ := by
  rw [unpack, withLaunch_actingIn ha]
  exact if_pos (by rw [h]; rfl)

/-- The pass traps ILLEGAL where one of its four conditions on the slot and the word fails. -/
theorem illegal_of_streamless {suits evenA evenD : Bool} (h : suits = false ∨ (stochastic (effRm x.rm.toNat (fslotOf l x.fs.toNat)) = true ∧ x.bcls ≠ 1)) :
    (!suits || (stochastic (effRm x.rm.toNat (fslotOf l x.fs.toNat)) && x.bcls != 1) || evenA || evenD) = true := by
  obtain h | ⟨hst, hb⟩ := h
  · rw [h]; rfl
  · have hb' : (x.bcls != 1) = true := by simpa using hb
    rw [hst, hb']
    simp

theorem exec_conversionOps_illegal (ha : ActingIn s sp l) : ∀ p ∈ conversionOps x (fslotOf l x.fs.toNat),
    p.2.suits = false ∨ (stochastic (effRm x.rm.toNat (fslotOf l x.fs.toNat)) = true ∧ x.bcls ≠ 1) →
    exec p.1 s = takeTrap s sp l ⟨causeIllegal, true, s.cur.mask, 0⟩ := by
  intro p hp h
  simp only [conversionOps, List.mem_cons, List.not_mem_nil, or_false] at hp
  obtain rfl | rfl | rfl := hp
  · rw [exec_vcvt, execVcvt]
    refine convPass_illegal ha ?_ _
    obtain h | h := h
    · simp only [Bool.and_eq_false_iff (x := _ && _), Bool.not_eq_false'] at h
      obtain (h | h) | h := h
      · exact illegal_of_streamless (.inl h)
      · rw [show (wA (fslotOf l x.fs.toNat) == 64 && x.va.getLsbD 0) = true from h, Bool.or_true, Bool.true_or]
      · rw [show (wB (fslotOf l x.fs.toNat) == 64 && x.vd.getLsbD 0) = true from h, Bool.or_true]
    · exact illegal_of_streamless (.inr h)
  · rw [exec_vcvtp, execVcvtp]
    exact convPass_illegal ha (illegal_of_streamless h) _
  · rw [exec_vcvtu, execVcvtu]
    exact convPass_illegal ha (illegal_of_streamless h) _

theorem exec_packOps_illegal (ha : ActingIn s sp l) : ∀ p ∈ packOps x (fslotOf l x.fs.toNat),
    p.2.1 = false ∨ (stochastic (effRm x.rm.toNat (fslotOf l x.fs.toNat)) = true ∧ x.bcls ≠ 1) →
    exec p.1 s = takeTrap s sp l ⟨causeIllegal, true, s.cur.mask, 0⟩ := by
  intro p hp h
  simp only [packOps, List.mem_cons, List.not_mem_nil, or_false] at hp
  obtain rfl | rfl := hp
  · rw [exec_vmxpack, execVmxpack]
    exact convPass_illegal ha (illegal_of_streamless h) _
  · rw [exec_vf4pack, execVf4pack]
    exact convPass_illegal ha (illegal_of_streamless h) _

end

/-! ### What a lane operation's pass is -/

/-- A lane operation is the pass of these sources and destinations, whatever follows once they are ready. -/
def IsPass (i : Instr) (s : State) (srcs : List Source) (dst : List Nat) : Prop := ∃ sdst k, exec i s = lanePass s srcs dst sdst k

section
variable {x : LFields} {s : State} {sp : Span} {l : Launch}

theorem exec_laneAtoms : ∀ i ∈ laneAtoms x, ∃ op, exec i s = laneAtom op x s := by
  intro i hi
  simp only [laneAtoms] at hi
  fin_cases hi <;> exact ⟨_, rfl⟩

theorem convPass_streamed {suits : BitVec 128 → Bool} {nsrc ndst : BitVec 128 → Nat} {evenA evenD : BitVec 128 → Bool} (ha : ActingIn s sp l)
    (h : (!suits (fslotOf l x.fs.toNat) || (stochastic (effRm x.rm.toNat (fslotOf l x.fs.toNat)) && x.bcls != 1) ||
      (evenA (fslotOf l x.fs.toNat) && x.va.getLsbD 0) || (evenD (fslotOf l x.fs.toNat) && x.vd.getLsbD 0)) = false)
    (k : Span → Launch → BitVec 128 → Res) : convPass x suits nsrc ndst evenA evenD s k =
      lanePass s ([.v (regSpan x.va (nsrc (fslotOf l x.fs.toNat))) (feA x)] ++ srcStream x)
        (regSpan x.vd (ndst (fslotOf l x.fs.toNat))) none (fun sp l' => k sp l' (fslotOf l x.fs.toNat)) := by
  rw [convPass, withLaunch_actingIn ha]
  exact if_neg (by rw [h]; decide)

theorem unpack_isPass {suits : BitVec 128 → Bool} {n : Nat} {elem : BitVec 128 → Span → Nat → Nat → Nat} {i : Instr}
    (ha : ActingIn s sp l) (hi : exec i s = unpack x suits n elem s) (h : suits (fslotOf l x.fs.toNat) = true) :
    IsPass i s ([.v (regSpan x.va n) (feA x)] ++ srcStream x) (regSpan x.vd 8) := by
  rw [unpack, withLaunch_actingIn ha] at hi
  exact ⟨_, _, hi.trans (if_neg (by rw [h]; decide))⟩

/-- A conversion or pack whose slot suits it and that names a stream where it needs one is a pass. -/
theorem not_illegal_of_streamed {suits evenA evenD : Bool}
    (h : (suits && (!stochastic (effRm x.rm.toNat (fslotOf l x.fs.toNat)) || x.bcls == 1)) = true) (hA : evenA = false) (hD : evenD = false) :
    (!suits || (stochastic (effRm x.rm.toNat (fslotOf l x.fs.toNat)) && x.bcls != 1) || evenA || evenD) = false := by
  simp only [Bool.and_eq_true, Bool.or_eq_true, Bool.not_eq_true', beq_iff_eq] at h
  obtain ⟨rfl, h | h⟩ := h <;> simp [h, hA, hD]

theorem conversionOps_isPass (ha : ActingIn s sp l) : ∀ p ∈ conversionOps x (fslotOf l x.fs.toNat),
    (p.2.suits && (!stochastic (effRm x.rm.toNat (fslotOf l x.fs.toNat)) || x.bcls == 1)) = true →
    IsPass p.1 s ([.v (regSpan x.va p.2.nsrc) (feA x)] ++ srcStream x) (regSpan x.vd p.2.ndst) := by
  intro p hp h
  simp only [conversionOps, List.mem_cons, List.not_mem_nil, or_false] at hp
  obtain rfl | rfl | rfl := hp
  · obtain ⟨hsuits, hstream⟩ := Bool.and_eq_true_iff.1 h
    obtain ⟨htypesA, hD⟩ := Bool.and_eq_true_iff.1 hsuits
    obtain ⟨htypes, hA⟩ := Bool.and_eq_true_iff.1 htypesA
    have hillegal := not_illegal_of_streamed (Bool.and_eq_true_iff.2 ⟨htypes, hstream⟩) ((Bool.not_eq_true' _).mp hA)
      ((Bool.not_eq_true' _).mp hD)
    have hi := exec_vcvt x s
    rw [execVcvt, convPass_streamed ha] at hi
    · exact ⟨none, _, hi⟩
    · exact hillegal
  · have hillegal := not_illegal_of_streamed h (evenA := false) (evenD := false) rfl rfl
    have hi := exec_vcvtp x s
    rw [execVcvtp, convPass_streamed ha] at hi
    · exact ⟨none, _, hi⟩
    · exact hillegal
  · have hillegal := not_illegal_of_streamed h (evenA := false) (evenD := false) rfl rfl
    have hi := exec_vcvtu x s
    rw [execVcvtu, convPass_streamed ha] at hi
    · exact ⟨none, _, hi⟩
    · exact hillegal

theorem packOps_isPass (ha : ActingIn s sp l) : ∀ p ∈ packOps x (fslotOf l x.fs.toNat),
    (p.2.1 && (!stochastic (effRm x.rm.toNat (fslotOf l x.fs.toNat)) || x.bcls == 1)) = true →
    IsPass p.1 s ([.v (regSpan x.va 8) (feA x)] ++ srcStream x) (regSpan x.vd p.2.2.1) := by
  intro p hp h
  simp only [packOps, List.mem_cons, List.not_mem_nil, or_false] at hp
  obtain rfl | rfl := hp
  · have hi := exec_vmxpack x s
    rw [execVmxpack, convPass_streamed ha] at hi
    · exact ⟨none, _, hi⟩
    · exact not_illegal_of_streamed h rfl rfl
  · have hi := exec_vf4pack x s
    rw [execVf4pack, convPass_streamed ha] at hi
    · exact ⟨none, _, hi⟩
    · exact not_illegal_of_streamed h rfl rfl

theorem mem_if_nil {α : Type} {c : Bool} {l : List α} {a : α} (h : a ∈ (if c then l else [])) : c = true ∧ a ∈ l := by
  cases c
  · simp at h
  · exact ⟨rfl, h⟩

/-- Every row of `passForms` is the pass of its sources and destinations. -/
theorem passForms_isPass (ha : ActingIn s sp l) : ∀ p ∈ passForms x s l, IsPass p.1 s p.2.1 p.2.2 := by
  intro p hp
  simp only [passForms, List.mem_append] at hp
  obtain (((((((((((((((hp | hp) | hp) | hp) | hp) | hp) | hp) | hp) | hp) | hp) | hp) | hp) | hp) | hp) | hp) | hp) | hp := hp
  · obtain ⟨q, hq, rfl⟩ := List.mem_map.1 hp
    exact ⟨_, _, exec_laneTwoOps x s q hq⟩
  · obtain ⟨q, hq, rfl⟩ := List.mem_map.1 hp
    exact ⟨_, _, exec_laneOneOps x s q hq⟩
  · obtain ⟨q, hq, rfl⟩ := List.mem_map.1 hp
    exact ⟨_, _, exec_laneThreeOps x s q hq⟩
  · obtain ⟨q, hq, rfl⟩ := List.mem_map.1 hp
    exact ⟨_, _, exec_laneCompareOps x s q hq⟩
  · obtain ⟨q, hq, rfl⟩ := List.mem_map.1 hp
    exact ⟨_, _, exec_shuffleOps x s q hq⟩
  · simp only [List.map_cons, List.map_nil] at hp
    fin_cases hp <;> exact ⟨_, _, rfl⟩
  · simp only [List.map_cons, List.map_nil] at hp
    fin_cases hp <;> exact ⟨_, _, rfl⟩
  · fin_cases hp <;> exact ⟨_, _, rfl⟩
  · obtain ⟨hplaned, hp⟩ := mem_if_nil hp
    have hn : ¬s.cur.planed = true := by simpa using hplaned
    fin_cases hp
    · exact ⟨_, _, if_neg hn⟩
    · exact ⟨_, _, if_neg hn⟩
  · simp only [List.map_cons, List.map_nil] at hp
    fin_cases hp <;> exact ⟨_, _, rfl⟩
  · obtain ⟨hvc, hp⟩ := mem_if_nil hp
    obtain rfl := List.mem_singleton.1 hp
    exact ⟨_, _, if_neg (by simpa using hvc)⟩
  · simp only [List.map_cons, List.map_nil] at hp
    fin_cases hp <;> exact ⟨_, _, rfl⟩
  · obtain ⟨i, hi, rfl⟩ := List.mem_map.1 hp
    obtain ⟨op, hop⟩ := exec_laneAtoms (s := s) i hi
    exact ⟨_, _, hop⟩
  · obtain ⟨q, hq, hp⟩ := List.mem_flatMap.1 hp
    obtain ⟨hk, hp⟩ := mem_if_nil hp
    obtain rfl := List.mem_singleton.1 hp
    exact conversionOps_isPass ha q hq hk
  · obtain ⟨q, hq, hp⟩ := List.mem_flatMap.1 hp
    obtain ⟨hk, hp⟩ := mem_if_nil hp
    obtain rfl := List.mem_singleton.1 hp
    exact packOps_isPass ha q hq hk
  · obtain ⟨hk, hp⟩ := mem_if_nil hp
    obtain rfl := List.mem_singleton.1 hp
    exact unpack_isPass ha (by rw [exec_vmxunpk, execVmxunpk]) (by simpa [Bool.and_assoc] using hk)
  · obtain ⟨hk, hp⟩ := mem_if_nil hp
    obtain rfl := List.mem_singleton.1 hp
    exact unpack_isPass ha (by rw [exec_vf4unpk, execVf4unpk]) (by simpa [Bool.and_assoc] using hk)

end

/-! ### The accesses of a lane memory operation -/

section
variable {s : State} {sp : Span} {l : Launch} {k : AccKind} {w : Nat}

/-- MISALIGNED is the cause of an access outside the quad window that is not aligned, and of no other (R103, R108). -/
theorem chkBad_misaligned (a : Nat) : chkBad (checkAcc s sp l k w a).2 causeMisaligned = (!inQuad a && a % w != 0) := by
  by_cases hq : inQuad a
  · simp only [checkAcc, hq, if_true, Bool.not_true, Bool.false_and]
    split <;> rfl
  · by_cases hw : a % w = 0
    · have hr : (!inQuad a && a % w != 0) = false := by simp [hw]
      rw [hr, checkAcc, if_neg hq, if_neg (not_not.2 hw)]
      repeat' split
      all_goals rfl
    · rw [checkAcc_misaligned (Bool.eq_false_iff.2 hq) hw]
      simp [hq, hw, chkBad]

theorem filter_misaligned_foldl (accs : List Acc) : ∀ r : State × List (Acc × LaneChk),
    ((accs.foldl (fun r a => ((checkAcc r.1 sp l k w a.2).1, r.2 ++ [(a, (checkAcc r.1 sp l k w a.2).2)])) r).2.filter
        (fun p => chkBad p.2 causeMisaligned)).map Prod.fst =
      (r.2.filter (fun p => chkBad p.2 causeMisaligned)).map Prod.fst ++ accs.filter (fun a => !inQuad a.2 && a.2 % w != 0) := by
  induction accs with
  | nil => intro r; simp
  | cons a as ih =>
    intro r
    rw [List.foldl_cons, ih, List.filter_append, List.map_append, List.append_assoc, List.filter_cons, List.filter_cons, chkBad_misaligned]
    split <;> rfl

theorem filter_misaligned (accs : List Acc) : ((checkAccs s sp l k w accs).2.filter (fun p => chkBad p.2 causeMisaligned)).map Prod.fst =
    accs.filter (fun a => !inQuad a.2 && a.2 % w != 0) :=
  filter_misaligned_foldl accs (s, [])

theorem trapAcc_lane (hl : s.cur.lane = true) (c : Nat) (m : List Acc) :
    trapAcc s sp l c m = takeTrap s sp l ⟨c, true, maskOf 32 (m.map Prod.fst), (m.map Prod.snd).headD 0⟩ := by
  have hhead : (m.head?.map Prod.snd).getD 0 = (m.map Prod.snd).headD 0 := by cases m <;> rfl
  rw [trapAcc, if_pos hl, hhead]
  rfl

theorem memPass_misaligned {accs : List Acc} (hl : s.cur.lane = true) (h : accs.filter (fun a => !inQuad a.2 && a.2 % w != 0) ≠ [])
    (f : State → List (Acc × Place) → Res) : memPass s sp l k w accs f =
      takeTrap (checkAccs s sp l k w accs).1 sp l ⟨causeMisaligned, true,
        maskOf 32 ((accs.filter (fun a => !inQuad a.2 && a.2 % w != 0)).map Prod.fst),
        ((accs.filter (fun a => !inQuad a.2 && a.2 % w != 0)).map Prod.snd).headD 0⟩ := by
  rw [← filter_misaligned (s := s) (sp := sp) (l := l) (k := k)] at h ⊢
  unfold memPass
  dsimp only
  split
  · next hfound =>
    rw [hfound]
    exact trapAcc_lane ((Keeps.refl s).checkAccs.lane.trans hl) _ _
  · next hnone => simp [hnone] at h

theorem memPass_firstCause {accs : List Acc} (hl : s.cur.lane = true) (h : accs.filter (fun a => !inQuad a.2 && a.2 % w != 0) = [])
    (hwait : ∀ y ∈ (checkAccs s sp l k w accs).2, y.2 ≠ .wait) {c : Nat} {m : List Acc}
    (hc : firstCause (checkAccs s sp l k w accs).2 = some (c, m)) (f : State → List (Acc × Place) → Res) :
    memPass s sp l k w accs f =
      takeTrap (checkAccs s sp l k w accs).1 sp l ⟨c, true, maskOf 32 (m.map Prod.fst), (m.map Prod.snd).headD 0⟩ := by
  rw [← filter_misaligned (s := s) (sp := sp) (l := l) (k := k), List.map_eq_nil_iff] at h
  have hw : (checkAccs s sp l k w accs).2.any (fun p => p.2 == .wait) = false := by
    rw [List.any_eq_false]
    exact fun y hy => by simpa using hwait y hy
  unfold memPass
  dsimp only
  rw [h]
  simp only [hw, hc, Bool.false_eq_true, if_false]
  exact trapAcc_lane ((Keeps.refl s).checkAccs.lane.trans hl) _ _

end

/-- The sources and destinations of a lane memory operation's pass. -/
def memoryForm (x : LFields) : Instr → Option (List Source × List Nat)
  | .vld _ | .vldCons _ | .vldUnc _ | .vldReaders _ => some (addrSources x, regSpan x.vd (tyRegs x.ty))
  | .vst _ | .vstUnc _ => some (addrSources x ++ [.v (regSpan x.vc (tyRegs x.ty)) (feC x)], [])
  | .vatomAdd _ | .vatomMin _ | .vatomMax _ | .vatomMinn _ | .vatomMaxn _ | .vatomAnd _ | .vatomOr _ | .vatomXor _ | .vatomXchg _
  | .vatomCas _ | .vatomFadd _ | .vatomBf16x2add _ =>
    some (addrSources x ++ [.v (regSpan x.vc (tyRegs x.ty)) (feC x)], regSpan x.vd (tyRegs x.ty))
  | _ => none

section
variable {x : LFields} {s : State} {sp : Span} {l : Launch}

/-- The operations of `passForms` that access no memory. -/
theorem memoryForm_none {i : Instr} (h : i ∈ (laneTwoOps x ++ laneFloatOps x).map Prod.fst ++ (laneOneOps x).map Prod.fst ++
    (laneThreeOps x).map Prod.fst ++ (laneCompareOps x).map Prod.fst ++ (shuffleOps x).map Prod.fst) : memoryForm x i = none := by
  simp only [laneTwoOps, laneFloatOps, laneOneOps, laneThreeOps, laneCompareOps, shuffleOps, List.map_cons, List.map_nil, List.cons_append,
    List.nil_append] at h
  fin_cases h <;> rfl

/-- A row of `passForms` that is a memory operation has its form. -/
theorem memoryForm_of_passForms {p : Instr × List Source × List Nat} (hp : p ∈ passForms x s l) {y : List Source × List Nat}
    (hy : memoryForm x p.1 = some y) : p.2 = y := by
  have hplain : ∀ i ∈ (laneTwoOps x ++ laneFloatOps x).map Prod.fst ++ (laneOneOps x).map Prod.fst ++ (laneThreeOps x).map Prod.fst ++
      (laneCompareOps x).map Prod.fst ++ (shuffleOps x).map Prod.fst, p.1 ≠ i := by
    rintro i hi rfl
    rw [memoryForm_none hi] at hy
    cases hy
  have hnone : memoryForm x p.1 ≠ none := by rw [hy]; exact Option.some_ne_none y
  simp only [List.mem_append, List.mem_map] at hplain
  simp only [passForms, List.mem_append] at hp
  obtain (((((((((((((((hp | hp) | hp) | hp) | hp) | hp) | hp) | hp) | hp) | hp) | hp) | hp) | hp) | hp) | hp) | hp) | hp := hp
  · obtain ⟨q, hq, rfl⟩ := List.mem_map.1 hp
    exact absurd rfl (hplain q.1 (.inl (.inl (.inl (.inl ⟨q, List.mem_append.1 hq, rfl⟩)))))
  · obtain ⟨q, hq, rfl⟩ := List.mem_map.1 hp
    exact absurd rfl (hplain q.1 (.inl (.inl (.inl (.inr ⟨q, hq, rfl⟩)))))
  · obtain ⟨q, hq, rfl⟩ := List.mem_map.1 hp
    exact absurd rfl (hplain q.1 (.inl (.inl (.inr ⟨q, hq, rfl⟩))))
  · obtain ⟨q, hq, rfl⟩ := List.mem_map.1 hp
    exact absurd rfl (hplain q.1 (.inl (.inr ⟨q, hq, rfl⟩)))
  · obtain ⟨q, hq, rfl⟩ := List.mem_map.1 hp
    exact absurd rfl (hplain q.1 (.inr ⟨q, hq, rfl⟩))
  · simp only [List.map_cons, List.map_nil] at hp
    fin_cases hp <;> exact absurd rfl hnone
  · simp only [List.map_cons, List.map_nil] at hp
    fin_cases hp <;> exact absurd rfl hnone
  · fin_cases hp <;> exact absurd rfl hnone
  · obtain ⟨-, hp⟩ := mem_if_nil hp
    fin_cases hp <;> exact absurd rfl hnone
  · simp only [List.map_cons, List.map_nil] at hp
    fin_cases hp <;> exact Option.some.inj hy
  · obtain ⟨-, hp⟩ := mem_if_nil hp
    obtain rfl := List.mem_singleton.1 hp
    exact Option.some.inj hy
  · simp only [List.map_cons, List.map_nil] at hp
    fin_cases hp <;> exact Option.some.inj hy
  · obtain ⟨i, hi, rfl⟩ := List.mem_map.1 hp
    simp only [laneAtoms] at hi
    fin_cases hi <;> exact Option.some.inj hy
  · obtain ⟨q, hq, hp⟩ := List.mem_flatMap.1 hp
    obtain ⟨-, hp⟩ := mem_if_nil hp
    obtain rfl := List.mem_singleton.1 hp
    simp only [conversionOps] at hq
    fin_cases hq <;> exact absurd rfl hnone
  · obtain ⟨q, hq, hp⟩ := List.mem_flatMap.1 hp
    obtain ⟨-, hp⟩ := mem_if_nil hp
    obtain rfl := List.mem_singleton.1 hp
    simp only [packOps] at hq
    fin_cases hq <;> exact absurd rfl hnone
  · obtain ⟨-, hp⟩ := mem_if_nil hp
    obtain rfl := List.mem_singleton.1 hp
    exact absurd rfl hnone
  · obtain ⟨-, hp⟩ := mem_if_nil hp
    obtain rfl := List.mem_singleton.1 hp
    exact absurd rfl hnone

/-! Where no acquire is waited for and the unit has nothing pending, an access is the memory pass of its addresses. -/

theorem loadPass_memPass {k : AccKind} {n w : Nat} {signed : Bool} {dest : Dest} {accs : List Acc} (ha : sp.acquiring = none)
    (hp : sp.pend = .none) : ∃ f, loadPass s sp l k n w signed dest accs = memPass s sp l k w accs f := by
  rw [loadPass, afterAcquire_none ha, hp]
  exact ⟨_, rfl⟩

theorem storePass_memPass {unc : Bool} {w : Nat} {accs : List Acc} {data : Nat → Nat} (ha : sp.acquiring = none)
    (hp : sp.pend = .none) : ∃ f, storePass s sp l unc w accs data = memPass s sp l (if unc then .storeUnc else .store) w accs f := by
  rw [storePass, afterAcquire_none ha, hp]
  exact ⟨_, rfl⟩

theorem atomPass_memPass {op w ord : Nat} {dest : Dest} {accs : List Acc} {d e : Nat → Nat} (ha : sp.acquiring = none)
    (hp : sp.pend = .none) : ∃ f, atomPass s sp l op w ord dest accs d e = memPass s sp l .atomic (w / 8) accs f := by
  rw [atomPass, afterAcquire_none ha, hp]
  exact ⟨_, rfl⟩

/-- The memory pass of a ready lane memory operation. -/
theorem exec_laneAccess {p : Instr × AccKind × Nat × List Acc} (hp : p ∈ laneAccesses x s sp) {srcs : List Source} {dst : List Nat}
    (hform : (p.1, srcs, dst) ∈ passForms x s l) (hr : PassReady s sp l srcs dst none) (ha : sp.acquiring = none)
    (hpend : sp.pend = .none) : ∃ f, exec p.1 s = memPass s sp l p.2.1 p.2.2.1 p.2.2.2 f := by
  have hload : ∀ k n, PassReady s sp l (addrSources x) (regSpan x.vd (tyRegs x.ty)) none →
      ∃ f, laneLoad k n x s = memPass s sp l k (memWidth x.ty).1 (passAccs s sp x) f := by
    intro k n h
    exact (loadPass_memPass ha hpend).imp (fun _ hf => (lanePass_ready h _).trans hf)
  have hstore : ∀ unc, PassReady s sp l (addrSources x ++ [.v (regSpan x.vc (tyRegs x.ty)) (feC x)]) [] none →
      ∃ f, laneStore unc x s = memPass s sp l (if unc then .storeUnc else .store) (memWidth x.ty).1 (passAccs s sp x) f := by
    intro unc h
    exact (storePass_memPass ha hpend).imp (fun _ hf => (lanePass_ready h _).trans hf)
  have hsrcs : ∀ y, memoryForm x p.1 = some y → PassReady s sp l y.1 y.2 none := by
    intro y hy
    obtain rfl := memoryForm_of_passForms hform hy
    exact hr
  simp only [laneAccesses, List.mem_append] at hp
  obtain (hp | hp) | hp := hp
  · simp only [List.mem_cons, List.not_mem_nil, or_false] at hp
    obtain rfl | rfl | rfl | rfl | rfl := hp
    · exact hload .plain 0 (hsrcs _ rfl)
    · exact hload .unc 0 (hsrcs _ rfl)
    · exact hload .cons 0 (hsrcs _ rfl)
    · exact hstore false (hsrcs _ rfl)
    · exact hstore true (hsrcs _ rfl)
  · split at hp
    · simp at hp
    · next hvc =>
      obtain rfl := List.mem_singleton.1 hp
      obtain ⟨f, hf⟩ := hload .readers x.vc.toNat (hsrcs _ rfl)
      exact ⟨f, (if_neg hvc).trans hf⟩
  · obtain ⟨i, hi, rfl⟩ := List.mem_map.1 hp
    have hready : PassReady s sp l (addrSources x ++ [.v (regSpan x.vc (tyRegs x.ty)) (feC x)]) (regSpan x.vd (tyRegs x.ty)) none := by
      refine hsrcs (_, _) ?_
      simp only [laneAtoms] at hi
      fin_cases hi <;> rfl
    obtain ⟨op, hop⟩ := exec_laneAtoms (s := s) i hi
    have hwidth : (if tyRegs x.ty == 2 then 64 else 32) / 8 = 4 * tyRegs x.ty := by
      unfold tyRegs
      split <;> rfl
    rw [← hwidth]
    exact (atomPass_memPass ha hpend).imp (fun _ hf => (hop.trans (lanePass_ready hready _)).trans hf)

end

end Sys2Proof.Machine

namespace Sys2Proof
open Machine

/-- Settles O29: an access with a cause traps in its pass; an engine command asks for the live lanes first; a lane operation that is a
pass traps as passes do; and a lane access traps by the first cause of its pass. -/
theorem whereAccessesTrap : Obligations.WhereAccessesTrap := by
  unfold Obligations.WhereAccessesTrap
  refine ⟨?scalar, ?partialMask, ?pass, ?lanes⟩
  case scalar =>
    intro d a b imm w e s sp l h hl hr ha hp p hm
    obtain ⟨f, hf⟩ := scalarAccess_of_mem h hr ha hp p hm
    refine ⟨fun hq hw => ?_, fun hq hplain hunc => ?_⟩
    · rw [hf, memPass_bad (checkAcc_misaligned hq hw) (by simp [causeOrder]), trapAcc_scalar hl]
    · rw [hf, memPass_bad (checkAcc_quad hq hplain hunc) (by simp [causeOrder]), trapAcc_scalar hl]
  case partialMask =>
    intro n q k pr a b c d m z p r ta tb rd s sp l h hpart
    refine ⟨?slots, fun hr => ?one, fun hr => ?push, fun hr => ?coll, fun hr => ?copy, fun hr => ?acst⟩
    case slots =>
      have hslot : ∀ x wait f, slotOp x wait f s = takeTrap s sp l ⟨causePartial, false, sp.am, 0⟩ := fun x wait f => by
        rw [slotOp, withLaunch_actingIn h]
        exact if_pos hpart
      intro i hi
      simp only [List.mem_cons, List.not_mem_nil, or_false] at hi
      obtain rfl | rfl | rfl := hi
      · rw [exec_tclaim, execTclaim, hslot]
      · rw [exec_trel, execTrel, hslot]
      · rw [exec_qfence, execQfence, withLaunch_actingIn h]
        exact if_pos hpart
    case one =>
      have hmma : ∀ y, mmaOp y n k a z p ta r tb s = takeTrap s sp l ⟨causePartial, false, sp.am, 0⟩ := fun y => by
        rw [mmaOp, withLaunch_actingIn h, needS_ready hr]
        exact if_pos hpart
      intro i hi
      simp only [List.mem_cons, List.not_mem_nil, or_false] at hi
      obtain rfl | rfl | rfl := hi
      · rw [exec_mma, execMma, hmma]
      · rw [exec_mmaVia, execMmaVia, hmma]
      · rw [exec_rsend, execRsend, withLaunch_actingIn h, needS_ready hr]
        exact if_pos hpart
    case push =>
      rw [exec_cpush, execCpush, withLaunch_actingIn h, needS_ready hr]
      exact if_pos hpart
    case coll =>
      have hcoll : ∀ op, collOp op a ta c s = takeTrap s sp l ⟨causePartial, false, sp.am, 0⟩ := fun op => by
        rw [collOp, withLaunch_actingIn h, needS_ready hr]
        exact if_pos hpart
      intro i hi
      simp only [List.mem_cons, List.not_mem_nil, or_false] at hi
      obtain rfl | rfl | rfl | rfl := hi <;> exact hcoll _
    case copy =>
      have hcopy : ∀ slot counted, copyOp slot counted n a b c q s = takeTrap s sp l ⟨causePartial, false, sp.am, 0⟩ := fun slot counted => by
        rw [copyOp, withLaunch_actingIn h, needS_ready hr]
        exact if_pos hpart
      intro i hi
      simp only [List.mem_cons, List.not_mem_nil, or_false] at hi
      obtain rfl | rfl | rfl := hi <;> exact hcopy _ _
    case acst =>
      rw [exec_acst, execAcst, withLaunch_actingIn h, needS_ready hr]
      exact if_pos hpart
  case pass =>
    intro x s sp l h ht f illegal
    refine ⟨fun p hm => ?_, exec_conversionOps_illegal h, exec_packOps_illegal h, fun hblk => ⟨?_, ?_⟩, fun h12 h13 => ?_, fun h14 => ?_⟩
    · obtain ⟨sdst, k, hk⟩ := passForms_isPass h p hm
      exact ⟨fun hb => hk.trans (lanePass_beyond h ht hb k), fun hr hlater hempty => hk.trans (lanePass_emptyRead h ht hr hlater hempty k)⟩
    · rw [exec_vmxunpk, execVmxunpk]
      refine unpack_illegal h ?_
      obtain hb | hb | hb := hblk <;> simp [f] at hb <;> simp [hb]
    · rw [exec_vf4unpk, execVf4unpk]
      refine unpack_illegal h ?_
      obtain hb | hb | hb := hblk <;> simp [f] at hb <;> simp [hb]
    · rw [exec_vmxunpk, execVmxunpk]
      refine unpack_illegal h ?_
      simp only [f] at h12 h13
      simp [h12, h13]
    · rw [exec_vf4unpk, execVf4unpk]
      refine unpack_illegal h ?_
      simp only [f] at h14
      simp [h14]
  case lanes =>
    intro x s sp l srcs dst hl hr ha hpend p hp hform r off
    obtain ⟨g, hg⟩ := exec_laneAccess hp hform hr ha hpend
    exact ⟨fun hoff => hg.trans (memPass_misaligned hl hoff g),
      fun hoff hwait c m hc => hg.trans (memPass_firstCause hl hoff hwait hc g)⟩

end Sys2Proof

/-! Settlements of the family 'other': the instructions of the fabric processors (R362 to R372). -/

namespace Sys2Proof.Machine

section
variable {s : State} {k : Nat} {f : Fp} {t : TFields}

theorem withFp_trelixAt (h : TrelixAt s k f t) (run : Nat → Fp → TFields → Res) : withFp s run = run k f t := by
  obtain ⟨hk, hf, ht⟩ := h
  rw [withFp, hk]
  simp only [hf, ht]

theorem fpAlu_trelixAt (h : TrelixAt s k f t) (op : Word64 → Word64 → Word64) :
    fpAlu s op = .next (fpAfter s k (xWrite f t.x (op (xRead f t.a) (xRead f t.b))) ((xWrite f t.x (op (xRead f t.a) (xRead f t.b))).pc + 4)) :=
  withFp_trelixAt h _

@[simp] theorem xWrite_pc (f : Fp) (r : BitVec 5) (v : Word64) : (xWrite f r v).pc = f.pc := by
  unfold xWrite
  split <;> rfl

@[simp] theorem fpOf_dropFails_putFp (s : State) (k : Nat) (f : Fp) (who : Who) : fpOf (dropFails (putFp s k f) who) k = f :=
  mapGet_mapPut_same _ _ _ _

theorem fpNext_eq (s : State) (k : Nat) (f : Fp) : fpNext s k f = .next (fpAfter s k f (f.pc + 4)) := rfl

theorem fpBranch_trelixAt (h : TrelixAt s k f t) (c : Word64 → Word64 → Bool) :
    fpBranch s c = .next (fpAfter s k f (if c (xRead f t.x) (xRead f t.a)
      then ((f.pc : Int) + 4 * (tfImm16 t).toInt + 2 ^ 64).toNat else f.pc + 4)) := by
  rw [fpBranch, withFp_trelixAt h]
  split <;> rfl

theorem exec_trelixRegisterOps (s : State) : ∀ p ∈ trelixRegisterOps, exec p.1 s = fpAlu s p.2 := by
  intro p hp
  simp only [trelixRegisterOps, List.mem_cons, List.not_mem_nil, or_false] at hp
  obtain rfl | rfl | rfl | rfl | rfl | rfl | rfl | rfl | rfl | rfl | rfl | rfl := hp <;> rfl

/-- Settles O30: each instruction is run on the acting processor's registers; the codes are those of the encoder. -/
theorem trelixIntegerAndControl : Obligations.TrelixIntegerAndControl := by
  unfold Obligations.TrelixIntegerAndControl
  refine ⟨fun s k f t h => ⟨fun p hp => ?alu, ?addi, ?slin, rfl, fun _ => rfl, fun x a b p hp => ?code⟩,
    fun s k f t h => ⟨fun p hp => ?branch, ?jal, fun ha => ?jr, ?halt⟩⟩
  case alu => rw [exec_trelixRegisterOps s p hp, fpAlu_trelixAt h, xWrite_pc]
  case addi => rw [exec_trelixAddi, execTrelixAddi, withFp_trelixAt h, fpNext_eq, xWrite_pc]
  case slin => rw [exec_trelixSlin, execTrelixSlin, withFp_trelixAt h, fpNext_eq, xWrite_pc]
  case code =>
    refine (trelixRoundTrip p.1 ⟨x, a, b, p.2⟩ _ ?_ ?_).1
    all_goals
      simp only [trelixRegisterOps, trelixCodes, List.map_cons, List.map_nil, List.zip_cons_cons, List.zip_nil_right] at hp
      fin_cases hp <;> rfl
  case branch =>
    simp only [List.mem_cons, List.not_mem_nil, or_false] at hp
    obtain rfl | rfl | rfl | rfl := hp <;> exact fpBranch_trelixAt h _
  case jal => rw [exec_trelixJal, execTrelixJal, withFp_trelixAt h]; rfl
  case jr =>
    rw [exec_trelixJr, execTrelixJr, withFp_trelixAt h]
    exact if_neg (not_not.2 ha)
  case halt =>
    exact ⟨_, by rw [exec_trelixHalt, execTrelixHalt, withFp_trelixAt h, fpHalt], fpOf_dropFails_putFp .., rfl⟩

end

end Sys2Proof.Machine

/-! Settlements of the family 'other': bytes written at their home in the coherence order (R249), stores, atomics and releases (R107, R262 to R270). -/

namespace Sys2Proof.Machine

/-! ### What keeps every byte at its home and every byte's coherence order -/

/-- Every byte at its home, and every byte's coherence order, is as before. -/
def BytesKept (s t : State) : Prop :=
  (∀ x, (homeOf t x).data = (homeOf s x).data) ∧ t.mem = s.mem ∧ t.ord.bytes = s.ord.bytes

section
variable {s t u : State}

theorem BytesKept.refl (s : State) : BytesKept s s := ⟨fun _ => rfl, rfl, rfl⟩

theorem BytesKept.trans (h : BytesKept s t) (k : BytesKept t u) : BytesKept s u :=
  ⟨fun x => (k.1 x).trans (h.1 x), k.2.1.trans h.2.1, k.2.2.trans h.2.2⟩

theorem BytesKept.homeByte (h : BytesKept s t) (q : Nat) : homeByte t q = homeByte s q :=
  homeByte_of (h.1 _) (by rw [memByte, memByte, h.2.1])

theorem BytesKept.ordersAt (h : BytesKept s t) (q : Nat) : ordersAt t q = ordersAt s q := by
  rw [Machine.ordersAt, Machine.ordersAt, h.2.2]

theorem BytesKept.homeRead (h : BytesKept s t) (pa n : Nat) : homeRead t pa n = homeRead s pa n := by
  simp only [Machine.homeRead, h.homeByte]

theorem BytesKept.foldl {α : Type} {f : State → α → State} (hf : ∀ t a, BytesKept t (f t a)) (l : List α) :
    ∀ s, BytesKept s (l.foldl f s) := by
  induction l with
  | nil => exact BytesKept.refl
  | cons a as ih => exact fun s => (hf s a).trans (ih _)

theorem BytesKept.ite {c : Prop} [Decidable c] (h : BytesKept s t) (k : BytesKept s u) : BytesKept s (if c then t else u) := by
  split
  · exact h
  · exact k

/-- A home line that keeps its data keeps every byte. -/
theorem BytesKept.putHome (s : State) (line : Nat) {h : HomeLine} (hd : h.data = (homeOf s line).data) : BytesKept s (putHome s line h) := by
  refine ⟨fun x => ?_, rfl, rfl⟩
  rw [homeOf_putHome]
  split
  · next hx => rw [hx, hd]
  · rfl

theorem makeWay_eq (s : State) (line : Nat) : ∃ ls, makeWay s line = { s with lines := ls } := by
  unfold makeWay
  dsimp only
  split
  · exact ⟨_, rfl⟩
  · split <;> exact ⟨_, rfl⟩

/-- A slice's use of a line changes its lines and the count of uses alone (R228). -/
theorem homeTouch_eq (s : State) (line : Nat) : ∃ ls n, homeTouch s line = { s with lines := ls, uses := n } := by
  unfold homeTouch
  split
  · exact ⟨_, _, rfl⟩
  · obtain ⟨ls, hls⟩ := makeWay_eq s line
    dsimp only
    split
    · rw [hls]; exact ⟨_, _, rfl⟩
    · exact ⟨_, _, rfl⟩

theorem BytesKept.homeTouch (s : State) (line : Nat) : BytesKept s (homeTouch s line) := by
  refine ⟨homeData_homeTouch s line, homeTouch_mem s line, ?_⟩
  obtain ⟨ls, n, h⟩ := homeTouch_eq s line
  rw [h]

theorem BytesKept.lineWritten (s : State) (line : Nat) : BytesKept s (lineWritten s line) := by
  have hgroups : BytesKept s (touchGroups s line) := by
    unfold touchGroups
    split <;> exact ⟨fun _ => rfl, rfl, rfl⟩
  have hresid : ∀ t, BytesKept t (touchResid t line) := fun t => by
    unfold touchResid
    split <;> exact ⟨fun _ => rfl, rfl, rfl⟩
  exact (hgroups.trans (hresid _)).trans (BytesKept.homeTouch _ _)

theorem BytesKept.unhold (s : State) (line : Nat) : BytesKept s (unhold s line) := BytesKept.putHome s line rfl

theorem BytesKept.seeMarks (s : State) (a : Nat) (l : List FenceMark) : BytesKept s (seeMarks s a l) := by
  unfold Machine.seeMarks
  exact BytesKept.ite (BytesKept.refl s) ⟨fun _ => rfl, rfl, rfl⟩

theorem BytesKept.atomicAcquire (s : State) (r : Req) (pa : Nat) : BytesKept s (atomicAcquire s r pa) := by
  unfold Machine.atomicAcquire
  split
  · exact BytesKept.refl s
  · exact BytesKept.ite ⟨fun _ => rfl, rfl, rfl⟩ (BytesKept.refl s)

theorem BytesKept.raiseFloorOf (s : State) (a line : Nat) : BytesKept s (raiseFloorOf s a line) := by
  unfold Machine.raiseFloorOf
  split <;> exact ⟨fun _ => rfl, rfl, rfl⟩

theorem BytesKept.addRelease (s : State) (key : Nat) (r : Released) : BytesKept s (addRelease s key r) := ⟨fun _ => rfl, rfl, rfl⟩

theorem BytesKept.giveOld (s : State) (r : Req) (old : Nat) (bad : Bool) : BytesKept s (giveOld s r old bad) := by
  refine BytesKept.foldl (fun t j => ?_) _ s
  split <;> exact ⟨fun _ => rfl, rfl, rfl⟩

/-! ### A write in the coherence order -/

theorem ordersAt_putOrders (s : State) (pa q : Nat) (l : List Written) : ordersAt (putOrders s pa l) q = if q = pa then l else ordersAt s q := by
  unfold ordersAt putOrders
  dsimp only
  by_cases hl : q / 128 = pa / 128
  · rw [hl, mapGet_mapPut_same]
    by_cases hb : q % 128 = pa % 128
    · rw [if_pos (by omega), hb, mapGet_mapPut_same]
    · rw [if_neg (by omega), mapGet_mapPut_other _ _ _ hb]
  · rw [if_neg (by rintro rfl; exact hl rfl), mapGet_mapPut_other _ _ _ hl]

theorem homePut_ord (s : State) (pa : Nat) (b : Byte) : (homePut s pa b).ord = s.ord := by
  have htouch : (homeTouch s (pa / 128)).ord = s.ord := by
    obtain ⟨ls, n, h⟩ := homeTouch_eq s (pa / 128)
    rw [h]
  have huse : (if isHbm pa ∧ (homeOf s (pa / 128)).l2 = 0 then homeTouch s (pa / 128) else s).ord = s.ord := by
    split
    · exact htouch
    · rfl
  unfold homePut
  dsimp only
  split
  · rfl
  · rw [← huse]
    generalize (if isHbm pa ∧ (homeOf s (pa / 128)).l2 = 0 then homeTouch s (pa / 128) else s) = t
    split <;> rfl

theorem ordersAt_homePut (s : State) (pa : Nat) (b : Byte) (q : Nat) : ordersAt (homePut s pa b) q = ordersAt s q := by
  rw [ordersAt, homePut_ord]
  rfl

/-- Whether a write stands last depends on the byte's order alone, not on when it comes. -/
theorem orderWrite_last_congr (w : Writer) (at_ : Bool) (va : Nat) {q : Nat} (h : ordersAt t q = ordersAt s q) :
    (orderWrite t w at_ va q).2 = (orderWrite s w at_ va q).2 := by
  unfold orderWrite
  dsimp only
  rw [h]
  rfl

theorem leaves_congr (w : Option Writer) (at_ : Bool) (va : Nat) {q : Nat} (b : Byte) (ho : ordersAt t q = ordersAt s q)
    (hb : homeByte t q = homeByte s q) : leaves t w at_ va q b = leaves s w at_ va q b := by
  cases w with
  | none => rfl
  | some w => simp only [leaves, orderWrite_last_congr w at_ va ho, hb]

theorem BytesKept.leaves (h : BytesKept s t) (w : Option Writer) (at_ : Bool) (va q : Nat) (b : Byte) :
    leaves t w at_ va q b = leaves s w at_ va q b :=
  leaves_congr w at_ va b (h.ordersAt q) (h.homeByte q)

theorem homeByte_orderWrite (s : State) (w : Writer) (at_ : Bool) (va pa q : Nat) :
    homeByte (orderWrite s w at_ va pa).1 q = homeByte s q := rfl

theorem homeByte_orderedPut (s : State) (w : Option Writer) (at_ : Bool) (va pa : Nat) (b : Byte) (q : Nat) :
    homeByte (orderedPut s w at_ va pa b) q = if q = pa then leaves s w at_ va pa b else homeByte s q := by
  cases w with
  | none => exact homeByte_homePut s pa b q
  | some w =>
    simp only [orderedPut, leaves]
    split
    · rw [homeByte_homePut]; rfl
    · rw [homeByte_orderWrite]
      split
      · next hq => rw [hq]
      · rfl

theorem ordersAt_orderedPut_other (s : State) (w : Option Writer) (at_ : Bool) (va pa : Nat) (b : Byte) {q : Nat} (hq : q ≠ pa) :
    ordersAt (orderedPut s w at_ va pa b) q = ordersAt s q := by
  cases w with
  | none => exact ordersAt_homePut s pa b q
  | some w =>
    have horder : ordersAt (orderWrite s w at_ va pa).1 q = ordersAt s q := by
      simp only [orderWrite, ordersAt_putOrders, if_neg hq]
    simp only [orderedPut]
    split
    · rw [ordersAt_homePut, horder]
    · exact horder

end

/-- Writes of distinct bytes, each in its byte's order: a byte of theirs has what its write leaves, and every other is as before. -/
theorem homeByte_foldl_orderedPut {α : Type} (w : α → Option Writer) (at_ : Bool) (va pa : α → Nat) (b : α → Byte) (q : Nat)
    (l : List α) : ∀ s, (l.map pa).Nodup →
      homeByte (l.foldl (fun t k => orderedPut t (w k) at_ (va k) (pa k) (b k)) s) q =
        match l.find? (fun k => pa k == q) with
        | some k => leaves s (w k) at_ (va k) q (b k)
        | none => homeByte s q := by
  induction l with
  | nil => exact fun _ _ => rfl
  | cons a as ih =>
    intro s hn
    obtain ⟨ha, hn⟩ := List.nodup_cons.1 hn
    rw [List.foldl_cons, ih _ hn, List.find?_cons]
    by_cases hq : pa a = q
    · have hnone : as.find? (fun k => pa k == q) = none := by
        rw [List.find?_eq_none]
        intro k hk hkq
        exact ha (List.mem_map.2 ⟨k, hk, (eq_of_beq hkq).trans hq.symm⟩)
      rw [hnone, beq_iff_eq.2 hq]
      dsimp only
      rw [homeByte_orderedPut, if_pos hq.symm, hq]
    · rw [show (pa a == q) = false from beq_eq_false_iff_ne.2 hq]
      have hb := homeByte_orderedPut s (w a) at_ (va a) (pa a) (b a) q
      rw [if_neg (Ne.symm hq)] at hb
      have ho := ordersAt_orderedPut_other s (w a) at_ (va a) (pa a) (b a) (Ne.symm hq)
      cases as.find? (fun k => pa k == q) with
      | none => exact hb
      | some k => exact leaves_congr _ _ _ _ ho hb

theorem find?_zipIdx (l : List Byte) (pa q : Nat) : ∀ k, (l.zipIdx k).find? (fun c => pa + c.2 == q) =
    if pa + k ≤ q ∧ q < pa + k + l.length then some (l.getD (q - pa - k) 0, q - pa) else none := by
  induction l with
  | nil => intro k; simp
  | cons a as ih =>
    intro k
    rw [List.zipIdx_cons, List.find?_cons]
    by_cases hq : pa + k = q
    · rw [beq_iff_eq.2 hq, if_pos (by simp only [List.length_cons]; omega)]
      simp [show q - pa = k by omega]
    · rw [show (pa + k == q) = false from beq_eq_false_iff_ne.2 hq]
      dsimp only
      rw [ih, List.length_cons]
      by_cases hr : pa + k ≤ q ∧ q < pa + k + (as.length + 1)
      · rw [if_pos (by omega), if_pos hr, show q - pa - k = (q - pa - (k + 1)) + 1 by omega, List.getD_cons_succ]
      · rw [if_neg (by omega), if_neg hr]

theorem nodup_zipIdx_add (l : List Byte) (pa : Nat) : (l.zipIdx.map (fun c => pa + c.2)).Nodup := by
  rw [show (fun c : Byte × Nat => pa + c.2) = (fun i => pa + i) ∘ Prod.snd from rfl, ← List.map_map, List.zipIdx_map_snd]
  exact (List.nodup_range' ..).map (fun _ _ h => Nat.add_left_cancel h)

/-- One write of bytes at the home: each byte takes its place in its coherence order (R249). -/
theorem homeByte_orderedBytes (s : State) (w : Option Writer) (at_ : Bool) (va pa : Nat) (l : List Byte) (q : Nat) :
    homeByte (orderedBytes s w at_ va pa l) q =
      if pa ≤ q ∧ q < pa + l.length then leaves s w at_ (va + (q - pa)) q (l.getD (q - pa) 0) else homeByte s q := by
  have hw := BytesKept.lineWritten s (pa / 128)
  unfold orderedBytes
  dsimp only
  show homeByte (l.zipIdx.foldl _ _) q = _
  rw [homeByte_foldl_orderedPut (fun _ => w) at_ (fun c : Byte × Nat => va + c.2) (fun c => pa + c.2) (fun c => c.1) q _ _ (nodup_zipIdx_add l pa),
    find?_zipIdx]
  by_cases hr : pa + 0 ≤ q ∧ q < pa + 0 + l.length
  · rw [if_pos hr, if_pos (by omega)]
    exact hw.leaves _ _ _ _ _
  · rw [if_neg hr, if_neg (by omega)]
    exact hw.homeByte q

theorem length_natToBytes (n x : Nat) : (natToBytes n x).length = n := by
  induction n generalizing x with
  | zero => rfl
  | succ n ih => simp [natToBytes, ih]

theorem wroteValue_orderedBytes (s : State) (w : Option Writer) (at_ : Bool) (va pa n x : Nat) :
    wroteValue s (orderedBytes s w at_ va pa (natToBytes n x)) w at_ va pa n x := fun q => by
  rw [homeByte_orderedBytes, length_natToBytes]

theorem wroteValue_of_kept {s s' t t' : State} {w : Option Writer} {at_ : Bool} {va pa n x : Nat} (h : wroteValue s' t w at_ va pa n x)
    (hs : BytesKept s s') (ht : BytesKept t t') : wroteValue s t' w at_ va pa n x := fun q => by
  rw [ht.homeByte, h q, hs.homeByte, hs.leaves]

/-! ### What a write at the home leaves alone -/

/-- Apart from memory, the home lines, the coherence orders and what a foreign store leaves open in the fabric's tables, nothing is changed. -/
def HomesApart (s t : State) : Prop :=
  ∃ m o ls n rs os, t = { s with mem := m, ord := o, lines := ls, uses := n, fab := { s.fab with resid := rs, opens := os } }

section
variable {s t u : State}

theorem HomesApart.refl (s : State) : HomesApart s s := ⟨_, _, _, _, _, _, rfl⟩

theorem HomesApart.trans (h : HomesApart s t) (k : HomesApart t u) : HomesApart s u := by
  obtain ⟨_, _, _, _, _, _, rfl⟩ := h
  obtain ⟨_, _, _, _, _, _, rfl⟩ := k
  exact ⟨_, _, _, _, _, _, rfl⟩

theorem HomesApart.foldl {α : Type} {f : State → α → State} (hf : ∀ t a, HomesApart t (f t a)) (l : List α) :
    ∀ s, HomesApart s (l.foldl f s) := by
  induction l with
  | nil => exact HomesApart.refl
  | cons a as ih => exact fun s => (hf s a).trans (ih _)

theorem HomesApart.homeTouch (s : State) (line : Nat) : HomesApart s (homeTouch s line) := by
  obtain ⟨ls, n, h⟩ := homeTouch_eq s line
  rw [h]
  exact ⟨_, _, _, _, _, _, rfl⟩

theorem HomesApart.homePut (s : State) (pa : Nat) (b : Byte) : HomesApart s (homePut s pa b) := by
  have huse : HomesApart s (if isHbm pa ∧ (homeOf s (pa / 128)).l2 = 0 then Machine.homeTouch s (pa / 128) else s) := by
    split
    · exact HomesApart.homeTouch s _
    · exact HomesApart.refl s
  unfold Machine.homePut
  dsimp only
  split
  · exact ⟨_, _, _, _, _, _, rfl⟩
  · generalize (if isHbm pa ∧ (homeOf s (pa / 128)).l2 = 0 then Machine.homeTouch s (pa / 128) else s) = t at huse ⊢
    refine huse.trans ?_
    split <;> exact ⟨_, _, _, _, _, _, rfl⟩

theorem HomesApart.lineWritten (s : State) (line : Nat) : HomesApart s (lineWritten s line) := by
  have hgroups : HomesApart s (touchGroups s line) := by
    unfold touchGroups
    split <;> exact ⟨_, _, _, _, _, _, rfl⟩
  have hresid : ∀ t, HomesApart t (touchResid t line) := fun t => by
    unfold touchResid
    split <;> exact ⟨_, _, _, _, _, _, rfl⟩
  exact (hgroups.trans (hresid _)).trans (HomesApart.homeTouch _ _)

theorem HomesApart.orderedPut (s : State) (w : Option Writer) (at_ : Bool) (va pa : Nat) (b : Byte) :
    HomesApart s (orderedPut s w at_ va pa b) := by
  cases w with
  | none => exact HomesApart.homePut s pa b
  | some w =>
    have horder : HomesApart s (orderWrite s w at_ va pa).1 := ⟨_, _, _, _, _, _, rfl⟩
    simp only [Machine.orderedPut]
    split
    · exact horder.trans (HomesApart.homePut _ _ _)
    · exact horder

theorem HomesApart.orderedBytes (s : State) (w : Option Writer) (at_ : Bool) (va pa : Nat) (l : List Byte) :
    HomesApart s (orderedBytes s w at_ va pa l) :=
  ((HomesApart.lineWritten s _).trans (HomesApart.foldl (fun _ _ => HomesApart.orderedPut ..) _ _)).trans ⟨_, _, _, _, _, _, rfl⟩

theorem HomesApart.reqs (h : HomesApart s t) : t.reqs = s.reqs := by
  obtain ⟨_, _, _, _, _, _, rfl⟩ := h
  rfl

end

/-! ### Stores at the home (R107, R309, R310) -/

theorem withReq_event {s : State} {i : Nat} {r : Req} (h : EventReq s i r) (k : Nat → Req → Res) : withReq s k = k i r := by
  obtain ⟨rfl, hr⟩ := h
  rw [withReq, hr]

/-- What follows the last write that is ordered before a new one. -/
theorem drop_takeWhile_reverse {α : Type} (p : α → Bool) (l : List α) :
    l.drop (l.length - (l.reverse.takeWhile p).length) = (l.reverse.takeWhile p).reverse := by
  have h := congrArg List.reverse (List.takeWhile_append_dropWhile (p := p) (l := l.reverse))
  rw [List.reverse_append, List.reverse_reverse] at h
  have hlen := congrArg List.length h
  rw [List.length_append, List.length_reverse, List.length_reverse] at hlen
  conv_lhs => arg 2; rw [← h]
  exact List.drop_left' (by rw [List.length_reverse]; omega)

/-- A write stands last where every write after the last that is ordered before it has no higher writer id (R249). -/
theorem placeWrite_last {l : List Written} {w : Written} {before : Written → Bool} (h : ∀ x ∈ l, before x = true ∨ x.id ≤ w.id) :
    (placeWrite l w before).2 = true := by
  unfold placeWrite
  dsimp only
  rw [drop_takeWhile_reverse]
  have hall : ∀ x ∈ (l.reverse.takeWhile (fun x => !before x)).reverse, decide (x.id ≤ w.id) = true := by
    intro x hx
    rw [List.mem_reverse] at hx
    have hb : before x = false := by simpa using List.mem_takeWhile_imp hx
    have hm : x ∈ l := List.mem_reverse.1 ((List.takeWhile_prefix _).subset hx)
    simpa [hb] using h x hm
  rw [List.takeWhile_eq_self_iff.2 hall, List.drop_length]
  rfl

/-- A write does not stand last where the last write of the byte is not ordered before it and has a higher writer id (R249). -/
theorem placeWrite_not_last {l : List Written} {w x : Written} {before : Written → Bool} (hx : l.getLast? = some x) (hb : before x = false)
    (hid : w.id < x.id) : (placeWrite l w before).2 = false := by
  unfold placeWrite
  dsimp only
  rw [drop_takeWhile_reverse, List.isEmpty_eq_false_iff]
  have hmem : x ∈ (l.reverse.takeWhile (fun x => !before x)).reverse := by
    obtain ⟨ys, rfl⟩ := List.getLast?_eq_some_iff.1 hx
    simp [hb]
  intro hnil
  have hsplit := List.takeWhile_append_dropWhile (p := fun x : Written => decide (x.id ≤ w.id)) (l := (l.reverse.takeWhile (fun x => !before x)).reverse)
  rw [List.drop_eq_nil_iff] at hnil
  have heq := (List.takeWhile_prefix (fun x : Written => decide (x.id ≤ w.id))).eq_of_length_le hnil
  rw [← heq] at hmem
  have hle := List.mem_takeWhile_imp hmem
  simp only [decide_eq_true_eq] at hle
  omega

theorem not_tier_not_host {pa : Nat} (h : isHbm pa = true) : isTier pa = false ∧ isHost pa = false := by
  have hlt : pa < 0x00C000000000 := of_decide_eq_true h
  constructor
  · rw [isTier, decide_eq_false (by unfold tierLo; omega), Bool.false_and]
  · rw [isHost, decide_eq_false (by unfold hostLo; omega), Bool.false_and]

/-- The bit of a mask of a line that stands at an address. -/
theorem find?_bitsOf (m : BitVec 128) (line pa : Nat) : (bitsOf m).find? (fun k => 128 * line + k == pa) =
    if pa / 128 = line ∧ m.getLsbD (pa % 128) = true then some (pa % 128) else none := by
  have hat : ∀ k ∈ bitsOf m, 128 * line + k = pa → pa / 128 = line ∧ pa % 128 = k := fun k hk h => by
    have := BitVec.lt_of_getLsbD (mem_bitsOf.1 hk)
    omega
  cases hf : (bitsOf m).find? (fun k => 128 * line + k == pa) with
  | some k =>
    have hk := List.mem_of_find?_eq_some hf
    obtain ⟨hline, hbit⟩ := hat k hk (eq_of_beq (List.find?_some (p := fun k => 128 * line + k == pa) hf))
    rw [if_pos ⟨hline, hbit ▸ mem_bitsOf.1 hk⟩, hbit]
  | none =>
    rw [List.find?_eq_none] at hf
    rw [if_neg]
    rintro ⟨hline, hbit⟩
    exact hf _ (mem_bitsOf.2 hbit) (beq_iff_eq.2 (by omega))

theorem mapFind_filter_none {α : Type} {m : SMap α} {i : Nat} (h : mapFind m i = none) (p : Nat × α → Bool) : mapFind (m.filter p) i = none := by
  induction m with
  | nil => rfl
  | cons a m ih =>
    obtain ⟨k, v⟩ := a
    unfold mapFind at h
    split at h
    · cases h
    · next hk =>
      rw [List.filter_cons]
      split
      · rw [mapFind, if_neg hk, ih h]
      · exact ih h

section
variable {s : State} {i : Nat} {r : Req}

/-- The home as a store's bytes find it: its request is gone, and the line counts one write less to come. -/
theorem performStore_eq (htag : r.tag = 0) (hpoison : r.poison = false) : ∃ u, BytesKept s u ∧ u.reqs = (closeWindows (delReq s i) r.core (fun x => x == r.line)).reqs ∧
    performStore s i r = nextStamp ((bitsOf r.mask).foldl (fun t k => orderedPut t (r.writers.find? (fun w => w.mask.getLsbD k)) false
      (((r.writers.find? (fun w => w.mask.getLsbD k)).map Writer.va).getD (r.va / 128 * 128) + k) (128 * r.line + k) (lineByte r.data k)) u) := by
  have hclose : BytesKept s (closeWindows (delReq s i) r.core (fun x => x == r.line)) := ⟨fun _ => rfl, rfl, rfl⟩
  unfold performStore
  rw [if_pos htag]
  simp only [hpoison, Bool.false_eq_true, if_false]
  refine ⟨_, ?_, ?_, rfl⟩
  · exact (hclose.trans (BytesKept.lineWritten _ r.line)).trans (BytesKept.putHome _ _ rfl)
  · exact (HomesApart.lineWritten _ _).reqs

theorem homeByte_performStore (htag : r.tag = 0) (hpoison : r.poison = false) (pa : Nat) :
    homeByte (performStore s i r) pa = if pa / 128 = r.line ∧ r.mask.getLsbD (pa % 128) = true
      then let w := r.writers.find? (fun w => w.mask.getLsbD (pa % 128))
        leaves s w false ((w.map Writer.va).getD (r.va / 128 * 128) + pa % 128) pa (lineByte r.data (pa % 128))
      else homeByte s pa := by
  obtain ⟨u, hu, -, heq⟩ := performStore_eq (s := s) (i := i) htag hpoison
  rw [heq]
  show homeByte (List.foldl _ u _) pa = _
  have hnodup : ((bitsOf r.mask).map (fun k => 128 * r.line + k)).Nodup :=
    ((bitsOf_pairwise r.mask).imp Nat.ne_of_lt).map _ (fun _ _ h h' => h (Nat.add_left_cancel h'))
  rw [homeByte_foldl_orderedPut (fun k => r.writers.find? (fun w => w.mask.getLsbD k)) false
    (fun k => ((r.writers.find? (fun w => w.mask.getLsbD k)).map Writer.va).getD (r.va / 128 * 128) + k) (fun k => 128 * r.line + k)
    (fun k => lineByte r.data k) pa _ _ hnodup]
  rw [find?_bitsOf]
  by_cases hin : pa / 128 = r.line ∧ r.mask.getLsbD (pa % 128) = true
  · rw [if_pos hin, if_pos hin]
    exact hu.leaves ..
  · rw [if_neg hin, if_neg hin]
    exact hu.homeByte pa

theorem mapFind_performStore (htag : r.tag = 0) (hpoison : r.poison = false) : mapFind (performStore s i r).reqs i = none := by
  obtain ⟨u, -, hreqs, heq⟩ := performStore_eq (s := s) (i := i) htag hpoison
  have hfold : (performStore s i r).reqs = u.reqs := by
    rw [heq]
    exact (HomesApart.foldl (fun _ _ => HomesApart.orderedPut ..) _ u).reqs
  rw [hfold, hreqs]
  exact mapFind_filter_none (mapFind_mapDel_same _ _) _

end

end Sys2Proof.Machine

namespace Sys2Proof
open Machine

/-- Settles O38: the store's bytes are written one by one, each in its byte's order. -/
theorem storePerformed : Obligations.StorePerformed := by
  intro s i r
  refine ⟨fun h hk hst hfill hsent => ?check, fun h hk hhbm hdata hatom hpoison htag _ => ?data, fun w va pa => ⟨fun h => ?last, fun x hx hb hid => ?notLast⟩,
    fun h hk htier hdata hatom => ?tier, rfl⟩
  case check =>
    rw [exec_homeStoreCheck, execHomeStoreCheck, withReq_event h, if_neg (by simp [hk, hst, hfill, hsent])]
    dsimp only
    split <;> rfl
  case data =>
    obtain ⟨htier, hhost⟩ := not_tier_not_host hhbm
    refine ⟨performStore s i r, ?_, mapFind_performStore htag hpoison, homeByte_performStore htag hpoison⟩
    rw [exec_homeStoreData, execHomeStoreData, withReq_event h, if_neg (by simp [hk, htier, hdata, hatom]), hhost]
    rfl
  case last => exact placeWrite_last (fun x hx => by simpa using h x hx)
  case notLast => exact placeWrite_not_last hx (by simpa using hb) hid
  case tier =>
    rw [exec_expanderCompletion, execExpanderCompletion, withReq_event h]
    exact if_neg (by simp [hk, htier, hdata, hatom])

end Sys2Proof

/-! Settlements of the family 'other': atomics and releases at their home (R262 to R270). -/

namespace Sys2Proof.Machine

section
variable {s : State} {i : Nat} {r : Req}

/-- Outside debug mode no undo entry is made (R208). -/
theorem undoUpdate_of_no_debug (h : ∀ sp l, spanOf s r.uid = some sp → launchOf s sp = some l → l.debug = false) (old : List Byte) :
    undoUpdate s r old = s := by
  unfold undoUpdate
  split
  · rfl
  · next sp hsp =>
    split
    · rfl
    · next l hl =>
      rw [h sp l hsp hl]
      rfl

/-- The request as its update begins: taken from the list, its line in use, one write less to come. -/
def taken (s : State) (i : Nat) (r : Req) : State := homeTouch (unhold (delReq s i) r.line) r.line

theorem taken_kept (s : State) (i : Nat) (r : Req) : BytesKept s (taken s i r) := by
  have hdel : BytesKept s (delReq s i) := ⟨fun _ => rfl, rfl, rfl⟩
  exact (hdel.trans (BytesKept.unhold _ _)).trans (BytesKept.homeTouch _ _)

theorem undoHome_taken (h : ∀ sp l, spanOf s r.uid = some sp → launchOf s sp = some l → l.debug = false) : undoHome (taken s i r) r = taken s i r := by
  refine undoUpdate_of_no_debug (fun sp l hsp hl => h sp l ?_ ?_) _
  all_goals
    unfold taken at hsp hl
    obtain ⟨ls, n, ht⟩ := homeTouch_eq (unhold (delReq s i) r.line) r.line
    rw [ht] at hsp hl
  · exact hsp
  · exact hl

theorem performAtomic_wrote (h : ∀ sp l, spanOf s r.uid = some sp → launchOf s sp = some l → l.debug = false) :
    wroteValue s (performAtomic s i r) r.writers.head? true r.va (128 * r.line + r.a) (r.width / 8)
      (atomFn r.op r.width (homeRead s (128 * r.line + r.a) (r.width / 8)) r.b r.c) := by
  have htaken := taken_kept s i r
  have hbefore := (htaken.trans (BytesKept.seeMarks _ r.uid _)).trans
    (BytesKept.atomicAcquire (seeFences (taken s i r) r.uid (128 * r.line + r.a) (r.width / 8)) r (128 * r.line + r.a))
  unfold performAtomic
  dsimp only
  rw [show homeTouch (unhold (delReq s i) r.line) r.line = taken s i r from rfl, undoHome_taken h, htaken.homeRead]
  refine wroteValue_of_kept (wroteValue_orderedBytes _ _ _ _ _ _ _) hbefore ?_
  refine ((BytesKept.raiseFloorOf _ r.uid r.line).trans ?_).trans (BytesKept.giveOld _ _ _ _)
  exact BytesKept.ite (BytesKept.refl _) (BytesKept.addRelease _ _ _)

theorem performRel_wrote (s : State) (pa : Nat) (p : Bool) (r : Req) : wroteValue s (performRel s pa p r) r.writers.head? true r.va pa 8
    ((if p = true ∨ 2 ^ 63 ≤ homeRead s pa 8 then 2 ^ 63 else 0) + (homeRead s pa 8 % 2 ^ 63 + 1) % 2 ^ 63) := by
  unfold performRel
  dsimp only
  refine wroteValue_of_kept (wroteValue_orderedBytes _ _ _ _ _ _ _) (BytesKept.refl s) ?_
  refine (BytesKept.raiseFloorOf _ r.uid (pa / 128)).trans ?_
  exact BytesKept.ite (BytesKept.refl _) (BytesKept.addRelease _ _ _)

end

end Sys2Proof.Machine

namespace Sys2Proof
open Machine

/-- Settles O39: a checked request is noted by its line, an update writes its value in the order of the word's bytes. -/
theorem atomicsAndReleases : Obligations.AtomicsAndReleases := by
  intro s i r
  refine ⟨fun h hk hst hfill hsent => ?check, fun h hk hst hm hdata horder hdebug => ?update, fun h hclear hk hlines hwaits => ?rel,
    fun h hclear hk k ls hlines => ?promote, fun h hclear hk => ?held, fun pa p => performRel_wrote s pa p r⟩
  case check =>
    rw [exec_homeAtomic, execHomeAtomic, withReq_event h, if_neg (by tauto), if_neg (by simp [hfill, hsent]), if_pos hst]
    dsimp only
    split <;> rfl
  case update =>
    refine ⟨performAtomic s i r, ?_, performAtomic_wrote hdebug⟩
    rw [exec_homeAtomic, execHomeAtomic, withReq_event h, if_neg (by simp [hk]), if_neg (by simp [hst]), if_neg (by simp [hst]),
      if_neg (by simp [hst, hm, hdata, horder])]
  case rel =>
    rw [exec_releaseMarkerClear, execReleaseMarkerClear, withReq_event h, if_neg (by simp [hclear])]
    simp only [hk, if_true, hlines, hwaits, Bool.false_eq_true, if_false]
  case promote =>
    rw [exec_releaseMarkerClear, execReleaseMarkerClear, withReq_event h, if_neg (by simp [hclear])]
    simp only [hk, if_true, hlines, List.foldl_cons]
  case held =>
    rw [exec_releaseMarkerClear, execReleaseMarkerClear, withReq_event h, if_neg (by simp [hclear])]
    dsimp only
    rw [if_neg (by rw [hk]; decide)]
    split
    · rfl
    · split <;> rfl

end Sys2Proof

/-! Settlements of the family 'other': the engines' commands (R26 to R28, R173 to R188, R251, R350). -/

namespace Sys2Proof.Machine

/-! ### Running a command -/

section
variable {s s' s0 s1 : State} {kind : CmdKind} {k : CmdAt} {l : Launch}

theorem withCmd_runs (h : CmdRuns s kind k l) (f : CmdAt → Launch → Res) : withCmd s kind f = f k l := by
  obtain ⟨hk, hl, hkind, hdone, hclock, hpause, hstart⟩ := h
  rw [withCmd, hk]
  dsimp only
  rw [hl]
  exact if_neg (by obtain hs | hs := hstart <;> simp [hkind, hdone, hclock, hpause, hs])

/-! ### Copies (R187, R251) -/

/-- The pieces of a step that is one piece. -/
theorem copyPieces_one {e : Cmd} {p n : Nat} (hn : 0 < n) (hp : n = copyPiece e p) : copyPieces n e p n = [(p, n)] := by
  obtain ⟨m, rfl⟩ := Nat.exists_eq_succ_of_ne_zero (Nat.ne_of_gt hn)
  have hmin : min (m + 1) (copyPiece e p) = m + 1 := by rw [← hp, Nat.min_self]
  have hrest : copyPieces m e (p + (m + 1)) 0 = [] := by cases m <;> rfl
  rw [copyPieces, if_neg (Nat.succ_ne_zero m)]
  dsimp only
  rw [hmin, Nat.sub_self, hrest]

/-- A copy whose step is one piece writes it, and lands its bytes. -/
theorem copyWrite_one {n p after : Nat} {bytes : List Byte} (h : engDo s0 k l s0.nextId (dstAddr k.cmd p) (bytes.take n) = .ok s1 after) :
    copyWrite s0 k l [(p, n)] bytes =
      let e := { k.cmd with started := true, progress := p + n, landed := p + n }
      let u := landCmd s1 k.core e n false after
      if e.progress = cmdTotal e then cmdDone u k e else updCmd u k { e with buf := bytes.drop n } := by
  have hone : copyOne k l s0.nextId ⟨s0, k.cmd, bytes, false⟩ (p, n) =
      ⟨landCmd s1 k.core { k.cmd with started := true, progress := p + n, landed := p + n } n false after,
        { k.cmd with started := true, progress := p + n, landed := p + n }, bytes.drop n, false⟩ := by
    rw [copyOne, if_neg Bool.false_ne_true, h]
  simp only [copyWrite, List.foldl_cons, List.foldl_nil, hone]
  rfl

/-- Bytes of a read are in the order of their addresses, each as the command finds it. -/
def ReadsAs (s : State) (k : CmdAt) (l : Launch) (va : Nat) (b : Byte) : Prop :=
  (∀ pa bar, engAt s k l va 0 = .phys pa bar → b = copyByte s k l va pa) ∧
  (∀ off d, engAt s k l va 0 = .loc off → deckOf s k.cmd.deck = some d → b = copyLocal s k d off)

theorem engRead_succ (addr : Nat → Nat) (n : Nat) : engRead s k l addr (n + 1) = match engRead s k l addr n with
    | .ok bs p ls =>
      let va := addr n
      match engAt s k l va 0 with
      | .loc off => match deckOf s k.cmd.deck with
        | some d => .ok (copyLocal s k d off :: bs) (p || localBad s d off 1) ls
        | none => .fail
      | .phys pa _ => .ok (copyByte s k l va pa :: bs) (p || badLine s (pa / 128))
          (if ls.contains (pa / 128) then ls else pa / 128 :: ls)
      | .wait s => .wait s
      | .fail => .fail
    | r => r := by
  rw [engRead, List.range_succ, List.foldl_append]
  rfl

theorem engRead_spec (addr : Nat → Nat) : ∀ (n : Nat) (rev : List Byte) (bad : Bool) (lines : List Nat), engRead s k l addr n = .ok rev bad lines →
    rev.length = n ∧ ∀ i, i < n → ReadsAs s k l (addr i) (rev.reverse.getD i 0) := by
  intro n
  induction n with
  | zero =>
    intro rev bad lines h
    cases h
    exact ⟨rfl, fun i hi => absurd hi (Nat.not_lt_zero i)⟩
  | succ n ih =>
    intro rev bad lines h
    have hcons : ∀ b bs p ls, engRead s k l addr n = .ok bs p ls → ReadsAs s k l (addr n) b →
        (b :: bs).length = n + 1 ∧ ∀ i, i < n + 1 → ReadsAs s k l (addr i) ((b :: bs).reverse.getD i 0) := by
      intro b bs p ls hbs hb
      obtain ⟨hlen, hat⟩ := ih bs p ls hbs
      refine ⟨by rw [List.length_cons, hlen], fun i hi => ?_⟩
      rw [List.reverse_cons]
      by_cases hin : i < n
      · rw [List.getD_append _ _ _ _ (by rw [List.length_reverse, hlen]; exact hin)]
        exact hat i hin
      · have hi' : i = n := by omega
        rw [List.getD_append_right _ _ _ _ (by rw [List.length_reverse, hlen]; omega), hi']
        simpa [hlen] using hb
    rw [engRead_succ] at h
    cases hrd : engRead s k l addr n with
    | wait t => rw [hrd] at h; cases h
    | fail => rw [hrd] at h; cases h
    | ok bs p ls =>
      rw [hrd] at h
      dsimp only at h
      cases hat : engAt s k l (addr n) 0 with
      | wait t => rw [hat] at h; cases h
      | fail => rw [hat] at h; cases h
      | phys pa bar =>
        rw [hat] at h
        cases h
        refine hcons _ _ _ _ hrd ⟨fun pa' bar' h' => ?_, fun off d h' => ?_⟩
        · rw [hat] at h'; cases h'; rfl
        · rw [hat] at h'; cases h'
      | loc off =>
        rw [hat] at h
        dsimp only at h
        cases hd : deckOf s k.cmd.deck with
        | none => rw [hd] at h; cases h
        | some d =>
          rw [hd] at h
          cases h
          refine hcons _ _ _ _ hrd ⟨fun pa' bar' h' => ?_, fun off' d' h' hd' => ?_⟩
          · rw [hat] at h'; cases h'
          · rw [hat] at h'; cases h'; rw [hd] at hd'; cases hd'; rfl

/-- Bytes of a command to HBM4E, outside a counted fill, take their places in the coherence orders (R249). -/
theorem engDo_phys {first va pa : Nat} {bar : Bool} {bs : List Byte} (hat : engAt s k l va 1 = .phys pa bar) (hhbm : isHbm pa = true)
    (hr : k.cmd.readers = 0) (hdet : l.det = false) : ∃ t, engDo s k l first va bs = .ok t 0 ∧
      ∀ q, homeByte t q = if pa ≤ q ∧ q < pa + bs.length
        then leaves s (some (writerOf s k.cmd.seq k.core 0 va)) false (va + (q - pa)) q (bs.getD (q - pa) 0) else homeByte s q := by
  rw [engDo, hat]
  simp only [engPut, hhbm, hr, hdet, Bool.not_true, Bool.false_eq_true, if_false, ne_eq, not_true_eq_false]
  refine ⟨_, rfl, fun q => ?_⟩
  exact ((BytesKept.putHome _ (pa / 128) (by rfl)).homeByte q).trans (homeByte_orderedBytes ..)

end

/-! ### The product (R26 to R28, R179, R182) -/

section
variable {c : Ctx} {e : Cmd} {b0 b1 : Nat}

theorem mapFind_append {α : Type} (m n : SMap α) (i : Nat) : mapFind (m ++ n) i = (mapFind m i).or (mapFind n i) := by
  induction m with
  | nil => rfl
  | cons p m ih =>
    obtain ⟨j, v⟩ := p
    rw [List.cons_append]
    by_cases hj : j = i
    · simp [mapFind, hj]
    · simp [mapFind, hj, ih]

theorem mapFind_filter_key {α : Type} (m : SMap α) (q : Nat → Bool) (i : Nat) :
    mapFind (m.filter (fun p => q p.1)) i = if q i = true then mapFind m i else none := by
  induction m with
  | nil => simp [mapFind]
  | cons p m ih =>
    obtain ⟨j, v⟩ := p
    rw [List.filter_cons]
    by_cases hj : j = i
    · subst hj
      split
      · next hq => simp [mapFind]
      · next hq =>
        rw [ih]
        simp [hq]
    · split
      · rw [mapFind, if_neg hj, ih, mapFind, if_neg hj]
      · rw [ih, mapFind, if_neg hj]

theorem mapFind_filterMap (v : Nat → Nat) (base i n : Nat) : mapFind ((List.range n).filterMap (fun j =>
    if v j = 0 then none else some (base + j, BitVec.ofNat 32 (v j)))) i =
      if base ≤ i ∧ i < base + n ∧ v (i - base) ≠ 0 then some (BitVec.ofNat 32 (v (i - base))) else none := by
  induction n with
  | zero => rw [if_neg (by omega)]; rfl
  | succ n ih =>
    rw [List.range_succ, List.filterMap_append, mapFind_append, ih]
    by_cases hold : base ≤ i ∧ i < base + n ∧ v (i - base) ≠ 0
    · rw [if_pos hold, if_pos ⟨hold.1, by omega, hold.2.2⟩]
      rfl
    · rw [if_neg hold, Option.none_or]
      by_cases hv : v n = 0
      · rw [if_neg]
        · simp [hv, mapFind]
        · rintro ⟨hlo, hhi, hne⟩
          have hin : i - base = n := by
            by_contra hne'
            exact hold ⟨hlo, by omega, hne⟩
          exact hne (hin ▸ hv)
      · by_cases hi : base + n = i
        · have hin : i - base = n := by omega
          rw [if_pos ⟨by omega, by omega, hin ▸ hv⟩, hin]
          simp [hv, mapFind, hi]
        · rw [if_neg (fun h => hold ⟨h.1, by omega, h.2.2⟩)]
          simp [hv, mapFind, hi]

/-- A table with the part from `lo` to `hi` replaced. -/
theorem mapFind_spliced {α : Type} (m new : SMap α) {lo hi : Nat} (hle : lo ≤ hi) (i : Nat) (hnew : ¬(lo ≤ i ∧ i < hi) → mapFind new i = none) :
    mapFind (m.filter (fun p => decide (p.1 < lo)) ++ new ++ m.filter (fun p => decide (hi ≤ p.1))) i =
      if lo ≤ i ∧ i < hi then mapFind new i else mapFind m i := by
  rw [mapFind_append, mapFind_append, mapFind_filter_key m (fun j => decide (j < lo)), mapFind_filter_key m (fun j => decide (hi ≤ j))]
  simp only [decide_eq_true_eq]
  by_cases hin : lo ≤ i ∧ i < hi
  · rw [if_pos hin, if_neg (by omega), if_neg (by omega), Option.none_or, Option.or_none]
  · rw [if_neg hin, hnew hin, Option.or_none]
    by_cases hlo : i < lo
    · rw [if_pos hlo, if_neg (by omega), Option.or_none]
    · rw [if_neg hlo, if_pos (by omega), Option.none_or]

/-- An `mma` writes the elements of its accumulator, and no other word of any (R182). -/
theorem mapGet_mmaApply (c : Ctx) (e : Cmd) (b0 b1 i : Nat) : mapGet 0 (mmaApply c e b0 b1).accs i =
    if 16384 * e.acc ≤ i ∧ i < 16384 * (e.acc + 1) then
      BitVec.ofNat 32 (mmaElem (slotOf c e.slotA) (slotOf c e.slotB) e b0 b1 (mapGet 0 c.accs i).toNat ((i - 16384 * e.acc) / 128)
        ((i - 16384 * e.acc) % 128))
    else mapGet 0 c.accs i := by
  have hnew := mapFind_filterMap (fun j => mmaElem (slotOf c e.slotA) (slotOf c e.slotB) e b0 b1 (mapGet 0 c.accs (16384 * e.acc + j)).toNat
    (j / 128) (j % 128)) (16384 * e.acc) i 16384
  have hsplice := mapFind_spliced c.accs _ (lo := 16384 * e.acc) (hi := 16384 * (e.acc + 1)) (by omega) i
    (fun hout => hnew.trans (if_neg (fun h => hout ⟨h.1, by omega⟩)))
  have happly : mapGet 0 (mmaApply c e b0 b1).accs i = (if 16384 * e.acc ≤ i ∧ i < 16384 * (e.acc + 1) then mapFind _ i else mapFind c.accs i).getD 0 :=
    congrArg (fun o : Option Word32 => o.getD 0) hsplice
  rw [happly]
  split
  · next hin =>
    rw [hnew, Nat.add_sub_cancel' hin.1]
    split
    · rfl
    · next hz =>
      rw [not_not.1 (fun h => hz ⟨hin.1, by omega, h⟩)]
      rfl
  · rfl

theorem mmaElem_self (xa xb : Slot) (e : Cmd) (b0 acc m n : Nat) : mmaElem xa xb e b0 b0 acc m n = (if b0 = 0 ∧ e.zero = true then 0 else acc) := by
  unfold mmaElem
  dsimp only
  rw [Nat.sub_self]
  rfl

/-- The blocks are added in ascending order (R26). -/
theorem mmaElem_succ (xa xb : Slot) (e : Cmd) (acc m n : Nat) (h : b0 ≤ b1) :
    let B := if mmaK (fsA e.fslot) = 64 then 8 else 32
    let sa := slotScale xa (fsA e.fslot) e.colA m b1
    let sb := slotScale xb (fsB e.fslot) e.colB n b1
    mmaElem xa xb e b0 (b1 + 1) acc m n = mmaBlock (mmaElem xa xb e b0 b1 acc m n)
      ((List.range B).map (fun i => mulV (slotElem xa (fsA e.fslot) e.colA m (b1 * B + i)) (slotElem xb (fsB e.fslot) e.colB n (b1 * B + i))))
      (if B = 8 then some 0 else if sa = 255 ∨ sb = 255 then none else some ((sa : Int) + sb - 254)) := by
  intro B sa sb
  have hscale : ∀ x y : Int, x - 127 + (y - 127) = x + y - 254 := fun x y => by omega
  unfold mmaElem
  dsimp only
  rw [Nat.succ_sub h, List.range_succ, List.foldl_append, List.foldl_cons, List.foldl_nil]
  simp only [Nat.add_sub_cancel' h, hscale]
  rfl

end

/-! ### Block sums (R26, R28) -/

section
variable {ps : List FVal}

theorem mmaBlock_none (acc : Nat) (ps : List FVal) : mmaBlock acc ps none = 0x7FC00000 := by
  have hnan : ∀ v, addV false v .nan = .nan := fun v => by cases v <;> rfl
  simp only [mmaBlock, hnan]
  rfl

theorem any_isNaNV : ps.any isNaNV = true ↔ .nan ∈ ps := by
  rw [List.any_eq_true]
  constructor
  · rintro ⟨v, hv, h⟩
    cases v with
    | nan => exact hv
    | inf b => cases h
    | fin b m y => cases h
  · exact fun h => ⟨_, h, rfl⟩

/-- The infinities of a sign among values without a NaN. -/
theorem any_special (hnan : .nan ∉ ps) (b : Bool) {p : FVal → Bool} (hp : ∀ c, p (.inf c) = true ↔ c = b) :
    (ps.filter isSpecial).any p = true ↔ .inf b ∈ ps := by
  rw [List.any_eq_true]
  constructor
  · rintro ⟨v, hv, h⟩
    obtain ⟨hv, hs⟩ := List.mem_filter.1 hv
    cases v with
    | nan => exact absurd hv hnan
    | inf c => exact (hp c).1 h ▸ hv
    | fin c m y => cases hs
  · exact fun h => ⟨_, List.mem_filter.2 ⟨h, rfl⟩, (hp b).2 rfl⟩

theorem special_nonempty (hnan : .nan ∉ ps) : (!(ps.filter isSpecial).isEmpty) = true ↔ .inf true ∈ ps ∨ .inf false ∈ ps := by
  rw [Bool.not_eq_true', List.isEmpty_eq_false_iff_exists_mem]
  constructor
  · rintro ⟨v, hv⟩
    obtain ⟨hv, hs⟩ := List.mem_filter.1 hv
    cases v with
    | nan => exact absurd hv hnan
    | inf c =>
      cases c
      · exact .inr hv
      · exact .inl hv
    | fin c m y => cases hs
  · rintro (h | h)
    · exact ⟨_, List.mem_filter.2 ⟨h, rfl⟩⟩
    · exact ⟨_, List.mem_filter.2 ⟨h, rfl⟩⟩

/-- The special cases of a block sum, in terms of what stands among its products. -/
theorem blockSum_special (ps : List FVal) : blockSum ps =
    if .nan ∈ ps ∨ (.inf true ∈ ps ∧ .inf false ∈ ps) then .nan
    else if .inf true ∈ ps then .inf true
    else if .inf false ∈ ps then .inf false
    else if ps.all isZeroV then .fin false 0 0
    else decodeF fmtF32 (roundMag fmtF32 .rne .ieee (decide ((truncSum ps).1 < 0)) (truncSum ps).1.natAbs (truncSum ps).2 false) := by
  by_cases hnan : .nan ∈ ps
  · rw [blockSum, if_pos (any_isNaNV.2 hnan), if_pos (.inl hnan)]
  · have htrue := any_special hnan true (p := negOf) (fun c => Iff.rfl)
    have hfalse := any_special hnan false (p := fun v => !negOf v) (fun c => by cases c <;> simp [negOf])
    rw [blockSum, if_neg (fun h => hnan (any_isNaNV.1 h))]
    simp only [Bool.and_eq_true, htrue, hfalse, special_nonempty hnan]
    by_cases ht : .inf true ∈ ps <;> by_cases hf : .inf false ∈ ps <;> simp [hnan, ht, hf]

/-- The larger of an exponent and that of a value that is not zero. -/
def maxLog (k : Int) : FVal → Int
  | .fin _ m e => if m = 0 then k else max k (floorLog2 m e)
  | _ => k

/-- A sum of units 2^q with a value's units added. -/
def addUnits (q s : Int) : FVal → Int
  | .fin neg m e => s + signed neg (if q ≤ e then m * 2 ^ (e - q).toNat else m / 2 ^ (q - e).toNat)
  | _ => s

theorem truncSum_folds (ps : List FVal) :
    truncSum ps = (ps.foldl (addUnits (ps.foldl maxLog (-1000000) - 40)) 0, ps.foldl maxLog (-1000000) - 40) := rfl

theorem foldl_maxLog (E : Int) : ∀ (ps : List FVal) (k : Int), k ≤ E → (∀ p ∈ ps, ∃ b m y, p = .fin b m y ∧ (m = 0 ∨ floorLog2 m y ≤ E)) →
    (k = E ∨ ∃ b m y, .fin b m y ∈ ps ∧ m ≠ 0 ∧ floorLog2 m y = E) → ps.foldl maxLog k = E := by
  intro ps
  induction ps with
  | nil =>
    rintro k - - (h | ⟨b, m, y, hm, -⟩)
    · exact h
    · exact absurd hm List.not_mem_nil
  | cons p ps ih =>
    intro k hk hall hmax
    obtain ⟨b, m, y, rfl, hm⟩ := hall p List.mem_cons_self
    have hrest : ∀ p ∈ ps, ∃ b m y, p = .fin b m y ∧ (m = 0 ∨ floorLog2 m y ≤ E) := fun p hp => hall p (List.mem_cons_of_mem _ hp)
    rw [List.foldl_cons, maxLog]
    by_cases h0 : m = 0
    · rw [if_pos h0]
      refine ih k hk hrest (hmax.imp_right ?_)
      rintro ⟨b', m', y', hin, hne, hE⟩
      obtain heq | hin := List.mem_cons.1 hin
      · cases heq
        exact absurd h0 hne
      · exact ⟨b', m', y', hin, hne, hE⟩
    · rw [if_neg h0]
      have hle := hm.resolve_left h0
      refine ih _ (max_le hk hle) hrest ?_
      obtain rfl | ⟨b', m', y', hin, hne, hE⟩ := hmax
      · exact .inl (max_eq_left hle)
      · obtain heq | hin := List.mem_cons.1 hin
        · cases heq
          exact .inl ((max_eq_right (hE ▸ hk)).trans hE)
        · exact .inr ⟨b', m', y', hin, hne, hE⟩

theorem foldl_addUnits (q : Int) : ∀ (ps : List FVal) (a : Int), ps.foldl (addUnits q) a = a + (ps.map (unitsOf q)).sum := by
  intro ps
  induction ps with
  | nil => intro a; simp
  | cons p ps ih =>
    intro a
    have hp : addUnits q a p = a + unitsOf q p := by cases p <;> simp [addUnits, unitsOf]
    rw [List.foldl_cons, ih, hp, List.map_cons, List.sum_cons, add_assoc]

/-- The truncated sum counts units of 2^(E − 40), with E the largest exponent of a product (R26). -/
theorem truncSum_eq {E : Int} (hall : ∀ p ∈ ps, ∃ b m y, p = .fin b m y ∧ (m = 0 ∨ floorLog2 m y ≤ E))
    (hmax : ∃ b m y, .fin b m y ∈ ps ∧ m ≠ 0 ∧ floorLog2 m y = E) (hE : -1000000 ≤ E) :
    truncSum ps = ((ps.map (unitsOf (E - 40))).sum, E - 40) := by
  rw [truncSum_folds, foldl_maxLog E ps _ hE hall (.inr hmax), foldl_addUnits, zero_add]

theorem blockSum_rounded {E : Int} (hall : ∀ p ∈ ps, ∃ b m y, p = .fin b m y ∧ (m = 0 ∨ floorLog2 m y ≤ E))
    (hmax : ∃ b m y, .fin b m y ∈ ps ∧ m ≠ 0 ∧ floorLog2 m y = E) (hE : -1000000 ≤ E) :
    let sum := (ps.map (unitsOf (E - 40))).sum
    blockSum ps = decodeF fmtF32 (roundMag fmtF32 .rne .ieee (decide (sum < 0)) sum.natAbs (E - 40) false) := by
  have hfin : ∀ v ∈ ps, ∃ b m y, v = .fin b m y := fun v hin => by
    obtain ⟨b, m, y, h, -⟩ := hall v hin
    exact ⟨b, m, y, h⟩
  have hnan : .nan ∉ ps := fun h => by
    obtain ⟨b, m, y, h⟩ := hfin _ h
    cases h
  have hinf : ∀ c, .inf c ∉ ps := fun c h => by
    obtain ⟨b, m, y, h⟩ := hfin _ h
    cases h
  have hzero : ¬ps.all isZeroV = true := by
    obtain ⟨b, m, y, hin, hne, -⟩ := hmax
    intro h
    exact hne (by simpa [isZeroV] using List.all_eq_true.1 h _ hin)
  rw [blockSum_special, if_neg (not_or.2 ⟨hnan, fun h => hinf _ h.1⟩), if_neg (hinf _), if_neg (hinf _), if_neg hzero,
    truncSum_eq hall hmax hE]

end

end Sys2Proof.Machine

namespace Sys2Proof
open Machine

/-- Settles O44: each command's step, from what its reads and writes answer; the product by its elements, block by block. -/
theorem engineRuns : Obligations.EngineRuns := by
  unfold Obligations.EngineRuns
  refine ⟨?runs, ?apply, ?elem, ?block, by decide +kernel, by decide +kernel⟩
  case runs =>
    intro s s0 s1 s3 k l rev lines n a after e c
    refine ⟨?copy, fun h hx hcuts t e' ready hpages => ?whole, fun h hx => ?failed, fun addr bad hrd => ?read,
      fun first va pa bar bs hat hhbm hr hdet => engDo_phys hat hhbm hr hdet,
      fun first va off d bs hat hd => ?loc, fun h hst hbusy => ?mmaStart, fun h hst hact hswap hbad => ?mmaEnd, fun h hx hbad => ?acst,
      fun g mb hid h hst hbad hop htable hgroup hstate hopen hsaves hrd hchunk => ?coll⟩
    case copy =>
      intro h hx hcuts hn from_ hrd t bytes
      have hstep : exec .copyRun s = .next (copyStep s k l) := by
        rw [exec_copyRun, execCopyRun, withCmd_runs h, if_neg (by rw [hx]; exact Bool.false_ne_true), if_pos hcuts]
      rw [hstep, copyStep]
      dsimp only
      rw [← hn, hrd]
      refine ⟨fun hslot => ?_, fun hslot hready => ?_⟩
      · exact congrArg Host.Outcome.next ((if_neg Bool.false_ne_true).trans (if_pos hslot))
      · dsimp only
        rw [if_neg Bool.false_ne_true, if_neg (by rw [show k.cmd.toSlot = false from hslot]; exact Bool.false_ne_true), hready]
        refine ⟨rfl, fun hpos hdo => congrArg Host.Outcome.next ?_⟩
        have hpiece : n = copyPiece e e.progress := by rw [hn, copyChunk, if_pos hcuts]
        dsimp only
        rw [copyPieces_one hpos hpiece, copyWrite_one hdo]
    case whole =>
      rw [exec_copyRun, execCopyRun, withCmd_runs h, if_neg (by rw [hx]; exact Bool.false_ne_true), if_neg (by rw [hcuts]; exact Bool.false_ne_true)]
      dsimp only
      rw [hpages]
      dsimp only
      split <;> rfl
    case failed => rw [exec_copyRun, execCopyRun, withCmd_runs h, if_pos hx]
    case read =>
      obtain ⟨hlen, hat⟩ := engRead_spec addr n rev bad lines hrd
      exact ⟨hlen, hat⟩
    case loc =>
      rw [engDo, hat]
      dsimp only
      rw [hd]
    case mmaStart =>
      rw [exec_mmaRun, execMmaRun, withCmd_runs h]
      exact if_neg (not_or.2 ⟨fun h' => Bool.false_ne_true (hst.symm.trans h'), by simp [hbusy]⟩)
    case mmaEnd =>
      rw [exec_mmaDone, execMmaDone, withCmd_runs h]
      dsimp only
      have hst' : k.cmd.started = true := hst
      rw [if_neg (by simp [hst', hact, hswap]), if_neg (by rw [hbad]; exact Bool.false_ne_true)]
    case acst =>
      intro wb va m xs hw
      refine ⟨_, rfl, ?_⟩
      rw [exec_acstRun, execAcstRun, withCmd_runs h]
      dsimp only
      rw [if_neg (by rw [show k.cmd.xfail = false from hx]; exact Bool.false_ne_true), if_neg (by rw [hbad]; exact Bool.false_ne_true), hw]
    case coll =>
      obtain ⟨y, hy⟩ := Option.isSome_iff_exists.1 hchunk
      rw [exec_collEntryStart, execCollEntryStart, if_neg hid, withCmd_runs h]
      dsimp only
      rw [if_neg (by rw [show k.cmd.started = false from hst]; exact Bool.false_ne_true), if_neg (by rw [hbad]; decide),
        if_neg (by rw [htable]; exact Bool.false_ne_true), hgroup, Option.filter_some_pos (by rw [hstate]; rfl)]
      have hgopen : groupOpen s g = (s, false) := if_neg (by rw [hopen]; exact Bool.false_ne_true)
      dsimp only
      rw [hgopen]
      dsimp only
      rw [if_neg Bool.false_ne_true, if_neg (by rw [hsaves]; exact Bool.false_ne_true), hrd]
      dsimp only
      rw [if_neg Bool.false_ne_true, hy]
      dsimp only
      have hop' : k.cmd.op = 0 ∨ k.cmd.op = 2 := hop
      rw [if_neg (by omega), if_neg (fun h3 => by have := h3.1; omega)]
      refine ⟨_, _, rfl, mapFind_mapPut_same _ _ _, ?_⟩
      dsimp only [c, e]
      exact ⟨rfl, rfl, rfl, rfl, rfl, rfl⟩
  case apply =>
    intro c e b0 b1 m n i
    refine ⟨fun hm hn => ?_, fun hout => ?_, rfl, rfl⟩
    · rw [mapGet_mmaApply, if_pos (by omega)]
      have hidx : 16384 * e.acc + 128 * m + n - 16384 * e.acc = 128 * m + n := by omega
      rw [hidx, show (128 * m + n) / 128 = m by omega, show (128 * m + n) % 128 = n by omega]
    · rw [mapGet_mmaApply, if_neg (by omega)]
  case elem =>
    intro xa xb e b0 b1 acc m n
    exact ⟨mmaElem_self .., fun h => mmaElem_succ _ _ _ _ _ _ h⟩
  case block =>
    intro acc ps x E
    refine ⟨mmaBlock_none acc ps, rfl, fun h => ?_, fun hnan b hb hnot => ?_, fun hzero => ?_, blockSum_rounded⟩
    · rw [blockSum_special, if_pos h]
    · cases b
      · rw [blockSum_special, if_neg (not_or.2 ⟨hnan, fun h => hnot h.1⟩), if_neg (show .inf true ∉ ps from hnot), if_pos hb]
      · rw [blockSum_special, if_neg (not_or.2 ⟨hnan, fun h => hnot h.2⟩), if_pos hb]
    · have hout : ∀ v, isZeroV v = false → v ∉ ps := fun v hv hin => by
        obtain ⟨b, y, rfl⟩ := hzero v hin
        cases hv
      have hall : ps.all isZeroV = true := List.all_eq_true.2 (fun v hin => by
        obtain ⟨b, y, rfl⟩ := hzero v hin
        rfl)
      rw [blockSum_special, if_neg (not_or.2 ⟨hout _ rfl, fun h => hout _ rfl h.1⟩), if_neg (hout _ rfl), if_neg (hout _ rfl), if_pos hall]

end Sys2Proof

/-! Settlements of the family 'other': reset, system registers, system instructions and banks, the return from a trap (R57, R138 to R142, R159, R165 to R168, R200 to R208). -/

namespace Sys2Proof.Machine

/-! ### System registers (R57, R141) -/

section
variable {s : State} {sp : Span} {l : Launch} {d : Deck}

/-- The model reads the registers of the table. -/
theorem sysReg_of_mem (hd : deckOf s sp.deck = some d) : ∀ r ∈ systemRegisters s sp l d, sysReg s sp l r.1.toNat = some r.2 := by
  intro r hr
  obtain hr | hr := List.mem_append.1 hr
  · simp only [List.mem_cons, List.not_mem_nil, or_false] at hr
    obtain rfl | rfl | rfl | rfl | rfl | rfl | rfl | rfl | rfl | rfl | rfl | rfl | rfl | rfl | rfl | rfl | rfl | rfl := hr
    case inr.inr.inr.inr.inr.inr.inr.inr.inr.inr.inr.inr.inr.inr.inr.inr.inr => rfl
    all_goals simp [sysReg, hd, Config.did, apply_ite (BitVec.ofNat 64)]
  · obtain ⟨k, hk, hr⟩ := List.mem_flatMap.1 hr
    fin_cases hk <;> obtain rfl | rfl := List.mem_pair.1 hr <;> simp [sysReg]

/-- The numbers of the table. -/
def sysNumbers : List Nat :=
  [0x000, 0x001, 0x002, 0x003, 0x010, 0x011, 0x012, 0x020, 0x021, 0x022, 0x023, 0x024, 0x025, 0x026, 0x027, 0x028, 0x030, 0x031] ++
  (List.range 16).map (0x040 + ·)

theorem mem_systemRegisters (n : BitVec 14) : n ∈ (systemRegisters s sp l d).map Prod.fst ↔ n.toNat ∈ sysNumbers := by
  have hnumbers : ((systemRegisters s sp l d).map Prod.fst).map BitVec.toNat = sysNumbers := rfl
  rw [← hnumbers, List.mem_map_of_injective BitVec.toNat_injective]

/-- The model has no register outside the table. -/
theorem sysReg_none {n : Nat} (h : n ∉ sysNumbers) : sysReg s sp l n = none := by
  have hslots : ¬(0x040 ≤ n ∧ n ≤ 0x04F) := fun hn =>
    h (List.mem_append_right _ (List.mem_map.2 ⟨n - 0x040, List.mem_range.2 (by omega), by omega⟩))
  unfold sysReg
  dsimp only
  split
  case h_19 => exact if_neg hslots
  all_goals exact absurd (by decide) h

end

/-! ### The return from a trap (R200) -/

section
variable {s t : State} {sp : Span} {l : Launch} {sv : Saved} {older : List Saved}

/-- The registers that a trap's entry had written, as the frame has them (R198). -/
def frameRestored (sp : Span) (rd : Nat → Nat → Nat) : Span :=
  sWrite (sWrite (sWrite sp 60 (BitVec.ofNat 64 (rd 0x48 8))) 61 (BitVec.ofNat 64 (rd 0x50 8))) 62 (BitVec.ofNat 64 (rd 0x58 8))

/-- The span as `tret` leaves it but for its pc and its queue, from the frame that `rd` reads. -/
def restored (sp : Span) (older : List Saved) (rd : Nat → Nat → Nat) : Span :=
  let sp2 := setAm (countUnit { frameRestored sp rd with traps := older, queue := [], ahead := [] }) (BitVec.ofNat 32 (rd 0x14 4))
  { sp2 with step := if sp.step = .armed then .running else sp2.step }

/-- The block of a trapped pass goes on at a position and plane, or is done. -/
def blockAgain (t : State) (sp2 : Span) (l : Launch) (sv : Saved) (n place desc p q : Nat) (m : List Nat) : Span :=
  if p < n then { enqueue t sp2 l (frameBlock sv n place desc p q m) with spc := sv.point + 4 } else { sp2 with spc := sv.point + 4 }

/-- The span after `tret`: its pc and its queue by the frame's action. -/
def returned (t : State) (sp : Span) (l : Launch) (sv : Saved) (older : List Saved) (rd : Nat → Nat → Nat) : Span :=
  let action := (rd 0 8 >>> 32) % 8
  let n := (rd 0 8 >>> 20) % 256 + 1
  let sp2 := restored sp older rd
  let at_ := blockAgain t sp2 l sv n (rd 0x30 8) (rd 0x38 8)
  if action = 3 then { sp2 with spc := BitVec.ofNat 64 (rd 0x40 8) }
  else if sv.lane then
    match action with
    | 0 => at_ sv.pos sv.plane sv.merged
    | 1 => if sv.plane + 1 < planesOf (frameBlock sv n (rd 0x30 8) (rd 0x38 8) 0 0 []) then at_ sv.pos (sv.plane + 1) sv.merged
      else at_ (sv.pos + 1) 0 []
    | _ => at_ (sv.pos + 1) 0 []
  else { sp2 with spc := if action = 0 then sv.point else sv.point + 4 }

theorem trapReturn_ready {rd : Nat → Nat → Nat} (htraps : sp.traps = sv :: older)
    (hread : ownRead s sp l (frameAt l sp older.length) 128 = .ok (t, rd)) (ha : sp.acquiring = none) (hr : ScalarsReady sp [60, 61, 62])
    (hact : (rd 0 8 >>> 32) % 8 ≤ 3) (htarget : (rd 0 8 >>> 32) % 8 = 3 → rd 0x40 8 % 4 = 0) :
    trapReturn s sp l = .next (putSpan t t.cur.uid (returned t sp l sv older rd)) := by
  have hframe : frameAddr l sp (sp.hdepth - 1) = frameAt l sp older.length := by rw [Span.hdepth, htraps]; rfl
  unfold trapReturn
  rw [htraps]
  extract_lets f
  rw [show ownRead s sp l f 128 = .ok (t, rd) from (congrArg (ownRead s sp l · 128) hframe).trans hread]
  have hgood : ¬(3 < (rd 0 8 >>> 32) % 8 ∨ (rd 0 8 >>> 32) % 8 = 3 ∧ rd 0x40 8 % 4 ≠ 0) :=
    fun h => h.elim (fun h => Nat.not_le.2 h hact) (fun h => h.2 (htarget h.1))
  have hnone : ¬sp.acquiring.isSome = true := by rw [ha]; decide
  exact (if_neg hgood).trans ((if_neg hnone).trans (needS_ready hr _))

theorem sRead_restored (sp : Span) (older : List Saved) (rd : Nat → Nat → Nat) (r : Nat) : sRead (restored sp older rd) r =
    if r = 62 then BitVec.ofNat 64 (rd 0x58 8) else if r = 61 then BitVec.ofNat 64 (rd 0x50 8)
    else if r = 60 then BitVec.ofNat 64 (rd 0x48 8) else sRead sp r := by
  show sRead (frameRestored sp rd) r = _
  rw [frameRestored, sRead_sWrite, sRead_sWrite, sRead_sWrite]
  have hne : ∀ {q : Nat}, q ≠ 63 → ∀ x y : Word64, (if r = q ∧ r ≠ 63 then x else y) = if r = q then x else y := fun hq x y =>
    if_congr ⟨fun h => h.1, fun h => ⟨h, h ▸ hq⟩⟩ rfl rfl
  rw [hne (by decide), hne (by decide), hne (by decide)]

theorem restored_v (sp : Span) (older : List Saved) (rd : Nat → Nat → Nat) : (restored sp older rd).v = sp.v := by
  show (frameRestored sp rd).v = sp.v
  simp only [frameRestored, sWrite_v]

theorem restored_am (sp : Span) (older : List Saved) (rd : Nat → Nat → Nat) :
    (restored sp older rd).am = BitVec.ofNat 32 (rd 0x14 4) &&& sp.live := by
  show BitVec.ofNat 32 (rd 0x14 4) &&& (frameRestored sp rd).live = _
  simp only [frameRestored, sWrite_live]

/-- A span whose registers, mask and depth are those of another. -/
def SameRegisters (sp sp' : Span) : Prop := sp'.s = sp.s ∧ sp'.v = sp.v ∧ sp'.am = sp.am ∧ sp'.traps = sp.traps

theorem blockAgain_registers (t : State) (sp2 : Span) (l : Launch) (sv : Saved) (n place desc p q : Nat) (m : List Nat) :
    SameRegisters sp2 (blockAgain t sp2 l sv n place desc p q m) := by
  unfold blockAgain
  split <;> exact ⟨rfl, rfl, rfl, rfl⟩

theorem returned_registers (t : State) (sp : Span) (l : Launch) (sv : Saved) (older : List Saved) (rd : Nat → Nat → Nat) :
    SameRegisters (restored sp older rd) (returned t sp l sv older rd) := by
  unfold returned
  dsimp only
  split
  · exact ⟨rfl, rfl, rfl, rfl⟩
  · split
    · split
      · exact blockAgain_registers ..
      · split <;> exact blockAgain_registers ..
      · exact blockAgain_registers ..
    · exact ⟨rfl, rfl, rfl, rfl⟩

theorem planesOf_frameBlock (sv : Saved) (n place desc p q : Nat) (m : List Nat) :
    planesOf (frameBlock sv n place desc p q m) = if sv.planed then (desc >>> 18) % 4 + 1 else 1 := by
  have hbits : ((BitVec.ofNat 64 desc).extractLsb' 18 2).toNat = (desc >>> 18) % 4 := by
    rw [BitVec.extractLsb'_toNat, BitVec.toNat_ofNat, Nat.shiftRight_eq_div_pow, Nat.shiftRight_eq_div_pow]
    omega
  simp only [planesOf, frameBlock, hbits]

/-- A trapped block goes on where the action says, with its merged compares where it stays at its position (R200). -/
theorem returned_lane {rd : Nat → Nat → Nat} (hact : (rd 0 8 >>> 32) % 8 < 3) (hlane : sv.lane = true) {p q : Nat}
    (hpq : (p, q) = (if (rd 0 8 >>> 32) % 8 = 0 then (sv.pos, sv.plane)
      else if (rd 0 8 >>> 32) % 8 = 1 ∧ sv.plane + 1 < (if sv.planed then (rd 0x38 8 >>> 18) % 4 + 1 else 1) then (sv.pos, sv.plane + 1)
      else (sv.pos + 1, 0))) :
    returned t sp l sv older rd = blockAgain t (restored sp older rd) l sv ((rd 0 8 >>> 20) % 256 + 1) (rd 0x30 8) (rd 0x38 8) p q
      (if p = sv.pos then sv.merged else []) := by
  have hnext : ¬sv.pos + 1 = sv.pos := by omega
  unfold returned
  dsimp only
  rw [if_neg (by omega), if_pos hlane, planesOf_frameBlock]
  generalize (rd 0 8 >>> 32) % 8 = action at hact hpq ⊢
  obtain rfl | rfl | rfl : action = 0 ∨ action = 1 ∨ action = 2 := by omega
  · obtain ⟨rfl, rfl⟩ := Prod.mk.inj hpq
    rw [if_pos rfl]
    rfl
  · rw [if_neg (by decide)] at hpq
    by_cases hmore : sv.plane + 1 < (if sv.planed then (rd 0x38 8 >>> 18) % 4 + 1 else 1)
    · rw [if_pos ⟨rfl, hmore⟩] at hpq
      obtain ⟨rfl, rfl⟩ := Prod.mk.inj hpq
      rw [if_pos rfl]
      exact if_pos hmore
    · rw [if_neg (fun h => hmore h.2)] at hpq
      obtain ⟨rfl, rfl⟩ := Prod.mk.inj hpq
      rw [if_neg hnext]
      exact if_neg hmore
  · rw [if_neg (by decide), if_neg (by simp)] at hpq
    obtain ⟨rfl, rfl⟩ := Prod.mk.inj hpq
    rw [if_neg hnext]
    rfl

end

/-! ### Banks (R165 to R168) -/

section
variable {s t u : State} {sp : Span} {g p : Nat}

theorem coreOf_putCore (s : State) (g : Nat) (c : Core) (x : Nat) : coreOf (putCore s g c) x = if x = g then c else coreOf s x := by
  unfold coreOf putCore
  split
  · next h => rw [h, mapGet_mapPut_same]
  · next h => rw [mapGet_mapPut_other _ _ _ h]

theorem bankOf_putBank_same (s : State) (g p : Nat) (b : Bank) : bankOf (coreOf (putBank s g p b) g) p = b := by
  rw [putBank, coreOf_putCore, if_pos rfl]
  exact mapGet_mapPut_same _ _ _ _

/-- The switches of a bank are as before. -/
def SwitchKept (g p : Nat) (s t : State) : Prop := (bankOf (coreOf t g) p).switch = (bankOf (coreOf s g) p).switch

theorem SwitchKept.trans (h : SwitchKept g p s t) (k : SwitchKept g p t u) : SwitchKept g p s u := Eq.trans k h

theorem SwitchKept.ite {c : Prop} [Decidable c] (h : SwitchKept g p s t) : SwitchKept g p s (if c then t else s) := by
  split
  · exact h
  · rfl

theorem SwitchKept.ite' {c : Prop} [Decidable c] (h : SwitchKept g p s t) : SwitchKept g p s (if c then s else t) := by
  split
  · rfl
  · exact h

/-- A core that keeps its banks keeps their switches. -/
theorem SwitchKept.putCore (s : State) (x : Nat) {c : Core} (h : c.banks = (coreOf s x).banks) : SwitchKept g p s (putCore s x c) := by
  unfold SwitchKept
  rw [coreOf_putCore]
  split
  · next hx => rw [bankOf, h, hx]; rfl
  · rfl

theorem SwitchKept.writeBack (s : State) (x line : Nat) : SwitchKept g p s (writeBack s x line) := by
  unfold Machine.writeBack
  dsimp only
  split
  · rfl
  · refine SwitchKept.ite' ?_
    refine SwitchKept.trans (t := sendStore s x line _ _ _ _ _ _ _) rfl (SwitchKept.putCore _ x ?_)
    split <;> rfl

theorem SwitchKept.invalidate (s : State) (x line : Nat) : SwitchKept g p s (invalidate s x line) :=
  (SwitchKept.writeBack s x line).trans (SwitchKept.putCore _ x rfl)

theorem SwitchKept.takeWords (s : State) (x i : Nat) (ld : Load) (words : List Word32) :
    SwitchKept g p s (takeWords s x p i ld words) := by
  unfold Machine.takeWords
  dsimp only
  show (bankOf (coreOf (putBank s x p _) g) p).switch = _
  by_cases hx : g = x
  · subst hx
    rw [bankOf_putBank_same]
  · rw [putBank, coreOf_putCore, if_neg hx]

/-- The pops that wait on a bank take what there is. -/
theorem takeAll_switchKept (g p : Nat) (pops : List (Nat × Load)) (s : State) : SwitchKept g p s
    (pops.foldl (fun t x => takeWords t g p x.1 { x.2 with late := false } (bankOf (coreOf t g) p).ring) s) := by
  induction pops generalizing s with
  | nil => rfl
  | cons a as ih => exact (SwitchKept.takeWords s g a.1 _ _).trans (ih _)

theorem invalidateAll_switchKept (g p : Nat) (lines : List L1Line) (s : State) :
    SwitchKept g p s (lines.foldl (fun t x => Machine.invalidate t g x.line) s) := by
  induction lines generalizing s with
  | nil => rfl
  | cons a as ih => exact (SwitchKept.invalidate s g a.line).trans (ih _)

theorem writeBackAll_switchKept (g p : Nat) (lines : List L1Line) (s : State) :
    SwitchKept g p s (lines.foldl (fun t x => Machine.writeBack t g x.line) s) := by
  induction lines generalizing s with
  | nil => rfl
  | cons a as ih => exact (SwitchKept.writeBack s g a.line).trans (ih _)

/-- The switch point: the bank has its new mode, and its switch is listed last (R167). -/
theorem bankOf_switchBank (s : State) (sp : Span) (p : Nat) (m : BankMode) (bar : Word64) (pops : List (Nat × Load)) :
    (bankOf (coreOf (switchBank s sp p m bar pops) sp.core) p).mode = m ∧
      ∃ x, (bankOf (coreOf (switchBank s sp p m bar pops) sp.core) p).switch = (bankOf (coreOf s sp.core) p).switch ++ [x] ∧
        x.bar = bar ∧ x.uid = s.cur.uid := by
  unfold switchBank
  extract_lets g u b s1 s2 scope sent s3 cov c s4 b4 same
  rw [bankOf_putBank_same]
  have h1 : SwitchKept g p s s1 := SwitchKept.ite (invalidateAll_switchKept g p _ s)
  clear_value s1
  have h2 : SwitchKept g p s1 s2 := SwitchKept.ite (takeAll_switchKept g p pops s1)
  clear_value s2
  have h3 : SwitchKept g p s2 s3 := SwitchKept.ite' (writeBackAll_switchKept g p _ s2)
  clear_value s3
  refine ⟨rfl, ⟨bar, u, sp.deck, cov, c.2⟩, ?_, rfl, rfl⟩
  exact congrArg (· ++ [_]) ((h1.trans h2).trans h3)

end

/-- `bkmode` on an owned bank, once its barrier is found (R165 to R167). -/
theorem exec_bkmode_bank {a : BitVec 6} {s : State} {sp : Span} {l : Launch} {loc : BarLoc} {dk : Deck} {p : Nat} (h : ActingIn s sp l)
    (hr : ScalarsReady sp [a.toNat]) (hdk : deckOf s sp.deck = some dk)
    (hp : physBank dk ((sRead sp a.toNat).extractLsb' 0 5).toNat = some p) (hzero : (sRead sp a.toNat).extractLsb' 7 5 = 0)
    (hmode : ((sRead sp a.toNat).extractLsb' 5 2).toNat < 3)
    (hfind : findBar s sp l (((sRead sp a.toNat).extractLsb' 12 52).zeroExtend 64 <<< 5 : Word64) 1 true = .loc loc) :
    exec (.bkmode a) s =
      if l.det then bufferAll s sp [.bkmode (sRead sp a.toNat) ((s.loads.filter (fun x =>
        x.2.uid == s.cur.uid && x.2.late && x.2.fifo.isSome)).map Prod.fst)] fun sp => commitS s sp
      else if !(readBar s loc).valid then
        trapS s sp l causeBarrier sp.am (((sRead sp a.toNat).extractLsb' 12 52).zeroExtend 64 <<< 5 : Word64).toNat
      else if scratchBusy s sp.deck then stall s
      else commitS (switchBank s sp p (bankModeOf ((sRead sp a.toNat).extractLsb' 5 2).toNat)
        (((sRead sp a.toNat).extractLsb' 12 52).zeroExtend 64 <<< 5 : Word64) (s.loads.filter (fun x => popsOn s sp.core p x.2))) sp := by
  rw [exec_bkmode, execBkmode, withLaunch_actingIn h, needS_ready hr]
  extract_lets v mode bar k older
  rw [if_neg (fun h => h.elim (fun h => h hzero) (fun h => Nat.ne_of_lt hmode h)), hdk, Option.bind_some, hp]
  dsimp only
  rw [hfind]

/-- The mode that a number below 3 names (R165). -/
theorem bankModeOf_below {n : Nat} (h : n < 3) : bankModeOf n = [BankMode.cache, .scratch, .fifo].getD n .cache := by
  interval_cases n <;> rfl

/-- An entry of the commit buffer with room commits its unit. -/
theorem bufferAll_room {s : State} {sp : Span} {x : Buffered} {k : Span → Res} (h : sp.buffer.length < 512) :
    bufferAll s sp [x] k = k (buffered s sp x) := by
  rw [bufferAll, if_neg (by simp; omega)]
  rfl

end Sys2Proof.Machine

namespace Sys2Proof
open Machine

/-- Settles O54: reset's tables are empty, and a register that nothing has written reads what it has at reset. -/
theorem resetState : Obligations.ResetState := by
  have hqueue : ∀ q, q < 32 → barRead State.reset (0x1018 + 0x40 * q) = 0 := by decide
  have hcores : ∀ k, k < 64 → barRead State.reset (0x3000 + 8 * k) = 2 ^ 64 - 1 := by decide
  have hkeys : ∀ j, j < 64 → barRead State.reset (0x4000 + 0x10 * j) = 0 := by decide
  refine ⟨rfl, rfl, rfl, rfl, rfl, rfl, rfl, rfl, ⟨rfl, rfl, rfl, rfl⟩, fun g half i => ⟨rfl, rfl⟩, fun g half i => rfl, fun g p => ⟨rfl, rfl⟩,
    fun line => ⟨rfl, rfl⟩, hcores, by decide, fun q hq => ⟨hqueue q hq, rfl⟩, hkeys, fun key => ?_, rfl, rfl, rfl⟩
  unfold keyRoot
  split
  · rfl
  · next hkey =>
    have hzero : ∀ j, (feReg State.reset (0x4000 + 0x10 * j)).toNat = 0 := fun j => rfl
    rw [List.find?_eq_none.2 (fun j _ => by rw [hzero]; simpa using Ne.symm hkey)]
    rfl

/-- Settles O13: the model's registers are the table's. -/
theorem systemRegisterRead : Obligations.SystemRegisterRead := by
  intro a n s sp l d h hd
  refine ⟨fun hr r hm => ?_, fun hn => ?_⟩
  · rw [exec_sysrd, execSysrd, withLaunch_actingIn h, sysReg_of_mem hd r hm]
    exact needS_ready hr _
  · rw [exec_sysrd, execSysrd, withLaunch_actingIn h, sysReg_none (fun hm => hn ((mem_systemRegisters n).2 hm))]
    rfl

/-- Settles O14: the frame is read, and the span is what `tret` restores from it, at the place that the action names. -/
theorem trapReturn : Obligations.TrapReturn := by
  intro s sp l pl h
  refine ⟨fun hnil => ?illegal, fun sv older htraps hread ha hr => ?back⟩
  case illegal =>
    rw [exec_tret, execTret, withLaunch_actingIn h, Machine.trapReturn, hnil]
    rfl
  case back =>
    intro rd t action n planes hact htarget
    have hregs := returned_registers t sp l sv older rd
    obtain ⟨hs, hv, ham, hdepth⟩ := hregs
    refine ⟨returned t sp l sv older rd, ?_, ?_, ?_, ?_, fun r hr60 => ?_, fun r lane => ?_, ?_, ?_, fun h3 => ?_, fun hlt hl => ?_, fun hlt hl p q hpq => ?_⟩
    · rw [exec_tret, execTret, withLaunch_actingIn h, trapReturn_ready htraps (ownRead_of_readable hread) ha hr hact htarget]
    · rw [sRead, hs]; exact sRead_restored sp older rd 60
    · rw [sRead, hs]; exact sRead_restored sp older rd 61
    · rw [sRead, hs]; exact sRead_restored sp older rd 62
    · rw [sRead, hs]
      exact (sRead_restored sp older rd r).trans (by rw [if_neg (by omega), if_neg (by omega), if_neg (by omega)])
    · rw [vRead, hv, restored_v]
      rfl
    · rw [ham, restored_am]
    · rw [hdepth]
      rfl
    · unfold returned
      dsimp only
      rw [if_pos h3]
      exact ⟨rfl, rfl⟩
    · unfold returned
      dsimp only
      rw [if_neg (by omega), if_neg (by rw [hl]; exact Bool.false_ne_true)]
      exact ⟨rfl, rfl⟩
    · rw [returned_lane hlt hl hpq, blockAgain]
      refine ⟨?_, fun hnp => ?_, fun hpn => ?_⟩
      · split <;> rfl
      · rw [if_neg (Nat.not_lt.2 hnp)]
        rfl
      · rw [if_pos hpn]
        exact ⟨_, rfl, rfl, rfl, rfl, rfl, rfl, rfl, rfl, rfl, rfl⟩

/-- Settles O15: each is its commit; a switched bank has its new mode and its switch last. -/
theorem systemAndBanks : Obligations.SystemAndBanks := by
  unfold Obligations.SystemAndBanks
  refine ⟨fun a s sp l h => ⟨?nop, fun hr hx => ?step, fun hr hd => ?undoNone, fun hr hd r hrr => ?undo⟩, ?hist,
    fun a s sp l loc dk p h hr hdk hp hzero hmode bar hbar hfind => ⟨fun hd hroom => ?buffer, fun hd hv hbusy => ?switch⟩⟩
  case nop =>
    rw [exec_nop, execNop, withSpan_acting h.1]
    rfl
  case step =>
    rw [exec_step, execStep, withLaunch_actingIn h, needS_ready hr]
    dsimp only
    rw [if_neg (Nat.not_le.2 hx)]
    have hst : stepWrite sp.step (sRead sp a.toNat) =
        if sp.step = .running then .due else if sRead sp a.toNat = 1 then .armed else .off := by
      cases sp.step <;> rfl
    rw [hst]
    rfl
  case undoNone =>
    rw [exec_undomark, execUndomark, withLaunch_actingIn h, needS_ready hr, if_neg (by rw [hd]; exact Bool.false_ne_true)]
    rfl
  case undo =>
    subst hrr
    rw [exec_undomark, execUndomark, withLaunch_actingIn h, needS_ready hr, if_pos hd]
    exact ⟨rfl, rfl⟩
  case hist =>
    intro a b d t s sp l h bin bias
    refine ⟨fun hr ld hld => ?_, fun hr hd hcount => ?_, fun hr hd hroom => ?_⟩
    · subst hld
      rw [exec_hrd, execHrd, withLaunch_actingIn h, needS_ready hr]
      dsimp only
      split <;> rfl
    · rw [exec_hclr, execHclr, withLaunch_actingIn h, needS_ready hr]
      dsimp only
      rw [if_neg (by rw [hd]; exact Bool.false_ne_true), if_neg (by rw [hcount]; exact Bool.false_ne_true)]
      rfl
    · rw [exec_hclr, execHclr, withLaunch_actingIn h, needS_ready hr]
      dsimp only
      rw [if_pos hd, bufferAll_room hroom]
      rfl
  case buffer =>
    rw [exec_bkmode_bank h hr hdk hp hzero hmode (hbar ▸ hfind), if_pos hd, bufferAll_room hroom]
    rfl
  case switch =>
    intro m t
    rw [exec_bkmode_bank h hr hdk hp hzero hmode (hbar ▸ hfind), if_neg (by rw [hd]; exact Bool.false_ne_true), ← hbar, hv, hbusy]
    rw [bankModeOf_below hmode]
    exact ⟨rfl, bankOf_switchBank ..⟩

end Sys2Proof

namespace Sys2Proof.Machine

/-! ### A processor's trap (R364, R369) -/

/-- A processor of reset that is in the middle of its current instruction, which `busy` marks (R364). -/
def midInstruction : Fp := { fpOf State.reset 0 with busy := true }

/-- Processor 0 in the middle of an instruction, at a word that Trelix does not list. -/
def midInstructionAt : State := { putFp State.reset 0 midInstruction with cur := { State.reset.cur with fp := some 0 } }

theorem midInstruction_at : TrelixAt midInstructionAt 0 midInstruction (tFieldsOf (midInstructionAt.cur.word.setWidth 32)) :=
  ⟨rfl, rfl, rfl⟩

/-- A trap ends the processor's current instruction: `busy` is clear after it. -/
theorem unlistedTrelixOpcode_ends {s : State} {k : Nat} {f : Fp} {t : TFields} (h : TrelixAt s k f t) :
    ∃ u, exec .unlistedTrelixOpcode s = .next u ∧
      fpOf u k = { f with halting := some (1, causeIllegal, 0), wait := .none, busy := false } := by
  rw [exec_unlistedTrelixOpcode, execUnlistedTrelixOpcode, withFp_trelixAt h]
  exact ⟨_, rfl, fpOf_dropFails_putFp ..⟩

/-- Refutes O53: its last clause keeps `busy`, and a processor in the middle of its instruction halts with `busy` clear. -/
theorem not_traps : ¬ Obligations.Traps := by
  rintro ⟨-, -, hlast⟩
  obtain ⟨-, -, hunlisted⟩ := hlast midInstructionAt
  obtain ⟨u, hu, -, hkept⟩ := hunlisted 0 midInstruction _ midInstruction_at
  obtain ⟨v, hv, hclear⟩ := unlistedTrelixOpcode_ends midInstruction_at
  have huv : u = v := by injection hu.symm.trans hv
  subst huv
  have hbusy : true = false := congrArg Fp.busy (hkept.symm.trans hclear)
  exact Bool.noConfusion hbusy

end Sys2Proof.Machine

namespace Sys2Proof.Machine

/-! ### FIFO banks (R110, R127) -/

section
variable {s : State} {sp : Span} {l : Launch} {dk : Deck} {k p : Nat} {words : List Word32} {dest : Dest} {lanes : List Nat}

/-- The load that a pop makes: it waits on the bank, or for the quantum's end. -/
def popLoad (s : State) (sp : Span) (l : Launch) (dk : Deck) (p : Nat) (dest : Dest) (lanes : List Nat) : Load :=
  { mkLoad s.cur.uid dest 4 false (lanes.map (fun x => ⟨x, 0, none⟩)) 1 with
    fifo := some p, late := l.det, quantum := dk.quanta, point := reportPoint sp s.cur.lane }

/-- An owned bank in FIFO mode without a switch under way, for a span that waits for no acquire. -/
structure FifoAt (s : State) (sp : Span) (dk : Deck) (k p : Nat) : Prop where
  acquired : sp.acquiring = none
  deck : deckOf s sp.deck = some dk
  owned : physBank dk k = some p
  mode : (bankOf (coreOf s sp.core) p).mode = .fifo
  settled : (bankOf (coreOf s sp.core) p).switch = []

theorem withFifo_of_at (h : FifoAt s sp dk k p) (f : Nat → Bank → Res) :
    withFifo s sp l k f = f p (bankOf (coreOf s sp.core) p) := by
  unfold withFifo
  rw [h.deck, Option.bind_some, h.owned]
  dsimp only [Option.map_some]
  rw [if_neg (fun hm => hm.1 h.mode), h.settled]
  rfl

theorem fifoPush_room (h : FifoAt s sp dk k p) (hdet : l.det = false) (hpend : sp.pend = .none)
    (hroom : (bankOf (coreOf s sp.core) p).ring.length + words.length ≤ fifoRoom) :
    fifoPush s sp l k words = commit (putBank s sp.core p { bankOf (coreOf s sp.core) p with
      ring := (bankOf (coreOf s sp.core) p).ring ++ words }) sp := by
  rw [fifoPush, afterAcquire_none h.acquired, withFifo_of_at h, if_neg (by rw [hdet]; exact Bool.false_ne_true),
    if_neg (by rw [hpend]; exact Pending.noConfusion), if_pos hroom]

theorem fifoPush_buffered (h : FifoAt s sp dk k p) (hdet : l.det = true) (hroom : sp.buffer.length < 512) :
    fifoPush s sp l k words = commit s (buffered s sp (.fifo k words)) := by
  rw [fifoPush, afterAcquire_none h.acquired, withFifo_of_at h, if_pos hdet, bufferAll_room hroom]

theorem fifoPop_taken (h : FifoAt s sp dk k p) (hdet : l.det = false) (hfirst : firstPop s sp.core p = none)
    (hwords : lanes.length ≤ (bankOf (coreOf s sp.core) p).ring.length) :
    fifoPop s sp l k dest lanes = commit (takeWords (newLoad s (popLoad s sp l dk p dest lanes)).1 sp.core p s.nextId
      (popLoad s sp l dk p dest lanes) (bankOf (coreOf s sp.core) p).ring) (markDest sp dest) := by
  rw [fifoPop, afterAcquire_none h.acquired, withFifo_of_at h, if_neg (by rw [hdet]; exact Bool.false_ne_true), h.deck, hfirst,
    decide_eq_true hwords]
  rfl

theorem fifoPop_waits (h : FifoAt s sp dk k p)
    (hwait : l.det = true ∨ firstPop s sp.core p ≠ none ∨ (bankOf (coreOf s sp.core) p).ring.length < lanes.length) :
    fifoPop s sp l k dest lanes = commit (newLoad s (popLoad s sp l dk p dest lanes)).1 (markDest sp dest) := by
  rw [fifoPop, afterAcquire_none h.acquired, withFifo_of_at h, h.deck]
  by_cases hdet : l.det = true
  · rw [if_pos hdet]
    rfl
  · have hnot : ((firstPop s sp.core p).isNone && decide (lanes.length ≤ (bankOf (coreOf s sp.core) p).ring.length)) = false := by
      rcases hwait with hd | hfirst | hfew
      · exact absurd hd hdet
      · simp [hfirst]
      · simp [hfew]
    rw [if_neg hdet, if_neg (by rw [hnot]; exact Bool.false_ne_true)]
    rfl

end

/-- Settles O27: both streams push and pop through `fifoPush` and `fifoPop`, and a pass without a lane commits first. -/
theorem fifoOperations : Obligations.FifoOperations := by
  refine ⟨fun d a k s sp l dk p ld h hlane hacq hpend hdk hp hmode hsw hld => ?scalar,
    fun x s sp l dk p ld hlane hacq hpend hdk hp hmode hsw hld => ⟨fun hr => ⟨fun hm => ?pushNone, fun hm hd hroom => ?vpush,
      fun hm hd hroom => ?vpushBuffered⟩, fun hr => ⟨fun hm => ?popNone, fun hm hd hf hw => ?vpop, fun hm hw => ?vpopWaits⟩⟩⟩
  case scalar =>
    have hat : FifoAt s sp dk k.toNat p := ⟨hacq, hdk, hp, hmode, hsw⟩
    have hload : popLoad s sp l dk p (.s d.toNat) [0, 1] = ld := by
      rw [hld, popLoad, hlane]
      rfl
    refine ⟨fun hd hr hroom => ?_, fun hd hr hroom => ?_, fun hr => ⟨fun hd hf hw => ?_, fun hw => ?_⟩⟩
    · rw [exec_push, execPush, withLaunch_actingIn h, needS_ready hr, fifoPush_room hat hd hpend (words := [_, _]) hroom, commit_scalar (by exact hlane)]
      rfl
    · rw [exec_push, execPush, withLaunch_actingIn h, needS_ready hr, fifoPush_buffered hat hd hroom, commit_scalar (by exact hlane),
        buffered, hlane]
      rfl
    · rw [exec_pop, execPop, withLaunch_actingIn h, needS_ready hr, fifoPop_taken hat hd hf (lanes := [0, 1]) hw, commit_scalar (by exact hlane), hload]
      rfl
    · rw [exec_pop, execPop, withLaunch_actingIn h, needS_ready hr, fifoPop_waits hat (lanes := [0, 1]) hw, commit_scalar (by exact hlane), hload]
      rfl
  case pushNone =>
    rw [exec_vpush, execVpush, lanePass_ready hr, if_pos hm]
    rfl
  case vpush =>
    rw [exec_vpush, execVpush, lanePass_ready hr, if_neg hm, fifoPush_room ⟨hacq, hdk, hp, hmode, hsw⟩ hd hpend
      (by rw [List.length_map]; exact hroom), commit_lane (by exact hlane)]
    rfl
  case vpushBuffered =>
    rw [exec_vpush, execVpush, lanePass_ready hr, if_neg hm, fifoPush_buffered ⟨hacq, hdk, hp, hmode, hsw⟩ hd hroom, commit_lane (by exact hlane)]
    rfl
  case popNone =>
    rw [exec_vpop, execVpop, lanePass_ready hr, if_pos hm]
    rfl
  case vpop =>
    have hload : popLoad s sp l dk p (.v x.vd.toNat false) (passLanes s) = ld := by rw [hld, popLoad, hlane]
    rw [exec_vpop, execVpop, lanePass_ready hr, if_neg hm, fifoPop_taken ⟨hacq, hdk, hp, hmode, hsw⟩ hd hf hw, commit_lane (by exact hlane), hload]
    rfl
  case vpopWaits =>
    have hload : popLoad s sp l dk p (.v x.vd.toNat false) (passLanes s) = ld := by rw [hld, popLoad, hlane]
    rw [exec_vpop, execVpop, lanePass_ready hr, if_neg hm, fifoPop_waits ⟨hacq, hdk, hp, hmode, hsw⟩ hw, commit_lane (by exact hlane), hload]
    rfl

end Sys2Proof.Machine

/-! Settlements of the family 'other': memory, messages, tiles, groups and barriers of the fabric processors (R368 to R372). -/

namespace Sys2Proof.Machine

section
variable {s s1 : State} {k : Nat} {f : Fp} {t : TFields} {d : List Byte}

theorem fpDone_eq (s : State) (k : Nat) (f : Fp) (xd : BitVec 5) (status value : Nat) :
    fpDone s k f xd status value = .next (fpReported s k f xd status value) := by
  rw [fpDone, fpNext_eq, xWrite_pc]
  rfl

/-- A descriptor that is aligned and readable is what the instruction runs on (R370). -/
theorem withDesc_read {n align : Nat} (h : TrelixAt s k f t) (ha : (xRead f t.a).toNat % align = 0)
    (hd : fpRead s k f (xRead f t.a).toNat n = .ok s1 d false)
    (run : State → Nat → Fp → TFields → Nat → List Byte → Res) : withDesc s align n run = run s1 k f t (xRead f t.a).toNat d := by
  rw [withDesc, withFp_trelixAt h]
  dsimp only
  rw [if_neg (not_not_intro ha), hd]
  rfl

theorem withDesc_of_at {n : Nat} (h : TrelixAt s k f t) (hd : DescAt s s1 k f t n d)
    (run : State → Nat → Fp → TFields → Nat → List Byte → Res) : withDesc s 32 n run = run s1 k f t (xRead f t.a).toNat d :=
  withDesc_read h hd.1 hd.2 run

/-- A trap's halt: memory and home lines stay, and the registers are as before (R364). -/
theorem fpTrap_halts (s : State) (k : Nat) (f : Fp) (cause arg : Nat) : ∃ u, fpTrap s k f cause arg = .next u ∧ u.mem = s.mem ∧
    u.lines = s.lines ∧ fpOf u k = { f with halting := some (1, cause, 0), wait := .none, busy := false } :=
  ⟨_, rfl, rfl, rfl, fpOf_dropFails_putFp ..⟩

end

/-- Settles O31: the paths of `ld`, `st`, `send` and `recv` that the hypotheses choose. -/
theorem trelixMemoryAndMessages : Obligations.TrelixMemoryAndMessages := by
  refine ⟨fun s s' k f t pa bar h => ⟨fun ha hx hw hb => ?ld, fun ha hx hput => ?st, fun ha => ?misaligned⟩,
    fun s s1 s' k f t d id h => ⟨fun hwait hgone => ?send, fun r bytes hd hlen hbad hgroup hfind hraw hn hwr => ?recv⟩⟩
  case ld =>
    rw [exec_trelixLd, execTrelixLd, withFp_trelixAt h]
    dsimp only [fpAddr]
    rw [if_neg (not_not_intro ha), hx]
    dsimp only
    rw [hw, hb, if_neg Bool.false_ne_true, if_neg Bool.false_ne_true, fpNext_eq, xWrite_pc]
  case st =>
    rw [exec_trelixSt, execTrelixSt, withFp_trelixAt h]
    dsimp only [fpAddr]
    rw [if_neg (not_not_intro ha), hx]
    dsimp only [fpWho]
    rw [hput]
    rfl
  case misaligned =>
    have hld : exec .trelixLd s = fpTrap s k f causeMisaligned (fpAddr f t) := by
      rw [exec_trelixLd, execTrelixLd, withFp_trelixAt h]
      exact if_pos ha
    have hst : exec .trelixSt s = fpTrap s k f causeMisaligned (fpAddr f t) := by
      rw [exec_trelixSt, execTrelixSt, withFp_trelixAt h]
      exact if_pos ha
    rw [hld, hst]
    obtain ⟨u, hu, hkept⟩ := fpTrap_halts s k f causeMisaligned (fpAddr f t)
    exact ⟨u, hu, hu, hkept⟩
  case send =>
    rw [exec_trelixSend, execTrelixSend, withFp_trelixAt h, hwait]
    dsimp only
    rw [hgone]
    exact fpDone_eq ..
  case recv =>
    rw [exec_trelixRecv, execTrelixRecv, withDesc_of_at h hd]
    dsimp only
    rw [hbad, hlen, if_neg Bool.false_ne_true, if_neg (by simpa [Option.isSome_iff_ne_none] using hgroup), hfind, Option.bind_some, hraw]
    dsimp only
    rw [if_neg (not_not_intro hn), hwr]
    exact fpDone_eq ..

end Sys2Proof.Machine

namespace Sys2Proof.Machine

/-! ### Tiles and residual objects (R352 to R358, R371) -/

section
variable {s s1 s' : State} {k : Nat} {f : Fp} {obj root : Nat} {ks : List (Nat × Nat × Nat)} {rd : Bool} {o : ResObj}

theorem withResid_ready (h : ResidReady s s' k f obj root ks rd o) (xd : BitVec 5) (run : State → ResObj → Res) :
    withResid s k f xd obj ks rd run = run s' o := by
  obtain ⟨-, hroot, hat⟩ := h
  unfold withResid
  rw [hroot]
  dsimp only [fpWho]
  rw [hat]

theorem withIdleResid_ready (h : ResidReady s s' k f obj root (residKeys s root obj) rd o) (hidle : compressesIn s root obj = false)
    (xd : BitVec 5) (run : State → ResObj → Res) : withIdleResid s k f xd obj rd run = run s' o := by
  unfold withIdleResid
  rw [h.2.1]
  dsimp only
  rw [hidle, if_neg Bool.false_ne_true]
  exact withResid_ready h xd run

/-- The operands that `dec` and `enc` take: a code of the two, and 1 to 1,024 tiles. -/
theorem not_tilesBad {c n : Nat} (hc : c = 1 ∨ c = 2) (hpos : 0 < n) (hle : n ≤ 1024) :
    ¬ ((c ≠ 1 ∧ c ≠ 2) ∨ n = 0 ∨ 1024 < n) := by
  omega

/-! `sadd` adds the sources to the destination's tile, one after another. -/

/-- The sum that `sadd` forms of a tile: the sources so far, or that one could not be read, and whether it held an error. -/
def addSource (s : State) (k : Nat) (f : Fp) (i : Nat) (r : Option (List Nat) × Bool) (a : Nat) : Option (List Nat) × Bool :=
  match r.1 with
  | none => r
  | some acc => match fpRead s k f (a + 16384 * i) 16384 with
    | .ok _ src bad => if bad then (none, true) else (some (addTiles acc (f32sOf src 4096)), false)
    | _ => (none, false)

/-- What a tile of `sadd` comes to, once its sum is formed. -/
def saddEnd (k : Nat) (f : Fp) (dst i : Nat) (s : State) : Option (List Nat) × Bool → TileStep
  | (some acc, _) => tileWrite s k f (dst + 16384 * i) (bytesOfF32s acc) fun s => .ok s 0
  | (none, true) => .bad s
  | (none, false) => .fault s

/-- One tile of `sadd`. -/
def saddStep (k : Nat) (f : Fp) (dst : Nat) (srcs : List Nat) (s : State) (i : Nat) : TileStep :=
  tileRead s k f (dst + 16384 * i) 16384 fun s b => saddEnd k f dst i s (srcs.foldl (addSource s k f i) (some (f32sOf b 4096), false))

/-- One tile of `saddRun`. -/
def saddNext (k : Nat) (f : Fp) (dst : Nat) (srcs : List Nat) (i : Nat) (s : State) : Option State :=
  match fpRead s k f (dst + 16384 * i) 16384 with
  | .ok s b false => (sumTiles s k f srcs i (f32sOf b 4096)).bind (fun v =>
    match fpWrite s k f (dst + 16384 * i) (bytesOfF32s v) with
    | .ok s => some s
    | _ => none)
  | _ => none

/-- One source of `sumTiles`. -/
def sumSource (s : State) (k : Nat) (f : Fp) (i : Nat) (r : Option (List Nat)) (a : Nat) : Option (List Nat) :=
  match r, fpRead s k f (a + 16384 * i) 16384 with
  | some acc, .ok _ b false => some (addTiles acc (f32sOf b 4096))
  | _, _ => none

theorem foldl_sumSource_none (i : Nat) (srcs : List Nat) : srcs.foldl (sumSource s k f i) none = none := by
  induction srcs with
  | nil => rfl
  | cons a as ih => exact ih

theorem sumTiles_eq (srcs : List Nat) (i : Nat) (dst : List Nat) :
    sumTiles s k f srcs i dst = srcs.foldl (sumSource s k f i) (some dst) := rfl

theorem addSource_of_sum {i a : Nat} {acc : List Nat} {v : List Nat} (h : sumSource s k f i (some acc) a = some v) :
    addSource s k f i (some acc, false) a = (some v, false) := by
  unfold sumSource at h
  unfold addSource
  dsimp only at h ⊢
  cases hread : fpRead s k f (a + 16384 * i) 16384 with
  | ok t b bad =>
    rw [hread] at h
    cases bad with
    | false =>
      obtain rfl : _ = v := Option.some.inj h
      rfl
    | true => cases h
  | wait t => rw [hread] at h; cases h
  | fail => rw [hread] at h; cases h

theorem foldl_addSource_of_sum {i : Nat} {srcs : List Nat} : ∀ {acc v : List Nat}, sumTiles s k f srcs i acc = some v →
    srcs.foldl (addSource s k f i) (some acc, false) = (some v, false) := by
  induction srcs with
  | nil =>
    intro acc v h
    obtain rfl : acc = v := Option.some.inj h
    rfl
  | cons a as ih =>
    intro acc v h
    rw [sumTiles_eq, List.foldl_cons] at h
    rw [List.foldl_cons]
    cases hone : sumSource s k f i (some acc) a with
    | none => rw [hone, foldl_sumSource_none] at h; cases h
    | some w =>
      rw [hone] at h
      rw [addSource_of_sum hone]
      exact ih h

theorem saddStep_of_next {dst i : Nat} {srcs : List Nat} (h : saddNext k f dst srcs i s = some s') :
    saddStep k f dst srcs s i = .ok s' 0 := by
  unfold saddNext at h
  unfold saddStep tileRead
  cases hread : fpRead s k f (dst + 16384 * i) 16384 with
  | ok t b bad =>
    rw [hread] at h
    cases bad with
    | true => cases h
    | false =>
      obtain ⟨v, hsum, hwrite⟩ := Option.bind_eq_some_iff.1 h
      show saddEnd k f dst i t (srcs.foldl (addSource t k f i) (some (f32sOf b 4096), false)) = _
      rw [foldl_addSource_of_sum hsum]
      show tileWrite t k f _ _ _ = _
      unfold tileWrite
      cases hw : fpWrite t k f (dst + 16384 * i) (bytesOfF32s v) with
      | ok u =>
        rw [hw] at hwrite
        obtain rfl : u = s' := Option.some.inj hwrite
        rfl
      | wait u => rw [hw] at hwrite; cases hwrite
      | fail u => rw [hw] at hwrite; cases hwrite
  | wait t => rw [hread] at h; cases h
  | fail => rw [hread] at h; cases h

/-- One tile after another, until one fails. -/
def tileThen (one : State → Nat → TileStep) (r : TileStep) (j : Nat) : TileStep :=
  match r with
  | .ok s c => match one s j with
    | .ok s d => .ok s (c + d)
    | r => r
  | r => r

theorem tilesRun_eq (n : Nat) (s : State) (one : State → Nat → TileStep) :
    tilesRun n s one = (List.range n).foldl (tileThen one) (.ok s 0) := rfl

theorem foldl_bind_none {α β : Type} (next : α → β → Option β) (is : List α) :
    is.foldl (fun r i => r.bind (next i)) (none : Option β) = none := by
  induction is with
  | nil => rfl
  | cons a as ih => exact ih

theorem foldl_tileThen_sadd {dst : Nat} {srcs is : List Nat} : ∀ {s : State},
    is.foldl (fun r i => r.bind (saddNext k f dst srcs i)) (some s) = some s' →
      is.foldl (tileThen (saddStep k f dst srcs)) (.ok s 0) = .ok s' 0 := by
  induction is with
  | nil =>
    intro s h
    obtain rfl : s = s' := Option.some.inj h
    rfl
  | cons a as ih =>
    intro s h
    rw [List.foldl_cons, Option.bind_some] at h
    rw [List.foldl_cons]
    cases hone : saddNext k f dst srcs a s with
    | none => rw [hone, foldl_bind_none] at h; cases h
    | some t =>
      rw [hone] at h
      have hstep : tileThen (saddStep k f dst srcs) (.ok s 0) a = .ok t 0 := by
        unfold tileThen
        dsimp only
        rw [saddStep_of_next hone]
      rw [hstep]
      exact ih h

theorem saddRun_eq (dst m : Nat) (srcs : List Nat) :
    saddRun k f dst srcs m s = (List.range m).foldl (fun r i => r.bind (saddNext k f dst srcs i)) (some s) := rfl

/-- The destination tiles of `sadd` run where each can be read, summed and written. -/
theorem tilesRun_sadd {dst m : Nat} {srcs : List Nat} (h : saddRun k f dst srcs m s = some s') :
    tilesRun m s (saddStep k f dst srcs) = .ok s' 0 := by
  rw [saddRun_eq] at h
  rw [tilesRun_eq]
  exact foldl_tileThen_sadd h

/-- `sadd` with its operands in range runs its tiles (R371). -/
theorem exec_trelixSadd_runs {t : TFields} {d : List Byte} (h : TrelixAt s k f t) (hd : DescAt s s1 k f t 88 d)
    (hn : ¬ (dWord d 1 = 0 ∨ 8 < dWord d 1 ∨ dWord d 10 = 0 ∨ 1024 < dWord d 10))
    (hwaits : fpWaits s1 k f ((dWord d 0, 16384 * dWord d 10, 1) ::
      (List.range (dWord d 1)).map (fun j => (dWord d (2 + j), 16384 * dWord d 10, 0))) = none) :
    exec .trelixSadd s = tilesDone k f t.x (fun _ => 0) (tilesRun (dWord d 10) s1
      (saddStep k f (dWord d 0) ((List.range (dWord d 1)).map (fun j => dWord d (2 + j))))) := by
  rw [exec_trelixSadd, execTrelixSadd, withDesc_of_at h hd]
  dsimp only
  rw [if_neg hn, hwaits]
  refine congrArg (fun one => tilesDone k f t.x (fun _ => 0) (tilesRun (dWord d 10) s1 one)) (funext fun s => funext fun i => ?_)
  rw [saddStep]
  refine congrArg (fun go => tileRead s k f (dWord d 0 + 16384 * i) 16384 go) (funext fun t => funext fun b => ?_)
  rw [List.foldl_map]
  rfl

end

/-- Settles O32: each instruction passes its checks and runs its tiles, or its object's tiles. -/
theorem trelixTilesAndResiduals : Obligations.TrelixTilesAndResiduals := by
  refine ⟨fun s s1 s' k f t d h => ⟨fun n v hd hc hn hpos hle hw hrun => ?dec, fun n m srcs hd hn hpos hle hm hmpos hmle hsrcs hw hrun => ?sadd,
    fun s2 o root n v hd hc hn hpos hle => ?enc⟩,
    fun s s1 s2 s3 s4 s' k f t d src root o h => ⟨fun key hd hkey => ⟨fun ho hwr => ?rld, fun ho hread => ?rst⟩,
      fun obj img ha hb hidle => ⟨fun ho hwr => ?rsave, fun nb b n o' ho hnb hn hle hread => ?rload⟩⟩⟩
  case dec =>
    subst hn
    rw [exec_trelixDec, execTrelixDec, withDesc_of_at h hd]
    dsimp only
    rw [if_neg (not_tilesBad hc hpos hle), hw]
    show tilesDone k f t.x id (tilesRun _ s1 (decStep k f (codeOfField (dWord d 0)) (dWord d 1) (dWord d 2))) = _
    rw [hrun]
    exact fpDone_eq ..
  case sadd =>
    subst hn hm hsrcs
    rw [List.map_map] at hw
    rw [exec_trelixSadd_runs h hd (by omega) hw, tilesRun_sadd hrun]
    exact fpDone_eq ..
  case enc =>
    intro c key hw ho hrun
    subst hn
    obtain ⟨halign, hroot, hat⟩ := ho
    rw [exec_trelixEnc, execTrelixEnc, withDesc_of_at h hd]
    dsimp only
    rw [if_neg (not_not_intro halign), if_neg (not_tilesBad hc hpos hle), hw]
    dsimp only
    rw [hroot]
    dsimp only [fpWho]
    rw [hat]
    show tilesDone k f t.x (fun _ => 0) (tilesRun _ s2 (encStep k f c (dWord d 1) (dWord d 2) (dWord d 3) root key)) = _
    rw [hrun]
    exact fpDone_eq ..
  case rld =>
    subst hkey
    rw [exec_trelixRld, execTrelixRld, withDesc_of_at h hd]
    dsimp only
    rw [if_neg (not_not_intro ho.1), withResid_ready ho]
    rw [hwr]
    exact fpDone_eq ..
  case rst =>
    subst hkey
    rw [exec_trelixRst, execTrelixRst, withDesc_of_at h hd]
    dsimp only
    rw [if_neg (not_not_intro ho.1), withResid_ready ho]
    rw [hread]
    exact fpDone_eq ..
  case rsave =>
    subst ha hb
    rw [exec_trelixRsave, execTrelixRsave, withFp_trelixAt h]
    dsimp only
    rw [if_neg (not_not_intro ho.1), withIdleResid_ready ho hidle]
    rw [hwr]
    exact fpDone_eq ..
  case rload =>
    intro key ho'
    subst ha hb hn
    rw [exec_trelixRload, execTrelixRload, withFp_trelixAt h]
    dsimp only
    rw [if_neg (not_not_intro ho.1), withIdleResid_ready ho hidle]
    rw [hnb]
    dsimp only
    rw [if_neg Bool.false_ne_true, if_neg (Nat.not_lt.2 hle), hread]
    dsimp only
    rw [if_neg Bool.false_ne_true, withResid_ready ho']
    exact fpDone_eq ..

end Sys2Proof.Machine

namespace Sys2Proof.Machine

/-! ### Groups and barriers of the fabric processors (R343, R372) -/

/-- A wait that has an end has that status (R5, R193). -/
theorem waitStatus_of_ends {b : Bar} {p st : Nat} (h : waitEnds b p st) : waitStatus b p = some st := by
  unfold waitStatus
  dsimp only
  obtain ⟨hone, rfl⟩ | ⟨htwo, hhalf, rfl⟩ | ⟨hnone, hgone, rfl⟩ := h
  · rw [if_pos hone]
  · rw [if_neg (by omega), if_pos ⟨htwo, hhalf⟩]
  · rw [if_neg (by omega), if_neg (by omega), if_pos hgone]

theorem withBarrier_of_at {s : State} {k : Nat} {f : Fp} {t : TFields} {kind pa : Nat} (h : TrelixAt s k f t)
    (hb : BarrierAt s k f t kind pa) (run : Nat → Fp → TFields → Nat → Res) : withBarrier s kind run = run k f t pa := by
  obtain ⟨halign, hlocal, hquad, hx, hhbm, hroute, hvalid⟩ := hb
  rw [withBarrier, withFp_trelixAt h]
  dsimp only
  rw [if_neg (not_not_intro halign), if_neg (by simp [hlocal, hquad]), hx]
  dsimp only
  rw [if_neg (by simp [hroute]), if_neg (by simp [hhbm, hvalid])]

/-- Settles O33: each instruction takes the path that its hypotheses leave. -/
theorem trelixGroupsAndBarriers : Obligations.TrelixGroupsAndBarriers := by
  refine ⟨fun s s1 s2 k f t d i id pa x h => ⟨fun hd => ?gnew, fun hwait hdrain hst => ?gret, ?gwatch⟩,
    fun s k f t pa st h => ⟨fun hb he => ?bwait, fun hb h0 hlt => ?barr, fun hb hlt => ?bland⟩⟩
  case gnew =>
    intro g base hfree hbase hbad hnew htemplate mb hread hmembers
    rw [exec_trelixGnew, execTrelixGnew, withDesc_of_at h hd]
    dsimp only
    rw [hbad, if_neg Bool.false_ne_true, hfree]
    dsimp only
    rw [if_neg (show ¬ (base = 0 ∨ (findGroup s1 (k / 4) g.handle).isSome = true ∨ templateBad (dWord d) g = true) by
      simp [hnew, htemplate, hbase]), hread]
    dsimp only
    have hok : (List.range g.size).any (fun i => bitsAt (bytesToNat ((mb.drop (4 * i)).take 4)) 15 17 != 0) = false := by
      rw [List.any_eq_false]
      intro j hj
      rw [hmembers j (List.mem_range.1 hj)]
      decide
    rw [if_neg Bool.false_ne_true, if_neg (by rw [hok]; exact Bool.false_ne_true)]
    exact fpDone_eq ..
  case gret =>
    rw [exec_trelixGret, execTrelixGret, withFp_trelixAt h, hwait]
    dsimp only
    rw [hdrain]
    dsimp only
    rw [if_neg (by omega)]
    exact fpDone_eq ..
  case gwatch =>
    intro a l p w put halign hx hhbm hdie hcounted hwaits
    have hrun : exec .trelixGwatch s =
        if xRead f t.b = BitVec.allOnes 64 then fpDone (setWaiter (put []) w pa 1 false) k f t.x 0 0
        else if l.contains p then fpDone (setWaiter s w pa 1 true) k f t.x 0 0
        else if 64 ≤ l.length then fpDone s k f t.x 8 0
        else fpDone (setWaiter (put (l ++ [p])) w pa 1 true) k f t.x 0 0 := by
      rw [exec_trelixGwatch, execTrelixGwatch, withFp_trelixAt h]
      dsimp only
      rw [if_neg (not_not_intro halign), hx]
      dsimp only
      rw [if_neg (by simp [hhbm, hdie]), hcounted, if_neg Bool.false_ne_true, hwaits, if_neg Bool.false_ne_true]
      rfl
    refine ⟨fun hb hnew hroom => ?_, fun hb hold => ?_, fun hb => ?_⟩
    · rw [hrun, if_neg hb, if_neg (by rw [hnew]; exact Bool.false_ne_true), if_neg (Nat.not_le.2 hroom)]
      exact fpDone_eq ..
    · rw [hrun, if_neg hb, if_pos hold]
      exact fpDone_eq ..
    · rw [hrun, if_pos hb]
      exact fpDone_eq ..
  case bwait =>
    rw [exec_trelixBwait, execTrelixBwait, withBarrier_of_at h hb]
    rw [waitStatus_of_ends he]
    exact fpDone_eq ..
  case barr =>
    rw [exec_trelixBarr, execTrelixBarr, withBarrier_of_at h hb]
    dsimp only
    rw [if_neg (by omega)]
    exact fpDone_eq ..
  case bland =>
    rw [exec_trelixBland, execTrelixBland, withBarrier_of_at h hb]
    dsimp only
    rw [if_neg (by omega)]
    exact fpDone_eq ..

end Sys2Proof.Machine

namespace Sys2Proof.Machine

/-! ### Parameter homes (R373 to R380) -/

section
variable {s s1 : State} {k : Nat} {f : Fp} {t : TFields} {b : List Byte}

/-- A home instruction at a home that can be read and written runs on its descriptor (R373). -/
theorem withHome_of_at (h : TrelixAt s k f t) (hh : HomeAt s s1 k f t b) (run : State → Nat → Fp → TFields → Nat → List Byte → HomeDesc → Res) :
    withHome s run = run s1 k f t (xRead f t.a).toNat b (homeOfBytes b) := by
  obtain ⟨hd, hwaits, pa, pb, x, y, hlow, hhigh, ha, hb⟩ := hh
  rw [withHome, withDesc_of_at h hd, hwaits, hlow, hhigh]
  exact if_pos ⟨ha, hb⟩

/-- The report of a home instruction, whatever its writes came to. -/
theorem homeDone_next (s : State) (k : Nat) (f : Fp) (xd : BitVec 5) (a : Nat) (ws : List (Nat × Nat)) (received : Option Nat)
    (status value : Nat) : ∃ u, homeDone s k f xd a ws received status value = .next u := by
  unfold homeDone
  extract_lets put r
  split
  · exact ⟨_, rfl⟩
  · exact ⟨_, rfl⟩

theorem next_of_homeDone {r : Res} {xd : BitVec 5} {a : Nat} {ws : List (Nat × Nat)} {received : Option Nat} {status value : Nat}
    (h : r = homeDone s k f xd a ws received status value) :
    ∃ u, r = .next u ∧ Host.Outcome.next u = homeDone s k f xd a ws received status value := by
  obtain ⟨u, hu⟩ := homeDone_next s k f xd a ws received status value
  exact ⟨u, h.trans hu, hu.symm⟩

/-- What an `upd` comes to once its writes are made (R376). -/
def updEnd (k : Nat) (f : Fp) (t : TFields) (a : Nat) (h : HomeDesc) (b : Nat) (take : State → State) : State × Bool → Res
  | (s, false) => fpDone s k f t.x 9 b
  | (s, true) => homeDone (take s) k f t.x a [] (some (h.received ||| 2 ^ b)) 0 b

end

/-- Settles O34: at a home in the state that each needs, the instruction is its `homeDone`. -/
theorem trelixHomeSteps : Obligations.TrelixHomeSteps := by
  refine ⟨fun s s1 s2 k f t b ps id w y h => ⟨fun hh => ?home, fun hwait hfind hans => ?wfetch⟩,
    fun s s1 s2 s' k f t b bytes blk tag tile rest h hh => ?upd⟩
  case home =>
    intro d a x
    refine ⟨fun hst hv hrule hslot hnb hle hx hread => ?hopen, fun hst hx hall => ?hclose, fun hst hx => ?hcommit,
      fun hst hx => ?habort, fun hst => ?idle⟩
    case hopen =>
      refine next_of_homeDone ?_
      have hok : ¬ (d.state ≠ 0 ∨ (!d.valid) = true ∨ 1 < d.rule ∨ (!homeSlotOk d.slot) = true ∨ d.nb = 0 ∨ 4096 < d.nb ∨
          x ≠ (d.c + 1) % 2 ^ 32) := by
        simp only [hst, hv, hslot]
        rintro (h | h | h | h | h | h | h)
        · exact h rfl
        · exact Bool.noConfusion h
        · omega
        · exact Bool.noConfusion h
        · exact hnb h
        · omega
        · exact h hx
      rw [exec_trelixHopen, execTrelixHopen, withHome_of_at h hh]
      refine (if_neg hok).trans ?_
      rw [hread]
      rfl
    case hclose =>
      refine next_of_homeDone ?_
      have hmissing : (List.range d.nb).filter (fun i => !bitAt d.received i) = [] := by
        rw [List.filter_eq_nil_iff]
        intro i hi
        rw [hall i (List.mem_range.1 hi)]
        exact Bool.false_ne_true
      rw [exec_trelixHclose, execTrelixHclose, withHome_of_at h hh]
      exact (if_neg (show ¬ ((d.state ≠ 1 ∧ d.state ≠ 2) ∨ x ≠ d.step) by omega)).trans
        (if_pos (congrArg List.length hmissing))
    case hcommit =>
      intro i w14 w15
      refine next_of_homeDone ?_
      rw [exec_trelixHcommit, execTrelixHcommit, withHome_of_at h hh]
      exact if_neg (show ¬ (d.state ≠ 2 ∨ x ≠ d.step) by omega)
    case habort =>
      refine next_of_homeDone ?_
      rw [exec_trelixHabort, execTrelixHabort, withHome_of_at h hh]
      exact (if_neg (show ¬ d.state = 0 by omega)).trans (if_neg (show ¬ (d.state = 3 ∨ x ≠ d.step) by omega))
    case idle =>
      rw [exec_trelixHabort, execTrelixHabort, withHome_of_at h hh]
      exact (if_pos hst).trans (fpDone_eq ..)
  case wfetch =>
    rw [exec_trelixWfetch, execTrelixWfetch, withFp_trelixAt h, hwait]
    dsimp only
    rw [hfind]
    dsimp only
    rw [hans]
    dsimp only
    rw [fpNext_eq, xWrite_pc]
  case upd =>
    intro d old new buf pars word rs hst hinbox htag hlt hnb hrec hwaits hread hrun
    refine next_of_homeDone ?_
    rw [exec_trelixUpd, execTrelixUpd, withHome_of_at h hh]
    refine (if_neg (show ¬ (d.state ≠ 1 ∧ d.state ≠ 2) by omega)).trans ?_
    dsimp only
    rw [show mapGet [] s1.fab.inbox (inboxKey (homeOfBytes b).handle (k / 4)) = (blk, tag, tile) :: rest from hinbox]
    refine (if_neg (not_not_intro htag)).trans ((if_neg (show ¬ (4096 ≤ blk ∨ d.nb ≤ blk) by omega)).trans
      ((if_neg (by rw [hrec]; exact Bool.false_ne_true)).trans ?_))
    unfold applyTile
    extract_lets img old' new' buf'
    rw [show fpWaits s1 k f [(old', 49152, 0), (new', if (homeOfBytes b).rule = 0 then 32768 else 49152, 1),
      (buf', weightBytes (homeOfBytes b).slot, 1)] = none from hwaits,
      show fpRead s1 k f old' 49152 = .ok s2 bytes false from hread]
    dsimp -zeta only
    exact (if_neg Bool.false_ne_true).trans (congrArg (updEnd k f t _ d blk _) hrun)

end Sys2Proof.Machine

/-! Settlements of the family 'other': barriers, and the exits of lanes (R190 to R196, R132, R111). -/

namespace Sys2Proof.Machine

/-! ### Operations that leave every span as it was -/

/-- The spans and the time are as before. -/
def SpansKept (s t : State) : Prop := t.spans = s.spans ∧ t.cycle = s.cycle

section
variable {s₀ s t : State}

theorem SpansKept.refl (s : State) : SpansKept s s := ⟨rfl, rfl⟩

theorem SpansKept.spanOf (h : SpansKept s t) (w : Nat) : spanOf t w = spanOf s w := congrArg (mapFind · w) h.1

theorem SpansKept.ite {c : Prop} [Decidable c] (h : SpansKept s₀ s) (k : SpansKept s₀ t) : SpansKept s₀ (if c then s else t) := by
  split
  · exact h
  · exact k

theorem SpansKept.foldl {α : Type} {f : State → α → State} {l : List α} (h : SpansKept s₀ s)
    (hf : ∀ t a, SpansKept s₀ t → SpansKept s₀ (f t a)) : SpansKept s₀ (l.foldl f s) := by
  induction l generalizing s with
  | nil => exact h
  | cons a as ih => exact ih (hf s a h)

theorem SpansKept.writeBack {g line : Nat} (h : SpansKept s₀ s) : SpansKept s₀ (writeBack s g line) := by
  unfold Machine.writeBack
  dsimp only
  split
  · exact h
  · exact SpansKept.ite h h

theorem SpansKept.endPhase {key : Nat} (h : SpansKept s₀ s) : SpansKept s₀ (endPhase s key) := by
  unfold Machine.endPhase
  split <;> exact h

theorem SpansKept.localPut {d : Deck} {off : Nat} {b : Byte} (h : SpansKept s₀ s) : SpansKept s₀ (localPut s d off b) := by
  unfold Machine.localPut
  split <;> exact h

theorem SpansKept.makeWay {line : Nat} (h : SpansKept s₀ s) : SpansKept s₀ (makeWay s line) := by
  unfold Machine.makeWay
  dsimp only
  refine SpansKept.ite h ?_
  split <;> exact h

theorem SpansKept.homeTouch {line : Nat} (h : SpansKept s₀ s) : SpansKept s₀ (homeTouch s line) :=
  SpansKept.ite h (SpansKept.ite (s := Machine.makeWay s line) h.makeWay h)

theorem SpansKept.homePut {pa : Nat} {b : Byte} (h : SpansKept s₀ s) : SpansKept s₀ (homePut s pa b) := by
  unfold Machine.homePut
  dsimp only
  split
  · exact h
  · have ht := SpansKept.ite (c := isHbm pa = true ∧ (homeOf s (pa / 128)).l2 = 0) (h.homeTouch (line := pa / 128)) h
    exact SpansKept.ite (s := putHome _ _ _) ht ht

theorem SpansKept.localWrite {d : Deck} {off : Nat} {bytes : List Byte} (h : SpansKept s₀ s) :
    SpansKept s₀ (localWrite s d off bytes) :=
  h.foldl fun _ _ h2 => h2.localPut

theorem SpansKept.homeWrite {pa : Nat} {bytes : List Byte} (h : SpansKept s₀ s) : SpansKept s₀ (homeWrite s pa bytes) :=
  h.foldl fun _ _ h2 => h2.homePut

theorem SpansKept.nextStamp (h : SpansKept s₀ s) : SpansKept s₀ (nextStamp s) := h

theorem SpansKept.recUncorrectable {die core launch detail arg : Nat} (h : SpansKept s₀ s) :
    SpansKept s₀ (recUncorrectable s die core launch detail arg) := h

theorem SpansKept.writeBar {loc : BarLoc} {b : Bar} (h : SpansKept s₀ s) : SpansKept s₀ (writeBar s loc b) := by
  unfold Machine.writeBar
  extract_lets ws s1
  have h1 : SpansKept s₀ s1 := h.ite h.endPhase
  clear_value s1
  cases loc with
  | scratch d off =>
    dsimp only
    split
    · exact (h1.recUncorrectable.ite h1).localWrite
    · exact h1
  | net k => exact h1
  | mem pa => exact h1.homeTouch.homeWrite.nextStamp

theorem SpansKept.barAt {sp : Span} {loc : BarLoc} (h : SpansKept s₀ s) : SpansKept s₀ (barAt s sp loc) := by
  cases loc with
  | mem pa => exact h.writeBack
  | scratch d off => exact h
  | net k => exact h

theorem SpansKept.barOwner {loc : BarLoc} {key : Nat} (h : SpansKept s₀ s) : SpansKept s₀ (barOwner s loc key) := by
  cases loc <;> exact h

end

/-! ### Barrier instructions (R192 to R195) -/

section
variable {s : State} {sp : Span} {l : Launch} {loc : BarLoc}

theorem keeps_barAt (s : State) (sp : Span) (loc : BarLoc) : Keeps s (barAt s sp loc) := by
  cases loc with
  | mem pa => exact (Keeps.refl s).writeBack
  | scratch d off => exact Keeps.refl s
  | net k => exact Keeps.refl s

/-- What an operation on a barrier comes to at the barrier's home. -/
def barRun (sp : Span) (l : Launch) (loc : BarLoc) (kind : Nat) (addr x y : Word64) (s : State) : Res :=
  match barApply s s.cur.uid sp l loc kind addr x y sp.am with
  | .bad => trapS s sp l causeBarrier sp.am addr.toNat
  | .ok s => match spanOf s s.cur.uid with
    | some sp => commitS s (raiseBar s sp loc)
    | none => .fault .notEnabled

theorem barRun_ok {kind : Nat} {addr x y : Word64} {t : State} {sp' : Span}
    (hok : barApply s s.cur.uid sp l loc kind addr x y sp.am = .ok t) (hsp : spanOf t t.cur.uid = some sp') :
    barRun sp l loc kind addr x y s = barNext t sp' loc := by
  rw [barRun, hok]
  dsimp only
  rw [hsp]
  rfl

/-- The core's own bytes of the barrier's line have left, and nothing more is on its way to it (log 60). -/
theorem barLine_of_free (h : barFree (barAt s sp loc) sp loc) (k : State → Res) : barLine s sp loc k = k (barAt s sp loc) := by
  cases loc with
  | mem pa =>
    obtain ⟨hstore, hread, hatom⟩ := h pa rfl
    unfold barLine
    dsimp only
    exact if_neg (by rw [show storeInFlight (writeBack s sp.core (pa / 128)) sp.core (pa / 128) = false from hstore,
      show unread (writeBack s sp.core (pa / 128)) (writeBack s sp.core (pa / 128)).cur.uid (fun y => y == pa / 128) = [] from hread,
      show atomicsOn (writeBack s sp.core (pa / 128)) (writeBack s sp.core (pa / 128)).cur.uid (pa / 128) = false from hatom]; decide)
  | scratch d off => rfl
  | net k => rfl

theorem afterStores_of_done {scope : Nat} (h : StoresDone s sp scope) (k : State → Res) : afterStores s sp scope k = k s := by
  unfold StoresDone at h
  unfold afterStores
  split
  · next hs =>
    rw [if_pos hs] at h
    rw [h.1, h.2]
    rfl
  · next hs =>
    rw [if_neg hs] at h
    exact if_pos h

/-- An arrival whose older stores are performed goes on (R256). -/
theorem afterArrive_of_done {scope n : Nat} (h : ArriveDone s sp scope n) (k : State → Res) : afterArrive s sp scope n k = k s := by
  unfold ArriveDone at h
  unfold afterArrive
  split
  · next a heq =>
    rw [heq] at h
    exact afterStores_of_done h k
  · next hnot =>
    have h' : if n = 0 then StoresDone s sp scope else markers s sp.core + n ≤ 64 ∧ allPerformed s sp s.cur.uid = true := by
      cases hp : sp.pend with
      | arrive m => exact absurd hp (hnot m)
      | _ => rw [hp] at h; exact h
    by_cases hn : n = 0
    · rw [if_pos hn] at h' ⊢
      exact afterStores_of_done h' k
    · rw [if_neg hn] at h' ⊢
      rw [if_neg (by omega), if_pos h'.2]

/-- A barrier operation at a barrier that is found, outside a deterministic launch, is performed at the barrier's home. -/
theorem barOp_found {kind : Nat} {regs : List Nat} {addr x y : Span → Word64} (h : ActingIn s sp l) (hdet : l.det = false)
    (hr : ScalarsReady sp regs) (hbad : sp.badTable = false)
    (hfind : findBar s sp l (addr sp) (if kind = 0 then 2 else 1) true = .loc loc) (hfree : barFree (barAt s sp loc) sp loc)
    (harr : kind = 2 ∨ kind = 4 → ArriveDone s sp (barScope loc) (arrivalMarks loc)) :
    barOp kind regs addr x y s = barRun sp l loc kind (addr sp) (x sp) (y sp) (barAt s sp loc) := by
  rw [barOp, withLaunch_actingIn h, needS_ready hr, if_neg (by rw [hbad]; simp), hfind]
  dsimp only
  rw [if_neg (by rw [hdet]; exact Bool.false_ne_true)]
  split
  · next hk =>
    rw [afterArrive_of_done (harr hk), barLine_of_free hfree]
    rfl
  · rw [barLine_of_free hfree]
    rfl

/-- In a deterministic launch it is one entry of the commit buffer, whether the barrier is found or only BARRIER_ERROR would stop it
(R299, R385). -/
theorem barOp_buffered {kind : Nat} {regs : List Nat} {addr x y : Span → Word64} (h : ActingIn s sp l) (hdet : l.det = true)
    (hroom : sp.buffer.length < 512) (hr : ScalarsReady sp regs) (hbad : sp.badTable = false)
    (hfind : (∃ loc, findBar s sp l (addr sp) (if kind = 0 then 2 else 1) true = .loc loc) ∨
      findBar s sp l (addr sp) (if kind = 0 then 2 else 1) true = .trap causeBarrier) :
    barOp kind regs addr x y s = .next (putSpan s s.cur.uid
      (advance (buffered s sp (.barrier kind (addr sp) (x sp) (y sp) sp.am)))) := by
  rw [barOp, withLaunch_actingIn h, needS_ready hr, if_neg (by rw [hbad]; simp)]
  obtain ⟨loc, hloc⟩ | htrap := hfind
  · rw [hloc]
    dsimp only
    rw [if_pos hdet, bufferAll_room hroom]
    rfl
  · rw [htrap]
    dsimp only
    rw [if_pos ⟨hdet, rfl⟩, bufferAll_room hroom]
    rfl

theorem ScalarsReady.subset {rs qs : List Nat} (h : ScalarsReady sp rs) (hq : ∀ r ∈ qs, r ∈ rs) : ScalarsReady sp qs :=
  fun r hr => h r (hq r hr)

/-- The acting span, once something that leaves spans and the step as they are has been done. -/
theorem spanOf_acting {t : State} (h : ActingIn s sp l) (hk : SpansKept s t) (hc : t.cur = s.cur) : spanOf t t.cur.uid = some sp := by
  rw [hc, hk.spanOf]
  exact h.1

theorem barInit_unused {x y : Nat} {t : State} (hb : (readBar t loc).valid = true →
      (readBar t loc).arrivals = 0 ∧ (readBar t loc).landed = 0 ∧ ((readBar t loc).abandoned = true ∨ (readBar t loc).registered = 0))
    (hx : x < 2 ^ 24) (hy : y < 2 ^ 24) (hne : x ≠ 0 ∨ y ≠ 0) : barInit t l loc x y = .ok (barOwner (writeBar t loc
      { barOfWords 0 0 0 0 with valid := true, exparr := x, base := y, expbytes := y }) loc l.key) := by
  unfold barInit
  refine if_neg ?_
  rintro (h | h | h | h | h)
  · exact Nat.not_le.2 hx h
  · exact Nat.not_le.2 hy h
  · exact hne.elim (fun hn => hn h.1) (fun hn => hn h.2)
  · obtain ⟨harr, hland, -⟩ := hb h.1
    exact h.2.elim (fun hn => hn harr) (fun hn => hn hland)
  · obtain ⟨hv, hgone, hreg⟩ := h
    obtain ⟨-, -, hor⟩ := hb hv
    exact hor.elim (fun ha => by rw [ha] at hgone; exact Bool.noConfusion hgone) (fun hr => hreg hr)

theorem barReg_new {t : State} {u : Nat} {addr : Word64} {lanes : BitVec 32} (hv : (readBar t loc).valid = true)
    (hnew : sp.regs.find? (fun e => e.addr == addr) = none) : barReg t u sp loc addr lanes =
      if lanes = 0 then .ok t else if 8 ≤ sp.regs.length then .bad
      else .ok (putSpan (writeBar t loc { readBar t loc with registered := (readBar t loc).registered + popCount lanes }) u { sp with
        regs := sp.regs ++ [⟨addr, lanes, 0, 0⟩] }) := by
  unfold barReg
  dsimp only
  rw [hv, hnew, if_neg (by decide)]

theorem barReg_again {t : State} {u : Nat} {addr : Word64} {lanes : BitVec 32} {e : RegEntry} (hv : (readBar t loc).valid = true)
    (hold : sp.regs.find? (fun e => e.addr == addr) = some e) : barReg t u sp loc addr lanes =
      .ok (putSpan (writeBar t loc { readBar t loc with registered := (readBar t loc).registered + popCount (lanes &&& ~~~ e.lanes) }) u
        { sp with regs := sp.regs.map (fun y => if y.addr = addr then { y with lanes := y.lanes ||| lanes } else y) }) := by
  unfold barReg
  dsimp only
  rw [hv, hold, if_neg (by decide)]

theorem barExp_room {t : State} {x : Nat} (hv : (readBar t loc).valid = true) (hroom : (readBar t loc).expbytes + x < 2 ^ 40) :
    barExp t loc x = .ok (writeBar t loc (barCheck { readBar t loc with expbytes := (readBar t loc).expbytes + x })) := by
  unfold barExp
  refine if_neg ?_
  rw [hv]
  exact fun h => h.elim (fun h => Bool.noConfusion h) (Nat.not_le.2 hroom)

theorem barArr_valid {t : State} {u : Nat} {addr : Word64} {lanes : BitVec 32} (hv : (readBar t loc).valid = true) :
    barArr t u sp loc addr lanes =
      .ok (putSpan (writeBar (coverPhase (publish t u).1 (barKey loc) (publish t u).2) loc
        (barArrive (lostMark sp (readBar t loc)) (popCount lanes))) u { sp with
          regs := sp.regs.map (fun e => if e.addr = addr then
            { e with arrived := if e.phase = BitVec.ofNat 32 (readBar t loc).phase then e.arrived ||| lanes else lanes,
                     phase := BitVec.ofNat 32 (readBar t loc).phase } else e) }) := by
  unfold barArr
  exact if_neg (by rw [hv]; decide)

/-- Dropping lanes leaves the span in the package. -/
theorem spanOf_dropAt {t : State} {u : Nat} (D : BitVec 32) (e : RegEntry) (h : spanOf t u = some sp) :
    ∃ sp', spanOf (dropAt t u D e) u = some sp' := by
  unfold dropAt
  rw [h]
  dsimp -zeta only
  extract_lets dr left regs s' m p
  split
  · exact ⟨sp, h⟩
  · have hs : spanOf s' u = some { sp with regs := regs } := spanOf_putSpan_same ..
    split
    · exact ⟨_, hs⟩
    · next loc heq =>
      dsimp only
      split
      · exact ⟨_, hs⟩
      · refine ⟨_, (SpansKept.spanOf (s := s') ?_ u).trans hs⟩
        exact SpansKept.writeBar (SpansKept.refl s')

theorem barDrop_registered {t : State} {u : Nat} {addr : Word64} {lanes : BitVec 32} {e : RegEntry}
    (hv : (readBar t loc).valid = true) (hfind : sp.regs.find? (fun e => e.addr == addr) = some e) (hin : lanes &&& ~~~ e.lanes = 0) :
    barDrop t u sp loc addr lanes = .ok (dropAt t u lanes e) := by
  unfold barDrop
  rw [hv, hfind, if_neg (by decide)]
  exact if_pos hin

theorem barDrop_none {t : State} {u : Nat} {addr : Word64} {lanes : BitVec 32} (hv : (readBar t loc).valid = true)
    (hfind : sp.regs.find? (fun e => e.addr == addr) = none) (hno : lanes = 0) : barDrop t u sp loc addr lanes = .ok t := by
  unfold barDrop
  rw [hv, hfind, if_neg (by decide)]
  exact if_pos hno

/-! ### `barwait` (R193) -/

theorem foundBad_readable {loc : BarLoc}
    (h : ∀ deck off k, loc = .scratch deck off → deckOf s deck = some k → localBad s k off 32 = false) : foundBad s loc = s := by
  cases loc with
  | scratch deck off =>
    unfold foundBad
    dsimp only
    have hno : (deckOf s deck).any (fun k => localBad s k off 32) = false := by
      cases hd : deckOf s deck with
      | none => rfl
      | some k => exact h deck off k rfl hd
    rw [hno]
    rfl
  | net k => rfl
  | mem pa => rfl

theorem waitBar_fresh {addr : Word64} (h : sp.pend = .none) : waitBar s sp l addr = findBar s sp l addr 0 false := by
  rw [waitBar, h]

theorem barwaitEval_ends {addr : Word64} {p sd lim st : Nat} {late : Bool} (hfind : waitBar s sp l addr = .loc loc)
    (hgood : ∀ deck off k, loc = .scratch deck off → deckOf s deck = some k → localBad s k off 32 = false)
    (hv : (readBar s loc).valid = true) (he : waitEnds (readBar s loc) p st) :
    barwaitEval s sp l addr p sd lim late = barwaitDone s sp loc sd st := by
  unfold barwaitEval
  rw [hfind]
  have hf := foundBad_readable hgood
  refine (if_neg (c := (!(readBar (foundBad s loc) loc).valid) = true) ?_).trans ?_
  · rw [hf, hv]
    decide
  · rw [hf, waitStatus_of_ends he]

/-- A `barwait` that no earlier evaluation holds, at a barrier that is found with a phase that has an end. -/
theorem execBarwait_ends {d a b : BitVec 6} {lim : BitVec 8} {st : Nat} (h : ActingIn s sp l) (hdet : l.det = false)
    (hr : ScalarsReady sp [a.toNat, b.toNat, d.toNat]) (hpend : sp.pend = .none)
    (hfind : findBar s sp l (sRead sp a.toNat) 0 false = .loc loc)
    (hgood : ∀ deck off k, loc = .scratch deck off → deckOf s deck = some k → localBad s k off 32 = false)
    (hv : (readBar s loc).valid = true) (he : waitEnds (readBar s loc) ((sRead sp b.toNat).toNat % 2 ^ 32) st) :
    execBarwait d a b lim s = barwaitDone s sp loc d.toNat st := by
  rw [execBarwait, withLaunch_actingIn h, needS_ready hr]
  refine (if_neg (by rw [hdet]; exact Bool.false_ne_true)).trans ?_
  rw [hpend]
  exact barwaitEval_ends ((waitBar_fresh hpend).trans hfind) hgood hv he

end

/-- Settles O10: a barrier instruction is performed at the barrier's home, or becomes an entry of the commit buffer; `barwait` ends. -/
theorem barrierOperations : Obligations.BarrierOperations := by
  refine ⟨fun a b d s sp l loc h hdet hr hbad hfind hfree => ?plain, fun a s sp l loc h hdet hr hbad hfind hfree hv harr => ?arrive,
    fun a b d s sp l h hdet hroom hr hbad hfind p hp => ?buffered,
    fun d a b lim s sp l loc st h hdet hr hpend hfind hgood hv he => ?wait⟩
  case plain =>
    intro t bar x y
    have hk : Keeps s t := keeps_barAt s sp loc
    have ht : SpansKept s t := (SpansKept.refl s).barAt
    have hrun : ∀ kind regs (ad : Span → Word64) x y, (∀ r ∈ regs, r ∈ [a.toNat, b.toNat, d.toNat]) → ad sp = sRead sp a.toNat →
        ¬ (kind = 2 ∨ kind = 4) →
        barOp kind regs ad x y s = barRun sp l loc kind (sRead sp a.toNat) (x sp) (y sp) t := by
      intro kind regs ad x y hregs had hkind
      rw [← had]
      exact barOp_found h hdet (hr.subset hregs) hbad (by rw [had]; exact hfind _) hfree (fun hc => absurd hc hkind)
    refine ⟨fun hb hx hy hne => ?barinit, fun hv hnew => ⟨fun ham => ?none, fun hroom ham => ?first⟩,
      fun e regs hv hold hregs => ?again, fun hv hroom => ?barexp⟩
    case barinit =>
      rw [exec_barinit, execBarinit, hrun 0 _ _ _ _ (fun r hr => hr) rfl (by decide)]
      exact barRun_ok (barInit_unused hb hx hy hne)
        (spanOf_acting h ht.writeBar.barOwner (hk.writeBar.barOwner).cur)
    case none =>
      rw [exec_barreg, execBarreg, hrun 1 _ _ _ _ (by simp) rfl (by decide)]
      refine barRun_ok ((barReg_new hv hnew).trans (if_pos ham)) (spanOf_acting h ht hk.cur)
    case first =>
      rw [exec_barreg, execBarreg, hrun 1 _ _ _ _ (by simp) rfl (by decide)]
      have hu : (writeBar t loc { bar with registered := bar.registered + popCount sp.am }).cur = t.cur := ((Keeps.refl t).writeBar).cur
      rw [barCommit]
      refine barRun_ok ((barReg_new hv hnew).trans ((if_neg ham).trans (if_neg (Nat.not_le.2 hroom)))) ?_
      rw [show (putSpan _ _ _).cur = t.cur from hu]
      exact spanOf_putSpan_same ..
    case again =>
      subst hregs
      rw [exec_barreg, execBarreg, hrun 1 _ _ _ _ (by simp) rfl (by decide)]
      have hu : (writeBar t loc { bar with registered := bar.registered + popCount (sp.am &&& ~~~ e.lanes) }).cur = t.cur :=
        ((Keeps.refl t).writeBar).cur
      rw [barCommit]
      refine barRun_ok (barReg_again hv hold) ?_
      rw [show (putSpan _ _ _).cur = t.cur from hu]
      exact spanOf_putSpan_same ..
    case barexp =>
      rw [exec_barexp, execBarexp, hrun 3 _ _ _ _ (by simp) rfl (by decide)]
      exact barRun_ok (barExp_room hv hroom) (spanOf_acting h ht.writeBar (hk.writeBar).cur)
  case arrive =>
    intro t bar ph regs
    have hk : Keeps s t := keeps_barAt s sp loc
    have ht : SpansKept s t := (SpansKept.refl s).barAt
    have hsp : spanOf t s.cur.uid = some sp := (ht.spanOf _).trans h.1
    have hrun : ∀ kind, kind = 2 ∨ kind = 4 →
        barOp kind [a.toNat] (fun sp => sRead sp a.toNat) (fun _ => 0) (fun _ => 0) s =
          barRun sp l loc kind (sRead sp a.toNat) 0 0 t := by
      intro kind hkind
      refine barOp_found h hdet hr hbad ?_ hfree (fun _ => harr)
      rw [if_neg (by omega)]
      exact hfind
    refine ⟨?bararr, fun e hreg hin => ?bardrop, fun hreg hno => ?dropNone⟩
    case bararr =>
      rw [exec_bararr, execBararr, hrun 2 (Or.inl rfl)]
      have hu : (writeBar (covering t loc) loc (barArrive (lostMark sp bar) (popCount sp.am))).cur = t.cur :=
        ((Keeps.refl t).publish.coverPhase.writeBar).cur
      refine barRun_ok (barArr_valid hv) ?_
      show spanOf _ ((writeBar (covering t loc) loc (barArrive (lostMark sp bar) (popCount sp.am))).cur).uid = _
      rw [hu]
      exact spanOf_putSpan_same ..
    case bardrop =>
      obtain ⟨sp', hsp'⟩ := spanOf_dropAt sp.am e hsp
      refine ⟨sp', hsp', ?_⟩
      rw [exec_bardrop, execBardrop, hrun 4 (Or.inr rfl)]
      have hu : (dropAt t s.cur.uid sp.am e).cur = s.cur := (hk.dropAt).cur
      refine barRun_ok ?_ (by rw [hu]; exact hsp')
      rw [show t.cur = s.cur from hk.cur]
      exact barDrop_registered hv hreg hin
    case dropNone =>
      rw [exec_bardrop, execBardrop, hrun 4 (Or.inr rfl)]
      exact barRun_ok (barDrop_none hv hreg hno) (spanOf_acting h ht hk.cur)
  case buffered =>
    simp only [List.mem_cons, List.not_mem_nil, or_false] at hp
    obtain rfl | rfl | rfl | rfl | rfl := hp
    · exact barOp_buffered h hdet hroom hr hbad (hfind _)
    · exact barOp_buffered h hdet hroom (hr.subset (by simp)) hbad (hfind _)
    · exact barOp_buffered h hdet hroom (hr.subset (by simp)) hbad (hfind _)
    · exact barOp_buffered h hdet hroom (hr.subset (by simp)) hbad (hfind _)
    · exact barOp_buffered h hdet hroom (hr.subset (by simp)) hbad (hfind _)
  case wait =>
    intro wide sp1
    rw [exec_barwait, execBarwait_ends h hdet hr hpend hfind hgood hv he]
    refine ⟨fun hst => ?_, fun hst => ?_⟩
    · unfold barwaitDone
      refine (if_pos hst).trans ?_
      have hu : (learn (acquireDrop s sp.core wide) s.cur.uid (mapGet ([], []) s.ord.bars (barKey loc)).2).cur = s.cur :=
        ((Keeps.refl s).acquireDrop.learn).cur
      show Host.Outcome.next (putSpan _ (learn (acquireDrop s sp.core wide) s.cur.uid
        (mapGet ([], []) s.ord.bars (barKey loc)).2).cur.uid _) = _
      rw [hu]
    · unfold barwaitDone
      exact if_neg (by omega)

end Sys2Proof.Machine

namespace Sys2Proof.Machine

/-! ### Exits (R111, R132) -/

section
variable {s : State} {sp : Span} {l : Launch} {u : Nat}

/-- The package still has span u. -/
def HasSpan (s : State) (u : Nat) : Prop := ∃ sp, spanOf s u = some sp

theorem HasSpan.foldl {α : Type} {f : State → α → State} (hf : ∀ t a, HasSpan t u → HasSpan (f t a) u) (xs : List α) :
    ∀ s, HasSpan s u → HasSpan (xs.foldl f s) u := by
  induction xs with
  | nil => exact fun s h => h
  | cons a as ih => exact fun s h => ih _ (hf s a h)

theorem HasSpan.dropLanes (m : BitVec 32) (h : HasSpan s u) : HasSpan (dropLanes s u m) u := by
  unfold Machine.dropLanes
  refine HasSpan.foldl (fun t lane ht => ?_) _ s h
  split
  · exact ht
  · refine HasSpan.foldl (fun t' e ht' => ?_) _ t ht
    split
    · exact ht'
    · next sp' heq =>
      split
      · exact spanOf_dropAt _ _ heq
      · exact ht'

theorem exitLanes_buffered {m : BitVec 32} {k : State → Span → Res} (hbad : sp.badTable = false) (hdet : l.det = true)
    (hroom : sp.buffer.length < 512) : exitLanes s sp l m k = k s (buffered s sp (.drop m)) := by
  unfold exitLanes
  exact (if_neg (by rw [hbad]; exact Bool.false_ne_true)).trans ((if_neg (by simpa [hdet] using hroom)).trans (if_pos hdet))

theorem exitLanes_unregistered {m : BitVec 32} {k : State → Span → Res} (hbad : sp.badTable = false) (hdet : l.det = false)
    (hregs : sp.regs = []) : exitLanes s sp l m k = k s sp := by
  unfold exitLanes
  rw [hbad, hdet, hregs]
  rfl

/-- With the older stores performed and nothing on its way to the barriers' lines, the lanes leave at every registered barrier. -/
theorem exitLanes_dropped {m : BitVec 32} (h : ActingIn s sp l) (hbad : sp.badTable = false) (hdet : l.det = false)
    (hregs : sp.regs ≠ []) (hdone : ArriveDone s sp (tableScope s sp) (exitLines s sp).length) {s1 : State}
    (hs1 : s1 = (exitLines s sp).foldl (fun t x => writeBack t sp.core x) s)
    (hfree : ∀ x ∈ exitLines s sp, storeInFlight s1 sp.core x = false ∧ unread s1 s1.cur.uid (fun y => y == x) = [] ∧
      atomicsOn s1 s1.cur.uid x = false) :
    s1.cur = s.cur ∧ (dropLanes s1 s1.cur.uid m).cur = s.cur ∧ ∃ sp', spanOf (dropLanes s1 s1.cur.uid m) s1.cur.uid = some sp' ∧
      ∀ k, exitLanes s sp l m k = k (dropLanes s1 s1.cur.uid m)
        ((exitLines s sp).foldl (raiseFloor (dropLanes s1 s1.cur.uid m)) sp') := by
  have hk : Keeps s s1 := by
    rw [hs1]
    exact (Keeps.refl s).foldl (fun _ _ h2 => h2.writeBack)
  have hspans : SpansKept s s1 := by
    rw [hs1]
    exact (SpansKept.refl s).foldl (fun _ _ h2 => h2.writeBack)
  have hcur : (dropLanes s1 s1.cur.uid m).cur = s1.cur := ((Keeps.refl s1).dropLanes).cur
  obtain ⟨sp', hsp'⟩ := HasSpan.dropLanes m ⟨sp, spanOf_acting h hspans hk.cur⟩
  refine ⟨hk.cur, hcur.trans hk.cur, sp', hsp', fun k => ?_⟩
  have hnone : (exitLines s sp).any (fun x => storeInFlight s1 sp.core x || !(unread s1 s1.cur.uid (fun y => y == x)).isEmpty ||
      atomicsOn s1 s1.cur.uid x) = false := by
    rw [List.any_eq_false]
    intro x hx
    obtain ⟨hstore, hread, hatom⟩ := hfree x hx
    simp [hstore, hread, hatom]
  have hempty : sp.regs.isEmpty = false := by simpa using hregs
  unfold exitLanes
  refine (if_neg (by rw [hbad]; exact Bool.false_ne_true)).trans ((if_neg (by simp [hdet])).trans
    ((if_neg (by rw [hdet]; exact Bool.false_ne_true)).trans ((if_neg (by rw [hempty]; exact Bool.false_ne_true)).trans ?_)))
  refine (afterArrive_of_done hdone _).trans ?_
  dsimp only
  rw [← hs1]
  refine (if_neg (by rw [hnone]; exact Bool.false_ne_true)).trans ?_
  rw [hcur, hsp']

end

/-- Settles O28: the lanes leave at the registered barriers, or as an entry of the commit buffer, and then the span is retired. -/
theorem spanAndLaneExit : Obligations.SpanAndLaneExit := by
  refine ⟨fun s sp l h hbad => ⟨fun hdet hroom => ?sexitBuffered, fun hdet hregs => ?sexitPlain, fun hdet hregs hdone s1 hs1 hfree => ?sexitDrops⟩,
    fun s sp l h hbad => ?vexit⟩
  case sexitBuffered =>
    rw [exec_sexit, execSexit, withLaunch_actingIn h, exitLanes_buffered hbad hdet hroom]
    rfl
  case sexitPlain =>
    rw [exec_sexit, execSexit, withLaunch_actingIn h, exitLanes_unregistered hbad hdet hregs]
  case sexitDrops =>
    obtain ⟨hc1, hcur, sp', hsp', hexit⟩ := exitLanes_dropped (m := sp.live) h hbad hdet hregs hdone hs1 hfree
    refine ⟨sp', hsp', ?_⟩
    rw [exec_sexit, execSexit, withLaunch_actingIn h, hexit, hcur, hc1]
  case vexit =>
    intro left done
    have hrun : exec .vexit s = if s.cur.mask = 0 then commitL s sp
        else exitLanes s sp l s.cur.mask fun s' x =>
          let sp := { advancePass x with live := x.live &&& ~~~ s.cur.mask, am := x.am &&& ~~~ s.cur.mask }
          let s := putSpan s' s'.cur.uid sp
          .next (if sp.live = 0 then retireSpan s s.cur.uid else s) := by
      rw [exec_vexit, execVexit, lanePass_ready h]
    refine ⟨fun hm => ?none, fun hm hdet hroom => ?buffered, fun hm hdet hregs => ?plain, fun hm hdet hregs hdone s1 hs1 hfree => ?drops⟩
    case none => rw [hrun, if_pos hm]; rfl
    case buffered => rw [hrun, if_neg hm, exitLanes_buffered hbad hdet hroom]; rfl
    case plain => rw [hrun, if_neg hm, exitLanes_unregistered hbad hdet hregs]; rfl
    case drops =>
      obtain ⟨hc1, hcur, sp', hsp', hexit⟩ := exitLanes_dropped (m := s.cur.mask) h.1 hbad hdet hregs hdone hs1 hfree
      refine ⟨sp', hsp', ?_⟩
      have hput : ∀ x, (putSpan (dropLanes s1 s1.cur.uid s.cur.mask) s.cur.uid x).cur = s.cur := fun _ => hcur
      rw [hrun, if_neg hm, hexit]
      dsimp only
      rw [hcur, hput]

end Sys2Proof.Machine

/-! Settlements of the family 'other': synchronisation, engine commands, pushes (R171 to R189, R252 to R255, R267 to R272). -/

namespace Sys2Proof.Machine

section
variable {s : State} {sp : Span} {l : Launch}

/-- The scopes of a fence, an `acq` or a `rel`: 1 to 5 (R252, R255). -/
theorem scope_ok {scope : BitVec 3} (h0 : scope ≠ 0) (h6 : scope ≠ 6) (h7 : scope ≠ 7) : ¬ (scope = 0 ∨ scope = 6 ∨ scope = 7) :=
  fun h => h.elim h0 (fun h => h.elim h6 h7)

theorem noLoads {u : Nat} (h : ∀ x ∈ s.loads, x.2.uid ≠ u) : ¬ s.loads.any (fun x => x.2.uid == u) = true := by
  rw [Bool.not_eq_true, List.any_eq_false]
  exact fun x hx he => h x hx (by simpa using he)

/-- `dropc` with its operands named. -/
theorem exec_dropc_range {a b : BitVec 6} {base len : Nat} (h : ActingIn s sp l) (hr : ScalarsReady sp [a.toNat, b.toNat])
    (hacq : sp.acquiring = none) (hbase : base = (sRead sp a.toNat).toNat) (hlen : len = (sRead sp b.toNat).toNat % 2 ^ 32) :
    exec (.dropc a b) s =
      if len = 0 then commitS s sp
      else if base < localLo ∧ quadLo < base + len then trapS s sp l causeBarrier sp.am base
      else if vaTop < base + len then trapS s sp l causePageFault sp.am base
      else if l.det then
        if ownsBytes s sp l (fun _ => true) base len then
          bufferAll s sp [.dropc base len] fun sp => commitS s sp
        else trapS s sp l causeOwnership sp.am base
      else if s.loads.any (fun x => x.2.uid == s.cur.uid) then stall s
      else afterStores s sp 4 fun s =>
        let r := newReq s { Req.init with
          core := sp.core, uid := s.cur.uid, kind := .dropc, va := base, a := base + len, b := l.number, c := l.root,
          stage := .home }
        commitS r.1 sp := by
  rw [exec_dropc, execDropc, withLaunch_actingIn h, needS_ready hr, ← hbase, ← hlen]
  exact afterAcquire_none hacq _

/-- `rel` once its home has accepted its request: the bound dirty lines go first, then the marker covers the span's writes (R252, R265). -/
theorem execRel_accepted {a : BitVec 6} {scope : BitVec 3} {i : Nat} (h : ActingIn s sp l) (h0 : scope ≠ 0) (h6 : scope ≠ 6)
    (h7 : scope ≠ 7) (hacq : sp.acquiring = none) (hr : ScalarsReady sp [a.toNat]) (hpend : sp.pend = .atomic [i])
    (hans : (reqOf s i).stage = .answered) (hgood : (reqOf s i).bad = false) :
    let obj := sRead sp a.toNat
    let rg := boundTo sp l obj
    let wide := decide (2 ≤ scope.toNat)
    let bound := fun (ws : List Writer) => ws.any (fun w => lineIn rg w.va)
    let t := if wide then ((coreOf s sp.core).l1.filter (fun x => x.dirty != 0 && bound x.writers)).foldl
        (fun t x => writeBack t sp.core x.line) s else s
    let mine := (unperformed t s.cur.uid).filter (fun j => wide && bound (reqOf t j).writers)
    let cov := mine ++ unread t s.cur.uid (fun _ => true) ++ (t.reqs.filter (fun p =>
      p.2.kind == .atomic && p.2.uid == s.cur.uid && lineIn rg (p.2.va / 128 * 128))).map Prod.fst
    let p := publish t s.cur.uid
    execRel a scope s = commitS (putReq p.1 i { reqOf p.1 i with
      stage := .quad, covered := cov, writers := [writerOf t s.cur.uid sp.core 0 obj.toNat], scope := scope.toNat
      lost := sp.lost.any (lineIn rg), clock := bindClock p.2 rg }) { sp with pend := .none } := by
  intro obj rg wide bound t mine cov p
  rw [execRel, withLaunch_actingIn h, needS_ready hr]
  refine (if_neg (scope_ok h0 h6 h7)).trans ((afterAcquire_none hacq _).trans ?_)
  rw [hpend]
  refine (if_neg ?_).trans ((if_neg ?_).trans rfl)
  · simp [hans]
  · simp [hgood]

end

/-- Settles O12: the path of each that its hypotheses leave. -/
theorem synchronisation : Obligations.Synchronisation := by
  refine ⟨fun a b s sp l base len h hr hacq hbase hlen => ⟨fun h0 => ?dropNone, fun h0 hwin htop => ⟨fun hdet hloads hdone => ?drop,
    fun hdet hown hroom => ?dropBuffered⟩⟩,
    fun d a b scope s s' sp l h => ⟨fun h0 h6 h7 => ⟨fun hdet => ?fenceDet, fun hdet hloads hcoll hdone => ?fence⟩,
      fun hr pl ha hb hd hobj => ⟨fun hlen => ?unbind, fun hlen hroom => ?bind⟩⟩,
    fun d a scope s s' sp l pa h h0 h6 h7 hacq hr hobj => ⟨fun hdet r hrr q hq => ?acqDet, fun hdet line hline t ht hask hahead => ?acq⟩,
    fun a scope s s' sp l pa i h h0 h6 h7 hacq hr => ?rel⟩
  case dropNone =>
    rw [exec_dropc_range h hr hacq hbase hlen, if_pos h0]
    rfl
  case drop =>
    rw [exec_dropc_range h hr hacq hbase hlen, if_neg h0, if_neg hwin, if_neg (Nat.not_lt.2 htop),
      if_neg (by rw [hdet]; exact Bool.false_ne_true), if_neg (noLoads hloads), afterStores_of_done hdone]
    rfl
  case dropBuffered =>
    rw [exec_dropc_range h hr hacq hbase hlen, if_neg h0, if_neg hwin, if_neg (Nat.not_lt.2 htop), if_pos hdet, if_pos hown,
      bufferAll_room hroom]
    rfl
  case fenceDet =>
    rw [exec_fence, execFence, withLaunch_actingIn h]
    refine (if_neg (scope_ok h0 h6 h7)).trans ((if_pos hdet).trans ?_)
    have hc : (if 2 ≤ scope.toNat then closeWindows s sp.core (fun _ => true) else s).cur = s.cur :=
      ((Keeps.refl s).closeWindows.ite (Keeps.refl s)).cur
    rw [commitS, hc]
  case fence =>
    rw [exec_fence, execFence, withLaunch_actingIn h]
    refine (if_neg (scope_ok h0 h6 h7)).trans ((if_neg (by rw [hdet]; exact Bool.false_ne_true)).trans
      ((if_neg (noLoads hloads)).trans ((if_neg ?_).trans ((afterStores_of_done hdone _).trans ?_))))
    · exact fun hc => by rw [hcoll hc.1] at hc; exact Bool.false_ne_true hc.2
    · have hc : (orderFence (acquireDrop s sp.core (decide (2 ≤ scope.toNat))) s.cur.uid sp.core scope.toNat).cur = s.cur :=
        ((Keeps.refl s).acquireDrop.orderFence).cur
      dsimp only
      rw [commitS, hc]
  case unbind =>
    rw [exec_rbind, execRbind, withLaunch_actingIn h, needS_ready hr]
    refine (if_neg (by omega)).trans ?_
    rw [hobj]
    exact if_pos hlen
  case bind =>
    rw [exec_rbind, execRbind, withLaunch_actingIn h, needS_ready hr]
    refine (if_neg (by omega)).trans ?_
    rw [hobj]
    exact (if_neg hlen).trans (if_neg (Nat.not_le.2 hroom))
  case acqDet =>
    subst hrr hq
    rw [exec_acq, execAcq, withLaunch_actingIn h, needS_ready hr]
    refine (if_neg (scope_ok h0 h6 h7)).trans ((afterAcquire_none hacq _).trans ?_)
    rw [hobj]
    exact if_pos hdet
  case acq =>
    subst hline ht
    intro rs wide q r t2
    rw [exec_acq, execAcq, withLaunch_actingIn h, needS_ready hr]
    refine (if_neg (scope_ok h0 h6 h7)).trans ((afterAcquire_none hacq _).trans ?_)
    rw [hobj]
    refine (if_neg (by rw [hdet]; exact Bool.false_ne_true)).trans ((if_neg ?_).trans rfl)
    rw [hask, hahead]
    exact Bool.false_ne_true
  case rel =>
    intro obj rg
    refine ⟨fun hdet hpend hobj hroom => ?buffered, fun hpend hans hgood => ?accepted⟩
    case buffered =>
      rw [exec_rel, execRel, withLaunch_actingIn h, needS_ready hr]
      refine (if_neg (scope_ok h0 h6 h7)).trans ((afterAcquire_none hacq _).trans ?_)
      rw [hpend]
      dsimp only
      rw [hobj]
      exact (if_pos hdet).trans (bufferAll_room hroom)
    case accepted =>
      intro wide bound t mine cov p
      rw [exec_rel]
      refine (execRel_accepted h h0 h6 h7 hacq hr hpend hans hgood).trans ?_
      have hc : t.cur = s.cur := Keeps.cur (Keeps.ite ((Keeps.refl s).foldl fun _ _ h2 => h2.writeBack) (Keeps.refl s))
      show Host.Outcome.next (putSpan _ t.cur.uid _) = _
      rw [hc]

end Sys2Proof.Machine

namespace Sys2Proof.Machine

/-! ### Engine commands at their commit (R171 to R189) -/

section
variable {s : State} {sp : Span} {l : Launch} {q : Nat} {own : Bool} {bar : Option Word64} {rows : List (Nat × Nat)} {e : Cmd}

/-- A command without a finding, whose barrier, slots and queue allow it, enters its queue or the commit buffer. -/
theorem engineCommit_ready (h : engineReady s sp l q own bar rows e) :
    engineCommit s sp l q false own bar [] rows e = .next (engineCommitted s sp l q bar e) := by
  obtain ⟨hlanes, hbar, hplain, hdet⟩ := h
  unfold engineCommit
  refine (if_neg (not_not_intro hlanes)).trans ((if_neg Bool.false_ne_true).trans ?_)
  rw [List.find?_nil, hbar]
  by_cases hd : l.det = true
  · obtain ⟨howned, hroom⟩ := hdet hd
    have hrows : rows.find? (fun r => !ownsBytes s sp l (fun acc => !acc) r.1 r.2) = none := by
      rw [List.find?_eq_none]
      intro r hr
      rw [howned r hr]
      exact Bool.false_ne_true
    refine (if_pos hd).trans ?_
    rw [hrows]
    exact (bufferAll_room hroom).trans (congrArg Host.Outcome.next (if_pos hd).symm)
  · obtain ⟨hslots, hqueue⟩ := hplain (Bool.not_eq_true _ ▸ hd)
    refine (if_neg hd).trans ?_
    split
    · next c hc => exact absurd (hc.symm.trans hslots) (Option.some_ne_none c)
    · exact (if_neg (by rw [hqueue]; exact Bool.false_ne_true)).trans (congrArg Host.Outcome.next (if_neg hd).symm)

theorem flatMap_nil {α β : Type} {xs : List α} {f : α → List β} (h : ∀ x ∈ xs, f x = []) : xs.flatMap f = [] := by
  rw [List.flatMap_eq_nil_iff]
  exact h

/-- A copy within its limits, without a finding (R186 to R188). -/
theorem copyOp_free {slot counted : Bool} {m : BitVec 2} {a b c : BitVec 6} {qn : BitVec 2} (h : ActingIn s sp l)
    (hr : ScalarsReady sp [a.toNat, b.toNat, c.toNat, c.toNat + 1, c.toNat + 2, c.toNat + 3]) :
    let r := fun i => sRead sp (c.toNat + i)
    let sb := sRead sp b.toNat
    let e := copyCmd m.toNat slot (sRead sp a.toNat) sb (r 1) (r 2) (r 3)
    let bar := if r 0 = 0 then none else some (r 0)
    let rows := if slot then [] else (copyRows (dstAddr e) e).filter (fun x => !inLocal x.1)
    copyIllegal m.toNat slot counted sb (r 0) (r 1) (r 2) (r 3) e = false →
    rowsFree s sp l (copyRows (srcAddr e) e) → (slot = false → rowsFree s sp l (copyRows (dstAddr e) e)) →
    (counted = true → sb.toNat % 128 = 0 ∧ e.len0 % 128 = 0 ∧ e.dstRow % 128 = 0 ∧ e.dstPlane % 128 = 0 ∧
      ∀ x ∈ copyRows (dstAddr e) e, inLocal x.1 = false) →
    copyOp slot counted m a b c qn s = engineCommit s sp l qn.toNat false false bar [] rows e := by
  intro r sb e bar rows hlegal hsrc hdst hcount
  rw [copyOp, withLaunch_actingIn h, needS_ready hr]
  extract_lets dims e' illegal src dst mis finds
  have hil : illegal = false := hlegal
  have hmis : mis = false := by
    cases hcd : counted with
    | false => simp only [mis, hcd, Bool.false_and]
    | true =>
      obtain ⟨h1, h2, h3, h4, -⟩ := hcount hcd
      have hfour : (decide (sb.toNat % 128 ≠ 0) || decide (e.len0 % 128 ≠ 0) || decide (e.dstRow % 128 ≠ 0) ||
          decide (e.dstPlane % 128 ≠ 0)) = false := by
        rw [decide_eq_false (not_not_intro h1), decide_eq_false (not_not_intro h2), decide_eq_false (not_not_intro h3),
          decide_eq_false (not_not_intro h4)]
        rfl
      exact (congrArg (counted && ·) hfour).trans (Bool.and_false _)
  have hfinds : finds = [] := by
    show (if illegal then [] else _) = _
    rw [hil, if_neg Bool.false_ne_true, List.append_eq_nil_iff]
    refine ⟨flatMap_nil hsrc, flatMap_nil fun x hx => ?_⟩
    cases hs : slot with
    | true =>
      rw [show dst = [] from if_pos hs] at hx
      exact absurd hx List.not_mem_nil
    | false =>
      rw [show dst = copyRows (dstAddr e) e from if_neg (by rw [hs]; exact Bool.false_ne_true)] at hx
      rw [hmis, hdst hs x hx, List.nil_append]
      refine if_neg ?_
      cases hcd : counted with
      | false => simp
      | true =>
        obtain ⟨-, -, -, -, hout⟩ := hcount hcd
        simp [hout x hx]
  have hrows : dst.filter (fun x => !inLocal x.1) = rows := by
    show (if slot then [] else copyRows (dstAddr e) e).filter _ = if slot then [] else _
    cases slot <;> rfl
  rw [hfinds, hil, hrows]

/-- An `mma` whose format slot suits it. -/
theorem mmaOp_suited {n : BitVec 2} {k : BitVec 3} {a : BitVec 6} {z p r : BitVec 1} {ta tb : BitVec 4} (h : ActingIn s sp l)
    (hr : ScalarsReady sp [a.toNat]) (hf : mmaFormats (fslotOf l k.toNat) = true) :
    mmaOp q n k a z p ta r tb s = engineCommit s sp l q false true (if a = 63 then none else some (sRead sp a.toNat)) [] []
      { Cmd.init with kind := .mma, acc := n.toNat, fslot := fslotOf l k.toNat, zero := z == 1, slotA := ta.toNat,
                      slotB := tb.toNat, colA := p == 1, colB := r == 1 } := by
  rw [mmaOp, withLaunch_actingIn h, needS_ready hr]
  dsimp only
  rw [hf]
  rfl

/-- What a slot command comes to at its slot. -/
def slotEnd (s : State) (sp : Span) (l : Launch) (wait : Pending) : SlotRes → Res
  | .bad => trapS s sp l causeSlot sp.am 0
  | .wait => pend s sp wait
  | .ok s => .next (slotCommitted s sp l)

/-- A slot command of live lanes, outside a deterministic launch. -/
theorem slotOp_plain {x : Buffered} {wait : Pending} {f : State → Span → SlotRes} (h : ActingIn s sp l) (hlanes : sp.am = sp.live)
    (hdet : l.det = false) {r : SlotRes} (hf : f s sp = r) : slotOp x wait f s = slotEnd s sp l wait r := by
  subst hf
  rw [slotOp, withLaunch_actingIn h]
  show (if sp.am ≠ sp.live then _ else if l.det = true then _ else slotEnd s sp l wait (f s sp)) = _
  rw [if_neg (not_not_intro hlanes), if_neg (by rw [hdet]; exact Bool.false_ne_true)]

theorem slotOp_buffered {x : Buffered} {wait : Pending} {f : State → Span → SlotRes} (h : ActingIn s sp l) (hlanes : sp.am = sp.live)
    (hdet : l.det = true) (hroom : sp.buffer.length < 512) :
    slotOp x wait f s = .next (putSpan s s.cur.uid (advance (buffered s sp x))) := by
  rw [slotOp, withLaunch_actingIn h]
  exact (if_neg (not_not_intro hlanes)).trans ((if_pos hdet).trans (bufferAll_room hroom))

end

/-- Settles O16: an engine command without a finding commits through `engineCommit`, a slot command through its slot's state. -/
theorem engineCommands : Obligations.EngineCommands := by
  refine ⟨fun m a b c q s sp l h hr p hp => ?copy, fun n k a b c z p r ta tb q s sp l h => ⟨fun hr hf => ?mma, fun hr => ?acst⟩,
    fun slot rd m s sp l h hlanes => ?slots⟩
  case copy =>
    intro r sb rows e bar hlegal hsrc hdst hcount hready
    simp only [List.mem_cons, List.not_mem_nil, or_false] at hp
    obtain rfl | rfl | rfl := hp
    · rw [exec_copy, execCopy, copyOp_free h hr hlegal hsrc hdst hcount]
      exact engineCommit_ready hready
    · rw [exec_copySlot, execCopySlot, copyOp_free h hr hlegal hsrc hdst hcount]
      exact engineCommit_ready hready
    · rw [exec_copyReaders, execCopyReaders, copyOp_free h hr hlegal hsrc hdst hcount]
      exact engineCommit_ready hready
  case mma =>
    intro bar e
    refine ⟨fun hready => ?_, fun hready => ?_⟩
    · rw [exec_mma, execMma, mmaOp_suited h hr hf]
      exact engineCommit_ready hready
    · rw [exec_mmaVia, execMmaVia, mmaOp_suited h hr hf]
      exact engineCommit_ready hready
  case acst =>
    intro f o x wb bar d e hb hfa hfb hfs hsel hpitch hwide hd hfree hready
    rw [exec_acst, execAcst, withLaunch_actingIn h, needS_ready hr]
    extract_lets hsel' pitch init e' fmtOk illegal finds rows'
    have hfmt : fmtOk = true := by
      show ((fsA f == 10) && [8, 9, 10, 12, 13].contains (fsB f) && (fsScale f == 0)) = true
      rw [hfa, hfb, hfs]
      rfl
    have hill : illegal = false := by
      show ((((b.getLsbD 0 || !fmtOk) || (!x.getLsbD 35 && fieldOf x 36 4 != 0)) || decide (fieldOf x 40 24 % wb ≠ 0)) ||
        decide (fieldOf x 40 24 < 128 * wb)) = false
      rw [hb, hfmt, decide_eq_false (not_not_intro hpitch), decide_eq_false (Nat.not_lt.2 hwide)]
      obtain hs | hz := hsel
      · rw [hs]; rfl
      · rw [hz]; simp
    have hfinds : finds = [] := by
      show (if illegal then [] else _) = _
      rw [hill, if_neg Bool.false_ne_true, decide_eq_false (not_not_intro hd)]
      exact hfree _ (List.mem_singleton_self _)
    rw [hill, hfinds]
    exact engineCommit_ready hready
  case slots =>
    intro c x
    refine ⟨fun hdet => ⟨fun hst => ?claim, fun hst => ?claimed, fun hst huse t ht => ?free, fun hst hp => ?notClaimed,
      fun hfits r hr => ?qfence⟩, fun hdet hroom p hp => ?buffered⟩
    case claim =>
      have hf : claimSlot s sp slot.toNat rd.toNat = .ok (putCtx s sp.core sp.half (putSlot c slot.toNat { x with
          st := .claimed, count := rd.toNat, owner := sp.deck, release := false
          number := ((deckOf s sp.deck).map (fun d => numberOf s d.launch)).getD 0 })) := by
        unfold claimSlot
        dsimp only
        rw [show (slotOf (ctxOf s sp.core sp.half) slot.toNat).st = .unclaimed from hst]
      rw [exec_tclaim, execTclaim, slotOp_plain h hlanes hdet hf]
      rfl
    case claimed =>
      have hf : claimSlot s sp slot.toNat rd.toNat = .bad := by
        unfold claimSlot
        dsimp only
        rw [show (slotOf (ctxOf s sp.core sp.half) slot.toNat).st = .claimed from hst]
      rw [exec_tclaim, execTclaim, slotOp_plain h hlanes hdet hf]
      rfl
    case free =>
      subst ht
      have hf : freeSlot s sp slot.toNat = .ok (releaseSlot s sp.core sp.half slot.toNat) := by
        unfold freeSlot
        exact (if_neg (fun hn => hn.1 hst)).trans (if_neg (by rw [show slotInUse (ctxOf s sp.core sp.half) slot.toNat = false from huse]; exact Bool.false_ne_true))
      rw [exec_trel, execTrel, slotOp_plain h hlanes hdet hf]
      have hrel : releaseSlot s sp.core sp.half slot.toNat =
          putCtx (if x.count = 0 then s else recUnderread s (sp.core / 32) (sp.core % 32) slot.toNat x.count 4 x.number) sp.core sp.half
            (putSlot c slot.toNat { x with st := .unclaimed, count := 0, release := false }) := by
        unfold releaseSlot
        dsimp only
        by_cases hc : x.count = 0
        · rw [if_pos hc]
        · rw [if_neg hc]
          rfl
      rw [hrel]
      rfl
    case notClaimed =>
      have hf : freeSlot s sp slot.toNat = .bad := by
        unfold freeSlot
        exact if_pos ⟨hst, hp⟩
      rw [exec_trel, execTrel, slotOp_plain h hlanes hdet hf]
      rfl
    case qfence =>
      subst hr
      rw [exec_qfence, execQfence, withLaunch_actingIn h]
      exact (if_neg (not_not_intro hlanes)).trans ((if_neg (by rw [hdet]; exact Bool.false_ne_true)).trans
        (if_neg (by rw [hfits]; decide)))
    case buffered =>
      simp only [List.mem_cons, List.not_mem_nil, or_false] at hp
      obtain rfl | rfl | rfl := hp
      · rw [exec_tclaim, execTclaim, slotOp_buffered h hlanes hdet hroom]
      · rw [exec_trel, execTrel, slotOp_buffered h hlanes hdet hroom]
      · rw [exec_qfence, execQfence, withLaunch_actingIn h]
        exact (if_neg (not_not_intro hlanes)).trans ((if_pos hdet).trans (bufferAll_room hroom))

end Sys2Proof.Machine

namespace Sys2Proof.Machine

/-! ### Collectives at their commit (R346 to R348), pushes and contributions (R274, R287) -/

section
variable {s t : State} {sp : Span} {l : Launch} {u : Nat}

theorem ctxs_writeBack (s : State) (g line : Nat) : (writeBack s g line).ctxs = s.ctxs := by
  unfold writeBack
  dsimp only
  split
  · rfl
  · split <;> rfl

theorem ctxs_writeBackOf (s : State) (g u : Nat) (p : Nat → Bool) : (writeBackOf s g u p).ctxs = s.ctxs := by
  unfold writeBackOf
  generalize (coreOf s g).l1.filter (fun x => dirtyFor s u x && p x.line) = lines
  induction lines generalizing s with
  | nil => rfl
  | cons a as ih => exact (ih _).trans (ctxs_writeBack s g a.line)

theorem queueFull_of_ctxs (h : t.ctxs = s.ctxs) (g : Nat) (half : Bool) (q : Nat) : queueFull t g half q = queueFull s g half q := by
  unfold queueFull ctxOf
  rw [h]

theorem SpansKept.collEnter {s₀ : State} (n : Nat) {k : Nat} : ∀ {s : State}, SpansKept s₀ s → SpansKept s₀ (collEnter n s k) := by
  induction n with
  | zero => exact fun h => h
  | succ n ih =>
    intro s h
    unfold Machine.collEnter
    split
    · exact h
    · split
      · exact h
      · exact SpansKept.ite (ih (s := putColl ..) h) h

/-- What a `coll` of the deck's form asks of it: the same operation, word, slot and barrier; a first one asks its slot (R348). -/
def CollFits (s : State) (sp : Span) (d : Deck) (e : Cmd) : Prop :=
  match d.colls.find? (fun f => f.k == sp.colls) with
  | some f => f.cmd.op = e.op ∧ f.sa = e.word ∧ f.slot = e.slotA ∧ f.cmd.bar = e.bar
  | none => cmdBad (ctxOf s sp.core sp.half) e = none

/-- A `coll` that fits forms or joins the deck's entry, and the span has one collective more. -/
theorem collJoin_fits {d : Deck} {e : Cmd} (hd : deckOf s sp.deck = some d) (hfull : queueFull s d.core d.half 5 = false)
    (hfits : CollFits s sp d e) : ∃ t, collJoin s u sp e = .ok t ∧ spanOf t u = some { sp with colls := sp.colls + 1 } := by
  have hctxs : (writeBackOf s sp.core u (fun _ => true)).ctxs = s.ctxs := ctxs_writeBackOf ..
  have hq : queueFull (writeBackOf s sp.core u (fun _ => true)) d.core d.half 5 = false := (queueFull_of_ctxs hctxs ..).trans hfull
  have hend : ∀ (w : State) (k : Deck), spanOf (collEnter 16 (putSpan (putDeck w sp.deck k) u { sp with colls := sp.colls + 1 }) sp.deck) u =
      some { sp with colls := sp.colls + 1 } :=
    fun w k => (SpansKept.spanOf (SpansKept.collEnter 16 (SpansKept.refl _)) u).trans (spanOf_putSpan_same ..)
  unfold CollFits at hfits
  unfold collJoin
  rw [hd]
  dsimp only
  split
  · next f hf =>
    rw [hf] at hfits
    obtain ⟨hop, hsa, hslot, hbar⟩ := hfits
    rw [if_neg (by simp [hop, hsa, hslot, hbar]), hq, Bool.and_false, if_neg Bool.false_ne_true]
    exact ⟨_, rfl, hend ..⟩
  · next hf =>
    rw [hf] at hfits
    have hc : ctxOf (writeBackOf s sp.core u (fun _ => true)) sp.core sp.half = ctxOf s sp.core sp.half := by
      unfold ctxOf
      rw [hctxs]
    rw [hc, show cmdBad (ctxOf s sp.core sp.half) e = none from hfits]
    dsimp only
    rw [hq, Bool.and_false, if_neg Bool.false_ne_true]
    exact ⟨_, rfl, hend ..⟩

/-- An undo entry of a command changes nothing of the span but its count of entries. -/
theorem undoCmd_span (s : State) (sp : Span) (l : Launch) : ∃ n, (undoCmd s sp l).2 = { sp with undo := n } := by
  unfold undoCmd
  split
  · exact ⟨_, rfl⟩
  · exact ⟨sp.undo, rfl⟩

/-- The command of a `coll` (R346). -/
def collCmd (s : State) (sp : Span) (d : Deck) (op : Nat) (a : BitVec 6) (slot : BitVec 4) (c : BitVec 6) : Cmd :=
  { Cmd.init with
    kind := .coll, uid := s.cur.uid, deck := sp.deck, bar := if c = 63 then none else some (sRead sp c.toNat), slotA := slot.toNat, op := op,
    word := sRead sp a.toNat, launch := d.launch }

/-- What a `coll` comes to, once its deck's entry has been looked at. -/
def collEnd (s : State) (sp : Span) (l : Launch) (u : Nat) : CollRes → Res
  | .bad x => trapS s sp l x sp.am 0
  | .wait => stall s
  | .ok s => match spanOf s u with
    | none => .fault .notEnabled
    | some sp => commitS (undoCmd s sp l).1 (undoCmd s sp l).2

theorem collOp_ready {d : Deck} {op : Nat} {a c : BitVec 6} {slot : BitVec 4} (h : ActingIn s sp l) (hlanes : sp.am = sp.live)
    (hr : ScalarsReady sp [a.toNat, c.toNat]) (hd : deckOf s sp.deck = some d)
    (hbar : barFinds s sp l false (if c = 63 then none else some (sRead sp c.toNat)) = .ok []) :
    collOp op a slot c s =
      if l.det then bufferAll s sp [.coll (collCmd s sp d op a slot c) (sRead sp a.toNat)] fun sp1 =>
        commitS (undoCmd s sp l).1 { sp1 with undo := (undoCmd s sp l).2.undo }
      else collEnd s sp l s.cur.uid (collJoin s s.cur.uid sp (collCmd s sp d op a slot c)) := by
  rw [collOp, withLaunch_actingIn h, needS_ready hr]
  refine (if_neg (not_not_intro hlanes)).trans ?_
  rw [hbar, hd]
  rfl

theorem collOp_buffered {d : Deck} {op : Nat} {a c : BitVec 6} {slot : BitVec 4} (h : ActingIn s sp l) (hlanes : sp.am = sp.live)
    (hr : ScalarsReady sp [a.toNat, c.toNat]) (hd : deckOf s sp.deck = some d)
    (hbar : barFinds s sp l false (if c = 63 then none else some (sRead sp c.toNat)) = .ok []) (hdet : l.det = true)
    (hroom : sp.buffer.length < 512) : collOp op a slot c s = .next (putSpan (undoCmd s sp l).1 (undoCmd s sp l).1.cur.uid
      (advance { buffered s sp (.coll (collCmd s sp d op a slot c) (sRead sp a.toNat)) with undo := (undoCmd s sp l).2.undo })) := by
  rw [collOp_ready h hlanes hr hd hbar, if_pos hdet, bufferAll_room hroom]
  rfl

theorem collOp_joins {d : Deck} {op : Nat} {a c : BitVec 6} {slot : BitVec 4} (h : ActingIn s sp l) (hlanes : sp.am = sp.live)
    (hr : ScalarsReady sp [a.toNat, c.toNat]) (hd : deckOf s sp.deck = some d)
    (hbar : barFinds s sp l false (if c = 63 then none else some (sRead sp c.toNat)) = .ok []) (hdet : l.det = false)
    (hfull : queueFull s d.core d.half 5 = false) (hfits : CollFits s sp d (collCmd s sp d op a slot c)) :
    ∃ t sp', collOp op a slot c s = .next (putSpan t s.cur.uid (advance sp')) ∧ sp'.colls = sp.colls + 1 ∧ sp'.spc = sp.spc ∧
      (∀ r, sRead sp' r = sRead sp r) ∧ (∀ r lane, vRead sp' r lane = vRead sp r lane) ∧ sp'.am = sp.am := by
  obtain ⟨t, hjoin, hsp⟩ := collJoin_fits (u := s.cur.uid) hd hfull hfits
  have hk : Keeps s t := Keeps.ofCollResOk (Keeps.refl s).collJoin hjoin
  obtain ⟨n, hundo⟩ := undoCmd_span t { sp with colls := sp.colls + 1 } l
  have hcur : (undoCmd t { sp with colls := sp.colls + 1 } l).1.cur = s.cur := (hk.undoCmd).cur
  refine ⟨(undoCmd t { sp with colls := sp.colls + 1 } l).1, { { sp with colls := sp.colls + 1 } with undo := n }, ?_, rfl, rfl,
    fun _ => rfl, fun _ _ => rfl, rfl⟩
  rw [collOp_ready h hlanes hr hd hbar, if_neg (by rw [hdet]; exact Bool.false_ne_true), hjoin, collEnd, hsp]
  dsimp only
  rw [commitS, hundo, hcur]

/-- Beyond its core, a span's stores are done when all are performed. -/
theorem storesDone_wide (h : allPerformed s sp s.cur.uid = true) : StoresDone s sp 4 := by
  unfold StoresDone
  rw [if_neg (by decide)]
  exact h

/-- Addresses below the windows are in neither (R213). -/
theorem below_windows {a : Nat} (h : a < quadLo) : inLocal a = false ∧ inQuad a = false ∧ ¬ vaTop ≤ a := by
  have hq : quadLo < localLo := by decide
  have ht : localLo < vaTop := by decide
  refine ⟨?_, ?_, by omega⟩
  · rw [inLocal, decide_eq_false (by omega), Bool.false_and]
  · rw [inQuad, decide_eq_false (by omega), Bool.false_and]

end

/-- Settles O17: each passes its checks, and its effect is made or buffered. -/
theorem collectivesAndPushes : Obligations.CollectivesAndPushes := by
  refine ⟨fun a c slot s sp l d h hlanes hr hd => ?coll, fun d a p s s' sp l pa x bar h hlanes hr halign hlow hx => ?cpush,
    fun a v s sp l pa h hlanes hr hfield hv hvf hbad hlow hx hhbm => ?rsend⟩
  case coll =>
    intro bar hbar hfull p hp
    simp only [List.mem_cons, List.not_mem_nil, or_false] at hp
    obtain rfl | rfl | rfl | rfl := hp <;>
      exact ⟨fun hdet hroom r hrr => hrr ▸ collOp_buffered h hlanes hr hd hbar hdet hroom,
        fun hdet hfits => collOp_joins h hlanes hr hd hbar hdet hfull hfits⟩
  case cpush =>
    obtain ⟨hlocal, hquad, htop⟩ := below_windows hlow
    have hrange : ¬ (vaTop ≤ (sRead sp a.toNat).toNat ∨ inLocal (sRead sp a.toNat).toNat = true ∨ inQuad (sRead sp a.toNat).toNat = true) := by
      rw [hlocal, hquad]
      exact fun h => h.elim htop (fun h => h.elim Bool.false_ne_true Bool.false_ne_true)
    refine ⟨fun hdet hlost hdone hpush => ?_, fun hdet hroom => ?_⟩
    · rw [exec_cpush, execCpush, withLaunch_actingIn h, needS_ready hr]
      refine (if_neg (not_not_intro hlanes)).trans ((if_neg (not_not_intro halign)).trans ((if_neg hrange).trans ?_))
      dsimp only
      rw [hx]
      refine (if_neg (by rw [hdet]; exact Bool.false_ne_true)).trans ((afterStores_of_done (storesDone_wide hdone) _).trans ?_)
      rw [hlost]
      refine (if_neg (by decide)).trans ?_
      rw [hpush]
      rfl
    · intro ws n
      rw [exec_cpush, execCpush, withLaunch_actingIn h, needS_ready hr]
      refine (if_neg (not_not_intro hlanes)).trans ((if_neg (not_not_intro halign)).trans ((if_neg hrange).trans ?_))
      dsimp only
      rw [hx]
      exact (if_pos hdet).trans (bufferAll_room hroom)
  case rsend =>
    obtain ⟨hlocal, hquad, -⟩ := below_windows hlow
    have hpoison : (bitsOf sp.live).any (fun i => sp.badV.contains (32 * v.toNat + i)) = false := by
      rw [List.any_eq_false]
      intro i hi
      simpa using hbad i hi
    have hrun : exec (.rsend a v) s =
        if l.det then bufferAll s sp [.rsend (sRead sp a.toNat) (meshVals sp v.toNat)] fun sp => commitS s sp
        else afterStores s sp 4 fun s =>
          commitS (meshSend s sp.core pa l.root l.key (fieldOf (sRead sp a.toNat) 0 8) (meshVals sp v.toNat)) sp := by
      rw [exec_rsend, execRsend, withLaunch_actingIn h, needS_ready hr]
      refine (if_neg (not_not_intro hlanes)).trans ((if_neg ?_).trans ((if_neg ?_).trans ?_))
      · exact fun h => h.elim (fun h => h hfield) (Nat.not_le.2 hv)
      · rw [hlocal, hquad]
        exact fun h => h.elim Bool.false_ne_true Bool.false_ne_true
      · rw [hx]
        refine (if_neg ?_).trans ((if_neg ?_).trans (if_neg ?_))
        · rw [hhbm]
          decide
        · rw [hvf]
          decide
        · rw [hpoison]
          exact Bool.false_ne_true
    refine ⟨fun hdet hdone => ?_, fun hdet hroom => ?_⟩
    · rw [hrun, if_neg (by rw [hdet]; exact Bool.false_ne_true), afterStores_of_done (storesDone_wide hdone)]
      rfl
    · rw [hrun, if_pos hdet, bufferAll_room hroom]
      rfl

end Sys2Proof.Machine

/-! Settlements of the family 'other': landings, waits, fills and home lines (R106, R128, R167, R191, R193, R217 to R236). -/

namespace Sys2Proof.Machine

section
variable {s : State} {sp : Span} {l : Launch}

/-! ### Dropped lines (R235) -/

theorem dropLine_counted {line : Nat} (reason : Nat) (hc : (homeOf s line).counted = true) (hn : 0 < (homeOf s line).count) :
    homeOf (dropLine s line reason) line =
        { homeOf s line with counted := false, count := 0, tag := 0, pinned := false, data := none } ∧
      (dropLine s line reason).mem = s.mem := by
  unfold dropLine
  dsimp only
  rw [if_pos ⟨hc, hn⟩]
  exact ⟨(homeOf_putHome ..).trans (if_pos rfl), rfl⟩

/-! ### Landings (R191, R248) -/

theorem landDeck_plain {deck g n arrive : Nat} {addr : Word64} {poison : Bool} {c : Clock} {loc : BarLoc}
    (hloc : barLocOf s deck g addr = some loc)
    (hdet : ∀ d l, deckOf s deck = some d → mapFind s.launches d.launch = some l → l.det = false) :
    landDeck s deck g addr n arrive poison c = landOn s (some loc) n arrive poison c := by
  unfold landDeck
  rw [hloc]
  dsimp only
  split
  · next p l' hp hl =>
    obtain ⟨d, hd, hl⟩ := Option.bind_eq_some_iff.1 hl
    exact if_neg (by rw [hdet d l' hd hl]; exact Bool.false_ne_true)
  · rfl

/-- What stands in the queues after markers have passed stood in them before. -/
theorem mem_passMarkers (n : Nat) : ∀ {c : Ctx} {q : Nat × List Cmd} {e : Cmd}, q ∈ (passMarkers n c).queues → e ∈ q.2 →
    ∃ q' ∈ c.queues, e ∈ q'.2 := by
  induction n with
  | zero => exact fun hq he => ⟨_, hq, he⟩
  | succ n ih =>
    intro c q e hq he
    obtain ⟨q', hq', he'⟩ := ih hq he
    obtain ⟨q0, hq0, rfl⟩ := List.mem_map.1 hq'
    exact ⟨q0, hq0, (List.mem_filter.1 he').1⟩

/-- A command whose landings are made and whose stores are performed leaves its queue (R173). -/
theorem finishCmd_leaves {seq : Nat} (hland : ∀ y ∈ s.lands, y.2.seq ≠ seq)
    (hstore : ∀ p ∈ s.reqs, p.2.kind = .storeData → p.2.tag ≠ seq) :
    ∀ c ∈ (finishCmd s seq).ctxs, ∀ q ∈ c.2.queues, ∀ e ∈ q.2, e.seq = seq → e.done = false := by
  intro c hc q hq e he hseq
  unfold finishCmd at hc
  split at hc
  · next hnone =>
    have hno := List.find?_eq_none.1 hnone e
      (List.mem_flatMap.2 ⟨c, hc, List.mem_flatMap.2 ⟨q, hq, he⟩⟩)
    simpa [hseq] using hno
  · next e0 hsome =>
    have hl : s.lands.any (fun x => x.2.seq == seq) = false := by
      rw [List.any_eq_false]
      exact fun x hx h => hland x hx (by simpa using h)
    have hs : s.reqs.any (fun p => p.2.kind == .storeData && p.2.tag == seq) = false := by
      rw [List.any_eq_false]
      intro p hp h
      simp only [Bool.and_eq_true, beq_iff_eq] at h
      exact hstore p hp h.1 h.2
    rw [hl, hs, Bool.or_false, if_neg Bool.false_ne_true] at hc
    obtain ⟨c0, hc0, rfl⟩ := List.mem_map.1 hc
    split at hq
    · obtain ⟨q1, hq1, he1⟩ := mem_passMarkers 96 hq he
      obtain ⟨q2, -, rfl⟩ := List.mem_map.1 hq1
      have hkeep := (List.mem_filter.1 he1).2
      simpa [hseq] using hkeep
    · next hany =>
      rw [Bool.not_eq_true, List.any_eq_false] at hany
      have hq' := hany q hq
      rw [Bool.not_eq_true, List.any_eq_false] at hq'
      simpa [hseq] using hq' e he

/-! ### Waiting `barwait`s (R193, R209) -/

/-- The waiting `barwait` of the span that the event names. -/
theorem withBarwait_waiting {u p sd lim : Nat} {t0 : Int} {addr : Word64} {pa : Option Nat} (hu : s.cur.x.id = u)
    (hsp : spanOf s u = some sp) (hl : launchOf s sp = some l) (hdet : l.det = false)
    (hpend : sp.pend = .barwait t0 false addr pa p sd lim) (hissue : mayIssue { s with cur := { s.cur with uid := u } } sp l = true)
    (k : State → Span → Launch → Word64 → Nat → Nat → Nat → Res) :
    withBarwait s k = k (waking s u sp l) sp l addr p sd lim := by
  subst hu
  have h : ActingIn { s with cur := { s.cur with uid := s.cur.x.id } } sp l := ⟨hsp, hl⟩
  unfold withBarwait
  refine (withLaunch_actingIn h _).trans ?_
  rw [hpend]
  refine if_neg ?_
  rw [hdet, hissue]
  decide

theorem keeps_foundBad (s : State) (loc : BarLoc) : Keeps s (foundBad s loc) := by
  cases loc with
  | scratch d off => exact (Keeps.refl s).barAbandon.ite (Keeps.refl s)
  | net k => exact Keeps.refl s
  | mem pa => exact Keeps.refl s

theorem spansKept_foundBad (s : State) (loc : BarLoc) : SpansKept s (foundBad s loc) := by
  cases loc with
  | scratch d off => exact (SpansKept.writeBar (SpansKept.refl s)).ite (SpansKept.refl s)
  | net k => exact SpansKept.refl s
  | mem pa => exact SpansKept.refl s

theorem barwaitEval_found {addr : Word64} {p sd lim st : Nat} {late : Bool} {loc : BarLoc} (hfind : waitBar s sp l addr = .loc loc)
    (hv : (readBar (foundBad s loc) loc).valid = true) (he : waitEnds (readBar (foundBad s loc) loc) p st) :
    barwaitEval s sp l addr p sd lim late = barwaitDone (foundBad s loc) sp loc sd st := by
  unfold barwaitEval
  rw [hfind]
  refine (if_neg (c := (!(readBar (foundBad s loc) loc).valid) = true) ?_).trans ?_
  · rw [hv]
    decide
  · rw [waitStatus_of_ends he]

/-- A wait with a status has an end (R193). -/
theorem waitEnds_of_status {b : Bar} {p st : Nat} (h : waitStatus b p = some st) : waitEnds b p st := by
  unfold waitStatus at h
  dsimp only at h
  unfold waitEnds
  dsimp only
  split at h
  · next hone => exact Or.inl ⟨hone, (Option.some.inj h).symm⟩
  · split at h
    · next htwo => exact Or.inr (Or.inl ⟨htwo.1, htwo.2, (Option.some.inj h).symm⟩)
    · split at h
      · next hgone => exact Or.inr (Or.inr ⟨by omega, hgone, (Option.some.inj h).symm⟩)
      · cases h

/-- A `barwait` without an end whose limit of cycles has run out (R193, R209). -/
theorem barwaitEval_late {addr : Word64} {p sd lim : Nat} {loc : BarLoc} {t0 : Int} {off : Bool} {a : Word64} {pa : Option Nat} {q d m : Nat}
    (hfind : waitBar s sp l addr = .loc loc) (hv : (readBar (foundBad s loc) loc).valid = true)
    (hnone : ∀ st, ¬ waitEnds (readBar (foundBad s loc) loc) p st) (hpend : sp.pend = .barwait t0 off a pa q d m) (hlim : lim ≠ 0)
    (hlate : t0 + lim ≤ s.cycle) : barwaitEval s sp l addr p sd lim true = barwaitDone (foundBad s loc) sp loc sd 2 := by
  have hst : waitStatus (readBar (foundBad s loc) loc) p = none := by
    cases h : waitStatus (readBar (foundBad s loc) loc) p with
    | none => rfl
    | some st => exact absurd (waitEnds_of_status h) (hnone st)
  unfold barwaitEval
  rw [hfind]
  refine (if_neg (c := (!(readBar (foundBad s loc) loc).valid) = true) ?_).trans ?_
  · rw [hv]
    decide
  · rw [hst, hpend]
    refine if_pos ?_
    rw [(spansKept_foundBad s loc).2]
    simp [hlim, hlate]

/-- The end of a `barwait` writes its status; 0, 4 and 5 act as an acquire. -/
theorem barwaitDone_acquires {loc : BarLoc} {sd st : Nat} {u : Nat} (hst : st = 0 ∨ st = 4 ∨ st = 5) (hu : s.cur.uid = u) :
    barwaitDone s sp loc sd st = .next (putSpan (learn (acquireDrop s sp.core (decide (2 ≤ barScope loc))) u
      (mapGet ([], []) s.ord.bars (barKey loc)).2) u
      (advance (acquired s (sWrite { sp with pend := .none } sd (BitVec.ofNat 64 st)) (decide (2 ≤ barScope loc))))) := by
  subst hu
  have hc : (learn (acquireDrop s sp.core (decide (2 ≤ barScope loc))) s.cur.uid
      (mapGet ([], []) s.ord.bars (barKey loc)).2).cur = s.cur := ((Keeps.refl s).acquireDrop.learn).cur
  unfold barwaitDone
  refine (if_pos hst).trans ?_
  dsimp only
  rw [commitS, hc]

theorem barwaitDone_plain {loc : BarLoc} {sd st : Nat} {u : Nat} (hst : ¬ (st = 0 ∨ st = 4 ∨ st = 5)) (hu : s.cur.uid = u) :
    barwaitDone s sp loc sd st = .next (putSpan s u (advance (sWrite { sp with pend := .none } sd (BitVec.ofNat 64 st)))) := by
  subst hu
  unfold barwaitDone
  exact if_neg hst

end

/-- Settles O40: a dropped line, a landing, a finished command, and the ends of a `barwait`. -/
theorem landingsAndWaits : Obligations.LandingsAndWaits := by
  refine ⟨fun s i pa b r x => ⟨fun h hk hlt hlocal hx hhbm hfill hsent => ?dropc, fun hi hx hafter hstore hway => ?landing,
    fun seq hland hstore => finishCmd_leaves hland hstore, fun deck g addr n arrive poison c loc hloc hdet => landDeck_plain hloc hdet,
    fun line reason hc hn => dropLine_counted reason hc hn⟩,
    fun s u p sd lim st t0 addr sp l loc pa hu hsp hl hdet hpend hissue => ?waits⟩
  case dropc =>
    refine ⟨_, rfl, ?_⟩
    rw [exec_homeDropc, execHomeDropc, withReq_event h]
    refine (if_neg (not_not_intro hk)).trans ((if_neg (Nat.not_le.2 hlt)).trans ((if_neg (by rw [hlocal]; exact Bool.false_ne_true)).trans ?_))
    rw [hx]
    refine (if_neg ?_).trans ?_
    · rw [hfill, hsent]
      exact fun h => h.2.elim Bool.false_ne_true Bool.false_ne_true
    · dsimp only
      rw [if_pos hhbm]
  case landing =>
    subst hi
    intro t
    rw [exec_barrierLanding, execBarrierLanding, hx]
    dsimp only
    have hnone : s.reqs.any (fun p => p.2.kind == .storeData && p.2.tag == x.after && p.2.tag != 0) = false := by
      rw [List.any_eq_false]
      intro p hp h
      simp only [Bool.and_eq_true, beq_iff_eq, bne_iff_ne] at h
      exact h.2 (h.1.2.trans (hstore p hp h.1.1 h.1.2))
    rw [hafter, hnone, hway]
    rfl
  case waits =>
    intro s1 sp1 hfind hv
    have hu1 : s1.cur.uid = u := congrArg Cur.uid (keeps_foundBad (waking s u sp l) loc).cur
    have hend : ∀ {st'}, waitEnds (readBar s1 loc) p st' → exec .barwaitEnd s = barwaitDone s1 sp loc sd st' := by
      intro st' he
      rw [exec_barwaitEnd, execBarwaitEnd, withBarwait_waiting hu hsp hl hdet hpend hissue]
      exact barwaitEval_found hfind hv he
    refine ⟨fun he => ⟨fun hst wide hwide => ?acquires, fun hst => ?plain⟩, fun hnone hlim hlate => ?timeout⟩
    case acquires =>
      subst hwide
      exact (hend he).trans (barwaitDone_acquires hst hu1)
    case plain => exact (hend he).trans (barwaitDone_plain (by omega) hu1)
    case timeout =>
      rw [exec_barwaitTimeout, execBarwaitTimeout, withBarwait_waiting hu hsp hl hdet hpend hissue]
      rw [hpend]
      refine (if_neg ?_).trans ?_
      · exact fun h => h.elim hlim (fun h => absurd hlate (not_le.2 h))
      · exact (barwaitEval_late hfind hv hnone hpend hlim hlate).trans (barwaitDone_plain (by decide) hu1)

end Sys2Proof.Machine

namespace Sys2Proof.Machine

/-! ### The completion of a bank's switch (R167, R308)

Statement O36 has a bank's oldest switch complete as soon as what its fence names is performed. In the model the arrival that it lands has a
way to the barrier as every other message, and the switch stays listed while a causeway on that way is down. -/

/-- The switch of a bank by the deck 3, with a barrier in the memory of die 1. -/
def farSwitch : Switch := ⟨0x31000, 1, 3, [], []⟩

/-- A package whose causeways are all down, with that switch listed at bank 0 of core 0. -/
def cutOff : State :=
  let s := { loggedState loggedSpan { x := { core := 0 } } with launches := mapPut [] 2 { loggedLaunch with det := false } }
  putBank { s with mg := { s.mg with cwDown := 2 ^ 24 - 1 } } 0 0 { Bank.init with switch := [farSwitch] }

/-- The event changes the package. -/
def takesPlace : Res → Bool
  | .next _ => true
  | _ => false

/-- Refutes O36: on a package whose causeways are down, the switch of a bank with a barrier on another die does not complete. -/
theorem not_fillsAndCores : ¬ Obligations.FillsAndCores := by
  rintro ⟨-, hcores⟩
  obtain ⟨hswitch, -, -⟩ := hcores cutOff 0 0 0 0 Req.init ⟨0, 0, 0, 0, 0, 0, 0, [], 0, false, [], [], [], 0⟩ farSwitch []
  have hexec := hswitch (by decide +kernel) (by decide +kernel) (by decide +kernel) (by decide +kernel)
  exact absurd (congrArg takesPlace hexec) (by decide +kernel)

end Sys2Proof.Machine

namespace Sys2Proof.Machine

/-! ### Quad stops and home lines (R106, R220 to R232) -/

section
variable {s : State}

theorem withMerge_event {i : Nat} {m : Merge} (h : EventMerge s i m) (k : Nat → Merge → Res) : withMerge s k = k i m := by
  obtain ⟨rfl, hm⟩ := h
  rw [withMerge, hm]

/-- A home line without its place in the L2 slice (R228). -/
def withoutPlace (h : HomeLine) : HomeLine := { h with below := none, l2 := 0 }

/-- Where lines change their places in a slice, nothing else of any line changes. -/
def PlacesOnly (s t : State) : Prop := ∀ x, withoutPlace (homeOf t x) = withoutPlace (homeOf s x)

theorem PlacesOnly.putHome (s : State) (line : Nat) {h : HomeLine} (hp : withoutPlace h = withoutPlace (homeOf s line)) :
    PlacesOnly s (putHome s line h) := by
  intro x
  rw [homeOf_putHome]
  split
  · next hx => rw [hx, hp]
  · rfl

theorem PlacesOnly.makeWay (s : State) (line : Nat) : PlacesOnly s (makeWay s line) := by
  unfold Machine.makeWay
  dsimp only
  split
  · exact fun _ => rfl
  · split
    · exact fun _ => rfl
    · exact PlacesOnly.putHome s _ rfl

theorem PlacesOnly.homeTouch (s : State) (line : Nat) : PlacesOnly s (homeTouch s line) := by
  have hway : PlacesOnly s (if (homeOf s line).l2 = 0 ∧ !(homeOf s line).pinned then Machine.makeWay s line else s) := by
    split
    · exact PlacesOnly.makeWay s line
    · exact fun _ => rfl
  unfold Machine.homeTouch
  split
  · exact fun _ => rfl
  · dsimp only
    generalize (if (homeOf s line).l2 = 0 ∧ !(homeOf s line).pinned then Machine.makeWay s line else s) = w at hway ⊢
    exact fun x => (PlacesOnly.putHome w line (h := { homeOf w line with l2 := w.uses }) rfl x).trans (hway x)

theorem counts_of_withoutPlace {a b : HomeLine} (h : withoutPlace a = withoutPlace b) :
    a.counted = b.counted ∧ a.count = b.count ∧ a.busy = b.busy := by
  have hcounted := congrArg HomeLine.counted h
  have hcount := congrArg HomeLine.count h
  have hbusy := congrArg HomeLine.busy h
  exact ⟨hcounted, hcount, hbusy⟩

theorem seeMarks_eq (s : State) (a : Nat) (l : List FenceMark) : ∃ o, seeMarks s a l = { s with ord := o } := by
  unfold seeMarks
  dsimp only
  split
  · exact ⟨s.ord, rfl⟩
  · exact ⟨_, rfl⟩

/-- What the bytes of a line that reach a load leave as it was: home lines, merge entries and the event. -/
def HomesKept (s t : State) : Prop := t.lines = s.lines ∧ t.merges = s.merges ∧ t.cur = s.cur

theorem HomesKept.foldl {α : Type} {f : State → α → State} (hf : ∀ t a, HomesKept t (f t a)) (l : List α) :
    ∀ s, HomesKept s (l.foldl f s) := by
  induction l with
  | nil => exact fun _ => ⟨rfl, rfl, rfl⟩
  | cons a as ih =>
    intro s
    obtain ⟨h1, h2, h3⟩ := hf s a
    obtain ⟨k1, k2, k3⟩ := ih (f s a)
    exact ⟨k1.trans h1, k2.trans h2, k3.trans h3⟩

theorem HomesKept.seeMarks (s : State) (a : Nat) (l : List FenceMark) : HomesKept s (seeMarks s a l) := by
  obtain ⟨o, h⟩ := seeMarks_eq s a l
  rw [h]
  exact ⟨rfl, rfl, rfl⟩

theorem HomesKept.raiseFloorOf (s : State) (u line : Nat) : HomesKept s (raiseFloorOf s u line) := by
  unfold Machine.raiseFloorOf
  split <;> exact ⟨rfl, rfl, rfl⟩

/-- A load that a line reaches: the load's entry, and nothing of the homes. -/
theorem serveLoad_found {k line : Nat} {data : Line} {poison home : Bool} {own : List Writer} {ld : Load} (h : mapFind s.loads k = some ld) :
    HomesKept s (serveLoad s k line data poison home own) ∧ BytesKept s (serveLoad s k line data poison home own) ∧
      ∃ ld', mapFind (serveLoad s k line data poison home own).loads k = some ld' := by
  unfold serveLoad
  rw [h]
  dsimp -zeta only
  extract_lets near marks s1 s2
  have hseen : HomesKept s s1 ∧ BytesKept s s1 := by
    refine ⟨HomesKept.foldl (fun t x => ?_) _ s, BytesKept.foldl (fun t x => ?_) _ s⟩
    · dsimp only
      split
      · exact HomesKept.seeMarks ..
      · exact ⟨rfl, rfl, rfl⟩
    · dsimp only
      split
      · exact BytesKept.seeMarks ..
      · exact BytesKept.refl t
  have hraised : HomesKept s1 s2 ∧ BytesKept s1 s2 := by
    show HomesKept s1 (if home then raiseFloorOf s1 ld.uid line else s1) ∧ BytesKept s1 (if home then raiseFloorOf s1 ld.uid line else s1)
    split
    · exact ⟨HomesKept.raiseFloorOf .., BytesKept.raiseFloorOf ..⟩
    · exact ⟨⟨rfl, rfl, rfl⟩, BytesKept.refl s1⟩
  obtain ⟨⟨a1, a2, a3⟩, ab⟩ := hseen
  obtain ⟨⟨b1, b2, b3⟩, bb⟩ := hraised
  exact ⟨⟨b1.trans a1, b2.trans a2, b3.trans a3⟩, ab.trans bb, _, mapFind_mapPut_same ..⟩

/-- A consuming access of a counted line with a count takes one of it, and the load is answered as counted (R106, R232). -/
theorem consumeOne_counted {line k : Nat} {ld : Load} (hc : (homeOf s line).counted = true) (hn : 0 < (homeOf s line).count)
    (hl : mapFind s.loads k = some ld) :
    homeOf (consumeOne s line k) line =
        { homeOf s line with count := (homeOf s line).count - 1, busy := (homeOf s line).busy + 1 } ∧
      (∃ ld', mapFind (consumeOne s line k).loads k = some ld' ∧ (line, false) ∈ ld'.served) ∧
      (consumeOne s line k).merges = s.merges ∧ BytesKept s (consumeOne s line k) := by
  unfold consumeOne
  extract_lets h ok s1 s2
  have hok : ok = true := by
    show ((homeOf s line).counted && decide (0 < (homeOf s line).count)) = true
    rw [hc, decide_eq_true hn]
    rfl
  have hs1 : s1 = putHome s line { h with count := h.count - 1, busy := h.busy + 1 } := if_pos hok
  have hl1 : mapFind s1.loads k = some ld := by rw [hs1]; exact hl
  obtain ⟨⟨hlines, hmerges, -⟩, hbytes, ld', hld'⟩ := serveLoad_found (line := line) (data := homeLine s1 line) (poison := badLine s1 line)
    (home := true) (own := []) hl1
  have hput : BytesKept s s1 := by
    rw [hs1]
    exact BytesKept.putHome s line rfl
  rw [show mapFind s2.loads k = some ld' from hld']
  dsimp only
  refine ⟨?_, ⟨_, mapFind_mapPut_same .., ?_⟩, ?_, hput.trans (hbytes.trans ⟨fun _ => rfl, rfl, rfl⟩)⟩
  · show mapGet HomeLine.init s2.lines line = _
    rw [show s2.lines = s1.lines from hlines, hs1]
    exact (homeOf_putHome ..).trans (if_pos rfl)
  · rw [hok]
    exact List.mem_append_right _ (List.mem_singleton_self _)
  · show s2.merges = s.merges
    rw [show s2.merges = s1.merges from hmerges, hs1]
    rfl

/-- The consuming access of a merge entry with one request for one load. -/
theorem execHomeConsumingAccess_one {i j k : Nat} {m : Merge} {w : State} (he : EventMerge s i m) (hk : m.kind = .cons)
    (hreqs : m.reqs = [j]) (hloads : (reqOf s j).loads = [k]) (hbefore : mergeBefore s i m = false)
    (hfill : fillWaits s m.line 0 = false) (hw : consumeOne (homeTouch s m.line) m.line k = w) :
    execHomeConsumingAccess s = .next { delReq w j with merges := mapDel w.merges i } := by
  subst hw
  rw [execHomeConsumingAccess, withMerge_event he]
  refine (if_neg ?_).trans ?_
  · rw [hbefore, hfill]
    rintro (hc | hc | hc)
    · exact hc hk
    · exact Bool.false_ne_true hc
    · exact Bool.false_ne_true hc
  · have hk : [j].flatMap (fun j => (reqOf s j).loads) = [k] := by
      rw [List.flatMap_singleton, hloads]
    rw [hreqs, hk]
    rfl

/-! ### Counted fills (R230, R231) -/

theorem countedFill_again {line n number : Nat} (hc : (homeOf s line).counted = true) :
    homeOf (countedFill s line n number none) line =
      { homeOf s line with count := min ((homeOf s line).count + n) 255, tag := number } := by
  unfold countedFill
  dsimp only
  rw [if_pos hc]
  have hput : homeOf (putHome s line { homeOf s line with count := min ((homeOf s line).count + n) 255, tag := number }) line =
      { homeOf s line with count := min ((homeOf s line).count + n) 255, tag := number } := (homeOf_putHome ..).trans (if_pos rfl)
  split
  · exact hput
  · exact hput

theorem countedFill_first {line n number : Nat} (hc : (homeOf s line).counted = false) (hroom : pinnedIn (homeTouch s line) line < 8) :
    homeOf (countedFill s line n number none) line = { homeOf (homeTouch s line) line with
      below := none, counted := true, count := n, tag := number, pinned := true, data := some (homeLine s line) } := by
  unfold countedFill
  dsimp only
  rw [if_neg (by rw [hc]; exact Bool.false_ne_true)]
  refine (congrArg (fun t => homeOf t line) (if_pos hroom)).trans ((homeOf_putHome ..).trans ((if_pos rfl).trans ?_))
  simp

end

/-- Settles O37: the joining of merge entries, home reads, consuming accesses and counted fills. -/
theorem homeReadsAndCounts : Obligations.HomeReadsAndCounts := by
  refine ⟨fun s i k r m e => ⟨fun h hst => ⟨fun hk hfew => ?alone, fun hk hm hfind => ?joins⟩, fun h hk hbefore hfill => ?read,
    fun hnone h hk hst hsent => ?direct⟩, ?counts⟩
  case alone =>
    rw [exec_quadMergeRequest, execQuadMergeRequest, withReq_event h]
    refine (if_neg (not_not_intro hst)).trans ?_
    extract_lets q join
    rw [show join = none from if_pos hk]
    exact if_neg (Nat.not_le.2 hfew)
  case joins =>
    have hno : ¬ (r.kind = .cfill ∨ r.marker = true) := by
      rw [hm]
      rintro (hc | hc)
      · obtain hk | hk := hk
        · exact absurd (hk.symm.trans hc) (by decide)
        · exact absurd (hk.symm.trans hc) (by decide)
      · exact Bool.false_ne_true hc
    have hcons : (r.kind != .cons) = true := by
      obtain hk | hk := hk <;> rw [hk] <;> rfl
    rw [exec_quadMergeRequest, execQuadMergeRequest, withReq_event h]
    refine (if_neg (not_not_intro hst)).trans ?_
    extract_lets q join
    have hj : join = some (k, e) := by
      refine (if_neg hno).trans ?_
      simp only [hcons, Bool.true_or, Bool.and_true]
      exact hfind
    rw [hj]
  case read =>
    obtain ⟨rfl, hm⟩ := h
    obtain ⟨ls, n, ht⟩ := homeTouch_eq s m.line
    refine ⟨_, rfl, ?_⟩
    rw [exec_homeRead, execHomeRead, hm]
    refine (if_neg ?_).trans ?_
    · rw [hbefore, hfill]
      rintro (hc | hc | hc)
      · exact hk.elim hc.1 hc.2
      · exact Bool.false_ne_true hc
      · exact Bool.false_ne_true hc
    · dsimp only
      rw [ht]
      rfl
  case direct =>
    obtain ⟨hid, hreq⟩ := h
    rw [exec_homeRead, execHomeRead, hid, hnone]
    dsimp only
    rw [withReq_event ⟨hid, hreq⟩]
    refine if_neg ?_
    rw [hsent]
    rintro (hc | hc | hc)
    · exact hk.elim hc.1 hc.2
    · exact hc hst
    · exact Bool.false_ne_true hc
  case counts =>
    intro s i j k n number r m h
    refine ⟨fun he hk hreqs hloads hbefore hfill hload hc hn => ?consume, fun he hk hreqs hpend hbefore hfill hroom => ?fill,
      fun he hk hst hroom hpend hfirst => ?fillEnd, fun hc => countedFill_again hc, fun hc hroom => countedFill_first hc hroom⟩
    case consume =>
      obtain ⟨ld, hld⟩ := Option.isSome_iff_exists.1 hload
      obtain ⟨ls, u, ht⟩ := homeTouch_eq s m.line
      obtain ⟨hct, hcount, hbusy⟩ := counts_of_withoutPlace (PlacesOnly.homeTouch s m.line m.line)
      have hlt : mapFind (homeTouch s m.line).loads k = some ld := by rw [ht]; exact hld
      obtain ⟨hhome, ⟨ld', hld', hserved⟩, hmerges, hbytes⟩ := consumeOne_counted (hct.trans hc) (hcount ▸ hn) hlt
      have hkept := (BytesKept.homeTouch s m.line).trans hbytes
      have hm : (homeTouch s m.line).merges = s.merges := by rw [ht]
      rw [exec_homeConsumingAccess]
      generalize hw : consumeOne (homeTouch s m.line) m.line k = w at hhome hld' hmerges hbytes hkept
      refine ⟨_, ld', execHomeConsumingAccess_one he hk hreqs hloads hbefore hfill hw, ?_, hld', hserved, ?_, fun pa => ⟨?_, ?_⟩⟩
      · refine hhome.trans ?_
        rw [hcount, hbusy]
      · exact congrArg (mapDel · i) (hmerges.trans hm)
      · exact congrArg (mapGet 0 · pa) hkept.2.1
      · exact hkept.homeByte pa
    case fill =>
      rw [exec_homeCountedFill, execHomeCountedFill, withMerge_event he, hk, hreqs]
      refine (if_neg ?_).trans (if_pos hroom)
      rw [hbefore, hfill]
      rintro (hc | hc | hc)
      · exact absurd hpend (Nat.pos_iff_ne_zero.1 hc)
      · exact Bool.false_ne_true hc
      · exact Bool.false_ne_true hc
    case fillEnd =>
      have hno : s.reqs.any (fun p => decide (p.1 < i) && p.2.kind == .cfill && p.2.stage == .home && p.2.line == r.line) = false := by
        rw [List.any_eq_false]
        intro p hp hq
        simp only [Bool.and_eq_true, decide_eq_true_eq, beq_iff_eq] at hq
        obtain ⟨⟨⟨hlt, hkind⟩, hstage⟩, hline⟩ := hq
        exact hfirst p hp hlt hkind hstage hline
      rw [exec_countedFillWaitEnd, execCountedFillWaitEnd, withReq_event he]
      exact if_pos ⟨hk, hst, hroom, hpend, by rw [hno]; rfl⟩

end Sys2Proof.Machine

namespace Sys2Proof.Machine

/-! ### Host packets (R316 to R320) -/

section
variable {s s1 : State} {op i : Nat} {p : Pkt}

theorem withPacket_acts (h : PacketActs s s1 op i p) (k : State → Nat → Pkt → Res) : withPacket s op k = k s1 i p := by
  obtain ⟨hf, rfl, rfl, rfl⟩ | ⟨hf, rfl, hp, rfl, rfl⟩ := h
  · rw [withPacket, if_pos hf]
  · rw [withPacket, if_neg (by rw [hf]; exact Bool.false_ne_true), hp]
    exact if_pos rfl

/-- A packet that starts or goes on leaves what is being executed as it was. -/
theorem PacketActs.cur (h : PacketActs s s1 op i p) : s1.cur = s.cur := by
  obtain ⟨-, -, -, rfl⟩ | ⟨-, -, -, -, rfl⟩ := h <;> rfl

theorem PacketActs.mg (h : PacketActs s s1 op i p) : s1.mg = s.mg := by
  obtain ⟨-, -, -, rfl⟩ | ⟨-, -, -, -, rfl⟩ := h <;> rfl

/-- A packet's synchronization object that is mapped for writing, in HBM4E and not counted, is found (R266, R268). -/
theorem packetObj_found {s : State} {i pa : Nat} {p : Pkt} (halign : p.a % 16 = 0) (hx : frontXlate s i p.key p.a 1 = .ok pa false)
    (hhbm : isHbm pa = true) (hcount : (homeOf s (pa / 128)).counted = false) (hway : dieWaits s (firstDie s) p.a (pa / 128) = false)
    (k : State → Nat → Res) : packetObj s i p k = k s pa := by
  rw [packetObj]
  refine (if_neg (by omega)).trans ?_
  rw [hx]
  refine (if_neg (by rw [hway]; simp)).trans (if_neg ?_)
  rw [hhbm, hcount]
  decide

/-- A WAIT packet whose barrier's phase has an end completes with its status (R318). -/
theorem waitCheck_ends {s : State} {i st : Nat} {p : Pkt} (hroute : routeWaits s (firstDie s) (dieOfPa p.c) = false)
    (hvalid : (readBar s (.mem p.c)).valid = true) (he : waitEnds (readBar s (.mem p.c)) (p.b % 2 ^ 32) st) :
    waitCheck s i p = .next (if st = 0 ∨ st = 4 ∨ st = 5
      then learn (endPkt s i ([0, 4, 2, 5, 3, 10].getD st 0) 0 0 0) hostAgent
        (mapGet ([], []) (endPkt s i ([0, 4, 2, 5, 3, 10].getD st 0) 0 0 0).ord.bars (barKey (.mem p.c))).2
      else endPkt s i ([0, 4, 2, 5, 3, 10].getD st 0) 0 0 0) := by
  rw [waitCheck]
  refine (if_neg (by rw [hroute]; exact Bool.false_ne_true)).trans ((if_neg (by rw [hvalid]; decide)).trans ?_)
  rw [waitStatus_of_ends he]
  rfl

/-! ### Pieces of a COPY (R251, R309, R316) -/

/-- The bytes of one line at their homes, as a die reads them (R362). -/
theorem fabRead_line {s : State} {die root key pa va k : Nat} {w : Who} {x : Bool} (hline : va % 128 + k ≤ 128) (hk : 0 < k)
    (hoff : pa % 128 = va % 128) (hlocal : inLocal va = false) (hquad : inQuad va = false) (hx : dieXlate s die root key va 0 w = .ok pa x)
    (hway : dieWaits s die va (pa / 128) = false) :
    fabRead s die root key w va k =
      .ok (homeTouch s (pa / 128)) ((List.range k).map (fun j => homeByte s (pa + j))) (badLine s (pa / 128)) := by
  have hpage : (va + k - 1) / 4096 - va / 4096 + 1 = 1 := by omega
  have hfirst : max va (va / 4096 * 4096) = va := by omega
  have hbytes : min (va + k) ((va / 4096 + 1) * 4096) - va = k := by omega
  have hlines : (pa + k - 1) / 128 - pa / 128 + 1 = 1 := by omega
  have hback : va + (128 * (pa / 128) - pa) = va := by omega
  rw [fabRead, if_neg (by omega), hpage]
  have hone : List.range 1 = [0] := rfl
  simp only [hone, List.map_cons, List.map_nil, List.foldl_cons, List.foldl_nil, Nat.add_zero, hfirst]
  rw [if_neg (by rw [hlocal, hquad]; decide), hx]
  simp only [hbytes, hlines, hone, List.map_cons, List.map_nil, List.any_cons, List.any_nil, List.foldl_cons, List.foldl_nil,
    Nat.add_zero, hback, hway, Bool.or_false, Bool.false_or, List.nil_append]
  rw [if_neg Bool.false_ne_true]

/-- Bytes of one line of HBM4E that is not counted are written by a die's own requester, and no other byte is (R309). -/
theorem fabPut_hbm {s : State} {die number pa : Nat} {w : Writer} {bar : Bool} {bs : List Byte} (hhbm : isHbm pa = true)
    (hcount : (homeOf s (pa / 128)).counted = false) (hway : dieWaits s die w.va (pa / 128) = false) :
    ∃ t, fabPut s die w 0 number pa bar bs = .ok t ∧ wroteBytes s t w pa bs := by
  have hhost : isHost pa = false := (not_tier_not_host hhbm).2
  have hput : diePut s w pa bs = orderedBytes s (some w) false w.va pa bs := by
    rw [diePut]; exact if_neg (by rw [hhost]; exact Bool.false_ne_true)
  rw [fabPut]
  refine ⟨_, (if_neg (by rw [hway]; exact Bool.false_ne_true)).trans ((if_pos hhbm).trans
    ((if_neg (by rw [hcount]; exact Bool.false_ne_true)).trans (if_pos rfl))), fun q => ?_⟩
  refine (BytesKept.homeByte (s := diePut s w pa bs) (BytesKept.putHome _ (pa / 128) (by exact rfl)) q).trans ?_
  rw [hput, homeByte_orderedBytes]

end

/-- Settles O41: each packet finds its checks answered and takes its own way; COPY's reads and writes are those of one line. -/
theorem hostPackets : Obligations.HostPackets := by
  refine ⟨fun s s1 i pa p => ⟨fun h => ?fence, fun h halign hx hhbm hcount hway => ?release, fun h hf halign => ?acquire,
    fun st h hf halign => ?wait⟩, fun s s1 s2 i n pa root p l first last frame join => ⟨fun h hf hsafe hdone hroot => ?launch,
    fun h hf hr => ?resume, fun h hn => ⟨fun hall hd => ?copied, fun hmore got dpa bar s3 => ?piece⟩, ?read, ?put⟩⟩
  case fence =>
    intro qs before
    rw [exec_fencePacket, execFencePacket, withPacket_acts h]
    exact congrArg Host.Outcome.next (if_congr List.isEmpty_iff rfl rfl)
  case release =>
    intro hp va
    rw [exec_release, execRelease, withPacket_acts h, packetObj_found halign hx hhbm hcount hway]
    rfl
  case acquire =>
    intro p1 hx hhbm hcount hway t
    rw [exec_acquire, execAcquire, withPacket_acts h]
    have hu : unplaced s p = p1 := if_pos hf
    dsimp only
    rw [hu]
    exact (if_neg (not_not_intro rfl)).trans (packetObj_found (p := p1) halign hx hhbm hcount hway _)
  case wait =>
    intro p1 hx hhbm hroute hvalid he e
    rw [exec_wait, execWait, withPacket_acts h]
    have hu : unplaced s p = p1 := if_pos hf
    dsimp only
    rw [hu]
    refine (if_neg (not_not_intro rfl)).trans ((if_neg (by show ¬ p.a % 32 ≠ 0; omega)).trans ?_)
    rw [hx]
    refine (if_neg (by rw [hhbm]; decide)).trans ?_
    exact waitCheck_ends (p := { p1 with c := pa }) hroute hvalid he
  case launch =>
    intro p1 s0 hfree hcheck hbefore
    refine ⟨_, rfl, ?_⟩
    rw [exec_launch, execLaunch]
    dsimp only
    rw [withPacket_acts h]
    have hp : (if s.cur.front = true then { p with t0 := s1.fe.stepNo } else p) = p1 := if_pos hf
    have hsafe' : ¬ (p1.done ≠ 0 ∨ s0.mg.safe = true) := by
      rintro (hd | hs)
      · exact hd hdone
      · rw [show s0.mg = s.mg from h.mg, hsafe] at hs; exact Bool.false_ne_true hs
    rw [hp]
    refine (if_neg hsafe').trans ?_
    rw [show keyRoot (putHostPkt s1 i p1) p1.key = some root from hroot]
    dsimp only
    rw [show freeNumber (putHostPkt s1 i p1) [] = some n from hfree]
    dsimp only
    rw [show checkRecord _ (putHostPkt s1 i p1) p1.body p1.key root n = _ from hcheck]
    exact if_neg (by rw [show launchBefore (putHostPkt s1 i p1) i p1 = false from hbefore]; exact Bool.false_ne_true)
  case resume =>
    rw [exec_resume, execResume, withPacket_acts h]
    refine (if_neg (by rw [h.cur, hf]; decide)).trans (congrArg Host.Outcome.next (if_neg ?_))
    rw [hr]; exact Bool.false_ne_true
  case copied =>
    rw [exec_copyPacket, execCopyPacket, withPacket_acts h]
    exact (if_neg hn).trans ((if_pos hall).trans (if_pos hd))
  case piece =>
    intro src dst m r hroot hread hx hput
    rw [exec_copyPacket, execCopyPacket, withPacket_acts h]
    refine (if_neg hn).trans ((if_neg (by omega)).trans ?_)
    rw [hroot]
    dsimp -zeta only
    extract_lets
    rw [show fabRead s1 (firstDie s1) root p.key (.front i) src r = _ from hread]
    refine (if_neg Bool.false_ne_true).trans ?_
    rw [show frontXlate s3 i p.key dst 1 = _ from hx]
    dsimp -zeta only
    rw [show copyPut s3 i dst dpa bar ((p.buf ++ got).take m) = _ from hput]
  case read =>
    exact fun die va k w x hline hk hoff hlocal hquad hx hway => fabRead_line hline hk hoff hlocal hquad hx hway
  case put =>
    intro va bar bs hhbm hcount hway
    rw [copyPut, if_pos hhbm]
    exact fabPut_hbm (w := { hostWriter s with va := va }) hhbm hcount hway

end Sys2Proof.Machine

namespace Sys2Proof.Machine

/-! ### Management packets and the register block (R312, R321, R323, R335, R363) -/

/-- A register that has just been written holds what was written. -/
theorem feReg_setReg (s : State) (off x : Nat) : feReg (setReg s off x) off = BitVec.ofNat 64 x :=
  mapGet_mapPut_same ..

theorem fpOf_putFp (s : State) (k : Nat) (f : Fp) : fpOf (putFp s k f) k = f := mapGet_mapPut_same ..

/-- A processor's registers after only x1 has been given a value (R363). -/
theorem xRead_started {f : Fp} {v : Word64} (hx : f.x = mapSet 0 [] 1 v) :
    xRead f 1 = v ∧ ∀ r : BitVec 5, r ≠ 1 → xRead f r = 0 := by
  refine ⟨?_, fun r hr => ?_⟩
  · rw [xRead, if_neg (by decide), hx]
    exact mapGet_mapSet_same ..
  · rw [xRead, hx]
    split
    · rfl
    · exact mapGet_mapSet_other _ _ _ (fun h => hr (BitVec.eq_of_toNat_eq h))

/-- Settles O42: each packet and register write finds its fields in range and takes its own branch. -/
theorem managementAndRegisters : Obligations.ManagementAndRegisters := by
  refine ⟨fun s s1 i j root p f => ?packets, fun s hstep => ⟨fun hq hsafe ha hsize => ?qtail, ?register, fun ha hstat => ?actrl,
    fun hstat hseven hsafe => ?report⟩⟩
  case packets =>
    intro key
    refine ⟨fun h hkey hnone hfree => ?newKey, fun h hkey hentry hbusy => ?retire, fun h hnone hroot hsize hbound hva => ?shootdown,
      fun h hfind hb => ?answer, fun h ha hruns => ?power, fun h => ?fpstart, fun h => ?fpstop⟩
    case newKey =>
      rw [exec_admitKey, execAdmitKey, withPacket_acts (op := opMgmt 1) h]
      refine (if_neg ?_).trans ?_
      · rintro (hz | hs)
        · exact hkey hz
        · rw [show keyEntry s1 (p.a % 2 ^ 32) = none from hnone] at hs; exact Bool.false_ne_true hs
      · rw [hfree]
        rfl
    case retire =>
      rw [exec_retire, execRetire, withPacket_acts (op := opMgmt 2) h]
      refine (if_neg hkey).trans ?_
      rw [show keyEntry s1 (p.a % 2 ^ 32) = some j from hentry]
      exact if_neg (by rw [show keyBusy s1 (p.a % 2 ^ 32) = false from hbusy]; exact Bool.false_ne_true)
    case shootdown =>
      rw [exec_shootdown, execShootdown, withPacket_acts (op := opMgmt 3) h]
      refine (if_neg (by rw [hnone]; exact Bool.false_ne_true)).trans ?_
      rw [show keyRoot s1 (p.a % 2 ^ 32) = some root from hroot]
      refine if_neg ?_
      rintro (hs | hb | hv)
      · obtain hc | hc | hc | hc := hsize <;> rw [hc] at hs <;> exact absurd hs (by decide)
      · split at hb <;> omega
      · omega
    case answer =>
      rw [exec_answer, execAnswer, withPacket_acts (op := opMgmt 4) h]
      rw [hfind]
      exact if_neg (by omega)
    case power =>
      intro st
      rw [exec_power, execPower, withPacket_acts (op := opMgmt 5) h]
      refine (if_neg (by omega)).trans ((if_neg ?_).trans rfl)
      rintro ⟨h4, hne⟩
      rw [hruns h4] at hne
      exact absurd hne (by decide)
    case fpstart =>
      intro k hrun hkey halign hstatus
      refine ⟨putFp s1 k ⟨!s1.mg.failedDies.contains (k / 4), mapSet 0 [] 1 (BitVec.ofNat 64 p.c), p.b % vaTop, p.body.getD 4 0 % 2 ^ 32,
        p.body.getD 3 0, .none, none, none, false⟩, ?_, ?_⟩
      · rw [exec_fpstart, execFpstart, withPacket_acts (op := opMgmt 6) h]
        refine (if_neg ?_).trans rfl
        rintro (hr | hn | hp | hs)
        · rw [show fpOf s1 (fpArg p.a) = fpOf s1 k from rfl, hrun] at hr; exact Bool.false_ne_true hr
        · obtain ⟨r, hr⟩ := Option.isSome_iff_exists.1 hkey
          rw [hr] at hn; exact Bool.false_ne_true hn
        · exact hp halign
        · exact hs hstatus
      · rw [fpOf_putFp]
        exact ⟨rfl, rfl, (xRead_started rfl).1, (xRead_started rfl).2, rfl⟩
    case fpstop =>
      rw [exec_fpstop, execFpstop, withPacket_acts (op := opMgmt 7) h]
      by_cases hrun : (fpOf s1 (fpArg p.a)).running = true
      · exact (if_neg (by rw [hrun]; decide)).trans (congrArg Host.Outcome.next (if_pos hrun).symm)
      · exact (if_pos (by rw [Bool.not_eq_true] at hrun; rw [hrun]; rfl)).trans (congrArg Host.Outcome.next (if_neg hrun).symm)
  case qtail =>
    rw [exec_qtail, execQtail]
    refine (if_neg (by omega)).trans (if_neg ?_)
    rintro (hs | hb | ⟨hz, hlt⟩)
    · rw [hsafe] at hs; exact Bool.false_ne_true hs
    · omega
    · obtain hq0 | hq1 := hsize
      · exact hz hq0
      · omega
  case register =>
    intro x
    refine ⟨fun ht hoff => ⟨?_, feReg_setReg ..⟩, fun ht hlow hhigh => ?_, fun ht => ?_⟩
    · rw [exec_mgmtRegisterWrite, execMgmtRegisterWrite]
      refine (if_neg hstep).trans ((if_neg (by rw [ht]; decide)).trans (congrArg Host.Outcome.next (if_neg ?_)))
      exact fun hin => hoff.elim (fun h => Nat.not_le_of_lt h hin.1) (fun h => Nat.not_le_of_lt h hin.2)
    · rw [exec_mgmtRegisterWrite, execMgmtRegisterWrite]
      exact (if_neg hstep).trans ((if_neg (by rw [ht]; decide)).trans (congrArg Host.Outcome.next (if_pos ⟨hlow, hhigh⟩)))
    · rw [exec_mgmtRegisterWrite, execMgmtRegisterWrite]
      exact (if_neg hstep).trans (if_pos (by rw [ht]; rfl))
  case actrl =>
    rw [exec_actrl, execActrl]
    refine (if_neg hstep).trans ((if_neg (by rintro (h | h); exacts [h ha, hstat h])).trans ?_)
    rw [show (if mayAttest s = true then 1 else 3) = if s.mg.step = 7 ∧ s.mg.safe = false then 1 else 3 from
      if_congr (by rw [mayAttest, Bool.and_eq_true, beq_iff_eq, Bool.not_eq_true']) rfl rfl]
  case report =>
    rw [exec_attestationDone, execAttestationDone]
    refine (if_neg (not_not_intro hstat)).trans ((if_neg ?_).trans rfl)
    rw [mayAttest, hseven, hsafe]
    decide

end Sys2Proof.Machine

namespace Sys2Proof.Machine

/-! ### What the host does (R309, R311, R316, R318) -/

theorem HomesApart.fe {s t : State} (h : HomesApart s t) : t.fe = s.fe := by
  obtain ⟨_, _, _, _, _, _, rfl⟩ := h
  rfl

/-- A packet whose time is out, as the events of its timeout find it. -/
theorem timedOut_of_due {s : State} {p : Pkt} (hdone : p.done ≠ 0) (hdue : p.t0 + 100 * p.done ≤ s.ticks) : timedOut s p = true := by
  rw [timedOut, Bool.and_eq_true, bne_iff_ne, decide_eq_true_iff]
  exact ⟨hdone, hdue⟩

/-- Settles O43: an access within one line of HBM4E, a granted record, a snooped line, a packet whose time is out. -/
theorem hostEvents : Obligations.HostEvents := by
  intro s i p c
  refine ⟨?access, fun hc => ?grant, fun hown => ?snoop, fun hi hp hdone hdue => ⟨fun hop hplace => ?acquire, fun hop => ?wait⟩⟩
  case access =>
    intro pa answered hbase hhbm hstep hpower hwrite hread hway
    have hok : ¬ (s.cur.x.a < Config.hdmBase ∨ (!isHbm pa) = true ∨ s.mg.step = 0 ∨ s.mg.power = 4 ∨
        128 < pa % 128 + max s.cur.x.b s.cur.x.bytes.length ∨ dieWaits s (firstDie s) pa (pa / 128) = true) := by
      rw [hhbm, hway]
      rintro (h | h | h | h | h | h)
      · exact Nat.not_lt_of_le hbase h
      · exact absurd h (by decide)
      · exact hstep h
      · exact hpower h
      · clear_value pa; omega
      · exact Bool.false_ne_true h
    rw [exec_hostCxlMemAccess, execHostCxlMemAccess]
    refine ⟨fun he => (if_neg hok).trans (if_pos (List.isEmpty_iff.2 he)), fun he hcount => ?_, fun he hcount => ?_⟩
    · exact (if_neg hok).trans ((if_neg (by rwa [List.isEmpty_iff])).trans (if_pos hcount))
    · obtain ⟨t, hput, hbytes⟩ := fabPut_hbm (s := s) (die := firstDie s) (number := 0) (w := { hostWriter s with va := pa })
        (bar := false) (bs := s.cur.x.bytes) hhbm hcount hway
      refine ⟨t, (if_neg hok).trans ((if_neg (by rwa [List.isEmpty_iff])).trans
        ((if_neg (by rw [hcount]; exact Bool.false_ne_true)).trans ?_)), hbytes⟩
      rw [show fabPut s (firstDie s) _ 0 0 _ false s.cur.x.bytes = _ from hput]
  case grant =>
    intro a
    rw [exec_hostOwnershipGrant, execHostOwnershipGrant]
    have hfe := HomesApart.fe (HomesApart.orderedBytes s (some { hostWriter s with va := a }) false a a
      (c.words.flatMap (fun w => natToBytes 8 w.toNat)))
    dsimp only
    rw [hc]
    refine ⟨_, rfl, fun q => homeByte_orderedBytes .., congrArg (fun fe => fe.compl.erase c) hfe, rfl, ?_⟩
    dsimp only
    rw [show qReg (orderedBytes s _ false _ _ _) s.cur.x.id 0x38 = qReg s s.cur.x.id 0x38 from
      congrArg (fun fe : FrontEnd => (mapGet (0 : Word64) fe.regs (0x1000 + 0x40 * s.cur.x.id + 0x38)).toNat) hfe]
    exact congrArg (fun fe : FrontEnd => if c.intr && qReg s s.cur.x.id 0x38 == 1 then s.cur.x.id :: fe.msi else fe.msi) hfe
  case snoop =>
    rw [exec_hostSnoop, execHostSnoop]
    exact if_pos hown
  case acquire =>
    subst hi
    rw [exec_acquireTimeout, execAcquireTimeout]
    dsimp only
    rw [hp]
    refine (if_neg ?_).trans (congrArg Host.Outcome.next ((if_neg hplace).trans ?_))
    · rw [timedOut_of_due hdone hdue]
      rintro (h | h)
      · exact h hop
      · exact absurd h (by decide)
    · rw [if_neg hplace]
  case wait =>
    subst hi
    rw [exec_waitTimeout, execWaitTimeout]
    rw [hp]
    refine if_neg ?_
    rw [timedOut_of_due hdone hdue]
    rintro (h | h)
    · exact h hop
    · exact absurd h (by decide)

end Sys2Proof.Machine

namespace Sys2Proof.Machine

/-! ### Tables that a list of entries is put into -/

section
variable {α β : Type}

theorem mapFind_foldl_mapPut_other (l : List β) (key : β → Nat) (v : β → α) (m : SMap α) (i : Nat) (h : ∀ x ∈ l, key x ≠ i) :
    mapFind (l.foldl (fun m x => mapPut m (key x) (v x)) m) i = mapFind m i := by
  induction l generalizing m with
  | nil => rfl
  | cons y ys ih =>
    rw [List.foldl_cons, ih _ fun x hx => h x (List.mem_cons_of_mem _ hx)]
    exact mapFind_mapPut_other _ _ (Ne.symm (h y List.mem_cons_self))

/-- Where no two entries have one key, each stands in the table at its own. -/
theorem mapFind_foldl_mapPut (l : List β) (key : β → Nat) (v : β → α) (m : SMap α) (h : (l.map key).Nodup) {x : β} (hx : x ∈ l) :
    mapFind (l.foldl (fun m x => mapPut m (key x) (v x)) m) (key x) = some (v x) := by
  induction l generalizing m with
  | nil => cases hx
  | cons y ys ih =>
    obtain ⟨hy, hys⟩ := List.nodup_cons.1 h
    rw [List.foldl_cons]
    obtain rfl | hx := List.mem_cons.1 hx
    · rw [mapFind_foldl_mapPut_other ys key v _ _ fun z hz he => hy (List.mem_map.2 ⟨z, hz, he⟩)]
      exact mapFind_mapPut_same ..
    · exact ih _ hys hx

theorem keysRise_foldl_mapPut (l : List β) (key : β → Nat) (v : β → α) {m : SMap α} (h : keysRise m = true) :
    keysRise (l.foldl (fun m x => mapPut m (key x) (v x)) m) = true := by
  induction l generalizing m with
  | nil => exact h
  | cons y ys ih => exact ih (keysRise_mapPut _ _ h)

/-- In a table whose keys rise, each entry is the one that its key finds. -/
theorem mapFind_of_mem {m : SMap α} (h : keysRise m = true) {p : Nat × α} (hp : p ∈ m) : mapFind m p.1 = some p.2 := by
  induction m with
  | nil => cases hp
  | cons q r ih =>
    obtain ⟨hq, hr⟩ := List.pairwise_cons.1 ((keysRise_iff _).1 h)
    obtain rfl | hp := List.mem_cons.1 hp
    · simp [mapFind]
    · have hne : q.1 ≠ p.1 := Nat.ne_of_lt (hq p hp)
      have := ih ((keysRise_iff _).2 hr) hp
      simpa [mapFind, hne] using this

end

/-! ### Operations of a core and of memory that leave what is resident, launched and swapped out as it was -/

/-- What is resident, waiting, launched and swapped out, with the time and the package's management state. -/
def roster (s : State) :=
  (s.decks, s.spans, s.images, s.launches, s.runs, s.rings, s.cycle, s.mg)

def RosterKept (s t : State) : Prop := roster t = roster s

section
variable {s₀ s t : State}

theorem RosterKept.refl (s : State) : RosterKept s s := rfl

theorem RosterKept.decks (h : RosterKept s t) : t.decks = s.decks := congrArg Prod.fst h

theorem RosterKept.spans (h : RosterKept s t) : t.spans = s.spans := congrArg (fun r => r.2.1) h

theorem RosterKept.images (h : RosterKept s t) : t.images = s.images := congrArg (fun r => r.2.2.1) h

theorem RosterKept.launches (h : RosterKept s t) : t.launches = s.launches := congrArg (fun r => r.2.2.2.1) h

theorem RosterKept.runs (h : RosterKept s t) : t.runs = s.runs := congrArg (fun r => r.2.2.2.2.1) h

theorem RosterKept.cycle (h : RosterKept s t) : t.cycle = s.cycle := congrArg (fun r => r.2.2.2.2.2.2.1) h

theorem RosterKept.mg (h : RosterKept s t) : t.mg = s.mg := congrArg (fun r => r.2.2.2.2.2.2.2) h

theorem RosterKept.ite {c : Prop} [Decidable c] (h : RosterKept s₀ s) (k : RosterKept s₀ t) : RosterKept s₀ (if c then s else t) := by
  split
  · exact h
  · exact k

theorem RosterKept.foldl {α : Type} {f : State → α → State} {l : List α} (h : RosterKept s₀ s)
    (hf : ∀ t a, RosterKept s₀ t → RosterKept s₀ (f t a)) : RosterKept s₀ (l.foldl f s) := by
  induction l generalizing s with
  | nil => exact h
  | cons a as ih => exact ih (hf s a h)

theorem RosterKept.writeBack {g line : Nat} (h : RosterKept s₀ s) : RosterKept s₀ (writeBack s g line) := by
  unfold Machine.writeBack
  dsimp only
  split
  · exact h
  · exact RosterKept.ite h h

theorem RosterKept.dropCopy {g line : Nat} (h : RosterKept s₀ s) : RosterKept s₀ (dropCopy s g line) := h.writeBack (g := g) (line := line)

theorem RosterKept.invalidate {g line : Nat} (h : RosterKept s₀ s) : RosterKept s₀ (invalidate s g line) :=
  h.dropCopy (g := g) (line := line)

theorem RosterKept.dropLines {g : Nat} {p : L1Line → Bool} (h : RosterKept s₀ s) : RosterKept s₀ (dropLines s g p) := by
  unfold Machine.dropLines
  exact RosterKept.foldl (l := (coreOf s g).l1.filter p) h fun _ _ ht => ht.dropCopy

theorem RosterKept.takeBank {g p deck : Nat} {m : BankMode} (h : RosterKept s₀ s) : RosterKept s₀ (takeBank s g p deck m) := by
  unfold Machine.takeBank
  exact RosterKept.foldl (f := fun t x => Machine.invalidate t g x.line) (l := (coreOf s g).l1.filter (fun x => x.bank == p)) h
    fun _ _ ht => RosterKept.invalidate ht

theorem RosterKept.keyChange {g : Nat} {half : Bool} {key : Nat} (h : RosterKept s₀ s) : RosterKept s₀ (keyChange s g half key) :=
  RosterKept.ite h h.dropLines

theorem RosterKept.completePkt {i st reason value addr : Nat} (h : RosterKept s₀ s) :
    RosterKept s₀ (completePkt s i st reason value addr) := by
  unfold Machine.completePkt
  split
  · exact h
  · exact h

end

/-! ### A restored image (R156, R207, R209) -/

/-- What R207 restores of a span, whatever the time and its age. -/
def SameStand (a b : Span) : Prop :=
  b = { a with age := b.age, pend := b.pend }

theorem sameStand_refl (a : Span) : SameStand a a := rfl

theorem sameStand_resumeWait (s : State) (a : Span) : SameStand a (resumeWait s a) := by
  unfold resumeWait
  split <;> rfl

theorem SameStand.trans {a b c : Span} (h : SameStand a b) (k : SameStand b c) : SameStand a c := by
  unfold SameStand at *
  rw [k, h]

/-- Spans that a table's own entries replace, each by what stands as it does, stand as they did. -/
theorem sameStand_foldl {s : State} (hs : keysRise s.spans = true) (f : Span → Span) (hf : ∀ a, SameStand a (f a))
    (p : Nat × Span → Bool) {u : Nat} {sp : Span} (hu : spanOf s u = some sp) :
    ∃ sp', spanOf ((s.spans.filter p).foldl (fun t x => putSpan t x.1 (f x.2)) s) u = some sp' ∧ SameStand sp sp' := by
  have hl : ∀ x ∈ s.spans.filter p, spanOf s x.1 = some x.2 := fun x hx => mapFind_of_mem hs (List.mem_of_mem_filter hx)
  have key : ∀ (l : List (Nat × Span)) (t : State), (∀ x ∈ l, spanOf s x.1 = some x.2) →
      (∃ sp', spanOf t u = some sp' ∧ SameStand sp sp') →
      ∃ sp', spanOf (l.foldl (fun t x => putSpan t x.1 (f x.2)) t) u = some sp' ∧ SameStand sp sp' := by
    intro l
    induction l with
    | nil => exact fun t _ h => h
    | cons x xs ih =>
      intro t hx h
      refine ih _ (fun y hy => hx y (List.mem_cons_of_mem _ hy)) ?_
      by_cases he : u = x.1
      · subst he
        have hsp : sp = x.2 := Option.some.inj (hu.symm.trans (hx x List.mem_cons_self))
        exact ⟨_, spanOf_putSpan_same .., hsp ▸ hf _⟩
      · rw [spanOf_putSpan_other _ _ he]
        exact h
  exact key _ s hl ⟨sp, hu, sameStand_refl sp⟩

section
variable {s : State} {img : Image} {g : Nat} {half : Bool} {launch : Nat → Nat}

/-- Agents that are taken over leave the roster as it was. -/
theorem RosterKept.restoreAgent {s₀ s : State} {newId : Nat → Nat} {p : Nat × Agent} (h : RosterKept s₀ s) :
    RosterKept s₀ (restoreAgent s newId p) := h

/-- A deck of an image, as it stands in the context where it is restored. -/
def DeckPlaced (g : Nat) (half : Bool) (d d' : Deck) : Prop :=
  d'.core = g ∧ d'.half = half ∧ d'.index = d.index ∧ d'.coords = d.coords ∧ d'.frame = d.frame ∧ d'.join = d.join ∧ d'.retired = d.retired

/-- A span of an image, as it stands in the context where it is restored. -/
def SpanPlaced (g : Nat) (half : Bool) (base : Nat) (p sp : Span) : Prop :=
  sp.core = g ∧ sp.half = half ∧ sp.bay = p.bay ∧ sp.spc = p.spc ∧ sp.s = p.s ∧ sp.sEmpty = p.sEmpty ∧ sp.v = p.v ∧ sp.vEmpty = p.vEmpty ∧
  sp.am = p.am ∧ sp.live = p.live ∧ sp.pl = p.pl ∧ sp.masks = p.masks ∧ sp.rets = p.rets ∧ sp.queue = p.queue ∧ sp.regs = p.regs ∧
  sp.deck = p.deck + base ∧ sp.ahead = p.ahead

theorem SpanPlaced.of_sameStand {base : Nat} {p sp sp' : Span} (h : SpanPlaced g half base p sp) (k : SameStand sp sp') :
    SpanPlaced g half base p sp' := by
  rw [SameStand] at k
  rw [k]
  exact h

theorem restored_of_placed {t : State} {base : Nat}
    (hd : ∀ d ∈ img.decks, ∃ d', deckOf t (d.1 + base) = some d' ∧ DeckPlaced g half d.2 d')
    (hs : ∀ p ∈ img.spans, ∃ sp, spanOf t (p.1 + base) = some sp ∧ SpanPlaced g half base p.2 sp) : Restored t img base g half :=
  ⟨hd, hs⟩

theorem spans_foldl_putSpan {β : Type} (l : List β) (key : β → Nat) (v : β → Span) (t : State) :
    (l.foldl (fun t x => putSpan t (key x) (v x)) t).spans = l.foldl (fun m x => mapPut m (key x) (v x)) t.spans :=
  (List.foldl_hom State.spans fun _ _ => rfl).symm

theorem decks_foldl_putDeck {β : Type} (l : List β) (key : β → Nat) (v : β → Deck) (t : State) :
    (l.foldl (fun t x => putDeck t (key x) (v x)) t).decks = l.foldl (fun m x => mapPut m (key x) (v x)) t.decks :=
  (List.foldl_hom State.decks fun _ _ => rfl).symm

/-- What each step of a fold leaves alone, the fold does. -/
theorem rest_foldl {γ β : Type} (f : State → γ) (op : State → β → State) (hf : ∀ t x, f (op t x) = f t) (l : List β) (t : State) :
    f (l.foldl op t) = f t := by
  induction l generalizing t with
  | nil => rfl
  | cons x xs ih => exact (ih _).trans (hf ..)

/-- Spans that come into the active context are made younger and go on waiting; each stands as it did (R156, R209). -/
theorem sameStand_comingIn {t : State} (hk : keysRise t.spans = true) {u : Nat} {sp : Span} (hu : spanOf t u = some sp) :
    ∃ sp', spanOf ((ctxSpans (ageIn t g half) g half).foldl (fun v p => putSpan v p.1 (resumeWait (ageIn t g half) p.2)) (ageIn t g half)) u =
      some sp' ∧ SameStand sp sp' := by
  obtain ⟨sp1, hu1, h1⟩ := sameStand_foldl hk (fun a => { a with age := a.age + (coreOf t g).ageNext }) (fun a => rfl)
    (fun p => p.2.core == g && p.2.half == half) hu
  have hk1 : keysRise (ageIn t g half).spans = true := by
    have := keysRise_foldl_mapPut (ctxSpans t g half) Prod.fst (fun p => { p.2 with age := p.2.age + (coreOf t g).ageNext }) hk
    rwa [← spans_foldl_putSpan] at this
  obtain ⟨sp2, hu2, h2⟩ := sameStand_foldl (s := ageIn t g half) hk1 (resumeWait (ageIn t g half)) (sameStand_resumeWait _)
    (fun p => p.2.core == g && p.2.half == half) (sp := sp1) hu1
  exact ⟨sp2, hu2, h1.trans h2⟩

theorem nodup_map_add {β : Type} {l : List (Nat × β)} (h : (l.map Prod.fst).Nodup) (base : Nat) : (l.map (fun x => x.1 + base)).Nodup := by
  rw [show (l.map fun x => x.1 + base) = (l.map Prod.fst).map (· + base) by simp]
  exact h.map fun a b hab => Nat.add_right_cancel hab

/-- Decks that are put under new numbers stand there. -/
theorem placed_decks {t : State} {base : Nat} (hd : (img.decks.map Prod.fst).Nodup) (f : Nat × Deck → Deck)
    (hf : ∀ d, DeckPlaced g half d.2 (f d)) : ∀ d ∈ img.decks, ∃ d',
      deckOf (img.decks.foldl (fun t d => putDeck t (d.1 + base) (f d)) t) (d.1 + base) = some d' ∧ DeckPlaced g half d.2 d' := fun d hm => by
  refine ⟨f d, ?_, hf d⟩
  rw [deckOf, decks_foldl_putDeck]
  exact mapFind_foldl_mapPut img.decks (fun d => d.1 + base) f _ (nodup_map_add hd base) hm

/-- Spans that are put under new numbers stand there. -/
theorem placed_spans {t : State} {base : Nat} (hs : (img.spans.map Prod.fst).Nodup) (f : Nat × Span → Span)
    (hf : ∀ p, SpanPlaced g half base p.2 (f p)) : ∀ p ∈ img.spans, ∃ sp,
      spanOf (img.spans.foldl (fun t p => putSpan t (p.1 + base) (f p)) t) (p.1 + base) = some sp ∧ SpanPlaced g half base p.2 sp :=
  fun p hm => by
  refine ⟨f p, ?_, hf p⟩
  rw [spanOf, spans_foldl_putSpan]
  exact mapFind_foldl_mapPut img.spans (fun p => p.1 + base) f _ (nodup_map_add hs base) hm

/-- No image keeps the decks that are taken out. -/
theorem out_takeOut {t : State} {decks : List (Nat × Deck)} : ∀ m ∈ (takeOut t decks).images, ∀ d ∈ decks, d.1 ∉ m.2.out := by
  intro m hm d hd hout
  obtain ⟨im, -, rfl⟩ := List.mem_map.1 hm
  obtain ⟨-, hno⟩ := List.mem_filter.1 hout
  rw [Bool.not_eq_true', List.any_eq_false] at hno
  exact hno d hd (beq_self_eq_true d.1)

/-- A restored image: every deck and span stands under its new number, and no image keeps its decks. -/
theorem restored_restoreImage (hk : keysRise s.spans = true) (hd : (img.decks.map Prod.fst).Nodup) (hs : (img.spans.map Prod.fst).Nodup) :
    (∃ base, Restored (restoreImage s img g half launch) img base g half) ∧
      ∀ m ∈ (restoreImage s img g half launch).images, ∀ d ∈ img.decks, d.1 ∉ m.2.out := by
  unfold restoreImage
  extract_lets kept s0 base newId free bankTo owner s1 moved s2 s3 c4 s4 s5 s6 s7
  have h1 : RosterKept s s1 := by
    refine (RosterKept.refl s).keyChange.foldl fun t b ht => ?_
    split
    · next p _ => exact ht.takeBank (g := g) (p := p) (deck := newId (owner b.1)) (m := b.2.mode)
    · exact ht
  have h5 : RosterKept s3 s5 := RosterKept.foldl (s := s4) rfl fun t p ht => ht.restoreAgent
  have hdecks : s6.decks = s2.decks := h5.decks.trans (rest_foldl State.decks _ (by exact fun _ _ => rfl) img.spans s2)
  have hspans : s6.spans = s3.spans := h5.spans
  have hk6 : keysRise s6.spans = true := by
    have h2 : s2.spans = s.spans := (rest_foldl State.spans _ (by exact fun _ _ => rfl) img.decks s1).trans h1.spans
    rw [hspans, show s3.spans = _ from spans_foldl_putSpan .., h2]
    exact keysRise_foldl_mapPut _ _ _ hk
  have hdeck : ∀ d ∈ img.decks, ∃ d', deckOf s6 (d.1 + base) = some d' ∧ DeckPlaced g half d.2 d' := by
    rw [show deckOf s6 = deckOf s2 from congrArg mapFind hdecks]
    exact placed_decks hd _ fun d => ⟨rfl, rfl, rfl, rfl, rfl, rfl, rfl⟩
  have hspan : ∀ p ∈ img.spans, ∃ sp, spanOf s6 (p.1 + base) = some sp ∧ SpanPlaced g half base p.2 sp := by
    rw [show spanOf s6 = spanOf s3 from congrArg mapFind hspans]
    exact placed_spans hs _ fun p => ⟨rfl, rfl, rfl, rfl, rfl, rfl, rfl, rfl, rfl, rfl, rfl, rfl, rfl, rfl, rfl, rfl, rfl⟩
  have hout : ∀ m ∈ s6.images, ∀ d ∈ img.decks, d.1 ∉ m.2.out := out_takeOut
  clear_value s6
  split
  · have hrest : ∀ {γ : Type} (f : State → γ), (∀ t u sp, f (putSpan t u sp) = f t) → (∀ t c x, f (putCore t c x) = f t) →
        f ((ctxSpans s7 g half).foldl (fun t p => putSpan t p.1 (resumeWait s7 p.2)) s7) = f s6 := fun f hp hc =>
      (rest_foldl f _ (fun _ _ => hp ..) (ctxSpans s7 g half) s7).trans ((hc ..).trans (rest_foldl f _ (fun _ _ => hp ..) ..))
    refine ⟨⟨base, restored_of_placed ?_ ?_⟩, ?_⟩
    · intro d hm
      rw [deckOf, hrest State.decks (fun _ _ _ => rfl) (fun _ _ _ => rfl)]
      exact hdeck d hm
    · intro p hm
      obtain ⟨sp, hsp, hplaced⟩ := hspan p hm
      obtain ⟨sp', hsp', hsame⟩ := sameStand_comingIn (g := g) (half := half) hk6 hsp
      exact ⟨sp', hsp', hplaced.of_sameStand hsame⟩
    · rw [hrest State.images (fun _ _ _ => rfl) (fun _ _ _ => rfl)]
      exact hout
  · exact ⟨⟨base, restored_of_placed hdeck hspan⟩, hout⟩

end

end Sys2Proof.Machine

namespace Sys2Proof.Machine

/-! ### Placement, retirement and completion (R154 to R159, R286 to R293, R317, R320) -/

section
variable {s t : State}

theorem withServed_serving {p : Nat} {x : RingRec} {l : Launch} (h : Serving s p x l) (k : Nat → RingRec → Launch → Res) :
    withServed s k = k p x l := by
  obtain ⟨hclock, hserved, hl⟩ := h
  rw [withServed]
  refine (if_neg (by rw [hclock]; decide)).trans ?_
  rw [hserved]
  dsimp only
  rw [hl]

/-- A launch that is not deterministic, or whose phase is the deck's, places it now. -/
theorem phase_of_det {l : Launch} {a b : Nat} (h : l.det = true → a = b) : ¬ (l.det = true ∧ a ≠ b) := fun hn => hn.2 (h hn.1)

theorem RosterKept.orderFence {s₀ s : State} {a core scope : Nat} (h : RosterKept s₀ s) : RosterKept s₀ (orderFence s a core scope) := h

/-- Of the decks, a deck's start changes that one alone. -/
theorem decks_startDeck (s : State) (k : Nat) (d : Deck) : (startDeck s k d).decks = mapPut s.decks k { d with started := true } := by
  have h : RosterKept s (d.uids.foldl (fun t u => Machine.orderFence t u d.core 4) (Machine.dropLines s d.core (fun _ => true))) :=
    (RosterKept.refl s).dropLines.foldl fun _ _ ht => ht.orderFence
  exact congrArg (mapPut · k _) h.decks

/-- The decks of a gang stand started. -/
theorem deckOf_startDecks (l : List (Nat × Deck)) (hl : (l.map Prod.fst).Nodup) {x : Nat × Deck} (hx : x ∈ l) :
    deckOf (l.foldl (fun t x => startDeck t x.1 x.2) s) x.1 = some { x.2 with started := true } := by
  have h : (l.foldl (fun t x => startDeck t x.1 x.2) s).decks = l.foldl (fun m x => mapPut m x.1 { x.2 with started := true }) s.decks :=
    (List.foldl_hom State.decks fun t x => (decks_startDeck t x.1 x.2).symm).symm
  rw [deckOf, h]
  exact mapFind_foldl_mapPut l Prod.fst (fun x => { x.2 with started := true }) _ hl hx

/-! ### A retired deck leaves (R286) -/

theorem BytesKept.noteStatus (s : State) (launch k : Nat) : BytesKept s (noteStatus s launch k) := by
  unfold Machine.noteStatus
  split <;> exact BytesKept.refl _

theorem BytesKept.freeBank (s : State) (g p : Nat) : BytesKept s (freeBank s g p) := ⟨fun _ => rfl, rfl, rfl⟩

theorem BytesKept.publish (s : State) (a : Nat) : BytesKept s (publish s a).1 := ⟨fun _ => rfl, rfl, rfl⟩

theorem BytesKept.acquireFrom (s : State) (a core scope key v : Nat) (rs : Option (List (Nat × Nat))) :
    BytesKept s (acquireFrom s a core scope key v rs) := ⟨fun _ => rfl, rfl, rfl⟩

theorem BytesKept.handOver (s : State) (a b : Nat) : BytesKept s (handOver s a b) := ⟨fun _ => rfl, rfl, rfl⟩

/-- A deck that leaves writes nothing of memory. -/
theorem BytesKept.dropDeck (s : State) (k : Nat) (d : Deck) : BytesKept s (dropDeck s k d) := by
  unfold Machine.dropDeck
  extract_lets s1 s2 s3 s4
  have h1 : BytesKept s s1 := BytesKept.ite (BytesKept.noteStatus ..) (BytesKept.refl _)
  have h2 : BytesKept s1 s2 := BytesKept.ite (BytesKept.foldl (fun t p => BytesKept.freeBank t d.core p) _ _) (BytesKept.refl _)
  have h3 : BytesKept s2 s3 := BytesKept.ite (BytesKept.handOver ..) (BytesKept.refl _)
  have h4 : BytesKept s3 s4 := BytesKept.handOver s3 k (runAgent (numberOf s3 d.launch))
  clear_value s4
  exact (h1.trans (h2.trans (h3.trans h4))).trans ⟨fun _ => rfl, rfl, rfl⟩

theorem deckOf_dropDeck (s : State) (k : Nat) (d : Deck) : deckOf (dropDeck s k d) k = none := mapFind_mapDel_same ..

theorem joinDecrement_fst (s : State) (k : Nat) (d : Deck) (va pa : Nat) :
    (joinDecrement s k d va pa).1 =
      let p := publish (acquireFrom s k d.core 4 (relKey pa) 0 none) k
      let t := addRelease p.1 (relKey pa) ⟨0, 4, d.core, p.2⟩
      orderedBytes t (some (writerOf t k d.core 0 va)) true va pa (natToBytes 8 ((homeRead s pa 8 + 2 ^ 64 - 1) % 2 ^ 64)) := rfl

theorem writerOf_addRelease (s : State) (key : Nat) (r : Released) (a : Nat) (id : Int) (m : BitVec 128) (va : Nat) :
    writerOf (addRelease s key r) a id m va = writerOf s a id m va := rfl

/-- The join word takes its place in its bytes' orders, one less, and no other byte changes (R249, R286). -/
theorem wroteValue_joinDecrement (s : State) (k : Nat) (d : Deck) (va pa : Nat) :
    wroteValue s (joinDecrement s k d va pa).1 (some (writerOf (publish (acquireFrom s k d.core 4 (relKey pa) 0 none) k).1 k d.core 0 va)) true
      va pa 8 ((homeRead s pa 8 + 2 ^ 64 - 1) % 2 ^ 64) := by
  rw [joinDecrement_fst]
  generalize (homeRead s pa 8 + 2 ^ 64 - 1) % 2 ^ 64 = v
  extract_lets p t
  have ht : BytesKept s t := (BytesKept.acquireFrom ..).trans ((BytesKept.publish ..).trans (BytesKept.addRelease ..))
  rw [show writerOf t k d.core 0 va = _ from writerOf_addRelease ..]
  exact wroteValue_of_kept (wroteValue_orderedBytes _ _ _ _ _ _ _) ht (BytesKept.refl _)

/-- A retired deck with nothing left to do, before its join word: what then follows. -/
def retireEnd (s : State) (k : Nat) (d : Deck) (l : Launch) : Res :=
  if d.join.toNat = 0 ∨ d.gone = true then .next (dropDeck s k d)
  else if inLocal d.join.toNat = true ∨ inQuad d.join.toNat = true then .next (noteJoinFault (dropDeck s k d) d.launch d.join.toNat)
  else match dieXlate s (d.core / 32) l.root l.key d.join.toNat 1 (.front k) with
    | .wait s => .next s
    | .fail => .next (noteJoinFault (dropDeck s k d) d.launch d.join.toNat)
    | .ok pa bar =>
      if bar = true ∨ (!isHbm pa) = true ∨ (homeOf s (pa / 128)).counted = true then
        .next (noteJoinFault (dropDeck s k d) d.launch d.join.toNat)
      else
        if (joinDecrement s k d d.join.toNat pa).2.1 ≠ 1 ∨ (joinDecrement s k d d.join.toNat pa).2.2 = 0 ∨ d.lost = true then
          .next (dropDeck (joinDecrement s k d d.join.toNat pa).1 k d)
        else .next (pushSuccessor (joinDecrement s k d d.join.toNat pa).1 k d l (joinDecrement s k d d.join.toNat pa).2.2)

/-- A retired deck whose writes are performed goes on to its join word (R286). -/
theorem deckRetire_settled {d : Deck} {l : Launch} (hd : deckOf s s.cur.x.id = some d) (hl : mapFind s.launches d.launch = some l)
    (hret : d.retired = true) (hclean : ∀ x ∈ (coreOf s d.core).l1, x.dirty = 0 ∨ ∀ u ∈ x.by_, u ∉ d.uids)
    (hbusy : deckBusy s s.cur.x.id d = false) (hjoined : d.joined = none) : execDeckRetire s = retireEnd s s.cur.x.id d l := by
  have hnone : (coreOf s d.core).l1.filter (fun x => x.dirty != 0 && x.by_.any d.uids.contains) = [] := by
    refine List.filter_eq_nil_iff.2 fun x hx h => ?_
    obtain ⟨hdirty, hby⟩ := Bool.and_eq_true_iff.1 h
    obtain ⟨u, hu, hin⟩ := List.any_eq_true.1 hby
    obtain h0 | hno := hclean x hx
    · rw [h0] at hdirty; exact absurd hdirty (by decide)
    · exact hno u hu (List.contains_iff_mem.1 hin)
  rw [execDeckRetire]
  dsimp only
  rw [hd]
  dsimp only
  rw [hl]
  dsimp only
  rw [hnone, hjoined]
  exact (if_neg (by rw [hret]; decide)).trans ((if_neg (by decide)).trans ((if_neg (by rw [hbusy]; exact Bool.false_ne_true)).trans rfl))

/-- The completion of a launch number, where a packet of the host waits for it (R317). -/
def tellPacket (s : State) (n : Nat) (r : Run) : State :=
  match r.pkt with
  | none => s
  | some i => match mapFind s.fe.pkts i with
    | none => s
    | some p =>
      if p.op = 2 then resumeDone s i n (runStatus r.noted) (if runStatus r.noted = noteFault then r.addr else 0)
      else completePkt s i (runStatus r.noted) 0 n (if runStatus r.noted = noteFault then r.addr else 0)

/-- A placed image's packet goes on with its launch numbers, or completes (R320). -/
def tellPlaced (s : State) (i : Nat) (p : Pkt) (nums : List (Nat × Nat)) : State :=
  let low := (nums.map Prod.snd).foldl (fun m n => if m = 0 ∨ n < m then n else m) 0
  let s := { s with fe := { s.fe with pkts := mapPut s.fe.pkts i { p with nums := nums.map Prod.snd, c := low, done := 1, b := 0 } } }
  if nums.isEmpty then completePkt s i 0 0 0 0 else s

theorem RosterKept.tellPlaced (s : State) (i : Nat) (p : Pkt) (nums : List (Nat × Nat)) : RosterKept s (tellPlaced s i p nums) :=
  RosterKept.ite (RosterKept.completePkt (RosterKept.refl s)) (RosterKept.refl s)

/-- What is restored stands while the roster does. -/
theorem RosterKept.restored {img : Image} {base g : Nat} {half : Bool} (h : RosterKept s t) (hr : Restored s img base g half) :
    Restored t img base g half := by
  unfold Restored deckOf spanOf at *
  rw [h.decks, h.spans]
  exact hr

theorem spans_resumeLaunches (s : State) (i a : Nat) (img : Image) : (resumeLaunches s i a img).1.spans = s.spans := rfl

/-- A waiting RESUME's image that is placed stands in the core's active context, and no image keeps its decks (R320). -/
theorem placed_resume (i a g : Nat) (p : Pkt) (hk : keysRise s.spans = true) (hd : ((imageAt s a).decks.map Prod.fst).Nodup)
    (hs : ((imageAt s a).spans.map Prod.fst).Nodup) :
    ∃ t base, t = tellPlaced (restoreImage (resumeLaunches s i a (imageAt s a)).1 (imageAt s a) g (coreOf s g).active
        (resumeLaunches s i a (imageAt s a)).2) i p (resumeNumbers s a) ∧
      Restored t (imageAt s a) base g (coreOf s g).active ∧ ∀ m ∈ t.images, ∀ d ∈ (imageAt s a).decks, d.1 ∉ m.2.out := by
  rw [← spans_resumeLaunches s i a (imageAt s a)] at hk
  generalize resumeLaunches s i a (imageAt s a) = r at hk ⊢
  generalize imageAt s a = img at hd hs ⊢
  obtain ⟨⟨base, hplaced⟩, hout⟩ := restored_restoreImage (g := g) (half := (coreOf s g).active) (launch := r.2) hk hd hs
  have hkept := RosterKept.tellPlaced (restoreImage r.1 img g (coreOf s g).active r.2) i p (resumeNumbers s a)
  refine ⟨_, base, rfl, hkept.restored hplaced, ?_⟩
  rw [hkept.images]
  exact hout

/-! ### Launch records that an image names (R320) -/

/-- The package with the launch record of a deck of an image, read from memory where it has none. -/
def loadRecord (a : Nat) (s : State) (k : Nat) : Option State :=
  if (slotLaunch s a k).isSome then some s
  else (readLaunch s a k).map (fun l => { s with launches := mapPut s.launches s.nextId l, nextId := s.nextId + 1 })

theorem cores_loadRecord {a k : Nat} (h : loadRecord a s k = some t) : t.cores = s.cores := by
  unfold loadRecord at h
  split at h
  · exact congrArg State.cores (Option.some.inj h).symm
  · obtain ⟨l, -, rfl⟩ := Option.map_eq_some_iff.1 h
    rfl

/-- The launch records that are read for an image change no core. -/
theorem cores_loadLaunches {a : Nat} (h : loadLaunches s a = some t) : t.cores = s.cores := by
  have key : ∀ (l : List Nat) (r : Option State), l.foldl (fun r k => r.bind fun s => loadRecord a s k) r = some t →
      ∃ u, r = some u ∧ t.cores = u.cores := by
    intro l
    induction l with
    | nil => exact fun r hr => ⟨t, hr, rfl⟩
    | cons k ks ih =>
      intro r hr
      obtain ⟨v, hv, hcores⟩ := ih _ hr
      obtain ⟨u, rfl, hu⟩ := Option.bind_eq_some_iff.1 hv
      exact ⟨u, rfl, hcores.trans (cores_loadRecord hu)⟩
  obtain ⟨u, hu, hcores⟩ := key _ _ h
  rw [hcores, Option.some.inj hu]

end

end Sys2Proof.Machine

namespace Sys2Proof
open Machine

/-- Settles O45: the served record, a ready deck, a retired deck, an ended launch and a waiting image each take their own way. -/
theorem placementAndRetirement : Obligations.PlacementAndRetirement := by
  refine ⟨fun s p g k x l d => ⟨fun hs hgang hphase hcore => ?place, fun hnone => ?plain, fun hswap hdone => ?swapped,
    fun hs hgang hlast hphase hplace => ?reserve, fun hs hgang hall => ?commit, fun hk hd hl hready hclock => ⟨fun hgang => ?start,
      fun hgang hnodup hall => ?gang⟩, fun r rest hp hdelayed hroom => ?push⟩,
    fun s k pa n i g d l r p img => ⟨fun hk hd hl hret hclean hbusy hjoined => ⟨fun hgone => ?left, fun hj hgone hlocal hquad hx hhbm hcount hold => ?join⟩,
      fun ha hr hdead => ?complete, fun hi hp hop hnums hdone hclock hok s1 hload himg hg hroom hkspans hkdecks hnd hns => ?resume,
      fun hi hp hop hnums hdone hclock href => ?refused⟩⟩
  case place =>
    rw [exec_deckPlace, execDeckPlace, withServed_serving hs]
    refine (if_neg ?_).trans ?_
    · rintro (h | h)
      · rw [hgang] at h; exact Bool.false_ne_true h
      · exact phase_of_det hphase h
    · rw [hcore]
  case plain =>
    unfold deckCore
    rw [hnone]
  case swapped =>
    unfold deckCore
    rw [hswap]
    exact if_neg (by rw [hdone]; exact Bool.false_ne_true)
  case reserve =>
    rw [exec_gangReserve, execGangReserve, withServed_serving hs]
    refine (if_neg ?_).trans ?_
    · rintro (h | h | h)
      · rw [hgang] at h; exact absurd h (by decide)
      · omega
      · exact phase_of_det hphase h
    · rw [hplace]
  case commit =>
    rw [exec_gangCommit, execGangCommit, withServed_serving hs]
    refine if_neg ?_
    rintro (h | h)
    · rw [hgang] at h; exact absurd h (by decide)
    · exact h hall
  case start =>
    subst hk
    rw [exec_deckStart, execDeckStart, hd]
    dsimp only
    rw [hl, Option.map_some, Option.getD_some, hgang]
    rw [if_neg Bool.false_ne_true]
    refine (if_neg ?_).trans rfl
    rw [hclock, List.all_cons, hready, List.all_nil]
    decide
  case gang =>
    subst hk
    rw [exec_deckStart, execDeckStart, hd]
    dsimp only
    rw [hl, Option.map_some, Option.getD_some, hgang]
    have hmem : ∀ x, x ∈ s.decks.filter (fun x => x.2.launch == d.launch && !x.2.started && !x.2.retired) ↔
        x ∈ s.decks ∧ x.2.launch = d.launch ∧ x.2.started = false ∧ x.2.retired = false := fun x => by
      rw [List.mem_filter, Bool.and_eq_true, Bool.and_eq_true, beq_iff_eq, Bool.not_eq_true', Bool.not_eq_true', and_assoc]
    rw [if_pos rfl]
    refine ⟨_, if_neg ?_, fun x hx h1 h2 h3 =>
      deckOf_startDecks _ (hnodup.sublist (List.filter_sublist.map _)) ((hmem x).2 ⟨hx, h1, h2, h3⟩)⟩
    have hready_all := List.all_eq_true.2 fun x hx => (hmem x).1 hx |>.elim fun hx h => hall x hx h.1 h.2.1 h.2.2
    rw [hclock, hready, hready_all]
    decide
  case push =>
    subst hp
    rw [exec_delayedRingPush, execDelayedRingPush]
    dsimp only
    rw [hdelayed]
    exact if_pos hroom
  case left =>
    subst hk
    rw [exec_deckRetire, deckRetire_settled hd hl hret hclean hbusy hjoined]
    exact if_pos (hgone.imp (fun h => by rw [h]; rfl) id)
  case join =>
    subst hk
    have hj' : d.join.toNat ≠ 0 := fun h => hj (BitVec.eq_of_toNat_eq h)
    refine ⟨dropDeck (joinDecrement s s.cur.x.id d d.join.toNat pa).1 s.cur.x.id d, ?_, deckOf_dropDeck ..,
      wroteValue_of_kept (wroteValue_joinDecrement _ _ _ _ _) (BytesKept.refl _) (BytesKept.dropDeck ..)⟩
    rw [exec_deckRetire, deckRetire_settled hd hl hret hclean hbusy hjoined]
    refine (if_neg (not_or.2 ⟨hj', by rw [hgone]; exact Bool.false_ne_true⟩)).trans
      ((if_neg (by rw [hlocal, hquad]; decide)).trans ?_)
    rw [hx]
    refine (if_neg (by rw [hhbm, hcount]; decide)).trans (if_pos (Or.inl hold))
  case complete =>
    intro lines t u v
    subst ha
    have hend : exec .launchComplete s = .next (tellPacket v s.cur.x.a r) := by
      rw [exec_launchComplete, execLaunchComplete]
      rw [hr]
      exact if_neg (by rw [hdead]; exact Bool.false_ne_true)
    rw [hend]
    clear_value v
    unfold tellPacket
    refine ⟨fun hpkt => by rw [hpkt], fun hpkt hpk hop => ?_⟩
    rw [hpkt]
    dsimp only
    rw [hpk]
    exact congrArg Host.Outcome.next (if_neg hop)
  case resume =>
    subst hi himg
    rw [exec_resumePlacement, execResumePlacement]
    dsimp only
    rw [hp]
    have hrun : ¬ (p.op ≠ 2 ∨ (!p.nums.isEmpty) = true ∨ p.done ≠ 0 ∨ (!clocked s) = true) := by
      rw [hnums, hclock, hop, hdone]; decide
    have hload' : (if imageRefused s p.a p.key = true then none else loadLaunches s p.a) = some s1 :=
      (if_neg (by rw [hok]; exact Bool.false_ne_true)).trans hload
    have hactive : (coreOf s1 g).active = (coreOf s g).active := by rw [coreOf, coreOf, cores_loadLaunches hload]
    obtain ⟨t, base, ht, hplaced, hout⟩ := placed_resume s.cur.x.id p.a g p hkspans hnd hns
    rw [hactive] at hplaced
    refine ⟨t, base, (if_neg hrun).trans ?_, hplaced, hout⟩
    rw [hload']
    dsimp only
    rw [hg]
    exact (if_neg (Nat.not_lt_of_le hroom)).trans (congrArg Host.Outcome.next ht.symm)
  case refused =>
    subst hi
    rw [exec_resumePlacement, execResumePlacement]
    dsimp only
    rw [hp]
    refine (if_neg (by rw [hnums, hclock, hop, hdone]; decide)).trans ?_
    rw [if_pos href]

end Sys2Proof

namespace Sys2Proof.Machine

/-! ### Mesh reductions (R273 to R280, R305) -/

/-- A slice's write of a number at its home takes its place in its bytes' orders (R249). -/
theorem wroteValue_dieWriteNat (s : State) (die pa n x : Nat) :
    wroteValue s (dieWriteNat s die pa n x) (some { dieWriter s die (dieAgent die) with va := pa }) false pa pa n x :=
  wroteValue_orderedBytes s (some { dieWriter s die (dieAgent die) with va := pa }) false pa pa n x

/-- A write at the home leaves the orders of the bytes beside it. -/
theorem ordersAt_orderedBytes_other (s : State) (w : Option Writer) (at_ : Bool) (va pa : Nat) (l : List Byte) {q : Nat}
    (hq : q < pa ∨ pa + l.length ≤ q) : ordersAt (orderedBytes s w at_ va pa l) q = ordersAt s q := by
  have key : ∀ (cs : List (Byte × Nat)) (t : State), (∀ c ∈ cs, q ≠ pa + c.2) →
      ordersAt (cs.foldl (fun t b => orderedPut t w at_ (va + b.2) (pa + b.2) b.1) t) q = ordersAt t q := by
    intro cs
    induction cs with
    | nil => exact fun t _ => rfl
    | cons c cs ih =>
      intro t h
      rw [List.foldl_cons, ih _ fun x hx => h x (List.mem_cons_of_mem _ hx)]
      exact ordersAt_orderedPut_other t w at_ _ _ _ (h c List.mem_cons_self)
  refine (key l.zipIdx (lineWritten s (pa / 128)) fun c hc => ?_).trans ((BytesKept.lineWritten s _).ordersAt q)
  have := (List.mem_zipIdx' hc).1
  omega

theorem ord_lineWritten (s : State) (line : Nat) : (lineWritten s line).ord = s.ord := by
  have hgroups : (touchGroups s line).ord = s.ord := by
    unfold touchGroups
    split <;> rfl
  have hresid : ∀ t, (touchResid t line).ord = t.ord := fun t => by
    unfold touchResid
    split <;> rfl
  obtain ⟨ls, n, h⟩ := homeTouch_eq (touchResid (touchGroups s line) line) line
  rw [lineWritten, h]
  exact (hresid _).trans hgroups

theorem agents_orderedPut (s : State) (w : Option Writer) (at_ : Bool) (va pa : Nat) (b : Byte) :
    (orderedPut s w at_ va pa b).ord.agents = s.ord.agents := by
  cases w with
  | none => exact congrArg Order.agents (homePut_ord ..)
  | some w =>
    unfold orderedPut
    dsimp only
    split
    · rw [homePut_ord]; rfl
    · rfl

/-- A write at the home changes no agent. -/
theorem agents_orderedBytes (s : State) (w : Option Writer) (at_ : Bool) (va pa : Nat) (l : List Byte) :
    (orderedBytes s w at_ va pa l).ord.agents = s.ord.agents :=
  (rest_foldl (fun t => t.ord.agents) _ (fun t _ => agents_orderedPut t w at_ ..) l.zipIdx _).trans
    (congrArg Order.agents (ord_lineWritten s (pa / 128)))

theorem dieWriter_orderedBytes (s : State) (w : Option Writer) (at_ : Bool) (va pa : Nat) (l : List Byte) (die a : Nat) :
    dieWriter (orderedBytes s w at_ va pa l) die a = dieWriter s die a := by
  unfold dieWriter writerOf agentOf
  rw [agents_orderedBytes]

/-- Two writes of one slice that do not meet: each takes its place in its bytes' orders. -/
theorem homeByte_dieWriteNat_twice (s : State) (die a n x b m y : Nat) (hapart : b + m ≤ a) (q : Nat) :
    homeByte (dieWriteNat (dieWriteNat s die a n x) die b m y) q =
      if a ≤ q ∧ q < a + n then leaves s (some { dieWriter s die (dieAgent die) with va := a }) false q q ((natToBytes n x).getD (q - a) 0)
      else if b ≤ q ∧ q < b + m then
        leaves s (some { dieWriter s die (dieAgent die) with va := b }) false q q ((natToBytes m y).getD (q - b) 0)
      else homeByte s q := by
  have h1 := wroteValue_dieWriteNat s die a n x q
  rw [wroteValue_dieWriteNat (dieWriteNat s die a n x) die b m y q]
  by_cases hb : b ≤ q ∧ q < b + m
  · have hna : ¬ (a ≤ q ∧ q < a + n) := by omega
    rw [if_pos hb, if_neg hna, if_pos hb]
    rw [if_neg hna] at h1
    have ho : ordersAt (dieWriteNat s die a n x) q = ordersAt s q :=
      ordersAt_orderedBytes_other s _ _ _ _ _ (by rw [length_natToBytes]; omega)
    rw [leaves_congr _ _ _ _ ho h1, dieWriteNat, dieWriter_orderedBytes, show b + (q - b) = q by omega]
  · rw [if_neg hb, h1]
    split
    · next ha => rw [show a + (q - a) = q by omega]
    · rfl

/-- A round that closes without a landing: two words at the handle are written, and the round and its messages are gone (R280). -/
theorem closeRound_none (s : State) (r : Round) (st : Nat) (cores : BitVec 512) : ∃ x y, closeRound s r st cores none =
    dropFails { dieWriteNat (dieWriteNat s (rootDie r) (r.handle + 0x80) 64 cores.toNat) (rootDie r) (r.handle + 0x18) 8
      (bitsAt (homeRead s (r.handle + 0x18) 8) 0 48 + (st + 128) * 2 ^ 48 + (r.round + 1) % 256 * 2 ^ 56) with
      rounds := mapDel x r.handle, meshMsgs := y } (.mesh r.handle) := ⟨_, _, rfl⟩

theorem mapFind_closeRound (s : State) (r : Round) (st : Nat) (cores : BitVec 512) :
    mapFind (closeRound s r st cores none).rounds r.handle = none := by
  obtain ⟨x, y, h⟩ := closeRound_none s r st cores
  rw [h]
  exact mapFind_mapDel_same ..

theorem homeByte_withRounds (s : State) (x : SMap Round) (y : SMap MeshMsg) (w : Who) (q : Nat) :
    homeByte (dropFails { s with rounds := x, meshMsgs := y } w) q = homeByte s q := rfl

theorem homeByte_closeRound (s : State) (r : Round) (st : Nat) (cores : BitVec 512) (q : Nat) :
    homeByte (closeRound s r st cores none) q =
      if r.handle + 0x80 ≤ q ∧ q < r.handle + 0x80 + 64 then
        leaves s (some { dieWriter s (rootDie r) (dieAgent (rootDie r)) with va := r.handle + 0x80 }) false q q
          ((natToBytes 64 cores.toNat).getD (q - (r.handle + 0x80)) 0)
      else if r.handle + 0x18 ≤ q ∧ q < r.handle + 0x18 + 8 then
        leaves s (some { dieWriter s (rootDie r) (dieAgent (rootDie r)) with va := r.handle + 0x18 }) false q q
          ((natToBytes 8 (bitsAt (homeRead s (r.handle + 0x18) 8) 0 48 + (st + 128) * 2 ^ 48 + (r.round + 1) % 256 * 2 ^ 56)).getD
            (q - (r.handle + 0x18)) 0)
      else homeByte s q := by
  obtain ⟨x, y, h⟩ := closeRound_none s r st cores
  rw [h, homeByte_withRounds]
  generalize bitsAt (homeRead s (r.handle + 0x18) 8) 0 48 + (st + 128) * 2 ^ 48 + (r.round + 1) % 256 * 2 ^ 56 = n
  exact homeByte_dieWriteNat_twice s (rootDie r) (r.handle + 0x80) 64 cores.toNat (r.handle + 0x18) 8 n (by omega) q

/-- Settles O48: each message at its node, the timeout, and the bytes that a drop and a close write at the handle. -/
theorem meshReductions : Obligations.MeshReductions := by
  refine ⟨fun s i m r t0 b hi => ?_, fun s r st h cores hst => ?_⟩
  · intro s1
    subst hi
    refine ⟨fun hm => ⟨fun hkind hr htree hexact hdie hexp hpkg hround hsent hown => ?joins, fun hkind hr hround hdie => ?dropped,
      fun hkind hi hway hr => ?merged, fun hkind hway hr => ?notice⟩, fun hr ht0 hlimit hdue hfinal hbar => ?timeout⟩
    case joins =>
      rw [exec_meshContribution, execMeshContribution, hm]
      refine (if_neg (not_not_intro hkind)).trans ?_
      dsimp only
      rw [hr, Option.getD_some, Option.isSome_some, Bool.true_or]
      refine (if_neg (by rw [show s.mg.failedDies.contains (rootDie r) = false from hdie]; exact Bool.false_ne_true)).trans
        ((if_neg ?_).trans ?_)
      · rintro (h | h | h | ⟨h, hne⟩ | h | h | h)
        · exact absurd h (by decide)
        · exact Nat.not_lt_of_le h htree
        · rw [show r.expected.getLsbD m.core = true from hexp] at h; exact absurd h (by decide)
        · exact hne (hpkg (by simpa using h))
        · exact h hround
        · rw [show (nodeOf r m.src).sent = false from hsent] at h; exact Bool.false_ne_true h
        · obtain ⟨x, hx, he⟩ := List.any_eq_true.1 h
          exact hown x hx (beq_iff_eq.1 he)
      · rw [show (if r.exact = true then exactVec r.window m.v else m.v) = m.v from if_neg (by rw [hexact]; exact Bool.false_ne_true)]
    case dropped =>
      rw [exec_meshContribution, execMeshContribution, hm]
      refine (if_neg (not_not_intro hkind)).trans ?_
      dsimp only
      rw [hr, Option.getD_some]
      exact (if_neg (by rw [show s.mg.failedDies.contains (rootDie r) = false from hdie]; exact Bool.false_ne_true)).trans
        (if_pos (Or.inr (Or.inr (Or.inr (Or.inr (Or.inl hround))))))
    case merged =>
      refine ⟨_, rfl, ?_⟩
      rw [exec_meshPartial, execMeshPartial]
      refine (if_neg hi).trans ?_
      rw [hm]
      refine (if_neg ?_).trans ?_
      · rintro (h | h)
        · exact h hkind
        · rw [hway] at h; exact Bool.false_ne_true h
      · dsimp only
        rw [hr]
    case notice =>
      rw [exec_startNotice, execStartNotice, hm]
      refine (if_neg ?_).trans ?_
      · rintro (h | h)
        · exact h hkind
        · rw [hway] at h; exact Bool.false_ne_true h
      · dsimp only
        rw [hr]
    case timeout =>
      rw [exec_reductionTimeout, execReductionTimeout, hr]
      dsimp only
      rw [ht0]
      refine (if_neg ?_).trans ?_
      · rintro (h | h | h)
        · exact hlimit h
        · exact Nat.not_lt_of_le hdue h
        · rw [hfinal] at h; exact Bool.false_ne_true h
      · rw [hbar]
  · intro by_ w v put
    refine ⟨?_, fun q => ?_, mapFind_closeRound s r st cores⟩
    · unfold dropContribution
      exact wroteValue_dieWriteNat s (dieOfPa h) (h + 0x18) 8 (w - bitsAt w 32 16 * 2 ^ 32 + min (bitsAt w 32 16 + 1) 0xFFFF * 2 ^ 32)
    · exact homeByte_closeRound s r st cores q

end Sys2Proof.Machine

namespace Sys2Proof.Machine

/-! ### Fabric packets, ports and paths (R340 to R344) -/

section
variable {s : State}

/-- A packet that goes out changes no memory, no port and no die's paths. -/
theorem launchPacket_keeps (s : State) (i : Nat) (p : FPkt) (avoid : Nat) :
    (launchPacket s i p avoid).mem = s.mem ∧ (launchPacket s i p avoid).fab.dead = s.fab.dead ∧
      ∀ die pkg peer, pathsOf (launchPacket s i p avoid) die pkg peer = pathsOf s die pkg peer := by
  refine ⟨rfl, rfl, fun die pkg peer => ?_⟩
  unfold pathsOf launchPacket
  by_cases h : peerKey die pkg peer = peerKey p.srcDie p.dstPkg p.dstDie
  · rw [h]
    exact mapGet_mapPut_same ..
  · exact mapGet_mapPut_other _ _ _ h

/-- What no packet's going out changes, the going out of many does not. -/
theorem launchPackets_keep {γ : Type} (f : State → γ) (hf : ∀ t i p avoid, f (launchPacket t i p avoid) = f t)
    (l : List (Nat × FPkt)) (avoid : Nat) (s : State) : f (l.foldl (fun t x => launchPacket t x.1 x.2 avoid) s) = f s :=
  rest_foldl f _ (fun _ _ => hf ..) l s

theorem recNoPaths_keep {γ : Type} (f : State → γ) (hf : ∀ t die pkg peer, f (recNoPath t die pkg peer) = f t) (l : List (Nat × Nat))
    (die : Nat) (s : State) : f (l.foldl (fun t d => recNoPath t die d.1 d.2) s) = f s :=
  rest_foldl f _ (fun _ _ => hf ..) l s

theorem contains_filter_ne (l : List Nat) (x : Nat) : (l.filter (fun y => y != x)).contains x = false := by
  simp

/-- What the answer of its die makes of a packet (R342, R351). -/
def packetEnd (s : State) (i : Nat) (p : FPkt) : Accept → Res
  | .ok s => .next (putPkt s i { p with accepted := true })
  | .drop s => .next (putPkt s i { p with lost := true })
  | .trim => .next (putPkt s i { p with lost := true, trimmed := true })
  | .wait s => .next s

/-- A packet of this package on its way to a die that has not failed arrives as its die answers. -/
theorem packetReceive_own {p : FPkt} (hi : s.cur.x.id ≠ 0) (hp : mapFind s.fab.pkts s.cur.x.id = some p) (hacc : p.accepted = false)
    (hlost : p.lost = false) (hpkg : p.dstPkg = Config.package) (hdie : s.mg.failedDies.contains p.dstDie = false) :
    exec .packetReceive s = packetEnd s s.cur.x.id p (acceptPacket s s.cur.x.id p) := by
  rw [exec_packetReceive, execPacketReceive]
  refine (if_neg hi).trans ?_
  rw [hp]
  refine (if_neg (by rw [hacc]; exact Bool.false_ne_true)).trans ((if_neg (by rw [hlost]; exact Bool.false_ne_true)).trans
    ((if_neg (not_not_intro hpkg)).trans ((if_neg (by rw [hdie]; exact Bool.false_ne_true)).trans ?_)))
  cases acceptPacket s s.cur.x.id p <;> rfl

end

/-- Settles O49: a packet's arrival by what its die answers, its resends, the end of a send, and ports and paths that go and return. -/
theorem fabricPackets : Obligations.FabricPackets := by
  refine ⟨fun s s1 i p hi hi0 hp hacc => ⟨fun hlost hpkg hdie => ⟨fun h => ?accepted, fun h => ?dropped, fun h => ?trimmed⟩,
    fun hpath hdue => ?resend, fun hpath htrim => ?negative⟩, fun s i x => ⟨fun hi hx hentry hall => ?gone, fun ha hdead => ?loss,
      fun hdie hc => ?returned, fun hdie => ?setUp⟩⟩
  case accepted =>
    subst hi
    rw [packetReceive_own hi0 hp hacc hlost hpkg hdie, h]
    rfl
  case dropped =>
    subst hi
    rw [packetReceive_own hi0 hp hacc hlost hpkg hdie, h]
    rfl
  case trimmed =>
    subst hi
    rw [packetReceive_own hi0 hp hacc hlost hpkg hdie, h]
    rfl
  case resend =>
    subst hi
    intro ps
    have hrun : ¬ (p.accepted = true ∨ p.path = 256 ∨ s.ticks < p.sent + resendTicks) := by
      rintro (h | h | h)
      · rw [hacc] at h; exact Bool.false_ne_true h
      · exact hpath h
      · exact Nat.not_lt_of_le hdue h
    refine ⟨fun hsus => ?_, fun hsus => ?_⟩
    · rw [exec_packetResend, execPacketResend, hp]
      exact (if_neg hrun).trans (if_pos hsus)
    · rw [exec_packetResend, execPacketResend, hp]
      refine ⟨_, _, (if_neg hrun).trans (if_neg (by rw [show (pathsOf s p.srcDie p.dstPkg p.dstDie).suspect.contains p.path = false from hsus]; exact Bool.false_ne_true)),
        mapFind_mapPut_same .., rfl, ?_⟩
      rw [(launchPacket_keeps _ _ _ _).2.2, pathsOf, mapGet_mapPut_same]
      exact List.elem_cons_self
  case negative =>
    subst hi
    rw [exec_negativeAcknowledgement, execNegativeAcknowledgement, hp]
    refine if_neg ?_
    rintro (h | ⟨h, -⟩ | h)
    · rw [hacc] at h; exact Bool.false_ne_true h
    · rw [htrim] at h; exact absurd h (by decide)
    · exact hpath h
  case gone =>
    subst hi
    rw [exec_sendAcknowledged, execSendAcknowledged, hx]
    refine (if_neg ?_).trans ?_
    · rw [Bool.not_eq_true', Bool.not_eq_false]
      refine List.all_eq_true.2 fun j hj => ?_
      obtain ⟨p, hp, hacc⟩ := hall j hj
      rw [hp]
      exact hacc
    · rw [hentry]
      rfl
  case loss =>
    rw [exec_lossOfSignal, execLossOfSignal]
    refine ⟨_, if_neg (by rintro (h | h); exacts [by omega, by rw [hdead] at h; exact Bool.false_ne_true h]), ?_, ?_⟩
    · rw [recNoPaths_keep (fun t => t.fab.dead) (fun _ _ _ _ => rfl),
        launchPackets_keep (fun t => t.fab.dead) (fun t i p a => (launchPacket_keeps t i p a).2.1)]
      exact List.elem_cons_self
    · rw [recNoPaths_keep State.mem (fun _ _ _ _ => rfl), launchPackets_keep State.mem (fun t i p a => (launchPacket_keeps t i p a).1)]
  case returned =>
    rw [exec_pathReturn, execPathReturn]
    refine ⟨_, if_neg (by omega), ?_, ?_, ?_⟩
    · rw [launchPackets_keep (fun t => t.fab.dead) (fun t i p a => (launchPacket_keeps t i p a).2.1)]
      exact contains_filter_ne ..
    · rw [launchPackets_keep (fun t => pathsOf t _ _ _) (fun t i p a => (launchPacket_keeps t i p a).2.2 ..), pathsOf, mapGet_mapPut_same]
      exact contains_filter_ne ..
    · rw [launchPackets_keep State.mem (fun t i p a => (launchPacket_keeps t i p a).1)]
  case setUp =>
    rw [exec_connectionSetUp, execConnectionSetUp]
    refine (if_neg (by omega)).trans ?_
    by_cases h : s.cur.x.a = 2 ∨ s.cur.x.a = 4 ∨ s.cur.x.a = 8
    · refine (if_pos ?_).trans (congrArg Host.Outcome.next (if_pos h).symm)
      obtain h | h | h := h <;> rw [h] <;> decide
    · refine (if_neg fun hc => h ?_).trans (congrArg Host.Outcome.next (if_neg h).symm)
      simpa using hc

end Sys2Proof.Machine

namespace Sys2Proof.Machine

/-! ### More that leaves the roster as it was -/

section
variable {s₀ s t : State}

theorem RosterKept.trans {u : State} (h : RosterKept s t) (k : RosterKept t u) : RosterKept s u := Eq.trans k h

theorem RosterKept.withCtxs (h : RosterKept s₀ s) (c : SMap Ctx) : RosterKept s₀ { s with ctxs := c } := h

theorem RosterKept.dropSends {ids : List Nat} (h : RosterKept s₀ s) : RosterKept s₀ (dropSends s ids) := h

theorem RosterKept.delChunk {die x y z : Nat} (h : RosterKept s₀ s) : RosterKept s₀ (delChunk s die x y z) := h

theorem RosterKept.record {e : BoxEvent} (h : RosterKept s₀ s) : RosterKept s₀ (record s e) := h

theorem RosterKept.localWrite {d : Deck} {off : Nat} {bytes : List Byte} (h : RosterKept s₀ s) : RosterKept s₀ (localWrite s d off bytes) :=
  h.foldl fun t p ht => by
    unfold localPut
    split <;> exact ht

theorem RosterKept.homeTouch {line : Nat} (h : RosterKept s₀ s) : RosterKept s₀ (homeTouch s line) := by
  obtain ⟨ls, n, e⟩ := homeTouch_eq s line
  rw [e]
  exact h

theorem RosterKept.homePut {pa : Nat} {b : Byte} (h : RosterKept s₀ s) : RosterKept s₀ (homePut s pa b) := by
  obtain ⟨m, o, ls, n, rs, os, e⟩ := HomesApart.homePut s pa b
  rw [e]
  exact h

theorem RosterKept.homeWrite {pa : Nat} {bytes : List Byte} (h : RosterKept s₀ s) : RosterKept s₀ (homeWrite s pa bytes) :=
  h.foldl fun _ _ ht => ht.homePut

theorem RosterKept.nextStamp (h : RosterKept s₀ s) : RosterKept s₀ (nextStamp s) := h

theorem RosterKept.endPhase {key : Nat} (h : RosterKept s₀ s) : RosterKept s₀ (endPhase s key) := by
  unfold Machine.endPhase
  split <;> exact h

theorem RosterKept.writeBar {loc : BarLoc} {b : Bar} (h : RosterKept s₀ s) : RosterKept s₀ (writeBar s loc b) := by
  unfold Machine.writeBar
  extract_lets ws s1
  have h1 : RosterKept s₀ s1 := h.ite h.endPhase
  clear_value s1
  cases loc with
  | scratch d off =>
    dsimp only
    split
    · exact (RosterKept.ite (s := recUncorrectable s1 _ _ 0 3 _) h1 h1).localWrite
    · exact h1
  | net k => exact h1
  | mem pa => exact (h1.homeTouch.homeWrite (pa := pa)).nextStamp

theorem RosterKept.barAbandon {loc : BarLoc} (h : RosterKept s₀ s) : RosterKept s₀ (barAbandon s loc) := h.writeBar

theorem RosterKept.settleLine {line : Nat} {undo : Bool} (h : RosterKept s₀ s) : RosterKept s₀ (settleLine s line undo) := by
  unfold Machine.settleLine
  extract_lets
  split <;> exact h

theorem RosterKept.delReq_unhold {c : Prop} [Decidable c] {line i : Nat} (h : RosterKept s₀ s) :
    RosterKept s₀ (delReq (if c then unhold s line else s) i) := by
  split <;> exact h

theorem RosterKept.cancelPend {sp : Span} (h : RosterKept s₀ s) : RosterKept s₀ (cancelPend s sp) := by
  unfold Machine.cancelPend
  split
  · exact h.foldl fun _ _ ht => ht.delReq_unhold
  · split
    · exact h
    · next ld _ => exact RosterKept.foldl (l := ld.served) h fun _ _ ht => ht.ite ht.settleLine
  · exact h.foldl fun _ _ ht => ht.delReq_unhold
  · exact h

theorem RosterKept.releaseSlot {g : Nat} {half : Bool} {n : Nat} (h : RosterKept s₀ s) : RosterKept s₀ (releaseSlot s g half n) :=
  RosterKept.ite (t := recUnderread s _ _ _ _ _ _) h h

theorem RosterKept.drainSlots {g : Nat} {half : Bool} (h : RosterKept s₀ s) : RosterKept s₀ (drainSlots s g half) := by
  unfold Machine.drainSlots
  exact RosterKept.foldl (s := putCtx s g half _) h fun _ _ ht => ht.releaseSlot

theorem RosterKept.finishCmd {seq : Nat} (h : RosterKept s₀ s) : RosterKept s₀ (finishCmd s seq) := by
  unfold Machine.finishCmd
  split
  · exact h
  · next e _ => exact RosterKept.ite h (RosterKept.withCtxs (s := delAgent (handOver s seq e.deck) seq) h _)

theorem RosterKept.cmdDone {k : CmdAt} {e : Cmd} (h : RosterKept s₀ s) : RosterKept s₀ (cmdDone s k e) :=
  (RosterKept.drainSlots (s := updCmd s k _) h).finishCmd

theorem RosterKept.landCmd {g : Nat} {e : Cmd} {n : Nat} {poison : Bool} {after : Nat} (h : RosterKept s₀ s) :
    RosterKept s₀ (landCmd s g e n poison after) := by
  unfold Machine.landCmd
  split
  · exact h
  · exact RosterKept.ite h h

theorem RosterKept.failCmd {k : CmdAt} {e : Cmd} (h : RosterKept s₀ s) : RosterKept s₀ (failCmd s k e) := h.landCmd.cmdDone

theorem RosterKept.failEntry {e : Entry} (h : RosterKept s₀ s) : RosterKept s₀ (failEntry s e) := by
  unfold Machine.failEntry
  extract_lets s1 s2 f3 s3
  have h1 : RosterKept s₀ s1 := by
    refine RosterKept.ite h ?_
    unfold landEntry
    split <;> exact h
  have h2 : RosterKept s₀ s2 := h1.dropSends.delChunk
  clear_value s2
  have h3 : RosterKept s₀ s3 := h2
  clear_value s3
  unfold endCmd
  split
  · exact h3.cmdDone
  · exact h3

end

/-! ### What a halt leaves of decks, spans and runs (R196, R327) -/

/-- A run's noted statuses grow. -/
def RunsGrow (s t : State) : Prop :=
  ∀ n r, mapFind s.runs n = some r → ∃ r', mapFind t.runs n = some r' ∧ ∀ x ∈ r.noted, x ∈ r'.noted

/-- Each deck stays, with its launch and its quanta. -/
def DecksStay (s t : State) : Prop :=
  ∀ k d, deckOf s k = some d → ∃ d', deckOf t k = some d' ∧ d'.launch = d.launch ∧ d'.quanta = d.quanta

/-- Each span that is left stands where it stood, and one without a live lane gets none. -/
def SpansFade (s t : State) : Prop :=
  ∀ u sp', spanOf t u = some sp' → ∃ sp, spanOf s u = some sp ∧ sp'.core = sp.core ∧ sp'.half = sp.half ∧ sp'.deck = sp.deck ∧
    (sp.live = 0 → sp'.live = 0)

/-- What a halt may change of the roster: runs note more, decks stay, spans fade. -/
structure Halts (s t : State) : Prop where
  mg : t.mg = s.mg
  launches : t.launches = s.launches
  cycle : t.cycle = s.cycle
  runs : RunsGrow s t
  decks : DecksStay s t
  spans : SpansFade s t
  rise : keysRise s.spans = true → keysRise t.spans = true

section
variable {s₀ s t : State}

theorem Halts.refl (s : State) : Halts s s :=
  ⟨rfl, rfl, rfl, fun _ r h => ⟨r, h, fun _ hx => hx⟩, fun _ d h => ⟨d, h, rfl, rfl⟩, fun _ sp h => ⟨sp, h, rfl, rfl, rfl, id⟩, id⟩

theorem Halts.trans (h : Halts s₀ s) (k : Halts s t) : Halts s₀ t where
  mg := k.mg.trans h.mg
  launches := k.launches.trans h.launches
  cycle := k.cycle.trans h.cycle
  runs := fun n r hr => by
    obtain ⟨r1, hr1, h1⟩ := h.runs n r hr
    obtain ⟨r2, hr2, h2⟩ := k.runs n r1 hr1
    exact ⟨r2, hr2, fun x hx => h2 x (h1 x hx)⟩
  decks := fun i d hd => by
    obtain ⟨d1, hd1, hl1, hq1⟩ := h.decks i d hd
    obtain ⟨d2, hd2, hl2, hq2⟩ := k.decks i d1 hd1
    exact ⟨d2, hd2, hl2.trans hl1, hq2.trans hq1⟩
  spans := fun u sp hsp => by
    obtain ⟨sp1, hsp1, hc1, hh1, hk1, hl1⟩ := k.spans u sp hsp
    obtain ⟨sp2, hsp2, hc2, hh2, hk2, hl2⟩ := h.spans u sp1 hsp1
    exact ⟨sp2, hsp2, hc1.trans hc2, hh1.trans hh2, hk1.trans hk2, fun h0 => hl1 (hl2 h0)⟩
  rise := k.rise ∘ h.rise

theorem Halts.of_roster (h : RosterKept s t) : Halts s t where
  mg := h.mg
  launches := h.launches
  cycle := h.cycle
  runs := fun n r hr => ⟨r, by rw [h.runs]; exact hr, fun _ hx => hx⟩
  decks := fun k d hd => ⟨d, by rw [deckOf, h.decks]; exact hd, rfl, rfl⟩
  spans := fun u sp hsp => ⟨sp, by rw [spanOf, ← h.spans]; exact hsp, rfl, rfl, rfl, id⟩
  rise := fun hs => by rw [h.spans]; exact hs

theorem Halts.foldl {α : Type} {f : State → α → State} {l : List α} (h : Halts s₀ s) (hf : ∀ t a, Halts s₀ t → Halts s₀ (f t a)) :
    Halts s₀ (l.foldl f s) := by
  induction l generalizing s with
  | nil => exact h
  | cons a as ih => exact ih (hf s a h)

theorem Halts.ite {c : Prop} [Decidable c] (h : Halts s₀ s) (k : Halts s₀ t) : Halts s₀ (if c then s else t) := by
  split
  · exact h
  · exact k

/-- A span is put in the place of one that stood there, with no more live lanes. -/
theorem Halts.putSpan {u : Nat} {sp sp' : Span} (hu : spanOf s u = some sp) (hcore : sp'.core = sp.core) (hhalf : sp'.half = sp.half)
    (hdeck : sp'.deck = sp.deck) (hlive : sp.live = 0 → sp'.live = 0) : Halts s (putSpan s u sp') where
  mg := rfl
  launches := rfl
  cycle := rfl
  runs := fun _ r h => ⟨r, h, fun _ hx => hx⟩
  decks := fun _ d h => ⟨d, h, rfl, rfl⟩
  spans := fun w x hx => by
    by_cases hw : w = u
    · subst hw
      rw [spanOf_putSpan_same] at hx
      cases hx
      exact ⟨sp, hu, hcore, hhalf, hdeck, hlive⟩
    · rw [spanOf_putSpan_other _ _ hw] at hx
      exact ⟨x, hx, rfl, rfl, rfl, id⟩
  rise := fun hs => keysRise_mapPut _ _ hs

/-- A deck is put in the place of one that stood there, with its launch and its quanta. -/
theorem Halts.putDeck {k : Nat} {d d' : Deck} (hk : deckOf s k = some d) (hlaunch : d'.launch = d.launch) (hquanta : d'.quanta = d.quanta) :
    Halts s (putDeck s k d') where
  mg := rfl
  launches := rfl
  cycle := rfl
  runs := fun _ r h => ⟨r, h, fun _ hx => hx⟩
  decks := fun i x hx => by
    by_cases hi : i = k
    · subst hi
      cases hx.symm.trans hk
      exact ⟨d', mapFind_mapPut_same .., hlaunch, hquanta⟩
    · exact ⟨x, (mapFind_mapPut_other _ _ hi).trans hx, rfl, rfl⟩
  spans := fun _ sp h => ⟨sp, h, rfl, rfl, rfl, id⟩
  rise := id

/-- A span leaves. -/
theorem Halts.delSpan (s : State) (u : Nat) : Halts s { s with spans := mapDel s.spans u } where
  mg := rfl
  launches := rfl
  cycle := rfl
  runs := fun _ r h => ⟨r, h, fun _ hx => hx⟩
  decks := fun _ d h => ⟨d, h, rfl, rfl⟩
  spans := fun w sp hsp => by
    by_cases hw : w = u
    · subst hw
      cases (mapFind_mapDel_same s.spans w).symm.trans hsp
    · exact ⟨sp, (mapFind_mapDel_other _ hw).symm.trans hsp, rfl, rfl, rfl, id⟩
  rise := fun hs => keysRise_mapDel _ hs

theorem Halts.noteStatus (s : State) (launch k : Nat) : Halts s (noteStatus s launch k) := by
  unfold Machine.noteStatus
  split
  · exact Halts.refl s
  · next r hr =>
    refine ⟨rfl, rfl, rfl, fun n x hx => ?_, fun _ d h => ⟨d, h, rfl, rfl⟩, fun _ sp h => ⟨sp, h, rfl, rfl, rfl, id⟩, id⟩
    by_cases hn : n = numberOf s launch
    · subst hn
      cases hx.symm.trans hr
      exact ⟨_, mapFind_mapPut_same .., fun _ hm => List.mem_append_left _ hm⟩
    · exact ⟨x, (mapFind_mapPut_other _ _ hn).trans hx, fun _ hm => hm⟩

theorem Halts.collEnter (n : Nat) (s : State) (k : Nat) : Halts s (collEnter n s k) := by
  induction n generalizing s with
  | zero => exact Halts.refl s
  | succ n ih =>
    unfold Machine.collEnter
    split
    · exact Halts.refl s
    · next d hd =>
      split
      · exact Halts.refl s
      · next f r _ =>
        refine Halts.ite ?_ (Halts.refl s)
        have hput : Halts s (Machine.putDeck s k { d with colls := r }) := Halts.putDeck hd rfl rfl
        refine Halts.trans ?_ (ih _)
        exact hput.trans (Halts.of_roster rfl)

theorem Halts.retireDeck (s : State) (k : Nat) : Halts s (retireDeck s k) := by
  unfold Machine.retireDeck
  split
  · exact Halts.refl s
  · next d hd =>
    refine Halts.ite (Halts.refl s) ?_
    extract_lets b0 s1 c s2
    have h1 : RosterKept s s1 := RosterKept.foldl (l := d.banks) (RosterKept.refl s) fun _ _ ht => ht
    have h2 : RosterKept s s2 := RosterKept.drainSlots (s := putCtx s1 d.core d.half _) h1
    clear_value s2
    exact (Halts.of_roster h2).trans (Halts.putDeck (d := d) (by rw [deckOf, h2.decks]; exact hd) rfl rfl)

theorem Halts.finishSpan (s : State) (u : Nat) : Halts s (finishSpan s u) := by
  unfold Machine.finishSpan
  split
  · exact Halts.refl s
  · next sp _ =>
    refine Halts.ite (Halts.refl s) ?_
    have h1 : Halts s (delAgent (handOver s u sp.deck) u) := Halts.of_roster rfl
    exact ((h1.trans (Halts.delSpan _ u)).trans (Halts.collEnter ..)).trans (Halts.retireDeck ..)

/-- A span that retires has no live lane where it is left (R35). -/
theorem halts_retireSpan {s : State} {u : Nat} {sp : Span} (hu : spanOf s u = some sp) :
    Halts s (retireSpan s u) ∧ ∀ sp', spanOf (retireSpan s u) u = some sp' → sp'.live = 0 := by
  unfold retireSpan
  rw [hu]
  dsimp only
  have h1 : RosterKept s (cancelPend s sp) := (RosterKept.refl s).cancelPend
  have hu1 : spanOf (cancelPend s sp) u = some sp := by rw [spanOf, h1.spans]; exact hu
  refine ⟨((Halts.of_roster h1).trans (Halts.putSpan
    (sp' := { sp with live := 0, am := 0, queue := [], ahead := [], masks := ⟨[], 0⟩, rets := ⟨[], 0⟩, pend := .none }) hu1 rfl rfl rfl
    fun _ => rfl)).trans (Halts.finishSpan ..), fun sp' hsp' => ?_⟩
  obtain ⟨x, hx, -, -, -, hlive⟩ := (Halts.finishSpan _ u).spans u sp' hsp'
  rw [spanOf_putSpan_same] at hx
  cases hx
  exact hlive rfl

/-- A halted span has no live lane where it is left (R327). -/
theorem halts_haltSpan (s : State) (u status : Nat) :
    Halts s (haltSpan s u status) ∧ ∀ sp', spanOf (haltSpan s u status) u = some sp' → sp'.live = 0 := by
  unfold haltSpan
  split
  · next hnone => exact ⟨Halts.refl s, fun sp' h => by rw [hnone] at h; cases h⟩
  · next sp hu =>
    extract_lets s1 s2 s3
    have h1 : RosterKept s s1 := (RosterKept.refl s).foldl fun t e ht => by
      split
      · exact ht.barAbandon.ite ht
      · exact ht
    have h2 : Halts s1 s2 ∧ s2.spans = s1.spans := by
      show Halts s1 (match deckOf s1 sp.deck with
        | some d => noteStatus s1 d.launch status
        | none => s1) ∧ (match deckOf s1 sp.deck with
        | some d => noteStatus s1 d.launch status
        | none => s1).spans = s1.spans
      split
      · refine ⟨Halts.noteStatus .., ?_⟩
        unfold noteStatus
        split <;> rfl
      · exact ⟨Halts.refl _, rfl⟩
    have h3 : Halts s2 s3 := Halts.of_roster rfl
    have hu3 : spanOf s3 u = some sp := by rw [spanOf, show s3.spans = s2.spans from rfl, h2.2, h1.spans]; exact hu
    clear_value s3
    obtain ⟨h4, hdead⟩ := halts_retireSpan (spanOf_putSpan_same s3 u { sp with halted := true, regs := [], buffer := [] })
    exact ⟨((((Halts.of_roster h1).trans h2.1).trans h3).trans (Halts.putSpan
      (sp' := { sp with halted := true, regs := [], buffer := [] }) hu3 rfl rfl rfl id)).trans h4, hdead⟩

theorem Halts.haltSpan {u status : Nat} (h : Halts s₀ s) : Halts s₀ (haltSpan s u status) := h.trans (halts_haltSpan s u status).1

theorem halts_haltWith (s : State) (u detail status arg : Nat) :
    Halts s (haltWith s u detail status arg) ∧ ∀ sp', spanOf (haltWith s u detail status arg) u = some sp' → sp'.live = 0 := by
  unfold haltWith
  split
  · next hnone => exact ⟨Halts.refl s, fun sp' h => by rw [hnone] at h; cases h⟩
  · next sp hu =>
    obtain ⟨h, hdead⟩ := halts_haltSpan (record s (spanEvent s sp 0x82 detail arg)) u status
    exact ⟨(Halts.of_roster (RosterKept.refl s).record).trans h, hdead⟩

/-- Every span that a list of halts names is left without a live lane. -/
theorem halts_foldl {α : Type} (f : State → α → State) (key : α → Nat)
    (hf : ∀ t a, Halts t (f t a) ∧ ∀ sp', spanOf (f t a) (key a) = some sp' → sp'.live = 0) (l : List α) (s : State) :
    Halts s (l.foldl f s) ∧ ∀ a ∈ l, ∀ sp', spanOf (l.foldl f s) (key a) = some sp' → sp'.live = 0 := by
  induction l generalizing s with
  | nil => exact ⟨Halts.refl s, fun a ha => by cases ha⟩
  | cons a as ih =>
    obtain ⟨h1, hdead1⟩ := hf s a
    obtain ⟨h2, hdead2⟩ := ih (f s a)
    refine ⟨h1.trans h2, fun x hx sp' hsp' => ?_⟩
    obtain rfl | hx := List.mem_cons.1 hx
    · obtain ⟨sp, hsp, -, -, -, hlive⟩ := h2.spans _ _ hsp'
      exact hlive (hdead1 sp hsp)
    · exact hdead2 x hx sp' hsp'

/-- Commands that fail leave the roster as it was, but for the entries that decks are forming (R176, R225). -/
theorem halts_failCommands (s : State) (p : Nat → Bool) : Halts s (failCommands s p) := by
  unfold failCommands
  extract_lets s1 seqs s2
  have h1 : RosterKept s s1 := (RosterKept.refl s).foldl fun _ _ ht => ht.failEntry
  have h2 : RosterKept s1 s2 := (RosterKept.refl s1).foldl fun t i ht => by
    split
    · exact ht.failCmd
    · exact ht
  clear_value s2
  refine ((Halts.of_roster h1).trans (Halts.of_roster h2)).foldl fun t d ht => ?_
  extract_lets t1
  have h3 : Halts s t1 := ht.trans (Halts.of_roster ((RosterKept.refl t).foldl fun _ _ h => h.landCmd))
  clear_value t1
  split
  · next x hx => exact h3.trans (Halts.putDeck hx rfl rfl)
  · exact h3

end

end Sys2Proof.Machine

namespace Sys2Proof.Machine

/-! ### What the kill of a launch number leaves (R206, R286, R324) -/

/-- What a table holds at a key is among its entries. -/
theorem mem_of_mapFind {α : Type} {m : SMap α} {k : Nat} {v : α} (h : mapFind m k = some v) : (k, v) ∈ m := by
  induction m with
  | nil => cases h
  | cons q r ih =>
    unfold mapFind at h
    split at h
    · next hk =>
      cases h
      subst hk
      exact List.mem_cons_self
    · exact List.mem_cons_of_mem _ (ih h)

section
variable {s₀ s t : State}

theorem RosterKept.abandonImage {im : Image} {mine : Nat → Bool} (h : RosterKept s₀ s) : RosterKept s₀ (abandonImage s im mine) := by
  refine h.foldl fun t p ht => ?_
  split
  · exact ht
  · refine RosterKept.ite ht (ht.foldl fun t e ht => ?_)
    extract_lets a
    refine RosterKept.ite ht (RosterKept.ite ht.barAbandon ?_)
    split
    · exact ht.barAbandon
    · exact ht

theorem Halts.numberOf (h : Halts s t) (l : Nat) : numberOf t l = numberOf s l := by
  unfold Machine.numberOf
  rw [h.launches]

theorem SpansFade.live {u : Nat} (h : SpansFade s t) (hs : ∀ sp, spanOf s u = some sp → sp.live = 0) {sp' : Span} (hu : spanOf t u = some sp') :
    sp'.live = 0 := by
  obtain ⟨sp, hsp, -, -, -, hlive⟩ := h u sp' hu
  exact hlive (hs sp hsp)

/-- The run of the number notes the status. -/
def noteKill (s : State) (number status : Nat) : State :=
  match mapFind s.runs number with
  | some r => { s with runs := mapPut s.runs number { r with noted := r.noted ++ [status] } }
  | none => s

theorem halts_noteKill (s : State) (number status : Nat) : Halts s (noteKill s number status) := by
  unfold noteKill
  split
  · next r hr =>
    refine ⟨rfl, rfl, rfl, fun n x hx => ?_, fun _ d h => ⟨d, h, rfl, rfl⟩, fun _ sp h => ⟨sp, h, rfl, rfl, rfl, id⟩, id⟩
    by_cases hn : n = number
    · subst hn
      cases hx.symm.trans hr
      exact ⟨_, mapFind_mapPut_same .., fun _ hm => List.mem_append_left _ hm⟩
    · exact ⟨x, (mapFind_mapPut_other _ _ hn).trans hx, fun _ hm => hm⟩
  · exact Halts.refl s

theorem mapFind_noteKill {number status : Nat} {r : Run} (hr : mapFind s.runs number = some r) :
    ∃ r', mapFind (noteKill s number status).runs number = some r' ∧ status ∈ r'.noted := by
  unfold noteKill
  rw [hr]
  exact ⟨_, mapFind_mapPut_same .., by simp⟩

/-- What a kill leaves at a launch number: its run has noted the status, and no span of its decks has a live lane. -/
def Killed (s t : State) (number status : Nat) : Prop :=
  (∀ r, mapFind s.runs number = some r → ∃ r', mapFind t.runs number = some r' ∧ status ∈ r'.noted) ∧
  ∀ u sp d, spanOf t u = some sp → deckOf s sp.deck = some d → numberOf s d.launch = number → sp.live = 0

theorem Killed.after {u : State} {number status : Nat} (h : Killed s t number status) (k : Halts t u) : Killed s u number status := by
  refine ⟨fun r hr => ?_, fun w sp d hsp hd hn => ?_⟩
  · obtain ⟨r1, hr1, hm⟩ := h.1 r hr
    obtain ⟨r2, hr2, hk⟩ := k.runs _ _ hr1
    exact ⟨r2, hr2, hk _ hm⟩
  · obtain ⟨sp1, hsp1, -, -, hdeck, hlive⟩ := k.spans w sp hsp
    exact hlive (h.2 w sp1 d hsp1 (hdeck ▸ hd) hn)

theorem Killed.before {number status : Nat} (h : Halts s₀ s) (k : Killed s t number status) : Killed s₀ t number status := by
  refine ⟨fun r hr => ?_, fun w sp d hsp hd hn => ?_⟩
  · obtain ⟨r1, hr1, -⟩ := h.runs _ _ hr
    exact k.1 r1 hr1
  · obtain ⟨d1, hd1, hl1, -⟩ := h.decks _ _ hd
    exact k.2 w sp d1 hsp hd1 (by rw [hl1, h.numberOf, hn])

theorem halts_killLaunch (s : State) (number status : Nat) :
    Halts s (killLaunch s number status) ∧ Killed s (killLaunch s number status) number status := by
  unfold killLaunch
  extract_lets mine s1 s2 s3
  have h1 : Halts s s1 := halts_noteKill s number status
  have hrun : ∀ r, mapFind s.runs number = some r → ∃ r', mapFind s1.runs number = some r' ∧ status ∈ r'.noted := fun r => mapFind_noteKill
  clear_value s1
  have h2 : Halts s1 s2 := Halts.of_roster ((RosterKept.refl s1).foldl fun _ _ ht => ht.abandonImage)
  clear_value s2
  have h3 : Halts s2 s3 := ⟨rfl, rfl, rfl, fun _ r hr => ⟨r, hr, fun _ hx => hx⟩, fun _ d hd => ⟨d, hd, rfl, rfl⟩,
    fun _ sp hsp => ⟨sp, hsp, rfl, rfl, rfl, id⟩, id⟩
  have h13 : Halts s1 s3 := h2.trans h3
  clear_value s3
  refine (fun h4 => ⟨(h1.trans h13).trans h4.1, fun r hr => ?_, fun u sp d hsp hd hn => ?_⟩)
    (halts_foldl (fun t p => haltSpan t p.1 status) Prod.fst (fun t p => halts_haltSpan t p.1 status) _ s3)
  · obtain ⟨r1, hr1, hm⟩ := hrun r hr
    obtain ⟨r2, hr2, hk⟩ := (h13.trans h4.1).runs _ _ hr1
    exact ⟨r2, hr2, hk _ hm⟩
  · obtain ⟨sp3, hsp3, -, -, hdeck, -⟩ := h4.1.spans u sp hsp
    obtain ⟨d3, hd3, hl3, -⟩ := (h1.trans h13).decks _ _ hd
    refine h4.2 (u, sp3) (List.mem_filter.2 ⟨mem_of_mapFind hsp3, ?_⟩) sp hsp
    have hd3' : deckOf s3 sp3.deck = some d3 := hdeck ▸ hd3
    have hnum : numberOf s3 d3.launch = number := by rw [hl3, (h1.trans h13).numberOf, hn]
    simp [hd3', mine, hnum]

/-- Kills one after another: each number of the list is killed. -/
theorem halts_killLaunches {α : Type} (key : α → Nat) (status : Nat) (l : List α) (s : State) :
    Halts s (l.foldl (fun t a => killLaunch t (key a) status) s) ∧
      ∀ a ∈ l, Killed s (l.foldl (fun t a => killLaunch t (key a) status) s) (key a) status := by
  induction l generalizing s with
  | nil => exact ⟨Halts.refl s, fun a ha => by cases ha⟩
  | cons b bs ih =>
    obtain ⟨h1, hkill⟩ := halts_killLaunch s (key b) status
    obtain ⟨h2, hkills⟩ := ih (killLaunch s (key b) status)
    refine ⟨h1.trans h2, fun a ha => ?_⟩
    obtain rfl | ha := List.mem_cons.1 ha
    · exact hkill.after h2
    · exact (hkills a ha).before h1

end

end Sys2Proof.Machine

namespace Sys2Proof.Machine

/-! ### Power states and trips (R323, R324, R334) -/

section
variable {s : State}

theorem mg_setPower (s : State) (st drop : Nat) : (setPower s st drop).mg = { s.mg with power := st, throttle := drop } := by
  unfold setPower
  dsimp only
  split <;> rfl

theorem mem_setPower (s : State) (st drop : Nat) : (setPower s st drop).mem = s.mem := by
  unfold setPower
  dsimp only
  split <;> rfl

theorem power_dropPower (s : State) : (dropPower s).mg.power = if s.mg.power < 2 then s.mg.power + 1 else s.mg.power := by
  unfold dropPower
  split
  · rw [mg_setPower]
  · rfl

theorem mem_dropPower (s : State) : (dropPower s).mem = s.mem := by
  unfold dropPower
  split
  · exact mem_setPower ..
  · rfl

/-- Every launch that is in flight is lost, and management stays as it was. -/
theorem halts_loseAll (s : State) : Halts s (loseAll s) ∧ ∀ n r, mapFind s.runs n = some r → Killed s (loseAll s) n noteLost := by
  obtain ⟨h1, hkill⟩ := halts_killLaunches Prod.fst noteLost s.runs s
  have h2 := halts_failCommands (s.runs.foldl (fun t r => killLaunch t r.1 noteLost) s) fun _ => true
  exact ⟨h1.trans h2, fun n r hr => (hkill (n, r) (mem_of_mapFind hr)).after h2⟩

theorem power_clauses (s : State) :
     (95 ≤ s.cur.x.a → s.cur.x.die < 16 → ∃ t, exec .thermalThrottle s = .next t ∧ t.mg.power = (if s.mg.power < 2 then s.mg.power + 1 else s.mg.power)) ∧
     (∃ t, exec .powerOverCap s = .next t ∧ t.mg.power = (if s.mg.power < 2 then s.mg.power + 1 else s.mg.power) ∧ t.mem = s.mem) ∧
     (s.mg.throttle ≠ 0 → s.cur.x.a < 90 → ∃ t, exec .throttleRestore s = .next t ∧ t.mg.power = s.mg.power - 1 ∧ t.mg.throttle = s.mg.throttle - 1) ∧
     (115 ≤ s.cur.x.a → s.cur.x.die < 16 → ∃ t, exec .thermalTrip s = .next t ∧ t.mg.safe = true ∧ t.mg.code = 7 ∧
       ∀ n r, mapFind s.runs n = some r → (∃ r', mapFind t.runs n = some r' ∧ noteLost ∈ r'.noted) ∧
         ∀ u sp d, spanOf t u = some sp → deckOf s sp.deck = some d → numberOf s d.launch = n → sp.live = 0) ∧
     (exec .firmwareFault s = .next { s with mg := { s.mg with safe := true, code := 8 } }) := by
  refine ⟨fun hhot hdie => ⟨_, if_neg (by omega), ?throttle⟩, ⟨_, rfl, power_dropPower s, mem_dropPower s⟩,
    fun hdrop hcool => ⟨_, if_neg (by omega), ?_⟩, fun hhot hdie => ⟨_, if_neg (by omega), ?trip⟩, rfl⟩
  case throttle => rw [power_dropPower]; rfl
  case trip =>
    have ⟨h, hkill⟩ := halts_loseAll (enterSafe (recThermal (setTemp s s.cur.x.die s.cur.x.a) 3 s.cur.x.die s.cur.x.a) 7)
    rw [h.mg]
    exact ⟨rfl, rfl, fun n r hr => ⟨(hkill n r hr).1 r hr, (hkill n r hr).2⟩⟩
  · rw [mg_setPower]
    exact ⟨rfl, rfl⟩

end

end Sys2Proof.Machine

namespace Sys2Proof.Machine

/-! ### Bring-up (R332 to R334) -/

section
variable {s : State}

/-- The last checks of a bring-up: the bundle, then its number; then step 7 enables the package. -/
def bundleChecked (s : State) (b : Bundle) (fused : List Byte) : State :=
  if !bundleOk b fused then bringFail s 5
  else if b.svn < s.mg.svnMin then bringFail s 6
  else { bringStep s 7 with mg := { (bringStep s 7).mg with enabled := true }, cycle := 0 }

theorem bundleChecked_bad {b : Bundle} {fused : List Byte} (h : bundleOk b fused = false) : bundleChecked s b fused = bringFail s 5 :=
  if_pos (by rw [h]; rfl)

theorem bundleChecked_low {b : Bundle} {fused : List Byte} (h : bundleOk b fused = true) (hlow : b.svn < s.mg.svnMin) :
    bundleChecked s b fused = bringFail s 6 :=
  (if_neg (by rw [h]; exact Bool.false_ne_true)).trans (if_pos hlow)

theorem bundleChecked_good {b : Bundle} {fused : List Byte} (h : bundleOk b fused = true) (hsvn : s.mg.svnMin ≤ b.svn) :
    bundleChecked s b fused = { bringStep s 7 with mg := { (bringStep s 7).mg with enabled := true }, cycle := 0 } :=
  (if_neg (by rw [h]; exact Bool.false_ne_true)).trans (if_neg (Nat.not_lt.2 hsvn))

/-- The checks leave memory, the number and the fused digest as they were. -/
theorem bundleChecked_kept (s : State) (b : Bundle) (fused : List Byte) : (bundleChecked s b fused).mem = s.mem ∧
    (bundleChecked s b fused).mg.svn = s.mg.svn ∧ (bundleChecked s b fused).mg.fused = s.mg.fused := by
  unfold bundleChecked
  split
  · exact ⟨rfl, rfl, rfl⟩
  · split <;> exact ⟨rfl, rfl, rfl⟩

/-- With nothing failed, bring-up comes to the checks of its bundle at step 6. -/
theorem powerGood_whole (hstep : s.mg.step = 0) (ha : s.cur.x.a % 2 ^ 16 = 0) (hb : s.cur.x.b % 2 ^ 22 = 0) (hc : s.cur.x.c % 2 ^ 16 = 0) :
    ∃ t, exec .powerGood s = .next (bundleChecked t (bundleOf (s.cur.x.bytes.drop 72)) ((s.cur.x.bytes.drop 8).take 64)) ∧ t.mem = s.mem ∧
      t.mg.step = 6 ∧ t.mg.svn = (bundleOf (s.cur.x.bytes.drop 72)).svn ∧ t.mg.svnMin = s.cur.x.core % 2 ^ 16 ∧
      t.mg.fused = (s.cur.x.bytes.drop 8).take 64 := by
  rw [show exec .powerGood s = execPowerGood s from rfl]
  unfold execPowerGood
  extract_lets x s1 r1 s2 s3 r2 m2 s4 s5 r3 s6 s7 n r4 m4 s8 s9 fused b r5 m5 s10 s11
  have hroutes : ¬(!(List.range 16).all (reachable s4.mg.cwDown 16 [0]).contains) = true := by
    rw [show s4.mg.cwDown = 0 from hb]
    decide
  rw [if_neg (not_not.2 hstep), if_neg (not_not.2 ha), if_neg hroutes, if_neg (not_not.2 hc)]
  have hs4 : s4.mem = s.mem := rfl
  clear_value s4
  have hs8 : s8.mem = s4.mem := rfl
  clear_value s8
  have hs10 : s10.mem = s8.mem ∧ s10.mg.step = 6 ∧ s10.mg.svn = b.svn ∧ s10.mg.svnMin = s.cur.x.core % 2 ^ 16 ∧ s10.mg.fused = fused :=
    ⟨rfl, rfl, rfl, rfl, rfl⟩
  clear_value s10
  obtain ⟨hmem, hrest⟩ := hs10
  refine ⟨s10, ?_, hmem.trans (hs8.trans hs4), hrest⟩
  change _ = Host.Outcome.next (bundleChecked s10 b fused)
  clear_value b fused
  unfold bundleChecked
  split
  · rfl
  · split <;> rfl

theorem powerGood_clauses (s : State) :
     (let fused := (s.cur.x.bytes.drop 8).take 64
      let b := bundleOf (s.cur.x.bytes.drop 72)
      s.mg.step = 0 → s.cur.x.a % 2 ^ 16 = 0 → s.cur.x.b % 2 ^ 22 = 0 → s.cur.x.c % 2 ^ 16 = 0 →
       ∃ t, exec .powerGood s = .next t ∧ t.mem = s.mem ∧ t.mg.svn = b.svn ∧ t.mg.fused = fused ∧
         (bundleOk b fused = false → t.mg.safe = true ∧ t.mg.code = 5 ∧ t.mg.step = 6) ∧
         (bundleOk b fused = true → b.svn < s.cur.x.core % 2 ^ 16 → t.mg.safe = true ∧ t.mg.code = 6 ∧ t.mg.step = 6) ∧
         (bundleOk b fused = true → s.cur.x.core % 2 ^ 16 ≤ b.svn → t.mg.enabled = true ∧ t.mg.step = 7 ∧ t.cycle = 0)) ∧
     (s.mg.step = 0 → s.cur.x.a % 2 ^ 16 ≠ 0 → ∃ t, exec .powerGood s = .next t ∧ t.mg.safe = true ∧ t.mg.code = 1) := by
  refine ⟨?whole, fun hstep ha => ⟨_, (if_neg (not_not.2 hstep)).trans (if_pos ha), rfl, rfl⟩⟩
  intro fused b hstep ha hb hc
  obtain ⟨t, ht, hmem, hsix, hsvn, hmin, hfused⟩ := powerGood_whole hstep ha hb hc
  obtain ⟨hm, hs, hf⟩ := bundleChecked_kept t b fused
  refine ⟨_, ht, hm.trans hmem, hs.trans hsvn, hf.trans hfused, fun hbad => ?_, fun hok hlow => ?_, fun hok hfits => ?_⟩
  · rw [bundleChecked_bad hbad]
    exact ⟨rfl, rfl, hsix⟩
  · rw [bundleChecked_low hok (hmin ▸ hlow)]
    exact ⟨rfl, rfl, hsix⟩
  · rw [bundleChecked_good hok (hmin ▸ hfits)]
    exact ⟨rfl, rfl, rfl⟩

/-! ### Resets and the black box (R228, R337) -/

theorem stackBytes_whole (h : ∀ x ∈ s.lines, x.2.below = none) : (stackBytes s).mem = s.mem := by
  unfold stackBytes
  refine List.foldlRecOn s.lines _ (motive := fun t : State => t.mem = s.mem) rfl fun t ht x hx => ?_
  rw [h x hx]
  exact ht

/-- What the table of memory holds of host addresses is what it held; of others, nothing (R337). -/
theorem memByte_hostOnly (m : SMap Byte) (pa : Nat) :
    mapGet (0 : Byte) (m.filter fun c => isHost c.1) pa = if isHost pa = true then mapGet 0 m pa else 0 := by
  unfold mapGet
  rw [mapFind_filter_key]
  split <;> rfl

theorem blackBoxSave_slot (hdie : s.cur.x.die < 16) :
    ∃ t n, n = mapGet 0 s.mg.saveSeq s.cur.x.die + 1 ∧ exec .blackBoxSave s = .next t ∧
      mapFind t.mg.saves (2 * s.cur.x.die + n % 2) = some (n, mapGet [] s.box s.cur.x.die, ringDigest (mapGet [] s.box s.cur.x.die)) ∧
      mapGet 0 t.mg.saveSeq s.cur.x.die = n := by
  refine ⟨_, _, rfl, if_neg (Nat.not_le.2 hdie), mapFind_mapPut_same .., ?_⟩
  rw [mapGet, mapFind_mapPut_same]
  rfl

end

/-- Settles O52: throttling is `dropPower`, a trip kills every run's number, and a bring-up with nothing failed comes to the checks of its
bundle. -/
theorem powerAndResets : Obligations.PowerAndResets := by
  refine ⟨power_clauses, fun s => ?_⟩
  obtain ⟨hgood, hbist⟩ := powerGood_clauses s
  refine ⟨hgood, hbist, stackBytes_whole, ⟨_, rfl, rfl, rfl, rfl, rfl, rfl, rfl⟩,
    ⟨_, rfl, fun pa hpa => ?_, fun pa hpa => ?_, rfl, rfl⟩, blackBoxSave_slot⟩
  · exact (memByte_hostOnly s.mem pa).trans (if_pos hpa)
  · exact (memByte_hostOnly s.mem pa).trans (if_neg (by rw [hpa]; exact Bool.false_ne_true))

end Sys2Proof.Machine

namespace Sys2Proof.Machine

/-! ### What a failed quad stop or die leaves (R225, R330) -/

section
variable {s₀ s t : State}

theorem RosterKept.abandonRound {r : Round} (h : RosterKept s₀ s) : RosterKept s₀ (abandonRound s r) := by
  unfold Machine.abandonRound
  extract_lets s1
  have h1 : RosterKept s₀ s1 := h
  clear_value s1
  split
  · exact h1.barAbandon
  · exact h1

theorem SpansFade.refl (s : State) : SpansFade s s := fun _ sp h => ⟨sp, h, rfl, rfl, rfl, id⟩

theorem SpansFade.trans {u : State} (h : SpansFade s t) (k : SpansFade t u) : SpansFade s u := fun w sp hsp => by
  obtain ⟨sp1, hsp1, hc1, hh1, hk1, hl1⟩ := k w sp hsp
  obtain ⟨sp2, hsp2, hc2, hh2, hk2, hl2⟩ := h w sp1 hsp1
  exact ⟨sp2, hsp2, hc1.trans hc2, hh1.trans hh2, hk1.trans hk2, fun h0 => hl1 (hl2 h0)⟩

/-- No span of the cores of quad `q` (8·die + quad) has a live lane. -/
def QuadDead (s : State) (q : Nat) : Prop := ∀ u sp, spanOf s u = some sp → sp.core / 4 = q → sp.live = 0

theorem QuadDead.after {q : Nat} (h : QuadDead s q) (k : SpansFade s t) : QuadDead t q := fun u sp' hsp' hq => by
  obtain ⟨sp, hsp, hcore, -, -, hlive⟩ := k u sp' hsp'
  exact hlive (h u sp hsp (hcore ▸ hq))

/-- The management state with the quad among the failed ones. -/
def quadFailed (m : Mgmt) (q : Nat) : Mgmt := { m with failedQuads := if m.failedQuads.contains q then m.failedQuads else q :: m.failedQuads }

theorem cwDown_quadFailed (m : Mgmt) (q : Nat) : (quadFailed m q).cwDown = m.cwDown := rfl

theorem failedDies_quadFailed (m : Mgmt) (q : Nat) : (quadFailed m q).failedDies = m.failedDies := rfl

/-- A quad stop that has failed leaves no live lane on its cores; of management only the list of failed stops changes. -/
theorem failQuad_spec (s : State) (q : Nat) :
    (failQuad s q).mg = quadFailed s.mg q ∧ SpansFade s (failQuad s q) ∧ QuadDead (failQuad s q) q := by
  unfold failQuad
  extract_lets mine m0 s1 s2 s3
  have hmg : s1.mg = quadFailed s.mg q := rfl
  have h1 : SpansFade s s1 := SpansFade.refl s
  clear_value s1
  obtain ⟨h2, hdead⟩ := halts_foldl (fun t p => haltWith t p.1 0 noteAbandoned 0) Prod.fst (fun t p => halts_haltWith t p.1 0 noteAbandoned 0)
    (s1.spans.filter (fun p => mine p.2.core)) s1
  have hquad : QuadDead s2 q := fun u sp hsp hq => by
    obtain ⟨sp1, hsp1, hcore, -⟩ := h2.spans u sp hsp
    exact hdead (u, sp1) (List.mem_filter.2 ⟨mem_of_mapFind hsp1, beq_iff_eq.2 (hcore ▸ hq)⟩) sp hsp
  have h3 : Halts s2 s3 := Halts.of_roster ((RosterKept.refl s2).foldl fun _ _ ht => ht.barAbandon)
  have h4 : Halts s2 (failCommands s3 mine) := h3.trans (halts_failCommands s3 mine)
  exact ⟨h4.mg.trans (h2.mg.trans hmg), h1.trans (h2.spans.trans h4.spans), hquad.after h4.spans⟩

/-- Quad stops that fail one after another. -/
theorem failQuads_spec (key : Nat → Nat) (l : List Nat) (s t : State) (ht : l.foldl (fun t q => failQuad t (key q)) s = t) :
    t.mg.cwDown = s.mg.cwDown ∧ t.mg.failedDies = s.mg.failedDies ∧ SpansFade s t ∧ ∀ q ∈ l, QuadDead t (key q) := by
  induction l generalizing s with
  | nil =>
    subst ht
    exact ⟨rfl, rfl, SpansFade.refl s, fun q hq => by cases hq⟩
  | cons x xs ih =>
    rw [List.foldl_cons] at ht
    obtain ⟨hmg, hfade, hdead⟩ := failQuad_spec s (key x)
    obtain ⟨hdown, hdies, hfades, hdeads⟩ := ih (failQuad s (key x)) ht
    have hdown1 : (failQuad s (key x)).mg.cwDown = s.mg.cwDown := by rw [hmg, cwDown_quadFailed]
    have hdies1 : (failQuad s (key x)).mg.failedDies = s.mg.failedDies := by rw [hmg, failedDies_quadFailed]
    refine ⟨hdown.trans hdown1, hdies.trans hdies1, hfade.trans hfades, fun q hq => ?_⟩
    obtain rfl | hq := List.mem_cons.1 hq
    · exact hdead.after hfades
    · exact hdeads q hq

/-- What a failed die leaves: it is listed, no span of its quads has a live lane, and its processors stand still. -/
theorem failDie_spec {d : Nat} (hnew : s.mg.failedDies.contains d = false) :
    (failDie s d).mg.cwDown = s.mg.cwDown ∧ (failDie s d).mg.failedDies = d :: s.mg.failedDies ∧
      (∀ q, q / 8 = d → QuadDead (failDie s d) q) ∧ ∀ f ∈ (failDie s d).fab.fps, f.1 / 4 = d → f.2.running = false := by
  unfold failDie
  rw [if_neg (by rw [hnew]; exact Bool.false_ne_true)]
  extract_lets e s1 s2 s3 s4
  have h2 : RosterKept s s2 := RosterKept.record (s := s1) (RosterKept.refl s).record
  have hmg2 := h2.mg
  clear_value s2
  obtain ⟨hdown, hdies, -, hdead⟩ := failQuads_spec (fun q => 8 * d + q) (List.range 8) s2 s3 rfl
  have h4 : RosterKept s3 s4 := (RosterKept.refl s3).foldl fun _ _ ht => ht.abandonRound
  have hmg4 := h4.mg
  have hspans4 := h4.spans
  clear_value s4
  refine ⟨?_, ?_, fun q hq u sp hsp hcore => ?_, fun f hf hd => ?_⟩
  · exact (congrArg Mgmt.cwDown hmg4).trans (hdown.trans (congrArg Mgmt.cwDown hmg2))
  · exact congrArg (d :: ·) ((congrArg Mgmt.failedDies hmg4).trans (hdies.trans (congrArg Mgmt.failedDies hmg2)))
  · refine hdead (q % 8) (List.mem_range.2 (Nat.mod_lt _ (by decide))) u sp ?_ (by omega)
    exact (congrArg (mapFind · u) hspans4).symm.trans hsp
  · obtain ⟨f', -, rfl⟩ := List.mem_map.1 hf
    by_cases hmine : f'.1 / 4 = d
    · rw [if_pos hmine]
    · rw [if_neg hmine] at hd
      exact absurd hd hmine

theorem cwDown_failDie (s : State) (d : Nat) : (failDie s d).mg.cwDown = s.mg.cwDown := by
  by_cases h : s.mg.failedDies.contains d = true
  · rw [failDie, if_pos h]
  · exact (failDie_spec (Bool.not_eq_true _ ▸ h)).1

theorem coreUsable_of_quad {p g : Nat} (h : g / 4 ∈ s.mg.failedQuads) : coreUsable s p g = false := by
  simp [coreUsable, h]

theorem coreUsable_of_die {p g : Nat} (h : g / 32 ∈ s.mg.failedDies) : coreUsable s p g = false := by
  simp [coreUsable, h]

/-! ### Causeways (R306 to R308) -/

theorem causeway_clauses (s : State) :
     let c := s.cur.x.a
     (c < 22 → bitAt s.mg.cwDown c = false → s.mg.retrain.contains c = false →
       exec .flitCrcFail s = .next (recLink { s with mg := { s.mg with
         replays := mapPut s.mg.replays c ((if s.cur.x.b = 0 then 0 else mapGet 0 s.mg.replays c) + 1) } } 1 c)) ∧
     (16 ≤ mapGet 0 s.mg.replays c → s.mg.retrain.contains c = false →
       exec .causewayRetrain s = .next (recLink { s with mg := { s.mg with
         retrain := c :: s.mg.retrain, replays := mapDel s.mg.replays c } } 2 c)) ∧
     (s.mg.retrain.contains c = true →
       let m := { s.mg with retrain := s.mg.retrain.filter (fun x => x != c) }
       (s.cur.x.b = 0 → exec .retrainComplete s = .next { s with mg := m }) ∧
       (s.cur.x.b = 1 → exec .retrainComplete s = .next (recLink { s with mg := { m with cwHalf := m.cwHalf ||| 2 ^ c } } 3 c)) ∧
       (2 ≤ s.cur.x.b → ∃ t, exec .retrainComplete s = .next t ∧ t.mg.cwDown = m.cwDown ||| 2 ^ c)) ∧
     (bitAt s.mg.cwDown c = true → s.mg.rerouted.contains c = false →
       exec .routeInstall s = .next { s with mg := { s.mg with rerouted := c :: s.mg.rerouted } }) := by
  intro c
  refine ⟨fun hc hup hret => ?_, fun hn hret => ?_, fun hret => ?_, fun hdown hnew => ?_⟩
  · refine if_neg ?_
    rintro (h | h | h)
    · exact absurd hc (Nat.not_lt.2 h)
    · exact Bool.false_ne_true (hup.symm.trans h)
    · exact Bool.false_ne_true (hret.symm.trans h)
  · refine if_neg ?_
    rintro (h | h)
    · exact absurd hn (Nat.not_le.2 h)
    · exact Bool.false_ne_true (hret.symm.trans h)
  · intro m
    have hopen : exec .retrainComplete s = execRetrainComplete s := rfl
    rw [hopen, execRetrainComplete]
    extract_lets c1 m1 s1 ok
    rw [if_neg (by rw [hret]; exact Bool.false_ne_true)]
    refine ⟨fun hb => ?_, fun hb => ?_, fun hb => ?_⟩
    · rw [hb]
      rfl
    · rw [hb]
      rfl
    · split
      · next h => omega
      · next h => omega
      · refine ⟨_, rfl, ?_⟩
        exact List.foldlRecOn (motive := fun t : State => t.mg.cwDown = m.cwDown ||| 2 ^ c) _ _ rfl
          fun t ht d _ => (cwDown_failDie t d).trans ht
  · exact if_neg (by rw [hdown, hnew]; exact Bool.false_ne_true)

end

end Sys2Proof.Machine

namespace Sys2Proof.Machine

/-! ### Failed stops and dies, soft errors, scrubs and lock step (R225, R325, R330, R331) -/

section
variable {s : State}

theorem quadStopFail_failed (hq : s.cur.x.a < 128) (hnew : s.mg.failedQuads.contains s.cur.x.a = false) :
    ∃ t, exec .quadStopFail s = .next t ∧ t.mg.failedQuads = s.cur.x.a :: s.mg.failedQuads ∧
      ∀ g, g / 4 = s.cur.x.a → (∀ p, coreUsable t p g = false) ∧ ∀ u sp, spanOf t u = some sp → sp.core = g → sp.live = 0 := by
  obtain ⟨hmg, -, hdead⟩ := failQuad_spec s s.cur.x.a
  have hlist : (failQuad s s.cur.x.a).mg.failedQuads = s.cur.x.a :: s.mg.failedQuads := by
    rw [hmg]
    exact if_neg (by rw [hnew]; exact Bool.false_ne_true)
  refine ⟨_, if_neg ?_, hlist, fun g hg => ⟨fun p => coreUsable_of_quad ?_, fun u sp hsp hcore => hdead u sp hsp (hcore ▸ hg)⟩⟩
  · rintro (h | h)
    · exact absurd hq (Nat.not_lt.2 h)
    · exact Bool.false_ne_true (hnew.symm.trans h)
  · rw [hlist, hg]
    exact List.mem_cons_self

theorem dieFail_failed (hdie : s.cur.x.die < 16) (hnew : s.mg.failedDies.contains s.cur.x.die = false) :
    ∃ t, exec .dieFail s = .next t ∧ t.mg.failedDies = s.cur.x.die :: s.mg.failedDies ∧
      (∀ g, g / 32 = s.cur.x.die → (∀ p, coreUsable t p g = false) ∧ ∀ u sp, spanOf t u = some sp → sp.core = g → sp.live = 0) ∧
      ∀ f ∈ t.fab.fps, f.1 / 4 = s.cur.x.die → f.2.running = false := by
  obtain ⟨-, hlist, hdead, hstill⟩ := failDie_spec hnew
  refine ⟨_, if_neg ?_, hlist, fun g hg => ⟨fun p => coreUsable_of_die ?_, fun u sp hsp hcore => ?_⟩, hstill⟩
  · rintro (h | h)
    · exact absurd hdie (Nat.not_lt.2 h)
    · exact Bool.false_ne_true (hnew.symm.trans h)
  · rw [hlist, hg]
    exact List.mem_cons_self
  · exact hdead (g / 4) (by omega) u sp hsp (by rw [hcore])

theorem uncorrectable_scalar {sp : Span} (hsp : spanOf s s.cur.x.id = some sp) (ha : s.cur.x.a = 0) (hb : s.cur.x.b < 63) :
    ∃ t sp', exec .uncorrectableError s = .next t ∧ spanOf t s.cur.x.id = some sp' ∧ sp'.badS.getLsbD s.cur.x.b = true := by
  have hexec : exec .uncorrectableError s = .next (putSpan s s.cur.x.id
      { sp with badS := if s.cur.x.b < 63 then sp.badS ||| BitVec.ofNat 64 (2 ^ s.cur.x.b) else sp.badS }) := by
    rw [show exec .uncorrectableError s = execUncorrectableError s from rfl, execUncorrectableError, ha]
    dsimp only
    rw [hsp]
    rfl
  refine ⟨_, _, hexec, spanOf_putSpan_same .., ?_⟩
  show BitVec.getLsbD (if s.cur.x.b < 63 then _ else _) _ = true
  rw [if_pos hb, BitVec.getLsbD_or, BitVec.getLsbD_ofNat, Nat.testBit_two_pow_self]
  simp [Nat.lt_succ_of_lt hb]

theorem uncorrectable_memory (ha : s.cur.x.a = 4) (hb : isHbm (128 * s.cur.x.b) = true) :
    ∃ t, exec .uncorrectableError s = .next t ∧ (homeOf t s.cur.x.b).latent = true ∧ badLine t s.cur.x.b = true ∧ t.mem = s.mem := by
  have hexec : exec .uncorrectableError s = .next (putHome s s.cur.x.b { homeOf s s.cur.x.b with latent := true }) := by
    rw [show exec .uncorrectableError s = execUncorrectableError s from rfl, execUncorrectableError, ha]
    exact if_pos (by rw [paExists, hb, Bool.true_or, Bool.true_or])
  have hlatent : (homeOf (putHome s s.cur.x.b { homeOf s s.cur.x.b with latent := true }) s.cur.x.b).latent = true := by
    rw [homeOf_putHome, if_pos rfl]
  refine ⟨_, hexec, hlatent, ?_, rfl⟩
  rw [badLine, hlatent, Bool.or_true, Bool.true_or]

theorem uncorrectable_runs {sp : Span} (hsp : spanOf s s.cur.x.id = some sp) (ha : s.cur.x.a = 16)
    (hp : (launchOf s sp).any Launch.parapet = true) : exec .uncorrectableError s = .next (lockstepHalt s s.cur.x.id 0) := by
  rw [show exec .uncorrectableError s = execUncorrectableError s from rfl, execUncorrectableError, ha]
  dsimp only
  rw [hsp]
  exact if_pos hp

/-- A pass whose two copies run on, but do not agree, halts its span before its effect (R331). -/
theorem runPass_mismatch {i : Instr} {u : Nat} {sp : Span} {v : SMap Word32} {ta tb : State} {a b : Span} {bad : BitVec 32}
    (hsp : spanOf s u = some sp) (hv : sp.shadow = some v) (hta : exec i (putSpan s u { sp with shadow := none }) = .next ta)
    (htb : exec i (putSpan s u { sp with shadow := none, v := v }) = .next tb) (hA : spanOf ta u = some a) (hB : spanOf tb u = some b)
    (htraps : a.traps.length = sp.traps.length) (hne : a ≠ { sp with shadow := none })
    (hbad : bad = passMismatch s { sp with shadow := none } { sp with shadow := none, v := v } a b) (h0 : bad ≠ 0) :
    runPass i s u = .next (lockstepHalt s u bad) := by
  have hboth : runPass i s u = runBoth i s u sp v := by
    unfold runPass
    rw [hsp]
    dsimp only
    rw [hv]
  subst hbad
  rw [hboth]
  unfold runBoth
  dsimp only
  rw [hta, htb]
  dsimp only
  rw [hA, hB]
  exact if_pos ⟨htraps, hne, h0⟩

theorem lockstepHalt_event {u : Nat} {sp : Span} (mask : BitVec 32) (hsp : spanOf s u = some sp) :
    ∃ e : BoxEvent, e.kind = 1 ∧ e.code = 0x83 ∧ e.arg = mask.toNat ∧ e.die = sp.core / 32 ∧
      e.core = sp.core % 32 ∧ e.bay = sp.bay ∧ e.span = sp.n ∧ (∀ l, launchOf s sp = some l → e.launch = l.number ∧ e.key = l.key) ∧
      lockstepHalt s u mask = haltSpan (record s e) u noteAbandoned := by
  refine ⟨spanEvent s sp 0x83 0 mask.toNat, rfl, rfl, rfl, rfl, rfl, rfl, rfl, fun l hl => ?_, ?_⟩
  · simp [spanEvent, hl]
  · unfold lockstepHalt
    rw [hsp]

theorem scrub_latent (h : (homeOf s s.cur.x.a).latent = true ∧ isHbm (128 * s.cur.x.a) = true) : exec .scrub s = .next
    (recUncorrectable (putHome s s.cur.x.a { homeOf s s.cur.x.a with
      latent := false, poison := true, lost := (homeOf s s.cur.x.a).lost && (homeOf s s.cur.x.a).poison })
      (dieOfPa (128 * s.cur.x.a)) 0 0 4 (128 * s.cur.x.a)) := if_pos h

theorem scrub_sound (h : (homeOf s s.cur.x.a).latent = false) : exec .scrub s = .next s :=
  if_neg fun hc => Bool.false_ne_true (h.symm.trans hc.1)

end

/-- Settles O51: a failed quad stop or die halts every span of its cores (`failQuad_spec`, `failDie_spec`), and no halt touches the
causeways. -/
theorem linksAndFailures : Obligations.LinksAndFailures := by
  refine ⟨causeway_clauses, fun s => ⟨quadStopFail_failed, dieFail_failed, fun _ => uncorrectable_scalar, uncorrectable_memory, scrub_latent,
    scrub_sound, fun _ => uncorrectable_runs, ?_, fun _ mask _ => lockstepHalt_event mask⟩⟩
  intro i u sp v ta tb a b hsp hv hta htb hA hB htraps hne bad hbad h0
  exact runPass_mismatch hsp hv hta htb hA hB htraps hne hbad h0

end Sys2Proof.Machine

namespace Sys2Proof.Machine

/-! ### Writes that leave the homes as they stand -/

section
variable {s₀ s t : State} {g line u : Nat}

/-- Memory, the home lines and the order of their bytes are as they were. -/
def HomesSame (s t : State) : Prop := (t.mem, t.lines, t.ord) = (s.mem, s.lines, s.ord)

theorem HomesSame.refl (s : State) : HomesSame s s := rfl

theorem HomesSame.lines (h : HomesSame s t) : t.lines = s.lines := congrArg (fun x => x.2.1) h

theorem HomesSame.ord (h : HomesSame s t) : t.ord = s.ord := congrArg (fun x => x.2.2) h

theorem HomesSame.ite {c : Prop} [Decidable c] (h : HomesSame s₀ s) (k : HomesSame s₀ t) : HomesSame s₀ (if c then s else t) := by
  split
  · exact h
  · exact k

theorem HomesSame.foldl {α : Type} {f : State → α → State} {l : List α} (h : HomesSame s₀ s)
    (hf : ∀ t a, HomesSame s₀ t → HomesSame s₀ (f t a)) : HomesSame s₀ (l.foldl f s) := by
  induction l generalizing s with
  | nil => exact h
  | cons a as ih => exact ih (hf s a h)

theorem HomesSame.homeOf (h : HomesSame s t) (x : Nat) : homeOf t x = homeOf s x := congrArg (fun m => mapGet HomeLine.init m x) h.lines

theorem HomesSame.writerOf (h : HomesSame s t) (a : Nat) (id : Int) (m : BitVec 128) (va : Nat) : writerOf t a id m va = writerOf s a id m va := by
  rw [Machine.writerOf, Machine.writerOf, agentOf, agentOf, h.ord]

theorem HomesSame.bytes (h : HomesSame s t) : BytesKept s t :=
  ⟨fun x => congrArg HomeLine.data (h.homeOf x), congrArg Prod.fst h, congrArg (fun o => o.bytes) h.ord⟩

theorem HomesSame.writeBack (h : HomesSame s₀ s) : HomesSame s₀ (writeBack s g line) := by
  unfold Machine.writeBack
  dsimp only
  split
  · exact h
  · exact h.ite h

theorem HomesSame.invalidate (h : HomesSame s₀ s) : HomesSame s₀ (invalidate s g line) := h.writeBack (g := g) (line := line)

theorem HomesSame.raiseFloorOf (h : HomesSame s₀ s) : HomesSame s₀ (raiseFloorOf s u line) := by
  unfold Machine.raiseFloorOf
  split
  · exact h
  · exact h

theorem HomesSame.putOverlay {deck va : Nat} {b : List Byte} (h : HomesSame s₀ s) : HomesSame s₀ (putOverlay s deck va b) := by
  unfold Machine.putOverlay
  split
  · exact h
  · exact h

theorem BytesKept.l1Merge (s : State) (g line : Nat) (m : BitVec 128) (d : Line) : BytesKept s (l1Merge s g line m d) := by
  unfold Machine.l1Merge
  split
  · exact ⟨fun _ => rfl, rfl, rfl⟩
  · exact BytesKept.refl s

/-! ### A store of a commit buffer (R299, R385) -/

/-- Bytes of one virtual line, at their places in the page. -/
theorem nodup_pagePlaces {cells : List (Nat × Byte)} {base x : Nat} (hline : ∀ y ∈ cells, y.1 / 128 = x) (hn : (cells.map Prod.fst).Nodup) :
    (cells.map fun y => base + y.1 % 4096).Nodup := by
  have hinj : ∀ y ∈ cells, ∀ z ∈ cells, base + y.1 % 4096 = base + z.1 % 4096 → y.1 = z.1 := fun y hy z hz he => by
    have := hline y hy
    have := hline z hz
    omega
  rw [List.Nodup, List.pairwise_map] at hn ⊢
  exact hn.imp_of_mem fun hy hz hne he => hne (hinj _ hy _ hz he)

/-- The bytes of a store that reach their home, each in its place of its byte's coherence order, and their line with them. -/
def storedLine (s : State) (w : Writer) (line base : Nat) (cells : List (Nat × Byte)) : State :=
  nextStamp (cells.foldl (fun t x => orderedPut t (some w) false x.1 (base + x.1 % 4096) x.2) (lineWritten s line))

theorem homeByte_storedLine (s : State) (w : Writer) (line base : Nat) {cells : List (Nat × Byte)}
    (hn : (cells.map fun y => base + y.1 % 4096).Nodup) (q : Nat) : homeByte (storedLine s w line base cells) q =
      match cells.find? (fun y => base + y.1 % 4096 == q) with
      | some y => leaves s (some w) false y.1 q y.2
      | none => homeByte s q := by
  have hw := BytesKept.lineWritten s line
  have h := homeByte_foldl_orderedPut (fun _ => some w) false (fun y : Nat × Byte => y.1) (fun y => base + y.1 % 4096) (fun y => y.2) q cells
    (lineWritten s line) hn
  refine Eq.trans (show homeByte (storedLine s w line base cells) q = _ from h) ?_
  cases cells.find? (fun y => base + y.1 % 4096 == q) with
  | none => exact hw.homeByte q
  | some y => exact hw.leaves ..

/-- A store to a line of HBM4E that nothing of its core is on the way to reaches its home. -/
theorem applyStore_memory {sp : Span} {l : Launch} {cells : List (Nat × Byte)} {va pa : Nat} {bar unc : Bool}
    (hva : cells.head?.map Prod.fst = some va) (hloc : inLocal va = false) (hpa : lookupVa s l.root va = some (pa, bar)) (hhbm : isHbm pa = true)
    (hcount : (homeOf s (pa / 128)).counted = false) (hbusy : (lineBusy s sp.core (pa / 128)).2 = false)
    (hline : ∀ y ∈ cells, y.1 / 128 = va / 128) (hn : (cells.map Prod.fst).Nodup) (hpage : pa % 4096 = va % 4096) :
    ∃ t m, applyEntry s u sp l (.store cells unc) = .ok t ∧ ∀ q, homeByte t q =
      match cells.find? (fun y => pa / 4096 * 4096 + y.1 % 4096 == q) with
      | some y => leaves s (some (writerOf s u sp.core m va)) false y.1 q y.2
      | none => homeByte s q := by
  match cells, hva with
  | c :: rest, hva =>
    obtain rfl : c.1 = va := Option.some.inj hva
    have hbase : pa - c.1 % 4096 = pa / 4096 * 4096 := by omega
    show ∃ t m, applyStore s u sp l (c :: rest) unc = .ok t ∧ _
    unfold applyStore
    dsimp -zeta only
    extract_lets va g full
    rw [if_neg (by rw [hloc]; exact Bool.false_ne_true), hpa]
    dsimp -zeta only
    extract_lets base line busy s1 md s2 w s3 h
    have h2 : HomesSame s s2 := by
      refine HomesSame.foldl (HomesSame.raiseFloorOf (s := s1) ?_) fun _ _ ht => ht.putOverlay
      exact HomesSame.ite (c := unc = true) (HomesSame.refl s).invalidate (HomesSame.refl s)
    have hfree : (homeOf s2 line).counted = false := by rw [h2.homeOf]; exact hcount
    have hw : w = writerOf s u sp.core md.1 va := h2.writerOf ..
    have h3 : s3 = storedLine s2 w line base (c :: rest) := rfl
    clear_value s2 w s3
    subst hw h3
    rw [if_neg (by rw [hbusy]; exact Bool.false_ne_true), if_pos hhbm, if_neg (by rw [hfree]; exact Bool.false_ne_true)]
    refine ⟨_, md.1, rfl, fun q => ?_⟩
    rw [(BytesKept.l1Merge ..).homeByte]
    refine ((BytesKept.putHome _ line (by rfl)).homeByte q).trans ?_
    rw [homeByte_storedLine _ _ _ _ (nodup_pagePlaces hline hn), show base = pa / 4096 * 4096 from hbase]
    cases (c :: rest).find? (fun y => pa / 4096 * 4096 + y.1 % 4096 == q) with
    | none => exact h2.bytes.homeByte q
    | some y => exact h2.bytes.leaves ..

/-- A store to scratch that is in its mode and not switching puts its bytes there. -/
theorem applyStore_scratch {sp : Span} {l : Launch} {cells : List (Nat × Byte)} {va : Nat} {d : Deck} {b : Bank} {unc : Bool}
    (hva : cells.head?.map Prod.fst = some va) (hloc : inLocal va = true) (hd : deckOf s sp.deck = some d)
    (hb : localMode s d (va - localLo) = some b) : applyEntry s u sp l (.store cells unc) =
      if b.mode ≠ .scratch then .bad causeBankMode else if b.switch ≠ [] then .wait s
        else .ok (cells.foldl (fun t y => match deckOf t sp.deck with
          | some d => localPut t d (y.1 - localLo) y.2
          | none => t) s) := by
  match cells, hva with
  | c :: rest, hva =>
    obtain rfl : c.1 = va := Option.some.inj hva
    show applyStore s u sp l (c :: rest) unc = _
    unfold applyStore
    dsimp -zeta only
    rw [if_pos hloc, hd]
    dsimp only
    rw [hb]
    dsimp only
    cases b.switch with
    | nil => rfl
    | cons x xs => rfl

end

end Sys2Proof.Machine

namespace Sys2Proof.Machine

/-! ### The entries of a deck's commit buffers (R298, R299, R385) -/

section
variable {s₀ s t : State} {k u n : Nat} {sp : Span} {l : Launch}

/-- Entries grouped by a number, in the order of the numbers. -/
theorem pairwise_flatMap_filter {α : Type} (f : α → Nat) (xs : List α) {ns : List Nat} (h : ns.Pairwise (· ≤ ·)) :
    ((ns.flatMap fun w => xs.filter fun p => f p == w).map f).Pairwise (· ≤ ·) := by
  have hf : ∀ w, ∀ y ∈ xs.filter (fun p => f p == w), f y = w := fun w y hy => beq_iff_eq.1 (List.mem_filter.1 hy).2
  induction ns with
  | nil => exact List.Pairwise.nil
  | cons w ws ih =>
    obtain ⟨hw, hws⟩ := List.pairwise_cons.1 h
    rw [List.flatMap_cons, List.map_append, List.pairwise_append]
    refine ⟨?_, ih hws, ?_⟩
    · rw [List.pairwise_map]
      refine List.pairwise_of_forall_mem_list fun x hx y hy => ?_
      rw [hf w x hx, hf w y hy]
    · intro a ha b hb
      obtain ⟨x, hx, rfl⟩ := List.mem_map.1 ha
      obtain ⟨y, hy, rfl⟩ := List.mem_map.1 hb
      obtain ⟨v, hv, hy⟩ := List.mem_flatMap.1 hy
      rw [hf w x hx, hf v y hy]
      exact hw v hv

theorem deckSpans_rise (s : State) (k : Nat) : ((deckSpans s k).map (fun p => p.2.w)).Pairwise (· ≤ ·) :=
  pairwise_flatMap_filter (fun p : Nat × Span => p.2.w) _ (List.pairwise_le_range (n := 32))

theorem applyAll_done (h : ∀ p ∈ deckSpans s k, p.2.buffer = []) : applyAll (n + 1) s k l = (s, true) := by
  have hnone : (deckSpans s k).find? (fun p => !p.2.buffer.isEmpty) = none :=
    List.find?_eq_none.2 fun p hp => by rw [h p hp]; exact Bool.false_ne_true
  unfold applyAll
  rw [hnone]

/-- How the application of a deck's entries goes on after one entry of span `u`, by what came of it. -/
def applyGoesOn (n : Nat) (s : State) (k : Nat) (l : Launch) (u : Nat) (sp : Span) (pt : Word64) : Applied → State × Bool
  | .wait t => ({ t with cur := s.cur }, false)
  | .bad cause => applyAll n (setApplied (quantumFail s u sp pt cause) k) k l
  | .ok t => applyAll n (setApplied (finishSpan (popEntry { t with cur := s.cur } u) u) k) k l

/-- The oldest entry of the first span that has one is the next to be applied. -/
theorem applyAll_next {x : Word64 × Buffered} {rest : List (Word64 × Buffered)} {a : Applied}
    (hf : (deckSpans s k).find? (fun p => !p.2.buffer.isEmpty) = some (u, sp)) (hb : sp.buffer = x :: rest)
    (ha : applyEntry { s with cur := { s.cur with uid := u } } u sp l x.2 = a) :
    applyAll (n + 1) s k l = applyGoesOn n s k l u sp x.1 a := by
  subst ha
  rw [applyAll, hf]
  dsimp only
  rw [hb]
  dsimp only
  cases applyEntry { s with cur := { s.cur with uid := u } } u sp l x.2 <;> rfl

/-! ### Bins and statuses that a quantum end delivers (R138, R193, R298) -/

theorem takeBin_delivers {i h b : Nat} {ld : Load} {sp1 : Span} (hld : mapFind s.loads i = some ld) (hlate : ld.late = true)
    (hh : ld.hist = some (h, b)) (hsp : spanOf s ld.uid = some sp1) :
    ∃ ld', mapFind (takeBin s i).loads i = some ld' ∧ ld'.lanes = ld.lanes.map (fun y => if y.lane = 0 ∧ y.got.isNone = true
      then { y with got := some (mapGet 0 (mapGet ⟨[], 0⟩ (coreOf s sp1.core).hist h).bins b) } else y) := by
  unfold takeBin
  rw [hld]
  dsimp only
  rw [hsp, hh]
  dsimp only
  rw [if_pos hlate, deliver, hld]
  exact ⟨_, mapFind_mapPut_same .., rfl⟩

theorem waitStatus_of_no_end {b : Bar} {p : Nat} (h : ∀ st, ¬ waitEnds b p st) : waitStatus b p = none := by
  unfold waitStatus
  dsimp only
  split
  · next hone => exact absurd (Or.inl ⟨hone, rfl⟩) (h _)
  · split
    · next htwo => exact absurd (Or.inr (Or.inl ⟨htwo.1, htwo.2, rfl⟩)) (h _)
    · split
      · next hgone => exact absurd (Or.inr (Or.inr ⟨by omega, hgone, rfl⟩)) (h _)
      · rfl

/-- A `barwait` of span `u` goes on with the status that its barrier gives it, or holds. -/
def waitGoes (s : State) (u : Nat) (sp : Span) (sd : Nat) (loc : BarLoc) : Option Nat → State
  | none => s
  | some st =>
    let sp1 := sWrite { sp with pend := .none } sd (BitVec.ofNat 64 st)
    if st = 0 ∨ st = 4 ∨ st = 5 then
      let r := detAcquire s sp1 (barScope loc) s.uses
      putSpan (learn r.1 u (mapGet ([], []) s.ord.bars (barKey loc)).2) u (advance r.2)
    else putSpan s u (advance sp1)

section
variable {t0 : Int} {off : Bool} {addr : Word64} {pa : Option Nat} {p sd lim : Nat} {loc : BarLoc}

theorem evalWait_valid (hpend : sp.pend = .barwait t0 off addr pa p sd lim) (hloc : waitBar s sp l addr = .loc loc)
    (hv : (deckBar s l sp.deck addr.toNat loc).valid = true) :
    evalWait s u sp l = waitGoes s u sp sd loc (waitStatus (deckBar s l sp.deck addr.toNat loc) p) := by
  unfold evalWait
  split
  · next t1 off1 addr1 pa1 p1 sd1 lim1 hp =>
    cases hp.symm.trans hpend
    split
    · next h => cases h.symm.trans hloc
    · next h => cases h.symm.trans hloc
    · next h =>
      cases h.symm.trans hloc
      refine (if_neg (by rw [hv]; exact Bool.false_ne_true)).trans ?_
      split
      · next hst => rw [hst]; rfl
      · next hst => rw [hst]; rfl
  · next h => exact (h _ _ _ _ _ _ _ hpend).elim

theorem evalWait_ends (hpend : sp.pend = .barwait t0 off addr pa p sd lim) (hloc : waitBar s sp l addr = .loc loc)
    (hv : (deckBar s l sp.deck addr.toNat loc).valid = true) {st : Nat} (he : waitEnds (deckBar s l sp.deck addr.toNat loc) p st)
    (hst : st = 1 ∨ st = 3) : evalWait s u sp l = putSpan s u (advance (sWrite { sp with pend := .none } sd (BitVec.ofNat 64 st))) := by
  rw [evalWait_valid hpend hloc hv, waitStatus_of_ends he]
  exact if_neg (by omega)

theorem evalWait_holds (hpend : sp.pend = .barwait t0 off addr pa p sd lim) (hloc : waitBar s sp l addr = .loc loc)
    (hv : (deckBar s l sp.deck addr.toNat loc).valid = true) (hno : ∀ st, ¬ waitEnds (deckBar s l sp.deck addr.toNat loc) p st) :
    evalWait s u sp l = s := by
  rw [evalWait_valid hpend hloc hv, waitStatus_of_no_end hno]
  rfl

end

end

end Sys2Proof.Machine

namespace Sys2Proof.Machine

/-! ### The end of a quantum (R260, R297 to R303) -/

section
variable {s₀ s t : State} {k : Nat} {d : Deck} {l : Launch}

theorem DecksStay.refl (s : State) : DecksStay s s := (Halts.refl s).decks

theorem DecksStay.trans {u : State} (h : DecksStay s t) (k : DecksStay t u) : DecksStay s u := fun i d hd => by
  obtain ⟨d1, hd1, hl1, hq1⟩ := h i d hd
  obtain ⟨d2, hd2, hl2, hq2⟩ := k i d1 hd1
  exact ⟨d2, hd2, hl2.trans hl1, hq2.trans hq1⟩

theorem DecksStay.foldl {α : Type} {f : State → α → State} {l : List α} (h : DecksStay s₀ s)
    (hf : ∀ t a, DecksStay s₀ t → DecksStay s₀ (f t a)) : DecksStay s₀ (l.foldl f s) :=
  List.foldlRecOn l f h fun t ht a _ => hf t a ht

theorem DecksStay.putSpan {u : Nat} {sp : Span} (h : DecksStay s₀ s) : DecksStay s₀ (putSpan s u sp) := h

theorem RosterKept.deliver {load lane value : Nat} {bad : Bool} (h : RosterKept s₀ s) : RosterKept s₀ (deliver s load lane value bad) := by
  unfold Machine.deliver
  split
  · exact h
  · exact h

theorem RosterKept.takeBin {i : Nat} (h : RosterKept s₀ s) : RosterKept s₀ (takeBin s i) := by
  unfold Machine.takeBin
  split
  · exact h
  · split
    · exact h.deliver.ite h
    · exact h

theorem RosterKept.servePops {g p : Nat} {pops : List (Nat × Load)} (h : RosterKept s₀ s) : RosterKept s₀ (servePops pops s g p) := by
  induction pops generalizing s with
  | nil => exact h
  | cons x xs ih => exact h.ite (ih (s := takeWords s g p x.1 _ _) h)

theorem Halts.quantumFail {u cause : Nat} {sp : Span} {pt : Word64} (h : Halts s₀ s) : Halts s₀ (quantumFail s u sp pt cause) :=
  (h.trans (Halts.of_roster (RosterKept.refl s).record)).haltSpan

theorem halts_deliverLate (s : State) (k : Nat) (d : Deck) : Halts s (deliverLate s k d) := by
  unfold deliverLate
  extract_lets s1 s2
  have h1 : RosterKept s s1 := (RosterKept.refl s).foldl fun _ _ ht => ht.takeBin
  have h2 : RosterKept s s2 := h1.foldl fun _ _ ht => ht.servePops
  refine (Halts.of_roster h2).foldl fun t x ht => ?_
  split
  · exact ht.quantumFail
  · exact ht

theorem DecksStay.evalWait {u : Nat} {sp : Span} {l : Launch} (h : DecksStay s₀ s) : DecksStay s₀ (evalWait s u sp l) := by
  have hfail : ∀ cause, DecksStay s₀ (Machine.quantumFail s u sp sp.spc cause) := fun _ => h.trans (Halts.refl s).quantumFail.decks
  unfold Machine.evalWait
  split
  · split
    · exact h
    · exact hfail _
    · extract_lets b
      split
      · exact hfail _
      · split
        · exact h
        · extract_lets sp1 r
          have hr : DecksStay s₀ r.1 := by
            show DecksStay s₀ (Machine.nextUse (if 2 ≤ _ then _ else _))
            split
            · exact h
            · exact h
          split
          · exact hr
          · exact h
  · exact h

/-- The deck closes its quantum: what is late is delivered, the waits are evaluated, and its spans go on or hold. -/
def quantumClosed (s : State) (k : Nat) (d : Deck) (l : Launch) : State :=
  let s := deliverLate s k d
  let s := (deckSpans s k).foldl (fun t p => match spanOf t p.1 with
    | some sp => evalWait t p.1 sp l
    | none => t) s
  let left := (deckSpans s k).filter (fun p => p.2.live != 0)
  let stuck := decide (l.watchdog ≤ d.quanta + 1) || (!d.applied && !left.isEmpty && left.all (fun p => waiting p.2))
  let s := left.foldl (fun t p => match spanOf t p.1 with
    | some sp => putSpan t p.1 { sp with
        held := waiting sp || stuck, acqAt := if sp.acqAt = acqPending then t.uses else sp.acqAt }
    | none => t) (nextUse s)
  match deckOf s k with
  | none => s
  | some d => putDeck s k { d with quanta := d.quanta + 1, ending := false, applied := false, stuck := stuck && !d.retired }

/-- What a quantum end comes to once its entries have been applied as far as they go. -/
def quantumApplied (s : State) (k total : Nat) (l : Launch) (r : State × Bool) : Res :=
  match deckOf r.1 k with
  | none => .next r.1
  | some d =>
    if !r.2 then (if r.1 = s then .fault .notEnabled else .next r.1)
    else if d.retired then .next r.1
    else if quantumBusy r.1 k d then (if total = 0 ∧ r.1 = s then .fault .notEnabled else .next r.1)
    else .next (quantumClosed r.1 k d l)

theorem quantumEnd_applies (h : QuantumEnds s k d l) :
    exec .quantumEnd s = quantumApplied s k ((deckSpans s k).map (fun p => p.2.buffer.length)).sum l
      (applyAll (((deckSpans s k).map (fun p => p.2.buffer.length)).sum + 1)
        (if d.ending = true then s else putDeck s k { d with ending := true, applied := false }) k l) := by
  obtain ⟨hk, hd, hl, hdet, hret, hstart, hstuck, hclk, hact, hswap, hspans⟩ := h
  subst hk
  rw [show exec .quantumEnd s = execQuantumEnd s from rfl]
  unfold execQuantumEnd
  extract_lets k live total
  rw [show deckOf s k = some d from hd]
  dsimp -zeta only
  rw [hl]
  dsimp -zeta only
  extract_lets s0 r
  refine (if_neg ?_).trans rfl
  have hlive : (!d.ending && live.any (fun p => !p.2.held && !atQuantum s p.2 l)) = false := by
    rw [Bool.and_eq_false_iff]
    by_cases hend : d.ending = true
    · exact Or.inl (by rw [hend]; rfl)
    · refine Or.inr (List.any_eq_false.2 fun p hp => ?_)
      obtain ⟨hp, hne⟩ := List.mem_filter.1 hp
      rw [Bool.not_eq_true] at hend
      obtain h | h | h := hspans hend p hp
      · exact absurd (h ▸ hne) (by decide)
      · simp [h]
      · simp [h]
  rw [hdet, hret, hstart, hstuck, hclk, hswap, hlive]
  simp [hact]

end

end Sys2Proof.Machine

namespace Sys2Proof.Machine

/-! ### What a quantum end leaves (R297 to R303) -/

section
variable {s s1 : State} {k : Nat} {d d1 : Deck} {l : Launch}

theorem quantumClosed_deck (hd : deckOf s k = some d) :
    ∃ d2, deckOf (quantumClosed s k d l) k = some d2 ∧ d2.quanta = d.quanta + 1 ∧ d2.ending = false ∧ d2.applied = false ∧
      (d2.retired = false → d.quanta + 1 < l.watchdog → d.applied = true → d2.stuck = false) := by
  unfold quantumClosed
  extract_lets s2 s3 left stuck s4
  have h2 : DecksStay s s2 := (halts_deliverLate s k d).decks
  have h3 : DecksStay s s3 := h2.foldl fun t p ht => by
    split
    · exact ht.evalWait
    · exact ht
  have h4 : DecksStay s s4 := DecksStay.foldl (s := nextUse s3) h3 fun t p ht => by
    split
    · exact ht
    · exact ht
  obtain ⟨d4, hd4, -, hq⟩ := h4 k d hd
  clear_value s4
  rw [hd4]
  refine ⟨_, mapFind_mapPut_same .., congrArg (· + 1) hq, rfl, rfl, fun _ hlow happ => ?_⟩
  show (stuck && !d4.retired) = false
  have hstuck : stuck = false := by
    simp only [stuck, happ, Bool.not_true, Bool.false_and, Bool.or_false]
    exact decide_eq_false (Nat.not_le.2 hlow)
  rw [hstuck, Bool.false_and]

/-- What is applied and done closes the quantum. -/
theorem quantumApplied_closed {total : Nat} (hd : deckOf s1 k = some d1) (hret : d1.retired = false) (hbusy : quantumBusy s1 k d1 = false) :
    quantumApplied s k total l (s1, true) = .next (quantumClosed s1 k d1 l) := by
  unfold quantumApplied
  rw [show deckOf (s1, true).1 k = some d1 from hd]
  refine (if_neg Bool.false_ne_true).trans ((if_neg ?_).trans (if_neg ?_))
  · rw [hret]
    exact Bool.false_ne_true
  · rw [hbusy]
    exact Bool.false_ne_true

/-- What is applied, but not done, is a quantum end still ending. -/
theorem quantumApplied_busy {total : Nat} (hd : deckOf s1 k = some d1) (hret : d1.retired = false) (hbusy : quantumBusy s1 k d1 = true)
    (hne : s1 ≠ s) : quantumApplied s k total l (s1, true) = .next s1 := by
  unfold quantumApplied
  rw [show deckOf (s1, true).1 k = some d1 from hd]
  refine (if_neg Bool.false_ne_true).trans ((if_neg ?_).trans ((if_pos hbusy).trans (if_neg fun h => hne h.2)))
  rw [hret]
  exact Bool.false_ne_true

/-- An entry that has to wait leaves a quantum end still ending. -/
theorem quantumApplied_waits {total : Nat} (hd : (deckOf s1 k).isSome = true) (hne : s1 ≠ s) :
    quantumApplied s k total l (s1, false) = .next s1 := by
  obtain ⟨d1, hd1⟩ := Option.isSome_iff_exists.1 hd
  unfold quantumApplied
  rw [show deckOf (s1, false).1 k = some d1 from hd1]
  exact (if_pos rfl).trans (if_neg hne)

/-! ### A deck without spans (R297, R298) -/

theorem takeBin_of_early {i : Nat} (h : ∀ ld, mapFind s.loads i = some ld → ld.late = false) : takeBin s i = s := by
  unfold takeBin
  split
  · rfl
  · next ld hld =>
    split
    · exact if_neg (by rw [h ld hld]; exact Bool.false_ne_true)
    · rfl

theorem latePops_of_early (h : ∀ p ∈ s.loads, p.2.late = false) (k p : Nat) : latePops s k p = [] := by
  have hnil : s.loads.filter (fun x => x.2.late && x.2.fifo == some p && (spanOf s x.2.uid).any (fun sp => sp.deck == k)) = [] :=
    List.filter_eq_nil_iff.2 fun x hx => by rw [h x hx, Bool.false_and, Bool.false_and]; exact Bool.false_ne_true
  unfold latePops
  rw [hnil]
  rfl

/-- With nothing late, a quantum end delivers nothing. -/
theorem deliverLate_of_early (h : ∀ p ∈ s.loads, p.2.late = false) : deliverLate s k d = s := by
  unfold deliverLate
  extract_lets s1 s2
  have h1 : s1 = s := List.foldlRecOn (motive := fun t => t = s) _ _ rfl fun t ht p _ => by
    subst ht
    exact takeBin_of_early fun ld hld => h _ (mem_of_mapFind hld)
  have h2 : s2 = s := by
    show d.banks.foldl (fun t p => servePops (latePops t k p) t d.core p) s1 = s
    rw [h1]
    refine List.foldlRecOn (motive := fun t => t = s) _ _ rfl fun t ht p _ => ?_
    subst ht
    rw [latePops_of_early h]
    rfl
  rw [h2]
  have hnone : d.banks.flatMap (fun p => if (bankOf (coreOf s d.core) p).mode = .fifo then [] else latePops s k p) = [] :=
    List.flatMap_eq_nil_iff.2 fun p _ => by rw [latePops_of_early h, ite_self]
  rw [hnone]
  rfl

theorem quantumClosed_empty (hd : deckOf s k = some d) (hspans : deckSpans s k = []) (hlow : d.quanta + 1 < l.watchdog)
    (hlate : ∀ p ∈ s.loads, p.2.late = false) :
    quantumClosed s k d l = putDeck (nextUse s) k { d with quanta := d.quanta + 1, ending := false, applied := false, stuck := false } := by
  unfold quantumClosed
  rw [deliverLate_of_early hlate]
  extract_lets s2 s3 left stuck s4
  have h3 : s3 = s := by
    show (deckSpans s k).foldl (fun t p => match spanOf t p.1 with
      | some sp => evalWait t p.1 sp l
      | none => t) s = s
    rw [hspans]
    rfl
  have hleft : left = [] := by
    show (deckSpans s3 k).filter _ = []
    rw [h3, hspans]
    rfl
  have hstuck : stuck = false := by
    show (decide _ || (_ && !left.isEmpty && _)) = false
    rw [hleft, decide_eq_false (Nat.not_le.2 hlow)]
    simp
  have h4 : s4 = nextUse s := by
    show left.foldl _ (nextUse s3) = nextUse s
    rw [hleft, h3]
    rfl
  clear_value s4 stuck
  subst h4 hstuck
  rw [show deckOf (nextUse s) k = some d from hd]
  rfl

theorem quantumEnd_empty (h : QuantumEnds s k d l) (hspans : deckSpans s k = []) (hlow : d.quanta + 1 < l.watchdog)
    (hbusy : quantumBusy s k d = false) (hlate : ∀ p ∈ s.loads, p.2.late = false) (hend : d.ending = false) :
    ∃ t, exec .quantumEnd s = .next t ∧ deckOf t k = some { d with quanta := d.quanta + 1, ending := false, applied := false } ∧ t.mem = s.mem := by
  have happly := quantumEnd_applies h
  obtain ⟨-, -, -, -, hret, -, hstuck, -⟩ := h
  rw [hspans, if_neg (by rw [hend]; exact Bool.false_ne_true),
    applyAll_done (s := putDeck s k { d with ending := true, applied := false }) fun p hp => ?none] at happly
  case none =>
    have hnil : deckSpans (putDeck s k { d with ending := true, applied := false }) k = [] := hspans
    rw [hnil] at hp
    cases hp
  have hdeck : deckOf (putDeck s k { d with ending := true, applied := false }) k = some { d with ending := true, applied := false } :=
    mapFind_mapPut_same ..
  rw [quantumApplied_closed hdeck hret hbusy, quantumClosed_empty hdeck hspans hlow hlate] at happly
  refine ⟨_, happly, ?_, rfl⟩
  refine (mapFind_mapPut_same ..).trans ?_
  rw [← hstuck]

/-! ### Launches without progress, phases (R260, R297, R303) -/

theorem noProgress_stuck (hd : deckOf s s.cur.x.id = some d) (hl : mapFind s.launches d.launch = some l) (hstuck : d.stuck = true) :
    ∃ s1 s2, s1 = record (putDeck s s.cur.x.id { d with stuck := false }) { boxEvent s with
        kind := 1, code := 0x85, die := d.core / 32, core := d.core % 32, launch := l.number, key := l.key, arg := d.index, stop := d.core % 32 / 4 } ∧
      s2 = killLaunch s1 l.number noteNoProgress ∧
      exec .noProgress s = .next ((s2.lines.filter (fun p => p.2.counted && decide (0 < p.2.count) && p.2.tag == l.number)).foldl
        (fun t x => dropLine t x.1 0) s2) := by
  refine ⟨_, _, rfl, rfl, ?_⟩
  rw [show exec .noProgress s = execNoProgress s from rfl]
  unfold execNoProgress
  rw [hd]
  dsimp -zeta only
  rw [hl]
  dsimp -zeta only
  rw [if_neg (by rw [hstuck]; exact Bool.false_ne_true)]
  extract_lets s1 s2 s3 lines
  exact congrArg Host.Outcome.next List.foldl_map

theorem phaseStart_next {x : RingRec} (hl : mapFind s.launches s.cur.x.id = some l) (hdet : l.det = true) (hbegun : l.begun = true)
    (hx : (s.rings.flatMap (fun r => r.2.recs ++ r.2.delayed)).find? (fun x => x.launch == s.cur.x.id) = some x) (hphase : phaseOf l x.next ≠ l.phase)
    (hdecks : ∀ d ∈ s.decks, d.2.launch ≠ s.cur.x.id) (himages : ∀ m ∈ s.images, ∀ d ∈ m.2.decks, d.1 ∈ m.2.out → d.2.launch ≠ s.cur.x.id) :
    let p := publish s (phaseAgent s.cur.x.id)
    exec .phaseStart s = .next { p.1 with
      ord := { p.1.ord with starts := mapPut p.1.ord.starts s.cur.x.id (addClock (mapGet [] p.1.ord.starts s.cur.x.id) p.2) }
      launches := mapPut s.launches s.cur.x.id { l with phase := phaseOf l x.next, snapshot := memNow s, nets := s.nets } } := by
  intro p
  rw [show exec .phaseStart s = execPhaseStart s from rfl]
  unfold execPhaseStart
  extract_lets id waits
  rw [show mapFind s.launches id = some l from hl]
  dsimp -zeta only
  rw [show waits = some x from hx]
  have hno : s.decks.any (fun d => d.2.launch == id) = false :=
    List.any_eq_false.2 fun d hd => by rw [beq_iff_eq]; exact hdecks d hd
  have hout : s.images.any (fun im => im.2.waiting.any (fun d => d.2.launch == id)) = false :=
    List.any_eq_false.2 fun m hm => by
      rw [Bool.not_eq_true, List.any_eq_false]
      intro d hd
      obtain ⟨hd, hmem⟩ := List.mem_filter.1 hd
      rw [beq_iff_eq]
      exact himages m hm d hd (List.contains_iff_mem.1 hmem)
  refine if_neg ?_
  rw [hdet, hbegun, hno, hout]
  simp [hphase]

end

end Sys2Proof.Machine

namespace Sys2Proof
open Machine

/-- Settles O47: `applyAll` takes the oldest entry of the lowest span that has one, and a quantum end is what it comes to. -/
theorem quanta : Obligations.Quanta := by
  refine ⟨fun s s' k u n sp l x rest d => ⟨deckSpans_rise s k, applyAll_done, fun hf hb => ?entries, fun cells va pa bar unc => applyStore_memory,
    fun cells va b unc => applyStore_scratch, fun i b ld hld _ hlate h hh sp1 hsp => takeBin_delivers hld hlate hh hsp,
    fun addr pa p sd lim st t0 off loc hpend hloc hv => ⟨evalWait_ends hpend hloc hv, evalWait_holds hpend hloc hv⟩⟩,
    fun s k d l x => ⟨fun s1 d1 h happly hd1 hret => ?closes, fun s1 h happly hd1 hne => ?waits, quantumEnd_empty,
      fun hk hd hl hstuck => ?progress, fun hk hl hdet hbegun hx hphase hdecks himages => ?phase⟩⟩
  case entries =>
    intro a
    exact ⟨fun ha => applyAll_next hf hb ha, fun cause ha => applyAll_next hf hb ha, fun ha => applyAll_next hf hb ha⟩
  case closes =>
    have hexec := quantumEnd_applies h
    rw [happly] at hexec
    refine ⟨fun hbusy => ?_, fun hbusy hne => hexec.trans (quantumApplied_busy hd1 hret hbusy hne)⟩
    obtain ⟨d2, hd2⟩ := quantumClosed_deck (l := l) hd1
    exact ⟨_, d2, hexec.trans (quantumApplied_closed hd1 hret hbusy), hd2⟩
  case waits =>
    have hexec := quantumEnd_applies h
    rw [happly] at hexec
    exact hexec.trans (quantumApplied_waits hd1 hne)
  case progress =>
    subst hk
    exact noProgress_stuck hd hl hstuck
  case phase =>
    subst hk
    exact phaseStart_next hl hdet hbegun hx hphase hdecks himages

end Sys2Proof

namespace Sys2Proof.Machine

/-! ### The shadow swap (R203, R204, R209, R291) -/

section
variable {s₀ s t : State} {g : Nat}

theorem ctxOf_putCtx_same (s : State) (g : Nat) (half : Bool) (c : Ctx) : ctxOf (putCtx s g half c) g half = c := by
  rw [ctxOf, putCtx_ctxs, mapGet, mapFind_mapPut_same]
  rfl

theorem active_writeBack (s : State) (g line x : Nat) : (coreOf (writeBack s g line) x).active = (coreOf s x).active := by
  unfold writeBack
  dsimp only
  split
  · rfl
  · next l1 _ =>
    refine (apply_ite (fun t => (coreOf t x).active) _ _ _).trans (ite_eq_left_iff.2 fun _ => ?_)
    rw [coreOf_putCore]
    split
    · next hx =>
      subst hx
      split <;> rfl
    · rfl

theorem active_writeBackOf (s : State) (g u : Nat) (p : Nat → Bool) (x : Nat) : (coreOf (writeBackOf s g u p) x).active = (coreOf s x).active := by
  unfold writeBackOf
  refine rest_foldl (fun t => (coreOf t x).active) _ (fun t y => ?_) _ s
  exact active_writeBack t g y.line x

theorem RosterKept.writeBackOf {u : Nat} {p : Nat → Bool} (h : RosterKept s₀ s) : RosterKept s₀ (writeBackOf s g u p) := by
  unfold Machine.writeBackOf
  exact h.foldl fun _ _ ht => ht.writeBack

theorem nodup_ctxSpans (hk : keysRise s.spans = true) (g : Nat) (half : Bool) : ((ctxSpans s g half).map Prod.fst).Nodup := by
  have h := (keysRise_iff _).1 (keysRise_filter (fun p : Nat × Span => p.2.core == g && p.2.half == half) hk)
  exact List.pairwise_map.2 (h.imp fun hlt => Nat.ne_of_lt hlt)

/-- The `mma` on the array of a context stops, its blocks added; everything else of the context stays. -/
theorem ctxOf_stopMma (s : State) (g : Nat) (half : Bool) (b : Nat) :
    (∀ e, ((ctxOf s g half).queues.flatMap Prod.snd).find? (fun e => e.kind == .mma && e.started && !e.done) = some e →
      (ctxOf (stopMma s g half b) g half).accs = (mmaApply (ctxOf s g half) e e.progress (max e.progress (min b (mmaBlocks e)))).accs ∧
      (ctxOf (stopMma s g half b) g half).queues = (ctxOf s g half).queues.map (fun q => (q.1, q.2.map (fun y =>
        if y.seq = e.seq ∧ y.kind = .mma then { y with progress := max e.progress (min b (mmaBlocks e)) } else y)))) ∧
    (((ctxOf s g half).queues.flatMap Prod.snd).find? (fun e => e.kind == .mma && e.started && !e.done) = none →
      ctxOf (stopMma s g half b) g half = ctxOf s g half) := by
  unfold stopMma
  refine ⟨fun e he => ?_, fun hnone => ?_⟩
  · extract_lets c
    rw [show (c.queues.flatMap Prod.snd).find? (fun e => e.kind == .mma && e.started && !e.done) = some e from he]
    dsimp -zeta only
    rw [ctxOf_putCtx_same]
    exact ⟨rfl, rfl⟩
  · extract_lets c
    rw [show (c.queues.flatMap Prod.snd).find? (fun e => e.kind == .mma && e.started && !e.done) = none from hnone]

theorem cores_stopMma (s : State) (g : Nat) (half : Bool) (b : Nat) : (stopMma s g half b).cores = s.cores := by
  unfold stopMma
  dsimp only
  split <;> rfl

theorem RosterKept.stopMma {half : Bool} {b : Nat} (h : RosterKept s₀ s) : RosterKept s₀ (stopMma s g half b) := by
  unfold Machine.stopMma
  dsimp only
  split
  · exact h
  · exact h

/-- The spans of a context stop, and the dirty bytes that they wrote go back. -/
def stopSpans (s : State) (g : Nat) (half : Bool) : State :=
  (ctxSpans s g half).foldl (fun t p => writeBackOf (putSpan t p.1 { pauseWait s p.2 with ahead := [] }) g p.1 (fun _ => true)) s

theorem spanOf_stopSpans (hk : keysRise s.spans = true) (half : Bool) {p : Nat × Span} (hp : p ∈ ctxSpans s g half) :
    spanOf (stopSpans s g half) p.1 = some { pauseWait s p.2 with ahead := [] } := by
  have hspans : (stopSpans s g half).spans =
      (ctxSpans s g half).foldl (fun m p => mapPut m p.1 { pauseWait s p.2 with ahead := [] }) s.spans :=
    (List.foldl_hom State.spans fun t p => (RosterKept.refl (putSpan t p.1 _)).writeBackOf.spans.symm).symm
  rw [spanOf, hspans]
  exact mapFind_foldl_mapPut (ctxSpans s g half) Prod.fst (fun p => { pauseWait s p.2 with ahead := [] }) _ (nodup_ctxSpans hk g half) hp

theorem ctxs_stopSpans (s : State) (g : Nat) (half : Bool) : (stopSpans s g half).ctxs = s.ctxs := by
  unfold stopSpans
  refine rest_foldl State.ctxs _ (fun t p => ?_) _ s
  exact ctxs_writeBackOf ..

theorem active_stopSpans (s : State) (g : Nat) (half : Bool) (x : Nat) : (coreOf (stopSpans s g half) x).active = (coreOf s x).active := by
  unfold stopSpans
  refine rest_foldl (fun t => (coreOf t x).active) _ (fun t p => ?_) _ s
  exact active_writeBackOf ..

theorem cycle_stopSpans (s : State) (g : Nat) (half : Bool) : (stopSpans s g half).cycle = s.cycle := by
  unfold stopSpans
  refine rest_foldl State.cycle _ (fun t p => ?_) _ s
  exact (RosterKept.refl (putSpan t p.1 _)).writeBackOf.cycle

theorem pauseWait_of_cycle (h : t.cycle = s.cycle) (sp : Span) : pauseWait t sp = pauseWait s sp := by
  unfold pauseWait
  rw [h]

theorem shadowSwap_begins (hcore : s.cur.x.core = g) (hk : keysRise s.spans = true) (hg : g < 512) (hclk : clocked s = true)
    (hgood : (coreOf s g).failed = false) (hswap : (coreOf s g).swap = none) (hready : shadowReady s g = true)
    (hasked : s.cur.x.c = 1 ∨ (swapAsked s g).isSome = true ∨ backAsked s g = true) :
    let c := coreOf s g
    let x := ctxOf s g c.active
    ∃ t, exec .shadowSwap s = .next t ∧ (coreOf t g).swap = some s.cycle ∧ (coreOf t g).spill = none ∧ (coreOf t g).active = c.active ∧
      (coreOf t g).swapFor = swapAsked s g ∧
      (∀ p ∈ ctxSpans s g c.active, spanOf t p.1 = some { pauseWait s p.2 with ahead := [] }) ∧
      (∀ e, (x.queues.flatMap Prod.snd).find? (fun e => e.kind == .mma && e.started && !e.done) = some e →
        let b := max e.progress (min s.cur.x.b (mmaBlocks e))
        (ctxOf t g c.active).accs = (mmaApply x e e.progress b).accs ∧
        (ctxOf t g c.active).queues = x.queues.map (fun q => (q.1, q.2.map (fun y => if y.seq = e.seq ∧ y.kind = .mma then { y with progress := b } else y)))) ∧
      ((x.queues.flatMap Prod.snd).find? (fun e => e.kind == .mma && e.started && !e.done) = none → ctxOf t g c.active = x) := by
  intro c x
  have hgo : exec .shadowSwap s = .next (beginSwap s g s.cur.x.b (swapAsked s g)) := by
    subst hcore
    refine if_neg ?_
    rw [hclk, hgood, hswap, hready]
    have hask : (s.cur.x.c == 1 || (swapAsked s s.cur.x.core).isSome || backAsked s s.cur.x.core) = true := by
      simpa [or_assoc] using hasked
    rw [hask]
    simp [hg]
  have h1 : RosterKept s (stopMma s g c.active s.cur.x.b) := (RosterKept.refl s).stopMma
  have hcores1 : coreOf (stopMma s g c.active s.cur.x.b) g = c := by rw [coreOf, cores_stopMma]; rfl
  obtain ⟨hmma, hno⟩ := ctxOf_stopMma s g c.active s.cur.x.b
  refine ⟨_, hgo, ?_⟩
  unfold beginSwap
  extract_lets s1 s2
  have h2 : s2 = stopSpans s1 g c.active := rfl
  have hctx : (ctxOf s2 g c.active) = ctxOf s1 g c.active := by rw [h2, ctxOf, ctxs_stopSpans]; rfl
  have hact : (coreOf s2 g).active = c.active := by rw [h2, active_stopSpans]; exact congrArg Core.active hcores1
  have hsp : ∀ p ∈ ctxSpans s g c.active, spanOf s2 p.1 = some { pauseWait s p.2 with ahead := [] } := fun p hp => by
    rw [h2, ← pauseWait_of_cycle h1.cycle]
    exact spanOf_stopSpans (s := s1) (by rw [h1.spans]; exact hk) c.active (by rw [ctxSpans, h1.spans]; exact hp)
  have hcycle : s2.cycle = s.cycle := by rw [h2, cycle_stopSpans]; exact h1.cycle
  clear_value s2
  have hlast : ∀ c', coreOf (recSwap (putCore s2 g c') g 1) g = c' := fun c' => (coreOf_putCore s2 g c' g).trans (if_pos rfl)
  rw [hlast]
  refine ⟨congrArg some hcycle, rfl, hact, rfl, hsp, fun e he => ?_, fun hnone => hctx.trans (hno hnone)⟩
  exact ⟨(congrArg Ctx.accs hctx).trans (hmma e he).1, (congrArg Ctx.queues hctx).trans (hmma e he).2⟩

end

end Sys2Proof.Machine

namespace Sys2Proof.Machine

/-! ### The end of a swap (R156, R203, R205, R209) -/

section
variable {s t : State} {g : Nat}

theorem SameStand.core {a b : Span} (h : SameStand a b) : b.core = a.core := by rw [h]

theorem SameStand.half {a b : Span} (h : SameStand a b) : b.half = a.half := by rw [h]

/-- Of the spans that a table's own entries replace, each stands where one stood. -/
theorem sameStand_back (hs : keysRise s.spans = true) (f : Span → Span) (hf : ∀ a, SameStand a (f a)) (p : Nat × Span → Bool) {u : Nat}
    {sp' : Span} (hu : spanOf ((s.spans.filter p).foldl (fun t x => putSpan t x.1 (f x.2)) s) u = some sp') :
    ∃ sp, spanOf s u = some sp ∧ SameStand sp sp' := by
  cases h : spanOf s u with
  | some sp =>
    obtain ⟨sp1, hsp1, hst⟩ := sameStand_foldl hs f hf p h
    cases hsp1.symm.trans hu
    exact ⟨sp, rfl, hst⟩
  | none =>
    refine absurd ?_ (Option.some_ne_none sp')
    rw [← hu, spanOf, spans_foldl_putSpan, mapFind_foldl_mapPut_other]
    · exact h
    · intro x hx he
      have := mapFind_of_mem hs (List.mem_of_mem_filter hx)
      rw [he] at this
      cases h.symm.trans this

theorem mem_ctxSpans {p : Nat × Span} {half : Bool} : p ∈ ctxSpans s g half ↔ p ∈ s.spans ∧ p.2.core = g ∧ p.2.half = half := by
  simp [ctxSpans]

theorem ctxEmpty_iff {half : Bool} : ctxEmpty s g half = true ↔ ctxDecks s g half = [] ∧ ctxSpans s g half = [] := by
  simp [ctxEmpty, ctxSpans, List.filter_eq_nil_iff]

/-- An empty context stays empty where decks and contexts stay and every span stands where one stood. -/
theorem ctxEmpty_of_stand {half : Bool} (hk : keysRise t.spans = true) (hd : t.decks = s.decks) (hc : t.ctxs = s.ctxs)
    (hs : ∀ u sp', spanOf t u = some sp' → ∃ sp, spanOf s u = some sp ∧ sp'.core = sp.core ∧ sp'.half = sp.half)
    (h : ctxEmpty s g half = true) : ctxEmpty t g half = true := by
  obtain ⟨hdecks, hspans⟩ := ctxEmpty_iff.1 h
  refine ctxEmpty_iff.2 ⟨by rw [ctxDecks, ctxOf, hd, hc]; exact hdecks, List.eq_nil_iff_forall_not_mem.2 fun p hp => ?_⟩
  obtain ⟨hp, hcore, hhalf⟩ := mem_ctxSpans.1 hp
  obtain ⟨sp, hsp, hc', hh'⟩ := hs p.1 p.2 (mapFind_of_mem hk hp)
  have : (p.1, sp) ∈ ctxSpans s g half := mem_ctxSpans.2 ⟨mem_of_mapFind hsp, hc' ▸ hcore, hh' ▸ hhalf⟩
  rw [hspans] at this
  cases this

theorem ctxKey_inj {a b : Bool} (h : ctxKey g a = ctxKey g b) : a = b := by
  cases a <;> cases b <;> simp [ctxKey] at h ⊢

theorem ctxOf_freshCtx_other {a b : Bool} (h : b ≠ a) : ctxOf (freshCtx s g a) g b = ctxOf s g b := by
  unfold freshCtx
  split
  · exact congrArg (·.getD Ctx.init) (mapFind_mapDel_other _ fun he => h (ctxKey_inj he))
  · rfl

theorem ctxOf_freshCtx_same {a : Bool} (h : ctxEmpty s g a = true) : ctxOf (freshCtx s g a) g a = Ctx.init := by
  rw [freshCtx, if_pos h]
  exact congrArg (·.getD Ctx.init) (mapFind_mapDel_same _ _)

theorem freshCtx_rest (s : State) (g : Nat) (a : Bool) : (freshCtx s g a).spans = s.spans ∧ (freshCtx s g a).decks = s.decks ∧
    (freshCtx s g a).cores = s.cores := by
  unfold freshCtx
  split <;> exact ⟨rfl, rfl, rfl⟩

theorem ctxEmpty_freshCtx_other {a b : Bool} (h : b ≠ a) : ctxEmpty (freshCtx s g a) g b = ctxEmpty s g b := by
  obtain ⟨hs, hd, -⟩ := freshCtx_rest s g a
  rw [ctxEmpty, ctxEmpty, ctxDecks, ctxDecks, ctxOf_freshCtx_other h, hs, hd]

theorem ctxOf_freshCtxs {h : Bool} (a : Bool) (he : ctxEmpty s g h = true) : ctxOf (freshCtx (freshCtx s g a) g (!a)) g h = Ctx.init := by
  by_cases hh : h = a
  · subst hh
    rw [ctxOf_freshCtx_other (Bool.not_ne_self h).symm, ctxOf_freshCtx_same he]
  · obtain rfl : h = !a := by cases h <;> cases a <;> simp at hh ⊢
    exact ctxOf_freshCtx_same (by rw [ctxEmpty_freshCtx_other (Bool.not_ne_self a)]; exact he)

/-- The waits of a context that comes in count again. -/
def resumeSpans (s : State) (g : Nat) (half : Bool) : State :=
  (ctxSpans s g half).foldl (fun t p => putSpan t p.1 (resumeWait s p.2)) s

theorem resumeSpans_rest (s : State) (g : Nat) (half : Bool) : ∃ x, resumeSpans s g half = { s with spans := x } :=
  List.foldlRecOn (motive := fun t : State => ∃ x, t = { s with spans := x }) _ _ ⟨_, rfl⟩ fun t ht p _ => by
    obtain ⟨x, rfl⟩ := ht
    exact ⟨_, rfl⟩

theorem ageIn_rest (s : State) (g : Nat) (half : Bool) :
    ∃ x n, ageIn s g half = putCore { s with spans := x } g { coreOf s g with ageNext := n } := by
  unfold ageIn
  extract_lets n l s1
  have h1 : ∃ x, s1 = { s with spans := x } :=
    List.foldlRecOn (motive := fun t : State => ∃ x, t = { s with spans := x }) _ _ ⟨_, rfl⟩ fun t ht p _ => by
      obtain ⟨x, rfl⟩ := ht
      exact ⟨_, rfl⟩
  obtain ⟨x, hx⟩ := h1
  clear_value s1
  subst hx
  exact ⟨x, _, rfl⟩

/-- The core once its swap has ended: the other context is active, and the outgoing one is to be spilled. -/
def swappedCore (s : State) (g : Nat) : Core :=
  { coreOf s g with
    swap := none, active := !(coreOf s g).active, preload := none,
    spill := if ctxEmpty s g (coreOf s g).active then none else some (0, 0, false) }

/-- The spans that come in have waits that count again, and are younger than those before them. -/
theorem spanOf_ageIn_resumeSpans (hk : keysRise s.spans = true) (half : Bool) {p : Nat × Span} (hp : p ∈ ctxSpans s g half) :
    spanOf (ageIn (resumeSpans s g half) g half) p.1 = some { resumeWait s p.2 with age := p.2.age + (coreOf s g).ageNext } := by
  obtain ⟨x, hx⟩ := resumeSpans_rest s g half
  have hcore : coreOf (resumeSpans s g half) g = coreOf s g := by rw [hx]; rfl
  have hspans : (resumeSpans s g half).spans = (ctxSpans s g half).foldl (fun m p => mapPut m p.1 (resumeWait s p.2)) s.spans :=
    spans_foldl_putSpan (ctxSpans s g half) Prod.fst (fun p => resumeWait s p.2) s
  have hk1 : keysRise (resumeSpans s g half).spans = true := by
    rw [hspans]
    exact keysRise_foldl_mapPut (ctxSpans s g half) Prod.fst (fun p => resumeWait s p.2) hk
  have h1 : mapFind (resumeSpans s g half).spans p.1 = some (resumeWait s p.2) := by
    rw [hspans]
    exact mapFind_foldl_mapPut (ctxSpans s g half) Prod.fst (fun p => resumeWait s p.2) _ (nodup_ctxSpans hk g half) hp
  have hst := sameStand_resumeWait s p.2
  have hmem : (p.1, resumeWait s p.2) ∈ ctxSpans (resumeSpans s g half) g half := by
    obtain ⟨-, hc, hh⟩ := mem_ctxSpans.1 hp
    exact mem_ctxSpans.2 ⟨mem_of_mapFind h1, hst.core.trans hc, hst.half.trans hh⟩
  have hage : (resumeWait s p.2).age = p.2.age := by
    unfold resumeWait
    split <;> rfl
  have h2 := mapFind_foldl_mapPut (ctxSpans (resumeSpans s g half) g half) Prod.fst
    (fun p => { p.2 with age := p.2.age + (coreOf (resumeSpans s g half) g).ageNext }) (resumeSpans s g half).spans (nodup_ctxSpans hk1 g half) hmem
  rw [hcore, hage] at h2
  refine Eq.trans ?_ h2
  rw [← spans_foldl_putSpan, ← hcore]
  rfl

theorem stand_ageIn_resumeSpans (hk : keysRise s.spans = true) (half : Bool) :
    keysRise (ageIn (resumeSpans s g half) g half).spans = true ∧
    ∀ u sp', spanOf (ageIn (resumeSpans s g half) g half) u = some sp' → ∃ sp, spanOf s u = some sp ∧ sp'.core = sp.core ∧ sp'.half = sp.half := by
  have hk1 : keysRise (resumeSpans s g half).spans = true := by
    have := keysRise_foldl_mapPut (ctxSpans s g half) Prod.fst (fun p => resumeWait s p.2) hk
    rwa [← spans_foldl_putSpan] at this
  have hk2 := keysRise_foldl_mapPut (ctxSpans (resumeSpans s g half) g half) Prod.fst
    (fun p => { p.2 with age := p.2.age + (coreOf (resumeSpans s g half) g).ageNext }) hk1
  rw [← spans_foldl_putSpan] at hk2
  refine ⟨hk2, fun u sp' hu => ?_⟩
  obtain ⟨sp1, hsp1, h1⟩ := sameStand_back hk1 (fun a => { a with age := a.age + (coreOf (resumeSpans s g half) g).ageNext }) (fun a => rfl)
    (fun p => p.2.core == g && p.2.half == half) hu
  obtain ⟨sp, hsp, h2⟩ := sameStand_back hk (resumeWait s) (sameStand_resumeWait s) (fun p => p.2.core == g && p.2.half == half) hsp1
  exact ⟨sp, hsp, h1.core.trans h2.core, h1.half.trans h2.half⟩

theorem swapComplete_ends (hcore : s.cur.x.core = g) (hk : keysRise s.spans = true) {t0 : Nat} (hswap : (coreOf s g).swap = some t0)
    (hdue : t0 + 96 ≤ s.cycle) :
    let c := coreOf s g
    ∃ t, exec .swapComplete s = .next t ∧ (coreOf t g).swap = none ∧ (coreOf t g).active = !c.active ∧ (coreOf t g).preload = none ∧
      (coreOf t g).spill = (if ctxEmpty s g c.active then none else some (0, 0, false)) ∧
      (∀ p ∈ ctxSpans s g (!c.active), spanOf t p.1 = some { resumeWait s p.2 with age := p.2.age + c.ageNext }) ∧
      (∀ h, ctxEmpty s g h = true → ctxOf t g h = Ctx.init) := by
  intro c
  have hgo : exec .swapComplete s = .next (recSwap (freshCtx (freshCtx (ageIn (resumeSpans (putCore s g (swappedCore s g)) g (!c.active)) g (!c.active)) g c.active) g (!c.active)) g 2) := by
    subst hcore
    rw [show exec .swapComplete s = execSwapComplete s from rfl]
    unfold execSwapComplete
    extract_lets g1 c1
    rw [show c1.swap = some t0 from hswap]
    exact if_neg (Nat.not_lt.2 hdue)
  generalize hc' : swappedCore s g = c' at hgo
  obtain ⟨hk3, hstand⟩ := stand_ageIn_resumeSpans (s := putCore s g c') (g := g) hk (!c.active)
  have hspans := fun p => spanOf_ageIn_resumeSpans (s := putCore s g c') (g := g) hk (!c.active) (p := p)
  obtain ⟨x1, hx1⟩ := resumeSpans_rest (putCore s g c') g (!c.active)
  obtain ⟨x2, n, hx2⟩ := ageIn_rest (resumeSpans (putCore s g c') g (!c.active)) g (!c.active)
  have hcore1 : coreOf (putCore s g c') g = c' := (coreOf_putCore s g c' g).trans (if_pos rfl)
  have hcore3 : coreOf (ageIn (resumeSpans (putCore s g c') g (!c.active)) g (!c.active)) g = { c' with ageNext := n } := by
    rw [hx2, coreOf_putCore, if_pos rfl, hx1]
    exact congrArg (fun c : Core => { c with ageNext := n }) hcore1
  have hempty : ∀ h, ctxEmpty s g h = true → ctxEmpty (ageIn (resumeSpans (putCore s g c') g (!c.active)) g (!c.active)) g h = true :=
    fun h he => ctxEmpty_of_stand hk3 (by rw [hx2, hx1]; rfl) (by rw [hx2, hx1]; rfl) hstand he
  generalize ageIn (resumeSpans (putCore s g c') g (!c.active)) g (!c.active) = s3 at *
  obtain ⟨hs4, -, hcores4⟩ := freshCtx_rest s3 g c.active
  obtain ⟨hs5, -, hcores5⟩ := freshCtx_rest (freshCtx s3 g c.active) g (!c.active)
  have hcore : coreOf (recSwap (freshCtx (freshCtx s3 g c.active) g (!c.active)) g 2) g = { c' with ageNext := n } :=
    (congrArg (fun m => mapGet Core.init m g) (hcores5.trans hcores4)).trans hcore3
  refine ⟨_, hgo, ?_, ?_, ?_, ?_, fun p hp => ?_, fun h he => ctxOf_freshCtxs c.active (hempty h he)⟩
  · rw [hcore, ← hc']
    rfl
  · rw [hcore, ← hc']
    rfl
  · rw [hcore, ← hc']
    rfl
  · rw [hcore, ← hc']
    rfl
  · refine (congrArg (mapFind · p.1) (hs5.trans hs4)).trans ((hspans p hp).trans ?_)
    rw [hcore1, ← hc']
    rfl

end

end Sys2Proof.Machine

namespace Sys2Proof.Machine

/-! ### Bytes and lines -/

theorem bytesToNat_lt (l : List Byte) : bytesToNat l < 2 ^ (8 * l.length) := by
  induction l with
  | nil => exact Nat.one_pos
  | cons b r ih =>
    have hb := b.isLt
    have hpow : 2 ^ (8 * (b :: r).length) = 256 * 2 ^ (8 * r.length) := by
      rw [List.length_cons, Nat.mul_add, Nat.pow_add, Nat.mul_comm]
    rw [bytesToNat, hpow]
    omega

theorem bytesToNat_byte (l : List Byte) (i : Nat) : bytesToNat l >>> (8 * i) % 2 ^ 8 = (l.getD i 0).toNat := by
  induction l generalizing i with
  | nil => simp [bytesToNat]
  | cons b r ih =>
    have hb := b.isLt
    cases i with
    | zero =>
      rw [bytesToNat, Nat.mul_zero, Nat.shiftRight_zero, List.getD_cons_zero]
      omega
    | succ i =>
      have hshift : (b.toNat + 256 * bytesToNat r) >>> 8 = bytesToNat r := by
        rw [Nat.shiftRight_eq_div_pow]
        omega
      rw [bytesToNat, show 8 * (i + 1) = 8 + 8 * i by omega, Nat.shiftRight_add, hshift, ih, List.getD_cons_succ]

theorem toNat_ofNat_bytesToNat {w : Nat} (l : List Byte) (h : 8 * l.length = w) : (BitVec.ofNat w (bytesToNat l)).toNat = bytesToNat l := by
  rw [BitVec.toNat_ofNat, Nat.mod_eq_of_lt (h ▸ bytesToNat_lt l)]

theorem lineByte_memLine (s : State) (line : Nat) {i : Nat} (hi : i < 128) : lineByte (memLine s line) i = memByte s (128 * line + i) := by
  have hline : (memLine s line).toNat = bytesToNat ((List.range 128).map fun i => memByte s (128 * line + i)) :=
    toNat_ofNat_bytesToNat _ (by rw [List.length_map, List.length_range])
  apply BitVec.eq_of_toNat_eq
  rw [lineByte, BitVec.extractLsb'_toNat, hline, bytesToNat_byte, List.getD_eq_getElem?_getD,
    List.getElem?_map, List.getElem?_range hi]
  rfl

/-! ### The image of a spill in memory (R205, R207) -/

/-- Keys that rise along a list. -/
def Rising (l : List Host.Cell) : Prop := l.Pairwise (fun x y => x.1 < y.1)

theorem risingCells_eq_filter (lo hi : Nat) {l : List Host.Cell} (h : Rising l) (hnz : ∀ c ∈ l, c.2 ≠ 0) :
    risingCells lo hi l = l.filter (fun c => decide (lo ≤ c.1) && decide (c.1 < hi)) := by
  induction l generalizing lo with
  | nil => rfl
  | cons c r ih =>
    obtain ⟨hc, hr⟩ := List.pairwise_cons.1 h
    have hnz' := fun x hx => hnz x (List.mem_cons_of_mem _ hx)
    unfold risingCells
    by_cases hin : lo ≤ c.1 ∧ c.1 < hi
    · have hout : ¬(c.1 < lo ∨ hi ≤ c.1 ∨ c.2 = 0) := by
        rintro (h | h | h)
        · exact absurd hin.1 (Nat.not_le.2 h)
        · exact absurd hin.2 (Nat.not_lt.2 h)
        · exact hnz c List.mem_cons_self h
      rw [if_neg hout, ih _ hr hnz', List.filter_cons_of_pos (by simpa using hin)]
      refine congrArg (c :: ·) (List.filter_congr fun x hx => ?_)
      have := hc x hx
      rw [decide_eq_true (show c.1 + 1 ≤ x.1 by omega), decide_eq_true (show lo ≤ x.1 by omega)]
    · rw [if_pos (by omega), ih _ hr hnz', List.filter_cons_of_neg (by simpa using hin)]

/-- The bytes of a section that are not zero, at their places; `n` is the place of the first. -/
def sectionCells (n : Nat) (l : List Byte) : List Host.Cell :=
  l.zipIdx.filterMap (fun b => if b.1 = 0 then none else some (n + b.2, b.1))

theorem mem_sectionCells {n : Nat} {l : List Byte} {c : Host.Cell} :
    c ∈ sectionCells n l ↔ ∃ j, l[j]? = some c.2 ∧ c.2 ≠ 0 ∧ c.1 = n + j := by
  unfold sectionCells
  rw [List.mem_filterMap]
  constructor
  · rintro ⟨⟨v, j⟩, hb, hc⟩
    split at hc
    · cases hc
    · next hne =>
      cases hc
      exact ⟨j, List.mem_zipIdx_iff_getElem?.1 hb, hne, rfl⟩
  · rintro ⟨j, hj, hne, hc⟩
    exact ⟨(c.2, j), List.mem_zipIdx_iff_getElem?.2 hj, (if_neg hne).trans (by rw [← hc])⟩

theorem sectionCells_bounds {n : Nat} {l : List Byte} {c : Host.Cell} (h : c ∈ sectionCells n l) : n ≤ c.1 ∧ c.1 < n + l.length := by
  obtain ⟨j, hj, -, hc⟩ := mem_sectionCells.1 h
  have := (List.getElem?_eq_some_iff.1 hj).1
  omega

theorem rising_sectionCells (n : Nat) (l : List Byte) : Rising (sectionCells n l) := by
  refine List.pairwise_filterMap.2 ?_
  have hidx : l.zipIdx.Pairwise (fun x y => x.2 < y.2) := by
    have h := List.pairwise_lt_range' (s := 0) (n := l.length)
    rw [← List.zipIdx_map_snd 0 l] at h
    exact List.pairwise_map.1 h
  refine hidx.imp fun {x y} hxy c hc d hd => ?_
  split at hc
  · cases hc
  · split at hd
    · cases hd
    · cases hc
      cases hd
      exact Nat.add_lt_add_left hxy n

section
variable {secs : List (Nat × List Byte)}

/-- The cells of an image at `a`, section by section. -/
def imageCells (a : Nat) (secs : List (Nat × List Byte)) : List Host.Cell := secs.flatMap (fun x => sectionCells (a + x.1) x.2)

theorem rising_imageCells (a : Nat) (h : secs.Pairwise (fun x y => x.1 + x.2.length ≤ y.1)) : Rising (imageCells a secs) := by
  refine List.pairwise_flatMap.2 ⟨fun x _ => rising_sectionCells _ _, h.imp fun {x y} hxy c hc d hd => ?_⟩
  have hcb := sectionCells_bounds hc
  have hdb := sectionCells_bounds hd
  omega

theorem imageByte_of_mem (h : secs.Pairwise (fun x y => x.1 + x.2.length ≤ y.1)) {x : Nat × List Byte} (hx : x ∈ secs) {off : Nat}
    (hlo : x.1 ≤ off) (hhi : off < x.1 + x.2.length) : imageByte secs off = x.2.getD (off - x.1) 0 := by
  have hfind : secs.find? (fun x => decide (x.1 ≤ off) && decide (off < x.1 + x.2.length)) = some x := by
    induction secs with
    | nil => cases hx
    | cons y ys ih =>
      obtain ⟨hy, hys⟩ := List.pairwise_cons.1 h
      obtain rfl | hx := List.mem_cons.1 hx
      · exact List.find?_cons_of_pos (by simp [hlo, hhi])
      · have := hy x hx
        rw [List.find?_cons_of_neg (by simp; omega)]
        exact ih hys hx
  rw [imageByte, hfind]

theorem mapGet_imageCells (a : Nat) (h : secs.Pairwise (fun x y => x.1 + x.2.length ≤ y.1)) (off : Nat) :
    mapGet 0 (imageCells a secs) (a + off) = imageByte secs off := by
  have hrise : keysRise (imageCells a secs) = true := (keysRise_iff _).2 (rising_imageCells a h)
  cases hf : mapFind (imageCells a secs) (a + off) with
  | some v =>
    rw [mapGet, hf]
    obtain ⟨x, hx, hc⟩ := List.mem_flatMap.1 (mem_of_mapFind hf)
    obtain ⟨j, hj, -, hoff⟩ := mem_sectionCells.1 hc
    have hlt := (List.getElem?_eq_some_iff.1 hj).1
    have hoff : off = x.1 + j := by
      dsimp only at hoff
      omega
    subst hoff
    rw [imageByte_of_mem h hx (Nat.le_add_right ..) (Nat.add_lt_add_left hlt _), Nat.add_sub_cancel_left, List.getD_eq_getElem?_getD, hj]
  | none =>
    rw [mapGet, hf]
    unfold imageByte
    split
    · next x hfind =>
      by_contra hne
      have hx := List.mem_of_find?_eq_some hfind
      have hin := List.find?_some hfind
      simp only [Bool.and_eq_true, decide_eq_true_eq] at hin
      have hj : x.2[off - x.1]? = some (x.2.getD (off - x.1) 0) := by
        rw [List.getD_eq_getElem?_getD, List.getElem?_eq_getElem (by omega)]
        rfl
      have hmem : (a + off, x.2.getD (off - x.1) 0) ∈ imageCells a secs :=
        List.mem_flatMap.2 ⟨x, hx, mem_sectionCells.2 ⟨_, hj, fun h0 => hne h0.symm, by dsimp only; omega⟩⟩
      cases hf.symm.trans (mapFind_of_mem hrise hmem)
    · rfl

/-- Memory with the lines of an image written: in their range what the sections give, elsewhere what it held. -/
theorem mapGet_spliceMem (m : List Host.Cell) (a lo hi : Nat) (h : secs.Pairwise (fun x y => x.1 + x.2.length ≤ y.1)) (q : Nat) :
    mapGet 0 (spliceMem m a lo hi secs) q =
      if a + 128 * lo ≤ q ∧ q < a + 128 * hi then imageByte secs (q - a) else mapGet 0 m q := by
  have hcells : ∀ c ∈ imageCells a secs, c.2 ≠ 0 := fun c hc => by
    obtain ⟨x, -, hc⟩ := List.mem_flatMap.1 hc
    obtain ⟨-, -, hne, -⟩ := mem_sectionCells.1 hc
    exact hne
  have hnew := risingCells_eq_filter (a + 128 * lo) (max (a + 128 * lo) (a + 128 * hi)) (rising_imageCells a h) hcells
  have hfind : mapFind (risingCells (a + 128 * lo) (max (a + 128 * lo) (a + 128 * hi)) (imageCells a secs)) q =
      if a + 128 * lo ≤ q ∧ q < max (a + 128 * lo) (a + 128 * hi) then mapFind (imageCells a secs) q else none := by
    rw [hnew, mapFind_filter_key (imageCells a secs) (fun j => decide (a + 128 * lo ≤ j) && decide (j < max (a + 128 * lo) (a + 128 * hi)))]
    simp only [Bool.and_eq_true, decide_eq_true_eq]
  have hsplice := mapFind_spliced m (risingCells (a + 128 * lo) (max (a + 128 * lo) (a + 128 * hi)) (imageCells a secs))
    (lo := a + 128 * lo) (hi := max (a + 128 * lo) (a + 128 * hi)) (Nat.le_max_left ..) q fun hout => by rw [hfind, if_neg hout]
  have hall : mapGet 0 (spliceMem m a lo hi secs) q = (if a + 128 * lo ≤ q ∧ q < max (a + 128 * lo) (a + 128 * hi) then
      mapFind (imageCells a secs) q else mapFind m q).getD 0 := by
    refine congrArg (·.getD 0) (hsplice.trans ?_)
    rw [hfind]
    split <;> rfl
  rw [hall]
  by_cases hin : a + 128 * lo ≤ q ∧ q < a + 128 * hi
  · rw [if_pos hin, if_pos (by omega)]
    have := mapGet_imageCells a h (q - a)
    rwa [show a + (q - a) = q by omega] at this
  · rw [if_neg hin, if_neg (by omega)]
    rfl

end

end Sys2Proof.Machine

namespace Sys2Proof.Machine

/-! ### What a spill writes (R205, R207) -/

theorem mapFind_map_entries {α β : Type} (m : SMap α) (f : Nat × α → Nat × β) (v : Nat → α → β) (hf : ∀ p, f p = (p.1, v p.1 p.2)) (i : Nat) :
    mapFind (m.map f) i = (mapFind m i).map (v i) := by
  induction m with
  | nil => rfl
  | cons p m ih =>
    rw [List.map_cons, hf, mapFind, mapFind]
    split
    · next h => rw [h]; rfl
    · exact ih

section
variable {s₀ s t : State} {g : Nat} {half : Bool}

/-- A home line after a write of its lines past the ways: what a way held of it is what memory has. -/
def lineSpilled (t : State) (lo hi n : Nat) (h : HomeLine) : HomeLine :=
  if lo ≤ n ∧ n < hi then { h with data := h.data.map (fun _ => memLine t n), below := none, poison := false, latent := false } else h

theorem data_homeOf_writeImage (a lo hi i : Nat) : (homeOf (writeImage s g half a lo hi) i).data =
    if a / 128 + lo ≤ i ∧ i < a / 128 + hi then (homeOf s i).data.map (fun _ => memLine (writeImage s g half a lo hi) i)
    else (homeOf s i).data := by
  have hfind : mapFind (writeImage s g half a lo hi).lines i =
      (mapFind s.lines i).map (lineSpilled (writeImage s g half a lo hi) (a / 128 + lo) (a / 128 + hi) i) := by
    refine mapFind_map_entries s.lines _ (lineSpilled (writeImage s g half a lo hi) (a / 128 + lo) (a / 128 + hi)) (fun p => ?_) i
    unfold lineSpilled
    split <;> rfl
  unfold homeOf mapGet
  rw [hfind]
  cases mapFind s.lines i with
  | none => exact (ite_self _).symm
  | some h =>
    show (lineSpilled _ _ _ i h).data = _
    unfold lineSpilled
    split <;> rfl

/-- The bytes of memory after the lines of an image have been written. -/
theorem homeByte_writeImage {a lo hi : Nat} (ha : a % 128 = 0)
    (h : (imageSections s g half).Pairwise (fun x y => x.1 + x.2.length ≤ y.1)) (q : Nat) :
    homeByte (writeImage s g half a lo hi) q =
      if a + 128 * lo ≤ q ∧ q < a + 128 * hi then imageByte (imageSections s g half) (q - a) else homeByte s q := by
  have hmem : memByte (writeImage s g half a lo hi) q =
      if a + 128 * lo ≤ q ∧ q < a + 128 * hi then imageByte (imageSections s g half) (q - a) else memByte s q :=
    mapGet_spliceMem s.mem a lo hi h q
  have hq : 128 * (q / 128) + q % 128 = q := Nat.div_add_mod q 128
  have hdata := data_homeOf_writeImage (s := s) (g := g) (half := half) a lo hi (q / 128)
  by_cases hin : a + 128 * lo ≤ q ∧ q < a + 128 * hi
  · rw [if_pos (by omega)] at hdata
    rw [if_pos hin] at hmem ⊢
    unfold homeByte
    rw [hdata]
    cases (homeOf s (q / 128)).data with
    | none => exact hmem
    | some d =>
      refine (lineByte_memLine _ _ (Nat.mod_lt _ (by decide))).trans ?_
      rw [hq]
      exact hmem
  · rw [if_neg (by omega)] at hdata
    rw [if_neg hin] at hmem ⊢
    exact homeByte_of hdata hmem

/-! ### What a spilled context leaves (R158, R204 to R206) -/

theorem ctxs_settleLine (s : State) (line : Nat) (undo : Bool) : (settleLine s line undo).ctxs = s.ctxs := by
  unfold settleLine
  extract_lets
  split <;> rfl

theorem ctxs_cancelPend (s : State) (sp : Span) : (cancelPend s sp).ctxs = s.ctxs := by
  have hdel : ∀ (c : Prop) [Decidable c] (t : State) (line i : Nat), (delReq (if c then unhold t line else t) i).ctxs = t.ctxs := by
    intro c _ t line i
    split <;> rfl
  unfold cancelPend
  split
  · exact rest_foldl State.ctxs _ (fun t i => hdel _ t _ i) _ s
  · split
    · rfl
    · refine rest_foldl State.ctxs _ (fun t x => ?_) _ s
      split
      · rfl
      · exact ctxs_settleLine ..
  · exact rest_foldl State.ctxs _ (fun t i => hdel _ t _ i) _ s
  · rfl

/-- Taking back what spans have begun leaves decks, launches, runs and contexts. -/
theorem replayPend_rest (s : State) (g : Nat) (half : Bool) : (replayPend s g half).decks = s.decks ∧
    (replayPend s g half).launches = s.launches ∧ (replayPend s g half).runs = s.runs ∧ (replayPend s g half).ctxs = s.ctxs := by
  have h := rest_foldl (fun t : State => (t.decks, t.launches, t.runs, t.ctxs)) (fun t p => putSpan (cancelPend t p.2) p.1 (match p.2.pend with
      | .store _ | .consume _ | .atomic _ | .push _ _ => { p.2 with pend := .none }
      | _ => p.2)) (fun t p => by
    have hr := (RosterKept.refl t).cancelPend (sp := p.2)
    show ((cancelPend t p.2).decks, (cancelPend t p.2).launches, (cancelPend t p.2).runs, (cancelPend t p.2).ctxs) = _
    rw [hr.decks, hr.launches, hr.runs, ctxs_cancelPend]) (ctxSpans s g half) s
  simp only [Prod.mk.injEq] at h
  exact h

theorem BytesKept.clearCtx (s : State) (g : Nat) (half : Bool) : BytesKept s (clearCtx s g half) := by
  unfold Machine.clearCtx
  extract_lets c decks stay leave us s1 s2 s3
  have h1 : BytesKept s s1 := BytesKept.foldl (fun _ _ => by exact ⟨fun _ => rfl, rfl, rfl⟩) us s
  have h2 : BytesKept s1 s2 := BytesKept.foldl (fun t d => BytesKept.foldl (fun t p => BytesKept.freeBank t g p) d.2.banks t) leave s1
  have h3 : BytesKept s2 s3 := BytesKept.foldl (fun _ _ => by exact ⟨fun _ => rfl, rfl, rfl⟩) stay s2
  clear_value s3
  exact ((h1.trans h2).trans h3).trans ⟨fun _ => rfl, rfl, rfl⟩

/-- What the end of a context leaves of images, launches, runs and spans. -/
theorem clearCtx_rest (s : State) (g : Nat) (half : Bool) : (clearCtx s g half).images = s.images ∧ (clearCtx s g half).launches = s.launches ∧
    (clearCtx s g half).runs = s.runs ∧ (clearCtx s g half).spans = s.spans.filter (fun p => !(p.2.core == g && p.2.half == half)) := by
  unfold clearCtx
  extract_lets c decks stay leave us s1 s2 s3
  have h1 : RosterKept s s1 := (RosterKept.refl s).foldl fun _ _ ht => ht
  have h2 : RosterKept s s2 := h1.foldl fun _ d ht => RosterKept.foldl (l := d.2.banks) ht fun _ _ ht => ht
  have h3 : (s3.images, s3.launches, s3.runs, s3.spans) = (s2.images, s2.launches, s2.runs, s2.spans) :=
    rest_foldl (fun t : State => (t.images, t.launches, t.runs, t.spans)) _ (fun _ _ => by rfl) stay s2
  simp only [Prod.mk.injEq, h2.images, h2.launches, h2.runs, h2.spans] at h3
  obtain ⟨hi, hl, hr, hs⟩ := h3
  exact ⟨hi, hl, hr, congrArg (List.filter _) hs⟩

theorem ctxSpans_clearCtx (s : State) (g : Nat) (half : Bool) : ctxSpans (clearCtx s g half) g half = [] := by
  rw [ctxSpans, (clearCtx_rest s g half).2.2.2, List.filter_filter, List.filter_eq_nil_iff]
  intro p _
  cases (p.2.core == g && p.2.half == half) <;> simp

/-- A context in which no engine entry is at work is empty once it has ended. -/
theorem ctxEmpty_clearCtx (h : ∀ k, deckWorks (ctxOf s g half) k = false) : ctxEmpty (clearCtx s g half) g half = true := by
  refine ctxEmpty_iff.2 ⟨?_, ctxSpans_clearCtx s g half⟩
  have hstay : (ctxDecks s g half).filter (fun d => deckWorks (ctxOf s g half) d.1) = [] :=
    List.filter_eq_nil_iff.2 fun d _ => by rw [h]; exact Bool.false_ne_true
  have hleave : (ctxDecks s g half).filter (fun d => !deckWorks (ctxOf s g half) d.1) = ctxDecks s g half :=
    List.filter_eq_self.2 fun d _ => by rw [h]; rfl
  unfold clearCtx
  extract_lets c decks stay leave us s1 s2 s3
  have h2 : RosterKept s s2 :=
    RosterKept.foldl ((RosterKept.refl s).foldl fun _ _ ht => ht) fun _ d ht => RosterKept.foldl (l := d.2.banks) ht fun _ _ ht => ht
  have hstay' : stay = [] := hstay
  have hleave' : leave = ctxDecks s g half := hleave
  have h3 : s3.decks = s.decks := by
    show (stay.foldl _ s2).decks = s.decks
    rw [hstay']
    exact h2.decks
  clear_value s3 stay leave
  subst hstay' hleave'
  refine List.filter_eq_nil_iff.2 fun d hd => ?_
  have hctx : ∀ x : State, x.ctxs = mapDel s3.ctxs (ctxKey g half) → (ctxOf x g half).queues = [] := fun x hx => by
    rw [ctxOf, hx, mapGet, mapFind_mapDel_same]
    rfl
  rw [hctx _ rfl, List.any_nil, Bool.or_false]
  intro hin
  obtain ⟨hd, hout⟩ := List.mem_filter.1 hd
  have hmem : d ∈ ctxDecks s g half := by
    refine List.mem_filter.2 ⟨h3 ▸ hd, ?_⟩
    rw [Bool.and_eq_true] at hin ⊢
    exact ⟨hin.1, by rw [hin.2, Bool.true_or]⟩
  have : ((ctxDecks s g half).map Prod.fst).contains d.1 = true := List.contains_iff_mem.2 (List.mem_map.2 ⟨d, hmem, rfl⟩)
  rw [this] at hout
  exact Bool.false_ne_true hout

/-- What a spill does not wait for is not at work. -/
theorem deckWorks_of_spillable (h : spillBusy s g half = false) (k : Nat) : deckWorks (ctxOf s g half) k = false := by
  unfold spillBusy at h
  simp only [Bool.or_eq_false_iff] at h
  obtain ⟨⟨-, hq⟩, -⟩ := h
  unfold deckWorks
  rw [List.any_eq_false] at hq ⊢
  intro q hq'
  have hfree := hq q hq'
  rw [Bool.not_eq_true, List.any_eq_false] at hfree ⊢
  intro e he hwork
  refine hfree e he ?_
  obtain ⟨-, hwork⟩ := Bool.and_eq_true_iff.1 hwork
  obtain ⟨hkind, hstart⟩ := Bool.and_eq_true_iff.1 hwork
  rw [hstart, Bool.true_or, Bool.and_true]
  cases hk : e.kind <;> rw [hk] at hkind
  case mma => exact absurd hkind (by decide)
  case marker => exact absurd hkind (by decide)
  all_goals rfl

end

end Sys2Proof.Machine

namespace Sys2Proof.Machine

/-! ### The ends of a spill (R168, R205 to R207, R209) -/

section
variable {s t : State} {g : Nat}

theorem coreOf_putCore_same (s : State) (g : Nat) (c : Core) : coreOf (putCore s g c) g = c := (coreOf_putCore s g c g).trans (if_pos rfl)

/-- The image that a spill of a context makes, at the save area `a`. -/
def spilledImage (u : State) (g : Nat) (half : Bool) (c : Core) (a : Nat) : Image :=
  let decks := ctxDecks u g half
  let us := (ctxSpans u g half).map Prod.fst
  let seqs := (ctxOf u g half).queues.flatMap (fun q => q.2.map Cmd.seq)
  ⟨ctxSpans u g half, decks, (ownedBanks decks).map (fun o => (o.1, bankOf c o.1)), ctxOf u g half,
    u.loads.filter (fun p => us.contains p.2.uid), u.ord.agents.filter (fun p => us.contains p.1 || seqs.contains p.1), a, decks.map Prod.fst⟩

/-- The state in which the image has been listed. -/
def listImage (s : State) (img : Image) : State := { s with images := mapPut s.images s.nextId img, nextId := s.nextId + 1 }

theorem spillComplete_ends (hcore : s.cur.x.core = g) {a b : Nat} (hspill : (coreOf s g).spill = some (a, b, false)) (hswap : (coreOf s g).swap = none)
    (harea : saveArea a b s.cur.x.a = true) (hpa : paExists s s.cur.x.a = true) :
    let c := coreOf s g
    let u := replayPend s g (!c.active)
    let secs := imageSections u g (!c.active)
    spillBusy u g (!c.active) = false → secs.Pairwise (fun x y => x.1 + x.2.length ≤ y.1) →
    ∃ t i img, exec .spillComplete s = .next t ∧ (coreOf t g).spill = none ∧ mapFind t.images i = some img ∧ ctxEmpty t g (!c.active) = true ∧
      img.at_ = s.cur.x.a ∧ img.spans = ctxSpans u g (!c.active) ∧ img.decks = ctxDecks u g (!c.active) ∧ img.ctx = ctxOf u g (!c.active) ∧
      img.out = img.decks.map Prod.fst ∧
      ∀ q, homeByte t q = if s.cur.x.a + 128 * b ≤ q ∧ q < s.cur.x.a + imageBytes then imageByte secs (q - s.cur.x.a) else homeByte u q := by
  intro c u secs hfree hsecs
  have hgo : exec .spillComplete s = .next (putCore (clearCtx (listImage (writeImage u g (!c.active) s.cur.x.a b (imageBytes / 128))
        (spilledImage u g (!c.active) c s.cur.x.a)) g (!c.active)) g
      { coreOf (clearCtx (listImage (writeImage u g (!c.active) s.cur.x.a b (imageBytes / 128))
        (spilledImage u g (!c.active) c s.cur.x.a)) g (!c.active)) g with spill := none }) := by
    subst hcore
    rw [show exec .spillComplete s = execSpillComplete s from rfl]
    unfold execSpillComplete
    extract_lets g1 a1 c1 half
    rw [show c1.spill = some (a, b, false) from hspill]
    refine (if_neg ?_).trans ((if_neg ?_).trans rfl)
    · rw [show c1.swap = none from hswap, show saveArea a b a1 = true from harea, show paExists s a1 = true from hpa]
      decide
    · rw [show spillBusy (replayPend s g1 half) g1 half = false from hfree]
      exact Bool.false_ne_true
  have hempty : ctxEmpty (clearCtx (listImage (writeImage u g (!c.active) s.cur.x.a b (imageBytes / 128))
      (spilledImage u g (!c.active) c s.cur.x.a)) g (!c.active)) g (!c.active) = true :=
    ctxEmpty_clearCtx fun k => deckWorks_of_spillable hfree k
  have himages := (clearCtx_rest (listImage (writeImage u g (!c.active) s.cur.x.a b (imageBytes / 128))
      (spilledImage u g (!c.active) c s.cur.x.a)) g (!c.active)).1
  have hbytes := BytesKept.clearCtx (listImage (writeImage u g (!c.active) s.cur.x.a b (imageBytes / 128))
      (spilledImage u g (!c.active) c s.cur.x.a)) g (!c.active)
  have ha : s.cur.x.a % 128 = 0 := by
    have := beq_iff_eq.1 (Bool.and_eq_true_iff.1 harea).1
    omega
  have hwrite := homeByte_writeImage (s := u) (lo := b) (hi := imageBytes / 128) ha hsecs
  generalize hw : writeImage u g (!c.active) s.cur.x.a b (imageBytes / 128) = w at *
  generalize hi : spilledImage u g (!c.active) c s.cur.x.a = img at *
  generalize clearCtx (listImage w img) g (!c.active) = v at *
  refine ⟨_, w.nextId, img, hgo, congrArg Core.spill (coreOf_putCore_same ..), ?_, hempty, ?_, ?_, ?_, ?_, ?_, fun q => ?_⟩
  · show mapFind v.images _ = _
    rw [himages]
    exact mapFind_mapPut_same ..
  · rw [← hi]; rfl
  · rw [← hi]; rfl
  · rw [← hi]; rfl
  · rw [← hi]; rfl
  · rw [← hi]; rfl
  · have h128 : 128 * (imageBytes / 128) = imageBytes := by decide
    rw [← h128]
    exact (hbytes.homeByte q).trans (hwrite q)

theorem spillResume_goes (hcore : s.cur.x.core = g) {a b : Nat} (hspill : (coreOf s g).spill = some (a, b, true)) :
    exec .spillResume s = .next (putCore s g { coreOf s g with spill := some (a, b, false) }) := by
  subst hcore
  rw [show exec .spillResume s = execSpillResume s from rfl]
  unfold execSpillResume
  extract_lets g1 c1
  rw [show c1.spill = some (a, b, true) from hspill]

end

end Sys2Proof.Machine

namespace Sys2Proof.Machine

/-! ### A spill that faults (R205, R206) -/

section
variable {s t : State} {g : Nat} {half : Bool}

/-- A context without a span gets none where the spans only fade. -/
theorem ctxSpans_of_fade (hk : keysRise t.spans = true) (h : SpansFade s t) (hs : ctxSpans s g half = []) : ctxSpans t g half = [] := by
  refine List.eq_nil_iff_forall_not_mem.2 fun p hp => ?_
  obtain ⟨hp, hcore, hhalf⟩ := mem_ctxSpans.1 hp
  obtain ⟨sp, hsp, hc, hh, -, -⟩ := h p.1 p.2 (mapFind_of_mem hk hp)
  have : (p.1, sp) ∈ ctxSpans s g half := mem_ctxSpans.2 ⟨mem_of_mapFind hsp, hc ▸ hcore, hh ▸ hhalf⟩
  rw [hs] at this
  cases this

theorem keysRise_replayPend (h : keysRise s.spans = true) : keysRise (replayPend s g half).spans = true := by
  refine List.foldlRecOn (motive := fun t : State => keysRise t.spans = true) _ _ h fun t ht p _ => ?_
  have hr := (RosterKept.refl t).cancelPend (sp := p.2)
  exact keysRise_mapPut _ _ (by rw [hr.spans]; exact ht)

theorem ctxDecks_writeImage_replayPend (s : State) (g : Nat) (half : Bool) (a lo hi : Nat) :
    ctxDecks (writeImage (replayPend s g half) g half a lo hi) g half = ctxDecks s g half := by
  obtain ⟨hd, -, -, hc⟩ := replayPend_rest s g half
  show ctxDecks (replayPend s g half) g half = _
  rw [ctxDecks, ctxOf, hd, hc]
  rfl

/-- The launch numbers that a context's loss kills. -/
def lostNumbers (s : State) (g : Nat) (half : Bool) : List Nat := ((ctxDecks s g half).map (fun d => numberOf s d.2.launch)).dedup

/-- A context is lost in its spill: the event for each of its launches, its barriers abandoned, its end, and the kill of its launches
(R206). -/
def loseContext (s : State) (g : Nat) (half : Bool) (a : Nat) : State :=
  let s1 := (lostNumbers s g half).foldl (fun t n => record t { boxEvent t with
    kind := 1, code := 0x84, die := g / 32, core := g % 32, launch := n, key := (ctxOf s g half).key.getD 0,
    arg := a, stop := g % 32 / 4 }) s
  let s2 := (ctxSpans s1 g half).foldl (fun t p => p.2.regs.foldl (fun t e => match entryBar t p.2 e.addr with
    | some b => barAbandon t b
    | none => t) t) s1
  (lostNumbers s g half).foldl (fun t n => killLaunch t n noteLost) (clearCtx s2 g half)

theorem loseContext_leaves (hk : keysRise s.spans = true) (a : Nat) : ctxSpans (loseContext s g half a) g half = [] ∧
    ∀ d ∈ ctxDecks s g half, ∀ r, mapFind s.runs (numberOf s d.2.launch) = some r →
      ∃ r', mapFind (loseContext s g half a).runs (numberOf s d.2.launch) = some r' ∧ noteLost ∈ r'.noted := by
  unfold loseContext
  extract_lets s1 s2
  have h1 : RosterKept s s1 := (RosterKept.refl s).foldl fun _ _ ht => ht.record
  have h2 : RosterKept s s2 := h1.foldl fun _ p ht => RosterKept.foldl (l := p.2.regs) ht fun _ _ ht => by
    split
    · exact ht.barAbandon
    · exact ht
  clear_value s2
  obtain ⟨-, -, hruns, hspans⟩ := clearCtx_rest s2 g half
  have hk3 : keysRise (clearCtx s2 g half).spans = true := by
    rw [hspans, h2.spans]
    exact keysRise_filter _ hk
  have hnone := ctxSpans_clearCtx s2 g half
  obtain ⟨hhalts, hkills⟩ := halts_killLaunches (fun n => n) noteLost (lostNumbers s g half) (clearCtx s2 g half)
  refine ⟨ctxSpans_of_fade (hhalts.rise hk3) hhalts.spans hnone, fun d hd r hr => ?_⟩
  have hn : numberOf s d.2.launch ∈ lostNumbers s g half := List.mem_dedup.2 (List.mem_map.2 ⟨d, hd, rfl⟩)
  exact (hkills _ hn).1 r (by rw [hruns, h2.runs]; exact hr)

theorem spillFault_ends (hcore : s.cur.x.core = g) (hk : keysRise s.spans = true) {a b : Nat} (hspill : (coreOf s g).spill = some (a, b, false))
    (harea : saveArea a b s.cur.x.c = true) (hle : s.cur.x.c ≤ s.cur.x.a) (hin : s.cur.x.a - s.cur.x.c < imageBytes)
    (hline : b ≤ (s.cur.x.a - s.cur.x.c) / 128)
    (hfree : (s.cur.x.a - s.cur.x.c) / 128 ≤ 32 ∨ spillBusy (replayPend s g (!(coreOf s g).active)) g (!(coreOf s g).active) = false) :
    let c := coreOf s g
    ∃ t, exec .spillFault s = .next t ∧
      (s.cur.x.b = 0 → (coreOf t g).spill = some (s.cur.x.c, (s.cur.x.a - s.cur.x.c) / 128, true)) ∧
      (s.cur.x.b ≠ 0 → (coreOf t g).spill = none ∧ ctxSpans t g (!c.active) = [] ∧
        ∀ d ∈ ctxDecks s g (!c.active), ∀ r, mapFind s.runs (numberOf s d.2.launch) = some r →
          ∃ r', mapFind t.runs (numberOf s d.2.launch) = some r' ∧ noteLost ∈ r'.noted) := by
  intro c
  have hgo : exec .spillFault s =
      if s.cur.x.b = 0 then .next (putCore (writeImage (replayPend s g (!c.active)) g (!c.active) s.cur.x.c b ((s.cur.x.a - s.cur.x.c) / 128)) g
        { coreOf (writeImage (replayPend s g (!c.active)) g (!c.active) s.cur.x.c b ((s.cur.x.a - s.cur.x.c) / 128)) g with
          spill := some (s.cur.x.c, (s.cur.x.a - s.cur.x.c) / 128, true) })
      else .next (putCore (loseContext (writeImage (replayPend s g (!c.active)) g (!c.active) s.cur.x.c b ((s.cur.x.a - s.cur.x.c) / 128)) g
          (!c.active) s.cur.x.a) g
        { coreOf (loseContext (writeImage (replayPend s g (!c.active)) g (!c.active) s.cur.x.c b ((s.cur.x.a - s.cur.x.c) / 128)) g
          (!c.active) s.cur.x.a) g with spill := none }) := by
    subst hcore
    rw [show exec .spillFault s = execSpillFault s from rfl]
    unfold execSpillFault
    extract_lets x g1 c1 half
    rw [show c1.spill = some (a, b, false) from hspill]
    dsimp -zeta only
    refine (if_neg ?_).trans ((if_neg ?_).trans rfl)
    · rw [show saveArea a b x.c = true from harea]
      rintro (h | h | h | h | h)
      · exact Bool.false_ne_true h
      · exact Bool.false_ne_true h
      · exact absurd hle (Nat.not_le.2 h)
      · exact absurd hin (Nat.not_lt.2 h)
      · exact absurd hline (Nat.not_le.2 h)
    · rintro ⟨hbig, hbusy⟩
      rcases hfree with h | h
      · exact absurd hbig (Nat.not_lt.2 h)
      · exact Bool.false_ne_true (h.symm.trans hbusy)
  by_cases hb : s.cur.x.b = 0
  · rw [if_pos hb] at hgo
    exact ⟨_, hgo, fun _ => congrArg Core.spill (coreOf_putCore_same ..), fun h => absurd hb h⟩
  · rw [if_neg hb] at hgo
    have hdecks := ctxDecks_writeImage_replayPend s g (!c.active) s.cur.x.c b ((s.cur.x.a - s.cur.x.c) / 128)
    have hkw : keysRise (writeImage (replayPend s g (!c.active)) g (!c.active) s.cur.x.c b ((s.cur.x.a - s.cur.x.c) / 128)).spans = true :=
      keysRise_replayPend hk
    obtain ⟨-, hlaunches, hruns, -⟩ := replayPend_rest s g (!c.active)
    have hrunsw : (writeImage (replayPend s g (!c.active)) g (!c.active) s.cur.x.c b ((s.cur.x.a - s.cur.x.c) / 128)).runs = s.runs := hruns
    have hnum : ∀ l, numberOf (writeImage (replayPend s g (!c.active)) g (!c.active) s.cur.x.c b ((s.cur.x.a - s.cur.x.c) / 128)) l = numberOf s l :=
      fun l => by
        show (match mapFind (replayPend s g (!c.active)).launches l with
          | some l => l.number
          | none => 0) = _
        rw [hlaunches]
        rfl
    generalize writeImage (replayPend s g (!c.active)) g (!c.active) s.cur.x.c b ((s.cur.x.a - s.cur.x.c) / 128) = w at *
    obtain ⟨hnone, hlost⟩ := loseContext_leaves hkw s.cur.x.a (g := g) (half := !c.active)
    refine ⟨_, hgo, fun h => absurd h hb, fun _ => ⟨congrArg Core.spill (coreOf_putCore_same ..), hnone, fun d hd r hr => ?_⟩⟩
    have := hlost d (hdecks ▸ hd) r (by rw [hrunsw, hnum]; exact hr)
    rwa [hnum] at this

end

end Sys2Proof.Machine

namespace Sys2Proof.Machine

/-! ### A preloaded image (R205, R291) -/

section
variable {s t : State} {g : Nat}

theorem preloadComplete_restores (hcore : s.cur.x.core = g) (hk : keysRise s.spans = true) :
    let c := coreOf s g
    let a := s.cur.x.a
    let img := imageAt s a
    g < 512 → clocked s = true → c.failed = false → c.spill = none → c.swap = none → c.preload = none → imgRead s a 4 = 0x4A394358 →
      (∀ d ∈ img.decks, d.1 ∈ img.out) → resumeOlds s a = [] → ctxEmpty s g (!c.active) = true → img.banks.length ≤ (freeBanks s g).length →
      s.cur.x.c = 1 ∨ (ctxEmpty s g c.active = true ∧ (imageKept s a).decks ≠ [] ∧ (∀ d ∈ (imageKept s a).decks, d.2.core = g) ∧
        waitsAbove s (topPrio s img.decks) = false) →
      (img.decks.map Prod.fst).Nodup → (img.spans.map Prod.fst).Nodup →
      ∃ t base, exec .preloadComplete s = .next t ∧ (coreOf t g).preload = some (a, true) ∧ Restored t img base g (!c.active) := by
  intro c a img hg hclk hgood hspill hswap hpre hmagic hout holds hempty hbanks hasked hd hs
  have hgo : exec .preloadComplete s = .next (putCore (restoreImage s img g (!c.active) id) g
      { coreOf (restoreImage s img g (!c.active) id) g with preload := some (a, true) }) := by
    subst hcore
    refine if_neg ?_
    have hall : img.decks.all (fun d => img.out.contains d.1) = true := List.all_eq_true.2 fun d hd => List.contains_iff_mem.2 (hout d hd)
    have hask : (s.cur.x.c == 1 || (ctxEmpty s s.cur.x.core c.active && !(imageKept s a).decks.isEmpty &&
        (imageKept s a).decks.all (fun d => d.2.core == s.cur.x.core) && !waitsAbove s (topPrio s img.decks))) = true := by
      rcases hasked with h | ⟨hact, hne, hcores, hwaits⟩
      · rw [h]
        rfl
      · have hall : (imageKept s a).decks.all (fun d => d.2.core == s.cur.x.core) = true :=
          List.all_eq_true.2 fun d hd => beq_iff_eq.2 (hcores d hd)
        rw [hact, hall, hwaits]
        cases hl : (imageKept s a).decks with
        | nil => exact absurd hl hne
        | cons _ _ => simp
    rw [hclk, hgood, hspill, hswap, hpre, hall, holds, hempty, hask]
    rintro (h | h | h | h | h | h | h | h | h | h | h | h)
    · exact absurd hg (Nat.not_lt.2 h)
    · exact Bool.false_ne_true h
    · exact Bool.false_ne_true h
    · exact Bool.false_ne_true h
    · exact Bool.false_ne_true h
    · exact Bool.false_ne_true h
    · exact h hmagic
    · exact Bool.false_ne_true h
    · exact Bool.false_ne_true h
    · exact Bool.false_ne_true h
    · exact absurd hbanks (Nat.not_le.2 h)
    · exact Bool.false_ne_true h
  obtain ⟨⟨base, hr⟩, -⟩ := restored_restoreImage (g := g) (half := !c.active) (launch := id) hk hd hs
  generalize restoreImage s img g (!c.active) id = v at *
  exact ⟨_, base, hgo, congrArg Core.preload (coreOf_putCore_same ..), RosterKept.restored (t := putCore v g _) (RosterKept.refl v) hr⟩

/-! ### The end of a walk (R238 to R241) -/

/-- The table's lines are used, and the walk's pointers kept: requesters, commands and shootdowns stay. -/
theorem homeTouches_eq (l : List Nat) (s : State) : ∃ ls n, l.foldl homeTouch s = { s with lines := ls, uses := n } :=
  List.foldlRecOn (motive := fun t : State => ∃ ls n, t = { s with lines := ls, uses := n }) _ _ ⟨_, _, rfl⟩ fun t ht x _ => by
    obtain ⟨ls, n, rfl⟩ := ht
    obtain ⟨ls', n', e⟩ := homeTouch_eq { s with lines := ls, uses := n } x
    exact ⟨ls', n', e⟩

/-- The state in which a walk has read its table. -/
def walked (s : State) (i : Nat) (r : WalkRes × List Upper × List Nat) : State :=
  r.2.2.foldl homeTouch (keepUppers { s with walks := mapDel s.walks i, fresh := s.fresh + 1 } r.2.1)

theorem fe_walked (s : State) (i : Nat) (r : WalkRes × List Upper × List Nat) : (walked s i r).fe = s.fe := by
  obtain ⟨ls, n, e⟩ := homeTouches_eq r.2.2 (keepUppers { s with walks := mapDel s.walks i, fresh := s.fresh + 1 } r.2.1)
  rw [walked, e]
  rfl

theorem closingShoot_walked (s : State) (i : Nat) (r : WalkRes × List Upper × List Nat) (root va : Nat) :
    closingShoot (walked s i r) root va = closingShoot s root va := by
  rw [closingShoot, fe_walked]
  rfl

/-- A walk of one requester, whose table's lines can be read, gives it what it comes to. -/
theorem walkComplete_one {i : Nat} {w : Walk} {n : Need} {r : WalkRes × List Upper × List Nat} (hid : s.cur.x.id = i) (hw : mapFind s.walks i = some w)
    (hruns : walkRuns s i w = true) (hr : r = unitWalk s w 4 w.root) (hall : walksWith s i w r.1 = [(i, w)]) (hn : w.needs = [n])
    (hlines : ∀ x ∈ r.2.2, isHbm (128 * x) = true → routeWaits s w.die (dieOfPa (128 * x)) = false) :
    exec .walkComplete s = .next (completeNeed (walked s i r) w r.1 n) := by
  subst hid hr
  rw [show exec .walkComplete s = execWalkComplete s from rfl]
  unfold execWalkComplete
  extract_lets i
  rw [show mapFind s.walks i = some w from hw]
  dsimp -zeta only
  rw [if_neg (by rw [hruns]; exact Bool.false_ne_true)]
  extract_lets r all s1 s2
  have hno : ¬ (r.2.2.any (fun x => isHbm (128 * x) && routeWaits s w.die (dieOfPa (128 * x)))) = true := by
    rw [Bool.not_eq_true, List.any_eq_false]
    intro x hx hc
    obtain ⟨hh, hwait⟩ := Bool.and_eq_true_iff.1 hc
    exact Bool.false_ne_true ((hlines x hx hh).symm.trans hwait)
  rw [if_neg hno]
  have hwalks : s.walks.filter (fun p => !all.any (fun q => q.1 == p.1)) = mapDel s.walks i := by
    show s.walks.filter (fun p => !(walksWith s i w r.1).any (fun q => q.1 == p.1)) = _
    rw [hall]
    refine List.filter_congr fun p _ => ?_
    rw [List.any_cons, List.any_nil, Bool.or_false, bne, Bool.beq_comm]
  have hs2 : s2 = walked s i r := by
    show r.2.2.foldl homeTouch (keepUppers { s with walks := s.walks.filter (fun p => !all.any (fun q => q.1 == p.1)), fresh := s.fresh + 1 } r.2.1) = _
    rw [hwalks]
    rfl
  clear_value s2
  subst hs2
  show Host.Outcome.next ((walksWith s i w r.1).foldl (fun s p => p.2.needs.foldl (fun s n => completeNeed s p.2 r.1 n) s) (walked s i r)) = _
  rw [hall, List.foldl_cons, List.foldl_nil, hn]
  rfl

theorem shootdownBoundExpire_due {i : Nat} {x : Shoot} (hid : s.cur.x.id = i) (hx : mapFind s.fe.shoots i = some x) (hdue : x.due ≤ s.ticks)
    (hfirst : x.expired = false) :
    exec .shootdownBoundExpire s = .next { s with fe := { s.fe with shoots := mapPut s.fe.shoots i { x with expired := true } } } := by
  subst hid
  rw [show exec .shootdownBoundExpire s = execShootdownBoundExpire s from rfl]
  unfold execShootdownBoundExpire
  rw [hx]
  refine if_neg ?_
  rintro (h | h)
  · exact absurd hdue (Nat.not_le.2 h)
  · exact Bool.false_ne_true (hfirst.symm.trans h)

/-! ### The removal stage of a shootdown (R219, R241, R242, R247) -/

/-- The translations that a core holds. -/
def tlbsOf (c : Core) : List Tlb := c.stlb ++ c.itlb ++ c.dtlb.flatMap Prod.snd

/-- No core holds a translation of the page of the shootdown. -/
def PageOut (x : Shoot) (s : State) : Prop := ∀ c ∈ s.cores, ∀ y ∈ tlbsOf c.2, tlbIn x y = false

section
variable {x : Shoot}

theorem PageOut.coreOf (h : PageOut x s) (g : Nat) {y : Tlb} (hy : y ∈ tlbsOf (coreOf s g)) : tlbIn x y = false := by
  cases hc : mapFind s.cores g with
  | some c =>
    refine h (g, c) (mem_of_mapFind hc) y ?_
    rwa [Machine.coreOf, mapGet, hc] at hy
  | none =>
    rw [Machine.coreOf, mapGet, hc] at hy
    cases hy

/-- A core is put that holds the translations of the one that stood there. -/
theorem PageOut.putCore {c : Core} (h : PageOut x s) (hc : tlbsOf c = tlbsOf (Machine.coreOf s g)) : PageOut x (putCore s g c) := by
  intro p hp y hy
  rcases mem_mapPut s.cores g c hp with rfl | hp
  · exact h.coreOf g (hc ▸ hy)
  · exact h p hp y hy

theorem PageOut.writeBack {line : Nat} (h : PageOut x s) : PageOut x (writeBack s g line) := by
  unfold Machine.writeBack
  dsimp only
  split
  · exact h
  · split
    · exact h
    · refine PageOut.putCore (s := sendStore s g line _ _ _ _ _ _ _) h ?_
      split <;> rfl

theorem PageOut.dropCopy {line : Nat} (h : PageOut x s) : PageOut x (dropCopy s g line) := h.writeBack.putCore rfl

theorem PageOut.shootL1 (h : PageOut x s) : PageOut x (shootL1 s x) := by
  refine List.foldlRecOn (motive := PageOut x) _ _ h fun t ht c _ => ?_
  exact List.foldlRecOn (motive := PageOut x) _ _ ht fun t ht y _ => ht.dropCopy

theorem pageOut_mapTlbs (s : State) (x : Shoot) : PageOut x (mapTlbs s fun l => l.filter fun t => !tlbIn x t) := by
  intro c hc y hy
  obtain ⟨c, -, rfl⟩ := List.mem_map.1 hc
  have hout : ∀ l : List Tlb, y ∈ l.filter (fun t => !tlbIn x t) → tlbIn x y = false := fun l hl => by
    simpa using (List.mem_filter.1 hl).2
  rcases List.mem_append.1 hy with hy | hy
  · rcases List.mem_append.1 hy with hy | hy
    · exact hout _ hy
    · exact hout _ hy
  · obtain ⟨d, hd, hy⟩ := List.mem_flatMap.1 hy
    obtain ⟨d, -, rfl⟩ := List.mem_map.1 hd
    exact hout _ hy

theorem cores_dropLine (s : State) (line reason : Nat) : (dropLine s line reason).cores = s.cores := by
  unfold dropLine
  dsimp only
  split <;> rfl

theorem cores_drainSlots (s : State) (g : Nat) (half : Bool) : (drainSlots s g half).cores = s.cores := by
  unfold drainSlots
  refine rest_foldl State.cores _ (fun t p => ?_) _ (putCtx s g half _)
  unfold releaseSlot
  dsimp only
  split <;> rfl

theorem cores_finishCmd (s : State) (seq : Nat) : (finishCmd s seq).cores = s.cores := by
  unfold finishCmd
  split
  · rfl
  · split <;> rfl

theorem cores_failCmd (s : State) (k : CmdAt) (e : Cmd) : (failCmd s k e).cores = s.cores := by
  unfold failCmd cmdDone
  rw [cores_finishCmd, cores_drainSlots]
  show (landCmd s k.core e _ true 0).cores = s.cores
  unfold landCmd
  split
  · rfl
  · split <;> rfl

theorem shootdownRemoval_removes {i : Nat} (hid : s.cur.x.id = i) (hx : mapFind s.fe.shoots i = some x)
    (hdue : x.expired = true ∨ (shootLines s x = [] ∧ shootCmds s x = [])) (hfills : ∀ ln ∈ shootLines s x, fillWaits s ln 0 = false) :
    ∃ t, exec .shootdownRemoval s = .next (completePkt (postFaults t) x.pkt 0 0 0 0) ∧ mapFind t.fe.shoots i = none ∧
      (∀ c ∈ t.cores, ∀ y ∈ c.2.stlb ++ c.2.itlb ++ c.2.dtlb.flatMap Prod.snd, tlbIn x y = false) := by
  subst hid
  rw [show exec .shootdownRemoval s = execShootdownRemoval s from rfl]
  unfold execShootdownRemoval
  extract_lets i
  rw [show mapFind s.fe.shoots i = some x from hx]
  dsimp -zeta only
  have hgo : ¬ (!x.expired && (!(shootLines s x).isEmpty || !(shootCmds s x).isEmpty)) = true := by
    rcases hdue with h | ⟨hl, hc⟩
    · rw [h]
      exact Bool.false_ne_true
    · rw [hl, hc]
      simp
  have hnow : ¬ ((shootLines s x).any (fun ln => fillWaits s ln 0)) = true := by
    rw [Bool.not_eq_true, List.any_eq_false]
    intro ln hln
    rw [hfills ln hln]
    exact Bool.false_ne_true
  rw [if_neg hgo, if_neg hnow]
  extract_lets s1 s2 s3 f s4 s5
  have h1 : PageOut x s1 := pageOut_mapTlbs _ x
  have h2 : PageOut x s2 := by
    have hcores : s2.cores = (shootL1 s1 x).cores := rest_foldl State.cores _ (fun t ln => cores_dropLine t ln 2) _ _
    unfold PageOut
    rw [hcores]
    exact h1.shootL1
  have h3 : PageOut x s3 := by
    have hcores : s3.cores = s2.cores := rest_foldl State.cores _ (fun t k => cores_failCmd t k k.cmd) _ _
    unfold PageOut
    rw [hcores]
    exact h2
  clear_value s3
  exact ⟨s5, rfl, mapFind_mapDel_same .., h3⟩

end

end

end Sys2Proof.Machine

namespace Sys2Proof
open Machine

/-- Settles O46: each event comes to one state of the model, of which the lemmas about its operations say the rest. -/
theorem contextsAndTranslations : Obligations.ContextsAndTranslations := by
  refine ⟨?contexts, fun s i w x hid => ⟨fun hw hruns r hr hall n hn hlines => ?walk, shootdownBoundExpire_due hid, shootdownRemoval_removes hid⟩⟩
  case contexts =>
    intro s g t0 hcore hk _ c
    exact ⟨fun hg hclk hgood hswap hready hasked => shadowSwap_begins hcore hk hg hclk hgood hswap hready hasked,
      swapComplete_ends hcore hk, fun a b hspill hswap harea hpa => spillComplete_ends hcore hspill hswap harea hpa,
      fun a b hspill harea hle hin hline hfree => spillFault_ends hcore hk hspill harea hle hin hline hfree,
      fun a b hspill => spillResume_goes hcore hspill, preloadComplete_restores hcore hk⟩
  case walk =>
    intro s1 closing waits
    have hgo := walkComplete_one hid hw hruns hr hall hn hlines
    have hclose : closingShoot (walked s i r) w.root (w.vpn * 4096) = closing := closingShoot_walked ..
    refine ⟨fun level bad hfault => ?_, fun size ppn bar x wr hleaf => ⟨fun hbar => ?_, fun hwr hxx hno => ?_⟩⟩
    · rw [hgo, hfault, completeNeed, hclose]
      rfl
    · rw [hgo, hleaf, completeNeed, hclose]
      refine congrArg Host.Outcome.next (if_pos ?_)
      rcases hbar with ⟨hw', hr'⟩ | ⟨hf, hx'⟩ | hwait
      · simp [hw', hr']
      · simp [hf, hx']
      · rw [Bool.or_eq_true]
        exact Or.inr (Option.isSome_iff_ne_none.2 hwait)
    · rw [hgo, hleaf, completeNeed, hclose]
      refine congrArg Host.Outcome.next ((if_neg ?_).trans ?_)
      · have h1 : (n.write && !wr) = false := by
          cases hn' : n.write
          · rfl
          · rw [hwr hn']; rfl
        have h2 : (n.fetch && !x) = false := by
          cases hn' : n.fetch
          · rfl
          · rw [hxx hn']; rfl
        rw [h1, h2]
        show ¬ (false || false || waits.isSome) = true
        rw [hno]
        exact Bool.false_ne_true
      · rfl

end Sys2Proof

namespace Sys2Proof.Machine
open Sys2Proof

/-! ### The reduced tile, element by element (R352, R356) -/

/-- Element i of a block of 32 FP32 elements, or of a tile of such blocks, as the code of a group carries it (R352). -/
def wireElem (code : GCode) (b : List Byte) (i : Nat) : Nat :=
  match code with
  | .none => bytesToNat ((b.drop (4 * i)).take 4)
  | .sign => codedElem .sign (bytesToNat ((b.drop (8 * (i / 32))).take 4)) (bytesToNat ((b.drop (8 * (i / 32) + 4)).take 4)) (i % 32)
  | .ternary => codedElem .ternary (bytesToNat ((b.drop (12 * (i / 32))).take 8)) (bytesToNat ((b.drop (12 * (i / 32) + 8)).take 4)) (i % 32)

theorem f32sOf_length (b : List Byte) (n : Nat) : (f32sOf b n).length = n := by simp [f32sOf]

/-- A list made of blocks of 32: its element i is element i mod 32 of block i / 32. -/
theorem getElem?_flatMap_blocks {α β : Type} (f : α → Nat → β) : ∀ (l : List α) (i : Nat),
    (l.flatMap (fun a => (List.range 32).map (f a)))[i]? = l[i / 32]?.map (fun a => f a (i % 32))
  | [], i => by simp
  | a :: l, i => by
    rw [List.flatMap_cons]
    by_cases h : i < 32
    · rw [List.getElem?_append_left (by simpa using h), Nat.div_eq_of_lt h, Nat.mod_eq_of_lt h]
      simp [List.getElem?_range h]
    · obtain ⟨j, rfl⟩ := Nat.exists_eq_add_of_le' (Nat.le_of_not_lt h)
      rw [List.getElem?_append_right (by simp), Nat.add_div_right j (by decide), Nat.add_mod_right]
      simpa using getElem?_flatMap_blocks f l j

theorem decodeTile_getElem? (c : GCode) (b : List Byte) {n i : Nat} (h : i < 32 * n) :
    (decodeTile c b n).1[i]? = some (wireElem c b i) := by
  have hb : i / 32 < n := by omega
  cases c
  case none => simp [decodeTile, wireElem, f32sOf, h]
  all_goals
    simp only [decodeTile, getElem?_flatMap_blocks, List.getElem?_map, List.getElem?_range hb, Option.map_some, wireElem, blockBytes,
      List.take_take, List.drop_take, List.drop_drop]
    rfl

theorem decodeTile_length (c : GCode) (b : List Byte) (n : Nat) : (decodeTile c b n).1.length = 32 * n := by
  cases c with
  | none => exact f32sOf_length _ _
  | sign | ternary => simp [decodeTile, Function.comp_def, List.map_const', Nat.mul_comm]

theorem addTiles_length {a b : List Nat} {n : Nat} (ha : a.length = n) (hb : b.length = n) : (addTiles a b).length = n := by
  simp [addTiles, ha, hb]

theorem addTiles_getD {a b : List Nat} {i : Nat} (ha : i < a.length) (hb : i < b.length) :
    (addTiles a b).getD i 0 = fAdd fmtF32 .rne (a.getD i 0) (b.getD i 0) := by
  simp [addTiles, List.getD_eq_getElem?_getD, List.getElem_zip, ha, hb]

/-- What one child sent is added to a tile (R356). -/
def addSent (c : GCode) (sent : Nat → List Byte) (x : List Nat × Nat) (r : Nat) : List Nat × Nat :=
  let d := decodeTile c (sent r) 128
  (addTiles x.1 d.1, x.2 + d.2)

/-- The children's tiles are added element by element, in the order of the list. -/
theorem foldl_addSent (c : GCode) (sent : Nat → List Byte) : ∀ (l : List Nat) (x : List Nat × Nat), x.1.length = 4096 →
    (l.foldl (addSent c sent) x).1.length = 4096 ∧ ∀ i, i < 4096 →
      (l.foldl (addSent c sent) x).1.getD i 0 = l.foldl (fun a r => fAdd fmtF32 .rne a (wireElem c (sent r) i)) (x.1.getD i 0)
  | [], _, h => ⟨h, fun _ _ => rfl⟩
  | r :: l, x, h => by
    have hd := decodeTile_length c (sent r) 128
    obtain ⟨hlen, hel⟩ := foldl_addSent c sent l (addSent c sent x r) (addTiles_length h hd)
    refine ⟨hlen, fun i hi => ?_⟩
    rw [List.foldl_cons, hel i hi, List.foldl_cons]
    have hone : (addSent c sent x r).1.getD i 0 = fAdd fmtF32 .rne (x.1.getD i 0) (wireElem c (sent r) i) := by
      refine (addTiles_getD (h ▸ hi) (hd ▸ hi)).trans ?_
      rw [List.getD_eq_getElem?_getD (l := (decodeTile c (sent r) 128).1), decodeTile_getElem? c _ (show i < 32 * 128 from hi)]
      rfl
    rw [hone]

/-- Without a code there is no ternary code 0b10 to be met. -/
theorem foldl_addSent_none (sent : Nat → List Byte) : ∀ (l : List Nat) (x : List Nat × Nat), (l.foldl (addSent .none sent) x).2 = x.2
  | [], _ => rfl
  | r :: l, x => by rw [List.foldl_cons, foldl_addSent_none sent l]; rfl

/-- The member's own elements, with the residual's where there is one (R356). -/
def ownTile (e : Entry) (resid : Option (List Nat)) : List Nat :=
  match resid with
  | some r => addTiles (f32sOf e.tile 4096) r
  | none => f32sOf e.tile 4096

theorem ownTile_length {e : Entry} {resid : Option (List Nat)} (h : ∀ r, resid = some r → r.length = 4096) :
    (ownTile e resid).length = 4096 := by
  cases resid with
  | none => exact f32sOf_length _ _
  | some r => exact addTiles_length (f32sOf_length _ _) (h r rfl)

theorem f32sOf_getD (b : List Byte) {n i : Nat} (h : i < n) : (f32sOf b n).getD i 0 = bytesToNat ((b.drop (4 * i)).take 4) := by
  simp [f32sOf, List.getD_eq_getElem?_getD, h]

theorem ownTile_getD {e : Entry} {resid : Option (List Nat)} (h : ∀ r, resid = some r → r.length = 4096) {i : Nat} (hi : i < 4096) :
    (ownTile e resid).getD i 0 =
      (resid.map (fun r => fAdd fmtF32 .rne (wireElem .none e.tile i) (r.getD i 0))).getD (wireElem .none e.tile i) := by
  cases resid with
  | none => exact f32sOf_getD _ hi
  | some r =>
    refine (addTiles_getD ((f32sOf_length _ _).symm ▸ hi) (h r rfl ▸ hi)).trans ?_
    rw [f32sOf_getD _ hi]
    rfl

/-- What child r of the entry has sent for the chunk, as it came. -/
def sentBy (e : Entry) (c : Chunk) (r : Nat) : List Byte := (chunkFrom c r (tileBytes (codeOfField e.code))).getD []

theorem reduceTile_eq (e : Entry) (c : Chunk) (resid : Option (List Nat)) :
    reduceTile e c resid = (entryChildren e).foldl (addSent (codeOfField e.code) (sentBy e c)) (ownTile e resid, 0) := by
  cases resid <;> rfl

theorem childRanks_pairwise (size k t u : Nat) : (childRanks size k t u).Pairwise (· < ·) :=
  List.Pairwise.filter _ List.pairwise_lt_range

/-- Clause of O50 on the reduced tile (R352, R356): its children, its length, its elements and its count of codes 0b10. -/
theorem reduceTile_elements (e : Entry) (c : Chunk) (resid : Option (List Nat)) (h : ∀ r, resid = some r → r.length = 4096) :
    (entryChildren e).Pairwise (· < ·) ∧ (reduceTile e c resid).1.length = 4096 ∧
    (∀ i, i < 4096 → (reduceTile e c resid).1.getD i 0 =
      (entryChildren e).foldl (fun a r => fAdd fmtF32 .rne a (wireElem (codeOfField e.code) (sentBy e c r) i))
        ((resid.map (fun r => fAdd fmtF32 .rne (wireElem .none e.tile i) (r.getD i 0))).getD (wireElem .none e.tile i))) ∧
    (codeOfField e.code = .none → (reduceTile e c resid).2 = 0) := by
  rw [reduceTile_eq]
  obtain ⟨hlen, hel⟩ := foldl_addSent (codeOfField e.code) (sentBy e c) (entryChildren e) (ownTile e resid, 0) (ownTile_length h)
  refine ⟨childRanks_pairwise _ _ _ _, hlen, fun i hi => ?_, fun hc => ?_⟩
  · rw [hel i hi, ownTile_getD h hi]
  · rw [hc, foldl_addSent_none]

end Sys2Proof.Machine

namespace Sys2Proof.Machine
open Sys2Proof

/-! ### Sweeps of complete chunks (R349 to R357) -/

/-- A reduction's complete chunk whose group is there is swept. -/
theorem execChunkSweep_sweeps {s : State} {j : Nat} {e : Entry} {g : Group} {c : Chunk}
    (hentry : mapFind s.fab.entries s.cur.x.id = some e) (hclk : clocked s = true) (hout : e.out = none) (hop : e.op = 0 ∨ e.op = 2)
    (hswept : e.swept = false) (hgot : e.got = []) (hchunk : findChunk s e.die e.handle e.t e.tag = some (j, c))
    (hready : chunkReady c e = true) (hgroup : anyGroup s e.die e.handle = some g) :
    exec .chunkSweep s = sweepEntry s e g c := by
  rw [show exec .chunkSweep s = execChunkSweep s from rfl, execChunkSweep, hentry]
  dsimp only
  refine (if_neg (by simp [hclk])).trans ?_
  rw [hout]
  dsimp only
  rw [hchunk]
  dsimp only
  have h1 : e.op ≠ 1 := by rcases hop with h | h <;> rw [h] <;> decide
  have h3 : ¬ (e.op = 3 ∨ (e.op = 2 ∧ (!e.got.isEmpty) = true)) := by
    rw [hgot]
    rcases hop with h | h <;> rw [h] <;> decide
  rw [if_neg h1, if_neg h3, if_neg (by simp [hswept, hready]), hgroup]

/-- The entry's residual is used: a coded group's member that is not the root, or the only one (R356). -/
def usesResid (e : Entry) : Bool := codeOfField e.code != .none && (entryHop e != 0 || e.g == 1)

/-- The chunk of a tile that has been reduced is freed, and the ternary codes 0b10 met raise the group's drops (R351, R352). -/
def freeChunk (s : State) (e : Entry) (g : Group) (x : List Nat × Nat) : State :=
  delChunk (if x.2 = 0 then s else raiseDrops s g x.2) e.die e.handle e.t e.tag

/-- The root of a tree has a reduced tile (R349, R356). -/
def rootSweep (s : State) (e : Entry) (tile : List Byte) : State :=
  let r := if e.op = 2 then sendAll s e (entryChildren e) 1 e.code tile else (s, e)
  writeEntry r.1 { r.2 with swept := true, out := some tile } tile

/-- Another member sends its encoded tile to its parent (R356). -/
def sendUp (s : State) (e : Entry) (g : Group) (es : List Nat) : State :=
  let w := encodeTile (codeOfField e.code) es
  let r := sendTo (if w.2.2 = 0 then s else raiseCount s g 0x50 w.2.2) e
    (rankAt e.g e.t (hopParent e.k (entryHop e))) 0 e.code w.1
  putEntry r.1 { r.2 with swept := e.op == 0, written := false, pos := 0, got := [e.rank] }

theorem sweepEntry_root {s : State} {e : Entry} {g : Group} {c : Chunk} (hu : entryHop e = 0) (hr : usesResid e = false)
    (hhome : e.op = 0 → e.home = false) :
    sweepEntry s e g c =
      .next (rootSweep (freeChunk s e g (reduceTile e c none)) e (bytesOfF32s (reduceTile e c none).1)) := by
  have hto : (e.op == 0 && e.home && entryHop e == 0) = false := by
    by_cases h : e.op = 0
    · simp [hhome h]
    · simp [h]
  unfold usesResid at hr
  unfold sweepEntry
  extract_lets u code useR toHome fin
  rw [show useR = false from hr, show toHome = false from hto]
  refine (if_neg (by simp)).trans ((if_pos rfl).trans ((if_pos hu).trans ?_))
  exact if_neg (ne_true_of_eq_false hto)

theorem sweepEntry_member {s : State} {e : Entry} {g : Group} {c : Chunk} (hu : entryHop e ≠ 0) (hr : codeOfField e.code = .none) :
    sweepEntry s e g c = .next (sendUp (freeChunk s e g (reduceTile e c none)) e g (reduceTile e c none).1) := by
  unfold sweepEntry
  extract_lets u code useR toHome fin
  rw [show useR = false by simp [useR, code, hr], show toHome = false by simp [toHome, u, hu]]
  refine (if_neg (by simp)).trans ((if_pos rfl).trans ((if_neg hu).trans ?_))
  rfl

theorem sweepEntry_coded {s s1 : State} {e : Entry} {g : Group} {c : Chunk} {o : ResObj} (hu : entryHop e ≠ 0)
    (hcode : codeOfField e.code ≠ .none) (hpred : predAlive s e.die g = false) (hbefore : compressBefore s e = false)
    (hres : residAt s e.die e.root e.key (.fabric e.seq) e.resid [residKey e] true = .ok s1 o) :
    sweepEntry s e g c =
      .next (sendUp (putResid (freeChunk (residTile s1 o (residKey e)).1 e g (reduceTile e c (some (residTile s1 o (residKey e)).2)))
          (residPut o (residKey e) (encodeTile (codeOfField e.code) (reduceTile e c (some (residTile s1 o (residKey e)).2)).1).2.1)) e g
        (reduceTile e c (some (residTile s1 o (residKey e)).2)).1) := by
  unfold sweepEntry
  extract_lets u code useR toHome fin
  rw [show useR = true by simp [useR, code, u, hu, hcode], show toHome = false by simp [toHome, u, hu], hpred, hbefore, hres]
  refine (if_neg (by simp)).trans ((if_neg (by simp)).trans ((if_neg hu).trans ?_))
  rfl

end Sys2Proof.Machine

namespace Sys2Proof.Machine
open Sys2Proof

/-! ### Drains whose bound is out (R359, R360) -/

/-- Every chunk and send of the drain's handle is dropped or failed (R359). -/
def failOpen (s : State) (x : Drain) : State :=
  { s with fab := { s.fab with
    chunks := s.fab.chunks.filter (fun c => !(c.2.die == x.die && c.2.handle == x.handle))
    sends := s.fab.sends.map (fun y => if y.2.die = x.die ∧ y.2.handle = x.handle then (y.1, { y.2 with failed := true }) else y)
    pkts := s.fab.pkts.filter (fun p => !(p.2.srcDie == x.die && p.2.srcPkg == Config.package && p.2.handle == x.handle)) } }

/-- The failed send of a drained handle holds the drain back no more. -/
theorem failOpen_sends_any (x : Drain) (l : List (Nat × Send)) :
    (l.map (fun y => if y.2.die = x.die ∧ y.2.handle = x.handle then (y.1, { y.2 with failed := true }) else y)).any
      (fun y => y.2.die == x.die && y.2.handle == x.handle && !y.2.failed) = false := by
  rw [List.any_eq_false]
  intro y hy
  obtain ⟨z, -, rfl⟩ := List.mem_map.1 hy
  split
  · simp
  · next hno => simpa using fun h1 h2 => absurd ⟨h1, h2⟩ hno

theorem drainBusy_failOpen {s : State} {x : Drain} (h : ∀ y ∈ s.fab.entries, ¬ (y.2.die = x.die ∧ y.2.handle = x.handle)) :
    drainBusy (failOpen s x) x = false := by
  have hentries : s.fab.entries.any (fun e => e.2.die == x.die && e.2.handle == x.handle) = false := by
    rw [List.any_eq_false]
    exact fun y hy => by simpa using h y hy
  have hchunks : (s.fab.chunks.filter (fun c => !(c.2.die == x.die && c.2.handle == x.handle))).any
      (fun c => c.2.die == x.die && c.2.handle == x.handle) = false := by
    rw [List.any_eq_false]
    exact fun c hc => by simpa [imp_iff_not_or] using (List.mem_filter.1 hc).2
  unfold drainBusy
  rw [show (failOpen s x).fab.entries = s.fab.entries from rfl, hentries]
  refine (Bool.or_eq_false_iff).2 ⟨(Bool.or_eq_false_iff).2 ⟨rfl, hchunks⟩, failOpen_sends_any x s.fab.sends⟩

theorem execDrainBoundExpire_quiet {s : State} {x : Drain} (hx : mapFind s.fab.drains s.cur.x.id = some x) (hst : x.st = 0)
    (hdue : x.due ≤ s.ticks) (h : ∀ y ∈ s.fab.entries, ¬ (y.2.die = x.die ∧ y.2.handle = x.handle)) :
    exec .drainBoundExpire s = .next (endDrain (failOpen s x) s.cur.x.id x 2) := by
  have hnone : s.fab.entries.filter (fun e => e.2.die == x.die && e.2.handle == x.handle) = [] :=
    List.filter_eq_nil_iff.2 fun y hy => by simpa using h y hy
  rw [show exec .drainBoundExpire s = execDrainBoundExpire s from rfl, execDrainBoundExpire, hx]
  refine (if_neg (by rw [hst]; omega)).trans ?_
  rw [hnone]
  rfl

/-! ### Waiting instructions and home reads (R371, R375, R378, R379) -/

theorem fpTimeout_due {s : State} {i : Instr} {t0 lim xd : Nat}
    (hwait : (fpOf s (4 * s.cur.x.die + s.cur.x.a)).wait = .since t0 lim xd) (hlim : lim ≠ 0) (hdue : t0 + lim ≤ s.cycle)
    (hrun : (fpOf s (4 * s.cur.x.die + s.cur.x.a)).running = true) (hclk : clocked s = true)
    (hrow : fpRow s (fpOf s (4 * s.cur.x.die + s.cur.x.a)) = some i) :
    fpTimeout s i = .next (fpReported s (4 * s.cur.x.die + s.cur.x.a) (fpOf s (4 * s.cur.x.die + s.cur.x.a)) (BitVec.ofNat 5 xd) 2 0) := by
  unfold fpTimeout
  extract_lets k f
  rw [show f.wait = .since t0 lim xd from hwait]
  refine (if_neg ?_).trans (fpDone_eq _ _ _ _ _ _)
  rw [show fpRow s f = some i from hrow, show f.running = true from hrun, hclk]
  simp only [not_or]
  exact ⟨hlim, by omega, by simp, by simp, by simp⟩

theorem execWfetchServe_home {s s1 : State} {x : WFetch} {v : Served} (hx : mapFind s.fab.fetches s.cur.x.id = some x)
    (hans : x.answered = none) (hpkg : x.pkg = Config.package) (hto : routeWaits s x.srcDie x.die = false)
    (hback : routeWaits s x.die x.srcDie = false) (hserve : serveHome s s.cur.x.id x = (s1, some v)) :
    exec .wfetchServe s = .next (fetchAnswer s1 s.cur.x.id x v) := by
  rw [show exec .wfetchServe s = execWfetchServe s from rfl, execWfetchServe]
  dsimp only
  rw [hx]
  refine (if_neg ?_).trans ((if_pos hpkg).trans ?_)
  · simp [hans, hto, hback]
  · rw [hserve]

/-- Settles O50, by the fold of the children's tiles element by element and by the branch that each engine step takes. -/
theorem fabricEngines : Obligations.FabricEngines := by
  unfold Obligations.FabricEngines
  refine ⟨?tile, ?sweep, ?drain, ?served⟩
  case tile =>
    intro e c resid h code sent at_ elem
    exact reduceTile_elements e c resid h
  case sweep =>
    intro s s1 i j e g c o hid hentry hclk hout hop hswept hgot hchunk hready hgroup free code up
    subst hid
    rw [execChunkSweep_sweeps hentry hclk hout hop hswept hgot hchunk hready hgroup]
    refine ⟨fun hu hr hhome => ?_, fun hu hcode => sweepEntry_member hu hcode, fun hu hcode hpred hbefore hres hseq => ?_⟩
    · have hun : usesResid e = false := by
        rcases hr with h | h
        · simp [usesResid, show codeOfField e.code = .none from h]
        · simp [usesResid, hu, h]
      rw [sweepEntry_root hu hun hhome]
      refine ⟨fun h0 => ?_, fun h2 => ?_⟩
      · rw [rootSweep, if_neg (by rw [h0]; decide)]
        rfl
      · rw [rootSweep, if_pos h2]
        rfl
    · exact sweepEntry_coded hu hcode hpred hbefore (hseq ▸ hres)
  case drain =>
    intro s i x hid
    subst hid
    refine ⟨fun hx hst hbusy => ?_, fun hx hst => ?_, fun hx hst hdue hnone => ?_, ?_⟩
    · rw [show exec .drainEnd s = execDrainEnd s from rfl, execDrainEnd, hx]
      exact (if_neg (by rw [hst]; decide)).trans (if_neg (by simp [hst, hbusy]))
    · rw [show exec .drainEnd s = execDrainEnd s from rfl, execDrainEnd, hx]
      exact if_pos hst
    · exact ⟨failOpen s x, execDrainBoundExpire_quiet hx hst hdue hnone, rfl, drainBusy_failOpen hnone⟩
    · intro a v s1
      rw [show exec .versionNotice s = execVersionNotice s from rfl]
      exact (apply_ite Host.Outcome.next _ _ _).symm
  case served =>
    intro s s1 id x v
    refine ⟨?_, fun hid hx hans hpkg hto hback hserve => ?_⟩
    · intro t0 lim xd k f hwait hlim hdue hrun hclk p hp hrow
      rcases List.mem_pair.1 hp with rfl | rfl
      · exact fpTimeout_due hwait hlim hdue hrun hclk hrow
      · exact fpTimeout_due hwait hlim hdue hrun hclk hrow
    · subst hid
      exact execWfetchServe_home hx hans hpkg hto hback hserve

end Sys2Proof.Machine

namespace Sys2Proof.Machine
open Sys2Proof

/-! ### Reading code leaves what is resident as it was -/

section
variable {s₀ s t : State}

theorem RosterKept.startWalk {die root vpn : Nat} {n : Need} (h : RosterKept s₀ s) : RosterKept s₀ (startWalk s die root vpn n) := by
  unfold Machine.startWalk
  split
  · exact RosterKept.ite h h
  · exact h

theorem RosterKept.xlateWait {sp : Span} {l : Launch} {va kind : Nat} (h : xlate s sp l va kind = .wait t) : RosterKept s t := by
  unfold xlate translate at h
  dsimp only at h
  split at h
  · cases h
  · split at h
    · cases h
      exact .refl s
    · split at h
      · split at h
        · cases h
          exact (RosterKept.refl s).startWalk
        · split at h <;> cases h
      · cases h
        exact (RosterKept.refl s).startWalk

theorem RosterKept.parcelWait {sp : Span} {l : Launch} {a : Nat} (h : fetchParcel s sp l a = .wait t) : RosterKept s t := by
  unfold fetchParcel at h
  split at h
  · cases h
  · split at h
    · cases h
    · next t' hx =>
      cases h
      exact RosterKept.xlateWait hx
    · cases h

theorem RosterKept.makeRoom {g line : Nat} (h : RosterKept s₀ s) : RosterKept s₀ (makeRoom s g line).1 := by
  unfold Machine.makeRoom
  dsimp only
  split
  · exact h
  · split
    · exact h
    · exact h.dropCopy

theorem RosterKept.touchL1 {g line : Nat} (h : RosterKept s₀ s) : RosterKept s₀ (touchL1 s g line) := by
  unfold Machine.touchL1
  split <;> exact h

theorem RosterKept.l1Fill {g line va : Nat} {data : Line} {marks : List (BitVec 128 × FenceMark)} (h : RosterKept s₀ s) :
    RosterKept s₀ (l1Fill s g line data va marks) := by
  unfold Machine.l1Fill
  dsimp only
  have hroom : RosterKept s₀ (Machine.makeRoom (nextUse s) g line).1 := RosterKept.makeRoom (s := nextUse s) h
  split
  · exact h
  · split
    · next ht =>
      rw [ht] at hroom
      exact hroom
    · next ht =>
      rw [ht] at hroom
      exact hroom

theorem RosterKept.useLine {g pa va n : Nat} (h : RosterKept s₀ s) : RosterKept s₀ (useLine s g pa va n) := by
  unfold Machine.useLine
  dsimp only
  split
  · exact h.touchL1
  · exact RosterKept.ite h h.homeTouch.l1Fill

end

/-! ### With a block queued the scalar stream only runs ahead (R39) -/

/-- The outcome leaves span u as `sp` is, but for what has run ahead. -/
def RunsAhead (u : Nat) (sp : Span) (r : Res) : Prop := ∀ t, r = .next t → ∃ a, spanOf t u = some { sp with ahead := a }

section
variable {s : State} {u : Nat} {sp x : Span} {l : Launch} {w : Word32}

/-- A turn that comes to such an outcome, and to no instruction. -/
def FetchesAhead (u : Nat) (sp : Span) (f : Fetched) : Prop := ∃ r, f = .out r ∧ RunsAhead u sp r

theorem FetchesAhead.idle : FetchesAhead u sp (.out (.fault .notEnabled)) := ⟨_, rfl, fun _ h => nomatch h⟩

theorem FetchesAhead.ite {c : Prop} [Decidable c] {f g : Fetched} (h : FetchesAhead u sp f) (k : FetchesAhead u sp g) :
    FetchesAhead u sp (if c then f else g) := by
  split
  · exact h
  · exact k

theorem goAhead_ahead {p : List Ahead} (t : State) (a : Ahead) : FetchesAhead u sp (goAhead t u { sp with ahead := p } a) :=
  ⟨_, rfl, fun _ h => ⟨p ++ [a], by cases h; exact spanOf_putSpan_same _ _ _⟩⟩

theorem issueAhead_ahead {p : List Ahead} : FetchesAhead u sp (issueAhead s u { sp with ahead := p } x l w) := by
  unfold issueAhead
  refine .ite .idle ?_
  dsimp only
  split
  · exact .idle
  · refine .ite .idle ?_
    split
    · exact .ite (goAhead_ahead _ _) (goAhead_ahead _ _)
    · exact goAhead_ahead _ _
  · split
    · exact .ite .idle (goAhead_ahead _ _)
    · exact .idle
  · split
    · exact .ite .idle (goAhead_ahead _ _)
    · exact .idle
  · refine .ite .idle ?_
    split
    · exact .ite (goAhead_ahead _ _) .idle
    · exact .idle

theorem fetchAhead_ahead (h : spanOf s u = some sp) : FetchesAhead u sp (fetchAhead s u) := by
  unfold fetchAhead
  rw [h]
  dsimp only
  split
  · exact .idle
  · refine .ite .idle ?_
    split
    · next t ht =>
      refine ⟨_, rfl, fun _ hn => ⟨sp.ahead, ?_⟩⟩
      cases hn
      exact (congrArg (mapFind · u) (RosterKept.parcelWait ht).spans).trans h
    · exact .idle
    · exact issueAhead_ahead

theorem aheadOnly_of_queue (h : spanOf s u = some sp) (hq : sp.queue ≠ []) : aheadOnly s u = true := by
  cases hx : sp.queue with
  | nil => exact absurd hx hq
  | cons b q => simp [aheadOnly, h, hx]

theorem scalarRun_ahead (h : spanOf s u = some sp) (hq : sp.queue ≠ []) : RunsAhead u sp (scalarRun s u) := by
  obtain ⟨r, hr, hahead⟩ := fetchAhead_ahead h
  unfold scalarRun
  rw [if_pos (aheadOnly_of_queue h hq), hr]
  exact hahead

theorem scalarTurn_eq (h : spanOf s u = some sp) : scalarTurn s u = scalarIssues s u sp (scalarRun s u) := by
  unfold scalarTurn scalarIssues
  rw [h]
  cases scalarRun s u with
  | next t => simp
  | fault f => rfl
  | refused f => rfl

theorem scalarIssues_ahead {r : Res} (h : RunsAhead u sp r) : RunsAhead u sp (scalarIssues s u sp r) := by
  cases r with
  | next t =>
    unfold scalarIssues
    dsimp only
    split
    · exact h
    · exact fun t' ht => by cases ht; exact h t rfl
  | fault f => exact h
  | refused f => exact h

/-- No unit of a span is done where it has only run ahead, so that no undo entry is made. -/
theorem afterTurn_ahead {t : State} {a : List Ahead} (h : spanOf s u = some sp) (ht : spanOf t u = some { sp with ahead := a }) :
    afterTurn s (.scalar u) (.next t) = .next t := by
  have hdone : unitDone s t u = false := by simp [unitDone, h, ht]
  simp [afterTurn, turnSpans, hdone]

theorem runTurn_ahead (h : spanOf s u = some sp) (hq : sp.queue ≠ []) : RunsAhead u sp (runTurn s (.scalar u)) := by
  cases hfree : scalarFree s u with
  | false =>
    rw [runTurn_scalarTaken hfree]
    exact fun _ hn => nomatch hn
  | true =>
    have hturn : RunsAhead u sp (scalarTurn s u) := by
      rw [scalarTurn_eq h]
      exact scalarIssues_ahead (scalarRun_ahead h hq)
    rw [runTurn_scalar hfree]
    cases hr : scalarTurn s u with
    | next t =>
      obtain ⟨a, ha⟩ := hturn t hr
      rw [afterTurn_ahead h ha]
      exact fun _ hn => ⟨a, by cases hn; exact ha⟩
    | fault f => exact fun _ hn => nomatch hn
    | refused f => exact fun _ hn => nomatch hn

end

end Sys2Proof.Machine

namespace Sys2Proof.Machine
open Sys2Proof

/-! ### The S-word at the pc (R29, R39, R137, R384) -/

section
variable {s : State} {u : Nat} {sp : Span} {l : Launch}

theorem scalarRun_fetches (h : spanOf s u = some sp) (hq : sp.queue = []) : scalarRun s u = runFetched (fetchScalar s u) := by
  have hno : aheadOnly s u = false := by simp [aheadOnly, h, hq]
  unfold scalarRun
  rw [hno]
  rfl

/-- A span that may issue reads its record first (R325). -/
theorem fetchScalar_bad (h : spanOf s u = some sp) (hl : launchOf s sp = some l) (hmay : mayIssue s sp l = true) (hq : sp.queue = [])
    (hbad : sp.badRec = true) : fetchScalar s u = .out (recordBad s u sp) := by
  unfold fetchScalar
  rw [h]
  dsimp only
  rw [hl]
  exact (if_neg (by simp [hmay, hq])).trans (if_pos hbad)

/-- With the code at hand, the S-word runs. -/
theorem fetchScalar_word (h : spanOf s u = some sp) (hl : launchOf s sp = some l) (hmay : mayIssue s sp l = true) (hq : sp.queue = [])
    (hbad : sp.badRec = false) (hstale : aheadStale sp = false) (hstep : sp.step ≠ .due) {w : Word32} {pa : Nat}
    (hcode : scalarCode { s with cur := { uid := u } } sp l = .word w pa) :
    fetchScalar s u = .run (decodeS w) { s with cur := { uid := u, word := w.zeroExtend 96 } } := by
  unfold fetchScalar
  rw [h]
  dsimp only
  rw [hl]
  refine (if_neg (by simp [hmay, hq])).trans ((if_neg (by simp [hbad])).trans ((if_neg (by simp [hstale])).trans ?_))
  rw [hcode]
  exact if_neg hstep

end

/-- Code below the windows is read through the fetch translation. -/
theorem fetchParcel_mapped {s : State} {sp : Span} {l : Launch} {a pa : Nat} {b : Bool} (ha : a < quadLo)
    (hx : xlate s sp l a 2 = .ok pa b) : fetchParcel s sp l a = .word (BitVec.ofNat 32 (coreRead s sp.core pa 4)) pa := by
  have hquad : quadLo ≤ localLo := by decide
  have htop : quadLo ≤ vaTop := by decide
  have hlow : ¬ (vaTop ≤ a ∨ inLocal a = true ∨ inQuad a = true) := by
    simp only [inLocal, inQuad, Bool.and_eq_true, decide_eq_true_eq]
    omega
  unfold fetchParcel
  rw [if_neg hlow, hx]

theorem scalarCode_mapped {s : State} {sp : Span} {l : Launch} {pa : Nat} {b : Bool} (hahead : sp.ahead = [])
    (ha : sp.spc.toNat < quadLo) (hx : xlate s sp l sp.spc.toNat 2 = .ok pa b) :
    scalarCode s sp l = .word (BitVec.ofNat 32 (coreRead s sp.core pa 4)) pa := by
  unfold scalarCode
  rw [hahead]
  exact fetchParcel_mapped ha hx

theorem scalarCode_ahead {s : State} {sp : Span} {l : Launch} {a : Ahead} {more : List Ahead} (h : sp.ahead = a :: more) :
    scalarCode s sp l = .word a.word noPa := by
  rw [scalarCode, h]

/-- An S-word that has run ahead takes no issue of the bay at its commit. -/
theorem scalarIssues_ranAhead {s : State} {u : Nat} {sp : Span} (r : Res) (hq : sp.queue = []) (ha : sp.ahead ≠ []) :
    scalarIssues s u sp r = r := by
  have hissued : scalarIssued sp = true := by
    cases hx : sp.ahead with
    | nil => exact absurd hx ha
    | cons a more => simp [scalarIssued, hq, hx]
  cases r with
  | next t => exact if_pos (.inl hissued)
  | fault f => rfl
  | refused f => rfl

/-! ### The L-word of the head block's pass (R47, R137, R144, R384) -/

theorem skipEmpty_here {k : Nat} {sp : Span} {b : Block} {q : List Block} (hq : sp.queue = b :: q)
    (hm : b.planed = true → passMask sp b ≠ 0) : skipEmpty k sp = sp := by
  cases k with
  | zero => rfl
  | succ k =>
    rw [skipEmpty, hq]
    refine if_neg fun h => ?_
    obtain ⟨hp, hz⟩ := (Bool.and_eq_true _ _).mp h
    exact hm hp (eq_of_beq hz)

/-- The pass that begins: who acts, under which mask, in which plane. -/
def passCur (u : Nat) (sp : Span) (b : Block) : Cur :=
  { uid := u, mask := passMask sp b, plane := b.plane, planed := b.planed, lane := true }

/-- The package in which the L-word of the head block is read. -/
def passState (s : State) (u : Nat) (sp : Span) (b : Block) : State := { putSpan s u sp with cur := passCur u sp b }

/-- The head block once the L-word of its pass has been read. -/
def keptBlock (sp : Span) (b : Block) (w : LWord) : Block :=
  { b with picked := mapPut b.picked b.plane w, reads := if b.planed && !b.began then some sp.s else b.reads }

/-- The package in which the pass runs. -/
def passRuns (s2 : State) (u : Nat) (sp : Span) (b : Block) (more : List Block) (w : LWord) : State :=
  putSpan { s2 with cur := { passCur u sp b with word := w } } u { sp with queue := keptBlock sp b w :: more }

section
variable {s s2 : State} {u : Nat} {sp : Span} {l : Launch} {b : Block} {more : List Block} {w : LWord}

theorem fetchLane_bad (h : spanOf s u = some sp) (hl : launchOf s sp = some l) (hmay : mayIssue s sp l = true) (hq : sp.queue ≠ [])
    (hbad : sp.badRec = true) : fetchLane s u = .out (recordBad s u sp) := by
  unfold fetchLane
  rw [h]
  dsimp only
  rw [hl]
  exact (if_neg (by simp [hmay, hq])).trans (if_pos hbad)

theorem fetchLane_word (h : spanOf s u = some sp) (hl : launchOf s sp = some l) (hmay : mayIssue s sp l = true)
    (hq : sp.queue = b :: more) (hbad : sp.badRec = false) (hstep : sp.step ≠ .due) (hm : b.planed = true → passMask sp b ≠ 0)
    (hcode : laneCode (passState s u sp b) sp l b = .word s2 w) :
    fetchLane s u = .run (decodeL w) (passRuns s2 u sp b more w) := by
  have hkeep : keepWord sp w = { sp with queue := keptBlock sp b w :: more } := by
    rw [keepWord, hq]
    rfl
  unfold fetchLane
  rw [h]
  dsimp only
  rw [hl]
  refine (if_neg (by simp [hmay, hq])).trans ((if_neg (by simp [hbad])).trans ?_)
  rw [skipEmpty_here hq hm, hq]
  dsimp only
  unfold passState passCur at hcode
  rw [hcode]
  dsimp only
  rw [hkeep]
  exact if_neg hstep

theorem laneCode_picked (h : mapFind b.picked b.plane = some w) : laneCode s sp l b = .word s w := by
  rw [laneCode, h]

theorem pickParcel_same {old : Option Word32} {new : Word32} (h : old = none ∨ old = some new) : pickParcel s old new = (s, new) := by
  rcases h with rfl | rfl
  · rfl
  · exact if_pos rfl

/-- A word made of three parcels has them as its thirds. -/
theorem parcels_eq (c1 c2 c3 : Word32) :
    (c3 ++ c2 ++ c1 : LWord).extractLsb' 0 32 = c1 ∧ (c3 ++ c2 ++ c1 : LWord).extractLsb' 32 32 = c2 ∧
      (c3 ++ c2 ++ c1 : LWord).extractLsb' 64 32 = c3 :=
  ⟨extract_low _ _, extract_skip _ _ _ _ _ (extract_low _ _), extract_skip _ _ _ _ _ (extract_skip _ _ _ _ _ (extract_all _))⟩

theorem map_parcel {old : Option LWord} {c : LWord} {o : Nat} {p : Word32} (hold : old = none ∨ old = some c)
    (hp : c.extractLsb' o 32 = p) : old.map (fun w => w.extractLsb' o 32) = none ∨ old.map (fun w => w.extractLsb' o 32) = some p := by
  rcases hold with rfl | rfl
  · exact .inl rfl
  · exact .inr (congrArg some hp)

/-- Where code still holds what it held at the enqueue, its three parcels are the L-word, parcel 2 lowest (R47, R384). -/
theorem laneCode_read {a pa pb pc : Nat} {c1 c2 c3 : Word32} (hnone : mapFind b.picked b.plane = none)
    (ha : wordAddr l (wordOff b b.pos b.plane) = a) (h1 : fetchParcel s sp l a = .word c1 pa)
    (h2 : fetchParcel s sp l (a + 4) = .word c2 pb) (h3 : fetchParcel s sp l (a + 8) = .word c3 pc)
    (hold : (b.code[b.pos * planesOf b + b.plane]?).getD none = none ∨
      (b.code[b.pos * planesOf b + b.plane]?).getD none = some (c3 ++ c2 ++ c1)) :
    laneCode s sp l b =
      .word (useLine (useLine (useLine s sp.core pa a 4) sp.core pb (a + 4) 4) sp.core pc (a + 8) 4) (c3 ++ c2 ++ c1) := by
  obtain ⟨e1, e2, e3⟩ := parcels_eq c1 c2 c3
  unfold laneCode
  rw [hnone]
  dsimp only
  unfold readLane
  dsimp only
  rw [ha, h1, h2, h3]
  dsimp only
  rw [pickParcel_same (map_parcel hold e1), pickParcel_same (map_parcel hold e2), pickParcel_same (map_parcel hold e3)]

theorem spanOf_passRuns : spanOf (passRuns s2 u sp b more w) u = some { sp with queue := keptBlock sp b w :: more } :=
  spanOf_putSpan_same _ _ _

theorem launchOf_passRuns (hk : RosterKept (passState s u sp b) s2) (hl : launchOf s sp = some l) :
    launchOf (passRuns s2 u sp b more w) { sp with queue := keptBlock sp b w :: more } = some l := by
  rw [← hl]
  unfold launchOf deckOf
  rw [show (passRuns s2 u sp b more w).decks = s.decks from hk.decks, show (passRuns s2 u sp b more w).launches = s.launches from hk.launches]

theorem runPass_passRuns (i : Instr) (hsh : sp.shadow = none) :
    runPass i (passRuns s2 u sp b more w) u = exec i (passRuns s2 u sp b more w) :=
  runPass_alone i spanOf_passRuns hsh

/-- The later planes of a position do not depend on what has been read of its block. -/
theorem laterPlanes_kept : laterPlanes { sp with queue := keptBlock sp b w :: more } (keptBlock sp b w) = laterPlanes sp b := rfl

theorem laneTurn_word (hf : fetchLane s u = .run (decodeL w) (passRuns s2 u sp b more w))
    (hk : RosterKept (passState s u sp b) s2) (hl : launchOf s sp = some l) :
    laneTurn s u = laneIssues (passRuns s2 u sp b more w) u sp l w (firstPass (passRuns s2 u sp b more w) u (decodeL w)) := by
  unfold laneTurn laneIssues
  rw [hf]
  dsimp only
  rw [spanOf_passRuns]
  dsimp only
  rw [launchOf_passRuns hk hl]
  dsimp only
  simp only [Bool.and_eq_true, beq_iff_eq]
  rfl

/-- A pass that is not its position's first, or has no later one, runs (R45). -/
theorem firstPass_runs (hk : RosterKept (passState s u sp b) s2) (hl : launchOf s sp = some l) (hsh : sp.shadow = none) (i : Instr)
    (h : b.planed = false ∨ b.began = true ∨ sp.pend ≠ .none ∨ laterPlanes sp b = []) :
    firstPass (passRuns s2 u sp b more w) u i = exec i (passRuns s2 u sp b more w) := by
  unfold firstPass
  rw [spanOf_passRuns]
  dsimp only
  rw [launchOf_passRuns hk hl]
  dsimp only
  split
  · next hfirst =>
    have hlater : laterPlanes sp b = [] := by
      rcases h with h | h | h | h
      · simp [keptBlock, h] at hfirst
      · simp [keptBlock, h] at hfirst
      · simp [keptBlock, h] at hfirst
      · exact h
    rw [laterPlanes_kept, hlater]
    exact runPass_passRuns i hsh
  · exact runPass_passRuns i hsh

/-- The first pass of a position stands back where a later one cannot run (R45). -/
theorem firstPass_stands (hk : RosterKept (passState s u sp b) s2) (hl : launchOf s sp = some l) (hplaned : b.planed = true)
    (hbegan : b.began = false) (hpend : sp.pend = .none) :
    firstPass (passRuns s2 u sp b more w) u (decodeL w) =
      firstOutcome u w (testLater (passRuns s2 u sp b more w) u l (laterPlanes sp b)) := by
  unfold firstPass firstOutcome
  rw [spanOf_passRuns]
  dsimp only
  rw [launchOf_passRuns hk hl]
  dsimp only
  rw [laterPlanes_kept]
  refine (if_pos (by simp [keptBlock, hplaned, hbegan, hpend])).trans ?_
  cases (testLater (passRuns s2 u sp b more w) u l (laterPlanes sp b)).2 <;> rfl

end

/-! ### The Trelix word at the pc (R362, R364) -/

theorem fetchFp_word {s : State} {die i pa : Nat} {b : Bool} (hi : i < 4) (hdie : die < 16) (hclk : clocked s = true)
    (hfail : s.mg.failedDies.contains die = false) (hrun : (fpOf s (4 * die + i)).running = true)
    (hhalt : (fpOf s (4 * die + i)).halting = none) (hstop : (fpOf s (4 * die + i)).stop = none ∨ (fpOf s (4 * die + i)).busy = true)
    (hx : fpXlate s (4 * die + i) (fpOf s (4 * die + i)) (fpOf s (4 * die + i)).pc 2 = .ok pa b)
    (hwait : dieWaits s die (fpOf s (4 * die + i)).pc (pa / 128) = false) (hbad : badLine s (pa / 128) = false) :
    fetchFp s die i = .run (decodeT (BitVec.ofNat 32 (homeRead s pa 4)))
      { homeTouch (putFp s (4 * die + i) { fpOf s (4 * die + i) with busy := true }) (pa / 128) with
        cur := { fp := some (4 * die + i), word := (BitVec.ofNat 32 (homeRead s pa 4) : Word32).zeroExtend 96 } } := by
  have hruns : ¬ ((fpOf s (4 * die + i)).stop.isSome = true ∧ (!(fpOf s (4 * die + i)).busy) = true) := by
    rcases hstop with h | h <;> simp [h]
  have hable : ¬ (4 ≤ i ∨ 16 ≤ die ∨ (!clocked s) = true ∨ s.mg.failedDies.contains die = true ∨
      (!(fpOf s (4 * die + i)).running) = true) := by
    rw [hclk, hfail, hrun]
    simp only [not_or]
    exact ⟨by omega, by omega, by simp, by simp, by simp⟩
  unfold fetchFp
  dsimp only
  refine (if_neg hable).trans ?_
  rw [hhalt]
  refine (if_neg hruns).trans ?_
  rw [hx]
  dsimp only
  exact (if_neg (by simp [hwait])).trans (if_neg (by simp [hbad]))

/-! ### What is made after a turn (R208) -/

theorem logUndo_notDebug {s t : State} {u : Nat} (h : ∀ sp l, spanOf s u = some sp → launchOf s sp = some l → l.debug = false) :
    logUndo s t u = t := by
  unfold logUndo
  split
  · next a b ha _ =>
    split
    · next l hl => exact if_neg (by simp [h a l ha hl])
    · rfl
  · rfl

/-- Outside debug mode no undo entry is made. -/
theorem afterTurn_notDebug {s : State} {t : Turn}
    (h : ∀ u ∈ turnSpans s t, ∀ sp l, spanOf s u = some sp → launchOf s sp = some l → l.debug = false) (r : Res) :
    afterTurn s t r = r := by
  cases r with
  | next s' =>
    unfold afterTurn
    refine congrArg Host.Outcome.next (List.foldlRecOn (motive := fun x : State => x = s') _ _ rfl fun x hx u hu => ?_)
    rw [logUndo_notDebug (h u hu), hx, ite_self]
  | fault f => rfl
  | refused f => rfl

end Sys2Proof.Machine

namespace Sys2Proof.Machine
open Sys2Proof

/-! ### A turn of a stream runs the decoded word -/

section
variable {s : State} {u : Nat} {sp : Span} {l : Launch}

/-- A scalar turn whose S-word is fetched runs it (R29). -/
theorem runTurn_scalarWord {i : Instr} {t : State} (h : spanOf s u = some sp) (hq : sp.queue = []) (hfree : scalarFree s u = true)
    (hf : fetchScalar s u = .run i t) :
    runTurn s (.scalar u) = afterTurn s (.scalar u) (scalarIssues s u sp (exec i t)) := by
  rw [runTurn_scalar hfree, scalarTurn_eq h, scalarRun_fetches h hq, hf]
  rfl

theorem runTurn_scalarBad (h : spanOf s u = some sp) (hl : launchOf s sp = some l) (hmay : mayIssue s sp l = true)
    (hq : sp.queue = []) (hfree : scalarFree s u = true) (hbad : sp.badRec = true) :
    runTurn s (.scalar u) = afterTurn s (.scalar u) (scalarIssues s u sp (recordBad s u sp)) := by
  rw [runTurn_scalar hfree, scalarTurn_eq h, scalarRun_fetches h hq, fetchScalar_bad h hl hmay hq hbad]
  rfl

theorem runTurn_laneBad (h : spanOf s u = some sp) (hl : launchOf s sp = some l) (hmay : mayIssue s sp l = true)
    (hq : sp.queue ≠ []) (hfree : laneFree s u = true) (hbad : sp.badRec = true) :
    runTurn s (.lane u) = afterTurn s (.lane u) (recordBad s u sp) := by
  rw [runTurn_lane hfree, laneTurn, fetchLane_bad h hl hmay hq hbad]

end

section
variable {s s2 : State} {u : Nat} {sp : Span} {l : Launch} {b : Block} {more : List Block} {w : LWord}
variable (hfree : laneFree s u = true) (hf : fetchLane s u = .run (decodeL w) (passRuns s2 u sp b more w))
variable (hk : RosterKept (passState s u sp b) s2) (hl : launchOf s sp = some l)
include hfree hf hk hl

/-- A lane turn whose L-word is there runs its pass. -/
theorem runTurn_pass (hsh : sp.shadow = none) (h : b.planed = false ∨ b.began = true ∨ sp.pend ≠ .none ∨ laterPlanes sp b = []) :
    runTurn s (.lane u) = afterTurn s (.lane u)
      (laneIssues (passRuns s2 u sp b more w) u sp l w (exec (decodeL w) (passRuns s2 u sp b more w))) := by
  rw [runTurn_lane hfree, laneTurn_word hf hk hl, firstPass_runs hk hl hsh _ h]

/-- The first pass of a position runs once the sources of the later ones have been tested (R45). -/
theorem runTurn_firstPass (hplaned : b.planed = true) (hbegan : b.began = false) (hpend : sp.pend = .none) :
    runTurn s (.lane u) = afterTurn s (.lane u) (laneIssues (passRuns s2 u sp b more w) u sp l w
      (firstOutcome u w (testLater (passRuns s2 u sp b more w) u l (laterPlanes sp b)))) := by
  rw [runTurn_lane hfree, laneTurn_word hf hk hl, firstPass_stands hk hl hplaned hbegan hpend]

end

/-- Settles O55, turn by turn: what each fetch comes to, and what is made of the outcome of the decoded word. -/
theorem stepRunsDecoded : Obligations.StepRunsDecoded := by
  unfold Obligations.StepRunsDecoded
  intro s t rest hagenda s0
  rw [step_agenda hagenda]
  refine ⟨?scalar, ?ahead, ?lane, fun i s2 u sp h hsh => runPass_alone i h hsh, ?laneBad, ?taken, ?fp, ?event, ?time,
    fun r h => afterTurn_notDebug h r⟩
  case scalar =>
    rintro u sp l rfl h hl hmay hfree hq
    refine ⟨fun hbad => runTurn_scalarBad h hl hmay hq hfree hbad, fun hbad hstep => ⟨?_, ?_⟩⟩
    · intro pa b hahead hlow hx w
      refine runTurn_scalarWord h hq hfree (fetchScalar_word h hl hmay hq hbad ?_ hstep (scalarCode_mapped hahead hlow hx))
      simp [aheadStale, hahead]
    · intro a more hahead hpoint
      refine (runTurn_scalarWord h hq hfree (fetchScalar_word h hl hmay hq hbad ?_ hstep (scalarCode_ahead hahead))).trans ?_
      · simp [aheadStale, hahead, hpoint]
      · rw [scalarIssues_ranAhead _ hq (by simp [hahead])]
  case ahead =>
    rintro u sp s' rfl h hq hnext
    exact runTurn_ahead h hq s' hnext
  case lane =>
    rintro u sp l blk more rfl h hl hmay hq hfree hbad hstep hsh m hm cur s1 runs
    have hruns : ∀ s2 w, laneCode s1 sp l blk = .word s2 w → RosterKept s1 s2 → runs s2 w := by
      intro s2 w hcode hk
      have hf := fetchLane_word h hl hmay hq hbad hstep hm hcode
      exact ⟨runTurn_pass hfree hf hk hl hsh, runTurn_firstPass hfree hf hk hl⟩
    refine ⟨fun w hpicked => hruns s1 w (laneCode_picked hpicked) (.refl _), ?_⟩
    intro pa pb pc ba bb bc hnone a hlow h1 h2 h3 w old hold
    refine hruns _ w (laneCode_read hnone rfl (fetchParcel_mapped ?_ h1) (fetchParcel_mapped ?_ h2) (fetchParcel_mapped hlow h3) hold)
      (RosterKept.refl s1).useLine.useLine.useLine
    · exact Nat.lt_of_le_of_lt (Nat.le_add_right a 8) hlow
    · exact Nat.lt_of_le_of_lt (Nat.add_le_add_left (by decide) a) hlow
  case laneBad =>
    rintro u sp l rfl h hl hmay hq hbad hfree
    exact runTurn_laneBad h hl hmay hq hfree hbad
  case taken =>
    rintro u (⟨rfl, hno⟩ | ⟨rfl, hno⟩)
    · exact runTurn_laneTaken hno
    · exact runTurn_scalarTaken hno
  case fp =>
    rintro die i pa b rfl hi hdie hclk hfail k f hrun hhalt hstop hx hwait hbad w
    refine congrArg (afterTurn s0 (.fp die i)) ?_
    rw [turnRes, fetchFp_word hi hdie hclk hfail hrun hhalt hstop hx hwait hbad]
    rfl
  case event =>
    rintro i x rfl
    exact runTurn_event s0 i x
  case time =>
    rintro c k rfl
    exact runTurn_time s0 c k

end Sys2Proof.Machine
